-- ==== Sys2Proof/Word.lean ====
section
/-! DEFINITION. The words, bytes and sparse tables that every other file uses (R11, R12, R14). -/

namespace Sys2Proof

/-- A register word (R14: every register is 64 bits wide). -/
abbrev Word := BitVec 64

/-- A byte of a byte-oriented format (R12). -/
abbrev Byte := BitVec 8

/-- A byte string; the first byte is byte offset 0. -/
abbrev Bytes := List Byte

/-- A sparse table: pairs of key and value, keys strictly rising. -/
abbrev Map (α : Type) := List (Nat × α)

end Sys2Proof
end

