-- ==== Sys2Proof/Syntax.lean ====
section
/-! DEFINITION. The commands of the block: one constructor of `Instr` for each row of spec/opcode_table.json, and the
operands they carry. An operand holds what comes from outside the device with the event: a frame, a message, a reading,
the time since the command before it. -/

namespace Sys2Proof

/-- Where a failed check was found, after the classes of R472. -/
inductive FaultLoc where
  | frontRule (index : Nat)            -- class 0: a word of a rule (R149)
  | frontTable (word : Nat)            -- class 0: a word of another front table (R149)
  | endpointEntry (index : Nat)        -- class 0: an endpoint entry in hub SRAM (R183)
  | stashEntry (table entry : Nat)     -- class 0: a stash entry (R183)
  | queueItem (queue band place : Nat) -- class 1: the item so many places after the head of a band; it fails its check when it is
                                       -- taken (R472; log 178)
  | flowRecord (index : Nat)           -- class 2: a flow base record (R183)
  | cuckooEntry (table half index : Nat)   -- class 2: a cuckoo entry of the bank in force (R183)
  | freeWord (table index : Nat)       -- class 2: a free-list word (R183)
  | stateBlock (slot index : Nat)      -- class 3: a state block (R183)
  | modelData (slot : Nat)             -- class 4: data of the slot's active generation (R281)
  | otherHbm (address : Nat)           -- class 5
  | coreStore (cluster : Nat)          -- class 6
  | clusterBuffer (cluster : Nat)      -- class 7
  | dieLink (die : Nat)                -- class 8
  | verdictMap (partition : Nat)       -- class 14 (R298)
  | idleCuckoo (table half index : Nat)    -- class 2 or 0: a cuckoo entry of the idle bank, which a rebuild reads (R174, R182)
  | coreTree (slot cluster : Nat)      -- class 6: a word of a resident ensemble of the slot's active generation (R281)
  | correctedWord                      -- no failed check: a word that error-correcting code corrected (R471; log 160)
  | queuePointer (queue band pointer value : Nat)   -- no failed check yet: a pointer of a band, or its copy (0 WR, 1 RD, 2 and 3
                                       -- their copies), takes a value that nothing wrote (R194; log 160)
  deriving DecidableEq, Repr

/-- A check that failed once, and whether its single repetition failed too (R470); `channel` is the HBM channel of the
word, 32 × stack + channel, where it lies in HBM. -/
structure FaultEv where
  loc : FaultLoc
  lasting : Bool
  channel : Nat
  deriving DecidableEq, Repr

/-- A lane, or the alignment, of a head port or of a peer link (R89, R438). -/
inductive PortRef where
  | head (port : Nat)
  | peer (link : Nat)
  deriving DecidableEq, Repr

/-- What the NVM's monotonic counter facility holds: the root key once written, and the two counters (R393). -/
structure CounterFacility where
  rootKey : Option Bytes
  counter0 : Nat
  counter1 : Nat
  authFails : Bool      -- a command that reads the counters fails authentication twice (R393)
  raiseFails : Bool     -- a command that raises a counter fails authentication twice (R393)
  deriving DecidableEq, Repr

/-- What the board and the chip present at a cold start (R383, R391, R399). -/
structure BootInput where
  sfdpOk : Bool                      -- an SFDP response, a supported size and a counter facility are found
  sizeLog2 : Nat                     -- 27, 28 or 29
  nvm : List (Nat × Bytes)           -- contents of the NVM, in chunks: byte address and bytes
  transient : Nat                    -- digest mismatches that the re-read cleared (R385)
  facility : CounterFacility
  capture : Bytes                    -- the 16 KiB of the identity SRAM (R391, R500)
  selfTest : Nat                     -- shape descriptor bits of the units that pass step 7 (R41, R399)
  straps : Nat                       -- BMI_ADDR1:BMI_ADDR0 (R506)
  readyMs : Nat                      -- ms from power-good to readiness (R410)
  hot : List (Nat × Nat)             -- die and sensor at 115 °C or above when its comparator is re-armed (R499)
  logFirst : Bool                    -- the read-back of the first sector of the boot's logbook record is good (R478, R480)
  logSecond : Bool                   -- the read-back of the second sector, where the first is not
  deriving DecidableEq, Repr

/-- How many codewords of a frame FEC corrected and how many it could not correct (R92). -/
structure Codewords where
  corrected : Nat
  uncorrectable : Nat
  deriving DecidableEq, Repr

/-- A frame whose frame check completes at a head port, with the outcome of its codewords (R92). -/
structure FrameIn where
  port : Nat
  frame : Bytes
  fcsGood : Bool
  words : Codewords
  faults : List FaultEv
  deriving DecidableEq, Repr

/-- The TLS 1.3 handshake of a connection (R415): what the client offers, and whether its messages verify. -/
structure Handshake where
  suites : List Nat                  -- cipher suites offered, by their RFC 8446 numbers
  mlKem768 : Bool                    -- ML-KEM-768 is among the groups offered
  rawKey : Bool                      -- the client presents a raw public key of RFC 7250
  slhDsa : Bool                      -- its key is SLH-DSA-SHA2-128s or SLH-DSA-SHA2-128f
  resumes : Bool                     -- the client asks for a resumption alone, without a key exchange
  earlyData : Bool                   -- early data is offered: it is not read
  verified : Bool                    -- the signature and the Finished message of the client verify
  deriving DecidableEq, Repr

/-- An IEEE 1588-2019 Sync message, with its time-stamps (R53). -/
structure PtpSync where
  transport : Nat
  domain : Nat
  master : Nat                       -- identity of the sending port
  sequence : Nat
  twoStep : Bool
  originNs : Nat                     -- origin time in ns of the PTP timescale (one-step)
  correctionNs : Int
  deriving DecidableEq, Repr

/-- The transport and the domain on which a PTP message comes (R53). -/
structure PtpNet where
  transport : Nat
  domain : Nat
  deriving DecidableEq, Repr

/-- An IEEE 1588-2019 Announce message: the fields of the default best master clock algorithm (R53). -/
structure PtpAnnounce where
  transport : Nat
  domain : Nat
  master : Nat                       -- identity of the sending port
  priority1 : Nat
  clockClass : Nat
  accuracy : Nat
  variance : Nat
  priority2 : Nat
  grandmaster : Nat
  stepsRemoved : Nat
  deriving DecidableEq, Repr

/-- A foreign master: its latest Announce, and `now` of its Announces within the window, newest first (R53). -/
structure Foreign where
  announce : PtpAnnounce
  times : List Nat
  deriving DecidableEq, Repr

/-- The header fields of a crown request on a session (R418). -/
structure Request where
  session : Nat
  dest : Nat
  layer : Nat
  operator : Nat
  tag : Nat
  deriving DecidableEq, Repr

/-- A table index or, in the compatibility organisation, a key (R177). -/
inductive EntryRef where
  | index (i : Nat)
  | key (k : Nat)
  deriving DecidableEq, Repr

/-- A table, and what the checks of the words read for it find (R182). -/
structure TableRead where
  table : Nat
  faults : List FaultEv
  deriving DecidableEq, Repr

/-- Activity counters as they are read: domain, counter and count (R340). -/
abbrev Counts := List (Nat × Nat × Nat)

/-- The commands, in the order of spec/opcode_table.json. `dt` is the dial time in ns (before the dial is set, ns at the
dial's rate) since the command before it. -/
inductive Instr where
  | coldStart (b : BootInput)
  | coldReset
  | admissionBegin
  | start
  | warmRestart
  | warmRestartBegin
  | restartDrainEnd (transient : Nat) (digestsMatch : Bool)
  | restartReady (ms : Nat)
  | ppsEdge (dt : Nat)
  | todMessage (dt : Nat) (message : Bytes)
  | ppsTimeout (dt : Nat)
  | ptpSync (dt : Nat) (m : PtpSync)
  | ptpFollowUp (dt : Nat) (net : PtpNet) (master sequence originNs : Nat) (correctionNs : Int)
  | ptpDelayResp (dt : Nat) (net : PtpNet) (master sequence receiveNs : Nat) (correctionNs : Int)
  | ptpAnnounce (dt : Nat) (m : PtpAnnounce)
  | syncTimeout (dt : Nat)
  | announceTimeout (dt : Nat)
  | sourceChange
  | fallbackReturn (dt : Nat)
  | holdoverWarn (dt : Nat)
  | holdoverExpired (dt : Nat)
  | stepAdmissionStop
  | stepTakeTime
  | stepDone
  | dialSecondBoundary
  | beatStart
  | roundBoundary
  | shedDecision
  | budgetHeld (activity : Nat)
  | headBundle (dt port : Nat) (frame : Bytes) (fcsGood : Bool) (words : Codewords) (faults : List FaultEv)
      (also : List FrameIn)           -- the other bundles of that HCLK cycle (R29)
  | macControlFrame (port : Nat)
  | laneLockLost (dt : Nat) (where_ : PortRef) (lane : Option Nat)
  | retrainDone (dt : Nat) (where_ : PortRef)
  | retrainTimeout (dt : Nat) (where_ : PortRef)
  | batchClose (batch : Nat)
  | operationFetch (batch slot : Nat) (faults : List FaultEv)
  | operationGather (tag : Nat) (faults : List FaultEv)
  | barrier
  | operationRetire (faults : List FaultEv)
  | computeWindowEnd (batch : Nat)
  | catchupEnd
  | returnWindowStart (batch : Nat) (faults : List FaultEv)
  | verdictTransmit (dt port : Nat) (faults : List FaultEv)
  | shedBundleTimeout (dt port : Nat)
  | commit
  | discard
  | ruleSetApply
  | meterConfigApply
  | cuckooInsert (table : Nat) (faults : List FaultEv)
  | rebuildStart (table : Nat)
  | rebuildPlace (read : TableRead)
  | rebuildDone (table : Nat)
  | rakeSweepStart (table : Nat)
  | rakeVisit (table : Nat) (faults : List FaultEv)
  | tableRead (job : Nat) (faults : List FaultEv)
  | tableWrite (job : Nat) (faults : List FaultEv)
  | tableInsert (job : Nat) (faults : List FaultEv)
  | tableDelete (job : Nat) (faults : List FaultEv)
  | tableLock (job : Nat) (faults : List FaultEv)
  | tableUnlock (job : Nat) (faults : List FaultEv)
  | tableReadState (job : Nat) (faults : List FaultEv)
  | tableWriteState (job : Nat) (faults : List FaultEv)
  | queueFlush (queue : Nat)
  | queueDescriptorWrite (queue word : Nat) (value : Word)
  | itemTake (queue : Nat) (faults : List FaultEv)
  | qRelease (slot tensor : Nat) (outlier : Bool) (lo hi : Nat)
  | qPin (slot tensor : Nat) (outlier : Bool) (lo hi : Nat)
  | qBound (slot tensor : Nat) (outlier : Bool) (lo hi : Nat)
  | qCommandsApply
  | arrayQSelect (slot tensor : Nat)
  | stage (slot : Nat)
  | stageComplete (slot : Nat)
  | slotDiscard (slot : Nat)
  | activate (slot : Nat)
  | rollback (slot : Nat)
  | release (slot : Nat)
  | adaptStart (slot : Nat)
  | adaptStop (slot : Nat)
  | promote (slot : Nat)
  | swap (slot : Nat)
  | drainEnd (slot : Nat)
  | candidateForm (slot : Nat)
  | autoRelease (slot : Nat)
  | adaptUnit (slot : Nat)
  | pdSwitch
  | domainReady (domain : Nat)
  | periodEnd (hub links arrays fabric memory : Counts)   -- the domains of R27: the hub's, the links', PD6 to 9, PD10 to 13, PD14 to 17
  | telemetryRead
  | telemetryResult (entry : Nat) (first second : Option Nat)
  | droopStretchStart (cluster : Nat)
  | droopStretchEnd (cluster cycles : Nat)
  | sensorRead (die sensor : Nat) (first second : Int)
  | thermalCheck
  | trip (die sensor : Nat)
  | slackPublish
  | groupExchangeEval
  | epochClose
  | tallyClose
  | sign
  | signLate
  | tallyCollected (seq : Word)
  | tallySelect (account : Nat)
  | sessionOpen (clientKey : Bytes) (handshake : Handshake)
  | sessionClose (session : Nat)
  | badMessage (session : Nat) (header : Bytes)
  | identity (r : Request)
  | regRead (r : Request) (address count : Nat)
  | regWrite (r : Request) (pairs : List (Nat × Word))
  | dequeue (r : Request) (queue max : Nat)
  | tallyRoot (r : Request) (seq : Nat)
  | tallyLeaves (r : Request) (tree first count seq : Nat)
  | tallyProof (r : Request) (tree index seq : Nat)
  | attest (r : Request) (nonce : Bytes)
  | jobPost (r : Request) (payload : Bytes)
  | jobAbort (r : Request) (job : Nat)
  | jobStatus (r : Request) (job : Nat)
  | jobStart (queue : Nat) (faults : List FaultEv)
  | jobRetire (job : Nat)
  | ruleWrite (job : Nat)
  | ruleRead (job : Nat)
  | meterWrite (job : Nat)
  | meterRead (job : Nat)
  | counterRead (job : Nat)
  | vmapWrite (job : Nat)
  | vmapRead (job : Nat)
  | labelWrite (job : Nat)
  | modelLoad (job : Nat)
  | scheduleLoad (job : Nat)
  | capture (job : Nat)
  | captureForward (queue : Nat)
  | capturePush (queue : Nat) (sessionReady : Bool)
  | crownCtrlWrite (address : Nat) (value : Word)
  | helloSend
  | hello (dt link : Nat) (frame : Bytes)
  | helloTimeout (link : Nat)
  | peerFrameError (link : Nat) (secondFailure : Bool)
  | nak (link : Nat) (frame : Bytes)
  | credit (link : Nat) (frame : Bytes)
  | request (link : Nat) (frame : Bytes)
  | response (link : Nat) (frame : Bytes)
  | relayTimeout (message : Nat)
  | distStart
  | distData (link : Nat) (frame : Bytes)
  | distDone (link : Nat) (frame : Bytes)
  | distRxTimeout (slot : Nat)
  | distDoneTimeout
  | slack (link : Nat) (frame : Bytes)
  | eventSend (dt : Nat)
  | event (dt link : Nat) (frame : Bytes)
  | sampleStart
  | sampleStop
  | runBoundary
  | snapshot
  | counterSample
  | traceEnable (value : Word)
  | traceDrain
  | mark (value : Word)
  | hang (detector subject : Nat)
  | dumpDone (dt : Nat)
  | logbookInterval
  | writeNow
  | clearFailed
  | logbookWrite (firstGood secondGood : Bool)
  | bmiOffsetWrite (offset : Byte)
  | bmiRead (count : Nat)
  | bypass
  | idcode
  | samplePreload
  | extest
  | extestPulse
  | extestTrain
  | dialNowSecRead
  | headportPortCfgWrite (port : Nat) (value : Word)
  | registerWrite (address : Nat) (value : Word)
  | delayReq (dt : Nat)
  | blockLockGained (where_ : PortRef) (locked : Nat)
  | linkChanged (up : Bool)
  | routerAdvertisement (router : Nat) (lifetime : Nat)
  | addressResolution (v6 : Bool) (target sender : Nat) (senderMac : Nat) (isRequest : Bool)
  | echoRequest (v6 : Bool) (source : Nat) (payload : Bytes)
  | powerOnSecond
  | trstN
  deriving DecidableEq, Repr

end Sys2Proof
end

