-- ==== Sys2Proof/Decode.lean ====
section
/-! DEFINITION. The commands that words spell. The opcode table gives no row any bits: a command is an event at the device, not
an encoded instruction, so no word spells one. -/

namespace Sys2Proof

/-- The command that a word spells by the bits of the opcode table: none, since no row of the table has bits. -/
def decodeTableWord (_nbits _w : Nat) : Option Instr := none

end Sys2Proof
end

