-- ==== Sys2Proof/Machine/Bits.lean ====
section
/-! DEFINITION. Bit fields, byte order, roundings and sparse tables: the plain operations over numbers and lists that
every later file uses (R11, R12, R19, R20). -/

namespace Sys2Proof.Machine

/-! ## Bit fields (R11) -/

/-- Bits [hi:lo] of a field seen as a number (R11). -/
def fld (w hi lo : Nat) : Nat := w / 2 ^ lo % 2 ^ (hi + 1 - lo)

/-- Bit `i`. -/
def bit (w i : Nat) : Bool := w / 2 ^ i % 2 == 1

/-- 1 for true. -/
def b2n (b : Bool) : Nat := if b then 1 else 0

/-- `w` with bits [hi:lo] replaced by the low bits of `v`. -/
def putFld (w hi lo v : Nat) : Nat :=
  w / 2 ^ (hi + 1) * 2 ^ (hi + 1) + v % 2 ^ (hi + 1 - lo) * 2 ^ lo + w % 2 ^ lo

/-- A format laid out from the most significant field downwards: width and value of each field. -/
def pack (fs : List (Nat × Nat)) : Nat := fs.foldl (fun a f => a * 2 ^ f.1 + f.2 % 2 ^ f.1) 0

/-- A field read as two's complement of `n` bits. -/
def sext (n v : Nat) : Int :=
  let v := v % 2 ^ n
  if 2 * v < 2 ^ n then (v : Int) else (v : Int) - (2 ^ n : Nat)

/-- wrap(x, uN) (R20). -/
def wrapU (n : Nat) (x : Int) : Nat := (x % (2 ^ n : Nat)).toNat

/-- wrap(x, sN) (R20). -/
def wrapS (n : Nat) (x : Int) : Int := sext n (wrapU n x)

/-- sat(x, lo, hi) (R20). -/
def satI (x lo hi : Int) : Int := if x < lo then lo else if hi < x then hi else x

/-- sat to sN. -/
def satS (n : Nat) (x : Int) : Int := satI x (-(2 ^ (n - 1) : Nat)) ((2 ^ (n - 1) : Nat) - 1)

/-- sat of a count to uN. -/
def satN (n x : Nat) : Nat := min x (2 ^ n - 1)

/-! ## Roundings (R20) -/

/-- floor(a / 2^s). -/
def floorSh (a : Int) (s : Nat) : Int := a.fdiv (2 ^ s : Nat)

/-- ceil(a / 2^s). -/
def ceilSh (a : Int) (s : Nat) : Int := -((-a).fdiv (2 ^ s : Nat))

/-- trunc(a / b). -/
def truncDiv (a b : Int) : Int := a.tdiv b

/-- ceil(a / b) of naturals. -/
def ceilDiv (a b : Nat) : Nat := (a + b - 1) / b

/-- round_half_even(a / b) for b > 0. -/
def rheDiv (a : Int) (b : Nat) : Int :=
  let q := a.fdiv b
  let r := a - q * b
  if 2 * r < b then q else if (b : Int) < 2 * r then q + 1 else if q % 2 = 0 then q else q + 1

/-- round_half_even(a / 2^s). -/
def rheSh (a : Int) (s : Nat) : Int := rheDiv a (2 ^ s)

/-! ## Bytes (R12) -/

/-- The number that a byte string spells, its first byte most significant (R12). -/
def beNat (bs : Bytes) : Nat := bs.foldl (fun a b => a * 256 + b.toNat) 0

/-- The low `n` bytes of a number, most significant first (R12). -/
def natBe : Nat → Nat → Bytes
  | 0, _ => []
  | n + 1, v => BitVec.ofNat 8 (v / 256 ^ n) :: natBe n v

/-- `n` bytes from byte offset `o`; bytes beyond the end are absent. -/
def slice (bs : Bytes) (o n : Nat) : Bytes := (bs.drop o).take n

/-- The number in `n` bytes from byte offset `o`. -/
def beAt (bs : Bytes) (o n : Nat) : Nat := beNat (slice bs o n)

/-- `bs` with bytes from offset `o` replaced by `v`; zero bytes fill a gap. -/
def splice (bs : Bytes) (o : Nat) (v : Bytes) : Bytes :=
  (bs ++ List.replicate (o - bs.length) 0).take o ++ v ++ bs.drop (o + v.length)

/-- The string cut into pieces of `n` bytes; `fuel` bounds their number. -/
def chunksAux : Nat → Nat → Bytes → List Bytes
  | 0, _, _ => []
  | fuel + 1, n, bs => match bs with
    | [] => []
    | _ => bs.take n :: chunksAux fuel n (bs.drop n)

/-- The string cut into pieces of `n` bytes (n > 0). -/
def chunks (n : Nat) (bs : Bytes) : List Bytes := chunksAux bs.length n bs

/-- Zero bytes to the next multiple of `n`. -/
def padTo (n : Nat) (bs : Bytes) : Bytes := bs ++ List.replicate ((n - bs.length % n) % n) 0

/-! ## Sparse tables -/

/-- The value under key `k`. -/
def Map.get? {α : Type} : Map α → Nat → Option α
  | [], _ => none
  | (a, v) :: m, k => if a = k then some v else Map.get? m k

/-- The value under key `k`, or `d`. -/
def Map.getD {α : Type} (m : Map α) (k : Nat) (d : α) : α := (Map.get? m k).getD d

/-- The table with key `k` put at its sorted place. -/
def Map.set {α : Type} : Map α → Nat → α → Map α
  | [], k, v => [(k, v)]
  | (a, w) :: m, k, v => if k < a then (k, v) :: (a, w) :: m else if k = a then (k, v) :: m else (a, w) :: Map.set m k v

/-- The table without key `k`. -/
def Map.erase {α : Type} (m : Map α) (k : Nat) : Map α := m.filter (fun p => p.1 != k)

/-- The table with the value under `k` changed, `d` where it was absent. -/
def Map.upd {α : Type} (m : Map α) (k : Nat) (d : α) (f : α → α) : Map α := Map.set m k (f (Map.getD m k d))

/-- The table with `v` under `k`, unlisted where `v` is the value `d` that an unlisted key has. -/
def Map.put {α : Type} [DecidableEq α] (m : Map α) (k : Nat) (v d : α) : Map α :=
  if v = d then Map.erase m k else Map.set m k v

/-- Keys strictly rising. -/
def Map.sorted {α : Type} : Map α → Bool
  | [] => true
  | [_] => true
  | (a, _) :: (b, w) :: m => decide (a < b) && Map.sorted ((b, w) :: m)

/-! ## Lists -/

/-- The list with element `i` changed. -/
def modAt {α : Type} (l : List α) (i : Nat) (f : α → α) : List α :=
  match l, i with
  | [], _ => []
  | a :: l, 0 => f a :: l
  | a :: l, i + 1 => a :: modAt l i f

/-- Sum of naturals. -/
def sumN (l : List Nat) : Nat := l.foldl (· + ·) 0

/-- Sum of integers. -/
def sumI (l : List Int) : Int := l.foldl (· + ·) 0

/-- The largest of a list, or `d`. -/
def maxN (d : Nat) (l : List Nat) : Nat := l.foldl max d

/-- Insertion into a sorted list, after equals. -/
def insertBy {α : Type} (le : α → α → Bool) (x : α) : List α → List α
  | [] => [x]
  | y :: l => if le y x then y :: insertBy le x l else x :: y :: l

/-- Stable sort. -/
def sortBy {α : Type} (le : α → α → Bool) (l : List α) : List α := l.foldl (fun a x => insertBy le x a) []

/-- The list without repeats, first occurrences kept. -/
def dedupN (l : List Nat) : List Nat := (l.foldl (fun a x => if a.contains x then a else x :: a) []).reverse

/-- Number of set bits among the low `n`. -/
def popcount (n w : Nat) : Nat := ((List.range n).filter (bit w)).length

/-- Indices of the set bits among the low `n`. -/
def bitsOf (n w : Nat) : List Nat := (List.range n).filter (bit w)

/-- The number whose bits are those of the list. -/
def ofBits (l : List Nat) : Nat := (dedupN l).foldl (fun a i => a + 2 ^ i) 0

/-- The larger natural L with 2^L ≤ x, or 0. -/
def log2 (x : Nat) : Nat := Nat.log2 x

/-- Add modulo 2^n. -/
def addMod (n a b : Nat) : Nat := (a + b) % 2 ^ n

/-- The lowest index from `i` on, of at most `fuel`, that is not in the list. -/
def lowestFree : Nat → Nat → List Nat → Nat
  | 0, i, _ => i
  | fuel + 1, i, l => if l.contains i then lowestFree fuel (i + 1) l else i

end Sys2Proof.Machine
end

