-- ==== Sys2Proof/Machine/Arith.lean ====
section
/-! DEFINITION. The arithmetic of the array, the de-quantiser, the requantiser and the vector unit, and of scales (R211 to
R232, R239, R255, R256). -/

namespace Sys2Proof.Machine

/-! ## Formats and scales (R211, R218) -/

/-- MANT of a scale (R218). -/
def scaleMant (s : Nat) : Nat := fld s 15 0

/-- EXP of a scale (R218). -/
def scaleExp (s : Nat) : Nat := fld s 23 16

/-- Element size in bits of a format (R211); 0 for a reserved code. -/
def formatBits (f : Nat) : Nat :=
  match f with
  | 0 => 8
  | 1 => 8
  | 2 => 4
  | 3 => 4
  | 4 => 16
  | 5 => 32
  | _ => 0

/-- Elements packed under R212, as numbers; the first `n` of them. -/
def unpackElems (f n : Nat) (b : Bytes) : List Int :=
  match f with
  | 0 => (b.take n).map fun x => (x.toNat : Int)
  | 1 => (b.take n).map fun x => sext 8 x.toNat
  | 2 => ((b.flatMap fun x => [(x.toNat / 16 : Int), (x.toNat % 16 : Int)])).take n
  | 3 => ((b.flatMap fun x => [sext 4 (x.toNat / 16), sext 4 (x.toNat % 16)])).take n
  | 4 => ((chunks 2 b).map fun x => sext 16 (beNat x)).take n
  | _ => ((chunks 4 b).map fun x => sext 32 (beNat x)).take n

/-- bitlength of R239. -/
def bitlength (v : Nat) : Nat := if v = 0 then 0 else Nat.log2 v + 1

/-- up() of R239; the zero scale for v = 0. -/
def scaleUp (v : Nat) (e : Int) : Nat :=
  if v = 0 then 0
  else
    let n : Int := (bitlength v : Int) - 16
    let m := if 0 ≤ n then ceilDiv v (2 ^ n.toNat) else v * 2 ^ (-n).toNat
    let c := m == 65536
    let x := e + (if c then n + 1 else n) + 144
    if x < 0 then 1 else if 255 < x then 0xFFFFFF else x.toNat * 65536 + (if c then 32768 else m)

/-- smul of R239. -/
def scaleMul (a b : Nat) : Nat := scaleUp (scaleMant a * scaleMant b) ((scaleExp a : Int) + scaleExp b - 288)

/-- sdiv of R239. -/
def scaleDiv (a b : Nat) : Nat :=
  scaleUp (scaleMant a * 2 ^ 32 / scaleMant b) ((scaleExp a : Int) - scaleExp b - 32)

/-- The value of a scale in units of 2^-144. -/
def scaleValue (s : Nat) : Nat := scaleMant s * 2 ^ scaleExp s

/-- The scale of the larger value, the first on a tie (R239: scales are compared by value). -/
def scaleMax (a b : Nat) : Nat := if scaleValue a < scaleValue b then b else a

/-- The scale of the smaller value. -/
def scaleMin (a b : Nat) : Nat := if scaleValue b < scaleValue a then b else a

/-- derive_ms of R239: M, S and whether RATIO_SAT is marked. -/
def deriveMs (sIn sOut f : Nat) : Nat × Nat × Bool :=
  let q := scaleMant sIn * 2 ^ 32 / scaleMant sOut
  let n := bitlength q - 32
  let m := q / 2 ^ n
  let s : Int := (scaleExp sOut : Int) - scaleExp sIn + f + 32 - n
  let r : Nat × Nat := if 63 < s then (m / 2 ^ (s - 63).toNat, 63) else if s < 0 then (2 ^ 32 - 1, 0) else (m, s.toNat)
  (r.1, r.2, decide (63 < s) || decide (s < 0) || r.1 == 0)

/-! ## The cell and the de-quantiser (R216 to R225) -/

/-- The sum of the products of one group (R217). -/
def groupSum : List Int → List Int → Int
  | x :: xs, y :: ys => x * y + groupSum xs ys
  | _, _ => 0

/-- The low limb of a wide activation (R224). -/
def limbLo (a : Int) : Int := wrapU 8 a

/-- The high limb (R224). -/
def limbHi (a : Int) : Int := a.fdiv 256

/-- The group sum of a wide operation, from its two passes (R224, R225). -/
def wideGroupSum (xs ys : List Int) : Int := groupSum (xs.map limbHi) ys * 256 + groupSum (xs.map limbLo) ys

/-- add_contrib of R219: the accumulator after, and whether the element is marked ACC_SAT. -/
def addContrib (f : Nat) (acc v : Int) (scale : Nat) : Int × Bool :=
  let prod := v * scaleMant scale
  let t : Int := (scaleExp scale : Int) - 144 + f
  let c := if 0 ≤ t then prod * (2 ^ t.toNat : Nat) else rheSh prod (-t).toNat
  let sum := acc + c
  (satS 56 sum, sum != satS 56 sum)

/-- The contributions of R220 added in order. -/
def accumulate (f : Nat) : List (Int × Nat) → Int × Bool → Int × Bool
  | [], a => a
  | c :: cs, a =>
    let r := addContrib f a.1 c.1 c.2
    accumulate f cs (r.1, a.2 || r.2)

/-- The list cut into groups of `g`; `n` of them, a short last one filled with zeros. -/
def groupsOf (g : Nat) : Nat → List Int → List (List Int)
  | 0, _ => []
  | n + 1, l => (l.take g ++ List.replicate (g - (l.take g).length) 0) :: groupsOf g n (l.drop g)

/-! ## Requantisation (R222, R223) -/

/-- y of R222. -/
def requantY (acc : Int) (m s zo : Nat) : Int := (zo : Int) + rheSh (acc * m) s

/-- The range of an output format. -/
def formatRange (fmt : Nat) : Int × Int :=
  match fmt with
  | 0 => (0, 255)
  | 4 => (-32768, 32767)
  | _ => (-(2 ^ 31 : Nat), (2 ^ 31 : Nat) - 1)

/-- requantise of R222: the element, and whether it is marked SAT. -/
def requantise (acc : Int) (m s zo fmt lo hi : Nat) : Int × Bool :=
  let y := requantY acc m s zo
  let r := formatRange fmt
  (if fmt == 0 then satI y lo hi else satI y r.1 r.2, decide (y < r.1) || decide (r.2 < y))

/-- e8 of R240. -/
def convError (acc : Int) (m s zo fmt : Nat) : Int :=
  let rg := formatRange fmt
  let yf := satI (requantY acc m s zo) rg.1 rg.2
  let r := (zo : Int) * (2 ^ s : Nat) + acc * m - yf * (2 ^ s : Nat)
  satS 16 (rheSh (r * 256) s)

/-! ## Compare mode (R227) -/

/-- The decision bit of a node. -/
def decideNode (x threshold : Nat) : Nat := if threshold ≤ x then 1 else 0

/-! ## The vector unit (R229 to R232) -/

/-- Saturation of a lane. -/
def lane (x : Int) : Int := satS 32 x

/-- The named rounding: 0 round_half_even, anything else floor. -/
def roundSh (r : Int) (x : Int) (s : Nat) : Int := if r = 0 then rheSh x s else floorSh x s

def vAdd (a b : Int) : Int := lane (a + b)
def vSub (a b : Int) : Int := lane (a - b)
def vMul (a b : Int) (s : Nat) (r : Int) : Int := lane (roundSh r (a * b) s)
def vShl (a : Int) (s : Nat) : Int := lane (a * (2 ^ s : Nat))
def vShr (a : Int) (s : Nat) (r : Int) : Int := roundSh r a s
def vGe (a b : Int) : Int := if b ≤ a then 1 else 0

/-- NORM of R230. -/
def vNorm (a : Int) : Int × Int :=
  if a ≤ 0 then (31, 0)
  else
    let n := 31 - bitlength a.toNat
    ((n : Int), a * (2 ^ n : Nat))

/-- RMAX of R230. -/
def vRmax : List Int → Int
  | [] => 0
  | x :: xs => xs.foldl max x

/-- SUM of R232. -/
def vSum (l : List Int) : Int := sumI l

/-- LUT of R231 over a table given by K, SH, X0 and T. -/
def lutAt (k sh : Nat) (x0 : Int) (t : List Int) (v : Int) : Int :=
  let u := (satI (floorSh (v - x0) sh) 0 65535).toNat
  let i := u / 2 ^ (16 - k)
  let f := u - i * 2 ^ (16 - k)
  let a := t.getD i 0
  let d := t.getD (i + 1) 0 - a
  lane (a + rheSh (d * f) (16 - k))

/-! ## Narrow groups (R255, R256) -/

/-- The shift n of narrow: the least, from `n` on, at which the largest magnitude fits. -/
def narrowShift : Nat → Nat → Int → Nat
  | 0, n, _ => n
  | fuel + 1, n, a => if 127 < rheSh a n then narrowShift fuel (n + 1) a else n

/-- narrow of R256: the elements and their shift. -/
def narrow (v : List Int) : List Int × Nat :=
  let a := v.foldl (fun m x => max m (x.natAbs : Int)) 0
  let n := narrowShift 32 0 a
  (v.map fun x => rheSh x n, n)

/-- widen of R256. -/
def widen (q : Int) (n : Nat) : Int := q * (2 ^ n : Nat)

end Sys2Proof.Machine
end

