-- ==== Sys2Proof/Config.lean ====
section
/-! DEFINITION. What an implementation fixes and the manual does not give: free values and functions, none with a body. -/

namespace Sys2Proof

/-- A fresh value of which nothing is known; the n-th that the machine draws (log 3). -/
opaque Config.freeValue : Nat → Nat

/-- The device secret that the security block reconstructs from the capture of the identity SRAM and the helper
data (R391: the construction is Carfoson's and is not a customer interface; log 161). -/
opaque Config.pufSecret : Bytes → Bytes → Bytes

/-- Carfoson's root public key in the boot ROM of the security block (R390; log 161). -/
opaque Config.rootKey : Bytes

/-- Whether the primitive program of a VECTOR or SURPRISE operation passes the check made at staging (R302: the
encoding is not a customer interface; log 23). -/
opaque Config.programOk : Bytes → Bool

/-- The words of the decoded primitive program of R230, one list of numbers for each primitive (R302; log 23). -/
opaque Config.programWords : Bytes → List (List Int)

/-- The bytes of core store, tensors and buffers that a generation of the given image takes in each core, beside its
ensembles (R276, R307 cause 10; the manual gives no figures: log 162). -/
opaque Config.coreStoreUse : Bytes → Nat

/-- The bytes of HBM, outside the regions of the configuration image, that a generation of the given image takes beside the copies of its
streamed ensembles: what a chain keeps there, and the adaptation buffers of R308 (R307 cause 10; the manual gives no
figures: log 162). -/
opaque Config.hbmUse : Bytes → Nat

/-- The HBM transfers of 64 bytes per batch of a generation beside the state gathers and write-backs and its streamed ensembles, for
the digest of its image, a batch capacity and a shape (R70; derived from the operation program, which the manual does not describe: log
157). -/
opaque Config.hbmTransfers : Bytes → Nat → Nat → Nat

/-- The 64-byte HBM transfers that an access makes (R363 counts them, the manual gives no figures: log 163). Accesses: 0 a table
lookup, 1 a table update, 4 the model data of one operation, 5 a sample, 6 a counter update, 7 a table DMA operation; the second operand
is the bytes or entries concerned. -/
opaque Config.transfers : Nat → Nat → Nat

/-- The array cycles of one unit of work of ADAPT_STEP (R319): 0 a head of a training sample, 1 a head of an evaluation
sample, 2 a group of an update; and the number of elements of the adapter tensor. The manual bounds their sum (R324) and gives
no figure for one unit (log 93). -/
opaque Config.adaptCycles : Nat → Nat → Nat

/-- A count of R454 that the manual defines by events inside the array and the memories, for the counter's index and the
events that the model has seen: 120 + n the share of stack n in the HBM transfers made, 62 the cycles of the waits for a tag,
63 the cycles of the barriers that waited for a stretched cluster (log 57). -/
opaque Config.counted : Nat → Nat → Nat

/-- The cycles of one unit of work, where the manual gives no figure for it (R77, R85; log 19): kind of the activity, number of the
unit. -/
opaque Config.unitWork : Nat → Nat → Nat

/-- The frequency correction, in units of 2^-8 ppb, that the dial's servo applies after a measured error; the manual
bounds the slew rate and gives no law (R57): error, correction in force, limit in ppb. -/
opaque Config.servo : Int → Int → Nat → Int

end Sys2Proof
end

