-- ==== Sys2Proof/Machine/State.lean ====
section
/-! DEFINITION. The state of the block as plain data: every register (table-driven, see Machine/Regs.lean), table, queue,
buffer, counter, mode and pin that the manual gives the HN2048, and the queue of commands that wait. -/

namespace Sys2Proof.Machine

/-- Byte memory in canonical form: addresses strictly rising, no entry equal to `Mem.unlisted` (log 5). -/
abbrev Mem := List Host.Cell

/-! ## Dial (R47 to R63) -/

/-- The dial and its two sources. Times are ns; `now` runs at the dial's rate from power-good (log 6). -/
structure DialSt where
  now : Nat                        -- ns since power-good at the dial's rate
  time : Nat                       -- dial time in ns: seconds × 10^9 + nanoseconds (R47)
  source : Nat                     -- source selection in force: 0 timing pins, 1 IEEE 1588-2019 (R49)
  lastEdge : Option Nat            -- `now` of the last accepted 1PPS edge (R52)
  tod : Option Nat                 -- seconds of the accepted message that waits for its edge (R51)
  missingRow : Nat                 -- consecutive pulses without an accepted message (R52)
  pinsValid : Bool                 -- R520
  ptpValid : Bool
  pinsSince : Nat                  -- `now` since when the source has been valid (R49)
  ptpSince : Nat
  goodRun : Nat                    -- consecutive measurements of magnitude 100 ns or less (R56)
  badRun : Nat                     -- consecutive measurements above 100 ns in LOCKED
  lastError : Int                  -- last measured error, source minus dial, unsaturated
  lockHist : List (Nat × Int)      -- time in LOCKED and the correction applied in it, newest first (R60)
  lockMark : Nat                   -- `now` up to which lockHist accounts
  holdStart : Nat                  -- `now` at entry to HOLDOVER
  holdBase : Nat                   -- bound at entry to HOLDOVER (R60)
  warned : Bool                    -- the bound has exceeded WARN_NS in this holdover (R61)
  stepPhase : Nat                  -- R58: 0 none, 1 pending, 2 admission stopped, 3 time taken
  stepLast : Nat                   -- last batch admitted before the step
  highest : Nat                    -- highest state code held in the epoch (R368)
  masters : List Foreign           -- masters heard (R53)
  chosen : Option Nat              -- master chosen by the best master clock algorithm
  syncWait : Option (Nat × Nat × Int)   -- two-step Sync: sequence, arrival dial ns, correction
  delaySent : Option (Nat × Nat)   -- Delay_Req under way: sequence, departure dial ns
  delaySeq : Nat
  syncPair : Option (Nat × Nat)    -- origin (corrected) and arrival of the last complete Sync
  meanDelay : Option Int           -- completed delay measurement, ns
  lastSync : Option Nat            -- `now` of the last Sync of the chosen master (R54)
  lastAnnounce : Option Nat        -- `now` of the last Announce of the chosen master (R54)
  freeRun : Bool                   -- the dial was started with FREE_RUN_START set (R57, R59)
  deriving DecidableEq, Repr

/-! ## Schedule (R64 to R78) -/

/-- An activity entry (R66). -/
structure Activity where
  kind : Nat
  slot : Nat
  priority : Nat
  shed : Nat
  startBeat : Nat
  period : Nat
  budget : Nat
  shedBudget : Nat
  shedCapacity : Nat
  hbmUnits : Nat
  deriving DecidableEq, Repr

/-- A schedule image (R65): its header values, its shape descriptor and its activities. -/
structure Schedule where
  index : Nat                      -- INDEX within the shape set; 16 + k for one loaded under R404
  id : Nat
  n : Nat
  latency : Nat
  capacity : Nat
  fmin : Nat
  margin : Nat
  traceReserved : Bool
  shape : Nat                      -- the 384 bits of R41
  acts : List Activity
  deriving DecidableEq, Repr

/-- What an activity has used of its budget in the round (R77). -/
structure ActRun where
  granted : Nat
  used : Nat
  held : Bool
  shed : Bool
  opened : Bool                    -- a run is under way: it began at one of its beats and has not run out of work (R66)
  first : Bool                     -- MANDATORY and held in the round before: it resumes first (R77)
  deriving DecidableEq, Repr

structure SchedSt where
  running : Option Schedule
  acts : List ActRun
  unitNo : Nat                     -- units of work done whose cycles the manual does not give (log 19)
  nextGrants : List (Nat × Bool)   -- grants and sheds decided for the coming round (R75)
  shapeSet : List Schedule         -- accepted schedules of the header in use
  order : List Nat                 -- SHAPE_ORDER (R396)
  loaded : List Schedule           -- schedules loaded under R404, in order of loading
  chosen : Option Schedule         -- schedule chosen for the start that is under way (R401)
  decided : Option (List (Nat × Bool) × Nat)   -- last decision of R75, to find a change
  frozen : Option (Nat × Nat)      -- request frozen at the decision point: POINT, GATE (R346)
  capW : Nat                       -- cap in force at the decision point of the current round (R348)
  capNext : Nat                    -- and of the coming round
  spare : Mem                      -- the 64 MiB spare of the IMAGE_STORE (R423)
  spareLen : Nat                   -- bytes written for the image being loaded
  workShape : Nat                  -- working shape (R41, R399)
  admitting : Bool                 -- a schedule runs and admission has begun
  restart : Nat                    -- R476: 0 none, 1 requested, 2 draining, 3 reloading, 4 ready to admit
  again : Bool                     -- a restart was requested while one was under way
  readyBeat : Nat                  -- first beat that begins once a warm restart has reached readiness (R476)
  genDue : Bool                    -- the GEN records of a warm restart are still to be written (R462)
  caughtUp : Nat                   -- first beat whose heads may be admitted after catch-up (R73)
  deriving DecidableEq, Repr

/-! ## Head ports (R86 to R119) -/

/-- A verdict bundle that waits to be sent: its batch or beat, its records and its LAST_OF_BATCH flag (R111). -/
structure OpenBundle where
  batch : Nat
  count : Nat                      -- records of the bundle
  last : Bool
  closed : Bool
  deriving DecidableEq, Repr

structure PortSt where
  v1 : Bool                        -- KEAFEN_V1 in force (R117)
  maxLanes : Nat                   -- MAX_LANES in force
  lastSeq : Option Nat             -- SEQUENCE of the last accepted bundle since the port was enabled (R94)
  retrain : Option Nat             -- `now` at which the retrain began (R89)
  retrainLanes : List Nat          -- lanes that have lost block lock in the retrain, the one that started it first
  retrained : Map Nat              -- lanes that a retrain has brought back, with `now` of its success
  quota : Nat                      -- QUOTA in force for the beat (R104)
  admitted : Nat                   -- heads of the port admitted in the beat
  txOrdered : Nat                  -- SEQUENCE of the next ordered bundle (R111)
  txShed : Nat
  ordered : List OpenBundle        -- bundles of the ordered stream not yet sent, oldest first
  shedding : List OpenBundle
  shedFirst : Option Nat           -- `now` of the first record of the open shed bundle while UNSET
  shedPart : List Nat              -- records of the verdict item that is being filled
  v1Shed : List (Nat × Nat × Nat)  -- version 1: beat, place in arrival order, record of a shed verdict (R101)
  deriving DecidableEq, Repr

/-! ## Front stage (R120 to R152) -/

/-- A parse state (R122). -/
structure ParseState where
  selOffset : Nat
  selMask : Nat
  transBase : Nat
  transCount : Nat
  defaultNext : Nat
  defaultEnd : Bool
  advConst : Nat
  advShift : Nat
  advMask : Nat
  advUnit : Nat
  ops : List (Nat × Nat × Nat)     -- valid extractions: FIELD, BIT_OFFSET, width
  deriving DecidableEq, Repr

/-- A classifier rule (R130): the words VALUE, MASK and RESULT. -/
structure Rule where
  value : Nat
  mask : Nat
  result : Nat
  deriving DecidableEq, Repr

/-- A meter (R136, R137): its 256-bit configuration, buckets and beat of last use. -/
structure Meter where
  config : Nat
  tc : Nat
  tp : Nat
  last : Nat
  deriving DecidableEq, Repr

structure FrontSt where
  parse : List ParseState
  trans : Map Nat                  -- transition words (R123); unlisted 0
  formats : List Nat               -- FORMAT of each field (R120)
  templates : List (List Nat)      -- 16 templates of 16 segment words (R129)
  rules : Map Rule                 -- rules in force
  staging : Map Rule               -- the staging set (R132)
  committed : Option (Map Rule)    -- the set that waits for the next beat
  commitBeat : Nat                 -- batch number of the beat in which that set was committed
  held : Bool                      -- a held COMMIT
  meters : Map Meter
  meterNext : Map (Nat × Nat)      -- meter configurations that wait for the next beat, and the batch number of their write (R137)
  counters : Map (Nat × Nat)       -- PACKETS and BYTES (R135)
  vmap : Map Nat                   -- verdict map entries, 256 bits (R297)
  vmapNext : Map Nat               -- entries that apply to beats that begin after the write (R298)
  vmapOld : List (Nat × Nat × Nat) -- replaced entries: partition, entry, last beat served
  partNext : Map Nat               -- register fields of FRONT written in this beat, keyed as in Regs (R127, R151)
  privileged : Nat                 -- PRIVILEGED mask of the configuration image (R128)
  lostRules : List Nat             -- rules to be invalidated at the next beat (R149)
  tableLost : Option Nat           -- first beat whose heads take the default for a lasting error (R149)
  deriving DecidableEq, Repr

/-! ## Tables (R153 to R188) -/

/-- A slot descriptor (R160). -/
structure SlotDesc where
  cold : Bool
  tag : Nat
  seen : Nat
  lastBatch : Nat
  deriving DecidableEq, Repr

/-- A flow base record or an endpoint entry (R159, R161): the fields they share, and each one's own. -/
structure Entry where
  valid : Bool
  static : Bool
  lock : Bool
  hit : Bool
  age : Bool
  learned : Bool
  rev : Nat
  id : Nat                         -- FLOW_ID or ENDPOINT_ID
  ingress : Nat
  partition : Nat
  lastTs : Nat
  packets : Nat
  key : Nat                        -- compatibility key (320 bits; of an endpoint entry bits [319:176] are kept)
  descs : Map SlotDesc             -- slot descriptors that differ from a cold one (flow record)
  software : Nat                   -- software area (1,536 bits), or SOFT of an endpoint entry
  deriving DecidableEq, Repr

/-- A cuckoo entry or a stash entry (R162). -/
structure Cuckoo where
  index : Nat
  key : Nat
  deriving DecidableEq, Repr

structure TableSt where
  entries : Map Entry
  bank : List (Map Cuckoo)         -- the two halves of the bank in force (R158)
  stash : Map Cuckoo               -- 64 entries
  hash : List Nat                  -- SEED_0, MULT_0, SEED_1, MULT_1 in force (R157)
  free : Option (List Nat)         -- indices not on the free list (taken or lost); none in the native organisation
  requests : List (Nat × Entry)    -- pending insertion requests, oldest first, each with its head's batch number (R170, R493)
  insertedBeat : Nat               -- insertions completed in this beat
  filter : Map (Nat × Nat)         -- learn-item filter: beat + 1 of the last miss item and move item (R170)
  rebuild : Option Nat             -- next index to place (R174)
  idle : List (Map Cuckoo)         -- the idle bank under construction
  newStash : Map Cuckoo
  newHash : List Nat
  rebuilt : Option Nat             -- batch number of the last placement; in force from the next beat
  rake : Option Nat                -- next index of the running sweep (R175)
  sweepDue : Bool                  -- a sweep waits for the running one to end
  revBeat : List Nat               -- entries whose REV the DMA engine changed in this beat (R177)
  lostFree : List Nat              -- free-list indices lost (R183)
  deriving DecidableEq, Repr

/-! ## Queues (R189 to R210) -/

/-- A band of a queue: ring, pointers and the second copy of the pointers (R193, R194). -/
structure Band where
  base : Nat
  log2 : Nat
  wr : Nat
  rd : Nat
  wrCopy : Nat
  rdCopy : Nat
  deriving DecidableEq, Repr

/-- A queue descriptor (R206). -/
structure Queue where
  enable : Bool
  dataPath : Bool
  armed : Bool
  level : Nat
  dropped : Nat
  resets : Nat
  swResets : Nat
  lost : Nat
  enqueued : Nat
  dequeued : Nat
  since : Nat                      -- `now` at which it last became non-empty, or an item was last taken (R466)
  bands : List Band                -- bands 0 to 3
  deriving DecidableEq, Repr

structure QueueSt where
  queues : Map Queue               -- queues whose descriptor differs from reset
  ram : Map Nat                    -- ring items in hub SRAM: address in 64-byte units, 512-bit item
  struck : List (Nat × Bool)       -- places of the rings whose item will fail its check when it is taken, and whether the
                                   -- repetition fails too (R470, R472)
  deriving DecidableEq, Repr

/-! ## Generations (R236 to R308) -/

/-- A quantisation descriptor (R237). -/
structure TensorDesc where
  calScale : Nat
  calOScale : Nat
  minScale : Nat
  k : Nat
  fixed : Bool
  watch : Bool
  headroom : Nat
  satPpm : Nat
  mseMax : Nat
  outCh : List Nat
  deriving DecidableEq, Repr

/-- A feature definition (R140), with its boundaries. -/
structure FeatDef where
  kind : Nat
  source : Nat
  featA : Nat
  featB : Nat
  missing : Nat
  nanValid : Bool
  nanCode : Nat
  bounds : List Int
  zp : Nat
  shift : Nat
  mult : Nat                       -- 32 bits: s32 for SCALE, u32 for CROSS and HASH
  offset : Nat                     -- 64 bits: s64 for SCALE; SEED in the low 32 bits of [104:73]
  size : Nat
  deriving DecidableEq, Repr

/-- An operation record (R302) with its data (R303). -/
structure OpRec where
  kind : Nat
  inTensor : Nat
  outTensor : Nat
  g : Nat
  n : Nat
  fmtW : Nat
  fmtOut : Nat
  f : Nat
  zo : Nat
  clampLo : Nat
  clampHi : Nat
  outputs : Nat
  adapter : Bool
  outScale : Nat
  aux : Nat
  zw : List Int
  bias : List Int
  sb : List Nat
  owscale : List Nat
  gscale : List Nat                -- entry o × NG + g
  weights : List Int               -- row o of NG × G elements after row o − 1
  rows : List Nat                  -- EMBED: SIZE rows of OUTPUTS elements
  prog : List (List Int)           -- VECTOR, SURPRISE: decoded primitives (R302)
  deriving DecidableEq, Repr

/-- A tree in complete form (R263): nodes as FEATURE and THRESHOLD, leaves by leaf and output. -/
structure Tree where
  depth : Nat
  leafMax : Nat
  nodes : List (Nat × Nat)
  leaves : List Int
  deriving DecidableEq, Repr

/-- A tree ensemble (R268). -/
structure Ensemble where
  streamed : Bool
  parts : Nat
  outputs : Nat
  inTensor : Nat
  inCodes : Nat
  windowKib : Nat
  maxDepth : Nat
  firstTree : List Nat
  base : List (Nat × Int)          -- SCALE and BASE of each output
  trees : List Tree
  deriving DecidableEq, Repr

/-- A lookup table (R231). -/
structure Lut where
  k : Nat
  sh : Nat
  x0 : Int
  t : List Int
  deriving DecidableEq, Repr

/-- The sequence descriptor (R285). -/
structure SeqDesc where
  stateIn : Nat
  stateOut : Nat
  elements : Nat
  tag : Nat
  warmup : Nat
  positions : Nat
  logitOp : Nat
  expTable : Nat
  lnTable : Nat
  expFrac : Nat
  ln2q : Nat
  tokens : List (Nat × Nat)        -- TOKEN_FEAT and V_p
  deriving DecidableEq, Repr

/-- The adaptation descriptor (R315). -/
structure AdaptDesc where
  version : Nat
  label : Bool
  labelOp : Nat
  n : Nat
  gShift : Nat
  gShiftMax : Nat
  b1 : Nat
  b2 : Nat
  vShift : Nat
  rsqrtTable : Nat
  rsShift : Nat
  lr : Nat
  lrShift : Nat
  stepMax : Nat
  driftSum : Nat
  driftElem : Nat
  margin : Nat
  minEval : Nat
  trainCap : Nat
  parts : Nat
  deriving DecidableEq, Repr

/-- A model as its image gives it (R300 to R304). -/
structure Model where
  modelId : Nat
  featTensor : Nat
  featZp : Nat
  feats : List FeatDef
  tensors : List TensorDesc
  ops : List OpRec
  ensembles : List Ensemble
  luts : List Lut
  seq : Option SeqDesc
  adapt : Option AdaptDesc
  digest : Bytes                   -- BODY_DIGEST of its envelope (R408)
  coreUse : Nat                    -- bytes of core store in each core beside the ensembles (R276)
  boundEntries : Nat               -- entries of its BOUNDARIES section, relocated at staging (R139, R301)
  hbmUse : Nat                     -- bytes of HBM beside the copies of its streamed ensembles (R307, R308)
  deriving DecidableEq, Repr

/-- The windows and statistics of one scaled tensor (R240 to R246, R258). -/
structure QTensor where
  mode : Nat                       -- 0 CAL, 1 REFIT, 2 RUN
  win : List Nat                   -- oldest first
  outRun : Bool                    -- the outlier window has reached K entries
  outWin : List Nat
  hasStats : Bool
  lastBatch : Nat
  sat : Nat
  elements : Nat
  sse : Nat
  misfits : Nat
  pinnedHits : Nat
  pinnedHit : Bool
  constRange : Bool
  outConst : Bool
  misfit : Bool
  deriving DecidableEq, Repr

/-- A generation: a model under a generation number, with its windows (R245, R306). -/
structure Gen where
  number : Nat
  model : Model
  quant : List QTensor
  lostTree : Option Nat            -- first batch whose read found lost tree data (R281, R328)
  origin : Nat                     -- number under which its image was staged: generations of one origin share all but the
                                   -- adapter tensor (R308)
  deriving DecidableEq, Repr

/-- A software command on a scale in force from a batch on (R252, R253). -/
structure QCommand where
  slot : Nat
  tensor : Nat
  outlier : Bool
  op : Nat
  lo : Nat
  hi : Nat
  fromBatch : Nat
  deriving DecidableEq, Repr

/-! ## Batches and the operation pipeline (R28 to R40) -/

/-- An admitted head with what the front stage gives it. -/
structure Head where
  port : Nat
  bundleSeq : Nat
  record : Nat
  arrival : Nat                    -- order of bundle reception at the port
  slot : Nat                       -- batch slot
  switchTs : Nat
  flowId : Nat
  endpointId : Nat
  ingress : Nat
  packetLength : Nat
  cookie : Nat
  units : Nat
  hint : Nat
  partition : Nat
  account : Nat
  ruleHit : Bool
  final : Bool
  featureFault : Bool
  faultSlots : Nat                 -- slots whose generation's definitions marked a fault (R143)
  colour : Nat
  action : Nat
  arg : Nat
  defAction : Nat
  defArg : Nat
  slotMask : Nat
  flow : Option Nat                -- record index of a HIT or LOCKED_HIT
  rev : Nat                        -- REV the flow lookup read
  feats : Map (List Nat)           -- slot: out of each feature definition
  lost : Bool                      -- verdict lost with its queue item (R102)
  deriving DecidableEq, Repr

/-- The value of an operation's output for a batch: a row of elements for each head, the outlier columns (R250), and the
S16 copy of a misfit with its scale (R247). -/
structure TensorVal where
  rows : List (List Int)
  outRows : List (List Int)
  wide : Option (List (List Int) × Nat)
  deriving DecidableEq, Repr

/-- One chain of one batch (R33, R35). -/
structure Chain where
  slot : Nat
  gen : Nat                        -- generation number that serves the batch (R311)
  model : Model                    -- its model
  lost : Bool                      -- its tree data was lost at or before this batch (R281)
  fetched : Nat                    -- operations fetched
  retired : Nat                    -- operations retired
  total : Nat
  cycles : Nat                     -- execute-stage cycles so far (R461)
  vals : Map TensorVal             -- operation index: output
  scales : Map (Nat × Nat)         -- tensor: main and outlier scale in force (R244)
  hits : Map Nat                   -- tensor: decisions of the batch that were clamped (R254)
  state : List (Option (List Int) × Nat × Bool)   -- per head: gathered state, SEEN_IN, stale (R289)
  surprise : List Int
  deriving DecidableEq, Repr

structure Batch where
  number : Nat
  heads : List Head
  closed : Bool
  windowEnded : Bool               -- its compute window has ended
  late : Bool
  returned : Bool
  portsDone : List Nat             -- ports whose verdicts of the batch stand in their ordered queue (R199)
  faulty : Bool                    -- computed while a compute unit was failing (R475)
  latency : Nat                    -- L of the schedule under which it was opened (R71)
  capacity : Nat
  shed : Nat                       -- heads of the beat that were shed
  chains : List Chain
  tripped : Bool                   -- a compute-die trip ended its chains (R354)
  places : List (Nat × Nat × Nat)  -- once closed: die, position and core of each batch slot (R31, R284)
  deriving DecidableEq, Repr

/-- An operation in flight (R35, R36). -/
structure Flight where
  tag : Nat
  batch : Nat
  slot : Nat
  op : Nat
  stage : Nat                      -- 0 fetch, 1 gather, 2 execute, 3 reduce
  since : Nat                      -- batch number of the beat in which it was fetched
  cycles : Nat                     -- cycles that it occupies the execute stage, once it is there (R78)
  keyed : Nat                      -- of them, those counted so far (R77, R363)
  mark : Nat                       -- `now` up to which they are counted
  runs : Nat                       -- of the cycles, the first ones, in which it executes something (R249, R455)
  place : Nat                      -- place of the operation in the counters of R454
  moves : Nat                      -- 64-byte transfers made while it executes (R274)
  deriving DecidableEq, Repr

structure PipeSt where
  batches : List Batch
  flights : List Flight            -- oldest tag first
  nextTag : Nat
  retiredBeat : Nat                -- batch number of the beat in which an operation last retired (R466)
  arrivals : Nat                   -- bundles received, for the order of R32
  deriving DecidableEq, Repr

/-! ## Slots and adaptation (R305 to R331) -/

/-- One element of an adapter tensor under adaptation: tentative or committed remainder and moments (R322). -/
structure AdaptElem where
  rem : Int
  m : Int
  v : Int
  deriving DecidableEq, Repr

/-- One head of a sample (R318): operands of the adapter operation and target codes. -/
structure SampleHead where
  x : List Int
  targets : List Nat
  deriving DecidableEq, Repr

structure AdaptSt where
  round : Nat                      -- r of R317
  roundsFrom : Option Nat          -- batch number of the boundary at which the candidate was formed
  sample : List SampleHead         -- heads of the sample that wait for work
  sampleEval : Bool                -- the sample is an evaluation sample
  gacc : List Int                  -- gradient accumulator
  lossC : Int
  lossA : Int
  eval : Nat
  groupsDone : Nat                 -- groups of the update that are done
  updating : Bool                  -- the step's update is under way
  stepEnd : Nat                    -- steps whose last round has come and whose end is not yet decided
  tentative : List (Int × AdaptElem)   -- tentative weights, remainders and moments of the groups done
  elems : List AdaptElem
  anchor : List Int                -- the anchor's adapter tensor
  deriving DecidableEq, Repr

structure SlotSt where
  active : Option Gen
  staging : Nat                    -- state code of R305
  staged : Option Gen              -- what the staging position holds
  counter : Nat                    -- generation counter (R306)
  swap : Option (Nat × Nat)        -- pending swap: OP (3, 4 or 8) and batch number of its boundary, 0 while none runs
  discardAfter : Bool              -- the draining generation is discarded after a rollback
  adaptOn : Bool
  adaptHeld : Bool
  formAt : Option Nat              -- boundary at which a candidate is formed
  retainedAt : Option Nat          -- batch number at which the displaced generation became RETAINED (R327)
  image : Bool                     -- the load buffer holds an image
  imageLen : Nat
  distHeld : Bool                  -- the load buffer is held for a distribution (R447)
  labels : Map (Nat × Nat)         -- label plane: record index, CLASS and REV (R316)
  blocks : Map Nat                 -- state plane: block of each record index as a number (R288)
  adapt : AdaptSt
  wasActive : Bool                 -- a warm restart has emptied its active position, and no admission has begun since (R461)
  deriving DecidableEq, Repr

structure QuantSt where
  staged : List QCommand           -- commands staged (R253)
  force : List QCommand            -- commands in force, oldest first
  deriving DecidableEq, Repr

/-! ## Regulator (R332 to R359) -/

/-- A power-group member's SLACK frame (R449). -/
structure Slack where
  device : Nat
  exchange : Nat
  effective : Nat
  slackW : Int
  need : Bool
  latency : Nat
  round : Nat
  shiftMax : Nat
  reserve : Nat
  givenTo : Option Nat
  givenW : Nat
  deriving DecidableEq, Repr

/-- A grant between members (R356): peer, watts, and the batch number from which it counts or ceases to count. -/
structure Grant where
  peer : Nat
  watts : Nat
  fromBatch : Nat
  untilBatch : Option Nat
  confirmed : Bool                 -- a grant received counts only once its donor's next frame confirms it (R449)
  span : Nat                       -- n + L of the peer
  deriving DecidableEq, Repr

structure PowerSt where
  point : Nat                      -- POINT in force
  gate : Nat                       -- GATE in force
  request : Option (Nat × Nat)     -- pair requested for the next boundary (R346)
  theta : Nat                      -- thermal ceiling (R352)
  coolRun : Nat                    -- comparisons below THROTTLE_C − HYST_C since the last change
  volt : List Nat                  -- VOLT_MV (R334)
  vref : List Nat                  -- V_REF (R339)
  weight : List (List Nat)         -- W
  leak : List Nat                  -- LEAK, in the order of R392
  leakOff : List Nat
  eBulk : List Nat                 -- links, memory (R343)
  energy : List Nat                -- E[d] of the last period
  dynamic : List Nat               -- E_dyn[d] of the last period (R361)
  raw : List Nat                   -- raw summed per class over the telemetry interval
  measured : List Nat              -- energies read in the interval, per class
  failedRead : List Bool           -- a read of the class failed in the interval
  pendingVr : List Nat             -- entries whose read of the interval is still due
  correct : List Nat               -- K[c] (R341)
  correctNext : List Nat           -- K[c] from the next period on
  estimate : List Nat              -- raw of the interval whose readings are under way, per class
  telemetryDue : List (List Nat)   -- raw of the intervals whose reads have not begun, oldest first (R513)
  fixedNext : Bool                 -- FIXED_FREQ at the last decision point (R338)
  fixedPointNext : Nat             -- FIXED_POINT at the last decision point
  fixedPointNow : Nat              -- FIXED_POINT at the decision point of the round that runs (R492)
  maxPointUsed : Nat               -- point of higher voltage used in the period
  bulk : List Nat                  -- bulk bytes allowed in a period: links, memory (R345)
  roundEnergy : Nat                -- E summed over the round
  roundPeriods : Nat
  kiloEnergy : Nat                 -- E summed since the last exchange (R355)
  kiloPeriods : Nat
  kiloNeed : Bool
  sensors : Map Int                -- last accepted reading in 0.25 °C; key die × 64 + sensor, hub die 4
  failedSensors : List Nat
  stretching : List Nat            -- clusters whose clock is stretched
  lastClear : Option Nat           -- `now` at which the last stretch cleared (R76)
  stretched : Map Nat              -- stretched cycles of each cluster in the round
  pdOff4 : Bool                    -- PD4_OFF in force
  pdOff19 : Bool
  starting : List Nat              -- domains switched on and not yet ready
  hubTrip : Bool                   -- a hub-die trip has fired (R353)
  slacks : List Slack              -- SLACK frames of the exchange
  members : List Nat               -- devices from which a SLACK frame has been heard
  exchange : Nat                   -- beat of the exchange under way
  given : List Grant
  received : List Grant
  lastGiven : Option (Nat × Nat)   -- grant of the previous exchange: receiver and watts
  lastSlacks : List Slack          -- SLACK frames of the exchange before (R356)
  switchUp : Bool                  -- array supply already raised for the coming boundary (R496)
  supply : Nat                     -- array supply of the compute dies in mV (R496)
  supplyFall : Option (Nat × Nat)  -- a fall of it that is due: `now` at which it applies, and its mV (R496)
  choice : Option (Bool × Nat × Nat × Int)   -- the last division: FIXED_FREQ, FIXED_POINT, dynamic part, allocation (R338, R345)
  kiloLast : Nat × Nat × Bool      -- energy, periods and NEED of the last full 1,000 beats (R355)
  moved : Nat × Nat × Nat          -- bulk bytes moved in a period: its number, links, memory (R343)
  deriving DecidableEq, Repr

/-! ## Tallies (R360 to R382) -/

/-- Sub-grain accumulators and counts of an account or a job (R365 to R367). -/
structure Acc where
  compute : Nat
  memory : Nat
  links : Nat
  static : Nat
  dyn : Nat                        -- charged in this epoch, without carries
  requests : Nat                   -- REQUESTS of an account; OPERATIONS of a job
  shed : Nat
  deriving DecidableEq, Repr

structure JobAcc where
  id : Nat
  post : Nat                       -- number of its posting
  account : Nat
  layer : Nat
  operator : Nat
  state : Nat                      -- 0 running, 1 complete, 2 aborted, 3 failed (R371)
  acc : Acc
  deriving DecidableEq, Repr

/-- What one epoch has gathered (R366 to R369). -/
structure Epoch where
  startNs : Nat                    -- dial ns of its start
  endNs : Nat
  accounts : Map Acc
  jobs : List JobAcc
  pool : Nat
  flags : Nat                      -- R373
  dialState : Nat
  rule : Nat
  epochS : Nat
  startNow : Nat                   -- `now` of its start (R379)
  late : Bool                      -- not signed within 50 ms of its end (R376)
  deriving DecidableEq, Repr

/-- An entry of the tally ring (R378). -/
structure TallyEntry where
  chain : Nat
  seq : Nat
  root : Bytes
  signature : Option Bytes
  accounts : Map Nat               -- account leaves that differ from the empty one, 512 bits
  epochStart : Nat
  jobs : List Nat                  -- job leaves, 512 bits
  endNs : Nat
  lateMarked : Bool
  closedBeat : Nat                 -- batch number of the beat in which its close ended (R376)
  deriving DecidableEq, Repr

structure TallySt where
  open_ : Option Epoch             -- the epoch in progress
  frozen : List Epoch              -- ended epochs that wait to be closed, oldest first
  carry : Nat                      -- STATIC_CARRY of the previous epoch (R366)
  seq : Nat                        -- SEQ of the next root
  prevHash : Bytes
  ring : List TallyEntry           -- newest last, at most 64
  collected : Option Nat           -- R378: none before the first write
  levelsDone : Nat                 -- units of work done of the close under way (R374)
  headKeys : Map Nat               -- links keys of the period: account × 1,024 + bytes of a head: heads
  computeKeys : Map Nat            -- compute keys of the period by batch
  adaptKeys : Map Nat              -- compute keys of the period by slot (ADAPT_STEP)
  memKeys : List (Nat × Nat × Nat) -- memory keys: holder kind (0 batch, 1 slot, 2 system, 3 job), id, transfers
  linkJobs : Map Nat               -- bulk peer-link bytes of the period by job
  restartNow : Nat                 -- `now` of the last cold reset or warm restart (R379)
  cutPeriod : Bool                 -- a step with no schedule running cut the period whose PERIOD_END is still due (R369)
  deriving DecidableEq, Repr

/-! ## Boot and security (R383 to R411) -/

structure Region where
  code : Nat
  index : Nat
  param : Nat
  base : Nat
  size : Nat
  deriving DecidableEq, Repr

/-- Who sent a crown request: a session of this device, by its index and serial, or another device that relays it, by its
address and the MSG_ID of the message (R446). -/
inductive Client where
  | session (index serial : Nat)
  | peer (device message : Nat)
  deriving DecidableEq, Repr

structure SecureSt where
  input : Option BootInput         -- what the last cold start was given; its NVM is the board's
  nvmLog : Map Bytes               -- logbook sectors written since (byte address: 4,096 bytes)
  header : Nat                     -- byte address of the header in use
  secret : Bytes
  attestPk : Bytes
  crownPk : Bytes
  keyId : Bytes
  ownerKey : Bytes
  fwDigest : Bytes
  cfgDigest : Bytes
  testHash : Bytes                 -- SHA-256 of the test record image
  bootFlags : Nat
  regions : List Region            -- MEMORY section (R397)
  presetLocks : List (Nat × Nat)   -- LOCK presets held back to step 11 (R396)
  slots : List (Nat × Bool)        -- SLOTS: MODEL_INDEX and REQUIRED
  models : Map Bytes               -- model images of the IMAGE_STORE by index (bodies and envelopes)
  table : Bytes                    -- body of the table image in force
  config : Bytes                   -- body of the configuration image in force
  operators : List (Bytes × Nat × Nat)   -- KEY_HASH, OPERATOR_ID, PARTITION (R406)
  halted : Bool                    -- halt class (R402)
  startAt : Option Nat             -- dial second from which admission begins after START (R403)
  powerGood : Bool                 -- PWRGOOD and RESET_N are high
  attests : List (Client × Request × Bytes)   -- ATTEST requests that wait for SIGN cycles, with their nonces (R408)
  deriving DecidableEq, Repr

/-! ## Crown (R412 to R437) -/

structure Session where
  index : Nat
  operator : Nat
  partition : Nat
  owner : Bool
  serial : Nat                     -- a closed session ends for good (R417)
  deriving DecidableEq, Repr

/-- A crown job (R422 to R427): waiting, running or retired. -/
structure Job where
  id : Nat
  post : Nat                       -- number of its posting, which tells it from another of equal JOB_ID (R371)
  client : Client                  -- who posted it
  tag : Nat
  layer : Nat
  operator : Nat
  account : Nat
  queue : Nat
  continue_ : Bool
  ops : List (Nat × Nat × Nat × Bytes)   -- KIND, SUB, TARGET, data
  results : List (Nat × Bytes)     -- result and data out of each operation performed
  state : Nat                      -- R427: 0 waiting, 1 running, 2 complete, 3 aborted, 4 failed
  abort : Bool                     -- an abort is recorded
  done : Bool                      -- its last performed operation has retired
  storeUnits : Nat                 -- 64-byte units of the job store it takes
  moved : Nat                      -- bulk bytes that its operation under way has moved (R343)
  since : Nat                      -- `now` at which it was posted, began to run, or last retired an operation (R466, R469)
  deriving DecidableEq, Repr

/-- A CAPTURE operation (R428). It stays listed once it has ended, since its items may still stand in H and V. -/
structure CaptureRun where
  active : Bool
  job : Nat                        -- the number of its job's posting
  client : Client
  layer : Nat
  operator : Nat
  tag : Nat
  port : Nat
  filter : Option Nat              -- partition, or none for any
  left : Nat                       -- heads still to be offered
  hq : Nat
  vq : Nat
  held : Option Nat                -- an item that H has no room for
  after : Nat                      -- bundles received before it began
  deriving DecidableEq, Repr

structure CrownSt where
  sessions : List Session
  nextSerial : Nat
  posts : Nat                      -- jobs posted
  jobs : List Job                  -- waiting and running
  retired : List Job               -- the last 4,096, newest first
  lastQueue : Nat                  -- queue last served (R426)
  captures : List CaptureRun
  router6 : Option Nat             -- learned IPv6 default router (R414)
  neighbours : List (Bool × Nat × Nat)   -- resolved addresses: IPv6, IP address, MAC address (R414)
  deriving DecidableEq, Repr

/-! ## Peer links (R438 to R453) -/

structure LinkSt where
  lseqTx : Nat
  lseqRx : Nat                     -- next LSEQ expected
  sent : List (Nat × Bytes)        -- last 256 frames sent: LSEQ and frame
  nakking : Bool                   -- frames are discarded until the resend (R443)
  resent : Option Nat              -- LSEQ from which the last resend was made, until it is used anew
  lastHello : Option Nat           -- batch number of the last HELLO, where that one was good
  credits : Map Nat                -- credits held: class × 2 + VC; unlisted 16
  waiting : List (Nat × Bytes × Option (Nat × Nat))   -- frames that wait for a credit: class × 2 + VC, and the link, class and
                                   -- channel of the buffer each still holds where it came from
  retrain : Option Nat
  retrainLanes : List Nat
  retrained : Map Nat
  base : Nat                       -- lowest lane in use while LANES is not 0
  group : Option Nat               -- GROUP of the neighbour, from its last HELLO frame (R440)
  stuck : Map Nat                  -- class × 2 + VC with frames waiting and no credit: `now` since when (R466)
  creditAt : Map Nat               -- class × 2 + VC: `now` of the last credit since the link came up (R469)
  upAt : Nat                       -- `now` at which the link last came up
  deriving DecidableEq, Repr

/-- A relayed request whose response is awaited (R446). -/
structure Relay where
  message : Nat
  serial : Nat                     -- serial of the session
  request : Request
  op : Nat
  granted : Bool
  payload : Bytes                  -- request message, sent once a buffer is granted
  since : Nat                      -- `now` at which it began, or its last fragment was sent
  deriving DecidableEq, Repr

/-- A job that a session has posted on another device (R446); its identifier is known once the response has arrived. -/
structure RemoteJob where
  device : Nat
  message : Nat
  job : Option Nat
  index : Nat
  serial : Nat
  deriving DecidableEq, Repr

/-- A reassembly buffer of a destination (R446). -/
structure Reassembly where
  source : Nat
  message : Nat
  bytes : Bytes
  since : Nat                      -- `now` at which it was granted, or its first fragment arrived (R469)
  deriving DecidableEq, Repr

/-- The distribution that this device runs (R447). -/
structure DistTx where
  slot : Nat
  bytes : Nat
  mask : Nat
  message : Nat
  since : Nat                      -- `now` at which its last fragment was sent
  deriving DecidableEq, Repr

/-- A distribution as it arrives (R447). -/
structure DistRx where
  slot : Nat
  source : Nat
  message : Nat
  bytes : Nat
  refused : Bool
  got : List Nat                   -- fragments that have arrived
  since : Nat                      -- `now` at which the last one arrived
  deriving DecidableEq, Repr

structure PeerSt where
  address : Nat                    -- ADDRESS, TOPOLOGY, sizes and ETHERTYPE in force (R439)
  topology : Nat
  ringSize : Nat
  xSize : Nat
  ySize : Nat
  etherType : Nat
  group : Nat                      -- GROUP in force (R488)
  links : List LinkSt
  nextMessage : Nat
  relays : List Relay
  relayWait : List (Nat × Nat)     -- grant requests that wait for a buffer: source, message
  buffers : List Reassembly        -- at most 16
  parts : List Reassembly          -- RESPONSE messages received in part
  distTx : Option DistTx
  distRx : List DistRx             -- distributions that name this device, with those it refuses
  remoteJobs : List RemoteJob      -- jobs posted by relay (R446)
  deriving DecidableEq, Repr

/-! ## Observation and logbook (R454 to R487) -/

structure ObserveSt where
  startReq : Option (Bool × Nat)   -- write recorded for the next run boundary: start (true) or stop, and its batch number (R456)
  snapshots : List Bytes           -- at most 4 wait (R457)
  runLost : Nat                    -- snapshots lost in the run
  runSeq : Nat                     -- snapshots taken in the run
  snapBeat : Option Nat            -- batch number of the last snapshot
  trace : List Nat                 -- on-chip buffer: 256-bit records, oldest first, at most 2,048 (R460)
  lostSince : Nat                  -- records lost since the last LOST record
  dump : Mem                       -- dump area (R467)
  dumpOpen : Bool                  -- a dump is being written
  hangs : List (Nat × Nat × Nat)   -- detectors that have fired, subject, and since when the condition held (R467)
  failing : List Nat               -- units failing since the last restart: kind × 256 + number (R474)
  channelFaults : Map Nat          -- lasting faults of each HBM channel since the cold reset
  hbmTransfers : Nat               -- 64-byte HBM transfers counted, over all stacks (R454)
  tagWaits : Nat                   -- fetches that waited for a tag (R36, R454)
  barrierWaits : Nat               -- barriers met while a cluster was stretched (R78, R454)
  deriving DecidableEq, Repr

/-- The lifetime counts of the logbook (R479). -/
structure LogSt where
  seq : Nat
  coldResets : Nat
  warmRestarts : Nat
  powerOnS : Nat
  trips : Nat
  failedEvents : Nat
  failedDies : Nat
  failedStacks : Nat
  failedPeerLanes : Nat
  failedClusters : Nat
  failedHeadLanes : Nat
  failedChannels : Nat
  tripLog : List (Nat × Nat × Nat × Nat)   -- dial seconds, die, sensor, power-on seconds; newest first
  faults : List (Nat × Nat)        -- TRANSIENT and LASTING of each class
  pointHist : List Nat
  tempHist : List (List Nat)
  due : Bool                       -- a record is due
  clearDue : Bool                  -- the next record clears the failed marks (R481)
  sector : Nat                     -- next sector
  sectors : Nat
  intervalLeft : Nat               -- power-on seconds to the next interval record
  base : Nat                       -- byte address of the LOGBOOK region of the header in use
  record : Bytes                   -- the current record (R463)
  marked : List Nat                -- units marked failed at warm restarts since the cold start: kind × 256 + number (R485)
  deriving DecidableEq, Repr

/-! ## Pins and test access port (R503 to R507) -/

/-- How an output pin is driven. -/
inductive Drive where
  | low
  | high
  | active                         -- driven, at a level that the manual does not give
  | floating                       -- at high impedance, or an open drain released
  deriving DecidableEq, Repr

structure PinSt where
  tripN : Bool                     -- true: released
  faultN : Bool
  admitN : Bool
  ppsOut : Drive
  nvmSck : Drive                   -- the NVM bus (R384, R505)
  nvmCsN : Drive
  nvmDq : Drive                    -- NVM_DQ0 to NVM_DQ7 and NVM_DQS
  nvmResetN : Drive
  pmb : Drive                      -- PMB_SCL and PMB_SDA outside of a transaction
  tdo : Drive                      -- TDO while nothing is shifted out
  pwrgood : Bool                   -- level of PWRGOOD (R499)
  resetN : Bool                    -- level of RESET_N, which the EXTEST instructions need low (R507)
  bmiAddr : Nat
  bmiOffset : Nat
  tapIr : Nat                      -- test instruction: 0 BYPASS, 1 IDCODE, 2 SAMPLE/PRELOAD, 3 EXTEST, 4 PULSE, 5 TRAIN
  lanesOff : Bool                  -- head and peer lanes do not transmit (R499)
  deriving DecidableEq, Repr

/-- What has left the device, by the place where it leaves (log 7). -/
inductive Out where
  | bundle (port : Nat) (frame : Bytes)          -- a verdict bundle, without its frame check sequence
  | crown (session : Nat) (message : Bytes)      -- a crown message on a session
  | peer (link : Nat) (frame : Bytes)            -- a peer frame, without its frame check sequence
  | ptpDelayReq (sequence : Nat) (departNs : Nat)
  | echoReply (v6 : Bool) (dest : Nat) (payload : Bytes)
  | neighbourReply (v6 : Bool) (target : Nat) (mac : Nat)
  | pmbus (address : Nat) (page : Option Nat)    -- a READ_POUT of a board regulator (R341)
  | bmi (bytes : Bytes)
  | tdo (value : Nat)
  | nvmReset (ns : Nat)                          -- NVM_RESET_N driven low for a time, then high (R505)
  | closeConnection                              -- a connection closed before or in the handshake
  deriving DecidableEq, Repr

/-- The state of the block. -/
structure State where
  pending : List Instr             -- commands that wait, first in, first out
  regs : Map Nat                   -- register fields that differ from reset, keyed as in Machine/Regs.lean
  dial : DialSt
  sched : SchedSt
  ports : List PortSt
  front : FrontSt
  flow : TableSt
  endpoint : TableSt
  queue : QueueSt
  pipe : PipeSt
  slots : List SlotSt
  quant : QuantSt
  power : PowerSt
  tally : TallySt
  secure : SecureSt
  crown : CrownSt
  peer : PeerSt
  observe : ObserveSt
  log : LogSt
  pins : PinSt
  hbm : Mem                        -- load buffers, trace region and sample ring (R397)
  out : List Out                   -- newest last
  noticeSeq : Nat                  -- R429
  fresh : Nat                      -- free values drawn so far (log 3)
  deriving DecidableEq, Repr

/-- Why the machine stops. No command of the table ends in a fault: the manual gives every row an effect, and a check
that fails inside the device is a fault record or an event of the model, not a stop. -/
inductive Fault where
  | unreachable    -- raised by nothing: safe
  deriving DecidableEq, Repr

/-- Why a command has no meaning. -/
inductive Refusal where
  | notModelled (mnemonic : String)   -- raised by an arm of exec that has no meaning yet: safe
  deriving DecidableEq, Repr

/-! ## Reset -/

/-- The dial before it is set (R55). -/
def DialSt.reset : DialSt where
  now := 0
  time := 0
  source := 0
  lastEdge := none
  tod := none
  missingRow := 0
  pinsValid := false
  ptpValid := false
  pinsSince := 0
  ptpSince := 0
  goodRun := 0
  badRun := 0
  lastError := 0
  lockHist := []
  lockMark := 0
  holdStart := 0
  holdBase := 0
  warned := false
  stepPhase := 0
  stepLast := 0
  highest := 0
  masters := []
  chosen := none
  syncWait := none
  delaySent := none
  delaySeq := 0
  syncPair := none
  meanDelay := none
  lastSync := none
  lastAnnounce := none
  freeRun := false

/-- No schedule runs. -/
def SchedSt.reset : SchedSt where
  unitNo := 0
  running := none
  acts := []
  nextGrants := []
  shapeSet := []
  order := []
  loaded := []
  chosen := none
  decided := none
  frozen := none
  capW := 1200
  capNext := 1200
  spare := []
  spareLen := 0
  workShape := 0
  admitting := false
  restart := 0
  again := false
  readyBeat := 0
  genDue := false
  caughtUp := 0

/-- A head port before its link is up; four lanes and Keafen version 2 (R117). -/
def PortSt.reset : PortSt where
  v1 := false
  maxLanes := 2
  lastSeq := none
  retrain := none
  retrainLanes := []
  retrained := []
  quota := 0
  admitted := 0
  txOrdered := 0
  txShed := 0
  ordered := []
  shedding := []
  shedFirst := none
  shedPart := []
  v1Shed := []

/-- The front stage with empty tables (R139: counters from zero; the others come from images). -/
def FrontSt.reset : FrontSt where
  parse := []
  trans := []
  formats := []
  templates := []
  rules := []
  staging := []
  committed := none
  commitBeat := 0
  held := false
  meters := []
  meterNext := []
  counters := []
  vmap := []
  vmapNext := []
  vmapOld := []
  partNext := []
  privileged := 0
  lostRules := []
  tableLost := none

/-- An empty table in the native organisation (R155). -/
def TableSt.reset : TableSt where
  entries := []
  bank := [[], []]
  stash := []
  hash := [0, 0, 0, 0]
  free := none
  requests := []
  insertedBeat := 0
  filter := []
  rebuild := none
  idle := [[], []]
  newStash := []
  newHash := [0, 0, 0, 0]
  rebuilt := none
  rake := none
  sweepDue := false
  revBeat := []
  lostFree := []

/-- A model slot with nothing in it (R305). -/
def SlotSt.reset : SlotSt where
  active := none
  staging := 0
  staged := none
  counter := 0
  swap := none
  discardAfter := false
  adaptOn := false
  adaptHeld := false
  formAt := none
  retainedAt := none
  image := false
  imageLen := 0
  distHeld := false
  labels := []
  blocks := []
  adapt := {
    round := 0
    roundsFrom := none
    sample := []
    sampleEval := false
    gacc := []
    lossC := 0
    lossA := 0
    eval := 0
    groupsDone := 0
    updating := false
    stepEnd := 0
    tentative := []
    elems := []
    anchor := [] }
  wasActive := false

/-- The regulator at the lowest point, only PD0 powered; K[c] = 32,768 (R341, R358, R499). -/
def PowerSt.reset : PowerSt where
  point := 0
  gate := 0
  request := none
  theta := 15
  coolRun := 0
  volt := List.replicate 16 0
  vref := []
  weight := []
  leak := []
  leakOff := []
  eBulk := [0, 0]
  energy := List.replicate 20 0
  dynamic := List.replicate 20 0
  raw := [0, 0, 0, 0]
  measured := [0, 0, 0, 0]
  failedRead := [false, false, false, false]
  pendingVr := []
  correct := [32768, 32768, 32768, 32768]
  correctNext := [32768, 32768, 32768, 32768]
  estimate := [0, 0, 0, 0]
  telemetryDue := []
  fixedNext := false
  fixedPointNext := 9
  fixedPointNow := 9
  maxPointUsed := 0
  bulk := [400000, 1048576]
  roundEnergy := 0
  roundPeriods := 0
  kiloEnergy := 0
  kiloPeriods := 0
  kiloNeed := false
  sensors := []
  failedSensors := []
  stretching := []
  lastClear := none
  stretched := []
  pdOff4 := false
  pdOff19 := false
  starting := []
  hubTrip := false
  slacks := []
  members := []
  exchange := 0
  given := []
  received := []
  lastGiven := none
  lastSlacks := []
  switchUp := false
  supply := 0
  supplyFall := none
  choice := none
  kiloLast := (0, 0, false)
  moved := (0, 0, 0)

/-- No epoch has run. -/
def TallySt.reset : TallySt where
  open_ := none
  frozen := []
  carry := 0
  seq := 0
  prevHash := List.replicate 32 0
  ring := []
  collected := none
  levelsDone := 0
  headKeys := []
  computeKeys := []
  adaptKeys := []
  memKeys := []
  linkJobs := []
  restartNow := 0
  cutPeriod := false

/-- Nothing has been verified. -/
def SecureSt.reset : SecureSt where
  input := none
  nvmLog := []
  header := 0
  secret := []
  attestPk := []
  crownPk := []
  keyId := []
  ownerKey := []
  fwDigest := []
  cfgDigest := []
  testHash := []
  bootFlags := 0
  regions := []
  presetLocks := []
  slots := []
  models := []
  table := []
  config := []
  operators := []
  halted := false
  startAt := none
  powerGood := false
  attests := []

def CrownSt.reset : CrownSt where
  sessions := []
  nextSerial := 0
  posts := 0
  jobs := []
  retired := []
  lastQueue := 0
  captures := []
  router6 := none
  neighbours := []

/-- A peer link that is down. -/
def LinkSt.reset : LinkSt where
  lseqTx := 0
  lseqRx := 0
  sent := []
  nakking := false
  resent := none
  lastHello := none
  credits := []
  waiting := []
  retrain := none
  retrainLanes := []
  retrained := []
  base := 0
  group := none
  stuck := []
  creditAt := []
  upAt := 0

def PeerSt.reset : PeerSt where
  address := 0
  topology := 0
  ringSize := 2
  xSize := 2
  ySize := 2
  etherType := 0x88B6
  group := 0
  links := List.replicate 4 LinkSt.reset
  nextMessage := 0
  relays := []
  relayWait := []
  buffers := []
  parts := []
  distTx := none
  distRx := []
  remoteJobs := []

def ObserveSt.reset : ObserveSt where
  startReq := none
  snapshots := []
  runLost := 0
  runSeq := 0
  snapBeat := none
  trace := []
  lostSince := 0
  dump := []
  dumpOpen := false
  hangs := []
  failing := []
  channelFaults := []
  hbmTransfers := 0
  tagWaits := 0
  barrierWaits := 0

def LogSt.reset : LogSt where
  seq := 0
  coldResets := 0
  warmRestarts := 0
  powerOnS := 0
  trips := 0
  failedEvents := 0
  failedDies := 0
  failedStacks := 0
  failedPeerLanes := 0
  failedClusters := 0
  failedHeadLanes := 0
  failedChannels := 0
  tripLog := []
  faults := List.replicate 16 (0, 0)
  pointHist := List.replicate 16 0
  tempHist := List.replicate 5 (List.replicate 32 0)
  due := false
  clearDue := false
  sector := 0
  sectors := 0
  intervalLeft := 3600
  base := 0
  record := []
  marked := []

/-- Status outputs released, the outputs of R505 at high impedance, lanes not transmitting, the test access port at IDCODE (R504,
R505, R499; IEEE 1149.1 selects IDCODE at reset: log 9). -/
def PinSt.reset : PinSt where
  tripN := true
  faultN := true
  admitN := true
  ppsOut := .floating
  nvmSck := .floating
  nvmCsN := .floating
  nvmDq := .floating
  nvmResetN := .floating
  pmb := .floating
  tdo := .floating
  pwrgood := false
  resetN := false
  bmiAddr := 0
  bmiOffset := 0
  tapIr := 1
  lanesOff := true

/-- The machine in cold reset, before its first cold start (R17, R499): every register at its reset value. -/
def State.reset : State where
  pending := []
  regs := []
  dial := DialSt.reset
  sched := SchedSt.reset
  ports := List.replicate 8 PortSt.reset
  front := FrontSt.reset
  flow := TableSt.reset
  endpoint := TableSt.reset
  queue := { queues := [], ram := [], struck := [] }
  pipe := { batches := [], flights := [], nextTag := 0, retiredBeat := 0, arrivals := 0 }
  slots := List.replicate 16 SlotSt.reset
  quant := { staged := [], force := [] }
  power := PowerSt.reset
  tally := TallySt.reset
  secure := SecureSt.reset
  crown := CrownSt.reset
  peer := PeerSt.reset
  observe := ObserveSt.reset
  log := LogSt.reset
  pins := PinSt.reset
  hbm := []
  out := []
  noticeSeq := 0
  fresh := 0

end Sys2Proof.Machine
end

