-- ==== Sys2Proof/Machine/Regs.lean ====
section
/-! DEFINITION. The registers of the control space, one definition for each field, as the register tables of the chapters
give them, and reading and writing them (R14 to R17, R431). A field is stored under the key address × 64 + lowest bit; a
field at its reset value is not listed. Fields whose reset value a register table takes from the configuration image or
from the test record are written at boot and stand at 0 before it (log 8). -/

namespace Sys2Proof.Machine

/-- The access codes of R15. -/
inductive Access where
  | ro | rw | w1c | w1s | rwl
  deriving DecidableEq, Repr

/-- A field of a register: its address, lowest bit, width, access code and reset value, and whether it keeps its value
across a warm restart (R17). -/
structure Field where
  addr : Nat
  lsb : Nat
  width : Nat
  access : Access
  reset : Nat
  keep : Bool
  deriving DecidableEq, Repr

/-- A register, or an array of them at a stride. -/
structure RegDef where
  base : Nat
  stride : Nat
  count : Nat
  fields : Nat → List Field

/-- FREQ_MHZ of voltage-table point p (R334). -/
def pointMhz (p : Nat) : Nat :=
  [600, 700, 800, 900, 1000, 1100, 1200, 1300, 1400, 1500, 1550, 1600, 1650, 1700, 1750, 1800].getD p 0

/-! ### DIAL_CTRL: source selection and options (R81) -/

/-- R82 [63]: 1: RWL fields of the DIAL block are frozen. -/
def DIAL_CTRL.LOCK : Field := ⟨0x10000, 63, 1, .w1s, 0, true⟩

/-- R82 [7]: 1: start the dial at 0 s without a source (R59). -/
def DIAL_CTRL.FREE_RUN_START : Field := ⟨0x10000, 7, 1, .rwl, 0, true⟩

/-- R82 [6]: 1: forward steps are permitted (R57). -/
def DIAL_CTRL.STEP_EN : Field := ⟨0x10000, 6, 1, .rwl, 0, true⟩

/-- R82 [5]: 1: fall back to the other source (R49). -/
def DIAL_CTRL.FALLBACK_EN : Field := ⟨0x10000, 5, 1, .rwl, 0, true⟩

/-- R82 [1:0]: 0b00 timing pins; 0b01 IEEE 1588-2019; 0b10 and 0b11 are reserved and act as 0b00, so a write of either selects the timing pins under R49. -/
def DIAL_CTRL.SOURCE : Field := ⟨0x10000, 0, 2, .rwl, 0, true⟩

/-! ### DIAL_STATUS: state and source status (R81) -/

/-- R83 [7:5]: dial state code (R55). -/
def DIAL_STATUS.STATE : Field := ⟨0x10008, 5, 3, .ro, 0, true⟩

/-- R83 [4]: 0 timing pins; 1 IEEE 1588-2019. -/
def DIAL_STATUS.ACTIVE_SOURCE : Field := ⟨0x10008, 4, 1, .ro, 0, true⟩

/-- R83 [3]: 1: LOCKED has been reached since the last cold reset; kept across a warm restart. -/
def DIAL_STATUS.EVER_LOCKED : Field := ⟨0x10008, 3, 1, .ro, 0, true⟩

/-- R83 [2]: 1: the dial is running. -/
def DIAL_STATUS.SET : Field := ⟨0x10008, 2, 1, .ro, 0, true⟩

/-- R83 [1]: 1: a 1PPS edge arrived in the last 1,100,000,000 dial ns. -/
def DIAL_STATUS.PPS_PRESENT : Field := ⟨0x10008, 1, 1, .ro, 0, true⟩

/-- R83 [0]: 1: an IEEE 1588-2019 master is being heard. -/
def DIAL_STATUS.MASTER_SEEN : Field := ⟨0x10008, 0, 1, .ro, 0, true⟩

/-! ### DIAL_NOW_SEC: dial seconds (R81) -/

/-- R83 [47:0]: dial seconds; a read latches DIAL_NOW_NS and DIAL_ROUND; kept across a warm restart. -/
def DIAL_NOW_SEC.SECONDS : Field := ⟨0x10010, 0, 48, .ro, 0, true⟩

/-! ### DIAL_NOW_NS: dial nanoseconds (R81) -/

/-- R83 [31:0]: dial nanoseconds at the last read of DIAL_NOW_SEC; kept across a warm restart. -/
def DIAL_NOW_NS.NS : Field := ⟨0x10018, 0, 32, .ro, 0, true⟩

/-! ### DIAL_BATCH: current batch number (R81) -/

/-- R83 [63:0]: batch number of the current beat (R28); kept across a warm restart. -/
def DIAL_BATCH.BATCH : Field := ⟨0x10020, 0, 64, .ro, 0, true⟩

/-! ### DIAL_ROUND: beat and round position (R81) -/

/-- R83 [51:32]: beat within the second, at the last read of DIAL_NOW_SEC. -/
def DIAL_ROUND.BEAT_INDEX : Field := ⟨0x10028, 32, 20, .ro, 0, true⟩

/-- R83 [31:20]: beat within the round, latched likewise; 0 while no schedule runs, since there is then no round length. -/
def DIAL_ROUND.BEAT_IN_ROUND : Field := ⟨0x10028, 20, 12, .ro, 0, true⟩

/-- R83 [16:0]: round within the second, latched likewise; 0 while no schedule runs. -/
def DIAL_ROUND.ROUND_INDEX : Field := ⟨0x10028, 0, 17, .ro, 0, true⟩

/-! ### DIAL_OFFSET: last measured error (R81) -/

/-- R83 [63:32]: number of error measurements since the dial was set. -/
def DIAL_OFFSET.MEASURE_COUNT : Field := ⟨0x10030, 32, 32, .ro, 0, true⟩

/-- R83 [31:0]: s32 source time minus dial time at the last measurement, saturated. -/
def DIAL_OFFSET.OFFSET_NS : Field := ⟨0x10030, 0, 32, .ro, 0, true⟩

/-! ### DIAL_FREQ_ADJ: frequency correction in force (R81) -/

/-- R83 [31:0]: s32 frequency correction in force, in units of 2^-8 ppb. -/
def DIAL_FREQ_ADJ.ADJ : Field := ⟨0x10038, 0, 32, .ro, 0, true⟩

/-! ### DIAL_SLEW: slew limit (R81) -/

/-- R82 [16:0]: slew limit in ppb; values above 100,000 act as 100,000. -/
def DIAL_SLEW.MAX_PPB : Field := ⟨0x10040, 0, 17, .rwl, 10000, true⟩

/-! ### DIAL_STEP_THRESHOLD: step threshold (R81) -/

/-- R82 [31:0]: step threshold in dial ns. -/
def DIAL_STEP_THRESHOLD.NS : Field := ⟨0x10048, 0, 32, .rwl, 10000, true⟩

/-! ### DIAL_HOLDOVER_CFG: holdover stability and limits (R81) -/

/-- R82 [63:40]: bound at which EXPIRED is entered, in dial ns. -/
def DIAL_HOLDOVER_CFG.LIMIT_NS : Field := ⟨0x10050, 40, 24, .rwl, 100000, true⟩

/-- R82 [39:16]: bound at which HOLDOVER_WARN is set, in dial ns. -/
def DIAL_HOLDOVER_CFG.WARN_NS : Field := ⟨0x10050, 16, 24, .rwl, 1000, true⟩

/-- R82 [15:0]: declared reference stability in ppb. -/
def DIAL_HOLDOVER_CFG.STABILITY_PPB : Field := ⟨0x10050, 0, 16, .rwl, 50, true⟩

/-! ### DIAL_HOLDOVER_BOUND: holdover bound and duration (R81) -/

/-- R83 [63:32]: whole dial seconds spent in the current holdover. -/
def DIAL_HOLDOVER_BOUND.ELAPSED_S : Field := ⟨0x10058, 32, 32, .ro, 0, true⟩

/-- R83 [31:0]: current error bound (R60). -/
def DIAL_HOLDOVER_BOUND.BOUND_NS : Field := ⟨0x10058, 0, 32, .ro, 0, true⟩

/-! ### DIAL_EVENTS: event flags (R81) -/

/-- R84 [12]: LOCKED is left for ACQUIRING with the source valid (R56). -/
def DIAL_EVENTS.UNLOCKED : Field := ⟨0x10060, 12, 1, .w1c, 0, true⟩

/-- R84 [11]: admission stops under R73. -/
def DIAL_EVENTS.CATCHUP_STARTED : Field := ⟨0x10060, 11, 1, .w1c, 0, true⟩

/-- R84 [10]: a change of point is deferred (R76). -/
def DIAL_EVENTS.FREQ_DEFERRED : Field := ⟨0x10060, 10, 1, .w1c, 0, true⟩

/-- R84 [9]: a decision of R75 gives a shed set, grants or capacity that differ from the previous decision. -/
def DIAL_EVENTS.SHED_SET_CHANGED : Field := ⟨0x10060, 9, 1, .w1c, 0, true⟩

/-- R84 [8]: a batch receives late verdicts (R73). -/
def DIAL_EVENTS.LATE_BATCH : Field := ⟨0x10060, 8, 1, .w1c, 0, true⟩

/-- R84 [7]: an activity is held (R77). -/
def DIAL_EVENTS.BUDGET_HELD : Field := ⟨0x10060, 7, 1, .w1c, 0, true⟩

/-- R84 [6]: a count in DIAL_TOD_ERRORS increases. -/
def DIAL_EVENTS.TOD_ERROR : Field := ⟨0x10060, 6, 1, .w1c, 0, true⟩

/-- R84 [5]: the active source changes (R49). -/
def DIAL_EVENTS.SOURCE_SWITCHED : Field := ⟨0x10060, 5, 1, .w1c, 0, true⟩

/-- R84 [4]: admission resumes after a step, at step 4 of R58; or, with no schedule running, the dial takes the source time. -/
def DIAL_EVENTS.STEP_DONE : Field := ⟨0x10060, 4, 1, .w1c, 0, true⟩

/-- R84 [3]: EXPIRED is entered (R61). -/
def DIAL_EVENTS.HOLDOVER_EXPIRED : Field := ⟨0x10060, 3, 1, .w1c, 0, true⟩

/-- R84 [2]: the bound first exceeds WARN_NS (R61). -/
def DIAL_EVENTS.HOLDOVER_WARN : Field := ⟨0x10060, 2, 1, .w1c, 0, true⟩

/-- R84 [1]: HOLDOVER is entered (R56). -/
def DIAL_EVENTS.LOCK_LOST : Field := ⟨0x10060, 1, 1, .w1c, 0, true⟩

/-- R84 [0]: LOCKED is entered (R56). -/
def DIAL_EVENTS.LOCK_GAINED : Field := ⟨0x10060, 0, 1, .w1c, 0, true⟩

/-! ### DIAL_EVENT_NOTIFY: notice enables (R81) -/

/-- R82 [12:0]: bit i set: event i of DIAL_EVENTS raises a notice. -/
def DIAL_EVENT_NOTIFY.MASK : Field := ⟨0x10068, 0, 13, .rw, 0x1FFF, true⟩

/-! ### DIAL_PTP_CFG: IEEE 1588-2019 settings (R81) -/

/-- R82 [17:16]: 0b00 IEEE 802.3; 0b01 UDP over IPv4; 0b10 UDP over IPv6; 0b11 reserved. -/
def DIAL_PTP_CFG.TRANSPORT : Field := ⟨0x10070, 16, 2, .rwl, 0, true⟩

/-- R82 [15:12]: announce receipt timeout, in announce intervals (2 to 15); 0 and 1 act as 2. -/
def DIAL_PTP_CFG.ANNOUNCE_TIMEOUT : Field := ⟨0x10070, 12, 4, .rwl, 3, true⟩

/-- R82 [11:8]: s4 base-2 logarithm of the Sync interval in seconds, from −7 to 0 (reset value −3); 1 to 7 act as 0, and −8 acts as −7. -/
def DIAL_PTP_CFG.SYNC_LOG : Field := ⟨0x10070, 8, 4, .rwl, 13, true⟩

/-- R82 [7:0]: domain number. -/
def DIAL_PTP_CFG.DOMAIN : Field := ⟨0x10070, 0, 8, .rwl, 0, true⟩

/-! ### DIAL_TOD_ERRORS: time-of-day errors (R81) -/

/-- R83 [63:32]: pulses that arrived without an accepted message before them, one count for each such pulse (R52). -/
def DIAL_TOD_ERRORS.MISSING : Field := ⟨0x10078, 32, 32, .ro, 0, true⟩

/-- R83 [31:0]: discarded messages and early edges (R51, R52). -/
def DIAL_TOD_ERRORS.BAD : Field := ⟨0x10078, 0, 32, .ro, 0, true⟩

/-! ### DIAL_SCHEDULE_ID: identifier of the running schedule (R81) -/

/-- R85 [63:0]: SCHEDULE_ID of the running schedule. -/
def DIAL_SCHEDULE_ID.ID : Field := ⟨0x10080, 0, 64, .ro, 0, false⟩

/-! ### DIAL_SCHEDULE: header values of the running schedule (R81) -/

/-- R85 [63:56]: from the header (R65). -/
def DIAL_SCHEDULE.ACTIVITY_COUNT : Field := ⟨0x10088, 56, 8, .ro, 0, false⟩

/-- R85 [55:44]: from the header. -/
def DIAL_SCHEDULE.DROOP_MARGIN_PPM : Field := ⟨0x10088, 44, 12, .ro, 0, false⟩

/-- R85 [43:32]: from the header. -/
def DIAL_SCHEDULE.FMIN_MHZ : Field := ⟨0x10088, 32, 12, .ro, 0, false⟩

/-- R85 [31:16]: from the header. -/
def DIAL_SCHEDULE.BATCH_CAPACITY : Field := ⟨0x10088, 16, 16, .ro, 0, false⟩

/-- R85 [15:12]: from the header. -/
def DIAL_SCHEDULE.LATENCY_BEATS : Field := ⟨0x10088, 12, 4, .ro, 0, false⟩

/-- R85 [11:0]: from the header. -/
def DIAL_SCHEDULE.ROUND_BEATS : Field := ⟨0x10088, 0, 12, .ro, 0, false⟩

/-! ### DIAL_SHED_MASK: shed set of the current round (R81) -/

/-- R85 [63:0]: bit a set: activity a is shed or granted 0 in the current round. -/
def DIAL_SHED_MASK.SHED : Field := ⟨0x10090, 0, 64, .ro, 0, false⟩

/-! ### DIAL_FREQ_STATE: ACLK points and deferrals (R81) -/

/-- R85 [63:32]: deferrals under R76. -/
def DIAL_FREQ_STATE.DEFERRALS : Field := ⟨0x10098, 32, 32, .ro, 0, true⟩

/-- R85 [27:16]: f_pend, the point requested for the next boundary. -/
def DIAL_FREQ_STATE.PENDING_MHZ : Field := ⟨0x10098, 16, 12, .ro, 0, false⟩

/-- R85 [11:0]: f_now, the point in force. -/
def DIAL_FREQ_STATE.IN_FORCE_MHZ : Field := ⟨0x10098, 0, 12, .ro, 0, false⟩

/-! ### DIAL_LATE_BATCHES: late batch count (R81) -/

/-- R85 [63:0]: batches given late verdicts. -/
def DIAL_LATE_BATCHES.COUNT : Field := ⟨0x100A0, 0, 64, .ro, 0, true⟩

/-! ### DIAL_ADMISSION: capacity and catch-up (R81) -/

/-- R85 [63:32]: beats in catch-up (R73). -/
def DIAL_ADMISSION.CATCHUP_BEATS : Field := ⟨0x100A8, 32, 32, .ro, 0, false⟩

/-- R85 [16]: 1: admission is stopped under R73. -/
def DIAL_ADMISSION.CATCHUP : Field := ⟨0x100A8, 16, 1, .ro, 0, false⟩

/-- R85 [15:0]: capacity in force (R75). -/
def DIAL_ADMISSION.CAPACITY : Field := ⟨0x100A8, 0, 16, .ro, 0, false⟩

/-! ### DIAL_ACT_USE[a]: budget use of activity a, for a = 0 to 63 (R81) -/

/-- R85 [63:32]: cycles used in the last complete round. -/
def DIAL_ACT_USE.CYCLES_LAST (a : Nat) : Field := ⟨0x10400 + 16 * a, 32, 32, .ro, 0, false⟩

/-- R85 [31:0]: budget granted for the current round. -/
def DIAL_ACT_USE.GRANTED (a : Nat) : Field := ⟨0x10400 + 16 * a, 0, 32, .ro, 0, false⟩

/-! ### DIAL_ACT_COUNT[a]: holds and sheds of activity a, for a = 0 to 63 (R81) -/

/-- R85 [47:24]: rounds in which the activity was held (R77). -/
def DIAL_ACT_COUNT.HELD_ROUNDS (a : Nat) : Field := ⟨0x10408 + 16 * a, 24, 24, .ro, 0, false⟩

/-- R85 [23:0]: rounds in which the activity was shed or granted 0 (R75). -/
def DIAL_ACT_COUNT.SHED_ROUNDS (a : Nat) : Field := ⟨0x10408 + 16 * a, 0, 24, .ro, 0, false⟩

/-! ### HEADPORT_CTRL: EtherType, tag acceptance, source identifier, lock (R116) -/

/-- R117 [63]: 1: RWL fields of the HEADPORT block are frozen. -/
def HEADPORT_CTRL.LOCK : Field := ⟨0x20000, 63, 1, .w1s, 0, true⟩

/-- R117 [47:32]: SOURCE_ID of verdict bundles. -/
def HEADPORT_CTRL.SOURCE_ID : Field := ⟨0x20000, 32, 16, .rwl, 0, true⟩

/-- R117 [16]: 1: tagged head bundles are accepted (R90). -/
def HEADPORT_CTRL.ACCEPT_VLAN : Field := ⟨0x20000, 16, 1, .rwl, 1, true⟩

/-- R117 [15:0]: EtherType of bundles; a value below 0x0600 makes every frame an ETHERTYPE discard. -/
def HEADPORT_CTRL.ETHERTYPE : Field := ⟨0x20000, 0, 16, .rwl, 0x88B5, true⟩

/-! ### HEADPORT_EVENTS: event flags (R116) -/

/-- R118 [5]: a head is shed for quota (R104). -/
def HEADPORT_EVENTS.QUOTA_SHED : Field := ⟨0x20008, 5, 1, .w1c, 0, false⟩

/-- R118 [4]: a MAC control frame is discarded (R87). -/
def HEADPORT_EVENTS.MAC_CONTROL : Field := ⟨0x20008, 4, 1, .w1c, 0, false⟩

/-- R118 [3]: a sequence gap is counted (R94). -/
def HEADPORT_EVENTS.SEQ_GAP : Field := ⟨0x20008, 3, 1, .w1c, 0, false⟩

/-- R118 [2]: a head bundle is discarded (R92). -/
def HEADPORT_EVENTS.DISCARD : Field := ⟨0x20008, 2, 1, .w1c, 0, false⟩

/-- R118 [1]: a lane fault is found lasting (R89). -/
def HEADPORT_EVENTS.LANE_FAILED : Field := ⟨0x20008, 1, 1, .w1c, 0, false⟩

/-- R118 [0]: a retrain succeeds (R89). -/
def HEADPORT_EVENTS.LANE_RETRAINED : Field := ⟨0x20008, 0, 1, .w1c, 0, false⟩

/-! ### HEADPORT_EVENT_NOTIFY: notice enables (R116) -/

/-- R117 [5:0]: bit i set: event i of HEADPORT_EVENTS raises a notice. -/
def HEADPORT_EVENT_NOTIFY.MASK : Field := ⟨0x20010, 0, 6, .rw, 0x3F, true⟩

/-! ### HEADPORT_PORT_CFG[p]: port configuration (R116) -/

/-- R117 [52:40]: heads per beat (R104); 0 for no limit. -/
def HEADPORT_PORT_CFG.QUOTA (p : Nat) : Field := ⟨0x20100 + 0x40 * p, 40, 13, .rw, 0, true⟩

/-- R117 [37:32]: partition hint for version 1 heads (R99). -/
def HEADPORT_PORT_CFG.V1_PARTITION (p : Nat) : Field := ⟨0x20100 + 0x40 * p, 32, 6, .rwl, 0, true⟩

/-- R117 [31:27]: SHED_ARG, the ACTION_ARG of shed verdicts: MIRROR_EN and MIRROR_SESSION; its bit [10] is reserved (R108). -/
def HEADPORT_PORT_CFG.SHED_MIRROR (p : Nat) : Field := ⟨0x20100 + 0x40 * p, 27, 5, .rw, 0, true⟩

/-- R117 [25:16]: SHED_ARG: EGRESS_PORT (R108). -/
def HEADPORT_PORT_CFG.SHED_EGRESS (p : Nat) : Field := ⟨0x20100 + 0x40 * p, 16, 10, .rw, 0, true⟩

/-- R117 [15:8]: ACTION of shed verdicts; values other than those of R107 act as 0x00. -/
def HEADPORT_PORT_CFG.SHED_ACTION (p : Nat) : Field := ⟨0x20100 + 0x40 * p, 8, 8, .rw, 0x00, true⟩

/-- R117 [7:6]: 0b00 1 lane; 0b01 2 lanes; 0b10 4 lanes; 0b11 acts as 0b10. -/
def HEADPORT_PORT_CFG.MAX_LANES (p : Nat) : Field := ⟨0x20100 + 0x40 * p, 6, 2, .rwl, 2, true⟩

/-- R117 [2]: 1: the port speaks Keafen version 1. -/
def HEADPORT_PORT_CFG.KEAFEN_V1 (p : Nat) : Field := ⟨0x20100 + 0x40 * p, 2, 1, .rwl, 0, true⟩

/-- R117 [1]: 0: every head of the port is shed with SHED_REASON 6. -/
def HEADPORT_PORT_CFG.ADMIT_EN (p : Nat) : Field := ⟨0x20100 + 0x40 * p, 1, 1, .rw, 1, true⟩

/-- R117 [0]: 0: the port's lanes are off. -/
def HEADPORT_PORT_CFG.ENABLE (p : Nat) : Field := ⟨0x20100 + 0x40 * p, 0, 1, .rwl, 1, true⟩

/-! ### HEADPORT_LOCAL_MAC[p]: source address of verdict bundles (R116) -/

/-- R117 [47:0]: source address of verdict bundles. -/
def HEADPORT_LOCAL_MAC.ADDRESS (p : Nat) : Field := ⟨0x20108 + 0x40 * p, 0, 48, .rwl, 0, true⟩

/-! ### HEADPORT_PEER_MAC[p]: destination address of verdict bundles (R116) -/

/-- R117 [47:0]: destination address of verdict bundles. -/
def HEADPORT_PEER_MAC.ADDRESS (p : Nat) : Field := ⟨0x20110 + 0x40 * p, 0, 48, .rwl, 0xFFFFFFFFFFFF, true⟩

/-! ### HEADPORT_VLAN[p]: tag of verdict bundles (R116) -/

/-- R117 [16]: 1: verdict bundles carry an IEEE 802.1Q tag. -/
def HEADPORT_VLAN.TAG_EN (p : Nat) : Field := ⟨0x20118 + 0x40 * p, 16, 1, .rwl, 0, true⟩

/-- R117 [15:0]: tag control information of that tag. -/
def HEADPORT_VLAN.TCI (p : Nat) : Field := ⟨0x20118 + 0x40 * p, 0, 16, .rwl, 0, true⟩

/-! ### HEADPORT_STATUS[p]: lane and link status (R116) -/

/-- R119 [15:12]: bit l set: lane l of the port has a lasting fault. -/
def HEADPORT_STATUS.LANE_FAULT (p : Nat) : Field := ⟨0x20120 + 0x40 * p, 12, 4, .ro, 0, true⟩

/-- R119 [11:8]: bit l set: lane l has block lock. -/
def HEADPORT_STATUS.LOCKED (p : Nat) : Field := ⟨0x20120 + 0x40 * p, 8, 4, .ro, 0, false⟩

/-- R119 [4]: 1: lanes in use are aligned and the link is up. -/
def HEADPORT_STATUS.ALIGNED (p : Nat) : Field := ⟨0x20120 + 0x40 * p, 4, 1, .ro, 0, false⟩

/-- R119 [3:2]: 0b00 down; 0b01 1 lane; 0b10 2 lanes; 0b11 4 lanes. -/
def HEADPORT_STATUS.ACTIVE_LANES (p : Nat) : Field := ⟨0x20120 + 0x40 * p, 2, 2, .ro, 0, false⟩

/-- R119 [1:0]: lowest lane of the port in use. -/
def HEADPORT_STATUS.LANE_BASE (p : Nat) : Field := ⟨0x20120 + 0x40 * p, 0, 2, .ro, 0, false⟩

/-! ### HEADPORT_RX_BUNDLES[p]: accepted head bundles (R116) -/

/-- R119 [63:0]: accepted head bundles. -/
def HEADPORT_RX_BUNDLES.COUNT (p : Nat) : Field := ⟨0x20400 + 0x80 * p, 0, 64, .ro, 0, false⟩

/-! ### HEADPORT_RX_HEADS[p]: heads in accepted bundles (R116) -/

/-- R119 [63:0]: heads in accepted bundles. -/
def HEADPORT_RX_HEADS.COUNT (p : Nat) : Field := ⟨0x20408 + 0x80 * p, 0, 64, .ro, 0, false⟩

/-! ### HEADPORT_TX_VERDICTS[p]: verdicts sent, both streams (R116) -/

/-- R119 [63:0]: verdict records sent. -/
def HEADPORT_TX_VERDICTS.COUNT (p : Nat) : Field := ⟨0x20410 + 0x80 * p, 0, 64, .ro, 0, false⟩

/-! ### HEADPORT_DISCARDS[p]: discarded bundles by cause (R116) -/

/-- R119 [63:48]: R92 cause 1. -/
def HEADPORT_DISCARDS.FCS (p : Nat) : Field := ⟨0x20418 + 0x80 * p, 48, 16, .ro, 0, false⟩

/-- R119 [47:32]: R92 cause 4. -/
def HEADPORT_DISCARDS.LENGTH (p : Nat) : Field := ⟨0x20418 + 0x80 * p, 32, 16, .ro, 0, false⟩

/-- R119 [31:16]: R92 causes 3 and 5. -/
def HEADPORT_DISCARDS.HEADER (p : Nat) : Field := ⟨0x20418 + 0x80 * p, 16, 16, .ro, 0, false⟩

/-- R119 [15:0]: R92 cause 2. -/
def HEADPORT_DISCARDS.ETHERTYPE (p : Nat) : Field := ⟨0x20418 + 0x80 * p, 0, 16, .ro, 0, false⟩

/-! ### HEADPORT_SEQ[p]: sequence gaps (R116) -/

/-- R119 [63:32]: sequence gaps (R94). -/
def HEADPORT_SEQ.GAPS (p : Nat) : Field := ⟨0x20420 + 0x80 * p, 32, 32, .ro, 0, false⟩

/-- R119 [31:0]: SEQUENCE of the last accepted head bundle. -/
def HEADPORT_SEQ.LAST_SEQUENCE (p : Nat) : Field := ⟨0x20420 + 0x80 * p, 0, 32, .ro, 0, false⟩

/-! ### HEADPORT_FEC[p]: forward error correction counts (R116) -/

/-- R119 [63:32]: uncorrectable codewords, all lanes. -/
def HEADPORT_FEC.UNCORRECTABLE (p : Nat) : Field := ⟨0x20428 + 0x80 * p, 32, 32, .ro, 0, false⟩

/-- R119 [31:0]: corrected codewords, all lanes. -/
def HEADPORT_FEC.CORRECTED (p : Nat) : Field := ⟨0x20428 + 0x80 * p, 0, 32, .ro, 0, false⟩

/-! ### HEADPORT_SHED_A[p]: capacity and quota sheds (R116) -/

/-- R119 [63:32]: sheds with SHED_REASON 1. -/
def HEADPORT_SHED_A.CAPACITY (p : Nat) : Field := ⟨0x20430 + 0x80 * p, 32, 32, .ro, 0, false⟩

/-- R119 [31:0]: sheds with SHED_REASON 2. -/
def HEADPORT_SHED_A.QUOTA (p : Nat) : Field := ⟨0x20430 + 0x80 * p, 0, 32, .ro, 0, false⟩

/-! ### HEADPORT_SHED_B[p]: catch-up and step sheds (R116) -/

/-- R119 [63:32]: sheds with SHED_REASON 3. -/
def HEADPORT_SHED_B.CATCHUP (p : Nat) : Field := ⟨0x20438 + 0x80 * p, 32, 32, .ro, 0, false⟩

/-- R119 [31:0]: sheds with SHED_REASON 4. -/
def HEADPORT_SHED_B.STEP (p : Nat) : Field := ⟨0x20438 + 0x80 * p, 0, 32, .ro, 0, false⟩

/-! ### HEADPORT_SHED_C[p]: no-schedule and disabled sheds (R116) -/

/-- R119 [63:32]: sheds with SHED_REASON 5. -/
def HEADPORT_SHED_C.NO_SCHEDULE (p : Nat) : Field := ⟨0x20440 + 0x80 * p, 32, 32, .ro, 0, false⟩

/-- R119 [31:0]: sheds with SHED_REASON 6. -/
def HEADPORT_SHED_C.DISABLED (p : Nat) : Field := ⟨0x20440 + 0x80 * p, 0, 32, .ro, 0, false⟩

/-! ### HEADPORT_LATE[p]: late verdicts (R116) -/

/-- R119 [63:0]: late verdicts sent. -/
def HEADPORT_LATE.COUNT (p : Nat) : Field := ⟨0x20448 + 0x80 * p, 0, 64, .ro, 0, false⟩

/-! ### HEADPORT_MISC[p]: retrains, MAC control frames, dropped verdicts (R116) -/

/-- R119 [63:48]: successful retrains (R89). -/
def HEADPORT_MISC.RETRAINS (p : Nat) : Field := ⟨0x20450 + 0x80 * p, 48, 16, .ro, 0, false⟩

/-- R119 [47:32]: discarded MAC control frames (R87). -/
def HEADPORT_MISC.MAC_CONTROL (p : Nat) : Field := ⟨0x20450 + 0x80 * p, 32, 16, .ro, 0, false⟩

/-- R119 [31:0]: verdicts discarded under R113. -/
def HEADPORT_MISC.VERDICTS_DROPPED (p : Nat) : Field := ⟨0x20450 + 0x80 * p, 0, 32, .ro, 0, false⟩

/-! ### FRONT_CTRL: lock (R150) -/

/-- R151 [63]: 1: RWL fields of the FRONT block are frozen. -/
def FRONT_CTRL.LOCK : Field := ⟨0x30000, 63, 1, .w1s, 0, false⟩

/-! ### FRONT_EVENTS: event flags (R150) -/

/-- R152 [6]: a lasting error is found outside the rules (R149). -/
def FRONT_EVENTS.TABLE_LOST : Field := ⟨0x30008, 6, 1, .w1c, 0, false⟩

/-- R152 [5]: a rule is invalidated (R149). -/
def FRONT_EVENTS.RULE_LOST : Field := ⟨0x30008, 5, 1, .w1c, 0, false⟩

/-- R152 [4]: a head is moved to partition 0 (R127). -/
def FRONT_EVENTS.HINT_INVALID : Field := ⟨0x30008, 4, 1, .w1c, 0, false⟩

/-- R152 [3]: a walk is truncated (R125). -/
def FRONT_EVENTS.PARSE_TRUNCATED : Field := ⟨0x30008, 3, 1, .w1c, 0, false⟩

/-- R152 [2]: a head is marked feature fault (R144). -/
def FRONT_EVENTS.FEATURE_FAULT : Field := ⟨0x30008, 2, 1, .w1c, 0, false⟩

/-- R152 [1]: a commit is refused (R133). -/
def FRONT_EVENTS.RULE_REFUSED : Field := ⟨0x30008, 1, 1, .w1c, 0, false⟩

/-- R152 [0]: a staging set is committed (R132). -/
def FRONT_EVENTS.RULE_COMMITTED : Field := ⟨0x30008, 0, 1, .w1c, 0, false⟩

/-! ### FRONT_EVENT_NOTIFY: notice enables (R150) -/

/-- R151 [6:0]: bit i set: event i of FRONT_EVENTS raises a notice. -/
def FRONT_EVENT_NOTIFY.MASK : Field := ⟨0x30010, 0, 7, .rw, 0x63, false⟩

/-! ### FRONT_RULE_CTRL: commit and discard (R150) -/

/-- R151 [1]: 1: empty the staging set; cleared by the HN2048 when done. -/
def FRONT_RULE_CTRL.DISCARD : Field := ⟨0x30018, 1, 1, .w1s, 0, false⟩

/-- R151 [0]: 1: check and commit the staging set (R132); cleared when checked. -/
def FRONT_RULE_CTRL.COMMIT : Field := ⟨0x30018, 0, 1, .w1s, 0, false⟩

/-! ### FRONT_RULE_STATUS: staging and commit status (R150) -/

/-- R151 [63]: 1: a committed set awaits the next beat. -/
def FRONT_RULE_STATUS.BUSY : Field := ⟨0x30020, 63, 1, .ro, 0, false⟩

/-- R151 [55:52]: 0 no commit yet; 1 committed; 2 to 5 refused (R133); 6 staging full. -/
def FRONT_RULE_STATUS.RESULT : Field := ⟨0x30020, 52, 4, .ro, 0, false⟩

/-- R151 [47:32]: rule index of the refusal. -/
def FRONT_RULE_STATUS.BAD_INDEX : Field := ⟨0x30020, 32, 16, .ro, 0, false⟩

/-- R151 [10:0]: entries in the staging set, 0 to 1,024. -/
def FRONT_RULE_STATUS.STAGED : Field := ⟨0x30020, 0, 11, .ro, 0, false⟩

/-! ### FRONT_PARSE_SHORT: short walks (R125) (R150) -/

/-- R151 [63:0]. -/
def FRONT_PARSE_SHORT.COUNT : Field := ⟨0x30028, 0, 64, .ro, 0, false⟩

/-! ### FRONT_PARSE_TRUNCATED: truncated walks (R125) (R150) -/

/-- R151 [63:0]. -/
def FRONT_PARSE_TRUNCATED.COUNT : Field := ⟨0x30030, 0, 64, .ro, 0, false⟩

/-! ### FRONT_RULE_HITS: heads with a matched rule (R150) -/

/-- R151 [63:0]. -/
def FRONT_RULE_HITS.COUNT : Field := ⟨0x30038, 0, 64, .ro, 0, false⟩

/-! ### FRONT_DEFAULTS: heads given the default action by the classifier or R147 (R150) -/

/-- R151 [63:0]. -/
def FRONT_DEFAULTS.COUNT : Field := ⟨0x30040, 0, 64, .ro, 0, false⟩

/-! ### FRONT_FEATURE_FAULTS: feature-fault heads (R144) (R150) -/

/-- R151 [63:0]. -/
def FRONT_FEATURE_FAULTS.COUNT : Field := ⟨0x30048, 0, 64, .ro, 0, false⟩

/-! ### FRONT_METER_RED: red heads (R150) -/

/-- R151 [63:0]. -/
def FRONT_METER_RED.COUNT : Field := ⟨0x30050, 0, 64, .ro, 0, false⟩

/-! ### FRONT_METER_YELLOW: yellow heads (R150) -/

/-- R151 [63:0]. -/
def FRONT_METER_YELLOW.COUNT : Field := ⟨0x30058, 0, 64, .ro, 0, false⟩

/-! ### FRONT_MISC: invalid hints and lost entries (R150) -/

/-- R151 [63:32]: heads moved to partition 0 (R127). -/
def FRONT_MISC.HINT_INVALID : Field := ⟨0x30060, 32, 32, .ro, 0, false⟩

/-- R151 [31:16]: rules invalidated (R149). -/
def FRONT_MISC.LOST_RULES : Field := ⟨0x30060, 16, 16, .ro, 0, false⟩

/-- R151 [15:0]: lasting errors in other front tables (R149). -/
def FRONT_MISC.LOST_WORDS : Field := ⟨0x30060, 0, 16, .ro, 0, false⟩

/-! ### FRONT_PART_A[n]: partition actions and selection (R150) -/

/-- R151 [63]: 1: the partition is in use; RO and 1 for n = 0. -/
def FRONT_PART_A.ENABLE (n : Nat) : Field := ⟨0x30100 + 16 * n, 63, 1, (if n = 0 then .ro else .rwl), (if n = 0 then 1 else 0), false⟩

/-- R151 [62]: 1: privileged (R128). -/
def FRONT_PART_A.PRIVILEGED (n : Nat) : Field := ⟨0x30100 + 16 * n, 62, 1, .ro, 0, true⟩

/-- R151 [59:56]: key template of the partition. -/
def FRONT_PART_A.KEY_TEMPLATE (n : Nat) : Field := ⟨0x30100 + 16 * n, 56, 4, .rwl, 0, false⟩

/-- R151 [55:40]: bit s set: slot s contributes to this partition's verdicts. -/
def FRONT_PART_A.SLOT_MASK (n : Nat) : Field := ⟨0x30100 + 16 * n, 40, 16, .rw, 0xFFFF, false⟩

/-- R151 [39:32]: default action; values other than those of R107 act as 0x00. -/
def FRONT_PART_A.DEFAULT_ACTION (n : Nat) : Field := ⟨0x30100 + 16 * n, 32, 8, .rw, 0x00, false⟩

/-- R151 [31:27]: DEFAULT_ARG, the ACTION_ARG of the default action: MIRROR_EN and MIRROR_SESSION; its bit [10] is reserved
(R108). -/
def FRONT_PART_A.DEFAULT_MIRROR (n : Nat) : Field := ⟨0x30100 + 16 * n, 27, 5, .rw, 0, false⟩

/-- R151 [25:16]: DEFAULT_ARG: EGRESS_PORT (R108). -/
def FRONT_PART_A.DEFAULT_EGRESS (n : Nat) : Field := ⟨0x30100 + 16 * n, 16, 10, .rw, 0, false⟩

/-! ### FRONT_PART_B[n]: partition accounts (R150) -/

/-- R151 [28:16]: accounts an ordinary partition's rules may name, 1 to 4,096; 0 acts as 1; the range ends at account 4,095. -/
def FRONT_PART_B.ACCOUNT_SPAN (n : Nat) : Field := ⟨0x30108 + 16 * n, 16, 13, .rwl, 1, false⟩

/-- R151 [11:0]: default account of the partition (R148). -/
def FRONT_PART_B.ACCOUNT_BASE (n : Nat) : Field := ⟨0x30108 + 16 * n, 0, 12, .rwl, n, false⟩

/-! ### TABLE_CTRL: organisations, learning modes, rake enables, lock (R185) -/

/-- R186 [63]: 1: RWL fields of the TABLE block are frozen. -/
def TABLE_CTRL.LOCK : Field := ⟨0x40000, 63, 1, .w1s, 0, false⟩

/-- R186 [9]: 0 native; 1 compatibility (R153). -/
def TABLE_CTRL.FLOW_ORG : Field := ⟨0x40000, 9, 1, .ro, 0, true⟩

/-- R186 [8]: as FLOW_ORG. -/
def TABLE_CTRL.EP_ORG : Field := ⟨0x40000, 8, 1, .ro, 0, true⟩

/-- R186 [5]: 0 notify; 1 move-update. -/
def TABLE_CTRL.FLOW_LEARN : Field := ⟨0x40000, 5, 1, .rwl, 1, false⟩

/-- R186 [4]: as FLOW_LEARN. -/
def TABLE_CTRL.EP_LEARN : Field := ⟨0x40000, 4, 1, .rwl, 0, false⟩

/-- R186 [3]: 0: no flow sweeps start. -/
def TABLE_CTRL.FLOW_RAKE_EN : Field := ⟨0x40000, 3, 1, .rw, 1, false⟩

/-- R186 [2]: 0: no endpoint sweeps start. -/
def TABLE_CTRL.EP_RAKE_EN : Field := ⟨0x40000, 2, 1, .rw, 1, false⟩

/-! ### TABLE_EVENTS: event flags (R185) -/

/-- R187 [9]: the rake removes an orphan (R176). -/
def TABLE_EVENTS.ORPHAN_REMOVED : Field := ⟨0x40008, 9, 1, .w1c, 0, false⟩

/-- R187 [8]: a sweep starts late (R175). -/
def TABLE_EVENTS.RAKE_OVERRUN : Field := ⟨0x40008, 8, 1, .w1c, 0, false⟩

/-- R187 [7]: a lasting fault is found (R183). -/
def TABLE_EVENTS.PARITY_LASTING : Field := ⟨0x40008, 7, 1, .w1c, 0, false⟩

/-- R187 [6]: a rebuild stops (R174). -/
def TABLE_EVENTS.REBUILD_FAILED : Field := ⟨0x40008, 6, 1, .w1c, 0, false⟩

/-- R187 [5]: a rebuild comes into force (R174). -/
def TABLE_EVENTS.REBUILD_DONE : Field := ⟨0x40008, 5, 1, .w1c, 0, false⟩

/-- R187 [4]: an insertion is refused for a full stash (R173). -/
def TABLE_EVENTS.REHASH_REQUEST : Field := ⟨0x40008, 4, 1, .w1c, 0, false⟩

/-- R187 [3]: an entry is placed in the stash (R171). -/
def TABLE_EVENTS.STASH_USED : Field := ⟨0x40008, 3, 1, .w1c, 0, false⟩

/-- R187 [2]: an insertion request or learn item is dropped (R170). -/
def TABLE_EVENTS.LEARN_DROPPED : Field := ⟨0x40008, 2, 1, .w1c, 0, false⟩

/-- R187 [1]: a static entry is hit from another port (R169). -/
def TABLE_EVENTS.STATIC_CONFLICT : Field := ⟨0x40008, 1, 1, .w1c, 0, false⟩

/-- R187 [0]: a learn item of KIND 0x03 is raised (R167, R168). -/
def TABLE_EVENTS.MOVE : Field := ⟨0x40008, 0, 1, .w1c, 0, false⟩

/-! ### TABLE_EVENT_NOTIFY: notice enables (R185) -/

/-- R186 [9:0]: bit i set: event i of TABLE_EVENTS raises a notice. -/
def TABLE_EVENT_NOTIFY.MASK : Field := ⟨0x40010, 0, 10, .rw, 0x3FE, false⟩

/-! ### TABLE_LEARN_CFG: learn queue and filter (R185) -/

/-- R186 [46]: 1: removals raise learn items (R176). -/
def TABLE_LEARN_CFG.AGED_EN : Field := ⟨0x40018, 46, 1, .rw, 0, false⟩

/-- R186 [45:28]: notice queue for learn items; a queue of another class receives none, and each item not written counts in TABLE_LEARN[t].DROPPED. -/
def TABLE_LEARN_CFG.QUEUE : Field := ⟨0x40018, 28, 18, .rwl, 0, false⟩

/-- R186 [15:0]: learn-item filter (R170); 0 disables it. -/
def TABLE_LEARN_CFG.HOLDOFF_BEATS : Field := ⟨0x40018, 0, 16, .rw, 1024, false⟩

/-! ### TABLE_FLOW_KEY: flow key components (R185) -/

/-- R186 [59:0]: flow key components (R156). -/
def TABLE_FLOW_KEY.COMPONENTS : Field := ⟨0x40020, 0, 60, .ro, 0, true⟩

/-! ### TABLE_EP_KEY: endpoint key components (R185) -/

/-- R186 [19:0]: endpoint key components (R156). -/
def TABLE_EP_KEY.COMPONENTS : Field := ⟨0x40028, 0, 20, .ro, 0, true⟩

/-! ### TABLE_REBUILD: rebuild control and state (R185) -/

/-- R186 [17]: 1: rebuild the endpoint table (R174); cleared when taken. -/
def TABLE_REBUILD.EP_START : Field := ⟨0x40030, 17, 1, .w1s, 0, false⟩

/-- R186 [16]: 1: rebuild the flow table; cleared when taken. -/
def TABLE_REBUILD.FLOW_START : Field := ⟨0x40030, 16, 1, .w1s, 0, false⟩

/-- R186 [11:10]: 0 idle; 1 running; 2 done; 3 failed. -/
def TABLE_REBUILD.EP_STATE : Field := ⟨0x40030, 10, 2, .ro, 0, false⟩

/-- R186 [9:8]: as EP_STATE. -/
def TABLE_REBUILD.FLOW_STATE : Field := ⟨0x40030, 8, 2, .ro, 0, false⟩

/-! ### TABLE_RAKE_CFG: sweep periods (R185) -/

/-- R186 [43:32]: endpoint sweep period, 1 to 3,600 dial seconds; 0 acts as 1, above 3,600 as 3,600. -/
def TABLE_RAKE_CFG.EP_SWEEP_S : Field := ⟨0x40038, 32, 12, .rw, 300, false⟩

/-- R186 [11:0]: flow sweep period, as EP_SWEEP_S. -/
def TABLE_RAKE_CFG.FLOW_SWEEP_S : Field := ⟨0x40038, 0, 12, .rw, 30, false⟩

/-! ### TABLE_RAKE_STATUS: sweeps and overruns (R185) -/

/-- R188 [63:40]: completed flow sweeps. -/
def TABLE_RAKE_STATUS.FLOW_SWEEPS : Field := ⟨0x40040, 40, 24, .ro, 0, false⟩

/-- R188 [39:16]: completed endpoint sweeps. -/
def TABLE_RAKE_STATUS.EP_SWEEPS : Field := ⟨0x40040, 16, 24, .ro, 0, false⟩

/-- R188 [15:8]: late flow sweeps (R175). -/
def TABLE_RAKE_STATUS.FLOW_OVERRUNS : Field := ⟨0x40040, 8, 8, .ro, 0, false⟩

/-- R188 [7:0]: late endpoint sweeps. -/
def TABLE_RAKE_STATUS.EP_OVERRUNS : Field := ⟨0x40040, 0, 8, .ro, 0, false⟩

/-! ### TABLE_DMA: DMA operation counts (R185) -/

/-- R188 [63:32]: operations answered OK. -/
def TABLE_DMA.DONE : Field := ⟨0x40048, 32, 32, .ro, 0, false⟩

/-- R188 [31:0]: operations answered otherwise (R178). -/
def TABLE_DMA.REFUSED : Field := ⟨0x40048, 0, 32, .ro, 0, false⟩

/-! ### TABLE_HASH[t][k]: values in force: k = 0 SEED_0, 1 MULT_0, 2 SEED_1, 3 MULT_1 (R185) -/

/-- R186 [63:0]: in force; zero in the native organisation. -/
def TABLE_HASH.VALUE (t : Nat) (k : Nat) : Field := ⟨0x40080 + 0x20 * t + 8 * k, 0, 64, .ro, 0, true⟩

/-! ### TABLE_HASH_NEXT[t][k]: values for the next rebuild, same order (R185) -/

/-- R186 [63:0]: taken at START (R174). -/
def TABLE_HASH_NEXT.VALUE (t : Nat) (k : Nat) : Field := ⟨0x400C0 + 0x20 * t + 8 * k, 0, 64, .rw, 0, false⟩

/-! ### TABLE_LOOKUP_HITS[t]: HIT and LOCKED_HIT outcomes (R185) -/

/-- R188 [63:0]: HIT and LOCKED_HIT outcomes. -/
def TABLE_LOOKUP_HITS.COUNT (t : Nat) : Field := ⟨0x40100 + 0x80 * t, 0, 64, .ro, 0, false⟩

/-! ### TABLE_LOOKUP_MISSES[t]: MISS and NO_KEY outcomes (R185) -/

/-- R188 [63:32]: MISS outcomes. -/
def TABLE_LOOKUP_MISSES.MISSES (t : Nat) : Field := ⟨0x40108 + 0x80 * t, 32, 32, .ro, 0, false⟩

/-- R188 [31:0]: NO_KEY outcomes. -/
def TABLE_LOOKUP_MISSES.NO_KEY (t : Nat) : Field := ⟨0x40108 + 0x80 * t, 0, 32, .ro, 0, false⟩

/-! ### TABLE_LEARN[t]: insertions (R185) -/

/-- R188 [63:32]: entries created by hardware learning or INSERT. -/
def TABLE_LEARN.INSERTED (t : Nat) : Field := ⟨0x40110 + 0x80 * t, 32, 32, .ro, 0, false⟩

/-- R188 [31:16]: requests and learn items dropped (R170). -/
def TABLE_LEARN.DROPPED (t : Nat) : Field := ⟨0x40110 + 0x80 * t, 16, 16, .ro, 0, false⟩

/-- R188 [15:0]: insertions refused (R171). -/
def TABLE_LEARN.REFUSED (t : Nat) : Field := ⟨0x40110 + 0x80 * t, 0, 16, .ro, 0, false⟩

/-! ### TABLE_CUCKOO[t]: relocations and stash (R185) -/

/-- R188 [63:56]: stash entries in use, 0 to 64. -/
def TABLE_CUCKOO.STASH_USED (t : Nat) : Field := ⟨0x40118 + 0x80 * t, 56, 8, .ro, 0, false⟩

/-- R188 [55:40]: stash placements. -/
def TABLE_CUCKOO.STASHED (t : Nat) : Field := ⟨0x40118 + 0x80 * t, 40, 16, .ro, 0, false⟩

/-- R188 [39:0]: relocations. -/
def TABLE_CUCKOO.RELOCATIONS (t : Nat) : Field := ⟨0x40118 + 0x80 * t, 0, 40, .ro, 0, false⟩

/-! ### TABLE_AGING[t]: removals (R185) -/

/-- R188 [63:32]: entries aged out. -/
def TABLE_AGING.REMOVED (t : Nat) : Field := ⟨0x40120 + 0x80 * t, 32, 32, .ro, 0, false⟩

/-- R188 [31:16]: orphans removed. -/
def TABLE_AGING.ORPHANS (t : Nat) : Field := ⟨0x40120 + 0x80 * t, 16, 16, .ro, 0, false⟩

/-- R188 [15:0]: locked entries passed by the rake. -/
def TABLE_AGING.LOCKED_PASSED (t : Nat) : Field := ⟨0x40120 + 0x80 * t, 0, 16, .ro, 0, false⟩

/-! ### TABLE_CONFLICT[t]: lock and revision discards (R185) -/

/-- R188 [63:32]: updates not made because of LOCK (R164, R179). -/
def TABLE_CONFLICT.LOCKED_SKIPS (t : Nat) : Field := ⟨0x40128 + 0x80 * t, 32, 32, .ro, 0, false⟩

/-- R188 [31:0]: write-backs discarded for VALID or REV (R180); always 0 for t = 1. -/
def TABLE_CONFLICT.STALE_SCATTERS (t : Nat) : Field := ⟨0x40128 + 0x80 * t, 0, 32, .ro, 0, false⟩

/-! ### TABLE_MOVE[t]: moves and static conflicts (R185) -/

/-- R188 [63:32]: move updates (R168). -/
def TABLE_MOVE.MOVES (t : Nat) : Field := ⟨0x40130 + 0x80 * t, 32, 32, .ro, 0, false⟩

/-- R188 [31:0]: R169. -/
def TABLE_MOVE.STATIC_CONFLICTS (t : Nat) : Field := ⟨0x40130 + 0x80 * t, 0, 32, .ro, 0, false⟩

/-! ### TABLE_PARITY[t]: parity outcomes (R185) -/

/-- R188 [63:32]: transient upsets (R182). -/
def TABLE_PARITY.TRANSIENT (t : Nat) : Field := ⟨0x40138 + 0x80 * t, 32, 32, .ro, 0, false⟩

/-- R188 [31:16]: lasting faults (R183). -/
def TABLE_PARITY.LASTING (t : Nat) : Field := ⟨0x40138 + 0x80 * t, 16, 16, .ro, 0, false⟩

/-- R188 [15:0]: free-list indices lost (R183). -/
def TABLE_PARITY.LOST_FREE (t : Nat) : Field := ⟨0x40138 + 0x80 * t, 0, 16, .ro, 0, false⟩

/-! ### TABLE_OCCUPANCY[t]: valid entries and free list (R185) -/

/-- R188 [63:32]: valid entries. -/
def TABLE_OCCUPANCY.VALID (t : Nat) : Field := ⟨0x40140 + 0x80 * t, 32, 32, .ro, 0, false⟩

/-- R188 [31:0]: indices on the free list; 0 in the native organisation. -/
def TABLE_OCCUPANCY.FREE (t : Nat) : Field := ⟨0x40140 + 0x80 * t, 0, 32, .ro, 0, false⟩

/-! ### QUEUE_CTRL: notice target and lock (R208) -/

/-- R209 [63]: 1: RWL fields of the QUEUE block are frozen. -/
def QUEUE_CTRL.LOCK : Field := ⟨0x50000, 63, 1, .w1s, 0, false⟩

/-- R209 [17:0]: target of the QUEUE block's notices; a queue of another class receives none. -/
def QUEUE_CTRL.NOTICE_QUEUE : Field := ⟨0x50000, 0, 18, .rwl, 0x38000, false⟩

/-! ### QUEUE_EVENTS: event flags (R208) -/

/-- R210 [5]: a data-path producer finds its band full (R198). -/
def QUEUE_EVENTS.DATA_PATH_FULL : Field := ⟨0x50008, 5, 1, .w1c, 0, false⟩

/-- R210 [4]: a flush completes (R196). -/
def QUEUE_EVENTS.FLUSH_DONE : Field := ⟨0x50008, 4, 1, .w1c, 0, false⟩

/-- R210 [3]: an enable or flush is refused (R196, R207). -/
def QUEUE_EVENTS.DESC_REFUSED : Field := ⟨0x50008, 3, 1, .w1c, 0, false⟩

/-- R210 [2]: a notice queue drops an item (R198). -/
def QUEUE_EVENTS.NOTICE_DROP : Field := ⟨0x50008, 2, 1, .w1c, 0, false⟩

/-- R210 [1]: a queue is reset for a mismatch (R195). -/
def QUEUE_EVENTS.MISMATCH_RESET : Field := ⟨0x50008, 1, 1, .w1c, 0, false⟩

/-- R210 [0]: a level is crossed (R202). -/
def QUEUE_EVENTS.LEVEL : Field := ⟨0x50008, 0, 1, .w1c, 0, false⟩

/-! ### QUEUE_EVENT_NOTIFY: notice enables (R208) -/

/-- R209 [5:0]: bit i set: event i of QUEUE_EVENTS raises a notice. -/
def QUEUE_EVENT_NOTIFY.MASK : Field := ⟨0x50010, 0, 6, .rw, 0x3F, false⟩

/-! ### QUEUE_REGION: ring region (R208) -/

/-- R209 [55:32]: size of the ring region in 64-byte units. -/
def QUEUE_REGION.UNITS : Field := ⟨0x50018, 32, 24, .ro, 0, true⟩

/-- R209 [22:0]: start of the ring region in 64-byte units of hub SRAM. -/
def QUEUE_REGION.BASE : Field := ⟨0x50018, 0, 23, .ro, 0, true⟩

/-! ### QUEUE_FLUSH: flush command (R208) -/

/-- R209 [63]: 1: flush QUEUE (R196); cleared when done. -/
def QUEUE_FLUSH.GO : Field := ⟨0x50020, 63, 1, .w1s, 0, false⟩

/-- R209 [17:0]: queue to flush. -/
def QUEUE_FLUSH.QUEUE : Field := ⟨0x50020, 0, 18, .rw, 0, false⟩

/-! ### QUEUE_RESETS: resets by cause (R208) -/

/-- R209 [63:32]: resets under R194. -/
def QUEUE_RESETS.MISMATCH : Field := ⟨0x50028, 32, 32, .ro, 0, false⟩

/-- R209 [31:0]: resets under R196. -/
def QUEUE_RESETS.FLUSHES : Field := ⟨0x50028, 0, 32, .ro, 0, false⟩

/-! ### QUEUE_LOST: items lost by resets (R208) -/

/-- R209 [63:0]: items lost by resets. -/
def QUEUE_LOST.ITEMS : Field := ⟨0x50030, 0, 64, .ro, 0, false⟩

/-! ### QUEUE_NOTICE_DROPS: notices dropped (R208) -/

/-- R209 [63:0]: items dropped at full notice queues. -/
def QUEUE_NOTICE_DROPS.COUNT : Field := ⟨0x50038, 0, 64, .ro, 0, false⟩

/-! ### QUEUE_LAST_RESET: last reset (R208) -/

/-- R209 [18]: 0 mismatch; 1 flush. -/
def QUEUE_LAST_RESET.CAUSE : Field := ⟨0x50040, 18, 1, .ro, 0, false⟩

/-- R209 [17:0]: queue of the last reset. -/
def QUEUE_LAST_RESET.QUEUE : Field := ⟨0x50040, 0, 18, .ro, 0, false⟩

/-! ### QUEUE_REFUSALS: refusals (R208) -/

/-- R209 [63:32]: crown enqueues refused (R198). -/
def QUEUE_REFUSALS.FULL_REFUSED : Field := ⟨0x50048, 32, 32, .ro, 0, false⟩

/-- R209 [31:0]: descriptor and flush refusals (R196, R207). -/
def QUEUE_REFUSALS.DESC_REFUSED : Field := ⟨0x50048, 0, 32, .ro, 0, false⟩

/-! ### ARRAY_Q_EVENTS: event flags (R257) -/

/-- R260 [5]: a channel set takes MIN_SCALE for a zero range (R242). -/
def ARRAY_Q_EVENTS.CONST_RANGE : Field := ⟨0x61000, 5, 1, .w1c, 0, false⟩

/-- R260 [4]: a staged command is discarded (R253). -/
def ARRAY_Q_EVENTS.CONTROL_DISCARDED : Field := ⟨0x61000, 4, 1, .w1c, 0, false⟩

/-- R260 [3]: a staged command is applied (R253). -/
def ARRAY_Q_EVENTS.CONTROL_APPLIED : Field := ⟨0x61000, 3, 1, .w1c, 0, false⟩

/-- R260 [2]: derive_ms clamps M or S (R239). -/
def ARRAY_Q_EVENTS.RATIO_SAT : Field := ⟨0x61000, 2, 1, .w1c, 0, false⟩

/-- R260 [1]: a decision is clamped by software (R254). -/
def ARRAY_Q_EVENTS.PINNED_HIT : Field := ⟨0x61000, 1, 1, .w1c, 0, false⟩

/-- R260 [0]: a batch misfits (R246). -/
def ARRAY_Q_EVENTS.MISFIT : Field := ⟨0x61000, 0, 1, .w1c, 0, false⟩

/-! ### ARRAY_Q_EVENT_NOTIFY: notice enables (R257) -/

/-- R259 [5:0]: bit i set: event i of ARRAY_Q_EVENTS raises a notice. -/
def ARRAY_Q_EVENT_NOTIFY.MASK : Field := ⟨0x61008, 0, 6, .rw, 0x3D, false⟩

/-! ### ARRAY_Q_CONTROL: command to stage (R252) (R257) -/

/-- R259 [63:60]: model slot. -/
def ARRAY_Q_CONTROL.SLOT : Field := ⟨0x61010, 60, 4, .rw, 0, false⟩

/-- R259 [59:52]: tensor number. -/
def ARRAY_Q_CONTROL.TENSOR : Field := ⟨0x61010, 52, 8, .rw, 0, false⟩

/-- R259 [51:50]: command (R252). -/
def ARRAY_Q_CONTROL.OP : Field := ⟨0x61010, 50, 2, .rw, 0, false⟩

/-- R259 [49]: 0 main scale; 1 outlier scale. -/
def ARRAY_Q_CONTROL.TARGET : Field := ⟨0x61010, 49, 1, .rw, 0, false⟩

/-- R259 [47:24]: pin, or lower bound (R218 format). -/
def ARRAY_Q_CONTROL.LO : Field := ⟨0x61010, 24, 24, .rw, 0, false⟩

/-- R259 [23:0]: upper bound; ignored for PIN and RELEASE. -/
def ARRAY_Q_CONTROL.HI : Field := ⟨0x61010, 0, 24, .rw, 0, false⟩

/-! ### ARRAY_Q_CONTROL_STATUS: staging status and counts (R257) -/

/-- R259 [63:48]: commands applied. -/
def ARRAY_Q_CONTROL_STATUS.APPLIED : Field := ⟨0x61018, 48, 16, .ro, 0, false⟩

/-- R259 [47:32]: commands discarded at application. -/
def ARRAY_Q_CONTROL_STATUS.DISCARDED : Field := ⟨0x61018, 32, 16, .ro, 0, false⟩

/-- R259 [23:20]: last write: 0 none; 1 staged; 2 reserved OP; 3 bad scale; 4 staging full. -/
def ARRAY_Q_CONTROL_STATUS.RESULT : Field := ⟨0x61018, 20, 4, .ro, 0, false⟩

/-- R259 [6:0]: commands staged, 0 to 64. -/
def ARRAY_Q_CONTROL_STATUS.STAGED : Field := ⟨0x61018, 0, 7, .ro, 0, false⟩

/-! ### ARRAY_Q_SELECT: tensor whose state is latched (R257) -/

/-- R259 [11:8]: slot to latch. -/
def ARRAY_Q_SELECT.SLOT : Field := ⟨0x61020, 8, 4, .rw, 0, false⟩

/-- R259 [7:0]: tensor to latch. -/
def ARRAY_Q_SELECT.TENSOR : Field := ⟨0x61020, 0, 8, .rw, 0, false⟩

/-! ### ARRAY_Q_SCALES: latched: scales for the next batch (R257) -/

/-- R259 [47:24]: main scale for batch ARRAY_Q_LAST_BATCH + 1, or for the batch of the latch beat when there are no statistics yet, after R254 (R258). -/
def ARRAY_Q_SCALES.SCALE : Field := ⟨0x61028, 24, 24, .ro, 0, false⟩

/-- R259 [23:0]: outlier scale for the next batch; 0 without outlier channels. -/
def ARRAY_Q_SCALES.OSCALE : Field := ⟨0x61028, 0, 24, .ro, 0, false⟩

/-! ### ARRAY_Q_STATE: latched: mode, window and flags (R257) -/

/-- R259 [63]: 1: the slot's active generation has the tensor; 0: every latched field reads 0. -/
def ARRAY_Q_STATE.EXISTS : Field := ⟨0x61030, 63, 1, .ro, 0, false⟩

/-- R259 [62:61]: 0 CAL; 1 REFIT; 2 RUN; 3 fixed. -/
def ARRAY_Q_STATE.MODE : Field := ⟨0x61030, 61, 2, .ro, 0, false⟩

/-- R259 [60:56]: entries in the main window, 0 to 16. -/
def ARRAY_Q_STATE.FILL : Field := ⟨0x61030, 56, 5, .ro, 0, false⟩

/-- R259 [55:54]: main scale command in force: 0 none; 1 PIN; 2 BOUND. -/
def ARRAY_Q_STATE.SW : Field := ⟨0x61030, 54, 2, .ro, 0, false⟩

/-- R259 [53:52]: outlier scale command in force, as SW. -/
def ARRAY_Q_STATE.SW_OUT : Field := ⟨0x61030, 52, 2, .ro, 0, false⟩

/-- R259 [51]: 1: the last decision was clamped (R254). -/
def ARRAY_Q_STATE.PINNED_HIT : Field := ⟨0x61030, 51, 1, .ro, 0, false⟩

/-- R259 [50]: 1: the last batch marked CONST_RANGE. -/
def ARRAY_Q_STATE.CONST : Field := ⟨0x61030, 50, 1, .ro, 0, false⟩

/-- R259 [49]: 1: the last batch marked OUT_CONST. -/
def ARRAY_Q_STATE.OUT_CONST : Field := ⟨0x61030, 49, 1, .ro, 0, false⟩

/-- R259 [48]: 1: the last batch misfit (R246). -/
def ARRAY_Q_STATE.MISFIT : Field := ⟨0x61030, 48, 1, .ro, 0, false⟩

/-! ### ARRAY_Q_LAST_SAT: latched: SAT and ELEMENTS of the last batch (R257) -/

/-- R259 [63:32]: SAT of the last batch. -/
def ARRAY_Q_LAST_SAT.SAT : Field := ⟨0x61038, 32, 32, .ro, 0, false⟩

/-- R259 [31:0]: ELEMENTS of the last batch. -/
def ARRAY_Q_LAST_SAT.ELEMENTS : Field := ⟨0x61038, 0, 32, .ro, 0, false⟩

/-! ### ARRAY_Q_LAST_SSE: latched: SSE of the last batch (R257) -/

/-- R259 [63:0]: SSE of the last batch. -/
def ARRAY_Q_LAST_SSE.SSE : Field := ⟨0x61040, 0, 64, .ro, 0, false⟩

/-! ### ARRAY_Q_LAST_BATCH: latched: batch number of the last statistics (R257) -/

/-- R259 [63:0]: batch number (R28) of the last statistics. -/
def ARRAY_Q_LAST_BATCH.BATCH : Field := ⟨0x61048, 0, 64, .ro, 0, false⟩

/-! ### ARRAY_Q_TENSOR_COUNTS: latched: counts of the tensor (R257) -/

/-- R259 [63:32]: misfits since the generation became active. -/
def ARRAY_Q_TENSOR_COUNTS.MISFITS : Field := ⟨0x61050, 32, 32, .ro, 0, false⟩

/-- R259 [31:0]: clamped decisions since the generation became active. -/
def ARRAY_Q_TENSOR_COUNTS.PINNED_HITS : Field := ⟨0x61050, 0, 32, .ro, 0, false⟩

/-! ### ARRAY_Q_MISFITS: misfits and second runs, all slots (R257) -/

/-- R259 [63:32]: misfits, all slots. -/
def ARRAY_Q_MISFITS.MISFITS : Field := ⟨0x61058, 32, 32, .ro, 0, false⟩

/-- R259 [31:0]: second runs of producers (R247). -/
def ARRAY_Q_MISFITS.RERUNS : Field := ⟨0x61058, 0, 32, .ro, 0, false⟩

/-! ### ARRAY_Q_SAT_TOTAL: elements marked SAT, all scaled tensors (R257) -/

/-- R259 [63:0]: elements marked SAT in main and outlier channels. -/
def ARRAY_Q_SAT_TOTAL.COUNT : Field := ⟨0x61060, 0, 64, .ro, 0, false⟩

/-! ### ARRAY_Q_CLAMPS: constant ranges, software clamps, ratio saturations (R257) -/

/-- R259 [63:40]: CONST_RANGE and OUT_CONST marks (R242). -/
def ARRAY_Q_CLAMPS.CONST : Field := ⟨0x61068, 40, 24, .ro, 0, false⟩

/-- R259 [39:16]: clamped decisions, all slots (R254). -/
def ARRAY_Q_CLAMPS.PINNED_HITS : Field := ⟨0x61068, 16, 24, .ro, 0, false⟩

/-- R259 [15:0]: RATIO_SAT marks (R239). -/
def ARRAY_Q_CLAMPS.RATIO_SAT : Field := ⟨0x61068, 0, 16, .ro, 0, false⟩

/-! ### SLOT_CTRL: lock (R329) -/

/-- R330 [63]: 1: RWL fields of the SLOT block are frozen. -/
def SLOT_CTRL.LOCK : Field := ⟨0x70000, 63, 1, .w1s, 0, false⟩

/-! ### SLOT_EVENTS: event flags (R329) -/

/-- R331 [11]: a step ends (R326). -/
def SLOT_EVENTS.STEP_DONE : Field := ⟨0x70008, 11, 1, .w1c, 0, false⟩

/-- R331 [10]: tree data is marked (R328). -/
def SLOT_EVENTS.LOST_TREE : Field := ⟨0x70008, 10, 1, .w1c, 0, false⟩

/-- R331 [9]: a sample is not taken (R318). -/
def SLOT_EVENTS.SAMPLE_MISSED : Field := ⟨0x70008, 9, 1, .w1c, 0, false⟩

/-- R331 [8]: adaptation stops for any cause. -/
def SLOT_EVENTS.ADAPT_STOPPED : Field := ⟨0x70008, 8, 1, .w1c, 0, false⟩

/-- R331 [7]: a rollback takes effect. -/
def SLOT_EVENTS.ROLLED_BACK : Field := ⟨0x70008, 7, 1, .w1c, 0, false⟩

/-- R331 [6]: an update is refused (R323). -/
def SLOT_EVENTS.DRIFT_REFUSED : Field := ⟨0x70008, 6, 1, .w1c, 0, false⟩

/-- R331 [5]: a promotion takes effect. -/
def SLOT_EVENTS.PROMOTED : Field := ⟨0x70008, 5, 1, .w1c, 0, false⟩

/-- R331 [4]: a candidate becomes READY. -/
def SLOT_EVENTS.READY : Field := ⟨0x70008, 4, 1, .w1c, 0, false⟩

/-- R331 [3]: a candidate is formed (R317). -/
def SLOT_EVENTS.CANDIDATE_FORMED : Field := ⟨0x70008, 3, 1, .w1c, 0, false⟩

/-- R331 [2]: any swap takes effect. -/
def SLOT_EVENTS.SWAPPED : Field := ⟨0x70008, 2, 1, .w1c, 0, false⟩

/-- R331 [1]: an image is refused (R307). -/
def SLOT_EVENTS.STAGE_REFUSED : Field := ⟨0x70008, 1, 1, .w1c, 0, false⟩

/-- R331 [0]: an image passes its checks. -/
def SLOT_EVENTS.STAGED : Field := ⟨0x70008, 0, 1, .w1c, 0, false⟩

/-! ### SLOT_EVENT_NOTIFY: notice enables (R329) -/

/-- R330 [11:0]: bit i set: event i of SLOT_EVENTS raises a notice. -/
def SLOT_EVENT_NOTIFY.MASK : Field := ⟨0x70010, 0, 12, .rw, 0x7FF, false⟩

/-! ### SLOT_COMMAND: command (R309) (R329) -/

/-- R330 [63:60]: slot. -/
def SLOT_COMMAND.SLOT : Field := ⟨0x70018, 60, 4, .rw, 0, false⟩

/-- R330 [59:56]: command; a write issues it. -/
def SLOT_COMMAND.OP : Field := ⟨0x70018, 56, 4, .rw, 0, false⟩

/-! ### SLOT_COMMAND_STATUS: result of the last command (R329) -/

/-- R330 [63:60]: slot of the last command. -/
def SLOT_COMMAND_STATUS.SLOT : Field := ⟨0x70020, 60, 4, .ro, 0, false⟩

/-- R330 [59:56]: its OP. -/
def SLOT_COMMAND_STATUS.OP : Field := ⟨0x70020, 56, 4, .ro, 0, false⟩

/-- R330 [55:52]: 0 none; 1 accepted; 2 WRONG_STATE; 3 BUSY; 4 NO_BUDGET; 5 BAD_OP. -/
def SLOT_COMMAND_STATUS.RESULT : Field := ⟨0x70020, 52, 4, .ro, 0, false⟩

/-- R330 [51:32]: beat within the second at which an accepted swap or release takes effect; 0 while no schedule runs (R310). -/
def SLOT_COMMAND_STATUS.BEAT : Field := ⟨0x70020, 32, 20, .ro, 0, false⟩

/-! ### SLOT_REFUSAL: last staging refusal (R329) -/

/-- R330 [63:60]: slot. -/
def SLOT_REFUSAL.SLOT : Field := ⟨0x70028, 60, 4, .ro, 0, false⟩

/-- R330 [59:56]: R307; 0 for none. -/
def SLOT_REFUSAL.CAUSE : Field := ⟨0x70028, 56, 4, .ro, 0, false⟩

/-- R330 [55:48]: schedule index for DEMAND. -/
def SLOT_REFUSAL.SCHEDULE : Field := ⟨0x70028, 48, 8, .ro, 0, false⟩

/-- R330 [47:16]: first failing item. -/
def SLOT_REFUSAL.DETAIL : Field := ⟨0x70028, 16, 32, .ro, 0, false⟩

/-! ### SLOT_REPORT[k]: overflow report of the last TREES refusal, k = 0 to 3; word 0 holds bits [255:192] (R329) -/

/-- R330 [63:0]: R279. -/
def SLOT_REPORT.REPORT (k : Nat) : Field := ⟨0x70030 + 8 * k, 0, 64, .ro, 0, false⟩

/-! ### SLOT_STATE[s]: positions and flags (R329) -/

/-- R330 [63:61]: R305. -/
def SLOT_STATE.STAGING (s : Nat) : Field := ⟨0x70100 + 0x80 * s, 61, 3, .ro, 0, false⟩

/-- R330 [60]: 1: a generation is active. -/
def SLOT_STATE.ACTIVE (s : Nat) : Field := ⟨0x70100 + 0x80 * s, 60, 1, .ro, 0, false⟩

/-- R330 [59]: adaptation enabled. -/
def SLOT_STATE.ADAPT_ON (s : Nat) : Field := ⟨0x70100 + 0x80 * s, 59, 1, .ro, 0, false⟩

/-- R330 [58]: held after promotion (R327). -/
def SLOT_STATE.ADAPT_HELD (s : Nat) : Field := ⟨0x70100 + 0x80 * s, 58, 1, .ro, 0, false⟩

/-- R330 [57]: R328. -/
def SLOT_STATE.LOST_TREE (s : Nat) : Field := ⟨0x70100 + 0x80 * s, 57, 1, .ro, 0, false⟩

/-- R330 [56]: 1: a swap awaits its boundary. -/
def SLOT_STATE.SWAP_PENDING (s : Nat) : Field := ⟨0x70100 + 0x80 * s, 56, 1, .ro, 0, false⟩

/-- R330 [31:16]: STATE_TAG of the active generation. -/
def SLOT_STATE.ACTIVE_TAG (s : Nat) : Field := ⟨0x70100 + 0x80 * s, 16, 16, .ro, 0, false⟩

/-- R330 [15:0]: STATE_TAG in the staging position. -/
def SLOT_STATE.STAGING_TAG (s : Nat) : Field := ⟨0x70100 + 0x80 * s, 0, 16, .ro, 0, false⟩

/-! ### SLOT_ACTIVE_ID[s]: MODEL_ID of the active generation (R329) -/

/-- R330 [63:0]. -/
def SLOT_ACTIVE_ID.MODEL_ID (s : Nat) : Field := ⟨0x70108 + 0x80 * s, 0, 64, .ro, 0, false⟩

/-! ### SLOT_STAGING_ID[s]: MODEL_ID in the staging position (R329) -/

/-- R330 [63:0]. -/
def SLOT_STAGING_ID.MODEL_ID (s : Nat) : Field := ⟨0x70110 + 0x80 * s, 0, 64, .ro, 0, false⟩

/-! ### SLOT_GEN[s]: generation numbers (R329) -/

/-- R330 [63:32]: R306. -/
def SLOT_GEN.ACTIVE_GEN (s : Nat) : Field := ⟨0x70118 + 0x80 * s, 32, 32, .ro, 0, true⟩

/-- R330 [31:0]: R306. -/
def SLOT_GEN.STAGING_GEN (s : Nat) : Field := ⟨0x70118 + 0x80 * s, 0, 32, .ro, 0, true⟩

/-! ### SLOT_ADAPT_CFG[s]: promotion and release options (R329) -/

/-- R330 [32]: R326. -/
def SLOT_ADAPT_CFG.AUTO_PROMOTE (s : Nat) : Field := ⟨0x70120 + 0x80 * s, 32, 1, .rwl, 0, false⟩

/-- R330 [31:0]: R327; 0 for none. -/
def SLOT_ADAPT_CFG.AUTO_RELEASE_ROUNDS (s : Nat) : Field := ⟨0x70120 + 0x80 * s, 0, 32, .rwl, 0, false⟩

/-! ### SLOT_ADAPT_COUNTS[s]: steps, refusals, clips, misses (R329) -/

/-- R330 [63:48]: steps completed. -/
def SLOT_ADAPT_COUNTS.STEPS (s : Nat) : Field := ⟨0x70128 + 0x80 * s, 48, 16, .ro, 0, false⟩

/-- R330 [47:32]: R323. -/
def SLOT_ADAPT_COUNTS.DRIFT_REFUSALS (s : Nat) : Field := ⟨0x70128 + 0x80 * s, 32, 16, .ro, 0, false⟩

/-- R330 [31:16]: R321, R322. -/
def SLOT_ADAPT_COUNTS.CLIPPED (s : Nat) : Field := ⟨0x70128 + 0x80 * s, 16, 16, .ro, 0, false⟩

/-- R330 [15:0]: R318. -/
def SLOT_ADAPT_COUNTS.SAMPLES_MISSED (s : Nat) : Field := ⟨0x70128 + 0x80 * s, 0, 16, .ro, 0, false⟩

/-! ### SLOT_SHADOW_C[s]: L_c of the last step (R329) -/

/-- R330 [63:0]: L_c. -/
def SLOT_SHADOW_C.LOSS (s : Nat) : Field := ⟨0x70130 + 0x80 * s, 0, 64, .ro, 0, false⟩

/-! ### SLOT_SHADOW_A[s]: L_a of the last step (R329) -/

/-- R330 [63:0]: L_a. -/
def SLOT_SHADOW_A.LOSS (s : Nat) : Field := ⟨0x70138 + 0x80 * s, 0, 64, .ro, 0, false⟩

/-! ### SLOT_DRIFT[s]: drift and EVAL of the last step (R329) -/

/-- R330 [63:24]: DSUM of the last tentative update. -/
def SLOT_DRIFT.DSUM (s : Nat) : Field := ⟨0x70140 + 0x80 * s, 24, 40, .ro, 0, false⟩

/-- R330 [23:16]: DMAX of the last tentative update. -/
def SLOT_DRIFT.DMAX (s : Nat) : Field := ⟨0x70140 + 0x80 * s, 16, 8, .ro, 0, false⟩

/-- R330 [15:0]: EVAL of the last step, saturated. -/
def SLOT_DRIFT.EVAL (s : Nat) : Field := ⟨0x70140 + 0x80 * s, 0, 16, .ro, 0, false⟩

/-! ### SLOT_SEQ_A[s]: stale gathers and cold reads (R289) (R329) -/

/-- R330 [63:32]: R289. -/
def SLOT_SEQ_A.STALE_GATHERS (s : Nat) : Field := ⟨0x70148 + 0x80 * s, 32, 32, .ro, 0, false⟩

/-- R330 [31:0]: R289. -/
def SLOT_SEQ_A.COLD_READS (s : Nat) : Field := ⟨0x70148 + 0x80 * s, 0, 32, .ro, 0, false⟩

/-! ### SLOT_SEQ_B[s]: collapsed and fault-skipped write-backs (R292) (R329) -/

/-- R330 [63:32]: R292. -/
def SLOT_SEQ_B.COLLAPSED (s : Nat) : Field := ⟨0x70150 + 0x80 * s, 32, 32, .ro, 0, false⟩

/-- R330 [31:0]: R292. -/
def SLOT_SEQ_B.FAULT_SKIPS (s : Nat) : Field := ⟨0x70150 + 0x80 * s, 0, 32, .ro, 0, false⟩

/-! ### SLOT_SEQ_C[s]: suppressed scores (R296) (R329) -/

/-- R330 [63:0]: R296. -/
def SLOT_SEQ_C.SUPPRESSED (s : Nat) : Field := ⟨0x70158 + 0x80 * s, 0, 64, .ro, 0, false⟩

/-! ### REGULATOR_CTRL: points, mode, class order, lock (R357) -/

/-- R358 [63]: 1: RWL fields of the REGULATOR block are frozen. -/
def REGULATOR_CTRL.LOCK : Field := ⟨0x80000, 63, 1, .w1s, 0, false⟩

/-- R358 [23:20]: highest point the loop may choose. -/
def REGULATOR_CTRL.MAX_POINT : Field := ⟨0x80000, 20, 4, .rwl, 15, false⟩

/-- R358 [19:16]: the frequency of this point is the lowest issued rate (R344). -/
def REGULATOR_CTRL.MIN_POINT : Field := ⟨0x80000, 16, 4, .rwl, 0, false⟩

/-- R358 [15:12]: point in fixed-frequency mode; values above 9 act as 9. -/
def REGULATOR_CTRL.FIXED_POINT : Field := ⟨0x80000, 12, 4, .rwl, 9, false⟩

/-- R358 [8]: 1: fixed-frequency mode (R338). -/
def REGULATOR_CTRL.FIXED_FREQ : Field := ⟨0x80000, 8, 1, .rwl, 0, false⟩

/-- R358 [5:0]: [5:4] first, [3:2] second, [1:0] third class: 0b00 links, 0b01 memory, 0b10 compute; a value that is not a permutation acts as 0x06. -/
def REGULATOR_CTRL.ORDER : Field := ⟨0x80000, 0, 6, .rwl, 0x06, false⟩

/-! ### REGULATOR_EVENTS: event flags (R357) -/

/-- R359 [11]: grants given or received change (R356). -/
def REGULATOR_EVENTS.GROUP_SHIFT : Field := ⟨0x80008, 11, 1, .w1c, 0, false⟩

/-- R359 [10]: stretched cycles exceed the round's margin (R350). -/
def REGULATOR_EVENTS.MARGIN_EXCEEDED : Field := ⟨0x80008, 10, 1, .w1c, 0, false⟩

/-- R359 [9]: a sensor is marked failed (R351). -/
def REGULATOR_EVENTS.SENSOR_FAILED : Field := ⟨0x80008, 9, 1, .w1c, 0, false⟩

/-- R359 [8]: a class reaches 8 failed intervals (R342). -/
def REGULATOR_EVENTS.TELEMETRY_LOST : Field := ⟨0x80008, 8, 1, .w1c, 0, false⟩

/-- R359 [7]: a correction target is clamped (R341). -/
def REGULATOR_EVENTS.CORR_LIMIT : Field := ⟨0x80008, 7, 1, .w1c, 0, false⟩

/-- R359 [6]: a trip latches (R353). -/
def REGULATOR_EVENTS.TRIP : Field := ⟨0x80008, 6, 1, .w1c, 0, false⟩

/-- R359 [5]: θ overrides a software bound (R347). -/
def REGULATOR_EVENTS.THERMAL_OVER_FLOOR : Field := ⟨0x80008, 5, 1, .w1c, 0, false⟩

/-- R359 [4]: θ returns to 15 (R352). -/
def REGULATOR_EVENTS.THROTTLE_OFF : Field := ⟨0x80008, 4, 1, .w1c, 0, false⟩

/-- R359 [3]: θ falls below 15 (R352). -/
def REGULATOR_EVENTS.THROTTLE_ON : Field := ⟨0x80008, 3, 1, .w1c, 0, false⟩

/-- R359 [2]: a round runs below FMIN_MHZ (R348). -/
def REGULATOR_EVENTS.BELOW_FMIN : Field := ⟨0x80008, 2, 1, .w1c, 0, false⟩

/-- R359 [1]: the unavoidable power exceeds the cap in a period after a period in which it did not (R345). -/
def REGULATOR_EVENTS.CAP_UNREACHABLE : Field := ⟨0x80008, 1, 1, .w1c, 0, false⟩

/-- R359 [0]: a round's mean exceeds its cap (R348). -/
def REGULATOR_EVENTS.CAP_OVER : Field := ⟨0x80008, 0, 1, .w1c, 0, false⟩

/-! ### REGULATOR_EVENT_NOTIFY: notice enables (R357) -/

/-- R358 [11:0]: bit i set: event i of REGULATOR_EVENTS raises a notice. -/
def REGULATOR_EVENT_NOTIFY.MASK : Field := ⟨0x80010, 0, 12, .rw, 0xFFF, false⟩

/-! ### REGULATOR_CAP: cap and rise margin (R357) -/

/-- R358 [39:32]: margin for a rise, in units of 1/256 (R345). -/
def REGULATOR_CAP.RISE_MARGIN : Field := ⟨0x80018, 32, 8, .rw, 8, false⟩

/-- R358 [10:0]: package cap in W, 400 to 1,500; other values act as the nearer limit. -/
def REGULATOR_CAP.CAP_W : Field := ⟨0x80018, 0, 11, .rw, 1200, false⟩

/-! ### REGULATOR_FLOORS: class floors (R357) -/

/-- R358 [42:32]: links floor in W. -/
def REGULATOR_FLOORS.LINK_W : Field := ⟨0x80020, 32, 11, .rw, 0, false⟩

/-- R358 [26:16]: memory floor in W. -/
def REGULATOR_FLOORS.MEM_W : Field := ⟨0x80020, 16, 11, .rw, 0, false⟩

/-- R358 [10:0]: compute floor in W. -/
def REGULATOR_FLOORS.COMPUTE_W : Field := ⟨0x80020, 0, 11, .rw, 0, false⟩

/-! ### REGULATOR_THERMAL: throttle point (R357) -/

/-- R358 [11:8]: hysteresis in °C; 0 acts as 1. -/
def REGULATOR_THERMAL.HYST_C : Field := ⟨0x80028, 8, 4, .rwl, 3, false⟩

/-- R358 [7:0]: throttle point in °C; above 105 acts as 105, below 60 as 60. -/
def REGULATOR_THERMAL.THROTTLE_C : Field := ⟨0x80028, 0, 8, .rwl, 100, false⟩

/-! ### REGULATOR_DROOP_CFG: droop threshold (R357) -/

/-- R358 [7:0]: droop level below the point's voltage, in mV; below 10 acts as 10. -/
def REGULATOR_DROOP_CFG.THRESH_MV : Field := ⟨0x80030, 0, 8, .rwl, 40, false⟩

/-! ### REGULATOR_PD_CTRL: domain requests (R357) -/

/-- R358 [19]: 1: PD19 may be switched off (R332). -/
def REGULATOR_PD_CTRL.PD19_OFF : Field := ⟨0x80038, 19, 1, .rw, 0, false⟩

/-- R358 [4]: 1: PD4 is switched off. -/
def REGULATOR_PD_CTRL.PD4_OFF : Field := ⟨0x80038, 4, 1, .rw, 0, false⟩

/-! ### REGULATOR_GROUP_CFG: power-group settings (R357) -/

/-- R358 [32]: 1: the device runs work shared with its group (R355). -/
def REGULATOR_GROUP_CFG.SHARED : Field := ⟨0x80040, 32, 1, .rw, 0, false⟩

/-- R358 [26:16]: largest grant given or received, in W; 0: the device takes no part. -/
def REGULATOR_GROUP_CFG.SHIFT_MAX_W : Field := ⟨0x80040, 16, 11, .rwl, 0, false⟩

/-- R358 [10:0]: slack kept when giving, in W. -/
def REGULATOR_GROUP_CFG.RESERVE_W : Field := ⟨0x80040, 0, 11, .rwl, 50, false⟩

/-! ### REGULATOR_STATUS: operating point and state (R357) -/

/-- R358 [63:52]: issued rate in force. -/
def REGULATOR_STATUS.EFF_MHZ : Field := ⟨0x80048, 52, 12, .ro, 600, false⟩

/-- R358 [51:46]: GATE in force. -/
def REGULATOR_STATUS.GATE : Field := ⟨0x80048, 46, 6, .ro, 0, false⟩

/-- R358 [45:42]: POINT in force. -/
def REGULATOR_STATUS.POINT : Field := ⟨0x80048, 42, 4, .ro, 0, false⟩

/-- R358 [41:38]: θ (R352). -/
def REGULATOR_STATUS.THERMAL_CEIL : Field := ⟨0x80048, 38, 4, .ro, 15, false⟩

/-- R358 [37]: 1: a trip is latched. -/
def REGULATOR_STATUS.TRIPPED : Field := ⟨0x80048, 37, 1, .ro, 0, false⟩

/-- R358 [36]: 1: θ is below 15. -/
def REGULATOR_STATUS.THROTTLING : Field := ⟨0x80048, 36, 1, .ro, 0, false⟩

/-- R358 [35]: R342. -/
def REGULATOR_STATUS.TELEMETRY_LOST : Field := ⟨0x80048, 35, 1, .ro, 0, false⟩

/-- R358 [34]: 1: the current round runs below FMIN_MHZ. -/
def REGULATOR_STATUS.BELOW_FMIN : Field := ⟨0x80048, 34, 1, .ro, 0, false⟩

/-- R358 [33]: 1: marked in the last period (R345). -/
def REGULATOR_STATUS.CAP_UNREACHABLE : Field := ⟨0x80048, 33, 1, .ro, 0, false⟩

/-- R358 [32]: 1: fixed-frequency mode is in force. -/
def REGULATOR_STATUS.FIXED_ACTIVE : Field := ⟨0x80048, 32, 1, .ro, 0, false⟩

/-- R358 [31:0]: mean estimated power of the last complete round, in mW. -/
def REGULATOR_STATUS.ROUND_MEAN_MW : Field := ⟨0x80048, 0, 32, .ro, 0, false⟩

/-! ### REGULATOR_PD_STATUS: powered domains (R357) -/

/-- R358 [19:0]: bit d set: PDd is powered. -/
def REGULATOR_PD_STATUS.ON : Field := ⟨0x80050, 0, 20, .ro, 0x00001, false⟩

/-! ### REGULATOR_TEMP: hottest sensor per die (R357) -/

/-- R358 [39:32]: s8 °C, hottest working hub sensor. -/
def REGULATOR_TEMP.HUB : Field := ⟨0x80058, 32, 8, .ro, 0, false⟩

/-- R358 [31:0]: s8 °C per die, die 3 in [31:24] down to die 0 in [7:0]; 0x80 for an unpowered die. -/
def REGULATOR_TEMP.DIE : Field := ⟨0x80058, 0, 32, .ro, 0, false⟩

/-! ### REGULATOR_TRIP: latched trip (R357) -/

/-- R358 [63]: 1: tripped. -/
def REGULATOR_TRIP.LATCHED : Field := ⟨0x80060, 63, 1, .ro, 0, true⟩

/-- R358 [62:60]: 0 to 3 compute die; 4 hub die. -/
def REGULATOR_TRIP.DIE : Field := ⟨0x80060, 60, 3, .ro, 0, true⟩

/-- R358 [59:54]: sensor that fired. -/
def REGULATOR_TRIP.SENSOR : Field := ⟨0x80060, 54, 6, .ro, 0, true⟩

/-- R358 [47:0]: dial seconds of the trip. -/
def REGULATOR_TRIP.SECONDS : Field := ⟨0x80060, 0, 48, .ro, 0, true⟩

/-! ### REGULATOR_GROUP_STATUS: grants and effective cap (R357) -/

/-- R358 [42:32]: grants given, in W. -/
def REGULATOR_GROUP_STATUS.GIVEN_W : Field := ⟨0x80068, 32, 11, .ro, 0, false⟩

/-- R358 [26:16]: grants received, in W. -/
def REGULATOR_GROUP_STATUS.RECEIVED_W : Field := ⟨0x80068, 16, 11, .ro, 0, false⟩

/-- R358 [10:0]: effective cap in W (R356). -/
def REGULATOR_GROUP_STATUS.EFFECTIVE_W : Field := ⟨0x80068, 0, 11, .ro, 1200, false⟩

/-! ### REGULATOR_COUNTS: rounds and sensor failures (R357) -/

/-- R358 [63:40]: R348. -/
def REGULATOR_COUNTS.CAP_OVER_ROUNDS : Field := ⟨0x80070, 40, 24, .ro, 0, false⟩

/-- R358 [39:16]: R348. -/
def REGULATOR_COUNTS.BELOW_FMIN_ROUNDS : Field := ⟨0x80070, 16, 24, .ro, 0, false⟩

/-- R358 [15:0]: R351. -/
def REGULATOR_COUNTS.SENSOR_FAILS : Field := ⟨0x80070, 0, 16, .ro, 0, true⟩

/-! ### REGULATOR_VR[v]: telemetry regulator v, for v = 0 to 7 (R357) -/

/-- R358 [23:16]: PMBus page; 0xFF: no PAGE command. -/
def REGULATOR_VR.PAGE (v : Nat) : Field := ⟨0x80100 + 8 * v, 16, 8, .rwl, 0xFF, false⟩

/-- R358 [15]: 1: the entry is read (R341). -/
def REGULATOR_VR.VALID (v : Nat) : Field := ⟨0x80100 + 8 * v, 15, 1, .rwl, 0, false⟩

/-- R358 [14:13]: class of the rails. -/
def REGULATOR_VR.CLASS (v : Nat) : Field := ⟨0x80100 + 8 * v, 13, 2, .rwl, 0, false⟩

/-- R358 [6:0]: PMBus address. -/
def REGULATOR_VR.ADDRESS (v : Nat) : Field := ⟨0x80100 + 8 * v, 0, 7, .rwl, 0, false⟩

/-! ### REGULATOR_CLASS_A[c]: estimate and allocation (R357) -/

/-- R358 [63:32]: A[c] of the last period in mW; the estimate for the hub class. -/
def REGULATOR_CLASS_A.ALLOC_MW (c : Nat) : Field := ⟨0x80180 + 16 * c, 32, 32, .ro, 0, false⟩

/-- R358 [31:0]: the class's estimate for the last period, in mW. -/
def REGULATOR_CLASS_A.EST_MW (c : Nat) : Field := ⟨0x80180 + 16 * c, 0, 32, .ro, 0, false⟩

/-! ### REGULATOR_CLASS_B[c]: correction (R357) -/

/-- R358 [63:48]: K[c] (R341). -/
def REGULATOR_CLASS_B.FACTOR (c : Nat) : Field := ⟨0x80188 + 16 * c, 48, 16, .ro, 32768, false⟩

/-- R358 [47:40]: consecutive failed intervals (R342). -/
def REGULATOR_CLASS_B.FAILS (c : Nat) : Field := ⟨0x80188 + 16 * c, 40, 8, .ro, 0, false⟩

/-- R358 [31:0]: last measured mean in mW. -/
def REGULATOR_CLASS_B.MEASURED_MW (c : Nat) : Field := ⟨0x80188 + 16 * c, 0, 32, .ro, 0, false⟩

/-! ### REGULATOR_VTABLE[p]: voltage-table point p (R357) -/

/-- R358 [27:16]: synthesiser frequency. -/
def REGULATOR_VTABLE.FREQ_MHZ (p : Nat) : Field := ⟨0x80200 + 8 * p, 16, 12, .ro, (pointMhz p), false⟩

/-- R358 [11:0]: voltage of the point. -/
def REGULATOR_VTABLE.VOLT_MV (p : Nat) : Field := ⟨0x80200 + 8 * p, 0, 12, .ro, 0, true⟩

/-! ### REGULATOR_DROOP[k]: droop counts of cluster k, for k = 0 to 31 (R357) -/

/-- R358 [63:32]: stretches (R349). -/
def REGULATOR_DROOP.EVENTS (k : Nat) : Field := ⟨0x80400 + 8 * k, 32, 32, .ro, 0, false⟩

/-- R358 [31:0]: stretched cycles. -/
def REGULATOR_DROOP.STRETCHED (k : Nat) : Field := ⟨0x80400 + 8 * k, 0, 32, .ro, 0, false⟩

/-! ### TALLY_CTRL: epoch length, static rule, lock (R380) -/

/-- R381 [63]: 1: RWL fields of the TALLY block are frozen. -/
def TALLY_CTRL.LOCK : Field := ⟨0x90000, 63, 1, .w1s, 0, false⟩

/-- R381 [17:16]: R366. -/
def TALLY_CTRL.STATIC_RULE : Field := ⟨0x90000, 16, 2, .rwl, 0, false⟩

/-- R381 [11:0]: epoch length in dial seconds, 1 to 3,600; 0 acts as 1; above 3,600 acts as 3,600. -/
def TALLY_CTRL.EPOCH_S : Field := ⟨0x90000, 0, 12, .rwl, 1, false⟩

/-! ### TALLY_EVENTS: event flags (R380) -/

/-- R382 [5]: an epoch is closed by a dial step (R369). -/
def TALLY_EVENTS.STEP_CLOSE : Field := ⟨0x90008, 5, 1, .w1c, 0, false⟩

/-- R382 [4]: an epoch closes that will not be signed (R377). -/
def TALLY_EVENTS.UNSIGNED : Field := ⟨0x90008, 4, 1, .w1c, 0, false⟩

/-- R382 [3]: more than 4,096 jobs fall in an epoch (R371). -/
def TALLY_EVENTS.JOB_OVERFLOW : Field := ⟨0x90008, 3, 1, .w1c, 0, false⟩

/-- R382 [2]: an uncollected entry is overwritten (R378). -/
def TALLY_EVENTS.TALLY_LOST : Field := ⟨0x90008, 2, 1, .w1c, 0, false⟩

/-- R382 [1]: a root is not signed within 50,000,000 dial ns (R376). -/
def TALLY_EVENTS.SIGN_LATE : Field := ⟨0x90008, 1, 1, .w1c, 0, false⟩

/-- R382 [0]: a root is signed (R375). -/
def TALLY_EVENTS.SIGNED : Field := ⟨0x90008, 0, 1, .w1c, 0, false⟩

/-! ### TALLY_EVENT_NOTIFY: notice enables (R380) -/

/-- R381 [5:0]: bit i set: event i of TALLY_EVENTS raises a notice. -/
def TALLY_EVENT_NOTIFY.MASK : Field := ⟨0x90010, 0, 6, .rw, 0x3E, false⟩

/-! ### TALLY_ACCOUNTS: system and static accounts (R380) -/

/-- R381 [27:16]: R366. -/
def TALLY_ACCOUNTS.STATIC_ACCOUNT : Field := ⟨0x90018, 16, 12, .rwl, 0, false⟩

/-- R381 [11:0]: R362, R365. -/
def TALLY_ACCOUNTS.SYSTEM_ACCOUNT : Field := ⟨0x90018, 0, 12, .rwl, 0, false⟩

/-! ### TALLY_ADAPT_ACCT[k]: adaptation accounts of slots 4k to 4k + 3, for k = 0 to 3 (R380) -/

/-- R381 account of ADAPT_STEP of slot 4k + j. -/
def TALLY_ADAPT_ACCT.ACCT (k j : Nat) : Field := ⟨0x90020 + 8 * k, 16 * j, 12, .rwl, 0, false⟩

/-! ### TALLY_STATUS: chain and ring state (R380) -/

/-- R381 [63:32]: R369. -/
def TALLY_STATUS.CHAIN : Field := ⟨0x90040, 32, 32, .ro, 0, true⟩

/-- R381 [8]: 1: a close or signature is in progress. -/
def TALLY_STATUS.CLOSING : Field := ⟨0x90040, 8, 1, .ro, 0, false⟩

/-- R381 [6:0]: ring entries not collected, 0 to 64. -/
def TALLY_STATUS.UNCOLLECTED : Field := ⟨0x90040, 0, 7, .ro, 0, false⟩

/-! ### TALLY_LAST_SEQ: last closed root (R380) -/

/-- R381 [63:0]: SEQ of the last closed root. -/
def TALLY_LAST_SEQ.SEQ : Field := ⟨0x90048, 0, 64, .ro, 0, true⟩

/-! ### TALLY_LAST_SIGNED: last signed root (R380) -/

/-- R381 [63:0]: SEQ of the last signed root. -/
def TALLY_LAST_SIGNED.SEQ : Field := ⟨0x90050, 0, 64, .ro, 0, true⟩

/-! ### TALLY_COLLECTED: collection mark (R378) (R380) -/

/-- R381 [63:0]: R378; the reset value marks no entry. -/
def TALLY_COLLECTED.SEQ : Field := ⟨0x90058, 0, 64, .rw, 0, true⟩

/-! ### TALLY_COUNTS: losses, late and unsigned roots (R380) -/

/-- R381 [63:48]: R378. -/
def TALLY_COUNTS.LOST : Field := ⟨0x90060, 48, 16, .ro, 0, true⟩

/-- R381 [47:32]: R376. -/
def TALLY_COUNTS.SIGN_LATE : Field := ⟨0x90060, 32, 16, .ro, 0, true⟩

/-- R381 [31:16]: epochs with FLAGS.JOB_OVERFLOW. -/
def TALLY_COUNTS.JOB_OVERFLOW : Field := ⟨0x90060, 16, 16, .ro, 0, true⟩

/-- R381 [15:0]: R377. -/
def TALLY_COUNTS.UNSIGNED : Field := ⟨0x90060, 0, 16, .ro, 0, true⟩

/-! ### TALLY_SIGN_TIME: time to signature (R380) -/

/-- R381 [31:0]: dial µs from the end of the last signed epoch to its signature. -/
def TALLY_SIGN_TIME.LAST_US : Field := ⟨0x90068, 0, 32, .ro, 0, false⟩

/-! ### TALLY_SELECT: account whose live figures are latched (R380) -/

/-- R381 [11:0]: a write latches TALLY_LIVE_REQ and TALLY_LIVE[c] for this account. -/
def TALLY_SELECT.ACCOUNT : Field := ⟨0x90070, 0, 12, .rw, 0, false⟩

/-! ### TALLY_LIVE_REQ: latched requests (R380) -/

/-- R381 [63:0]: REQUESTS of the current epoch at the latch. -/
def TALLY_LIVE_REQ.REQUESTS : Field := ⟨0x90078, 0, 64, .ro, 0, false⟩

/-! ### TALLY_LIVE[c]: latched grains of class c (R380) -/

/-- R381 [63:0]: whole grains of class c in the current epoch at the latch, before the static share. -/
def TALLY_LIVE.GRAINS (c : Nat) : Field := ⟨0x90080 + 8 * c, 0, 64, .ro, 0, false⟩

/-! ### SECURE_CTRL: start and lock (R409) -/

/-- R410 [63]: 1: RWL fields of the SECURE block are frozen. -/
def SECURE_CTRL.LOCK : Field := ⟨0xA0000, 63, 1, .w1s, 0, true⟩

/-- R410 [0]: 1: R403; cleared when decided. -/
def SECURE_CTRL.START : Field := ⟨0xA0000, 0, 1, .w1s, 0, true⟩

/-! ### SECURE_EVENTS: event flags (R409) -/

/-- R411 [6]: a schedule is added under R404. -/
def SECURE_EVENTS.SCHEDULE_LOADED : Field := ⟨0xA0008, 6, 1, .w1c, 0, true⟩

/-- R411 [5]: a START is refused (R403). -/
def SECURE_EVENTS.START_REFUSED : Field := ⟨0xA0008, 5, 1, .w1c, 0, true⟩

/-- R411 [4]: a re-read clears a digest mismatch (R385). -/
def SECURE_EVENTS.NVM_TRANSIENT : Field := ⟨0xA0008, 4, 1, .w1c, 0, true⟩

/-- R411 [3]: a model that is not required is refused at boot (R402). -/
def SECURE_EVENTS.MODEL_REFUSED : Field := ⟨0xA0008, 3, 1, .w1c, 0, true⟩

/-- R411 [2]: a counter is raised (R394). -/
def SECURE_EVENTS.SVN_RAISED : Field := ⟨0xA0008, 2, 1, .w1c, 0, true⟩

/-- R411 [1]: the other header is used (R402). -/
def SECURE_EVENTS.FALLBACK : Field := ⟨0xA0008, 1, 1, .w1c, 0, true⟩

/-- R411 [0]: admission begins (R399, R403). -/
def SECURE_EVENTS.BOOT_DONE : Field := ⟨0xA0008, 0, 1, .w1c, 0, true⟩

/-! ### SECURE_EVENT_NOTIFY: notice enables (R409) -/

/-- R410 [6:0]: bit i set: event i of SECURE_EVENTS raises a notice. -/
def SECURE_EVENT_NOTIFY.MASK : Field := ⟨0xA0010, 0, 7, .rw, 0x7F, true⟩

/-! ### SECURE_BOOT_STATUS: step, exits, header (R409) -/

/-- R410 [63:60]: last step completed (R399). -/
def SECURE_BOOT_STATUS.STEP : Field := ⟨0xA0018, 60, 4, .ro, 0, true⟩

/-- R410 [59:55]: R402; 0 for none. -/
def SECURE_BOOT_STATUS.EXIT : Field := ⟨0xA0018, 55, 5, .ro, 0, true⟩

/-- R410 [54:50]: exit of the header first tried. -/
def SECURE_BOOT_STATUS.EXIT_FALLBACK : Field := ⟨0xA0018, 50, 5, .ro, 0, true⟩

/-- R410 [49]: 0: header at byte 0; 1: at 65,536. -/
def SECURE_BOOT_STATUS.HEADER : Field := ⟨0xA0018, 49, 1, .ro, 0, true⟩

/-- R410 [48]: 1: the other header was used. -/
def SECURE_BOOT_STATUS.FALLBACK : Field := ⟨0xA0018, 48, 1, .ro, 0, true⟩

/-- R410 [47:46]: 0 running; 1 recovery; 2 waiting. -/
def SECURE_BOOT_STATUS.CLASS : Field := ⟨0xA0018, 46, 2, .ro, 0, true⟩

/-! ### SECURE_BOOT_TIME: times of the last start (R409) -/

/-- R410 [63:32]: ms from power-good or restart to readiness. -/
def SECURE_BOOT_TIME.READY_MS : Field := ⟨0xA0020, 32, 32, .ro, 0, true⟩

/-- R410 [31:0]: ms to the first admission; 0 if none yet. -/
def SECURE_BOOT_TIME.ADMIT_MS : Field := ⟨0xA0020, 0, 32, .ro, 0, true⟩

/-! ### SECURE_COUNTERS: counter values (R409) -/

/-- R410 [63:32]: R393. -/
def SECURE_COUNTERS.COUNTER0 : Field := ⟨0xA0028, 32, 32, .ro, 0, true⟩

/-- R410 [31:0]: R393. -/
def SECURE_COUNTERS.COUNTER1 : Field := ⟨0xA0028, 0, 32, .ro, 0, true⟩

/-! ### SECURE_SVN: versions in use (R409) -/

/-- R410 [63:32]: SVN of the firmware. -/
def SECURE_SVN.FW_SVN : Field := ⟨0xA0030, 32, 32, .ro, 0, true⟩

/-- R410 [31:0]: SVN of the configuration image. -/
def SECURE_SVN.CONFIG_SVN : Field := ⟨0xA0030, 0, 32, .ro, 0, true⟩

/-! ### SECURE_GENERATION: GENERATION of the header in use (R409) -/

/-- R410 [63:0]: R386. -/
def SECURE_GENERATION.GENERATION : Field := ⟨0xA0038, 0, 64, .ro, 0, true⟩

/-! ### SECURE_NVM: NVM size and read counts (R409) -/

/-- R410 [63:56]: log2 of the NVM size in bytes: 27, 28 or 29. -/
def SECURE_NVM.SIZE_LOG2 : Field := ⟨0xA0040, 56, 8, .ro, 0, true⟩

/-- R410 [31:0]: digest mismatches cleared by a re-read (R385). -/
def SECURE_NVM.TRANSIENT : Field := ⟨0xA0040, 0, 32, .ro, 0, true⟩

/-! ### SECURE_SERIAL: chip serial number (R409) -/

/-- R410 [63:0]: R392. -/
def SECURE_SERIAL.SERIAL : Field := ⟨0xA0048, 0, 64, .ro, 0, true⟩

/-! ### SECURE_OWNER_ID: OWNER_ID (R409) -/

/-- R410 [63:0]: R392. -/
def SECURE_OWNER_ID.OWNER_ID : Field := ⟨0xA0050, 0, 64, .ro, 0, true⟩

/-! ### SECURE_CONFIG_ID: CONFIG_ID (R409) -/

/-- R410 [63:0]: R395. -/
def SECURE_CONFIG_ID.CONFIG_ID : Field := ⟨0xA0058, 0, 64, .ro, 0, true⟩

/-! ### SECURE_FW_ID: IMAGE_ID of the firmware (R409) -/

/-- R410 [63:0]: R389. -/
def SECURE_FW_ID.IMAGE_ID : Field := ⟨0xA0060, 0, 64, .ro, 0, true⟩

/-! ### SECURE_MODEL_FAILS: models refused at boot (R409) -/

/-- R410 [63:32]: bit i set: model index i was refused at boot (R402). -/
def SECURE_MODEL_FAILS.MASK : Field := ⟨0xA0068, 32, 32, .ro, 0, true⟩

/-! ### SECURE_KEY_ID[k]: KEY_ID, k = 0 to 3; word 0 holds bytes 0 to 7 (R409) -/

/-- R410 [63:0]: bytes 8k to 8k + 7 of KEY_ID. -/
def SECURE_KEY_ID.BYTES (k : Nat) : Field := ⟨0xA0080 + 8 * k, 0, 64, .ro, 0, true⟩

/-! ### GLOBAL_ID: vendor, part and stepping (R432) -/

/-- R433 [63:48]: Carfoson. -/
def GLOBAL_ID.VENDOR : Field := ⟨0x0, 48, 16, .ro, 0xCF50, false⟩

/-- R433 [47:32]: HN2048. -/
def GLOBAL_ID.PART : Field := ⟨0x0, 32, 16, .ro, 0x2048, false⟩

/-- R433 [31:24]: R2. -/
def GLOBAL_ID.STEPPING : Field := ⟨0x0, 24, 8, .ro, 0xB0, false⟩

/-! ### GLOBAL_CTRL: warm restart and lock (R432) -/

/-- R433 [63]: 1: RWL fields of the GLOBAL block are frozen. -/
def GLOBAL_CTRL.LOCK : Field := ⟨0x8, 63, 1, .w1s, 0, false⟩

/-- R433 [0]: 1: warm restart at the next dial-second boundary, as given in Counters, Trace, Hangs and Faults; cleared when it begins. -/
def GLOBAL_CTRL.WARM_RESTART : Field := ⟨0x8, 0, 1, .w1s, 0, false⟩

/-! ### GLOBAL_EVENTS: event flags (R432) -/

/-- R434 [1]: a notice is not written under R430. -/
def GLOBAL_EVENTS.ROUTE_INVALID : Field := ⟨0x10, 1, 1, .w1c, 0, false⟩

/-- R434 [0]: a warm restart reaches readiness. -/
def GLOBAL_EVENTS.RESTART_DONE : Field := ⟨0x10, 0, 1, .w1c, 0, false⟩

/-! ### GLOBAL_EVENT_NOTIFY: notice enables (R432) -/

/-- R433 [1:0]: bit i set: event i of GLOBAL_EVENTS raises a notice. -/
def GLOBAL_EVENT_NOTIFY.MASK : Field := ⟨0x18, 0, 2, .rw, 0x3, false⟩

/-! ### GLOBAL_STATUS: state and counts (R432) -/

/-- R433 [63]: 1: step 11 of R399 is complete. -/
def GLOBAL_STATUS.READY : Field := ⟨0x20, 63, 1, .ro, 0, false⟩

/-- R433 [62]: 1: a schedule runs and admission has begun. -/
def GLOBAL_STATUS.ADMITTING : Field := ⟨0x20, 62, 1, .ro, 0, false⟩

/-- R433 [47:32]: R430. -/
def GLOBAL_STATUS.NOTICES_UNROUTED : Field := ⟨0x20, 32, 16, .ro, 0, false⟩

/-- R433 [31:0]: warm restarts since the cold reset. -/
def GLOBAL_STATUS.WARM_RESTARTS : Field := ⟨0x20, 0, 32, .ro, 0, true⟩

/-! ### GLOBAL_NOTICE_QUEUE[k]: notice route of block k, for k = 0 to 14 (R432) -/

/-- R433 [17:0]: target of block k's notices; ignored for k = 5. -/
def GLOBAL_NOTICE_QUEUE.QUEUE (k : Nat) : Field := ⟨0x100 + 8 * k, 0, 18, .rwl, 0x38000, false⟩

/-! ### CROWN_CTRL: port, sessions, protocols, lock (R435) -/

/-- R436 [63]: 1: RWL fields of the CROWN block are frozen. -/
def CROWN_CTRL.LOCK : Field := ⟨0xB0000, 63, 1, .w1s, 0, false⟩

/-- R436 [47:32]: crown listening port. -/
def CROWN_CTRL.TCP_PORT : Field := ⟨0xB0000, 32, 16, .rwl, 4848, false⟩

/-- R436 [20:16]: R417; 0 acts as 1, above 16 as 16. -/
def CROWN_CTRL.MAX_SESSIONS : Field := ⟨0xB0000, 16, 5, .rwl, 16, false⟩

/-- R436 [2]: 1: IPv6 in use. -/
def CROWN_CTRL.IPV6_EN : Field := ⟨0xB0000, 2, 1, .rwl, 1, false⟩

/-- R436 [1]: 1: IPv4 in use. -/
def CROWN_CTRL.IPV4_EN : Field := ⟨0xB0000, 1, 1, .rwl, 1, false⟩

/-- R436 [0]: R414. -/
def CROWN_CTRL.FEC : Field := ⟨0xB0000, 0, 1, .rwl, 1, false⟩

/-! ### CROWN_EVENTS: event flags (R435) -/

/-- R437 [5]: the port goes up or down. -/
def CROWN_EVENTS.LINK_CHANGED : Field := ⟨0xB0008, 5, 1, .w1c, 0, false⟩

/-- R437 [4]: a handshake is refused (R416). -/
def CROWN_EVENTS.AUTH_FAILED : Field := ⟨0xB0008, 4, 1, .w1c, 0, false⟩

/-- R437 [3]: a job retires as ABORTED. -/
def CROWN_EVENTS.JOB_ABORTED : Field := ⟨0xB0008, 3, 1, .w1c, 0, false⟩

/-- R437 [2]: a job retires as FAILED. -/
def CROWN_EVENTS.JOB_FAILED : Field := ⟨0xB0008, 2, 1, .w1c, 0, false⟩

/-- R437 [1]: a capture offer or push is discarded (R428). -/
def CROWN_EVENTS.CAPTURE_DROPPED : Field := ⟨0xB0008, 1, 1, .w1c, 0, false⟩

/-- R437 [0]: a session opens or closes. -/
def CROWN_EVENTS.SESSION_CHANGED : Field := ⟨0xB0008, 0, 1, .w1c, 0, false⟩

/-! ### CROWN_EVENT_NOTIFY: notice enables (R435) -/

/-- R436 [5:0]: bit i set: event i of CROWN_EVENTS raises a notice. -/
def CROWN_EVENT_NOTIFY.MASK : Field := ⟨0xB0010, 0, 6, .rw, 0x3C, false⟩

/-! ### CROWN_MAC: port address (R435) -/

/-- R436 [47:0]: port MAC address. -/
def CROWN_MAC.ADDRESS : Field := ⟨0xB0018, 0, 48, .rwl, 0, false⟩

/-! ### CROWN_IPV4: IPv4 address (R435) -/

/-- R436 [31:0]. -/
def CROWN_IPV4.ADDRESS : Field := ⟨0xB0020, 0, 32, .rwl, 0, false⟩

/-! ### CROWN_IPV4_GW: IPv4 gateway (R435) -/

/-- R436 [31:0]: 0: no gateway. -/
def CROWN_IPV4_GW.ADDRESS : Field := ⟨0xB0028, 0, 32, .rwl, 0, false⟩

/-! ### CROWN_IPV6_HI: IPv6 address, bits [127:64] (R435) -/

/-- R436 [63:0]. -/
def CROWN_IPV6_HI.ADDRESS : Field := ⟨0xB0030, 0, 64, .rwl, 0, false⟩

/-! ### CROWN_IPV6_LO: IPv6 address, bits [63:0] (R435) -/

/-- R436 [63:0]. -/
def CROWN_IPV6_LO.ADDRESS : Field := ⟨0xB0038, 0, 64, .rwl, 0, false⟩

/-! ### CROWN_IP_CFG: prefix lengths (R435) -/

/-- R436 [15:8]: IPv6 prefix length, 1 to 128. -/
def CROWN_IP_CFG.PREFIX6 : Field := ⟨0xB0040, 8, 8, .rwl, 64, false⟩

/-- R436 [5:0]: IPv4 prefix length, 1 to 32; 0 acts as 32. -/
def CROWN_IP_CFG.PREFIX4 : Field := ⟨0xB0040, 0, 6, .rwl, 24, false⟩

/-! ### CROWN_STATUS: link, sessions and jobs (R435) -/

/-- R436 [63]: 1: the port is up. -/
def CROWN_STATUS.LINK_UP : Field := ⟨0xB0048, 63, 1, .ro, 0, false⟩

/-- R436 [62:58]: open sessions, 0 to 16. -/
def CROWN_STATUS.SESSIONS : Field := ⟨0xB0048, 58, 5, .ro, 0, false⟩

/-- R436 [47:32]: jobs running. -/
def CROWN_STATUS.RUNNING : Field := ⟨0xB0048, 32, 16, .ro, 0, false⟩

/-- R436 [31:0]: job store in use, in KiB. -/
def CROWN_STATUS.STORE_KIB : Field := ⟨0xB0048, 0, 32, .ro, 0, false⟩

/-! ### CROWN_JOBS_A: posted and retired jobs (R435) -/

/-- R436 [63:32]: jobs posted. -/
def CROWN_JOBS_A.POSTED : Field := ⟨0xB0050, 32, 32, .ro, 0, true⟩

/-- R436 [31:0]: jobs retired, all outcomes. -/
def CROWN_JOBS_A.RETIRED : Field := ⟨0xB0050, 0, 32, .ro, 0, true⟩

/-! ### CROWN_JOBS_B: aborted and failed jobs (R435) -/

/-- R436 [63:32]: jobs retired as ABORTED. -/
def CROWN_JOBS_B.ABORTED : Field := ⟨0xB0058, 32, 32, .ro, 0, true⟩

/-- R436 [31:0]: jobs retired as FAILED. -/
def CROWN_JOBS_B.FAILED : Field := ⟨0xB0058, 0, 32, .ro, 0, true⟩

/-! ### CROWN_COUNTS: errors and drops (R435) -/

/-- R436 [63:48]: R416. -/
def CROWN_COUNTS.AUTH_FAILED : Field := ⟨0xB0060, 48, 16, .ro, 0, false⟩

/-- R436 [47:32]: R418. -/
def CROWN_COUNTS.BAD_MESSAGES : Field := ⟨0xB0060, 32, 16, .ro, 0, false⟩

/-- R436 [31:0]: R428. -/
def CROWN_COUNTS.CAPTURE_DROPPED : Field := ⟨0xB0060, 0, 32, .ro, 0, false⟩

/-! ### CROWN_NEXT_JOB: next JOB_ID (R435) -/

/-- R436 [31:0]: next JOB_ID to be assigned (R424). -/
def CROWN_NEXT_JOB.JOB_ID : Field := ⟨0xB0068, 0, 32, .ro, 0, true⟩

/-! ### PEER_CTRL: topology, address, EtherType, lock (R451) -/

/-- R452 [63]: 1: RWL fields of the PEER block are frozen. -/
def PEER_CTRL.LOCK : Field := ⟨0xC0000, 63, 1, .w1s, 0, false⟩

/-- R452 [47:32]: R441. -/
def PEER_CTRL.ETHERTYPE : Field := ⟨0xC0000, 32, 16, .rwl, 0x88B6, false⟩

/-- R452 [25:24]: R439; 3 acts as 0. -/
def PEER_CTRL.TOPOLOGY : Field := ⟨0xC0000, 24, 2, .rwl, 0, false⟩

/-- R452 [22:16]: 2 to 64. -/
def PEER_CTRL.RING_SIZE : Field := ⟨0xC0000, 16, 7, .rwl, 2, false⟩

/-- R452 [15:12]: 2 to 8. -/
def PEER_CTRL.Y_SIZE : Field := ⟨0xC0000, 12, 4, .rwl, 2, false⟩

/-- R452 [11:8]: 2 to 8. -/
def PEER_CTRL.X_SIZE : Field := ⟨0xC0000, 8, 4, .rwl, 2, false⟩

/-- R452 [5:0]: device address. -/
def PEER_CTRL.ADDRESS : Field := ⟨0xC0000, 0, 6, .rwl, 0, false⟩

/-! ### PEER_EVENTS: event flags (R451) -/

/-- R453 [8]: a frame meets a down link (R444). -/
def PEER_EVENTS.ROUTE_DROP : Field := ⟨0xC0008, 8, 1, .w1c, 0, false⟩

/-- R453 [7]: a member's SLACK is missing (R449). -/
def PEER_EVENTS.SLACK_MISSING : Field := ⟨0xC0008, 7, 1, .w1c, 0, false⟩

/-- R453 [6]: a distribution ends with failures (R447). -/
def PEER_EVENTS.DIST_FAILED : Field := ⟨0xC0008, 6, 1, .w1c, 0, false⟩

/-- R453 [5]: a distribution ends without failures (R447). -/
def PEER_EVENTS.DIST_DONE : Field := ⟨0xC0008, 5, 1, .w1c, 0, false⟩

/-- R453 [4]: a relay is answered UNREACHABLE (R446). -/
def PEER_EVENTS.RELAY_TIMEOUT : Field := ⟨0xC0008, 4, 1, .w1c, 0, false⟩

/-- R453 [3]: a lasting fault is found (R443). -/
def PEER_EVENTS.CRC_LASTING : Field := ⟨0xC0008, 3, 1, .w1c, 0, false⟩

/-- R453 [2]: a link or address fails R439 or R440. -/
def PEER_EVENTS.MISWIRED : Field := ⟨0xC0008, 2, 1, .w1c, 0, false⟩

/-- R453 [1]: a link goes down. -/
def PEER_EVENTS.LINK_DOWN : Field := ⟨0xC0008, 1, 1, .w1c, 0, false⟩

/-- R453 [0]: a link comes up. -/
def PEER_EVENTS.LINK_UP : Field := ⟨0xC0008, 0, 1, .w1c, 0, false⟩

/-! ### PEER_EVENT_NOTIFY: notice enables (R451) -/

/-- R452 [8:0]: bit i set: event i of PEER_EVENTS raises a notice. -/
def PEER_EVENT_NOTIFY.MASK : Field := ⟨0xC0010, 0, 9, .rw, 0x1FE, false⟩

/-! ### PEER_GROUP_CFG: power group (R451) -/

/-- R452 [7:0]: power group; 0: not a member. -/
def PEER_GROUP_CFG.GROUP : Field := ⟨0xC0018, 0, 8, .rwl, 0, false⟩

/-! ### PEER_SYNC_CFG: event interval (R451) -/

/-- R452 [15:0]: R450; 0: no EVENT frames. -/
def PEER_SYNC_CFG.INTERVAL_BEATS : Field := ⟨0xC0020, 0, 16, .rw, 10000, false⟩

/-! ### PEER_RELAY_CFG: timeout (R451) -/

/-- R452 [15:0]: R446, R447; 0 acts as 1. -/
def PEER_RELAY_CFG.TIMEOUT_MS : Field := ⟨0xC0028, 0, 16, .rw, 2000, false⟩

/-! ### PEER_DIST_MASK: distribution destinations (R451) -/

/-- R452 [63:0]: bit a set: device a receives. -/
def PEER_DIST_MASK.DEST : Field := ⟨0xC0030, 0, 64, .rw, 0, false⟩

/-! ### PEER_DIST_CMD: distribution command (R451) -/

/-- R452 [63]: 1: start (R447); cleared when taken. -/
def PEER_DIST_CMD.GO : Field := ⟨0xC0038, 63, 1, .w1s, 0, false⟩

/-- R452 [62]: 1: a distribution runs. -/
def PEER_DIST_CMD.BUSY : Field := ⟨0xC0038, 62, 1, .ro, 0, false⟩

/-- R452 [61:60]: 0 none; 1 finished; 2 refused at once. -/
def PEER_DIST_CMD.RESULT : Field := ⟨0xC0038, 60, 2, .ro, 0, false⟩

/-- R452 [59:56]: slot. -/
def PEER_DIST_CMD.SLOT : Field := ⟨0xC0038, 56, 4, .rw, 0, false⟩

/-- R452 [31:0]: image bytes. -/
def PEER_DIST_CMD.BYTES : Field := ⟨0xC0038, 0, 32, .rw, 0, false⟩

/-! ### PEER_DIST_DONE: devices complete (R451) -/

/-- R452 [63:0]: devices that reported complete. -/
def PEER_DIST_DONE.MASK : Field := ⟨0xC0040, 0, 64, .ro, 0, false⟩

/-! ### PEER_DIST_FAILED: devices failed (R451) -/

/-- R452 [63:0]: devices that failed or did not report. -/
def PEER_DIST_FAILED.MASK : Field := ⟨0xC0048, 0, 64, .ro, 0, false⟩

/-! ### PEER_RELAY: relay counts (R451) -/

/-- R452 [63:32]: messages relayed from this device. -/
def PEER_RELAY.SENT : Field := ⟨0xC0050, 32, 32, .ro, 0, false⟩

/-- R452 [31:16]: answered UNREACHABLE. -/
def PEER_RELAY.UNREACHABLE : Field := ⟨0xC0050, 16, 16, .ro, 0, false⟩

/-- R452 [15:0]: responses after timeout. -/
def PEER_RELAY.LATE : Field := ⟨0xC0050, 0, 16, .ro, 0, false⟩

/-! ### PEER_FORWARD: forwarding counts (R451) -/

/-- R452 [63:32]: frames passed on. -/
def PEER_FORWARD.FORWARDED : Field := ⟨0xC0058, 32, 32, .ro, 0, false⟩

/-- R452 [31:0]: R444. -/
def PEER_FORWARD.ROUTE_DROPS : Field := ⟨0xC0058, 0, 32, .ro, 0, false⟩

/-! ### PEER_GROUP_STATUS: members heard (R451) -/

/-- R452 [63:0]: bit a set: device a's SLACK was missing at the last exchange. -/
def PEER_GROUP_STATUS.MISSING : Field := ⟨0xC0060, 0, 64, .ro, 0, false⟩

/-! ### PEER_LINK_STATUS[j]: link state (R451) -/

/-- R452 [15:14]: bit l: lane l of the link has a lasting fault. -/
def PEER_LINK_STATUS.LANE_FAULT (j : Nat) : Field := ⟨0xC0100 + 16 * j, 14, 2, .ro, 0, true⟩

/-- R452 [13:12]: 0 down; 1 one lane; 2 two lanes. -/
def PEER_LINK_STATUS.LANES (j : Nat) : Field := ⟨0xC0100 + 16 * j, 12, 2, .ro, 0, false⟩

/-- R452 [11]: R440. -/
def PEER_LINK_STATUS.UP (j : Nat) : Field := ⟨0xC0100 + 16 * j, 11, 1, .ro, 0, false⟩

/-- R452 [10]: R440. -/
def PEER_LINK_STATUS.MISWIRED (j : Nat) : Field := ⟨0xC0100 + 16 * j, 10, 1, .ro, 0, false⟩

/-- R452 [5:0]: address in the last HELLO. -/
def PEER_LINK_STATUS.NEIGHBOUR (j : Nat) : Field := ⟨0xC0100 + 16 * j, 0, 6, .ro, 0, false⟩

/-! ### PEER_LINK_CRC[j]: check-sequence outcomes (R451) -/

/-- R452 [63:32]: R443. -/
def PEER_LINK_CRC.TRANSIENT (j : Nat) : Field := ⟨0xC0108 + 16 * j, 32, 32, .ro, 0, false⟩

/-- R452 [31:0]: R443. -/
def PEER_LINK_CRC.LASTING (j : Nat) : Field := ⟨0xC0108 + 16 * j, 0, 32, .ro, 0, false⟩

/-! ### OBSERVE_CTRL: lock (R482) -/

/-- R483 [63]: 1: RWL fields of the OBSERVE block are frozen. -/
def OBSERVE_CTRL.LOCK : Field := ⟨0xD0000, 63, 1, .w1s, 0, false⟩

/-! ### OBSERVE_EVENTS: event flags (R482) -/

/-- R484 [7]: a START or ENABLE is refused (R456, R459). -/
def OBSERVE_EVENTS.START_REFUSED : Field := ⟨0xD0008, 7, 1, .w1c, 0, false⟩

/-- R484 [6]: a unit becomes failing (R474). -/
def OBSERVE_EVENTS.UNIT_FAILING : Field := ⟨0xD0008, 6, 1, .w1c, 0, false⟩

/-- R484 [5]: a lasting fault is found (R470). -/
def OBSERVE_EVENTS.FAULT_LASTING : Field := ⟨0xD0008, 5, 1, .w1c, 0, false⟩

/-- R484 [4]: a detector fires (R467). -/
def OBSERVE_EVENTS.HANG : Field := ⟨0xD0008, 4, 1, .w1c, 0, false⟩

/-- R484 [3]: trace is disabled at a restart (R459). -/
def OBSERVE_EVENTS.TRACE_STOPPED : Field := ⟨0xD0008, 3, 1, .w1c, 0, false⟩

/-- R484 [2]: writing stops in MODE 1 (R460). -/
def OBSERVE_EVENTS.TRACE_FULL : Field := ⟨0xD0008, 2, 1, .w1c, 0, false⟩

/-- R484 [1]: a trace record is lost (R460). -/
def OBSERVE_EVENTS.TRACE_LOST : Field := ⟨0xD0008, 1, 1, .w1c, 0, false⟩

/-- R484 [0]: a snapshot is lost (R457). -/
def OBSERVE_EVENTS.SAMPLE_LOST : Field := ⟨0xD0008, 0, 1, .w1c, 0, false⟩

/-! ### OBSERVE_EVENT_NOTIFY: notice enables (R482) -/

/-- R483 [7:0]: bit i set: event i of OBSERVE_EVENTS raises a notice. -/
def OBSERVE_EVENT_NOTIFY.MASK : Field := ⟨0xD0010, 0, 8, .rw, 0xF6, false⟩

/-! ### OBSERVE_SAMPLE_CTRL: sampling runs (R482) -/

/-- R483 [63]: R456; cleared at B. -/
def OBSERVE_SAMPLE_CTRL.START : Field := ⟨0xD0018, 63, 1, .w1s, 0, false⟩

/-- R483 [62]: R456; cleared at B. -/
def OBSERVE_SAMPLE_CTRL.STOP : Field := ⟨0xD0018, 62, 1, .w1s, 0, false⟩

/-- R483 [61]: 1: START zeroes the counters. -/
def OBSERVE_SAMPLE_CTRL.CLEAR : Field := ⟨0xD0018, 61, 1, .rw, 1, false⟩

/-- R483 [60]: 1: a run is active. -/
def OBSERVE_SAMPLE_CTRL.ACTIVE : Field := ⟨0xD0018, 60, 1, .ro, 0, false⟩

/-- R483 [19:0]: R457. -/
def OBSERVE_SAMPLE_CTRL.INTERVAL_BEATS : Field := ⟨0xD0018, 0, 20, .rw, 1000, false⟩

/-! ### OBSERVE_SAMPLE_STATUS: run state (R482) -/

/-- R483 [63:40]: current or last run. -/
def OBSERVE_SAMPLE_STATUS.RUN : Field := ⟨0xD0020, 40, 24, .ro, 0, false⟩

/-- R483 [39:16]: snapshots written in the run. -/
def OBSERVE_SAMPLE_STATUS.SEQ : Field := ⟨0xD0020, 16, 24, .ro, 0, false⟩

/-- R483 [15:0]: R457. -/
def OBSERVE_SAMPLE_STATUS.LOST : Field := ⟨0xD0020, 0, 16, .ro, 0, false⟩

/-! ### OBSERVE_SAMPLE_WP: sample ring pointer (R482) -/

/-- R483 [39:0]: byte offset of the next sample record. -/
def OBSERVE_SAMPLE_WP.OFFSET : Field := ⟨0xD0028, 0, 40, .ro, 0, false⟩

/-! ### OBSERVE_TRACE_CTRL: trace enable (R482) -/

/-- R483 [63]: R459. -/
def OBSERVE_TRACE_CTRL.ENABLE : Field := ⟨0xD0030, 63, 1, .rw, 0, true⟩

/-- R483 [62]: 0 ring; 1 stop when full. -/
def OBSERVE_TRACE_CTRL.MODE : Field := ⟨0xD0030, 62, 1, .rw, 0, false⟩

/-- R483 [9:0]: bit t − 1: type t is written. -/
def OBSERVE_TRACE_CTRL.CLASSES : Field := ⟨0xD0030, 0, 10, .rw, 0x3FF, false⟩

/-! ### OBSERVE_TRACE_STATUS: trace pointer (R482) -/

/-- R483 [63]: R460. -/
def OBSERVE_TRACE_STATUS.STOPPED : Field := ⟨0xD0038, 63, 1, .ro, 0, false⟩

/-- R483 [62]: 1: the ring has wrapped. -/
def OBSERVE_TRACE_STATUS.WRAPPED : Field := ⟨0xD0038, 62, 1, .ro, 0, false⟩

/-- R483 [39:0]: byte offset of the next record. -/
def OBSERVE_TRACE_STATUS.OFFSET : Field := ⟨0xD0038, 0, 40, .ro, 0, false⟩

/-! ### OBSERVE_TRACE_LOST: lost records (R482) -/

/-- R483 [63:0]: R460. -/
def OBSERVE_TRACE_LOST.COUNT : Field := ⟨0xD0040, 0, 64, .ro, 0, false⟩

/-! ### OBSERVE_MARK: MARK record (R482) -/

/-- R483 [63:0]: a write writes a MARK record. -/
def OBSERVE_MARK.VALUE : Field := ⟨0xD0048, 0, 64, .rw, 0, false⟩

/-! ### OBSERVE_HANG_CFG: detector thresholds (R482) -/

/-- R483 [63]: R467. -/
def OBSERVE_HANG_CFG.RESTART : Field := ⟨0xD0050, 63, 1, .rw, 0, false⟩

/-- R483 [55:40]: detector 3; 0 disables it. -/
def OBSERVE_HANG_CFG.JOB_HANG_MS : Field := ⟨0xD0050, 40, 16, .rw, 10000, false⟩

/-- R483 [31:0]: detectors 1, 2, 4 and 5; 0 disables them. -/
def OBSERVE_HANG_CFG.HANG_BEATS : Field := ⟨0xD0050, 0, 32, .rw, 10000, false⟩

/-! ### OBSERVE_HANG_STATUS: last hang and dump (R482) -/

/-- R483 [63]: 1: the dump area holds a dump. -/
def OBSERVE_HANG_STATUS.DUMP_VALID : Field := ⟨0xD0058, 63, 1, .w1c, 0, false⟩

/-- R483 [62:60]: detector of the dump. -/
def OBSERVE_HANG_STATUS.CAUSE : Field := ⟨0xD0058, 60, 3, .ro, 0, false⟩

/-- R483 [55:32]: firings. -/
def OBSERVE_HANG_STATUS.HANGS : Field := ⟨0xD0058, 32, 24, .ro, 0, false⟩

/-- R483 [31:0]: subject of the dump. -/
def OBSERVE_HANG_STATUS.SUBJECT : Field := ⟨0xD0058, 0, 32, .ro, 0, false⟩

/-! ### OBSERVE_WINDOW_SEL: window selection (R482) -/

/-- R483 [63:62]: 0 sample ring; 1 trace; 2 dump area; 3 logbook record. -/
def OBSERVE_WINDOW_SEL.REGION : Field := ⟨0xD0060, 62, 2, .rw, 0, false⟩

/-- R483 [39:12]: page in 4 KiB units. -/
def OBSERVE_WINDOW_SEL.PAGE : Field := ⟨0xD0060, 12, 28, .rw, 0, false⟩

/-! ### OBSERVE_FAULT[c]: fault class c, for c = 0 to 15 (R482) -/

/-- R483 [63:32]: R470. -/
def OBSERVE_FAULT.TRANSIENT (c : Nat) : Field := ⟨0xD0100 + 8 * c, 32, 32, .ro, 0, true⟩

/-- R483 [31:0]: R470. -/
def OBSERVE_FAULT.LASTING (c : Nat) : Field := ⟨0xD0100 + 8 * c, 0, 32, .ro, 0, true⟩

/-! ### OBSERVE_COUNTER[i]: counter i, for i = 0 to 247 (R482) -/

/-- R483 [63:0]: R454. -/
def OBSERVE_COUNTER.VALUE (i : Nat) : Field := ⟨0xD0200 + 8 * i, 0, 64, .ro, 0, true⟩

/-! ### OBSERVE_WINDOW[w]: window word w, for w = 0 to 511 (R482) -/

/-- R483 [63:0]: R463. -/
def OBSERVE_WINDOW.DATA (w : Nat) : Field := ⟨0xD1000 + 8 * w, 0, 64, .ro, 0, false⟩

/-! ### LOGBOOK_CTRL: lock, commands, interval (R485) -/

/-- R486 [63]: 1: RWL fields of the LOGBOOK block are frozen. -/
def LOGBOOK_CTRL.LOCK : Field := ⟨0xE0000, 63, 1, .w1s, 0, true⟩

/-- R486 [62]: 1: write a record; cleared when written. -/
def LOGBOOK_CTRL.WRITE_NOW : Field := ⟨0xE0000, 62, 1, .w1s, 0, true⟩

/-- R486 [61]: R481; cleared when written. -/
def LOGBOOK_CTRL.CLEAR_FAILED : Field := ⟨0xE0000, 61, 1, .w1s, 0, true⟩

/-- R486 [16:0]: 600 to 86,400; other values act as the nearer limit. -/
def LOGBOOK_CTRL.INTERVAL_S : Field := ⟨0xE0000, 0, 17, .rwl, 3600, true⟩

/-! ### LOGBOOK_EVENTS: event flags (R485) -/

/-- R487 [3]: a record with cleared marks is written (R481). -/
def LOGBOOK_EVENTS.FAILED_CLEARED : Field := ⟨0xE0008, 3, 1, .w1c, 0, true⟩

/-- R487 [2]: no valid record is found at start (R480). -/
def LOGBOOK_EVENTS.NO_RECORD : Field := ⟨0xE0008, 2, 1, .w1c, 0, true⟩

/-- R487 [1]: a record cannot be written (R478). -/
def LOGBOOK_EVENTS.WRITE_FAILED : Field := ⟨0xE0008, 1, 1, .w1c, 0, true⟩

/-- R487 [0]: a record is written. -/
def LOGBOOK_EVENTS.WRITTEN : Field := ⟨0xE0008, 0, 1, .w1c, 0, true⟩

/-! ### LOGBOOK_EVENT_NOTIFY: notice enables (R485) -/

/-- R486 [3:0]: bit i set: event i of LOGBOOK_EVENTS raises a notice. -/
def LOGBOOK_EVENT_NOTIFY.MASK : Field := ⟨0xE0010, 0, 4, .rw, 0xE, true⟩

/-! ### LOGBOOK_STATUS: state (R485) -/

/-- R486 [63]: R478. -/
def LOGBOOK_STATUS.DISABLED : Field := ⟨0xE0018, 63, 1, .ro, 0, true⟩

/-- R486 [62]: R480. -/
def LOGBOOK_STATUS.NO_RECORD : Field := ⟨0xE0018, 62, 1, .ro, 0, true⟩

/-- R486 [61]: R478; cleared by the next good write. -/
def LOGBOOK_STATUS.WRITE_FAILED : Field := ⟨0xE0018, 61, 1, .ro, 0, true⟩

/-- R486 [60]: R481. -/
def LOGBOOK_STATUS.CLEAR_PENDING : Field := ⟨0xE0018, 60, 1, .ro, 0, true⟩

/-- R486 [47:32]: sectors in use. -/
def LOGBOOK_STATUS.SECTORS : Field := ⟨0xE0018, 32, 16, .ro, 0, true⟩

/-- R486 [31:0]: low 32 bits of POWER_ON_S at the last write. -/
def LOGBOOK_STATUS.LAST_WRITE_S : Field := ⟨0xE0018, 0, 32, .ro, 0, true⟩

/-! ### LOGBOOK_SEQ: SEQ of the last record (R485) -/

/-- R486 [63:0]: R479. -/
def LOGBOOK_SEQ.SEQ : Field := ⟨0xE0020, 0, 64, .ro, 0, true⟩

/-! ### LOGBOOK_COUNTS: cold resets and trips (R485) -/

/-- R486 [63:32]: R479. -/
def LOGBOOK_COUNTS.COLD_RESETS : Field := ⟨0xE0028, 32, 32, .ro, 0, true⟩

/-- R486 [31:0]: R479. -/
def LOGBOOK_COUNTS.TRIPS : Field := ⟨0xE0028, 0, 32, .ro, 0, true⟩

/-! ### LOGBOOK_HOURS: power-on hours (R485) -/

/-- R486 [31:0]: trunc(POWER_ON_S / 3,600). -/
def LOGBOOK_HOURS.HOURS : Field := ⟨0xE0030, 0, 32, .ro, 0, true⟩

/-! ### LOGBOOK_FAILED_A: failed clusters and head lanes (R485) -/

/-- R486 [63:32]: bit 8 × die + cluster. -/
def LOGBOOK_FAILED_A.CLUSTERS : Field := ⟨0xE0038, 32, 32, .ro, 0, true⟩

/-- R486 [31:0]: bit 4p + l. -/
def LOGBOOK_FAILED_A.HEAD_LANES : Field := ⟨0xE0038, 0, 32, .ro, 0, true⟩

/-! ### LOGBOOK_FAILED_B: failed dies, stacks and peer lanes (R485) -/

/-- R486 [23:16]: bit n. -/
def LOGBOOK_FAILED_B.PEER_LANES : Field := ⟨0xE0040, 16, 8, .ro, 0, true⟩

/-- R486 [15:8]: bit n. -/
def LOGBOOK_FAILED_B.STACKS : Field := ⟨0xE0040, 8, 8, .ro, 0, true⟩

/-- R486 [3:0]: bit d. -/
def LOGBOOK_FAILED_B.DIES : Field := ⟨0xE0040, 0, 4, .ro, 0, true⟩

/-! ### LOGBOOK_FAILED_CH[k]: failed channels of stacks 2k and 2k + 1, for k = 0 to 3 (R485) -/

/-- R486 [63:32]: channels of stack 2k + 1. -/
def LOGBOOK_FAILED_CH.ODD (k : Nat) : Field := ⟨0xE0048 + 8 * k, 32, 32, .ro, 0, true⟩

/-- R486 [31:0]: channels of stack 2k. -/
def LOGBOOK_FAILED_CH.EVEN (k : Nat) : Field := ⟨0xE0048 + 8 * k, 0, 32, .ro, 0, true⟩

/-- Registers of the control space, part 0 (R431). -/
def registers0 : List RegDef := [
  ⟨0x10000, 8, 1, fun _ => [DIAL_CTRL.LOCK, DIAL_CTRL.FREE_RUN_START, DIAL_CTRL.STEP_EN, DIAL_CTRL.FALLBACK_EN, DIAL_CTRL.SOURCE]⟩,
  ⟨0x10008, 8, 1, fun _ => [DIAL_STATUS.STATE, DIAL_STATUS.ACTIVE_SOURCE, DIAL_STATUS.EVER_LOCKED, DIAL_STATUS.SET, DIAL_STATUS.PPS_PRESENT, DIAL_STATUS.MASTER_SEEN]⟩,
  ⟨0x10010, 8, 1, fun _ => [DIAL_NOW_SEC.SECONDS]⟩,
  ⟨0x10018, 8, 1, fun _ => [DIAL_NOW_NS.NS]⟩,
  ⟨0x10020, 8, 1, fun _ => [DIAL_BATCH.BATCH]⟩,
  ⟨0x10028, 8, 1, fun _ => [DIAL_ROUND.BEAT_INDEX, DIAL_ROUND.BEAT_IN_ROUND, DIAL_ROUND.ROUND_INDEX]⟩,
  ⟨0x10030, 8, 1, fun _ => [DIAL_OFFSET.MEASURE_COUNT, DIAL_OFFSET.OFFSET_NS]⟩,
  ⟨0x10038, 8, 1, fun _ => [DIAL_FREQ_ADJ.ADJ]⟩,
  ⟨0x10040, 8, 1, fun _ => [DIAL_SLEW.MAX_PPB]⟩,
  ⟨0x10048, 8, 1, fun _ => [DIAL_STEP_THRESHOLD.NS]⟩,
  ⟨0x10050, 8, 1, fun _ => [DIAL_HOLDOVER_CFG.LIMIT_NS, DIAL_HOLDOVER_CFG.WARN_NS, DIAL_HOLDOVER_CFG.STABILITY_PPB]⟩,
  ⟨0x10058, 8, 1, fun _ => [DIAL_HOLDOVER_BOUND.ELAPSED_S, DIAL_HOLDOVER_BOUND.BOUND_NS]⟩,
  ⟨0x10060, 8, 1, fun _ => [DIAL_EVENTS.UNLOCKED, DIAL_EVENTS.CATCHUP_STARTED, DIAL_EVENTS.FREQ_DEFERRED, DIAL_EVENTS.SHED_SET_CHANGED, DIAL_EVENTS.LATE_BATCH, DIAL_EVENTS.BUDGET_HELD, DIAL_EVENTS.TOD_ERROR, DIAL_EVENTS.SOURCE_SWITCHED, DIAL_EVENTS.STEP_DONE, DIAL_EVENTS.HOLDOVER_EXPIRED, DIAL_EVENTS.HOLDOVER_WARN, DIAL_EVENTS.LOCK_LOST, DIAL_EVENTS.LOCK_GAINED]⟩,
  ⟨0x10068, 8, 1, fun _ => [DIAL_EVENT_NOTIFY.MASK]⟩,
  ⟨0x10070, 8, 1, fun _ => [DIAL_PTP_CFG.TRANSPORT, DIAL_PTP_CFG.ANNOUNCE_TIMEOUT, DIAL_PTP_CFG.SYNC_LOG, DIAL_PTP_CFG.DOMAIN]⟩,
  ⟨0x10078, 8, 1, fun _ => [DIAL_TOD_ERRORS.MISSING, DIAL_TOD_ERRORS.BAD]⟩,
  ⟨0x10080, 8, 1, fun _ => [DIAL_SCHEDULE_ID.ID]⟩,
  ⟨0x10088, 8, 1, fun _ => [DIAL_SCHEDULE.ACTIVITY_COUNT, DIAL_SCHEDULE.DROOP_MARGIN_PPM, DIAL_SCHEDULE.FMIN_MHZ, DIAL_SCHEDULE.BATCH_CAPACITY, DIAL_SCHEDULE.LATENCY_BEATS, DIAL_SCHEDULE.ROUND_BEATS]⟩,
  ⟨0x10090, 8, 1, fun _ => [DIAL_SHED_MASK.SHED]⟩,
  ⟨0x10098, 8, 1, fun _ => [DIAL_FREQ_STATE.DEFERRALS, DIAL_FREQ_STATE.PENDING_MHZ, DIAL_FREQ_STATE.IN_FORCE_MHZ]⟩,
  ⟨0x100A0, 8, 1, fun _ => [DIAL_LATE_BATCHES.COUNT]⟩,
  ⟨0x100A8, 8, 1, fun _ => [DIAL_ADMISSION.CATCHUP_BEATS, DIAL_ADMISSION.CATCHUP, DIAL_ADMISSION.CAPACITY]⟩,
  ⟨0x10400, 16, 64, fun a => [DIAL_ACT_USE.CYCLES_LAST a, DIAL_ACT_USE.GRANTED a]⟩,
  ⟨0x10408, 16, 64, fun a => [DIAL_ACT_COUNT.HELD_ROUNDS a, DIAL_ACT_COUNT.SHED_ROUNDS a]⟩,
  ⟨0x20000, 8, 1, fun _ => [HEADPORT_CTRL.LOCK, HEADPORT_CTRL.SOURCE_ID, HEADPORT_CTRL.ACCEPT_VLAN, HEADPORT_CTRL.ETHERTYPE]⟩,
  ⟨0x20008, 8, 1, fun _ => [HEADPORT_EVENTS.QUOTA_SHED, HEADPORT_EVENTS.MAC_CONTROL, HEADPORT_EVENTS.SEQ_GAP, HEADPORT_EVENTS.DISCARD, HEADPORT_EVENTS.LANE_FAILED, HEADPORT_EVENTS.LANE_RETRAINED]⟩,
  ⟨0x20010, 8, 1, fun _ => [HEADPORT_EVENT_NOTIFY.MASK]⟩,
  ⟨0x20100, 64, 8, fun p => [HEADPORT_PORT_CFG.QUOTA p, HEADPORT_PORT_CFG.V1_PARTITION p, HEADPORT_PORT_CFG.SHED_EGRESS p, HEADPORT_PORT_CFG.SHED_MIRROR p, HEADPORT_PORT_CFG.SHED_ACTION p, HEADPORT_PORT_CFG.MAX_LANES p, HEADPORT_PORT_CFG.KEAFEN_V1 p, HEADPORT_PORT_CFG.ADMIT_EN p, HEADPORT_PORT_CFG.ENABLE p]⟩,
  ⟨0x20108, 64, 8, fun p => [HEADPORT_LOCAL_MAC.ADDRESS p]⟩,
  ⟨0x20110, 64, 8, fun p => [HEADPORT_PEER_MAC.ADDRESS p]⟩,
  ⟨0x20118, 64, 8, fun p => [HEADPORT_VLAN.TAG_EN p, HEADPORT_VLAN.TCI p]⟩,
  ⟨0x20120, 64, 8, fun p => [HEADPORT_STATUS.LANE_FAULT p, HEADPORT_STATUS.LOCKED p, HEADPORT_STATUS.ALIGNED p, HEADPORT_STATUS.ACTIVE_LANES p, HEADPORT_STATUS.LANE_BASE p]⟩,
  ⟨0x20400, 128, 8, fun p => [HEADPORT_RX_BUNDLES.COUNT p]⟩,
  ⟨0x20408, 128, 8, fun p => [HEADPORT_RX_HEADS.COUNT p]⟩,
  ⟨0x20410, 128, 8, fun p => [HEADPORT_TX_VERDICTS.COUNT p]⟩,
  ⟨0x20418, 128, 8, fun p => [HEADPORT_DISCARDS.FCS p, HEADPORT_DISCARDS.LENGTH p, HEADPORT_DISCARDS.HEADER p, HEADPORT_DISCARDS.ETHERTYPE p]⟩,
  ⟨0x20420, 128, 8, fun p => [HEADPORT_SEQ.GAPS p, HEADPORT_SEQ.LAST_SEQUENCE p]⟩,
  ⟨0x20428, 128, 8, fun p => [HEADPORT_FEC.UNCORRECTABLE p, HEADPORT_FEC.CORRECTED p]⟩,
  ⟨0x20430, 128, 8, fun p => [HEADPORT_SHED_A.CAPACITY p, HEADPORT_SHED_A.QUOTA p]⟩,
  ⟨0x20438, 128, 8, fun p => [HEADPORT_SHED_B.CATCHUP p, HEADPORT_SHED_B.STEP p]⟩]

/-- Registers of the control space, part 1 (R431). -/
def registers1 : List RegDef := [
  ⟨0x20440, 128, 8, fun p => [HEADPORT_SHED_C.NO_SCHEDULE p, HEADPORT_SHED_C.DISABLED p]⟩,
  ⟨0x20448, 128, 8, fun p => [HEADPORT_LATE.COUNT p]⟩,
  ⟨0x20450, 128, 8, fun p => [HEADPORT_MISC.RETRAINS p, HEADPORT_MISC.MAC_CONTROL p, HEADPORT_MISC.VERDICTS_DROPPED p]⟩,
  ⟨0x30000, 8, 1, fun _ => [FRONT_CTRL.LOCK]⟩,
  ⟨0x30008, 8, 1, fun _ => [FRONT_EVENTS.TABLE_LOST, FRONT_EVENTS.RULE_LOST, FRONT_EVENTS.HINT_INVALID, FRONT_EVENTS.PARSE_TRUNCATED, FRONT_EVENTS.FEATURE_FAULT, FRONT_EVENTS.RULE_REFUSED, FRONT_EVENTS.RULE_COMMITTED]⟩,
  ⟨0x30010, 8, 1, fun _ => [FRONT_EVENT_NOTIFY.MASK]⟩,
  ⟨0x30018, 8, 1, fun _ => [FRONT_RULE_CTRL.DISCARD, FRONT_RULE_CTRL.COMMIT]⟩,
  ⟨0x30020, 8, 1, fun _ => [FRONT_RULE_STATUS.BUSY, FRONT_RULE_STATUS.RESULT, FRONT_RULE_STATUS.BAD_INDEX, FRONT_RULE_STATUS.STAGED]⟩,
  ⟨0x30028, 8, 1, fun _ => [FRONT_PARSE_SHORT.COUNT]⟩,
  ⟨0x30030, 8, 1, fun _ => [FRONT_PARSE_TRUNCATED.COUNT]⟩,
  ⟨0x30038, 8, 1, fun _ => [FRONT_RULE_HITS.COUNT]⟩,
  ⟨0x30040, 8, 1, fun _ => [FRONT_DEFAULTS.COUNT]⟩,
  ⟨0x30048, 8, 1, fun _ => [FRONT_FEATURE_FAULTS.COUNT]⟩,
  ⟨0x30050, 8, 1, fun _ => [FRONT_METER_RED.COUNT]⟩,
  ⟨0x30058, 8, 1, fun _ => [FRONT_METER_YELLOW.COUNT]⟩,
  ⟨0x30060, 8, 1, fun _ => [FRONT_MISC.HINT_INVALID, FRONT_MISC.LOST_RULES, FRONT_MISC.LOST_WORDS]⟩,
  ⟨0x30100, 16, 64, fun n => [FRONT_PART_A.ENABLE n, FRONT_PART_A.PRIVILEGED n, FRONT_PART_A.KEY_TEMPLATE n, FRONT_PART_A.SLOT_MASK n, FRONT_PART_A.DEFAULT_ACTION n, FRONT_PART_A.DEFAULT_EGRESS n, FRONT_PART_A.DEFAULT_MIRROR n]⟩,
  ⟨0x30108, 16, 64, fun n => [FRONT_PART_B.ACCOUNT_SPAN n, FRONT_PART_B.ACCOUNT_BASE n]⟩,
  ⟨0x40000, 8, 1, fun _ => [TABLE_CTRL.LOCK, TABLE_CTRL.FLOW_ORG, TABLE_CTRL.EP_ORG, TABLE_CTRL.FLOW_LEARN, TABLE_CTRL.EP_LEARN, TABLE_CTRL.FLOW_RAKE_EN, TABLE_CTRL.EP_RAKE_EN]⟩,
  ⟨0x40008, 8, 1, fun _ => [TABLE_EVENTS.ORPHAN_REMOVED, TABLE_EVENTS.RAKE_OVERRUN, TABLE_EVENTS.PARITY_LASTING, TABLE_EVENTS.REBUILD_FAILED, TABLE_EVENTS.REBUILD_DONE, TABLE_EVENTS.REHASH_REQUEST, TABLE_EVENTS.STASH_USED, TABLE_EVENTS.LEARN_DROPPED, TABLE_EVENTS.STATIC_CONFLICT, TABLE_EVENTS.MOVE]⟩,
  ⟨0x40010, 8, 1, fun _ => [TABLE_EVENT_NOTIFY.MASK]⟩,
  ⟨0x40018, 8, 1, fun _ => [TABLE_LEARN_CFG.AGED_EN, TABLE_LEARN_CFG.QUEUE, TABLE_LEARN_CFG.HOLDOFF_BEATS]⟩,
  ⟨0x40020, 8, 1, fun _ => [TABLE_FLOW_KEY.COMPONENTS]⟩,
  ⟨0x40028, 8, 1, fun _ => [TABLE_EP_KEY.COMPONENTS]⟩,
  ⟨0x40030, 8, 1, fun _ => [TABLE_REBUILD.EP_START, TABLE_REBUILD.FLOW_START, TABLE_REBUILD.EP_STATE, TABLE_REBUILD.FLOW_STATE]⟩,
  ⟨0x40038, 8, 1, fun _ => [TABLE_RAKE_CFG.EP_SWEEP_S, TABLE_RAKE_CFG.FLOW_SWEEP_S]⟩,
  ⟨0x40040, 8, 1, fun _ => [TABLE_RAKE_STATUS.FLOW_SWEEPS, TABLE_RAKE_STATUS.EP_SWEEPS, TABLE_RAKE_STATUS.FLOW_OVERRUNS, TABLE_RAKE_STATUS.EP_OVERRUNS]⟩,
  ⟨0x40048, 8, 1, fun _ => [TABLE_DMA.DONE, TABLE_DMA.REFUSED]⟩,
  ⟨0x40080, 8, 8, fun i => [TABLE_HASH.VALUE (i / 4) (i % 4)]⟩,
  ⟨0x400C0, 8, 8, fun i => [TABLE_HASH_NEXT.VALUE (i / 4) (i % 4)]⟩,
  ⟨0x40100, 128, 2, fun t => [TABLE_LOOKUP_HITS.COUNT t]⟩,
  ⟨0x40108, 128, 2, fun t => [TABLE_LOOKUP_MISSES.MISSES t, TABLE_LOOKUP_MISSES.NO_KEY t]⟩,
  ⟨0x40110, 128, 2, fun t => [TABLE_LEARN.INSERTED t, TABLE_LEARN.DROPPED t, TABLE_LEARN.REFUSED t]⟩,
  ⟨0x40118, 128, 2, fun t => [TABLE_CUCKOO.STASH_USED t, TABLE_CUCKOO.STASHED t, TABLE_CUCKOO.RELOCATIONS t]⟩,
  ⟨0x40120, 128, 2, fun t => [TABLE_AGING.REMOVED t, TABLE_AGING.ORPHANS t, TABLE_AGING.LOCKED_PASSED t]⟩,
  ⟨0x40128, 128, 2, fun t => [TABLE_CONFLICT.LOCKED_SKIPS t, TABLE_CONFLICT.STALE_SCATTERS t]⟩,
  ⟨0x40130, 128, 2, fun t => [TABLE_MOVE.MOVES t, TABLE_MOVE.STATIC_CONFLICTS t]⟩,
  ⟨0x40138, 128, 2, fun t => [TABLE_PARITY.TRANSIENT t, TABLE_PARITY.LASTING t, TABLE_PARITY.LOST_FREE t]⟩,
  ⟨0x40140, 128, 2, fun t => [TABLE_OCCUPANCY.VALID t, TABLE_OCCUPANCY.FREE t]⟩,
  ⟨0x50000, 8, 1, fun _ => [QUEUE_CTRL.LOCK, QUEUE_CTRL.NOTICE_QUEUE]⟩]

/-- Registers of the control space, part 2 (R431). -/
def registers2 : List RegDef := [
  ⟨0x50008, 8, 1, fun _ => [QUEUE_EVENTS.DATA_PATH_FULL, QUEUE_EVENTS.FLUSH_DONE, QUEUE_EVENTS.DESC_REFUSED, QUEUE_EVENTS.NOTICE_DROP, QUEUE_EVENTS.MISMATCH_RESET, QUEUE_EVENTS.LEVEL]⟩,
  ⟨0x50010, 8, 1, fun _ => [QUEUE_EVENT_NOTIFY.MASK]⟩,
  ⟨0x50018, 8, 1, fun _ => [QUEUE_REGION.UNITS, QUEUE_REGION.BASE]⟩,
  ⟨0x50020, 8, 1, fun _ => [QUEUE_FLUSH.GO, QUEUE_FLUSH.QUEUE]⟩,
  ⟨0x50028, 8, 1, fun _ => [QUEUE_RESETS.MISMATCH, QUEUE_RESETS.FLUSHES]⟩,
  ⟨0x50030, 8, 1, fun _ => [QUEUE_LOST.ITEMS]⟩,
  ⟨0x50038, 8, 1, fun _ => [QUEUE_NOTICE_DROPS.COUNT]⟩,
  ⟨0x50040, 8, 1, fun _ => [QUEUE_LAST_RESET.CAUSE, QUEUE_LAST_RESET.QUEUE]⟩,
  ⟨0x50048, 8, 1, fun _ => [QUEUE_REFUSALS.FULL_REFUSED, QUEUE_REFUSALS.DESC_REFUSED]⟩,
  ⟨0x61000, 8, 1, fun _ => [ARRAY_Q_EVENTS.CONST_RANGE, ARRAY_Q_EVENTS.CONTROL_DISCARDED, ARRAY_Q_EVENTS.CONTROL_APPLIED, ARRAY_Q_EVENTS.RATIO_SAT, ARRAY_Q_EVENTS.PINNED_HIT, ARRAY_Q_EVENTS.MISFIT]⟩,
  ⟨0x61008, 8, 1, fun _ => [ARRAY_Q_EVENT_NOTIFY.MASK]⟩,
  ⟨0x61010, 8, 1, fun _ => [ARRAY_Q_CONTROL.SLOT, ARRAY_Q_CONTROL.TENSOR, ARRAY_Q_CONTROL.OP, ARRAY_Q_CONTROL.TARGET, ARRAY_Q_CONTROL.LO, ARRAY_Q_CONTROL.HI]⟩,
  ⟨0x61018, 8, 1, fun _ => [ARRAY_Q_CONTROL_STATUS.APPLIED, ARRAY_Q_CONTROL_STATUS.DISCARDED, ARRAY_Q_CONTROL_STATUS.RESULT, ARRAY_Q_CONTROL_STATUS.STAGED]⟩,
  ⟨0x61020, 8, 1, fun _ => [ARRAY_Q_SELECT.SLOT, ARRAY_Q_SELECT.TENSOR]⟩,
  ⟨0x61028, 8, 1, fun _ => [ARRAY_Q_SCALES.SCALE, ARRAY_Q_SCALES.OSCALE]⟩,
  ⟨0x61030, 8, 1, fun _ => [ARRAY_Q_STATE.EXISTS, ARRAY_Q_STATE.MODE, ARRAY_Q_STATE.FILL, ARRAY_Q_STATE.SW, ARRAY_Q_STATE.SW_OUT, ARRAY_Q_STATE.PINNED_HIT, ARRAY_Q_STATE.CONST, ARRAY_Q_STATE.OUT_CONST, ARRAY_Q_STATE.MISFIT]⟩,
  ⟨0x61038, 8, 1, fun _ => [ARRAY_Q_LAST_SAT.SAT, ARRAY_Q_LAST_SAT.ELEMENTS]⟩,
  ⟨0x61040, 8, 1, fun _ => [ARRAY_Q_LAST_SSE.SSE]⟩,
  ⟨0x61048, 8, 1, fun _ => [ARRAY_Q_LAST_BATCH.BATCH]⟩,
  ⟨0x61050, 8, 1, fun _ => [ARRAY_Q_TENSOR_COUNTS.MISFITS, ARRAY_Q_TENSOR_COUNTS.PINNED_HITS]⟩,
  ⟨0x61058, 8, 1, fun _ => [ARRAY_Q_MISFITS.MISFITS, ARRAY_Q_MISFITS.RERUNS]⟩,
  ⟨0x61060, 8, 1, fun _ => [ARRAY_Q_SAT_TOTAL.COUNT]⟩,
  ⟨0x61068, 8, 1, fun _ => [ARRAY_Q_CLAMPS.CONST, ARRAY_Q_CLAMPS.PINNED_HITS, ARRAY_Q_CLAMPS.RATIO_SAT]⟩,
  ⟨0x70000, 8, 1, fun _ => [SLOT_CTRL.LOCK]⟩,
  ⟨0x70008, 8, 1, fun _ => [SLOT_EVENTS.STEP_DONE, SLOT_EVENTS.LOST_TREE, SLOT_EVENTS.SAMPLE_MISSED, SLOT_EVENTS.ADAPT_STOPPED, SLOT_EVENTS.ROLLED_BACK, SLOT_EVENTS.DRIFT_REFUSED, SLOT_EVENTS.PROMOTED, SLOT_EVENTS.READY, SLOT_EVENTS.CANDIDATE_FORMED, SLOT_EVENTS.SWAPPED, SLOT_EVENTS.STAGE_REFUSED, SLOT_EVENTS.STAGED]⟩,
  ⟨0x70010, 8, 1, fun _ => [SLOT_EVENT_NOTIFY.MASK]⟩,
  ⟨0x70018, 8, 1, fun _ => [SLOT_COMMAND.SLOT, SLOT_COMMAND.OP]⟩,
  ⟨0x70020, 8, 1, fun _ => [SLOT_COMMAND_STATUS.SLOT, SLOT_COMMAND_STATUS.OP, SLOT_COMMAND_STATUS.RESULT, SLOT_COMMAND_STATUS.BEAT]⟩,
  ⟨0x70028, 8, 1, fun _ => [SLOT_REFUSAL.SLOT, SLOT_REFUSAL.CAUSE, SLOT_REFUSAL.SCHEDULE, SLOT_REFUSAL.DETAIL]⟩,
  ⟨0x70030, 8, 4, fun k => [SLOT_REPORT.REPORT k]⟩,
  ⟨0x70100, 128, 16, fun s => [SLOT_STATE.STAGING s, SLOT_STATE.ACTIVE s, SLOT_STATE.ADAPT_ON s, SLOT_STATE.ADAPT_HELD s, SLOT_STATE.LOST_TREE s, SLOT_STATE.SWAP_PENDING s, SLOT_STATE.ACTIVE_TAG s, SLOT_STATE.STAGING_TAG s]⟩,
  ⟨0x70108, 128, 16, fun s => [SLOT_ACTIVE_ID.MODEL_ID s]⟩,
  ⟨0x70110, 128, 16, fun s => [SLOT_STAGING_ID.MODEL_ID s]⟩,
  ⟨0x70118, 128, 16, fun s => [SLOT_GEN.ACTIVE_GEN s, SLOT_GEN.STAGING_GEN s]⟩,
  ⟨0x70120, 128, 16, fun s => [SLOT_ADAPT_CFG.AUTO_PROMOTE s, SLOT_ADAPT_CFG.AUTO_RELEASE_ROUNDS s]⟩,
  ⟨0x70128, 128, 16, fun s => [SLOT_ADAPT_COUNTS.STEPS s, SLOT_ADAPT_COUNTS.DRIFT_REFUSALS s, SLOT_ADAPT_COUNTS.CLIPPED s, SLOT_ADAPT_COUNTS.SAMPLES_MISSED s]⟩,
  ⟨0x70130, 128, 16, fun s => [SLOT_SHADOW_C.LOSS s]⟩,
  ⟨0x70138, 128, 16, fun s => [SLOT_SHADOW_A.LOSS s]⟩,
  ⟨0x70140, 128, 16, fun s => [SLOT_DRIFT.DSUM s, SLOT_DRIFT.DMAX s, SLOT_DRIFT.EVAL s]⟩,
  ⟨0x70148, 128, 16, fun s => [SLOT_SEQ_A.STALE_GATHERS s, SLOT_SEQ_A.COLD_READS s]⟩]

/-- Registers of the control space, part 3 (R431). -/
def registers3 : List RegDef := [
  ⟨0x70150, 128, 16, fun s => [SLOT_SEQ_B.COLLAPSED s, SLOT_SEQ_B.FAULT_SKIPS s]⟩,
  ⟨0x70158, 128, 16, fun s => [SLOT_SEQ_C.SUPPRESSED s]⟩,
  ⟨0x80000, 8, 1, fun _ => [REGULATOR_CTRL.LOCK, REGULATOR_CTRL.MAX_POINT, REGULATOR_CTRL.MIN_POINT, REGULATOR_CTRL.FIXED_POINT, REGULATOR_CTRL.FIXED_FREQ, REGULATOR_CTRL.ORDER]⟩,
  ⟨0x80008, 8, 1, fun _ => [REGULATOR_EVENTS.GROUP_SHIFT, REGULATOR_EVENTS.MARGIN_EXCEEDED, REGULATOR_EVENTS.SENSOR_FAILED, REGULATOR_EVENTS.TELEMETRY_LOST, REGULATOR_EVENTS.CORR_LIMIT, REGULATOR_EVENTS.TRIP, REGULATOR_EVENTS.THERMAL_OVER_FLOOR, REGULATOR_EVENTS.THROTTLE_OFF, REGULATOR_EVENTS.THROTTLE_ON, REGULATOR_EVENTS.BELOW_FMIN, REGULATOR_EVENTS.CAP_UNREACHABLE, REGULATOR_EVENTS.CAP_OVER]⟩,
  ⟨0x80010, 8, 1, fun _ => [REGULATOR_EVENT_NOTIFY.MASK]⟩,
  ⟨0x80018, 8, 1, fun _ => [REGULATOR_CAP.RISE_MARGIN, REGULATOR_CAP.CAP_W]⟩,
  ⟨0x80020, 8, 1, fun _ => [REGULATOR_FLOORS.LINK_W, REGULATOR_FLOORS.MEM_W, REGULATOR_FLOORS.COMPUTE_W]⟩,
  ⟨0x80028, 8, 1, fun _ => [REGULATOR_THERMAL.HYST_C, REGULATOR_THERMAL.THROTTLE_C]⟩,
  ⟨0x80030, 8, 1, fun _ => [REGULATOR_DROOP_CFG.THRESH_MV]⟩,
  ⟨0x80038, 8, 1, fun _ => [REGULATOR_PD_CTRL.PD19_OFF, REGULATOR_PD_CTRL.PD4_OFF]⟩,
  ⟨0x80040, 8, 1, fun _ => [REGULATOR_GROUP_CFG.SHARED, REGULATOR_GROUP_CFG.SHIFT_MAX_W, REGULATOR_GROUP_CFG.RESERVE_W]⟩,
  ⟨0x80048, 8, 1, fun _ => [REGULATOR_STATUS.EFF_MHZ, REGULATOR_STATUS.GATE, REGULATOR_STATUS.POINT, REGULATOR_STATUS.THERMAL_CEIL, REGULATOR_STATUS.TRIPPED, REGULATOR_STATUS.THROTTLING, REGULATOR_STATUS.TELEMETRY_LOST, REGULATOR_STATUS.BELOW_FMIN, REGULATOR_STATUS.CAP_UNREACHABLE, REGULATOR_STATUS.FIXED_ACTIVE, REGULATOR_STATUS.ROUND_MEAN_MW]⟩,
  ⟨0x80050, 8, 1, fun _ => [REGULATOR_PD_STATUS.ON]⟩,
  ⟨0x80058, 8, 1, fun _ => [REGULATOR_TEMP.HUB, REGULATOR_TEMP.DIE]⟩,
  ⟨0x80060, 8, 1, fun _ => [REGULATOR_TRIP.LATCHED, REGULATOR_TRIP.DIE, REGULATOR_TRIP.SENSOR, REGULATOR_TRIP.SECONDS]⟩,
  ⟨0x80068, 8, 1, fun _ => [REGULATOR_GROUP_STATUS.GIVEN_W, REGULATOR_GROUP_STATUS.RECEIVED_W, REGULATOR_GROUP_STATUS.EFFECTIVE_W]⟩,
  ⟨0x80070, 8, 1, fun _ => [REGULATOR_COUNTS.CAP_OVER_ROUNDS, REGULATOR_COUNTS.BELOW_FMIN_ROUNDS, REGULATOR_COUNTS.SENSOR_FAILS]⟩,
  ⟨0x80100, 8, 8, fun v => [REGULATOR_VR.PAGE v, REGULATOR_VR.VALID v, REGULATOR_VR.CLASS v, REGULATOR_VR.ADDRESS v]⟩,
  ⟨0x80180, 16, 4, fun c => [REGULATOR_CLASS_A.ALLOC_MW c, REGULATOR_CLASS_A.EST_MW c]⟩,
  ⟨0x80188, 16, 4, fun c => [REGULATOR_CLASS_B.FACTOR c, REGULATOR_CLASS_B.FAILS c, REGULATOR_CLASS_B.MEASURED_MW c]⟩,
  ⟨0x80200, 8, 16, fun p => [REGULATOR_VTABLE.FREQ_MHZ p, REGULATOR_VTABLE.VOLT_MV p]⟩,
  ⟨0x80400, 8, 32, fun k => [REGULATOR_DROOP.EVENTS k, REGULATOR_DROOP.STRETCHED k]⟩,
  ⟨0x90000, 8, 1, fun _ => [TALLY_CTRL.LOCK, TALLY_CTRL.STATIC_RULE, TALLY_CTRL.EPOCH_S]⟩,
  ⟨0x90008, 8, 1, fun _ => [TALLY_EVENTS.STEP_CLOSE, TALLY_EVENTS.UNSIGNED, TALLY_EVENTS.JOB_OVERFLOW, TALLY_EVENTS.TALLY_LOST, TALLY_EVENTS.SIGN_LATE, TALLY_EVENTS.SIGNED]⟩,
  ⟨0x90010, 8, 1, fun _ => [TALLY_EVENT_NOTIFY.MASK]⟩,
  ⟨0x90018, 8, 1, fun _ => [TALLY_ACCOUNTS.STATIC_ACCOUNT, TALLY_ACCOUNTS.SYSTEM_ACCOUNT]⟩,
  ⟨0x90020, 8, 4, fun k => [TALLY_ADAPT_ACCT.ACCT k 3, TALLY_ADAPT_ACCT.ACCT k 2, TALLY_ADAPT_ACCT.ACCT k 1, TALLY_ADAPT_ACCT.ACCT k 0]⟩,
  ⟨0x90040, 8, 1, fun _ => [TALLY_STATUS.CHAIN, TALLY_STATUS.CLOSING, TALLY_STATUS.UNCOLLECTED]⟩,
  ⟨0x90048, 8, 1, fun _ => [TALLY_LAST_SEQ.SEQ]⟩,
  ⟨0x90050, 8, 1, fun _ => [TALLY_LAST_SIGNED.SEQ]⟩,
  ⟨0x90058, 8, 1, fun _ => [TALLY_COLLECTED.SEQ]⟩,
  ⟨0x90060, 8, 1, fun _ => [TALLY_COUNTS.LOST, TALLY_COUNTS.SIGN_LATE, TALLY_COUNTS.JOB_OVERFLOW, TALLY_COUNTS.UNSIGNED]⟩,
  ⟨0x90068, 8, 1, fun _ => [TALLY_SIGN_TIME.LAST_US]⟩,
  ⟨0x90070, 8, 1, fun _ => [TALLY_SELECT.ACCOUNT]⟩,
  ⟨0x90078, 8, 1, fun _ => [TALLY_LIVE_REQ.REQUESTS]⟩,
  ⟨0x90080, 8, 4, fun c => [TALLY_LIVE.GRAINS c]⟩,
  ⟨0xA0000, 8, 1, fun _ => [SECURE_CTRL.LOCK, SECURE_CTRL.START]⟩,
  ⟨0xA0008, 8, 1, fun _ => [SECURE_EVENTS.SCHEDULE_LOADED, SECURE_EVENTS.START_REFUSED, SECURE_EVENTS.NVM_TRANSIENT, SECURE_EVENTS.MODEL_REFUSED, SECURE_EVENTS.SVN_RAISED, SECURE_EVENTS.FALLBACK, SECURE_EVENTS.BOOT_DONE]⟩,
  ⟨0xA0010, 8, 1, fun _ => [SECURE_EVENT_NOTIFY.MASK]⟩,
  ⟨0xA0018, 8, 1, fun _ => [SECURE_BOOT_STATUS.STEP, SECURE_BOOT_STATUS.EXIT, SECURE_BOOT_STATUS.EXIT_FALLBACK, SECURE_BOOT_STATUS.HEADER, SECURE_BOOT_STATUS.FALLBACK, SECURE_BOOT_STATUS.CLASS]⟩]

/-- Registers of the control space, part 4 (R431). -/
def registers4 : List RegDef := [
  ⟨0xA0020, 8, 1, fun _ => [SECURE_BOOT_TIME.READY_MS, SECURE_BOOT_TIME.ADMIT_MS]⟩,
  ⟨0xA0028, 8, 1, fun _ => [SECURE_COUNTERS.COUNTER0, SECURE_COUNTERS.COUNTER1]⟩,
  ⟨0xA0030, 8, 1, fun _ => [SECURE_SVN.FW_SVN, SECURE_SVN.CONFIG_SVN]⟩,
  ⟨0xA0038, 8, 1, fun _ => [SECURE_GENERATION.GENERATION]⟩,
  ⟨0xA0040, 8, 1, fun _ => [SECURE_NVM.SIZE_LOG2, SECURE_NVM.TRANSIENT]⟩,
  ⟨0xA0048, 8, 1, fun _ => [SECURE_SERIAL.SERIAL]⟩,
  ⟨0xA0050, 8, 1, fun _ => [SECURE_OWNER_ID.OWNER_ID]⟩,
  ⟨0xA0058, 8, 1, fun _ => [SECURE_CONFIG_ID.CONFIG_ID]⟩,
  ⟨0xA0060, 8, 1, fun _ => [SECURE_FW_ID.IMAGE_ID]⟩,
  ⟨0xA0068, 8, 1, fun _ => [SECURE_MODEL_FAILS.MASK]⟩,
  ⟨0xA0080, 8, 4, fun k => [SECURE_KEY_ID.BYTES k]⟩,
  ⟨0x0, 8, 1, fun _ => [GLOBAL_ID.VENDOR, GLOBAL_ID.PART, GLOBAL_ID.STEPPING]⟩,
  ⟨0x8, 8, 1, fun _ => [GLOBAL_CTRL.LOCK, GLOBAL_CTRL.WARM_RESTART]⟩,
  ⟨0x10, 8, 1, fun _ => [GLOBAL_EVENTS.ROUTE_INVALID, GLOBAL_EVENTS.RESTART_DONE]⟩,
  ⟨0x18, 8, 1, fun _ => [GLOBAL_EVENT_NOTIFY.MASK]⟩,
  ⟨0x20, 8, 1, fun _ => [GLOBAL_STATUS.READY, GLOBAL_STATUS.ADMITTING, GLOBAL_STATUS.NOTICES_UNROUTED, GLOBAL_STATUS.WARM_RESTARTS]⟩,
  ⟨0x100, 8, 15, fun k => [GLOBAL_NOTICE_QUEUE.QUEUE k]⟩,
  ⟨0xB0000, 8, 1, fun _ => [CROWN_CTRL.LOCK, CROWN_CTRL.TCP_PORT, CROWN_CTRL.MAX_SESSIONS, CROWN_CTRL.IPV6_EN, CROWN_CTRL.IPV4_EN, CROWN_CTRL.FEC]⟩,
  ⟨0xB0008, 8, 1, fun _ => [CROWN_EVENTS.LINK_CHANGED, CROWN_EVENTS.AUTH_FAILED, CROWN_EVENTS.JOB_ABORTED, CROWN_EVENTS.JOB_FAILED, CROWN_EVENTS.CAPTURE_DROPPED, CROWN_EVENTS.SESSION_CHANGED]⟩,
  ⟨0xB0010, 8, 1, fun _ => [CROWN_EVENT_NOTIFY.MASK]⟩,
  ⟨0xB0018, 8, 1, fun _ => [CROWN_MAC.ADDRESS]⟩,
  ⟨0xB0020, 8, 1, fun _ => [CROWN_IPV4.ADDRESS]⟩,
  ⟨0xB0028, 8, 1, fun _ => [CROWN_IPV4_GW.ADDRESS]⟩,
  ⟨0xB0030, 8, 1, fun _ => [CROWN_IPV6_HI.ADDRESS]⟩,
  ⟨0xB0038, 8, 1, fun _ => [CROWN_IPV6_LO.ADDRESS]⟩,
  ⟨0xB0040, 8, 1, fun _ => [CROWN_IP_CFG.PREFIX6, CROWN_IP_CFG.PREFIX4]⟩,
  ⟨0xB0048, 8, 1, fun _ => [CROWN_STATUS.LINK_UP, CROWN_STATUS.SESSIONS, CROWN_STATUS.RUNNING, CROWN_STATUS.STORE_KIB]⟩,
  ⟨0xB0050, 8, 1, fun _ => [CROWN_JOBS_A.POSTED, CROWN_JOBS_A.RETIRED]⟩,
  ⟨0xB0058, 8, 1, fun _ => [CROWN_JOBS_B.ABORTED, CROWN_JOBS_B.FAILED]⟩,
  ⟨0xB0060, 8, 1, fun _ => [CROWN_COUNTS.AUTH_FAILED, CROWN_COUNTS.BAD_MESSAGES, CROWN_COUNTS.CAPTURE_DROPPED]⟩,
  ⟨0xB0068, 8, 1, fun _ => [CROWN_NEXT_JOB.JOB_ID]⟩,
  ⟨0xC0000, 8, 1, fun _ => [PEER_CTRL.LOCK, PEER_CTRL.ETHERTYPE, PEER_CTRL.TOPOLOGY, PEER_CTRL.RING_SIZE, PEER_CTRL.Y_SIZE, PEER_CTRL.X_SIZE, PEER_CTRL.ADDRESS]⟩,
  ⟨0xC0008, 8, 1, fun _ => [PEER_EVENTS.ROUTE_DROP, PEER_EVENTS.SLACK_MISSING, PEER_EVENTS.DIST_FAILED, PEER_EVENTS.DIST_DONE, PEER_EVENTS.RELAY_TIMEOUT, PEER_EVENTS.CRC_LASTING, PEER_EVENTS.MISWIRED, PEER_EVENTS.LINK_DOWN, PEER_EVENTS.LINK_UP]⟩,
  ⟨0xC0010, 8, 1, fun _ => [PEER_EVENT_NOTIFY.MASK]⟩,
  ⟨0xC0018, 8, 1, fun _ => [PEER_GROUP_CFG.GROUP]⟩,
  ⟨0xC0020, 8, 1, fun _ => [PEER_SYNC_CFG.INTERVAL_BEATS]⟩,
  ⟨0xC0028, 8, 1, fun _ => [PEER_RELAY_CFG.TIMEOUT_MS]⟩,
  ⟨0xC0030, 8, 1, fun _ => [PEER_DIST_MASK.DEST]⟩,
  ⟨0xC0038, 8, 1, fun _ => [PEER_DIST_CMD.GO, PEER_DIST_CMD.BUSY, PEER_DIST_CMD.RESULT, PEER_DIST_CMD.SLOT, PEER_DIST_CMD.BYTES]⟩,
  ⟨0xC0040, 8, 1, fun _ => [PEER_DIST_DONE.MASK]⟩]

/-- Registers of the control space, part 5 (R431). -/
def registers5 : List RegDef := [
  ⟨0xC0048, 8, 1, fun _ => [PEER_DIST_FAILED.MASK]⟩,
  ⟨0xC0050, 8, 1, fun _ => [PEER_RELAY.SENT, PEER_RELAY.UNREACHABLE, PEER_RELAY.LATE]⟩,
  ⟨0xC0058, 8, 1, fun _ => [PEER_FORWARD.FORWARDED, PEER_FORWARD.ROUTE_DROPS]⟩,
  ⟨0xC0060, 8, 1, fun _ => [PEER_GROUP_STATUS.MISSING]⟩,
  ⟨0xC0100, 16, 4, fun j => [PEER_LINK_STATUS.LANE_FAULT j, PEER_LINK_STATUS.LANES j, PEER_LINK_STATUS.UP j, PEER_LINK_STATUS.MISWIRED j, PEER_LINK_STATUS.NEIGHBOUR j]⟩,
  ⟨0xC0108, 16, 4, fun j => [PEER_LINK_CRC.TRANSIENT j, PEER_LINK_CRC.LASTING j]⟩,
  ⟨0xD0000, 8, 1, fun _ => [OBSERVE_CTRL.LOCK]⟩,
  ⟨0xD0008, 8, 1, fun _ => [OBSERVE_EVENTS.START_REFUSED, OBSERVE_EVENTS.UNIT_FAILING, OBSERVE_EVENTS.FAULT_LASTING, OBSERVE_EVENTS.HANG, OBSERVE_EVENTS.TRACE_STOPPED, OBSERVE_EVENTS.TRACE_FULL, OBSERVE_EVENTS.TRACE_LOST, OBSERVE_EVENTS.SAMPLE_LOST]⟩,
  ⟨0xD0010, 8, 1, fun _ => [OBSERVE_EVENT_NOTIFY.MASK]⟩,
  ⟨0xD0018, 8, 1, fun _ => [OBSERVE_SAMPLE_CTRL.START, OBSERVE_SAMPLE_CTRL.STOP, OBSERVE_SAMPLE_CTRL.CLEAR, OBSERVE_SAMPLE_CTRL.ACTIVE, OBSERVE_SAMPLE_CTRL.INTERVAL_BEATS]⟩,
  ⟨0xD0020, 8, 1, fun _ => [OBSERVE_SAMPLE_STATUS.RUN, OBSERVE_SAMPLE_STATUS.SEQ, OBSERVE_SAMPLE_STATUS.LOST]⟩,
  ⟨0xD0028, 8, 1, fun _ => [OBSERVE_SAMPLE_WP.OFFSET]⟩,
  ⟨0xD0030, 8, 1, fun _ => [OBSERVE_TRACE_CTRL.ENABLE, OBSERVE_TRACE_CTRL.MODE, OBSERVE_TRACE_CTRL.CLASSES]⟩,
  ⟨0xD0038, 8, 1, fun _ => [OBSERVE_TRACE_STATUS.STOPPED, OBSERVE_TRACE_STATUS.WRAPPED, OBSERVE_TRACE_STATUS.OFFSET]⟩,
  ⟨0xD0040, 8, 1, fun _ => [OBSERVE_TRACE_LOST.COUNT]⟩,
  ⟨0xD0048, 8, 1, fun _ => [OBSERVE_MARK.VALUE]⟩,
  ⟨0xD0050, 8, 1, fun _ => [OBSERVE_HANG_CFG.RESTART, OBSERVE_HANG_CFG.JOB_HANG_MS, OBSERVE_HANG_CFG.HANG_BEATS]⟩,
  ⟨0xD0058, 8, 1, fun _ => [OBSERVE_HANG_STATUS.DUMP_VALID, OBSERVE_HANG_STATUS.CAUSE, OBSERVE_HANG_STATUS.HANGS, OBSERVE_HANG_STATUS.SUBJECT]⟩,
  ⟨0xD0060, 8, 1, fun _ => [OBSERVE_WINDOW_SEL.REGION, OBSERVE_WINDOW_SEL.PAGE]⟩,
  ⟨0xD0100, 8, 16, fun c => [OBSERVE_FAULT.TRANSIENT c, OBSERVE_FAULT.LASTING c]⟩,
  ⟨0xD0200, 8, 248, fun i => [OBSERVE_COUNTER.VALUE i]⟩,
  ⟨0xD1000, 8, 512, fun w => [OBSERVE_WINDOW.DATA w]⟩,
  ⟨0xE0000, 8, 1, fun _ => [LOGBOOK_CTRL.LOCK, LOGBOOK_CTRL.WRITE_NOW, LOGBOOK_CTRL.CLEAR_FAILED, LOGBOOK_CTRL.INTERVAL_S]⟩,
  ⟨0xE0008, 8, 1, fun _ => [LOGBOOK_EVENTS.FAILED_CLEARED, LOGBOOK_EVENTS.NO_RECORD, LOGBOOK_EVENTS.WRITE_FAILED, LOGBOOK_EVENTS.WRITTEN]⟩,
  ⟨0xE0010, 8, 1, fun _ => [LOGBOOK_EVENT_NOTIFY.MASK]⟩,
  ⟨0xE0018, 8, 1, fun _ => [LOGBOOK_STATUS.DISABLED, LOGBOOK_STATUS.NO_RECORD, LOGBOOK_STATUS.WRITE_FAILED, LOGBOOK_STATUS.CLEAR_PENDING, LOGBOOK_STATUS.SECTORS, LOGBOOK_STATUS.LAST_WRITE_S]⟩,
  ⟨0xE0020, 8, 1, fun _ => [LOGBOOK_SEQ.SEQ]⟩,
  ⟨0xE0028, 8, 1, fun _ => [LOGBOOK_COUNTS.COLD_RESETS, LOGBOOK_COUNTS.TRIPS]⟩,
  ⟨0xE0030, 8, 1, fun _ => [LOGBOOK_HOURS.HOURS]⟩,
  ⟨0xE0038, 8, 1, fun _ => [LOGBOOK_FAILED_A.CLUSTERS, LOGBOOK_FAILED_A.HEAD_LANES]⟩,
  ⟨0xE0040, 8, 1, fun _ => [LOGBOOK_FAILED_B.PEER_LANES, LOGBOOK_FAILED_B.STACKS, LOGBOOK_FAILED_B.DIES]⟩,
  ⟨0xE0048, 8, 4, fun k => [LOGBOOK_FAILED_CH.ODD k, LOGBOOK_FAILED_CH.EVEN k]⟩]

/-- Every register of the control space (R431). -/
def registers : List RegDef :=
  registers0 ++ registers1 ++ registers2 ++ registers3 ++ registers4 ++ registers5

/-! ## Reading and writing fields -/

/-- The key under which a field is stored. -/
def Field.key (f : Field) : Nat := f.addr * 64 + f.lsb

/-- The value of a field (R14). -/
def rd (s : State) (f : Field) : Nat := Map.getD s.regs f.key f.reset

/-- A field of one bit as a truth value. -/
def rdB (s : State) (f : Field) : Bool := rd s f == 1

/-- The registers with a field set, wrapped to its width; a field at its reset value is not listed. -/
def setField (m : Map Nat) (f : Field) (v : Nat) : Map Nat := Map.put m f.key (v % 2 ^ f.width) f.reset

/-- The state with a field set. -/
def wr (s : State) (f : Field) (v : Nat) : State := { s with regs := setField s.regs f v }

/-- The state with a field of one bit set. -/
def wrB (s : State) (f : Field) (b : Bool) : State := wr s f (b2n b)

/-- A saturating counter raised by `n` (R432: a counter saturates at its maximum). -/
def bump (s : State) (f : Field) (n : Nat) : State := wr s f (satN f.width (rd s f + n))

/-- A field as a two's complement number. -/
def rdS (s : State) (f : Field) : Int := sext f.width (rd s f)

/-- The register at an address: its definition and the index in its array. -/
def findReg (a : Nat) : Option (RegDef × Nat) :=
  (registers.find? fun r => decide (r.base ≤ a) && (a - r.base) % r.stride == 0 &&
    decide ((a - r.base) / r.stride < r.count)).map fun r => (r, (a - r.base) / r.stride)

/-- The fields of the register at an address; none at an offset that no chapter lists (R431). -/
def fieldsAt (a : Nat) : List Field :=
  match findReg a with
  | some (r, i) => r.fields i
  | none => []

/-- The stored value of the 64-bit register at an address; reserved bits and offsets that no chapter lists read as zero
(R16, R431). -/
def rawReg (s : State) (a : Nat) : Nat := (fieldsAt a).foldl (fun w f => w + rd s f * 2 ^ f.lsb) 0

/-- The block of a control-space address (R431). -/
def blockOf (a : Nat) : Nat := a / 0x10000

/-- The address lies in a block of the control-space map (R431). -/
def inBlocks (a : Nat) : Bool := decide (a < 0xF0000)

/-- The address lies in the window of the queue descriptors (R206, R431). -/
def inDescriptors (a : Nat) : Bool := decide (0x100000000 ≤ a) && decide (a < 0x101000000)

/-- The address is one that a register operation may name (R431, status 4 of R419). -/
def goodAddress (a : Nat) : Bool := a % 8 == 0 && (inBlocks a || inDescriptors a)

/-- The LOCK field of each block (R15); the ARRAY block has none. -/
def lockField (block : Nat) : Option Field :=
  match block with
  | 0 => some GLOBAL_CTRL.LOCK
  | 1 => some DIAL_CTRL.LOCK
  | 2 => some HEADPORT_CTRL.LOCK
  | 3 => some FRONT_CTRL.LOCK
  | 4 => some TABLE_CTRL.LOCK
  | 5 => some QUEUE_CTRL.LOCK
  | 7 => some SLOT_CTRL.LOCK
  | 8 => some REGULATOR_CTRL.LOCK
  | 9 => some TALLY_CTRL.LOCK
  | 10 => some SECURE_CTRL.LOCK
  | 11 => some CROWN_CTRL.LOCK
  | 12 => some PEER_CTRL.LOCK
  | 13 => some OBSERVE_CTRL.LOCK
  | 14 => some LOGBOOK_CTRL.LOCK
  | _ => none

/-- LOCK of the block is set. -/
def blockLocked (s : State) (block : Nat) : Bool :=
  match lockField block with
  | some f => rdB s f
  | none => false

/-- What a write of a field does, by its access code (R15). -/
def writeField (locked : Bool) (value : Nat) (s : State) (f : Field) : State :=
  let v := value / 2 ^ f.lsb % 2 ^ f.width
  match f.access with
  | .ro => s
  | .rw => wr s f v
  | .w1c => wr s f (rd s f - (rd s f &&& v))
  | .w1s => wr s f (rd s f ||| v)
  | .rwl => if locked then s else wr s f v

/-- A software write of the register at an address: every field by its access code, none of the side effects that the
chapters give (R15, R16). -/
def writeFields (s : State) (a value : Nat) : State :=
  (fieldsAt a).foldl (writeField (blockLocked s (blockOf a)) value) s

/-- The write reaches an RWL field while its LOCK is set (R15: it is answered with the locked status). -/
def lockedWrite (s : State) (a : Nat) : Bool :=
  blockLocked s (blockOf a) && (fieldsAt a).any (fun f => f.access == .rwl)

/-- The fields of one register with a whole value stored, whatever their access code (for presets and kept values). -/
def forceReg (s : State) (a value : Nat) : State :=
  (fieldsAt a).foldl (fun s f => wr s f (value / 2 ^ f.lsb)) s

/-- The field stored under a key. -/
def fieldOfKey (k : Nat) : Option Field := (fieldsAt (k / 64)).find? (fun f => f.key == k)

/-- The registers after a warm restart: a field that keeps its value keeps it, every other returns to its reset value
(R17). -/
def restartRegs (m : Map Nat) : Map Nat :=
  m.filter fun p => match fieldOfKey p.1 with
    | some f => f.keep
    | none => false

end Sys2Proof.Machine
end

