-- ==== Sys2Proof/Machine/Ops.lean ====
section
/-! DEFINITION. Named operations over memory, time, queues and the free values (R47, R96, R189 to R199, R397). -/

namespace Sys2Proof.Machine

/-! ## Memory -/

/-- What a byte of memory reads as that nothing has written (log 5: DESIGN CHOICE). -/
def Mem.unlisted : BitVec 8 := 0

/-- The byte at an address. -/
def Mem.read : Mem → Nat → BitVec 8
  | [], _ => Mem.unlisted
  | (b, v) :: m, a => if b = a then v else Mem.read m a

/-- The memory with the entry at an address removed. -/
def Mem.drop (m : Mem) (a : Nat) : Mem := m.filter fun p => p.1 != a

/-- The memory with an entry put at its sorted place. -/
def Mem.put : Mem → Nat → BitVec 8 → Mem
  | [], a, v => [(a, v)]
  | (b, w) :: m, a, v =>
    if a < b then (a, v) :: (b, w) :: m else if a = b then (a, v) :: m else (b, w) :: Mem.put m a v

/-- The memory with a byte written; the value of an unlisted byte is not listed. -/
def Mem.write (m : Mem) (a : Nat) (v : BitVec 8) : Mem :=
  if v = Mem.unlisted then Mem.drop m a else Mem.put m a v

/-- The memory with bytes written from an address upwards. -/
def Mem.writeBytes : Mem → Nat → Bytes → Mem
  | m, _, [] => m
  | m, a, b :: bs => Mem.writeBytes (Mem.write m a b) (a + 1) bs

/-- `n` bytes from an address upwards. -/
def Mem.readBytes (m : Mem) (a n : Nat) : Bytes := (List.range n).map fun i => Mem.read m (a + i)

/-- The canonical form: addresses strictly rising, no entry equal to what an unlisted address reads as. -/
def Mem.wf : Mem → Bool
  | [] => true
  | [(_, v)] => v != Mem.unlisted
  | (a, v) :: (b, w) :: m => decide (a < b) && v != Mem.unlisted && Mem.wf ((b, w) :: m)

/-! ## Free values and outputs -/

/-- A value that the manual leaves open, and the state after it is drawn (log 3). -/
def draw (s : State) : Nat × State := (Config.freeValue s.fresh, { s with fresh := s.fresh + 1 })

/-- Something leaves the device (log 7). -/
def emit (s : State) (o : Out) : State := { s with out := s.out ++ [o] }

/-! ## Bulk bytes of jobs (R343, R423) -/

/-- Bulk bytes of an operation of a job: those of LABEL_WRITE, MODEL_LOAD and SCHEDULE_LOAD. -/
def opBulkBytes (o : Nat × Nat × Nat × Bytes) : Nat := if 9 ≤ o.1 && o.1 ≤ 11 then o.2.2.2.length else 0

/-- Bulk bytes that a waiting or running job has still to move. -/
def Job.bulkLeft (j : Job) : Nat := sumN ((j.ops.drop j.results.length).map opBulkBytes) - j.moved

/-- The job came over the peer links (R446). -/
def Job.relayed (j : Job) : Bool := match j.client with
  | .session _ _ => false
  | .peer _ _ => true

/-! ## Dial time -/

/-- The short dial time of a dial time in ns (R96). -/
def shortTime (t : Nat) : Nat := t / 1000000000 % 2 ^ 34 * 2 ^ 30 + t % 1000000000

/-- The short dial time of now. -/
def nowShort (s : State) : Nat := shortTime s.dial.time

/-- The batch number of the current beat: dial seconds × 1,000,000 + beat, which is the dial ns in units of 1,000
(R28). -/
def batchNow (s : State) : Nat := s.dial.time / 1000

/-- Dial ns at which the beat of a batch number begins. -/
def beatStartNs (b : Nat) : Nat := b * 1000

/-- The dial is running (R83). -/
def dialSet (s : State) : Bool := rdB s DIAL_STATUS.SET

/-- The dial state code (R55). -/
def dialState (s : State) : Nat := rd s DIAL_STATUS.STATE

/-- Dial seconds. -/
def dialSeconds (s : State) : Nat := s.dial.time / 1000000000

/-! ## Power domains and the blocks in them (R27, R333) -/

/-- Domain d is powered (R358). -/
def pdOn (s : State) (d : Nat) : Bool := bit (rd s REGULATOR_PD_STATUS.ON) d

/-- The domain of the front stage, the tables, the queue system and hub SRAM is powered (R27, R333). -/
def hubOn (s : State) : Bool := pdOn s 5

/-- A domain of the HBM interfaces is powered (R27, R333). -/
def hbmOn (s : State) : Bool := pdOn s 14 || pdOn s 15 || pdOn s 16 || pdOn s 17

/-- The observation block's domain is powered, so that it counts and records (R80, R333). -/
def observeOn (s : State) : Bool := pdOn s 19

/-- An event counted in counter i of R454, modulo 2^64 (R455), while the observation block is powered. -/
def count (s : State) (i n : Nat) : State :=
  if observeOn s then wr s (OBSERVE_COUNTER.VALUE i) (rd s (OBSERVE_COUNTER.VALUE i) + n) else s

/-- 64-byte HBM transfers are counted; the counters HBM[n] share them among the stacks (R454; log 57). -/
def countHbm (s : State) (n : Nat) : State :=
  if observeOn s then { s with observe.hbmTransfers := s.observe.hbmTransfers + n } else s

/-- The events behind a counter whose cycles or whose share the manual does not give for one event (R454; log 57). -/
def hiddenEvents (s : State) (i : Nat) : Option Nat :=
  if i == 62 then some s.observe.tagWaits
  else if i == 63 then some s.observe.barrierWaits
  else if 120 ≤ i && i < 128 then some s.observe.hbmTransfers
  else none

/-- Counter i of R454 as it is read and copied into snapshots. -/
def counterValue (s : State) (i : Nat) : Nat := match hiddenEvents s i with
  | some n => if n == 0 then 0 else Config.counted i n % 2 ^ 64
  | none => rd s (OBSERVE_COUNTER.VALUE i)

/-! ## Queues (R189 to R199) -/

/-- The descriptor of a queue that nothing has written (R206). -/
def Queue.reset : Queue where
  enable := false
  dataPath := false
  armed := true
  level := 0
  dropped := 0
  resets := 0
  swResets := 0
  lost := 0
  enqueued := 0
  dequeued := 0
  since := 0
  bands := List.replicate 4 ⟨0, 0, 0, 0, 0, 0⟩

/-- CLASS of a queue: 0 head-hold, 1 verdict, 2 job, 3 notice (R189). -/
def queueClass (q : Nat) : Nat :=
  if q < 0x20000 then 0 else if q < 0x30000 then 1 else if q < 0x38000 then 2 else 3

/-- The queue is listed in R190: the head port it serves and whether it holds heads (0), the ordered stream (1) or the
shed stream (2). -/
def dataPathUse (q : Nat) : Option (Nat × Nat) :=
  if q < 8 then some (q, 0)
  else if 0x20000 ≤ q && q < 0x20010 then some ((q - 0x20000) / 2, 1 + q % 2)
  else none

def getQ (s : State) (q : Nat) : Queue := Map.getD s.queue.queues q Queue.reset

def setQ (s : State) (q : Nat) (d : Queue) : State :=
  { s with queue.queues := Map.put s.queue.queues q d Queue.reset }

/-- The band is present (R193). -/
def Band.present (b : Band) : Bool := b.log2 != 0

/-- Items in the band (R193). -/
def Band.occ (b : Band) : Nat :=
  if b.present then (b.wr + 2 ^ (b.log2 + 1) - b.rd % 2 ^ (b.log2 + 1)) % 2 ^ (b.log2 + 1) else 0

/-- A pointer and its copy differ, or the pointers name more items than the ring holds (R194). -/
def Band.bad (b : Band) : Bool :=
  b.present && (b.wr != b.wrCopy || b.rd != b.rdCopy || decide (2 ^ b.log2 < b.occ))

/-- OCCUPANCY of a queue (R193). -/
def Queue.occ (d : Queue) : Nat := sumN (d.bands.map Band.occ)

/-- Outcome of an enqueue. -/
inductive Enq where
  | written | full | mismatch
  deriving DecidableEq, Repr

/-- Outcome of a dequeue. -/
inductive Deq where
  | item (i band : Nat)
  | discarded (i band : Nat)       -- taken, and discarded for a lasting fault (R472)
  | empty
  | mismatch
  deriving DecidableEq, Repr

/-- One band with an item counted in. -/
def Band.push (b : Band) : Band :=
  let w := (b.wr + 1) % 2 ^ (b.log2 + 1)
  { b with wr := w, wrCopy := w }

/-- One band with an item counted out. -/
def Band.pop (b : Band) : Band :=
  let r := (b.rd + 1) % 2 ^ (b.log2 + 1)
  { b with rd := r, rdCopy := r }

def noBand : Band := ⟨0, 0, 0, 0, 0, 0⟩

/-- An item written at the end of a band, where the band is present, enabled and not full (R193, R194, R207). -/
def enqueueRaw (s : State) (q band item : Nat) : State × Enq :=
  let d := getQ s q
  let b := d.bands.getD band noBand
  if !d.enable || !b.present then (s, .full)
  else if b.bad then (s, .mismatch)
  else if b.occ == 2 ^ b.log2 then (s, .full)
  else
    let a := b.base + b.wr % 2 ^ b.log2
    let s := { s with
      queue.ram := Map.put s.queue.ram a item 0
      queue.struck := s.queue.struck.filter fun x => x.1 != a }
    (setQ s q { d with
      bands := modAt d.bands band Band.push
      enqueued := addMod 32 d.enqueued 1
      since := if d.occ == 0 then s.dial.now else d.since }, .written)

/-- The band from which the consumer takes, found from band 3 downwards, or the fault met on the way (R191, R194). -/
def pickBand (bands : List Band) : List Nat → Option (Nat × Bool)
  | [] => none
  | i :: is =>
    let b := bands.getD i noBand
    if !b.present then pickBand bands is
    else if b.bad then some (i, true)
    else if b.occ == 0 then pickBand bands is
    else some (i, false)

/-- The item at the head of a queue: the oldest of the highest non-empty band (R191). -/
def peekQ (s : State) (q : Nat) : Deq :=
  let d := getQ s q
  match pickBand d.bands [3, 2, 1, 0] with
  | none => .empty
  | some (_, true) => .mismatch
  | some (i, false) =>
    let b := d.bands.getD i noBand
    .item (Map.getD s.queue.ram (b.base + b.rd % 2 ^ b.log2) 0) i

/-- The head item taken (R191, R194). -/
def dequeueRaw (s : State) (q : Nat) : State × Deq :=
  match peekQ s q with
  | .item i band =>
    let d := getQ s q
    (setQ s q { d with
      bands := modAt d.bands band Band.pop
      dequeued := addMod 32 d.dequeued 1
      since := s.dial.now }, .item i band)
  | r => (s, r)

/-- Room of a band in items; none where the queue is disabled or the band absent (R199, R207), or the queue system is off (R333). A band that fails the check of R194
keeps no producer waiting: its enqueue finds the fault and resets the queue. -/
def roomQ (s : State) (q band : Nat) : Nat :=
  let d := getQ s q
  let b := d.bands.getD band noBand
  if !(hubOn s && d.enable && b.present) then 0 else if b.bad then 1 else 2 ^ b.log2 - b.occ

/-- Place in the ring RAM of the item `place` places after the head of a band (R193). -/
def ringPlace (s : State) (q band place : Nat) : Nat :=
  let b := (getQ s q).bands.getD band noBand
  b.base + (b.rd + place) % 2 ^ b.log2

/-- The item `place` places after the head of a band is struck: its check will fail when it is taken (R470, R472). -/
def strikeItem (s : State) (q band place : Nat) (lasting : Bool) : State :=
  if place < ((getQ s q).bands.getD band noBand).occ then
    let a := ringPlace s q band place
    { s with queue.struck := s.queue.struck.filter (fun x => x.1 != a) ++ [(a, lasting)] }
  else s

/-- A pointer of a band, or its copy, with a value that nothing wrote. -/
def Band.upset (b : Band) (pointer value : Nat) : Band := match pointer with
  | 0 => { b with wr := value }
  | 1 => { b with rd := value }
  | 2 => { b with wrCopy := value }
  | _ => { b with rdCopy := value }

/-- An upset of a pointer (R194); the access that reads it finds it. -/
def upsetPointer (s : State) (q band pointer value : Nat) : State :=
  let d := getQ s q
  setQ s q { d with bands := modAt d.bands band fun b => b.upset pointer (value % 2 ^ (b.log2 + 1)) }

/-- A verdict record that is not filler (R205). -/
def isVerdict (r : Nat) : Bool := r != 2 ^ 128 - 1

/-- The four records of a verdict item (R205). -/
def verdictRecords (item : Nat) : List Nat :=
  [fld item 511 384, fld item 383 256, fld item 255 128, fld item 127 0].filter isVerdict

/-- A verdict item of at most four records, filled with ones (R205). -/
def verdictItem (rs : List Nat) : Nat :=
  pack ((List.range 4).map fun i => (128, rs.getD i (2 ^ 128 - 1)))

/-- The items that a band holds, oldest first. -/
def bandItems (s : State) (b : Band) : List Nat :=
  (List.range b.occ).map fun i => Map.getD s.queue.ram (b.base + (b.rd + i) % 2 ^ b.log2) 0

/-- Verdicts that a reset of a data-path queue loses: one for each held head, or those of the verdict items (R195). -/
def verdictsHeld (s : State) (q : Nat) : Nat :=
  match dataPathUse q with
  | none => 0
  | some (_, 0) => (getQ s q).occ
  | some _ => sumN (((getQ s q).bands.flatMap (bandItems s)).map fun i => (verdictRecords i).length)

/-- The reset of R195 without its event: pointers to 0, the losses counted, the level re-armed, the cause recorded. A
reset of a head-hold queue of the data path loses the verdicts of its heads. A waiting job whose item a reset of its job queue loses stays
in the job store and waits, until an abort of every job (log 131). -/
def resetRaw (s : State) (q : Nat) (flush : Bool) : State :=
  let d := getQ s q
  let held := verdictsHeld s q
  let s1 := match dataPathUse q with
    | some (p, use) =>
      let s1 := bump s (HEADPORT_MISC.VERDICTS_DROPPED p) held
      if use == 0 then
        { s1 with pipe.batches := s1.pipe.batches.map fun b =>
            { b with heads := b.heads.map fun h => if h.port == p && !b.returned then { h with lost := true } else h } }
      else if use == 1 then { s1 with ports := modAt s1.ports p fun t => { t with ordered := [] } }
      else { s1 with ports := modAt s1.ports p fun t =>
        { t with shedding := (t.shedding.filter (!·.closed)).map fun o => { o with count := t.shedPart.length } } }
    | none => s
  let d' := { d with
    bands := d.bands.map fun b => { b with wr := 0, rd := 0, wrCopy := 0, rdCopy := 0 }
    lost := satN 32 (d.lost + d.occ)
    armed := true
    resets := if flush then d.resets else satN 16 (d.resets + 1)
    swResets := if flush then satN 16 (d.swResets + 1) else d.swResets }
  let s2 := bump (setQ s1 q d') QUEUE_LOST.ITEMS d.occ
  let s3 := wr (wrB s2 QUEUE_LAST_RESET.CAUSE flush) QUEUE_LAST_RESET.QUEUE q
  if flush then bump s3 QUEUE_RESETS.FLUSHES 1 else bump s3 QUEUE_RESETS.MISMATCH 1

/-- The level of a queue judged after its occupancy changed: whether it is crossed (R202). -/
def judgeLevel (s : State) (q : Nat) : State × Bool :=
  let d := getQ s q
  if d.armed then
    if d.level != 0 && decide (d.level ≤ d.occ) then (setQ s q { d with armed := false }, true) else (s, false)
  else if d.occ < d.level then (setQ s q { d with armed := true }, false)
  else (s, false)

/-! ## Trace (R459 to R461) -/

/-- Records that the on-chip trace buffer holds (R460). -/
def traceCapacity : Nat := 2048

/-- A trace record of 256 bits (R461). -/
def traceRecord (s : State) (type ts body : Nat) : Nat :=
  pack [(8, type), (3, dialState s), (5, 0), (64, ts), (176, body)]

/-- A record offered to the trace buffer, and whether it is lost; after losses a LOST record goes first (R460, R461). -/
def traceRaw (s : State) (type ts body : Nat) : State × Bool :=
  if !(rdB s OBSERVE_TRACE_CTRL.ENABLE && observeOn s && bit (rd s OBSERVE_TRACE_CTRL.CLASSES) (type - 1)) then (s, false)
  else
    let s := if s.observe.lostSince != 0 && decide (s.observe.trace.length < traceCapacity) then
      { s with observe.trace := s.observe.trace ++
                 [traceRecord s 0x0F (nowShort s) (s.observe.lostSince % 2 ^ 32 * 2 ^ 144)]
               observe.lostSince := 0 }
      else s
    if s.observe.trace.length < traceCapacity then
      ({ s with observe.trace := s.observe.trace ++ [traceRecord s type ts body] }, false)
    else
      (bump { s with observe.lostSince := s.observe.lostSince + 1 } OBSERVE_TRACE_LOST.COUNT 1, true)

end Sys2Proof.Machine
end

