-- ==== Sys2Proof/Machine/Flags.lean ====
section
/-! DEFINITION. Event flags, notices, queue events, the retry rule and failing units: every flag that a command sets goes
through `raise` (R191 to R203, R429, R430, R434, R470 to R474). -/

namespace Sys2Proof.Machine

/-! ## Events and notices -/

/-- The notice of an event is enabled: its bit of the block's EVENT_NOTIFY.MASK. -/
def noticeEnabled (s : State) (f : Field) : Bool :=
  match fieldsAt (f.addr + 8) with
  | m :: _ => bit (rd s m) f.lsb
  | [] => false

/-- CODE of an event's notice (R430). -/
def eventCode (f : Field) : Nat := 0x100 * blockOf f.addr + f.lsb

/-- The events whose notices go to band 3: level crossings, queue resets and lasting faults (R192). -/
def urgentEvents : List Field :=
  [QUEUE_EVENTS.LEVEL, QUEUE_EVENTS.MISMATCH_RESET, QUEUE_EVENTS.FLUSH_DONE, OBSERVE_EVENTS.FAULT_LASTING,
   HEADPORT_EVENTS.LANE_FAILED, FRONT_EVENTS.RULE_LOST, FRONT_EVENTS.TABLE_LOST, TABLE_EVENTS.PARITY_LASTING,
   PEER_EVENTS.CRC_LASTING]

/-- The band of an event's notice (R192). -/
def noticeBand (f : Field) : Nat := if urgentEvents.contains f then 3 else 2

/-- The notice queue of an event's block (R430). -/
def noticeRoute (s : State) (f : Field) : Nat :=
  if blockOf f.addr == 5 then rd s QUEUE_CTRL.NOTICE_QUEUE
  else rd s (GLOBAL_NOTICE_QUEUE.QUEUE (blockOf f.addr))

/-- The notice item (R429), with the block's EVENTS register just after the bit was set. -/
def noticeItem (s : State) (f : Field) (arg : Nat) : Nat :=
  pack [(8, 0x80), (6, s.peer.address), (2, 0), (16, eventCode f), (32, arg), (64, nowShort s), (3, dialState s), (5, 0),
    (32, s.noticeSeq), (64, rawReg s f.addr), (280, 0)]

/-- An event that is still to be raised, with its argument. -/
abbrev EventReq := Field × Nat

/-- An item written to a notice queue (R198): dropped where its band is full, lost where it meets a mismatch, and the
events that follow. While the queue system is off nothing is written, and its counts hold (R80, R333; log 167: DEDUCED). -/
def offerNotice (s : State) (q band item : Nat) : State × List EventReq :=
  if !hubOn s then (s, []) else match enqueueRaw s q band item with
  | (s, .written) =>
    let r := judgeLevel s q
    (r.1, if r.2 then [(QUEUE_EVENTS.LEVEL, q)] else [])
  | (s, .full) =>
    let d := getQ s q
    (bump (setQ s q { d with dropped := satN 32 (d.dropped + 1) }) QUEUE_NOTICE_DROPS.COUNT 1,
      [(QUEUE_EVENTS.NOTICE_DROP, q)])
  | (s, .mismatch) => (resetRaw s q false, [(QUEUE_EVENTS.MISMATCH_RESET, q)])

/-- The event raises a notice at all: NOTICE_DROP only when its bit changes from 0 to 1 (R203), LEVEL not for the queue
of the QUEUE block's own notices (R202). -/
def givesNotice (f : Field) (arg route : Nat) (was enabled : Bool) : Bool :=
  enabled && !(f == QUEUE_EVENTS.NOTICE_DROP && was) && !(f == QUEUE_EVENTS.LEVEL && arg == route)

/-- One event: its bit is set; where it is enabled its notice is counted, traced and sent, and the events that follow
are named (R202, R203, R429, R430, R461). -/
def raiseOne (s : State) (f : Field) (arg : Nat) : State × List EventReq :=
  let was := rdB s f
  let s := wrB s f true
  let route := noticeRoute s f
  if !givesNotice f arg route was (noticeEnabled s f) then (s, [])
  else
    let item := noticeItem s f arg
    let s := { s with noticeSeq := s.noticeSeq + 1 }
    let (s, lost) := traceRaw s 0x05 (nowShort s) (eventCode f % 2 ^ 16 * 2 ^ 160 + arg % 2 ^ 32 * 2 ^ 128)
    let more := if lost && f != OBSERVE_EVENTS.TRACE_LOST then [(OBSERVE_EVENTS.TRACE_LOST, 0)] else []
    if queueClass route != 3 then
      let s := bump s GLOBAL_STATUS.NOTICES_UNROUTED 1
      if f == GLOBAL_EVENTS.ROUTE_INVALID then (wrB s GLOBAL_EVENTS.ROUTE_INVALID true, more)
      else (s, (GLOBAL_EVENTS.ROUTE_INVALID, 0) :: more)
    else
      let (s, next) := offerNotice s route (noticeBand f) item
      (s, next ++ more)

/-- The events of a list raised in turn, each followed by those it gives rise to; `fuel` bounds their number. -/
def raiseAll : Nat → State → List EventReq → State
  | 0, s, _ => s
  | _ + 1, s, [] => s
  | fuel + 1, s, (f, arg) :: rest =>
    if blockOf f.addr == 13 && !observeOn s then raiseAll fuel s rest
    else
      let r := raiseOne s f arg
      raiseAll fuel r.1 (r.2 ++ rest)

/-- An event occurs: the bit, its notice and what follows from them. -/
def raise (s : State) (f : Field) (arg : Nat) : State := raiseAll 16 s [(f, arg)]

/-- An event occurs where a condition holds. -/
def raiseIf (c : Bool) (s : State) (f : Field) (arg : Nat) : State := if c then raise s f arg else s

/-- A trace record is offered (R460). -/
def trace (s : State) (type ts body : Nat) : State :=
  let r := traceRaw s type ts body
  if r.2 then raise r.1 OBSERVE_EVENTS.TRACE_LOST 0 else r.1

/-- A learn item of a table is dropped (R170, R187, R188). -/
def learnLost (s : State) (t : Nat) : State := raise (bump s (TABLE_LEARN.DROPPED t) 1) TABLE_EVENTS.LEARN_DROPPED t

/-- A learn item is written to the notice queue of TABLE_LEARN_CFG.QUEUE (R166, R186, R192); it is dropped where that is no notice
queue, and where the queue is full, which the queue counts too (R170, R188, R198). -/
def learnItem (s : State) (t item : Nat) : State :=
  let q := rd s TABLE_LEARN_CFG.QUEUE
  if queueClass q != 3 then learnLost s t
  else
    let full := (enqueueRaw s q 1 item).2 == .full
    let r := offerNotice s q 1 item
    let s := raiseAll 16 r.1 r.2
    if full then learnLost s t else s

/-! ## Queue accesses with their events -/

/-- An enqueue by a producer that is not a notice producer: a mismatch resets the queue, a crossed level is told
(R194, R202). A queue system that is off takes nothing (R333; log 167). -/
def enqueue (s : State) (q band item : Nat) : State × Enq :=
  if !hubOn s then (s, .full) else match enqueueRaw s q band item with
  | (s, .written) =>
    let r := judgeLevel s q
    (raiseIf r.2 r.1 QUEUE_EVENTS.LEVEL q, .written)
  | (s, .full) => (s, .full)
  | (s, .mismatch) => (raise (resetRaw s q false) QUEUE_EVENTS.MISMATCH_RESET q, .mismatch)

/-- An enqueue by a data-path producer: a full band drops the item (R198), and in every case that loses the item the
verdicts it carries are counted as dropped (R194, R198). -/
def enqueueDataPath (s : State) (q item verdicts : Nat) : State × Enq :=
  let p := match dataPathUse q with
    | some (p, _) => p
    | none => 0
  if !hubOn s then (s, .full) else match enqueue s q 3 item with
  | (s, .written) => (s, .written)
  | (s, .full) =>
    let d := getQ s q
    let s := setQ s q { d with dropped := satN 32 (d.dropped + 1) }
    (bump (raise s QUEUE_EVENTS.DATA_PATH_FULL q) (HEADPORT_MISC.VERDICTS_DROPPED p) verdicts, .full)
  | (s, .mismatch) => (bump s (HEADPORT_MISC.VERDICTS_DROPPED p) verdicts, .mismatch)

/-- A refused enable or flush (R196, R207). -/
def refuseDescriptor (s : State) (q : Nat) : State :=
  raise (bump s QUEUE_REFUSALS.DESC_REFUSED 1) QUEUE_EVENTS.DESC_REFUSED q

/-- A queue is flushed (R196); a queue of the data path is not. -/
def flushQueue (s : State) (q : Nat) : State :=
  if (dataPathUse q).isSome then refuseDescriptor s q
  else raise (resetRaw s q true) QUEUE_EVENTS.FLUSH_DONE q

/-! ## Failing units and the retry rule -/

/-- Kinds of unit of R474, in the numbering of `ObserveSt.failing`: 0 cluster, 1 die, 2 HBM channel, 3 HBM stack, 4 head
lane, 5 peer lane. -/
def unitKey (kind number : Nat) : Nat := kind * 256 + number

/-- The unit's bit in the shape descriptor (R41). -/
def shapeBit (kind number : Nat) : Nat :=
  match kind with
  | 0 => 336 + number
  | 1 => 372 + number
  | 2 => 64 + number
  | 3 => 328 + number
  | 4 => 32 + number
  | _ => 24 + number

/-- A warm restart is requested (R476); requests made before it begins are served by that one restart. -/
def requestRestart (s : State) : State :=
  if s.sched.restart == 0 then { s with sched.restart := 1 }
  else if s.sched.restart == 1 then s
  else { s with sched.again := true }

/-- A unit becomes failing, once (R474): the event, and a warm restart is requested (R476). A compute unit makes
every batch faulty from the one of the current beat on (R475; log 74). -/
def unitFailing (s : State) (kind number : Nat) : State :=
  if s.observe.failing.contains (unitKey kind number) then s
  else
    let s := { s with observe.failing := s.observe.failing ++ [unitKey kind number] }
    let s := if kind < 2 then
        { s with pipe.batches := s.pipe.batches.map fun b =>
            if batchNow s ≤ b.number then { b with faulty := true } else b }
      else s
    requestRestart (raise s OBSERVE_EVENTS.UNIT_FAILING number)

/-- Every unit of a list of one kind is failing or absent from the working shape (R474). -/
def allFailed (s : State) (kind : Nat) (ns : List Nat) : Bool :=
  ns.all fun n => s.observe.failing.contains (unitKey kind n) || !bit s.sched.workShape (shapeBit kind n)

/-- A cluster becomes failing, and its die where all of its clusters failed (R474). -/
def clusterFailing (s : State) (c : Nat) : State :=
  let s := unitFailing s 0 c
  if allFailed s 0 ((List.range 8).map (· + c / 8 * 8)) then unitFailing s 1 (c / 8) else s

/-- An HBM channel becomes failing, and its stack where all 32 of its channels failed (R474). -/
def channelFailing (s : State) (ch : Nat) : State :=
  let s := unitFailing s 2 ch
  if allFailed s 2 ((List.range 32).map (· + ch / 32 * 32)) then unitFailing s 3 (ch / 32) else s

/-- A lasting fault on an HBM channel; the eighth since the cold reset makes the channel failing (R474). -/
def channelFault (s : State) (ch : Nat) : State :=
  let n := Map.getD s.observe.channelFaults ch 0 + 1
  let s := { s with observe.channelFaults := Map.set s.observe.channelFaults ch n }
  if n == 8 then channelFailing s ch else s

/-- A failed check of class c and the outcome of its one repetition (R470, R472): the counts, the FAULT record and, where
lasting, the event and the HBM channel's count. -/
def faultFound (s : State) (c : Nat) (lasting : Bool) (location : Nat) (channel : Option Nat) : State :=
  let s := if observeOn s then
      if lasting then bump s (OBSERVE_FAULT.LASTING c) 1 else bump s (OBSERVE_FAULT.TRANSIENT c) 1
    else s
  let s := count s (if lasting then 170 else 169) 1
  let s := { s with log.faults := modAt s.log.faults c fun p =>
    if lasting then (p.1, satN 32 (p.2 + 1)) else (satN 32 (p.1 + 1), p.2) }
  let s := trace s 0x06 (nowShort s) (pack [(4, c), (1, b2n lasting), (40, location)] * 2 ^ 131)
  if lasting then
    let s := raise s OBSERVE_EVENTS.FAULT_LASTING c
    match channel with
    | some ch => if 2 ≤ c && c ≤ 5 then channelFault s ch else s
    | none => s
  else s

/-! ## Taking an item -/

/-- The check of an item that has been taken from a place of the ring RAM (R470): a failure is counted, and a lasting one discards the
item (R472 class 1). -/
def checkItem (s : State) (place i band : Nat) : State × Deq := match s.queue.struck.find? (·.1 == place) with
  | none => (s, .item i band)
  | some x =>
    (faultFound { s with queue.struck := s.queue.struck.filter fun y => y.1 != place } 1 x.2 (64 * place) none,
      if x.2 then .discarded i band else .item i band)

/-- A dequeue: a mismatch resets the queue and takes nothing; the level is judged after an item is taken, and the item's check decides
whether the consumer gets it (R194, R202, R472). A queue system that is off gives nothing (R333; log 167). -/
def dequeue (s : State) (q : Nat) : State × Deq :=
  if !hubOn s then (s, .empty) else match dequeueRaw s q with
  | (t, .item i b) =>
    let r := judgeLevel t q
    checkItem (raiseIf r.2 r.1 QUEUE_EVENTS.LEVEL q) (ringPlace s q b 0) i b
  | (t, .mismatch) => (raise (resetRaw t q false) QUEUE_EVENTS.MISMATCH_RESET q, .mismatch)
  | (t, r) => (t, r)

end Sys2Proof.Machine
end

