-- ==== Sys2Proof/Machine/Time.lean ====
section
/-! DEFINITION. The passage of dial time: what a beat start does, the live registers of the dial, and the boundaries of
beats, rounds and seconds (R47, R63, R71 to R73, R111). -/

namespace Sys2Proof.Machine

/-! ## Places in time -/

/-- Beat within the second (R63). -/
def beatInSecond (s : State) : Nat := batchNow s % 1000000

/-- The current beat is the first of a dial second. -/
def atSecond (s : State) : Bool := dialSet s && beatInSecond s == 0

/-- Round length n of the running schedule. -/
def roundBeats (s : State) : Option Nat := s.sched.running.map (·.n)

/-- The current beat is the first of a round of the running schedule (R63). -/
def atRound (s : State) : Bool :=
  match roundBeats s with
  | some n => dialSet s && beatInSecond s % n == 0
  | none => false

/-- L of the running schedule; 2 where none runs. -/
def latency (s : State) : Nat := match s.sched.running with
  | some c => c.latency
  | none => 2

/-- Batch number of the next round boundary strictly after the current beat: the beat itself where no schedule runs. -/
def nextRound (s : State) : Nat :=
  match roundBeats s with
  | some n => batchNow s + (n - beatInSecond s % n)
  | none => batchNow s

/-- Batch number of the next dial-second boundary strictly after the current beat. -/
def nextSecond (s : State) : Nat := (batchNow s / 1000000 + 1) * 1000000

/-- A schedule runs and no warm restart has begun, so that beats have batches (R103 row 2). -/
def scheduleRuns (s : State) : Bool := s.sched.running.isSome && s.sched.admitting && decide (s.sched.restart < 2)

/-- A warm restart begins at the current beat, before the other changes of mode that fall due at it (R476, R492). -/
def restartPrevails (s : State) : Bool :=
  s.sched.restart == 1 && atSecond s && !s.secure.halted && rd s SECURE_BOOT_STATUS.CLASS != 1

/-! ## Live registers -/

/-- ns since the last 1PPS edge exceed the limit of R52. -/
def ppsOverdue (s : State) : Bool :=
  match s.dial.lastEdge with
  | some e => decide (1100000000 < s.dial.now - e)
  | none => true

/-- ns spent in the current holdover. -/
def holdNs (s : State) : Nat := s.dial.now - s.dial.holdStart

/-- The error bound in units of 10^-9 dial ns (R60). STABILITY_PPB as it stands applies to the whole time in holdover, also
after a write during it (log 143: DESIGN CHOICE). -/
def boundScaled (s : State) : Nat :=
  s.dial.holdBase * 1000000000 + rd s DIAL_HOLDOVER_CFG.STABILITY_PPB * holdNs s

/-- The dial is in HOLDOVER or EXPIRED. -/
def inHoldover (s : State) : Bool := dialState s == 3 || dialState s == 4

/-- The registers and the pin that follow the dial, and a fall of the array supply that has become due (R60, R83, R496, R503). -/
def refresh (s : State) : State :=
  let s := if dialSet s then wr s DIAL_BATCH.BATCH (batchNow s) else s
  let s := if ppsOverdue s then wrB s DIAL_STATUS.PPS_PRESENT false else s
  let s := if inHoldover s then
      wr (wr s DIAL_HOLDOVER_BOUND.ELAPSED_S (satN 32 (holdNs s / 1000000000)))
        DIAL_HOLDOVER_BOUND.BOUND_NS (satN 32 (boundScaled s / 1000000000))
    else s
  let s := match s.power.supplyFall with
    | some (t, v) => if t ≤ s.dial.now then { s with power.supply := v, power.supplyFall := none } else s
    | none => s
  { s with pins.ppsOut :=
      if !s.secure.powerGood then .floating
      else if dialSet s && decide (s.dial.time % 1000000000 < 100000000) then .high else .low }

/-! ## Shed bundles (R111) -/

/-- The shed queue of port p (R190). -/
def shedQueue (p : Nat) : Nat := 0x20001 + 2 * p

/-- The ordered queue of port p (R190). -/
def orderedQueue (p : Nat) : Nat := 0x20000 + 2 * p

/-- The head-hold and ordered queues of the data path are enabled while a schedule runs (R190). -/
def enableDataPath (s : State) (on : Bool) : State :=
  (List.range 8).foldl (fun s p =>
    [p, 0x20000 + 2 * p].foldl (fun s q => setQ s q { getQ s q with enable := on }) s) s

/-- Every admitted batch has returned and its verdicts have left. -/
def dataPathEmpty (s : State) : Bool := s.pipe.batches.all (·.returned) && s.ports.all fun p => p.ordered.isEmpty

/-- Once no schedule runs the head-hold and ordered queues close (R190); those that the late verdicts of a compute-die trip still need
close with the last of them (R354; log 177). -/
def closeDataPath (s : State) : State :=
  if s.sched.running.isNone && (s.power.hubTrip || dataPathEmpty s) then enableDataPath s false else s

/-- The records of the item being filled are written to the shed queue; records that are not written leave their
bundle. -/
def flushShedPart (s : State) (p : Nat) : State :=
  match s.ports[p]? with
  | none => s
  | some t =>
    if t.shedPart.isEmpty then s
    else
      let n := t.shedPart.length
      let s := { s with ports := modAt s.ports p fun t => { t with shedPart := [] } }
      match enqueueDataPath s (shedQueue p) (verdictItem t.shedPart) n with
      | (s, .written) => s
      | (s, _) => { s with ports := modAt s.ports p fun t =>
          { t with shedding := t.shedding.map fun o => if o.closed then o else { o with count := o.count - n } } }

/-- The open shed bundle of port p is closed; one left without records vanishes. -/
def closeShed (s : State) (p : Nat) : State :=
  let s := flushShedPart s p
  { s with ports := modAt s.ports p fun t =>
      { t with shedding := (t.shedding.map fun o => { o with closed := true }).filter fun o => o.count != 0
               shedFirst := none } }

/-! ## The start of a beat -/

/-- Batches of which verdicts, chains or charges are still due. -/
def liveBatch (s : State) (b : Batch) : Bool :=
  !b.returned || (!b.tripped && b.chains.any fun c => decide (c.retired < c.total)) ||
    (Map.get? s.tally.computeKeys b.number).isSome ||
    (s.flow.requests.any fun r => r.1 == b.number) || s.tally.memKeys.any fun k => k.1 == 0 && k.2.1 == b.number

/-- The chain of a slot for a batch under a generation, before its first operation (R33, R311). -/
def Chain.start (slot : Nat) (g : Gen) : Chain where
  slot := slot
  gen := g.number
  model := g.model
  lost := g.lostTree.isSome
  fetched := 0
  retired := 0
  total := g.model.ops.length
  cycles := 0
  vals := []
  scales := []
  hits := []
  state := []
  surprise := []

/-- The running schedule has a SLOT_CHAIN entry for the slot (R66, R67). -/
def hasChain (s : State) (slot : Nat) : Bool := match s.sched.running with
  | some c => c.acts.any fun a => a.kind == 1 && a.slot == slot
  | none => false

/-- The chains of a batch: one for each slot with a SLOT_CHAIN entry and an active generation (R33, R311). -/
def openChains (s : State) : List Chain :=
  s.slots.zipIdx.filterMap fun sl =>
    if hasChain s sl.2 then sl.1.active.map (Chain.start sl.2) else none

/-- The batch of the current beat is opened (R28, R29). -/
def openBatch (s : State) : State :=
  let b : Batch := {
    number := batchNow s
    heads := []
    closed := false
    windowEnded := false
    late := false
    returned := false
    portsDone := []
    faulty := s.observe.failing.any fun u => decide (u < 512)
    latency := latency s
    capacity := rd s DIAL_ADMISSION.CAPACITY
    shed := 0
    chains := openChains s
    tripped := false
    places := [] }
  { s with pipe.batches := s.pipe.batches.filter (liveBatch s) ++ [b] }

/-- What the front stage takes over at the start of a beat: the verdict map entries written in the beat before (R298),
the partition settings in force (R127), and the rules lost to an error (R149). -/
def frontBeat (s : State) (last : Nat) : State :=
  let f := s.front
  let oldest := (s.pipe.batches.filter fun b => !b.returned).foldl (fun a b => min a b.number) (last + 1)
  { s with front := { f with
      vmapOld := (f.vmapOld.filter fun o => decide (oldest ≤ o.2.2)) ++
        f.vmapNext.map fun e => (e.1, Map.getD f.vmap e.1 0, last)
      vmap := f.vmapNext.foldl (fun m e => Map.put m e.1 e.2 0) f.vmap
      vmapNext := []
      partNext := []
      rules := f.lostRules.foldl Map.erase f.rules
      lostRules := [] } }

/-- A table engine's counts of the beat start again (R170, R177). -/
def TableSt.newBeat (t : TableSt) : TableSt := { t with insertedBeat := 0, revBeat := [] }

/-! ## Runs of the activities (R66) -/

/-- The activities of the running schedule: index, entry and what they have used. -/
def runningActs (s : State) : List (Nat × Activity × ActRun) := match s.sched.running with
  | none => []
  | some c => c.acts.zipIdx.filterMap fun a => (s.sched.acts[a.2]?).map fun r => (a.2, a.1, r)

/-- A kind of activity has work pending (R67): a chain to run, a sweep, table operations of a job, snapshots, a full trace block, an
epoch to close, a root or a report to sign. -/
def workPending (s : State) (x : Activity) : Bool :=
  match x.kind with
  | 1 => s.pipe.batches.any fun b => b.closed && !b.tripped &&
      b.chains.any fun c => c.slot == x.slot && decide (c.retired < c.total)
  | 2 => !(s.slots.getD x.slot SlotSt.reset).adapt.sample.isEmpty
  | 3 => s.flow.rake.isSome || s.endpoint.rake.isSome
  | 4 => s.crown.jobs.any fun j => j.state == 1 && (match j.ops[j.results.length]? with
      | some o => o.1 == 1
      | none => false)
  | 5 => !s.observe.snapshots.isEmpty
  | 6 => decide (128 ≤ s.observe.trace.length)
  | 7 => !s.tally.frozen.isEmpty
  | _ => s.tally.ring.any (·.signature.isNone) || !s.secure.attests.isEmpty

/-- A run of an activity is under way at a beat that begins, `n` beats after the one seen before: it begins at this beat, or it began
before and its work has not run out since. A run of TABLE_DMA, a window, lasts one beat; how long another lasts is not given (R66,
R67; log 153: DEDUCED). -/
def runOpen (s : State) (n : Nat) (x : Activity) (r : ActRun) : Bool :=
  let p := max 1 x.period
  let d := (beatInSecond s + p - x.startBeat % p) % p
  d == 0 || (x.kind != 4 && (r.opened || decide (d < n)) && workPending s x)

/-- The runs of the activities at a beat that begins. -/
def openRuns (s : State) (n : Nat) : State := match s.sched.running with
  | none => s
  | some c => { s with sched.acts := List.zipWith (fun x r => { r with opened := runOpen s n x r }) c.acts s.sched.acts }

/-- Catch-up ends or counts the beats that begin in it (R73). The beat in which it begins is not counted (log 144: DESIGN
CHOICE). -/
def catchupBeat (s : State) (n : Nat) : State :=
  if !rdB s DIAL_ADMISSION.CATCHUP then s
  else if s.sched.caughtUp != 0 && decide (s.sched.caughtUp ≤ batchNow s) then
    { wrB s DIAL_ADMISSION.CATCHUP false with sched.caughtUp := 0 }
  else bump s DIAL_ADMISSION.CATCHUP_BEATS n

/-- A beat begins, `last` being the one seen before and `n` the beats of dial time that passed in between (none in a step of
the dial): the shed bundles of the ending beat close, a batch opens, and what takes effect from beat to beat takes effect (R63,
R104, R111). -/
def beatStart (s : State) (last n : Nat) : State :=
  let s := (List.range 8).foldl closeShed s
  let s := { s with ports := s.ports.zipIdx.map fun t =>
      { t.1 with quota := rd s (HEADPORT_PORT_CFG.QUOTA t.2), admitted := 0 } }
  let s := frontBeat s last
  let s := { s with flow := s.flow.newBeat, endpoint := s.endpoint.newBeat }
  let s := openRuns (catchupBeat s (max 1 n)) (max 1 n)
  let s := count s 161 (n * (pointMhz s.power.point - pointMhz s.power.point * (64 - s.power.gate) / 64))
  if scheduleRuns s then openBatch s else s

/-- `dt` ns of dial time pass (before the dial is set: ns at the dial's rate). -/
def tick (s : State) (dt : Nat) : State :=
  { s with dial.now := s.dial.now + dt
           dial.time := if dialSet s then s.dial.time + dt else s.dial.time }

/-- Time passes, with the start of a beat where one is reached. -/
def advance (s : State) (dt : Nat) : State :=
  let b := batchNow s
  let s := tick s dt
  refresh (if batchNow s == b then s else beatStart s b (batchNow s - b))

/-- Time passes up to the start of the beat of a batch number; nothing where it is past. -/
def advanceTo (s : State) (b : Nat) : State := advance s (beatStartNs b - s.dial.time)

/-- The dial takes a later time (R56, R58): a beat begins where the beat changes. Time at the dial's rate does not
pass. -/
def setTime (s : State) (t : Nat) : State :=
  let b := batchNow s
  let s := { s with dial.time := t }
  refresh (if batchNow s == b then s else beatStart s b 0)

end Sys2Proof.Machine
end

