-- ==== Sys2Proof/Machine/Epoch.lean ====
section
/-! DEFINITION. Epochs and what they gather: charges, requests, keys of the period (R362 to R369). -/

namespace Sys2Proof.Machine

/-- An accumulator with nothing in it. -/
def Acc.zero : Acc := ⟨0, 0, 0, 0, 0, 0, 0⟩

/-- EPOCH_S within its limits (R381). -/
def epochSeconds (s : State) : Nat := max 1 (min 3600 (rd s TALLY_CTRL.EPOCH_S))

/-- Every class other than hub has a VALID entry, and telemetry is not lost (R379). -/
def calibrated (s : State) : Bool :=
  ([1, 2, 3].all fun c => (List.range 8).any fun v =>
    rdB s (REGULATOR_VR.VALID v) && rd s (REGULATOR_VR.CLASS v) == c) &&
    !rdB s REGULATOR_STATUS.TELEMETRY_LOST

/-- The open epoch changed; charges are discarded while no epoch runs (R369). -/
def modEpoch (s : State) (f : Epoch → Epoch) : State :=
  match s.tally.open_ with
  | some e => { s with tally.open_ := some (f e) }
  | none => s

/-- FLAGS bits set on the epoch in progress (R373). -/
def flagEpoch (s : State) (mask : Nat) : State := modEpoch s fun e => { e with flags := e.flags ||| mask }

/-- An epoch starts at dial time `t`, under a value of EPOCH_S (R368, R369). -/
def startEpoch (s : State) (flags t seconds : Nat) : State :=
  let young := decide (s.dial.now - s.tally.restartNow < 60000000000)
  { s with
    tally.open_ := some {
      startNs := t
      endNs := 0
      accounts := []
      jobs := []
      pool := 0
      flags := flags ||| (if young || !calibrated s then 0x80 else 0)
      dialState := dialState s
      rule := 0
      epochS := seconds
      startNow := s.dial.now
      late := false }
    dial.highest := dialState s }

/-- The epoch in progress ends at dial time `t` and waits to be closed (R367, R368). A short one is uncalibrated, and one in
which a warm restart fell (R379). -/
def endEpoch (s : State) (flags t : Nat) : State :=
  match s.tally.open_ with
  | none => s
  | some e =>
    let short := decide (t - e.startNs < 1000000000)
    let cut := decide (e.startNow ≤ s.tally.restartNow) && decide (s.tally.restartNow < s.dial.now) &&
      s.tally.restartNow != 0
    let trip := rdB s REGULATOR_TRIP.LATCHED && decide (rd s REGULATOR_TRIP.DIE < 4)
    let e := { e with
      endNs := t
      flags := e.flags ||| flags ||| (if short || cut then 0x80 else 0) ||| (if trip then 0x10 else 0)
      dialState := s.dial.highest
      rule := rd s TALLY_CTRL.STATIC_RULE }
    wrB { s with tally.open_ := none, tally.frozen := s.tally.frozen ++ [e] } TALLY_STATUS.CLOSING true

/-- An entry of the ring waits for its signature (R375, R377). -/
def waitsForSignature (s : State) : Option TallyEntry :=
  if s.power.hubTrip then none else s.tally.ring.find? fun t => t.signature.isNone

/-- CLOSING: a close or signature is in progress. -/
def showClosing (s : State) : State :=
  wrB s TALLY_STATUS.CLOSING (!s.tally.frozen.isEmpty || (waitsForSignature s).isSome)

/-- SEQ that the epoch in progress will have. -/
def openSeq (s : State) : Nat := s.tally.seq + s.tally.frozen.length

/-- EPOCH_S of the epoch in progress, or that in force where none runs. -/
def openSeconds (s : State) : Nat := match s.tally.open_ with
  | some e => e.epochS
  | none => epochSeconds s

/-- What is under way with the PTP master is dropped, since its time-stamps are of the old dial time (R53, R58). -/
def dropStamps (s : State) : State :=
  { s with dial.syncWait := none, dial.syncPair := none, dial.delaySent := none }

/-- The dial takes a later time by a step: the epoch in progress closes with STEP, and a new one starts under the same EPOCH_S,
since no boundary has come (R368, R369). -/
def stepTime (s : State) (t : Nat) : State :=
  let q := openSeq s
  let had := s.tally.open_.isSome
  let n := openSeconds s
  let s := endEpoch s 0x01 s.dial.time
  let s := setTime s t
  let s := startEpoch s 0x02 t n
  raiseIf had s TALLY_EVENTS.STEP_CLOSE (q % 2 ^ 32)

/-! ## Charges -/

/-- A charge to an accumulator: class 0 compute, 1 memory, 2 links. -/
def Acc.charge (a : Acc) (c x : Nat) : Acc :=
  match c with
  | 0 => { a with compute := a.compute + x, dyn := a.dyn + x }
  | 1 => { a with memory := a.memory + x, dyn := a.dyn + x }
  | _ => { a with links := a.links + x, dyn := a.dyn + x }

/-- A charge to an account in the epoch. -/
def chargeAccount (e : Epoch) (acct c x : Nat) : Epoch :=
  if x == 0 then e else { e with accounts := Map.upd e.accounts acct Acc.zero (·.charge c x) }

/-- The job's accumulators in the epoch, made where it has none yet. -/
def modJobAcc (e : Epoch) (j : Job) (f : JobAcc → JobAcc) : Epoch :=
  if e.jobs.any (·.post == j.post) then { e with jobs := e.jobs.map fun a => if a.post == j.post then f a else a }
  else { e with jobs := e.jobs ++ [f ⟨j.id, j.post, j.account, j.layer, j.operator, 0, Acc.zero⟩] }

/-- The first job that satisfies `p`, running or waiting, or retired. -/
def jobWhere (s : State) (p : Job → Bool) : Option Job :=
  match s.crown.jobs.find? p with
  | some j => some j
  | none => s.crown.retired.find? p

/-- The job of an identifier, running, waiting or retired. -/
def findJob (s : State) (id : Nat) : Option Job := jobWhere s (·.id == id)

/-- An admitted head counts as a request of its account (R365). -/
def countRequest (s : State) (acct : Nat) : State :=
  modEpoch s fun e => { e with accounts := Map.upd e.accounts acct Acc.zero fun a => { a with requests := a.requests + 1 } }

/-- A shed head counts for its account (R365). -/
def countShed (s : State) (acct : Nat) : State :=
  modEpoch s fun e => { e with accounts := Map.upd e.accounts acct Acc.zero fun a => { a with shed := a.shed + 1 } }

/-- A crown operation of a job is performed (R365). -/
def countOperation (s : State) (j : Job) : State :=
  modEpoch s fun e => modJobAcc e j fun a => { a with acc := { a.acc with requests := a.acc.requests + 1 } }

/-- A job retires with a leaf state of R371. -/
def retireJobAcc (s : State) (j : Job) (st : Nat) : State :=
  modEpoch s fun e => modJobAcc e j fun a => { a with state := st }

/-! ## Keys of the period (R363) -/

/-- The links key of a head: its record as received and the 16 bytes of its verdict. -/
def keyHead (s : State) (acct bytes : Nat) : State :=
  { s with tally.headKeys := Map.upd s.tally.headKeys (acct * 1024 + bytes) 0 (· + 1) }

/-- Execute-stage cycles of a batch. -/
def keyCompute (s : State) (batch cycles : Nat) : State :=
  { s with tally.computeKeys := Map.upd s.tally.computeKeys batch 0 (· + cycles) }

/-- Execute-stage cycles of the ADAPT_STEP of a slot. -/
def keyAdapt (s : State) (slot cycles : Nat) : State :=
  { s with tally.adaptKeys := Map.upd s.tally.adaptKeys slot 0 (· + cycles) }

/-- The 64-byte transfers of a block of bytes (R363). -/
def hbmWords (bytes : Nat) : Nat := ceilDiv bytes 64

/-- HBM transfers of a holder, which are counted too (R363, R454): 0 a batch, 1 ADAPT_STEP of a slot, 2 the system account, 3 a job by the
number of its posting. -/
def keyMemory (s : State) (kind id n : Nat) : State :=
  let hit (k : Nat × Nat × Nat) : Bool := k.1 == kind && k.2.1 == id
  let ks := s.tally.memKeys
  let s := countHbm s n
  { s with tally.memKeys :=
      if ks.any hit then ks.map fun k => if hit k then (k.1, k.2.1, k.2.2 + n) else k else ks ++ [(kind, id, n)] }

/-- Bulk bytes of a job, by the number of its posting, on the peer links. -/
def keyLinkJob (s : State) (job bytes : Nat) : State :=
  { s with tally.linkJobs := Map.upd s.tally.linkJobs job 0 (· + bytes) }

end Sys2Proof.Machine
end

