-- ==== Sys2Proof/Machine/Power.lean ====
section
/-! DEFINITION. The regulator: operating points, the estimate, telemetry, the division of the cap, droop, temperature and
domains (R332 to R352). -/

namespace Sys2Proof.Machine

/-! ## Operating points (R334, R335) -/

/-- f_eff of a pair in MHz (R335). -/
def fEff (p g : Nat) : Nat := pointMhz p * (64 - g) / 64

/-- The issued rate in force. -/
def fNow (s : State) : Nat := fEff s.power.point s.power.gate

/-- f_pend at a boundary: the issued rate of the pair frozen for it, or the rate in force (R75, R346). -/
def fPend (s : State) : Nat := match s.sched.frozen with
  | some (p, g) => fEff p g
  | none => fNow s

/-! ## Classes of domains (R332, R343) -/

/-- Class of a domain: 0 hub, 1 links, 2 memory, 3 compute (R332). -/
def pdClass (d : Nat) : Nat :=
  if 2 ≤ d && d ≤ 4 then 1 else if 6 ≤ d && d ≤ 13 then 3 else if 14 ≤ d && d ≤ 17 then 2 else 0

/-- The die whose sensors serve a domain: the hub die is 4; the HBM interfaces of PD14 + d lie on die d (R27, R340). -/
def pdDie (d : Nat) : Nat :=
  if 6 ≤ d && d ≤ 9 then d - 6 else if 10 ≤ d && d ≤ 13 then d - 10 else if 14 ≤ d && d ≤ 17 then d - 14 else 4

/-- A die is powered: the hub die always, a compute die with one of its domains. -/
def dieOn (s : State) (die : Nat) : Bool := die == 4 || pdOn s (6 + die) || pdOn s (10 + die)

/-! ## Temperature (R351) -/

/-- THROTTLE_C in force (R358). -/
def throttleC (s : State) : Nat := max 60 (min 105 (rd s REGULATOR_THERMAL.THROTTLE_C))

/-- HYST_C in force (R358). -/
def hystC (s : State) : Nat := max 1 (rd s REGULATOR_THERMAL.HYST_C)

/-- Failed sensors of a die. -/
def failedOf (s : State) (die : Nat) : Nat := (s.power.failedSensors.filter fun k => k / 64 == die).length

/-- The hottest working sensor of a die in 0.25 °C; a die with 16 or more failed sensors is at THROTTLE_C (R351). None
before the first reading. -/
def dieTemp (s : State) (die : Nat) : Option Int :=
  if 16 ≤ failedOf s die then some (4 * throttleC s)
  else
    let ts := (s.power.sensors.filter fun p => p.1 / 64 == die && !s.power.failedSensors.contains p.1).map (·.2)
    match ts with
    | [] => none
    | t :: ts => some (ts.foldl max t)

/-- The temperature that the estimator takes; before a first reading it is not stated and taken freely (log 13). -/
def estTemp (s : State) (die : Nat) : Int := (dieTemp s die).getD (Config.freeValue (s.fresh + die))

/-- A temperature in whole °C as s8; 0x80 where there is none (R358, R506; log 14). -/
def tempByte (t : Option Int) : Nat := match t with
  | some t => wrapU 8 (satS 8 (floorSh t 2))
  | none => 0x80

/-- REGULATOR_TEMP follows the sensors (R358). -/
def refreshTemp (s : State) : State :=
  let die (d : Nat) : Nat := if dieOn s d then tempByte (dieTemp s d) else 0x80
  wr (wr s REGULATOR_TEMP.HUB (tempByte (dieTemp s 4)))
    REGULATOR_TEMP.DIE (pack [(8, die 3), (8, die 2), (8, die 1), (8, die 0)])

/-- A reading that needs no re-read (R351). -/
def sensorGood (s : State) (key : Nat) (t : Int) : Bool :=
  decide (-160 ≤ t) && decide (t ≤ 600) &&
    (match Map.get? s.power.sensors key with
      | some l => decide ((t - l).natAbs ≤ 32)
      | none => true)

/-- A reading is accepted. -/
def acceptReading (s : State) (key : Nat) (t : Int) : State :=
  refreshTemp { s with power.sensors := Map.set s.power.sensors key t }

/-- SENSOR_READ: a temperature sensor is read, and re-read once on a doubtful value (R351). Dies 5 to 12 stand for the
temperature that HBM stacks 0 to 7 report (log 15), which is taken as reported. -/
def execSensorRead (die sensor : Nat) (first second : Int) (s : State) : Host.Outcome State Fault Refusal :=
  let key := die * 64 + sensor
  if 5 ≤ die then .next (acceptReading s key first)
  else if s.power.failedSensors.contains key then .next s
  else if sensorGood s key first then .next (acceptReading s key first)
  else if sensorGood s key second then
    .next (acceptReading (faultFound s 12 false key none) key second)
  else
    let s := { s with power.failedSensors := s.power.failedSensors ++ [key] }
    let s := bump (faultFound s 12 true key none) REGULATOR_COUNTS.SENSOR_FAILS 1
    .next (raise (refreshTemp s) REGULATOR_EVENTS.SENSOR_FAILED die)

/-- The hottest working sensor of all powered dies (R352). -/
def hottest (s : State) : Option Int :=
  match ((List.range 5).filter (dieOn s)).filterMap (dieTemp s) with
  | [] => none
  | t :: ts => some (ts.foldl max t)

/-- θ lies below MIN_POINT, or below FIXED_POINT in fixed-frequency mode (R347). -/
def overFloor (s : State) : Bool :=
  let mn := rd s REGULATOR_CTRL.MIN_POINT
  decide (s.power.theta < if rdB s REGULATOR_CTRL.FIXED_FREQ then max mn (min 9 (rd s REGULATOR_CTRL.FIXED_POINT)) else mn)

/-- A software write of REGULATOR_CTRL; one that lifts a software bound above θ sets THERMAL_OVER_FLOOR (R347). -/
def writeRegulatorCtrl (s : State) (a value : Nat) : State :=
  let t := writeFields s a value
  raiseIf (overFloor t && !overFloor s) t REGULATOR_EVENTS.THERMAL_OVER_FLOOR 0

/-- θ takes a value (R352); below a software bound it sets THERMAL_OVER_FLOOR (R347). -/
def setTheta (s : State) (th : Nat) : State :=
  let was := s.power.theta
  let s := { s with power.theta := th, power.coolRun := 0 }
  let s := wrB (wr s REGULATOR_STATUS.THERMAL_CEIL th) REGULATOR_STATUS.THROTTLING (decide (th < 15))
  let s := raiseIf (was == 15 && decide (th < 15)) s REGULATOR_EVENTS.THROTTLE_ON 0
  let s := raiseIf (decide (was < 15) && th == 15) s REGULATOR_EVENTS.THROTTLE_OFF 0
  raiseIf (overFloor s) s REGULATOR_EVENTS.THERMAL_OVER_FLOOR 0

/-- THERMAL_CHECK: the comparison at a beat index that is a multiple of 1,000 (R352). -/
def execThermalCheck (s : State) : Host.Outcome State Fault Refusal :=
  if dialSet s && beatInSecond s % 1000 != 0 then .next s
  else match hottest s with
    | none => .next s
    | some t =>
      if 4 * (throttleC s : Int) ≤ t then
        if s.power.theta == 0 then .next { s with power.coolRun := 0 } else .next (setTheta s (s.power.theta - 1))
      else if t < 4 * ((throttleC s : Int) - hystC s) then
        if s.power.theta == 15 then .next s
        else if 9 ≤ s.power.coolRun then .next (setTheta s (s.power.theta + 1))
        else .next { s with power.coolRun := s.power.coolRun + 1 }
      else .next { s with power.coolRun := 0 }

/-! ## Droop (R349) -/

/-- DROOP_STRETCH_START: a cluster's supply falls below the droop level (R349). -/
def execDroopStretchStart (cluster : Nat) (s : State) : Host.Outcome State Fault Refusal :=
  if s.power.stretching.contains cluster then .next s
  else .next (bump { s with power.stretching := s.power.stretching ++ [cluster] } (REGULATOR_DROOP.EVENTS cluster) 1)

/-- DROOP_STRETCH_END: the stretch clears after `cycles` stretched cycles (R349). -/
def execDroopStretchEnd (cluster cycles : Nat) (s : State) : Host.Outcome State Fault Refusal :=
  if !s.power.stretching.contains cluster then .next s
  else
    let s := { s with
      power.stretching := s.power.stretching.filter (· != cluster)
      power.lastClear := some s.dial.now
      power.stretched := Map.upd s.power.stretched cluster 0 (· + cycles) }
    .next (count (bump s (REGULATOR_DROOP.STRETCHED cluster) cycles) (128 + cluster) cycles)

/-- No cluster is stretching, and 64 ACLK cycles have passed since the last stretch cleared (R76). -/
def switchAllowed (s : State) : Bool :=
  s.power.stretching.isEmpty &&
    (match s.power.lastClear with
      | none => true
      | some t => decide (64 * 1000 ≤ (s.dial.now - t) * fNow s))

/-! ## The estimate (R339, R340, R361) -/

/-- VOLT_MV of a point. -/
def volt (s : State) (p : Nat) : Nat := s.power.volt.getD p 0

/-- LEAK[d][p][k] in the order of the test record (R392). -/
def leakAt (s : State) (d p k : Nat) : Nat :=
  if 6 ≤ d && d ≤ 13 then s.power.leak.getD ((d - 6) * 128 + p * 8 + k) 0
  else s.power.leak.getD (1024 + (if d < 6 then d else d - 8) * 8 + k) 0

/-- s of R340: the leakage of a domain at a point and the present temperature. -/
def leakage (s : State) (d p : Nat) : Int :=
  let tq : Int := satI (estTemp s (pdDie d)) 40 460
  let k : Nat := min ((tq.toNat - 40) / 60) 6
  let a : Int := leakAt s d p k
  let b : Int := leakAt s d p (k + 1)
  a + truncDiv ((b - a) * (tq - 40 - 60 * k)) 60

/-- The correction of a domain's class applied to an energy (R340). -/
def corrK (s : State) (d raw : Nat) : Nat :=
  (rheSh ((raw * s.power.correct.getD (pdClass d) 32768 : Nat) : Int) 15).toNat

/-- dv of R340. -/
def dynamicV (s : State) (counts : Counts) (d p : Nat) : Nat :=
  let w := s.power.weight.getD d []
  let dyn := sumN ((counts.filter fun c => c.1 == d).map fun c => w.getD c.2.1 0 * c.2.2)
  let vr := s.power.vref.getD d 0
  let v := if 6 ≤ d && d ≤ 13 then volt s p else vr
  dyn * v * v / (vr * vr)

/-- raw of R340. -/
def rawEnergy (s : State) (counts : Counts) (d : Nat) : Nat :=
  if !pdOn s d then s.power.leakOff.getD d 0 / 2 ^ 12
  else
    let p := s.power.maxPointUsed
    (floorSh ((dynamicV s counts d p : Int) + leakage s d (if 6 ≤ d && d ≤ 13 then p else 0)) 12).toNat

/-- E_dyn[d] (R361), from the energy E[d]. -/
def dynEnergy (s : State) (counts : Counts) (d e : Nat) : Nat :=
  if !pdOn s d then 0 else min e (corrK s d (dynamicV s counts d s.power.maxPointUsed / 2 ^ 12))

/-- The corrected static part of the compute class at a point (R344). -/
def staticAt (s : State) (p : Nat) : Nat :=
  sumN ((List.range 8).map fun i =>
    let d := 6 + i
    if pdOn s d then corrK s d (floorSh (leakage s d p) 12).toNat else corrK s d (s.power.leakOff.getD d 0 / 2 ^ 12))

/-! ## The cap (R343 to R347, R356) -/

/-- CAP_W within its limits (R358). -/
def capClamped (s : State) : Nat := max 400 (min 1500 (rd s REGULATOR_CAP.CAP_W))

/-- The effective cap: CAP_W less the grants given, plus those received (R356). -/
def effectiveCap (s : State) : Nat :=
  min 1500 (capClamped s - rd s REGULATOR_GROUP_STATUS.GIVEN_W + rd s REGULATOR_GROUP_STATUS.RECEIVED_W)

/-- EFFECTIVE_W follows the effective cap (R358). -/
def showEffective (s : State) : State := wr s REGULATOR_GROUP_STATUS.EFFECTIVE_W (min 2047 (effectiveCap s))

/-- A software write of REGULATOR_CAP (R345, R358). -/
def writeCap (s : State) (a value : Nat) : State := showEffective (writeFields s a value)

/-- W expressed in 2^-40 J per period (R345). -/
def wattsToPeriod (w : Nat) : Nat := w * 2 ^ 41 / 1000000

/-- An energy per period in mW (log 16). -/
def periodMw (e : Nat) : Nat := e * 500000000 / 2 ^ 40

/-- BMAX of links and memory (R343). -/
def bulkMax (c : Nat) : Nat := if c == 1 then 400000 else 1048576

/-- HBM stack n reports 95 °C or more and refreshes at the doubled rate (R351; log 15). -/
def refreshDoubled (s : State) (n : Nat) : Bool := match Map.get? s.power.sensors ((5 + n) * 64) with
  | some t => decide (380 ≤ t)
  | none => false

/-- Any HBM stack reports 95 °C or more (R351). -/
def stackHot (s : State) : Bool := (List.range 8).any (refreshDoubled s)

/-! ## Bulk transfers (R343, R345) -/

/-- The period that runs: dial ns in units of 2 beats. -/
def periodNow (s : State) : Nat := batchNow s / 2

/-- Bulk bytes moved in the running period: 1 links, 2 memory. -/
def bulkMoved (s : State) (c : Nat) : Nat :=
  if s.power.moved.1 == periodNow s then (if c == 1 then s.power.moved.2.1 else s.power.moved.2.2) else 0

/-- Bulk bytes that a class may still move in the running period: its allowance of R345, none of memory while a stack is hot
(R351). Before the first division the allowance is the limit of R343 (log 151: DESIGN CHOICE). -/
def bulkRoom (s : State) (c : Nat) : Nat :=
  if c == 2 && stackHot s then 0 else s.power.bulk.getD (c - 1) 0 - bulkMoved s c

/-- Bulk bytes are moved. -/
def moveBulk (s : State) (c n : Nat) : State :=
  let l := bulkMoved s 1 + if c == 1 then n else 0
  let m := bulkMoved s 2 + if c == 2 then n else 0
  { s with power.moved := (periodNow s, l, m) }

/-- POINT of fixed-frequency mode (R338). -/
def fixedPoint (s : State) : Nat := min 9 (rd s REGULATOR_CTRL.FIXED_POINT)

/-- Lowest and highest point that bound the issued rate (R344). -/
def pointBounds (s : State) : Nat × Nat :=
  let mx := rd s REGULATOR_CTRL.MAX_POINT
  (min (min (rd s REGULATOR_CTRL.MIN_POINT) mx) s.power.theta, min mx s.power.theta)

/-- The allowed pairs (R344). -/
def allowedPairs (s : State) : List (Nat × Nat) :=
  let b := pointBounds s
  let pts := if rdB s REGULATOR_CTRL.FIXED_FREQ then [fixedPoint s]
    else (List.range 16).filter fun p => decide (b.1 ≤ p) && decide (p ≤ b.2)
  let lo := if rdB s REGULATOR_CTRL.FIXED_FREQ then min b.1 (fixedPoint s) else b.1
  (pts.flatMap fun p => (List.range 64).map fun g => (p, g)).filter fun pg =>
    let f := fEff pg.1 pg.2
    decide (600 ≤ f) && decide (pointMhz lo ≤ f) && decide (f ≤ pointMhz b.2)

/-- The pair of a list with the highest issued rate, the lowest point among equals; the first of these. -/
def bestPair (l : List (Nat × Nat)) : Option (Nat × Nat) :=
  l.foldl (fun a x => match a with
    | none => some x
    | some y => if fEff y.1 y.2 < fEff x.1 x.2 || (fEff y.1 y.2 == fEff x.1 x.2 && decide (x.1 < y.1)) then some x else a) none

/-- The pair of a list with the lowest issued rate, the lowest point among equals. -/
def worstPair (l : List (Nat × Nat)) : Option (Nat × Nat) :=
  l.foldl (fun a x => match a with
    | none => some x
    | some y => if fEff x.1 x.2 < fEff y.1 y.2 || (fEff y.1 y.2 == fEff x.1 x.2 && decide (x.1 < y.1)) then some x else a) none

/-- P(p, G) of R344, from the dynamic part of the compute estimate. -/
def predict (s : State) (dyn : Nat) (pg : Nat × Nat) : Nat :=
  staticAt s pg.1 + dyn * fEff pg.1 pg.2 * volt s pg.1 ^ 2 / (fNow s * volt s s.power.point ^ 2)

/-- Classes in ORDER: 1 links, 2 memory, 3 compute (R358). -/
def classOrder (s : State) : List Nat :=
  let o := rd s REGULATOR_CTRL.ORDER
  let l := [fld o 5 4, fld o 3 2, fld o 1 0]
  if l.contains 0 && l.contains 1 && l.contains 2 then l.map (· + 1) else [1, 2, 3]

/-- One pass of R345 over the classes: allocations and what remains, towards targets. -/
def sharePass (targets : List Int) : List Nat → List Int × Int → List Int × Int
  | [], a => a
  | c :: cs, (al, rem) =>
    let x := min (max (targets.getD c 0 - al.getD c 0) 0) (max rem 0)
    sharePass targets cs (modAt al c (· + x), rem - x)

/-- The floors in units per period by class (R345). -/
def floorsOf (s : State) : List Int :=
  [0, wattsToPeriod (rd s REGULATOR_FLOORS.LINK_W), wattsToPeriod (rd s REGULATOR_FLOORS.MEM_W),
    wattsToPeriod (rd s REGULATOR_FLOORS.COMPUTE_W)]

/-- The compute choice of R345: the request for the next boundary, or none to keep the pair in force. -/
def choosePair (s : State) (dyn : Nat) (alloc : Int) : Option (Nat × Nat) :=
  let pairs := allowedPairs s
  let fits := pairs.filter fun pg =>
    let p : Int := predict s dyn pg
    decide (p ≤ alloc) && (decide (fEff pg.1 pg.2 ≤ fNow s) ||
      decide (p * 256 ≤ alloc * (256 - rd s REGULATOR_CAP.RISE_MARGIN)))
  let c := match bestPair fits with
    | some pg => some pg
    | none => worstPair pairs
  match c with
  | some pg => if fEff pg.1 pg.2 == fNow s then none else some pg
  | none => none

/-- The request follows a change of FIXED_FREQ or FIXED_POINT written since the last division: the compute choice is made again from
that division's estimates (R338). -/
def renewRequest (s : State) : State := match s.power.choice with
  | none => s
  | some (f, p, dyn, alloc) =>
    if f == rdB s REGULATOR_CTRL.FIXED_FREQ && p == fixedPoint s then s
    else { s with
      power.request := choosePair s dyn alloc
      power.choice := some (rdB s REGULATOR_CTRL.FIXED_FREQ, fixedPoint s, dyn, alloc) }

/-- Energies of a class. -/
def classSum (l : List Nat) (c : Nat) : Nat :=
  sumN ((List.range 20).map fun d => if pdClass d == c then l.getD d 0 else 0)

/-- Bulk bytes that a class may move in the next period (R345, R351). -/
def bulkAllowed (s : State) (c : Nat) (room : Int) : Nat :=
  let e := s.power.eBulk.getD (c - 1) 0
  if c == 2 && stackHot s then 0 else if e == 0 then bulkMax c else min (bulkMax c) (room.toNat / e)

/-- The division of the cap at the end of a period (R344 to R346, R355). -/
def divideCap (s : State) (linkBulk memBulk linkPending memPending : Nat) : State :=
  let e := s.power.energy
  let dyn := classSum s.power.dynamic 3
  let eb (c : Nat) := s.power.eBulk.getD (c - 1) 0
  let unl (c bulk : Nat) : Int := (classSum e c : Int) - min (classSum e c) (eb c * bulk)
  let uLinks := unl 1 linkBulk
  let uMem := unl 2 memBulk
  let pairs := allowedPairs s
  let uCmp : Int := match worstPair pairs with
    | some pg => predict s dyn pg
    | none => 0
  let dCmp : Int := match bestPair pairs with
    | some pg => predict s dyn pg
    | none => 0
  let d : List Int := [0, uLinks + eb 1 * min linkPending (bulkMax 1), uMem + eb 2 * min memPending (bulkMax 2), dCmp]
  let u : List Int := [0, uLinks, uMem, uCmp]
  let rem : Int := (wattsToPeriod (effectiveCap s) : Int) - classSum e 0 - uLinks - uMem - uCmp
  let mark := decide (rem < 0)
  let wasMarked := rdB s REGULATOR_STATUS.CAP_UNREACHABLE
  let r := sharePass d (classOrder s) (sharePass (floorsOf s) (classOrder s) (u, rem))
  let al := r.1
  let s := { s with
    power.bulk := [bulkAllowed s 1 (al.getD 1 0 - uLinks), bulkAllowed s 2 (al.getD 2 0 - uMem)]
    power.request := choosePair s dyn (al.getD 3 0)
    power.choice := some (rdB s REGULATOR_CTRL.FIXED_FREQ, fixedPoint s, dyn, al.getD 3 0)
    power.kiloNeed := s.power.kiloNeed || decide (al.getD 3 0 < dCmp) }
  let s := (List.range 4).foldl (fun s c =>
    wr (wr s (REGULATOR_CLASS_A.EST_MW c) (satN 32 (periodMw (classSum e c)))) (REGULATOR_CLASS_A.ALLOC_MW c)
      (satN 32 (periodMw (if c == 0 then classSum e 0 else (al.getD c 0).toNat)))) s
  raiseIf (mark && !wasMarked) (wrB s REGULATOR_STATUS.CAP_UNREACHABLE mark) REGULATOR_EVENTS.CAP_UNREACHABLE 0

/-- The energies of the period that ends (R340, R361), and the sums kept from period to period. -/
def estimatePeriod (s : State) (counts : Counts) : State :=
  let raw := (List.range 20).map (rawEnergy s counts)
  let e := raw.zipIdx.map fun r => corrK s r.2 r.1
  let dyn := e.zipIdx.map fun r => dynEnergy s counts r.2 r.1
  let total := sumN e
  { s with
    power.energy := e
    power.dynamic := dyn
    power.raw := (List.range 4).map fun c => s.power.raw.getD c 0 + classSum raw c
    power.roundEnergy := s.power.roundEnergy + total
    power.roundPeriods := s.power.roundPeriods + 1
    power.kiloEnergy := s.power.kiloEnergy + total
    power.kiloPeriods := s.power.kiloPeriods + 1
    fresh := s.fresh + 5 }

/-- At a beat index that is a multiple of 1,000 the sums of the last 1,000 beats are kept for the exchange, and new ones begin
(R355). -/
def keepKilo (s : State) : State :=
  if beatInSecond s % 1000 == 0 then
    { s with
      power.kiloLast := (s.power.kiloEnergy, s.power.kiloPeriods, s.power.kiloNeed)
      power.kiloEnergy := 0
      power.kiloPeriods := 0
      power.kiloNeed := false }
  else s

/-- What begins with the next period: the corrections of R341, the point in force, and, while no dial numbers the periods, the count of
bulk bytes (R345). -/
def nextPeriod (s : State) : State :=
  let s := { s with power.correct := s.power.correctNext, power.maxPointUsed := s.power.point }
  let s := if dialSet s then s else { s with power.moved := (0, 0, 0) }
  (List.range 4).foldl (fun s c => wr s (REGULATOR_CLASS_B.FACTOR c) (s.power.correct.getD c 32768)) s

/-! ## Telemetry (R341, R342) -/

/-- VALID entries of REGULATOR_VR. -/
def validVr (s : State) : List Nat := (List.range 8).filter fun v => rdB s (REGULATOR_VR.VALID v)

/-- The reads of an interval begin: each VALID entry is read (R341, R513). -/
def beginReads (s : State) (estimate : List Nat) : State :=
  let vs := validVr s
  let s := vs.foldl (fun s v =>
    let page := rd s (REGULATOR_VR.PAGE v)
    emit s (.pmbus (rd s (REGULATOR_VR.ADDRESS v)) (if page == 0xFF then none else some page))) s
  { s with
    power.pendingVr := vs
    power.estimate := estimate
    power.measured := [0, 0, 0, 0]
    power.failedRead := [false, false, false, false] }

/-- The reads of the intervals that are due begin once those before have completed; an interval without a VALID entry has none
(R513). -/
def nextReads : List (List Nat) → State → State
  | [], s => { s with power.telemetryDue := [] }
  | e :: rest, s =>
    let s := beginReads s e
    if s.power.pendingVr.isEmpty then nextReads rest s else { s with power.telemetryDue := rest }

/-- TELEMETRY_READ: at a beat index that is a multiple of 10,000 the regulator reads every VALID entry (R341), once the reads of the
interval before have completed (R513). -/
def execTelemetryRead (s : State) : Host.Outcome State Fault Refusal :=
  if !dialSet s || beatInSecond s % 10000 != 0 then .next s
  else
    let s := { s with power.telemetryDue := s.power.telemetryDue ++ [s.power.raw], power.raw := [0, 0, 0, 0] }
    .next (if s.power.pendingVr.isEmpty then nextReads s.power.telemetryDue s else s)

/-- The energy of a LINEAR11 reading over the interval (R341): the number Y × 2^(N + 40) / 100, truncated. -/
def linear11Energy (w : Nat) : Int :=
  let y := sext 11 (fld w 10 0)
  let n := sext 5 (fld w 15 11)
  truncDiv (y * (2 ^ (n + 40).toNat : Nat)) 100

/-- A reading that has not failed: acknowledged, its check good, its value from 0 W to 2,000 W (R342). -/
def readingGood (r : Option Nat) : Bool := match r with
  | none => false
  | some w =>
    let y := sext 11 (fld w 10 0)
    let n := sext 5 (fld w 15 11)
    decide (0 ≤ y) && decide (y * (2 ^ (n + 16).toNat : Nat) ≤ 2000 * 2 ^ 16)

/-- TELEMETRY_LOST clears only while no class has 8 or more failed intervals (R342). -/
def telemetryLost (s : State) : Bool :=
  (List.range 4).any fun c => decide (8 ≤ rd s (REGULATOR_CLASS_B.FAILS c))

/-- Every read of the interval for a class has completed: its factor is updated, or a failed interval counts (R341,
R342). -/
def finishClass (s : State) (c : Nat) : State :=
  if s.power.failedRead.getD c false then
    let s := bump s (REGULATOR_CLASS_B.FAILS c) 1
    if rd s (REGULATOR_CLASS_B.FAILS c) == 8 then
      raise (wrB s REGULATOR_STATUS.TELEMETRY_LOST true) REGULATOR_EVENTS.TELEMETRY_LOST c
    else s
  else
    let m := s.power.measured.getD c 0
    let est := s.power.estimate.getD c 0
    let s := wr s (REGULATOR_CLASS_B.FAILS c) 0
    let s := if telemetryLost s then s else wrB s REGULATOR_STATUS.TELEMETRY_LOST false
    let s := wr s (REGULATOR_CLASS_B.MEASURED_MW c) (satN 32 (m * 100000 / 2 ^ 40))
    if est == 0 then s
    else
      let target : Nat := m * 2 ^ 15 / est
      let clamped := decide (target < 29492) || decide (36044 < target)
      let t : Int := satI (target : Int) 29492 36044
      let k : Int := s.power.correct.getD c 32768
      let s := { s with power.correctNext := s.power.correctNext.set c (k + rheSh (t - k) 3).toNat }
      if clamped then
        let s := match s.tally.open_ with
          | some e => { s with tally.open_ := some { e with flags := e.flags ||| 0x20 } }
          | none => s
        raise s REGULATOR_EVENTS.CORR_LIMIT c
      else s

/-- TELEMETRY_RESULT: a PMBus read of an entry completes; a failed one was repeated once (R341, R342). -/
def execTelemetryResult (entry : Nat) (first second : Option Nat) (s : State) : Host.Outcome State Fault Refusal :=
  if !s.power.pendingVr.contains entry then .next s
  else
    let c := rd s (REGULATOR_VR.CLASS entry)
    let s := { s with power.pendingVr := s.power.pendingVr.erase entry }
    let s :=
      if readingGood first then
        { s with power.measured := modAt s.power.measured c (· + (linear11Energy (first.getD 0)).toNat) }
      else if readingGood second then
        { faultFound s 11 false entry none with
          power.measured := modAt s.power.measured c (· + (linear11Energy (second.getD 0)).toNat) }
      else { faultFound s 11 true entry none with power.failedRead := s.power.failedRead.set c true }
    let s := if s.power.pendingVr.any fun v => rd s (REGULATOR_VR.CLASS v) == c then s else finishClass s c
    .next (if s.power.pendingVr.isEmpty then nextReads s.power.telemetryDue s else s)

/-! ## Domains (R332, R333) -/

/-- Any of bits [hi:lo] of the running shape. -/
def shapeAny (s : State) (hi lo : Nat) : Bool := match s.sched.running with
  | some c => fld c.shape hi lo != 0
  | none => false

/-- The condition under which a domain is powered (R332). PD4 has no clause for the time without a schedule: there it stays as it is,
since only the start of a schedule switches off a domain whose condition fails. -/
def pdCondition (s : State) (d : Nat) : Bool :=
  let idle := s.sched.running.isNone
  if d == 2 then idle || shapeAny s 47 32
  else if d == 3 then idle || shapeAny s 63 48
  else if d == 4 then (if idle then pdOn s 4 else shapeAny s 31 24) && !s.power.pdOff4
  else if 6 ≤ d && d ≤ 13 then idle || shapeAny s (372 + pdDie d) (372 + pdDie d)
  else if 14 ≤ d && d ≤ 17 then idle || shapeAny s (329 + 2 * pdDie d) (328 + 2 * pdDie d)
  else if d == 19 then !s.power.pdOff19 || (match s.sched.running with
    | some c => c.traceReserved || c.acts.any fun a => a.kind == 5 || a.kind == 6
    | none => false)
  else true

/-- Domains that a trip has removed (R353). -/
def tripOff (s : State) (d : Nat) : Bool :=
  rdB s REGULATOR_TRIP.LATCHED &&
    ((6 ≤ d && d ≤ 9) || (14 ≤ d && d ≤ 17) || (s.power.hubTrip && ((2 ≤ d && d ≤ 5) || d == 18 || d == 19)))

/-- An address that a topology permits, with its sizes (R439); 3 acts as NONE (R452). -/
def peerAddressOk (p : PeerSt) : Bool :=
  match p.topology with
  | 1 => decide (p.address < p.ringSize)
  | 2 => decide (p.address % 8 < p.xSize) && decide (p.address / 8 < p.ySize)
  | _ => true

/-- The peer links with TOPOLOGY, the sizes, ADDRESS, ETHERTYPE and GROUP as written (R439, R452). -/
def peerWritten (s : State) : PeerSt := { s.peer with
  address := rd s PEER_CTRL.ADDRESS
  topology := if rd s PEER_CTRL.TOPOLOGY == 3 then 0 else rd s PEER_CTRL.TOPOLOGY
  ringSize := max 2 (min 64 (rd s PEER_CTRL.RING_SIZE))
  xSize := max 2 (min 8 (rd s PEER_CTRL.X_SIZE))
  ySize := max 2 (min 8 (rd s PEER_CTRL.Y_SIZE))
  etherType := rd s PEER_CTRL.ETHERTYPE
  group := rd s PEER_GROUP_CFG.GROUP }

/-- TOPOLOGY, the sizes, ADDRESS, ETHERTYPE and GROUP take effect (R439, R488); another group has other members (R449). -/
def applyPeerConfig (s : State) : State :=
  let p := peerWritten s
  let s := { s with peer := p, power.members := if s.peer.group == p.group then s.power.members else [] }
  if peerAddressOk s.peer then s else raise s PEER_EVENTS.MISWIRED 0

/-- A head port whose lanes lose their power: the link is down and no lane has lock (R113). -/
def portPowerOff (s : State) (p : Nat) : State :=
  let s := wr (wr s (HEADPORT_STATUS.ALIGNED p) 0) (HEADPORT_STATUS.LOCKED p) 0
  { s with ports := modAt s.ports p fun t => { t with retrain := none, retrainLanes := [] } }

/-- A peer link whose lanes lose their power goes down (R440). -/
def linkPowerOff (s : State) (j : Nat) : State :=
  let up := rdB s (PEER_LINK_STATUS.UP j)
  let s := wrB (wr s (PEER_LINK_STATUS.LANES j) 0) (PEER_LINK_STATUS.UP j) false
  raiseIf up { s with peer.links := modAt s.peer.links j fun l => { l with retrain := none, retrainLanes := [] } }
    PEER_EVENTS.LINK_DOWN j

/-- The ports or links of a domain that is switched off (R27). -/
def lanesPowerOff (s : State) (d : Nat) : State :=
  if d == 2 then (List.range 4).foldl portPowerOff s
  else if d == 3 then [4, 5, 6, 7].foldl portPowerOff s
  else if d == 4 then (List.range 4).foldl linkPowerOff s
  else s

/-- A domain is switched on or off; one switched on is starting until it is ready (R333). -/
def switchPd (s : State) (d : Nat) (on : Bool) : State :=
  let w := rd s REGULATOR_PD_STATUS.ON
  if bit w d == on then s
  else
    let s := if on then s else lanesPowerOff s d
    let s := wr s REGULATOR_PD_STATUS.ON (if on then w + 2 ^ d else w - 2 ^ d)
    let s := { s with power.starting := if on then s.power.starting ++ [d] else s.power.starting.filter (· != d) }
    refreshTemp (if on && d == 4 then applyPeerConfig s else s)

/-- Domains of a list are set to their condition. -/
def applyDomains (s : State) (ds : List Nat) : State :=
  ds.foldl (fun s d => switchPd s d (pdCondition s d && !tripOff s d)) s

/-- DOMAIN_READY: a domain that was switched on is ready (R333). -/
def execDomainReady (domain : Nat) (s : State) : Host.Outcome State Fault Refusal :=
  .next { s with power.starting := s.power.starting.filter (· != domain) }

end Sys2Proof.Machine
end

