-- ==== Sys2Proof/Machine/Sched.lean ====
section
/-! DEFINITION. The running schedule: decisions, rounds, budgets, dial steps and the trip (R58, R64, R74 to R77, R348 to
R354). -/

namespace Sys2Proof.Machine

/-! ## Budgets (R74, R75) -/

/-- A(f) of R74 for n beats and a margin of m ppm. -/
def cyclesFor (n f m : Nat) : Nat := n * f * (1000000 - m) / 1000000

/-- The activity's clock is ACLK (R67). -/
def Activity.aclk (a : Activity) : Bool := a.kind == 1 || a.kind == 2

/-- What R75 decides for one activity, and the sums it carries on: budget used so far and capacity. -/
def grantOne (avail : Nat) (a : Activity) (used cap : Nat) : (Nat × Bool) × Nat × Nat :=
  if used + a.budget ≤ avail then ((a.budget, false), used + a.budget, cap)
  else if a.shed == 3 && decide (used + a.shedBudget ≤ avail) then
    ((a.shedBudget, false), used + a.shedBudget, min cap a.shedCapacity)
  else if a.shed == 3 then ((0, false), used, 0)
  else ((0, true), used, cap)

/-- R75 over the ACLK entries that are not mandatory, in ascending priority: index and entry. -/
def grantAll (avail : Nat) : List (Nat × Activity) → Map (Nat × Bool) → Nat → Nat → Map (Nat × Bool) × Nat
  | [], m, _, cap => (m, cap)
  | (i, a) :: l, m, used, cap =>
    let r := grantOne avail a used cap
    grantAll avail l (Map.set m i r.1) r.2.1 r.2.2

/-- The decision of R75: the grant of each activity, whether it is shed, and the capacity in force. -/
def decideGrants (c : Schedule) (now pend : Nat) : List (Nat × Bool) × Nat :=
  let avail := cyclesFor c.n (min now pend) c.margin - (if pend == now then 0 else 32)
  let idx := c.acts.zipIdx.map fun a => (a.2, a.1)
  let used := sumN ((c.acts.filter fun a => a.aclk && a.shed == 0).map (·.budget))
  let order := sortBy (fun a b => decide (a.2.priority ≤ b.2.priority)) (idx.filter fun a => a.2.aclk && a.2.shed != 0)
  let r := grantAll avail order [] used c.capacity
  (idx.map fun a => Map.getD r.1 a.1 (a.2.budget, false), r.2)

/-! ## Grants of a power group that count (R356) -/

/-- A grant counts at a batch number. -/
def Grant.counts (g : Grant) (b : Nat) : Bool :=
  g.confirmed && decide (g.fromBatch ≤ b) && (match g.untilBatch with
    | some u => decide (b < u)
    | none => true)

/-- Watts of the grants that count. -/
def grantWatts (l : List Grant) (b : Nat) : Nat := sumN ((l.filter (·.counts b)).map (·.watts))

/-- At a decision point, the grants that have become due count, and those that have lapsed no longer (R356). -/
def applyGroupGrants (s : State) : State :=
  let b := batchNow s
  let past (g : Grant) : Bool := match g.untilBatch with
    | some u => decide (b < u)
    | none => true
  let s := { s with power.given := s.power.given.filter past, power.received := s.power.received.filter past }
  let s := wr (wr s REGULATOR_GROUP_STATUS.GIVEN_W (grantWatts s.power.given b))
    REGULATOR_GROUP_STATUS.RECEIVED_W (grantWatts s.power.received b)
  showEffective s

/-! ## The decision point (R75, R346) -/

/-- The current beat is F − L of the coming round. -/
def atDecision (s : State) : Bool := match s.sched.running with
  | some c => dialSet s && beatInSecond s % c.n == (c.n - c.latency) % c.n
  | none => false

/-- The pair that the regulator requests, where its issued rate differs from the rate in force (R345). -/
def liveRequest (s : State) : Option (Nat × Nat) := match s.power.request with
  | some (p, g) => if fEff p g == fNow s then none else some (p, g)
  | none => none

/-- A rise to a point of higher voltage is applied to the array supply when its request is frozen; a fall that is still due then goes
no lower than that voltage (R496). -/
def raiseSupply (s : State) : State := match s.sched.frozen with
  | none => s
  | some (p, _) =>
    let v := volt s p
    if s.power.supply < v then { s with power.supply := v, power.supplyFall := none, power.switchUp := true }
    else match s.power.supplyFall with
      | some (t, w) =>
        if w < v then { s with power.supplyFall := if v < s.power.supply then some (t, v) else none, power.switchUp := true } else s
      | none => s

/-- ns of 32 cycles of ACLK at an issued rate, rounded up. -/
def switchNs (f : Nat) : Nat := ceilDiv 32000 (max 1 f)

/-- The array supply follows a change that takes effect: a fall comes after the 32 switch cycles (R496). -/
def settleSupply (s : State) : State :=
  let v := volt s s.power.point
  let s := { s with power.switchUp := false }
  if s.power.supply < v then { s with power.supply := v, power.supplyFall := none }
  else if v < s.power.supply then { s with power.supplyFall := some (s.dial.now + switchNs (fNow s), v) }
  else { s with power.supplyFall := none }

/-- A change that was deferred, or whose rise was applied, will not take effect: the array supply goes back to the voltage of the point
in force (R496). -/
def dropSupply (s : State) : State :=
  if s.sched.frozen.isNone && s.power.supplyFall.isNone && decide (volt s s.power.point < s.power.supply) then settleSupply s else s

/-- SHED_DECISION: the request is frozen and the coming round's grants, sheds and capacity are fixed (R75, R346). -/
def execShedDecision (s : State) : Host.Outcome State Fault Refusal :=
  match s.sched.running with
  | none => .next s
  | some c =>
    if !atDecision s then .next s
    else
      let s := renewRequest (applyGroupGrants s)
      let s := raiseSupply { s with
        sched.frozen := liveRequest s
        sched.capNext := effectiveCap s
        power.fixedNext := rdB s REGULATOR_CTRL.FIXED_FREQ
        power.fixedPointNext := rd s REGULATOR_CTRL.FIXED_POINT }
      let d := decideGrants c (fNow s) (fPend s)
      let changed := s.sched.decided != some d
      let s := { s with
        sched.nextGrants := d.1
        sched.decided := some d
        pipe.batches := s.pipe.batches.map fun b => if b.number == batchNow s then { b with capacity := d.2 } else b }
      let s := wr (wr s DIAL_ADMISSION.CAPACITY d.2) DIAL_FREQ_STATE.PENDING_MHZ (fPend s)
      .next (raiseIf changed s DIAL_EVENTS.SHED_SET_CHANGED 0)

/-! ## The round boundary (R76, R77, R348, R350) -/

/-- The pair in force in REGULATOR_STATUS (R358). -/
def showPair (s : State) : State :=
  wr (wr (wr s REGULATOR_STATUS.POINT s.power.point) REGULATOR_STATUS.GATE s.power.gate) REGULATOR_STATUS.EFF_MHZ (fNow s)

/-- The status of the pair in force (R85, R336, R358). -/
def showPoint (s : State) : State :=
  wr (wr (showPair s) DIAL_FREQ_STATE.IN_FORCE_MHZ (fNow s)) DIAL_FREQ_STATE.PENDING_MHZ (fPend s)

/-- The FREQ record of a boundary (R461). -/
def traceFreq (s : State) (deferred : Bool) : State :=
  trace s 0x04 (nowShort s) (pack [(12, fNow s), (4, s.power.point), (6, s.power.gate), (1, b2n deferred)] * 2 ^ 153)

/-- The round that ends is judged against its cap and its margin (R348, R350). -/
def judgeRound (s : State) (c : Schedule) : State :=
  let e := s.power.roundEnergy
  let k := s.power.roundPeriods
  let above := decide (s.sched.capW * k * 2 ^ 41 < e * 1000000)
  let s := if k == 0 then s else wr s REGULATOR_STATUS.ROUND_MEAN_MW (satN 32 (periodMw e / k))
  let s := if above then raise (bump s REGULATOR_COUNTS.CAP_OVER_ROUNDS 1) REGULATOR_EVENTS.CAP_OVER 0 else s
  let worst := maxN 0 (s.power.stretched.map (·.2))
  let s := raiseIf (decide (c.n * fNow s - cyclesFor c.n (fNow s) c.margin < worst)) s REGULATOR_EVENTS.MARGIN_EXCEEDED 0
  { s with power.roundEnergy := 0, power.roundPeriods := 0, power.stretched := [], sched.capW := s.sched.capNext }

/-- The pending change of point takes effect, or is deferred, which leaves the array supply at the higher voltage (R76, R336, R340,
R496). -/
def changePoint (s : State) : State :=
  match s.sched.frozen with
  | none => dropSupply s
  | some (p, g) =>
    if switchAllowed s then
      let s := { s with
        power.point := p
        power.gate := g
        power.maxPointUsed := max p s.power.maxPointUsed
        sched.frozen := none }
      traceFreq (showPoint (count (settleSupply s) 160 32)) false
    else
      let s := raise (bump s DIAL_FREQ_STATE.DEFERRALS 1) DIAL_EVENTS.FREQ_DEFERRED 0
      traceFreq s true

/-- Snapshots that wait are lost, each counted (R68, R457). -/
def loseSnapshots (s : State) : State :=
  let n := s.observe.snapshots.length
  if n == 0 then s
  else
    raise (bump { s with observe.snapshots := [], observe.runLost := s.observe.runLost + n } OBSERVE_SAMPLE_STATUS.LOST n)
      OBSERVE_EVENTS.SAMPLE_LOST 0

/-- Trace records that wait for the drain are lost, each counted (R68, R460). -/
def loseTrace (s : State) : State :=
  let n := s.observe.trace.length
  if n == 0 then s
  else
    raise (bump { s with observe.trace := [], observe.lostSince := s.observe.lostSince + n } OBSERVE_TRACE_LOST.COUNT n)
      OBSERVE_EVENTS.TRACE_LOST 0

/-- The pending work of an activity is lost (R68, R324): the samples of a slot, the rest of the sweeps, the snapshots that wait, the
records that wait. Table DMA operations belong to jobs, each of which gets its result: their window passes, and they stay (log 152:
DESIGN CHOICE). -/
def loseWork (s : State) (x : Activity) : State :=
  match x.kind with
  | 2 => { s with slots := modAt s.slots x.slot fun y => { y with adapt.sample := [] } }
  | 3 => { s with flow.rake := none, endpoint.rake := none }
  | 5 => loseSnapshots s
  | 6 => loseTrace s
  | _ => s

/-- The work of an entry with SHED SKIP is lost where the activity is shed or held (R68, R77). -/
def skipWork (s : State) (a : Nat) : State := match s.sched.running with
  | none => s
  | some c => match c.acts[a]? with
    | none => s
    | some x => if x.shed == 1 then loseWork s x else s

/-- The counts of one activity at the end of a round, and its grant for the next one (R75, R77, R85). -/
def roundActivity (s : State) (a : Nat) (r : ActRun) : State :=
  let g := s.sched.nextGrants.getD a (r.granted, r.shed)
  let s := wr (wr s (DIAL_ACT_USE.CYCLES_LAST a) (satN 32 r.used)) (DIAL_ACT_USE.GRANTED a) g.1
  if g.2 || g.1 == 0 then skipWork (bump s (DIAL_ACT_COUNT.SHED_ROUNDS a) 1) a else s

/-- What an activity starts a round with: its grant, whether it is shed, and the run that begins at the round's first beat, where
START_BEAT is 0 (R66, R68, R75). -/
def ActRun.next (x : Activity) (g : Nat × Bool) : ActRun := ⟨g.1, 0, false, g.2, x.startBeat == 0, false⟩

/-- An activity that was held and is MANDATORY resumes first in the next round (R77). -/
def resumesFirst (c : Schedule) (a : Nat) (r : ActRun) : Bool := r.held && (c.acts[a]?).any (·.shed == 0)

/-- A round that begins is judged against FMIN_MHZ (R348). -/
def judgeRate (s : State) (c : Schedule) : State :=
  let below := decide (fNow s < c.fmin)
  let s := wrB s REGULATOR_STATUS.BELOW_FMIN below
  if below then raise (bump s REGULATOR_COUNTS.BELOW_FMIN_ROUNDS 1) REGULATOR_EVENTS.BELOW_FMIN 0 else s

/-! ## Activities of the running schedule -/

/-- The clock of an activity kind: 0 ACLK, 1 HCLK, 2 CCLK (R67). -/
def kindClock (kind : Nat) : Nat := if kind ≤ 2 then 0 else if kind ≤ 4 then 1 else 2

/-- An activity of the same clock that resumes first in this round has not yet done so (R77). -/
def waitsForFirst (s : State) (i : Nat) (x : Activity) : Bool :=
  (runningActs s).any fun a => a.1 != i && a.2.2.first && !a.2.2.held && kindClock a.2.1.kind == kindClock x.kind &&
    workPending s a.2.1

/-- An activity may do a unit of work: it is neither held nor shed, its grant is not used up, a run of it is under way or it resumes
first, and none resumes before it (R66, R77). -/
def canRun (s : State) (a : Nat × Activity × ActRun) : Bool :=
  !a.2.2.held && !a.2.2.shed && decide (a.2.2.used < a.2.2.granted) && (a.2.2.first || a.2.2.opened) &&
    !waitsForFirst s a.1 a.2.1

/-- The activity of a kind, and of a slot where it has one: the first that may run, else the first (R66). -/
def findActivity (s : State) (kind slot : Nat) : Option (Nat × Activity × ActRun) :=
  let l := (runningActs s).filter fun a => a.2.1.kind == kind && a.2.1.slot == slot
  match l.find? (canRun s) with
  | some a => some a
  | none => l.head?

/-- Index and state of that activity. -/
def findAct (s : State) (kind slot : Nat) : Option (Nat × ActRun) := (findActivity s kind slot).map fun a => (a.1, a.2.2)

/-- The activity of a kind may do a unit of work. -/
def mayRun (s : State) (kind slot : Nat) : Bool := match findActivity s kind slot with
  | some a => canRun s a
  | none => false

/-- Cycles used by activity a for a unit of work. -/
def useCycles (s : State) (a n : Nat) : State :=
  { s with sched.acts := modAt s.sched.acts a fun r => { r with used := r.used + n, first := false } }

/-- Cycles used by the activity of a kind and slot, where the schedule has one. -/
def useKind (s : State) (kind slot n : Nat) : State := match findAct s kind slot with
  | some (a, _) => useCycles s a n
  | none => s

/-- A unit of work of a kind for which the manual gives no cycles: they are left open (R77; log 19: DESIGN CHOICE). -/
def useUnit (s : State) (kind : Nat) : State := match findAct s kind 0 with
  | some (a, _) =>
    { useCycles s a (Config.unitWork kind s.sched.unitNo) with sched.unitNo := s.sched.unitNo + 1 }
  | none => s

/-- Of the first `k` cycles of a flight, those in which it executes something: the reserved cycles in which it executes nothing come
last (R249; log 173: DEDUCED). -/
def Flight.ran (f : Flight) (k : Nat) : Nat := min k f.runs

/-- The transfers that a flight has made in its first `k` cycles: the parts of a streamed ensemble come evenly (R274, R363; log 173:
DEDUCED). -/
def Flight.moved (f : Flight) (k : Nat) : Nat := f.moves * k / max 1 f.cycles

/-- The next `n` execute-stage cycles are spent on a flight: they count for the activity of its slot, for its batch, and in CHAIN, EXEC
and RESERVED_IDLE, and the transfers made meanwhile for its batch (R77, R363, R454, R455). -/
def spendCycles (s : State) (f : Flight) (n : Nat) : State :=
  let k := f.keyed + n
  let ran := f.ran k - f.ran f.keyed
  let moved := f.moved k - f.moved f.keyed
  let s := count (keyCompute (useKind s 1 f.slot n) f.batch n) (88 + f.slot) n
  let s := count (count s (30 + f.place) ran) 61 (n - ran)
  if moved == 0 then s else keyMemory s 0 f.batch moved

/-- The cycles of the flight in the execute stage that have passed since they were last counted, at the issued rate, count in the period
and the round that end now (R77, R363). -/
def accrue (s : State) : State := match s.pipe.flights.find? (·.stage == 2) with
  | none => s
  | some f =>
    let n := min (f.cycles - f.keyed) ((s.dial.now - f.mark) * fNow s / 1000)
    let s := spendCycles s f n
    { s with pipe.flights := s.pipe.flights.map fun g =>
        if g.tag == f.tag then { g with keyed := g.keyed + n, mark := s.dial.now } else g }

/-! ## A round boundary as a command -/

/-- ROUND_BOUNDARY: a round ends and the next one begins (R76, R77, R348). -/
def execRoundBoundary (s : State) : Host.Outcome State Fault Refusal :=
  match s.sched.running with
  | none => .next s
  | some c =>
    let s := if atRound s then s else advanceTo s (nextRound s)
    if !atRound s then .next s
    else
      let s := judgeRound (accrue s) c
      let s := s.sched.acts.zipIdx.foldl (fun s r => roundActivity s r.2 r.1) s
      let gs := s.sched.acts.zipIdx.map fun r => s.sched.nextGrants.getD r.2 (r.1.granted, r.1.shed)
      let first := s.sched.acts.zipIdx.map fun r => resumesFirst c r.2 r.1
      let s := wr s DIAL_SHED_MASK.SHED (ofBits ((gs.zipIdx.filter fun g => g.1.2 || g.1.1 == 0).map (·.2)))
      let s := { s with sched.acts := List.zipWith (fun (r : ActRun) f => { r with first := f }) (List.zipWith ActRun.next c.acts gs) first }
      let s := changePoint { s with power.fixedPointNow := s.power.fixedPointNext }
      .next (judgeRate (wrB s REGULATOR_STATUS.FIXED_ACTIVE s.power.fixedNext) c)

/-! ## Budgets held -/

/-- The cycles of an activity have reached its grant; one that is shed makes no runs (R68, R77). -/
def grantReached (r : ActRun) : Bool := !r.shed && decide (r.granted ≤ r.used)

/-- BUDGET_HELD: the cycles of an activity reach its grant, and it is held (R77). -/
def execBudgetHeld (activity : Nat) (s : State) : Host.Outcome State Fault Refusal :=
  match s.sched.acts[activity]? with
  | none => .next s
  | some r =>
    if r.held || !grantReached r then .next s
    else
      let s := { s with sched.acts := modAt s.sched.acts activity fun r => { r with held := true } }
      let s := skipWork s activity
      .next (raise (bump s (DIAL_ACT_COUNT.HELD_ROUNDS activity) 1) DIAL_EVENTS.BUDGET_HELD 0)

/-! ## Steps of the dial (R58) -/

/-- STEP_ADMISSION_STOP: at the round boundary after a pending step, admission stops (R58). -/
def execStepAdmissionStop (s : State) : Host.Outcome State Fault Refusal :=
  if s.dial.stepPhase == 1 && atRound s then
    .next { s with dial.stepPhase := 2, dial.stepLast := batchNow s - 1 }
  else .next s

/-- STEP_TAKE_TIME: at the end of beat b + L the dial takes the source time, which lies the last measured error ahead
(R58). -/
def execStepTakeTime (s : State) : Host.Outcome State Fault Refusal :=
  if s.dial.stepPhase == 2 && decide (s.dial.stepLast + 1 + latency s ≤ batchNow s) then
    let s := stepTime (dropStamps s) (s.dial.time + (max s.dial.lastError 0).toNat)
    .next { s with dial.stepPhase := 3 }
  else .next s

/-- STEP_DONE: at the first round boundary at or after the new dial time, admission resumes (R58). -/
def execStepDone (s : State) : Host.Outcome State Fault Refusal :=
  if s.dial.stepPhase == 3 && atRound s then
    .next (raise { s with dial.stepPhase := 0 } DIAL_EVENTS.STEP_DONE 0)
  else .next s

/-! ## Stopping the schedule -/

/-- The registers of the schedule read as zero while none runs (R85). -/
def clearScheduleRegs (s : State) : State :=
  let s := [DIAL_SCHEDULE_ID.ID, DIAL_SCHEDULE.ACTIVITY_COUNT, DIAL_SCHEDULE.DROOP_MARGIN_PPM, DIAL_SCHEDULE.FMIN_MHZ,
    DIAL_SCHEDULE.BATCH_CAPACITY, DIAL_SCHEDULE.LATENCY_BEATS, DIAL_SCHEDULE.ROUND_BEATS, DIAL_SHED_MASK.SHED,
    DIAL_ADMISSION.CAPACITY, DIAL_ADMISSION.CATCHUP].foldl (fun s f => wr s f 0) s
  (List.range 64).foldl (fun s a =>
    wr (wr (wr (wr s (DIAL_ACT_USE.CYCLES_LAST a) 0) (DIAL_ACT_USE.GRANTED a) 0) (DIAL_ACT_COUNT.HELD_ROUNDS a) 0)
      (DIAL_ACT_COUNT.SHED_ROUNDS a) 0) s

/-- A step of the dial under way when the schedule stops: one whose time is taken is done, and one that still waits for a round or for
its batches lapses, since the next measurement decides anew (R57, R58; log 154: DESIGN CHOICE). -/
def lapseStep (s : State) : State :=
  if s.dial.stepPhase == 0 then s
  else raiseIf (s.dial.stepPhase == 3) { s with dial.stepPhase := 0 } DIAL_EVENTS.STEP_DONE 0

/-- The running schedule stops (R353, R476). -/
def stopSchedule (s : State) : State :=
  let s := dropSupply { lapseStep s with sched.frozen := none }
  { wrB (clearScheduleRegs s) GLOBAL_STATUS.ADMITTING false with
    sched.running := none
    sched.acts := []
    sched.nextGrants := []
    sched.decided := none
    sched.admitting := false
    sched.caughtUp := 0
    pins.admitN := true }

/-! ## Trip (R353, R354, R479) -/

/-- Domains that a trip of a die switches off (R353). -/
def tripDomains (die : Nat) : List Nat :=
  [6, 7, 8, 9, 14, 15, 16, 17] ++ (if die == 4 then [2, 3, 4, 5, 18, 19] else [])

/-- What ends with a trip: chains are cut short, and after a trip of the hub die no verdict leaves (R354). -/
def tripBatches (s : State) (hub : Bool) : State :=
  { s with
    pipe.flights := []
    pipe.batches := s.pipe.batches.map fun b =>
      if b.closed && b.chains.all fun c => c.retired == c.total then { b with returned := b.returned || hub }
      else { b with tripped := true, returned := b.returned || hub }
    observe.hangs := s.observe.hangs.filter fun h => h.1 != 1
    pins.lanesOff := s.pins.lanesOff || hub }

/-- A trip comparator of a die fires (R353). -/
def tripFired (s : State) (die sensor : Nat) : State :=
  let first := !rdB s REGULATOR_TRIP.LATCHED
  let s := accrue s
  let s := { s with
    log.trips := satN 32 (s.log.trips + 1)
    log.tripLog := ((dialSeconds s, die, sensor, s.log.powerOnS) :: s.log.tripLog).take 8
    log.due := true
    pins.tripN := false
    power.hubTrip := s.power.hubTrip || die == 4 }
  let s := wr s LOGBOOK_COUNTS.TRIPS s.log.trips
  let s := (tripDomains die).foldl (fun s d => switchPd s d false) s
  let s := closeDataPath (showClosing (stopSchedule (tripBatches s (die == 4))))
  if first then
    let s := wrB (wr (wr s REGULATOR_TRIP.DIE die) REGULATOR_TRIP.SENSOR sensor) REGULATOR_TRIP.LATCHED true
    let s := wr s REGULATOR_TRIP.SECONDS (dialSeconds s)
    raise (wrB s REGULATOR_STATUS.TRIPPED true) REGULATOR_EVENTS.TRIP die
  else s

/-- TRIP: a trip comparator of a die fires (R353); die 4 is the hub die. During a cold reset no comparator is armed (R499). -/
def execTrip (die sensor : Nat) (s : State) : Host.Outcome State Fault Refusal :=
  .next (if s.secure.powerGood then tripFired s die sensor else s)

/-! ## Domains (R332) -/

/-- In the halt and recovery classes the domains powered are those of R402. -/
def bootEnded (s : State) : Bool := s.secure.halted || rd s SECURE_BOOT_STATUS.CLASS == 1

/-- PD_SWITCH: a request of REGULATOR_PD_CTRL takes effect at a dial-second boundary (R332). -/
def execPdSwitch (s : State) : Host.Outcome State Fault Refusal :=
  if !atSecond s || bootEnded s then .next s
  else
    let s := { s with
      power.pdOff4 := rdB s REGULATOR_PD_CTRL.PD4_OFF
      power.pdOff19 := rdB s REGULATOR_PD_CTRL.PD19_OFF }
    .next (applyDomains s [4, 19])

end Sys2Proof.Machine
end

