-- ==== Sys2Proof/Machine/Quant.lean ====
section
/-! DEFINITION. Quantisation in service: statistics, windows, scales in force, the misfit test, and the commands that bound
or pin a scale (R236 to R260). -/

namespace Sys2Proof.Machine

/-! ## Models and their tensors -/

/-- Index and record of the operation that writes a tensor (R236). -/
def writerOf (m : Model) (t : Nat) : Option (Nat × OpRec) :=
  (m.ops.zipIdx.find? fun o => o.1.outTensor == t && o.1.outTensor != 255 && o.1.kind != 3 && o.1.kind != 5).map
    fun o => (o.2, o.1)

/-- Zero point of a tensor (R302): the ZO of the operation that writes it, or FEAT_ZP; S16 tensors have 0. -/
def tensorZp (m : Model) (t : Nat) : Nat :=
  match writerOf m t with
  | some (_, o) => if o.kind == 2 || o.fmtOut == 0 then o.zo else 0
  | none => if t == m.featTensor then m.featZp else 0

/-- The tensor is S16 by the model: a dense or vector output in S16, or the gathered state (R236, R289). -/
def tensorS16 (m : Model) (t : Nat) : Bool :=
  match writerOf m t with
  | some (_, o) => o.kind != 2 && o.fmtOut == 4
  | none => match m.seq with
    | some q => q.stateIn == t && t != m.featTensor
    | none => false

/-- A descriptor that a generation does not have. -/
def TensorDesc.none_ : TensorDesc := ⟨0, 0, 0, 1, true, false, 0, 0, 0, []⟩

/-- The descriptor of a tensor. -/
def tensorDesc (m : Model) (t : Nat) : TensorDesc := m.tensors.getD t TensorDesc.none_

/-- The producer is rectified (R238): a U8 output whose CLAMP_LO equals ZO; the clamp applies to U8 outputs only. -/
def OpRec.rectified (o : OpRec) : Bool := o.fmtOut == 0 && o.clampLo == o.zo

/-- A tensor before its first statistics (R245). -/
def QTensor.fresh : QTensor where
  mode := 0
  win := []
  outRun := false
  outWin := []
  hasStats := false
  lastBatch := 0
  sat := 0
  elements := 0
  sse := 0
  misfits := 0
  pinnedHits := 0
  pinnedHit := false
  constRange := false
  outConst := false
  misfit := false

/-- The windows and statistics of a tensor of a generation. -/
def Gen.q (g : Gen) (t : Nat) : QTensor := g.quant.getD t QTensor.fresh

/-- A generation with empty windows (R245). -/
def Gen.make (number : Nat) (m : Model) : Gen := ⟨number, m, List.replicate m.tensors.length QTensor.fresh, none, number⟩

/-- The generation of a number in a slot: the active one, or the one in the staging position. -/
def findGen (s : State) (slot number : Nat) : Option Gen :=
  let sl := s.slots.getD slot SlotSt.reset
  match sl.active with
  | some g => if g.number == number then some g else match sl.staged with
    | some h => if h.number == number then some h else none
    | none => none
  | none => match sl.staged with
    | some h => if h.number == number then some h else none
    | none => none

/-- The generation of a number changed. -/
def modGen (s : State) (slot number : Nat) (f : Gen → Gen) : State :=
  let on (g : Option Gen) : Option Gen := g.map fun g => if g.number == number then f g else g
  { s with slots := modAt s.slots slot fun sl => { sl with active := on sl.active, staged := on sl.staged } }

/-- The number of the promoted candidate that took the place of a draining generation: batches of the displaced generation
that are still in flight have been measured for both (R245, R327). -/
def promotedFrom (s : State) (slot number : Nat) : Option Nat :=
  let sl := s.slots.getD slot SlotSt.reset
  match sl.active, sl.staged with
  | some a, some g =>
    if sl.staging == 6 && g.number == number && a.origin == g.origin && decide (g.number < a.number) then some a.number
    else none
  | _, _ => none

/-- A tensor's windows and statistics changed. -/
def modQ (s : State) (slot number t : Nat) (f : QTensor → QTensor) : State :=
  let on (s : State) (k : Nat) : State := modGen s slot k fun g => { g with quant := modAt g.quant t f }
  match promotedFrom s slot number with
  | some k => on (on s number) k
  | none => on s number

/-- A swap of the slot takes effect at the current boundary: it was recorded for it or for an earlier one, and no head has been
admitted to the batch of the beat (R253, R310, R311; log 34). A warm restart that begins there prevails (R492). -/
def swapDue (s : State) (x : SlotSt) : Bool := match x.swap with
  | some (_, f) => atRound s && decide (f ≤ batchNow s) && !restartPrevails s &&
      (s.pipe.batches.find? (·.number == batchNow s)).all (·.heads.isEmpty)
  | none => false

/-- Argument of the events of R260. -/
def tensorArg (slot t : Nat) : Nat := slot * 256 + t

/-! ## The scale in force (R243, R254) -/

/-- The largest entry of a window by value. -/
def windowMax (w : List Nat) : Nat := w.foldl scaleMax 0

/-- The scale that the loop chooses from a window. -/
def loopScale (d : TensorDesc) (w : List Nat) : Nat :=
  let m := windowMax w
  scaleUp (scaleMant m * (65536 + d.headroom)) ((scaleExp m : Int) - 160)

/-- decide() of R243 before the software step. -/
def chosenScale (d : TensorDesc) (q : QTensor) (outlier : Bool) : Nat :=
  if outlier then (if q.outRun then loopScale d q.outWin else d.calOScale)
  else if d.fixed then d.calScale
  else if q.mode == 1 || q.mode == 2 then loopScale d q.win
  else d.calScale

/-- The command in force for a batch: the newest that governs it; a RELEASE leaves none (R253). -/
def commandFor (s : State) (slot t : Nat) (outlier : Bool) (batch : Nat) : Option QCommand :=
  match (s.quant.force.filter fun c => c.slot == slot && c.tensor == t && c.outlier == outlier &&
      decide (c.fromBatch ≤ batch)).getLast? with
  | some c => if c.op == 0 then none else some c
  | none => none

/-- control() of R254: the scale, and whether PINNED_HIT is marked. -/
def controlScale (c : Option QCommand) (sc : Nat) : Nat × Bool :=
  match c with
  | none => (sc, false)
  | some c =>
    let t := if c.op == 1 then c.lo else scaleMax c.lo (scaleMin c.hi sc)
    (t, scaleValue t != scaleValue sc)

/-- decide() of R243 for a batch: main scale, outlier scale, and the number of clamped decisions. -/
def decideScale (s : State) (slot t batch : Nat) (d : TensorDesc) (q : QTensor) : Nat × Nat × Nat :=
  let a := controlScale (commandFor s slot t false batch) (chosenScale d q false)
  if d.outCh.isEmpty then (a.1, 0, b2n a.2)
  else
    let o := controlScale (commandFor s slot t true batch) (chosenScale d q true)
    (a.1, o.1, b2n a.2 + b2n o.2)

/-- The marks of PINNED_HIT of `n` decisions (R254): each counts, and each sets the event. -/
def markPinned (s : State) (slot t n : Nat) : State :=
  (List.range n).foldl (fun s _ => raise (bump s ARRAY_Q_CLAMPS.PINNED_HITS 1) ARRAY_Q_EVENTS.PINNED_HIT (tensorArg slot t)) s

/-- The tensor's own marks, as its producer leaves them at its retirement (R254, R258). -/
def keepPinned (s : State) (slot number t n : Nat) : State :=
  modQ s slot number t fun q => { q with pinnedHit := n != 0, pinnedHits := satN 32 (q.pinnedHits + n) }

/-- A mark of RATIO_SAT (R239). -/
def markRatio (s : State) (slot t : Nat) (mark : Bool) : State :=
  if mark then raise (bump s ARRAY_Q_CLAMPS.RATIO_SAT 1) ARRAY_Q_EVENTS.RATIO_SAT (tensorArg slot t) else s

/-! ## Statistics and windows (R240 to R246) -/

/-- The statistics of a batch (R240). -/
structure Stats where
  hi : Int
  lo : Int
  hiO : Int
  loO : Int
  sat : Nat
  satO : Nat
  elements : Nat
  sse : Nat
  deriving DecidableEq, Repr

/-- amp of the U8 branch of R242. -/
def ampU8 (zo : Nat) (rectified : Bool) (hi lo : Int) : Nat :=
  let up := if zo < 255 then ((max hi 0).toNat + 254 - zo) / (255 - zo) else 0
  let dn := if 0 < zo && !rectified then ((max (-lo) 0).toNat + zo - 1) / zo else 0
  max up dn

/-- amp of the S16 branch. -/
def ampS16 (hi lo : Int) : Nat := ((max (max hi (-lo)) 0).toNat + 32766) / 32767

/-- The scale that an amplitude needs, before MIN_SCALE (R242). -/
def ampScale (amp sIn f : Nat) : Nat := scaleUp (amp * scaleMant sIn) ((scaleExp sIn : Int) - 144 - f)

/-- The needed scale of an amplitude, and whether its range is zero (R242). -/
def neededScale (amp sIn f minScale : Nat) : Nat × Bool :=
  if amp == 0 then (minScale, true) else (scaleMax (ampScale amp sIn f) minScale, false)

/-- The S16 scale of a second run (R247 step 1). -/
def wideScale (o : OpRec) (st : Stats) (sIn : Nat) : Nat :=
  ampScale (max 1 (ampS16 st.hi (if o.rectified then 0 else st.lo))) sIn o.f

/-- The misfit test of R246. -/
def misfits (d : TensorDesc) (st : Stats) (used : Nat) : Bool :=
  let satFail := decide (d.satPpm * st.elements < st.sat * 1000000)
  let lhs := st.sse * scaleMant used ^ 2
  let rhs := d.mseMax * st.elements * scaleMant d.calScale ^ 2
  let e : Int := 2 * ((scaleExp used : Int) - scaleExp d.calScale)
  let errFail := d.mseMax != 0xFFFFFFFF &&
    (if 0 ≤ e then decide (rhs < lhs * 2 ^ e.toNat) else decide (rhs * 2 ^ (-e).toNat < lhs))
  satFail || errFail

/-- push of R243 for the main window. -/
def QTensor.push (q : QTensor) (k need : Nat) (misfit : Bool) : QTensor :=
  let w := (if misfit then [] else q.win) ++ [need]
  let w := w.drop (w.length - k)
  { q with win := w, mode := if w.length == k then 2 else if misfit then 1 else q.mode }

/-- push of R243 for the outlier window. -/
def QTensor.pushOut (q : QTensor) (k need : Nat) : QTensor :=
  let w := q.outWin ++ [need]
  let w := w.drop (w.length - k)
  { q with outWin := w, outRun := q.outRun || w.length == k }

/-- A constant range is counted and told (R242). -/
def markConst (s : State) (slot t : Nat) (mark : Bool) : State :=
  if mark then raise (bump s ARRAY_Q_CLAMPS.CONST 1) ARRAY_Q_EVENTS.CONST_RANGE (tensorArg slot t) else s

/-- The statistics of a batch are delivered for tensor t of a generation: the misfit test, the windows and the counts
(R240 to R247), and whether the batch misfits. -/
def deliverStats (s : State) (slot : Nat) (g : Gen) (t : Nat) (o : OpRec) (batch sIn used : Nat) (st : Stats) :
    State × Bool :=
  let d := tensorDesc g.model t
  let misfit := d.watch && misfits d st used
  let amp := if o.fmtOut == 0 then ampU8 o.zo o.rectified st.hi st.lo else ampS16 st.hi st.lo
  let need := neededScale amp sIn o.f d.minScale
  let needO := neededScale (ampS16 st.hiO st.loO) sIn o.f d.minScale
  let outl := !d.outCh.isEmpty
  let s := modQ s slot g.number t fun q =>
    let q := if d.fixed then q else q.push d.k need.1 misfit
    let q := if outl then q.pushOut d.k needO.1 else q
    { q with
      hasStats := true
      lastBatch := batch
      sat := st.sat
      elements := st.elements
      sse := st.sse
      misfits := satN 32 (q.misfits + b2n misfit)
      constRange := need.2
      outConst := outl && needO.2
      misfit := misfit }
  let s := markConst (markConst s slot t need.2) slot t (outl && needO.2)
  let s := bump s ARRAY_Q_SAT_TOTAL.COUNT (st.sat + st.satO)
  if misfit then
    let s := bump (bump s ARRAY_Q_MISFITS.MISFITS 1) ARRAY_Q_MISFITS.RERUNS 1
    (raise s ARRAY_Q_EVENTS.MISFIT (tensorArg slot t), true)
  else (s, false)

/-! ## Software bounds and pins (R252, R253) -/

/-- RESULT of a write of ARRAY_Q_CONTROL (R253 steps 1 and 2). -/
def controlResult (s : State) (c : QCommand) : Nat :=
  if 3 ≤ c.op then 2
  else if c.op != 0 && scaleMant c.lo == 0 then 3
  else if c.op == 2 && (scaleMant c.hi == 0 || decide (scaleValue c.hi < scaleValue c.lo)) then 3
  else if 64 ≤ (s.quant.staged.filter fun x => !(x.slot == c.slot && x.tensor == c.tensor && x.outlier == c.outlier)).length
    then 4
  else 1

/-- STAGED follows the staged commands. -/
def showStagedQ (s : State) : State := wr s ARRAY_Q_CONTROL_STATUS.STAGED s.quant.staged.length

/-- A command is staged or refused (R253); its `fromBatch` is the beat of its write until it is applied. -/
def stageScale (s : State) (c : QCommand) : State :=
  let r := controlResult s c
  let s := wr s ARRAY_Q_CONTROL_STATUS.RESULT r
  if r != 1 then s
  else showStagedQ { s with quant.staged :=
    (s.quant.staged.filter fun x => !(x.slot == c.slot && x.tensor == c.tensor && x.outlier == c.outlier)) ++ [c] }

/-- A write of ARRAY_Q_CONTROL (R252, R259). -/
def writeQControl (s : State) (w : Nat) : State :=
  stageScale (writeFields s ARRAY_Q_CONTROL.SLOT.addr w)
    ⟨fld w 63 60, fld w 59 52, bit w 49, fld w 51 50, fld w 47 24, fld w 23 0, batchNow s⟩

/-- The word of a write of ARRAY_Q_CONTROL. -/
def qControlWord (slot tensor op : Nat) (outlier : Bool) (lo hi : Nat) : Nat :=
  pack [(4, slot), (8, tensor), (2, op), (1, b2n outlier), (1, 0), (24, lo), (24, hi)]

/-- Q_RELEASE: an ARRAY_Q_CONTROL write with OP RELEASE (R252). -/
def execQRelease (slot tensor : Nat) (outlier : Bool) (lo hi : Nat) (s : State) : Host.Outcome State Fault Refusal :=
  .next (writeQControl s (qControlWord slot tensor 0 outlier lo hi))

/-- Q_PIN: an ARRAY_Q_CONTROL write with OP PIN (R252). -/
def execQPin (slot tensor : Nat) (outlier : Bool) (lo hi : Nat) (s : State) : Host.Outcome State Fault Refusal :=
  .next (writeQControl s (qControlWord slot tensor 1 outlier lo hi))

/-- Q_BOUND: an ARRAY_Q_CONTROL write with OP BOUND (R252). -/
def execQBound (slot tensor : Nat) (outlier : Bool) (lo hi : Nat) (s : State) : Host.Outcome State Fault Refusal :=
  .next (writeQControl s (qControlWord slot tensor 2 outlier lo hi))

/-- The generation in force has the tensor, and a command may govern it (R253 step 5). -/
def governable (s : State) (c : QCommand) : Bool :=
  match (s.slots.getD c.slot SlotSt.reset).active with
  | none => false
  | some g => match g.model.tensors[c.tensor]? with
    | none => false
    | some d => !d.fixed && (!c.outlier || !d.outCh.isEmpty)

/-- A staged command is applied at the boundary of the current beat, or discarded (R253 steps 5 and 6). -/
def applyScale (s : State) (c : QCommand) : State :=
  if governable s c then
    let s := { s with quant.force := s.quant.force ++ [{ c with fromBatch := batchNow s }] }
    raise (bump s ARRAY_Q_CONTROL_STATUS.APPLIED 1) ARRAY_Q_EVENTS.CONTROL_APPLIED (tensorArg c.slot c.tensor)
  else
    raise (bump s ARRAY_Q_CONTROL_STATUS.DISCARDED 1) ARRAY_Q_EVENTS.CONTROL_DISCARDED (tensorArg c.slot c.tensor)

/-- A swap at the current boundary clears the slot's commands for its batch and later ones (R253 step 4). -/
def clearScaleCommands (s : State) (slot : Nat) : State :=
  let rel := (s.quant.force.filter fun c => c.slot == slot).map fun c => { c with op := 0, fromBatch := batchNow s }
  { s with quant.force := s.quant.force ++ rel }

/-- Q_COMMANDS_APPLY: at a round boundary the commands staged before the beat before it are applied (R253 step 3), once the swaps of
that boundary have been (step 4), unless a warm restart begins there (R492). -/
def execQCommandsApply (s : State) : Host.Outcome State Fault Refusal :=
  if !atRound s || s.slots.any (swapDue s) || restartPrevails s then .next s
  else
    let due (c : QCommand) : Bool := decide (c.fromBatch + 1 < batchNow s)
    let now := s.quant.staged.filter due
    let s := { s with quant.staged := s.quant.staged.filter fun c => !due c }
    .next (now.foldl applyScale (showStagedQ s))

/-! ## The latched state (R258) -/

/-- SW code of a command in force. -/
def commandCode : Option QCommand → Nat
  | none => 0
  | some c => c.op

/-- The latched registers of a tensor. -/
def latchTensor (s : State) (slot t : Nat) (d : TensorDesc) (q : QTensor) : State :=
  let b := if q.hasStats then q.lastBatch + 1 else batchNow s
  let x := decideScale s slot t b d q
  [ (ARRAY_Q_SCALES.SCALE, x.1), (ARRAY_Q_SCALES.OSCALE, x.2.1),
    (ARRAY_Q_STATE.EXISTS, 1), (ARRAY_Q_STATE.MODE, if d.fixed then 3 else q.mode),
    (ARRAY_Q_STATE.FILL, q.win.length),
    (ARRAY_Q_STATE.SW, commandCode (commandFor s slot t false b)),
    (ARRAY_Q_STATE.SW_OUT, commandCode (commandFor s slot t true b)),
    (ARRAY_Q_STATE.PINNED_HIT, b2n q.pinnedHit), (ARRAY_Q_STATE.CONST, b2n q.constRange),
    (ARRAY_Q_STATE.OUT_CONST, b2n q.outConst), (ARRAY_Q_STATE.MISFIT, b2n q.misfit),
    (ARRAY_Q_LAST_SAT.SAT, q.sat), (ARRAY_Q_LAST_SAT.ELEMENTS, q.elements), (ARRAY_Q_LAST_SSE.SSE, q.sse),
    (ARRAY_Q_LAST_BATCH.BATCH, q.lastBatch), (ARRAY_Q_TENSOR_COUNTS.MISFITS, q.misfits),
    (ARRAY_Q_TENSOR_COUNTS.PINNED_HITS, q.pinnedHits) ].foldl (fun s f => wr s f.1 f.2) s

/-- The latched registers of a tensor that does not exist: every field reads 0. -/
def latchNone (s : State) : State :=
  [ARRAY_Q_SCALES.SCALE, ARRAY_Q_SCALES.OSCALE, ARRAY_Q_STATE.EXISTS, ARRAY_Q_STATE.MODE, ARRAY_Q_STATE.FILL,
   ARRAY_Q_STATE.SW, ARRAY_Q_STATE.SW_OUT, ARRAY_Q_STATE.PINNED_HIT, ARRAY_Q_STATE.CONST, ARRAY_Q_STATE.OUT_CONST,
   ARRAY_Q_STATE.MISFIT, ARRAY_Q_LAST_SAT.SAT, ARRAY_Q_LAST_SAT.ELEMENTS, ARRAY_Q_LAST_SSE.SSE, ARRAY_Q_LAST_BATCH.BATCH,
   ARRAY_Q_TENSOR_COUNTS.MISFITS, ARRAY_Q_TENSOR_COUNTS.PINNED_HITS].foldl (fun s f => wr s f 0) s

/-- A write of ARRAY_Q_SELECT latches the selected tensor (R258). -/
def selectTensor (s : State) (slot t : Nat) : State :=
  let s := wr (wr s ARRAY_Q_SELECT.SLOT slot) ARRAY_Q_SELECT.TENSOR t
  match (s.slots.getD (slot % 16) SlotSt.reset).active with
  | none => latchNone s
  | some g => match g.model.tensors[t % 256]? with
    | none => latchNone s
    | some d => latchTensor s (slot % 16) (t % 256) d (g.q (t % 256))

/-- ARRAY_Q_SELECT: a write of the register of that name (R258). -/
def execArrayQSelect (slot tensor : Nat) (s : State) : Host.Outcome State Fault Refusal := .next (selectTensor s slot tensor)

end Sys2Proof.Machine
end

