-- ==== Sys2Proof/Machine/Operands.lean ====
section
/-! DEFINITION. The forms in which commands carry their operands: Ethernet frames, Keafen bundles and head records, and the
layouts of table entries (R90 to R100, R159 to R162). -/

namespace Sys2Proof.Machine

/-! ## Ethernet frames (R90) -/

/-- A frame without its frame check sequence: whether it is tagged, its EtherType and what follows. -/
structure Frame where
  tagged : Bool
  etherType : Nat
  body : Bytes
  deriving DecidableEq, Repr

/-- A frame taken apart; at most one IEEE 802.1Q tag is looked for (R90). -/
def parseFrame (f : Bytes) : Frame :=
  if beAt f 12 2 == 0x8100 && decide (16 ≤ f.length) then ⟨true, beAt f 16 2, f.drop 18⟩
  else ⟨false, beAt f 12 2, f.drop 14⟩

/-! ## Head bundles (R91 to R100) -/

/-- A head record as the port delivers it. -/
structure HeadRecord where
  flowId : Nat
  endpointId : Nat
  ingress : Nat
  hint : Nat
  packetLength : Nat
  switchTs : Nat
  cookie : Nat
  nsGood : Bool                    -- the timestamp's nanoseconds are below 1,000,000,000 (R92 cause 5)
  bytes : Bytes                    -- the packet head
  deriving DecidableEq, Repr

/-- A Keafen bundle. -/
structure Bundle where
  version : Nat
  kind : Nat
  count : Nat
  units : Nat
  port : Nat
  sequence : Nat
  records : List HeadRecord
  deriving DecidableEq, Repr

/-- A version 2 head record (R95). -/
def record2 (r : Bytes) : HeadRecord :=
  let m := beAt r 0 32
  { flowId := fld m 255 232
    endpointId := fld m 231 216
    ingress := fld m 215 206
    hint := fld m 205 200
    packetLength := fld m 199 184
    switchTs := fld m 183 120
    cookie := fld m 119 88
    nsGood := decide (fld m 149 120 < 1000000000)
    bytes := r.drop 32 }

/-- SWITCH_TS of a version 1 record, from TS_NS and the dial (R100). -/
def v1SwitchTs (dial tsNs : Nat) : Nat :=
  let d : Int := (tsNs : Int) - dial % 1000000000
  let sec : Int := dial / 1000000000
  let sec := if d > 500000000 then sec - 1 else if d < -500000000 then sec + 1 else sec
  wrapU 34 sec * 2 ^ 30 + tsNs

/-- A version 1 head record (R99). -/
def record1 (dial partition : Nat) (r : Bytes) : HeadRecord :=
  let m := beAt r 0 32
  let ts := fld m 189 158
  { flowId := fld m 255 232
    endpointId := fld m 231 216
    ingress := fld m 215 206
    hint := partition
    packetLength := fld m 205 190
    switchTs := v1SwitchTs dial ts
    cookie := fld m 157 126
    nsGood := decide (ts < 1000000000)
    bytes := r.drop 32 }

/-- A bundle's header and records (R91, R98); `v1` says which version the port speaks, `dial` is the dial time and
`partition` the hint of version 1 heads. -/
def parseBundle (v1 : Bool) (dial port partition : Nat) (b : Bytes) : Bundle :=
  let h := beAt b 0 32
  let count := fld h 239 232
  let units := if v1 then 4 else fld h 231 228
  let recs := (chunks (32 + 32 * units) (b.drop 32)).take count
  { version := fld h 255 248
    kind := fld h 247 240
    count := count
    units := units
    port := if v1 then port else fld h 227 224
    sequence := fld h 223 192
    records := recs.map (if v1 then record1 dial partition else record2) }

/-- Causes of a discard, in the order of R92. -/
inductive Discard where
  | fcs | etherType | header | length
  deriving DecidableEq, Repr

/-- The first cause of R92 that applies to a received head bundle. A frame too short for a header fails in the header
(log 18). -/
def discardCause (etherType : Nat) (acceptVlan v1 fcsGood : Bool) (uncorrectable port : Nat) (f : Bytes) (fr : Frame)
    (b : Bundle) : Option Discard :=
  if !fcsGood || uncorrectable != 0 then some .fcs
  else if fr.etherType != etherType || decide (etherType < 0x0600) || (fr.tagged && !acceptVlan) then some .etherType
  else if decide (fr.body.length < 32) || b.version != (if v1 then 1 else 2) || b.kind != 1 || b.port != port ||
      b.count == 0 || decide (56 < b.count) || b.units == 0 || decide (8 < b.units) then some .header
  else if decide (9216 < f.length + 4) || fr.body.length != 32 + b.count * (32 + 32 * b.units) then some .length
  else if b.records.any fun r => !r.nsGood then some .header
  else none

/-! ## Table entries (R159 to R162) -/

/-- A cold slot descriptor. -/
def SlotDesc.fresh : SlotDesc := ⟨true, 0, 0, 0⟩

/-- An entry in which nothing is set. -/
def Entry.zero : Entry where
  valid := false
  static := false
  lock := false
  hit := false
  age := false
  learned := false
  rev := 0
  id := 0
  ingress := 0
  partition := 0
  lastTs := 0
  packets := 0
  key := 0
  descs := []
  software := 0

/-- The six flag bits of R159 and R161. -/
def Entry.flags (e : Entry) : List (Nat × Nat) :=
  [(1, b2n e.valid), (1, b2n e.static), (1, b2n e.lock), (1, b2n e.hit), (1, b2n e.age), (1, b2n e.learned)]

/-- A slot descriptor in 128 bits (R160). -/
def SlotDesc.word (d : SlotDesc) : Nat :=
  pack [(1, b2n d.cold), (15, 0), (16, d.tag), (8, d.seen), (24, 0), (64, d.lastBatch)]

/-- A slot descriptor from 128 bits. -/
def SlotDesc.ofWord (w : Nat) : SlotDesc := ⟨bit w 127, fld w 111 96, fld w 95 88, fld w 63 0⟩

/-- The descriptor of a slot. -/
def Entry.desc (e : Entry) (slot : Nat) : SlotDesc := Map.getD e.descs slot SlotDesc.fresh

/-- The entry with the descriptor of a slot changed. -/
def Entry.setDesc (e : Entry) (slot : Nat) (d : SlotDesc) : Entry :=
  { e with descs := Map.put e.descs slot d SlotDesc.fresh }

/-- A flow base record in 512 bytes (R159). -/
def flowBytes (e : Entry) : Bytes :=
  natBe 64 (pack (e.flags ++ [(8, e.rev), (24, e.id), (10, e.ingress), (6, e.partition), (64, e.lastTs), (32, e.packets),
    (26, 0), (320, e.key), (16, 0)])) ++
  ((List.range 16).flatMap fun s => natBe 16 (e.desc s).word) ++ natBe 192 e.software

/-- A flow base record from 512 bytes. -/
def flowOfBytes (b : Bytes) : Entry :=
  let w := beAt b 0 64
  { valid := bit w 511
    static := bit w 510
    lock := bit w 509
    hit := bit w 508
    age := bit w 507
    learned := bit w 506
    rev := fld w 505 498
    id := fld w 497 474
    ingress := fld w 473 464
    partition := fld w 463 458
    lastTs := fld w 457 394
    packets := fld w 393 362
    key := fld w 335 24 * 2 ^ 8
    descs := (List.range 16).foldl (fun m s =>
      Map.put m s (SlotDesc.ofWord (beAt b (64 + 16 * s) 16)) SlotDesc.fresh) []
    software := beAt b 320 192 }

/-- An endpoint entry in 64 bytes (R161). -/
def endpointBytes (e : Entry) : Bytes :=
  natBe 64 (pack (e.flags ++ [(8, e.rev), (16, e.id), (10, e.ingress), (6, e.partition), (64, e.lastTs), (32, e.packets),
    (18, 0), (144, e.key / 2 ^ 176), (208, e.software)]))

/-- An endpoint entry from 64 bytes. -/
def endpointOfBytes (b : Bytes) : Entry :=
  let w := beAt b 0 64
  { valid := bit w 511
    static := bit w 510
    lock := bit w 509
    hit := bit w 508
    age := bit w 507
    learned := bit w 506
    rev := fld w 505 498
    id := fld w 497 482
    ingress := fld w 481 472
    partition := fld w 471 466
    lastTs := fld w 465 402
    packets := fld w 401 370
    key := fld w 351 208 * 2 ^ 176
    descs := []
    software := fld w 207 0 }

end Sys2Proof.Machine
end

