-- ==== Sys2Proof/Machine/Front.lean ====
section
/-! DEFINITION. The front stage: parser, partitions, classifier, counters, meters and features, and the commands that change
its tables (R120 to R152). -/

namespace Sys2Proof.Machine

/-! ## The parse graph (R122 to R125) -/

/-- The field file: value and extraction width of each present field (R120). -/
abbrev FieldFile := Map (Nat × Nat)

/-- A walk under way. -/
structure Walk where
  cur : Nat
  st : Nat
  fields : FieldFile
  short : Bool
  truncated : Bool
  deriving DecidableEq, Repr

/-- Bits `first` to `first + w − 1` of a head, the first most significant. -/
def headBits (head : Bytes) (first w : Nat) : Nat := beNat head / 2 ^ (8 * head.length - first - w) % 2 ^ w

/-- A byte of a head. -/
def headByte (head : Bytes) (i : Nat) : Nat := (head.getD i 0).toNat

/-- One extraction of R124; it leaves the field as it was where it reaches beyond the present length. -/
def extract (head : Bytes) (p cur : Nat) (fs : FieldFile) (op : Nat × Nat × Nat) : FieldFile :=
  let first := 8 * cur + op.2.1
  if (first + op.2.2 - 1) / 8 < p then Map.set fs op.1 (headBits head first op.2.2, op.2.2) else fs

/-- An empty parse state: it ends the walk. -/
def ParseState.zero : ParseState := ⟨0, 0, 0, 0, 0, false, 0, 0, 0, 0, []⟩

/-- The first transition of a list that matches the masked window: next state and end (R123, R124). -/
def pickTransition (f : FrontSt) (sel : Nat) (dflt : Nat × Bool) : List Nat → Nat × Bool
  | [] => dflt
  | t :: ts =>
    let w := Map.getD f.trans t 0
    if (sel &&& fld w 47 32) == fld w 63 48 then (fld w 31 24, bit w 23) else pickTransition f sel dflt ts

/-- The walk of R124; `fuel` is the number of states that it may still visit. -/
def walk (f : FrontSt) (head : Bytes) (p : Nat) : Nat → Walk → Walk
  | 0, w => { w with truncated := true }
  | fuel + 1, w =>
    let s := f.parse.getD w.st ParseState.zero
    let w := { w with fields := s.ops.foldl (extract head p w.cur) w.fields }
    if s.selMask == 0 then w
    else if p ≤ w.cur + s.selOffset + 1 then { w with short := true }
    else
      let win := headByte head (w.cur + s.selOffset) * 256 + headByte head (w.cur + s.selOffset + 1)
      let sel := win &&& s.selMask
      let n := pickTransition f sel (s.defaultNext, s.defaultEnd) ((List.range s.transCount).map (· + s.transBase))
      let cur := w.cur + s.advConst + (sel / 2 ^ s.advShift &&& s.advMask) * s.advUnit
      if n.2 || decide (p ≤ cur) then { w with cur := cur } else walk f head p fuel { w with cur := cur, st := n.1 }

/-- The walk over a head of present length p (R124, R125). -/
def parseHead (f : FrontSt) (head : Bytes) (p : Nat) : Walk := walk f head p 24 ⟨0, 0, [], false, false⟩

/-! ## Sources (R121) -/

/-- A source value: its bits, its width and its format. -/
structure Source where
  raw : Nat
  width : Nat
  format : Nat
  deriving DecidableEq, Repr

/-- Where the sources of a head come from. -/
structure Origin where
  fields : FieldFile
  flowId : Nat
  endpointId : Nat
  ingress : Nat
  packetLength : Nat
  partition : Nat
  deriving DecidableEq, Repr

/-- The value of a source; none where it is absent (R121). -/
def source (f : FrontSt) (o : Origin) (n : Nat) : Option Source :=
  if n < 64 then (Map.get? o.fields n).map fun v => ⟨v.1, v.2, f.formats.getD n 0⟩
  else match n with
    | 64 => some ⟨o.flowId, 24, 0⟩
    | 65 => some ⟨o.endpointId, 16, 0⟩
    | 66 => some ⟨o.ingress, 10, 0⟩
    | 67 => some ⟨o.packetLength, 16, 0⟩
    | 68 => some ⟨o.partition, 6, 0⟩
    | _ => none

/-- The integer that a source stands for: two's complement for SIGNED, the bits otherwise. -/
def Source.value (v : Source) : Int := if v.format == 1 then sext v.width v.raw else v.raw

/-- A NaN of binary16 or binary32. -/
def Source.isNaN (v : Source) : Bool :=
  (v.format == 2 && fld v.raw 14 10 == 31 && fld v.raw 9 0 != 0) ||
    (v.format == 3 && fld v.raw 30 23 == 255 && fld v.raw 22 0 != 0)

/-- The ordered value of R142. -/
def Source.ordered (v : Source) : Int :=
  match v.format with
  | 2 => if bit v.raw 15 then -(fld v.raw 14 0 : Int) else fld v.raw 14 0
  | 3 => if bit v.raw 31 then -(fld v.raw 30 0 : Int) else fld v.raw 30 0
  | _ => v.value

/-! ## Partitions (R127) -/

/-- The value of a FRONT field in force for the current beat (R127, R151): a write of this beat applies from the next. -/
def inForce (s : State) (f : Field) : Nat := Map.getD s.front.partNext f.key (rd s f)

/-- A partition is in use. -/
def partitionOn (s : State) (n : Nat) : Bool := n == 0 || inForce s (FRONT_PART_A.ENABLE n) == 1

/-- A partition is privileged (R128). -/
def privileged (s : State) (n : Nat) : Bool := n == 0 || rdB s (FRONT_PART_A.PRIVILEGED n)

/-- A code of R107, or 0x00. -/
def actionCode (a : Nat) : Nat := if a ≤ 4 then a else 0

/-! ## The classifier (R129 to R131) -/

/-- A key of 512 bits from a template (R129). -/
def buildKey (f : FrontSt) (o : Origin) (template : List Nat) : Nat :=
  (template.zipIdx.foldl (fun k sg =>
    let w := fld sg.1 17 10
    if w == 0 then k
    else match source f o (fld sg.1 31 25) with
      | none => k
      | some v => k + 2 ^ (505 - sg.2) + v.raw / 2 ^ fld sg.1 24 18 % 2 ^ w * 2 ^ fld sg.1 9 1) 0) + o.partition * 2 ^ 506

/-- PRIORITY and VALID of a rule. -/
def Rule.priority (r : Rule) : Nat := fld r.result 127 112
def Rule.valid (r : Rule) : Bool := bit r.result 35

/-- A rule matches a key (R131). -/
def Rule.hits (r : Rule) (key : Nat) : Bool := r.valid && (key &&& r.mask) == (r.value &&& r.mask)

/-- The rule of a head: of the matching ones the highest priority, then the lowest index (R131). -/
def classify (rules : Map Rule) (key : Nat) : Option Rule :=
  rules.foldl (fun best r =>
    if !r.2.hits key then best
    else match best with
      | none => some r.2
      | some b => if b.priority < r.2.priority then some r.2 else best) none

/-! ## Counters and meters (R135 to R138) -/

/-- A counter raised by one head (R135). -/
def countHead (m : Map (Nat × Nat)) (i len : Nat) : Map (Nat × Nat) :=
  Map.upd m i (0, 0) fun c => ((c.1 + 1) % 2 ^ 64, (c.2 + len) % 2 ^ 64)

/-- One use of a meter: its buckets after, and the colour code (R137). -/
def meterHead (m : Meter) (b len : Nat) : Meter × Nat :=
  let e := b - m.last
  let cir := fld m.config 255 224
  let pir := fld m.config 223 192
  let tc := min (fld m.config 191 160 * 65536) (m.tc + e * cir)
  let tp := min (fld m.config 159 128 * 65536) (m.tp + e * pir)
  let need := len * 65536
  if tp < need then ({ m with tc := tc, tp := tp, last := b }, 3)
  else if tc < need then ({ m with tc := tc, tp := tp - need, last := b }, 2)
  else ({ m with tc := tc - need, tp := tp - need, last := b }, 1)

/-- A meter with both buckets full (R137). -/
def Meter.full (config b : Nat) : Meter := ⟨config, fld config 191 160 * 65536, fld config 159 128 * 65536, b⟩

/-- The action code that a colour puts in place of the rule's (R138). -/
def Meter.override (m : Meter) (colour : Nat) : Option Nat :=
  let a := if colour == 2 then fld m.config 127 120 else if colour == 3 then fld m.config 119 112 else 0xFF
  if a == 0xFF then none else some a

/-! ## Features (R140 to R145) -/

/-- The index of CROSS and HASH from x. -/
def featIndex (d : FeatDef) (x : Nat) : Nat :=
  let h := (x ^^^ d.offset % 2 ^ 32) * d.mult % 2 ^ 32
  h * d.size / 2 ^ 32

/-- One definition that does not cross others, and whether it marks a fault (R143). -/
def evalBase (f : FrontSt) (o : Origin) (d : FeatDef) : Nat × Bool :=
  match source f o d.source with
  | none => (d.missing, false)
  | some v =>
    match d.kind with
    | 0 => (v.raw, false)
    | 1 =>
      if v.isNaN then (if d.nanValid then (d.nanCode, false) else (d.missing, true))
      else ((d.bounds.filter fun b => decide (b ≤ v.ordered)).length, false)
    | 2 =>
      let off := sext 64 d.offset
      let m := sext 32 d.mult
      ((satI ((d.zp : Int) + rheSh ((v.value - off) * m) d.shift) 0 255).toNat, false)
    | _ =>
      let x := wrapU 128 v.value
      (featIndex d (fld x 127 96 ^^^ fld x 95 64 ^^^ fld x 63 32 ^^^ fld x 31 0), false)

/-- A definition (R143): a CROSS takes the codes of the two it names. -/
def evalFeature (f : FrontSt) (o : Origin) (ds : List FeatDef) (d : FeatDef) : Nat × Bool :=
  if d.kind == 3 then
    let code (i : Nat) : Nat := match ds[i]? with
      | some e => (evalBase f o e).1
      | none => 0
    (featIndex d (code d.featA * 256 + code d.featB), false)
  else evalBase f o d

/-- The features of a head for every slot with an active generation: slot and outputs, and the slots that mark a fault
(R144, R145). -/
def features (s : State) (o : Origin) : Map (List Nat) × Nat :=
  s.slots.zipIdx.foldl (fun a sl =>
    match sl.1.active with
    | none => a
    | some g =>
      let out := g.model.feats.map (evalFeature s.front o g.model.feats)
      (Map.set a.1 sl.2 (out.map (·.1)), a.2 + (if out.any (·.2) then 2 ^ sl.2 else 0))) ([], 0)

/-! ## The front stage over one head -/

/-- A lasting error in a front table other than the rules gives the heads of this batch number the default action
(R149). -/
def tableLostAt (s : State) (b : Nat) : Bool := match s.front.tableLost with
  | some f => decide (f ≤ b)
  | none => false

/-- The partition of a head, with its count where the hint is not enabled (R127). The partition that the notice names is the hinted one
(R152; log 165: DESIGN CHOICE). -/
def assignPartition (s : State) (hint : Nat) : Nat × State :=
  if partitionOn s hint then (hint, s)
  else (0, raise (bump s FRONT_MISC.HINT_INVALID 1) FRONT_EVENTS.HINT_INVALID hint)

/-- The counts of a walk (R125). -/
def countWalk (s : State) (w : Walk) : State :=
  let s := if w.short then bump s FRONT_PARSE_SHORT.COUNT 1 else s
  if w.truncated then raise (bump s FRONT_PARSE_TRUNCATED.COUNT 1) FRONT_EVENTS.PARSE_TRUNCATED 0 else s

/-- The meter of a rule applied to a head: its colour and the replaced action (R136 to R138). -/
def applyMeter (s : State) (r : Rule) (b len : Nat) : State × Nat × Option Nat :=
  if !bit r.result 65 then (s, 0, none)
  else
    let i := fld r.result 64 49
    match Map.get? s.front.meters i with
    | none => (s, 0, none)
    | some m =>
      let x := meterHead m b len
      let s := { s with front.meters := Map.set s.front.meters i x.1 }
      let s := if x.2 == 3 then bump s FRONT_METER_RED.COUNT 1
        else if x.2 == 2 then bump s FRONT_METER_YELLOW.COUNT 1 else s
      (s, x.2, m.override x.2)

/-- What the classifier says of a head (R147): the rule's action, argument and FINAL after metering, colour and account. -/
structure ClassResult where
  hit : Bool
  final : Bool
  action : Nat
  arg : Nat
  colour : Nat
  account : Nat
  deriving DecidableEq, Repr

/-- The matched rule takes effect: count, meter and account (R135 to R138, R148). -/
def applyRule (s : State) (r : Option Rule) (part b len : Nat) : State × ClassResult :=
  let base := rd s (FRONT_PART_B.ACCOUNT_BASE part)
  match r with
  | none => (s, ⟨false, false, 0, 0, 0, base⟩)
  | some r =>
    let s := count (bump s FRONT_RULE_HITS.COUNT 1) 166 1
    let s := if bit r.result 86 then
        keyMemory { s with front.counters := countHead s.front.counters (fld r.result 85 66) len } 0 b (Config.transfers 6 16)
      else s
    let m := applyMeter s r b len
    (m.1, { hit := true
            final := bit r.result 87 || m.2.2.isSome
            action := m.2.2.getD (fld r.result 111 104)
            arg := fld r.result 103 88
            colour := m.2.1
            account := if bit r.result 48 then fld r.result 47 36 else base })

/-- The present length of a head (R97). -/
def presentLength (r : HeadRecord) (units : Nat) : Nat := min r.packetLength (32 * units)

/-- The front stage over an admitted head: the head with everything the front stage gives it, but for the lookups, and the
sources its keys are taken from. -/
def frontStage (s : State) (h : Head) (r : HeadRecord) (b : Nat) : State × Head × Origin :=
  let (part, s) := assignPartition s r.hint
  let w := parseHead s.front r.bytes (presentLength r h.units)
  let s := countWalk s w
  let o : Origin := ⟨w.fields, r.flowId, r.endpointId, r.ingress, r.packetLength, part⟩
  let template := s.front.templates.getD (inForce s (FRONT_PART_A.KEY_TEMPLATE part)) []
  let rule := classify s.front.rules (buildKey s.front o template)
  let (s, c) := applyRule s rule part b r.packetLength
  let fs := features s o
  let mask := inForce s (FRONT_PART_A.SLOT_MASK part)
  let fault := (fs.2 &&& mask) != 0
  let s := if fault then
      count (raise (bump s FRONT_FEATURE_FAULTS.COUNT 1) FRONT_EVENTS.FEATURE_FAULT 0) 167 1
    else s
  let s := if !c.hit || tableLostAt s b then bump s FRONT_DEFAULTS.COUNT 1 else s
  (s, { h with
        partition := part
        account := c.account
        ruleHit := c.hit
        final := c.final
        featureFault := fault
        faultSlots := fs.2
        colour := c.colour
        action := c.action
        arg := c.arg
        defAction := actionCode (inForce s (FRONT_PART_A.DEFAULT_ACTION part))
        defArg := inForce s (FRONT_PART_A.DEFAULT_MIRROR part) * 2 ^ 11 + inForce s (FRONT_PART_A.DEFAULT_EGRESS part)
        slotMask := mask
        feats := fs.1 }, o)

/-! ## Rule sets (R132, R133) -/

/-- The owning partition of a rule (R133). -/
def Rule.owner (r : Rule) : Nat := fld r.value 511 506

/-- The check of R133 that a valid rule fails first. -/
def ruleFailure (s : State) (r : Rule) : Option Nat :=
  let own := r.owner
  let base := rd s (FRONT_PART_B.ACCOUNT_BASE own)
  let span := max 1 (rd s (FRONT_PART_B.ACCOUNT_SPAN own))
  let acct := fld r.result 47 36
  if !r.valid then none
  else if (bit r.result 86 || bit r.result 65) && !privileged s own then some 2
  else if 4 < fld r.result 111 104 then some 3
  else if fld r.mask 511 506 != 63 then some 4
  else if bit r.result 48 && !privileged s own && (decide (acct < base) || decide (base + span ≤ acct)) then some 5
  else none

/-- The first failure in ascending rule index. -/
def firstFailure (s : State) : Map Rule → Option (Nat × Nat)
  | [] => none
  | (i, r) :: m => match ruleFailure s r with
    | some k => some (i, k)
    | none => firstFailure s m

/-- STAGED follows the staging set. -/
def showStaged (s : State) : State := wr s FRONT_RULE_STATUS.STAGED s.front.staging.length

/-- The staging set is checked (R133): it is refused, or waits for the next beat. -/
def checkCommit (s : State) : State :=
  let s := wr { s with front.held := false } FRONT_RULE_CTRL.COMMIT 0
  match firstFailure s s.front.staging with
  | some (i, k) =>
    raise (wr (wr s FRONT_RULE_STATUS.RESULT k) FRONT_RULE_STATUS.BAD_INDEX i) FRONT_EVENTS.RULE_REFUSED i
  | none =>
    let s := { s with
      front.committed := some s.front.staging
      front.commitBeat := batchNow s
      front.staging := [] }
    let s := showStaged (wrB (wr s FRONT_RULE_STATUS.RESULT 1) FRONT_RULE_STATUS.BUSY true)
    raise s FRONT_EVENTS.RULE_COMMITTED 0

/-- COMMIT is set: it is held while a committed set waits (R132). -/
def commitRules (s : State) : State :=
  if s.front.committed.isSome then wr { s with front.held := true } FRONT_RULE_CTRL.COMMIT 1 else checkCommit s

/-- DISCARD is set: the staging set is emptied (R132). -/
def discardRules (s : State) : State := showStaged (wr { s with front.staging := [] } FRONT_RULE_CTRL.DISCARD 0)

/-- A write of FRONT_RULE_CTRL; one that sets both bits is ignored (R132). -/
def writeRuleCtrl (s : State) (w : Nat) : State :=
  if bit w 0 && bit w 1 then s
  else if bit w 0 then commitRules s
  else if bit w 1 then discardRules s
  else s

/-- COMMIT: FRONT_RULE_CTRL.COMMIT is set (R132). -/
def execCommit (s : State) : Host.Outcome State Fault Refusal :=
  if pdOn s 5 then .next (commitRules s) else .next s

/-- DISCARD: FRONT_RULE_CTRL.DISCARD is set (R132). -/
def execDiscard (s : State) : Host.Outcome State Fault Refusal :=
  if pdOn s 5 then .next (discardRules s) else .next s

/-- The current beat began after a batch number, or there are no beats. -/
def laterBeat (s : State) (b : Nat) : Bool := !dialSet s || decide (b < batchNow s)

/-- RULE_SET_APPLY: at the start of the beat after its commit the set is applied whole; a held COMMIT is then checked
(R132). -/
def execRuleSetApply (s : State) : Host.Outcome State Fault Refusal :=
  match s.front.committed with
  | none => .next s
  | some set =>
    if !laterBeat s s.front.commitBeat then .next s
    else
      let rules := set.foldl (fun m r => if r.2.valid then Map.set m r.1 r.2 else Map.erase m r.1) s.front.rules
      let s := wrB { s with front.rules := rules, front.committed := none } FRONT_RULE_STATUS.BUSY false
      .next (if s.front.held then checkCommit s else s)

/-- The meter configurations written in earlier beats take effect, with both buckets full (R137). -/
def applyMeterConfigs (s : State) : State :=
  let due := s.front.meterNext.filter fun m => laterBeat s m.2.2
  { s with
    front.meters := due.foldl (fun m c => Map.set m c.1 (Meter.full c.2.1 (batchNow s))) s.front.meters
    front.meterNext := s.front.meterNext.filter fun m => !laterBeat s m.2.2 }

/-- METER_CONFIG_APPLY: the configurations written in earlier beats take effect (R137). -/
def execMeterConfigApply (s : State) : Host.Outcome State Fault Refusal := .next (applyMeterConfigs s)

/-- A meter configuration from its 32 bytes; reserved bits are ignored and read as zero (R13, R136). -/
def meterOfBytes (b : Bytes) : Nat := putFld (beAt b 0 32) 111 0 0

/-- A verdict map entry as it is kept; reserved bits, those of its two arguments among them, are ignored and read as zero (R13, R108,
R297). -/
def vmapOf (e : Nat) : Nat :=
  [(234, 232), (193, 192), (114, 114), (90, 90), (79, 0)].foldl (fun e b => putFld e b.1 b.2 0) e

/-- A meter configuration is refused (R136). -/
def meterRefused (config : Nat) : Bool :=
  let bad (a : Nat) : Bool := a != 0xFF && decide (4 < a)
  decide (fld config 223 192 < fld config 255 224) || fld config 191 160 == 0 || fld config 159 128 == 0 ||
    bad (fld config 127 120) || bad (fld config 119 112)

/-- A rule put into the staging set, unless it would be the 1,025th entry (R132). -/
def stageRule (s : State) (i : Nat) (r : Rule) : State × Bool :=
  if (Map.get? s.front.staging i).isNone && decide (1024 ≤ s.front.staging.length) then
    (wr s FRONT_RULE_STATUS.RESULT 6, false)
  else (showStaged { s with front.staging := Map.set s.front.staging i r }, true)

/-- A meter configuration accepted for meter i, to apply from the next beat, or refused (R136, R137). -/
def stageMeter (s : State) (i config : Nat) : State × Bool :=
  if meterRefused config then (s, false)
  else
    let s := applyMeterConfigs s
    ({ s with front.meterNext := Map.set s.front.meterNext i (config, batchNow s) }, true)

/-- An entry of the verdict map is refused (R298). -/
def vmapRefused (e : Nat) : Bool :=
  let bad (a : Nat) : Bool := a != 0xFF && decide (4 < a)
  decide (fld e 143 128 < fld e 159 144) || bad (fld e 127 120) || bad (fld e 103 96)

/-- An entry accepted for class i of the verdict map, to apply to beats that begin after the write, or refused (R298). -/
def stageVmap (s : State) (i entry : Nat) : State × Bool :=
  if vmapRefused entry then (s, false)
  else ({ s with front.vmapNext := Map.set s.front.vmapNext i entry }, true)

/-- A lasting error in a front table (R149): a rule is lost from the next beat; elsewhere every head of the next beat on
takes its default action. -/
def frontError (s : State) (loc : FaultLoc) : State :=
  match loc with
  | .frontRule i =>
    let s := { s with front.lostRules := s.front.lostRules ++ [i] }
    raise (bump s FRONT_MISC.LOST_RULES 1) FRONT_EVENTS.RULE_LOST i
  | .frontTable _ =>
    let s := if s.front.tableLost.isNone then { s with front.tableLost := some (batchNow s + 1) } else s
    raise (bump s FRONT_MISC.LOST_WORDS 1) FRONT_EVENTS.TABLE_LOST 0
  | _ => s

end Sys2Proof.Machine
end

