-- ==== Sys2Proof/WellFormed.lean ====
section
/-! DEFINITION. Which commands are well formed: every operand names something that the manual gives the device (R27, R41, R86,
R153, R189, R305, R358, R418, R438, R466). -/

namespace Sys2Proof

/-- The place of a failed check exists (R472). -/
def FaultLoc.wf : FaultLoc → Bool
  | .frontRule i => decide (i < 65536)
  | .frontTable _ => true
  | .endpointEntry i => decide (i < 65536)
  | .stashEntry t e => decide (t < 2) && decide (e < 64)
  | .queueItem q b k => decide (q < 262144) && decide (b < 4) && decide (k < 65536)
  | .flowRecord i => decide (i < 16777216)
  | .cuckooEntry t h i => decide (t < 2) && decide (h < 2) && decide (i < 16777216)
  | .freeWord t i => decide (t < 2) && decide (i < 16777216)
  | .stateBlock s i => decide (s < 16) && decide (i < 16777216)
  | .modelData s => decide (s < 16)
  | .otherHbm a => decide (a < 2 ^ 40)
  | .coreStore c => decide (c < 32)
  | .clusterBuffer c => decide (c < 32)
  | .dieLink d => decide (d < 4)
  | .verdictMap p => decide (p < 64)
  | .idleCuckoo t h i => decide (t < 2) && decide (h < 2) && decide (i < 16777216)
  | .coreTree s c => decide (s < 16) && decide (c < 32)
  | .correctedWord => true
  | .queuePointer q b p v => decide (q < 262144) && decide (b < 4) && decide (p < 4) && decide (v < 2 ^ 17)

/-- The place tells of no failed check (R194, R471). -/
def FaultLoc.unchecked : FaultLoc → Bool
  | .correctedWord => true
  | .queuePointer _ _ _ _ => true
  | _ => false

/-- A failed check in a place that exists, on an HBM channel that exists; what is no failed check is no lasting fault (R194, R471). -/
def FaultEv.wf (f : FaultEv) : Bool :=
  f.loc.wf && decide (f.channel < 256) && !(f.lasting && f.loc.unchecked)

/-- A frame at a port that exists. -/
def FrameIn.wf (f : FrameIn) : Bool := decide (f.port < 8) && f.faults.all FaultEv.wf

/-- A head port or a peer link that exists. -/
def PortRef.wf : PortRef → Bool
  | .head p => decide (p < 8)
  | .peer l => decide (l < 4)

/-- Lanes of a port or of a link (R86, R438). -/
def PortRef.lanes : PortRef → Nat
  | .head _ => 4
  | .peer _ => 2

/-- What a cold start presents: straps of two bits, an NVM size that R383 lists or an absent NVM, 16 KiB of capture, shape bits,
sensors of the five dies. -/
def BootInput.wf (b : BootInput) : Bool :=
  decide (b.straps < 4) && (!b.sfdpOk || b.sizeLog2 == 27 || b.sizeLog2 == 28 || b.sizeLog2 == 29) &&
    b.capture.length == 16384 && decide (b.selfTest < 2 ^ 376) && b.hot.all fun h => decide (h.1 < 5)

/-- The header fields of a crown request fit their widths (R418). -/
def Request.wf (r : Request) : Bool :=
  decide (r.session < 16) && decide (r.dest < 64) && decide (r.layer < 65536) && decide (r.operator < 65536) &&
    decide (r.tag < 2 ^ 32)

/-- One of the 128 counters of one of these domains (R27, R340). -/
def countOf (domains : List Nat) (c : Nat × Nat × Nat) : Bool := domains.contains c.1 && decide (c.2.1 < 128)

/-- A command is well formed. -/
def Instr.wf : Instr → Bool
  | .coldStart b => b.wf
  | .coldReset => true
  | .admissionBegin => true
  | .start => true
  | .warmRestart => true
  | .warmRestartBegin => true
  | .restartDrainEnd _ _ => true
  | .restartReady ms => decide (ms < 2 ^ 32)
  | .ppsEdge _ => true
  | .todMessage _ _ => true
  | .ppsTimeout _ => true
  | .ptpSync _ _ => true
  | .ptpFollowUp _ _ _ _ _ _ => true
  | .ptpDelayResp _ _ _ _ _ _ => true
  | .ptpAnnounce _ _ => true
  | .syncTimeout _ => true
  | .announceTimeout _ => true
  | .sourceChange => true
  | .fallbackReturn _ => true
  | .holdoverWarn _ => true
  | .holdoverExpired _ => true
  | .stepAdmissionStop => true
  | .stepTakeTime => true
  | .stepDone => true
  | .dialSecondBoundary => true
  | .beatStart => true
  | .roundBoundary => true
  | .shedDecision => true
  | .budgetHeld a => decide (a < 64)
  | .headBundle _ p _ _ _ fs also => decide (p < 8) && fs.all FaultEv.wf && also.all FrameIn.wf
  | .macControlFrame p => decide (p < 8)
  | .laneLockLost _ w l => w.wf && (match l with
    | some k => decide (k < w.lanes)
    | none => true)
  | .retrainDone _ w => w.wf
  | .retrainTimeout _ w => w.wf
  | .batchClose _ => true
  | .operationFetch _ s fs => decide (s < 16) && fs.all FaultEv.wf
  | .operationGather _ fs => fs.all FaultEv.wf
  | .barrier => true
  | .operationRetire fs => fs.all FaultEv.wf
  | .computeWindowEnd _ => true
  | .catchupEnd => true
  | .returnWindowStart _ fs => fs.all FaultEv.wf
  | .verdictTransmit _ p fs => decide (p < 8) && fs.all FaultEv.wf
  | .shedBundleTimeout _ p => decide (p < 8)
  | .commit => true
  | .discard => true
  | .ruleSetApply => true
  | .meterConfigApply => true
  | .cuckooInsert t fs => decide (t < 2) && fs.all FaultEv.wf
  | .rebuildStart t => decide (t < 2)
  | .rebuildPlace r => decide (r.table < 2) && r.faults.all FaultEv.wf
  | .rebuildDone t => decide (t < 2)
  | .rakeSweepStart t => decide (t < 2)
  | .rakeVisit t fs => decide (t < 2) && fs.all FaultEv.wf
  | .tableRead _ fs => fs.all FaultEv.wf
  | .tableWrite _ fs => fs.all FaultEv.wf
  | .tableInsert _ fs => fs.all FaultEv.wf
  | .tableDelete _ fs => fs.all FaultEv.wf
  | .tableLock _ fs => fs.all FaultEv.wf
  | .tableUnlock _ fs => fs.all FaultEv.wf
  | .tableReadState _ fs => fs.all FaultEv.wf
  | .tableWriteState _ fs => fs.all FaultEv.wf
  | .queueFlush q => decide (q < 262144)
  | .queueDescriptorWrite q w _ => decide (q < 262144) && decide (w < 8)
  | .itemTake q fs => decide (q < 262144) && fs.all FaultEv.wf
  | .qRelease s t _ _ _ => decide (s < 16) && decide (t < 256)
  | .qPin s t _ lo hi => decide (s < 16) && decide (t < 256) && decide (lo < 2 ^ 24) && decide (hi < 2 ^ 24)
  | .qBound s t _ lo hi => decide (s < 16) && decide (t < 256) && decide (lo < 2 ^ 24) && decide (hi < 2 ^ 24)
  | .qCommandsApply => true
  | .arrayQSelect s t => decide (s < 16) && decide (t < 256)
  | .stage s => decide (s < 16)
  | .stageComplete s => decide (s < 16)
  | .slotDiscard s => decide (s < 16)
  | .activate s => decide (s < 16)
  | .rollback s => decide (s < 16)
  | .release s => decide (s < 16)
  | .adaptStart s => decide (s < 16)
  | .adaptStop s => decide (s < 16)
  | .promote s => decide (s < 16)
  | .swap s => decide (s < 16)
  | .drainEnd s => decide (s < 16)
  | .candidateForm s => decide (s < 16)
  | .autoRelease s => decide (s < 16)
  | .adaptUnit s => decide (s < 16)
  | .pdSwitch => true
  | .domainReady d => decide (d < 20)
  | .periodEnd hub links arrays fabric memory =>
    hub.all (countOf [0, 1, 5, 18, 19]) && links.all (countOf [2, 3, 4]) && arrays.all (countOf [6, 7, 8, 9]) &&
      fabric.all (countOf [10, 11, 12, 13]) && memory.all (countOf [14, 15, 16, 17])
  | .telemetryRead => true
  | .telemetryResult e a b => decide (e < 8) && (match a with
    | some x => decide (x < 65536)
    | none => true) && (match b with
    | some x => decide (x < 65536)
    | none => true)
  | .droopStretchStart c => decide (c < 32)
  | .droopStretchEnd c _ => decide (c < 32)
  | .sensorRead d s _ _ => decide (d < 13) && decide (s < 64)
  | .thermalCheck => true
  | .trip d s => decide (d < 5) && decide (s < 64)
  | .slackPublish => true
  | .groupExchangeEval => true
  | .epochClose => true
  | .tallyClose => true
  | .sign => true
  | .signLate => true
  | .tallyCollected _ => true
  | .tallySelect a => decide (a < 4096)
  | .sessionOpen _ _ => true
  | .sessionClose x => decide (x < 16)
  | .badMessage x _ => decide (x < 16)
  | .identity r => r.wf
  | .regRead r a n => r.wf && decide (a < 2 ^ 40) && decide (n < 65536)
  | .regWrite r ps => r.wf && ps.all fun p => decide (p.1 < 2 ^ 40)
  | .dequeue r q n => r.wf && decide (q < 2 ^ 32) && decide (n < 65536)
  | .tallyRoot r q => r.wf && decide (q < 2 ^ 64)
  | .tallyLeaves r t f n q => r.wf && decide (t < 256) && decide (f < 65536) && decide (n < 65536) && decide (q < 2 ^ 64)
  | .tallyProof r t i q => r.wf && decide (t < 256) && decide (i < 65536) && decide (q < 2 ^ 64)
  | .attest r _ => r.wf
  | .jobPost r _ => r.wf
  | .jobAbort r j => r.wf && decide (j < 2 ^ 64)
  | .jobStatus r j => r.wf && decide (j < 2 ^ 64)
  | .jobStart q fs => decide (0x30000 ≤ q) && decide (q < 0x38000) && fs.all FaultEv.wf
  | .jobRetire _ => true
  | .ruleWrite _ => true
  | .ruleRead _ => true
  | .meterWrite _ => true
  | .meterRead _ => true
  | .counterRead _ => true
  | .vmapWrite _ => true
  | .vmapRead _ => true
  | .labelWrite _ => true
  | .modelLoad _ => true
  | .scheduleLoad _ => true
  | .capture _ => true
  | .captureForward q => decide (q < 262144)
  | .capturePush q _ => decide (q < 262144)
  | .crownCtrlWrite a _ => decide (a < 2 ^ 40)
  | .helloSend => true
  | .hello _ l _ => decide (l < 4)
  | .helloTimeout l => decide (l < 4)
  | .peerFrameError l _ => decide (l < 4)
  | .nak l _ => decide (l < 4)
  | .credit l _ => decide (l < 4)
  | .request l _ => decide (l < 4)
  | .response l _ => decide (l < 4)
  | .relayTimeout _ => true
  | .distStart => true
  | .distData l _ => decide (l < 4)
  | .distDone l _ => decide (l < 4)
  | .distRxTimeout s => decide (s < 16)
  | .distDoneTimeout => true
  | .slack l _ => decide (l < 4)
  | .eventSend _ => true
  | .event _ l _ => decide (l < 4)
  | .sampleStart => true
  | .sampleStop => true
  | .runBoundary => true
  | .snapshot => true
  | .counterSample => true
  | .traceEnable _ => true
  | .traceDrain => true
  | .mark _ => true
  | .hang d _ => decide (1 ≤ d) && decide (d ≤ 5)
  | .dumpDone _ => true
  | .logbookInterval => true
  | .writeNow => true
  | .clearFailed => true
  | .logbookWrite _ _ => true
  | .bmiOffsetWrite _ => true
  | .bmiRead _ => true
  | .bypass => true
  | .idcode => true
  | .samplePreload => true
  | .extest => true
  | .extestPulse => true
  | .extestTrain => true
  | .dialNowSecRead => true
  | .headportPortCfgWrite p _ => decide (p < 8)
  | .registerWrite a _ => decide (a < 2 ^ 40)
  | .delayReq _ => true
  | .blockLockGained w n => w.wf && decide (n < 2 ^ w.lanes)
  | .linkChanged _ => true
  | .routerAdvertisement r n => decide (r < 2 ^ 128) && decide (n < 65536)
  | .addressResolution v t s m _ =>
    let n := if v then 128 else 32
    decide (t < 2 ^ n) && decide (s < 2 ^ n) && decide (m < 2 ^ 48)
  | .echoRequest v a _ => decide (a < 2 ^ (if v then 128 else 32))
  | .powerOnSecond => true
  | .trstN => true

end Sys2Proof
end

