-- ==== Sys2Proof/Machine/Tables.lean ====
section
/-! DEFINITION. The flow and endpoint tables: lookup, learning, insertion, rebuild, rake, parity and the DMA operations
(R153 to R188). Table 0 is the flow table, table 1 the endpoint table. -/

namespace Sys2Proof.Machine

/-! ## The two tables -/

/-- A table of the state. -/
def getT (s : State) (t : Nat) : TableSt := if t == 0 then s.flow else s.endpoint

/-- A table changed. -/
def modT (s : State) (t : Nat) (f : TableSt → TableSt) : State :=
  if t == 0 then { s with flow := f s.flow } else { s with endpoint := f s.endpoint }

/-- Compatibility organisation (R153). -/
def compat (s : State) (t : Nat) : Bool := rdB s (if t == 0 then TABLE_CTRL.FLOW_ORG else TABLE_CTRL.EP_ORG)

/-- Move-update mode (R166). -/
def moveUpdate (s : State) (t : Nat) : Bool := rdB s (if t == 0 then TABLE_CTRL.FLOW_LEARN else TABLE_CTRL.EP_LEARN)

/-- Entries of a table (R153). -/
def tableSize (t : Nat) : Nat := if t == 0 then 16777216 else 65536

/-- w of R157. -/
def hashBits (t : Nat) : Nat := if t == 0 then 24 else 16

/-- The memory of a table is powered: hub SRAM and, for the flow table, the HBM (R154, R333). -/
def tableOn (s : State) (t : Nat) : Bool := hubOn s && (t != 0 || hbmOn s)

/-- Transfers of a table access as keys of a holder; the endpoint table lies in hub SRAM (R154, R363). -/
def keyTable (s : State) (t holder id access bytes : Nat) : State :=
  if t == 0 then keyMemory s holder id (Config.transfers access bytes) else s

/-- An entry; one that nothing has created is invalid. -/
def getEntry (s : State) (t i : Nat) : Entry := Map.getD (getT s t).entries i Entry.zero

/-- An entry stored. -/
def setEntry (s : State) (t i : Nat) (e : Entry) : State :=
  modT s t fun x => { x with entries := Map.put x.entries i e Entry.zero }

/-- TABLE_OCCUPANCY and the stash count follow the table (R188). -/
def showTable (s : State) (t : Nat) : State :=
  let x := getT s t
  let s := wr s (TABLE_OCCUPANCY.VALID t) (x.entries.filter fun e => e.2.valid).length
  let s := wr s (TABLE_OCCUPANCY.FREE t) (match x.free with
    | some used => tableSize t - used.length
    | none => 0)
  wr s (TABLE_CUCKOO.STASH_USED t) x.stash.length

/-! ## Keys and hashing (R156, R157) -/

/-- Components of a table's key: width and lowest key bit. -/
def keyParts (t : Nat) : List (Nat × Nat) :=
  if t == 0 then [(16, 304), (128, 176), (128, 48), (8, 40), (16, 24), (16, 8)] else [(16, 304), (128, 176)]

/-- The compatibility key of a head; none where the source of a component with REQUIRED is absent, used or not (R156). -/
def tableKey (s : State) (t : Nat) (o : Origin) : Option Nat :=
  let w := rd s (if t == 0 then TABLE_FLOW_KEY.COMPONENTS else TABLE_EP_KEY.COMPONENTS)
  (keyParts t).zipIdx.foldl (fun k part =>
    let c := fld w (10 * part.2 + 9) (10 * part.2)
    match k with
    | none => none
    | some k => match source s.front o (fld c 6 0) with
      | some v => some (if bit c 9 then k + v.raw % 2 ^ part.1.1 * 2 ^ part.1.2 else k)
      | none => if bit c 8 then none else some k) (some 0)

/-- fold of R157. -/
def foldKey (k : Nat) : Nat :=
  fld k 319 256 ^^^ fld k 255 192 ^^^ fld k 191 128 ^^^ fld k 127 64 ^^^ fld k 63 0

/-- h(j, key) of R157 with the given seeds and multipliers. -/
def hashKey (t : Nat) (h : List Nat) (j key : Nat) : Nat :=
  (foldKey key ^^^ h.getD (2 * j) 0) * h.getD (2 * j + 1) 0 % 2 ^ 64 / 2 ^ (64 - hashBits t)

/-! ## Places of a key (R158) -/

/-- Where a cuckoo entry stands. -/
inductive Place where
  | half (j pos : Nat)
  | stash (k : Nat)
  deriving DecidableEq, Repr

/-- The place of a key and the index it holds. -/
def findKey (t : Nat) (x : TableSt) (key : Nat) : Option (Place × Nat) :=
  let at_ (j : Nat) : Option (Place × Nat) :=
    let pos := hashKey t x.hash j key
    match Map.get? (x.bank.getD j []) pos with
    | some c => if c.key == key then some (.half j pos, c.index) else none
    | none => none
  match at_ 0 with
  | some r => some r
  | none => match at_ 1 with
    | some r => some r
    | none => (x.stash.find? fun c => c.2.key == key).map fun c => (.stash c.1, c.2.index)

/-- The cuckoo or stash entry at a place invalidated. -/
def dropPlace (x : TableSt) : Place → TableSt
  | .half j pos => { x with bank := modAt x.bank j fun h => Map.erase h pos }
  | .stash k => { x with stash := Map.erase x.stash k }

/-! ## Learn items (R166 to R170) -/

/-- A learn item (R166). -/
structure Learn where
  kind : Nat
  partition : Nat
  ingress : Nat
  oldPort : Nat
  flowId : Nat
  endpointId : Nat
  table : Nat
  index : Nat
  key : Nat
  deriving DecidableEq, Repr

/-- The 512 bits of a learn item. -/
def Learn.item (l : Learn) (ts : Nat) : Nat :=
  pack [(8, l.kind), (6, l.partition), (10, l.ingress), (10, l.oldPort), (24, l.flowId), (16, l.endpointId), (6, 0),
    (8, l.table), (64, ts), (24, l.index), (320, l.key), (16, 0)]

/-- A learn item is raised; KIND 0x03 sets the MOVE event. -/
def raiseLearn (s : State) (l : Learn) : State :=
  let s := learnItem s l.table (l.item (nowShort s))
  raiseIf (l.kind == 3) s TABLE_EVENTS.MOVE l.table

/-- Place of a key in the learn-item filter (R170). -/
def filterIndex (s : State) (t i key : Nat) : Nat :=
  (if compat s t then hashKey t (getT s t).hash 0 key else i) % 4096

/-- The time of R170 for a kind lies within the last HOLDOFF_BEATS beats. -/
def heldOff (s : State) (t f : Nat) (move : Bool) : Bool :=
  let h := rd s TABLE_LEARN_CFG.HOLDOFF_BEATS
  let e := Map.getD (getT s t).filter f (0, 0)
  let last := if move then e.2 else e.1
  h != 0 && last != 0 && decide (batchNow s + 1 - last < h)

/-- A miss item or move item, unless the filter suppresses it (R170). -/
def raiseFiltered (s : State) (l : Learn) (i : Nat) : State :=
  let move := l.kind == 3
  let f := filterIndex s l.table i l.key
  if heldOff s l.table f move then s
  else
    let now := batchNow s + 1
    let s := modT s l.table fun x => { x with
      filter := Map.upd x.filter f (0, 0) fun e => if move then (e.1, now) else (now, e.2) }
    raiseLearn s l

/-! ## Creating and removing entries (R168, R176) -/

/-- The entry that hardware learning creates for a head (R168); REV follows when it is stored. STATE_TAG of its slot descriptors, which R168
does not name, is 0 (log 168: DESIGN CHOICE). -/
def learnedEntry (h : Head) (t key : Nat) : Entry where
  valid := true
  static := false
  lock := false
  hit := true
  age := false
  learned := true
  rev := 0
  id := if t == 0 then h.flowId else h.endpointId
  ingress := h.ingress
  partition := h.partition
  lastTs := h.switchTs
  packets := 1
  key := key
  descs := []
  software := 0

/-- An entry created at an index: REV is one more than before (R168, R177). Hardware learning leaves SOFT of an endpoint entry as it
is, which only software writes (R161). -/
def createAt (s : State) (t i : Nat) (e : Entry) (learned : Bool) : State :=
  let old := getEntry s t i
  let s := setEntry s t i { e with
    valid := true
    rev := addMod 8 old.rev 1
    software := if learned && t != 0 then old.software else e.software }
  showTable (bump s (TABLE_LEARN.INSERTED t) 1) t

/-- The learn item of a removed entry: the identifier of the other table, which the entry does not hold, and OLD_PORT are 0 (R166;
log 169: DESIGN CHOICE). -/
def removedItem (t i kind : Nat) (e : Entry) : Learn where
  kind := kind
  partition := e.partition
  ingress := 0
  oldPort := 0
  flowId := if t == 0 then e.id else 0
  endpointId := if t == 0 then 0 else e.id
  table := t
  index := i
  key := e.key

/-- remove(i) of R176 without its learn item; the cuckoo or stash entry that matches the key goes, whatever index it holds. -/
def removeEntry (s : State) (t i : Nat) : State :=
  let e := getEntry s t i
  let s := setEntry s t i { e with valid := false, rev := addMod 8 e.rev 1 }
  let s := if compat s t then
      modT s t fun x =>
        let x := match findKey t x e.key with
          | some (pl, _) => dropPlace x pl
          | none => x
        { x with free := x.free.map (·.filter (· != i)) }
    else s
  showTable s t

/-- remove(i) with the learn item of KIND 0x05, where software asks for it. -/
def ageOut (s : State) (t i : Nat) : State :=
  let e := getEntry s t i
  let s := removeEntry s t i
  if rdB s TABLE_LEARN_CFG.AGED_EN then raiseLearn s (removedItem t i 5 e) else s

/-! ## Cuckoo insertion (R171 to R173) -/

/-- Outcomes of an insertion. -/
inductive Inserted where
  | placed (i : Nat)
  | stashed (i : Nat)
  | duplicate (i : Nat)
  | stashFull
  | noRecord
  deriving DecidableEq, Repr

/-- The halves and the stash that a placement acts on, and its counts. -/
structure Nest where
  halves : List (Map Cuckoo)
  stash : Map Cuckoo
  relocations : Nat
  stashed : Bool
  failed : Bool
  deriving DecidableEq, Repr

/-- place() of R171. -/
def Nest.place (n : Nest) (c : Cuckoo) (j pos : Nat) : Nest := { n with halves := modAt n.halves j fun h => Map.set h pos c }

/-- The entry at a position. -/
def Nest.at_ (n : Nest) (j pos : Nat) : Option Cuckoo := Map.get? (n.halves.getD j []) pos

/-- The relocations of R171 from half j on; `fuel` is how many are left. -/
def relocate (hash : Nat → Nat → Nat) : Nat → Nest → Cuckoo → Nat → Nest
  | 0, n, cur, _ =>
    if n.stash.length < 64 then
      { n with stash := Map.set n.stash (lowestFree 64 0 (n.stash.map (·.1))) cur, stashed := true }
    else { n with failed := true }
  | fuel + 1, n, cur, j =>
    let p := hash j cur.key
    match n.at_ j p with
    | none => n.place cur j p
    | some out =>
      let n := { n.place cur j p with relocations := n.relocations + 1 }
      let q := hash (1 - j) out.key
      match n.at_ (1 - j) q with
      | none => n.place out (1 - j) q
      | some _ => relocate hash fuel n out (1 - j)

/-- The placement steps of R171: the two direct positions, up to 32 relocations, then the stash. -/
def placeCuckoo (hash : Nat → Nat → Nat) (n : Nest) (c : Cuckoo) : Nest :=
  if (n.at_ 0 (hash 0 c.key)).isNone then n.place c 0 (hash 0 c.key)
  else if (n.at_ 1 (hash 1 c.key)).isNone then n.place c 1 (hash 1 c.key)
  else relocate hash 32 n c 0

/-- insert(K, fields) of R171, with its counts and events (R171, R173). -/
def insertEntry (s : State) (t : Nat) (e : Entry) (learned : Bool) : State × Inserted :=
  let x := getT s t
  let refuse (s : State) : State := bump s (TABLE_LEARN.REFUSED t) 1
  if 64 ≤ x.stash.length then (raise (refuse s) TABLE_EVENTS.REHASH_REQUEST t, .stashFull)
  else match findKey t x e.key with
    | some (_, i) => (s, .duplicate i)
    | none =>
      let used := x.free.getD []
      let i := lowestFree (used.length + 1) 0 used
      if tableSize t ≤ i then (refuse s, .noRecord)
      else
        let s := modT s t fun x => { x with free := some (used ++ [i]), insertedBeat := x.insertedBeat + 1 }
        let s := createAt s t i e learned
        let n := placeCuckoo (hashKey t x.hash) ⟨x.bank, x.stash, 0, false, false⟩ ⟨i, e.key⟩
        let s := modT s t fun x => { x with bank := n.halves, stash := n.stash }
        let s := showTable (bump s (TABLE_CUCKOO.RELOCATIONS t) n.relocations) t
        if n.stashed then (raise (bump s (TABLE_CUCKOO.STASHED t) 1) TABLE_EVENTS.STASH_USED t, .stashed i)
        else (s, .placed i)

/-- Some admitted batch is late (R73, R180). -/
def catchingUp (s : State) : Bool := rdB s DIAL_ADMISSION.CATCHUP

/-- A rebuild of the table runs (R174). -/
def rebuilding (s : State) (t : Nat) : Bool := (getT s t).rebuild.isSome

/-- A hardware insertion is asked for: in the native organisation at once, in the compatibility organisation as a request
of the insertion engine (R168, R170). -/
def learnHead (s : State) (t i : Nat) (e : Entry) : State :=
  if !compat s t then createAt s t i e true
  else if 4096 ≤ (getT s t).requests.length then
    raise (bump s (TABLE_LEARN.DROPPED t) 1) TABLE_EVENTS.LEARN_DROPPED t
  else modT s t fun x => { x with requests := x.requests ++ [(batchNow s, e)] }

/-! ## Lookup (R163 to R169) -/

/-- Outcomes of R163, with what the head carries on. -/
inductive Lookup where
  | hit (i rev : Nat)
  | lockedHit (i rev : Nat)
  | miss
  | noKey
  deriving DecidableEq, Repr

/-- Counts of an outcome (R188, R454). -/
def countLookup (s : State) (t : Nat) (r : Lookup) : State :=
  let c := if t == 0 then 162 else 164
  let s := count s c 1
  match r with
  | .hit _ _ => bump s (TABLE_LOOKUP_HITS.COUNT t) 1
  | .lockedHit _ _ => bump s (TABLE_LOOKUP_HITS.COUNT t) 1
  | .miss => count (bump s (TABLE_LOOKUP_MISSES.MISSES t) 1) (c + 1) 1
  | .noKey => count (bump s (TABLE_LOOKUP_MISSES.NO_KEY t) 1) (c + 1) 1

/-- The learn item of a head. -/
def headItem (h : Head) (t kind i oldPort key : Nat) : Learn where
  kind := kind
  partition := h.partition
  ingress := h.ingress
  oldPort := oldPort
  flowId := h.flowId
  endpointId := h.endpointId
  table := t
  index := i
  key := key

/-- A HIT updates the entry (R164, R167 to R169). -/
def hitEntry (s : State) (h : Head) (t i key : Nat) : State :=
  let e := getEntry s t i
  let moved := e.ingress != h.ingress
  let update := moved && !e.static && moveUpdate s t
  let s := setEntry s t i { e with
    hit := true
    age := false
    lastTs := h.switchTs
    packets := satN 32 (e.packets + 1)
    ingress := if update then h.ingress else e.ingress }
  if !moved then s
  else if e.static then
    let s := bump s (TABLE_MOVE.STATIC_CONFLICTS t) 1
    raise (raiseLearn s (headItem h t 4 i e.ingress key)) TABLE_EVENTS.STATIC_CONFLICT t
  else
    let s := if update then bump s (TABLE_MOVE.MOVES t) 1 else s
    raiseFiltered s (headItem h t 3 i e.ingress key) i

/-- A MISS raises a learn item, or inserts the entry (R167, R168). -/
def missEntry (s : State) (h : Head) (t i key : Nat) : State :=
  if moveUpdate s t then learnHead s t i (learnedEntry h t key)
  else raiseFiltered s (headItem h t (if t == 0 then 1 else 2) 0 0 key) i

/-- The lookup of an admitted head in a table (R163). -/
def lookupHead (s : State) (h : Head) (o : Origin) (t : Nat) : State × Lookup :=
  let found : Option (Option Nat × Nat) :=
    if compat s t then (tableKey s t o).map fun k => ((findKey t (getT s t) k).map (·.2), k)
    else
      let i := if t == 0 then h.flowId else h.endpointId
      some (some i, 0)
  match found with
  | none => (countLookup s t .noKey, .noKey)
  | some (idx, key) =>
    let native := if t == 0 then h.flowId else h.endpointId
    let e := match idx with
      | some i => getEntry s t i
      | none => Entry.zero
    let i := idx.getD native
    if !e.valid then (missEntry (countLookup s t .miss) h t i key, .miss)
    else if e.lock then
      let r := Lookup.lockedHit i e.rev
      (bump (countLookup s t r) (TABLE_CONFLICT.LOCKED_SKIPS t) 1, r)
    else
      let r := Lookup.hit i e.rev
      (hitEntry (countLookup s t r) h t i key, r)

/-! ## Parity (R182, R183, R470, R472) -/

/-- Byte address of an HBM region of the configuration image, or a value that the manual does not give. -/
def regionBase (s : State) (code index : Nat) : Option Nat :=
  (s.secure.regions.find? fun r => r.code == code && r.index == index).map (·.base)

/-- LOCATION of a failed word, as far as the manual lays memory out; elsewhere it is a free value (log 3). -/
def faultAddress (s : State) (loc : FaultLoc) : Nat :=
  let at_ (code index off : Nat) : Nat := match regionBase s code index with
    | some b => b + off
    | none => Config.freeValue s.fresh
  match loc with
  | .flowRecord i => at_ 0x01 0 (512 * i)
  | .freeWord 0 i => at_ 0x03 0 (4 * i)
  | .otherHbm a => a
  | .coreStore c => c
  | .coreTree _ c => c
  | .clusterBuffer c => c
  | .dieLink d => d
  | _ => Config.freeValue s.fresh

/-- Fault class of a place (R472). -/
def faultClass : FaultLoc → Nat
  | .frontRule _ => 0
  | .frontTable _ => 0
  | .endpointEntry _ => 0
  | .stashEntry _ _ => 0
  | .queueItem _ _ _ => 1
  | .flowRecord _ => 2
  | .cuckooEntry t _ _ => if t == 0 then 2 else 0
  | .freeWord t _ => if t == 0 then 2 else 0
  | .stateBlock _ _ => 3
  | .modelData _ => 4
  | .otherHbm _ => 5
  | .coreStore _ => 6
  | .clusterBuffer _ => 7
  | .dieLink _ => 8
  | .verdictMap _ => 14
  | .idleCuckoo t _ _ => if t == 0 then 2 else 0
  | .coreTree _ _ => 6
  | .queuePointer _ _ _ _ => 1
  | .correctedWord => 15

/-- The table whose structure a place belongs to. -/
def faultTable : FaultLoc → Option Nat
  | .flowRecord _ => some 0
  | .endpointEntry _ => some 1
  | .stashEntry t _ => some t
  | .cuckooEntry t _ _ => some t
  | .freeWord t _ => some t
  | .stateBlock _ _ => some 0
  | .idleCuckoo t _ _ => some t
  | _ => none

/-- An entry removed for a lasting fault, with the learn item of KIND 0x06 (R183). -/
def removeFaulty (s : State) (t i : Nat) : State :=
  let e := getEntry s t i
  if !e.valid then s else raiseLearn (removeEntry s t i) (removedItem t i 6 e)

/-- What a lasting fault in a table structure does (R183). -/
def tableFault (s : State) (loc : FaultLoc) : State :=
  match loc with
  | .flowRecord i => removeFaulty s 0 i
  | .endpointEntry i => removeFaulty s 1 i
  | .stashEntry t k => showTable (modT s t fun x => dropPlace x (.stash k)) t
  | .cuckooEntry t j pos => modT s t fun x => dropPlace x (.half j pos)
  | .idleCuckoo t j pos => modT s t fun x => { x with idle := modAt x.idle j fun h => Map.erase h pos }
  | .freeWord t i =>
    let x := getT s t
    if (x.free.getD []).contains i then s
    else
      let s := modT s t fun x => { x with free := some (x.free.getD [] ++ [i]), lostFree := x.lostFree ++ [i] }
      showTable (bump s (TABLE_PARITY.LOST_FREE t) 1) t
  | .stateBlock slot i =>
    let e := getEntry s 0 i
    setEntry s 0 i (e.setDesc slot { e.desc slot with cold := true })
  | _ => s

/-! ## The insertion engine, the rebuild and the rake as commands -/

/-- A word of class 5 that reads as zero (R472): a word of a counter (R135), or eight bytes of the memory that the model
keeps as bytes (log 22). -/
def zeroWord (s : State) (a : Nat) : State :=
  match regionBase s 0x07 0 with
  | some b =>
    if b ≤ a && a < b + 16777216 then
      let i := (a - b) / 16
      let c := Map.getD s.front.counters i (0, 0)
      let c' := if (a - b) % 16 < 8 then (0, c.2) else (c.1, 0)
      { s with front.counters := Map.put s.front.counters i c' (0, 0) }
    else { s with hbm := Mem.writeBytes s.hbm (a / 8 * 8) (List.replicate 8 0) }
  | none => { s with hbm := Mem.writeBytes s.hbm (a / 8 * 8) (List.replicate 8 0) }

/-- What a lasting fault outside the table structures does, for the places that name their effect themselves (R149, R472,
R474). -/
def unitFault (s : State) (loc : FaultLoc) : State :=
  match loc with
  | .otherHbm a => zeroWord s a
  | .coreStore c => clusterFailing s c
  | .coreTree _ c => clusterFailing s c
  | .clusterBuffer c => clusterFailing s c
  | .dieLink d => unitFailing s 1 d
  | _ => frontError s loc

/-- A word that failed its check while a command read it (R470): the counts, and what a lasting fault does. -/
def checkFault (s : State) (f : FaultEv) : State :=
  let s := faultFound s (faultClass f.loc) f.lasting (faultAddress s f.loc) (some f.channel)
  match faultTable f.loc with
  | none => if f.lasting then unitFault s f.loc else s
  | some t =>
    if f.lasting then
      tableFault (raise (bump s (TABLE_PARITY.LASTING t) 1) TABLE_EVENTS.PARITY_LASTING t) f.loc
    else bump s (TABLE_PARITY.TRANSIENT t) 1

/-- What a command meets in the memories while it reads them: a failed check, a corrected word (R471), or an upset of a queue pointer,
which the next access to the queue finds (R194). A queue item is struck here, and its check fails when it is taken (R472). Verdict map
entries have a rule of their own and are left to the command that reads them. Effects of a lasting fault come before the command's own
accesses (log 20). -/
def structureFault (s : State) (f : FaultEv) : State := match f.loc with
  | .correctedWord => count s 168 1
  | .queueItem q b k => strikeItem s q b k f.lasting
  | .queuePointer q b p v => upsetPointer s q b p v
  | _ => checkFault s f

/-- CUCKOO_INSERT: the engine takes its oldest request (R170, R171); it rests during a rebuild and during catch-up, and
while its table is off (R333). Transfers of the index and the free list in HBM are keys of the head that asked, through its batch
(R362, R493). -/
def execCuckooInsert (table : Nat) (faults : List FaultEv) (s : State) : Host.Outcome State Fault Refusal :=
  let x := getT s table
  match x.requests with
  | [] => .next s
  | (batch, e) :: rest =>
    if !compat s table || !tableOn s table || rebuilding s table || catchingUp s || decide (256 ≤ x.insertedBeat) then .next s
    else
      let s := faults.foldl structureFault s
      let s := modT s table fun x => { x with requests := rest }
      let s := keyTable s table 0 batch 1 64
      .next (insertEntry s table e true).1

/-- Codes of R177 that change REV. -/
def changesRev (code : Nat) : Bool := code == 2 || code == 3 || code == 4 || code == 8

/-- State field of TABLE_REBUILD of a table. -/
def rebuildState (t : Nat) : Field := if t == 0 then TABLE_REBUILD.FLOW_STATE else TABLE_REBUILD.EP_STATE

/-- A rebuild stops with nothing changed in the bank in force (R174). -/
def failRebuild (s : State) (t : Nat) : State :=
  let s := modT s t fun x => { x with rebuild := none, idle := [[], []], newStash := [], rebuilt := none }
  raise (wr s (rebuildState t) 3) TABLE_EVENTS.REBUILD_FAILED t

/-- FLOW_START or EP_START takes the next hash values (R174). An even multiplier is refused (R157; log 21). -/
def startRebuild (s : State) (table : Nat) : State :=
  if !compat s table || rebuilding s table then s
  else
    let next := (List.range 4).map fun k => rd s (TABLE_HASH_NEXT.VALUE table k)
    if next.getD 1 0 % 2 == 0 || next.getD 3 0 % 2 == 0 then failRebuild s table
    else
      let s := modT s table fun x => { x with
        rebuild := some 0
        idle := [[], []]
        newStash := []
        newHash := next
        rebuilt := none }
      wr s (rebuildState table) 1

/-- A write of TABLE_REBUILD (R174, R186). -/
def writeRebuild (s : State) (w : Nat) : State :=
  let s := if bit w TABLE_REBUILD.FLOW_START.lsb then startRebuild s 0 else s
  if bit w TABLE_REBUILD.EP_START.lsb then startRebuild s 1 else s

/-- REBUILD_START: FLOW_START or EP_START is set (R174). -/
def execRebuildStart (table : Nat) (s : State) : Host.Outcome State Fault Refusal :=
  if pdOn s 5 then .next (startRebuild s table) else .next s

/-- The rebuild has nothing left to place, and waits for the next beat (R174). -/
def rebuildEnds (s : State) (t : Nat) : State := modT s t fun x => { x with rebuilt := some (batchNow s) }

/-- Record j is placed in the idle bank (R174): its relocations and stash placements count as those of R171 do. -/
def placeRecord (s : State) (t j : Nat) (e : Entry) : State :=
  let x := getT s t
  let n := placeCuckoo (hashKey t x.newHash) ⟨x.idle, x.newStash, 0, false, false⟩ ⟨j, e.key⟩
  let s := bump s (TABLE_CUCKOO.RELOCATIONS t) n.relocations
  if n.failed then failRebuild s t
  else
    let s := if n.stashed then raise (bump s (TABLE_CUCKOO.STASHED t) 1) TABLE_EVENTS.STASH_USED t else s
    let s := modT s t fun x => { x with rebuild := some (j + 1), idle := n.halves, newStash := n.stash }
    if x.entries.any fun e => decide (j < e.1) && e.2.valid then s else rebuildEnds s t

/-- A DMA operation of a job waits for the TABLE_DMA window; while a rebuild runs none waits for another reason (R174, R180). -/
def dmaPending (s : State) : Bool := s.crown.jobs.any fun j => j.state == 1 && !j.done &&
  (match j.ops[j.results.length]? with
    | some o => o.1 == 1 && !(changesRev o.2.1 && catchingUp s)
    | none => false)

/-- REBUILD_PLACE: one valid record is read and placed in the idle bank, in a TABLE_DMA window after the DMA operations that wait for it
(R174). A record, or a word of the idle bank, may fail its check (R182, R183). After the last record the rebuild waits for the next
beat. -/
def execRebuildPlace (read : TableRead) (s : State) : Host.Outcome State Fault Refusal :=
  let table := read.table
  match (getT s table).rebuild with
  | none => .next s
  | some i =>
    if (getT s table).rebuilt.isSome || !tableOn s table || !mayRun s 4 0 || dmaPending s then .next s
    else
      let s := read.faults.foldl structureFault (useUnit s 4)
      let s := keyTable s table 2 0 7 64
      match (getT s table).entries.find? fun e => decide (i ≤ e.1) && e.2.valid with
      | none => .next (rebuildEnds s table)
      | some (j, e) => .next (placeRecord s table j e)

/-- REBUILD_DONE: at the start of the beat after the last placement the new bank and values come into force (R174). -/
def execRebuildDone (table : Nat) (s : State) : Host.Outcome State Fault Refusal :=
  let x := getT s table
  match x.rebuilt with
  | none => .next s
  | some b =>
    if !laterBeat s b || !tableOn s table then .next s
    else
      let s := modT s table fun x => { x with
        bank := x.idle
        stash := x.newStash
        hash := x.newHash
        idle := [[], []]
        newStash := []
        rebuild := none
        rebuilt := none
        free := x.free.map (·.filter fun i => !x.lostFree.contains i)
        lostFree := [] }
      let s := x.newHash.zipIdx.foldl (fun s h => wr s (TABLE_HASH.VALUE table h.2) h.1) s
      .next (raise (wr (showTable s table) (rebuildState table) 2) TABLE_EVENTS.REBUILD_DONE table)

/-- Sweep period of a table in dial seconds (R186). -/
def sweepSeconds (s : State) (t : Nat) : Nat :=
  max 1 (min 3600 (rd s (if t == 0 then TABLE_RAKE_CFG.FLOW_SWEEP_S else TABLE_RAKE_CFG.EP_SWEEP_S)))

/-- The table is swept (R175, R186). -/
def rakeOn (s : State) (t : Nat) : Bool := rdB s (if t == 0 then TABLE_CTRL.FLOW_RAKE_EN else TABLE_CTRL.EP_RAKE_EN)

/-- RAKE_SWEEP_START: a sweep of an enabled table starts when it is due, or late once the running one has ended; where the table has
been disabled by then, the late one does not start (R175, R186). -/
def execRakeSweepStart (table : Nat) (s : State) : Host.Outcome State Fault Refusal :=
  let x := getT s table
  let due := atSecond s && dialSeconds s % sweepSeconds s table == 0 && rakeOn s table
  if !tableOn s table then .next s
  else if x.rake.isSome then .next (if due then modT s table fun x => { x with sweepDue := true } else s)
  else if x.sweepDue && !rakeOn s table then .next (modT s table fun x => { x with sweepDue := false })
  else if x.sweepDue then
    let s := modT s table fun x => { x with rake := some 0, sweepDue := false }
    let s := bump s (if table == 0 then TABLE_RAKE_STATUS.FLOW_OVERRUNS else TABLE_RAKE_STATUS.EP_OVERRUNS) 1
    .next (raise s TABLE_EVENTS.RAKE_OVERRUN table)
  else if due then .next (modT s table fun x => { x with rake := some 0 })
  else .next s

/-- What the rake does with an entry (R176). -/
inductive RakeAct where
  | pass | locked | orphan | clear | remove | mark
  deriving DecidableEq, Repr

/-- The decision of R176 at an index. -/
def rakeAct (s : State) (t i : Nat) : RakeAct :=
  let e := getEntry s t i
  if !e.valid || e.static then .pass
  else if e.lock then .locked
  else if compat s t && (match findKey t (getT s t) e.key with
      | some (_, j) => j != i
      | none => true) then .orphan
  else if e.hit then .clear
  else if e.age then .remove
  else .mark

/-- The decision carried out. -/
def doRake (s : State) (t i : Nat) : RakeAct → State
  | .pass => s
  | .locked => bump s (TABLE_AGING.LOCKED_PASSED t) 1
  | .orphan => raise (bump (ageOut s t i) (TABLE_AGING.ORPHANS t) 1) TABLE_EVENTS.ORPHAN_REMOVED t
  | .clear => setEntry s t i { getEntry s t i with hit := false, age := false }
  | .remove => bump (ageOut s t i) (TABLE_AGING.REMOVED t) 1
  | .mark => setEntry s t i { getEntry s t i with age := true }

/-- RAKE_VISIT: the rake visits the next index of its sweep, as one unit of the RAKE activity (R175, R176); a removal waits
during catch-up (R180), and a table that is rebuilt is skipped (R174): its sweep rests at its
index until the rebuild is over (log 170: DESIGN CHOICE). -/
def execRakeVisit (table : Nat) (faults : List FaultEv) (s : State) : Host.Outcome State Fault Refusal :=
  match (getT s table).rake with
  | none => .next s
  | some i =>
    if !tableOn s table || !mayRun s 3 0 || rebuilding s table then .next s
    else
      let s := faults.foldl structureFault s
      let act := rakeAct s table i
      if catchingUp s && (act == .orphan || act == .remove) then .next s
      else
        let s := keyTable (useUnit s 3) table 2 0 0 64
        let s := doRake s table i act
        if i + 1 < tableSize table then .next (modT s table fun x => { x with rake := some (i + 1) })
        else
          let s := modT s table fun x => { x with rake := none }
          .next (bump s (if table == 0 then TABLE_RAKE_STATUS.FLOW_SWEEPS else TABLE_RAKE_STATUS.EP_SWEEPS) 1)

/-! ## Table DMA (R177 to R179) -/

/-- E_MAX of a slot's state plane (R287, R397); 0 without one. -/
def stateMax (s : State) (slot : Nat) : Nat := match s.secure.regions.find? fun r => r.code == 4 && r.index == slot with
  | some r => r.param
  | none => 0

/-- Bytes of a state block, B of R287. -/
def stateBytes (s : State) (slot : Nat) : Nat := ceilDiv (stateMax s slot + stateMax s slot / 32) 64 * 64

/-- A status of R178 and what the operation returns. -/
structure DmaReply where
  status : Nat
  data : Bytes
  deriving DecidableEq, Repr

/-- The entry of a table as bytes. -/
def entryBytes (t : Nat) (e : Entry) : Bytes := if t == 0 then flowBytes e else endpointBytes e

/-- The entry that bytes spell. -/
def entryOfBytes (t : Nat) (b : Bytes) : Entry := if t == 0 then flowOfBytes b else endpointOfBytes b

/-- The index that an operation names: none where the table is compatible and holds no such key. -/
def dmaIndex (s : State) (t : Nat) : EntryRef → Option Nat
  | .index i => some i
  | .key k => (findKey t (getT s t) k).map (·.2)

/-- BAD_INDEX (R178). -/
def dmaBad (s : State) (t code : Nat) (r : EntryRef) (slot : Nat) : Bool :=
  (match r with
    | .index i => decide (tableSize t ≤ i)
    | .key _ => !compat s t) ||
  ((code == 7 || code == 8) && (t != 0 || decide (16 ≤ slot) || stateMax s slot == 0))

/-- The entry's own read found a lasting fault (R178). -/
def dmaParity (t i : Nat) (faults : List FaultEv) : Bool :=
  faults.any fun f => f.lasting && f.loc == (if t == 0 then .flowRecord i else .endpointEntry i)

/-- REV of an entry raised by the DMA engine. -/
def noteRev (s : State) (t i : Nat) : State := modT s t fun x => { x with revBeat := x.revBeat ++ [i] }

/-- The key that a compatible INSERT gives: the one that it names or, where it names an index, which is not used, KEY of its data (R177;
log 171: DESIGN CHOICE). -/
def insertKey (t : Nat) (r : EntryRef) (b : Bytes) : Nat := match r with
  | .key k => k
  | .index _ => (entryOfBytes t b).key

/-- The index that an INSERT takes: in the native organisation the one named, else the lowest free one, where the key is not present. -/
def insertIndex (s : State) (t : Nat) (r : EntryRef) (b : Bytes) : Option Nat :=
  if compat s t then
    if (findKey t (getT s t) (insertKey t r b)).isSome then none
    else
      let used := (getT s t).free.getD []
      some (lowestFree (used.length + 1) 0 used)
  else dmaIndex s t r

/-- The insertion of the DMA engine (R177), with LEARNED as given, and the index taken as its data out (log 171: DESIGN CHOICE): in the native organisation at its index, else by the insertion engine, which a key that is
present does not reach (EXISTS comes before STASH_FULL, R178). -/
def dmaInsert (s : State) (t : Nat) (r : EntryRef) (b : Bytes) : State × DmaReply :=
  let given := { entryOfBytes t b with lock := false, key := insertKey t r b }
  if compat s t then
    if (findKey t (getT s t) given.key).isSome then (s, ⟨4, []⟩)
    else match insertEntry s t given false with
    | (s, .placed i) => (noteRev s t i, ⟨0, natBe 4 i⟩)
    | (s, .stashed i) => (noteRev s t i, ⟨0, natBe 4 i⟩)
    | (s, .duplicate _) => (s, ⟨4, []⟩)
    | (s, .stashFull) => (s, ⟨7, []⟩)
    | (s, .noRecord) => (s, ⟨8, []⟩)
  else match r with
    | .index i =>
      if (getEntry s t i).valid then (s, ⟨4, []⟩)
      else (noteRev (createAt s t i { given with key := 0, id := i } false) t i, ⟨0, natBe 4 i⟩)
    | .key _ => (s, ⟨1, []⟩)

/-- The entry's REV was changed by the DMA engine in this beat already (R177), or such changes wait for the end of catch-up
(R180). -/
def dmaWaits (s : State) (t code : Nat) (r : EntryRef) (b : Bytes) : Bool :=
  changesRev code &&
    (catchingUp s || ((if code == 3 then insertIndex s t r b else dmaIndex s t r).any (getT s t).revBeat.contains) ||
      (code == 3 && compat s t && decide (256 ≤ (getT s t).insertedBeat)))

/-- WRITE (R177): everything but VALID, LOCK, REV and KEY is replaced, FLOW_ID or ENDPOINT_ID too, also in the native organisation
(R159; log 171: DESIGN CHOICE). -/
def dmaWrite (s : State) (t i : Nat) (b : Bytes) : State :=
  let old := getEntry s t i
  let new := entryOfBytes t b
  noteRev (setEntry s t i { new with valid := old.valid, lock := old.lock, rev := addMod 8 old.rev 1, key := old.key }) t i

/-- WRITE_STATE (R177): the state block and slot descriptor of a slot are replaced; the data is the descriptor, then the
block. -/
def dmaWriteState (s : State) (i slot : Nat) (b : Bytes) : State :=
  let old := getEntry s 0 i
  let e := { old.setDesc slot (SlotDesc.ofWord (beAt b 0 16)) with rev := addMod 8 old.rev 1 }
  let n := stateBytes s slot
  let s := { s with slots := modAt s.slots slot fun x => { x with blocks := Map.put x.blocks i (beNat ((padTo n (slice b 16 n)))) 0 } }
  noteRev (setEntry s 0 i e) 0 i

/-- The state block of a slot as software reads it: zero where COLD is set (R160, R177). -/
def readBlock (s : State) (i slot : Nat) : Bytes :=
  natBe (stateBytes s slot) (if ((getEntry s 0 i).desc slot).cold then 0
    else Map.getD (s.slots.getD slot SlotSt.reset).blocks i 0)

/-- A table DMA operation on an entry that was found valid and, where the operation asks for it, locked (R177). -/
def dmaOnEntry (s : State) (t code i slot : Nat) (b : Bytes) : State × DmaReply :=
  let e := getEntry s t i
  match code with
  | 1 => (s, ⟨0, entryBytes t e⟩)
  | 2 => (dmaWrite s t i b, ⟨0, []⟩)
  | 4 => (noteRev (removeEntry (setEntry s t i { e with lock := false }) t i) t i, ⟨0, []⟩)
  | 5 => (setEntry s t i { e with lock := true }, ⟨0, []⟩)
  | 6 => (setEntry s t i { e with lock := false }, ⟨0, []⟩)
  | 7 => (s, ⟨0, readBlock s i slot⟩)
  | _ => (dmaWriteState s i slot b, ⟨0, []⟩)

/-- The entry that an operation meets and its index: where its own read found a lasting fault, the entry as it was when the operation
began (R178), else what the accesses find after the faults (R183). -/
def dmaMeets (s0 s : State) (t : Nat) (r : EntryRef) (i0 : Option Nat) (parity : Bool) : Option (Nat × Entry) :=
  if parity then i0.map fun i => (i, getEntry s0 t i) else (dmaIndex s t r).map fun i => (i, getEntry s t i)

/-- An operation other than INSERT, decided in the order of R178. -/
def dmaOther (s : State) (t code slot : Nat) (b : Bytes) (parity : Bool) : Option (Nat × Entry) → State × DmaReply
  | none => (s, ⟨3, []⟩)
  | some (i, e) =>
    if !e.valid then (s, ⟨3, []⟩)
    else if (code == 2 || code == 8) && !e.lock then (s, ⟨5, []⟩)
    else if code == 5 && e.lock then (s, ⟨6, []⟩)
    else if parity then (s, ⟨9, []⟩)
    else dmaOnEntry s t code i slot b

/-- A table DMA operation with its status, decided in the order of R178, and the counts of R188. An INSERT whose own read of a valid
entry found a lasting fault has found no valid entry, and answers PARITY (log 159: DEDUCED). -/
def dmaOperation (s : State) (t code : Nat) (r : EntryRef) (slot : Nat) (b : Bytes) (faults : List FaultEv) :
    State × DmaReply :=
  let run : State × DmaReply :=
    if dmaBad s t code r slot then (s, ⟨1, []⟩)
    else if rebuilding s t && code != 1 && code != 7 then (s, ⟨2, []⟩)
    else
      let i0 := if code == 3 && compat s t then (findKey t (getT s t) (insertKey t r b)).map (·.2) else dmaIndex s t r
      let parity := i0.any fun i => (getEntry s t i).valid && dmaParity t i faults
      let s' := faults.foldl structureFault s
      if code == 3 then (if parity then (s', ⟨9, []⟩) else dmaInsert s' t r b)
      else dmaOther s' t code slot b parity (dmaMeets s s' t r i0 parity)
  if run.2.status == 0 then (bump run.1 TABLE_DMA.DONE 1, run.2) else (bump run.1 TABLE_DMA.REFUSED 1, run.2)

end Sys2Proof.Machine
end

