-- ==== Sys2Proof/Machine/Trees.lean ====
section
/-! DEFINITION. Units of a shape, and tree ensembles: the walk, the sums, and the cycles and transfers of a pass (R31, R41,
R261 to R277). -/

namespace Sys2Proof.Machine

/-! ## Units of a shape (R41) -/

/-- Die d is present. -/
def hasDie (shape d : Nat) : Bool := bit shape (372 + d)

/-- Number of present dies. -/
def dieCount (shape : Nat) : Nat := ((List.range 4).filter (hasDie shape)).length

/-- Number of present clusters of die d, K_d. -/
def clusterCount (shape d : Nat) : Nat := ((List.range 8).filter fun c => bit shape (336 + 8 * d + c)).length

/-- The smallest number of clusters among the present dies. -/
def minClusters (shape : Nat) : Nat :=
  ((List.range 4).filter (hasDie shape)).foldl (fun m d => min m (clusterCount shape d)) 8

/-- The smallest number of cores of a present die, C of R284. -/
def minCores (shape : Nat) : Nat := 16 * minClusters shape

/-- Number of present cores, Ct of R324. -/
def coreCount (shape : Nat) : Nat := 16 * sumN ((List.range 4).map (clusterCount shape))

/-- Heads of the largest die share, H of R275. -/
def headsPerDie (shape cap : Nat) : Nat := ceilDiv cap (max 1 (dieCount shape))

/-- Heads of the busiest core, ceil(H / C) of R284. -/
def headsPerCore (shape cap : Nat) : Nat := ceilDiv (headsPerDie shape cap) (max 1 (minCores shape))

/-! ## Trees (R263 to R273) -/

/-- The positions of a list that hold 1. -/
def bitsSet (l : List Nat) : List Nat := (l.zipIdx.filter fun x => x.1 == 1).map (·.2)

/-- A list cut into rows of 32; `n` of them. -/
def rowsOf (l : List Nat) (n : Nat) : List (List Nat) := (List.range n).map fun i => (l.drop (32 * i)).take 32

/-- The decisions of a tree for a head, whatever the branches taken: node n in bit n mod 32 of 32-bit word floor(n / 32), one word for
each row of the node block (R228). -/
def Tree.decisions (t : Tree) (codes : List Nat) : List Nat :=
  (rowsOf (t.nodes.map fun n => decideNode (codes.getD n.1 0) n.2) (ceilDiv t.nodes.length 32)).map fun row => ofBits (bitsSet row)

/-- The decision of node n in a head's row of the matrix. -/
def decisionBit (words : List Nat) (n : Nat) : Nat := b2n (bit (words.getD (n / 32) 0) (n % 32))

/-- The walk of R272 from node k down `n` levels, over the head's decisions. -/
def walkDecisions (words : List Nat) : Nat → Nat → Nat
  | 0, k => k
  | n + 1, k => walkDecisions words n (2 * k + 1 + decisionBit words k)

/-- The leaf index of a head (R272). -/
def Tree.leaf (t : Tree) (codes : List Nat) : Nat := walkDecisions (t.decisions codes) t.depth 0 - (2 ^ t.depth - 1)

/-- The value of the head's leaf for output o (R268). -/
def Tree.value (t : Tree) (outs : Nat) (codes : List Nat) (o : Nat) : Int := t.leaves.getD (outs * t.leaf codes + o) 0

/-- First tree of part q; the number of trees beyond the last part (R266). -/
def Ensemble.first (e : Ensemble) (q : Nat) : Nat := e.firstTree.getD q e.trees.length

/-- The trees of part q. -/
def Ensemble.part (e : Ensemble) (q : Nat) : List Tree := (e.trees.drop (e.first q)).take (e.first (q + 1) - e.first q)

/-- The sum of part q for one head and output (R272). -/
def Ensemble.partSum (e : Ensemble) (codes : List Nat) (o q : Nat) : Int :=
  sumI ((e.part q).map fun t => t.value e.outputs codes o)

/-- The output o of an ensemble for one head: BASE and the part sums in ascending order (R272). -/
def Ensemble.out (e : Ensemble) (codes : List Nat) (o : Nat) : Int :=
  (List.range e.parts).foldl (fun a q => a + e.partSum codes o q) (e.base.getD o (0, 0)).2

/-- All outputs of an ensemble for one head. -/
def Ensemble.eval (e : Ensemble) (codes : List Nat) : List Int := (List.range e.outputs).map (e.out codes)

/-! ## Sizes, cycles and transfers (R265, R268, R275 to R277) -/

/-- NC_t of R265. -/
def nodeRows (depth : Nat) : Nat := ceilDiv (2 ^ depth - 1) 32

/-- SIZE_t of R268. -/
def treeSize (outs depth : Nat) : Nat := 128 * nodeRows depth + 128 * ceilDiv (2 * outs * 2 ^ depth) 128

/-- C_q of R266. -/
def Ensemble.partCost (e : Ensemble) (q : Nat) : Nat := sumN ((e.part q).map fun t => nodeRows t.depth)

/-- B_q of R266. -/
def Ensemble.partBytes (e : Ensemble) (q : Nat) : Nat := sumN ((e.part q).map fun t => 8 + treeSize e.outputs t.depth)

/-- S_q of R275. -/
def Ensemble.partUnits (e : Ensemble) (q : Nat) : Nat := ceilDiv (e.partBytes q) 64

/-- The parts of core c in ascending order (R266). -/
def Ensemble.coreParts (e : Ensemble) (c : Nat) : List Nat := (List.range (e.parts / 16)).map fun i => c + 16 * i

/-- Cycles of a streamed core: each part runs while the next one arrives (R275). -/
def streamCycles (e : Ensemble) (waves : Nat) : List Nat → Nat
  | [] => 0
  | [p] => waves * e.partCost p
  | p :: q :: l => max (waves * e.partCost p) (e.partUnits q) + streamCycles e waves (q :: l)

/-- The array cycles of an ensemble in a shape at a capacity (R275). -/
def Ensemble.cycles (e : Ensemble) (shape cap : Nat) : Nat :=
  let tiles := ceilDiv (headsPerDie shape cap) 32
  let tc := ceilDiv tiles (max 1 (minClusters shape))
  let core (c : Nat) : Nat :=
    if e.streamed then streamCycles e (ceilDiv tc 4) (e.coreParts c)
    else ceilDiv (tc * (e.parts / 16)) 4 * maxN 0 ((e.coreParts c).map e.partCost)
  maxN 0 ((List.range 16).map core) + e.maxDepth + 2

/-- The 64-byte transfers of one pass over a streamed ensemble (R274, R277); a resident one makes none. -/
def Ensemble.transfers (e : Ensemble) (shape : Nat) : Nat :=
  if e.streamed then dieCount shape * sumN ((List.range e.parts).map e.partUnits) else 0

/-- The transfers of them that the fetch stage makes: those of the first part of each core (R274). -/
def Ensemble.firstTransfers (e : Ensemble) (shape : Nat) : Nat :=
  if e.streamed then dieCount shape * sumN ((List.range 16).map e.partUnits) else 0

/-- Bytes of the copy of a streamed ensemble in the HBM of one die: part by part, each padded to 64 bytes (R274). -/
def Ensemble.copyBytes (e : Ensemble) : Nat :=
  if e.streamed then sumN ((List.range e.parts).map fun q => 64 * e.partUnits q) else 0

/-- The footprint of an ensemble in core c (R276). -/
def Ensemble.footprint (e : Ensemble) (c : Nat) : Nat :=
  (if c == 0 then 8 * e.outputs else 0) +
    (if e.streamed then e.windowKib * 1024 else sumN ((e.coreParts c).map e.partBytes))

end Sys2Proof.Machine
end

