-- ==== Sys2Proof/Machine/Seq.lean ====
section
/-! DEFINITION. Flow state and the surprise of a sequence model: state blocks, the gather, the write-back and the loss of a
token position (R287 to R296, R320). -/

namespace Sys2Proof.Machine

/-! ## Tables and positions (R231, R285, R295) -/

/-- A lookup table that a generation does not have. -/
def Lut.none_ : Lut := ⟨4, 0, 0, []⟩

/-- LUT(v, table). -/
def Lut.eval (t : Lut) (v : Int) : Int := lutAt t.k t.sh t.x0 t.t v

/-- The tables and constants that the sequence descriptor names. -/
structure LossTables where
  exp : Lut
  ln : Lut
  expFrac : Nat
  ln2q : Nat
  deriving DecidableEq, Repr

/-- Those of a model. -/
def lossTables (m : Model) (q : SeqDesc) : LossTables :=
  ⟨m.luts.getD q.expTable Lut.none_, m.luts.getD q.lnTable Lut.none_, q.expFrac, q.ln2q⟩

/-- lse of R295 from the logits of one position. -/
def LossTables.lse (t : LossTables) (z : List Int) : Int :=
  let m := vRmax z
  let e := z.map fun x => t.exp.eval (vSub x m)
  let sum := satI (vShr (vSum e) 0 1) 1 ((2 ^ 31 : Nat) - 1)
  let na := vNorm sum
  let k := vSub (30 - (t.expFrac : Int)) na.1
  vAdd (vAdd m (t.ln.eval na.2)) (vMul k t.ln2q 0 1)

/-- sp of R295: the surprise of target c. -/
def LossTables.loss (t : LossTables) (z : List Int) (c : Nat) : Int := max (vSub (t.lse z) (z.getD c 0)) 0

/-- The logits cut into positions of the given vocabularies (R286). -/
def cutPositions : List Nat → List Int → List (List Int)
  | [], _ => []
  | v :: vs, l => l.take v :: cutPositions vs (l.drop v)

/-- Target codes of the positions for a head's feature codes (R295). -/
def tokenTargets (q : SeqDesc) (feats : List Nat) : List Nat := q.tokens.map fun t => min (feats.getD t.1 0) (t.2 - 1)

/-- The loss summed over positions (R295, R320). -/
def LossTables.total (t : LossTables) (zs : List (List Int)) (cs : List Nat) : Int :=
  sumI (List.zipWith (fun z c => t.loss z c) zs cs)

/-- SURPRISE of a head (R295). -/
def surprise (t : LossTables) (q : SeqDesc) (feats : List Nat) (logits : List Int) : Int :=
  satI (vShr (t.total (cutPositions (q.tokens.map (·.2)) logits) (tokenTargets q feats)) 0 1) 0 ((2 ^ 31 : Nat) - 1)

/-- The largest vocabulary. -/
def maxVocab (q : SeqDesc) : Nat := maxN 0 (q.tokens.map (·.2))

/-- PER_HEAD of a SURPRISE operation (R295). -/
def surpriseCycles (q : SeqDesc) : Nat := q.positions * (4 * ceilDiv (maxVocab q) 64 + 10) + 2

/-! ## State blocks (R288) -/

/-- The state that a block of B bytes holds for E elements (R288, R289). -/
def blockState (b e : Nat) (block : Nat) : List Int :=
  let bytes := natBe b block
  (List.range e).map fun i =>
    let n := min (bytes.getD (e + i / 32) 0).toNat 8
    max (sext 8 (bytes.getD i 0).toNat) (-127) * (2 ^ n : Nat)

/-- A state narrowed group by group: all elements, then all shifts (R293). -/
def narrowState (v : List Int) : List Int × List Nat :=
  let gs := (groupsOf 32 (v.length / 32) (v.map fun x => satI x (-32512) 32512)).map narrow
  (gs.flatMap (·.1), gs.map (·.2))

/-- The block of B bytes that a state is stored as; bytes after the shifts are zero (R288, R293). -/
def stateBlock (b : Nat) (v : List Int) : Nat :=
  let r := narrowState v
  let bytes := r.1.map (fun x => BitVec.ofNat 8 (wrapU 8 x)) ++ r.2.map (BitVec.ofNat 8)
  beNat ((bytes ++ List.replicate (b - bytes.length) 0).take b)

/-! ## Gather (R289) -/

/-- What a head gathers: its state, none for a zero state, with SEEN_IN, and whether the gather was stale. -/
abbrev Gathered := Option (List Int) × Nat × Bool

/-- The gather of one head for a slot (R289). -/
def gatherHead (s : State) (slot : Nat) (q : SeqDesc) (h : Head) : State × Gathered :=
  match h.flow with
  | none => (s, none, 0, false)
  | some i =>
    let e := getEntry s 0 i
    let d := e.desc slot
    if !e.valid || e.rev != h.rev then (bump s (SLOT_SEQ_A.STALE_GATHERS slot) 1, none, 0, true)
    else if d.cold || d.tag != q.tag then (bump s (SLOT_SEQ_A.COLD_READS slot) 1, none, 0, false)
    else
      let block := Map.getD (s.slots.getD slot SlotSt.reset).blocks i 0
      (s, some (blockState (stateBytes s slot) q.elements block), d.seen, false)

/-- The gather of a batch, head by head. -/
def gatherHeads (slot : Nat) (q : SeqDesc) : List Head → State → State × List Gathered
  | [], s => (s, [])
  | h :: hs, s =>
    let r := gatherHead s slot q h
    let rs := gatherHeads slot q hs r.1
    (rs.1, r.2 :: rs.2)

/-- The 64-byte transfers of the gathers or the write-backs of a batch: one block for each head concerned (R363). -/
def stateTransfers (s : State) (slot n : Nat) : Nat := n * hbmWords (stateBytes s slot)

/-- The generation has a SURPRISE operation, without which no score is suppressed (R296). -/
def Model.hasSurprise (m : Model) : Bool := m.ops.any (·.kind == 5)

/-- A head's score is suppressed (R296). -/
def suppressedState (q : SeqDesc) (g : Gathered) : Bool := g.1.isNone || decide (g.2.1 < q.warmup)

/-! ## Write-back (R180, R292, R293) -/

/-- The canonical order of R32: position in it as a list of keys. -/
def canonicalLe (a b : Head) : Bool :=
  if a.switchTs != b.switchTs then decide (a.switchTs < b.switchTs)
  else if a.port != b.port then decide (a.port < b.port)
  else if a.arrival != b.arrival then decide (a.arrival < b.arrival)
  else decide (a.record ≤ b.record)

/-- The head meets the first two conditions of R292 step 2. -/
def hitFresh (h : Head) (g : Gathered) : Bool := h.flow.isSome && !g.2.2

/-- The head meets all three. -/
def writesState (slot : Nat) (h : Head) (g : Gathered) : Bool := hitFresh h g && !bit h.faultSlots slot

/-- A head with what it gathered and its new state. -/
structure Flowing where
  head : Head
  got : Gathered
  new : List Int
  deriving DecidableEq, Repr

/-- The write-back of a writer (R180, R293): applied, or discarded and counted. -/
def writeBack (s : State) (slot : Nat) (q : SeqDesc) (batch k : Nat) (w : Flowing) : State :=
  match w.head.flow with
  | none => s
  | some i =>
    let e := getEntry s 0 i
    if e.lock then bump s (TABLE_CONFLICT.LOCKED_SKIPS 0) 1
    else if !e.valid || e.rev != w.head.rev then bump s (TABLE_CONFLICT.STALE_SCATTERS 0) 1
    else
      let d : SlotDesc := ⟨false, q.tag, min 255 (w.got.2.1 + k), batch⟩
      let b := stateBlock (stateBytes s slot) w.new
      let s := keyMemory (setEntry s 0 i (e.setDesc slot d)) 0 batch (stateTransfers s slot 1)
      { s with slots := modAt s.slots slot fun x => { x with blocks := Map.put x.blocks i b 0 } }

/-- One flow group (R292): its writer writes, and the others are counted. -/
def writeGroup (s : State) (slot : Nat) (q : SeqDesc) (batch : Nat) (group : List Flowing) : State :=
  let able := sortBy (fun a b => canonicalLe a.head b.head) (group.filter fun x => writesState slot x.head x.got)
  let skipped := (group.filter fun x => hitFresh x.head x.got && !writesState slot x.head x.got).length
  let s := bump s (SLOT_SEQ_B.FAULT_SKIPS slot) skipped
  match able.getLast? with
  | none => s
  | some w => writeBack (bump s (SLOT_SEQ_B.COLLAPSED slot) (able.length - 1)) slot q batch able.length w

/-- The record indices that a batch's heads carry. -/
def flowIndices (l : List Flowing) : List Nat := dedupN (l.filterMap fun x => x.head.flow)

/-- The write-back of a batch (R292, R293). -/
def writeBatch (s : State) (slot : Nat) (q : SeqDesc) (batch : Nat) (l : List Flowing) : State :=
  (flowIndices l).foldl (fun s i => writeGroup s slot q batch (l.filter fun x => x.head.flow == some i)) s

end Sys2Proof.Machine
end

