-- ==== Sys2Proof/Machine/Chain.lean ====
section
/-! DEFINITION. What the operations of a chain compute over one batch, and the cycles that they occupy (R39, R146, R214 to
R232, R247, R249 to R251, R275, R284). -/

namespace Sys2Proof.Machine

/-! ## Tensors of a batch -/

/-- Codes of the feature tensor: those of the RAW, BIN and SCALE definitions in ascending order (R301). -/
def featCodes (m : Model) (feats : List Nat) : List Int :=
  (m.feats.zipIdx.filter fun d => decide (d.1.kind ≤ 2)).map fun d => (feats.getD d.2 0 : Int)

/-- The value of an operation that has not retired. -/
def TensorVal.none_ : TensorVal := ⟨[], [], none⟩

/-- Output of operation i of the chain. -/
def Chain.val (c : Chain) (i : Nat) : TensorVal := Map.getD c.vals i TensorVal.none_

/-- The elements of a tensor, row by row (R212, R289, R301); outlier channels of U8 tensors stand apart. -/
def tensorRows (m : Model) (c : Chain) (heads : List Head) (t : Nat) : List (List Int) :=
  match writerOf m t with
  | some (i, _) => (c.val i).rows
  | none =>
    if t == m.featTensor then heads.map fun h => featCodes m (Map.getD h.feats c.slot [])
    else match m.seq with
      | some q => if q.stateIn == t then c.state.map fun g => g.1.getD (List.replicate q.elements 0) else []
      | none => []

/-- The tensor's value with its outlier channels and the S16 copy of a misfit (R247, R250). -/
def tensorVal (m : Model) (c : Chain) (heads : List Head) (t : Nat) : TensorVal :=
  match writerOf m t with
  | some (i, _) => c.val i
  | none => ⟨tensorRows m c heads t, [], none⟩

/-- Length of a tensor along its elements. -/
def tensorLen (m : Model) (t : Nat) : Nat :=
  match writerOf m t with
  | some (_, o) => o.outputs
  | none =>
    if t == m.featTensor then (m.feats.filter fun d => decide (d.kind ≤ 2)).length
    else match m.seq with
      | some q => q.elements
      | none => 0

/-- The scales in force of a tensor for the batch; a tensor without a dense producer takes its calibration scale (R236). -/
def batchScales (m : Model) (c : Chain) (t : Nat) : Nat × Nat :=
  (Map.get? c.scales t).getD ((tensorDesc m t).calScale, (tensorDesc m t).calOScale)

/-! ## Dense operations (R214 to R223, R232, R247, R250, R251) -/

/-- The input of a dense operation: operands after the zero point, outlier activations, scales, and whether it runs wide. -/
structure DenseIn where
  xs : List (List Int)
  outs : List (List Int)
  outCh : List Nat
  sIn : Nat
  oIn : Nat
  wide : Bool
  deriving DecidableEq, Repr

/-- The input that an operation takes for the batch (R251). -/
def denseIn (m : Model) (c : Chain) (heads : List Head) (o : OpRec) : DenseIn :=
  let t := o.inTensor
  let v := tensorVal m c heads t
  let sc := batchScales m c t
  let outCh := (tensorDesc m t).outCh
  match v.wide with
  | some (rows, w) => ⟨rows, v.outRows, outCh, w, sc.2, true⟩
  | none =>
    if tensorS16 m t then ⟨v.rows, v.outRows, outCh, sc.1, sc.2, true⟩
    else ⟨v.rows.map fun r => r.map fun x => x - tensorZp m t, v.outRows, outCh, sc.1, sc.2, false⟩

/-- NG of R214. -/
def OpRec.groups (o : OpRec) : Nat := ceilDiv o.n (max 1 o.g)

/-- The weight operands of output channel j: NG × G elements, the zero point subtracted. -/
def OpRec.row (o : OpRec) (j : Nat) : List Int :=
  ((o.weights.drop (j * o.groups * o.g)).take (o.groups * o.g)).map fun w => w - o.zw.getD j 0

/-- What does not depend on the head for an output channel: its groups of weights, scales and outlier weights. -/
structure OutCol where
  bias : Int × Nat
  groups : List (List Int × Nat)
  outW : List Int
  outScale : Nat
  deriving DecidableEq, Repr

/-- The column of output channel j (R220, R251). -/
def outCol (o : OpRec) (d : DenseIn) (j : Nat) : OutCol :=
  let r := o.row j
  { bias := (o.bias.getD j 0, scaleDiv (o.sb.getD j 0) d.sIn)
    groups := (groupsOf o.g o.groups r).zipIdx.map fun g => (g.1, o.gscale.getD (j * o.groups + g.2) 0)
    outW := d.outCh.map fun k => r.getD k 0
    outScale := scaleDiv (scaleMul d.oIn (o.owscale.getD j 0)) d.sIn }

/-- The long accumulator of one output for one head, and its ACC_SAT mark (R220). -/
def longAcc (f : Nat) (wide : Bool) (xg : List (List Int)) (outs : List Int) (c : OutCol) : Int × Bool :=
  let sum := if wide then wideGroupSum else groupSum
  let cs := List.zipWith (fun x g => (sum x g.1, g.2)) xg c.groups
  let tail := if c.outW.isEmpty then [] else [(groupSum outs c.outW, c.outScale)]
  accumulate f (c.bias :: (cs ++ tail)) (0, false)

/-- The long accumulators of every head and output. -/
def denseAccs (o : OpRec) (d : DenseIn) : List (List (Int × Bool)) :=
  let cols := (List.range o.outputs).map (outCol o d)
  d.xs.zipIdx.map fun x =>
    let xg := groupsOf o.g o.groups (x.1.take o.n)
    cols.map (longAcc o.f d.wide xg (d.outs.getD x.2 []))

/-- The conversion parameters of a batch (R251): M, S and M_O, S_O. -/
structure Conv where
  m : Nat
  s : Nat
  mO : Nat
  sO : Nat
  deriving DecidableEq, Repr

/-- One converted row: the elements, the outlier elements, and the numbers of SAT marks of each. -/
def convertRow (o : OpRec) (outCh : List Nat) (p : Conv) (accs : List (Int × Bool)) : List Int × List Int × Nat × Nat :=
  let main := accs.zipIdx.map fun a =>
    if outCh.contains a.2 then ((o.zo : Int), false)
    else
      let r := requantise a.1.1 p.m p.s o.zo o.fmtOut o.clampLo o.clampHi
      (r.1, r.2 || a.1.2)
  let out := outCh.map fun k =>
    let a := accs.getD k (0, false)
    let r := requantise a.1 p.mO p.sO 0 4 0 0
    (r.1, r.2 || a.2)
  (main.map (·.1), out.map (·.1), (main.filter (·.2)).length, (out.filter (·.2)).length)

/-- Largest of a list of integers, 0 where it is empty. -/
def maxI : List Int → Int
  | [] => 0
  | x :: xs => xs.foldl max x

/-- Smallest of a list of integers, 0 where it is empty. -/
def minI : List Int → Int
  | [] => 0
  | x :: xs => xs.foldl min x

/-- The statistics of the first run of a producer (R240, R241). -/
def denseStats (o : OpRec) (outCh : List Nat) (p : Conv) (accs : List (List (Int × Bool))) (sat satO : Nat) : Stats :=
  let cells := accs.flatMap fun r => r.zipIdx
  let main := (cells.filter fun c => !outCh.contains c.2).map (·.1.1)
  let out := (cells.filter fun c => outCh.contains c.2).map (·.1.1)
  { hi := maxI main
    lo := minI main
    hiO := maxI out
    loO := minI out
    sat := sat
    satO := satO
    elements := main.length
    sse := sumN (main.map fun a => (convError a p.m p.s o.zo o.fmtOut).natAbs ^ 2) }

/-- One row of a second run (R247 steps 1 and 2). -/
def wideRow (o : OpRec) (outCh : List Nat) (m s : Nat) (accs : List (Int × Bool)) : List Int :=
  accs.zipIdx.map fun a =>
    if outCh.contains a.2 then 0
    else satI (requantY a.1.1 m s 0) (if o.rectified then 0 else -32768) 32767

/-! ## Vector programs (R229, R230, R284; log 23) -/

/-- What a program reads for one head. -/
structure VecEnv where
  tensors : List (Nat × List Int)
  outputs : List (Nat × List Int)
  luts : List Lut
  deriving DecidableEq, Repr

/-- Two vectors taken element by element; a single value goes with every element of the other. -/
def zipV (f : Int → Int → Int) (a b : List Int) : List Int :=
  match a, b with
  | [x], ys => ys.map (f x)
  | xs, [y] => xs.map fun x => f x y
  | xs, ys => List.zipWith f xs ys

/-- Element i of a vector; a single value stands for every element. -/
def elemV (v : List Int) (i : Nat) : Int := match v with
  | [x] => x
  | l => l.getD i 0

/-- A program under way: its registers and the cycles of its primitives. -/
structure VecRun where
  regs : Map (List Int)
  cycles : Nat
  deriving DecidableEq, Repr

def VecRun.reg (r : VecRun) (i : Int) : List Int := Map.getD r.regs i.toNat []

/-- Cycles of a primitive over n elements (R284). -/
def primCycles (n : Nat) : Nat := ceilDiv n 64

/-- A result put into register d by a primitive over n elements. -/
def VecRun.put (r : VecRun) (d : Int) (v : List Int) (n : Nat) : VecRun :=
  ⟨Map.set r.regs d.toNat v, r.cycles + primCycles n⟩

/-- One decoded word: 0 to 4 place operands, 5 to 20 are the primitives of R230 in the order of its table. -/
def vecStep (e : VecEnv) (r : VecRun) (p : List Int) : VecRun :=
  let at_ (i : Nat) : Int := p.getD i 0
  let d := at_ 1
  let a := r.reg (at_ 2)
  let b := r.reg (at_ 3)
  let two (f : Int → Int → Int) : VecRun := let v := zipV f a b; r.put d v v.length
  let one (f : Int → Int) : VecRun := r.put d (a.map f) a.length
  match at_ 0 with
  | 0 => { r with regs := Map.set r.regs d.toNat (Map.getD e.tensors (at_ 2).toNat []) }
  | 1 => { r with regs := Map.set r.regs d.toNat (Map.getD e.outputs (at_ 2).toNat []) }
  | 2 => { r with regs := Map.set r.regs d.toNat [lane (at_ 2)] }
  | 3 => { r with regs := Map.set r.regs d.toNat ((a.drop (at_ 3).toNat).take (at_ 4).toNat) }
  | 4 => { r with regs := Map.set r.regs d.toNat (a ++ b) }
  | 5 => two vAdd
  | 6 => two vSub
  | 7 => two fun x y => vMul x y (at_ 4).toNat (at_ 5)
  | 8 => one fun x => vShl x (at_ 3).toNat
  | 9 => one fun x => vShr x (at_ 3).toNat (at_ 4)
  | 10 => two max
  | 11 => two min
  | 12 => one fun x => satI x (at_ 3) (at_ 4)
  | 13 => two vGe
  | 14 =>
    let c := r.reg (at_ 4)
    let v := (List.range (max c.length (max a.length b.length))).map fun i =>
      if elemV c i != 0 then elemV a i else elemV b i
    r.put d v v.length
  | 15 =>
    let v := a.map vNorm
    { r.put d (v.map (·.1)) a.length with
      regs := Map.set (Map.set r.regs d.toNat (v.map (·.1))) (at_ 3).toNat (v.map (·.2)) }
  | 16 => one ((e.luts.getD (at_ 3).toNat Lut.none_).eval)
  | 17 => r.put d [vSum a] a.length
  | 18 => r.put d [vRmax a] a.length
  | 19 => one fun x => satI (x + at_ 3) 0 255
  | _ => one fun x => satS 16 x

/-- A program run for one head. -/
def runProgram (e : VecEnv) (prog : List (List Int)) : VecRun := prog.foldl (vecStep e) ⟨[], 0⟩

/-- Tensors and outputs that a program names. -/
def progReads (prog : List (List Int)) (code : Int) : List Nat :=
  dedupN ((prog.filter fun p => p.getD 0 0 == code).map fun p => (p.getD 2 0).toNat)

/-- Keys in ascending order with their values. -/
def toMap {α : Type} (l : List (Nat × α)) : Map α := l.foldl (fun m p => Map.set m p.1 p.2) []

/-- PER_HEAD of a VECTOR operation, from the lengths of what it reads (R284). -/
def programCycles (m : Model) (o : OpRec) : Nat :=
  let zeros (n : Nat) : List Int := List.replicate n 0
  let e : VecEnv :=
    { tensors := toMap ((progReads o.prog 0).map fun t => (t, zeros (tensorLen m t)))
      outputs := toMap ((progReads o.prog 1).map fun i => (i, zeros ((m.ops[i]?).map (·.outputs) |>.getD 0)))
      luts := m.luts }
  (runProgram e o.prog).cycles

/-- The output of a VECTOR operation: register 0 for every head (R229). -/
def vectorRows (m : Model) (c : Chain) (heads : List Head) (o : OpRec) : List (List Int) :=
  let ts := (progReads o.prog 0).map fun t =>
    (t, (tensorRows m c heads t).map fun r => if tensorS16 m t then r else r.map fun x => x - tensorZp m t)
  let os := (progReads o.prog 1).map fun i => (i, (c.val i).rows)
  heads.zipIdx.map fun h =>
    (runProgram { tensors := toMap (ts.map fun t => (t.1, t.2.getD h.2 []))
                  outputs := toMap (os.map fun t => (t.1, t.2.getD h.2 []))
                  luts := m.luts } o.prog).reg 0

/-! ## The other kinds -/

/-- EMBED: the row of each head's index (R146). -/
def embedRows (c : Chain) (heads : List Head) (o : OpRec) : List (List Int) :=
  heads.map fun h =>
    let i := (Map.getD h.feats c.slot []).getD o.aux 0
    ((o.rows.drop (i * o.outputs)).take o.outputs).map Int.ofNat

/-- TREES: the sums of each head (R272). -/
def treeRows (m : Model) (c : Chain) (heads : List Head) (o : OpRec) : List (List Int) :=
  match m.ensembles[o.aux]? with
  | none => []
  | some e => (tensorRows m c heads o.inTensor).map fun r => e.eval (r.map Int.toNat)

/-- SURPRISE: one value for each head (R295). -/
def surpriseRows (m : Model) (c : Chain) (heads : List Head) : List (List Int) :=
  match m.seq with
  | none => []
  | some q =>
    let t := lossTables m q
    heads.zipIdx.map fun h =>
      [surprise t q (Map.getD h.1.feats c.slot []) ((c.val q.logitOp).rows.getD h.2 [])]

/-- Rows of an operation that is not dense. -/
def plainRows (m : Model) (c : Chain) (heads : List Head) (o : OpRec) : List (List Int) :=
  match o.kind with
  | 2 => embedRows c heads o
  | 3 => treeRows m c heads o
  | 4 => vectorRows m c heads o
  | _ => surpriseRows m c heads

/-! ## What an operation reads (R36, R289) -/

/-- Tensors that an operation reads. -/
def readsTensors (o : OpRec) : List Nat :=
  match o.kind with
  | 1 => [o.inTensor]
  | 3 => [o.inTensor]
  | 4 => progReads o.prog 0
  | _ => []

/-- Operations whose output an operation reads. -/
def readsOps (m : Model) (o : OpRec) : List Nat :=
  ((readsTensors o).filterMap fun t => (writerOf m t).map (·.1)) ++
    (match o.kind with
      | 4 => progReads o.prog 1
      | 5 => (match m.seq with
        | some q => [q.logitOp]
        | none => [])
      | _ => [])

/-- The operation reads the gathered state. -/
def readsState (m : Model) (o : OpRec) : Bool := match m.seq with
  | some q => (readsTensors o).contains q.stateIn && (writerOf m q.stateIn).isNone
  | none => false

/-- The operation writes the new state. -/
def writesStateOut (m : Model) (o : OpRec) : Bool := match m.seq with
  | some q => o.kind == 4 && o.outTensor == q.stateOut
  | none => false

/-! ## Cycles (R39, R78, R226, R249, R250, R275, R284) -/

/-- Array cycles of one pass of a dense operation, placed as in the worked example of R40: one group of an output tile for
each engine, in waves. -/
def densePass (shape cap : Nat) (o : OpRec) : Nat :=
  let work := ceilDiv (headsPerDie shape cap) 32 * ceilDiv o.outputs 32 * o.groups
  ceilDiv work (max 1 (64 * minClusters shape)) * o.g

/-- Cycles added by the outlier channels of the input (R250). -/
def outlierCycles (shape cap : Nat) (m : Model) (o : OpRec) : Nat :=
  headsPerCore shape cap * 2 * (tensorDesc m o.inTensor).outCh.length * ceilDiv o.outputs 64

/-- The execute-stage cycles of an operation without its reservations. -/
def opCycles (shape cap : Nat) (m : Model) (o : OpRec) : Nat :=
  64 + (match o.kind with
    | 1 => densePass shape cap o * (if tensorS16 m o.inTensor then 2 else 1) + outlierCycles shape cap m o
    | 2 => 0
    | 3 => (match m.ensembles[o.aux]? with
      | some e => e.cycles shape cap
      | none => 0)
    | 4 => headsPerCore shape cap * programCycles m o
    | _ => (match m.seq with
      | some q => headsPerCore shape cap * surpriseCycles q
      | none => 0))

/-- Reserved cycles of the additional pass of a consumer of a watched U8 tensor (R249). -/
def reservedPass (shape cap : Nat) (m : Model) (o : OpRec) : Nat :=
  if o.kind == 1 && (tensorDesc m o.inTensor).watch && !tensorS16 m o.inTensor then densePass shape cap o else 0

/-- Reserved cycles of the second run of a watched tensor's producer (R249). -/
def reservedRun (shape cap : Nat) (m : Model) (o : OpRec) : Nat :=
  if o.kind == 1 && o.outTensor != 255 && (tensorDesc m o.outTensor).watch then
    64 + densePass shape cap o * (if tensorS16 m o.inTensor || (tensorDesc m o.inTensor).watch then 2 else 1) +
      outlierCycles shape cap m o
  else 0

/-- All cycles that an operation occupies with its reservations. -/
def totalCycles (shape cap : Nat) (m : Model) (o : OpRec) : Nat :=
  opCycles shape cap m o + reservedPass shape cap m o + reservedRun shape cap m o

/-- The demand of a generation (R70). -/
def demand (shape cap : Nat) (m : Model) : Nat := sumN (m.ops.map (totalCycles shape cap m))

end Sys2Proof.Machine
end

