-- ==== Sys2Proof/Machine/Sha.lean ====
section
/-! DEFINITION. SHA-256 (FIPS 180-4), HMAC-SHA-256 (FIPS 198-1) and HKDF (RFC 5869), which the manual names for digests,
Merkle trees, key derivation and the logbook (R374, R386, R391, R479). -/

namespace Sys2Proof.Machine

abbrev W32 := BitVec 32

/-! ## The constants, from the roots of the primes -/

/-- The largest number of at most `bits` bits, `r` above them, whose k-th power does not exceed n. -/
def rootFrom (k n : Nat) : Nat → Nat → Nat
  | 0, r => r
  | bits + 1, r => rootFrom k n bits (if (r + 2 ^ bits) ^ k ≤ n then r + 2 ^ bits else r)

/-- The first 32 bits of the fraction of the k-th root of p, for p below 2^12. -/
def rootFraction (k p : Nat) : W32 := BitVec.ofNat 32 (rootFrom k (p * 2 ^ (32 * k)) 38 0)

/-- The first primes: those among the numbers to 311 that no smaller one divides. -/
def primes : List Nat :=
  (List.range 312).filter fun n => decide (2 ≤ n) && (List.range 18).all fun d => decide (d < 2) || decide (n ≤ d) || n % d != 0

/-- One constant for each round: the cube roots of the first 64 primes. -/
def roundConstants : List W32 := primes.map (rootFraction 3)

/-- The chaining value at the start: the square roots of the first 8 primes. -/
def startValues : List W32 := (primes.take 8).map (rootFraction 2)

/-! ## One block -/

/-- The exclusive or of the rotations of a word. -/
def rotations (ns : List Nat) (x : W32) : W32 := ns.foldl (fun y n => y ^^^ x.rotateRight n) 0

/-- A block under way: the eight working words, and the sixteen message words that come next. -/
structure HashRun where
  work : List W32
  next : List W32
  deriving DecidableEq, Repr

/-- The message word that enters as the first one leaves. -/
def enteringWord (w : List W32) : W32 :=
  let low := w.getD 1 0
  let high := w.getD 14 0
  w.getD 0 0 + (rotations [7, 18] low ^^^ low >>> 3) + w.getD 9 0 + (rotations [17, 19] high ^^^ high >>> 10)

/-- One round with its constant: a new word enters the first half of the working words and one the second. -/
def HashRun.round (x : HashRun) (k : W32) : HashRun :=
  let at_ (i : Nat) : W32 := x.work.getD i 0
  let choose := at_ 6 ^^^ (at_ 4 &&& (at_ 5 ^^^ at_ 6))
  let most := (at_ 0 &&& at_ 1) ||| (at_ 2 &&& (at_ 0 ||| at_ 1))
  let sum := at_ 7 + rotations [6, 11, 25] (at_ 4) + choose + k + x.next.getD 0 0
  { work := (sum + rotations [2, 13, 22] (at_ 0) + most) :: x.work.take 3 ++ (at_ 3 + sum) :: (x.work.drop 4).take 3
    next := x.next.drop 1 ++ [enteringWord x.next] }

/-- The chaining value after a block of 64 bytes. -/
def hashBlock (h : List W32) (block : Bytes) : List W32 :=
  let words := (chunks 4 block).map fun b => BitVec.ofNat 32 (beNat b)
  List.zipWith (· + ·) h (roundConstants.foldl HashRun.round ⟨h, words⟩).work

/-- A message filled to whole blocks: a 1 bit, zeros, and its length in bits. -/
def filled (m : Bytes) : Bytes := m ++ natBe (64 - (m.length + 8) % 64) (2 ^ (8 * (64 - (m.length + 8) % 64) - 1)) ++ natBe 8 (8 * m.length)

/-- SHA-256 of a byte string (FIPS 180-4). -/
def sha256 (m : Bytes) : Bytes := ((chunks 64 (filled m)).foldl hashBlock startValues).flatMap fun x => natBe 4 x.toNat

/-- HMAC-SHA-256 (FIPS 198-1). -/
def hmac (key m : Bytes) : Bytes :=
  let k0 := if key.length ≤ 64 then key else sha256 key
  let k := k0 ++ List.replicate (64 - k0.length) 0
  sha256 (k.map (· ^^^ 0x5c) ++ sha256 (k.map (· ^^^ 0x36) ++ m))

/-- HKDF-Expand with SHA-256, `n` blocks of 32 bytes from block `i` on (RFC 5869). -/
def hkdfBlocks (prk info : Bytes) : Nat → Nat → Bytes → Bytes
  | 0, _, _ => []
  | n + 1, i, t =>
    let t' := hmac prk (t ++ info ++ [BitVec.ofNat 8 i])
    t' ++ hkdfBlocks prk info n (i + 1) t'

/-- HKDF with SHA-256: salt, input keying material, info and length (RFC 5869). -/
def hkdf (salt ikm info : Bytes) (len : Nat) : Bytes :=
  (hkdfBlocks (hmac salt ikm) info (ceilDiv len 32) 1 []).take len

/-- The bytes of an ASCII string. -/
def ascii (t : String) : Bytes := t.toList.map fun c => BitVec.ofNat 8 c.toNat

end Sys2Proof.Machine
end

