-- ==== Sys2Proof/Machine/Slh.lean ====
section
/-! DEFINITION. SLH-DSA of FIPS 205 with the SHA-2 parameter sets 128f and 128s, which the manual names for the attestation key, tally
roots, attestation reports and images (R375, R390, R391, R408; log 141). A hash is a list of 16 bytes. -/

namespace Sys2Proof.Machine

/-! ## Parameters, keys and hashes -/

/-- A parameter set: levels of one Merkle tree, layers of such trees, levels and number of the few-time trees, and bytes of the message
digest. -/
structure SlhSet where
  levels : Nat
  layers : Nat
  few : Nat
  count : Nat
  digest : Nat
  deriving DecidableEq, Repr

/-- SLH-DSA-SHA2-128f. -/
def slhFast : SlhSet := ⟨3, 22, 6, 33, 34⟩

/-- SLH-DSA-SHA2-128s. -/
def slhSmall : SlhSet := ⟨9, 7, 12, 14, 30⟩

/-- The key bytes: SK.seed, SK.prf and PK.seed, 16 bytes each (R391). -/
structure SlhKey where
  secret : Bytes
  prf : Bytes
  seed : Bytes
  deriving DecidableEq, Repr

/-- The key that 48 bytes spell. -/
def SlhKey.ofBytes (b : Bytes) : SlhKey := ⟨b.take 16, slice b 16 16, slice b 32 16⟩

/-- What an address is for. -/
inductive SlhUse where
  | wotsHash | wotsKey | merkle | few | fewRoots | wotsSecret | fewSecret
  deriving DecidableEq, Repr

/-- The code of a use. -/
def SlhUse.code : SlhUse → Nat
  | .wotsHash => 0
  | .wotsKey => 1
  | .merkle => 2
  | .few => 3
  | .fewRoots => 4
  | .wotsSecret => 5
  | .fewSecret => 6

/-- A Merkle tree of the hypertree: its layer and its number there. -/
structure SlhTree where
  layer : Nat
  number : Nat
  deriving DecidableEq, Repr

/-- A compressed address of 22 bytes: the tree, the use, and three words. -/
def SlhTree.place (t : SlhTree) (u : SlhUse) (x y z : Nat) : Bytes :=
  pack [(8, t.layer), (64, t.number), (8, u.code), (32, x), (32, y), (32, z)] |> natBe 22

/-- The tweaked hash of a message at an address. -/
def slhHash (seed place m : Bytes) : Bytes := (sha256 (seed ++ natBe 48 0 ++ place ++ m)).take 16

/-! ## Merkle trees -/

/-- How a kind of tree hashes two children: level and index of the node, and the children one after the other. -/
abbrev SlhJoin := Nat → Nat → Bytes → Bytes

/-- Node i of a level, from the leaves. -/
def slhNode (leaf : Nat → Bytes) (join : SlhJoin) : Nat → Nat → Bytes
  | 0, i => leaf i
  | z + 1, i => join (z + 1) i (slhNode leaf join z (2 * i) ++ slhNode leaf join z (2 * i + 1))

/-- The siblings on the way from leaf i up n levels. -/
def slhPath (leaf : Nat → Bytes) (join : SlhJoin) (n i : Nat) : List Bytes :=
  (List.range n).map fun z => let k := i / 2 ^ z; slhNode leaf join z (if k % 2 == 0 then k + 1 else k - 1)

/-- The node reached from leaf i with value x and the siblings on its way. -/
def slhClimb (join : SlhJoin) (x : Bytes) (i : Nat) (path : List Bytes) : Bytes :=
  path.zipIdx.foldl (fun y s =>
    join (s.2 + 1) (i / 2 ^ (s.2 + 1)) (if i / 2 ^ s.2 % 2 == 0 then y ++ s.1 else s.1 ++ y)) x

/-! ## One-time signatures -/

/-- The digits of a hash, and the three of their checksum. -/
def slhDigits (m : Bytes) : List Nat :=
  let d := m.flatMap fun b => [b.toNat / 16, b.toNat % 16]
  let c := sumN (d.map (15 - ·))
  d ++ [c / 256, c / 16 % 16, c % 16]

/-- A chain of leaf i of a tree carried on from step `first` by n steps. -/
def SlhTree.chain (t : SlhTree) (seed : Bytes) (i c first n : Nat) (x : Bytes) : Bytes :=
  (List.range n).foldl (fun y j => slhHash seed (t.place .wotsHash i c (first + j)) y) x

/-- The start of chain c of leaf i. -/
def SlhTree.start (t : SlhTree) (k : SlhKey) (i c : Nat) : Bytes := slhHash k.seed (t.place .wotsSecret i c 0) k.secret

/-- The leaf that the ends of its 35 chains give. -/
def SlhTree.leafOf (t : SlhTree) (seed : Bytes) (i : Nat) (ends : List Bytes) : Bytes :=
  slhHash seed (t.place .wotsKey i 0 0) ends.flatten

/-- Leaf i of a tree. -/
def SlhTree.leaf (t : SlhTree) (k : SlhKey) (i : Nat) : Bytes :=
  t.leafOf k.seed i ((List.range 35).map fun c => t.chain k.seed i c 0 15 (t.start k i c))

/-- The hash of two children of a tree. -/
def SlhTree.join (t : SlhTree) (seed : Bytes) : SlhJoin := fun z i m => slhHash seed (t.place .merkle 0 z i) m

/-- The signature of a hash by leaf i of a tree: its 35 chains, then the siblings of the leaf. -/
def SlhTree.sign (t : SlhTree) (p : SlhSet) (k : SlhKey) (i : Nat) (m : Bytes) : List Bytes :=
  ((slhDigits m).zipIdx.map fun d => t.chain k.seed i d.2 0 d.1 (t.start k i d.2)) ++
    slhPath (t.leaf k) (t.join k.seed) p.levels i

/-- The root that such a signature of a hash gives. -/
def SlhTree.rootFrom (t : SlhTree) (seed : Bytes) (i : Nat) (m : Bytes) (sig : List Bytes) : Bytes :=
  let ends := (sig.take 35).zip (slhDigits m) |>.zipIdx.map fun s => t.chain seed i s.2 s.1.2 (15 - s.1.2) s.1.1
  slhClimb (t.join seed) (t.leafOf seed i ends) i (sig.drop 35)

/-- The root of a tree. -/
def SlhTree.root (t : SlhTree) (p : SlhSet) (k : SlhKey) : Bytes := slhNode (t.leaf k) (t.join k.seed) p.levels 0

/-! ## The hypertree -/

/-- A hash signed by leaf i of a tree, its root by the tree of the next layer, and so on for n layers. -/
def SlhTree.signUp (p : SlhSet) (k : SlhKey) : Nat → SlhTree → Nat → Bytes → List Bytes
  | 0, _, _, _ => []
  | n + 1, t, i, m =>
    t.sign p k i m ++ signUp p k n ⟨t.layer + 1, t.number / 2 ^ p.levels⟩ (t.number % 2 ^ p.levels) (t.root p k)

/-- The root of the last of n layers that the signatures of a hash give. -/
def SlhTree.rootUp (p : SlhSet) (seed : Bytes) : Nat → SlhTree → Nat → Bytes → List Bytes → Bytes
  | 0, _, _, m, _ => m
  | n + 1, t, i, m, sig =>
    rootUp p seed n ⟨t.layer + 1, t.number / 2 ^ p.levels⟩ (t.number % 2 ^ p.levels)
      (t.rootFrom seed i m (sig.take (35 + p.levels))) (sig.drop (35 + p.levels))

/-! ## Few-time signatures -/

/-- The secret of leaf j of the few-time trees under leaf i of a tree. -/
def SlhTree.fewSecret (t : SlhTree) (k : SlhKey) (i j : Nat) : Bytes := slhHash k.seed (t.place .fewSecret i 0 j) k.secret

/-- A node of those trees; level 0 is the hash of a secret. -/
def SlhTree.fewJoin (t : SlhTree) (seed : Bytes) (i : Nat) : SlhJoin := fun z j m => slhHash seed (t.place .few i z j) m

/-- Leaf of few-time tree n that a digest picks. -/
def SlhSet.pick (p : SlhSet) (md : Bytes) (n : Nat) : Nat :=
  n * 2 ^ p.few + beNat md / 2 ^ (8 * md.length - p.few * (n + 1)) % 2 ^ p.few

/-- The few-time signature of a digest. -/
def SlhTree.fewSign (t : SlhTree) (p : SlhSet) (k : SlhKey) (i : Nat) (md : Bytes) : List Bytes :=
  (List.range p.count).flatMap fun n =>
    let leaf (j : Nat) : Bytes := t.fewJoin k.seed i 0 j (t.fewSecret k i j)
    t.fewSecret k i (p.pick md n) :: slhPath leaf (t.fewJoin k.seed i) p.few (p.pick md n)

/-- The hash that stands for a few-time signature. -/
def SlhTree.fewKey (t : SlhTree) (p : SlhSet) (seed : Bytes) (i : Nat) (md : Bytes) (sig : List Bytes) : Bytes :=
  slhHash seed (t.place .fewRoots i 0 0) ((List.range p.count).flatMap fun n =>
    let s := (sig.drop (n * (p.few + 1))).take (p.few + 1)
    let j := p.pick md n
    slhClimb (t.fewJoin seed i) (t.fewJoin seed i 0 j (s.getD 0 [])) j (s.drop 1))

/-! ## Messages -/

/-- A message in pure mode under a context string. -/
def slhMessage (context m : Bytes) : Bytes := 0 :: natBe 1 context.length ++ context ++ m

/-- What a message's digest picks: the part that is signed, the tree, and its leaf. -/
structure SlhPick where
  md : Bytes
  tree : SlhTree
  leaf : Nat
  deriving DecidableEq, Repr

/-- The digest of a message under the randomiser r. -/
def SlhSet.split (p : SlhSet) (r pk m : Bytes) : SlhPick :=
  let inner := r ++ pk.take 16 ++ sha256 (r ++ pk ++ m)
  let d := (sha256 (inner ++ natBe 4 0) ++ sha256 (inner ++ natBe 4 1)).take p.digest
  let n := ceilDiv (p.few * p.count) 8
  let up := p.levels * (p.layers - 1)
  { md := d.take n
    tree := ⟨0, beAt d n (ceilDiv up 8) % 2 ^ up⟩
    leaf := beAt d (n + ceilDiv up 8) (ceilDiv p.levels 8) % 2 ^ p.levels }

/-- The public key: PK.seed and the root of the topmost tree. -/
def SlhSet.publicKey (p : SlhSet) (k : SlhKey) : Bytes := k.seed ++ SlhTree.root ⟨p.layers - 1, 0⟩ p k

/-- Hashes of a signature. -/
def SlhSet.hashes (p : SlhSet) : Nat := 1 + p.count * (p.few + 1) + p.layers * (35 + p.levels)

/-- The deterministic signature of a message. -/
def SlhSet.sign (p : SlhSet) (k : SlhKey) (context m : Bytes) : Bytes :=
  let m := slhMessage context m
  let r := (hmac k.prf (k.seed ++ m)).take 16
  let x := p.split r (p.publicKey k) m
  let few := x.tree.fewSign p k x.leaf x.md
  (r :: few ++ SlhTree.signUp p k p.layers x.tree x.leaf (x.tree.fewKey p k.seed x.leaf x.md few)).flatten

/-- A signature of a message verifies under a public key. -/
def SlhSet.verify (p : SlhSet) (pk context m sig : Bytes) : Bool :=
  let h := chunks 16 sig
  let m := slhMessage context m
  let few := p.count * (p.few + 1)
  let x := p.split (h.getD 0 []) pk m
  pk.length == 32 && sig.length == 16 * p.hashes &&
    SlhTree.rootUp p (pk.take 16) p.layers x.tree x.leaf (x.tree.fewKey p (pk.take 16) x.leaf x.md ((h.drop 1).take few))
      (h.drop (1 + few)) == pk.drop 16

end Sys2Proof.Machine
end

