-- ==== Sys2Proof/Machine/Images.lean ====
section
/-! DEFINITION. Images: the envelope and its acceptance, schedule images and model images with every check made on them
(R64 to R70, R141, R211 to R214, R238, R268, R269, R279, R280, R286, R300 to R307, R314, R315, R389, R390). -/

namespace Sys2Proof.Machine

/-! ## The envelope (R389, R390) -/

/-- An envelope taken apart. -/
structure Envelope where
  head : Bytes
  magic : Nat
  version : Nat
  kind : Nat
  signer : Nat
  stepping : Nat
  svn : Nat
  bodyBytes : Nat
  digest : Bytes
  bind : Bytes
  imageId : Nat
  body : Bytes
  signature : Bytes
  deriving DecidableEq, Repr

/-- `n` rounded up to a multiple of 64. -/
def up64 (n : Nat) : Nat := ceilDiv n 64 * 64

/-- `n` rounded up to a multiple of 128. -/
def up128 (n : Nat) : Nat := ceilDiv n 128 * 128

/-- Bytes of a signature of SLH-DSA-SHA2-128s. -/
def signatureBytes : Nat := 7856

/-- The envelope of an image. -/
def openEnvelope (image : Bytes) : Envelope :=
  let n := beAt image 12 5
  { head := image.take 128
    magic := beAt image 0 4
    version := beAt image 4 1
    kind := beAt image 5 1
    signer := beAt image 6 1
    stepping := beAt image 7 1
    svn := beAt image 8 4
    bodyBytes := n
    digest := slice image 24 32
    bind := slice image 56 32
    imageId := beAt image 88 8
    body := slice image 128 n
    signature := slice image (128 + up64 n) signatureBytes }

/-- What acceptance is judged against. -/
structure Trust where
  keyId : Bytes
  ownerKey : Bytes
  counter0 : Nat
  counter1 : Nat
  deriving DecidableEq, Repr

/-- Failures of R390. -/
inductive AcceptFail where
  | format | digest | bind | rollback | signature
  deriving DecidableEq, Repr

/-- accept() of R390: the first failure. -/
def acceptFailure (t : Trust) (image : Bytes) (kind : Nat) : Option AcceptFail :=
  let e := openEnvelope image
  let vendor := kind == 1 || kind == 2 || kind == 3
  if e.magic != 0x43464E45 || e.version != 1 || e.kind != kind || e.stepping != 0xB0 then some .format
  else if e.signer != (if vendor then 0 else 1) then some .format
  else if image.length < 128 + up64 e.bodyBytes + signatureBytes then some .format
  else if sha256 e.body != e.digest then some .digest
  else if kind == 2 && e.bind != t.keyId then some .bind
  else if kind != 2 && e.bind != List.replicate 32 0 && e.bind != t.keyId then some .bind
  else if (kind == 1 || kind == 3) && decide (e.svn < t.counter0) then some .rollback
  else if !vendor && decide (e.svn < t.counter1) then some .rollback
  else if !slhSmall.verify (if vendor then Config.rootKey else t.ownerKey) (ascii "CFN-IMAGE") e.head e.signature then
    some .signature
  else none

/-- What the device judges loaded images against. -/
def trustOf (s : State) : Trust :=
  ⟨s.secure.keyId, s.secure.ownerKey, rd s SECURE_COUNTERS.COUNTER0, rd s SECURE_COUNTERS.COUNTER1⟩

/-! ## Directories (R301) -/

/-- The sections of a directory of n entries at byte `at_`: kind, offset and bytes. -/
def directory (b : Bytes) (at_ n : Nat) : List (Nat × Nat × Nat) :=
  (List.range n).map fun i =>
    let e := beAt b (at_ + 16 * i) 16
    (fld e 127 120, fld e 119 80, fld e 79 40)

/-- The section of a kind. -/
def sectionOf (d : List (Nat × Nat × Nat)) (kind : Nat) : Option (Nat × Nat) := (d.find? fun e => e.1 == kind).map (·.2)

/-- The bytes of a section, empty where it is absent. -/
def sectionBytes (b : Bytes) (d : List (Nat × Nat × Nat)) (kind : Nat) : Bytes :=
  match sectionOf d kind with
  | some (o, n) => slice b o n
  | none => []

/-- Kinds in a range, none twice, offsets multiples of 64 and sections within `size` bytes (R301). -/
def directoryOk (d : List (Nat × Nat × Nat)) (maxKind size : Nat) : Bool :=
  (d.all fun e => decide (1 ≤ e.1) && decide (e.1 ≤ maxKind) && e.2.1 % 64 == 0 && decide (e.2.1 + e.2.2 ≤ size)) &&
    (dedupN (d.map (·.1))).length == d.length

/-! ## Schedule images (R41, R42, R65, R66, R69) -/

/-- An activity entry from 32 bytes (R66). -/
def parseActivity (b : Bytes) : Activity :=
  let w := beAt b 0 32
  { kind := fld w 255 248
    slot := fld w 247 244
    priority := fld w 239 234
    shed := fld w 233 232
    startBeat := fld w 231 220
    period := fld w 219 208
    budget := fld w 207 176
    shedBudget := fld w 175 144
    shedCapacity := fld w 143 128
    hbmUnits := fld w 127 96 }

/-- A schedule from the body of its image (R65). -/
def parseSchedule (index : Nat) (b : Bytes) : Schedule :=
  let w := beAt b 0 32
  { index := index
    id := fld w 127 64
    n := fld w 207 196
    latency := fld w 195 192
    capacity := fld w 183 168
    fmin := fld w 167 156
    margin := fld w 155 144
    traceReserved := bit w 128
    shape := beAt b 32 48
    acts := (List.range (fld w 191 184)).map fun i => parseActivity (slice b (80 + 32 * i) 32) }

/-- HBM channels of a shape. -/
def channelCount (shape : Nat) : Nat := popcount 256 (fld shape 319 64)

/-- A valid shape descriptor (R42). -/
def shapeValid (shape : Nat) : Bool :=
  let dies := List.range 4
  let stackNos := List.range 8
  let chans (n : Nat) : Nat := fld shape (95 + 32 * n) (64 + 32 * n)
  (dies.any (hasDie shape)) &&
    (dies.all fun d => hasDie shape d == (clusterCount shape d != 0)) &&
    (stackNos.any fun n => bit shape (328 + n)) &&
    (stackNos.all fun n => bit shape (328 + n) == (chans n != 0)) &&
    fld shape 63 32 != 0

/-- Clock of an activity: 0 ACLK, 1 HCLK, 2 CCLK (R67). -/
def Activity.clock (a : Activity) : Nat := if a.kind ≤ 2 then 0 else if a.kind ≤ 4 then 1 else 2

/-- Budgets summed over the entries that a condition selects. -/
def budgetSum (l : List Activity) (p : Activity → Bool) : Nat := sumN ((l.filter p).map (·.budget))

/-- No two of a list are equal. -/
def allDistinct (l : List Nat) : Bool := (dedupN l).length == l.length

/-- Check 4 of R69. -/
def slotEntriesOk (l : List Activity) : Bool :=
  allDistinct ((l.filter (·.kind == 1)).map (·.slot)) && allDistinct ((l.filter (·.kind == 2)).map (·.slot)) &&
    l.all fun a => match a.kind with
      | 1 => a.startBeat == 0 && a.period == 1 && (a.shed == 0 || a.shed == 3)
      | 2 => a.shed == 1 || a.shed == 2
      | _ => a.shed != 3

/-- The first check of R69 that a schedule image fails. -/
def scheduleFailure (b : Bytes) : Option Nat :=
  let w := beAt b 0 32
  let c := parseSchedule 0 b
  let l := c.acts
  let checks : List Bool := [
    fld w 255 224 == 0x48534348 && fld w 223 216 == 1 && fld w 215 208 == 0xB0 && shapeValid c.shape,
    c.n != 0 && 1000000 % c.n == 0 && decide (8 ≤ c.n) && decide (c.n ≤ 4000) && decide (2 ≤ c.latency) &&
      decide (c.latency ≤ 8) && decide (1 ≤ l.length) && decide (l.length ≤ 64) && decide (1 ≤ c.capacity) &&
      decide (c.capacity ≤ 5000) && decide (600 ≤ c.fmin) && decide (c.fmin ≤ 1800) && decide (c.margin ≤ 4000),
    (l.all fun a => decide (1 ≤ a.kind) && decide (a.kind ≤ 8) && a.period != 0 && c.n % a.period == 0 &&
      decide (a.startBeat < a.period)) && allDistinct (l.map (·.priority)),
    slotEntriesOk l,
    (l.filter (·.kind == 7)).length == 1 && (l.filter (·.kind == 8)).length == 1 &&
      l.all fun a => !(a.kind == 7 || a.kind == 8) || a.shed == 0,
    decide (budgetSum l (·.clock == 0) + 32 ≤ cyclesFor c.n c.fmin c.margin),
    decide (budgetSum l (fun a => a.clock == 0 && a.shed == 0) + 32 ≤ cyclesFor c.n 600 c.margin),
    decide (budgetSum l (·.clock == 1) ≤ c.n * 1250) && decide (budgetSum l (·.clock == 2) ≤ c.n * 1000),
    decide (sumN (l.map (·.hbmUnits)) ≤ c.n * 1250 * channelCount c.shape)]
  (checks.zipIdx.find? fun k => !k.1).map fun k => k.2 + 1

/-! ## Refusals of staging (R279, R307) -/

/-- A refusal: cause, schedule, detail and the overflow report of R279. -/
structure StageFail where
  cause : Nat
  schedule : Nat
  detail : Nat
  report : Nat
  deriving DecidableEq, Repr

/-- A refusal without a schedule and a report. -/
def StageFail.at_ (cause detail : Nat) : StageFail := ⟨cause, 0, detail, 0⟩

/-- The first of a list of optional values. -/
def firstSome {α : Type} : List (Option α) → Option α
  | [] => none
  | some a :: _ => some a
  | none :: l => firstSome l

/-- A refusal where a condition fails. -/
def need (ok : Bool) (f : StageFail) : Option StageFail := if ok then none else some f

/-- The overflow report of R279. -/
structure Report where
  cause : Nat
  ensemble : Nat
  core : Nat
  part : Nat
  firstTree : Nat
  lastTree : Nat
  needed : Nat
  available : Nat
  schedule : Nat
  deriving DecidableEq, Repr

/-- The 256 bits of a report. -/
def Report.word (r : Report) : Nat :=
  pack [(8, r.cause), (4, r.ensemble), (4, r.core), (6, r.part), (17, r.firstTree), (17, r.lastTree), (48, r.needed),
    (48, r.available), (48, r.needed - r.available), (8, r.schedule), (48, 0)]

/-- A refusal under cause 6. -/
def treeFail (r : Report) : StageFail := ⟨6, 0, r.ensemble, r.word⟩

/-! ## Model images (R300 to R304) -/

/-- The header of a model image (R300). -/
structure ModelHead where
  magic : Nat
  version : Nat
  stepping : Nat
  modelId : Nat
  ops : Nat
  feats : Nat
  tensors : Nat
  ensembles : Nat
  tables : Nat
  hasSeq : Bool
  hasAdapt : Bool
  featTensor : Nat
  featZp : Nat
  sections : Nat
  bytes : Nat
  deriving DecidableEq, Repr

def parseModelHead (b : Bytes) : ModelHead :=
  let w := beAt b 0 64
  { magic := fld w 511 480
    version := fld w 479 472
    stepping := fld w 471 464
    modelId := fld w 463 400
    ops := fld w 399 389
    feats := fld w 388 380
    tensors := fld w 379 371
    ensembles := fld w 370 366
    tables := fld w 365 359
    hasSeq := bit w 358
    hasAdapt := bit w 357
    featTensor := fld w 356 349
    featZp := fld w 348 341
    sections := fld w 340 336
    bytes := fld w 335 296 }

/-- A feature definition from 32 bytes, with its boundaries (R140). -/
def parseFeat (bounds : Bytes) (b : Bytes) : FeatDef :=
  let w := beAt b 0 32
  let count := fld w 208 201
  { kind := fld w 255 253
    source := fld w 252 246
    featA := fld w 245 236
    featB := fld w 235 226
    missing := fld w 225 218
    nanValid := bit w 217
    nanCode := fld w 216 209
    bounds := if fld w 255 253 == 1 then
        (List.range count).map fun i => sext 64 (beAt bounds (8 * (fld w 200 183 + i)) 8)
      else []
    zp := fld w 182 175
    shift := fld w 174 169
    mult := fld w 168 137
    offset := fld w 136 73
    size := fld w 72 52 }

/-- A quantisation descriptor from 64 bytes (R237). -/
def parseTensor (b : Bytes) : TensorDesc :=
  let w := beAt b 0 64
  { calScale := fld w 511 488
    calOScale := fld w 487 464
    minScale := fld w 463 440
    k := fld w 439 436 + 1
    fixed := bit w 435
    watch := bit w 434
    headroom := fld w 429 414
    satPpm := fld w 413 394
    mseMax := fld w 393 362
    outCh := (List.range (fld w 433 430)).map fun k => fld w (361 - 14 * k) (348 - 14 * k) }

/-- Raw fields of an operation record that the model does not keep (R302). -/
structure OpHead where
  gCode : Nat
  dataOffset : Nat
  dataBytes : Nat
  word : Nat
  deriving DecidableEq, Repr

def parseOpHead (b : Bytes) : OpHead :=
  let w := beAt b 0 64
  ⟨fld w 487 486, fld w 393 354, fld w 353 314, w⟩

/-- Offsets of the arrays of R303 and the size of the data. -/
structure DenseLayout where
  bias : Nat
  sb : Nat
  ow : Nat
  gs : Nat
  w : Nat
  size : Nat
  deriving DecidableEq, Repr

def denseLayout (outs groups g fmtW : Nat) (outlier : Bool) : DenseLayout :=
  let bias := up64 outs
  let sb := bias + up64 (4 * outs)
  let ow := sb + up64 (4 * outs)
  let gs := ow + (if outlier then up64 (4 * outs) else 0)
  let w := gs + up64 (4 * outs * groups)
  ⟨bias, sb, ow, gs, w, w + up64 (ceilDiv (outs * groups * g * formatBits fmtW) 8)⟩

/-- `n` four-byte scales from an offset. -/
def scalesAt (d : Bytes) (o n : Nat) : List Nat := ((chunks 4 (slice d o (4 * n))).map fun x => beNat x % 2 ^ 24)

/-- An operation record with its data (R302, R303); `outlier` says that its input has outlier channels. -/
def parseOp (image : Bytes) (outlier : Bool) (size : Nat) (b : Bytes) : OpRec :=
  let w := beAt b 0 64
  let h := parseOpHead b
  let kind := fld w 511 504
  let g := if h.gCode == 0 then 32 else if h.gCode == 1 then 64 else 128
  let n := fld w 485 471
  let fmtW := fld w 470 467
  let outs := fld w 432 419 + 1
  let d := slice image h.dataOffset h.dataBytes
  let groups := ceilDiv n g
  let l := denseLayout outs groups g fmtW outlier
  let dense := kind == 1
  { kind := kind
    inTensor := fld w 503 496
    outTensor := fld w 495 488
    g := g
    n := n
    fmtW := fmtW
    fmtOut := fld w 466 463
    f := fld w 462 457
    zo := fld w 456 449
    clampLo := fld w 448 441
    clampHi := fld w 440 433
    outputs := outs
    adapter := bit w 418
    outScale := fld w 417 394
    aux := fld w 313 304
    zw := if dense then unpackElems (if fmtW == 2 then 0 else if fmtW == 3 then 1 else fmtW) outs d else []
    bias := if dense then unpackElems 5 outs (slice d l.bias (4 * outs)) else []
    sb := if dense then scalesAt d l.sb outs else []
    owscale := if dense && outlier then scalesAt d l.ow outs else []
    gscale := if dense then scalesAt d l.gs (outs * groups) else []
    weights := if dense then unpackElems fmtW (outs * groups * g) (d.drop l.w) else []
    rows := if kind == 2 then (d.take (size * outs)).map (·.toNat) else []
    prog := if kind == 4 || kind == 5 then Config.programWords d else [] }

/-- The ensemble descriptor's own fields (R268). -/
structure EnsHead where
  version : Nat
  streamed : Bool
  partsCode : Nat
  trees : Nat
  maxDepth : Nat
  outputs : Nat
  inTensor : Nat
  inCodes : Nat
  windowKib : Nat
  offset : Nat
  bytes : Nat
  deriving DecidableEq, Repr

def parseEnsHead (b : Bytes) : EnsHead :=
  let w := beAt b 0 64
  ⟨fld w 511 504, bit w 503, fld w 502 501, fld w 500 484, fld w 483 479, fld w 478 472, fld w 471 464, fld w 463 455,
    fld w 454 444, fld w 443 404, fld w 403 364⟩

/-- Number of parts of a code. -/
def EnsHead.parts (h : EnsHead) : Nat := if h.partsCode == 0 then 16 else if h.partsCode == 1 then 32 else 64

/-- Offsets of the base table, the directory and the tree data (R268). -/
def EnsHead.baseAt (h : EnsHead) : Nat := up128 (4 * h.parts)
def EnsHead.dirAt (h : EnsHead) : Nat := h.baseAt + up128 (8 * h.outputs)
def EnsHead.treesAt (h : EnsHead) : Nat := h.dirAt + up128 (8 * h.trees)

/-- DEPTH, LEAF_MAX and OFFSET of each tree. -/
def EnsHead.dir (h : EnsHead) (d : Bytes) : List (Nat × Nat × Nat) :=
  (List.range h.trees).map fun t =>
    let w := beAt d (h.dirAt + 8 * t) 8
    (fld w 63 60 + 1, fld w 55 40, fld w 39 0)

/-- A tree from its directory entry (R265, R268). -/
def EnsHead.tree (h : EnsHead) (d : Bytes) (e : Nat × Nat × Nat) : Tree :=
  let at_ := h.treesAt + e.2.2
  let node (k : Nat) : Nat × Nat :=
    let w := beAt d (at_ + 4 * k) 4
    (fld w 31 24, fld w 23 15)
  let leafAt := at_ + 128 * nodeRows e.1
  { depth := e.1
    leafMax := e.2.1
    nodes := (List.range (2 ^ e.1 - 1)).map node
    leaves := unpackElems 4 (h.outputs * 2 ^ e.1) (slice d leafAt (2 * h.outputs * 2 ^ e.1)) }

/-- An ensemble from its descriptor (R268). -/
def parseEnsemble (image : Bytes) (b : Bytes) : Ensemble :=
  let h := parseEnsHead b
  let d := slice image h.offset h.bytes
  { streamed := h.streamed
    parts := h.parts
    outputs := h.outputs
    inTensor := h.inTensor
    inCodes := h.inCodes
    windowKib := h.windowKib
    maxDepth := h.maxDepth
    firstTree := (List.range h.parts).map fun q => beAt d (4 * q) 4 % 2 ^ 17
    base := (List.range h.outputs).map fun o =>
      let w := beAt d (h.baseAt + 8 * o) 8
      (fld w 63 40, sext 32 (fld w 31 0))
    trees := (h.dir d).map (h.tree d) }

/-- The lookup tables of a section of n tables, and the bytes left over (R304). -/
def parseLuts : Nat → Bytes → List Lut × Bytes
  | 0, b => ([], b)
  | n + 1, b =>
    let w := beAt b 0 16
    let k := fld w 127 124
    let size := up64 (16 + 4 * (2 ^ k + 1))
    let t : Lut := ⟨k, fld w 123 119, sext 32 (fld w 118 87), unpackElems 5 (2 ^ k + 1) (slice b 16 (4 * (2 ^ k + 1)))⟩
    let r := parseLuts n (b.drop size)
    (t :: r.1, if b.length < size then [0] else r.2)

/-- The sequence descriptor (R285). -/
def parseSeq (b : Bytes) : SeqDesc :=
  let w := beAt b 0 64
  let p := fld w 455 451
  { stateIn := fld w 503 496
    stateOut := fld w 495 488
    elements := fld w 487 477
    tag := fld w 476 461
    warmup := fld w 460 456
    positions := p
    logitOp := fld w 450 441
    expTable := fld w 440 435
    lnTable := fld w 434 429
    expFrac := fld w 428 424
    ln2q := fld w 423 408
    tokens := (List.range p).map fun i =>
      let t := fld w (287 - 18 * i) (270 - 18 * i)
      (fld t 17 8, fld t 7 0 + 1) }

/-- The adaptation descriptor (R315). -/
def parseAdapt (b : Bytes) : AdaptDesc :=
  let w := beAt b 0 64
  { version := fld w 511 504
    label := bit w 503
    labelOp := fld w 502 493
    n := fld w 492 487
    gShift := fld w 486 481
    gShiftMax := fld w 480 476
    b1 := fld w 475 468
    b2 := fld w 467 460
    vShift := fld w 459 454
    rsqrtTable := fld w 453 448
    rsShift := fld w 447 442
    lr := fld w 441 426
    lrShift := fld w 425 420
    stepMax := fld w 419 413
    driftSum := fld w 412 381
    driftElem := fld w 380 373
    margin := fld w 372 357
    minEval := fld w 356 341
    trainCap := fld w 340 309
    parts := fld w 308 245 }

/-- A model from the body of its image (R300 to R304). -/
def parseModel (digest image : Bytes) : Model :=
  let h := parseModelHead image
  let d := directory image 64 h.sections
  let feats := (chunks 32 (sectionBytes image d 1)).map (parseFeat (sectionBytes image d 2))
  let tensors := (chunks 64 (sectionBytes image d 3)).map parseTensor
  let outlier (b : Bytes) : Bool := !(tensors.getD (beAt b 1 1) TensorDesc.none_).outCh.isEmpty
  let size (b : Bytes) : Nat := (feats[fld (beAt b 0 64) 313 304]?).map (·.size) |>.getD 0
  { modelId := h.modelId
    featTensor := h.featTensor
    featZp := h.featZp
    feats := feats
    tensors := tensors
    ops := (chunks 64 (sectionBytes image d 4)).map fun b => parseOp image (outlier b) (size b) b
    ensembles := (chunks 64 (sectionBytes image d 5)).map (parseEnsemble image)
    luts := (parseLuts h.tables (sectionBytes image d 6)).1
    seq := if h.hasSeq then some (parseSeq (sectionBytes image d 7)) else none
    adapt := if h.hasAdapt then some (parseAdapt (sectionBytes image d 8)) else none
    digest := digest
    coreUse := Config.coreStoreUse image
    boundEntries := (sectionBytes image d 2).length / 8
    hbmUse := Config.hbmUse image }

/-! ## Check 2 HEADER (R300, R301) -/

/-- A section holds exactly `n` bytes; an absent one holds none. -/
def sectionExact (d : List (Nat × Nat × Nat)) (kind n : Nat) : Bool := match sectionOf d kind with
  | some (_, b) => b == n
  | none => n == 0

/-- Cause 2. -/
def checkHeader (image : Bytes) : Option StageFail :=
  let h := parseModelHead image
  let d := directory image 64 h.sections
  need (h.magic == 0x484D444C && h.version == 1 && h.stepping == 0xB0 && decide (1 ≤ h.ops) && decide (h.ops ≤ 1024) &&
    decide (h.feats ≤ 256) && decide (h.tensors ≤ 255) && decide (h.ensembles ≤ 16) && decide (h.tables ≤ 64) &&
    decide (1 ≤ h.sections) && decide (h.sections ≤ 16) && h.bytes == image.length &&
    directoryOk d 9 image.length && (sectionOf d 4).isSome &&
    sectionExact d 1 (32 * h.feats) && sectionExact d 3 (64 * h.tensors) && sectionExact d 4 (64 * h.ops) &&
    sectionExact d 5 (64 * h.ensembles) && sectionExact d 7 (if h.hasSeq then 64 else 0) &&
    sectionExact d 8 (if h.hasAdapt then 64 else 0) &&
    (sectionBytes image d 2).length % 8 == 0 && (parseLuts h.tables (sectionBytes image d 6)).2.isEmpty)
    (StageFail.at_ 2 0)

/-! ## Check 3 FEATURE (R121, R141) -/

/-- Format and largest width of a source: a field takes the widest extraction into it. -/
def sourceForm (f : FrontSt) (n : Nat) : Option (Nat × Nat) :=
  if n < 64 then
    let ws := (f.parse.flatMap (·.ops)).filterMap fun o => if o.1 == n then some o.2.2 else none
    some (f.formats.getD n 0, maxN 0 ws)
  else match n with
    | 64 => some (0, 24)
    | 65 => some (0, 16)
    | 66 => some (0, 10)
    | 67 => some (0, 16)
    | 68 => some (0, 6)
    | _ => none

/-- Strictly ascending. -/
def ascending : List Int → Bool
  | a :: b :: l => decide (a < b) && ascending (b :: l)
  | _ => true

/-- One definition among its generation's passes R141; `boundCount` is the number of boundaries of its image. A BIN whose boundaries run
past the section is refused too (log 166: DESIGN CHOICE). -/
def featOk (f : FrontSt) (fs : List FeatDef) (boundCount : Nat) (raw : Bytes) (d : FeatDef) : Bool :=
  let src := sourceForm f d.source
  let plain (i : Nat) : Bool := match fs[i]? with
    | some e => decide (e.kind ≤ 2)
    | none => false
  let w := beAt raw 0 32
  match d.kind with
  | 0 => (match src with
    | some (fm, wd) => fm == 0 && decide (wd ≤ 8)
    | none => false)
  | 1 => ascending d.bounds && decide (fld w 200 183 + fld w 208 201 ≤ boundCount) && (match src with
    | some (fm, wd) => fm != 4 && !(fm == 0 && decide (63 < wd))
    | none => false)
  | 2 => (match src with
    | some (fm, wd) => (fm == 0 && decide (wd ≤ 63)) || fm == 1
    | none => false)
  | 3 => plain d.featA && plain d.featB && d.mult % 2 == 1 && decide (d.missing < d.size) && decide (d.size ≤ 1048576)
  | 4 => src.isSome && d.mult % 2 == 1 && decide (d.missing < d.size) && decide (d.size ≤ 1048576)
  | _ => false

/-- Generations that hold memory: those active, and those in the staging position of every slot, staged or not yet drained. Two of one
origin, a candidate and the generation it was formed from, share everything (R276, R278, R308). -/
def heldGens (s : State) : List Gen :=
  s.slots.flatMap fun sl =>
    sl.active.toList ++ (match sl.staged with
      | some g => if sl.active.any fun a => a.origin == g.origin then [] else [g]
      | none => [])

/-- Cause 3. -/
def checkFeatures (s : State) (image : Bytes) (m : Model) : Option StageFail :=
  let h := parseModelHead image
  let d := directory image 64 h.sections
  let raw := chunks 32 (sectionBytes image d 1)
  let bc := (sectionBytes image d 2).length / 8
  let bad := (List.zip m.feats raw).zipIdx.find? fun x => !featOk s.front m.feats bc x.1.2 x.1.1
  match bad with
  | some x => some (StageFail.at_ 3 x.2)
  | none =>
    let gs := heldGens s
    need (decide (sumN (gs.map (·.model.feats.length)) + m.feats.length ≤ 1024) &&
      decide (sumN (gs.map (·.model.boundEntries)) + m.boundEntries ≤ 262144)) (StageFail.at_ 3 m.feats.length)

/-! ## Check 4 OPERATION (R211 to R214, R282, R283, R302, R303) -/

/-- A dense operation keeps to its ranges. -/
def denseOk (m : Model) (o : OpRec) (h : OpHead) : Bool :=
  let t := m.tensors.length
  let outlier := !(tensorDesc m o.inTensor).outCh.isEmpty
  h.gCode != 3 && decide (o.fmtW ≤ 3) && (o.fmtOut == 0 || o.fmtOut == 4 || o.fmtOut == 5) &&
    decide (1 ≤ o.n) && decide (o.n ≤ 16384) && decide (o.f ≤ 55) && decide (o.inTensor < t) &&
    (if o.fmtOut == 5 then o.outTensor == 255 && scaleMant o.outScale != 0 else decide (o.outTensor < t)) &&
    (o.fmtOut == 0 || o.zo == 0) && (o.fmtOut != 0 || decide (o.clampLo ≤ o.clampHi)) &&
    (o.zw.all fun z => match o.fmtW with
      | 2 => decide (z ≤ 15)
      | 3 => decide (-8 ≤ z) && decide (z ≤ 7)
      | _ => true) &&
    h.dataBytes == (denseLayout o.outputs o.groups o.g o.fmtW outlier).size

/-- The fields, as high and low bit, that an operation of a kind does not use, which are zero then (R302; log 158 says which kind uses
which). -/
def unusedFields : Nat → List (Nat × Nat)
  | 1 => [(313, 304)]
  | 2 => [(503, 496), (487, 467), (462, 457), (448, 433), (418, 394)]
  | 3 => [(487, 467), (462, 433), (418, 314)]
  | 4 => [(503, 496), (487, 467), (462, 457), (448, 433), (418, 394), (313, 304)]
  | _ => [(503, 496), (487, 467), (462, 433), (418, 394), (313, 304)]

/-- Both format codes of a record are codes of R211. -/
def formatsKnown (o : OpRec) : Bool := decide (o.fmtW ≤ 5) && decide (o.fmtOut ≤ 5)

/-- One operation record passes the checks of cause 4. -/
def opOk (image : Bytes) (m : Model) (o : OpRec) (h : OpHead) : Bool :=
  let t := m.tensors.length
  h.dataOffset % 64 == 0 && decide (h.dataOffset + h.dataBytes ≤ image.length) && formatsKnown o &&
    ((unusedFields o.kind).all fun f => fld h.word f.1 f.2 == 0) &&
    (match o.kind with
    | 1 => denseOk m o h
    | 2 => o.fmtOut == 0 && decide (o.outTensor < t) && (match m.feats[o.aux]? with
      | some d => (d.kind == 3 || d.kind == 4) && h.dataBytes == d.size * o.outputs
      | none => false)
    | 3 => o.outTensor == 255 && o.fmtOut == 5 && decide (o.aux < m.ensembles.length) && decide (o.inTensor < t) &&
      !tensorS16 m o.inTensor
    | 4 => (o.fmtOut == 0 || o.fmtOut == 4 || o.fmtOut == 5) && (o.fmtOut == 0 || o.zo == 0) &&
      (if o.fmtOut == 5 then o.outTensor == 255 else decide (o.outTensor < t)) &&
      Config.programOk (slice image h.dataOffset h.dataBytes)
    | 5 => o.outTensor == 255 && o.fmtOut == 5 && Config.programOk (slice image h.dataOffset h.dataBytes)
    | _ => false)

/-- A lookup table keeps to R231. -/
def Lut.ok (t : Lut) : Bool := decide (4 ≤ t.k) && decide (t.k ≤ 8) && decide (t.sh ≤ 31)

/-- Cause 4. -/
def checkOps (image : Bytes) (m : Model) : Option StageFail :=
  let h := parseModelHead image
  let d := directory image 64 h.sections
  let raw := (chunks 64 (sectionBytes image d 4)).map parseOpHead
  match (List.zip m.ops raw).zipIdx.find? fun x => !opOk image m x.1.1 x.1.2 with
  | some x => some (StageFail.at_ 4 x.2)
  | none => (m.luts.zipIdx.find? fun x => !x.1.ok).map fun x => StageFail.at_ 4 x.2

/-! ## Check 5 QUANT (R238) -/

/-- The dense producer of a tensor. -/
def denseProducer (m : Model) (t : Nat) : Option OpRec := match writerOf m t with
  | some (_, o) => if o.kind == 1 then some o else none
  | none => none

/-- Strictly ascending naturals. -/
def ascendingN : List Nat → Bool
  | a :: b :: l => decide (a < b) && ascendingN (b :: l)
  | _ => true

/-- A descriptor passes R238. -/
def tensorOk (m : Model) (t : Nat) (d : TensorDesc) : Bool :=
  let out := !d.outCh.isEmpty
  let p := denseProducer m t
  scaleMant d.calScale != 0 && scaleMant d.minScale != 0 && (!out || scaleMant d.calOScale != 0) &&
    decide (scaleValue d.minScale ≤ scaleValue d.calScale) && decide (d.satPpm ≤ 1000000) && decide (d.outCh.length ≤ 8) &&
    ascendingN d.outCh &&
    (!out || (!d.fixed && (match p with
      | some o => o.fmtOut == 0 && d.outCh.all fun c => decide (c < o.outputs)
      | none => false))) &&
    (!d.fixed || !d.watch) &&
    (!d.watch || ((m.ops.all fun o => o.kind == 1 || !(readsTensors o).contains t) && (match p with
      | some o => (o.clampLo == 0 || o.clampLo == o.zo) && o.clampHi == 255
      | none => false)))

/-- Cause 5. -/
def checkQuant (m : Model) : Option StageFail :=
  (m.tensors.zipIdx.find? fun x => !tensorOk m x.2 x.1).map fun x => StageFail.at_ 5 x.2

/-! ## Check 6 TREES (R262, R269, R276, R279, R280) -/

/-- Bytes of a core store. -/
def coreStoreBytes : Nat := 6291456

/-- Core store that a generation takes in core c. -/
def genCore (m : Model) (c : Nat) : Nat := up64 m.coreUse + sumN (m.ensembles.map fun e => up64 (e.footprint c))

/-- AVAILABLE(c) for ensemble k of a staging generation (R276). -/
def coreAvailable (s : State) (m : Model) (k c : Nat) : Int :=
  (coreStoreBytes : Int) - sumN ((heldGens s).map fun g => genCore g.model c) - up64 m.coreUse -
    sumN ((m.ensembles.take k).map fun e => up64 (e.footprint c))

/-- A report with nothing but its cause and ensemble. -/
def Report.plain (cause k : Nat) : Report := ⟨cause, k, 0, 0, 0, 0, 0, 0, 0⟩

/-- The report of a limit that a value broke. -/
def limitReport (k found limit : Nat) : Report := { Report.plain 4 k with needed := found, available := limit }

/-- The report of a tree that failed. -/
def treeReport (cause k t : Nat) : Report := { Report.plain cause k with firstTree := t, lastTree := t }

/-- A value outside a range, with the limit it broke. -/
def rangeFail (k v lo hi : Nat) : Option Report :=
  if v < lo then some (limitReport k v lo) else if hi < v then some (limitReport k v hi) else none

/-- Check 1 of R269. -/
def treeCheck1 (image : Bytes) (k : Nat) (h : EnsHead) : Option Report :=
  firstSome [rangeFail k h.version 1 1, rangeFail k h.partsCode 0 2, rangeFail k h.trees 1 65536,
    rangeFail k h.outputs 1 64, rangeFail k h.inCodes 1 256,
    (if h.streamed then rangeFail k h.windowKib 16 1024 else rangeFail k h.windowKib 0 0),
    (if h.windowKib % 16 == 0 then none else some (limitReport k h.windowKib 16)),
    (if h.offset % 128 == 0 then none else some (limitReport k h.offset 128)),
    rangeFail k (h.offset + h.bytes) 0 image.length]

/-- Check 2. -/
def treeCheck2 (m : Model) (k : Nat) (h : EnsHead) : Option Report :=
  let ok := match m.tensors[h.inTensor]? with
    | some d => !tensorS16 m h.inTensor && !d.watch && tensorLen m h.inTensor == h.inCodes
    | none => false
  if ok then none else some (Report.plain 6 k)

/-- Never decreasing. -/
def nonDecreasing : List Nat → Bool
  | a :: b :: l => decide (a ≤ b) && nonDecreasing (b :: l)
  | _ => true

/-- Check 3. -/
def treeCheck3 (k : Nat) (h : EnsHead) (e : Ensemble) : Option Report :=
  if e.firstTree.getD 0 1 == 0 && nonDecreasing e.firstTree && e.firstTree.all fun t => decide (t ≤ h.trees) then none
  else some (Report.plain 6 k)

/-- Check 4. -/
def treeCheck4 (k : Nat) (h : EnsHead) (e : Ensemble) : Option Report :=
  let d := maxN 0 (e.trees.map (·.depth))
  if h.maxDepth == d then none else some (limitReport k h.maxDepth d)

/-- The first tree whose OFFSET is not the sum of the sizes before it. -/
def offsetFailure (outs : Nat) : List (Nat × Nat × Nat) → Nat → Nat → Option Nat
  | [], _, _ => none
  | e :: l, t, at_ => if e.2.2 == at_ then offsetFailure outs l (t + 1) (at_ + treeSize outs e.1) else some t

/-- Check 5. -/
def treeCheck5 (k : Nat) (h : EnsHead) (d : Bytes) : Option Report :=
  let dir := h.dir d
  match offsetFailure h.outputs dir 0 0 with
  | some t => some (treeReport 6 k t)
  | none =>
    if h.treesAt + sumN (dir.map fun e => treeSize h.outputs e.1) == h.bytes then none
    else some (treeReport 6 k (h.trees - 1))

/-- All words of a tree's node block, fill words among them, keep to R264. -/
def nodeWordsOk (h : EnsHead) (d : Bytes) (e : Nat × Nat × Nat) : Bool :=
  (List.range (32 * nodeRows e.1)).all fun i =>
    let w := beAt d (h.treesAt + e.2.2 + 4 * i) 4
    decide (fld w 31 24 < h.inCodes) && decide (fld w 23 15 ≤ 256)

/-- Check 6. -/
def treeCheck6 (k : Nat) (h : EnsHead) (d : Bytes) : Option Report :=
  ((h.dir d).zipIdx.find? fun e => !nodeWordsOk h d e.1).map fun e => treeReport 6 k e.2

/-- Check 7. -/
def treeCheck7 (k : Nat) (e : Ensemble) : Option Report :=
  (e.trees.zipIdx.find? fun t => t.1.leafMax != maxN 0 (t.1.leaves.map Int.natAbs)).map fun t => treeReport 6 k t.2

/-- Check 8. -/
def treeCheck8 (k : Nat) (e : Ensemble) : Option Report :=
  let leaves := sumN (e.trees.map (·.leafMax))
  (e.base.find? fun b => decide (2 ^ 31 - 1 < b.2.natAbs + leaves) || scaleMant b.1 == 0).map fun b =>
    { Report.plain 5 k with needed := b.2.natAbs + leaves, available := 2 ^ 31 - 1 }

/-- The report with the trees of a part. -/
def Report.withPart (r : Report) (e : Ensemble) (q : Nat) : Report :=
  { r with part := q, firstTree := e.first q, lastTree := e.first (q + 1) - 1 }

/-- Check 9. -/
def treeCheck9 (k : Nat) (e : Ensemble) : Option Report :=
  if !e.streamed then none
  else ((List.range e.parts).find? fun q => decide (e.windowKib * 512 < e.partBytes q)).map fun q =>
    { Report.plain 3 k with needed := e.partBytes q, available := e.windowKib * 512 }.withPart e q

/-- The part that first brings the footprint of a resident ensemble in core c above what is available (R280). -/
def overflowPart (e : Ensemble) (avail : Nat) : List Nat → Nat → Option Nat
  | [], _ => none
  | q :: l, used =>
    if e.partBytes q != 0 && decide (avail < used + e.partBytes q) then some q else overflowPart e avail l (used + e.partBytes q)

/-- Check 10: the core of the largest OVER, the lowest-numbered on a tie (R280). Where what the core holds already exceeds its store,
AVAILABLE is 0. -/
def treeCheck10 (s : State) (m : Model) (k : Nat) (e : Ensemble) : Option Report :=
  let av (c : Nat) : Nat := (coreAvailable s m k c).toNat
  let excess (c : Nat) : Nat := e.footprint c - av c
  let worst := (List.range 16).foldl (fun b c => if excess b < excess c then c else b) 0
  if excess worst == 0 then none
  else
    let r := { Report.plain 1 k with core := worst, needed := e.footprint worst, available := av worst }
    if e.streamed then some r
    else match overflowPart e (av worst) (e.coreParts worst) (if worst == 0 then 8 * e.outputs else 0) with
      | some q => some (r.withPart e q)
      | none => some r

/-- Checks 1 to 10 of one ensemble. -/
def ensembleFailure (s : State) (image : Bytes) (m : Model) (raw : Bytes) (k : Nat) (e : Ensemble) : Option Report :=
  let h := parseEnsHead raw
  let d := slice image h.offset h.bytes
  firstSome [treeCheck1 image k h, treeCheck2 m k h, treeCheck3 k h e, treeCheck4 k h e, treeCheck5 k h d, treeCheck6 k h d,
    treeCheck7 k e, treeCheck8 k e, treeCheck9 k e, treeCheck10 s m k e]

/-- The SLOT_CHAIN entry of a slot in a schedule. -/
def chainEntry (c : Schedule) (slot : Nat) : Option Activity := c.acts.find? fun a => a.kind == 1 && a.slot == slot

/-- 64-byte transfers of the state of one batch: a gather and a write-back of the slot's block for every batch slot (R70, R287). -/
def stateDemand (s : State) (m : Model) (slot : Nat) (c : Schedule) : Nat :=
  if m.seq.isSome then 2 * c.capacity * hbmWords (stateBytes s slot) else 0

/-- HBM transfers per round of a generation without its streamed ensembles (R70; log 157). -/
def plainTransfers (s : State) (m : Model) (slot : Nat) (c : Schedule) : Nat :=
  c.n * (stateDemand s m slot c + Config.hbmTransfers m.digest c.capacity c.shape)

/-- The ensemble whose addition first brings the transfers above HBM_UNITS, and the total (R269 check 11). -/
def hbmOverflow (c : Schedule) (units : Nat) : List (Nat × Ensemble) → Nat → Option (Nat × Nat)
  | [], _ => none
  | (k, e) :: l, t =>
    let t' := t + c.n * e.transfers c.shape
    if units < t' then some (k, t') else hbmOverflow c units l t'

/-- Check 11 of R269 for one schedule; not made where the generation is too large without its ensembles. -/
def treeCheck11 (s : State) (m : Model) (slot : Nat) (c : Schedule) : Option Report :=
  match chainEntry c slot with
  | none => none
  | some a =>
    let t := plainTransfers s m slot c
    if a.hbmUnits < t then none
    else (hbmOverflow c a.hbmUnits (m.ensembles.zipIdx.map fun e => (e.2, e.1)) t).map fun r =>
      { Report.plain 2 r.1 with needed := r.2, available := a.hbmUnits, schedule := c.index }

/-- Cause 6. -/
def checkTrees (s : State) (image : Bytes) (m : Model) (slot : Nat) : Option StageFail :=
  let h := parseModelHead image
  let d := directory image 64 h.sections
  let raw := chunks 64 (sectionBytes image d 5)
  let one := firstSome ((List.zip m.ensembles raw).zipIdx.map fun x => ensembleFailure s image m x.1.2 x.2 x.1.1)
  (match one with
    | some r => some r
    | none => firstSome (s.sched.shapeSet.map (treeCheck11 s m slot))).map treeFail

/-! ## Checks 7 to 11 (R286, R287, R307, R314, R315) -/

/-- A fixed S16 tensor of E elements (R286). -/
def stateTensorOk (m : Model) (t e : Nat) (fixed16 : Bool) : Bool := match m.tensors[t]? with
  | some d => d.fixed && fixed16 && tensorLen m t == e
  | none => false

/-- Cause 7. -/
def checkSeq (s : State) (m : Model) (slot : Nat) : Option StageFail :=
  let surprises := (m.ops.filter (·.kind == 5)).length
  match m.seq with
  | none => need (surprises == 0) (StageFail.at_ 7 0)
  | some q =>
    let outOk := match writerOf m q.stateOut with
      | some (_, o) => o.kind == 4 && o.fmtOut == 4
      | none => false
    let logitOk := match m.ops[q.logitOp]? with
      | some o => o.kind == 1 && o.fmtOut == 5 && o.outputs == sumN (q.tokens.map (·.2))
      | none => false
    let tokenOk (t : Nat × Nat) : Bool := match m.feats[t.1]? with
      | some d => decide (d.kind ≤ 1)
      | none => false
    need (stateTensorOk m q.stateIn q.elements ((writerOf m q.stateIn).isNone && q.stateIn != m.featTensor) && outOk &&
      stateTensorOk m q.stateOut q.elements true &&
      scaleValue (tensorDesc m q.stateIn).calScale == scaleValue (tensorDesc m q.stateOut).calScale &&
      decide (32 ≤ q.elements) && decide (q.elements ≤ stateMax s slot) && q.elements % 32 == 0 &&
      decide (q.positions ≤ 16) && (q.positions == 0 || (logitOk && surprises == 1 && decide (q.expFrac ≤ 30) &&
        decide (q.expTable < m.luts.length) && decide (q.lnTable < m.luts.length))) &&
      (q.positions != 0 || surprises == 0) && q.tokens.all tokenOk &&
      decide (1 ≤ q.warmup) && decide (q.warmup ≤ 16)) (StageFail.at_ 7 0)

/-- The adapter operation of a model and its index (R314). -/
def adapterOp (m : Model) : Option (Nat × OpRec) := (m.ops.zipIdx.find? (·.1.adapter)).map fun o => (o.2, o.1)

/-- The descriptor's fields keep to their ranges (R315). -/
def AdaptDesc.ok (a : AdaptDesc) : Bool :=
  a.version == 1 && a.n % 2 == 0 && decide (2 ≤ a.n) && decide (a.n ≤ 32) && decide (a.gShiftMax ≤ 24) && a.b1 != 0 && a.b2 != 0 &&
    a.stepMax != 0 && decide (1 ≤ a.driftElem) && decide (a.driftElem ≤ 254)

/-- Cause 8. -/
def checkAdapt (m : Model) : Option StageFail :=
  let adapters := (m.ops.filter (·.adapter)).length
  match m.adapt with
  | none => none
  | some a =>
    let opOk := match adapterOp m, m.seq with
      | some (i, o), some q =>
        i == (if a.label then a.labelOp else q.logitOp) && o.kind == 1 && o.fmtW == 1 && (o.zw.all (· == 0)) &&
          o.fmtOut == 5 && (tensorDesc m o.inTensor).fixed &&
          (!a.label || (decide (2 ≤ o.outputs) && decide (o.outputs ≤ 256)))
      | _, _ => false
    need (adapters == 1 && opOk && a.ok && decide (a.rsqrtTable < m.luts.length)) (StageFail.at_ 8 0)

/-- Cause 9. -/
def checkTag (s : State) (m : Model) (slot : Nat) : Option StageFail :=
  match m.seq, (s.slots.getD slot SlotSt.reset).active with
  | some q, some g => (match g.model.seq with
    | some p => need (p.tag != q.tag || p.elements == q.elements) (StageFail.at_ 9 0)
    | none => none)
  | _, _ => none

/-- HBM that the regions of the configuration image leave. -/
def hbmLeft (s : State) : Nat :=
  384 * 2 ^ 30 - sumN ((s.secure.regions.filter fun r => r.code != 0x0C).map (·.size))

/-- HBM that a generation takes outside those regions in the working shape: the copy of each streamed ensemble on every present die, and
what else it keeps there, its adaptation buffers among it (R274, R307, R308). -/
def genHbm (s : State) (m : Model) : Nat :=
  dieCount s.sched.workShape * sumN (m.ensembles.map Ensemble.copyBytes) + m.hbmUse

/-- Cause 10. -/
def checkMemory (s : State) (m : Model) : Option StageFail :=
  let gs := heldGens s
  let fits (c : Nat) : Bool := decide (sumN (gs.map fun g => genCore g.model c) + genCore m c ≤ coreStoreBytes)
  need (((List.range 16).all fits) && decide (sumN (gs.map fun g => genHbm s g.model) + genHbm s m ≤ hbmLeft s))
    (StageFail.at_ 10 0)

/-- A generation fits a schedule for a slot (R70). -/
def fitsSchedule (s : State) (m : Model) (slot : Nat) (c : Schedule) : Bool :=
  match chainEntry c slot with
  | none => true
  | some a =>
    decide (c.n * demand c.shape c.capacity m ≤ a.budget) &&
      decide (plainTransfers s m slot c + c.n * sumN (m.ensembles.map fun e => e.transfers c.shape) ≤ a.hbmUnits)

/-- Cause 11. -/
def checkDemand (s : State) (m : Model) (slot : Nat) : Option StageFail :=
  (s.sched.shapeSet.find? fun c => !fitsSchedule s m slot c).map fun c => ⟨11, c.index, 0, 0⟩

/-- The checks of R307 on the body of a model image, in order; cause 1 is judged on the envelope before. -/
def modelFailure (s : State) (slot : Nat) (digest image : Bytes) : Option StageFail :=
  match checkHeader image with
  | some f => some f
  | none =>
    let m := parseModel digest image
    firstSome [checkFeatures s image m, checkOps image m, checkQuant m, checkTrees s image m slot, checkSeq s m slot,
      checkAdapt m, checkTag s m slot, checkMemory s m, checkDemand s m slot]

end Sys2Proof.Machine
end

