-- ==== Sys2Proof/Machine/Slots.lean ====
section
/-! DEFINITION. Model slots: positions, commands, staging, swaps and drains (R305 to R313, R317, R324, R327, R328). -/

namespace Sys2Proof.Machine

/-! ## A slot and its registers (R305, R306, R329) -/

/-- A slot of the state. -/
def getSlot (s : State) (slot : Nat) : SlotSt := s.slots.getD slot SlotSt.reset

/-- A slot changed. -/
def modSlot (s : State) (slot : Nat) (f : SlotSt → SlotSt) : State := { s with slots := modAt s.slots slot f }

/-- STATE_TAG of a generation; 0 without a sequence descriptor. -/
def Gen.tag (g : Gen) : Nat := match g.model.seq with
  | some q => q.tag
  | none => 0

/-- A figure of a position, 0 where it holds nothing. -/
def ofGen (g : Option Gen) (f : Gen → Nat) : Nat := match g with
  | some g => f g
  | none => 0

/-- A generation of the slot carries the mark of lost tree data (R328). -/
def SlotSt.marked (x : SlotSt) : Bool := (x.active.toList ++ x.staged.toList).any (·.lostTree.isSome)

/-- The SLOT registers follow the slot; at a warm restart SLOT_GEN keeps its value (R330). -/
def showSlot (s : State) (slot : Nat) (gens : Bool) : State :=
  let x := getSlot s slot
  let s := [ (SLOT_STATE.STAGING slot, x.staging), (SLOT_STATE.ACTIVE slot, b2n x.active.isSome),
    (SLOT_STATE.ADAPT_ON slot, b2n x.adaptOn), (SLOT_STATE.ADAPT_HELD slot, b2n x.adaptHeld),
    (SLOT_STATE.LOST_TREE slot, b2n x.marked), (SLOT_STATE.SWAP_PENDING slot, b2n x.swap.isSome),
    (SLOT_STATE.ACTIVE_TAG slot, ofGen x.active Gen.tag), (SLOT_STATE.STAGING_TAG slot, ofGen x.staged Gen.tag),
    (SLOT_ACTIVE_ID.MODEL_ID slot, ofGen x.active (·.model.modelId)),
    (SLOT_STAGING_ID.MODEL_ID slot, ofGen x.staged (·.model.modelId)) ].foldl (fun s f => wr s f.1 f.2) s
  if gens then
    wr (wr s (SLOT_GEN.ACTIVE_GEN slot) (ofGen x.active (·.number))) (SLOT_GEN.STAGING_GEN slot) (ofGen x.staged (·.number))
  else s

/-- A slot changed, and its registers with it. -/
def putSlot (s : State) (slot : Nat) (f : SlotSt → SlotSt) : State := showSlot (modSlot s slot f) slot true

/-! ## Boundaries (R310) -/

/-- The boundary at which what is recorded in the current beat takes effect: the first F with the current beat before beat
F − 1; 0 while no schedule runs. -/
def effectBoundary (s : State) : Nat := match s.sched.running with
  | some c => ceilDiv (batchNow s + 2) (max 1 c.n) * c.n
  | none => 0

/-- What waits for boundary `f` takes effect at the current round boundary. -/
def boundaryDue (s : State) (f : Nat) : Bool := atRound s && decide (f ≤ batchNow s)

/-! ## Adaptation on and off (R309, R317, R327) -/

/-- The weights of the adapter operation (R314). -/
def adapterWeights (m : Model) : List Int := match adapterOp m with
  | some (_, o) => o.weights
  | none => []

/-- An adaptation state with nothing under way, and an anchor. -/
def AdaptSt.idle (anchor : List Int) : AdaptSt := { SlotSt.reset.adapt with anchor := anchor }

/-- Adaptation stops (R309, R328): ADAPT_ON is cleared, a candidate that no pending swap needs is discarded. -/
def stopAdapt (s : State) (slot : Nat) : State :=
  let on := (getSlot s slot).adaptOn
  let s := putSlot s slot fun x =>
    let drop := (x.staging == 3 || x.staging == 4) && x.swap.isNone
    { x with
      adaptOn := false
      adaptHeld := false
      formAt := none
      staging := if drop then 0 else x.staging
      staged := if drop then none else x.staged
      adapt := AdaptSt.idle x.adapt.anchor }
  raiseIf on s SLOT_EVENTS.ADAPT_STOPPED slot

/-- The staging position is emptied. -/
def SlotSt.emptied (x : SlotSt) : SlotSt := { x with staging := 0, staged := none, retainedAt := none, discardAfter := false }

/-- A retained generation is released; with ADAPT_ON a candidate is formed at the next boundary (R309, R327). -/
def releaseSlot (s : State) (slot : Nat) : State :=
  putSlot s slot fun x =>
    { x.emptied with adaptHeld := false, formAt := if x.adaptOn then some (effectBoundary s) else x.formAt }

/-- Elements of the adapter tensor, K_a of R324. -/
def adapterElems (m : Model) : Nat := match adapterOp m with
  | some (_, o) => o.outputs * o.n
  | none => 0

/-- PER_LOSS of R324. -/
def perLoss (m : Model) (a : AdaptDesc) : Nat :=
  if a.label then 4 * ceilDiv (match m.ops[a.labelOp]? with
    | some o => o.outputs
    | none => 0) 64 + 10
  else match m.seq with
    | some q => surpriseCycles q
    | none => 0

/-- The demand of R324 in a schedule. -/
def adaptDemand (c : Schedule) (m : Model) (a : AdaptDesc) : Nat :=
  let k := adapterElems m
  headsPerCore c.shape c.capacity * (2 * ceilDiv k 64 + 2 * perLoss m a) +
    32 * ceilDiv k (64 * max 1 (coreCount c.shape)) + 64

/-- The budget check of R324. -/
def adaptBudget (s : State) (slot : Nat) (m : Model) (a : AdaptDesc) : Bool := match s.sched.running with
  | none => false
  | some c => c.acts.any fun x => x.kind == 2 && x.slot == slot && decide (adaptDemand c m a ≤ x.budget)

/-- HAS_ADAPT of the active generation. -/
def activeAdapt (x : SlotSt) : Option (Model × AdaptDesc) := match x.active with
  | some g => g.model.adapt.map fun a => (g.model, a)
  | none => none

/-! ## Commands (R309) -/

/-- Results of a command (R330). -/
inductive CmdResult where
  | accepted | wrongState | busy | noBudget | badOp
  deriving DecidableEq, Repr

/-- The code of a result. -/
def CmdResult.code : CmdResult → Nat
  | .accepted => 1
  | .wrongState => 2
  | .busy => 3
  | .noBudget => 4
  | .badOp => 5

/-- A result from the condition of acceptance. -/
def CmdResult.when (ok : Bool) : CmdResult := if ok then .accepted else .wrongState

/-- The result of ADAPT_START (R309, R324). -/
def adaptStartResult (s : State) (slot : Nat) : CmdResult :=
  let x := getSlot s slot
  match activeAdapt x with
  | none => .wrongState
  | some (m, a) => if x.staging != 0 then .wrongState else if adaptBudget s slot m a then .accepted else .noBudget

/-- The result of a command of a slot (R309); PROMOTE is refused while a generation of the slot carries the mark of R328, and STAGE
while the load buffer is held for a distribution (R447). -/
def commandResult (s : State) (slot op : Nat) : CmdResult :=
  let x := getSlot s slot
  let swaps := op == 1 || op == 3 || op == 4 || op == 8
  if op == 0 || 8 < op then .badOp
  else if (swaps || op == 2 || op == 5) && x.swap.isSome then .busy
  else if swaps && x.staging == 6 then .busy
  else if op == 1 && x.distHeld then .busy
  else match op with
    | 1 => CmdResult.when (x.staging != 1)
    | 2 => CmdResult.when (2 ≤ x.staging && x.staging ≤ 5)
    | 3 => CmdResult.when (x.staging == 2)
    | 4 => CmdResult.when (x.staging == 5)
    | 5 => CmdResult.when (x.staging == 5)
    | 6 => adaptStartResult s slot
    | 7 => CmdResult.when x.adaptOn
    | _ => CmdResult.when (x.staging == 4 && !x.marked)

/-- The effect of an accepted command (R309); a swap is recorded for its boundary. -/
def commandEffect (s : State) (slot op : Nat) : State :=
  let f := effectBoundary s
  let swap (s : State) : State := putSlot s slot fun x => { x with swap := some (op, f) }
  match op with
  | 1 => putSlot (stopAdapt s slot) slot fun x => { x.emptied with staging := 1 }
  | 2 => putSlot (stopAdapt s slot) slot SlotSt.emptied
  | 3 => swap s
  | 4 => stopAdapt (swap s) slot
  | 5 => releaseSlot s slot
  | 6 => putSlot s slot fun x => { x with adaptOn := true, formAt := some (x.formAt.getD f) }
  | 7 => stopAdapt s slot
  | _ => swap s

/-- BEAT of SLOT_COMMAND_STATUS: the beat at which a swap or a release takes effect; 0 for the other commands and while no
schedule runs. -/
def commandBeat (s : State) (op : Nat) : Nat :=
  if s.sched.running.isNone then 0
  else if op == 3 || op == 4 || op == 8 then effectBoundary s % 1000000
  else if op == 5 then beatInSecond s
  else 0

/-- A command of a slot (R309). -/
def slotCommand (s : State) (slot op : Nat) : State :=
  let r := commandResult s slot op
  let beat := if r == .accepted then commandBeat s op else 0
  let s := if r == .accepted then commandEffect s slot op else s
  let s := wr (wr s SLOT_COMMAND_STATUS.SLOT slot) SLOT_COMMAND_STATUS.OP op
  wr (wr s SLOT_COMMAND_STATUS.RESULT r.code) SLOT_COMMAND_STATUS.BEAT beat

/-- A write of SLOT_COMMAND issues a command (R330). -/
def writeSlotCommand (s : State) (w : Nat) : State :=
  slotCommand (writeFields s SLOT_COMMAND.SLOT.addr w) (fld w 63 60) (fld w 59 56)

/-- The word that issues a command. -/
def commandWord (slot op : Nat) : Nat := pack [(4, slot), (4, op), (56, 0)]

/-- STAGE: the staging position is discarded and the load buffer checked (R307, R309). -/
def execStage (slot : Nat) (s : State) : Host.Outcome State Fault Refusal := .next (writeSlotCommand s (commandWord slot 1))

/-- SLOT_DISCARD: SLOT_COMMAND DISCARD (R309). -/
def execSlotDiscard (slot : Nat) (s : State) : Host.Outcome State Fault Refusal :=
  .next (writeSlotCommand s (commandWord slot 2))

/-- ACTIVATE: a swap to the staged generation is recorded (R309, R310). -/
def execActivate (slot : Nat) (s : State) : Host.Outcome State Fault Refusal :=
  .next (writeSlotCommand s (commandWord slot 3))

/-- ROLLBACK: a swap to the retained generation is recorded, and adaptation stops (R309). -/
def execRollback (slot : Nat) (s : State) : Host.Outcome State Fault Refusal :=
  .next (writeSlotCommand s (commandWord slot 4))

/-- RELEASE: a retained generation is released (R309). -/
def execRelease (slot : Nat) (s : State) : Host.Outcome State Fault Refusal := .next (writeSlotCommand s (commandWord slot 5))

/-- ADAPT_START: ADAPT_ON is set where the budget check passes (R309, R324). -/
def execAdaptStart (slot : Nat) (s : State) : Host.Outcome State Fault Refusal :=
  .next (writeSlotCommand s (commandWord slot 6))

/-- ADAPT_STOP: ADAPT_ON is cleared and a candidate discarded (R309). -/
def execAdaptStop (slot : Nat) (s : State) : Host.Outcome State Fault Refusal :=
  .next (writeSlotCommand s (commandWord slot 7))

/-- PROMOTE: a swap to the candidate that is READY is recorded (R309). -/
def execPromote (slot : Nat) (s : State) : Host.Outcome State Fault Refusal := .next (writeSlotCommand s (commandWord slot 8))

/-! ## The checks of staging (R307) -/

/-- The image that the load buffer of a slot holds; none without a LOAD_BUFFER or an image (R307, R397). -/
def loadImage (s : State) (slot : Nat) : Option Bytes :=
  let x := getSlot s slot
  match regionBase s 0x06 slot with
  | some b => if x.image then some (Mem.readBytes s.hbm b x.imageLen) else none
  | none => none

/-- A generation staged from an image that passed: the counter of R306 gives its number. -/
def stageGen (s : State) (slot : Nat) (m : Model) : State :=
  let n := addMod 32 (getSlot s slot).counter 1
  let s := putSlot s slot fun x => { x with counter := n, staging := 2, staged := some (Gen.make n m) }
  raise s SLOT_EVENTS.STAGED slot

/-- A refusal of staging (R307): reported, and the position left EMPTY. -/
def refuseStage (s : State) (slot : Nat) (f : StageFail) : State :=
  let s := putSlot s slot SlotSt.emptied
  let s := wr (wr (wr (wr s SLOT_REFUSAL.SLOT slot) SLOT_REFUSAL.CAUSE f.cause) SLOT_REFUSAL.SCHEDULE f.schedule)
    SLOT_REFUSAL.DETAIL f.detail
  let s := if f.cause == 6 then
      (List.range 4).foldl (fun s k => wr s (SLOT_REPORT.REPORT k) (fld f.report (255 - 64 * k) (192 - 64 * k))) s
    else s
  raise s SLOT_EVENTS.STAGE_REFUSED slot

/-- The model of an image. -/
def imageModel (b : Bytes) : Model :=
  let e := openEnvelope b
  parseModel e.digest e.body

/-- The first check of R307 that an image fails. -/
def stageFailure (s : State) (slot : Nat) (b : Bytes) : Option StageFail :=
  if (acceptFailure (trustOf s) b 6).isSome then some (StageFail.at_ 1 0)
  else
    let e := openEnvelope b
    modelFailure s slot e.digest e.body

/-- The checks of R307 on an image, in order: the generation staged, or the refusal. -/
def checkStage (s : State) (slot : Nat) (image : Option Bytes) : State :=
  match image with
  | none => refuseStage s slot (StageFail.at_ 1 0)
  | some b => match stageFailure s slot b with
    | some f => refuseStage s slot f
    | none => stageGen s slot (imageModel b)

/-- STAGE_COMPLETE: the checks of a slot that is CHECKING end (R307). -/
def execStageComplete (slot : Nat) (s : State) : Host.Outcome State Fault Refusal :=
  if (getSlot s slot).staging != 1 then .next s else .next (checkStage s slot (loadImage s slot))

/-! ## Swaps (R310 to R313) -/

/-- Cause of the GEN record of a swap (R461). -/
def swapCause (op : Nat) : Nat := if op == 8 then 2 else if op == 4 then 3 else 1

/-- A GEN record: slot, generation, first batch, cause, model (R461). -/
def traceGen (s : State) (slot : Nat) (g : Option Gen) (batch cause : Nat) : State :=
  trace s 0x02 (shortTime (beatStartNs batch))
    (pack [(4, slot), (32, ofGen g (·.number)), (64, batch), (4, cause), (64, ofGen g (·.model.modelId)), (8, 0)])

/-- The current batch takes the chain of the slot's active generation (R311); heads that are admitted later in the beat take
its features. -/
def rechain (s : State) (slot : Nat) : State :=
  let c := (openChains s).filter (·.slot == slot)
  { s with pipe.batches := s.pipe.batches.map fun b =>
      if b.number == batchNow s then { b with chains := b.chains.filter (·.slot != slot) ++ c } else b }

/-- The generation that a swap makes active (R245, R311, R327); its counts start anew (R259). -/
def swappedIn (x : SlotSt) (op : Nat) : Option Gen := x.staged.map fun g =>
  { g with quant := match op, x.active with
    | 8, some a => a.quant.map fun q => { q with misfits := 0, pinnedHits := 0 }
    | _, _ => List.replicate g.model.tensors.length QTensor.fresh }

/-- The slot after a swap of the given OP (R309, R311, R317, R327). -/
def SlotSt.swapped (x : SlotSt) (op : Nat) : SlotSt :=
  let new := swappedIn x op
  let anchor := if op == 3 then (match new with
      | some g => adapterWeights g.model
      | none => []) else x.adapt.anchor
  { x with
    active := new
    staged := x.active
    staging := if x.active.isSome then 6 else 0
    swap := none
    discardAfter := op == 4
    retainedAt := none
    adaptHeld := op == 8 && x.adaptOn
    adapt := AdaptSt.idle anchor }

/-- A pending swap takes effect at the current boundary (R253, R311). -/
def takeSwap (s : State) (slot op : Nat) : State :=
  let s := putSlot s slot (·.swapped op)
  let s := rechain (clearScaleCommands s slot) slot
  let s := raise s SLOT_EVENTS.SWAPPED slot
  let s := raiseIf (op == 8) s SLOT_EVENTS.PROMOTED slot
  let s := raiseIf (op == 4) s SLOT_EVENTS.ROLLED_BACK slot
  traceGen s slot (getSlot s slot).active (batchNow s) (swapCause op)

/-- SWAP: a pending swap takes effect at its round boundary, before a head is admitted to the batch of that beat; where one has been, it
waits for the next boundary (R310, R311). -/
def execSwap (slot : Nat) (s : State) : Host.Outcome State Fault Refusal :=
  match (getSlot s slot).swap with
  | some (op, _) => if swapDue s (getSlot s slot) then .next (takeSwap s slot op) else .next s
  | none => .next s

/-- A batch in flight uses a generation of a slot. -/
def genInUse (s : State) (slot number : Nat) : Bool :=
  s.pipe.batches.any fun b => !b.tripped && b.chains.any fun c =>
    c.slot == slot && c.gen == number && decide (c.retired < c.total)

/-- A displaced generation has drained: it is retained, or discarded after a rollback (R311). -/
def drained (s : State) (slot : Nat) : State :=
  putSlot s slot fun x =>
    if x.discardAfter then x.emptied else { x with staging := 5, retainedAt := some (batchNow s) }

/-- DRAIN_END: the last batch that uses a draining generation has retired (R311). -/
def execDrainEnd (slot : Nat) (s : State) : Host.Outcome State Fault Refusal :=
  let x := getSlot s slot
  match x.staged with
  | some g => if x.staging == 6 && !genInUse s slot g.number then .next (drained s slot) else .next s
  | none => .next s

/-! ## Candidates (R306, R317, R327, R328) -/

/-- A candidate is formed now as a copy of the active generation (R317). -/
def formCandidate (s : State) (slot : Nat) : State :=
  let x := getSlot s slot
  match x.active with
  | none => s
  | some g =>
    let n := addMod 32 x.counter 1
    let zero : AdaptElem := ⟨0, 0, 0⟩
    let w := adapterWeights g.model
    let s := putSlot s slot fun x => { x with
      counter := n
      staging := 3
      staged := some { g with number := n }
      formAt := none
      adapt := { AdaptSt.idle x.adapt.anchor with
        roundsFrom := some (batchNow s)
        gacc := List.replicate w.length 0
        elems := List.replicate w.length zero } }
    raise s SLOT_EVENTS.CANDIDATE_FORMED slot

/-- A candidate may be formed: adaptation is on, the position is empty and the active generation is adaptable. -/
def mayForm (x : SlotSt) : Bool := x.adaptOn && x.staging == 0 && (activeAdapt x).isSome

/-- CANDIDATE_FORM: at its boundary a candidate is formed (R310, R317). -/
def execCandidateForm (slot : Nat) (s : State) : Host.Outcome State Fault Refusal :=
  match (getSlot s slot).formAt with
  | some f => if boundaryDue s f && mayForm (getSlot s slot) then .next (formCandidate s slot) else .next s
  | none => .next s

/-- The boundary at which the release of AUTO_RELEASE_ROUNDS is applied (R310, R327); none where it does not apply. -/
def releaseDue (s : State) (slot : Nat) : Option Nat :=
  let x := getSlot s slot
  let r := rd s (SLOT_ADAPT_CFG.AUTO_RELEASE_ROUNDS slot)
  match x.retainedAt, s.sched.running with
  | some b, some c =>
    if x.adaptHeld && x.staging == 5 && x.swap.isNone && r != 0 then some (ceilDiv (b + r * c.n + 2) (max 1 c.n) * c.n) else none
  | _, _ => none

/-- AUTO_RELEASE: the hold on adaptation after a promotion is released (R327). -/
def execAutoRelease (slot : Nat) (s : State) : Host.Outcome State Fault Refusal :=
  match releaseDue s slot with
  | some f => if boundaryDue s f then .next (releaseSlot s slot) else .next s
  | none => .next s

/-- Tree data of a generation of a slot is lost from a batch on (R281, R328): every generation and every chain that shares the
data carries the mark; where the active generation does, adaptation stops. -/
def loseTrees (s : State) (slot number batch : Nat) : State :=
  match findGen s slot number with
  | none => s
  | some a =>
    let mark (g : Gen) : Gen := if g.origin == a.origin then { g with lostTree := some (g.lostTree.getD batch) } else g
    let s := putSlot s slot fun x => { x with active := x.active.map mark, staged := x.staged.map mark }
    let lost (n : Nat) : Bool := match findGen s slot n with
      | some g => g.lostTree.isSome
      | none => false
    let s := { s with pipe.batches := s.pipe.batches.map fun b =>
      if b.number < batch then b
      else { b with chains := b.chains.map fun c => if c.slot == slot && lost c.gen then { c with lost := true } else c } }
    let hit := match (getSlot s slot).active with
      | some g => g.lostTree.isSome
      | none => false
    raise (if hit then stopAdapt s slot else s) SLOT_EVENTS.LOST_TREE slot

end Sys2Proof.Machine
end

