-- ==== Sys2Proof/Machine/Adapt.lean ====
section
/-! DEFINITION. Adaptation of a candidate: samples, losses, gradients, updates, the shadow test and promotion (R317 to R326).
-/

namespace Sys2Proof.Machine

/-! ## The adapter operation recomputed (R314, R319) -/

/-- The operation's records with other weights. -/
def OpRec.withWeights (o : OpRec) (w : List Int) : OpRec := { o with weights := w }

/-- Input operands of a head for the adapter operation, filled to whole groups (R216, R318). -/
def OpRec.operands (o : OpRec) (x : List Int) : List Int := (groupsOf o.g o.groups (x.take o.n)).flatten

/-- The logits of one head under given adapter weights (R214 to R222, R319). The input tensor is FIXED (R314), so that its
scale is the calibration scale. -/
def adapterLogits (m : Model) (o : OpRec) (w x : List Int) : List Int :=
  let sIn := (tensorDesc m o.inTensor).calScale
  let d : DenseIn := ⟨[x], [], [], sIn, 0, tensorS16 m o.inTensor⟩
  let r := deriveMs sIn o.outScale o.f
  match denseAccs (o.withWeights w) d with
  | a :: _ => (convertRow o [] ⟨r.1, r.2.1, 0, 0⟩ a).1
  | [] => []

/-- Vocabularies of the positions: those of the tokens, or one position of all outputs (R320). -/
def lossVocab (q : SeqDesc) (a : AdaptDesc) (o : OpRec) : List Nat := if a.label then [o.outputs] else q.tokens.map (·.2)

/-- The loss of a head (R320). -/
def headLoss (m : Model) (q : SeqDesc) (a : AdaptDesc) (o : OpRec) (w : List Int) (h : SampleHead) : Int :=
  (lossTables m q).total (cutPositions (lossVocab q a o) (adapterLogits m o w h.x)) h.targets

/-- delta of R320 at one position. -/
def LossTables.delta (t : LossTables) (z : List Int) (c : Nat) : List Int :=
  let l := t.lse z
  z.zipIdx.map fun y => vSub (t.exp.eval (vSub y.1 l)) (if y.2 == c then (2 ^ t.expFrac : Nat) else 0)

/-- delta of every output of a head. -/
def headDelta (m : Model) (q : SeqDesc) (a : AdaptDesc) (o : OpRec) (w : List Int) (h : SampleHead) : List Int :=
  let t := lossTables m q
  (List.zipWith (fun z c => t.delta z c) (cutPositions (lossVocab q a o) (adapterLogits m o w h.x)) h.targets).flatten

/-- GACC with one training head added (R320). -/
def addGradient (gacc delta x : List Int) : List Int :=
  List.zipWith (· + ·) gacc (delta.flatMap fun d => x.map fun y => d * y)

/-! ## Samples (R318) -/

/-- The head has a label that counts; CLASS 0xFF is none (R316). -/
def labelOf (s : State) (slot : Nat) (outs : Nat) (h : Head) : Option Nat :=
  match h.flow with
  | none => none
  | some i =>
    let l := Map.getD (getSlot s slot).labels i (0xFF, 0)
    if l.1 != 0xFF && l.1 < outs && l.2 == h.rev then some l.1 else none

/-- A head of a batch with what the sample needs of it. -/
structure SampleCand where
  head : Head
  got : Gathered
  surprise : Int
  x : List Int
  deriving DecidableEq, Repr

/-- The writer of a flow group is the last of its able heads in canonical order (R292). -/
def isWriter (slot : Nat) (l : List SampleCand) (c : SampleCand) : Bool :=
  writesState slot c.head c.got &&
    l.all fun d => d.head.flow != c.head.flow || !writesState slot d.head d.got || canonicalLe d.head c.head

/-- The head's gathered state is warm, and its score is not suppressed, which takes a SURPRISE operation (R296, R318). -/
def sampleState (m : Model) (q : SeqDesc) (g : Gathered) : Bool := g.1.isSome && !(m.hasSurprise && suppressedState q g)

/-- Target codes of an eligible head; none where it is not eligible (R318). -/
def sampleTargets (s : State) (slot : Nat) (m : Model) (q : SeqDesc) (a : AdaptDesc) (o : OpRec) (l : List SampleCand)
    (c : SampleCand) : Option (List Nat) :=
  if !bit a.parts c.head.partition || !sampleState m q c.got || bit c.head.faultSlots slot || !isWriter slot l c then none
  else if a.label then (labelOf s slot o.outputs c.head).map fun k => [k]
  else if a.trainCap != 0xFFFFFFFF && decide ((a.trainCap : Int) < c.surprise) then none
  else some (tokenTargets q (Map.getD c.head.feats slot []))

/-- The round of adaptation whose sample a batch supplies (R317, R318). -/
def sampleRound (s : State) (slot batch : Nat) : Option Nat :=
  let x := getSlot s slot
  match x.adapt.roundsFrom, roundBeats s with
  | some f, some n =>
    if x.staging == 3 && x.swap.isNone && decide (f ≤ batch) && n != 0 && (batch - f) % n == 0 then some ((batch - f) / n)
    else none
  | _, _ => none

/-! ## The end of a step (R325, R326) -/

/-- The shadow test (R325). -/
def shadowPasses (a : AdaptDesc) (x : AdaptSt) : Bool :=
  decide (a.minEval ≤ x.eval) && decide (x.lossC * 65536 < x.lossA * (65536 - (a.margin : Int)))

/-- The decision at the end of a step (R326); a candidate of a slot that carries the mark of R328 is not promoted. -/
def endStep (s : State) (slot : Nat) (a : AdaptDesc) : State :=
  let x := (getSlot s slot).adapt
  let pass := shadowPasses a x
  let auto := rdB s (SLOT_ADAPT_CFG.AUTO_PROMOTE slot) && !(getSlot s slot).marked
  let f := effectBoundary s
  let s := wr (wr (wr s (SLOT_SHADOW_C.LOSS slot) (wrapU 64 x.lossC)) (SLOT_SHADOW_A.LOSS slot) (wrapU 64 x.lossA))
    (SLOT_DRIFT.EVAL slot) (satN 16 x.eval)
  let zero : AdaptSt := { x with lossC := 0, lossA := 0, eval := 0, stepEnd := x.stepEnd - 1 }
  let none_ : List Int := x.gacc.map fun _ => 0
  let s := putSlot s slot fun y =>
    if pass && auto then { y with swap := some (8, f), adapt := { zero with gacc := none_ } }
    else if pass then { y with staging := 4, adapt := { zero with gacc := none_ } }
    else { y with adapt := { zero with updating := true, groupsDone := 0, tentative := [] } }
  let s := raise (bump s (SLOT_ADAPT_COUNTS.STEPS slot) 1) SLOT_EVENTS.STEP_DONE slot
  raiseIf (pass && !auto) s SLOT_EVENTS.READY slot

/-- A step whose last round has come ends once no work on its samples is left (R326, R37). -/
def maybeEndStep (s : State) (slot : Nat) (a : AdaptDesc) : State :=
  let x := getSlot s slot
  if x.staging == 3 && x.swap.isNone && x.adapt.stepEnd != 0 && x.adapt.sample.isEmpty && !x.adapt.updating then endStep s slot a
  else s

/-- The activity of the slot is shed in this round with SKIP, so that the round's sample work is lost (R324). -/
def samplesShed (s : State) (slot : Nat) : Bool := match s.sched.running with
  | none => false
  | some c => match c.acts.find? fun a => a.kind == 2 && a.slot == slot, findAct s 2 slot with
    | some a, some (_, r) => a.shed == 1 && r.shed
    | _, _ => false

/-- The sample of a round is taken from the batch of its first beat, or missed (R318). -/
def takeSample (s : State) (slot batch : Nat) (m : Model) (q : SeqDesc) (a : AdaptDesc) (o : OpRec) (l : List SampleCand) : State :=
  match sampleRound s slot batch with
  | none => s
  | some r =>
    let s := maybeEndStep s slot a
    let x := getSlot s slot
    if !(x.staging == 3 && x.swap.isNone) then s
    else
      let missed := !x.adapt.sample.isEmpty
      let heads := if samplesShed s slot then []
        else l.filterMap fun c => (sampleTargets s slot m q a o l c).map fun t => (⟨c.x, t⟩ : SampleHead)
      let s := modSlot s slot fun x => { x with adapt := { x.adapt with
        round := r
        sample := if missed then x.adapt.sample else heads
        sampleEval := if missed then x.adapt.sampleEval else r % 2 == 1
        stepEnd := x.adapt.stepEnd + b2n (r % a.n + 1 == a.n) } }
      let s := if missed then
          raise (bump s (SLOT_ADAPT_COUNTS.SAMPLES_MISSED slot) 1) SLOT_EVENTS.SAMPLE_MISSED slot
        else keyMemory s 0 batch (Config.transfers 5 heads.length)
      maybeEndStep s slot a

/-! ## The update (R321 to R323) -/

/-- The gradient of a group narrowed (R321): the widened elements, and whether the group was clipped. -/
def groupGradient (a : AdaptDesc) (g : List Int) : List Int × Bool :=
  let g32 := g.map fun x => satS 32 (rheSh x a.gShift)
  let r := narrow g32
  if a.gShiftMax < r.2 then
    (g32.map fun x => widen (satI (rheSh x a.gShiftMax) (-127) 127) a.gShiftMax, true)
  else (r.1.map fun x => widen x r.2, false)

/-- The update of one element (R322): the weight, the remainder and the moments before they are narrowed, and whether it
was clipped. -/
def updateElem (a : AdaptDesc) (rsqrt : Lut) (g w : Int) (e : AdaptElem) : Int × AdaptElem × Bool :=
  let g2 := vMul g g a.vShift 0
  let m := vAdd e.m (vMul (vSub g e.m) a.b1 8 0)
  let v := vAdd e.v (vMul (vSub g2 e.v) a.b2 8 0)
  let u := vMul m (rsqrt.eval v) a.rsShift 0
  let d := vMul u a.lr a.lrShift 0
  let t := vSub e.rem d
  let k := vShr (vAdd t 128) 8 1
  let kc := satI k (-(a.stepMax : Int)) a.stepMax
  let wn := satI (vAdd w kc) (-127) 127
  let clipped := kc != k || wn != w + kc
  (wn, ⟨if clipped then 0 else vSub t (vShl kc 8), m, v⟩, clipped)

/-- The moments of a group narrowed and widened again (R322, R255). -/
def narrowMoments (es : List AdaptElem) : List AdaptElem :=
  let m := narrow (es.map (·.m))
  let v := narrow (es.map (·.v))
  List.zipWith (fun e mv => { e with m := widen mv.1 m.2, v := widen mv.2 v.2 }) es (m.1.zip v.1)

/-- Group k of the update (R321, R322): its tentative elements, and the number of clips. -/
def updateGroup (a : AdaptDesc) (rsqrt : Lut) (o : OpRec) (w : List Int) (x : AdaptSt) (k : Nat) :
    List (Int × AdaptElem) × Nat :=
  let cut {α : Type} (l : List α) : List α := (l.drop (k * o.g)).take o.g
  let g := groupGradient a (cut x.gacc)
  let r := List.zipWith (fun gw e => updateElem a rsqrt gw.1 gw.2 e) (g.1.zip (cut w)) (cut x.elems)
  let es := narrowMoments (r.map (·.2.1))
  (List.zipWith (fun u e => (u.1, e)) r es, (r.filter (·.2.2)).length + b2n g.2)

/-- Distances of a tentative adapter tensor from the anchor (R323). -/
def drifts (t : List (Int × AdaptElem)) (anchor : List Int) : List Nat := List.zipWith (fun u w => (u.1 - w).natAbs) t anchor

/-- The generation with another adapter tensor. -/
def Gen.withAdapter (g : Gen) (w : List Int) : Gen := match adapterOp g.model with
  | some (i, _) => { g with model := { g.model with ops := modAt g.model.ops i fun o => o.withWeights w } }
  | none => g

/-- The tentative update is accepted, or refused for its drift (R323). -/
def finishUpdate (s : State) (slot : Nat) (a : AdaptDesc) : State :=
  let x := (getSlot s slot).adapt
  let d := drifts x.tentative x.anchor
  let sum := sumN d
  let big := maxN 0 d
  let refused := decide (a.driftSum < sum) || decide (a.driftElem < big)
  let s := wr (wr s (SLOT_DRIFT.DSUM slot) (satN 40 sum)) (SLOT_DRIFT.DMAX slot) big
  let s := modSlot s slot fun y => { y with
    staged := if refused then y.staged else y.staged.map fun g => g.withAdapter (x.tentative.map (·.1))
    adapt := { x with
      gacc := x.gacc.map fun _ => 0
      elems := if refused then x.elems.map fun _ => ⟨0, 0, 0⟩ else x.tentative.map (·.2)
      tentative := []
      groupsDone := 0
      updating := false } }
  if refused then raise (bump s (SLOT_ADAPT_COUNTS.DRIFT_REFUSALS slot) 1) SLOT_EVENTS.DRIFT_REFUSED slot else s

/-- One group of the update as a unit of work (R319). -/
def updateUnit (s : State) (slot : Nat) (g : Gen) (a : AdaptDesc) (o : OpRec) : State :=
  let x := (getSlot s slot).adapt
  let r := updateGroup a (g.model.luts.getD a.rsqrtTable Lut.none_) o o.weights x x.groupsDone
  let s := bump s (SLOT_ADAPT_COUNTS.CLIPPED slot) r.2
  let s := modSlot s slot fun y => { y with adapt := { x with
    tentative := x.tentative ++ r.1
    groupsDone := x.groupsDone + 1 } }
  if x.groupsDone + 1 < o.outputs * o.groups then s else maybeEndStep (finishUpdate s slot a) slot a

/-- One head of the sample as a unit of work (R319, R320). -/
def sampleUnit (s : State) (slot : Nat) (act cand : Gen) (q : SeqDesc) (a : AdaptDesc) (o : OpRec) (h : SampleHead) : State :=
  let m := cand.model
  let wc := adapterWeights m
  let s := modSlot s slot fun y =>
    let x := { y.adapt with sample := y.adapt.sample.drop 1 }
    { y with adapt :=
      if x.sampleEval then { x with
        lossC := x.lossC + headLoss m q a o wc h
        lossA := x.lossA + headLoss m q a o (adapterWeights act.model) h
        eval := x.eval + 1 }
      else { x with gacc := addGradient x.gacc (headDelta m q a o wc h) h.x } }
  maybeEndStep s slot a

/-- ADAPT_UNIT: the ADAPT_STEP activity of a slot does one group of an update, or one head of its sample (R319). -/
def execAdaptUnit (slot : Nat) (s : State) : Host.Outcome State Fault Refusal :=
  let x := getSlot s slot
  if !mayRun s 2 slot || x.staging != 3 || x.swap.isSome then .next s
  else match x.active, x.staged with
    | some act, some cand =>
      match cand.model.adapt, cand.model.seq, adapterOp cand.model with
      | some a, some q, some (_, o) =>
        let unit := if x.adapt.updating then 2 else if x.adapt.sampleEval then 1 else 0
        let n := Config.adaptCycles unit (adapterElems cand.model)
        let used (s : State) : State := keyMemory (keyAdapt (count (useKind s 2 slot n) (104 + slot) n) slot n) 1 slot
          (Config.transfers 5 1)
        if x.adapt.updating then .next (updateUnit (used s) slot cand a o)
        else match x.adapt.sample with
          | h :: _ => .next (sampleUnit (used s) slot act cand q a o h)
          | [] => .next (maybeEndStep s slot a)
      | _, _, _ => .next s
    | _, _ => .next s

end Sys2Proof.Machine
end

