-- ==== Sys2Proof/Machine/Dial.lean ====
section
/-! DEFINITION. The dial and its sources: the timing pins, IEEE 1588-2019, lock, slew, holdover and changes of source
(R49 to R62, R520). -/

namespace Sys2Proof.Machine

/-! ## State of the dial -/

/-- The dial enters a state; the highest state of the epoch is kept for R368. -/
def setDialState (s : State) (st : Nat) : State :=
  { wr s DIAL_STATUS.STATE st with dial.highest := max s.dial.highest st }

/-- The source that the dial follows: 0 timing pins, 1 IEEE 1588-2019. -/
def activeSource (s : State) : Nat := rd s DIAL_STATUS.ACTIVE_SOURCE

/-- SOURCE as written; the reserved codes act as the timing pins (R82). -/
def selectedWritten (s : State) : Nat := if rd s DIAL_CTRL.SOURCE == 1 then 1 else 0

/-- The source is valid (R520). -/
def sourceValid (s : State) (src : Nat) : Bool := if src == 0 then s.dial.pinsValid else s.dial.ptpValid

/-- The slew limit in ppb (R57, R82). -/
def slewLimit (s : State) : Nat := min (rd s DIAL_SLEW.MAX_PPB) 100000

/-- The frequency correction that the servo applies after an error, within the slew limit (R57; the law is the
implementation's: log 10). -/
def servoAdj (s : State) (err : Int) : Int :=
  let lim : Int := ((slewLimit s * 256 : Nat) : Int)
  satI (Config.servo err (rdS s DIAL_FREQ_ADJ.ADJ) (slewLimit s)) (-lim) lim

/-- An exact quotient; where it is not whole, one of the two whole numbers beside it, freely (log 11). -/
def freeQuot (s : State) (num : Int) (den : Nat) : Int × State :=
  let q := num.fdiv den
  if q * (den : Int) = num then (q, s)
  else
    let r := draw s
    (q + ((r.1 % 2 : Nat) : Int), r.2)

/-! ## The corrections applied in LOCKED (R60) -/

/-- Pieces of the history that cover its newest `span` ns. -/
def histCut : Nat → List (Nat × Int) → List (Nat × Int)
  | _, [] => []
  | span, (d, a) :: h => if span ≤ d then [(span, a)] else (d, a) :: histCut (span - d) h

/-- The time since the last account is added to the history with the correction in force, where it was spent in
LOCKED. -/
def accountLock (s : State) : State :=
  if dialState s == 2 then
    { s with
      dial.lockHist := histCut 16000000000 ((s.dial.now - s.dial.lockMark, rdS s DIAL_FREQ_ADJ.ADJ) :: s.dial.lockHist)
      dial.lockMark := s.dial.now }
  else { s with dial.lockMark := s.dial.now }

/-- The mean of the corrections over the history; none where no time was spent in LOCKED. -/
def holdoverAdj (s : State) : Option (Int × State) :=
  let span := sumN (s.dial.lockHist.map (·.1))
  if span = 0 then none
  else some (freeQuot s (sumI (s.dial.lockHist.map fun p => (p.1 : Int) * p.2)) span)

/-- HOLDOVER is entered (R56, R60). -/
def enterHoldover (s : State) : State :=
  let s := accountLock s
  let s := match holdoverAdj s with
    | some (a, s) => wr s DIAL_FREQ_ADJ.ADJ (wrapU 32 a)
    | none => s
  let s := { setDialState s 3 with
    dial.holdStart := s.dial.now
    dial.holdBase := s.dial.lastError.natAbs
    dial.warned := false
    dial.goodRun := 0
    dial.badRun := 0 }
  raise (refresh s) DIAL_EVENTS.LOCK_LOST 0

/-- A change to a source that is not valid leads to HOLDOVER from LOCKED and ACQUIRING; UNSET, HOLDOVER and EXPIRED stay (R49). -/
def sourceGone (s : State) : State :=
  if dialState s == 1 || dialState s == 2 then enterHoldover s else s

/-- A source that is declared lost while it was followed and valid leads to HOLDOVER from LOCKED, ACQUIRING and EXPIRED; in HOLDOVER
the dial stays there (R56; log 145: DEDUCED). -/
def sourceLost (s : State) : State :=
  if dialState s == 1 || dialState s == 2 || dialState s == 4 then enterHoldover s else s

/-- The dial follows a source. -/
def follow (s : State) (src : Nat) : State :=
  { wr s DIAL_STATUS.ACTIVE_SOURCE src with dial.goodRun := 0, dial.badRun := 0 }

/-- A source is marked lost. -/
def markLost (s : State) (src : Nat) : State :=
  if src == 0 then { s with dial.pinsValid := false } else { s with dial.ptpValid := false }

/-- A source is declared lost (R52, R54): where it is the one followed, the dial enters HOLDOVER, and with FALLBACK_EN
it follows the other source if that is valid (R49, R56). Only a declared loss makes it change over, not the other source
becoming valid afterwards (log 146: DESIGN CHOICE). -/
def loseSource (s : State) (src : Nat) : State :=
  let was := sourceValid s src
  let s := markLost s src
  if activeSource s != src then s
  else
    let s := if was then sourceLost s else sourceGone s
    if rdB s DIAL_CTRL.FALLBACK_EN && s.dial.source == src && sourceValid s (1 - src) then
      raise (follow s (1 - src)) DIAL_EVENTS.SOURCE_SWITCHED 0
    else s

/-! ## Measurements -/

/-- Measurements in a row that decide a change between ACQUIRING and LOCKED (R56). -/
def runLength (src : Nat) : Nat := if src == 0 then 2 else 8

/-- A pulse or a Sync of the source followed gave no measurement: the measurements before and after it are not consecutive (R56). -/
def breakRun (s : State) (src : Nat) : State :=
  if activeSource s == src then { s with dial.goodRun := 0, dial.badRun := 0 } else s

/-- The measured error is within the limit of R56. -/
def goodError (err : Int) : Bool := decide (err.natAbs ≤ 100)

/-- LOCKED is entered (R56). -/
def enterLocked (s : State) : State :=
  let s := { setDialState (accountLock s) 2 with dial.badRun := 0, dial.goodRun := 0 }
  raise (wrB s DIAL_STATUS.EVER_LOCKED true) DIAL_EVENTS.LOCK_GAINED 0

/-- The dial steps rather than slews (R57): it is behind by more than the threshold and steps are permitted, or this is
the first lock after a start with FREE_RUN_START set, and the dial is behind by more than the 100 ns of LOCKED (log 147: DESIGN
CHOICE). -/
def stepsDial (s : State) (err : Int) : Bool :=
  (decide ((rd s DIAL_STEP_THRESHOLD.NS : Int) < err) && rdB s DIAL_CTRL.STEP_EN) ||
    (decide (100 < err) && s.dial.freeRun && !rdB s DIAL_STATUS.EVER_LOCKED)

/-- A step: at once where no schedule runs, else under the sequence of R58, also while a warm restart drains. A step taken at once
cuts the period in progress, whose PERIOD_END is told after it (R369). -/
def beginStep (s : State) (err : Int) : State :=
  if s.sched.running.isSome then
    if s.dial.stepPhase == 0 then { s with dial.stepPhase := 1 } else s
  else
    let cut := s.tally.open_.isSome
    let s := stepTime (dropStamps s) (s.dial.time + err.toNat)
    raise { s with tally.cutPeriod := cut } DIAL_EVENTS.STEP_DONE 0

/-- A measurement in ACQUIRING (R56, R57). -/
def measureAcquiring (s : State) (src : Nat) (err : Int) : State :=
  if stepsDial s err then beginStep { s with dial.goodRun := 0 } err
  else
    let s := wr s DIAL_FREQ_ADJ.ADJ (wrapU 32 (servoAdj s err))
    let run := if goodError err then s.dial.goodRun + 1 else 0
    let s := { s with dial.goodRun := run }
    if runLength src ≤ run then enterLocked s else s

/-- A measurement in LOCKED (R56, R57). -/
def measureLocked (s : State) (src : Nat) (err : Int) : State :=
  let s := accountLock s
  let s := wr s DIAL_FREQ_ADJ.ADJ (wrapU 32 (servoAdj s err))
  let run := if goodError err then 0 else s.dial.badRun + 1
  let s := { s with dial.badRun := run }
  if runLength src ≤ run then
    raise { setDialState s 1 with dial.goodRun := 0, dial.badRun := 0 } DIAL_EVENTS.UNLOCKED 0
  else s

/-- The first accepted measurement after a loss: the dial enters ACQUIRING, and the holdover ends (R56). -/
def leaveHoldover (s : State) : State :=
  let s := { setDialState s 1 with dial.goodRun := 0, dial.badRun := 0, dial.lockMark := s.dial.now }
  wr (wr s DIAL_HOLDOVER_BOUND.ELAPSED_S 0) DIAL_HOLDOVER_BOUND.BOUND_NS 0

/-- The dial is set from a source time and enters ACQUIRING; the first epoch starts (R47, R56, R369). -/
def setDial (s : State) (t : Nat) : State :=
  let s := wrB (setDialState s 1) DIAL_STATUS.SET true
  let s := setTime (dropStamps { s with dial.lockHist := [], dial.lockMark := s.dial.now }) t
  startEpoch s 0x02 t (epochSeconds s)

/-- The source is marked valid from its first accepted measurement on (R520). -/
def markValid (s : State) (src : Nat) : State :=
  if sourceValid s src then s
  else if src == 0 then { s with dial.pinsValid := true, dial.pinsSince := s.dial.now }
  else { s with dial.ptpValid := true, dial.ptpSince := s.dial.now }

/-- An accepted measurement: the source says that the time is now `t` ns (R56, R57, R520). -/
def measure (s : State) (src : Nat) (t : Nat) : State :=
  let s := markValid s src
  if activeSource s != src then s
  else if dialState s == 0 then setDial s t
  else
    let err : Int := (t : Int) - s.dial.time
    let s := { s with dial.lastError := err }
    let s := wr (bump s DIAL_OFFSET.MEASURE_COUNT 1) DIAL_OFFSET.OFFSET_NS (wrapU 32 (satS 32 err))
    if dialState s == 2 then measureLocked s src err
    else if dialState s == 1 then measureAcquiring s src err
    else measureAcquiring (leaveHoldover s) src err

/-! ## The timing pins -/

/-- An error in DIAL_TOD_ERRORS (R84). -/
def todError (s : State) (f : Field) : State := raise (bump s f 1) DIAL_EVENTS.TOD_ERROR 0

/-- An accepted edge (R50, R52). -/
def takeEdge (s : State) : State :=
  let s := { wrB s DIAL_STATUS.PPS_PRESENT true with dial.lastEdge := some s.dial.now }
  match s.dial.tod with
  | some t => measure { s with dial.missingRow := 0, dial.tod := none } 0 (t * 1000000000)
  | none =>
    let s := todError { breakRun s 0 with dial.missingRow := s.dial.missingRow + 1 } DIAL_TOD_ERRORS.MISSING
    if 2 ≤ s.dial.missingRow then loseSource s 0 else s

/-- PPS_EDGE: a rising 1PPS edge (R50, R52). The dial listens from step 1 of the boot sequence on (R399). -/
def execPpsEdge (dt : Nat) (s : State) : Host.Outcome State Fault Refusal :=
  if !s.secure.powerGood then .next s else
  let s := advance s dt
  match s.dial.lastEdge with
  | some e =>
    if s.dial.now - e < 900000000 then .next (todError s DIAL_TOD_ERRORS.BAD)
    else if ppsOverdue s && s.dial.pinsValid then .next (takeEdge (loseSource s 0))
    else .next (takeEdge s)
  | none => .next (takeEdge s)

/-- The window of R50 for a message: from 100 ms after a pulse to 100 ms before the next. Before any pulse is known a message is
accepted (log 12: DESIGN CHOICE). The next pulse is not known when a message ends: the window is taken to close 900 ms after
the last edge, and to be open again once 1.1 s have passed without a pulse (log 148: DESIGN CHOICE). -/
def todInWindow (s : State) : Bool :=
  match s.dial.lastEdge with
  | none => true
  | some e =>
    let d := s.dial.now - e
    decide (1100000000 < d) || (decide (100000000 ≤ d) && decide (d ≤ 900000000))

/-- The exclusive-or of bytes. -/
def xorBytes (bs : Bytes) : Byte := bs.foldl (· ^^^ ·) 0

/-- A message that fails none of the checks of R51. -/
def todGood (m : Bytes) : Bool :=
  m.length == 10 && beAt m 0 1 == 0xA5 && beAt m 1 1 == 0x01 && bit (beAt m 8 1) 0 &&
    beAt m 9 1 == (xorBytes (m.take 9)).toNat

/-- TOD_MESSAGE: a message on the time-of-day line (R51). -/
def execTodMessage (dt : Nat) (m : Bytes) (s : State) : Host.Outcome State Fault Refusal :=
  if !s.secure.powerGood then .next s else
  let s := advance s dt
  if todInWindow s && todGood m then .next { s with dial.tod := some (beAt m 2 6) }
  else .next (todError s DIAL_TOD_ERRORS.BAD)

/-- PPS_TIMEOUT: 1,100,000,000 dial ns have passed since the last edge (R52). -/
def execPpsTimeout (dt : Nat) (s : State) : Host.Outcome State Fault Refusal :=
  let s := advance s dt
  match s.dial.lastEdge with
  | some e =>
    if 1100000000 ≤ s.dial.now - e then .next (loseSource (wrB s DIAL_STATUS.PPS_PRESENT false) 0) else .next s
  | none => .next s

/-! ## IEEE 1588-2019 (R53, R54) -/

/-- The clock that stamps event messages: the dial, or before it is set the time since power-good. -/
def stampNow (s : State) : Nat := if dialSet s then s.dial.time else s.dial.now

/-- A message of the transport and domain in use (R53, R82); TRANSPORT 0b11 is reserved and receives nothing. -/
def ptpHeard (s : State) (transport domain : Nat) : Bool :=
  transport == rd s DIAL_PTP_CFG.TRANSPORT && decide (transport < 3) && domain == rd s DIAL_PTP_CFG.DOMAIN

/-- The fields that the best master clock algorithm of the default profile compares, in order. -/
def announceRank (m : PtpAnnounce) : List Nat :=
  [m.priority1, m.clockClass, m.accuracy, m.variance, m.priority2, m.grandmaster, m.stepsRemoved, m.master]

/-- Lexicographic order, equal lists included. -/
def lexLe : List Nat → List Nat → Bool
  | a :: as, b :: bs => decide (a < b) || (a == b && lexLe as bs)
  | _, _ => true

/-- The foreign master window of the default profile: 4 announce intervals, of 2 s each (R53; log 149: PRESUMED). -/
def foreignWindowNs : Nat := 8000000000

/-- The Announces of a master that lie within the window (R53; log 149). -/
def Foreign.recent (now : Nat) (f : Foreign) : Foreign :=
  { f with times := f.times.filter fun t => decide (now - t ≤ foreignWindowNs) }

/-- The algorithm considers a master whose grandmaster is fewer than 255 steps away, and which is the one chosen or has sent two
Announces within the window (R53; log 149: PRESUMED). -/
def Foreign.qualified (chosen : Option Nat) (f : Foreign) : Bool :=
  decide (f.announce.stepsRemoved < 255) && (chosen == some f.announce.master || decide (2 ≤ f.times.length))

/-- The best of the masters that the algorithm considers. -/
def bestMaster : List PtpAnnounce → Option Nat
  | [] => none
  | m :: ms => some (ms.foldl (fun a b => if lexLe (announceRank a) (announceRank b) then a else b) m).master

/-- The masters other than `but` that have been heard within the window; the one chosen stays until its timeout (R53; log 149). -/
def otherMasters (s : State) (but : Nat) : List Foreign :=
  ((s.dial.masters.filter (·.announce.master != but)).map (Foreign.recent s.dial.now)).filter fun f =>
    !f.times.isEmpty || s.dial.chosen == some f.announce.master

/-- The choice among the masters heard; another choice drops what was under way with the one before. The announce receipt timeout runs
from the last Announce of the one chosen (R53, R54). -/
def chooseMaster (s : State) (ms : List Foreign) : State :=
  let c := bestMaster ((ms.filter (Foreign.qualified s.dial.chosen)).map (·.announce))
  let last := (ms.find? fun f => c == some f.announce.master).bind (·.times.head?)
  let s := { s with dial.masters := ms, dial.lastAnnounce := last }
  let s := wrB s DIAL_STATUS.MASTER_SEEN (!ms.isEmpty)
  if c == s.dial.chosen then s
  else { s with dial.chosen := c, dial.syncWait := none, dial.delaySent := none, dial.syncPair := none,
                dial.meanDelay := none }

/-- The masters once an Announce has come: its sender is heard anew (R53). -/
def heardMasters (s : State) (m : PtpAnnounce) : List Foreign :=
  let old := ((s.dial.masters.find? (·.announce.master == m.master)).map fun f => (Foreign.recent s.dial.now f).times).getD []
  otherMasters s m.master ++ [⟨m, s.dial.now :: old⟩]

/-- ns of the Sync interval set in SYNC_LOG: 1 to 7 act as 0, −8 as −7 (R82). -/
def syncIntervalNs (s : State) : Nat :=
  let v := rd s DIAL_PTP_CFG.SYNC_LOG
  if v < 8 then 1000000000 else 1000000000 / 2 ^ min 7 (16 - v)

/-- ns of the announce receipt timeout: 0 and 1 act as 2 intervals (R82), an interval being the 2 s of the default profile (log 149:
PRESUMED). -/
def announceTimeoutNs (s : State) : Nat := max 2 (rd s DIAL_PTP_CFG.ANNOUNCE_TIMEOUT) * 2000000000

/-- `limit` ns have passed since a message; where none has come, nothing is overdue. -/
def overdue (s : State) (last : Option Nat) (limit : Nat) : Bool := match last with
  | some t => decide (limit ≤ s.dial.now - t)
  | none => false

/-- The IEEE 1588-2019 source is declared lost where a limit of R54 has passed. With the announce receipt timeout the master chosen is
no longer heard, and the algorithm chooses anew (log 149: PRESUMED); with the other, a Sync that waits for its Follow_Up is none of
the time after the loss (R520). -/
def checkPtp (s : State) : State :=
  if overdue s s.dial.lastAnnounce (announceTimeoutNs s) then
    let rest := (otherMasters s (s.dial.chosen.getD 0)).filter fun f => s.dial.chosen != some f.announce.master
    chooseMaster { loseSource s 1 with dial.lastSync := none, dial.syncWait := none } rest
  else if overdue s s.dial.lastSync (3 * syncIntervalNs s) then
    { loseSource s 1 with dial.lastSync := none, dial.syncWait := none }
  else s

/-- PTP_ANNOUNCE (R53). -/
def execPtpAnnounce (dt : Nat) (m : PtpAnnounce) (s : State) : Host.Outcome State Fault Refusal :=
  if !s.secure.powerGood then .next s else
  let s := checkPtp (advance s dt)
  if !ptpHeard s m.transport m.domain then .next s else .next (chooseMaster s (heardMasters s m))

/-- A Sync whose corrected origin time and arrival are known: with a completed delay measurement it is an accepted
measurement (R520). -/
def completeSync (s : State) (origin arrival : Nat) : State :=
  let s := { s with dial.syncPair := some (origin, arrival) }
  match s.dial.meanDelay with
  | none => breakRun s 1
  | some d => measure s 1 (((origin : Int) + d + ((stampNow s : Int) - arrival)).toNat)

/-- A time with a correction added. -/
def corrected (t : Nat) (c : Int) : Nat := ((t : Int) + c).toNat

/-- PTP_SYNC (R53): a Sync of the chosen master, while the announce receipt timeout has not expired (R520). A two-step Sync before it
that had no Follow_Up gave no measurement (R56). -/
def execPtpSync (dt : Nat) (m : PtpSync) (s : State) : Host.Outcome State Fault Refusal :=
  let s := checkPtp (advance s dt)
  if !(ptpHeard s m.transport m.domain && s.dial.chosen == some m.master) then .next s
  else
  let s := { (if s.dial.syncWait.isSome then breakRun s 1 else s) with dial.lastSync := some s.dial.now }
  if m.twoStep then .next { s with dial.syncWait := some (m.sequence, stampNow s, m.correctionNs) }
  else .next (completeSync { s with dial.syncWait := none } (corrected m.originNs m.correctionNs) (stampNow s))

/-- PTP_FOLLOW_UP: the precise origin time of the two-step Sync that waits for it (R53). -/
def execPtpFollowUp (dt : Nat) (net : PtpNet) (master sequence originNs : Nat) (correctionNs : Int) (s : State) :
    Host.Outcome State Fault Refusal :=
  let s := checkPtp (advance s dt)
  match s.dial.syncWait with
  | some (seq, arrival, c) =>
    if seq == sequence && s.dial.chosen == some master && ptpHeard s net.transport net.domain then
      .next (completeSync { s with dial.syncWait := none } (corrected originNs (c + correctionNs)) arrival)
    else .next s
  | none => .next s

/-- DELAY_REQ: the HN2048 sends a Delay_Req to the chosen master and stamps its departure (R53). -/
def execDelayReq (dt : Nat) (s : State) : Host.Outcome State Fault Refusal :=
  let s := advance s dt
  if s.dial.chosen.isNone then .next s
  else
    let n := s.dial.delaySeq
    .next (emit { s with dial.delaySent := some (n, stampNow s), dial.delaySeq := addMod 16 n 1 }
      (.ptpDelayReq n (stampNow s)))

/-- PTP_DELAY_RESP: the delay measurement is complete (R53): the mean of the two directions. -/
def execPtpDelayResp (dt : Nat) (net : PtpNet) (master sequence receiveNs : Nat) (correctionNs : Int) (s : State) :
    Host.Outcome State Fault Refusal :=
  let s := advance s dt
  match s.dial.delaySent, s.dial.syncPair with
  | some (seq, t3), some (t1, t2) =>
    if seq == sequence && s.dial.chosen == some master && ptpHeard s net.transport net.domain then
      let sum : Int := ((t2 : Int) - t1) + ((receiveNs : Int) - correctionNs - t3)
      let r := freeQuot s sum 2
      .next { r.2 with dial.meanDelay := some r.1, dial.delaySent := none }
    else .next s
  | _, _ => .next s

/-- SYNC_TIMEOUT: no Sync within 3 intervals (R54). -/
def execSyncTimeout (dt : Nat) (s : State) : Host.Outcome State Fault Refusal := .next (checkPtp (advance s dt))

/-- ANNOUNCE_TIMEOUT: the announce receipt timeout expires (R54). -/
def execAnnounceTimeout (dt : Nat) (s : State) : Host.Outcome State Fault Refusal := .next (checkPtp (advance s dt))

/-! ## Changes of source and holdover -/

/-- SOURCE_CHANGE: a written change of SOURCE takes effect at a dial-second boundary (R49). A dial that is UNSET has no second: there
it takes effect at once (log 150: DESIGN CHOICE). -/
def execSourceChange (s : State) : Host.Outcome State Fault Refusal :=
  let new := selectedWritten s
  if !(atSecond s || !dialSet s) || new == s.dial.source then .next s
  else
    let s := { s with dial.source := new }
    if sourceValid s new then .next (raise (follow s new) DIAL_EVENTS.SOURCE_SWITCHED 0)
    else if rdB s DIAL_CTRL.FALLBACK_EN && sourceValid s (1 - new) then
      .next (raise (follow s (1 - new)) DIAL_EVENTS.SOURCE_SWITCHED 0)
    else .next (sourceGone (raise (follow s new) DIAL_EVENTS.SOURCE_SWITCHED 0))

/-- The source has been valid for 16 consecutive seconds (R49). -/
def validLong (s : State) (src : Nat) : Bool :=
  sourceValid s src &&
    decide (16000000000 ≤ s.dial.now - (if src == 0 then s.dial.pinsSince else s.dial.ptpSince))

/-- FALLBACK_RETURN: the dial returns to the selected source (R49). -/
def execFallbackReturn (dt : Nat) (s : State) : Host.Outcome State Fault Refusal :=
  let s := advance s dt
  if rdB s DIAL_CTRL.FALLBACK_EN && activeSource s != s.dial.source && validLong s s.dial.source then
    .next (raise (follow s s.dial.source) DIAL_EVENTS.SOURCE_SWITCHED 0)
  else .next s

/-- HOLDOVER_WARN: the bound first exceeds WARN_NS (R61). -/
def execHoldoverWarn (dt : Nat) (s : State) : Host.Outcome State Fault Refusal :=
  let s := advance s dt
  if inHoldover s && !s.dial.warned && decide (rd s DIAL_HOLDOVER_CFG.WARN_NS * 1000000000 < boundScaled s) then
    .next (raise { s with dial.warned := true } DIAL_EVENTS.HOLDOVER_WARN 0)
  else .next s

/-- HOLDOVER_EXPIRED: the bound first exceeds LIMIT_NS, and EXPIRED is entered (R61). -/
def execHoldoverExpired (dt : Nat) (s : State) : Host.Outcome State Fault Refusal :=
  let s := advance s dt
  if dialState s == 3 && decide (rd s DIAL_HOLDOVER_CFG.LIMIT_NS * 1000000000 < boundScaled s) then
    .next (raise (setDialState s 4) DIAL_EVENTS.HOLDOVER_EXPIRED 0)
  else .next s

/-- DIAL_NOW_SEC_READ: a read of DIAL_NOW_SEC gives the seconds and latches DIAL_NOW_NS and DIAL_ROUND (R83). -/
def latchDial (s : State) : State :=
  let s := wr (wr s DIAL_NOW_SEC.SECONDS (dialSeconds s)) DIAL_NOW_NS.NS (s.dial.time % 1000000000)
  let s := wr s DIAL_ROUND.BEAT_INDEX (beatInSecond s)
  match roundBeats s with
  | some n => wr (wr s DIAL_ROUND.BEAT_IN_ROUND (beatInSecond s % n)) DIAL_ROUND.ROUND_INDEX (beatInSecond s / n)
  | none => wr (wr s DIAL_ROUND.BEAT_IN_ROUND 0) DIAL_ROUND.ROUND_INDEX 0

/-- DIAL_NOW_SEC_READ (R83). -/
def execDialNowSecRead (s : State) : Host.Outcome State Fault Refusal := .next (latchDial s)

/-- DIAL_SECOND_BOUNDARY: the dial reaches the start of a dial second; what is aligned to it falls due (R63). -/
def execDialSecondBoundary (s : State) : Host.Outcome State Fault Refusal :=
  if !dialSet s then .next s
  else if atSecond s then .next (refresh s)
  else .next (advanceTo s (nextSecond s))

/-- BEAT_START: the dial reaches the start of the next beat (R63). -/
def execBeatStart (s : State) : Host.Outcome State Fault Refusal :=
  if dialSet s then .next (advanceTo s (batchNow s + 1)) else .next s

end Sys2Proof.Machine
end

