-- ==== Sys2Proof/Machine/HeadPort.lean ====
section
/-! DEFINITION. Head ports: lanes, reception, admission and shedding, and the transmission of verdict bundles; and the lanes
of the peer links, which follow the same rules (R86 to R119, R438). -/

namespace Sys2Proof.Machine

/-! ## Lanes (R86 to R89, R438) -/

/-- The shape that decides which units work: that of the running schedule. R88 and R438 name no other; while no schedule runs the
model takes the working shape (log 142: DESIGN CHOICE). -/
def shapeNow (s : State) : Nat := match s.sched.running with
  | some c => c.shape
  | none => s.sched.workShape

/-- A lane of port p may be used: in the shape and not failing (R88, R475). -/
def headLane (s : State) (p l : Nat) : Bool :=
  bit (shapeNow s) (shapeBit 4 (4 * p + l)) && !s.observe.failing.contains (unitKey 4 (4 * p + l)) &&
    !bit (rd s (HEADPORT_STATUS.LANE_FAULT p)) l

/-- A lane of link j may be used. -/
def peerLane (s : State) (j l : Nat) : Bool :=
  bit (shapeNow s) (shapeBit 5 (2 * j + l)) && !s.observe.failing.contains (unitKey 5 (2 * j + l)) &&
    !bit (rd s (PEER_LINK_STATUS.LANE_FAULT j)) l

/-- The lanes that a port uses: lowest lane and number of lanes (R88); none where the port is down. -/
def portLanes (s : State) (p : Nat) : Option (Nat × Nat) :=
  let mx := match (s.ports.getD p PortSt.reset).maxLanes with
    | 0 => 1
    | 1 => 2
    | _ => 4
  let ok (l : Nat) : Bool := headLane s p l
  if mx == 4 && ok 0 && ok 1 && ok 2 && ok 3 then some (0, 4)
  else if 2 ≤ mx && ok 0 && ok 1 then some (0, 2)
  else if 2 ≤ mx && ok 2 && ok 3 then some (2, 2)
  else match (List.range 4).find? ok with
    | some l => some (l, 1)
    | none => none

/-- The lanes that a link uses (R438). -/
def linkLanes (s : State) (j : Nat) : Option (Nat × Nat) :=
  match peerLane s j 0, peerLane s j 1 with
  | true, true => some (0, 2)
  | true, false => some (0, 1)
  | false, true => some (1, 1)
  | false, false => none

/-- ACTIVE_LANES of a number of lanes (R119). -/
def laneCode (n : Nat) : Nat := if n == 4 then 3 else if n == 2 then 2 else if n == 1 then 1 else 0

/-- Power domain of a port's lanes (R27). -/
def portDomain (p : Nat) : Nat := if p < 4 then 2 else 3

/-- The port is enabled and its lanes are powered. -/
def portOn (s : State) (p : Nat) : Bool :=
  rdB s (HEADPORT_PORT_CFG.ENABLE p) && pdOn s (portDomain p) && !s.pins.lanesOff

/-- The port is up: neither down, retraining nor disabled (R89, R113). -/
def portUp (s : State) (p : Nat) : Bool :=
  portOn s p && rdB s (HEADPORT_STATUS.ALIGNED p) && (s.ports.getD p PortSt.reset).retrain.isNone

/-- The choice of R88 is reported, whether or not the lanes have locked; a port whose lanes are off uses none. -/
def showLanes (s : State) (p : Nat) : State :=
  if !pdOn s (portDomain p) then s
  else
    let c := if portOn s p then (portLanes s p).getD (0, 0) else (0, 0)
    wr (wr s (HEADPORT_STATUS.ACTIVE_LANES p) (laneCode c.2)) (HEADPORT_STATUS.LANE_BASE p) c.1

/-- The port's link goes down; a retrain that runs ends with it. -/
def portDown (s : State) (p : Nat) : State :=
  { wr s (HEADPORT_STATUS.ALIGNED p) 0 with
    ports := modAt s.ports p fun t => { t with retrain := none, retrainLanes := [] } }

/-- The port's link comes up on the lanes of R88. -/
def portLinkUp (s : State) (p base n : Nat) : State :=
  let s := wr (wr s (HEADPORT_STATUS.ALIGNED p) 1) (HEADPORT_STATUS.ACTIVE_LANES p) (laneCode n)
  let s := wr s (HEADPORT_STATUS.LANE_BASE p) base
  wr s (HEADPORT_STATUS.LOCKED p) (rd s (HEADPORT_STATUS.LOCKED p) ||| (2 ^ n - 1) * 2 ^ base)

/-- A peer link goes down (R440). -/
def linkDown (s : State) (j : Nat) : State :=
  if rdB s (PEER_LINK_STATUS.UP j) then raise (wrB s (PEER_LINK_STATUS.UP j) false) PEER_EVENTS.LINK_DOWN j else s

/-- Every lane of a list is among a mask. -/
def lanesIn (mask base n : Nat) : Bool := (List.range n).all fun k => bit mask (base + k)

/-- MAC_CONTROL_FRAME: a received MAC control frame is discarded and counted (R87). -/
def execMacControlFrame (port : Nat) (s : State) : Host.Outcome State Fault Refusal :=
  if !portUp s port then .next s
  else .next (raise (bump s (HEADPORT_MISC.MAC_CONTROL port) 1) HEADPORT_EVENTS.MAC_CONTROL port)

/-- A write of a port's configuration (R117): ENABLE from 0 to 1 brings the port up afresh, from 1 to 0 turns its lanes
off. -/
def writePortCfg (s : State) (p value : Nat) : State :=
  let was := rdB s (HEADPORT_PORT_CFG.ENABLE p)
  let s := writeFields s (HEADPORT_PORT_CFG.ENABLE p).addr value
  let on := rdB s (HEADPORT_PORT_CFG.ENABLE p)
  if !was && on then
    showLanes { s with ports := modAt s.ports p fun t => { t with
        v1 := rdB s (HEADPORT_PORT_CFG.KEAFEN_V1 p)
        maxLanes := rd s (HEADPORT_PORT_CFG.MAX_LANES p)
        lastSeq := none
        txOrdered := 0
        txShed := 0 } } p
  else if was && !on then
    let s := wr (portDown s p) (HEADPORT_STATUS.LOCKED p) 0
    showLanes { s with ports := modAt s.ports p fun t => { t with retrained := [] } } p
  else s

/-- HEADPORT_PORT_CFG_WRITE: a write of HEADPORT_PORT_CFG[p] (R117). -/
def execHeadportPortCfgWrite (port : Nat) (value : Word) (s : State) : Host.Outcome State Fault Refusal :=
  if port < 8 && pdOn s (portDomain port) then .next (writePortCfg s port value.toNat) else .next s

/-! ## Shedding (R102 to R105) -/

/-- The cause for which a head of port p is shed, as its SHED_REASON (R103); none where it is admitted. -/
def shedReason (s : State) (p : Nat) : Option Nat :=
  let t := s.ports.getD p PortSt.reset
  if !rdB s (HEADPORT_PORT_CFG.ADMIT_EN p) then some 6
  else if !dialSet s || !scheduleRuns s then some 5
  else if 2 ≤ s.dial.stepPhase then some 4
  else if catchingUp s then some 3
  else if 1 ≤ t.quota && decide (t.quota ≤ 5000) && decide (t.quota ≤ t.admitted) then some 2
  else match s.pipe.batches.find? (·.number == batchNow s) with
    | none => some 5
    | some b => if b.capacity ≤ b.heads.length then some 1 else none

/-- The counter of a cause (R103). -/
def shedCounter (p reason : Nat) : Field :=
  match reason with
  | 1 => HEADPORT_SHED_A.CAPACITY p
  | 2 => HEADPORT_SHED_A.QUOTA p
  | 3 => HEADPORT_SHED_B.CATCHUP p
  | 4 => HEADPORT_SHED_B.STEP p
  | 5 => HEADPORT_SHED_C.NO_SCHEDULE p
  | _ => HEADPORT_SHED_C.DISABLED p

/-- The fields of a verdict record (R106). -/
structure Verdict where
  cookie : Nat
  bundleSeq : Nat
  record : Nat
  shed : Bool
  late : Bool
  action : Nat
  arg : Nat
  score : Nat
  partition : Nat
  featureFault : Bool
  suppressed : Bool
  defaultTaken : Bool
  ruleHit : Bool
  colour : Nat
  reason : Nat
  batchLow : Nat
  deriving DecidableEq, Repr

/-- The 128 bits of a verdict record (R106). -/
def Verdict.word (v : Verdict) : Nat :=
  pack [(32, v.cookie), (16, v.bundleSeq), (6, v.record), (1, b2n v.shed), (1, b2n v.late), (8, v.action), (16, v.arg),
    (16, v.score), (6, v.partition), (1, b2n v.featureFault), (1, b2n v.suppressed), (1, b2n v.defaultTaken),
    (1, b2n v.ruleHit), (2, v.colour), (4, v.reason), (16, v.batchLow)]

/-- On a version 1 port PARTITION, COLOUR and SHED_REASON are written as zero (R101). -/
def Verdict.forV1 (v : Verdict) : Verdict := { v with partition := 0, colour := 0, reason := 0 }

/-- The shed verdict of a head (R105). -/
def shedVerdict (s : State) (p : Nat) (r : HeadRecord) (seq idx reason : Nat) : Verdict where
  cookie := r.cookie
  bundleSeq := seq
  record := idx
  shed := true
  late := false
  action := actionCode (rd s (HEADPORT_PORT_CFG.SHED_ACTION p))
  arg := rd s (HEADPORT_PORT_CFG.SHED_MIRROR p) * 2 ^ 11 + rd s (HEADPORT_PORT_CFG.SHED_EGRESS p)
  score := 0
  partition := r.hint
  featureFault := false
  suppressed := false
  defaultTaken := false
  ruleHit := false
  colour := 0
  reason := reason
  batchLow := if dialSet s then batchNow s else 0

/-- A shed verdict put into the shed stream of a port: a full item is written to the queue, a full bundle is closed (R110,
R111, R205). -/
def pushShed (s : State) (p rec : Nat) : State :=
  let s := { s with ports := modAt s.ports p fun t =>
    let fresh := !(t.shedding.any fun o => !o.closed)
    let o : OpenBundle := ⟨if dialSet s then batchNow s else 0, 0, false, false⟩
    { t with
      shedding := (if fresh then t.shedding ++ [o] else t.shedding).map fun o =>
        if o.closed then o else { o with count := o.count + 1 }
      shedFirst := if fresh then some s.dial.now else t.shedFirst
      shedPart := t.shedPart ++ [rec] } }
  let t := s.ports.getD p PortSt.reset
  let s := if 4 ≤ t.shedPart.length then flushShedPart s p else s
  if (s.ports.getD p PortSt.reset).shedding.any fun o => !o.closed && decide (128 ≤ o.count) then closeShed s p else s

/-- The account of a shed head (R362). -/
def shedAccount (s : State) (hint : Nat) : Nat :=
  rd s (FRONT_PART_B.ACCOUNT_BASE (if partitionOn s hint then hint else 0))

/-- A head is shed (R103, R105, R101). -/
def shedHead (s : State) (p : Nat) (r : HeadRecord) (units seq idx arrival reason : Nat) : State :=
  let v1 := (s.ports.getD p PortSt.reset).v1
  let s := count (bump s (shedCounter p reason) 1) (72 + p) 1
  let s := raiseIf (reason == 2) s HEADPORT_EVENTS.QUOTA_SHED p
  let acct := shedAccount s r.hint
  let s := keyHead (countShed s acct) acct (32 + 32 * units + 16)
  let s := { s with pipe.batches := s.pipe.batches.map fun b =>
    if b.number == batchNow s then { b with shed := b.shed + 1 } else b }
  let v := shedVerdict s p r seq idx reason
  if !v1 then pushShed s p v.word
  else if scheduleRuns s then
    { s with ports := modAt s.ports p fun t =>
        { t with v1Shed := t.v1Shed ++ [(batchNow s, arrival * 64 + idx, v.forV1.word)] } }
  else pushShed s p v.forV1.word

/-! ## Admission (R29, R102, R163, R204) -/

/-- The head-hold item of a head (R204). -/
def headItem512 (h : Head) (batch : Nat) : Nat :=
  pack [(32, h.cookie), (16, h.bundleSeq), (6, h.record), (3, h.port), (13, h.slot), (64, batch), (6, h.partition),
    (1, b2n h.ruleHit), (1, b2n h.final), (1, b2n h.featureFault), (2, h.colour), (8, h.action), (16, h.arg),
    (8, h.defAction), (16, h.defArg), (12, h.account), (307, 0)]

/-- A head before the front stage. -/
def rawHead (p : Nat) (r : HeadRecord) (units seq idx arrival slot : Nat) : Head where
  port := p
  bundleSeq := seq
  record := idx
  arrival := arrival
  slot := slot
  switchTs := r.switchTs
  flowId := r.flowId
  endpointId := r.endpointId
  ingress := r.ingress
  packetLength := r.packetLength
  cookie := r.cookie
  units := units
  hint := r.hint
  partition := 0
  account := 0
  ruleHit := false
  final := false
  featureFault := false
  faultSlots := 0
  colour := 0
  action := 0
  arg := 0
  defAction := 0
  defArg := 0
  slotMask := 0
  flow := none
  rev := 0
  feats := []
  lost := false

/-- The index and REV that a lookup gives a head (R163). -/
def Head.found (h : Head) : Lookup → Head
  | .hit i rev => { h with flow := some i, rev := rev }
  | .lockedHit i rev => { h with flow := some i, rev := rev }
  | .miss => h
  | .noKey => h

/-- A head is admitted: front stage, lookups, head-hold queue, batch slot (R28, R29, R163, R204). -/
def admitHead (s : State) (p : Nat) (r : HeadRecord) (units seq idx arrival : Nat) : State :=
  let b := batchNow s
  let slot := match s.pipe.batches.find? (·.number == b) with
    | some x => x.heads.length
    | none => 0
  let (s, h, o) := frontStage s (rawHead p r units seq idx arrival slot) r b
  let (s, fl) := lookupHead s h o 0
  let h := h.found fl
  let (s, _) := lookupHead s h o 1
  let s := keyMemory s 0 b (Config.transfers 0 64)
  let s := keyHead (countRequest s h.account) h.account (32 + 32 * units + 16)
  let (s, e) := enqueueDataPath s p (headItem512 h b) 1
  let h := { h with lost := e != .written }
  let s := count s (64 + p) 1
  { s with
    ports := modAt s.ports p fun t => { t with admitted := t.admitted + 1 }
    pipe.batches := s.pipe.batches.map fun x => if x.number == b then { x with heads := x.heads ++ [h] } else x }

/-- One head of an accepted bundle: shed or admitted (R102). -/
def takeHead (p units seq arrival : Nat) (s : State) (r : HeadRecord × Nat) : State :=
  match shedReason s p with
  | some reason => shedHead s p r.1 units seq r.2 arrival reason
  | none => admitHead s p r.1 units seq r.2 arrival

/-- An accepted bundle is counted; a gap in SEQUENCE is told (R94). -/
def countBundle (s : State) (p : Nat) (b : Bundle) : State :=
  let s := bump (bump s (HEADPORT_RX_BUNDLES.COUNT p) 1) (HEADPORT_RX_HEADS.COUNT p) b.count
  let gap := match (s.ports.getD p PortSt.reset).lastSeq with
    | some q => b.sequence != addMod 32 q 1
    | none => false
  let s := wr s (HEADPORT_SEQ.LAST_SEQUENCE p) b.sequence
  let s := { s with ports := modAt s.ports p fun t => { t with lastSeq := some b.sequence } }
  if gap then raise (bump s (HEADPORT_SEQ.GAPS p) 1) HEADPORT_EVENTS.SEQ_GAP p else s

/-- The counter of a discard (R92). -/
def discardCounter (p : Nat) : Discard → Field
  | .fcs => HEADPORT_DISCARDS.FCS p
  | .etherType => HEADPORT_DISCARDS.ETHERTYPE p
  | .header => HEADPORT_DISCARDS.HEADER p
  | .length => HEADPORT_DISCARDS.LENGTH p

/-- A frame's check completes at a port: it is checked, and its heads are admitted or shed (R92, R102, R103). A port that is not
up receives nothing (R89). -/
def receiveFrame (s : State) (f : FrameIn) : State :=
  let p := f.port
  if !portUp s p then s
  else
    let s := bump (bump s (HEADPORT_FEC.CORRECTED p) f.words.corrected) (HEADPORT_FEC.UNCORRECTABLE p) f.words.uncorrectable
    let v1 := (s.ports.getD p PortSt.reset).v1
    let fr := parseFrame f.frame
    let b := parseBundle v1 s.dial.time p (rd s (HEADPORT_PORT_CFG.V1_PARTITION p)) fr.body
    match discardCause (rd s HEADPORT_CTRL.ETHERTYPE) (rdB s HEADPORT_CTRL.ACCEPT_VLAN) v1 f.fcsGood f.words.uncorrectable p f.frame
        fr b with
    | some c => raise (bump s (discardCounter p c) 1) HEADPORT_EVENTS.DISCARD p
    | none =>
      let s := f.faults.foldl structureFault s
      let s := countBundle s p b
      let s := { s with pipe.arrivals := s.pipe.arrivals + 1 }
      b.records.zipIdx.foldl (takeHead p b.units b.sequence s.pipe.arrivals) s

/-- Frames whose checks complete in one cycle of HCLK, in the order in which their heads are admitted: ascending port (R29). -/
def portOrder (l : List FrameIn) : List FrameIn := sortBy (fun a b => decide (a.port ≤ b.port)) l

/-- HEAD_BUNDLE: a frame arrives at a head port, with those of other ports whose frame checks complete in the same cycle of HCLK
(R29, R92, R102, R103). -/
def execHeadBundle (dt port : Nat) (frame : Bytes) (fcsGood : Bool) (words : Codewords) (faults : List FaultEv)
    (also : List FrameIn) (s : State) : Host.Outcome State Fault Refusal :=
  .next ((portOrder (⟨port, frame, fcsGood, words, faults⟩ :: also)).foldl receiveFrame (advance s dt))

/-! ## Transmission (R90, R110 to R113) -/

/-- The Keafen version 2 header of a verdict bundle (R91, R111). -/
def verdictHeader (s : State) (p kind count seq batch : Nat) (last : Bool) : Nat :=
  let ts := if dialSet s then nowShort s else 0
  pack [(8, 0x02), (8, kind), (8, count), (4, 0), (4, p), (32, seq), (64, ts), (16, rd s HEADPORT_CTRL.SOURCE_ID),
    (8, b2n last + 2 * b2n (dialState s != 2)), (64, batch), (40, 0)]

/-- The Keafen version 1 header (R98). -/
def verdictHeader1 (count seq : Nat) : Nat :=
  pack [(8, 0x01), (8, 0x02), (8, count), (8, 0), (32, seq), (192, 0)]

/-- The Ethernet frame of a verdict bundle (R111). -/
def verdictFrame (s : State) (p header : Nat) (records : List Nat) : Bytes :=
  let tag := if rdB s (HEADPORT_VLAN.TAG_EN p) then natBe 2 0x8100 ++ natBe 2 (rd s (HEADPORT_VLAN.TCI p)) else []
  natBe 6 (rd s (HEADPORT_PEER_MAC.ADDRESS p)) ++ natBe 6 (rd s (HEADPORT_LOCAL_MAC.ADDRESS p)) ++ tag ++
    natBe 2 (rd s HEADPORT_CTRL.ETHERTYPE) ++ natBe 32 header ++ records.flatMap (natBe 16)

/-- `n` items taken from a verdict queue: their records, those of a discarded item counted as dropped (R472 class 1). -/
def takeItems (p q : Nat) : Nat → State → List Nat → State × List Nat
  | 0, s, rs => (s, rs)
  | n + 1, s, rs =>
    match dequeue s q with
    | (s, .item i _) => takeItems p q n s (rs ++ verdictRecords i)
    | (s, .discarded i _) => takeItems p q n (bump s (HEADPORT_MISC.VERDICTS_DROPPED p) (verdictRecords i).length) rs
    | (s, _) => (s, rs)

/-- LATE of a verdict record. -/
def isLate (r : Nat) : Bool := bit r 72

/-- A bundle of records leaves (R110, R111), or is dropped where the port is not up (R113). -/
def sendBundle (s : State) (p : Nat) (o : OpenBundle) (shed : Bool) (records : List Nat) : State :=
  let n := records.length
  if n == 0 then s
  else if !portUp s p then bump s (HEADPORT_MISC.VERDICTS_DROPPED p) n
  else
    let t := s.ports.getD p PortSt.reset
    let ordered := t.v1 || !shed
    let seq := if ordered then t.txOrdered else t.txShed
    let h := if t.v1 then verdictHeader1 n seq
      else verdictHeader s p (if shed then 0x03 else 0x02) n seq o.batch o.last
    let late := (records.filter isLate).length
    let s := emit s (.bundle p (verdictFrame s p h records))
    let s := count (bump (bump s (HEADPORT_TX_VERDICTS.COUNT p) n) (HEADPORT_LATE.COUNT p) late) (80 + p) late
    { s with ports := modAt s.ports p fun t =>
        if ordered then { t with txOrdered := addMod 32 t.txOrdered 1 } else { t with txShed := addMod 32 t.txShed 1 } }

/-- VERDICT_TRANSMIT: a transmitter takes the items of its next bundle, the ordered stream first, and sends it (R110 to
R113). -/
def execVerdictTransmit (dt port : Nat) (faults : List FaultEv) (s : State) : Host.Outcome State Fault Refusal :=
  let s := advance s dt
  let t := s.ports.getD port PortSt.reset
  match t.ordered with
  | o :: rest =>
    let s := { s with ports := modAt s.ports port fun t => { t with ordered := rest } }
    let s := faults.foldl structureFault s
    let (s, rs) := takeItems port (orderedQueue port) (ceilDiv o.count 4) s []
    .next (closeDataPath (sendBundle s port o false rs))
  | [] =>
    match t.shedding with
    | o :: rest =>
      if !o.closed then .next s
      else
        let s := { s with ports := modAt s.ports port fun t => { t with shedding := rest } }
        let s := faults.foldl structureFault s
        let (s, rs) := takeItems port (shedQueue port) (ceilDiv o.count 4) s []
        .next (sendBundle s port o true rs)
    | [] => .next s

/-- SHED_BUNDLE_TIMEOUT: while the dial is UNSET a shed bundle closes 1,000 cycles of CCLK, 1,000 ns at the dial's rate,
after its first record (R48, R111). -/
def execShedBundleTimeout (dt port : Nat) (s : State) : Host.Outcome State Fault Refusal :=
  let s := advance s dt
  match (s.ports.getD port PortSt.reset).shedFirst with
  | some t => if !dialSet s && decide (1000 ≤ s.dial.now - t) then .next (closeShed s port) else .next s
  | none => .next s

end Sys2Proof.Machine
end

