-- ==== Sys2Proof/Machine/Pipeline.lean ====
section
/-! DEFINITION. Batches and their chains: close, fetch, gather, execute, retire, late batches and catch-up (R28 to R40, R71 to
R73, R144, R244, R247, R290 to R293). -/

namespace Sys2Proof.Machine

/-! ## Batches and chains of the state -/

/-- A batch of the state. -/
def findBatch (s : State) (n : Nat) : Option Batch := s.pipe.batches.find? (·.number == n)

/-- A batch changed. -/
def modBatch (s : State) (n : Nat) (f : Batch → Batch) : State :=
  { s with pipe.batches := s.pipe.batches.map fun b => if b.number == n then f b else b }

/-- The chain of a slot in a batch. -/
def Batch.chain (b : Batch) (slot : Nat) : Option Chain := b.chains.find? (·.slot == slot)

/-- A chain changed. -/
def modChain (s : State) (n slot : Nat) (f : Chain → Chain) : State :=
  modBatch s n fun b => { b with chains := b.chains.map fun c => if c.slot == slot then f c else c }

/-- An operation record of a chain that does not exist. -/
def OpRec.none_ : OpRec where
  kind := 0
  inTensor := 255
  outTensor := 255
  g := 32
  n := 0
  fmtW := 0
  fmtOut := 0
  f := 0
  zo := 0
  clampLo := 0
  clampHi := 0
  outputs := 0
  adapter := false
  outScale := 0
  aux := 0
  zw := []
  bias := []
  sb := []
  owscale := []
  gscale := []
  weights := []
  rows := []
  prog := []

/-- Operation i of a chain. -/
def Chain.op (c : Chain) (i : Nat) : OpRec := c.model.ops.getD i OpRec.none_

/-- The chain has retired. -/
def Chain.done (c : Chain) : Bool := decide (c.total ≤ c.retired)

/-- All chains of a batch have retired. -/
def Batch.retiredAll (b : Batch) : Bool := b.chains.all Chain.done

/-- The chains of earlier batches of a slot that still run. -/
def earlierChains (s : State) (batch slot : Nat) : List Chain :=
  (s.pipe.batches.filter fun b => decide (b.number < batch) && !b.tripped).flatMap fun b =>
    b.chains.filter fun c => c.slot == slot && !c.done

/-- The present cores of a die, by cluster and then core number (R284). -/
def dieCores (shape die : Nat) : List Nat :=
  ((List.range 8).filter fun k => bit shape (336 + 8 * die + k)).flatMap fun k => (List.range 16).map (16 * k + ·)

/-- The die, the position and the core to which each batch slot of n is dealt: slot i to present die i mod D, at position trunc(i / D) of its
share (R31), which goes to the (j mod C_d)-th present core of the die, core c of cluster k being 16 × k + c (R284). -/
def dealSlots (shape n : Nat) : List (Nat × Nat × Nat) :=
  let dies := (List.range 4).filter (hasDie shape)
  (List.range n).map fun i =>
    let d := dies.getD (i % max 1 dies.length) 0
    let j := i / max 1 dies.length
    let cores := dieCores shape d
    (d, j, cores.getD (j % max 1 cores.length) 0)

/-- BATCH_CLOSE: 256 dial ns into beat b + 1 the batch of beat b is complete (R30, R71), and its heads lie in the dies (R31). -/
def execBatchClose (batch : Nat) (s : State) : Host.Outcome State Fault Refusal :=
  match findBatch s batch with
  | none => .next s
  | some b =>
    if b.closed then .next s
    else
      let s := advance s (beatStartNs (batch + 1) + 256 - s.dial.time)
      .next (modBatch s batch fun b => { b with closed := true, places := dealSlots (shapeNow s) b.heads.length })

/-! ## Fetch (R33, R35, R36, R77) -/

/-- The SLOT_CHAIN activity of a slot takes a further batch: neither held nor shed, and its grant not used up (R77). -/
def chainMayStart (s : State) (slot : Nat) : Bool := mayRun s 1 slot

/-- The next operation of a chain may be fetched, once a tag is free: the batch is complete, the earlier batches of the slot have been
fetched, and the first operation enters under the slot's budget (R33, R36, R77). -/
def mayFetch (s : State) (b : Batch) (c : Chain) : Bool :=
  b.closed && !b.tripped && decide (c.fetched < c.total) &&
    ((earlierChains s b.number c.slot).all fun d => d.fetched == d.total) &&
    (c.fetched != 0 || chainMayStart s c.slot)

/-- The slot whose tree data, or other model data, a place holds (R281). -/
def lostSlot : FaultLoc → Option Nat
  | .modelData slot => some slot
  | .coreTree slot _ => some slot
  | _ => none

/-- The faults met while an operation of a batch read its operands (R470), with the model data of a slot's generation (R281, R472). -/
def readFaults (s : State) (batch gen : Nat) (faults : List FaultEv) : State :=
  faults.foldl (fun s f =>
    let s := structureFault s f
    match lostSlot f.loc with
    | some slot => if f.lasting then loseTrees s slot gen batch else s
    | none => s) s

/-- The ensemble of a TREES operation. -/
def treesOf (c : Chain) (o : OpRec) : Option Ensemble := if o.kind == 3 then c.model.ensembles[o.aux]? else none

/-- 64-byte transfers of the fetch of an operation: of a streamed ensemble, the first part of each core (R274). -/
def fetchTransfers (s : State) (c : Chain) (o : OpRec) : Nat :=
  Config.transfers 4 (o.outputs * o.n) + (match treesOf c o with
    | some e => e.firstTransfers (shapeNow s)
    | none => 0)

/-- 64-byte transfers while an operation executes: the other parts of a streamed ensemble (R274). -/
def executeTransfers (s : State) (c : Chain) (o : OpRec) : Nat := match treesOf c o with
  | some e => e.transfers (shapeNow s) - e.firstTransfers (shapeNow s)
  | none => 0

/-- Fetch waits for a tag; the observation block counts it (R36, R454). -/
def waitForTag (s : State) : State := if observeOn s then { s with observe.tagWaits := s.observe.tagWaits + 1 } else s

/-- The next operation of a chain takes the next tag. -/
def takeTag (s : State) (batch slot op : Nat) : State :=
  { s with
    pipe.flights := s.pipe.flights ++ [⟨s.pipe.nextTag, batch, slot, op, 0, batchNow s, 0, 0, 0, 0, 0, 0⟩]
    pipe.nextTag := addMod 11 s.pipe.nextTag 1 }

/-- OPERATION_FETCH: the next operation of a chain takes the next tag; with 2,048 operations in flight it waits (R35, R36). -/
def execOperationFetch (batch slot : Nat) (faults : List FaultEv) (s : State) : Host.Outcome State Fault Refusal :=
  match findBatch s batch with
  | none => .next s
  | some b => match b.chain slot with
    | none => .next s
    | some c =>
      if !mayFetch s b c then .next s
      else if 2048 ≤ s.pipe.flights.length then .next (waitForTag s)
      else
        let s := readFaults (takeTag s batch slot c.fetched) batch c.gen faults
        let s := keyMemory s 0 batch (fetchTransfers s c (c.op c.fetched))
        .next (modChain s batch slot fun c => { c with fetched := c.fetched + 1 })

/-! ## Gather (R36, R244, R289, R290) -/

/-- The operations whose outputs operation i reads have retired (R36). -/
def inputsReady (c : Chain) (o : OpRec) : Bool := (readsOps c.model o).all fun j => decide (j < c.retired)

/-- The operation of a chain that produces the tensor which a dense operation scales (R244). -/
def producerOf (d : Chain) (o : OpRec) : Option Nat :=
  if o.kind != 1 || o.outTensor == 255 then none else (writerOf d.model o.outTensor).map (·.1)

/-- The operation of a chain that writes STATE_OUT (R290). -/
def stateWriter (d : Chain) : Option Nat := match d.model.seq with
  | none => none
  | some q => (writerOf d.model q.stateOut).map (·.1)

/-- An operation of a chain, where it has one, has retired. -/
def opGone (d : Chain) : Option Nat → Bool
  | none => true
  | some i => decide (i < d.retired)

/-- The producer of the tensor for the earlier batches of the slot has retired (R244). -/
def producerReady (s : State) (batch slot : Nat) (o : OpRec) : Bool :=
  (earlierChains s batch slot).all fun d => opGone d (producerOf d o)

/-- The writers of STATE_OUT for the earlier batches of the slot have retired (R290). -/
def stateReady (s : State) (batch slot : Nat) (m : Model) (o : OpRec) : Bool :=
  !readsState m o || (earlierChains s batch slot).all fun d => opGone d (stateWriter d)

/-- The parameters of a dense operation for the batch, and whether each derivation is marked RATIO_SAT (R239, R251). -/
def opConv (c : Chain) (o : OpRec) (sIn : Nat) : Conv × Bool × Bool :=
  let sc := if o.outTensor == 255 then (o.outScale, 0) else batchScales c.model c o.outTensor
  let r := deriveMs sIn sc.1 o.f
  if o.outTensor == 255 || (tensorDesc c.model o.outTensor).outCh.isEmpty then (⟨r.1, r.2.1, 0, 0⟩, r.2.2, false)
  else
    let p := deriveMs sIn sc.2 o.f
    (⟨r.1, r.2.1, p.1, p.2.1⟩, r.2.2, p.2.2)

/-- The scales of a dense operation's output are fixed for the batch (R243, R244, R254). -/
def fixScale (s : State) (batch : Nat) (b : Batch) (c : Chain) (o : OpRec) : State :=
  if o.kind != 1 || o.outTensor == 255 then s
  else match findGen s c.slot c.gen with
    | none => s
    | some g =>
      let t := o.outTensor
      let d := decideScale s c.slot t batch (tensorDesc c.model t) (g.q t)
      let s := if b.heads.isEmpty then s else markPinned s c.slot t d.2.2
      modChain s batch c.slot fun c => { c with
        scales := Map.set c.scales t (d.1, d.2.1)
        hits := Map.set c.hits t d.2.2 }

/-- The marks of RATIO_SAT of a dense operation (R239). -/
def markConv (s : State) (batch slot : Nat) (o : OpRec) : State :=
  if o.kind != 1 then s
  else match findBatch s batch with
    | none => s
    | some b => match b.chain slot with
      | none => s
      | some c =>
        if b.heads.isEmpty then s
        else
          let p := opConv c o (denseIn c.model c b.heads o).sIn
          markRatio (markRatio s slot o.outTensor p.2.1) slot o.outTensor p.2.2

/-- The state of every head is gathered by the first operation that reads it (R289). -/
def gatherState (s : State) (batch : Nat) (b : Batch) (c : Chain) (o : OpRec) : State :=
  match c.model.seq with
  | none => s
  | some q =>
    if !readsState c.model o || !c.state.isEmpty then s
    else
      let r := gatherHeads c.slot q b.heads s
      let s := keyMemory r.1 0 batch (stateTransfers s c.slot (r.2.filter (·.1.isSome)).length)
      modChain s batch c.slot fun c => { c with state := r.2 }

/-- The flight of a tag moved to a stage. -/
def setStage (s : State) (tag stage : Nat) : State :=
  { s with pipe.flights := s.pipe.flights.map fun f => if f.tag == tag then { f with stage := stage } else f }

/-- OPERATION_GATHER: an operation enters gather once its inputs have left reduce; its scales are fixed and its state is
gathered (R36, R244, R289, R290). -/
def execOperationGather (tag : Nat) (faults : List FaultEv) (s : State) : Host.Outcome State Fault Refusal :=
  match s.pipe.flights.find? fun f => f.tag == tag && f.stage == 0 with
  | none => .next s
  | some f => match findBatch s f.batch with
    | none => .next s
    | some b => match b.chain f.slot with
      | none => .next s
      | some c =>
        let o := c.op f.op
        if !(inputsReady c o && producerReady s f.batch f.slot o && stateReady s f.batch f.slot c.model o) then .next s
        else
          let s := readFaults s f.batch c.gen faults
          let s := gatherState (fixScale s f.batch b c o) f.batch b c o
          .next (setStage (markConv s f.batch f.slot o) tag 1)

/-! ## Execute (R36, R38, R78) -/

/-- The first run of a dense operation and its statistics. -/
structure DenseRun where
  val : TensorVal
  stats : Stats
  input : DenseIn
  deriving DecidableEq, Repr

/-- Outlier channels of an operation's output. -/
def outChannels (m : Model) (o : OpRec) : List Nat := if o.outTensor == 255 then [] else (tensorDesc m o.outTensor).outCh

/-- A dense operation over a batch (R214 to R223, R250, R251). -/
def runDense (c : Chain) (heads : List Head) (o : OpRec) : DenseRun :=
  let d := denseIn c.model c heads o
  let accs := denseAccs o d
  let oc := outChannels c.model o
  let p := (opConv c o d.sIn).1
  let rows := accs.map (convertRow o oc p)
  { val := ⟨rows.map (·.1), rows.map (·.2.1), none⟩
    stats := denseStats o oc p accs (sumN (rows.map (·.2.2.1))) (sumN (rows.map (·.2.2.2)))
    input := d }

/-- The batch of a dense operation delivers statistics: it has heads, its tensor is scaled, and no compute unit is failing (R241,
R475). -/
def delivers (b : Batch) (o : OpRec) : Bool := o.outTensor != 255 && !b.heads.isEmpty && !b.faulty

/-- The batch of a dense operation misfits, so that its second run is made in its reserved cycles (R246, R247). -/
def misfitting (s : State) (b : Batch) (c : Chain) (o : OpRec) : Bool :=
  let d := tensorDesc c.model o.outTensor
  o.kind == 1 && delivers b o && (findGen s c.slot c.gen).isSome && d.watch &&
    misfits d (runDense c b.heads o).stats (batchScales c.model c o.outTensor).1

/-- Place of an operation in the counters of R454: its kind and its format. -/
def opIndex (o : OpRec) : Nat := 6 * (o.kind - 1) + (if o.kind == 1 then o.fmtW else o.fmtOut) % 6

/-- The capacity for which the running schedule reserves the execute stage. -/
def capacityOf (s : State) (b : Batch) : Nat := match s.sched.running with
  | some x => x.capacity
  | none => b.capacity

/-- A flight with its batch and its chain. -/
def flightChain (s : State) (f : Flight) : Option (Batch × Chain) := match findBatch s f.batch with
  | none => none
  | some b => (b.chain f.slot).map fun c => (b, c)

/-- What a dense operation does in its reserved cycles: whether it runs wide, and makes the additional pass and the second run that are
reserved for it (R247, R249). -/
def reservedWork (s : State) (b : Batch) (c : Chain) (o : OpRec) : Bool × Bool × Bool :=
  let wide := o.kind == 1 && (denseIn c.model c b.heads o).wide
  (wide, wide && !tensorS16 c.model o.inTensor, misfitting s b c o)

/-- Cycles in which an operation executes something (R249, R454). -/
def runCycles (s : State) (b : Batch) (c : Chain) (o : OpRec) : Nat :=
  let shape := shapeNow s
  let cap := capacityOf s b
  let w := reservedWork s b c o
  opCycles shape cap c.model o + (if w.2.1 then reservedPass shape cap c.model o else 0) +
    (if w.2.2 then reservedRun shape cap c.model o else 0)

/-- A flight enters the execute stage: the cycles that it will occupy it, and what it does in them (R78, R249, R274). -/
def startExecute (s : State) (f : Flight) : State :=
  let enter (g : Flight) : Flight := match flightChain s f with
    | some (b, c) =>
      let o := c.op f.op
      { g with
        cycles := totalCycles (shapeNow s) (capacityOf s b) c.model o
        runs := runCycles s b c o
        place := opIndex o
        moves := executeTransfers s c o }
    | none => g
  { s with pipe.flights := s.pipe.flights.map fun g =>
      if g.tag == f.tag then { enter g with stage := 2, keyed := 0, mark := s.dial.now } else g }

/-- An operation that ran in wide mode is counted once (R454). -/
def countWide (s : State) (b : Batch) (c : Chain) (o : OpRec) : State :=
  if (reservedWork s b c o).1 then count s 60 1 else s

/-- The execute stage of a flight ends: the rest of its cycles is counted (R77, R78, R249, R274, R363, R454). -/
def endExecute (s : State) (f : Flight) : State :=
  let s := setStage (spendCycles s f (f.cycles - f.keyed)) f.tag 3
  match flightChain s f with
  | none => s
  | some (b, c) => modChain (countWide s b c (c.op f.op)) f.batch f.slot fun c => { c with cycles := c.cycles + f.cycles }

/-- A barrier that waits for a stretched cluster is counted (R78, R454). -/
def countBarrier (s : State) : State :=
  if observeOn s && !s.power.stretching.isEmpty then { s with observe.barrierWaits := s.observe.barrierWaits + 1 } else s

/-- The oldest flight that has not executed. -/
def nextExecute (s : State) : Option Flight := s.pipe.flights.find? fun f => decide (f.stage < 2)

/-- BARRIER: the operation in the execute stage ends, and the next one in tag order starts where it has gathered (R36, R38,
R78). -/
def execBarrier (s : State) : Host.Outcome State Fault Refusal :=
  let s := match s.pipe.flights.find? (·.stage == 2) with
    | some f => endExecute (countBarrier s) f
    | none => s
  match nextExecute s with
  | some f => if f.stage == 1 then .next (startExecute s f) else .next s
  | none => .next s

/-! ## Retire (R37, R240 to R247, R292 to R296) -/

/-- The second run of a misfit (R247): the S16 copy, its scale, and the mark of its parameters. -/
def secondRun (m : Model) (o : OpRec) (r : DenseRun) : (List (List Int) × Nat) × Bool :=
  let w := wideScale o r.stats r.input.sIn
  let p := deriveMs r.input.sIn w o.f
  (((denseAccs o r.input).map (wideRow o (outChannels m o) p.1 p.2.1), w), p.2.2)

/-- The output of an operation is kept for its consumers. -/
def keepVal (s : State) (batch slot i : Nat) (v : TensorVal) : State :=
  modChain s batch slot fun c => { c with vals := Map.set c.vals i v }

/-- A dense operation retires: its output, its statistics and, on a misfit, its second run (R241, R246, R247, R475); and
whether a second run was made. -/
def retireDense (s : State) (b : Batch) (c : Chain) (i : Nat) (o : OpRec) : State × Bool :=
  let r := runDense c b.heads o
  let s := if o.outTensor == 255 || b.heads.isEmpty then s
    else keepPinned s c.slot c.gen o.outTensor (Map.getD c.hits o.outTensor 0)
  match delivers b o, findGen s c.slot c.gen with
  | true, some g =>
    let used := (batchScales c.model c o.outTensor).1
    let x := deliverStats s c.slot g o.outTensor o b.number r.input.sIn used r.stats
    if x.2 then
      let w := secondRun c.model o r
      (keepVal (markRatio x.1 c.slot o.outTensor w.2) b.number c.slot i { r.val with wide := some w.1 }, true)
    else (keepVal x.1 b.number c.slot i r.val, false)
  | _, _ => (keepVal s b.number c.slot i r.val, false)

/-- Heads of a batch whose score the slot's chain suppresses (R296). -/
def suppressedHeads (q : SeqDesc) (c : Chain) (heads : List Head) : Nat :=
  (heads.zipIdx.filter fun h => suppressedState q (c.state.getD h.2 (none, 0, false))).length

/-- An operation that is not dense retires (R146, R272, R284, R292, R295). -/
def retirePlain (s : State) (b : Batch) (c : Chain) (i : Nat) (o : OpRec) : State :=
  let rows := plainRows c.model c b.heads o
  let s := keepVal s b.number c.slot i ⟨rows, [], none⟩
  match c.model.seq with
  | none => s
  | some q =>
    if o.kind == 5 then
      modChain s b.number c.slot fun c => { c with surprise := rows.map fun r => r.getD 0 0 }
    else if writesStateOut c.model o && !b.faulty then
      writeBatch s c.slot q b.number (b.heads.zipIdx.map fun h =>
        ⟨h.1, c.state.getD h.2 (none, 0, false), rows.getD h.2 []⟩)
    else s

/-- The counter OPS of a retired operation (R454). -/
def countOp (s : State) (o : OpRec) (second : Bool) : State := count s (opIndex o) (1 + b2n second)

/-- Heads whose score a chain with a SURPRISE operation suppresses are counted, once their state has been gathered (R296). -/
def countSuppressed (s : State) (b : Batch) (c : Chain) : State := match c.model.seq with
  | some q =>
    if c.model.hasSurprise then bump s (SLOT_SEQ_C.SUPPRESSED c.slot) (suppressedHeads q c b.heads) else s
  | none => s

/-- The sample of the batch is taken where it is the first of a round of adaptation (R318). -/
def sampleBatch (s : State) (b : Batch) (c : Chain) : State :=
  match c.model.adapt, c.model.seq, adapterOp c.model with
  | some a, some q, some (_, o) =>
    let d := denseIn c.model c b.heads o
    takeSample s c.slot b.number c.model q a o (b.heads.zipIdx.map fun h =>
      { head := h.1
        got := c.state.getD h.2 (none, 0, false)
        surprise := c.surprise.getD h.2 0
        x := o.operands (d.xs.getD h.2 []) })
  | _, _, _ => s

/-- A batch that has not retired its chain of a slot `n` beats after the end of its compute window (R466). -/
def chainHangs (s : State) (slot n : Nat) : Bool :=
  s.pipe.batches.any fun b => !b.tripped && decide (beatStartNs (b.number + b.latency + n) + 400 ≤ s.dial.time) &&
    b.chains.any fun c => c.slot == slot && decide (c.retired < c.total)

/-- The condition of detector 1 has cleared for a slot where no batch of it hangs: it may fire again (R467). -/
def settleChain (s : State) (slot : Nat) : State :=
  if chainHangs s slot (rd s OBSERVE_HANG_CFG.HANG_BEATS) then s
  else { s with observe.hangs := s.observe.hangs.filter fun h => h.1 != 1 || h.2.1 != slot }

/-- A chain has retired: its suppressed heads, its record, and its sample (R296, R318, R461, R475). -/
def finishChain (s : State) (batch slot : Nat) : State :=
  match findBatch s batch with
  | none => s
  | some b => match b.chain slot with
    | none => s
    | some c =>
      if !c.done then s
      else
        let s := countSuppressed s b c
        let s := trace s 0x03 (nowShort s) (pack [(4, slot), (64, batch), (32, c.cycles), (76, 0)])
        sampleBatch s (if b.faulty then { b with heads := [] } else b) c

/-- OPERATION_RETIRE: the operation of the lowest tag retires from reduce: results, statistics and write-backs are committed
(R35, R36, R37). -/
def execOperationRetire (faults : List FaultEv) (s : State) : Host.Outcome State Fault Refusal :=
  match s.pipe.flights with
  | [] => .next s
  | f :: rest =>
    if f.stage != 3 then .next s
    else
      let s := { s with pipe.flights := rest, pipe.retiredBeat := batchNow s }
      let s := match flightChain s f with
        | some (_, c) => readFaults s f.batch c.gen faults
        | none => faults.foldl structureFault s
      match findBatch s f.batch with
      | none => .next s
      | some b => match b.chain f.slot with
        | none => .next s
        | some c =>
          let o := c.op f.op
          let r := if o.kind == 1 then retireDense s b c f.op o else (retirePlain s b c f.op o, false)
          let s := countOp r.1 o r.2
          let s := modChain s f.batch f.slot fun c => { c with retired := c.retired + 1 }
          .next (settleChain (finishChain s f.batch f.slot) f.slot)

/-! ## The end of the compute window (R71, R73) -/

/-- A late batch that is still to retire its chains. -/
def lateOpen (s : State) : Bool := s.pipe.batches.any fun b => b.windowEnded && !b.tripped && !b.retiredAll

/-- A batch is late (R73): it is counted, and catch-up starts unless a trip has ended its chains (R354). -/
def batchLate (s : State) (b : Batch) : State :=
  let s := modBatch s b.number fun b => { b with late := true }
  let s := raise (bump s DIAL_LATE_BATCHES.COUNT 1) DIAL_EVENTS.LATE_BATCH 0
  if b.tripped then s
  else
    let was := catchingUp s
    raiseIf (!was) { wrB s DIAL_ADMISSION.CATCHUP true with sched.caughtUp := 0 } DIAL_EVENTS.CATCHUP_STARTED 0

/-- COMPUTE_WINDOW_END: at offset 400 of beat b + L the compute window of batch b ends (R71, R73). -/
def execComputeWindowEnd (batch : Nat) (s : State) : Host.Outcome State Fault Refusal :=
  match findBatch s batch with
  | none => .next s
  | some b =>
    if b.windowEnded || !b.closed then .next s
    else
      let s := advance s (beatStartNs (batch + b.latency) + 400 - s.dial.time)
      let s := modBatch s batch fun b => { b with windowEnded := true }
      .next (if b.tripped || !b.retiredAll then batchLate s b else s)

/-- CATCHUP_END: the last late batch has retired; admission resumes in the following beat (R73). -/
def execCatchupEnd (s : State) : Host.Outcome State Fault Refusal :=
  if catchingUp s && !lateOpen s && s.sched.caughtUp == 0 then .next { s with sched.caughtUp := batchNow s + 1 }
  else .next s

end Sys2Proof.Machine
end

