-- ==== Sys2Proof/Machine/Observe.lean ====
section
/-! DEFINITION. The observation block: sampling runs, trace, hang detectors, the dump and the observation window (R454 to
R469, R483, R484). -/

namespace Sys2Proof.Machine

/-! ## Sampling runs (R456 to R458) -/

/-- The running schedule has an entry of a kind. -/
def hasActivity (s : State) (kind : Nat) : Bool := match s.sched.running with
  | some c => c.acts.any (·.kind == kind)
  | none => false

/-- A run is active. -/
def runActive (s : State) : Bool := rdB s OBSERVE_SAMPLE_CTRL.ACTIVE

/-- Domains that are off, bit d for PDd. -/
def domainsOff (s : State) : Nat := ofBits ((List.range 20).filter fun d => !pdOn s d)

/-- A sample record (R458). -/
def sampleRecord (s : State) (first final : Bool) (lost : Nat) : Bytes :=
  natBe 64 (pack [(8, 0x20), (8, 1), (3, dialState s), (1, b2n first), (1, b2n final), (3, 0),
    (24, rd s OBSERVE_SAMPLE_STATUS.RUN), (32, s.observe.runSeq), (64, shortTime (beatStartNs (batchNow s))),
    (64, batchNow s), (20, domainsOff s), (32, lost), (252, 0)]) ++
  (List.range 248).flatMap fun i => natBe 8 (counterValue s i)

/-- A snapshot is lost (R457). -/
def loseSnapshot (s : State) : State :=
  raise (bump { s with observe.runLost := s.observe.runLost + 1 } OBSERVE_SAMPLE_STATUS.LOST 1) OBSERVE_EVENTS.SAMPLE_LOST 0

/-- A snapshot is taken at the current beat: it waits in the buffer of 4, or is lost; a FINAL one takes the place of the newest
that waits (R457). -/
def takeSnapshot (s : State) (first final : Bool) : State :=
  let full := decide (4 ≤ s.observe.snapshots.length)
  let s := { s with observe.snapBeat := some (batchNow s) }
  let s := if !full then
      { s with observe.snapshots := s.observe.snapshots ++ [sampleRecord s first final s.observe.runLost] }
    else if final then
      let s := loseSnapshot s
      { s with observe.snapshots := s.observe.snapshots.dropLast ++ [sampleRecord s first final s.observe.runLost] }
    else loseSnapshot s
  { s with observe.runSeq := s.observe.runSeq + 1 }

/-- A snapshot written to the SAMPLE_RING region, which is used as a ring (R457, R397). SEQ counts the snapshots of
the current run (R483). -/
def writeSample (s : State) (r : Bytes) : State :=
  match s.secure.regions.find? (·.code == 0x0A) with
  | none => s
  | some g =>
    let o := rd s OBSERVE_SAMPLE_WP.OFFSET
    let s := { s with hbm := Mem.writeBytes s.hbm (g.base + o) r }
    let s := wr s OBSERVE_SAMPLE_WP.OFFSET (if g.size ≤ o + 2048 then 0 else o + 2048)
    if beAt r 3 3 == rd s OBSERVE_SAMPLE_STATUS.RUN then bump s OBSERVE_SAMPLE_STATUS.SEQ 1 else s

/-- A write recorded for the next run boundary (R456): the last one decides. -/
def recordRun (s : State) (start : Bool) : State :=
  let s := wr s (if start then OBSERVE_SAMPLE_CTRL.START else OBSERVE_SAMPLE_CTRL.STOP) 1
  { s with observe.startReq := some (start, batchNow s) }

/-- A write of OBSERVE_SAMPLE_CTRL (R456, R483): a START decides over a STOP in the same write. -/
def writeSampleCtrl (s : State) (w : Nat) : State :=
  let s := writeFields s OBSERVE_SAMPLE_CTRL.START.addr w
  let s := if bit w 62 then recordRun s false else s
  if bit w 63 then recordRun s true else s

/-- SAMPLE_START: OBSERVE_SAMPLE_CTRL.START is written (R456). -/
def execSampleStart (s : State) : Host.Outcome State Fault Refusal :=
  if observeOn s then .next (recordRun s true) else .next s

/-- SAMPLE_STOP: OBSERVE_SAMPLE_CTRL.STOP is written (R456). -/
def execSampleStop (s : State) : Host.Outcome State Fault Refusal :=
  if observeOn s then .next (recordRun s false) else .next s

/-- START is refused (R456). -/
def startRefused (s : State) : Bool :=
  let n := rd s OBSERVE_SAMPLE_CTRL.INTERVAL_BEATS
  decide (n < 100) || 1000000 % n != 0 || !hasActivity s 5

/-- The active run ends at the current beat with its FINAL snapshot. -/
def endRun (s : State) : State :=
  if runActive s then wrB (takeSnapshot s false true) OBSERVE_SAMPLE_CTRL.ACTIVE false else s

/-- A run begins at the current beat (R456). -/
def beginRun (s : State) : State :=
  let s := if rdB s OBSERVE_SAMPLE_CTRL.CLEAR then
      let s := (List.range 248).foldl (fun s i => wr s (OBSERVE_COUNTER.VALUE i) 0) s
      { s with observe.hbmTransfers := 0, observe.tagWaits := 0, observe.barrierWaits := 0 }
    else s
  let s := bump s OBSERVE_SAMPLE_STATUS.RUN 1
  let s := wr (wr s OBSERVE_SAMPLE_STATUS.SEQ 0) OBSERVE_SAMPLE_STATUS.LOST 0
  let s := { wrB s OBSERVE_SAMPLE_CTRL.ACTIVE true with observe.runSeq := 0, observe.runLost := 0 }
  takeSnapshot s true false

/-- The write that waits takes effect at the current beat. -/
def runBoundary (s : State) (start : Bool) : State :=
  let s := wr (wr { s with observe.startReq := none } OBSERVE_SAMPLE_CTRL.START 0) OBSERVE_SAMPLE_CTRL.STOP 0
  if !start then endRun s
  else if startRefused s then raise s OBSERVE_EVENTS.START_REFUSED 0
  else beginRun (endRun s)

/-- RUN_BOUNDARY: the first beat that begins after a write of START or STOP (R456). While a warm restart is under way the
write waits for the new schedule, and one that begins at the same beat prevails (R492). The cycles of an operation that executes across
the beat are counted up to it (R455, R456). -/
def execRunBoundary (s : State) : Host.Outcome State Fault Refusal :=
  match s.observe.startReq with
  | none => .next s
  | some (start, b) =>
    if 2 ≤ s.sched.restart then .next s
    else
      let s := if batchNow s ≤ b then advanceTo s (b + 1) else s
      .next (if restartPrevails s then s else runBoundary (accrue s) start)

/-- SNAPSHOT: during a run, a beat whose index is a multiple of INTERVAL_BEATS (R457). -/
def execSnapshot (s : State) : Host.Outcome State Fault Refusal :=
  let n := rd s OBSERVE_SAMPLE_CTRL.INTERVAL_BEATS
  if runActive s && observeOn s && dialSet s && n != 0 && beatInSecond s % n == 0 && s.observe.snapBeat != some (batchNow s)
  then .next (takeSnapshot (accrue s) false false)
  else .next s

/-- COUNTER_SAMPLE: a unit of work of the activity: one snapshot is written (R457), 32 transfers of 64 bytes (R363). -/
def execCounterSample (s : State) : Host.Outcome State Fault Refusal :=
  match s.observe.snapshots with
  | [] => .next s
  | r :: rs =>
    if mayRun s 5 0 then
      .next (keyMemory (useUnit (writeSample { s with observe.snapshots := rs } r) 5) 2 0 32)
    else .next s

/-! ## Trace (R459, R460, R462) -/

/-- Trace may be enabled under a schedule (R459). -/
def traceAllowedBy (s : State) (c : Option Schedule) : Bool :=
  (match c with
    | some c => c.traceReserved && c.acts.any (·.kind == 6)
    | none => false) && s.secure.regions.any (·.code == 9)

/-- Trace may be enabled under the running schedule (R459). -/
def traceAllowed (s : State) : Bool := traceAllowedBy s s.sched.running

/-- The GEN records of all slots (R462). -/
def traceGens (s : State) (cause : Nat) : State :=
  (List.range 16).foldl (fun s i => traceGen s i (getSlot s i).active (batchNow s) cause) s

/-- A write of OBSERVE_TRACE_CTRL (R459, R462). -/
def writeTraceCtrl (s : State) (w : Nat) : State :=
  let was := rdB s OBSERVE_TRACE_CTRL.ENABLE
  let s := writeFields s OBSERVE_TRACE_CTRL.ENABLE.addr w
  if !bit w 63 || was then s
  else if traceAllowed s then traceGens s 0
  else raise (wrB s OBSERVE_TRACE_CTRL.ENABLE false) OBSERVE_EVENTS.START_REFUSED 0

/-- TRACE_ENABLE: OBSERVE_TRACE_CTRL is written (R459). -/
def execTraceEnable (value : Word) (s : State) : Host.Outcome State Fault Refusal :=
  if observeOn s then .next (writeTraceCtrl s value.toNat) else .next s

/-- Where the trace goes on after a block at offset o of a region of n bytes: the offset, whether the ring wraps, and whether
writing stops (R460). A rest of the region that is shorter than a block holds none. -/
def traceNext (stop : Bool) (o n : Nat) : Nat × Bool × Bool :=
  if o + 8192 ≤ n then (o + 4096, false, false) else if stop then (o + 4096, false, true) else (0, true, false)

/-- TRACE_DRAIN: a unit of work of the activity: one block of 128 records moves to the TRACE region (R460), 64 transfers of 64
bytes (R363). -/
def execTraceDrain (s : State) : Host.Outcome State Fault Refusal :=
  match s.secure.regions.find? (·.code == 9) with
  | none => .next s
  | some g =>
    if s.observe.trace.length < 128 || rdB s OBSERVE_TRACE_STATUS.STOPPED || !mayRun s 6 0 then .next s
    else
      let o := rd s OBSERVE_TRACE_STATUS.OFFSET
      let s := { s with
        hbm := Mem.writeBytes s.hbm (g.base + o) ((s.observe.trace.take 128).flatMap (natBe 32))
        observe.trace := s.observe.trace.drop 128 }
      let next := traceNext (rdB s OBSERVE_TRACE_CTRL.MODE) o g.size
      let s := wr s OBSERVE_TRACE_STATUS.OFFSET next.1
      let s := if next.2.1 then wrB s OBSERVE_TRACE_STATUS.WRAPPED true else s
      let s := if next.2.2 then raise (wrB s OBSERVE_TRACE_STATUS.STOPPED true) OBSERVE_EVENTS.TRACE_FULL 0 else s
      .next (keyMemory (useUnit s 6) 2 0 64)

/-- A write of OBSERVE_MARK writes a MARK record (R461, R483). -/
def writeMark (s : State) (w : Nat) : State :=
  trace (writeFields s OBSERVE_MARK.VALUE.addr w) 0x09 (nowShort s) (w % 2 ^ 64 * 2 ^ 112)

/-- MARK: OBSERVE_MARK is written (R461). -/
def execMark (value : Word) (s : State) : Host.Outcome State Fault Refusal :=
  if observeOn s then .next (writeMark s value.toNat) else .next s

/-! ## Hangs (R466, R467) -/

/-- A peer link. -/
def getLinkSt (s : State) (j : Nat) : LinkSt := s.peer.links.getD j LinkSt.reset

/-- The credit subject of a link, class and channel names frames that wait without a credit. -/
def creditHangs (s : State) (subject : Nat) : Bool :=
  let l := getLinkSt s (subject / 8)
  l.waiting.any (·.1 == subject % 8) && Map.getD l.credits (subject % 8) 16 == 0

/-- Since when the condition of a detector holds for a subject, leaving out how long it must have held (R466): for a queue, a job, a link
`now`, for an operation the batch number. -/
def hangSince (s : State) (detector subject : Nat) : Option Nat :=
  match detector with
  | 1 => some 0
  | 2 => if queueClass subject != 3 && (getQ s subject).occ != 0 then some (getQ s subject).since else none
  | 3 => (s.crown.jobs.find? fun j => j.id == subject && j.state == 1).map (·.since)
  | 4 => if creditHangs s subject then some (Map.getD (getLinkSt s (subject / 8)).stuck (subject % 8) 0) else none
  | 5 => match s.pipe.flights with
    | f :: _ => if f.tag == subject then some (max f.since s.pipe.retiredBeat) else none
    | [] => none
  | _ => none

/-- The condition of a detector holds for a subject, and has held as long as its threshold asks (R466); a threshold of 0 disables it. -/
def hangCondition (s : State) (detector subject : Nat) : Bool :=
  let n := rd s OBSERVE_HANG_CFG.HANG_BEATS
  let ms := rd s OBSERVE_HANG_CFG.JOB_HANG_MS
  match hangSince s detector subject with
  | none => false
  | some t => match detector with
    | 1 => n != 0 && chainHangs s subject n
    | 3 => ms != 0 && decide (t + 1000000 * ms ≤ s.dial.now)
    | 5 => n != 0 && decide (t + n ≤ batchNow s)
    | _ => n != 0 && decide (t + 1000 * n ≤ s.dial.now)

/-- Detectors whose condition has cleared since they fired, or has cleared and holds anew, may fire again (R467). -/
def settleHangs (s : State) : State :=
  { s with observe.hangs := s.observe.hangs.filter fun h =>
      hangCondition s h.1 h.2.1 && hangSince s h.1 h.2.1 == some h.2.2 }

/-- A write of OBSERVE_HANG_CFG (R466, R482): a longer threshold may clear a condition. -/
def writeHangCfg (s : State) (w : Nat) : State := settleHangs (writeFields s OBSERVE_HANG_CFG.RESTART.addr w)

/-! ## The dump (R468, R469) -/

/-- A wait entry; its parts are KIND, STAGE, SLOT, ID, BATCH, ON and AGE. -/
def waitEntry (l : List Nat) : Bytes :=
  natBe 32 (pack ([8, 8, 16, 32, 64, 32, 32].zip l ++ [(64, 0)]))

/-- ON for none. -/
def onNone : Nat := 0xFFFFFFFF

/-- The operation that an operation in flight waits on, by its tag (R36, R469): in fetch the oldest one whose output it needs; in gather
and in reduce, where operations go on in tag order, the one before it that is still to leave execute, or to retire (log 105). `ahead` are
the operations in flight before it. -/
def waitsOn (s : State) (ahead : List Flight) (f : Flight) : Option Flight :=
  match f.stage with
  | 0 => match flightChain s f with
    | none => none
    | some (_, c) =>
      let o := c.op f.op
      ahead.find? fun g => g.slot == f.slot &&
        (if g.batch == f.batch then (readsOps c.model o).contains g.op
        else match flightChain s g with
          | some (_, d) => producerOf d o == some g.op || (readsState c.model o && stateWriter d == some g.op)
          | none => false)
  | 1 => ahead.getLast?.filter fun g => decide (g.stage ≤ 2)
  | 3 => ahead.getLast?
  | _ => none

/-- Wait entries of the operations in flight. -/
def flightWaits (s : State) : List Flight → List Flight → List Bytes
  | _, [] => []
  | ahead, f :: fs =>
    waitEntry [1, f.stage, f.slot, f.tag, f.batch, (match waitsOn s ahead f with
      | some g => g.tag
      | none => onNone), batchNow s - f.since] :: flightWaits s (ahead ++ [f]) fs

/-- The queue that a job waits on (R199, R428, R469): one into which it writes and which has no room; else, while it waits to be taken, its own
queue. -/
def jobWaitsOn (s : State) (j : Job) : Nat :=
  let full := if j.state == 0 then (j.ops.filter fun o => o.1 == 0x0C && roomQ s (fld o.2.2.1 35 18) 0 == 0).map fun o => fld o.2.2.1 35 18
    else (s.crown.captures.filter fun c => c.active && c.job == j.post && c.held.isSome).map (·.hq)
  match full with
  | q :: _ => q
  | [] => if j.state == 0 then j.queue else onNone

/-- Beats since a time of `now`. -/
def beatsSince (s : State) (t : Nat) : Nat := (s.dial.now - t) / 1000

/-- The wait entries (R469). -/
def dumpWaits (s : State) : List Bytes :=
  let now := batchNow s
  let jobs := s.crown.jobs.map fun j =>
    waitEntry [if j.state == 0 then 2 else 3, 0, 0, j.id, 0, jobWaitsOn s j, beatsSince s j.since]
  let batches := (s.pipe.batches.filter fun b => b.closed && !b.tripped).flatMap fun b =>
    (b.chains.filter fun c => decide (c.retired < c.total)).map fun c =>
      waitEntry [4, 0, c.slot, 0, b.number, onNone, now - b.number]
  let cuckoo := (s.flow.requests.map fun r => waitEntry [5, 0, 0, 0, 0, onNone, now - r.1]) ++
    s.endpoint.requests.map fun r => waitEntry [5, 0, 0, 1, 0, onNone, now - r.1]
  let bufs := s.peer.buffers.zipIdx.map fun b => waitEntry [6, 0, 0, b.2, 0, onNone, beatsSince s b.1.since]
  flightWaits s [] s.pipe.flights ++ jobs ++ batches ++ cuckoo ++ bufs

/-- A credit entry: kind, link or die, class, VC, credits, frames and age. -/
def creditEntry (l : List Nat) : Bytes := natBe 16 (pack ([8, 8, 8, 8, 32, 32, 32].zip l))

/-- The credit entries (R469). The manual gives the die-to-die links no credits and no frames, so that theirs are free values (log 105). -/
def dumpCredits (s : State) (seed : Nat) : List Bytes :=
  (s.peer.links.zipIdx.flatMap fun l => (List.range 8).map fun k =>
    creditEntry [0, l.2, k / 2, k % 2, Map.getD l.1.credits k 16, (l.1.waiting.filter (·.1 == k)).length,
      beatsSince s (Map.getD l.1.creditAt k l.1.upAt)]) ++
  (List.range 4).flatMap fun d => (List.range 2).map fun v =>
    let i := seed + 3 * (2 * d + v)
    creditEntry [1, d, 0, v, Config.freeValue i, Config.freeValue (i + 1), Config.freeValue (i + 2)]

/-- The queue head entries, in ascending queue. -/
def dumpQueues (s : State) : List Bytes :=
  s.queue.queues.filterMap fun e =>
    let q := e.1
    let d := e.2
    match peekQ s q with
    | .item i band =>
      if d.enable then
        some (natBe 80 (pack ([(24, q), (2, queueClass q), (2, band), (1, b2n d.dataPath), (1, b2n d.armed), (2, 0)] ++
          [3, 2, 1, 0].map (fun b => (24, (d.bands.getD b noBand).occ)) ++ [(512, i)])))
      else none
    | _ => none

/-- A dump captured now (R467, R468); DONE_TS follows when it completes. -/
def captureDump (s : State) (detector subject : Nat) : State :=
  let waits := dumpWaits s
  let credits := dumpCredits s s.fresh
  let heads := dumpQueues s
  let header := natBe 48 (pack [(32, 0x44554D50), (8, 1), (8, detector), (16, 0), (64, subject), (64, nowShort s),
    (64, batchNow s), (32, min 16384 waits.length), (32, credits.length), (32, min 91750 heads.length), (6, 0),
    (1, b2n (decide (91750 < heads.length))), (1, b2n (decide (16384 < waits.length))), (24, 0)])
  let m := Mem.writeBytes [] 0 header
  let m := Mem.writeBytes m 0x1000 (waits.take 16384).flatten
  let m := Mem.writeBytes m 0x81000 credits.flatten
  let m := Mem.writeBytes m 0x100000 (heads.take 91750).flatten
  { s with observe.dump := m, observe.dumpOpen := true, fresh := s.fresh + 24 }

/-- HANG: a detector fires for a subject (R466, R467), once until its condition has cleared. -/
def execHang (detector subject : Nat) (s : State) : Host.Outcome State Fault Refusal :=
  let s := settleHangs s
  if !observeOn s || !hangCondition s detector subject || s.observe.hangs.any (fun h => h.1 == detector && h.2.1 == subject)
  then .next s
  else
    let s := { s with observe.hangs := s.observe.hangs ++ [(detector, subject, (hangSince s detector subject).getD 0)] }
    let s := raise (bump s OBSERVE_HANG_STATUS.HANGS 1) OBSERVE_EVENTS.HANG detector
    let s := trace s 0x0A (nowShort s) (pack [(4, detector), (32, subject)] * 2 ^ 140)
    let s := if rdB s OBSERVE_HANG_STATUS.DUMP_VALID then s
      else
        let s := captureDump s detector subject
        wrB (wr (wr s OBSERVE_HANG_STATUS.CAUSE detector) OBSERVE_HANG_STATUS.SUBJECT subject)
          OBSERVE_HANG_STATUS.DUMP_VALID true
    .next (if rdB s OBSERVE_HANG_CFG.RESTART then requestRestart s else s)

/-- DUMP_DONE: the dump completes, within 100 beats of its detection (R467, R468). -/
def execDumpDone (dt : Nat) (s : State) : Host.Outcome State Fault Refusal :=
  let s := advance s dt
  if s.observe.dumpOpen then
    .next { s with
      observe.dump := Mem.writeBytes s.observe.dump 48 (natBe 8 (nowShort s))
      observe.dumpOpen := false }
  else .next s

/-! ## The window (R463) -/

/-- The page of a region that the window shows; what lies beyond the end of the region reads as zero (R463). -/
def windowBytes (s : State) (region off : Nat) : Bytes :=
  let hbm (code : Nat) : Bytes := match s.secure.regions.find? (·.code == code) with
    | some g =>
      let n := min 4096 (g.size - off)
      Mem.readBytes s.hbm (g.base + off) n ++ List.replicate (4096 - n) 0
    | none => []
  match region with
  | 0 => hbm 0x0A
  | 1 => hbm 0x09
  | 2 => if off + 4096 ≤ 8388608 then Mem.readBytes s.observe.dump off 4096 else []
  | _ => if off == 0 then s.log.record else []

/-- Word w of OBSERVE_WINDOW. -/
def windowWord (s : State) (w : Nat) : Nat :=
  beAt (windowBytes s (rd s OBSERVE_WINDOW_SEL.REGION) (rd s OBSERVE_WINDOW_SEL.PAGE * 4096)) (8 * w) 8

end Sys2Proof.Machine
end

