-- ==== Sys2Proof/Machine/Peer.lean ====
section
/-! DEFINITION. Peer links: frames, credits, routes, HELLO, resending, time events, model distribution and the power group
(R355, R356, R438 to R453). -/

namespace Sys2Proof.Machine

/-! ## Frames (R441, R442) -/

/-- The peer header. -/
structure PeerHdr where
  version : Nat
  kind : Nat
  src : Nat
  dest : Nat
  bcast : Bool
  vc : Nat
  hops : Nat
  lseq : Nat
  frag : Nat
  last : Bool
  msgId : Nat
  length : Nat
  dialTs : Nat
  deriving DecidableEq, Repr

/-- The 256 bits of a header. -/
def PeerHdr.word (h : PeerHdr) : Nat :=
  pack [(8, h.version), (8, h.kind), (6, h.src), (6, h.dest), (1, b2n h.bcast), (1, h.vc), (6, h.hops), (16, h.lseq),
    (18, h.frag), (1, b2n h.last), (17, 0), (32, h.msgId), (14, h.length), (64, h.dialTs), (58, 0)]

/-- A header from its 256 bits. -/
def PeerHdr.ofWord (w : Nat) : PeerHdr where
  version := fld w 255 248
  kind := fld w 247 240
  src := fld w 239 234
  dest := fld w 233 228
  bcast := bit w 227
  vc := fld w 226 226
  hops := fld w 225 220
  lseq := fld w 219 204
  frag := fld w 203 186
  last := bit w 185
  msgId := fld w 167 136
  length := fld w 135 122
  dialTs := fld w 121 58

/-- The class of a kind, in the order CONTROL, RESPONSE, REQUEST, BULK (R442, R469). -/
def peerClass (kind : Nat) : Nat :=
  if kind == 0x11 || kind == 0x21 then 1 else if kind == 0x10 then 2 else if kind == 0x20 then 3 else 0

/-- Frames of the link itself, which take no credit (log 24). -/
def linkLevel (kind : Nat) : Bool := kind == 1 || kind == 4 || kind == 5

/-- A frame (R441). -/
def peerFrame (s : State) (h : PeerHdr) (payload : Bytes) : Bytes :=
  List.replicate 6 0xFF ++ natBe 5 0x02CF500000 ++ natBe 1 s.peer.address ++ natBe 2 s.peer.etherType ++ natBe 32 h.word ++
    payload

/-- The header of a frame. -/
def frameHdr (f : Bytes) : PeerHdr := PeerHdr.ofWord (beAt f 14 32)

/-- The payload of a frame. -/
def framePayload (f : Bytes) : Bytes := slice f 46 (frameHdr f).length

/-- A frame under another header. -/
def withHdr (f : Bytes) (h : PeerHdr) : Bytes := f.take 14 ++ natBe 32 h.word ++ f.drop 46

/-- The header of a frame that this device originates. -/
def newHdr (s : State) (kind dest : Nat) (bcast : Bool) (msgId length : Nat) : PeerHdr where
  version := 1
  kind := kind
  src := s.peer.address
  dest := dest
  bcast := bcast
  vc := 0
  hops := 1
  lseq := 0
  frag := 0
  last := true
  msgId := msgId
  length := length
  dialTs := 0

/-! ## Links (R438 to R440, R443, R444) -/

def getLink (s : State) (j : Nat) : LinkSt := s.peer.links.getD j LinkSt.reset

/-- Since when a class and channel have had frames waiting and no credit (R466). -/
def LinkSt.noteStuck (now : Nat) (l : LinkSt) : LinkSt := { l with
  stuck := (List.range 8).filterMap fun k =>
    if l.waiting.any (·.1 == k) && Map.getD l.credits k 16 == 0 then some (k, Map.getD l.stuck k now) else none }

def modLink (s : State) (j : Nat) (f : LinkSt → LinkSt) : State :=
  { s with peer.links := modAt s.peer.links j fun l => (f l).noteStuck s.dial.now }

/-- The topology in force uses the link (R439). -/
def linkUsed (s : State) (j : Nat) : Bool := match s.peer.topology with
  | 1 => decide (j < 2)
  | 2 => decide (j < 4)
  | _ => false

/-- The link's lanes are aligned, so that it sends HELLO frames (R440). -/
def linkWorks (s : State) (j : Nat) : Bool :=
  linkUsed s j && peerAddressOk s.peer && pdOn s 4 && !s.pins.lanesOff && rd s (PEER_LINK_STATUS.LANES j) != 0 &&
    (getLink s j).retrain.isNone

/-- The link is up (R440). -/
def linkUp (s : State) (j : Nat) : Bool := linkWorks s j && rdB s (PEER_LINK_STATUS.UP j)

/-- The last fragment of a relayed request or of a distribution is sent: its timeout starts (R446, R447). -/
def lastSent (s : State) (h : PeerHdr) : State :=
  if !h.last || h.src != s.peer.address then s
  else if h.kind == 0x10 then
    { s with peer.relays := s.peer.relays.map fun y => if y.message == h.msgId then { y with since := s.dial.now } else y }
  else if h.kind == 0x20 then
    { s with peer.distTx := s.peer.distTx.map fun d => if d.message == h.msgId then { d with since := s.dial.now } else d }
  else s

/-- A frame leaves on a link: it takes the next LSEQ, an EVENT frame its stamp, and is kept for a resend (R441, R443, R450). -/
def transmit (s : State) (j : Nat) (f : Bytes) : State :=
  let h := frameHdr f
  let l := getLink s j
  let h := { h with lseq := l.lseqTx, dialTs := if h.kind == 3 && h.src == s.peer.address then nowShort s else h.dialTs }
  let f := withHdr f h
  let s := modLink s j fun l => { l with
    lseqTx := addMod 16 l.lseqTx 1
    sent := (l.sent ++ [(h.lseq, f)]).drop (l.sent.length + 1 - 256)
    resent := if l.resent == some h.lseq then none else l.resent }
  let s := lastSent (emit s (.peer j f)) h
  if h.kind == 3 then trace s 0x07 (nowShort s) (pack [(6, s.peer.address), (2, j), (16, h.lseq)] * 2 ^ 152) else s

/-- A CREDIT frame returns one buffer of a class and channel on a link; the layout of its payload is the model's (log 25). -/
def returnCredit (s : State) (j key : Nat) : State :=
  transmit s j (peerFrame s (newHdr s 5 0 false 0 3) (natBe 1 (key / 2) ++ natBe 1 (key % 2) ++ natBe 1 1))

/-- A BULK frame of a class and channel leaves only within the links' bulk allowance (R343, R444). -/
def bulkFits (s : State) (key : Nat) (f : Bytes) : Bool := decide (key < 6) || decide ((frameHdr f).length ≤ bulkRoom s 1)

/-- A frame takes a credit of its class and channel and leaves, a BULK frame within the allowance; the buffer that it held is
freed. -/
def takeCredit (s : State) (j key : Nat) (f : Bytes) (held : Option (Nat × Nat)) : State :=
  let s := if key < 6 then s else moveBulk s 1 (frameHdr f).length
  let s := modLink s j fun l => { l with credits := Map.put l.credits key (Map.getD l.credits key 16 - 1) 16 }
  let s := transmit s j f
  match held with
  | some (i, k) => returnCredit s i k
  | none => s

/-- A frame of a class and channel would leave a link at once: no other waits before it, and it has a credit (R444). -/
def creditFree (s : State) (j key : Nat) : Bool :=
  let l := getLink s j
  !(l.waiting.any (·.1 == key)) && Map.getD l.credits key 16 != 0

/-- A frame offered to a link that is up: it waits only for a credit of its own class and channel, and as BULK for the allowance
(R444). -/
def offerFrame (s : State) (j : Nat) (f : Bytes) (held : Option (Nat × Nat)) : State :=
  let h := frameHdr f
  let key := 2 * peerClass h.kind + h.vc
  if creditFree s j key && bulkFits s key f then takeCredit s j key f held
  else modLink s j fun l => { l with waiting := l.waiting ++ [(key, f, held)] }

/-- The first frame that waits on a link and may leave, in the order of the classes. -/
def nextWaiting (s : State) (l : LinkSt) : Option (Nat × Bytes × Option (Nat × Nat)) :=
  ((List.range 8).filterMap fun k =>
    if Map.getD l.credits k 16 == 0 then none else (l.waiting.find? (·.1 == k)).filter fun w => bulkFits s k w.2.1).head?

/-- A list without the first element that equals `x`. -/
def dropFirst {α : Type} [DecidableEq α] (x : α) : List α → List α
  | [] => []
  | y :: l => if y = x then l else y :: dropFirst x l

/-- The frames that wait leave while they have credits; `fuel` bounds their number. -/
def pump : Nat → State → Nat → State
  | 0, s, _ => s
  | fuel + 1, s, j =>
    if !linkUp s j then s
    else match nextWaiting s (getLink s j) with
      | none => s
      | some w =>
        let s := modLink s j fun l => { l with waiting := dropFirst w l.waiting }
        pump fuel (takeCredit s j w.1 w.2.1 w.2.2) j

/-- Payload bytes of the BULK frames that wait on the links, and those that the jobs of other devices have still to move
(R343). -/
def linkPending (s : State) : Nat :=
  sumN (s.peer.links.map fun l => sumN ((l.waiting.filter fun w => decide (6 ≤ w.1)).map fun w => (frameHdr w.2.1).length)) +
    sumN ((s.crown.jobs.filter Job.relayed).map Job.bulkLeft)

/-- A message of this device still waits on a link. -/
def messageWaits (s : State) (kind message : Nat) : Bool := s.peer.links.any fun l => l.waiting.any fun w =>
  let h := frameHdr w.2.1
  h.kind == kind && h.msgId == message && h.src == s.peer.address

/-- TIMEOUT_MS in dial ns; 0 acts as 1 (R452). -/
def relayTimeoutNs (s : State) : Nat := 1000000 * max 1 (rd s PEER_RELAY_CFG.TIMEOUT_MS)

/-- TIMEOUT_MS have passed since a time. -/
def timedOut (s : State) (since : Nat) : Bool := decide (since + relayTimeoutNs s ≤ s.dial.now)

/-- The last HELLO frame received was good, and is no more than 3,000 beats old (R440). -/
def helloFresh (s : State) (j : Nat) : Bool := match (getLink s j).lastHello with
  | some b => decide (batchNow s ≤ b + 3000)
  | none => false

/-- UP follows the lanes and the HELLO frames; each change sets LINK_UP or LINK_DOWN (R440). -/
def refreshLink (s : State) (j : Nat) : State :=
  if linkWorks s j && helloFresh s j then
    if rdB s (PEER_LINK_STATUS.UP j) then s
    else
      let s := wrB (modLink s j fun l => { l with credits := [], creditAt := [], upAt := s.dial.now }) (PEER_LINK_STATUS.UP j) true
      pump 4096 (raise s PEER_EVENTS.LINK_UP j) j
  else linkDown s j

/-- The lanes of a link are aligned on `n` lanes from `base` on (R438). -/
def linkAligned (s : State) (j base n : Nat) : State :=
  refreshLink (wr (modLink s j fun l => { l with base := base }) (PEER_LINK_STATUS.LANES j) n) j

/-- A link loses its lanes; a retrain that runs ends with it. -/
def linkLost (s : State) (j : Nat) : State :=
  modLink (linkDown (wr s (PEER_LINK_STATUS.LANES j) 0) j) j fun l => { l with retrain := none, retrainLanes := [] }

/-- The address of the device beyond a link (R439). -/
def neighbour (s : State) (j : Nat) : Nat :=
  let p := s.peer
  let a := p.address
  if p.topology == 1 then (if j == 0 then (a + 1) % p.ringSize else (a + p.ringSize - 1) % p.ringSize)
  else
    let x := a % 8
    let y := a / 8
    match j with
    | 0 => 8 * y + (x + 1) % p.xSize
    | 1 => 8 * y + (x + p.xSize - 1) % p.xSize
    | 2 => 8 * ((y + 1) % p.ySize) + x
    | _ => 8 * ((y + p.ySize - 1) % p.ySize) + x

/-- The opposite link of the same dimension. -/
def opposite (j : Nat) : Nat := if j % 2 == 0 then j + 1 else j - 1

/-! ## HELLO (R440) -/

/-- The payload of a HELLO frame; its layout is the model's (log 25). -/
def helloPayload (s : State) (j : Nat) : Bytes :=
  [s.peer.address, s.peer.topology, s.peer.ringSize, s.peer.xSize, s.peer.ySize, s.peer.group, j].flatMap (natBe 1)

/-- HELLO_SEND: each working link sends a HELLO frame (R440). -/
def execHelloSend (s : State) : Host.Outcome State Fault Refusal :=
  .next ((List.range 4).foldl (fun s j =>
    if linkWorks s j then transmit s j (peerFrame s (newHdr s 1 0 false 0 7) (helloPayload s j)) else s) s)

/-- A received frame passes the link's own tests: link alignment, EtherType, VERSION and KIND (R441); while a resend is
awaited only the frame named in the NAK is taken, which is then a transient upset (R443). A link that is not up takes HELLO frames,
and a NAK of one unless it is MISWIRED (R440). -/
def acceptFrame (s : State) (j : Nat) (f : Bytes) (kind : Nat) : Option State :=
  let h := frameHdr f
  let l := getLink s j
  if !linkWorks s j || beAt f 12 2 != s.peer.etherType || h.version != 1 || h.kind != kind || 8216 < h.length ||
      f.length < 46 + h.length then none
  else if kind != 1 && !linkUp s j && (kind != 4 || rdB s (PEER_LINK_STATUS.MISWIRED j)) then none
  else if l.nakking && h.lseq != l.lseqRx then none
  else
    let s := if l.nakking then
        bump (faultFound s 10 false j none) (PEER_LINK_CRC.TRANSIENT j) 1
      else s
    some (modLink s j fun l => { l with lseqRx := addMod 16 h.lseq 1, nakking := false })

/-- A HELLO frame passes the checks of R440. -/
def helloGood (s : State) (j : Nat) (p : Bytes) : Bool :=
  beAt p 0 1 == neighbour s j && beAt p 6 1 == opposite j && beAt p 1 1 == s.peer.topology &&
    beAt p 2 1 == s.peer.ringSize && beAt p 3 1 == s.peer.xSize && beAt p 4 1 == s.peer.ySize

/-- A neighbour whose HELLO frame names another group than the one in force is no member of this device's (R440, R449). -/
def dropStranger (s : State) (device group : Nat) : State :=
  if group == s.peer.group then s
  else { s with
    power.members := s.power.members.filter (· != device)
    power.slacks := s.power.slacks.filter fun k => k.device != device }

/-- HELLO: a received HELLO frame marks the link up or MISWIRED (R440). -/
def execHello (dt link : Nat) (frame : Bytes) (s : State) : Host.Outcome State Fault Refusal :=
  let s := advance s dt
  match acceptFrame s link frame 1 with
  | none => .next s
  | some s =>
    let p := framePayload frame
    let s := wr s (PEER_LINK_STATUS.NEIGHBOUR link) (beAt p 0 1)
    if helloGood s link p then
      let s := dropStranger (modLink s link fun l => { l with lastHello := some (batchNow s), group := some (beAt p 5 1) })
        (beAt p 0 1) (beAt p 5 1)
      .next (refreshLink (wrB s (PEER_LINK_STATUS.MISWIRED link) false) link)
    else
      let was := rdB s (PEER_LINK_STATUS.MISWIRED link)
      let s := wrB (modLink s link fun l => { l with lastHello := none, group := none }) (PEER_LINK_STATUS.MISWIRED link) true
      .next (refreshLink (raiseIf (!was) s PEER_EVENTS.MISWIRED link) link)

/-- HELLO_TIMEOUT: no good HELLO frame within 3,000 beats (R440). -/
def execHelloTimeout (link : Nat) (s : State) : Host.Outcome State Fault Refusal := .next (refreshLink s link)

/-! ## Failed frames (R443) -/

/-- A link retrains (R89, R438). -/
def retrainLink (s : State) (j : Nat) : State :=
  modLink (linkLost s j) j fun l => { l with retrain := some s.dial.now }

/-- PEER_FRAME_ERROR: a frame fails its check sequence: a NAK is sent; a resent frame that fails again is lost (R443). A MISWIRED
link carries HELLO frames alone, so no NAK (R440). -/
def execPeerFrameError (link : Nat) (secondFailure : Bool) (s : State) : Host.Outcome State Fault Refusal :=
  let l := getLink s link
  if !linkWorks s link || rdB s (PEER_LINK_STATUS.MISWIRED link) then .next s
  else if !l.nakking then
    let s := modLink s link fun l => { l with nakking := true }
    .next (transmit s link (peerFrame s (newHdr s 4 0 false 0 2) (natBe 2 l.lseqRx)))
  else if secondFailure then
    let s := modLink s link fun l => { l with lseqRx := addMod 16 l.lseqRx 1, nakking := false }
    let s := bump (faultFound s 10 true link none) (PEER_LINK_CRC.LASTING link) 1
    .next (retrainLink (raise s PEER_EVENTS.CRC_LASTING link) link)
  else .next s

/-- The kept frames from an LSEQ on. -/
def framesFrom (q : Nat) : List (Nat × Bytes) → List Bytes
  | [] => []
  | (a, f) :: l => if a == q then f :: l.map (·.2) else framesFrom q l

/-- NAK: the sender resends once from the named LSEQ (R443). -/
def execNak (link : Nat) (frame : Bytes) (s : State) : Host.Outcome State Fault Refusal :=
  match acceptFrame s link frame 4 with
  | none => .next s
  | some s =>
    let q := beAt (framePayload frame) 0 2
    if (getLink s link).resent == some q then .next s
    else
      let fs := framesFrom q (getLink s link).sent
      .next (fs.foldl (fun s f => emit s (.peer link f)) (modLink s link fun l => { l with resent := some q }))

/-- CREDIT: buffers of a class and channel return, and frames that waited for them leave (R444). -/
def execCredit (link : Nat) (frame : Bytes) (s : State) : Host.Outcome State Fault Refusal :=
  match acceptFrame s link frame 5 with
  | none => .next s
  | some s =>
    let p := framePayload frame
    let key := 2 * beAt p 0 1 + beAt p 1 1
    let s := modLink s link fun l =>
      { l with
        credits := Map.put l.credits key (min 16 (Map.getD l.credits key 16 + beAt p 2 1)) 16
        creditAt := Map.set l.creditAt key s.dial.now }
    .next (pump 4096 s link)

/-! ## Routes (R444, R445) -/

/-- A device address lies in the topology. -/
def inTopology (s : State) (a : Nat) : Bool :=
  (s.peer.topology == 1 || s.peer.topology == 2) && peerAddressOk { s.peer with address := a }

/-- The shorter way from position a to position d on a ring of n: true for the + way, which is taken when both are equal. -/
def plusWay (a d n : Nat) : Bool := decide ((d + n - a) % n ≤ (a + n - d) % n)

/-- The first link of the route to a device (R444): x before y, the shorter way. -/
def routeLink (s : State) (d : Nat) : Nat :=
  let p := s.peer
  if p.topology == 1 then (if plusWay p.address d p.ringSize then 0 else 1)
  else if p.address % 8 != d % 8 then (if plusWay (p.address % 8) (d % 8) p.xSize then 0 else 1)
  else if plusWay (p.address / 8) (d / 8) p.ySize then 2 else 3

/-- The link on which the source sends: the other way of the dimension where the first link is down; none where both are. -/
def sourceLink (s : State) (d : Nat) : Option Nat :=
  let j := routeLink s d
  if linkUp s j then some j else if linkUp s (opposite j) then some (opposite j) else none

/-- The link on which a frame that arrived on link i goes on: on in its dimension until that is corrected, then along the other
one. No device but the source changes a route (R444; log 33). -/
def forwardLink (s : State) (i d : Nat) : Nat :=
  let p := s.peer
  let corrected := if p.topology == 1 then false else if i < 2 then p.address % 8 == d % 8 else false
  if corrected then (if plusWay (p.address / 8) (d / 8) p.ySize then 2 else 3) else opposite i

/-- The hop on a link is the wrap link of its dimension. -/
def wraps (s : State) (j : Nat) : Bool :=
  let p := s.peer
  let n := if p.topology == 1 then p.ringSize else if j < 2 then p.xSize else p.ySize
  let a := if p.topology == 1 then p.address else if j < 2 then p.address % 8 else p.address / 8
  if j % 2 == 0 then a == n - 1 else a == 0

/-- The channel of a frame on a link: 0 at the start of a dimension, 1 from the wrap link on (R444). -/
def nextVc (s : State) (from_ : Option Nat) (vc j : Nat) : Nat :=
  let start := match from_ with
    | some i => i / 2 != j / 2
    | none => true
  if wraps s j then 1 else if start then 0 else vc

/-- A frame put on a link that is up, by its source (`from_` none) or on its way. -/
def putFrame (s : State) (from_ : Option Nat) (held : Option (Nat × Nat)) (j : Nat) (f : Bytes) : State :=
  let h := frameHdr f
  offerFrame s j (withHdr f { h with vc := nextVc s from_ h.vc j }) held

/-- A frame sent to a device; none where no route leads to it. -/
def sendTo (s : State) (h : PeerHdr) (payload : Bytes) : Option State :=
  match sourceLink s h.dest with
  | some j => if inTopology s h.dest then some (putFrame s none none j (peerFrame s h payload)) else none
  | none => none

/-- A message that no route carries is lost. -/
def sendOrLose (s : State) (h : PeerHdr) (payload : Bytes) : State := (sendTo s h payload).getD s

/-- A frame meets a down link away from its source (R444). -/
def dropRoute (s : State) : State := raise (bump s PEER_FORWARD.ROUTE_DROPS 1) PEER_EVENTS.ROUTE_DROP 0

/-- A frame that arrived on link i is passed on over link j. -/
def passOn (s : State) (i j : Nat) (held : Option (Nat × Nat)) (f : Bytes) : State :=
  let h := frameHdr f
  if linkUp s j then
    putFrame (bump s PEER_FORWARD.FORWARDED 1) (some i) held j (withHdr f { h with hops := h.hops + 1 })
  else
    let s := dropRoute s
    match held with
    | some (l, k) => returnCredit s l k
    | none => s

/-- The links on which a flooded frame goes on, for one that arrived on link i (none at the source) (R445). -/
def floodLinks (s : State) (h : PeerHdr) (i : Option Nat) : List Nat :=
  let p := s.peer
  if p.topology == 1 then
    match i with
    | none => [0]
    | some _ => if h.hops + 1 < p.ringSize then [0] else []
  else
    match i with
    | none => [0, 2]
    | some i =>
      let xHops := (p.address % 8 + p.xSize - h.src % 8) % p.xSize
      if i < 2 then (if h.hops + 1 < p.xSize then [0] else []) ++ [2]
      else if h.hops - xHops + 1 < p.ySize then [2] else []

/-- A frame flooded by its source (R445); a link that is down takes nothing. -/
def flood (s : State) (h : PeerHdr) (payload : Bytes) : State :=
  (floodLinks s h none).foldl (fun s j => if linkUp s j then putFrame s none none j (peerFrame s h payload) else s) s

/-- A flooded frame that arrived on link i is passed on. The buffer that it took is freed once it is consumed here. -/
def floodOn (s : State) (i : Nat) (f : Bytes) : State :=
  (floodLinks s (frameHdr f) (some i)).foldl (fun s j => passOn s i j none f) s

/-- A frame that takes buffers arrives on a link: it is passed on (`none`), or is for this device. A flooded frame is both. -/
def arrive (s : State) (i : Nat) (f : Bytes) : State × Bool :=
  let h := frameHdr f
  let key := 2 * peerClass h.kind + h.vc
  if h.bcast then (returnCredit (floodOn s i f) i key, true)
  else if h.dest == s.peer.address then (returnCredit s i key, true)
  else (passOn s i (forwardLink s i h.dest) (some (i, key)) f, false)

/-! ## Time events (R450) -/

/-- EVENT_SEND: an EVENT frame on every link that is up (R450). -/
def execEventSend (dt : Nat) (s : State) : Host.Outcome State Fault Refusal :=
  let s := advance s dt
  if rd s PEER_SYNC_CFG.INTERVAL_BEATS == 0 then .next s
  else .next ((List.range 4).foldl (fun s j =>
    if linkUp s j then offerFrame s j (peerFrame s (newHdr s 3 (neighbour s j) false 0 0) []) none else s) s)

/-- EVENT: a received EVENT frame is stamped (R450, R461). -/
def execEvent (dt link : Nat) (frame : Bytes) (s : State) : Host.Outcome State Fault Refusal :=
  let s := advance s dt
  match acceptFrame s link frame 3 with
  | none => .next s
  | some s =>
    let h := frameHdr frame
    let s := trace s 0x08 (nowShort s) (pack [(6, h.src), (2, link), (16, h.lseq), (64, h.dialTs)] * 2 ^ 88)
    .next (returnCredit s link h.vc)

/-! ## Model distribution (R447) -/

/-- The LOAD_BUFFER of a slot: base and size. -/
def loadBuffer (s : State) (slot : Nat) : Option (Nat × Nat) :=
  (s.secure.regions.find? fun r => r.code == 6 && r.index == slot).map fun r => (r.base, r.size)

/-- Fragments of a distribution of n bytes; one at least. -/
def fragmentCount (n : Nat) : Nat := max 1 (ceilDiv n 8192)

/-- Fragment f of a distribution is flooded. -/
def floodFragment (slot bytes mask msg base : Nat) (s : State) (f : Nat) : State :=
  let data := Mem.readBytes s.hbm (base + 8192 * f) (min 8192 (bytes - 8192 * f))
  let p := natBe 1 slot ++ natBe 3 0 ++ natBe 4 bytes ++ natBe 8 mask ++ natBe 8 0 ++ data
  let h := { newHdr s 0x20 0 true msg p.length with frag := f, last := f + 1 == fragmentCount bytes }
  flood s h p

/-- A distribution starts, or is refused at once (R447). -/
def startDist (s : State) : State :=
  let s := wrB s PEER_DIST_CMD.GO false
  let slot := rd s PEER_DIST_CMD.SLOT
  let bytes := rd s PEER_DIST_CMD.BYTES
  let refuse := wr s PEER_DIST_CMD.RESULT 2
  match loadBuffer s slot with
  | none => refuse
  | some (base, size) =>
    if rdB s PEER_DIST_CMD.BUSY || decide (size < bytes) then refuse
    else
      let mask := rd s PEER_DIST_MASK.DEST
      let msg := s.peer.nextMessage
      let s := { s with peer.nextMessage := addMod 32 msg 1, peer.distTx := some ⟨slot, bytes, mask, msg, s.dial.now⟩ }
      let s := wr (wr (wrB s PEER_DIST_CMD.BUSY true) PEER_DIST_DONE.MASK 0) PEER_DIST_FAILED.MASK 0
      (List.range (fragmentCount bytes)).foldl (floodFragment slot bytes mask msg base) (wr s PEER_DIST_CMD.RESULT 0)

/-- A write of PEER_DIST_CMD (R447, R452). -/
def writeDistCmd (s : State) (w : Nat) : State :=
  let s := writeFields s PEER_DIST_CMD.GO.addr w
  if bit w 63 then startDist s else s

/-- DIST_START: PEER_DIST_CMD.GO is set (R447). -/
def execDistStart (s : State) : Host.Outcome State Fault Refusal :=
  if pdOn s 4 then .next (startDist (wrB s PEER_DIST_CMD.GO true)) else .next s

/-- DIST_DONE is sent with a result; the layout of its payload is the model's (log 25). -/
def sendDistDone (s : State) (dest msg slot result : Nat) : State :=
  sendOrLose s (newHdr s 0x21 dest false msg 2) (natBe 1 slot ++ natBe 1 result)

/-- The slot's load buffer is held, or free again. -/
def holdBuffer (s : State) (slot : Nat) (on : Bool) : State := modSlot s slot fun x => { x with distHeld := on }

/-- A slot whose load buffer a distribution holds is free of it again. -/
def endRx (s : State) (d : DistRx) (result : Nat) : State :=
  let s := { s with peer.distRx := s.peer.distRx.filter fun x => x != d }
  let s := if d.refused then s else holdBuffer s d.slot false
  sendDistDone s d.source d.message d.slot result

/-- A distribution to a slot is refused: its buffer is missing, too small or held, or the slot is CHECKING (R447). -/
def distRefused (s : State) (slot bytes : Nat) : Bool :=
  (match loadBuffer s slot with
    | some (_, size) => decide (size < bytes)
    | none => true) || (getSlot s slot).staging == 1 || (getSlot s slot).distHeld

/-- The distribution that a fragment belongs to; its first fragment begins it, and holds the buffer unless it is refused. -/
def rxOf (s : State) (h : PeerHdr) (slot bytes : Nat) : State × DistRx :=
  match s.peer.distRx.find? fun d => d.source == h.src && d.message == h.msgId && d.slot == slot with
  | some d => (s, d)
  | none =>
    let d : DistRx := ⟨slot, h.src, h.msgId, bytes, distRefused s slot bytes, [], s.dial.now⟩
    let s := { s with peer.distRx := s.peer.distRx ++ [d] }
    (if d.refused then s else holdBuffer s slot true, d)

/-- All fragments of a distribution have arrived. -/
def DistRx.complete (d : DistRx) : Bool := !d.refused && (List.range (fragmentCount d.bytes)).all d.got.contains

/-- A fragment is taken at a device named in the mask: it is written at its own place; the LAST one ends the distribution (R447). -/
def takeFragment (s : State) (h : PeerHdr) (p : Bytes) : State :=
  let slot := beAt p 0 1 % 16
  let x := rxOf s h slot (beAt p 4 4)
  let d := x.2
  let s := match d.refused, loadBuffer x.1 slot with
    | false, some (base, _) =>
      { x.1 with hbm := Mem.writeBytes x.1.hbm (base + 8192 * h.frag) ((p.drop 24).take (min 8192 (d.bytes - 8192 * h.frag))) }
    | _, _ => x.1
  let e := { d with got := d.got ++ [h.frag], since := s.dial.now }
  let s := { s with peer.distRx := s.peer.distRx.map fun y => if y == d then e else y }
  if !h.last then s
  else
    let s := if e.complete then modSlot s slot fun x => { x with image := true, imageLen := e.bytes } else s
    endRx s e (if e.complete then 1 else 2)

/-- DIST_DATA: a received fragment is passed on, and written where this device is named in the mask (R447). -/
def execDistData (link : Nat) (frame : Bytes) (s : State) : Host.Outcome State Fault Refusal :=
  match acceptFrame s link frame 0x20 with
  | none => .next s
  | some s =>
    let h := frameHdr frame
    let p := framePayload frame
    let s := (arrive s link frame).1
    .next (if bit (beAt p 8 8) s.peer.address && h.src != s.peer.address then takeFragment s h p else s)

/-- The distribution that this device runs ends once every device of the mask has reported (R447). -/
def endDist (s : State) : State :=
  match s.peer.distTx with
  | none => s
  | some d =>
    let told := rd s PEER_DIST_DONE.MASK ||| rd s PEER_DIST_FAILED.MASK
    if told &&& d.mask != d.mask then s
    else
      let s := wr (wrB { s with peer.distTx := none } PEER_DIST_CMD.BUSY false) PEER_DIST_CMD.RESULT 1
      raise s (if rd s PEER_DIST_FAILED.MASK == 0 then PEER_EVENTS.DIST_DONE else PEER_EVENTS.DIST_FAILED) d.slot

/-- DIST_DONE: a device reports; a frame for another device is passed on (R447). -/
def execDistDone (link : Nat) (frame : Bytes) (s : State) : Host.Outcome State Fault Refusal :=
  match acceptFrame s link frame 0x21 with
  | none => .next s
  | some s =>
    let h := frameHdr frame
    let p := framePayload frame
    let a := arrive s link frame
    if !a.2 then .next a.1
    else match s.peer.distTx with
      | none => .next a.1
      | some d =>
        if beAt p 0 1 != d.slot then .next a.1
        else
          let s := a.1
          let f := if beAt p 1 1 == 1 then PEER_DIST_DONE.MASK else PEER_DIST_FAILED.MASK
          .next (endDist (wr s f (rd s f ||| 2 ^ h.src)))

/-- DIST_RX_TIMEOUT: no fragment has arrived for TIMEOUT_MS (R447). -/
def execDistRxTimeout (slot : Nat) (s : State) : Host.Outcome State Fault Refusal :=
  .next ((s.peer.distRx.filter fun d => d.slot == slot && timedOut s d.since).foldl (fun s d => endRx s d 2) s)

/-- DIST_DONE_TIMEOUT: TIMEOUT_MS after the last fragment the missing devices have failed (R447). -/
def execDistDoneTimeout (s : State) : Host.Outcome State Fault Refusal :=
  match s.peer.distTx with
  | none => .next s
  | some d =>
    if messageWaits s 0x20 d.message || !timedOut s d.since then .next s
    else
      let told := rd s PEER_DIST_DONE.MASK
      .next (endDist (wr s PEER_DIST_FAILED.MASK (rd s PEER_DIST_FAILED.MASK ||| (d.mask - (d.mask &&& told)))))

/-! ## The power group (R355, R356, R449) -/

/-- Energy, periods and NEED of the last 1,000 beats (R355): those of the beats that end now, whether or not the last period of them
has been told. -/
def lastKilo (s : State) : Nat × Nat × Bool :=
  if s.power.kiloPeriods == 0 then s.power.kiloLast else (s.power.kiloEnergy, s.power.kiloPeriods, s.power.kiloNeed)

/-- The mean estimated power over the last 1,000 beats, in W (log 16). -/
def meanWatts (s : State) : Nat :=
  let k := lastKilo s
  if k.2.1 == 0 then 0 else k.1 * 500000 / (k.2.1 * 2 ^ 40)

/-- What this device publishes at the exchange of the current beat (R355). -/
def ownSlack (s : State) : Slack where
  device := s.peer.address
  exchange := batchNow s
  effective := effectiveCap s
  slackW := (effectiveCap s : Int) - meanWatts s
  need := rdB s REGULATOR_GROUP_CFG.SHARED && (lastKilo s).2.2
  latency := match s.sched.running with
    | some c => c.latency
    | none => 0
  round := match s.sched.running with
    | some c => c.n
    | none => 0
  shiftMax := rd s REGULATOR_GROUP_CFG.SHIFT_MAX_W
  reserve := rd s REGULATOR_GROUP_CFG.RESERVE_W
  givenTo := s.power.lastGiven.map (·.1)
  givenW := match s.power.lastGiven with
    | some g => g.2
    | none => 0

/-- The payload of a SLACK frame (R449). -/
def Slack.bytes (k : Slack) : Bytes :=
  natBe 8 k.exchange ++ natBe 2 k.effective ++ natBe 2 (wrapU 16 k.slackW) ++ natBe 1 (b2n k.need) ++ natBe 1 k.latency ++
    natBe 2 k.round ++ natBe 2 k.shiftMax ++ natBe 2 k.reserve ++ natBe 1 (match k.givenTo with
      | some a => 128 + a
      | none => 0) ++ natBe 2 k.givenW ++ natBe 9 0

/-- A SLACK frame's payload taken apart. -/
def slackOf (src : Nat) (p : Bytes) : Slack where
  device := src
  exchange := beAt p 0 8
  effective := beAt p 8 2
  slackW := sext 16 (beAt p 10 2)
  need := bit (beAt p 12 1) 0
  latency := beAt p 13 1
  round := beAt p 14 2
  shiftMax := beAt p 16 2
  reserve := beAt p 18 2
  givenTo := if bit (beAt p 20 1) 7 then some (beAt p 20 1 % 64) else none
  givenW := beAt p 21 2

/-- The device is a member of a power group: the GROUP in force is not 0 (R449, R488). -/
def inGroup (s : State) : Bool := s.peer.group != 0

/-- A grant of the device stands: given or received, and not yet lapsed. -/
def grantStands (s : State) : Bool := (s.power.given ++ s.power.received).any (·.untilBatch.isNone)

/-- SLACK_PUBLISH: at a beat index that is a multiple of 1,000 a member floods its SLACK frame (R355, R449). A device that has left its
group publishes nothing; the exchange counts for the grants it still has (R356). -/
def execSlackPublish (s : State) : Host.Outcome State Fault Refusal :=
  if !dialSet s || beatInSecond s % 1000 != 0 then .next s
  else if !inGroup s then .next (if grantStands s then { s with power.exchange := batchNow s, power.slacks := [] } else s)
  else
    let k := ownSlack s
    let s := { s with
      power.exchange := batchNow s
      power.slacks := (s.power.slacks.filter fun x => x.exchange == batchNow s && x.device != k.device) ++ [k] }
    .next (flood s (newHdr s 2 0 true 0 32) k.bytes)

/-- A grant received is confirmed by its donor's next frame (R449). -/
def confirmGrants (s : State) (k : Slack) : State :=
  { s with power.received := s.power.received.map fun g =>
      if g.peer == k.device && k.givenTo == some s.peer.address && k.givenW == g.watts then { g with confirmed := true } else g }

/-- A device is known to be of another group: a neighbour's HELLO frames name its group (R440). Of any other device the SLACK frame
names none (log 110). -/
def otherGroup (s : State) (a : Nat) : Bool := (List.range 4).any fun j =>
  linkUsed s j && neighbour s j == a && (match (getLink s j).group with
    | some g => g != s.peer.group
    | none => false)

/-- SLACK: a received SLACK frame is passed on and kept for the exchange (R449). -/
def execSlack (link : Nat) (frame : Bytes) (s : State) : Host.Outcome State Fault Refusal :=
  match acceptFrame s link frame 2 with
  | none => .next s
  | some s =>
    let h := frameHdr frame
    let s := (arrive s link frame).1
    if !inGroup s || h.src == s.peer.address || otherGroup s h.src then .next s
    else
      let k := slackOf h.src (framePayload frame)
      .next (confirmGrants { s with
        power.slacks := (s.power.slacks.filter fun x => x.device != k.device) ++ [k]
        power.members := if s.power.members.contains k.device then s.power.members else s.power.members ++ [k.device] } k)

/-- A grant of an exchange: donor, receiver, watts. -/
abbrev Shift := Nat × Nat × Nat

/-- The receiver of R356: NEED set and the least slack, the lowest address among equals. -/
def neediest (l : List Slack) : Option Slack :=
  (l.filter (·.need)).foldl (fun a k => match a with
    | some b => if k.slackW < b.slackW then some k else a
    | none => some k) none

/-- What a receiver's published effective cap holds of grants: those that their donors published at the exchange before, and confirm
at this one (R356, R449). -/
def heldGrants (old l : List Slack) (r : Nat) : Nat := sumN (l.map fun k =>
  match old.find? (·.device == k.device) with
  | some o => if k.givenTo == some r && o.givenTo == some r then min o.givenW k.givenW else 0
  | none => 0)

/-- The grants of an exchange over the members in ascending address (R356): `old` are the frames of the exchange before. A grant is
no larger than SHIFT_MAX_W of its donor and of its receiver (R358). -/
def groupGrants (old l : List Slack) : List Shift :=
  match neediest l with
  | none => []
  | some r =>
    let limit : Int := min (r.shiftMax : Int) (1500 - ((r.effective : Int) - heldGrants old l r.device))
    let donors := l.filter fun k => k.shiftMax != 0 && !k.need && decide ((k.reserve : Int) < k.slackW)
    (donors.foldl (fun (a : List Shift × Int) k =>
      let g := min (min (min (k.slackW - (k.reserve : Int)) ((k.effective : Int) - 400)) (k.shiftMax : Int)) a.2
      if 0 < g then (a.1 ++ [(k.device, r.device, g.toNat)], a.2 - g) else a) ([], limit)).1

/-- Round and latency of a member, as it published them. -/
def memberSpan (l : List Slack) (a : Nat) : Nat := match l.find? (·.device == a) with
  | some k => k.round + k.latency
  | none => 0

/-- Grants given, after an exchange e at which this device grants w watts to r, or nothing (R356). -/
def renewGiven (e span : Nat) (new : Option (Nat × Nat)) (l : List Grant) : List Grant :=
  let ended (g : Grant) : Bool := g.untilBatch.isSome
  let keep := l.map fun g =>
    if ended g then g
    else match new with
      | some (r, w) =>
        if g.peer == r && g.watts ≤ w then { g with untilBatch := some e } else { g with untilBatch := some (e + g.span) }
      | none => { g with untilBatch := some (e + g.span) }
  match new with
  | none => keep
  | some (r, w) =>
    let from_ := match l.find? fun g => !ended g && g.peer == r with
      | some g => if w < g.watts then e + g.span else e
      | none => e
    keep ++ [⟨r, w, from_, none, true, span⟩]

/-- Grants received from a donor, after an exchange e at which it grants w watts, or nothing; `span` is n + L of the donor
(R356, R449). -/
def renewReceived (e span donor : Nat) (new : Option Nat) (l : List Grant) : List Grant :=
  let from_ := e + max 1000 span
  let mine (g : Grant) : Bool := g.peer == donor && g.untilBatch.isNone
  match new with
  | none => l.map fun g => if mine g then { g with untilBatch := some e } else g
  | some w => match l.find? fun g => mine g && g.confirmed with
    | none => (l.filter fun g => !mine g) ++ [⟨donor, w, from_, none, false, span⟩]
    | some g =>
      if g.watts == w then l
      else if w < g.watts then
        (l.map fun g => if mine g then { g with untilBatch := some e } else g) ++ [⟨donor, w, e, none, true, span⟩]
      else (l.map fun g => if mine g then { g with untilBatch := some from_ } else g) ++ [⟨donor, w, from_, none, false, span⟩]

/-- Peers and watts of the grants that stand. -/
def standing (l : List Grant) : List (Nat × Nat) := (l.filter (·.untilBatch.isNone)).map fun g => (g.peer, g.watts)

/-- The grants of this device after an exchange whose frames are `l` (R356). -/
def regrant (s : State) (l : List Slack) : State :=
  let e := s.power.exchange
  let own := s.peer.address
  let grants := groupGrants s.power.lastSlacks l
  let mine := (grants.find? (·.1 == own)).map (·.2)
  let donors := dedupN ((grants.filter (·.2.1 == own)).map (·.1) ++ s.power.received.map (·.peer))
  let span := match mine with
    | some m => memberSpan l m.1
    | none => 0
  let given := renewGiven e span mine s.power.given
  let received := donors.foldl (fun r d =>
    renewReceived e (memberSpan l d) d ((grants.find? fun g => g.1 == d && g.2.1 == own).map (·.2.2)) r) s.power.received
  let shifted := standing given != standing s.power.given || standing received != standing s.power.received
  raiseIf shifted { s with
    power.given := given
    power.received := received
    power.lastGiven := mine
    power.lastSlacks := l
    power.slacks := [] } REGULATOR_EVENTS.GROUP_SHIFT 0

/-- GROUP_EXCHANGE_EVAL: 500 beats after an exchange the grants are computed from the SLACK frames that have arrived, and those
of missing members lapse (R356, R449). All grants of a device that has left its group lapse. -/
def execGroupExchangeEval (s : State) : Host.Outcome State Fault Refusal :=
  let e := s.power.exchange
  if batchNow s < e + 500 then .next s
  else if !inGroup s then .next (if grantStands s then regrant s [] else s)
  else if !(s.power.slacks.any fun k => k.exchange == e && k.device == s.peer.address) then .next s
  else
    let l := sortBy (fun a b => decide (a.device ≤ b.device)) (s.power.slacks.filter fun k => k.exchange == e)
    let missing := s.power.members.filter fun a => !l.any (·.device == a)
    let s := wr (regrant s l) PEER_GROUP_STATUS.MISSING (ofBits missing)
    .next (missing.foldl (fun s a => raise s PEER_EVENTS.SLACK_MISSING a) s)

end Sys2Proof.Machine
end

