-- ==== Sys2Proof/Machine/Capture.lean ====
section
/-! DEFINITION. The first stage of a capture: the items that the reorder stage offers (R428). -/

namespace Sys2Proof.Machine

/-- The session index of a client; a relayed job has none on this device, and a free value stands for it (log 3). -/
def clientIndex (s : State) (c : Client) : State × Nat := match c with
  | .session i _ => (s, i)
  | .peer _ _ =>
    let d := draw s
    (d.2, d.1 % 16)

/-- A capture item or push of a client is discarded (R428). -/
def dropCapture (s : State) (c : Client) : State :=
  let d := clientIndex s c
  raise (bump d.1 CROWN_COUNTS.CAPTURE_DROPPED 1) CROWN_EVENTS.CAPTURE_DROPPED d.2

/-- The capture of an index changed. -/
def modCapture (s : State) (i : Nat) (f : CaptureRun → CaptureRun) : State :=
  { s with crown.captures := modAt s.crown.captures i f }

/-- The capture writes the item that it holds, once H has room (R428). -/
def flushCapture (s : State) (i : Nat) : State := match s.crown.captures[i]? with
  | none => s
  | some c => match c.held with
    | none => s
    | some item =>
      if roomQ s c.hq 0 == 0 then s
      else modCapture (enqueue s c.hq 0 item).1 i fun c => { c with held := none }

/-- Every capture writes the item that it holds, where it can. -/
def flushCaptures (s : State) : State := (List.range s.crown.captures.length).foldl flushCapture s

/-- An item is offered to the capture of an index: it is written to H, or held, or discarded while an item is held. -/
def offerItem (s : State) (i item : Nat) : State := match s.crown.captures[i]? with
  | none => s
  | some c =>
    let s := modCapture s i fun c => { c with left := c.left - 1 }
    if c.held.isSome then dropCapture s c.client
    else if roomQ s c.hq 0 == 0 then modCapture s i fun c => { c with held := some item }
    else (enqueue s c.hq 0 item).1

/-- A head and its verdict record are offered to every capture that matches (R428). -/
def offerCapture (s : State) (batch : Nat) (h : Head) (record : Nat) : State :=
  let item := putFld (headItem512 h batch) 127 0 record
  s.crown.captures.zipIdx.foldl (fun s c =>
    if c.1.active && c.1.left != 0 && c.1.port == h.port && decide (c.1.after < h.arrival) &&
      (c.1.filter.isNone || c.1.filter == some h.partition) then offerItem (flushCapture s c.2) c.2 item
    else s) s

end Sys2Proof.Machine
end

