-- ==== Sys2Proof/Machine/Return.lean ====
section
/-! DEFINITION. The return window: the verdict map, and the reorder stage that puts a batch's verdicts into the ordered stream
(R72, R101, R109 to R112, R147, R149, R297 to R299). -/

namespace Sys2Proof.Machine

/-! ## The verdict map (R297, R298) -/

/-- The entry of a partition that serves the heads of a batch (R298). -/
def vmapFor (s : State) (partition batch : Nat) : Nat :=
  match s.front.vmapOld.find? fun o => o.1 == partition && decide (batch ≤ o.2.2) with
  | some o => o.2.1
  | none => Map.getD s.front.vmap partition 0

/-- The tree term of an entry for a head (R299). -/
def treeTerm (b : Batch) (h : Head) (e : Nat) : Option Int :=
  let slot := fld e 252 249
  if !bit e 255 || !bit h.slotMask slot then none
  else match b.chain slot with
    | none => none
    | some c =>
      let k := fld e 248 245
      let out := fld e 244 239
      match c.model.ensembles[k]?, (c.model.ops.zipIdx.find? fun o => o.1.kind == 3 && o.1.aux == k) with
      | some x, some (_, i) => if out < x.outputs then some (((c.val i).rows.getD h.slot []).getD out 0) else none
      | _, _ => none

/-- The chain that gives an entry's sequence term, where its generation has a SURPRISE operation (R299). -/
def seqChain (b : Batch) (e : Nat) : Option (Chain × SeqDesc) :=
  if !bit e 254 then none
  else match b.chain (fld e 238 235) with
    | none => none
    | some c => if c.model.ops.any (·.kind == 5) then c.model.seq.map fun q => (c, q) else none

/-- The head's score is suppressed in the slot of the sequence term (R296, R299). -/
def seqSuppressed (b : Batch) (h : Head) (e : Nat) : Bool := match seqChain b e with
  | some (c, q) => suppressedState q (c.state.getD h.slot (none, 0, false))
  | none => false

/-- The sequence term of an entry for a head (R299). -/
def seqTerm (b : Batch) (h : Head) (e : Nat) : Option Int := match seqChain b e with
  | some (c, _) => if bit h.slotMask (fld e 238 235) && !seqSuppressed b h e then some (c.surprise.getD h.slot 0) else none
  | none => none

/-- SCORE of R299. -/
def score (b : Batch) (h : Head) (e : Nat) : Nat :=
  let shift := fld e 199 194
  let acc : Int := sext 32 (fld e 191 160) * (2 ^ shift : Nat)
  let acc := acc + sext 16 (fld e 231 216) * (treeTerm b h e).getD 0
  let acc := acc + sext 16 (fld e 215 200) * (seqTerm b h e).getD 0
  (satI (rheSh acc shift) 0 65535).toNat

/-! ## The verdict of a head (R109, R147, R149, R299) -/

/-- What every verdict of a head carries. -/
def baseVerdict (h : Head) (batch : Nat) : Verdict where
  cookie := h.cookie
  bundleSeq := h.bundleSeq
  record := h.record
  shed := false
  late := false
  action := h.defAction
  arg := h.defArg
  score := 0
  partition := h.partition
  featureFault := false
  suppressed := false
  defaultTaken := true
  ruleHit := h.ruleHit
  colour := h.colour
  reason := 0
  batchLow := batch

/-- The verdict takes the rule's action. -/
def Verdict.byRule (v : Verdict) (h : Head) : Verdict :=
  { v with action := h.action, arg := h.arg, defaultTaken := false }

/-- The verdict of a head whose front tables are lost (R149). -/
def Verdict.byLoss (v : Verdict) : Verdict := { v with featureFault := true, ruleHit := false }

/-- The late verdict of a head (R109). -/
def lateVerdict (h : Head) (batch : Nat) (lost : Bool) : Verdict :=
  let v := { baseVerdict h batch with late := true, featureFault := h.featureFault }
  if lost then v.byLoss else if h.ruleHit then v.byRule h else v

/-- The head takes the feature-fault path: by its own features, by lost tree data of a slot of its partition, or by a failing
compute unit (R147, R281, R475). -/
def faultPath (b : Batch) (h : Head) : Bool :=
  h.featureFault || b.faulty || b.chains.any fun c => bit h.slotMask c.slot && c.lost

/-- The level of the score replaces the action where it may (R299). -/
def Verdict.byScore (v : Verdict) (e : Nat) : Verdict :=
  if v.ruleHit && !bit e 253 then v
  else if fld e 143 128 ≤ v.score && fld e 103 96 != 0xFF then
    { v with action := fld e 103 96, arg := fld e 95 80, defaultTaken := false }
  else if fld e 159 144 ≤ v.score && fld e 127 120 != 0xFF then
    { v with action := fld e 127 120, arg := fld e 119 104, defaultTaken := false }
  else v

/-- The model verdict of a head (R147, R299). -/
def modelVerdict (b : Batch) (h : Head) (e : Nat) (lost : Bool) : Verdict :=
  let v := baseVerdict h b.number
  let fault := faultPath b h
  if lost then v.byLoss
  else if h.ruleHit && h.final then { v.byRule h with featureFault := fault, score := score b h e }
  else if fault then { v with featureFault := true }
  else
    let v := if h.ruleHit then v.byRule h else v
    ({ v with score := score b h e, suppressed := seqSuppressed b h e }).byScore e

/-- The verdict of a head in its batch's return window. -/
def headVerdict (s : State) (b : Batch) (h : Head) : Verdict :=
  let lost := tableLostAt s b.number
  if b.late then lateVerdict h b.number lost else modelVerdict b h (vmapFor s h.partition b.number) lost

/-! ## The reorder stage (R101, R111, R112, R190, R204) -/

/-- The head's item is taken from the head-hold queue of its port: whether its verdict survives. That of a discarded item
does not (R472). -/
def takeHeld (s : State) (batch : Nat) (h : Head) : State × Bool :=
  let lost := match findBatch s batch with
    | some b => (b.heads.getD h.slot h).lost
    | none => true
  if lost then (s, false)
  else match dequeue s h.port with
    | (s, .item _ _) => (s, true)
    | (s, .discarded _ _) => (bump s (HEADPORT_MISC.VERDICTS_DROPPED h.port) 1, false)
    | (s, _) => (s, false)

/-- A head that takes the default action on the fault path of R147 though a rule matched is counted here; where none matched, or the
front tables are lost, it was counted at admission (R150). A late verdict carries the rule's action (R109). -/
def countDefault (s : State) (b : Batch) (h : Head) : State :=
  if !b.late && h.ruleHit && !h.final && faultPath b h && !tableLostAt s b.number then bump s FRONT_DEFAULTS.COUNT 1
  else s

/-- The records of a port's heads in arrival order, each with its place. -/
def portRecords (batch : Nat) (b : Batch) (v1 : Bool) : List Head → State → State × List (Nat × Nat)
  | [], s => (s, [])
  | h :: hs, s =>
    let r := takeHeld (countDefault s b h) batch h
    let v := headVerdict s b h
    if r.2 then
      let w := (if v1 then v.forV1 else v).word
      let rest := portRecords batch b v1 hs (offerCapture r.1 batch h w)
      (rest.1, (h.arrival * 64 + h.record, w) :: rest.2)
    else portRecords batch b v1 hs r.1

/-- The items of one bundle are written to the ordered queue, and the records that were written counted (R198, R205). A reset
of the queue loses those before it. -/
def writeItems (p : Nat) : List (List Nat) → State × Nat → State × Nat
  | [], a => a
  | r :: rs, (s, n) => match enqueueDataPath s (orderedQueue p) (verdictItem r) r.length with
    | (s, .written) => writeItems p rs (s, n + r.length)
    | (s, .full) => writeItems p rs (s, n)
    | (s, .mismatch) => writeItems p rs (s, 0)

/-- A list cut into pieces of `n`; `fuel` bounds their number. -/
def piecesAux {α : Type} : Nat → Nat → List α → List (List α)
  | 0, _, _ => []
  | fuel + 1, n, l => if l.isEmpty then [] else l.take n :: piecesAux fuel n (l.drop n)

/-- A list cut into pieces of `n`. -/
def pieces {α : Type} (n : Nat) (l : List α) : List (List α) := piecesAux l.length n l

/-- One ordered bundle of at most 128 records is written (R111). -/
def writeBundle (p batch : Nat) (s : State) (records : List Nat) (last : Bool) : State :=
  let r := writeItems p (pieces 4 records) (s, 0)
  if r.2 == 0 then r.1
  else { r.1 with ports := modAt r.1.ports p fun t => { t with ordered := t.ordered ++ [⟨batch, r.2, last, true⟩] } }

/-- The bundles of a port for a batch (R111). -/
def writeBundles (p batch : Nat) : List (List Nat) → State → State
  | [], s => s
  | [r], s => writeBundle p batch s r true
  | r :: rs, s => writeBundles p batch rs (writeBundle p batch s r false)

/-- Items of the ordered queue that the verdicts of a batch take on a port (R111, R205). -/
def itemsNeeded (s : State) (b : Batch) (p : Nat) : Nat :=
  let heads := (b.heads.filter fun h => h.port == p && !h.lost).length
  let shed := ((s.ports.getD p PortSt.reset).v1Shed.filter fun x => x.1 == b.number).length
  32 * ((heads + shed) / 128) + ceilDiv ((heads + shed) % 128) 4

/-- The reorder stage may take the heads of a batch on a port: the port's ordered queue has room for their verdicts (R199; log 176). -/
def returnFits (s : State) (b : Batch) (p : Nat) : Bool :=
  let q := orderedQueue p
  (((getQ s q).bands.getD 3 noBand).bad && roomQ s q 3 != 0) || decide (itemsNeeded s b p ≤ roomQ s q 3)

/-- A port's verdicts of a batch: those of its heads and, on a version 1 port, the shed verdicts of the beat in their places
(R101, R112). Where the ordered queue has no room for them the heads stay in their queue (R199). -/
def returnPort (batch : Nat) (s : State) (p : Nat) : State :=
  match findBatch s batch with
  | none => s
  | some b =>
    if b.portsDone.contains p || !returnFits s b p then s
    else
    let v1 := (s.ports.getD p PortSt.reset).v1
    let mine := sortBy (fun a c => decide (a.arrival * 64 + a.record ≤ c.arrival * 64 + c.record))
      (b.heads.filter (·.port == p))
    let r := portRecords batch b v1 mine s
    let shed := ((r.1.ports.getD p PortSt.reset).v1Shed.filter fun x => x.1 == batch).map (·.2)
    let s := { r.1 with ports := modAt r.1.ports p fun t => { t with v1Shed := t.v1Shed.filter fun x => x.1 != batch } }
    let all := sortBy (fun a c => decide (a.1 ≤ c.1)) (r.2 ++ shed)
    modBatch (writeBundles p batch (pieces 128 (all.map (·.2))) s) batch fun b => { b with portsDone := b.portsDone ++ [p] }

/-- A failed check of the verdict map (R298): a lasting one gives every head of later beats its default action. -/
def mapFault (s : State) (f : FaultEv) : State :=
  match f.loc with
  | .verdictMap _ =>
    let s := faultFound s 14 f.lasting (faultAddress s f.loc) none
    if f.lasting then frontError s (.frontTable 0) else s
  | _ => structureFault s f

/-- The BATCH record (R461). -/
def traceBatch (s : State) (b : Batch) : State :=
  trace s 0x01 (shortTime (beatStartNs (b.number + b.latency) + 400))
    (pack [(64, b.number), (13, b.heads.length), (14, min 16383 b.shed), (1, b2n b.late), (1, b2n b.faulty), (13, b.capacity),
      (70, 0)])

/-- The verdicts of a batch stand in the ordered queues of all ports: it has returned. -/
def endReturn (s : State) (batch : Nat) : State := match findBatch s batch with
  | none => s
  | some b =>
    if (List.range 8).all b.portsDone.contains then
      closeDataPath (modBatch (traceBatch s b) batch fun b => { b with returned := true })
    else s

/-- RETURN_WINDOW_START: the verdicts of a batch are formed and put into arrival order (R72, R112). Batches return in ascending
number. While an ordered queue has no room the batch waits, and the next such command, or ITEM_TAKE on the head-hold queue, takes up the
ports that are left (R199; log 176). -/
def execReturnWindowStart (batch : Nat) (faults : List FaultEv) (s : State) : Host.Outcome State Fault Refusal :=
  match findBatch s batch with
  | none => .next s
  | some b =>
    if !b.windowEnded || b.returned || s.pipe.batches.any (fun d => decide (d.number < batch) && !d.returned) then .next s
    else
      let s := faults.foldl mapFault s
      .next (endReturn ((List.range 8).foldl (returnPort batch) s) batch)

end Sys2Proof.Machine
end

