-- ==== Sys2Proof/Machine/Jobs.lean ====
section
/-! DEFINITION. Crown messages, the retirement of jobs, and the end of sessions (R413, R416 to R418, R424 to R428). -/

namespace Sys2Proof.Machine

/-! ## Messages (R418) -/

/-- The fields of a crown message header that a request chooses, with TYPE, OP and STATUS. -/
structure CrownHdr where
  type : Nat
  op : Nat
  dest : Nat
  layer : Nat
  operator : Nat
  tag : Nat
  status : Nat
  deriving DecidableEq, Repr

/-- A crown message; `src` is the responder's address, zero in requests (R418). -/
def crownMessage (src : Nat) (h : CrownHdr) (payload : Bytes) : Bytes :=
  natBe 32 (pack [(32, 0x43524F57), (8, 1), (8, h.type), (8, h.op), (6, h.dest), (6, src), (4, 0), (16, h.layer),
    (16, h.operator), (32, h.tag), (8, h.status), (8, 0), (32, payload.length), (72, 0)]) ++ payload

/-- The header of a crown message. -/
def crownHdr (m : Bytes) : CrownHdr :=
  let w := beAt m 0 32
  { type := fld w 215 208
    op := fld w 207 200
    dest := fld w 199 194
    layer := fld w 183 168
    operator := fld w 167 152
    tag := fld w 151 120
    status := fld w 119 112 }

/-- MAGIC, VERSION and LENGTH of a header are as R418 asks. -/
def crownHdrGood (m : Bytes) : Bool :=
  let w := beAt m 0 32
  fld w 255 224 == 0x43524F57 && fld w 223 216 == 1 && decide (fld w 103 72 ≤ 2097152)

/-- The open session of an index. -/
def findSession (s : State) (index : Nat) : Option Session := s.crown.sessions.find? (·.index == index)

/-- The session that a client names is open. -/
def sessionIs (s : State) (index serial : Nat) : Bool := match findSession s index with
  | some x => x.serial == serial
  | none => false

/-- The RESPONSE fragments of a message (R446), as header and payload; they carry the MSG_ID of the request (log 27). -/
def responseParts (s : State) (device message : Nat) (m : Bytes) : List (PeerHdr × Bytes) :=
  let ps := chunks 8192 m
  ps.zipIdx.map fun p =>
    ({ newHdr s 0x11 device false message p.1.length with frag := p.2, last := p.2 + 1 == ps.length }, p.1)

/-- A message is sent to a client; one whose session has closed, or to which no route leads, is discarded (R417, R446). -/
def sendClient (s : State) (c : Client) (m : Bytes) : State := match c with
  | .session i serial => if sessionIs s i serial then emit s (.crown i m) else s
  | .peer d msg => (responseParts s d msg m).foldl (fun s p => sendOrLose s p.1 p.2) s

/-- A response to a request (R418). -/
def respond (s : State) (c : Client) (r : Request) (op status : Nat) (payload : Bytes) : State :=
  sendClient s c (crownMessage s.peer.address ⟨2, op, r.dest, r.layer, r.operator, r.tag, status⟩ payload)

/-! ## Jobs (R413, R424 to R427) -/

/-- Units of 64 bytes of the job store in use (R413). -/
def storeUsed (s : State) : Nat := sumN (s.crown.jobs.map (·.storeUnits))

/-- CROWN_STATUS follows the sessions and the jobs (R436). -/
def showCrown (s : State) : State :=
  wr (wr (wr s CROWN_STATUS.SESSIONS s.crown.sessions.length)
    CROWN_STATUS.RUNNING (s.crown.jobs.filter (·.state == 1)).length)
    CROWN_STATUS.STORE_KIB (ceilDiv (storeUsed s) 16)

/-- The job of an identifier that has not retired. -/
def liveJob (s : State) (id : Nat) : Option Job := s.crown.jobs.find? (·.id == id)

/-- The running job of an identifier. -/
def runningJob (s : State) (id : Nat) : Option Job := s.crown.jobs.find? fun j => j.id == id && j.state == 1

/-- The job of a posting changed. -/
def modJob (s : State) (post : Nat) (f : Job → Job) : State :=
  { s with crown.jobs := s.crown.jobs.map fun j => if j.post == post then f j else j }

/-- The 16-bit results of a job that retires in a state of R427: those of the operations performed, then those of the others
(R424). -/
def jobResults (j : Job) (state : Nat) : List Nat :=
  j.results.map (·.1) ++ List.replicate (j.ops.length - j.results.length) (if state == 3 then 0x0B00 else 0x0C00)

/-- STATUS of a job that retires in a state of R427. -/
def jobStatusCode (state : Nat) : Nat := if state == 3 then 11 else if state == 4 then 12 else 0

/-- The payload of a completion message: JOB_ID, the results, then the data that the operations return; the layout is the
model's (log 28). -/
def completionPayload (j : Job) (state : Nat) : Bytes :=
  natBe 8 j.id ++ padTo 8 ((jobResults j state).flatMap (natBe 2)) ++ j.results.flatMap fun r => padTo 8 r.2

/-- The job completion message (R424). -/
def completionMessage (s : State) (j : Job) (state : Nat) : Bytes :=
  crownMessage s.peer.address ⟨3, 0x21, s.peer.address, j.layer, j.operator, j.tag, jobStatusCode state⟩
    (completionPayload j state)

/-- A job retires in a state of R427: 2 complete, 3 aborted, 4 failed. An item that a capture of a complete job still holds is written once
H has room (log 130). -/
def retireJob (s : State) (j : Job) (state : Nat) : State :=
  let m := completionMessage s j state
  let cs := s.crown.captures
  let s := { s with
    crown.jobs := s.crown.jobs.filter fun x => x.post != j.post
    crown.retired := ({ j with state := state } :: s.crown.retired).take 4096
    crown.captures := s.crown.captures.map fun c =>
      if c.job == j.post then { c with active := false, held := if state == 2 then c.held else none } else c }
  let s := if state != 2 && (cs.filter fun c => c.job == j.post).any (·.held.isSome) then dropCapture s j.client else s
  let s := retireJobAcc s j (state - 1)
  let s := bump s CROWN_JOBS_A.RETIRED 1
  let s := if state == 3 then raise (bump s CROWN_JOBS_B.ABORTED 1) CROWN_EVENTS.JOB_ABORTED j.id
    else if state == 4 then raise (bump s CROWN_JOBS_B.FAILED 1) CROWN_EVENTS.JOB_FAILED j.id
    else s
  sendClient (showCrown s) j.client m

/-- An abort of a job that has not retired its last operation (R426): a running one retires, a waiting one is discarded when
it reaches the head of its queue. -/
def abortJob (s : State) (j : Job) : State :=
  if j.state == 1 then retireJob s j 3 else modJob s j.post fun x => { x with abort := true }

/-- STATE in which a job whose last operation has retired retires: failed where an operation failed without CONTINUE (R424). -/
def Job.endState (j : Job) : Nat := if !j.continue_ && j.results.any (·.1 != 0) then 4 else 2

/-- Every job is aborted and the job store emptied (R413, R427). A job whose last operation has retired is past an abort (R426). -/
def abortAllJobs (s : State) : State :=
  { s.crown.jobs.foldl (fun s j => retireJob s j (if j.done then j.endState else 3)) s with crown.captures := [] }

/-! ## Sessions (R416, R417) -/

/-- The job has a CAPTURE operation. -/
def Job.captures (j : Job) : Bool := j.ops.any fun o => o.1 == 0x0C

/-- A session closes: its capture jobs are aborted, the messages of its other jobs will be discarded (R417). -/
def closeSession (s : State) (x : Session) : State :=
  let s := { s with
    crown.sessions := s.crown.sessions.filter fun y => y.index != x.index
    peer.remoteJobs := s.peer.remoteJobs.filter fun j => j.serial != x.serial }
  let js := s.crown.jobs.filter fun j => j.client == .session x.index x.serial && j.captures && !j.done
  raise (showCrown (js.foldl abortJob s)) CROWN_EVENTS.SESSION_CHANGED x.index

/-- Every session closes. -/
def closeAllSessions (s : State) : State := s.crown.sessions.foldl closeSession s

end Sys2Proof.Machine
end

