-- ==== Sys2Proof/Machine/Logbook.lean ====
section
/-! DEFINITION. The logbook: its record, its ring of sectors and its causes (R478 to R481, R485 to R487). -/

namespace Sys2Proof.Machine

/-! ## The record (R479) -/

/-- The key of the logbook (R391). -/
def logbookKey (secret : Bytes) : Bytes := hkdf (List.replicate 32 0) secret (ascii "CFN logbook v1") 32

/-- The bytes of a record without its MAC, under a SEQ. -/
def recordBody (l : LogSt) (serial seq : Nat) : Bytes :=
  let head := natBe 4 0x4C4F4742 ++ natBe 4 0x01000000 ++ natBe 8 seq ++ natBe 8 serial ++ natBe 4 l.coldResets ++
    natBe 4 l.warmRestarts ++ natBe 8 l.powerOnS ++ natBe 4 l.trips ++ natBe 4 l.failedEvents ++ natBe 1 l.failedDies ++
    natBe 1 l.failedStacks ++ natBe 1 l.failedPeerLanes ++ natBe 1 0 ++ natBe 4 l.failedClusters ++
    natBe 4 l.failedHeadLanes ++ natBe 4 0 ++ natBe 32 l.failedChannels
  let trips := (List.range 8).flatMap fun i =>
    match l.tripLog[i]? with
    | some t => natBe 6 t.1 ++ natBe 1 t.2.1 ++ natBe 1 t.2.2.1 ++ natBe 8 t.2.2.2
    | none => natBe 16 0
  let faults := l.faults.flatMap fun f => natBe 4 f.1 ++ natBe 4 f.2
  let hist := l.pointHist.flatMap (natBe 4) ++ l.tempHist.flatMap fun h => h.flatMap (natBe 4)
  head ++ trips ++ faults ++ hist ++ List.replicate 3008 0

/-- A record with its MAC. -/
def logRecord (l : LogSt) (serial seq : Nat) (key : Bytes) : Bytes :=
  let b := recordBody l serial seq
  b ++ hmac key b

/-- `n` words of 32 bits from an offset. -/
def wordsAt (b : Bytes) (o n : Nat) : List Nat := (List.range n).map fun i => beAt b (o + 4 * i) 4

/-- A record whose MAGIC, SERIAL and MAC are valid (R480). -/
def recordValid (serial : Nat) (key b : Bytes) : Bool :=
  b.length == 4096 && beAt b 0 4 == 0x4C4F4742 && beAt b 16 8 == serial && slice b 4064 32 == hmac key (b.take 4064)

/-- The counts of a record, with the trips and the faults that `l` has had since the cold reset, in a logbook that otherwise stands as
`l`. -/
def readRecord (l : LogSt) (b : Bytes) : LogSt := { l with
  seq := beAt b 8 8
  coldResets := beAt b 24 4
  warmRestarts := beAt b 28 4
  powerOnS := beAt b 32 8
  trips := satN 32 (beAt b 40 4 + l.trips)
  failedEvents := beAt b 44 4
  failedDies := beAt b 48 1
  failedStacks := beAt b 49 1
  failedPeerLanes := beAt b 50 1
  failedClusters := beAt b 52 4
  failedHeadLanes := beAt b 56 4
  failedChannels := beAt b 64 32
  tripLog := ((l.tripLog.map fun t => (t.1, t.2.1, t.2.2.1, t.2.2.2 + beAt b 32 8)) ++ ((List.range 8).map fun i =>
    (beAt b (96 + 16 * i) 6, beAt b (102 + 16 * i) 1, beAt b (103 + 16 * i) 1, beAt b (104 + 16 * i) 8)).filter
      fun t => t != (0, 0, 0, 0)).take 8
  faults := (List.range 16).map fun c =>
    let f := l.faults.getD c (0, 0)
    (satN 32 (beAt b (224 + 8 * c) 4 + f.1), satN 32 (beAt b (228 + 8 * c) 4 + f.2))
  pointHist := wordsAt b 352 16
  tempHist := (List.range 5).map fun d => wordsAt b (416 + 128 * d) 32
  record := b }

/-- The record of a list with the highest SEQ. -/
def latestRecord (l : List Bytes) : Option Bytes := l.foldl (fun a b => match a with
  | some r => if beAt r 8 8 < beAt b 8 8 then some b else a
  | none => some b) none

/-! ## Failed marks (R479, R485) -/

/-- The failed marks as bits of the shape descriptor (R41). -/
def LogSt.marks (l : LogSt) : Nat :=
  l.failedClusters * 2 ^ 336 + l.failedDies * 2 ^ 372 + l.failedStacks * 2 ^ 328 + l.failedChannels * 2 ^ 64 +
    l.failedHeadLanes * 2 ^ 32 + l.failedPeerLanes * 2 ^ 24

/-- A logbook with a unit marked failed: kind and number as in `unitKey`. -/
def LogSt.mark (l : LogSt) (key : Nat) : LogSt :=
  let b := 2 ^ (key % 256)
  let l := { l with marked := if l.marked.contains key then l.marked else l.marked ++ [key] }
  match key / 256 with
  | 0 => { l with failedClusters := l.failedClusters ||| b }
  | 1 => { l with failedDies := l.failedDies ||| b }
  | 2 => { l with failedChannels := l.failedChannels ||| b }
  | 3 => { l with failedStacks := l.failedStacks ||| b }
  | 4 => { l with failedHeadLanes := l.failedHeadLanes ||| b }
  | _ => { l with failedPeerLanes := l.failedPeerLanes ||| b }

/-- A logbook without failed marks (R481). -/
def LogSt.unmarked (l : LogSt) : LogSt := { l with
  failedClusters := 0
  failedDies := 0
  failedChannels := 0
  failedStacks := 0
  failedHeadLanes := 0
  failedPeerLanes := 0 }

/-- The LOGBOOK registers follow the logbook; the failed fields report the marks together with those made since the cold start
(R485, R486). -/
def showLog (s : State) : State :=
  let l := s.log
  let m := l.marked.foldl LogSt.mark l
  let chans (n : Nat) : Nat := fld m.failedChannels (32 * n + 31) (32 * n)
  let s := [ (LOGBOOK_STATUS.DISABLED, b2n (decide (l.sectors < 2))), (LOGBOOK_STATUS.SECTORS, l.sectors),
    (LOGBOOK_STATUS.CLEAR_PENDING, b2n l.clearDue), (LOGBOOK_SEQ.SEQ, l.seq), (LOGBOOK_COUNTS.COLD_RESETS, l.coldResets),
    (LOGBOOK_COUNTS.TRIPS, l.trips), (LOGBOOK_HOURS.HOURS, l.powerOnS / 3600),
    (LOGBOOK_FAILED_A.CLUSTERS, m.failedClusters), (LOGBOOK_FAILED_A.HEAD_LANES, m.failedHeadLanes),
    (LOGBOOK_FAILED_B.PEER_LANES, m.failedPeerLanes), (LOGBOOK_FAILED_B.STACKS, m.failedStacks),
    (LOGBOOK_FAILED_B.DIES, m.failedDies) ].foldl (fun s f => wr s f.1 f.2) s
  (List.range 4).foldl (fun s k =>
    wr (wr s (LOGBOOK_FAILED_CH.EVEN k) (chans (2 * k))) (LOGBOOK_FAILED_CH.ODD k) (chans (2 * k + 1))) s

/-! ## Writing (R478, R481) -/

/-- A sector of the ring written in the NVM. -/
def writeSector (s : State) (sector : Nat) (b : Bytes) : State :=
  { s with secure.nvmLog := Map.set s.secure.nvmLog (s.log.base + 4096 * sector) b }

/-- The sector after a sector of the ring. -/
def nextSector (s : State) (k : Nat) : Nat := (k + 1) % max 1 s.log.sectors

/-- An erased sector. -/
def erasedSector : Bytes := List.replicate 4096 0xFF

/-- The record that is due now stands in the sectors: each write is followed by the erasure of the next sector (R478). -/
def putRecord (s : State) (record : Bytes) : State :=
  let k := s.log.sector
  let s := writeSector (writeSector s k record) (nextSector s k) erasedSector
  { s with log.sector := nextSector s k }

/-- A record has been written and read back. -/
def recordWritten (s : State) (record : Bytes) (seq : Nat) (cleared : Bool) : State :=
  let s := if cleared then { s with log := s.log.unmarked } else s
  let s := { s with log.seq := seq, log.record := record, log.due := false, log.clearDue := s.log.clearDue && !cleared }
  let s := wrB (wrB (wrB s LOGBOOK_STATUS.WRITE_FAILED false) LOGBOOK_CTRL.WRITE_NOW false) LOGBOOK_CTRL.CLEAR_FAILED false
  let s := wr s LOGBOOK_STATUS.LAST_WRITE_S s.log.powerOnS
  let s := raise (showLog s) LOGBOOK_EVENTS.WRITTEN (seq % 2 ^ 32)
  raiseIf cleared s LOGBOOK_EVENTS.FAILED_CLEARED (seq % 2 ^ 32)

/-- The record that is due is written; a region of fewer than 2 sectors is not. The read-back of the first sector is good or, where it
is not, that of the second (R478). -/
def writeRecord (firstGood secondGood : Bool) (s : State) : State :=
  if !s.log.due || s.log.sectors < 2 then s
  else
    let cleared := s.log.clearDue
    let l := if cleared then s.log.unmarked else s.log
    let seq := s.log.seq + 1
    let record := logRecord l (rd s SECURE_SERIAL.SERIAL) seq (logbookKey s.secure.secret)
    let s := putRecord s record
    if firstGood then recordWritten s record seq cleared
    else
      let s := putRecord s record
      if secondGood then recordWritten s record seq cleared
      else raise (wrB { s with log.due := false } LOGBOOK_STATUS.WRITE_FAILED true) LOGBOOK_EVENTS.WRITE_FAILED (seq % 2 ^ 32)

/-- LOGBOOK_WRITE: core 7 writes the record that is due (R478). -/
def execLogbookWrite (firstGood secondGood : Bool) (s : State) : Host.Outcome State Fault Refusal :=
  .next (writeRecord firstGood secondGood s)

/-- A record falls due. -/
def logDue (s : State) : State := { s with log.due := true }

/-- INTERVAL_S within its limits (R486). -/
def logInterval (s : State) : Nat := max 600 (min 86400 (rd s LOGBOOK_CTRL.INTERVAL_S))

/-- LOGBOOK_INTERVAL: INTERVAL_S seconds of power-on time have passed (R478). -/
def execLogbookInterval (s : State) : Host.Outcome State Fault Refusal :=
  if s.log.intervalLeft == 0 then .next { logDue s with log.intervalLeft := logInterval s } else .next s

/-- A write of LOGBOOK_CTRL (R478, R481, R486). -/
def writeLogbookCtrl (s : State) (w : Nat) : State :=
  let s := writeFields s LOGBOOK_CTRL.LOCK.addr w
  let s := if bit w 62 then logDue s else s
  if bit w 61 then wrB { logDue s with log.clearDue := true } LOGBOOK_STATUS.CLEAR_PENDING true else s

/-- WRITE_NOW: LOGBOOK_CTRL.WRITE_NOW is set (R478). -/
def execWriteNow (s : State) : Host.Outcome State Fault Refusal :=
  .next (logDue (wrB s LOGBOOK_CTRL.WRITE_NOW true))

/-- CLEAR_FAILED: LOGBOOK_CTRL.CLEAR_FAILED is set (R481). -/
def execClearFailed (s : State) : Host.Outcome State Fault Refusal :=
  .next (wrB (wrB { logDue s with log.clearDue := true } LOGBOOK_CTRL.CLEAR_FAILED true) LOGBOOK_STATUS.CLEAR_PENDING true)

/-! ## Power-on time (R479) -/

/-- A count of a histogram raised. -/
def histAdd (h : List Nat) (i : Nat) : List Nat := modAt h i fun n => satN 32 (n + 1)

/-- The temperature bin of a reading in 0.25 °C (R479). -/
def tempBin (t : Int) : Nat := min 31 (t / 16).toNat

/-- POWER_ON_SECOND: a second of power-on time passes (R479). A powered die without a working sensor has no bin. -/
def execPowerOnSecond (s : State) : Host.Outcome State Fault Refusal :=
  let hist := (List.range 5).map fun d =>
    let h := s.log.tempHist.getD d []
    match dieOn s d, dieTemp s d with
    | true, some t => histAdd h (tempBin t)
    | _, _ => h
  let s := { s with
    log.powerOnS := s.log.powerOnS + 1
    log.pointHist := histAdd s.log.pointHist s.power.point
    log.tempHist := hist
    log.intervalLeft := s.log.intervalLeft - 1 }
  .next (wr s LOGBOOK_HOURS.HOURS (s.log.powerOnS / 3600))

end Sys2Proof.Machine
end

