-- ==== Sys2Proof/Machine/Queues.lean ====
section
/-! DEFINITION. Queue descriptors as software reads and writes them, and the flush (R190, R196, R206, R207). -/

namespace Sys2Proof.Machine

/-- The word of a band in a descriptor (R206). -/
def bandWord (b : Band) : Nat := pack [(23, b.base), (5, b.log2), (17, b.wr), (17, b.rd), (2, 0)]

/-- Word k of the descriptor of queue q (R206). -/
def queueWord (s : State) (q k : Nat) : Nat :=
  let d := getQ s q
  match k with
  | 0 => pack [(1, b2n d.enable), (2, queueClass q), (1, b2n d.dataPath), (1, b2n d.armed), (19, d.level), (19, d.occ), (21, 0)]
  | 1 => pack [(32, d.dropped), (16, d.resets), (16, d.swResets)]
  | 2 => pack [(32, d.lost), (32, 0)]
  | 3 => pack [(32, d.enqueued), (32, d.dequeued)]
  | k => bandWord (d.bands.getD (7 - k) noBand)

/-- Units that the rings of the data path take at the start of the region (R190). -/
def dataPathUnits : Nat := 606208

/-- A present band may be enabled (R207). -/
def Band.ok (region units : Nat) (b : Band) : Bool :=
  !b.present || (decide (4 ≤ b.log2) && decide (b.log2 ≤ 16) && b.base % 2 ^ b.log2 == 0 &&
    decide (region + dataPathUnits ≤ b.base) && decide (b.base + 2 ^ b.log2 ≤ region + units))

/-- A queue may be enabled (R207). -/
def enableOk (s : State) (d : Queue) : Bool :=
  d.bands.any Band.present && d.bands.all (Band.ok (rd s QUEUE_REGION.BASE) (rd s QUEUE_REGION.UNITS))

/-- Pointers of a band at zero. -/
def Band.zeroed (b : Band) : Band := { b with wr := 0, rd := 0, wrCopy := 0, rdCopy := 0 }

/-- A write of word 0: ENABLE and LEVEL (R202, R207); of a write that is refused nothing is stored. -/
def writeQueueHead (s : State) (q value : Nat) : State :=
  let d := getQ s q
  let d1 := { d with level := fld value 58 40, armed := true }
  let on := bit value 63
  if on && !d.enable then
    if enableOk s d then setQ s q { d1 with enable := true, bands := d.bands.map Band.zeroed }
    else refuseDescriptor s q
  else setQ s q { d1 with enable := on }

/-- A write of the word of band b: BASE and SIZE_LOG2, ignored while the queue is enabled (R207). -/
def writeQueueBand (s : State) (q b value : Nat) : State :=
  let d := getQ s q
  if d.enable then s
  else setQ s q { d with bands := modAt d.bands b fun x => { x with base := fld value 63 41, log2 := fld value 40 36 } }

/-- A write of word k of a descriptor (R206, R207). The descriptors of the data path are read-only (R190). -/
def writeQueueWord (s : State) (q k value : Nat) : State :=
  if (dataPathUse q).isSome then s
  else if k == 0 then writeQueueHead s q value
  else if 4 ≤ k && k ≤ 7 then writeQueueBand s q (7 - k) value
  else s

/-- QUEUE_DESCRIPTOR_WRITE: a register write in the descriptor window (R206, R207). -/
def execQueueDescriptorWrite (queue word : Nat) (value : Word) (s : State) : Host.Outcome State Fault Refusal :=
  if pdOn s 5 && queue < 0x40000 && word < 8 then .next (writeQueueWord s queue word value.toNat) else .next s

/-- A write of QUEUE_FLUSH (R196): GO flushes the named queue and clears again. -/
def writeQueueFlush (s : State) (w : Nat) : State :=
  let s := wr s QUEUE_FLUSH.QUEUE (fld w 17 0)
  if bit w 63 then flushQueue s (fld w 17 0) else s

/-- QUEUE_FLUSH: QUEUE_FLUSH.GO is set for a queue (R196). -/
def execQueueFlush (queue : Nat) (s : State) : Host.Outcome State Fault Refusal :=
  if pdOn s 5 then .next (writeQueueFlush s (2 ^ 63 + queue % 2 ^ 18)) else .next s

/-- The bands of a data-path queue of port p: one ring in band 3 at its place in the region (R190). -/
def dataPathBands (s : State) (p use : Nat) : List Band :=
  let at_ := rd s QUEUE_REGION.BASE + (match use with
    | 0 => 65536 * p
    | 1 => 524288 + 8192 * p
    | _ => 589824 + 2048 * p)
  let k := match use with
    | 0 => 16
    | 1 => 13
    | _ => 11
  [noBand, noBand, noBand, ⟨at_, k, 0, 0, 0, 0⟩]

/-- The queues of the data path set up from the configuration image (R190). -/
def setupDataPath (s : State) (uses : List Nat) : State :=
  (List.range 8).foldl (fun s p =>
    uses.foldl (fun s use =>
      let q := if use == 0 then p else 0x20000 + 2 * p + (use - 1)
      setQ s q { getQ s q with dataPath := true, bands := dataPathBands s p use, enable := use == 2 || (getQ s q).enable }) s) s

/-- A warm restart empties every queue but the shed verdict queues of the data path (R206). -/
def restartQueues (s : State) : State :=
  { s with queue.queues := s.queue.queues.map fun e =>
      if 0x20000 ≤ e.1 && e.1 < 0x20010 && e.1 % 2 == 1 then e
      else (e.1, { e.2 with bands := e.2.bands.map Band.zeroed, armed := true }) }

end Sys2Proof.Machine
end

