-- ==== Sys2Proof/Machine/Tally.lean ====
section
/-! DEFINITION. The end of a period, the close of an epoch, its tree and its signing (R340, R363 to R381). -/

namespace Sys2Proof.Machine

/-! ## Attribution at the end of a period (R361 to R365) -/

/-- Domains of an attribution class: 0 compute, 1 memory, 2 links (R361). -/
def attrDomains (c : Nat) : List Nat :=
  match c with
  | 0 => [6, 7, 8, 9, 10, 11, 12, 13]
  | 1 => [14, 15, 16, 17]
  | _ => [2, 3, 4]

/-- X of R364. -/
def attrEnergy (s : State) (c : Nat) : Nat := sumN ((attrDomains c).map fun d => s.power.dynamic.getD d 0)

/-- The static part of R361 over all domains. -/
def attrStatic (s : State) : Nat :=
  sumN s.power.energy - (attrEnergy s 0 + attrEnergy s 1 + attrEnergy s 2)

/-- The system account. -/
def systemAccount (s : State) : Nat := rd s TALLY_ACCOUNTS.SYSTEM_ACCOUNT

/-- The account of ADAPT_STEP of a slot. -/
def adaptAccount (s : State) (slot : Nat) : Nat := rd s (TALLY_ADAPT_ACCT.ACCT (slot / 4) (slot % 4))

/-- The pool raised. -/
def addPool (e : Epoch) (x : Nat) : Epoch := { e with pool := e.pool + x }

/-- A charge to a batch: shared over its admitted heads, the remainder to the pool; a batch without heads is charged to
the system account (R365). -/
def chargeBatch (s : State) (e : Epoch) (batch c x : Nat) : Epoch :=
  match s.pipe.batches.find? (·.number == batch) with
  | none => chargeAccount e (systemAccount s) c x
  | some b =>
    if b.heads.isEmpty then chargeAccount e (systemAccount s) c x
    else
      let n := b.heads.length
      addPool (b.heads.foldl (fun e h => chargeAccount e h.account c (x / n)) e) (x - n * (x / n))

/-- A charge to a job; a job that is no longer known leaves it to the pool. -/
def chargeJob (s : State) (e : Epoch) (post c x : Nat) : Epoch :=
  match jobWhere s (·.post == post) with
  | some j => modJobAcc e j fun a => { a with acc := a.acc.charge c x }
  | none => addPool e x

/-- A charge to a holder of a memory key. -/
def chargeHolder (s : State) (e : Epoch) (kind id c x : Nat) : Epoch :=
  match kind with
  | 0 => chargeBatch s e id c x
  | 1 => chargeAccount e (adaptAccount s id) c x
  | 2 => chargeAccount e (systemAccount s) c x
  | _ => chargeJob s e id c x

/-- The division of X among keys: each holder's charge made by `f`, and the rest to the pool (R364). -/
def divideKeys {α : Type} (x : Nat) (keys : List (α × Nat)) (f : Epoch → α → Nat → Epoch) (e : Epoch) : Epoch :=
  let k := sumN (keys.map (·.2))
  if k == 0 then addPool e x
  else
    let given := sumN (keys.map fun h => x * h.2 / k)
    addPool (keys.foldl (fun e h => f e h.1 (x * h.2 / k)) e) (x - given)

/-- The keys of the links: each head on its own, so a key of m heads of w bytes counts m times. -/
def linkKeys (s : State) : List ((Bool × Nat × Nat) × Nat) :=
  (s.tally.headKeys.map fun h => ((true, h.1, h.2), h.1 % 1024 * h.2)) ++
    s.tally.linkJobs.map fun j => ((false, j.1, 0), j.2)

/-- The division of the links class: a head takes the floor of its own share (R364). -/
def divideLinks (s : State) (x : Nat) (e : Epoch) : Epoch :=
  let keys := linkKeys s
  let k := sumN (keys.map (·.2))
  if k == 0 then addPool e x
  else
    let share (h : (Bool × Nat × Nat) × Nat) : Nat :=
      if h.1.1 then x * (h.1.2.1 % 1024) / k * h.1.2.2 else x * h.2 / k
    let e := keys.foldl (fun e h =>
      if h.1.1 then chargeAccount e (h.1.2.1 / 1024) 2 (share h) else chargeJob s e h.1.2.1 2 (share h)) e
    addPool e (x - sumN (keys.map share))

/-- The division of a period's energy over its holders (R364). -/
def attributePeriod (s : State) : State :=
  modEpoch s fun e =>
    let ck := (s.tally.computeKeys.map fun k => ((0, k.1), k.2)) ++ s.tally.adaptKeys.map fun k => ((1, k.1), k.2)
    let e := divideKeys (attrEnergy s 0) ck (fun e h x => chargeHolder s e h.1 h.2 0 x) e
    let e := divideKeys (attrEnergy s 1) (s.tally.memKeys.map fun k => ((k.1, k.2.1), k.2.2))
      (fun e h x => chargeHolder s e h.1 h.2 1 x) e
    let e := divideLinks s (attrEnergy s 2) e
    addPool e (attrStatic s)

/-- The keys of the period start again. -/
def clearKeys (s : State) : State :=
  { s with
    tally.headKeys := []
    tally.computeKeys := []
    tally.adaptKeys := []
    tally.memKeys := []
    tally.linkJobs := [] }

/-- Memory bulk bytes that wait: those of the operations that waiting and running jobs have still to perform (R344). -/
def memPending (s : State) : Nat := sumN (s.crown.jobs.map Job.bulkLeft)

/-- The energy of the period in the epoch in progress, with the flags of the period (R364, R373). -/
def chargePeriod (s : State) : State :=
  let s := attributePeriod s
  let s := if rdB s REGULATOR_STATUS.TELEMETRY_LOST then flagEpoch s 0x40 else s
  if calibrated s then s else flagEpoch s 0x80

/-- The period that a step cut is charged to the epoch that the step closed, as if that epoch were in progress (R369). -/
def chargeCutPeriod (s : State) : State :=
  match s.tally.frozen.getLast? with
  | none => chargePeriod s
  | some e =>
    let t := chargePeriod { s with tally.open_ := some e }
    match t.tally.open_ with
    | some e => { t with tally.open_ := s.tally.open_, tally.frozen := s.tally.frozen.dropLast ++ [e] }
    | none => { t with tally.open_ := s.tally.open_ }

/-- The bulk bytes of the period that ends: those of the period that has just passed, or of one that a step cuts. -/
def movedIn (s : State) (c : Nat) : Nat :=
  if s.power.moved.1 + 1 == periodNow s || s.power.moved.1 == periodNow s then
    (if c == 1 then s.power.moved.2.1 else s.power.moved.2.2)
  else 0

/-- PERIOD_END: the end of a 2-beat period: energies are estimated, the cap is divided and energy is attributed (R340,
R345, R364). `counts` are the activity counts of the domains. A period also ends with the last instant before a dial step
(R369); one that was cut by a step outside a schedule is told after it. BULK frames go on within the new allowance (R444). -/
def execPeriodEnd (hub links arrays fabric memory : Counts) (s : State) : Host.Outcome State Fault Refusal :=
  if dialSet s && batchNow s % 2 != 0 && s.dial.stepPhase != 2 && !s.tally.cutPeriod then .next s
  else
    let s := accrue s
    let s := divideCap (estimatePeriod s (hub ++ links ++ arrays ++ fabric ++ memory)) (movedIn s 1) (movedIn s 2) (linkPending s) (memPending s)
    let s := if s.tally.cutPeriod then chargeCutPeriod s else chargePeriod s
    let s := keepKilo (nextPeriod (clearKeys { s with tally.cutPeriod := false }))
    let s := if s.sched.frozen.isSome || s.sched.running.isNone then s else
      wr s DIAL_FREQ_STATE.PENDING_MHZ (match liveRequest s with
        | some (p, g) => fEff p g
        | none => fNow s)
    .next ((List.range 4).foldl (pump 4096) s)

/-! ## The end of an epoch (R368) -/

/-- EPOCH_CLOSE: at a dial second that is a multiple of EPOCH_S the epoch ends, and the next one starts (R368). Both instants are the
second itself, also where the command is told later in its first beat. -/
def execEpochClose (s : State) : Host.Outcome State Fault Refusal :=
  match s.tally.open_ with
  | none => .next s
  | some e =>
    let t := dialSeconds s * 1000000000
    if atSecond s && dialSeconds s % e.epochS == 0 && decide (e.startNs < t) then
      let s := endEpoch s 0 t
      .next (startEpoch s 0 t (epochSeconds s))
    else .next s

/-! ## The close (R366, R367, R370 to R374) -/

/-- A job that has a leaf in the epoch (R371). -/
def JobAcc.leaf (j : JobAcc) : Bool := j.acc.dyn != 0 || j.acc.requests != 0 || j.state != 0

/-- The job accumulators that have leaves, in the order of R371, and how many of them receive one. -/
def leafJobs (e : Epoch) : List JobAcc :=
  sortBy (fun a b => decide (a.id < b.id) || (a.id == b.id && decide (a.post ≤ b.post))) (e.jobs.filter JobAcc.leaf)

/-- The rule of an epoch (code 3 acts as 0). -/
def Epoch.ruleUsed (e : Epoch) : Nat := if e.rule == 3 then 0 else e.rule

/-- Weight of an account leaf, with the weight of its overflowing jobs (R366, R371). -/
def accountWeight (e : Epoch) (static a : Nat) (jobsOver : List JobAcc) : Nat :=
  let x := Map.getD e.accounts a Acc.zero
  let js := jobsOver.filter (·.account == a)
  match e.ruleUsed with
  | 0 => x.dyn + sumN (js.map (·.acc.dyn))
  | 1 => x.requests + x.shed + sumN (js.map (·.acc.requests))
  | _ => b2n (a == static)

/-- Weight of a job leaf (R366). -/
def jobWeight (e : Epoch) (j : JobAcc) : Nat :=
  match e.ruleUsed with
  | 0 => j.acc.dyn
  | 1 => j.acc.requests
  | _ => 0

/-- Whole grains of an amount of sub-grains. -/
def grains (x : Nat) : Nat := x / 65536

/-- The four grains of an account leaf or a job leaf: compute, memory, links, static. -/
def accGrains (a : Acc) : List Nat := [grains a.compute, grains a.memory, grains a.links, grains a.static]

/-- The four carries. -/
def accCarries (a : Acc) : List Nat := [a.compute % 65536, a.memory % 65536, a.links % 65536, a.static % 65536]

/-- Two rows added place by place. -/
def addRows (a b : List Nat) : List Nat := List.zipWith (· + ·) a b

/-- What a close has found for one account: its grains, its carries and its counts. -/
structure AccountClose where
  account : Nat
  grains : List Nat
  carries : List Nat
  requests : Nat
  shed : Nat
  jobs : Nat
  deriving DecidableEq, Repr

/-- The close of one account (R366, R367, R371). -/
def closeAccount (e : Epoch) (static p w : Nat) (leaves jobsOver : List JobAcc) (a : Nat) : AccountClose :=
  let x := Map.getD e.accounts a Acc.zero
  let share := if w == 0 then (if a == static then p else 0) else p * accountWeight e static a jobsOver / w
  let x := { x with static := x.static + share }
  let js := jobsOver.filter (·.account == a)
  { account := a
    grains := (js.map fun j => accGrains j.acc).foldl addRows (accGrains x)
    carries := (js.map fun j => accCarries j.acc).foldl addRows (accCarries x)
    requests := x.requests
    shed := x.shed
    jobs := (leaves.filter (·.account == a)).length }

/-- An account leaf (R370). -/
def accountLeaf (start : Nat) (c : AccountClose) : Nat :=
  pack [(8, 0x01), (12, c.account), (4, 0), (48, start), (48, c.grains.getD 0 0), (48, c.grains.getD 1 0),
    (48, c.grains.getD 2 0), (48, c.grains.getD 3 0), (48, c.requests), (48, c.shed), (16, satN 16 c.jobs), (136, 0)]

/-- A job leaf (R371). -/
def jobLeaf (start : Nat) (j : JobAcc) : Nat :=
  let g := accGrains j.acc
  pack [(8, 0x02), (12, j.account), (2, j.state), (2, 0), (48, start), (48, g.getD 0 0), (48, g.getD 1 0),
    (48, g.getD 2 0), (48, g.getD 3 0), (48, j.acc.requests), (32, j.id), (16, j.layer), (16, j.operator), (136, 0)]

/-- Leaf hash of R374. -/
def leafHash (leaf : Nat) : Bytes := sha256 ((0x00 : Byte) :: natBe 64 leaf)

/-- Node hash of R374. -/
def nodeHash (l r : Bytes) : Bytes := sha256 ((0x01 : Byte) :: (l ++ r))

/-- The next level of a tree. -/
def nextLevel : List Bytes → List Bytes
  | a :: b :: l => nodeHash a b :: nextLevel l
  | l => l

/-- The level `n` levels up. -/
def treeLevel : Nat → List Bytes → List Bytes
  | 0, l => l
  | n + 1, l => treeLevel n (nextLevel l)

/-- The single node of level 12. -/
def treeRoot (l : List Bytes) : Bytes := (treeLevel 12 l).getD 0 []

/-- The level-0 hashes of the job tree (R374). -/
def jobHashes (jobs : List Nat) : List Bytes :=
  jobs.map leafHash ++ List.replicate (4096 - jobs.length) (leafHash 0)

/-- The carry of an accumulator put into the next epoch. -/
def Acc.carryIn (a : Acc) (c : List Nat) : Acc :=
  { a with
    compute := a.compute + c.getD 0 0
    memory := a.memory + c.getD 1 0
    links := a.links + c.getD 2 0
    static := a.static + c.getD 3 0 }

/-- Carries put into the accumulator of an account. -/
def carryAccount (e : Epoch) (a : Nat) (c : List Nat) : Epoch :=
  if c.all (· == 0) then e else { e with accounts := Map.upd e.accounts a Acc.zero (·.carryIn c) }

/-- Carries put into the accumulator of a job, or of its account where the job has retired (R367). -/
def carryJob (e : Epoch) (j : JobAcc) : Epoch :=
  let c := accCarries j.acc
  if c.all (· == 0) then e
  else if j.state != 0 then carryAccount e j.account c
  else if e.jobs.any (·.post == j.post) then
    { e with jobs := e.jobs.map fun a => if a.post == j.post then { a with acc := a.acc.carryIn c } else a }
  else { e with jobs := e.jobs ++ [{ j with acc := Acc.zero.carryIn c }] }

/-- The epoch that follows the one being closed, changed: the next one that waits, or the one in progress. -/
def modNextEpoch (s : State) (f : Epoch → Epoch) : State :=
  match s.tally.frozen with
  | e :: rest => { s with tally.frozen := f e :: rest }
  | [] => modEpoch s f

/-- Whether the mark of R378 covers an entry. -/
def collectedEntry (s : State) (t : TallyEntry) : Bool := match s.tally.collected with
  | some q => decide (t.seq ≤ q)
  | none => false

/-- UNCOLLECTED follows the ring. -/
def showRing (s : State) : State :=
  wr s TALLY_STATUS.UNCOLLECTED ((s.tally.ring.filter fun t => !collectedEntry s t).length)

/-- An entry put into the ring; the oldest of 64 is overwritten (R378). -/
def pushEntry (s : State) (t : TallyEntry) : State :=
  match s.tally.ring with
  | old :: rest =>
    if s.tally.ring.length < 64 then showRing { s with tally.ring := s.tally.ring ++ [t] }
    else
      let lost := !collectedEntry s old
      let s := showRing { s with tally.ring := rest ++ [t] }
      if lost then raise (bump s TALLY_COUNTS.LOST 1) TALLY_EVENTS.TALLY_LOST (old.seq % 2 ^ 32) else s
  | [] => showRing { s with tally.ring := [t] }

/-- The totals of a root record over its leaves. -/
structure Totals where
  compute : Nat
  memory : Nat
  links : Nat
  static : Nat
  requests : Nat
  shed : Nat
  deriving DecidableEq, Repr

/-- The root record (R372). -/
def rootRecord (s : State) (e : Epoch) (jobs jobsOver flags carry : Nat) (t : Totals) (acctRoot jobRoot : Bytes) : Bytes :=
  natBe 1 0x03 ++ natBe 1 0x01 ++ natBe 2 flags ++ natBe 1 e.dialState ++ natBe 1 e.ruleUsed ++ natBe 2 e.epochS ++
  natBe 4 (rd s TALLY_STATUS.CHAIN) ++ natBe 2 jobs ++ natBe 2 0 ++ natBe 8 s.tally.seq ++
  natBe 6 (e.startNs / 1000000000) ++ natBe 4 (e.startNs % 1000000000) ++
  natBe 6 (e.endNs / 1000000000) ++ natBe 4 (e.endNs % 1000000000) ++ natBe 8 (rd s DIAL_SCHEDULE_ID.ID) ++
  natBe 8 t.compute ++ natBe 8 t.memory ++ natBe 8 t.links ++ natBe 8 t.static ++ natBe 8 t.requests ++ natBe 8 t.shed ++
  natBe 4 jobsOver ++ natBe 4 carry ++ acctRoot ++ jobRoot ++ s.tally.prevHash ++ s.secure.keyId ++ natBe 20 0

/-- The last unit of a close: the leaves, the root record and its place in the ring, and the carries of the next epoch
(R366, R367, R370 to R374, R377, R378). -/
def finishClose (s : State) (e : Epoch) : State :=
  let static := rd s TALLY_ACCOUNTS.STATIC_ACCOUNT
  let all := leafJobs e
  let kept := all.take 4096
  let jobsOver := all.drop 4096
  let p := e.pool + s.tally.carry
  let accts := List.range 4096
  let w := sumN (accts.map fun a => accountWeight e static a jobsOver) + sumN (kept.map (jobWeight e))
  let closes := accts.map (closeAccount e static p w kept jobsOver)
  let jobs := kept.map fun j =>
    { j with acc := { j.acc with static := j.acc.static + (if w == 0 then 0 else p * jobWeight e j / w) } }
  let given := if w == 0 then p
    else sumN (accts.map fun a => p * accountWeight e static a jobsOver / w) + sumN (kept.map fun j => p * jobWeight e j / w)
  let start := e.startNs / 1000000000
  let aLeaves := closes.map (accountLeaf start)
  let jLeaves := jobs.map (jobLeaf start)
  let flags := e.flags ||| (if jobsOver.isEmpty then 0 else 0x08)
  let rows := (closes.map (·.grains) ++ jobs.map fun j => accGrains j.acc).foldl addRows [0, 0, 0, 0]
  let t : Totals := ⟨rows.getD 0 0, rows.getD 1 0, rows.getD 2 0, rows.getD 3 0, sumN (closes.map (·.requests)),
    sumN (closes.map (·.shed))⟩
  let root := rootRecord s e jobs.length jobsOver.length flags (p - given) t (treeRoot (aLeaves.map leafHash))
    (treeRoot (jobHashes jLeaves))
  let seq := s.tally.seq
  let entry : TallyEntry := {
    chain := rd s TALLY_STATUS.CHAIN
    seq := seq
    root := root
    signature := none
    accounts := (aLeaves.zipIdx.filter fun l => l.1 != accountLeaf start ⟨l.2, [], [], 0, 0, 0⟩).map fun l => (l.2, l.1)
    epochStart := start
    jobs := jLeaves
    endNs := e.endNs
    lateMarked := e.late
    closedBeat := batchNow s }
  let s := { s with tally.frozen := s.tally.frozen.drop 1, tally.levelsDone := 0 }
  let s := modNextEpoch s fun n =>
    let n := closes.foldl (fun n c => carryAccount n c.account c.carries) n
    let n := jobs.foldl carryJob n
    (e.jobs.filter fun j => !j.leaf).foldl carryJob n
  let s := { s with tally.carry := p - given, tally.seq := seq + 1, tally.prevHash := sha256 root }
  let s := wr s TALLY_LAST_SEQ.SEQ seq
  let s := pushEntry s entry
  let s := if jobsOver.isEmpty then s else
    raise (bump s TALLY_COUNTS.JOB_OVERFLOW 1) TALLY_EVENTS.JOB_OVERFLOW (seq % 2 ^ 32)
  let s := if s.power.hubTrip then raise (bump s TALLY_COUNTS.UNSIGNED 1) TALLY_EVENTS.UNSIGNED (seq % 2 ^ 32) else s
  showClosing s

/-- Units of a close: the leaf level of each tree, then 12 levels of each (R374). -/
def closeUnits : Nat := 26

/-- Cycles of CCLK of unit k: 4,096 for a leaf level; the higher levels take one cycle for each node, and the root one
more, so that a close takes 16,384 in all (R374; log 17). -/
def unitCycles (k : Nat) : Nat :=
  if k < 2 then 4096 else if k < 24 then 2 ^ (12 - k / 2) else 2

/-- An activity that schedules run under their budgets may do a unit: outside a schedule always (R521), inside one while
it is not held. -/
def unitAllowed (s : State) (kind : Nat) : Bool := !scheduleRuns s || mayRun s kind 0

/-- TALLY_CLOSE: one unit of the close of the oldest ended epoch (R374, R521). -/
def execTallyClose (s : State) : Host.Outcome State Fault Refusal :=
  match s.tally.frozen with
  | [] => .next s
  | e :: _ =>
    if !unitAllowed s 7 then .next s
    else
      let k := s.tally.levelsDone
      let s := useKind s 7 0 (unitCycles k)
      if k + 1 < closeUnits then .next { s with tally.levelsDone := k + 1 }
      else .next (finishClose s e)

/-- SIGN_LATE: the oldest root that is not signed within 50,000,000 dial ns of the end of its epoch is marked (R376). -/
def execSignLate (s : State) : Host.Outcome State Fault Refusal :=
  if s.power.hubTrip then .next s
  else
    let due (endNs : Nat) : Bool := decide (endNs + 50000000 < s.dial.time)
    let told (s : State) (q : Nat) : State :=
      raise (bump s TALLY_COUNTS.SIGN_LATE 1) TALLY_EVENTS.SIGN_LATE (q % 2 ^ 32)
    match s.tally.ring.find? fun t => t.signature.isNone && !t.lateMarked && due t.endNs with
    | some t =>
      .next (told { s with tally.ring := s.tally.ring.map fun u => if u.seq == t.seq then { u with lateMarked := true } else u }
        t.seq)
    | none =>
      match s.tally.frozen.zipIdx.find? fun e => !e.1.late && due e.1.endNs with
      | some (_, i) =>
        .next (told { s with tally.frozen := modAt s.tally.frozen i fun e => { e with late := true } } (s.tally.seq + i))
      | none => .next s

/-- Software marks entries collected (R378). -/
def collectTallies (s : State) (seq : Nat) : State :=
  let s := wr s TALLY_COLLECTED.SEQ seq
  showRing { s with tally.collected := some (match s.tally.collected with
    | some q => max q seq
    | none => seq) }

/-- TALLY_COLLECTED: a write of the register of that name (R378). -/
def execTallyCollected (seq : Word) (s : State) : Host.Outcome State Fault Refusal := .next (collectTallies s seq.toNat)

/-- An account's live figures are latched (R381). -/
def selectAccount (s : State) (account : Nat) : State :=
  let a := match s.tally.open_ with
    | some e => Map.getD e.accounts (account % 4096) Acc.zero
    | none => Acc.zero
  let s := wr (wr s TALLY_SELECT.ACCOUNT account) TALLY_LIVE_REQ.REQUESTS a.requests
  (accGrains a).zipIdx.foldl (fun s g => wr s (TALLY_LIVE.GRAINS g.2) g.1) s

/-- TALLY_SELECT: a write of the register of that name (R381). -/
def execTallySelect (account : Nat) (s : State) : Host.Outcome State Fault Refusal := .next (selectAccount s account)

end Sys2Proof.Machine
end

