-- ==== Sys2Proof/Machine/Start.lean ====
section
/-! DEFINITION. The choice of a schedule, START, the beginning of admission, and the lanes that follow the shape (R88, R399,
R401, R403, R476, R490). -/

namespace Sys2Proof.Machine

/-! ## The choice of a schedule (R401) -/

/-- End of the highest HBM region of the configuration image. -/
def highestHbm (s : State) : Nat := maxN 0 ((s.secure.regions.filter (·.code != 0x0C)).map fun r => r.base + r.size)

/-- The bits of a shape descriptor that stand for units: die, cluster and stack, channel and lane masks; the others are reserved (R13,
R41). -/
def unitMask : Nat := (2 ^ 376 - 2 ^ 372) + (2 ^ 368 - 2 ^ 328) + (2 ^ 320 - 2 ^ 24)

/-- The units of a shape descriptor (R41). -/
def shapeUnits (shape : Nat) : Nat := shape &&& unitMask

/-- A schedule meets R401. -/
def scheduleFits (s : State) (c : Schedule) : Bool :=
  shapeUnits c.shape &&& shapeUnits s.sched.workShape == shapeUnits c.shape &&
    decide (highestHbm s ≤ channelCount c.shape * 1610612736)

/-- The schedules in the order of R401: those of SHAPE_ORDER, then those loaded. -/
def scheduleOrder (s : State) : List Schedule :=
  (s.sched.order.filterMap fun i => s.sched.shapeSet.find? (·.index == i)) ++ s.sched.loaded

/-- The schedule that R401 chooses. -/
def chooseSchedule (s : State) : Option Schedule := (scheduleOrder s).find? (scheduleFits s)

/-! ## Lanes (R88, R438) -/

/-- The lanes of a port after a change of shape: a port whose choice stays goes on; any other must lock anew (log 114). -/
def refitPort (s : State) (p : Nat) : State :=
  let same := match portLanes s p with
    | some (b, n) => rd s (HEADPORT_STATUS.LANE_BASE p) == b && rd s (HEADPORT_STATUS.ACTIVE_LANES p) == laneCode n
    | none => false
  if same then s else showLanes (portDown s p) p

/-- The lanes of a link after a change of shape, as for a port. -/
def refitLink (s : State) (j : Nat) : State :=
  let same := match linkLanes s j with
    | some (b, n) => rd s (PEER_LINK_STATUS.LANES j) == n && (getLink s j).base == b
    | none => false
  if same then s else linkLost s j

/-- All lanes after a change of shape. -/
def refitLanes (s : State) : State := (List.range 4).foldl refitLink ((List.range 8).foldl refitPort s)

/-! ## START (R403) -/

/-- CLASS of SECURE_BOOT_STATUS: 0 running, 1 recovery, 2 waiting. -/
def bootClass (s : State) : Nat := rd s SECURE_BOOT_STATUS.CLASS

/-- Every REQUIRED slot holds a STAGED generation. -/
def requiredStaged (s : State) : Bool :=
  s.secure.slots.zipIdx.all fun x => !x.1.2 || (getSlot s x.2).staging == 2

/-- START is decided (R403): it has no effect outside the waiting class. -/
def decideStart (s : State) : State :=
  let s := wrB s SECURE_CTRL.START false
  if bootClass s != 2 then s
  else match chooseSchedule s with
    | none => raise s SECURE_EVENTS.START_REFUSED 0
    | some c =>
      if requiredStaged s then
        let s := wr s SECURE_BOOT_STATUS.CLASS 0
        { s with sched.chosen := some c, secure.startAt := some (dialSeconds s + 1) }
      else raise s SECURE_EVENTS.START_REFUSED 0

/-- START: SECURE_CTRL.START is written (R403). -/
def execStart (s : State) : Host.Outcome State Fault Refusal := .next (decideStart (wrB s SECURE_CTRL.START true))

/-! ## Admission begins (R399, R403, R476) -/

/-- The registers of the running schedule (R85). -/
def showSchedule (s : State) (c : Schedule) : State :=
  [ (DIAL_SCHEDULE_ID.ID, c.id), (DIAL_SCHEDULE.ACTIVITY_COUNT, c.acts.length), (DIAL_SCHEDULE.DROOP_MARGIN_PPM, c.margin),
    (DIAL_SCHEDULE.FMIN_MHZ, c.fmin), (DIAL_SCHEDULE.BATCH_CAPACITY, c.capacity), (DIAL_SCHEDULE.LATENCY_BEATS, c.latency),
    (DIAL_SCHEDULE.ROUND_BEATS, c.n) ].foldl (fun s f => wr s f.1 f.2) s

/-- The staged generation of a slot becomes active (R399): it counts as an ACTIVATE for the anchor (R315). -/
def activateStaged (s : State) (slot : Nat) : State :=
  let x := getSlot s slot
  if x.swap.isNone && x.staging == 2 && x.active.isNone then putSlot s slot (·.swapped 3) else s

/-- A swap that was recorded before admission takes effect as it begins (R310, R399). -/
def admissionSwap (s : State) (slot : Nat) : State := match (getSlot s slot).swap with
  | some (op, _) => takeSwap s slot op
  | none => s

/-- The cause of a slot's GEN record at a warm restart: 5 where the restart has emptied the slot and nothing fills it, else 4 (R461,
R462; log 174: DEDUCED). -/
def restartCause (x : SlotSt) : Nat := if x.wasActive && x.active.isNone then 5 else 4

/-- The GEN records of a warm restart, before those of any swap (R462). -/
def restartGens (s : State) : State :=
  if !s.sched.genDue then s
  else
    let s := (List.range 16).foldl (fun s i => traceGen s i (getSlot s i).active (batchNow s) (restartCause (getSlot s i))) s
    { s with sched.genDue := false, slots := s.slots.map fun x => { x with wasActive := false } }

/-- The grants of the first round. No beat F − L of it lies under the schedule: they are decided at its first beat with f_pend = f_now,
and raise no SHED_SET_CHANGED, since there is no decision before them (R75; log 155: DESIGN CHOICE). An activity that they shed has
a shed round (R85). -/
def firstGrants (s : State) (c : Schedule) : State :=
  let d := decideGrants c (fNow s) (fNow s)
  let s := { s with
    sched.acts := List.zipWith ActRun.next c.acts d.1
    sched.nextGrants := d.1
    sched.decided := some d
    sched.capW := effectiveCap s
    sched.capNext := effectiveCap s }
  let s := d.1.zipIdx.foldl (fun s g =>
    let s := wr s (DIAL_ACT_USE.GRANTED g.2) g.1.1
    if g.1.2 || g.1.1 == 0 then bump s (DIAL_ACT_COUNT.SHED_ROUNDS g.2) 1 else s) s
  let s := wr s DIAL_SHED_MASK.SHED (ofBits ((d.1.zipIdx.filter fun g => g.1.2 || g.1.1 == 0).map (·.2)))
  wr s DIAL_ADMISSION.CAPACITY d.2

/-- What the first round of a schedule starts from: its pair and its array supply, the mode in force, its rate judged, and sums of its
own (R338, R348, R358, R496). -/
def firstRound (s : State) (c : Schedule) : State :=
  let s := settleSupply { s with
    power.fixedNext := rdB s REGULATOR_CTRL.FIXED_FREQ
    power.fixedPointNext := rd s REGULATOR_CTRL.FIXED_POINT
    power.fixedPointNow := rd s REGULATOR_CTRL.FIXED_POINT
    power.roundEnergy := 0
    power.roundPeriods := 0
    power.stretched := [] }
  judgeRate (wrB (showPoint s) REGULATOR_STATUS.FIXED_ACTIVE s.power.fixedNext) c

/-- The chosen schedule starts at the current beat, and admission begins (R399, R476). -/
def startSchedule (s : State) (c : Schedule) : State :=
  let s := { s with
    sched.running := some c
    sched.chosen := none
    sched.admitting := true
    sched.restart := 0
    secure.startAt := none
    pins.admitN := false }
  let s := wrB (showSchedule s c) GLOBAL_STATUS.ADMITTING true
  let s := firstGrants s c
  let s := refitLanes (applyDomains (enableDataPath s true) (List.range 20))
  let s := firstRound s c
  let s := (List.range 16).foldl admissionSwap (restartGens ((List.range 16).foldl activateStaged s))
  let s := openBatch { s with pipe.batches := s.pipe.batches.filter fun b => b.number != batchNow s }
  if s.sched.again then requestRestart { s with sched.again := false } else s

/-- ms between two values of `now`. -/
def msSince (s : State) (t : Nat) : Nat := (s.dial.now - t) / 1000000

/-- The time at which admission may begin, and whether the current beat is it: after a warm restart the first round boundary of
the chosen schedule after readiness, after a START the named dial second or a later one, else a dial second with the device ready, and the dial
locked where the configuration asks for it (R399, R403, R476). -/
def admissionDue (s : State) (c : Schedule) : Bool :=
  if s.sched.restart == 4 then beatInSecond s % max 1 c.n == 0 && decide (s.sched.readyBeat ≤ batchNow s)
  else match s.secure.startAt with
    | some t => atSecond s && decide (t ≤ dialSeconds s)
    | none => atSecond s && decide (rd s SECURE_BOOT_TIME.READY_MS ≤ msSince s s.tally.restartNow) &&
        (!bit s.secure.bootFlags 0 || dialState s == 2)

/-- The next beat at which admission might begin. -/
def admissionBeat (s : State) (c : Schedule) : Nat :=
  if s.sched.restart == 4 then batchNow s + (max 1 c.n - beatInSecond s % max 1 c.n) else nextSecond s

/-- Admission has begun: its time and, but after a warm restart, its event (R399, R411). The device is ready then, after a START too
(R399, R433; log 37). -/
def announceAdmission (s : State) (restart : Bool) : State :=
  let s := wr s GLOBAL_STATUS.READY 1
  let s := wr s SECURE_BOOT_TIME.ADMIT_MS (msSince s s.tally.restartNow)
  if restart then s else raise s SECURE_EVENTS.BOOT_DONE 0

/-- ADMISSION_BEGIN: the chosen schedule starts and admission begins (R399, R403, R476). No schedule runs while a trip is latched
(R353). -/
def execAdmissionBegin (s : State) : Host.Outcome State Fault Refusal :=
  match s.sched.chosen with
  | none => .next s
  | some c =>
    if !(rdB s GLOBAL_STATUS.READY || s.secure.startAt.isSome) || s.sched.running.isSome || !dialSet s || rdB s REGULATOR_TRIP.LATCHED ||
      s.sched.restart == 2 || s.sched.restart == 3 then .next s
    else
      let s := if admissionDue s c then s else advanceTo s (admissionBeat s c)
      if !admissionDue s c then .next s
      else
        let restart := s.sched.restart == 4
        .next (announceAdmission (startSchedule s c) restart)

/-! ## Signatures (R375 to R377, R408, R521) -/

/-- The key bytes of the attestation key pair (R391). -/
def attestKey (s : State) : Bytes := hkdf (List.replicate 32 0) s.secure.secret (ascii "CFN attest v1") 48

/-- SIGN may sign now: its grant is unused in the round and has room for a whole signature (R376), or no schedule runs (R521). -/
def signAllowed (s : State) : Bool :=
  !scheduleRuns s || (match findAct s 8 0 with
    | some (_, r) => mayRun s 8 0 && r.used == 0 && decide (30000 ≤ r.granted)
    | none => false)

/-- SIGN has the cycles of a whole signature left in the round (R408), or no schedule runs (R521). -/
def signRoom (s : State) : Bool :=
  !scheduleRuns s || (match findAct s 8 0 with
    | some (_, r) => mayRun s 8 0 && decide (r.used + 30000 ≤ r.granted)
    | none => false)

/-- First beat of the round that runs. -/
def roundStart (s : State) : Nat := match roundBeats s with
  | some n => batchNow s - beatInSecond s % max 1 n
  | none => batchNow s

/-- A root may be signed in this round: its close ended before the round began (R376), or no schedule runs (R521). -/
def rootDue (s : State) (t : TallyEntry) : Bool := !scheduleRuns s || decide (t.closedBeat < roundStart s)

/-- A root record is signed (R375, R381). -/
def signRoot (s : State) (t : TallyEntry) : State :=
  let sig := slhFast.sign (SlhKey.ofBytes (attestKey s)) (ascii "CFN-TALLY") t.root
  let s := { s with tally.ring := s.tally.ring.map fun u => if u.seq == t.seq then { u with signature := some sig } else u }
  let s := wr (wr s TALLY_LAST_SIGNED.SEQ t.seq) TALLY_SIGN_TIME.LAST_US (satN 32 ((s.dial.time - t.endNs) / 1000))
  raise (showClosing s) TALLY_EVENTS.SIGNED (t.seq % 2 ^ 32)

end Sys2Proof.Machine
end

