-- ==== Sys2Proof/Machine/RegWrite.lean ====
section
/-! DEFINITION. Register operations: a read and a write of an address of the control space, with what the chapters give single
registers (R15, R16, R333, R431, R436). -/

namespace Sys2Proof.Machine

/-- The power domain of the block that holds an address is on (R27, R333). The registers of a head port lie with the port. Where R27
gives a register block to several domains, a write is ignored only while all of them are off: SECURE and TALLY have a block in PD0,
which is never off, and the shared registers of HEADPORT lie in PD2 and PD3 (log 156: DESIGN CHOICE). -/
def blockOn (s : State) (a : Nat) : Bool :=
  if inDescriptors a then pdOn s 5
  else match blockOf a with
    | 2 =>
      if a < 0x20100 then pdOn s 2 || pdOn s 3
      else pdOn s (portDomain (if a < 0x20400 then (a - 0x20100) / 64 else (a - 0x20400) / 128))
    | 3 => pdOn s 5
    | 4 => pdOn s 5
    | 5 => pdOn s 5
    | 8 => true
    | 9 => true
    | 1 => true
    | 10 => true
    | 12 => pdOn s 4
    | 13 => pdOn s 19
    | _ => pdOn s 1

/-- CROWN_CTRL and the address registers of the management port (R436). -/
def netRegs : List Nat :=
  [CROWN_CTRL.LOCK.addr, CROWN_MAC.ADDRESS.addr, CROWN_IPV4.ADDRESS.addr, CROWN_IPV4_GW.ADDRESS.addr,
   CROWN_IPV6_HI.ADDRESS.addr, CROWN_IPV6_LO.ADDRESS.addr]

/-- A write of CROWN_CTRL or of an address register: one that changes a value closes every session first (R436). -/
def writeNet (s : State) (a value : Nat) : State :=
  let t := writeFields s a value
  if (fieldsAt a).any fun f => f != CROWN_CTRL.LOCK && rd t f != rd s f then writeFields (closeAllSessions s) a value else t

/-- A write of FRONT_PART_A: heads of the current beat keep the values in force (R127, R151). -/
def writePartition (s : State) (a value : Nat) : State :=
  let old := (fieldsAt a).map fun f => (f.key, inForce s f)
  let s := writeFields s a value
  if dialSet s then { s with front.partNext := old.foldl (fun m o => Map.set m o.1 o.2) s.front.partNext } else s

/-- A software write of the word at an address whose block is powered. -/
def writeRegisterOn (s : State) (a value : Nat) : State :=
  if inDescriptors a then writeQueueWord s ((a - 0x100000000) / 64) (a % 64 / 8) value
  else if netRegs.contains a then writeNet s a value
  else if 0x30100 ≤ a && a < 0x30500 && a % 16 == 0 then writePartition s a value
  else if 0x20100 ≤ a && a < 0x20300 && a % 64 == 0 then writePortCfg s ((a - 0x20100) / 64) value
  else match a with
    | 0x8 =>
      let s := writeFields s a value
      if bit value 0 then requestRestart s else s
    | 0x30018 => writeRuleCtrl s value
    | 0x40030 => writeRebuild s value
    | 0x50020 => writeQueueFlush s value
    | 0x61010 => writeQControl s value
    | 0x61020 => selectTensor s (fld value (ARRAY_Q_SELECT.SLOT.lsb + 3) ARRAY_Q_SELECT.SLOT.lsb)
        (fld value (ARRAY_Q_SELECT.TENSOR.lsb + 7) ARRAY_Q_SELECT.TENSOR.lsb)
    | 0x70018 => writeSlotCommand s value
    | 0x80000 => writeRegulatorCtrl s a value
    | 0x80018 => writeCap s a value
    | 0x90058 => collectTallies s value
    | 0x90070 => selectAccount s (fld value 11 0)
    | 0xA0000 =>
      let s := writeFields s a value
      if bit value SECURE_CTRL.START.lsb then decideStart s else s
    | 0xC0038 => writeDistCmd s value
    | 0xD0018 => writeSampleCtrl s value
    | 0xD0030 => writeTraceCtrl s value
    | 0xD0048 => writeMark s value
    | 0xD0050 => writeHangCfg s value
    | 0xE0000 => writeLogbookCtrl s value
    | _ => writeFields s a value

/-- A software write of the word at an address; it is ignored while the block's domain is off (R333). -/
def writeRegister (s : State) (a value : Nat) : State := if blockOn s a then writeRegisterOn s a value else s

/-- The value of the word at an address; a read of DIAL_NOW_SEC latches (R83). -/
def readRegister (s : State) (a : Nat) : State × Nat :=
  if inDescriptors a then (s, queueWord s ((a - 0x100000000) / 64) (a % 64 / 8))
  else if a == DIAL_NOW_SEC.SECONDS.addr then
    let s := latchDial s
    (s, rawReg s a)
  else if 0xD1000 ≤ a && a < 0xD2000 then (s, windowWord s ((a - 0xD1000) / 8))
  else if 0xD0200 ≤ a && a < 0xD0200 + 8 * 248 && a % 8 == 0 then (s, counterValue s ((a - 0xD0200) / 8))
  else (s, rawReg s a)

/-- WARM_RESTART: GLOBAL_CTRL.WARM_RESTART is written (R433). -/
def execWarmRestart (s : State) : Host.Outcome State Fault Refusal :=
  .next (writeRegister s GLOBAL_CTRL.WARM_RESTART.addr 1)

/-- REGISTER_WRITE: a software write of a register (R15). -/
def execRegisterWrite (address : Nat) (value : Word) (s : State) : Host.Outcome State Fault Refusal :=
  .next (if goodAddress address then writeRegister s address value.toNat else s)

/-- CROWN_CTRL_WRITE: a write of CROWN_CTRL or of an address register of the management port (R436). -/
def execCrownCtrlWrite (address : Nat) (value : Word) (s : State) : Host.Outcome State Fault Refusal :=
  .next (if netRegs.contains address then writeRegister s address value.toNat else s)

end Sys2Proof.Machine
end

