-- ==== Sys2Proof/Machine/Crown.lean ====
section
/-! DEFINITION. Crown sessions and the direct operations (R201, R407, R408, R415 to R425, R427). -/

namespace Sys2Proof.Machine

/-! ## Sessions (R415 to R418) -/

/-- MAX_SESSIONS within its limits (R436). -/
def maxSessions (s : State) : Nat := max 1 (min 16 (rd s CROWN_CTRL.MAX_SESSIONS))

/-- Operator, partition and ownership that a client key gives (R406, R416); in the recovery class only the owner's. -/
def sessionRights (s : State) (key : Bytes) : Option (Nat × Nat × Bool) :=
  if key == s.secure.ownerKey && !key.isEmpty then some (0, 0, true)
  else if bootClass s == 1 then none
  else (s.secure.operators.find? fun o => o.1 == sha256 key).map fun o => (o.2.1, o.2.2, false)

/-- A handshake comes to the client's key (R415): TLS_AES_256_GCM_SHA384 or TLS_AES_128_GCM_SHA256 and the group ML-KEM-768 are offered, and
the client presents a raw public key; a mere resumption is no handshake here. Early data that is offered is not read, and neither
post-handshake authentication nor a further exchange of keys is ever asked for. -/
def handshakeOk (h : Handshake) : Bool :=
  (h.suites.contains 0x1302 || h.suites.contains 0x1301) && h.mlKem768 && h.rawKey && !h.resumes

/-- The rights of the key that a client presents: a key of a kind other than SLH-DSA-SHA2-128s and SLH-DSA-SHA2-128f has none (R415,
R416). -/
def presentedRights (s : State) (key : Bytes) (h : Handshake) : Option (Nat × Nat × Bool) :=
  if h.slhDsa then sessionRights s key else none

/-- SESSION_OPEN: a connection completes its handshake, or is refused or closed (R415 to R417). A key without rights is counted (R416); a
handshake that ends otherwise, one whose messages do not verify among them, is not (log 120). The session takes the lowest free index
(log 29). -/
def execSessionOpen (clientKey : Bytes) (handshake : Handshake) (s : State) : Host.Outcome State Fault Refusal :=
  if !pdOn s 1 then .next s
  else if maxSessions s ≤ s.crown.sessions.length || !handshakeOk handshake then .next (emit s .closeConnection)
  else match presentedRights s clientKey handshake with
    | none => .next (emit (raise (bump s CROWN_COUNTS.AUTH_FAILED 1) CROWN_EVENTS.AUTH_FAILED 0) .closeConnection)
    | some (operator, partition, owner) =>
      if !handshake.verified then .next (emit s .closeConnection)
      else
      let i := lowestFree 16 0 (s.crown.sessions.map (·.index))
      let s := { s with
        crown.sessions := s.crown.sessions ++ [⟨i, operator, partition, owner, s.crown.nextSerial⟩]
        crown.nextSerial := s.crown.nextSerial + 1 }
      .next (raise (showCrown s) CROWN_EVENTS.SESSION_CHANGED i)

/-- SESSION_CLOSE: a session closes (R417). -/
def execSessionClose (session : Nat) (s : State) : Host.Outcome State Fault Refusal :=
  match findSession s session with
  | none => .next s
  | some x => .next (closeSession s x)

/-! ## Rights (R407, R420, R423) -/

/-- Codes of R420. -/
def knownOp (op : Nat) : Bool := (1 ≤ op && op ≤ 8) || op == 0x20 || op == 0x22 || op == 0x23

/-- Operations marked "read" in R420. -/
def readOp (op : Nat) : Bool := op == 1 || op == 2 || (5 ≤ op && op ≤ 8) || op == 0x23

/-- The accounts of a partition: first and last (R151). -/
def accountRange (s : State) (n : Nat) : Nat × Nat :=
  let base := rd s (FRONT_PART_B.ACCOUNT_BASE n)
  (base, min 4095 (base + max 1 (rd s (FRONT_PART_B.ACCOUNT_SPAN n)) - 1))

/-- A partition may name accounts `lo` to `hi`. -/
def accountsOk (s : State) (n lo hi : Nat) : Bool :=
  privileged s n || (decide ((accountRange s n).1 ≤ lo) && decide (hi ≤ (accountRange s n).2))

/-- An operation of a job: KIND, SUB, TARGET and data. -/
abbrev JobOp := Nat × Nat × Nat × Bytes

/-- A rule from its 144 bytes; reserved bits, that of its argument among them, are ignored and read as zero (R13, R108, R130). -/
def ruleOfBytes (b : Bytes) : Rule := ⟨beAt b 0 64, beAt b 64 64, putFld (putFld (beAt b 128 16) 98 98 0) 34 0 0⟩

/-- The 144 bytes of a rule. -/
def Rule.bytes (r : Rule) : Bytes := natBe 64 r.value ++ natBe 64 r.mask ++ natBe 16 r.result

/-- The rule in force at an index; one that does not exist is zero. -/
def ruleAt (s : State) (i : Nat) : Rule := Map.getD s.front.rules i ⟨0, 0, 0⟩

/-- A rule counts or meters. -/
def Rule.counts (r : Rule) : Bool := bit r.result 86 || bit r.result 65

/-- An operation of a job is within the rights of a partition (R407, R423). -/
def opAllowed (s : State) (n : Nat) (o : JobOp) : Bool :=
  match o.1 with
  | 0x02 =>
    let r := ruleOfBytes o.2.2.2
    n == 0 || (r.owner == n && (privileged s n || !r.counts))
  | 0x03 => n == 0 || (ruleAt s o.2.2.1).owner == n
  | 0x04 => privileged s n
  | 0x05 => privileged s n
  | 0x06 => privileged s n
  | 0x08 => true
  | 0x0C => privileged s n
  | _ => n == 0

/-! ## The payload of a job (R423) -/

/-- The job header. -/
structure JobHdr where
  queue : Nat
  band : Nat
  continue_ : Bool
  account : Nat
  count : Nat
  deriving DecidableEq, Repr

def parseJobHdr (b : Bytes) : JobHdr :=
  let w := beAt b 0 32
  { queue := fld w 255 238
    band := fld w 237 236
    continue_ := bit w 235
    account := fld w 231 220
    count := fld w 219 204 }

/-- `n` operation records from a string that holds exactly these. -/
def parseJobOps : Nat → Bytes → Option (List JobOp)
  | 0, b => if b.isEmpty then some [] else none
  | n + 1, b =>
    if b.length < 16 then none
    else
      let h := beAt b 0 16
      let bytes := fld h 47 16
      let size := 16 + ceilDiv bytes 8 * 8
      if b.length < size then none
      else (parseJobOps n (b.drop size)).map fun l => (fld h 127 120, fld h 119 112, fld h 111 48, slice b 16 bytes) :: l

/-- Bytes of data of a TABLE operation (R423); the data of WRITE_STATE is the slot descriptor, then the block (log 31). -/
def tableData (s : State) (sub target : Nat) : Nat :=
  (if bit target 58 then 40 else 0) +
    (match sub with
      | 2 => if bit target 63 then 64 else 512
      | 3 => if bit target 63 then 64 else 512
      | 8 => 16 + (if bit target 63 then 0 else stateBytes s (fld target 62 59))
      | _ => 0)

/-- An operation matches the layout and the limits of its kind (R423). -/
def opLayoutOk (s : State) (o : JobOp) : Bool :=
  let target := o.2.2.1
  let n := o.2.2.2.length
  match o.1 with
  | 0x01 => decide (1 ≤ o.2.1) && decide (o.2.1 ≤ 8) && n == tableData s o.2.1 target
  | 0x02 => decide (target < 65536) && n == 144
  | 0x03 => decide (target < 65536) && n == 0
  | 0x04 => decide (target < 65536) && n == 32
  | 0x05 => decide (target < 65536) && n == 0
  | 0x06 => decide (1 ≤ fld target 12 0) && decide (fld target 12 0 ≤ 4096) &&
      decide (fld target 51 32 + fld target 12 0 ≤ 1048576) && n == 0
  | 0x07 => decide (target < 64) && n == 32
  | 0x08 => decide (target < 64) && n == 0
  | 0x09 => decide (target < 16) && n % 5 == 0 && decide (5 ≤ n) && decide (n ≤ 81920)
  | 0x0A => decide (1 ≤ n) && decide (n ≤ 1048576)
  | 0x0B => decide (1 ≤ n) && decide (n ≤ 1048576)
  | 0x0C => n == 0
  | _ => false

/-- A JOB_POST payload taken apart; none where it does not match R423. -/
def parseJob (s : State) (payload : Bytes) : Option (JobHdr × List JobOp) :=
  let h := parseJobHdr payload
  if payload.length < 32 || 2097152 < payload.length || h.count == 0 || 4096 < h.count then none
  else match parseJobOps h.count (payload.drop 32) with
    | none => none
    | some ops => if ops.all (opLayoutOk s) then some (h, ops) else none

/-- Every queue that a CAPTURE names is a head-hold or verdict queue outside the data path (R424, R428). -/
def captureQueuesOk (o : JobOp) : Bool :=
  o.1 != 0x0C ||
    (let h := fld o.2.2.1 35 18
     let v := fld o.2.2.1 17 0
     queueClass h == 0 && queueClass v == 1 && (dataPathUse h).isNone && (dataPathUse v).isNone)

/-! ## Direct operations -/

/-- What a request is answered: its status and payload, or nothing yet. -/
abbrev Reply := Option (Nat × Bytes)

/-- A reply of a status alone. -/
def Reply.of (status : Nat) : Reply := some (status, [])

/-- The request comes within the rights of the partition that a session acts for; the rights of a relayed request were judged
before (R418). A payload that does not match its operation is not judged here. -/
def rightsOk (s : State) (partition : Option Nat) (op : Nat) (payload : Bytes) : Bool := match partition with
  | none => true
  | some n => match op with
    | 0x02 => privileged s n || ((List.range (beAt payload 8 8)).all fun i =>
        let a := beAt payload 0 8 + 8 * i
        decide (a < 0xD0000) || decide (0xF0000 ≤ a))
    | 0x03 => n == 0
    | 0x04 => privileged s n
    | 0x06 => beAt payload 0 1 != 0 ||
        accountsOk s n (beAt payload 2 2) (beAt payload 2 2 + beAt payload 4 2 - 1)
    | 0x07 => beAt payload 0 1 != 0 || accountsOk s n (beAt payload 2 2) (beAt payload 2 2)
    | 0x20 =>
      let h := parseJobHdr payload
      ((parseJobOps h.count (payload.drop 32)).getD []).all (opAllowed s n) && accountsOk s n h.account h.account
    | _ => true

/-- IDENTITY (R421). -/
def identityBytes (s : State) : Bytes :=
  natBe 8 (rawReg s GLOBAL_ID.VENDOR.addr) ++ natBe 8 (rd s SECURE_SERIAL.SERIAL) ++ s.secure.keyId ++ sha256 s.secure.crownPk ++
  natBe 8 (rd s SECURE_FW_ID.IMAGE_ID) ++ natBe 8 (rd s SECURE_CONFIG_ID.CONFIG_ID) ++ natBe 1 s.peer.address ++
  natBe 1 (bootClass s) ++ natBe 30 0

/-- `n` words read from an address upwards. -/
def readWords : Nat → State → Nat → State × Bytes
  | 0, s, _ => (s, [])
  | n + 1, s, a =>
    let x := readRegister s a
    let rest := readWords n x.1 (a + 8)
    (rest.1, natBe 8 x.2 ++ rest.2)

/-- REG_READ (R420). -/
def serveRegRead (s : State) (payload : Bytes) : State × Reply :=
  let a := beAt payload 0 8
  let n := beAt payload 8 8
  if !((List.range n).all fun i => goodAddress (a + 8 * i)) then (s, Reply.of 4)
  else
    let x := readWords n s a
    (x.1, some (0, x.2))

/-- The pairs of a REG_WRITE applied in order up to the first that fails: the state, the number applied and the status. -/
def writePairs : List Bytes → State → Nat → State × Nat × Nat
  | [], s, k => (s, k, 0)
  | p :: ps, s, k =>
    let a := beAt p 0 8
    if !goodAddress a then (s, k, 4)
    else
      let locked := lockedWrite s a
      let s := writeRegister s a (beAt p 8 8)
      if locked then (s, k, 5) else writePairs ps s (k + 1)

/-- REG_WRITE (R420). -/
def serveRegWrite (s : State) (payload : Bytes) : State × Reply :=
  let x := writePairs (chunks 16 payload) s 0
  (x.1, some (x.2.2, natBe 8 x.2.1))

/-- At most `n` items taken from a queue; a discarded one gives nothing (R472). -/
def takeQueue : Nat → State → Nat → State × Bytes
  | 0, s, _ => (s, [])
  | n + 1, s, q => match dequeue s q with
    | (s, .item i _) =>
      let rest := takeQueue n s q
      (rest.1, natBe 64 i ++ rest.2)
    | (s, .discarded _ _) => takeQueue n s q
    | (s, _) => (s, [])

/-- A queue from which software may take (R201); none while the queues' domain is off (R333; log 156). -/
def mayDequeue (s : State) (q : Nat) : Bool :=
  hubOn s && queueClass q != 2 && (dataPathUse q).isNone && (getQ s q).enable

/-- DEQUEUE (R201). -/
def serveDequeue (s : State) (payload : Bytes) : State × Reply :=
  let q := beAt payload 0 8
  if !mayDequeue s q then (s, Reply.of 8)
  else
    let x := takeQueue (beAt payload 8 8) s q
    (flushCaptures x.1, some (if x.2.isEmpty && (getQ x.1 q).occ == 0 then 7 else 0, x.2))

/-- The entry of the tally ring that a SEQ of the current chain names (R420). -/
def ringEntry (s : State) (seq : Nat) : Option TallyEntry :=
  s.tally.ring.find? fun t => t.seq == seq && t.chain == rd s TALLY_STATUS.CHAIN

/-- TALLY_ROOT (R420). -/
def serveTallyRoot (s : State) (payload : Bytes) : Reply := match ringEntry s (beAt payload 0 8) with
  | none => Reply.of 9
  | some t => some (0, t.root ++ t.signature.getD (natBe 8 0))

/-- Record i of a tree of an entry: 0 account, 1 job. -/
def TallyEntry.leaf (t : TallyEntry) (tree i : Nat) : Nat :=
  if tree == 0 then Map.getD t.accounts i (accountLeaf t.epochStart ⟨i, [], [], 0, 0, 0⟩) else t.jobs.getD i 0

/-- The level-0 hashes of a tree of an entry (R374). -/
def TallyEntry.hashes (t : TallyEntry) (tree : Nat) : List Bytes :=
  if tree == 0 then (List.range 4096).map fun i => leafHash (t.leaf 0 i) else jobHashes t.jobs

/-- TALLY_LEAVES (R420); the layout of the request is the model's (log 29). -/
def serveTallyLeaves (s : State) (payload : Bytes) : Reply := match ringEntry s (beAt payload 8 8) with
  | none => Reply.of 9
  | some t => some (0, (List.range (beAt payload 4 2)).flatMap fun i =>
      natBe 64 (t.leaf (beAt payload 0 1) (beAt payload 2 2 + i)))

/-- TALLY_PROOF (R420): the record, then its sibling hashes. -/
def serveTallyProof (s : State) (payload : Bytes) : Reply := match ringEntry s (beAt payload 8 8) with
  | none => Reply.of 9
  | some t =>
    let i := beAt payload 2 2
    let hs := t.hashes (beAt payload 0 1)
    some (0, natBe 64 (t.leaf (beAt payload 0 1) i) ++
      (List.range 12).flatMap fun k => (treeLevel k hs).getD ((i / 2 ^ k) ^^^ 1) [])

/-- The job item (R425); its place in the job store is not stated (log 3). -/
def jobItem (j : Job) (session offset : Nat) : Nat :=
  pack [(32, j.id), (4, session), (32, j.tag), (16, j.layer), (16, j.operator), (12, j.account), (16, j.ops.length),
    (1, b2n j.continue_), (7, 0), (24, offset), (352, 0)]

/-- Units of the job store, 32 MiB (R413). -/
def storeUnits : Nat := 524288

/-- JOB_POST after the rights have been judged (R424 checks 3 and 4; while the queues' domain is off: log 156). -/
def postJob (s : State) (c : Client) (r : Request) (h : JobHdr) (ops : List JobOp) (units : Nat) : State × Reply :=
  let q := getQ s h.queue
  let b := q.bands.getD h.band noBand
  if !hubOn s || queueClass h.queue != 2 || !q.enable || !b.present || !ops.all captureQueuesOk then (s, Reply.of 8)
  else if !b.bad && b.occ == 2 ^ b.log2 then (bump s QUEUE_REFUSALS.FULL_REFUSED 1, Reply.of 6)
  else if storeUnits < storeUsed s + units then (s, Reply.of 6)
  else
    let id := rd s CROWN_NEXT_JOB.JOB_ID
    let j : Job := {
      id := id
      post := s.crown.posts
      client := c
      tag := r.tag
      layer := r.layer
      operator := r.operator
      account := h.account
      queue := h.queue
      continue_ := h.continue_
      ops := ops
      results := []
      state := 0
      abort := false
      done := false
      storeUnits := units
      moved := 0
      since := s.dial.now }
    let x := clientIndex s c
    let d := draw x.1
    match enqueue d.2 h.queue h.band (jobItem j x.2 d.1) with
    | (s, .written) =>
      let s := { s with crown.jobs := s.crown.jobs ++ [j], crown.posts := s.crown.posts + 1 }
      let s := bump (wr s CROWN_NEXT_JOB.JOB_ID (addMod 32 id 1)) CROWN_JOBS_A.POSTED 1
      (showCrown s, some (0, natBe 8 id))
    | (s, _) => (s, Reply.of 8)

/-- JOB_POST (R424). -/
def serveJobPost (s : State) (c : Client) (r : Request) (payload : Bytes) : State × Reply :=
  match parseJob s payload with
  | none => (s, Reply.of 1)
  | some (h, ops) => postJob s c r h ops (ceilDiv (payload.length - 32) 64)

/-- A client may act on a job: the session that posted it, or partition 0; a relayed request was judged before. -/
def jobAccess (c : Client) (partition : Option Nat) (j : Job) : Bool :=
  partition == none || partition == some 0 || j.client == c

/-- JOB_ABORT (R426). -/
def serveJobAbort (s : State) (c : Client) (partition : Option Nat) (payload : Bytes) : State × Reply :=
  match findJob s (beAt payload 0 8) with
  | none => (s, Reply.of 9)
  | some j =>
    if !jobAccess c partition j then (s, Reply.of 3)
    else if j.done || decide (2 ≤ j.state) then (s, Reply.of 10)
    else (abortJob s j, Reply.of 0)

/-- JOB_STATUS (R427). -/
def serveJobStatus (s : State) (c : Client) (partition : Option Nat) (payload : Bytes) : Reply :=
  match findJob s (beAt payload 0 8) with
  | none => Reply.of 9
  | some j =>
    if !jobAccess c partition j then Reply.of 3
    else some (0, natBe 1 j.state ++ natBe 2 j.results.length ++
      ((if 2 ≤ j.state then jobResults j j.state else j.results.map (·.1)).flatMap (natBe 2)))

/-- The payload of a request matches the layout and the limits of its operation; that of JOB_POST is judged in R424. -/
def payloadOk (op : Nat) (p : Bytes) : Bool :=
  match op with
  | 0x01 => p.isEmpty
  | 0x02 => p.length == 16 && decide (1 ≤ beAt p 8 8) && decide (beAt p 8 8 ≤ 512)
  | 0x03 => p.length % 16 == 0 && decide (16 ≤ p.length) && decide (p.length ≤ 8192)
  | 0x04 => p.length == 16 && decide (beAt p 0 8 < 0x40000) && decide (1 ≤ beAt p 8 8) && decide (beAt p 8 8 ≤ 64)
  | 0x05 => p.length == 8
  | 0x06 => p.length == 16 && decide (beAt p 0 1 ≤ 1) && decide (1 ≤ beAt p 4 2) && decide (beAt p 4 2 ≤ 256) &&
      decide (beAt p 2 2 + beAt p 4 2 ≤ 4096)
  | 0x07 => p.length == 16 && decide (beAt p 0 1 ≤ 1) && decide (beAt p 2 2 < 4096)
  | 0x08 => p.length == 32
  | 0x22 => p.length == 8
  | 0x23 => p.length == 8
  | _ => true

/-- A request is served by this device for a client: the state and the answer, none where the answer waits for SIGN (R408,
R420). `partition` is none where the rights were judged by another device. -/
def serve (s : State) (c : Client) (partition : Option Nat) (r : Request) (op : Nat) (payload : Bytes) : State × Reply :=
  if !payloadOk op payload || (op == 0x20 && (parseJob s payload).isNone) then (s, Reply.of 1)
  else if !rightsOk s partition op payload then (s, Reply.of 3)
  else match op with
    | 0x01 => (s, some (0, identityBytes s))
    | 0x02 => serveRegRead s payload
    | 0x03 => serveRegWrite s payload
    | 0x04 => serveDequeue s payload
    | 0x05 => (s, serveTallyRoot s payload)
    | 0x06 => (s, serveTallyLeaves s payload)
    | 0x07 => (s, serveTallyProof s payload)
    | 0x08 => ({ s with secure.attests := s.secure.attests ++ [(c, r, payload)] }, none)
    | 0x20 => serveJobPost s c r payload
    | 0x22 => serveJobAbort s c partition payload
    | 0x23 => (s, serveJobStatus s c partition payload)
    | _ => (s, Reply.of 2)

/-- A request is served and answered. -/
def serveAnswer (s : State) (c : Client) (partition : Option Nat) (r : Request) (op : Nat) (payload : Bytes) : State :=
  match serve s c partition r op payload with
  | (s, some (status, p)) => respond s c r op status p
  | (s, none) => s

end Sys2Proof.Machine
end

