-- ==== Sys2Proof/Machine/Relay.lean ====
section
/-! DEFINITION. Crown requests as they arrive on a session, and their relay to other devices (R418, R420, R446). -/

namespace Sys2Proof.Machine

/-! ## The device that holds the session (R446) -/

/-- The direct operation of a session has not been answered yet, so its next request is not read (R420). -/
def sessionBusy (s : State) (x : Session) : Bool :=
  s.peer.relays.any (·.serial == x.serial) || s.secure.attests.any fun a => a.1 == .session x.index x.serial

/-- The answer UNREACHABLE (R446). -/
def unreachable (s : State) (c : Client) (r : Request) (op : Nat) : State :=
  raise (bump (respond s c r op 13 []) PEER_RELAY.UNREACHABLE 1) PEER_EVENTS.RELAY_TIMEOUT 0

/-- The rights of a request for another device, judged here (R418, R446). -/
def relayAllowed (s : State) (x : Session) (r : Request) (op : Nat) (payload : Bytes) : Bool :=
  rightsOk s (some x.partition) op payload &&
    (!(op == 0x22 || op == 0x23) || x.partition == 0 ||
      s.peer.remoteJobs.any fun j => j.device == r.dest && j.job == some (beAt payload 0 8) && j.serial == x.serial)

/-- A request is relayed: the destination is asked for a reassembly buffer, by a REQUEST frame without payload (log 26). -/
def startRelay (s : State) (x : Session) (r : Request) (op : Nat) (payload : Bytes) : State :=
  let c : Client := .session x.index x.serial
  let msg := s.peer.nextMessage
  let ask := { newHdr s 0x10 r.dest false msg 0 with last := false }
  match sendTo s ask [] with
  | none => unreachable s c r op
  | some s =>
    let m := crownMessage 0 ⟨1, op, r.dest, r.layer, r.operator, r.tag, 0⟩ payload
    let s := { s with
      peer.nextMessage := addMod 32 msg 1
      peer.relays := s.peer.relays ++ [⟨msg, x.serial, r, op, false, m, s.dial.now⟩]
      peer.remoteJobs := if op == 0x20 then s.peer.remoteJobs ++ [⟨r.dest, msg, none, x.index, x.serial⟩]
        else s.peer.remoteJobs }
    bump s PEER_RELAY.SENT 1

/-- A request arrives on a session (R416, R418, R420). -/
def crownRequest (s : State) (r : Request) (op : Nat) (payload : Bytes) : State := match findSession s r.session with
  | none => s
  | some x =>
    let c : Client := .session x.index x.serial
    if !pdOn s 1 || sessionBusy s x then s
    else if r.operator != x.operator then respond s c r op 14 []
    else if !knownOp op then respond s c r op 2 []
    else if bootClass s == 1 && !readOp op then respond s c r op 3 []
    else if r.dest == s.peer.address then serveAnswer s c (some x.partition) r op payload
    else if !relayAllowed s x r op payload then respond s c r op 3 []
    else startRelay s x r op payload

/-- IDENTITY (R421). -/
def execIdentity (r : Request) (s : State) : Host.Outcome State Fault Refusal := .next (crownRequest s r 0x01 [])

/-- REG_READ (R420). -/
def execRegRead (r : Request) (address count : Nat) (s : State) : Host.Outcome State Fault Refusal :=
  .next (crownRequest s r 0x02 (natBe 8 address ++ natBe 8 count))

/-- REG_WRITE (R420). -/
def execRegWrite (r : Request) (pairs : List (Nat × Word)) (s : State) : Host.Outcome State Fault Refusal :=
  .next (crownRequest s r 0x03 (pairs.flatMap fun p => natBe 8 p.1 ++ natBe 8 p.2.toNat))

/-- DEQUEUE (R201). -/
def execDequeue (r : Request) (queue max : Nat) (s : State) : Host.Outcome State Fault Refusal :=
  .next (crownRequest s r 0x04 (natBe 8 queue ++ natBe 8 max))

/-- TALLY_ROOT (R420). -/
def execTallyRoot (r : Request) (seq : Nat) (s : State) : Host.Outcome State Fault Refusal :=
  .next (crownRequest s r 0x05 (natBe 8 seq))

/-- TALLY_LEAVES (R420; log 29). -/
def execTallyLeaves (r : Request) (tree first count seq : Nat) (s : State) : Host.Outcome State Fault Refusal :=
  .next (crownRequest s r 0x06 (natBe 1 tree ++ natBe 1 0 ++ natBe 2 first ++ natBe 2 count ++ natBe 2 0 ++ natBe 8 seq))

/-- TALLY_PROOF (R420; log 29). -/
def execTallyProof (r : Request) (tree index seq : Nat) (s : State) : Host.Outcome State Fault Refusal :=
  .next (crownRequest s r 0x07 (natBe 1 tree ++ natBe 1 0 ++ natBe 2 index ++ natBe 4 0 ++ natBe 8 seq))

/-- ATTEST (R408). -/
def execAttest (r : Request) (nonce : Bytes) (s : State) : Host.Outcome State Fault Refusal :=
  .next (crownRequest s r 0x08 nonce)

/-- JOB_POST (R424). -/
def execJobPost (r : Request) (payload : Bytes) (s : State) : Host.Outcome State Fault Refusal :=
  .next (crownRequest s r 0x20 payload)

/-- JOB_ABORT (R426). -/
def execJobAbort (r : Request) (job : Nat) (s : State) : Host.Outcome State Fault Refusal :=
  .next (crownRequest s r 0x22 (natBe 8 job))

/-- JOB_STATUS (R427). -/
def execJobStatus (r : Request) (job : Nat) (s : State) : Host.Outcome State Fault Refusal :=
  .next (crownRequest s r 0x23 (natBe 8 job))

/-- BAD_MESSAGE: a message whose header fails R418 ends the session; an unknown OP is answered UNKNOWN_OP. -/
def execBadMessage (session : Nat) (header : Bytes) (s : State) : Host.Outcome State Fault Refusal :=
  match findSession s session with
  | none => .next s
  | some x =>
    if !pdOn s 1 then .next s
    else if !crownHdrGood header then .next (closeSession (bump s CROWN_COUNTS.BAD_MESSAGES 1) x)
    else
      let h := crownHdr header
      if knownOp h.op then .next s
      else .next (crownRequest s ⟨session, h.dest, h.layer, h.operator, h.tag⟩ h.op [])

/-- RELAY_TIMEOUT: a relay is answered UNREACHABLE that has no grant within TIMEOUT_MS of its request, or no response within TIMEOUT_MS of
its last fragment (R446). -/
def execRelayTimeout (message : Nat) (s : State) : Host.Outcome State Fault Refusal :=
  match s.peer.relays.find? (·.message == message) with
  | none => .next s
  | some y =>
    if (y.granted && messageWaits s 0x10 message) || !timedOut s y.since then .next s
    else
      let s := { s with peer.relays := s.peer.relays.filter fun z => z.message != message }
      .next (unreachable s (.session y.request.session y.serial) y.request y.op)

/-! ## The destination (R446) -/

/-- A reassembly buffer is granted, by a RESPONSE frame without payload that is not the last (log 26). -/
def grantBuffer (s : State) (source message : Nat) : State :=
  let s := { s with peer.buffers := s.peer.buffers ++ [⟨source, message, [], s.dial.now⟩] }
  sendOrLose s { newHdr s 0x11 source false message 0 with last := false } []

/-- A request for a buffer: granted, or kept in the order of arrival while all 16 are taken. -/
def askBuffer (s : State) (source message : Nat) : State :=
  if s.peer.buffers.length < 16 then grantBuffer s source message
  else { s with peer.relayWait := s.peer.relayWait ++ [(source, message)] }

/-- A buffer is free again, and goes to the oldest request that waits. -/
def freeBuffer (s : State) (source message : Nat) : State :=
  let s := { s with peer.buffers := s.peer.buffers.filter fun b => !(b.source == source && b.message == message) }
  match s.peer.relayWait with
  | [] => s
  | w :: ws => if s.peer.buffers.length < 16 then grantBuffer { s with peer.relayWait := ws } w.1 w.2 else s

/-- A whole message of R418: a good header, and LENGTH bytes after it. -/
def wholeMessage (m : Bytes) : Bool := decide (32 ≤ m.length) && crownHdrGood m && beAt m 19 4 == m.length - 32

/-- A relayed message is served as if it had arrived from the session (R446). -/
def serveRelayed (s : State) (source message : Nat) (m : Bytes) : State :=
  let h := crownHdr m
  let r : Request := ⟨0, h.dest, h.layer, h.operator, h.tag⟩
  let c : Client := .peer source message
  if !wholeMessage m || !pdOn s 1 then s
  else if !knownOp h.op then respond s c r h.op 2 []
  else if bootClass s == 1 && !readOp h.op then respond s c r h.op 3 []
  else serveAnswer s c none r h.op (m.drop 32)

/-- A REQUEST frame for this device. -/
def takeRequest (s : State) (h : PeerHdr) (p : Bytes) : State :=
  if h.length == 0 then askBuffer s h.src h.msgId
  else match s.peer.buffers.find? fun b => b.source == h.src && b.message == h.msgId with
    | none => s
    | some b =>
      let m := b.bytes ++ p
      if h.last then serveRelayed (freeBuffer s h.src h.msgId) h.src h.msgId m
      else { s with peer.buffers := s.peer.buffers.map fun x =>
          if x.source == h.src && x.message == h.msgId then { x with bytes := m } else x }

/-- REQUEST: a fragment is passed on, or taken by the destination (R446). -/
def execRequest (link : Nat) (frame : Bytes) (s : State) : Host.Outcome State Fault Refusal :=
  match acceptFrame s link frame 0x10 with
  | none => .next s
  | some s =>
    let x := arrive s link frame
    .next (if x.2 then takeRequest x.1 (frameHdr frame) (framePayload frame) else x.1)

/-! ## The way back (R446) -/

/-- The fragments of the request are sent once the buffer is granted. -/
def sendRelay (s : State) (y : Relay) : State :=
  let s := { s with peer.relays := s.peer.relays.map fun z => if z.message == y.message then { z with granted := true, since := s.dial.now } else z }
  let ps := chunks 8192 y.payload
  ps.zipIdx.foldl (fun s p => sendOrLose s
    { newHdr s 0x10 y.request.dest false y.message p.1.length with frag := p.2, last := p.2 + 1 == ps.length } p.1) s

/-- What the answer to a relayed JOB_POST tells of the job: its identifier, or that there is none. -/
def noteRemoteJob (s : State) (y : Relay) (m : Bytes) : State :=
  if y.op != 0x20 then s
  else if (crownHdr m).status == 0 then
    { s with peer.remoteJobs := s.peer.remoteJobs.map fun j =>
        if j.message == y.message then { j with job := some (beAt m 32 8) } else j }
  else { s with peer.remoteJobs := s.peer.remoteJobs.filter fun j => j.message != y.message }

/-- A whole RESPONSE message from a device arrives (R446). -/
def takeResponse (s : State) (source message : Nat) (m : Bytes) : State :=
  if !wholeMessage m then s
  else if (crownHdr m).type == 2 then
    match s.peer.relays.find? fun y => y.message == message && y.request.dest == source with
    | none => bump s PEER_RELAY.LATE 1
    | some y =>
      let s := { s with peer.relays := s.peer.relays.filter fun z => z.message != message }
      sendClient (noteRemoteJob s y m) (.session y.request.session y.serial) m
  else match s.peer.remoteJobs.find? fun j => j.device == source && j.message == message with
    | none => s
    | some j => sendClient s (.session j.index j.serial) m

/-- A RESPONSE frame for this device. -/
def takeResponsePart (s : State) (h : PeerHdr) (p : Bytes) : State :=
  if h.length == 0 && !h.last then
    match s.peer.relays.find? fun y => y.message == h.msgId && y.request.dest == h.src && !y.granted with
    | none => s
    | some y => sendRelay s y
  else
    let mine (b : Reassembly) : Bool := b.source == h.src && b.message == h.msgId
    let (old, since) := match s.peer.parts.find? mine with
      | some b => if h.frag == 0 then ([], s.dial.now) else (b.bytes, b.since)
      | none => ([], s.dial.now)
    let s := { s with peer.parts := s.peer.parts.filter fun b => !mine b }
    if h.last then takeResponse s h.src h.msgId (old ++ p)
    else { s with peer.parts := s.peer.parts ++ [⟨h.src, h.msgId, old ++ p, since⟩] }

/-- RESPONSE: a fragment is passed on, or taken by the device that holds the session (R446). -/
def execResponse (link : Nat) (frame : Bytes) (s : State) : Host.Outcome State Fault Refusal :=
  match acceptFrame s link frame 0x11 with
  | none => .next s
  | some s =>
    let x := arrive s link frame
    .next (if x.2 then takeResponsePart x.1 (frameHdr frame) (framePayload frame) else x.1)

/-! ## SIGN (R375, R376, R408) -/

/-- The attestation report over a nonce (R408). -/
def attestReport (s : State) (nonce : Bytes) : Bytes :=
  natBe 1 0x04 ++ natBe 1 0x01 ++ natBe 1 (dialState s) ++ natBe 1 0xB0 ++ natBe 4 (rd s TALLY_STATUS.CHAIN) ++
  natBe 8 (rd s SECURE_SERIAL.SERIAL) ++ nonce ++ natBe 6 (dialSeconds s) ++ natBe 4 (s.dial.time % 1000000000) ++
  natBe 4 (rd s SECURE_COUNTERS.COUNTER0) ++ natBe 4 (rd s SECURE_COUNTERS.COUNTER1) ++
  natBe 8 (rd s SECURE_OWNER_ID.OWNER_ID) ++ natBe 8 (rd s SECURE_CONFIG_ID.CONFIG_ID) ++
  natBe 8 (rd s DIAL_SCHEDULE_ID.ID) ++ s.secure.testHash ++ s.secure.fwDigest ++ s.secure.cfgDigest ++
  sha256 (s.slots.flatMap fun x => match x.active with
    | some g => g.model.digest
    | none => natBe 32 0) ++ s.secure.keyId ++ natBe 6 0

/-- The oldest ATTEST request that waits is signed and answered (R408). -/
def signReport (s : State) : State := match s.secure.attests with
  | [] => s
  | (c, r, nonce) :: rest =>
    let report := attestReport s nonce
    respond { s with secure.attests := rest } c r 0x08 0
      (report ++ slhFast.sign (SlhKey.ofBytes (attestKey s)) (ascii "CFN-ATTEST") report)

/-- SIGN: the security block signs the oldest root record that waits, where its round has come and SIGN's grant is unused, or with cycles
left over an attestation report (R375, R376, R408, R521). After a hub-die trip nothing is signed (R377). -/
def execSign (s : State) : Host.Outcome State Fault Refusal :=
  if s.power.hubTrip then .next s
  else match (waitsForSignature s).filter fun t => rootDue s t && signAllowed s with
    | some t => .next (signRoot (useKind s 8 0 30000) t)
    | none => .next (if s.secure.attests.isEmpty || !signRoom s then s else signReport (useKind s 8 0 30000))

end Sys2Proof.Machine
end

