-- ==== Sys2Proof/Machine/JobRun.lean ====
section
/-! DEFINITION. Jobs as they run: their operations, one definition for each kind, and the stages of a capture (R199, R423 to R428). -/

namespace Sys2Proof.Machine

/-! ## Taking a job (R199, R426) -/

/-- Every queue into which a job's operations write has room (R199): queue H of each CAPTURE. -/
def jobRoom (s : State) (j : Job) : Bool := j.ops.all fun o => o.1 != 0x0C || roomQ s (fld o.2.2.1 35 18) 0 != 0

/-- The waiting job of a queue that an item names, the oldest where several have its JOB_ID (R425). -/
def waitingJob (s : State) (q item : Nat) : Option Job :=
  s.crown.jobs.find? fun j => j.id == fld item 511 480 && j.state == 0 && j.queue == q

/-- The job whose item stands at the head of a queue. -/
def headJob (s : State) (q : Nat) : Option Job := match peekQ s q with
  | .item i _ => waitingJob s q i
  | _ => none

/-- An item of a job queue may be taken: no job of the queue runs, and its work has room. -/
def jobReady (s : State) (q : Nat) : Bool :=
  hubOn s && (match peekQ s q with
    | .empty => false
    | _ => true) &&
  !(s.crown.jobs.any fun j => j.queue == q && j.state == 1) &&
  (match headJob s q with
    | some j => j.abort || jobRoom s j
    | none => true)

/-- The job queue that cores 2 to 5 serve next: round-robin in ascending number, after the queue last served. -/
def nextJobQueue (s : State) : Option Nat :=
  let ready := (s.queue.queues.map (·.1)).filter fun q => queueClass q == 2 && jobReady s q
  match ready.find? fun q => decide (s.crown.lastQueue < q) with
  | some q => some q
  | none => ready.head?

/-- A job queue is served: its head item is taken, and its job starts or, where it was aborted, is discarded (R426). The job
of a discarded item goes on waiting (R472; log 131). -/
def startJob (s : State) (q : Nat) (faults : List FaultEv) : State :=
  if 4 ≤ (s.crown.jobs.filter (·.state == 1)).length || nextJobQueue s != some q then s
  else
    let s := { s with crown.lastQueue := q }
    match dequeue (faults.foldl structureFault s) q with
    | (s, .item i _) =>
      match waitingJob s q i with
        | none => s
        | some j => if j.abort then retireJob s j 3 else showCrown (modJob s j.post fun y => { y with state := 1, since := s.dial.now })
    | (s, _) => s

/-- JOB_START: a core takes the next job of a queue (R426). -/
def execJobStart (queue : Nat) (faults : List FaultEv) (s : State) : Host.Outcome State Fault Refusal :=
  .next (startJob s queue faults)

/-- JOB_RETIRE: a job whose last operation has retired retires, and its completion message is sent (R424, R426). -/
def execJobRetire (job : Nat) (s : State) : Host.Outcome State Fault Refusal :=
  match runningJob s job with
  | none => .next s
  | some j =>
    if !j.done then .next s
    else .next (retireJob s j j.endState)

/-! ## Operations (R424) -/

/-- The next operation of a running job, where it is of a kind. -/
def nextOp (s : State) (id kind : Nat) : Option (Job × JobOp) := match runningJob s id with
  | none => none
  | some j =>
    if j.done then none
    else match j.ops[j.results.length]? with
      | none => none
      | some o => if o.1 == kind then some (j, o) else none

/-- An operation of a job retires with its result and the data it returns: it is counted (R365), and the job has retired its last
operation where it ends or has failed (R424). -/
def retireOp (s : State) (j : Job) (result : Nat) (data : Bytes) : State :=
  let last := j.results.length + 1 == j.ops.length || (result != 0 && !j.continue_)
  modJob (countOperation s j) j.post fun x => { x with results := x.results ++ [(result, data)], done := last, moved := 0, since := s.dial.now }

/-- The next operation of a job, of a kind that the control complex serves at once: its effect, result and data. It waits while the domain
of the front stage is off (R333; log 167). -/
def controlOp (s : State) (id kind : Nat) (f : State → Job → JobOp → State × Nat × Bytes) :
    Host.Outcome State Fault Refusal :=
  if !hubOn s then .next s else match nextOp s id kind with
  | none => .next s
  | some (j, o) =>
    let x := f s j o
    .next (retireOp x.1 j x.2.1 x.2.2)

/-- A key as it is received, with the bits that R156 reserves for its table ignored (R13). -/
def maskKey (t k : Nat) : Nat := if t == 0 then fld k 319 8 * 2 ^ 8 else fld k 319 176 * 2 ^ 176

/-- The entry that a TABLE operation on table `t` names, and its further data (R423). -/
def tableRef (t target : Nat) (data : Bytes) : EntryRef × Bytes :=
  if bit target 58 then (.key (maskKey t (beAt data 0 40)), data.drop 40) else (.index (fld target 23 0), data)

/-- A TABLE operation of a code, in a TABLE_DMA window (R177, R423); it waits where R177 or R180 makes it wait, and while the
table's domains are off (R333). Its transfers are keys of the job where the table lies in HBM (R154, R363). -/
def tableOp (s : State) (id code : Nat) (faults : List FaultEv) : State := match nextOp s id 0x01 with
  | none => s
  | some (j, o) =>
    let t := b2n (bit o.2.2.1 63)
    let x := tableRef t o.2.2.1 o.2.2.2
    if o.2.1 != code || !tableOn s t || !unitAllowed s 4 || dmaWaits s t code x.1 x.2 then s
    else
      let s := keyTable (useUnit s 4) t 3 j.post 7 o.2.2.2.length
      let y := dmaOperation s t code x.1 (fld o.2.2.1 62 59) x.2 faults
      retireOp y.1 j y.2.status y.2.data

/-- READ (R177). -/
def execTableRead (job : Nat) (faults : List FaultEv) (s : State) : Host.Outcome State Fault Refusal :=
  .next (tableOp s job 1 faults)

/-- WRITE (R177). -/
def execTableWrite (job : Nat) (faults : List FaultEv) (s : State) : Host.Outcome State Fault Refusal :=
  .next (tableOp s job 2 faults)

/-- INSERT (R177). -/
def execTableInsert (job : Nat) (faults : List FaultEv) (s : State) : Host.Outcome State Fault Refusal :=
  .next (tableOp s job 3 faults)

/-- DELETE (R177). -/
def execTableDelete (job : Nat) (faults : List FaultEv) (s : State) : Host.Outcome State Fault Refusal :=
  .next (tableOp s job 4 faults)

/-- LOCK (R177, R179). -/
def execTableLock (job : Nat) (faults : List FaultEv) (s : State) : Host.Outcome State Fault Refusal :=
  .next (tableOp s job 5 faults)

/-- UNLOCK (R177). -/
def execTableUnlock (job : Nat) (faults : List FaultEv) (s : State) : Host.Outcome State Fault Refusal :=
  .next (tableOp s job 6 faults)

/-- READ_STATE (R177). -/
def execTableReadState (job : Nat) (faults : List FaultEv) (s : State) : Host.Outcome State Fault Refusal :=
  .next (tableOp s job 7 faults)

/-- WRITE_STATE (R177). -/
def execTableWriteState (job : Nat) (faults : List FaultEv) (s : State) : Host.Outcome State Fault Refusal :=
  .next (tableOp s job 8 faults)

/-- STATUS of R419 in bits [15:8] of a result. -/
def statusResult (status : Nat) : Nat := status * 256

/-- RULE_WRITE: a rule entry is staged (R132, R423). -/
def execRuleWrite (job : Nat) (s : State) : Host.Outcome State Fault Refusal :=
  controlOp s job 0x02 fun s _ o =>
    let x := stageRule s o.2.2.1 (ruleOfBytes o.2.2.2)
    (x.1, if x.2 then 0 else 6, [])

/-- RULE_READ: the rule in force is returned (R423). -/
def execRuleRead (job : Nat) (s : State) : Host.Outcome State Fault Refusal :=
  controlOp s job 0x03 fun s _ o => (s, 0, (ruleAt s o.2.2.1).bytes)

/-- METER_WRITE: a configuration is checked, and applies from the next beat (R136, R137). -/
def execMeterWrite (job : Nat) (s : State) : Host.Outcome State Fault Refusal :=
  controlOp s job 0x04 fun s _ o =>
    let x := stageMeter s o.2.2.1 (meterOfBytes o.2.2.2)
    (x.1, if x.2 then 0 else statusResult 1, [])

/-- The 64 bytes of METER_READ; the places of Tc, Tp and LAST are the model's (log 32). -/
def meterBytes (m : Option Meter) : Bytes := match m with
  | none => natBe 64 0
  | some m => natBe 32 m.config ++ natBe 8 m.tc ++ natBe 8 m.tp ++ natBe 8 m.last ++ natBe 8 0

/-- METER_READ: a meter's configuration and state are returned (R137, R423). -/
def execMeterRead (job : Nat) (s : State) : Host.Outcome State Fault Refusal :=
  controlOp s job 0x05 fun s _ o => (s, 0, meterBytes (Map.get? s.front.meters o.2.2.1))

/-- COUNTER_READ: counters are returned, and cleared where bit 0 of SUB is set (R135, R423). The control complex reads them, which is a key
of no holder (R363). -/
def execCounterRead (job : Nat) (s : State) : Host.Outcome State Fault Refusal :=
  controlOp s job 0x06 fun s _ o =>
    let first := fld o.2.2.1 51 32
    let n := fld o.2.2.1 12 0
    let c := s.front.counters
    let data := (List.range n).flatMap fun i =>
      natBe 8 (Map.getD c (first + i) (0, 0)).1 ++ natBe 8 (Map.getD c (first + i) (0, 0)).2
    let s := if bit o.2.1 0 then
        { s with front.counters := c.filter fun p => decide (p.1 < first) || decide (first + n ≤ p.1) }
      else s
    (s, 0, data)

/-- VMAP_WRITE: an entry is checked, and applies to beats that begin after the write (R298). -/
def execVmapWrite (job : Nat) (s : State) : Host.Outcome State Fault Refusal :=
  controlOp s job 0x07 fun s _ o =>
    let x := stageVmap s o.2.2.1 (vmapOf (beAt o.2.2.2 0 32))
    (x.1, if x.2 then 0 else statusResult 1, [])

/-- VMAP_READ: the entry last written is returned (R423). -/
def execVmapRead (job : Nat) (s : State) : Host.Outcome State Fault Refusal :=
  controlOp s job 0x08 fun s _ o =>
    (s, 0, natBe 32 (Map.getD s.front.vmapNext o.2.2.1 (Map.getD s.front.vmap o.2.2.1 0)))

/-- Bulk bytes that a job may still move in the period: memory bulk, and for a relayed job link bulk too (R343, R423). -/
def loadRoom (s : State) (j : Job) : Nat := if j.relayed then min (bulkRoom s 2) (bulkRoom s 1) else bulkRoom s 2

/-- Bytes that a job moves: their HBM transfers, and their bulk on the peer links where the job was relayed (R343, R423). -/
def keyLoad (s : State) (j : Job) (bytes : Nat) : State :=
  let s := moveBulk (keyMemory s 3 j.post (hbmWords bytes)) 2 bytes
  if j.relayed then moveBulk (keyLinkJob s j.post bytes) 1 bytes else s

/-- A load or label operation that nothing refuses moves its bytes, at most those that the allowance of the period has room for; once all
have moved it has its effect and retires (R343, R345, R426; log 108). While the HBM is off it waits (R333; log 167). `check` is the result of an operation that is refused. -/
def loadOp (s : State) (id kind : Nat) (check : State → JobOp → Option Nat) (effect : State → JobOp → State × Nat) :
    Host.Outcome State Fault Refusal :=
  if !hbmOn s then .next s else match nextOp s id kind with
  | none => .next s
  | some (j, o) => match check s o with
    | some r => .next (retireOp s j r [])
    | none =>
      let n := min (o.2.2.2.length - j.moved) (loadRoom s j)
      let s := keyLoad s j n
      if j.moved + n < o.2.2.2.length then .next (modJob s j.post fun x => { x with moved := x.moved + n })
      else
        let x := effect s o
        .next (retireOp x.1 j x.2 [])

/-- A label entry written (R316): a label of class 0xFF under REV 0 is what an unwritten entry holds. -/
def writeLabel (l : Map (Nat × Nat)) (e : Bytes) : Map (Nat × Nat) :=
  Map.put l (beAt e 0 3) (beAt e 3 1, beAt e 4 1) (0xFF, 0)

/-- LABEL_WRITE: label entries are written to the label plane of a slot (R316, R423). -/
def execLabelWrite (job : Nat) (s : State) : Host.Outcome State Fault Refusal :=
  loadOp s job 0x09 (fun s o => if (regionBase s 0x05 o.2.2.1).isNone then some (statusResult 8) else none) fun s o =>
    (modSlot s o.2.2.1 fun x => { x with labels := (chunks 5 o.2.2.2).foldl writeLabel x.labels }, 0)

/-- Slot, offset and bytes of a MODEL_LOAD chunk. -/
def loadPlace (o : JobOp) : Nat × Nat × Nat := (fld o.2.2.1 63 60, fld o.2.2.1 39 0, o.2.2.2.length)

/-- A MODEL_LOAD is refused: no load buffer, one that a distribution holds, or a chunk outside it (R423, R447). -/
def modelLoadCheck (s : State) (o : JobOp) : Option Nat :=
  let p := loadPlace o
  match loadBuffer s p.1 with
  | none => some (statusResult 8)
  | some (_, size) =>
    if (getSlot s p.1).distHeld then some (statusResult 8)
    else if size < p.2.1 + p.2.2 then some (statusResult 1)
    else none

/-- MODEL_LOAD: a chunk is written into a slot's load buffer (R307, R423). -/
def execModelLoad (job : Nat) (s : State) : Host.Outcome State Fault Refusal :=
  loadOp s job 0x0A modelLoadCheck fun s o =>
    let p := loadPlace o
    let base := match loadBuffer s p.1 with
      | some x => x.1
      | none => 0
    let s := { s with hbm := Mem.writeBytes s.hbm (base + p.2.1) o.2.2.2 }
    (modSlot s p.1 fun x => { x with image := true, imageLen := max x.imageLen (p.2.1 + p.2.2) }, 0)

/-- A schedule image that has been loaded is submitted: it is added to the IMAGE_STORE, or the cause of R404 (R390, R69). -/
def submitSchedule (s : State) : State × Nat :=
  let image := Mem.readBytes s.sched.spare 0 s.sched.spareLen
  let s := { s with sched.spare := [], sched.spareLen := 0 }
  if 8 ≤ s.sched.loaded.length then (s, 0x11)
  else if (acceptFailure (trustOf s) image 5).isSome then (s, 0x10)
  else match scheduleFailure (openEnvelope image).body with
    | some k => (s, k)
    | none =>
      let c := parseSchedule (16 + s.sched.loaded.length) (openEnvelope image).body
      (raise { s with sched.loaded := s.sched.loaded ++ [c] } SECURE_EVENTS.SCHEDULE_LOADED 0, 0)

/-- SCHEDULE_LOAD: a chunk is written to the spare of the IMAGE_STORE; with the last bit set the image is submitted (R404,
R423). -/
def execScheduleLoad (job : Nat) (s : State) : Host.Outcome State Fault Refusal :=
  loadOp s job 0x0B (fun _ o => if 67108864 < o.2.2.1 + o.2.2.2.length then some (statusResult 1) else none) fun s o =>
    let s := { s with
      sched.spare := Mem.writeBytes s.sched.spare o.2.2.1 o.2.2.2
      sched.spareLen := max s.sched.spareLen (o.2.2.1 + o.2.2.2.length) }
    if !bit o.2.1 0 then (s, 0)
    else
      let x := submitSchedule s
      (x.1, if x.2 == 0 then 0 else statusResult 8 + x.2)

/-! ## Capture (R428) -/

/-- The capture of an operation, before its first head. -/
def newCapture (s : State) (j : Job) (target : Nat) : CaptureRun where
  active := true
  job := j.post
  client := j.client
  layer := j.layer
  operator := j.operator
  tag := j.tag
  port := fld target 63 61
  filter := if bit target 54 then none else some (fld target 60 55)
  left := fld target 53 36
  hq := fld target 35 18
  vq := fld target 17 0
  held := none
  after := s.pipe.arrivals

/-- A CAPTURE operation goes on: it begins, or retires once COUNT heads have been offered; an item that is still held then is written once
H has room. A capture that names the H or the V of an ended one without such an item takes its place. -/
def runCapture (s : State) (j : Job) (o : JobOp) : State :=
  match s.crown.captures.find? fun c => c.active && c.job == j.post with
  | none =>
    let c := newCapture s j o.2.2.1
    { s with crown.captures :=
        (s.crown.captures.filter fun d => d.active || d.held.isSome || (d.hq != c.hq && d.vq != c.vq)) ++ [c] }
  | some _ =>
    let s := flushCaptures s
    if s.crown.captures.any fun c => c.active && c.job == j.post && c.left == 0 then
      retireOp { s with crown.captures := s.crown.captures.map fun c =>
        if c.job == j.post then { c with active := false } else c } j 0 []
    else s

/-- CAPTURE: a job's CAPTURE operation begins, or retires (R428). -/
def execCapture (job : Nat) (s : State) : Host.Outcome State Fault Refusal :=
  match nextOp s job 0x0C with
  | none => .next s
  | some (j, o) => .next (runCapture s j o)

/-- The capture whose items stand in a queue H, or in a queue V. -/
def captureOf (s : State) (p : CaptureRun → Bool) : Option CaptureRun :=
  match s.crown.captures.find? fun c => c.active && p c with
  | some c => some c
  | none => s.crown.captures.find? p

/-- At most `n` items taken from a queue H: their verdict records. -/
def takeRecords : Nat → State → Nat → State × List Nat
  | 0, s, _ => (s, [])
  | n + 1, s, q => match dequeue s q with
    | (s, .item i _) =>
      let rest := takeRecords n s q
      (rest.1, fld i 127 0 :: rest.2)
    | (s, .discarded _ _) => takeRecords n s q
    | (s, _) => (s, [])

/-- The consumer of a queue H fills one verdict item of its queue V, once V has room (R199, R428). -/
def forwardCapture (s : State) (q : Nat) : State := match captureOf s (·.hq == q) with
  | none => s
  | some c =>
    if queueClass q != 0 || (dataPathUse q).isSome || roomQ s c.vq 0 == 0 then s
    else
      let x := takeRecords 4 s q
      if x.2.isEmpty then x.1 else flushCaptures (enqueue x.1 c.vq 0 (verdictItem x.2)).1

/-- CAPTURE_FORWARD (R428). -/
def execCaptureForward (queue : Nat) (s : State) : Host.Outcome State Fault Refusal := .next (forwardCapture s queue)

/-- A capture push message; its OP is not stated (log 3). -/
def pushMessage (s : State) (c : CaptureRun) (op item : Nat) : Bytes :=
  crownMessage s.peer.address ⟨4, op, s.peer.address, c.layer, c.operator, c.tag, 0⟩ (natBe 64 item)

/-- A RESPONSE frame to a device would leave at once: a route leads to it, and the frame waits for no credit (R444, R446). -/
def leavesAtOnce (s : State) (d : Nat) : Bool := match sourceLink s d with
  | some j => inTopology s d && creditFree s j (2 * peerClass 0x11 + nextVc s none 0 j)
  | none => false

/-- A capture push leaves at once, or none (R428, R446). -/
def sendPush (s : State) (c : CaptureRun) (m : Bytes) : Option State := match c.client with
  | .session i serial => if sessionIs s i serial then some (emit s (.crown i m)) else none
  | .peer d msg => if leavesAtOnce s d then sendTo s { newHdr s 0x11 d false msg m.length with last := true } m else none

/-- The consumer of a queue V sends its item to the session, or discards it (R428). -/
def pushCapture (s : State) (q : Nat) (ready : Bool) : State := match captureOf s (·.vq == q) with
  | none => s
  | some c =>
    if queueClass q != 1 || (dataPathUse q).isSome then s
    else match dequeue s q with
      | (s, .item i _) =>
        let d := draw s
        if !ready then dropCapture s c.client
        else match sendPush d.2 c (pushMessage s c (d.1 % 256) i) with
          | some s => s
          | none => dropCapture s c.client
      | (s, _) => s

/-- CAPTURE_PUSH (R428). -/
def execCapturePush (queue : Nat) (sessionReady : Bool) (s : State) : Host.Outcome State Fault Refusal :=
  .next (pushCapture s queue sessionReady)

/-! ## ITEM_TAKE (R199) -/

/-- The oldest batch that has not returned. -/
def oldestBatch (s : State) : Option Nat := (s.pipe.batches.find? fun b => !b.returned).map (·.number)

/-- ITEM_TAKE: the consumer of a queue takes the item that waits, under R199. The consumers are those of R189: a core for a job
queue, the control complex for the queues of a capture, the transmitter of a port for its verdict queues, the reorder stage for
the head-hold queues of the ports. Notice queues are drained by software. -/
def execItemTake (queue : Nat) (faults : List FaultEv) (s : State) : Host.Outcome State Fault Refusal :=
  match queueClass queue, dataPathUse queue with
  | 2, _ => .next (startJob s queue faults)
  | 0, none => .next (forwardCapture s queue)
  | 1, none => .next (pushCapture s queue true)
  | 1, some (p, _) => execVerdictTransmit 0 p faults s
  | 0, some _ => match oldestBatch s with
    | some b => execReturnWindowStart b faults s
    | none => .next s
  | _, _ => .next s

end Sys2Proof.Machine
end

