-- ==== Sys2Proof/Machine/Nvm.lean ====
section
/-! DEFINITION. The NVM: headers and regions, the configuration image and the table image with every check made on them
(R383 to R388, R395 to R398, R406). -/

namespace Sys2Proof.Machine

/-! ## The NVM and its headers (R386 to R388) -/

/-- A region that a header names (R387). -/
structure NvmRegion where
  kind : Nat
  index : Nat
  offset : Nat
  bytes : Nat
  deriving DecidableEq, Repr

/-- A header taken apart (R386). -/
structure NvmHeader where
  base : Nat
  generation : Nat
  regions : List NvmRegion
  deriving DecidableEq, Repr

/-- A byte of the NVM; one that no chunk of the input holds is erased. -/
def nvmByte (b : BootInput) (a : Nat) : Byte :=
  match b.nvm.find? fun c => decide (c.1 ≤ a) && decide (a < c.1 + c.2.length) with
  | some c => c.2.getD (a - c.1) 0xFF
  | none => 0xFF

/-- `n` bytes of the NVM. -/
def nvmBytes (b : BootInput) (a n : Nat) : Bytes := (List.range n).map fun i => nvmByte b (a + i)

/-- A region entry from its 32 bytes. -/
def parseRegion (e : Bytes) : NvmRegion :=
  let w := beAt e 0 32
  ⟨fld w 255 248, fld w 247 240, fld w 239 208, fld w 207 176⟩

/-- The header that 2,048 bytes at `base` spell. -/
def parseNvmHeader (base : Nat) (h : Bytes) : NvmHeader :=
  ⟨base, beAt h 8 8, (List.range (beAt h 5 1)).map fun i => parseRegion (slice h (48 + 32 * i) 32)⟩

/-- Regions of a kind. -/
def NvmHeader.ofKind (h : NvmHeader) (kind : Nat) : List NvmRegion := h.regions.filter (·.kind == kind)

/-- The counts of R387: exactly one region of the kinds that are needed, the schedules and models under unique indices in their
range, at most one table. -/
def NvmHeader.countsOk (h : NvmHeader) : Bool :=
  let indices (k : Nat) : List Nat := (h.ofKind k).map (·.index)
  ([1, 2, 3, 4, 0x10, 0x11].all fun k => (h.ofKind k).length == 1) &&
    decide (1 ≤ (h.ofKind 5).length) && (indices 5).all (decide <| · < 16) && allDistinct (indices 5) &&
    (indices 6).all (decide <| · < 32) && allDistinct (indices 6) && decide ((h.ofKind 7).length ≤ 1)

/-- No two intervals of a list of starts and sizes overlap. -/
def disjoint : List (Nat × Nat) → Bool
  | [] => true
  | r :: l => (l.all fun q => decide (r.1 + r.2 ≤ q.1) || decide (q.1 + q.2 ≤ r.1)) && disjoint l

/-- The header at an address, where it is valid (R388). -/
def validHeader (b : BootInput) (base : Nat) : Option NvmHeader :=
  let raw := nvmBytes b base 2048
  let h := parseNvmHeader base raw
  if beAt raw 0 4 == 0x434E564D && beAt raw 4 1 == 1 && slice raw 16 32 == sha256 (raw.drop 48) &&
      decide (1 ≤ beAt raw 5 1) && decide (beAt raw 5 1 ≤ 62) && h.countsOk &&
      (h.regions.all fun r => decide (r.offset + r.bytes ≤ 2 ^ b.sizeLog2)) &&
      disjoint (h.regions.map fun r => (r.offset, r.bytes))
  then some h else none

/-- The valid headers in the order in which they are tried: the higher GENERATION first, on a tie the one at byte 0
(R388). -/
def headerOrder (b : BootInput) : List NvmHeader :=
  match validHeader b 0, validHeader b 65536 with
  | some x, some y => if x.generation < y.generation then [y, x] else [x, y]
  | some x, none => [x]
  | none, some y => [y]
  | none, none => []

/-- The bytes of the first region of a kind; empty where there is none. -/
def NvmHeader.image (h : NvmHeader) (b : BootInput) (kind : Nat) : Bytes :=
  match h.ofKind kind with
  | r :: _ => nvmBytes b r.offset r.bytes
  | [] => []

/-- The image in a region without what lies behind its signature (R389). -/
def imageExact (image : Bytes) : Bytes := image.take (128 + up64 (openEnvelope image).bodyBytes + signatureBytes)

/-- `n` numbers of `size` bytes each from an offset. -/
def numbersAt (b : Bytes) (size o n : Nat) : List Nat := (List.range n).map fun i => beAt b (o + size * i) size

/-! ## The configuration image (R395 to R397) -/

/-- The directory of a configuration image. -/
def configDir (b : Bytes) : List (Nat × Nat × Nat) := directory b 64 (beAt b 6 1)

/-- A section of a configuration image. -/
def configSection (b : Bytes) (kind : Nat) : Bytes := sectionBytes b (configDir b) kind

/-- BOOT_FLAGS: bit 0 WAIT_LOCK, bit 1 RAISE_SVN, bit 2 FLOW_ORG, bit 3 EP_ORG (R395). -/
def configFlags (b : Bytes) : Nat := beAt b 7 1

/-- The presets: address and value (R396). -/
def parsePresets (b : Bytes) : List (Nat × Nat) :=
  (chunks 16 (configSection b 1)).map fun e =>
    let w := beAt e 0 16
    (fld w 127 88, fld w 63 0)

/-- A parse state from 32 bytes (R122). -/
def parseParseState (e : Bytes) : ParseState :=
  let w := beAt e 0 32
  { selOffset := fld w 255 247
    selMask := fld w 246 231
    transBase := fld w 230 219
    transCount := fld w 218 215
    defaultNext := fld w 214 207
    defaultEnd := bit w 206
    advConst := fld w 205 197
    advShift := fld w 196 193
    advMask := fld w 192 189
    advUnit := fld w 188 186
    ops := ((List.range 4).filter fun k => bit w (26 * k + 25)).map fun k =>
      (fld w (26 * k + 24) (26 * k + 19), fld w (26 * k + 18) (26 * k + 8), fld w (26 * k + 6) (26 * k) + 1) }

/-- The 256 parse states. -/
def configStates (b : Bytes) : List ParseState :=
  (List.range 256).map fun i => parseParseState (slice (configSection b 2) (32 * i) 32)

/-- The transition words that are not zero (R123). -/
def configTransitions (b : Bytes) : Map Nat :=
  (numbersAt (configSection b 2) 8 8192 4096).zipIdx.foldl (fun m w => Map.put m w.2 w.1 0) []

/-- FORMAT of each field (R120, R139). -/
def configFormats (b : Bytes) : List Nat := (numbersAt (configSection b 3) 8 0 64).map (· / 2 ^ 61)

/-- The key templates, each of 16 segment words (R129). -/
def configTemplates (b : Bytes) : List (List Nat) :=
  (List.range 16).map fun i => numbersAt (configSection b 4) 4 (64 * i) 16

/-- The verdict map entries (R297); an absent section means zeros. -/
def configVmap (b : Bytes) : List Nat :=
  if (configSection b 6).isEmpty then List.replicate 64 0 else numbersAt (configSection b 6) 32 0 64

/-- The memory regions (R397). -/
def configRegions (b : Bytes) : List Region :=
  (chunks 16 (configSection b 7)).map fun e =>
    let w := beAt e 0 16
    ⟨fld w 127 120, fld w 119 116, fld w 115 105, fld w 99 60, fld w 59 20⟩

/-- SLOTS: MODEL_INDEX and REQUIRED of each slot (R396). -/
def configSlots (b : Bytes) : List (Nat × Bool) :=
  (numbersAt (configSection b 8) 8 0 16).map fun w => (fld w 63 56, bit w 55)

/-- SHAPE_ORDER up to its end (R396). -/
def configOrder (b : Bytes) : List Nat := (numbersAt (configSection b 9) 1 0 16).takeWhile (· != 0xFF)

/-- The operators: KEY_HASH, OPERATOR_ID and PARTITION (R406). -/
def configOperators (b : Bytes) : List (Bytes × Nat × Nat) :=
  (chunks 64 (configSection b 10)).map fun e => (slice e 0 32, beAt e 32 2, beAt e 34 1 % 64)

/-- A width that a format permits (R120). -/
def widthOk (format w : Nat) : Bool :=
  match format with
  | 0 => decide (1 ≤ w) && decide (w ≤ 128)
  | 1 => decide (2 ≤ w) && decide (w ≤ 64)
  | 2 => w == 16
  | 3 => w == 32
  | 4 => w % 8 == 0 && decide (8 ≤ w) && decide (w ≤ 128)
  | _ => false

/-- The parse graph passes R126; every state that a NEXT can name is among the 256. -/
def parseOk (states : List ParseState) (formats : List Nat) : Bool :=
  states.all fun s => decide (s.transBase + s.transCount ≤ 4096) &&
    s.ops.all fun o => widthOk (formats.getD o.1 0) o.2.2

/-- A source number that R121 does not reserve. -/
def sourceKnown (n : Nat) : Bool := decide (n ≤ 68)

/-- A key template passes R121 and R129. -/
def templateOk (t : List Nat) : Bool :=
  let used := t.filter fun w => fld w 17 10 != 0
  (used.all fun w => sourceKnown (fld w 31 25) && decide (fld w 9 1 + fld w 17 10 ≤ 490) &&
    decide (fld w 24 18 + fld w 17 10 ≤ 128)) &&
    disjoint (used.map fun w => (fld w 9 1, fld w 17 10))

/-- The table keys pass R156 and R157: ten words. A table in the native organisation has no hash, so that its endpoint words are not
looked at (R157, R186). -/
def tableKeysOk (flags : Nat) (ws : List Nat) : Bool :=
  let known (w n : Nat) : Bool := (List.range n).all fun k =>
    !bit w (10 * k + 9) || sourceKnown (fld w (10 * k + 6) (10 * k))
  known (ws.getD 0 0) 6 && known (ws.getD 1 0) 2 &&
    [3, 5, 7, 9].all fun k => !bit flags (if k < 6 then 2 else 3) || ws.getD k 0 % 2 == 1

/-- A region may have a size (R397); `store` is the size of IMAGE_STORE. -/
def regionSizeOk (store : Nat) (r : Region) : Bool :=
  match r.code with
  | 0x01 => r.size == 8589934592
  | 0x02 => r.size == 4294967296
  | 0x03 => r.size == 67108864
  | 0x04 => r.param % 32 == 0 && decide (32 ≤ r.param) && decide (r.param ≤ 1024) &&
      r.size == 16777216 * (64 * ceilDiv (r.param + r.param / 32) 64)
  | 0x05 => r.size == 33554432
  | 0x06 => decide (1048576 ≤ r.size) && decide (r.size ≤ 2147483648)
  | 0x07 => r.size == 16777216
  | 0x08 => r.size == 34664448
  | 0x09 => decide (1073741824 ≤ r.size) && decide (r.size ≤ 68719476736)
  | 0x0A => decide (1048576 ≤ r.size) && decide (r.size ≤ 1073741824) && r.size % 2048 == 0
  | 0x0B => r.size == store
  | 0x0C => decide (38797312 ≤ r.size) && r.base % 4194304 == 0 && decide (r.base + r.size ≤ 536870912)
  | _ => false

/-- The memory regions pass R397. -/
def regionsOk (store flags : Nat) (l : List Region) : Bool :=
  let hbm := l.filter (·.code != 0x0C)
  let required := [0x01, 0x07, 0x08, 0x0B, 0x0C] ++ (if bit flags 2 then [0x02, 0x03] else [])
  l.all (regionSizeOk store) && (required.all fun c => l.any (·.code == c)) &&
    (hbm.all fun r => r.base % 4096 == 0 && decide (r.base + r.size ≤ 412316860416)) &&
    disjoint (hbm.map fun r => (r.base, r.size))

/-- A preset names a register of a block from GLOBAL to OBSERVE outside SECURE (R396). -/
def presetOk (p : Nat × Nat) : Bool :=
  decide (p.1 < 0xE0000) && blockOf p.1 != 0xA && !(fieldsAt p.1).isEmpty

/-- Sections that must have a size: kind and bytes. -/
def configSizes : List (Nat × Nat) := [(2, 40960), (3, 512), (4, 1024), (8, 128), (9, 16)]

/-- The header and directory of a configuration image pass R395 and R396. -/
def configFormOk (b : Bytes) : Bool :=
  let d := configDir b
  let keys := bit (configFlags b) 2 || bit (configFlags b) 3
  decide (b.length ≤ 4194304) && beAt b 0 4 == 0x48434647 && beAt b 4 1 == 1 && beAt b 5 1 == 0xB0 &&
    decide (1 ≤ beAt b 6 1) && decide (beAt b 6 1 ≤ 16) && directoryOk d 10 b.length &&
    (configSizes.all fun k => (configSection b k.1).length == k.2) && (sectionOf d 7).isSome &&
    (!keys || (configSection b 5).length == 80) && ((sectionOf d 6).isNone || (configSection b 6).length == 2048) &&
    decide ((configSection b 10).length ≤ 16384)

/-- Bytes of the SCHEDULE and MODEL regions of a header with the 64 MiB spare: the size of IMAGE_STORE (R397). -/
def NvmHeader.storeBytes (h : NvmHeader) : Nat := sumN (((h.ofKind 5) ++ (h.ofKind 6)).map (·.bytes)) + 67108864

/-- The configuration image of a header is accepted by R395 to R397. -/
def configOk (h : NvmHeader) (b : Bytes) : Bool :=
  configFormOk b && (parsePresets b).all presetOk && parseOk (configStates b) (configFormats b) &&
    (configTemplates b).all templateOk && (configVmap b).all (!vmapRefused ·) &&
    ((configSection b 5).isEmpty || tableKeysOk (configFlags b) (numbersAt (configSection b 5) 8 0 10)) &&
    regionsOk h.storeBytes (configFlags b) (configRegions b) &&
    ((configSlots b).all fun s => s.1 == 0xFF || (h.ofKind 6).any (·.index == s.1)) &&
    ((configOrder b).all fun i => (h.ofKind 5).any (·.index == i)) && allDistinct (configOrder b)

/-! ## The configuration applied (R128, R139, R153, R190, R396) -/

/-- The field is LOCK of its block, and a preset sets it. -/
def setsLock (p : Nat × Nat) : Bool :=
  match lockField (blockOf p.1) with
  | some f => f.addr == p.1 && bit p.2 f.lsb
  | none => false

/-- A preset applied as a register write of partition 0 (R396). It closes no session: a session stays open across a warm restart
(R417). -/
def applyPreset (s : State) (p : Nat × Nat) : State :=
  if netRegs.contains p.1 then writeFields s p.1 p.2 else writeRegisterOn s p.1 p.2

/-- The presets applied; those that set a LOCK field are held back (R396). -/
def applyPresets (s : State) (ps : List (Nat × Nat)) : State :=
  let s := (ps.filter fun p => !setsLock p).foldl applyPreset s
  { s with secure.presetLocks := ps.filter setsLock }

/-- Step 11: the presets held back are applied (R396, R399). -/
def applyLockPresets (s : State) : State :=
  s.secure.presetLocks.foldl applyPreset { s with secure.presetLocks := [] }

/-- The front tables that a configuration image holds (R139, R297). -/
def loadFront (s : State) (b : Bytes) : State := { s with
  front.parse := configStates b
  front.trans := configTransitions b
  front.formats := configFormats b
  front.templates := configTemplates b
  front.vmap := (configVmap b).zipIdx.foldl (fun m e => Map.put m e.2 (vmapOf e.1) 0) [] }

/-- The components of a key with their reserved bit clear (R16, R186). -/
def keyComponents (n w : Nat) : Nat := (List.range n).foldl (fun w c => putFld w (10 * c + 7) (10 * c + 7) 0) w

/-- TABLE_KEYS in the registers (R156, R157); the hash of a table in the native organisation reads as zero (R186). -/
def loadTableKeys (s : State) (b : Bytes) : State :=
  let ws := numbersAt (configSection b 5) 8 0 10
  if (configSection b 5).isEmpty then s
  else
    let s := wr (wr s TABLE_FLOW_KEY.COMPONENTS (keyComponents 6 (ws.getD 0 0))) TABLE_EP_KEY.COMPONENTS (keyComponents 2 (ws.getD 1 0))
    (List.range 8).foldl (fun s k => wr s (TABLE_HASH.VALUE (k / 4) (k % 4))
      (if bit (configFlags b) (2 + k / 4) then ws.getD (2 + k) 0 else 0)) s

/-- A table with every entry invalid: the organisation of the configuration, the hash functions of its registers (R153, R155). REV, and SOFT
of an endpoint entry, stay as they are (R161, R491). -/
def emptyTable (s : State) (t : Nat) : State :=
  let h := (List.range 4).map fun k => rd s (TABLE_HASH.VALUE t k)
  showTable (modT s t fun x => { TableSt.reset with
    entries := (x.entries.map fun e => (e.1, { e.2 with valid := false })).filter fun e => e.2 != Entry.zero
    free := if compat s t then some [] else none
    hash := h }) t

/-- The accepted configuration image in force, before its presets (R128, R153, R190, R395). -/
def loadConfig (s : State) (b : Bytes) : State :=
  let flags := configFlags b
  let s := { s with
    secure.config := b
    secure.bootFlags := flags
    secure.regions := configRegions b
    secure.slots := configSlots b
    secure.operators := configOperators b
    sched.order := configOrder b
    front.privileged := beAt b 16 8 ||| 1 }
  let s := (List.range 64).foldl (fun s n => wrB s (FRONT_PART_A.PRIVILEGED n) (bit s.front.privileged n)) s
  let s := wrB (wrB s TABLE_CTRL.FLOW_ORG (bit flags 2)) TABLE_CTRL.EP_ORG (bit flags 3)
  let s := wr (loadFront (loadTableKeys s b) b) SECURE_CONFIG_ID.CONFIG_ID (beAt b 8 8)
  match s.secure.regions.find? (·.code == 0x0C) with
  | some r => setupDataPath (wr (wr s QUEUE_REGION.BASE (r.base / 64)) QUEUE_REGION.UNITS (r.size / 64)) [0, 1, 2]
  | none => s

/-! ## The table image (R155, R398) -/

/-- The directory of a table image: four entries at its start, an entry of KIND 0 being absent. -/
def tableDir (b : Bytes) : List (Nat × Nat × Nat) := (directory b 0 4).filter (·.1 != 0)

/-- The records of a section: index and entry bytes. -/
def tableRecords (b : Bytes) (kind n : Nat) : List (Nat × Bytes) :=
  (chunks (n + 4) (sectionBytes b (tableDir b) kind)).map fun e => (beAt e 0 4, slice e 4 n)

/-- A rule of the table image in force; none where it is refused (R133, R398). -/
def loadRule (s : Option State) (e : Nat × Bytes) : Option State := s.bind fun s =>
  let r := ruleOfBytes e.2
  if 65536 ≤ e.1 || !r.valid || (ruleFailure s r).isSome then none
  else some { s with front.rules := Map.set s.front.rules e.1 r }

/-- A meter of the table image, with both buckets full (R136, R137, R398). -/
def loadMeter (s : Option State) (e : Nat × Bytes) : Option State := s.bind fun s =>
  let c := meterOfBytes e.2
  if 65536 ≤ e.1 || meterRefused c then none
  else some { s with front.meters := Map.set s.front.meters e.1 (Meter.full c (batchNow s)) }

/-- An entry of the flow table (0) or the endpoint table (1): at its index, or inserted under R171 (R155, R398). -/
def loadEntry (t : Nat) (s : Option State) (e : Nat × Bytes) : Option State := s.bind fun s =>
  let x := entryOfBytes t e.2
  if !x.valid then none
  else if compat s t then
    match insertEntry s t x false with
    | (_, .stashFull) => none
    | (_, .noRecord) => none
    | (s, _) => some s
  else if tableSize t ≤ e.1 then none
  else some (createAt s t e.1 { x with id := e.1, key := 0 } false)

/-- The table image loaded; none where it is refused (R398). INSERTED counts the entries that hardware learning or INSERT
creates (R188), so none of the image (log 140). -/
def loadTables (s : State) (b : Bytes) : Option State :=
  if b.isEmpty then some s
  else if !(decide (b.length ≤ 16777216) && directoryOk (tableDir b) 4 b.length) then none
  else
    let r := (tableRecords b 1 144).foldl loadRule (some s)
    let r := (tableRecords b 2 32).foldl loadMeter r
    let r := (tableRecords b 3 512).foldl (loadEntry 0) r
    let r := (tableRecords b 4 64).foldl (loadEntry 1) r
    r.map fun x =>
      let x := modT (modT x 0 fun x => { x with insertedBeat := 0 }) 1 fun x => { x with insertedBeat := 0 }
      wr (wr x (TABLE_LEARN.INSERTED 0) (rd s (TABLE_LEARN.INSERTED 0))) (TABLE_LEARN.INSERTED 1) (rd s (TABLE_LEARN.INSERTED 1))

end Sys2Proof.Machine
end

