-- ==== Sys2Proof/Machine/Boot.lean ====
section
/-! DEFINITION. The boot sequence, cold reset and the warm restart (R385, R391 to R405, R474 to R477, R480, R490, R492, R499). -/

namespace Sys2Proof.Machine

/-! ## Steps of the boot sequence (R399): a state and the exit that ended it, 0 while none has -/

/-- A step that is complete: the number of the last step completed. -/
def stepDone (s : State) (k : Nat) : State × Nat := (wr s SECURE_BOOT_STATUS.STEP k, 0)

/-- A step after another, unless that one ended the boot. -/
def thenBoot (r : State × Nat) (f : State → State × Nat) : State × Nat := if r.2 == 0 then f r.1 else r

/-- Domains switched on, as far as a latched trip lets them. -/
def domainsOn (s : State) (ds : List Nat) : State := ds.foldl (fun s d => switchPd s d (!tripOff s d)) s

/-- A digest in the NVM does not match, and the re-read matches or does not (R385, R470, R472 class 13). Which region it was is not
told, so LOCATION of the FAULT record is a free value. -/
def nvmFault (s : State) (lasting : Bool) : State :=
  let d := draw s
  faultFound d.2 13 lasting (d.1 % 2 ^ 40) none

/-- `n` mismatches that a re-read cleared. -/
def nvmFaults (s : State) (n : Nat) : State := (List.range n).foldl (fun s _ => nvmFault s false) s

/-- A mismatch that stands fails the image (R385, R390). -/
def digestFault (s : State) (f : Option AcceptFail) : State := match f with
  | some .digest => nvmFault s true
  | _ => s

/-- What a latched trip shows (R353, R358). -/
def tripFields : List Field :=
  [REGULATOR_TRIP.LATCHED, REGULATOR_TRIP.DIE, REGULATOR_TRIP.SENSOR, REGULATOR_TRIP.SECONDS, REGULATOR_STATUS.TRIPPED]

/-- A test instruction with RESET_N at a level: while it is high an EXTEST instruction acts as BYPASS (R507). -/
def tapWith (resetN : Bool) (ir : Nat) : Nat := if resetN && decide (3 ≤ ir) then 0 else ir

/-- Step 1: the cold reset ends, and a latched trip with it; a sensor that is still hot trips again. PD0 and PD18 on; the straps of the
board-management interface are sampled; the NVM bus is driven (R384, R399, R499, R505, R506). -/
def bootStep1 (s : State) (b : BootInput) : State :=
  let s := { s with
    dial.now := 0
    secure.input := some b
    secure.powerGood := true
    power.hubTrip := false
    pins.resetN := true
    pins.pwrgood := true
    pins.tripN := true
    pins.tapIr := tapWith true s.pins.tapIr
    pins.nvmSck := .low
    pins.nvmCsN := .high
    pins.nvmDq := .active
    pins.nvmResetN := .high
    pins.bmiAddr := 0x58 + b.straps % 4 }
  let s := refresh (tripFields.foldl (fun s f => wr s f 0) s)
  let s := b.hot.foldl (fun s h => tripFired s h.1 h.2) (domainsOn s [0, 18])
  let s := wr s SECURE_BOOT_STATUS.STEP 1
  raiseIf (b.transient != 0) (wr s SECURE_NVM.TRANSIENT (satN 32 b.transient)) SECURE_EVENTS.NVM_TRANSIENT 0

/-- NVM_RESET_N is driven low for 10 µs before the NVM is discovered (R505). -/
def resetNvm (s : State) : State := emit s (.nvmReset 10000)

/-- Step 2: the header is chosen (R388). -/
def bootStep2 (s : State) (b : BootInput) (h : NvmHeader) : State × Nat :=
  let s := wr (wr s SECURE_NVM.SIZE_LOG2 b.sizeLog2) SECURE_GENERATION.GENERATION h.generation
  stepDone (wrB { s with secure.header := h.base } SECURE_BOOT_STATUS.HEADER (h.base != 0)) 2

/-- A key pair's public key, from the device secret and its info string (R391). -/
def derivedKey (secret : Bytes) (info : String) : Bytes :=
  slhFast.publicKey (SlhKey.ofBytes (hkdf (List.replicate 32 0) secret (ascii info) 48))

/-- Step 3: the secret is reconstructed and checked, the keys are derived (R391). -/
def bootStep3 (s : State) (b : BootInput) (h : NvmHeader) : State × Nat :=
  let helper := h.image b 0x10
  let secret := Config.pufSecret b.capture helper
  if sha256 (ascii "CFN-PUF-CHECK" ++ secret) != helper.drop (helper.length - 32) then (s, 3)
  else
    let pk := derivedKey secret "CFN attest v1"
    let id := sha256 pk
    let s := { s with
      secure.secret := secret
      secure.attestPk := pk
      secure.crownPk := derivedKey secret "CFN crown v1"
      secure.keyId := id }
    stepDone ((List.range 4).foldl (fun s k => wr s (SECURE_KEY_ID.BYTES k) (beAt id (8 * k) 8)) s) 3

/-- The test record's values (R334, R339, R343, R392). -/
def loadTestRecord (s : State) (t : Bytes) : State :=
  let s := { s with
    power.volt := numbersAt t 2 80 16
    power.vref := numbersAt t 2 112 20
    power.weight := (List.range 20).map fun d => numbersAt t 3 (152 + 384 * d) 128
    power.leak := numbersAt t 8 7832 1120
    power.leakOff := numbersAt t 8 16792 20
    power.eBulk := numbersAt t 4 16952 2 }
  let s := (List.range 16).foldl (fun s p => wr s (REGULATOR_VTABLE.VOLT_MV p) (beAt t (80 + 2 * p) 2)) s
  wr s SECURE_SERIAL.SERIAL (beAt t 32 8)

/-- Step 4: the counters are read and the test record is accepted (R392, R393). -/
def bootStep4 (s : State) (b : BootInput) (h : NvmHeader) : State × Nat :=
  let key := hkdf (List.replicate 32 0) s.secure.secret (ascii "CFN counter v1") 32
  let f := b.facility
  if f.authFails || (f.rootKey.isSome && f.rootKey != some key) then (s, 9)
  else
    let s := { s with secure.input := some { b with facility := { f with rootKey := some key } } }
    let s := wr (wr s SECURE_COUNTERS.COUNTER0 f.counter0) SECURE_COUNTERS.COUNTER1 f.counter1
    let image := h.image b 2
    let t := (openEnvelope image).body
    let fail := acceptFailure (trustOf s) image 2
    if fail.isSome || slice t 0 32 != s.secure.attestPk || !nonDecreasing (numbersAt t 2 80 16) then (digestFault s fail, 4)
    else stepDone (loadTestRecord { s with secure.testHash := sha256 (imageExact image) } t) 4

/-- Step 5: the firmware is accepted, PD1 is switched on (R399). -/
def bootStep5 (s : State) (b : BootInput) (h : NvmHeader) : State × Nat :=
  let image := h.image b 1
  let e := openEnvelope image
  let fail := acceptFailure (trustOf s) image 1
  if fail.isSome then (digestFault s fail, 5)
  else
    let s := wr (wr s SECURE_SVN.FW_SVN e.svn) SECURE_FW_ID.IMAGE_ID e.imageId
    stepDone (domainsOn { s with secure.fwDigest := e.digest } [1]) 5

/-! ## The logbook at a start (R480) -/

/-- The sectors of the LOGBOOK region of a header. -/
def logSectors (b : BootInput) (h : NvmHeader) : List Bytes :=
  match h.ofKind 0x11 with
  | r :: _ => (List.range (min 256 (r.bytes / 4096))).map fun k => nvmBytes b (r.offset + 4096 * k) 4096
  | [] => []

/-- The logbook is read from the regions of both headers, and COLD_RESETS counts this start, which becomes CHAIN (R369, R480).
The next record goes behind the record found, where it stands in the region of the header in use. -/
def readLogbook (s : State) (b : BootInput) (h : NvmHeader) : State :=
  let valid := recordValid (rd s SECURE_SERIAL.SERIAL) (logbookKey s.secure.secret)
  let own := logSectors b h
  let found := latestRecord (((headerOrder b).flatMap (logSectors b)).filter valid)
  let l := match found with
    | some r => readRecord s.log r
    | none => s.log
  let at_ := match found with
    | some r => (own.findIdx? (· == r)).map (· + 1)
    | none => none
  let region := (h.ofKind 0x11).head?.getD ⟨0, 0, 0, 0⟩
  let n := min 256 (region.bytes / 4096)
  let s := { s with log := { l with
    coldResets := satN 32 (l.coldResets + 1)
    base := region.offset
    sectors := n
    sector := at_.getD 0 % max 1 n
    due := true } }
  let s := wr s TALLY_STATUS.CHAIN s.log.coldResets
  let s := raiseIf found.isNone (wrB s LOGBOOK_STATUS.NO_RECORD found.isNone) LOGBOOK_EVENTS.NO_RECORD
    (s.log.seq % 2 ^ 32)
  showLog s

/-- Step 6: the logbook is read, the owner certificate and the configuration image are accepted, the presets applied
(R395, R396, R399, R480). -/
def bootStep6 (s : State) (b : BootInput) (h : NvmHeader) : State × Nat :=
  let s := nvmFaults (readLogbook s b h) b.transient
  let cert := h.image b 3
  let c := (openEnvelope cert).body
  let fail := acceptFailure (trustOf s) cert 3
  if fail.isSome then (digestFault s fail, 6)
  else
    let s := wr { s with secure.ownerKey := c.take 32 } SECURE_OWNER_ID.OWNER_ID (beAt c 32 8)
    let image := h.image b 4
    let e := openEnvelope image
    match acceptFailure (trustOf s) image 4 with
    | some .rollback => (s, 8)
    | some f => (digestFault s (some f), 7)
    | none =>
      if !configOk h e.body then (s, 7)
      else
        let s := loadConfig (wr { s with secure.cfgDigest := e.digest } SECURE_SVN.CONFIG_SVN e.svn) e.body
        let s := applyPresets s (parsePresets e.body)
        let s := { s with log.intervalLeft := logInterval s }
        stepDone (if rdB s DIAL_CTRL.FREE_RUN_START then setDial { s with dial.freeRun := true } 0 else s) 6

/-! ## The working shape (R399, R474, R476) -/

/-- The lane bits of a shape descriptor: head and peer lanes (R41). -/
def laneBits : Nat := (2 ^ 40 - 1) * 2 ^ 24

/-- A shape descriptor without the units of `w` that a die, a stack or the lack of all their parts takes out (R42, R474). -/
def closeShape (w : Nat) : Nat :=
  let dies := (List.range 4).filter fun d => bit w (372 + d) && fld w (343 + 8 * d) (336 + 8 * d) != 0
  let stackNos := (List.range 8).filter fun n => bit w (328 + n) && fld w (95 + 32 * n) (64 + 32 * n) != 0
  let clusters := (List.range 32).filter fun c => bit w (336 + c) && dies.contains (c / 8)
  let channels := (List.range 256).filter fun c => bit w (64 + c) && stackNos.contains (c / 32)
  (w &&& laneBits) + ofBits (clusters.map (336 + ·)) + ofBits (dies.map (372 + ·)) + ofBits (channels.map (64 + ·)) +
    ofBits (stackNos.map (328 + ·))

/-- The units of a shape descriptor without those of another. -/
def shapeMinus (w marks : Nat) : Nat := ofBits ((bitsOf 376 w).filter fun i => !bit marks i)

/-- The units that fail step 7 and that the logbook does not mark are failing (R474). -/
def testFailures (s : State) (passed : Nat) : State :=
  let bad (kind n : Nat) : List Nat :=
    (List.range n).filter fun i => !bit passed (shapeBit kind i) && !bit s.log.marks (shapeBit kind i)
  let cs := bad 0 32
  let ds := bad 1 4
  let hs := bad 2 256
  let ns := bad 3 8
  let s := cs.foldl clusterFailing s
  let s := ds.foldl (fun s d => unitFailing s 1 d) s
  let s := hs.foldl channelFailing s
  ns.foldl (fun s n => unitFailing s 3 n) s

/-- Step 7: the other domains on, the self-test, the working shape formed; from its end on each domain follows its condition
(R332, R399). -/
def bootStep7 (s : State) (b : BootInput) : State × Nat :=
  let s := domainsOn s ((List.range 20).filter (1 < ·))
  let passed := b.selfTest % 2 ^ 376
  let s := { s with sched.workShape := closeShape (shapeMinus (passed ||| laneBits) s.log.marks) }
  stepDone (applyDomains (testFailures s passed) (List.range 20)) 7

/-! ## Images, schedule and models (R399 to R402, R490) -/

/-- The schedules of the header that are accepted and pass R69; a schedule that fails is counted as absent (R402). -/
def acceptSchedules (s : State) (b : BootInput) (h : NvmHeader) : List Schedule :=
  (h.ofKind 5).filterMap fun r =>
    let image := nvmBytes b r.offset r.bytes
    let e := openEnvelope image
    if (acceptFailure (trustOf s) image 5).isSome || (scheduleFailure e.body).isSome then none
    else some (parseSchedule r.index e.body)

/-- The digests of the images of a kind are checked (R385). -/
def imageDigests (s : State) (b : BootInput) (h : NvmHeader) (kind : Nat) : State :=
  (h.ofKind kind).foldl (fun s r => digestFault s (acceptFailure (trustOf s) (nvmBytes b r.offset r.bytes) kind)) s

/-- Step 8: schedule, table and model images in the IMAGE_STORE (R399). A table image that is not accepted gives exit 10. -/
def bootStep8 (s : State) (b : BootInput) (h : NvmHeader) : State × Nat :=
  let table := h.image b 7
  let fail := if (h.ofKind 7).isEmpty then none else acceptFailure (trustOf s) table 7
  let bad := fail.isSome
  let s := imageDigests (digestFault (imageDigests s b h 5) fail) b h 6
  let s := { s with
    sched.shapeSet := acceptSchedules s b h
    secure.models := (h.ofKind 6).foldl (fun m r => Map.set m r.index (nvmBytes b r.offset r.bytes)) []
    secure.table := if bad then [] else (openEnvelope table).body }
  if bad then (s, 10) else stepDone s 8

/-- INDEX of a schedule as a refusal reports it: that within the shape set, or 16 + k for one loaded (R490). -/
def scheduleNumber (s : State) (c : Schedule) : Nat :=
  match s.sched.loaded.zipIdx.find? fun x => x.1 == c with
  | some x => if s.sched.shapeSet.contains c then c.index else 16 + x.2
  | none => c.index

/-- The schedule chosen at a warm restart, where the generation of an image passes every other check and its demand does not fit it:
the generation is not activated (R490). -/
def misfitSchedule (s : State) (slot index : Nat) : Option Schedule :=
  match Map.get? s.secure.models index, s.sched.chosen with
  | some b, some c =>
    let last := match stageFailure s slot b with
      | none => true
      | some f => f.cause == 11
    if s.sched.restart == 2 && last && !fitsSchedule s (imageModel b) slot c then some c else none
  | _, _ => none

/-- A slot's model staged under R307, unless it does not fit the schedule chosen at a warm restart (R490). -/
def stageModel (s : State) (slot index : Nat) : State := match misfitSchedule s slot index with
  | some c => refuseStage s slot ⟨11, scheduleNumber s c, 0, 0⟩
  | none => checkStage s slot (Map.get? s.secure.models index)

/-- A model that is refused is reported (R402, R490). -/
def modelRefused (s : State) (index : Nat) : State :=
  raise (wr s SECURE_MODEL_FAILS.MASK (rd s SECURE_MODEL_FAILS.MASK ||| 2 ^ (index % 32))) SECURE_EVENTS.MODEL_REFUSED index

/-- The SLOTS models staged. A slot that stays empty is reported, or gives exit 12 where it is REQUIRED (R402); where its model does not
fit the schedule chosen at a warm restart, it is reported in either case (R490). -/
def stageModels (s : State) : State × Nat :=
  s.secure.slots.zipIdx.foldl (fun r e =>
    if e.1.1 == 0xFF then (if e.1.2 then (r.1, 12) else r)
    else
      let misfit := (misfitSchedule r.1 e.2 e.1.1).isSome
      let s := stageModel r.1 e.2 e.1.1
      if (getSlot s e.2).staging == 2 then (s, r.2)
      else (if !e.1.2 || misfit then modelRefused s e.1.1 else s, if e.1.2 then 12 else r.2)) (s, 0)

/-- The first of two exits. -/
def firstExit (a b : Nat) : Nat := if a == 0 then b else a

/-- Step 9: table image loaded, schedule chosen, models staged (R155, R399, R401). The step does all of its work; its first exit
counts. -/
def bootStep9 (s : State) : State × Nat :=
  let r : State × Nat := match loadTables s s.secure.table with
    | some s => (s, 0)
    | none => (s, 10)
  let s := { r.1 with sched.chosen := chooseSchedule r.1 }
  let x := firstExit r.2 (if s.sched.chosen.isNone then 11 else 0)
  let m := stageModels s
  (m.1, firstExit x m.2)

/-- Step 10: the counters are raised (R394). -/
def bootStep10 (s : State) : State × Nat :=
  if !bit s.secure.bootFlags 1 then stepDone s 10
  else
    let c0 := rd s SECURE_COUNTERS.COUNTER0
    let c1 := rd s SECURE_COUNTERS.COUNTER1
    let fw := rd s SECURE_SVN.FW_SVN
    let cfg := rd s SECURE_SVN.CONFIG_SVN
    let n := (fw - c0) + (cfg - c1)
    if 256 < n then (s, 13)
    else if n == 0 then stepDone s 10
    else match s.secure.input with
      | some b =>
        if b.facility.raiseFails then (s, 9)
        else
          let f := { b.facility with counter0 := max c0 fw, counter1 := max c1 cfg }
          let s := wr (wr s SECURE_COUNTERS.COUNTER0 f.counter0) SECURE_COUNTERS.COUNTER1 f.counter1
          stepDone (raise { s with secure.input := some { b with facility := f } } SECURE_EVENTS.SVN_RAISED 0) 10
      | none => stepDone s 10

/-- The operating point at which admission first begins: point 9 with GATE 0, or FIXED_POINT in fixed-frequency mode (R338,
R346). -/
def startPoint (s : State) : State :=
  let p := if rdB s REGULATOR_CTRL.FIXED_FREQ then fixedPoint s else 9
  showPoint { s with power.point := p, power.gate := 0, power.maxPointUsed := p, power.supply := s.power.volt.getD p 0 }

/-- Steps 2 to 10 with a header; a waiting exit lets step 9 do its work. -/
def bootFrom (s : State) (b : BootInput) (h : NvmHeader) : State × Nat :=
  let r := bootStep2 s b h
  let r := thenBoot r (bootStep3 · b h)
  let r := thenBoot r (bootStep4 · b h)
  let r := thenBoot r (bootStep5 · b h)
  let r := thenBoot r (bootStep6 · b h)
  let r := thenBoot r (bootStep7 · b)
  let r8 := thenBoot r (bootStep8 · b h)
  if r.2 != 0 then r8
  else
    let r9 := bootStep9 (emptyTable (emptyTable r8.1 0) 1)
    let x := firstExit r8.2 r9.2
    if x != 0 then (r9.1, x) else bootStep10 (wr r9.1 SECURE_BOOT_STATUS.STEP 9)

/-! ## How a start ends (R402) -/

/-- Exits of the waiting class. -/
def waitingExit (x : Nat) : Bool := (decide (10 ≤ x) && decide (x ≤ 12)) || x == 14

/-- The exit shown, with its class: 1 recovery, 2 waiting, 0 otherwise. -/
def showExit (s : State) (x cls : Nat) : State :=
  wr (wr s SECURE_BOOT_STATUS.EXIT x) SECURE_BOOT_STATUS.CLASS cls

/-- The halt class: only PD0 is powered, FAULT_N is low (R402). -/
def haltBoot (s : State) (x : Nat) : State :=
  let s := showExit s x 0
  (List.range 20).foldl (fun s d => switchPd s d (d == 0)) { s with secure.halted := true, pins.faultN := false }

/-- The registers of the head ports at their reset values. -/
def resetPorts (s : State) : State :=
  { s with regs := s.regs.filter fun p => blockOf (p.1 / 64) != 2, ports := List.replicate 8 PortSt.reset }

/-- The recovery class: the head ports at their reset values, the shed verdict queues in a ring region at byte 0, FAULT_N low
(R402). -/
def recoverBoot (s : State) (x : Nat) : State :=
  let s := if rd s SECURE_BOOT_STATUS.STEP < 7 then domainsOn s [2, 3, 4, 5, 18] else s
  let s := setupDataPath (wr (resetPorts (showExit s x 1)) QUEUE_REGION.BASE 0) [2]
  (List.range 8).foldl showLanes { s with pins.faultN := false, pins.lanesOff := false, sched.chosen := none }

/-- The head ports are enabled: KEAFEN_V1 and MAX_LANES take effect with the values last written, those of the presets among
them (R117, R399; log 139). -/
def enablePorts (s : State) : State :=
  let s := { s with ports := s.ports.zipIdx.map fun (x : PortSt × Nat) => { x.1 with
      v1 := rdB s (HEADPORT_PORT_CFG.KEAFEN_V1 x.2)
      maxLanes := rd s (HEADPORT_PORT_CFG.MAX_LANES x.2) } }
  (List.range 8).foldl showLanes { s with pins.lanesOff := false }

/-- The logbook record of a start is written before step 11; a failure of the write does not stop the boot (R480). -/
def writeStart (s : State) (b : BootInput) : State := writeRecord b.logFirst b.logSecond s

/-- The waiting class: the configuration is applied, no schedule is chosen (R402). -/
def waitBoot (s : State) (x : Nat) : State :=
  { showExit (enablePorts (applyLockPresets s)) x 2 with sched.chosen := none }

/-- Step 11: LOCK presets, the head ports, readiness (R399, R410). -/
def readyBoot (s : State) (ms : Nat) : State :=
  let s := wr (wrB (enablePorts (applyLockPresets s)) GLOBAL_STATUS.READY true) SECURE_BOOT_TIME.READY_MS ms
  wr s SECURE_BOOT_STATUS.STEP 11

/-- The end of the boot sequence: ready, or the class of the exit (R402). -/
def finishBoot (b : BootInput) (r : State × Nat) : State :=
  let s := startPoint { r.1 with power.starting := [] }
  if r.2 == 0 then readyBoot (writeStart s b) b.readyMs
  else if waitingExit r.2 then waitBoot (writeStart s b) r.2
  else if r.2 ≤ 6 || (r.2 == 9 && decide (rd s SECURE_BOOT_STATUS.STEP < 9)) then haltBoot r.1 r.2
  else recoverBoot r.1 r.2

/-- The exit lets the sequence go on with the other header (R402). -/
def fallbackExit (x : Nat) : Bool := x != 0 && x != 1 && x != 2 && x != 9

/-- Digest mismatches that stood with the header first tried: they are found in the state that it left (R385, R402). -/
def keepFaults (s now : State) : State :=
  (List.range (rd now (OBSERVE_FAULT.LASTING 13) - rd s (OBSERVE_FAULT.LASTING 13))).foldl (fun s _ => nvmFault s true) s

/-- The boot sequence from step 2: the header chosen, and once the other one (R388, R402). -/
def bootSequence (s : State) (b : BootInput) : State :=
  let s := resetNvm s
  if !(b.sfdpOk && (b.sizeLog2 == 27 || b.sizeLog2 == 28 || b.sizeLog2 == 29)) then finishBoot b (s, 1)
  else match headerOrder b with
    | [] => finishBoot b (s, 2)
    | h :: rest =>
      let r := bootFrom s b h
      match fallbackExit r.2, rest with
      | true, o :: _ =>
        let s := wrB (wr (keepFaults s r.1) SECURE_BOOT_STATUS.EXIT_FALLBACK r.2) SECURE_BOOT_STATUS.FALLBACK true
        finishBoot b (bootFrom (resetNvm (raise s SECURE_EVENTS.FALLBACK 0)) b o)
      | _, _ => finishBoot b r

/-- COLD_START: power-good; the boot sequence runs to readiness or to an exit (R399, R402, R499). -/
def execColdStart (b : BootInput) (s : State) : Host.Outcome State Fault Refusal :=
  if s.secure.powerGood then .next s else .next (bootSequence (bootStep1 s b) b)

/-- COLD_RESET: everything returns to its reset state. A latched trip holds until the cold reset ends, with TRIP_N low; the test access
port keeps its instruction. Which of PWRGOOD and RESET_N fell, or both, the command does not tell: it is left free (R499, R504, R507;
logs 55 and 175). -/
def execColdReset (s : State) : Host.Outcome State Fault Refusal :=
  let d := draw s
  let resetN := d.1 % 3 == 1
  let t := { State.reset with
    pending := s.pending
    out := s.out
    fresh := d.2.fresh
    power.hubTrip := s.power.hubTrip
    pins.tripN := !rdB s REGULATOR_TRIP.LATCHED
    pins.resetN := resetN
    pins.pwrgood := d.1 % 3 == 0
    pins.tapIr := tapWith resetN s.pins.tapIr }
  .next (tripFields.foldl (fun t f => wr t f (rd s f)) t)

/-! ## The warm restart (R405, R475 to R477, R492) -/

/-- Pending swaps and staged scale commands are abandoned (R492). -/
def abandonSwaps (s : State) : State :=
  let s := { s with quant.staged := [], slots := s.slots.map fun x => { x with swap := none, formAt := none } }
  (List.range 16).foldl (fun s i => showSlot s i false) s

/-- An active sampling run ends, and its FINAL snapshot is written to the ring at once (R456). -/
def endSampling (s : State) : State :=
  if !runActive s then s
  else
    let s := writeSample s (sampleRecord s false true s.observe.runLost)
    wrB { s with observe.runSeq := s.observe.runSeq + 1 } OBSERVE_SAMPLE_CTRL.ACTIVE false

/-- A warm restart begins at the current dial-second boundary: admission stops (R476). -/
def beginRestart (s : State) : State :=
  let s := wrB s GLOBAL_CTRL.WARM_RESTART false
  let s := bump s GLOBAL_STATUS.WARM_RESTARTS 1
  let s := wrB (wrB s GLOBAL_STATUS.READY false) GLOBAL_STATUS.ADMITTING false
  let s := wr (wr s SECURE_BOOT_TIME.READY_MS 0) SECURE_BOOT_TIME.ADMIT_MS 0
  let s := { s with
    sched.restart := 2
    sched.admitting := false
    secure.startAt := none
    pins.admitN := true
    log.warmRestarts := satN 32 (s.log.warmRestarts + 1)
    tally.restartNow := s.dial.now
    pipe.batches := s.pipe.batches.filter fun b => b.number != batchNow s || !b.heads.isEmpty }
  endSampling (abandonSwaps s)

/-- WARM_RESTART_BEGIN: the dial-second boundary after a request (R476). -/
def execWarmRestartBegin (s : State) : Host.Outcome State Fault Refusal :=
  if s.sched.restart != 1 || !dialSet s || s.secure.halted || bootClass s == 1 then .next s
  else
    let s := if atSecond s then s else advanceTo s (nextSecond s)
    .next (beginRestart s)

/-- Every admitted batch has returned and its verdicts have left (R476). -/
def drainedAll (s : State) : Bool :=
  dataPathEmpty s && s.pipe.flights.isEmpty

/-- A domain is wholly outside the working shape (R476). -/
def outsideShape (s : State) (d : Nat) : Bool :=
  let w := s.sched.workShape
  if d == 2 then fld w 47 32 == 0
  else if d == 3 then fld w 63 48 == 0
  else if d == 4 then fld w 31 24 == 0
  else if 6 ≤ d && d ≤ 13 then !bit w (372 + pdDie d)
  else if 14 ≤ d && d ≤ 17 then fld w (329 + 2 * pdDie d) (328 + 2 * pdDie d) == 0
  else false

/-- Failing units are marked failed in the working shape and in the logbook, and domains wholly outside the shape go off
(R476, R479). -/
def markFailed (s : State) : State :=
  let ks := s.observe.failing
  let marks := ofBits (ks.map fun k => shapeBit (k / 256) (k % 256))
  let log := ks.foldl LogSt.mark s.log
  let s := { s with
    sched.workShape := closeShape (shapeMinus s.sched.workShape marks)
    log := { log with
      failedEvents := satN 32 (log.failedEvents + ks.length)
      due := log.due || !ks.isEmpty }
    observe.failing := [] }
  let s := showLog s
  (List.range 20).foldl (fun s d => if outsideShape s d then switchPd s d false else s) s

/-- Registers whose fields report what a warm restart does not change. -/
def liveFields : List Field := [REGULATOR_PD_STATUS.ON, REGULATOR_STATUS.TRIPPED, CROWN_STATUS.LINK_UP]

/-- The mode fields of REGULATOR_CTRL where a write of them has not yet taken effect (R338, R492; log 172: DEDUCED). -/
def pendingFixed (s : State) : List Field :=
  if rdB s REGULATOR_CTRL.FIXED_FREQ == rdB s REGULATOR_STATUS.FIXED_ACTIVE && rd s REGULATOR_CTRL.FIXED_POINT == s.power.fixedPointNow
  then [] else [REGULATOR_CTRL.FIXED_FREQ, REGULATOR_CTRL.FIXED_POINT]

/-- The fields of the topology and the group where a write of them has not yet taken effect (R439, R488, R492; log 172). -/
def pendingPeer (s : State) : List Field :=
  let w := peerWritten s
  let changed (f : Field) (get : PeerSt → Nat) : List Field := if get w == get s.peer then [] else [f]
  changed PEER_CTRL.TOPOLOGY (·.topology) ++ changed PEER_CTRL.RING_SIZE (·.ringSize) ++ changed PEER_CTRL.X_SIZE (·.xSize) ++
    changed PEER_CTRL.Y_SIZE (·.ySize) ++ changed PEER_CTRL.ADDRESS (·.address) ++
    changed PEER_CTRL.ETHERTYPE (·.etherType) ++ changed PEER_GROUP_CFG.GROUP (·.group)

/-- The registers after a warm restart, with what reports the live state (R17), and the writes that take effect at the restart or under
the new schedule (R492). -/
def restartRegisters (s : State) : State :=
  let t := { s with regs := restartRegs s.regs }
  refreshTemp ((liveFields ++ pendingFixed s ++ pendingPeer s).foldl (fun t f => wr t f (rd s f)) t)

/-- The front stage before it is loaded again: counters, rules and meters are empty (R135, R137, R139). -/
def restartFront (f : FrontSt) : FrontSt := { FrontSt.reset with
  parse := f.parse
  trans := f.trans
  formats := f.formats
  templates := f.templates
  privileged := f.privileged }

/-- The slots emptied: generation counters and state planes are kept (R306, R313). -/
def restartSlots (l : List SlotSt) : List SlotSt := l.map fun x =>
  { SlotSt.reset with counter := x.counter, blocks := x.blocks, wasActive := x.active.isSome || x.wasActive }

/-- The regulator after a warm restart: operating point, readings and failed sensors are kept (R341, R351, R352). -/
def restartPower (p : PowerSt) : PowerSt := { p with
  request := none
  theta := 15
  coolRun := 0
  raw := [0, 0, 0, 0]
  measured := [0, 0, 0, 0]
  failedRead := [false, false, false, false]
  pendingVr := []
  correct := [32768, 32768, 32768, 32768]
  correctNext := [32768, 32768, 32768, 32768]
  estimate := [0, 0, 0, 0]
  telemetryDue := []
  fixedNext := false
  fixedPointNext := 9
  fixedPointNow := 9
  kiloEnergy := 0
  kiloPeriods := 0
  kiloNeed := false
  kiloLast := (0, 0, false)
  choice := none
  moved := (0, 0, 0)
  stretching := []
  slacks := []
  members := []
  given := []
  received := []
  lastGiven := none
  lastSlacks := [] }

/-- The head ports after a warm restart: KEAFEN_V1 and MAX_LANES take effect with the values last written (R117). The status of the
lanes is at its reset value, so that each port is up again once its lanes are told to have lock (R119; log 48). -/
def restartPorts (s : State) : State :=
  { s with ports := s.ports.zipIdx.map fun x => { x.1 with
      v1 := rdB s (HEADPORT_PORT_CFG.KEAFEN_V1 x.2)
      maxLanes := rd s (HEADPORT_PORT_CFG.MAX_LANES x.2)
      retrain := none
      retrainLanes := []
      retrained := []
      ordered := []
      quota := 0
      admitted := 0 } }

/-- The peer links after a warm restart: their status is at its reset value (R452; log 48), and the topology in force is that of the
registers (R439). -/
def restartLinks (s : State) : State :=
  applyPeerConfig { s with peer.links := s.peer.links.map fun l => { l with
      retrain := none
      retrainLanes := []
      retrained := []
      lastHello := none
      group := none
      stuck := [] } }

/-- The batches of which the period that runs still holds keys: their heads take the charges (R362, R365). -/
def keyedBatches (s : State) : List Batch :=
  (s.pipe.batches.filter fun b => b.returned && (s.tally.computeKeys.any (·.1 == b.number) ||
    s.tally.memKeys.any fun k => k.1 == 0 && k.2.1 == b.number)).map fun b => { b with chains := [] }

/-- What a warm restart empties before step 9 is repeated (R17, R155, R206, R307, R313, R316, R413, R427, R492). Of the presets
only those that are held back are applied again, at step 11 (R399, R405; log 44). -/
def emptyForRestart (s : State) : State :=
  let s := abortAllJobs { s with crown.captures := [] }
  let s := restartQueues (enableDataPath s false)
  let s := restartRegisters s
  let s := { s with
    front := restartFront s.front
    slots := restartSlots s.slots
    quant := { staged := [], force := [] }
    power := restartPower s.power
    pipe.batches := keyedBatches s
    pipe.flights := []
    peer.distTx := none
    peer.distRx := []
    observe.hangs := []
    observe.dumpOpen := false }
  let s := (List.range 16).foldl (fun s i => showSlot s i false) (showCrown (showPair s))
  let s := loadTableKeys (loadFront s s.secure.config) s.secure.config
  restartPorts (restartLinks { s with secure.presetLocks := (parsePresets s.secure.config).filter setsLock })

/-- Trace stops where the new schedule does not carry it (R459). -/
def stopTrace (s : State) : State :=
  if rdB s OBSERVE_TRACE_CTRL.ENABLE && !traceAllowedBy s s.sched.chosen then
    raise (wrB s OBSERVE_TRACE_CTRL.ENABLE false) OBSERVE_EVENTS.TRACE_STOPPED 0
  else s

/-- The images in force again: step 9 of R399, unless a digest differs (R405). -/
def reload (s : State) (digestsMatch : Bool) : State × Nat :=
  let s := emptyTable (emptyTable s 0) 1
  if digestsMatch then bootStep9 s
  else
    let r := bootStep9 { s with secure.table := [] }
    ({ r.1 with secure.table := s.secure.table }, 14)

/-- The drain of a warm restart has ended: the schedule stops, failing units are marked, the images are loaded again (R405, R476,
R477). `transient` digest mismatches were cleared by a re-read (R385). While no schedule runs the domains of lanes, dies and stacks are
powered (R332), but for those outside the working shape. -/
def drainEnded (s : State) (transient : Nat) (digestsMatch : Bool) : State :=
  let s := flagEpoch (markFailed (stopSchedule s)) 0x04
  let s := applyDomains (emptyForRestart s) ([2, 3] ++ (List.range 18).drop 6)
  let s := raiseIf (transient != 0) (bump (nvmFaults s transient) SECURE_NVM.TRANSIENT transient)
    SECURE_EVENTS.NVM_TRANSIENT 0
  let r := reload (if digestsMatch then s else nvmFault s true) digestsMatch
  let s := stopTrace r.1
  let s := showExit (wr s SECURE_BOOT_STATUS.STEP (if r.2 == 0 then 9 else 8)) r.2 (if r.2 == 0 then 0 else 2)
  let s := if r.2 == 0 then s else { s with sched.chosen := none }
  { s with sched.restart := 3, sched.genDue := true }

/-- RESTART_DRAIN_END: the admitted batches have returned (R476). -/
def execRestartDrainEnd (transient : Nat) (digestsMatch : Bool) (s : State) : Host.Outcome State Fault Refusal :=
  if s.sched.restart == 2 && drainedAll s then .next (drainEnded s transient digestsMatch) else .next s

/-- A warm restart reaches readiness, `ms` after it began, where R434 and the row of RESTART_READY name RESTART_DONE (R405, R410, R434;
log 46), or ends in the waiting class (R477). -/
def restartReached (s : State) (ms : Nat) : State :=
  let s := (List.range 8).foldl showLanes (applyLockPresets s)
  if rd s SECURE_BOOT_STATUS.EXIT == 0 then
    let s := wr (wrB s GLOBAL_STATUS.READY true) SECURE_BOOT_TIME.READY_MS ms
    raise { wr s SECURE_BOOT_STATUS.STEP 11 with sched.restart := 4, sched.readyBeat := ceilDiv s.dial.time 1000 }
      GLOBAL_EVENTS.RESTART_DONE 0
  else { s with sched.restart := if s.sched.again then 1 else 0, sched.again := false }

/-- RESTART_READY: a warm restart reaches readiness or ends with exit 14 or exit 11 (R405, R477). -/
def execRestartReady (ms : Nat) (s : State) : Host.Outcome State Fault Refusal :=
  if s.sched.restart == 3 then .next (restartReached s ms) else .next s

end Sys2Proof.Machine
end

