-- ==== Sys2Proof/Machine/Lanes.lean ====
section
/-! DEFINITION. The lanes of head ports and peer links: block lock, retrains and lasting faults (R88, R89, R438). -/

namespace Sys2Proof.Machine

/-- A loss on a lane, or of alignment (`lane` none), touches the lanes in use. -/
def laneUsed (lane : Option Nat) (base n : Nat) : Bool := match lane with
  | some l => decide (base ≤ l) && decide (l < base + n)
  | none => true

/-- BLOCK_LOCK_GAINED: the lanes of an enabled port, or of a link, gain lock outside a retrain (R88, R89, R438). -/
def execBlockLockGained (where_ : PortRef) (locked : Nat) (s : State) : Host.Outcome State Fault Refusal :=
  match where_ with
  | .head p =>
    if !portOn s p || (s.ports.getD p PortSt.reset).retrain.isSome then .next s
    else
      let s := wr s (HEADPORT_STATUS.LOCKED p) locked
      match portLanes s p with
      | some (base, n) => .next (if lanesIn locked base n then portLinkUp s p base n else showLanes s p)
      | none => .next (showLanes s p)
  | .peer j =>
    if !pdOn s 4 || s.pins.lanesOff || (getLink s j).retrain.isSome then .next s
    else match linkLanes s j with
      | some (base, n) => .next (if lanesIn locked base n then linkAligned s j base n else s)
      | none => .next s

/-- The lane of a lasting fault: the first that lost lock in the retrain, or, where only alignment was lost, a lane in use (which
one the manual does not say: a free value). -/
def faultyLane (s : State) (lanes : List Nat) (base n : Nat) : State × Nat :=
  match lanes with
  | l :: _ => (s, l)
  | [] => let d := draw s; (d.2, base + d.1 % n)

/-- A lane of a head port is found lastingly faulty: the port goes on with the lanes that are left (R88, R89, R474). -/
def headLaneFailed (s : State) (p l : Nat) : State :=
  let s := faultFound s 9 true (4 * p + l) none
  let s := wr s (HEADPORT_STATUS.LANE_FAULT p) (rd s (HEADPORT_STATUS.LANE_FAULT p) ||| 2 ^ l)
  showLanes (unitFailing (raise (portDown s p) HEADPORT_EVENTS.LANE_FAILED p) 4 (4 * p + l)) p

/-- A lane of a peer link is found lastingly faulty (R438, R474). -/
def peerLaneFailed (s : State) (j l : Nat) : State :=
  let s := faultFound s 10 true (2 * j + l) none
  let s := wr s (PEER_LINK_STATUS.LANE_FAULT j) (rd s (PEER_LINK_STATUS.LANE_FAULT j) ||| 2 ^ l)
  unitFailing (linkLost s j) 5 (2 * j + l)

/-- A lane loses block lock within 1 dial second of a successful retrain in which it had lost it (R89). -/
def lostAgain (now : Nat) (retrained : Map Nat) (lane : Option Nat) : Bool := match lane.bind (Map.get? retrained) with
  | some t => decide (now - t ≤ 1000000000)
  | none => false

/-- A loss that belongs to a retrain: its lane is remembered (R89). -/
def addLane (l : List Nat) (lane : Option Nat) : List Nat := match lane with
  | some x => if l.contains x then l else l ++ [x]
  | none => l

/-- A lane that has lost lock reads so (R119). -/
def laneUnlocked (s : State) (p : Nat) (lane : Option Nat) : State := match lane with
  | some l => wr s (HEADPORT_STATUS.LOCKED p) (rd s (HEADPORT_STATUS.LOCKED p) - (rd s (HEADPORT_STATUS.LOCKED p) &&& 2 ^ l))
  | none => s

/-- LANE_LOCK_LOST: a lane loses block lock, or (`lane` none) the port loses alignment. A loss on an unused lane only shows in LOCKED;
one while the port retrains belongs to that retrain; any other starts a retrain or is a lasting fault (R89, R438). -/
def execLaneLockLost (dt : Nat) (where_ : PortRef) (lane : Option Nat) (s : State) : Host.Outcome State Fault Refusal :=
  let s := advance s dt
  match where_ with
  | .head p =>
    if !portOn s p then .next s
    else
      let s := laneUnlocked s p lane
      let t := s.ports.getD p PortSt.reset
      match portLanes s p with
      | none => .next s
      | some (base, n) =>
        if !laneUsed lane base n then .next s
        else if t.retrain.isSome then
          .next { s with ports := modAt s.ports p fun t => { t with retrainLanes := addLane t.retrainLanes lane } }
        else if !rdB s (HEADPORT_STATUS.ALIGNED p) then .next s
        else if lostAgain s.dial.now t.retrained lane then .next (headLaneFailed s p (lane.getD 0))
        else
          let s := portDown s p
          .next { s with ports := modAt s.ports p fun t => { t with retrain := some s.dial.now, retrainLanes := addLane [] lane } }
  | .peer j =>
    let t := getLink s j
    match linkLanes s j with
    | none => .next s
    | some (base, n) =>
      if !laneUsed lane base n then .next s
      else if t.retrain.isSome then .next (modLink s j fun l => { l with retrainLanes := addLane l.retrainLanes lane })
      else if rd s (PEER_LINK_STATUS.LANES j) == 0 then .next s
      else if lostAgain s.dial.now t.retrained lane then .next (peerLaneFailed s j (lane.getD 0))
      else .next (modLink (linkLost s j) j fun l => { l with retrain := some s.dial.now, retrainLanes := addLane [] lane })

/-- The lanes that a retrain has brought back, with the time of its success. -/
def markRetrained (now : Nat) (m : Map Nat) (lanes : List Nat) : Map Nat := lanes.foldl (fun m l => Map.set m l now) m

/-- RETRAIN_DONE: lock and alignment return within the limit (R89, R438). -/
def execRetrainDone (dt : Nat) (where_ : PortRef) (s : State) : Host.Outcome State Fault Refusal :=
  let s := advance s dt
  match where_ with
  | .head p =>
    match (s.ports.getD p PortSt.reset).retrain, portLanes s p with
    | some t0, some (base, n) =>
      if 10000000 < s.dial.now - t0 then .next s
      else
        let lane := ((s.ports.getD p PortSt.reset).retrainLanes.head?).getD base
        let s := { s with ports := modAt s.ports p fun t =>
          { t with retrain := none, retrainLanes := [], retrained := markRetrained s.dial.now t.retrained t.retrainLanes } }
        let s := portLinkUp (bump (faultFound s 9 false (4 * p + lane) none) (HEADPORT_MISC.RETRAINS p) 1) p base n
        .next (raise s HEADPORT_EVENTS.LANE_RETRAINED p)
    | _, _ => .next s
  | .peer j =>
    match (getLink s j).retrain, linkLanes s j with
    | some t0, some (base, n) =>
      if 10000000 < s.dial.now - t0 then .next s
      else
        let lane := ((getLink s j).retrainLanes.head?).getD base
        let s := modLink s j fun t =>
          { t with retrain := none, retrainLanes := [], retrained := markRetrained s.dial.now t.retrained t.retrainLanes }
        .next (linkAligned (faultFound s 10 false (2 * j + lane) none) j base n)
    | _, _ => .next s

/-- RETRAIN_TIMEOUT: a retrain has not succeeded within 10,000,000 dial ns (R89, R438). -/
def execRetrainTimeout (dt : Nat) (where_ : PortRef) (s : State) : Host.Outcome State Fault Refusal :=
  let s := advance s dt
  match where_ with
  | .head p =>
    let t := s.ports.getD p PortSt.reset
    match t.retrain, portLanes s p with
    | some t0, some (base, n) =>
      if s.dial.now - t0 < 10000000 then .next s
      else
        let x := faultyLane s t.retrainLanes base n
        .next (headLaneFailed x.1 p x.2)
    | _, _ => .next s
  | .peer j =>
    let t := getLink s j
    match t.retrain, linkLanes s j with
    | some t0, some (base, n) =>
      if s.dial.now - t0 < 10000000 then .next s
      else
        let x := faultyLane s t.retrainLanes base n
        .next (peerLaneFailed x.1 j x.2)
    | _, _ => .next s

end Sys2Proof.Machine
end

