-- ==== Sys2Proof/Machine/Pins.lean ====
section
/-! DEFINITION. The board-management interface, the test access port, and what arrives on the management port below crown
(R414, R437, R504 to R507). -/

namespace Sys2Proof.Machine

/-! ## The board-management interface (R506) -/

/-- STATE of the board-management interface: a trip comes before every other state. -/
def bmiState (s : State) : Nat :=
  if rdB s REGULATOR_TRIP.LATCHED then 5
  else if s.secure.halted then 4
  else if !s.secure.powerGood then 0
  else bootClass s + 1

/-- The byte at an offset of the board-management interface; offsets not listed read as zero. -/
def bmiByte (s : State) (o : Nat) : Byte :=
  let v := match o with
    | 0 => 1
    | 1 => bmiState s
    | 2 => rd s SECURE_BOOT_STATUS.STEP
    | 3 => rd s SECURE_BOOT_STATUS.EXIT
    | 4 => rd s SECURE_BOOT_STATUS.EXIT_FALLBACK
    | 5 => tempByte (hottest s)
    | 6 => rd s REGULATOR_TRIP.LATCHED * 128 + rd s REGULATOR_TRIP.DIE % 8
    | n =>
      if 8 ≤ n && n < 16 then rd s SECURE_SERIAL.SERIAL / 256 ^ (15 - n) % 256
      else if 16 ≤ n && n < 24 then rawReg s GLOBAL_ID.VENDOR.addr / 256 ^ (23 - n) % 256
      else 0
  BitVec.ofNat 8 v

/-- BMI_OFFSET_WRITE: a write of one byte sets the offset; the interface runs from step 1 on (R506). -/
def execBmiOffsetWrite (offset : Byte) (s : State) : Host.Outcome State Fault Refusal :=
  .next (if s.secure.powerGood then { s with pins.bmiOffset := offset.toNat } else s)

/-- BMI_READ: bytes from the offset upwards (R506). -/
def execBmiRead (count : Nat) (s : State) : Host.Outcome State Fault Refusal :=
  .next (if s.secure.powerGood then emit s (.bmi ((List.range count).map fun i => bmiByte s (s.pins.bmiOffset + i))) else s)

/-! ## The test access port (R507) -/

/-- The value that IDCODE returns: version 0xB, part 0x2048, manufacturer field 0x4CF. -/
def idcodeValue : Nat := 0xB204899F

/-- A test instruction in force. -/
def tapSelect (s : State) (ir : Nat) : State := { s with pins.tapIr := ir }

/-- A value shifted out on TDO, which is at high impedance during a cold reset (R505). -/
def shiftOut (s : State) (v : Nat) : State := if s.secure.powerGood then emit s (.tdo v) else s

/-- BYPASS: the bypass register, a single bit that captures 0, is selected (R507, IEEE 1149.1). -/
def execBypass (s : State) : Host.Outcome State Fault Refusal := .next (shiftOut (tapSelect s 0) 0)

/-- IDCODE: the identification is shifted out (R507). -/
def execIdcode (s : State) : Host.Outcome State Fault Refusal := .next (shiftOut (tapSelect s 1) idcodeValue)

/-- SAMPLE/PRELOAD: the boundary scan is sampled; what it holds is free, since the manual gives no boundary register (log 3). -/
def execSamplePreload (s : State) : Host.Outcome State Fault Refusal :=
  let r := draw (tapSelect s 2)
  .next (shiftOut r.2 r.1)

/-- An EXTEST instruction: in force only while RESET_N is low, and BYPASS at any other time (R507). -/
def tapExtest (s : State) (ir : Nat) : State := if s.pins.resetN then shiftOut (tapSelect s 0) 0 else tapSelect s ir

/-- EXTEST (R507). -/
def execExtest (s : State) : Host.Outcome State Fault Refusal := .next (tapExtest s 3)

/-- EXTEST_PULSE of IEEE 1149.6 (R507). -/
def execExtestPulse (s : State) : Host.Outcome State Fault Refusal := .next (tapExtest s 4)

/-- EXTEST_TRAIN of IEEE 1149.6 (R507). -/
def execExtestTrain (s : State) : Host.Outcome State Fault Refusal := .next (tapExtest s 5)

/-- TRST_N: the test access port is reset, which selects IDCODE (R507, IEEE 1149.1). -/
def execTrstN (s : State) : Host.Outcome State Fault Refusal := .next (tapSelect s 1)

/-! ## The management port below crown (R414, R437) -/

/-- LINK_CHANGED: the management port goes up or down (R436, R437). -/
def execLinkChanged (up : Bool) (s : State) : Host.Outcome State Fault Refusal :=
  if !pdOn s 1 || rdB s CROWN_STATUS.LINK_UP == up then .next s
  else .next (raise (wrB s CROWN_STATUS.LINK_UP up) CROWN_EVENTS.LINK_CHANGED 0)

/-- The IP version is in use (R436). -/
def ipEnabled (s : State) (v6 : Bool) : Bool :=
  pdOn s 1 && rdB s (if v6 then CROWN_CTRL.IPV6_EN else CROWN_CTRL.IPV4_EN)

/-- The device's own address (R414). -/
def ownAddress (s : State) (v6 : Bool) : Nat :=
  if v6 then rd s CROWN_IPV6_HI.ADDRESS * 2 ^ 64 + rd s CROWN_IPV6_LO.ADDRESS else rd s CROWN_IPV4.ADDRESS

/-- ROUTER_ADVERTISEMENT: the IPv6 default router is learned; a lifetime of 0 withdraws it (R414, RFC 4861). -/
def execRouterAdvertisement (router lifetime : Nat) (s : State) : Host.Outcome State Fault Refusal :=
  if !ipEnabled s true then .next s
  else if lifetime != 0 then .next { s with crown.router6 := some router }
  else if s.crown.router6 == some router then .next { s with crown.router6 := none }
  else .next s

/-- A neighbour's MAC address noted. -/
def noteNeighbour (s : State) (v6 : Bool) (ip mac : Nat) : State :=
  { s with crown.neighbours := s.crown.neighbours.filter (fun n => !(n.1 == v6 && n.2.1 == ip)) ++ [(v6, ip, mac)] }

/-- ADDRESS_RESOLUTION: an ARP or neighbour discovery message (R414, RFC 826, RFC 4861): one for this device notes the sender
and, where it asks, is answered; another one only refreshes a neighbour that is known. -/
def execAddressResolution (v6 : Bool) (target sender senderMac : Nat) (isRequest : Bool) (s : State) :
    Host.Outcome State Fault Refusal :=
  if !ipEnabled s v6 then .next s
  else if target == ownAddress s v6 then
    let s := noteNeighbour s v6 sender senderMac
    .next (if isRequest then emit s (.neighbourReply v6 sender (rd s CROWN_MAC.ADDRESS)) else s)
  else if s.crown.neighbours.any fun n => n.1 == v6 && n.2.1 == sender then .next (noteNeighbour s v6 sender senderMac)
  else .next s

/-- ECHO_REQUEST: an ICMP or ICMPv6 echo request is answered (R414). -/
def execEchoRequest (v6 : Bool) (source : Nat) (payload : Bytes) (s : State) : Host.Outcome State Fault Refusal :=
  .next (if ipEnabled s v6 then emit s (.echoReply v6 source payload) else s)

end Sys2Proof.Machine
end

