-- ==== Sys2Proof/Machine/Dispatch.lean ====
section
/-! DEFINITION. The effect of every command, one arm for each row of spec/opcode_table.json. -/

namespace Sys2Proof.Machine

def exec (i : Instr) (s : State) : Host.Outcome State Fault Refusal :=
  match i with
  | .coldStart b => Sys2Proof.Machine.execColdStart b s
  | .coldReset => Sys2Proof.Machine.execColdReset s
  | .admissionBegin => Sys2Proof.Machine.execAdmissionBegin s
  | .start => Sys2Proof.Machine.execStart s
  | .warmRestart => Sys2Proof.Machine.execWarmRestart s
  | .warmRestartBegin => Sys2Proof.Machine.execWarmRestartBegin s
  | .restartDrainEnd transient digestsMatch => Sys2Proof.Machine.execRestartDrainEnd transient digestsMatch s
  | .restartReady ms => Sys2Proof.Machine.execRestartReady ms s
  | .ppsEdge dt => Sys2Proof.Machine.execPpsEdge dt s
  | .todMessage dt message => Sys2Proof.Machine.execTodMessage dt message s
  | .ppsTimeout dt => Sys2Proof.Machine.execPpsTimeout dt s
  | .ptpSync dt m => Sys2Proof.Machine.execPtpSync dt m s
  | .ptpFollowUp dt net master sequence originNs correctionNs => Sys2Proof.Machine.execPtpFollowUp dt net master sequence originNs correctionNs s
  | .ptpDelayResp dt net master sequence receiveNs correctionNs => Sys2Proof.Machine.execPtpDelayResp dt net master sequence receiveNs correctionNs s
  | .ptpAnnounce dt m => Sys2Proof.Machine.execPtpAnnounce dt m s
  | .syncTimeout dt => Sys2Proof.Machine.execSyncTimeout dt s
  | .announceTimeout dt => Sys2Proof.Machine.execAnnounceTimeout dt s
  | .sourceChange => Sys2Proof.Machine.execSourceChange s
  | .fallbackReturn dt => Sys2Proof.Machine.execFallbackReturn dt s
  | .holdoverWarn dt => Sys2Proof.Machine.execHoldoverWarn dt s
  | .holdoverExpired dt => Sys2Proof.Machine.execHoldoverExpired dt s
  | .stepAdmissionStop => Sys2Proof.Machine.execStepAdmissionStop s
  | .stepTakeTime => Sys2Proof.Machine.execStepTakeTime s
  | .stepDone => Sys2Proof.Machine.execStepDone s
  | .dialSecondBoundary => Sys2Proof.Machine.execDialSecondBoundary s
  | .beatStart => Sys2Proof.Machine.execBeatStart s
  | .roundBoundary => Sys2Proof.Machine.execRoundBoundary s
  | .shedDecision => Sys2Proof.Machine.execShedDecision s
  | .budgetHeld activity => Sys2Proof.Machine.execBudgetHeld activity s
  | .headBundle dt port frame fcsGood words faults also => Sys2Proof.Machine.execHeadBundle dt port frame fcsGood words faults also s
  | .macControlFrame port => Sys2Proof.Machine.execMacControlFrame port s
  | .laneLockLost dt where_ lane => Sys2Proof.Machine.execLaneLockLost dt where_ lane s
  | .retrainDone dt where_ => Sys2Proof.Machine.execRetrainDone dt where_ s
  | .retrainTimeout dt where_ => Sys2Proof.Machine.execRetrainTimeout dt where_ s
  | .batchClose batch => Sys2Proof.Machine.execBatchClose batch s
  | .operationFetch batch slot faults => Sys2Proof.Machine.execOperationFetch batch slot faults s
  | .operationGather tag faults => Sys2Proof.Machine.execOperationGather tag faults s
  | .barrier => Sys2Proof.Machine.execBarrier s
  | .operationRetire faults => Sys2Proof.Machine.execOperationRetire faults s
  | .computeWindowEnd batch => Sys2Proof.Machine.execComputeWindowEnd batch s
  | .catchupEnd => Sys2Proof.Machine.execCatchupEnd s
  | .returnWindowStart batch faults => Sys2Proof.Machine.execReturnWindowStart batch faults s
  | .verdictTransmit dt port faults => Sys2Proof.Machine.execVerdictTransmit dt port faults s
  | .shedBundleTimeout dt port => Sys2Proof.Machine.execShedBundleTimeout dt port s
  | .commit => Sys2Proof.Machine.execCommit s
  | .discard => Sys2Proof.Machine.execDiscard s
  | .ruleSetApply => Sys2Proof.Machine.execRuleSetApply s
  | .meterConfigApply => Sys2Proof.Machine.execMeterConfigApply s
  | .cuckooInsert table faults => Sys2Proof.Machine.execCuckooInsert table faults s
  | .rebuildStart table => Sys2Proof.Machine.execRebuildStart table s
  | .rebuildPlace read => Sys2Proof.Machine.execRebuildPlace read s
  | .rebuildDone table => Sys2Proof.Machine.execRebuildDone table s
  | .rakeSweepStart table => Sys2Proof.Machine.execRakeSweepStart table s
  | .rakeVisit table faults => Sys2Proof.Machine.execRakeVisit table faults s
  | .tableRead job faults => Sys2Proof.Machine.execTableRead job faults s
  | .tableWrite job faults => Sys2Proof.Machine.execTableWrite job faults s
  | .tableInsert job faults => Sys2Proof.Machine.execTableInsert job faults s
  | .tableDelete job faults => Sys2Proof.Machine.execTableDelete job faults s
  | .tableLock job faults => Sys2Proof.Machine.execTableLock job faults s
  | .tableUnlock job faults => Sys2Proof.Machine.execTableUnlock job faults s
  | .tableReadState job faults => Sys2Proof.Machine.execTableReadState job faults s
  | .tableWriteState job faults => Sys2Proof.Machine.execTableWriteState job faults s
  | .queueFlush queue => Sys2Proof.Machine.execQueueFlush queue s
  | .queueDescriptorWrite queue word value => Sys2Proof.Machine.execQueueDescriptorWrite queue word value s
  | .itemTake queue faults => Sys2Proof.Machine.execItemTake queue faults s
  | .qRelease slot tensor outlier lo hi => Sys2Proof.Machine.execQRelease slot tensor outlier lo hi s
  | .qPin slot tensor outlier lo hi => Sys2Proof.Machine.execQPin slot tensor outlier lo hi s
  | .qBound slot tensor outlier lo hi => Sys2Proof.Machine.execQBound slot tensor outlier lo hi s
  | .qCommandsApply => Sys2Proof.Machine.execQCommandsApply s
  | .arrayQSelect slot tensor => Sys2Proof.Machine.execArrayQSelect slot tensor s
  | .stage slot => Sys2Proof.Machine.execStage slot s
  | .stageComplete slot => Sys2Proof.Machine.execStageComplete slot s
  | .slotDiscard slot => Sys2Proof.Machine.execSlotDiscard slot s
  | .activate slot => Sys2Proof.Machine.execActivate slot s
  | .rollback slot => Sys2Proof.Machine.execRollback slot s
  | .release slot => Sys2Proof.Machine.execRelease slot s
  | .adaptStart slot => Sys2Proof.Machine.execAdaptStart slot s
  | .adaptStop slot => Sys2Proof.Machine.execAdaptStop slot s
  | .promote slot => Sys2Proof.Machine.execPromote slot s
  | .swap slot => Sys2Proof.Machine.execSwap slot s
  | .drainEnd slot => Sys2Proof.Machine.execDrainEnd slot s
  | .candidateForm slot => Sys2Proof.Machine.execCandidateForm slot s
  | .autoRelease slot => Sys2Proof.Machine.execAutoRelease slot s
  | .adaptUnit slot => Sys2Proof.Machine.execAdaptUnit slot s
  | .pdSwitch => Sys2Proof.Machine.execPdSwitch s
  | .domainReady domain => Sys2Proof.Machine.execDomainReady domain s
  | .periodEnd hub links arrays fabric memory => Sys2Proof.Machine.execPeriodEnd hub links arrays fabric memory s
  | .telemetryRead => Sys2Proof.Machine.execTelemetryRead s
  | .telemetryResult entry first second => Sys2Proof.Machine.execTelemetryResult entry first second s
  | .droopStretchStart cluster => Sys2Proof.Machine.execDroopStretchStart cluster s
  | .droopStretchEnd cluster cycles => Sys2Proof.Machine.execDroopStretchEnd cluster cycles s
  | .sensorRead die sensor first second => Sys2Proof.Machine.execSensorRead die sensor first second s
  | .thermalCheck => Sys2Proof.Machine.execThermalCheck s
  | .trip die sensor => Sys2Proof.Machine.execTrip die sensor s
  | .slackPublish => Sys2Proof.Machine.execSlackPublish s
  | .groupExchangeEval => Sys2Proof.Machine.execGroupExchangeEval s
  | .epochClose => Sys2Proof.Machine.execEpochClose s
  | .tallyClose => Sys2Proof.Machine.execTallyClose s
  | .sign => Sys2Proof.Machine.execSign s
  | .signLate => Sys2Proof.Machine.execSignLate s
  | .tallyCollected seq => Sys2Proof.Machine.execTallyCollected seq s
  | .tallySelect account => Sys2Proof.Machine.execTallySelect account s
  | .sessionOpen clientKey handshake => Sys2Proof.Machine.execSessionOpen clientKey handshake s
  | .sessionClose session => Sys2Proof.Machine.execSessionClose session s
  | .badMessage session header => Sys2Proof.Machine.execBadMessage session header s
  | .identity r => Sys2Proof.Machine.execIdentity r s
  | .regRead r address count => Sys2Proof.Machine.execRegRead r address count s
  | .regWrite r pairs => Sys2Proof.Machine.execRegWrite r pairs s
  | .dequeue r queue max => Sys2Proof.Machine.execDequeue r queue max s
  | .tallyRoot r seq => Sys2Proof.Machine.execTallyRoot r seq s
  | .tallyLeaves r tree first count seq => Sys2Proof.Machine.execTallyLeaves r tree first count seq s
  | .tallyProof r tree index seq => Sys2Proof.Machine.execTallyProof r tree index seq s
  | .attest r nonce => Sys2Proof.Machine.execAttest r nonce s
  | .jobPost r payload => Sys2Proof.Machine.execJobPost r payload s
  | .jobAbort r job => Sys2Proof.Machine.execJobAbort r job s
  | .jobStatus r job => Sys2Proof.Machine.execJobStatus r job s
  | .jobStart queue faults => Sys2Proof.Machine.execJobStart queue faults s
  | .jobRetire job => Sys2Proof.Machine.execJobRetire job s
  | .ruleWrite job => Sys2Proof.Machine.execRuleWrite job s
  | .ruleRead job => Sys2Proof.Machine.execRuleRead job s
  | .meterWrite job => Sys2Proof.Machine.execMeterWrite job s
  | .meterRead job => Sys2Proof.Machine.execMeterRead job s
  | .counterRead job => Sys2Proof.Machine.execCounterRead job s
  | .vmapWrite job => Sys2Proof.Machine.execVmapWrite job s
  | .vmapRead job => Sys2Proof.Machine.execVmapRead job s
  | .labelWrite job => Sys2Proof.Machine.execLabelWrite job s
  | .modelLoad job => Sys2Proof.Machine.execModelLoad job s
  | .scheduleLoad job => Sys2Proof.Machine.execScheduleLoad job s
  | .capture job => Sys2Proof.Machine.execCapture job s
  | .captureForward queue => Sys2Proof.Machine.execCaptureForward queue s
  | .capturePush queue sessionReady => Sys2Proof.Machine.execCapturePush queue sessionReady s
  | .crownCtrlWrite address value => Sys2Proof.Machine.execCrownCtrlWrite address value s
  | .helloSend => Sys2Proof.Machine.execHelloSend s
  | .hello dt link frame => Sys2Proof.Machine.execHello dt link frame s
  | .helloTimeout link => Sys2Proof.Machine.execHelloTimeout link s
  | .peerFrameError link secondFailure => Sys2Proof.Machine.execPeerFrameError link secondFailure s
  | .nak link frame => Sys2Proof.Machine.execNak link frame s
  | .credit link frame => Sys2Proof.Machine.execCredit link frame s
  | .request link frame => Sys2Proof.Machine.execRequest link frame s
  | .response link frame => Sys2Proof.Machine.execResponse link frame s
  | .relayTimeout message => Sys2Proof.Machine.execRelayTimeout message s
  | .distStart => Sys2Proof.Machine.execDistStart s
  | .distData link frame => Sys2Proof.Machine.execDistData link frame s
  | .distDone link frame => Sys2Proof.Machine.execDistDone link frame s
  | .distRxTimeout slot => Sys2Proof.Machine.execDistRxTimeout slot s
  | .distDoneTimeout => Sys2Proof.Machine.execDistDoneTimeout s
  | .slack link frame => Sys2Proof.Machine.execSlack link frame s
  | .eventSend dt => Sys2Proof.Machine.execEventSend dt s
  | .event dt link frame => Sys2Proof.Machine.execEvent dt link frame s
  | .sampleStart => Sys2Proof.Machine.execSampleStart s
  | .sampleStop => Sys2Proof.Machine.execSampleStop s
  | .runBoundary => Sys2Proof.Machine.execRunBoundary s
  | .snapshot => Sys2Proof.Machine.execSnapshot s
  | .counterSample => Sys2Proof.Machine.execCounterSample s
  | .traceEnable value => Sys2Proof.Machine.execTraceEnable value s
  | .traceDrain => Sys2Proof.Machine.execTraceDrain s
  | .mark value => Sys2Proof.Machine.execMark value s
  | .hang detector subject => Sys2Proof.Machine.execHang detector subject s
  | .dumpDone dt => Sys2Proof.Machine.execDumpDone dt s
  | .logbookInterval => Sys2Proof.Machine.execLogbookInterval s
  | .writeNow => Sys2Proof.Machine.execWriteNow s
  | .clearFailed => Sys2Proof.Machine.execClearFailed s
  | .logbookWrite firstGood secondGood => Sys2Proof.Machine.execLogbookWrite firstGood secondGood s
  | .bmiOffsetWrite offset => Sys2Proof.Machine.execBmiOffsetWrite offset s
  | .bmiRead count => Sys2Proof.Machine.execBmiRead count s
  | .bypass => Sys2Proof.Machine.execBypass s
  | .idcode => Sys2Proof.Machine.execIdcode s
  | .samplePreload => Sys2Proof.Machine.execSamplePreload s
  | .extest => Sys2Proof.Machine.execExtest s
  | .extestPulse => Sys2Proof.Machine.execExtestPulse s
  | .extestTrain => Sys2Proof.Machine.execExtestTrain s
  | .dialNowSecRead => Sys2Proof.Machine.execDialNowSecRead s
  | .headportPortCfgWrite port value => Sys2Proof.Machine.execHeadportPortCfgWrite port value s
  | .registerWrite address value => Sys2Proof.Machine.execRegisterWrite address value s
  | .delayReq dt => Sys2Proof.Machine.execDelayReq dt s
  | .blockLockGained where_ locked => Sys2Proof.Machine.execBlockLockGained where_ locked s
  | .linkChanged up => Sys2Proof.Machine.execLinkChanged up s
  | .routerAdvertisement router lifetime => Sys2Proof.Machine.execRouterAdvertisement router lifetime s
  | .addressResolution v6 target sender senderMac isRequest => Sys2Proof.Machine.execAddressResolution v6 target sender senderMac isRequest s
  | .echoRequest v6 source payload => Sys2Proof.Machine.execEchoRequest v6 source payload s
  | .powerOnSecond => Sys2Proof.Machine.execPowerOnSecond s
  | .trstN => Sys2Proof.Machine.execTrstN s

end Sys2Proof.Machine
end

