-- ==== Sys2Proof/Safety.lean ====
section
/-! DEFINITION. What claims are stated in terms of: the parts of the state, what a command leaves alone, and the invariant that
every step keeps. -/

namespace Sys2Proof.Machine

/-! ## Frames -/

/-- The parts of the state, one for each field of `State`. -/
inductive Part where
  | pending | regs | dial | sched | ports | front | flow | endpoint | queue | pipe | slots | quant | power | tally | secure
  | crown | peer | observe | log | pins | hbm | out | noticeSeq | fresh
  deriving DecidableEq, Repr

/-- A part is the same in two states. -/
def Part.same (s t : State) : Part → Prop
  | .pending => t.pending = s.pending
  | .regs => t.regs = s.regs
  | .dial => t.dial = s.dial
  | .sched => t.sched = s.sched
  | .ports => t.ports = s.ports
  | .front => t.front = s.front
  | .flow => t.flow = s.flow
  | .endpoint => t.endpoint = s.endpoint
  | .queue => t.queue = s.queue
  | .pipe => t.pipe = s.pipe
  | .slots => t.slots = s.slots
  | .quant => t.quant = s.quant
  | .power => t.power = s.power
  | .tally => t.tally = s.tally
  | .secure => t.secure = s.secure
  | .crown => t.crown = s.crown
  | .peer => t.peer = s.peer
  | .observe => t.observe = s.observe
  | .log => t.log = s.log
  | .pins => t.pins = s.pins
  | .hbm => t.hbm = s.hbm
  | .out => t.out = s.out
  | .noticeSeq => t.noticeSeq = s.noticeSeq
  | .fresh => t.fresh = s.fresh

/-- Every part outside a list is the same in two states. -/
def Untouched (F : List Part) (s t : State) : Prop := ∀ p, F.contains p = false → p.same s t

/-- Every register field outside a list is stored as before: whatever is read of it, of any width, is as before. -/
def RegsKept (fs : List Field) (s t : State) : Prop :=
  ∀ g : Field, (∀ f ∈ fs, f.key ≠ g.key) → rd t g = rd s g

/-- A frame: parts outside one list and register fields outside another are as before. -/
def OnlyChanges (F : List Part) (fs : List Field) (s t : State) : Prop := Untouched (.regs :: F) s t ∧ RegsKept fs s t

/-- A command answers a next state of which something holds. -/
def Answers (o : Host.Outcome State Fault Refusal) (P : State → Prop) : Prop := ∃ t, o = .next t ∧ P t

/-- A command answers a next state of which P holds, and from the state b only parts of F and register fields of fs change. -/
def Does (o : Host.Outcome State Fault Refusal) (b : State) (F : List Part) (fs : List Field) (P : State → Prop) : Prop :=
  Answers o fun t => P t ∧ OnlyChanges F fs b t

/-- A command answers a next state of which P holds, and from the state b only parts of F change. -/
def Reaches (o : Host.Outcome State Fault Refusal) (b : State) (F : List Part) (P : State → Prop) : Prop :=
  Answers o fun t => P t ∧ Untouched F b t

/-- The parts that a notice touches: its queue, the trace and the notice number (R429, R461). -/
def noticeParts : List Part := [.queue, .observe, .noticeSeq]

/-- The register fields that a notice may touch beside the event's own flag (R194, R195, R198, R202, R203, R430, R460). -/
def noticeFields : List Field :=
  [GLOBAL_STATUS.NOTICES_UNROUTED, GLOBAL_EVENTS.ROUTE_INVALID, QUEUE_EVENTS.LEVEL, QUEUE_EVENTS.NOTICE_DROP,
   QUEUE_EVENTS.MISMATCH_RESET, QUEUE_NOTICE_DROPS.COUNT, QUEUE_LOST.ITEMS, QUEUE_LAST_RESET.CAUSE, QUEUE_LAST_RESET.QUEUE,
   QUEUE_RESETS.MISMATCH, OBSERVE_TRACE_LOST.COUNT, OBSERVE_EVENTS.TRACE_LOST]

/-! ## The dial -/

/-- Neither limit of R54 has passed: that of the Announces and that of the Syncs. -/
abbrev PtpInTime (s : State) : Prop :=
  overdue s s.dial.lastAnnounce (announceTimeoutNs s) = false ∧ overdue s s.dial.lastSync (3 * syncIntervalNs s) = false

/-! ## Head bundles -/

/-- The causes for which port p discards a frame, in order (R92; a configured EtherType below 0x0600 matches no frame). The length is
that of the body behind the EtherType, without the frame check sequence. -/
def discardCauses (s : State) (p : Nat) (fcsGood : Bool) (uncorrectable : Nat) (frame : Bytes) (b : Bundle) : List (Prop × Discard) :=
  let f := parseFrame frame
  let version := if (s.ports.getD p PortSt.reset).v1 then 1 else 2
  [(fcsGood = false ∨ uncorrectable ≠ 0, .fcs),
   (f.etherType ≠ rd s HEADPORT_CTRL.ETHERTYPE ∨ rd s HEADPORT_CTRL.ETHERTYPE < 0x600 ∨
      f.tagged = true ∧ rdB s HEADPORT_CTRL.ACCEPT_VLAN = false, .etherType),
   (f.body.length < 32 ∨ b.version ≠ version ∨ b.kind ≠ 0x01 ∨ b.port ≠ p ∨ b.count < 1 ∨ 56 < b.count ∨ b.units < 1 ∨ 8 < b.units,
      .header),
   (9216 < frame.length + 4 ∨ f.body.length ≠ 32 + b.count * (32 + 32 * b.units), .length),
   (∃ r ∈ b.records, r.nsGood = false, .header)]

/-! ## Crown requests -/

/-- A request arrives on an open session while crown is powered and the session's last direct operation is answered, so that it is
read (R420). -/
abbrev Heard (s : State) (r : Request) (x : Session) : Prop :=
  findSession s r.session = some x ∧ pdOn s 1 = true ∧ sessionBusy s x = false

/-- A request that is read comes from its session's operator, is an operation that only reads where the device is in the recovery class,
and names this device (R406, R416, R418). -/
abbrev Served (s : State) (r : Request) (x : Session) (op : Nat) : Prop :=
  Heard s r x ∧ r.operator = x.operator ∧ (bootClass s = 1 → readOp op = true) ∧ r.dest = s.peer.address

/-- The answer to a request of a session (R418). -/
def answerTo (s : State) (x : Session) (r : Request) (op status : Nat) (payload : Bytes) : Out :=
  .crown x.index (crownMessage s.peer.address ⟨2, op, r.dest, r.layer, r.operator, r.tag, status⟩ payload)

/-- A request, its code and its payload, as the table of R420 gives them. -/
def RequestRow (c : Instr) (r : Request) (op : Nat) (payload : Bytes) : Prop :=
  ∃ (address count queue max seq tree first n job : Nat) (pairs : List (Nat × Word)),
    (c, op, payload) ∈ [(Instr.identity r, 0x01, ([] : Bytes)), (.regRead r address count, 0x02, natBe 8 address ++ natBe 8 count),
      (.regWrite r pairs, 0x03, pairs.flatMap fun p => natBe 8 p.1 ++ natBe 8 p.2.toNat),
      (.dequeue r queue max, 0x04, natBe 8 queue ++ natBe 8 max), (.tallyRoot r seq, 0x05, natBe 8 seq),
      (.tallyLeaves r tree first n seq, 0x06,
        natBe 1 tree ++ natBe 1 0 ++ natBe 2 first ++ natBe 2 n ++ natBe 2 0 ++ natBe 8 seq),
      (.tallyProof r tree first seq, 0x07, natBe 1 tree ++ natBe 1 0 ++ natBe 2 first ++ natBe 4 0 ++ natBe 8 seq),
      (.attest r payload, 0x08, payload), (.jobPost r payload, 0x20, payload), (.jobAbort r job, 0x22, natBe 8 job),
      (.jobStatus r job, 0x23, natBe 8 job)]

/-! ## Energy -/

/-- All that an epoch has been charged: the pool, and what its accounts and its jobs have taken of the classes (R364). -/
def Epoch.charged (e : Epoch) : Nat :=
  e.pool + sumN (e.accounts.map fun a => a.2.dyn) + sumN (e.jobs.map fun j => j.acc.dyn)

/-! ## The invariant -/

/-- The register store is in canonical order. -/
def RegsOk (m : Map Nat) : Prop := Map.sorted m = true

/-- Byte memory is canonical. -/
def MemOk (m : Mem) : Prop := Mem.wf m = true

/-- The spare of the IMAGE_STORE is canonical memory. -/
def SchedOk (x : SchedSt) : Prop := MemOk x.spare

/-- There are 8 head ports (R86). -/
def PortsOk (l : List PortSt) : Prop := l.length = 8

/-- There are 16 model slots (R305). -/
abbrev SlotsOk (l : List SlotSt) : Prop := l.length = 16

/-- At most 2,048 operations are in flight (R36). -/
def PipeOk (x : PipeSt) : Prop := x.flights.length ≤ 2048

/-- The tally ring has 64 entries (R378). -/
def TallyOk (x : TallySt) : Prop := x.ring.length ≤ 64

/-- The last 4,096 retired jobs are known (R427). -/
def CrownOk (x : CrownSt) : Prop := x.retired.length ≤ 4096

/-- There are 4 peer links (R438) and 16 reassembly buffers (R446). -/
abbrev PeerOk (x : PeerSt) : Prop := x.links.length = 4 ∧ x.buffers.length ≤ 16

/-- The dump area is canonical memory, the trace buffer holds 2,048 records (R460), 4 snapshots wait (R457). -/
def ObserveOk (x : ObserveSt) : Prop := MemOk x.dump ∧ x.trace.length ≤ traceCapacity ∧ x.snapshots.length ≤ 4

/-- The logbook keeps the last 8 trips (R479). -/
def LogOk (x : LogSt) : Prop := x.tripLog.length ≤ 8

/-- What every step keeps: memory and the register store in canonical form, the numbers of ports, slots and links, and the
capacities of the operation window, the trace buffer, the snapshot buffer, the tally ring, the job history, the reassembly
buffers and the trip log. -/
structure Inv (s : State) : Prop where
  regs : RegsOk s.regs
  sched : SchedOk s.sched
  ports : PortsOk s.ports
  pipe : PipeOk s.pipe
  slots : SlotsOk s.slots
  tally : TallyOk s.tally
  crown : CrownOk s.crown
  peer : PeerOk s.peer
  observe : ObserveOk s.observe
  log : LogOk s.log
  hbm : MemOk s.hbm

end Sys2Proof.Machine
end

