-- ==== Sys2Proof/Certificates/Slice0/Obligations.lean ====
section
/-! DEFINITION. The statements about the model, for the provers. -/

open Sys2Proof Sys2Proof.Machine

/-! ## The block as a whole -/

/-- A step runs the command at the front of the queue on the state with the queue's rest; on an empty queue the block idles (the
queue and the idling are the model's, log 1). -/
def Obligations.StepRunsTheFrontCommand : Prop :=
  (∀ (c : Instr) (s : State) (rest : List Instr), s.pending = c :: rest → step s = exec c { s with pending := rest }) ∧
  ∀ s : State, s.pending = [] → step s = .next s

/-- Every command answers a next state, whatever the state and its operands, and leaves the queue of waiting commands alone. -/
def Obligations.EveryCommandAnswersAndKeepsTheQueue : Prop :=
  ∀ (c : Instr) (s : State), Answers (exec c s) fun t => t.pending = s.pending

/-- Every step keeps the invariant of `Safety`: memories and the register store in canonical form, 8 ports, 16 slots, 4 links, and
no buffer beyond its capacity. -/
def Obligations.EveryStepKeepsTheInvariant : Prop :=
  ∀ s t : State, Inv s → step s = .next t → Inv t

/-- The state after reset meets the invariant. -/
def Obligations.ResetMeetsTheInvariant : Prop :=
  Inv State.reset

/-- COLD_RESET returns every register field to its reset value and every part of the state to its state after reset, but for the
waiting commands, what has left the device, the place in the sequence of free values, the instruction of the test access port
(log 55, the model's choice), and what a trip leaves (log 175): the fields that record it are kept, TRIP_N stays low where it was latched, and
a trip of the hub die stays one. The reset values of data that the manual implies are those of log 35. PWRGOOD, RESET_N or
both are low from then on, which of them is open; an instruction that drives pins is given up while RESET_N is high. -/
def Obligations.ColdResetReturnsEveryRegister : Prop :=
  ∀ s : State, Answers (exec .coldReset s) fun t =>
    (∀ f ∈ tripFields, rd t f = rd s f % 2 ^ f.width) ∧
    (∀ f : Field, (∀ g ∈ tripFields, g.key ≠ f.key) → rd t f = f.reset) ∧
    (rdB s REGULATOR_TRIP.LATCHED = true → t.pins.tripN = false) ∧
    (t.pins.pwrgood && t.pins.resetN) = false ∧
    t = { State.reset with
      regs := t.regs
      pending := s.pending
      out := s.out
      fresh := s.fresh + 1
      power.hubTrip := s.power.hubTrip
      pins := { PinSt.reset with
        tripN := !rdB s REGULATOR_TRIP.LATCHED
        resetN := t.pins.resetN
        pwrgood := t.pins.pwrgood
        tapIr := tapWith t.pins.resetN s.pins.tapIr } }

/-- The memory of the device is byte memory: a byte reads as what was last written to it, a write leaves every other byte, and a
byte that nothing has written reads as 0 (log 5, the model's choice). -/
def Obligations.MemoryReadsBackWhatIsWritten : Prop :=
  (∀ (m : Mem) (a : Nat) (v : BitVec 8), Mem.read (Mem.write m a v) a = v) ∧
  (∀ (m : Mem) (a b : Nat) (v : BitVec 8), b ≠ a → Mem.read (Mem.write m a v) b = Mem.read m b) ∧
  (∀ (m : Mem) (a : Nat) (bs : Bytes), Mem.readBytes (Mem.writeBytes m a bs) a bs.length = bs) ∧
  ∀ a : Nat, Mem.read [] a = Mem.unlisted

/-- A software write of a register treats each field by its access code: a read-only field is as before, an RW field takes the value
written, a bit of a W1C field is cleared and a bit of a W1S field set exactly where a 1 is written, and an RWL field takes the value
only while the block's LOCK is clear; while it is set the field keeps its value and the register operation is answered with the
locked status. What a field last took is what it reads. -/
def Obligations.WritesFollowTheAccessCodes : Prop :=
  (∀ (s : State) (a v : Nat) (f : Field), f ∈ fieldsAt a →
    (f.access = .ro → rd (writeFields s a v) f = rd s f) ∧
    (f.access = .rw → rd (writeFields s a v) f = v / 2 ^ f.lsb % 2 ^ f.width) ∧
    (f.access = .w1c → ∀ i < f.width,
      (rd (writeFields s a v) f).testBit i = ((rd s f).testBit i && !v.testBit (f.lsb + i))) ∧
    (f.access = .w1s → ∀ i < f.width,
      (rd (writeFields s a v) f).testBit i = ((rd s f).testBit i || v.testBit (f.lsb + i))) ∧
    (f.access = .rwl → rd (writeFields s a v) f =
      if blockLocked s (blockOf a) then rd s f else v / 2 ^ f.lsb % 2 ^ f.width)) ∧
  ∀ (s : State) (p : Bytes) (rest : List Bytes) (k : Nat) (f : Field), goodAddress (beAt p 0 8) = true →
    f ∈ fieldsAt (beAt p 0 8) → f.access = .rwl → blockLocked s (blockOf (beAt p 0 8)) = true →
    (writePairs (p :: rest) s k).2.2 = 5

/-! ## Start, reset and restart -/

/-- COLD_START brings power-good where there was none; START chooses a schedule and names the next dial second, or is refused;
ADMISSION_BEGIN starts the chosen schedule where its conditions hold. A warm restart: WARM_RESTART requests it, once or again;
WARM_RESTART_BEGIN ends admission and starts the drain, in no halt and outside the recovery class (log 50); RESTART_DRAIN_END ends
the drain; RESTART_READY leaves the device ready to admit again, which is RESTART_DONE (R434; log 46), or without a schedule. -/
def Obligations.StartAndRestartRunThrough : Prop :=
  ((∀ (s : State) (b : BootInput), s.secure.powerGood = false →
    Reaches (exec (.coldStart b) s) s
      [.regs, .dial, .sched, .ports, .front, .flow, .endpoint, .queue, .pipe, .slots, .quant, .power, .tally, .secure, .crown,
        .peer, .observe, .log, .pins, .out, .noticeSeq, .fresh] fun t => t.secure.powerGood = true) ∧
  (∀ (s : State) (c : Schedule), bootClass s = 2 → chooseSchedule s = some c → requiredStaged s = true →
    Does (exec .start s) s [.sched, .secure] [SECURE_CTRL.START, SECURE_BOOT_STATUS.CLASS] fun t =>
      t.sched = { s.sched with chosen := some c } ∧ t.secure = { s.secure with startAt := some (dialSeconds s + 1) } ∧
      bootClass t = 0 ∧ rdB t SECURE_CTRL.START = false) ∧
  (∀ s : State, bootClass s = 2 → (chooseSchedule s = none ∨ requiredStaged s = false) →
    Does (exec .start s) s noticeParts (SECURE_CTRL.START :: SECURE_EVENTS.START_REFUSED :: noticeFields) fun t =>
      rdB t SECURE_EVENTS.START_REFUSED = true) ∧
  ∀ (s : State) (c : Schedule), s.sched.chosen = some c → (rdB s GLOBAL_STATUS.READY || s.secure.startAt.isSome) = true →
    s.sched.running = none → dialSet s = true → rdB s REGULATOR_TRIP.LATCHED = false → s.sched.restart ≠ 2 →
    s.sched.restart ≠ 3 →
    admissionDue (if admissionDue s c then s else advanceTo s (admissionBeat s c)) c = true →
    Reaches (exec .admissionBegin s) s
      [.regs, .dial, .sched, .ports, .front, .flow, .endpoint, .queue, .pipe, .slots, .quant, .power, .secure, .peer, .observe,
        .pins, .noticeSeq] fun t =>
      t.sched.running = some c ∧ t.sched.chosen = none ∧ t.sched.admitting = true ∧ t.pins.admitN = false ∧
      t.secure.startAt = none) ∧
  ((∀ s : State, pdOn s 1 = true →
    Does (exec .warmRestart s) s [.sched] (fieldsAt GLOBAL_CTRL.WARM_RESTART.addr) fun t =>
      rdB t GLOBAL_CTRL.WARM_RESTART = true ∧
      t.sched = (if s.sched.restart = 0 then { s.sched with restart := 1 }
        else if s.sched.restart = 1 then s.sched else { s.sched with again := true })) ∧
  (∀ s : State, s.sched.restart = 1 → dialSet s = true → s.secure.halted = false → bootClass s ≠ 1 →
    Reaches (exec .warmRestartBegin s) s
      [.regs, .dial, .sched, .ports, .front, .flow, .endpoint, .queue, .pipe, .slots, .quant, .power, .tally, .secure, .observe,
        .log, .pins, .hbm, .noticeSeq] fun t =>
      t.sched.restart = 2 ∧ t.sched.admitting = false ∧ t.secure.startAt = none ∧ t.pins.admitN = true ∧
      t.log.warmRestarts = satN 32 (s.log.warmRestarts + 1)) ∧
  (∀ (s : State) (transient : Nat) (digestsMatch : Bool), s.sched.restart = 2 → drainedAll s = true →
    Reaches (exec (.restartDrainEnd transient digestsMatch) s) s
      [.regs, .dial, .sched, .ports, .front, .flow, .endpoint, .queue, .pipe, .slots, .quant, .power, .tally, .secure, .crown,
        .peer, .observe, .log, .pins, .out, .noticeSeq, .fresh] fun t => t.sched.restart = 3) ∧
  ∀ (s : State) (ms : Nat), s.sched.restart = 3 →
    Reaches (exec (.restartReady ms) s) s
      [.regs, .sched, .ports, .front, .flow, .endpoint, .queue, .pipe, .slots, .quant, .power, .tally, .secure, .crown, .peer,
        .observe, .log, .out, .noticeSeq, .fresh] fun t =>
      (rd (applyLockPresets s) SECURE_BOOT_STATUS.EXIT = 0 →
        t.sched.restart = 4 ∧ rdB t GLOBAL_STATUS.READY = true ∧ rdB t GLOBAL_EVENTS.RESTART_DONE = true) ∧
      (rd (applyLockPresets s) SECURE_BOOT_STATUS.EXIT ≠ 0 →
        t.sched.restart = if (applyLockPresets s).sched.again then 1 else 0))

/-! ## The dial -/

/-- The timing pins, once power is good: an edge that comes at least 900 ms after the one before (or is the first) is taken, with the message that
belongs to it; an earlier one counts as an error; a message in its window that passes its checks waits for the next edge, any
other counts as an error. A written change of source is taken at a dial second, or at once before the dial is set: the dial
follows the source selected, or the other one where FALLBACK_EN allows it and only that one is valid. FALLBACK_RETURN brings it
back to the selected source that has been valid for 16 s. Both set SOURCE_SWITCHED. The window before a first
pulse and its end (logs 12 and 148), and the change at once before the dial is set (log 150), are the model's. -/
def Obligations.PinsAndSourcesOfTheDial : Prop :=
  ((∀ (s : State) (dt : Nat), s.secure.powerGood = true →
    (∀ e, (advance s dt).dial.lastEdge = some e → 900000000 ≤ (advance s dt).dial.now - e) →
    Reaches (exec (.ppsEdge dt) s) (advance s dt)
      [.regs, .dial, .sched, .ports, .front, .flow, .endpoint, .queue, .pipe, .power, .tally, .observe, .pins, .noticeSeq,
        .fresh] fun t =>
      t.dial.lastEdge = some (advance s dt).dial.now ∧ t.dial.tod = none ∧
      t.dial.missingRow = (if (advance s dt).dial.tod.isSome then 0 else (advance s dt).dial.missingRow + 1)) ∧
  (∀ (s : State) (dt e : Nat), s.secure.powerGood = true → (advance s dt).dial.lastEdge = some e →
    (advance s dt).dial.now - e < 900000000 →
    Does (exec (.ppsEdge dt) s) (advance s dt) noticeParts
      (DIAL_TOD_ERRORS.BAD :: DIAL_EVENTS.TOD_ERROR :: noticeFields) fun t =>
      rd t DIAL_TOD_ERRORS.BAD =
        satN DIAL_TOD_ERRORS.BAD.width (rd (advance s dt) DIAL_TOD_ERRORS.BAD + 1) % 2 ^ DIAL_TOD_ERRORS.BAD.width ∧
      rdB t DIAL_EVENTS.TOD_ERROR = true) ∧
  (∀ (s : State) (dt : Nat) (m : Bytes), s.secure.powerGood = true → todInWindow (advance s dt) = true → todGood m = true →
    Does (exec (.todMessage dt m) s) (advance s dt) [.dial] [] fun t =>
      t.dial = { (advance s dt).dial with tod := some (beAt m 2 6) }) ∧
  ∀ (s : State) (dt : Nat) (m : Bytes), s.secure.powerGood = true → (todInWindow (advance s dt) && todGood m) = false →
    Does (exec (.todMessage dt m) s) (advance s dt) noticeParts
      (DIAL_TOD_ERRORS.BAD :: DIAL_EVENTS.TOD_ERROR :: noticeFields) fun t =>
      rd t DIAL_TOD_ERRORS.BAD =
        satN DIAL_TOD_ERRORS.BAD.width (rd (advance s dt) DIAL_TOD_ERRORS.BAD + 1) % 2 ^ DIAL_TOD_ERRORS.BAD.width ∧
      rdB t DIAL_EVENTS.TOD_ERROR = true) ∧
  ((∀ s : State, (atSecond s || !dialSet s) = true → selectedWritten s ≠ s.dial.source →
    Reaches (exec .sourceChange s) s [.regs, .dial, .queue, .power, .observe, .pins, .noticeSeq, .fresh] fun t =>
      t.dial.source = selectedWritten s ∧ rdB t DIAL_EVENTS.SOURCE_SWITCHED = true ∧
      activeSource t = (if sourceValid s (selectedWritten s) = false ∧ rdB s DIAL_CTRL.FALLBACK_EN = true ∧
          sourceValid s (1 - selectedWritten s) = true then 1 - selectedWritten s else selectedWritten s)) ∧
  ∀ (s : State) (dt : Nat), rdB (advance s dt) DIAL_CTRL.FALLBACK_EN = true →
    activeSource (advance s dt) ≠ (advance s dt).dial.source → validLong (advance s dt) (advance s dt).dial.source = true →
    Does (exec (.fallbackReturn dt) s) (advance s dt) (.dial :: noticeParts)
      (DIAL_STATUS.ACTIVE_SOURCE :: DIAL_EVENTS.SOURCE_SWITCHED :: noticeFields) fun t =>
      rdB t DIAL_EVENTS.SOURCE_SWITCHED = true ∧ activeSource t = (advance s dt).dial.source % 2 ∧
      t.dial = { (advance s dt).dial with goodRun := 0, badRun := 0 })

/-- A lost source is no longer valid, and where the dial follows it from ACQUIRING or LOCKED, or from EXPIRED while it was valid (log 145,
read from R56), it enters HOLDOVER: no edge within 1,100 ms; no Sync within three intervals of SYNC_LOG, after which no Sync waits
for its Follow_Up; no Announce of the chosen master within the announce receipt timeout, after which that master is heard no more
and the best of the others is chosen. The announce interval of 2 s and the masters heard are the model's (log 149). While its limit
has not passed, a timeout changes nothing. -/
def Obligations.LostSourceLeadsToHoldover : Prop :=
  (∀ (s v : State) (dt e : Nat), v = advance s dt → v.dial.lastEdge = some e → 1100000000 ≤ v.dial.now - e →
    Reaches (exec (.ppsTimeout dt) s) v [.regs, .dial, .queue, .power, .observe, .pins, .noticeSeq, .fresh] fun t =>
      t.dial.pinsValid = false ∧ t.dial.ptpValid = v.dial.ptpValid ∧
      (activeSource v = 0 → dialState v = 1 ∨ dialState v = 2 ∨ dialState v = 4 ∧ v.dial.pinsValid = true → dialState t = 3)) ∧
  (∀ (s v : State) (dt : Nat), v = advance s dt → (∀ e, v.dial.lastEdge = some e → v.dial.now - e < 1100000000) →
    exec (.ppsTimeout dt) s = .next v) ∧
  ∀ (s v : State) (dt : Nat) (c : Instr), v = advance s dt → c ∈ [Instr.syncTimeout dt, .announceTimeout dt] →
    (∀ m, v.dial.lastSync = some m → 3 * syncIntervalNs v ≤ v.dial.now - m →
      (∀ a, v.dial.lastAnnounce = some a → v.dial.now - a < announceTimeoutNs v) →
      Reaches (exec c s) v [.regs, .dial, .queue, .power, .observe, .pins, .noticeSeq, .fresh] fun t =>
        t.dial.ptpValid = false ∧ t.dial.pinsValid = v.dial.pinsValid ∧ t.dial.lastSync = none ∧ t.dial.syncWait = none ∧
        (activeSource v = 1 → dialState v = 1 ∨ dialState v = 2 ∨ dialState v = 4 ∧ v.dial.ptpValid = true →
          dialState t = 3)) ∧
    (∀ a, v.dial.lastAnnounce = some a → announceTimeoutNs v ≤ v.dial.now - a →
      Reaches (exec c s) v [.regs, .dial, .queue, .power, .observe, .pins, .noticeSeq, .fresh] fun t =>
        t.dial.ptpValid = false ∧ t.dial.lastSync = none ∧ t.dial.syncWait = none ∧
        t.dial.masters = (otherMasters v (v.dial.chosen.getD 0)).filter (fun f => v.dial.chosen != some f.announce.master) ∧
        t.dial.chosen = bestMaster ((t.dial.masters.filter (Foreign.qualified v.dial.chosen)).map (·.announce)) ∧
        (rdB t DIAL_STATUS.MASTER_SEEN = true ↔ t.dial.masters ≠ []) ∧
        (activeSource v = 1 → dialState v = 1 ∨ dialState v = 2 ∨ dialState v = 4 ∧ v.dial.ptpValid = true →
          dialState t = 3)) ∧
    (PtpInTime v → exec c s = .next v)

/-- The messages of IEEE 1588-2019, while no limit of R54 has passed: the sender of an Announce of the transport and domain in use
is heard, and the best of the qualified masters is chosen, those that are less than 255 steps away and that are the one chosen or have been heard twice
in 8 s (log 149); a two-step Sync of the chosen master waits for its Follow_Up; a one-step Sync, or
the Follow_Up, gives the pair of origin and arrival times, which with a mean delay makes the source valid; a Sync that gives no
measurement breaks the run of consecutive ones (R56); a Delay_Req is sent and
stamped; the Delay_Resp completes the mean delay, rounded freely where half the sum is not whole (log 11). A message of another
transport, domain or master has no effect. -/
def Obligations.PtpMessagesAreTaken : Prop :=
  (∀ (s v : State) (dt : Nat) (m : PtpAnnounce), v = advance s dt → s.secure.powerGood = true → PtpInTime v →
    (ptpHeard v m.transport m.domain = true →
      Does (exec (.ptpAnnounce dt m) s) v [.dial] [DIAL_STATUS.MASTER_SEEN] fun t =>
        t.dial.masters = heardMasters v m ∧
        t.dial.chosen = bestMaster ((t.dial.masters.filter (Foreign.qualified v.dial.chosen)).map (·.announce)) ∧
        rdB t DIAL_STATUS.MASTER_SEEN = true ∧
        (t.dial.chosen = some m.master → t.dial.lastAnnounce = some v.dial.now) ∧
        (t.dial.chosen ≠ v.dial.chosen → t.dial.meanDelay = none ∧ t.dial.syncPair = none)) ∧
    (ptpHeard v m.transport m.domain = false → exec (.ptpAnnounce dt m) s = .next v)) ∧
  (∀ (s v : State) (dt : Nat) (m : PtpSync), v = advance s dt → PtpInTime v →
    (ptpHeard v m.transport m.domain = true → v.dial.chosen = some m.master →
      (m.twoStep = true → Does (exec (.ptpSync dt m) s) v [.dial] [] fun t =>
        t.dial = { (if v.dial.syncWait.isSome then breakRun v 1 else v).dial with
          lastSync := some v.dial.now, syncWait := some (m.sequence, stampNow v, m.correctionNs) }) ∧
      (m.twoStep = false → v.dial.meanDelay = none → Does (exec (.ptpSync dt m) s) v [.dial] [] fun t =>
        t.dial = { (breakRun v 1).dial with
          lastSync := some v.dial.now, syncWait := none, syncPair := some (corrected m.originNs m.correctionNs, stampNow v) }) ∧
      ∀ d, m.twoStep = false → v.dial.meanDelay = some d → Reaches (exec (.ptpSync dt m) s) v
        [.regs, .dial, .sched, .ports, .front, .flow, .endpoint, .queue, .pipe, .power, .tally, .observe, .pins, .noticeSeq,
          .fresh] fun t => t.dial.ptpValid = true ∧ t.dial.lastSync = some v.dial.now) ∧
    ((ptpHeard v m.transport m.domain = false ∨ v.dial.chosen ≠ some m.master) → exec (.ptpSync dt m) s = .next v)) ∧
  (∀ (s v : State) (dt master sequence originNs arrival : Nat) (net : PtpNet) (c correctionNs : Int), v = advance s dt → PtpInTime v →
    v.dial.syncWait = some (sequence, arrival, c) → v.dial.chosen = some master →
    ptpHeard v net.transport net.domain = true →
    (v.dial.meanDelay = none →
      Does (exec (.ptpFollowUp dt net master sequence originNs correctionNs) s) v [.dial] [] fun t =>
        t.dial = { (breakRun v 1).dial with
          syncWait := none, syncPair := some (corrected originNs (c + correctionNs), arrival) }) ∧
    ∀ d, v.dial.meanDelay = some d →
      Reaches (exec (.ptpFollowUp dt net master sequence originNs correctionNs) s) v
        [.regs, .dial, .sched, .ports, .front, .flow, .endpoint, .queue, .pipe, .power, .tally, .observe, .pins, .noticeSeq,
          .fresh] fun t => t.dial.ptpValid = true) ∧
  (∀ (s v : State) (dt master sequence originNs : Nat) (net : PtpNet) (correctionNs : Int), v = advance s dt →
    (ptpHeard v net.transport net.domain = false ∨ v.dial.chosen ≠ some master) →
    (PtpInTime v → exec (.ptpFollowUp dt net master sequence originNs correctionNs) s = .next v) ∧
    exec (.ptpDelayResp dt net master sequence originNs correctionNs) s = .next v) ∧
  (∀ (s v : State) (dt : Nat), v = advance s dt → v.dial.chosen.isSome = true →
    Does (exec (.delayReq dt) s) v [.dial, .out] [] fun t =>
      t.dial = { v.dial with delaySent := some (v.dial.delaySeq, stampNow v), delaySeq := addMod 16 v.dial.delaySeq 1 } ∧
      t.out = v.out ++ [.ptpDelayReq v.dial.delaySeq (stampNow v)]) ∧
  ∀ (s v : State) (dt master sequence receiveNs t1 t2 t3 : Nat) (net : PtpNet) (correctionNs : Int), v = advance s dt →
    v.dial.delaySent = some (sequence, t3) → v.dial.syncPair = some (t1, t2) → v.dial.chosen = some master →
    ptpHeard v net.transport net.domain = true →
    Does (exec (.ptpDelayResp dt net master sequence receiveNs correctionNs) s) v [.dial, .fresh] [] fun t =>
      t.dial.delaySent = none ∧
      ∃ d : Int, t.dial.meanDelay = some d ∧
        (2 * d - (((t2 : Int) - t1) + ((receiveNs : Int) - correctionNs - t3))).natAbs ≤ 1

/-- The error bound of a holdover: when it first exceeds WARN_NS the flag HOLDOVER_WARN is set; when it first exceeds LIMIT_NS the
state becomes EXPIRED and HOLDOVER_EXPIRED is set. Neither touches admission, the schedule or a verdict. (A write of
STABILITY_PPB during a holdover: log 143.) -/
def Obligations.HoldoverBoundRaisesFlags : Prop :=
  (∀ (s : State) (dt : Nat), inHoldover (advance s dt) = true → (advance s dt).dial.warned = false →
    rd (advance s dt) DIAL_HOLDOVER_CFG.WARN_NS * 1000000000 < boundScaled (advance s dt) →
    Does (exec (.holdoverWarn dt) s) (advance s dt) (.dial :: noticeParts) (DIAL_EVENTS.HOLDOVER_WARN :: noticeFields) fun t =>
      rdB t DIAL_EVENTS.HOLDOVER_WARN = true ∧ t.dial = { (advance s dt).dial with warned := true }) ∧
  ∀ (s : State) (dt : Nat), dialState (advance s dt) = 3 →
    rd (advance s dt) DIAL_HOLDOVER_CFG.LIMIT_NS * 1000000000 < boundScaled (advance s dt) →
    Does (exec (.holdoverExpired dt) s) (advance s dt) (.dial :: noticeParts)
      (DIAL_STATUS.STATE :: DIAL_EVENTS.HOLDOVER_EXPIRED :: noticeFields) fun t =>
      rdB t DIAL_EVENTS.HOLDOVER_EXPIRED = true ∧ dialState t = 4 ∧
      t.dial = { (advance s dt).dial with highest := max (advance s dt).dial.highest 4 }

/-- A step of the dial while a schedule runs: admission stops at a round boundary, the dial takes the source's time once the last
batch has had its latency, and admission resumes at a round boundary with STEP_DONE. -/
def Obligations.DialStepRunsThrough : Prop :=
  (∀ s : State, s.dial.stepPhase = 1 → atRound s = true →
    Does (exec .stepAdmissionStop s) s [.dial] [] fun t =>
      t.dial = { s.dial with stepPhase := 2, stepLast := batchNow s - 1 }) ∧
  (∀ s : State, s.dial.stepPhase = 2 → s.dial.stepLast + 1 + latency s ≤ batchNow s →
    Reaches (exec .stepTakeTime s) s
      [.regs, .dial, .sched, .ports, .front, .flow, .endpoint, .queue, .pipe, .power, .tally, .observe, .pins, .noticeSeq] fun t =>
      t.dial.stepPhase = 3 ∧ t.dial.time = s.dial.time + (max s.dial.lastError 0).toNat ∧ t.dial.now = s.dial.now) ∧
  ∀ s : State, s.dial.stepPhase = 3 → atRound s = true →
    Does (exec .stepDone s) s (.dial :: noticeParts) (DIAL_EVENTS.STEP_DONE :: noticeFields) fun t =>
      rdB t DIAL_EVENTS.STEP_DONE = true ∧ t.dial = { s.dial with stepPhase := 0 }

/-- A read of DIAL_NOW_SEC latches the seconds, the nanoseconds and the place in the round; nothing else changes. Time passes
only with the commands that carry it. BEAT_START moves the dial to the start of the next beat, where the budget of admissions of
every port starts anew; DIAL_SECOND_BOUNDARY moves it to the next dial second, or where it stands at one shows it in the registers and
on PPS_OUT (no fall of the array supply is overdue there: every passage of time has settled it). -/
def Obligations.ReadsBeatsAndSecondsOfTheDial : Prop :=
  (∀ s : State, Does (exec .dialNowSecRead s) s []
    [DIAL_NOW_SEC.SECONDS, DIAL_NOW_NS.NS, DIAL_ROUND.BEAT_INDEX, DIAL_ROUND.BEAT_IN_ROUND, DIAL_ROUND.ROUND_INDEX] fun t =>
    rd t DIAL_NOW_SEC.SECONDS = s.dial.time / 1000000000 % 2 ^ DIAL_NOW_SEC.SECONDS.width ∧
    rd t DIAL_NOW_NS.NS = s.dial.time % 1000000000 ∧
    rd t DIAL_ROUND.BEAT_INDEX = s.dial.time / 1000 % 1000000 ∧
    ∀ c, s.sched.running = some c → 0 < c.n →
      rd t DIAL_ROUND.BEAT_IN_ROUND =
        s.dial.time / 1000 % 1000000 % c.n % 2 ^ DIAL_ROUND.BEAT_IN_ROUND.width ∧
      rd t DIAL_ROUND.ROUND_INDEX = s.dial.time / 1000 % 1000000 / c.n % 2 ^ DIAL_ROUND.ROUND_INDEX.width) ∧
  ((∀ s : State, dialSet s = true →
    Reaches (exec .beatStart s) s
      [.regs, .dial, .sched, .ports, .front, .flow, .endpoint, .queue, .pipe, .power, .observe, .pins, .noticeSeq] fun t =>
      t.dial.time = (s.dial.time / 1000 + 1) * 1000 ∧ t.dial.now - s.dial.now = t.dial.time - s.dial.time ∧
      (∀ (p : Nat) (q : PortSt), t.ports[p]? = some q → q.admitted = 0) ∧ t.front.vmapNext = []) ∧
  (∀ s : State, dialSet s = true → atSecond s = false →
    Reaches (exec .dialSecondBoundary s) s
      [.regs, .dial, .sched, .ports, .front, .flow, .endpoint, .queue, .pipe, .power, .observe, .pins, .noticeSeq] fun t =>
      t.dial.time = (s.dial.time / 1000000000 + 1) * 1000000000 ∧
      t.dial.now - s.dial.now = t.dial.time - s.dial.time) ∧
  (∀ s : State, atSecond s = true → (∀ t v, s.power.supplyFall = some (t, v) → s.dial.now < t) →
    Does (exec .dialSecondBoundary s) s [.pins]
      [DIAL_BATCH.BATCH, DIAL_STATUS.PPS_PRESENT, DIAL_HOLDOVER_BOUND.ELAPSED_S, DIAL_HOLDOVER_BOUND.BOUND_NS] fun t =>
      rd t DIAL_BATCH.BATCH = s.dial.time / 1000 % 2 ^ DIAL_BATCH.BATCH.width ∧
      t.pins = { s.pins with
        ppsOut := if s.secure.powerGood = false then .floating
          else if s.dial.time % 1000000000 < 100000000 then .high else .low }) ∧
  ∀ (s : State) (dt : Nat), (advance s dt).dial.now = s.dial.now + dt ∧
    (advance s dt).dial.time = (if dialSet s then s.dial.time + dt else s.dial.time) ∧
    (advance s dt).sched.running = s.sched.running)

/-! ## Rounds and budgets -/

/-- A round boundary gives every activity what the decision point fixed for it, with nothing used and nothing held, begins the runs of START_BEAT 0, lets a pending
change of the operating point take effect or defers it, starts the round's mean of energy anew, and shows whether the issued rate lies
below the schedule's FMIN. The decision point before it freezes the request of the regulator, the mode and the cap, raises the array
supply where the pair needs it, and fixes grants, sheds and the capacity of its batch; a decision that differs from the last one sets
SHED_SET_CHANGED. A newer request takes the place of a deferred one (log 64). An activity whose cycles have reached its grant is held,
which is counted and sets BUDGET_HELD, and with SHED SKIP its pending work is lost, table operations excepted (log 152). (The cycles of
a unit that the manual gives none are open, log 19.) Elsewhere the three change nothing. -/
def Obligations.RoundsDecideAndGrant : Prop :=
  (∀ (s b : State) (c : Schedule), s.sched.running = some c → b = (if atRound s then s else advanceTo s (nextRound s)) →
    atRound b = true →
    Reaches (exec .roundBoundary s) s
      [.regs, .dial, .sched, .ports, .front, .flow, .endpoint, .queue, .pipe, .slots, .power, .tally, .observe, .pins, .noticeSeq,
        .fresh] fun t =>
      t.sched.acts.length = min c.acts.length b.sched.acts.length ∧
      (∀ (i : Nat) (r : ActRun) (x : Activity), b.sched.acts[i]? = some r → c.acts[i]? = some x →
        ∃ q, t.sched.acts[i]? = some q ∧ (q.granted, q.shed) = b.sched.nextGrants.getD i (r.granted, r.shed) ∧ q.used = 0 ∧
          q.held = false ∧ (q.opened = true ↔ x.startBeat = 0) ∧ (q.first = true ↔ r.held = true ∧ x.shed = 0)) ∧
      t.sched.capW = b.sched.capNext ∧ t.power.roundEnergy = 0 ∧ t.power.roundPeriods = 0 ∧
      rdB t REGULATOR_STATUS.FIXED_ACTIVE = b.power.fixedNext ∧
      rdB t REGULATOR_STATUS.BELOW_FMIN = decide (fNow t < c.fmin) ∧
      (b.sched.frozen = none → t.power.point = b.power.point ∧ t.power.gate = b.power.gate) ∧
      (∀ p g, b.sched.frozen = some (p, g) → switchAllowed b = true →
        t.power.point = p ∧ t.power.gate = g ∧ t.sched.frozen = none) ∧
      ∀ p g, b.sched.frozen = some (p, g) → switchAllowed b = false →
        t.power.point = b.power.point ∧ t.power.gate = b.power.gate ∧ t.sched.frozen = some (p, g) ∧
        rdB t DIAL_EVENTS.FREQ_DEFERRED = true) ∧
  (∀ (s u : State) (c : Schedule), s.sched.running = some c → atDecision s = true → u = renewRequest (applyGroupGrants s) →
    Reaches (exec .shedDecision s) s [.regs, .sched, .queue, .pipe, .power, .observe, .noticeSeq] fun t =>
      t.sched.frozen = liveRequest u ∧ t.sched.capNext = effectiveCap u ∧
      t.power.fixedNext = rdB u REGULATOR_CTRL.FIXED_FREQ ∧
      (∀ p g, liveRequest u = some (p, g) →
        volt u p ≤ t.power.supply ∧ ∀ k v, t.power.supplyFall = some (k, v) → volt u p ≤ v) ∧
      t.sched.decided = some (decideGrants c (fNow t) (fPend t)) ∧
      t.sched.nextGrants = (decideGrants c (fNow t) (fPend t)).1 ∧
      rd t DIAL_ADMISSION.CAPACITY = (decideGrants c (fNow t) (fPend t)).2 % 2 ^ DIAL_ADMISSION.CAPACITY.width ∧
      (∀ b ∈ t.pipe.batches, b.number = batchNow s → b.capacity = (decideGrants c (fNow t) (fPend t)).2) ∧
      (t.sched.decided ≠ s.sched.decided → rdB t DIAL_EVENTS.SHED_SET_CHANGED = true)) ∧
  (∀ (s : State) (activity : Nat) (r : ActRun), activity < 64 → s.sched.acts[activity]? = some r →
    (r.held = false → grantReached r = true →
      Does (exec (.budgetHeld activity) s) s (.sched :: .slots :: .flow :: .endpoint :: noticeParts)
        (DIAL_ACT_COUNT.HELD_ROUNDS activity :: DIAL_EVENTS.BUDGET_HELD :: OBSERVE_SAMPLE_STATUS.LOST ::
          OBSERVE_EVENTS.SAMPLE_LOST :: noticeFields) fun t =>
        t.sched.acts[activity]? = some { r with held := true } ∧ rdB t DIAL_EVENTS.BUDGET_HELD = true ∧
        rd t (DIAL_ACT_COUNT.HELD_ROUNDS activity) = satN (DIAL_ACT_COUNT.HELD_ROUNDS activity).width
          (rd s (DIAL_ACT_COUNT.HELD_ROUNDS activity) + 1) % 2 ^ (DIAL_ACT_COUNT.HELD_ROUNDS activity).width ∧
        ∀ c x, s.sched.running = some c → c.acts[activity]? = some x →
          (x.shed = 1 → x.kind = 2 → (getSlot t x.slot).adapt.sample = []) ∧
          (x.shed = 1 → x.kind = 3 → t.flow.rake = none ∧ t.endpoint.rake = none) ∧
          (x.shed = 1 → x.kind = 5 → t.observe.snapshots = []) ∧
          (x.shed ≠ 1 → t.slots = s.slots ∧ t.flow = s.flow ∧ t.endpoint = s.endpoint)) ∧
    ((r.held = true ∨ grantReached r = false) → exec (.budgetHeld activity) s = .next s)) ∧
  ∀ s : State, s.sched.running = none → exec .roundBoundary s = .next s ∧ exec .shedDecision s = .next s

/-- The grants of a round fit into it: where the budgets of the MANDATORY activities on ACLK fit into the cycles available, the
grants of all activities on ACLK together do. -/
def Obligations.GrantsFitIntoTheRound : Prop :=
  ∀ (c : Schedule) (now pend : Nat),
    sumN ((c.acts.filter fun a => a.aclk && a.shed == 0).map (·.budget)) ≤
      cyclesFor c.n (min now pend) c.margin - (if pend = now then 0 else 32) →
    sumN ((c.acts.zip (decideGrants c now pend).1).map fun x => if x.1.aclk then x.2.1 else 0) ≤
      cyclesFor c.n (min now pend) c.margin - (if pend = now then 0 else 32)

/-- The cycles available to the budgets of one round (R74), and the issued rate of an operating point (R335), round down. -/
def Obligations.CyclesAndRatesRoundDown : Prop :=
  (∀ n f m : Nat, m ≤ 1000000 →
    cyclesFor n f m * 1000000 ≤ n * f * (1000000 - m) ∧ n * f * (1000000 - m) < (cyclesFor n f m + 1) * 1000000) ∧
  (∀ p g : Nat, fEff p g * 64 ≤ pointMhz p * (64 - g) ∧ pointMhz p * (64 - g) < (fEff p g + 1) * 64) ∧
  ∀ p : Nat, fEff p 0 = pointMhz p

/-! ## Arithmetic -/

/-- Arithmetic: a half-even division is at most half a unit away from the quotient and even where it lies halfway; the group sum of a wide
operation, from its two passes, is the exact sum of the products of the whole activations and the weights; a narrowed list holds
magnitudes of at most 127, each within half a step of its element. A contribution to a long accumulator is the exact product of value and scale in
units of 2^-F, rounded half to even where it has a fraction; the accumulator takes the sum, saturated to 56 bits, and is marked exactly where the sum leaves them.
The amplitude that statistics need is the least that covers their range. A push keeps the newest K scales, a misfit alone, and sets the
mode; the loop's scale starts from an entry of largest value. A batch misfits where its saturations exceed SAT_PPM, or its mean error,
weighed by the scale it used, exceeds MSE_MAX. -/
def Obligations.ArithmeticRoundsAndNarrows : Prop :=
  ((∀ (a : Int) (b : Nat), 0 < b →
    2 * (a - rheDiv a b * b).natAbs ≤ b ∧ (2 * (a - rheDiv a b * b).natAbs = b → rheDiv a b % 2 = 0)) ∧
  (∀ xs ys : List Int, wideGroupSum xs ys = groupSum xs ys) ∧
  (∀ v : List Int, (∀ x ∈ v, x.natAbs < 2 ^ 31) →
    (narrow v).1.length = v.length ∧ (∀ q ∈ (narrow v).1, q.natAbs ≤ 127) ∧
    ∀ i < v.length, 2 * (v.getD i 0 - widen ((narrow v).1.getD i 0) (narrow v).2).natAbs ≤ 2 ^ (narrow v).2) ∧
  ∀ (f : Nat) (acc v c : Int) (scale : Nat),
    (144 ≤ scaleExp scale + f → c = v * scaleMant scale * 2 ^ (scaleExp scale + f - 144)) →
    (scaleExp scale + f < 144 → c = rheDiv (v * scaleMant scale) (2 ^ (144 - (scaleExp scale + f)))) →
    (addContrib f acc v scale).1 = max (-(2 ^ 55)) (min (2 ^ 55 - 1) (acc + c)) ∧
    ((addContrib f acc v scale).2 = true ↔ acc + c < -(2 ^ 55) ∨ 2 ^ 55 - 1 < acc + c)) ∧
  (∀ (zo : Nat) (rectified : Bool) (hi lo : Int) (a : Nat),
    ampU8 zo rectified hi lo ≤ a ↔
      (zo < 255 → hi ≤ (a * (255 - zo) : Nat)) ∧ (0 < zo → rectified = false → -lo ≤ (a * zo : Nat))) ∧
  (∀ (hi lo : Int) (a : Nat), ampS16 hi lo ≤ a ↔ hi ≤ (a * 32767 : Nat) ∧ -lo ≤ (a * 32767 : Nat)) ∧
  (∀ (q : QTensor) (k need : Nat) (misfit : Bool), 0 < k →
    (misfit = true → (q.push k need misfit).win = [need]) ∧
    (misfit = false → q.win.length < k → (q.push k need misfit).win = q.win ++ [need]) ∧
    (misfit = false → q.win.length = k → (q.push k need misfit).win = q.win.drop 1 ++ [need]) ∧
    (q.push k need misfit).mode =
      (if (q.push k need misfit).win.length = k then 2 else if misfit then 1 else q.mode)) ∧
  (∀ (d : TensorDesc) (q : QTensor),
    chosenScale d q false = (if d.fixed = false ∧ (q.mode = 1 ∨ q.mode = 2) then loopScale d q.win else d.calScale) ∧
    chosenScale d q true = (if q.outRun then loopScale d q.outWin else d.calOScale) ∧
    (∀ x ∈ q.win, scaleValue x ≤ scaleValue (windowMax q.win)) ∧ (windowMax q.win ∈ q.win ∨ windowMax q.win = 0)) ∧
  ∀ (d : TensorDesc) (st : Stats) (used : Nat), misfits d st used = true ↔
    d.satPpm * st.elements < st.sat * 1000000 ∨
    d.mseMax ≠ 0xFFFFFFFF ∧ d.mseMax * st.elements * scaleValue d.calScale ^ 2 < st.sse * scaleValue used ^ 2

/-! ## Head ports -/

/-- A frame at a port that is up is counted for its error correction. A bundle that passes the checks is counted with its heads, is one
more arrival, and its heads are taken one after the other in the order of their records; one that fails a check is counted under the
first of R92's causes that applies and sets DISCARD, and none of its heads is taken. A port that is not up takes nothing, and of frames whose checks complete in one cycle the lower port goes first. A
head that is taken is shed for the first cause that applies, which is counted, or joins the batch of its beat as its next head. A MAC
control frame is discarded without effect and counted. -/
def Obligations.FramesAreTakenOrDiscarded : Prop :=
  (∀ (s v : State) (dt port : Nat) (frame : Bytes) (fcsGood : Bool) (words : Codewords) (faults : List FaultEv)
    (b : Bundle), port < 8 → PortsOk s.ports → v = advance s dt →
    b = parseBundle (v.ports.getD port PortSt.reset).v1 v.dial.time port (rd v (HEADPORT_PORT_CFG.V1_PARTITION port))
      (parseFrame frame).body →
    let causes := discardCauses v port fcsGood words.uncorrectable frame b
    let c := Instr.headBundle dt port frame fcsGood words faults []
    (portUp v port = false → exec c s = .next v) ∧
    (portUp v port = true → (∀ x ∈ causes, ¬x.1) →
      (∃ u : State, exec c s = .next (b.records.zipIdx.foldl (takeHead port b.units b.sequence (v.pipe.arrivals + 1)) u) ∧
        (faults = [] → Untouched [.regs, .ports, .pipe, .queue, .observe, .noticeSeq] v u ∧
          u.pipe = { v.pipe with arrivals := v.pipe.arrivals + 1 })) ∧
      Reaches (exec c s) v
        [.regs, .sched, .ports, .front, .flow, .endpoint, .queue, .pipe, .tally, .observe, .log, .hbm, .noticeSeq] fun t =>
        t.pipe.arrivals = v.pipe.arrivals + 1 ∧ (t.ports.getD port PortSt.reset).lastSeq = some b.sequence ∧
        rd t (HEADPORT_SEQ.LAST_SEQUENCE port) = b.sequence % 2 ^ (HEADPORT_SEQ.LAST_SEQUENCE port).width ∧
        ∀ f n, (f, n) ∈ [(HEADPORT_FEC.CORRECTED port, words.corrected), (HEADPORT_FEC.UNCORRECTABLE port, words.uncorrectable),
            (HEADPORT_RX_BUNDLES.COUNT port, 1), (HEADPORT_RX_HEADS.COUNT port, b.count)] →
          rd t f = satN f.width (rd v f + n) % 2 ^ f.width) ∧
    ∀ (i : Nat) (P : Prop) (d : Discard), portUp v port = true → causes[i]? = some (P, d) → P → (∀ x ∈ causes.take i, ¬x.1) →
      Does (exec c s) v noticeParts
        (HEADPORT_FEC.CORRECTED port :: HEADPORT_FEC.UNCORRECTABLE port :: discardCounter port d :: HEADPORT_EVENTS.DISCARD ::
          noticeFields) fun t =>
        rdB t HEADPORT_EVENTS.DISCARD = true ∧
        rd t (discardCounter port d) =
          satN (discardCounter port d).width (rd v (discardCounter port d) + 1) % 2 ^ (discardCounter port d).width) ∧
  (∀ (s : State) (dt : Nat) (f g : FrameIn),
    exec (.headBundle dt f.port f.frame f.fcsGood f.words f.faults [g]) s =
      .next (if g.port < f.port then receiveFrame (receiveFrame (advance s dt) g) f
        else receiveFrame (receiveFrame (advance s dt) f) g)) ∧
  (∀ (s : State) (p units seq arrival : Nat) (r : HeadRecord × Nat), p < 8 → PortsOk s.ports →
    (∀ k, shedReason s p = some k →
      rd (takeHead p units seq arrival s r) (shedCounter p k) =
        satN (shedCounter p k).width (rd s (shedCounter p k) + 1) % 2 ^ (shedCounter p k).width ∧
      ((takeHead p units seq arrival s r).ports.getD p PortSt.reset).admitted = (s.ports.getD p PortSt.reset).admitted) ∧
    (shedReason s p = none → ∃ c b h, s.pipe.batches.find? (·.number == batchNow s) = some c ∧
      (takeHead p units seq arrival s r).pipe.batches.find? (·.number == batchNow s) = some b ∧
      ((takeHead p units seq arrival s r).ports.getD p PortSt.reset).admitted = (s.ports.getD p PortSt.reset).admitted + 1 ∧
      b.heads.length = c.heads.length + 1 ∧ b.heads.getLast? = some h ∧ h.slot = c.heads.length ∧ h.port = p ∧ h.bundleSeq = seq ∧
      h.record = r.2 ∧ h.cookie = r.1.cookie ∧ h.flowId = r.1.flowId)) ∧
  ∀ (s : State) (port : Nat), port < 8 →
    (portUp s port = true →
      Does (exec (.macControlFrame port) s) s noticeParts
        (HEADPORT_MISC.MAC_CONTROL port :: HEADPORT_EVENTS.MAC_CONTROL :: noticeFields) fun t =>
        rdB t HEADPORT_EVENTS.MAC_CONTROL = true ∧
        rd t (HEADPORT_MISC.MAC_CONTROL port) = satN (HEADPORT_MISC.MAC_CONTROL port).width
          (rd s (HEADPORT_MISC.MAC_CONTROL port) + 1) % 2 ^ (HEADPORT_MISC.MAC_CONTROL port).width) ∧
    (portUp s port = false → exec (.macControlFrame port) s = .next s)

/-- An accepted bundle whose SEQUENCE is not one more than that of the bundle before it on the port counts a gap and sets
SEQ_GAP; the first bundle after the port is enabled is exempt. A lane that a port or a link uses and that loses its lock takes the link
down and starts a retrain, unless that lane was lost within 1 s after a retrain of its own: then it is failing, and the port goes on
with the lanes that are left; during a retrain its loss belongs to the retrain, and on a lane of a port that is not used, or not up, it only shows in LOCKED.
A retrain that ends within 10 ms brings the link up again; one that does not makes the first lane lost in it failing, or one of the
lanes used where only the alignment was lost (log 59, the model's choice). Lanes that gain their lock bring the link up. -/
def Obligations.GapsAndLanesOfPorts : Prop :=
  (∀ (s : State) (p : Nat) (b : Bundle), p < 8 → p < s.ports.length →
    ((countBundle s p b).ports.getD p PortSt.reset).lastSeq = some b.sequence ∧
    (∀ q, (s.ports.getD p PortSt.reset).lastSeq = some q → b.sequence ≠ addMod 32 q 1 →
      rdB (countBundle s p b) HEADPORT_EVENTS.SEQ_GAP = true ∧
      rd (countBundle s p b) (HEADPORT_SEQ.GAPS p) =
        satN (HEADPORT_SEQ.GAPS p).width (rd s (HEADPORT_SEQ.GAPS p) + 1) % 2 ^ (HEADPORT_SEQ.GAPS p).width) ∧
    ((s.ports.getD p PortSt.reset).lastSeq = none ∨ (∃ q, (s.ports.getD p PortSt.reset).lastSeq = some q ∧
        b.sequence = addMod 32 q 1) →
      rdB (countBundle s p b) HEADPORT_EVENTS.SEQ_GAP = rdB s HEADPORT_EVENTS.SEQ_GAP ∧
      rd (countBundle s p b) (HEADPORT_SEQ.GAPS p) = rd s (HEADPORT_SEQ.GAPS p))) ∧
  (∀ (s v : State) (dt p base n : Nat) (q : PortSt), v = advance s dt → p < 8 → PortsOk v.ports →
    q = v.ports.getD p PortSt.reset → portLanes v p = some (base, n) →
    let R (c : Instr) (P : State → Prop) : Prop :=
      Reaches (exec c s) v [.regs, .sched, .ports, .queue, .pipe, .observe, .log, .noticeSeq, .fresh] P
    let failed (l : Nat) (t : State) : Prop :=
      t.observe.failing.contains (unitKey 4 (4 * p + l)) = true ∧ (rd t (HEADPORT_STATUS.LANE_FAULT p)).testBit l = true ∧
      rdB t HEADPORT_EVENTS.LANE_FAILED = true ∧ rdB t (HEADPORT_STATUS.ALIGNED p) = false ∧
      (portOn t p = true → rd t (HEADPORT_STATUS.ACTIVE_LANES p) = laneCode ((portLanes t p).getD (0, 0)).2 ∧
        rd t (HEADPORT_STATUS.LANE_BASE p) = ((portLanes t p).getD (0, 0)).1)
    (∀ l, base ≤ l → l < base + n → portUp v p = true →
      (lostAgain v.dial.now q.retrained (some l) = false →
        Does (exec (.laneLockLost dt (.head p) (some l)) s) v [.ports] [HEADPORT_STATUS.LOCKED p, HEADPORT_STATUS.ALIGNED p] fun t =>
          rdB t (HEADPORT_STATUS.ALIGNED p) = false ∧ (rd t (HEADPORT_STATUS.LOCKED p)).testBit l = false ∧
          t.ports = modAt v.ports p fun q => { q with retrain := some v.dial.now, retrainLanes := [l] }) ∧
      (lostAgain v.dial.now q.retrained (some l) = true → R (.laneLockLost dt (.head p) (some l)) (failed l))) ∧
    (portUp v p = true →
      Does (exec (.laneLockLost dt (.head p) none) s) v [.ports] [HEADPORT_STATUS.ALIGNED p] fun t =>
        rdB t (HEADPORT_STATUS.ALIGNED p) = false ∧
        t.ports = modAt v.ports p fun q => { q with retrain := some v.dial.now, retrainLanes := [] }) ∧
    (∀ l, (l < base ∨ base + n ≤ l ∨ q.retrain = none ∧ rdB v (HEADPORT_STATUS.ALIGNED p) = false) → l < 4 → portOn v p = true →
      Does (exec (.laneLockLost dt (.head p) (some l)) s) v [] [HEADPORT_STATUS.LOCKED p] fun t =>
        (rd t (HEADPORT_STATUS.LOCKED p)).testBit l = false) ∧
    (∀ l, base ≤ l → l < base + n → portOn v p = true → q.retrain.isSome = true →
      Does (exec (.laneLockLost dt (.head p) (some l)) s) v [.ports] [HEADPORT_STATUS.LOCKED p] fun t =>
        t.ports = modAt v.ports p fun q => { q with retrainLanes := addLane q.retrainLanes (some l) }) ∧
    (∀ t0, q.retrain = some t0 → v.dial.now - t0 ≤ 10000000 → R (.retrainDone dt (.head p)) fun t =>
      rdB t HEADPORT_EVENTS.LANE_RETRAINED = true ∧ rdB t (HEADPORT_STATUS.ALIGNED p) = true ∧
      rd t (HEADPORT_STATUS.ACTIVE_LANES p) = laneCode n ∧ rd t (HEADPORT_STATUS.LANE_BASE p) = base ∧
      rd t (HEADPORT_MISC.RETRAINS p) =
        satN (HEADPORT_MISC.RETRAINS p).width (rd v (HEADPORT_MISC.RETRAINS p) + 1) % 2 ^ (HEADPORT_MISC.RETRAINS p).width ∧
      t.ports = modAt v.ports p fun q =>
        { q with retrain := none, retrainLanes := [], retrained := markRetrained v.dial.now q.retrained q.retrainLanes }) ∧
    (∀ t0, q.retrain = some t0 → 10000000 ≤ v.dial.now - t0 → R (.retrainTimeout dt (.head p)) fun t =>
      (∃ l, failed l t ∧ (∀ x rest, q.retrainLanes = x :: rest → l = x) ∧ (q.retrainLanes = [] → base ≤ l ∧ l < base + n)) ∧
      t.ports = modAt v.ports p fun q => { q with retrain := none, retrainLanes := [] }) ∧
    (q.retrain = none → exec (.retrainDone dt (.head p)) s = .next v ∧ exec (.retrainTimeout dt (.head p)) s = .next v) ∧
    (portOn v p = false → ∀ lane, exec (.laneLockLost dt (.head p) lane) s = .next v)) ∧
  (∀ (s v : State) (dt j base n : Nat) (q : LinkSt), v = advance s dt → j < 4 → PeerOk v.peer → q = getLink v j →
    linkLanes v j = some (base, n) →
    let failed (l : Nat) (t : State) : Prop :=
      t.observe.failing.contains (unitKey 5 (2 * j + l)) = true ∧ (rd t (PEER_LINK_STATUS.LANE_FAULT j)).testBit l = true ∧
      rd t (PEER_LINK_STATUS.LANES j) = 0 ∧ rdB t (PEER_LINK_STATUS.UP j) = false
    (∀ lane, laneUsed lane base n = true → q.retrain = none → rd v (PEER_LINK_STATUS.LANES j) ≠ 0 →
      (lostAgain v.dial.now q.retrained lane = false →
        Does (exec (.laneLockLost dt (.peer j) lane) s) v (.peer :: noticeParts)
          (PEER_LINK_STATUS.LANES j :: PEER_LINK_STATUS.UP j :: PEER_EVENTS.LINK_DOWN :: noticeFields) fun t =>
          rd t (PEER_LINK_STATUS.LANES j) = 0 ∧ rdB t (PEER_LINK_STATUS.UP j) = false ∧
          t.peer.links = modAt v.peer.links j fun q =>
            { q with retrain := some v.dial.now, retrainLanes := addLane [] lane }.noteStuck v.dial.now) ∧
      ∀ l, lane = some l → lostAgain v.dial.now q.retrained lane = true →
        Reaches (exec (.laneLockLost dt (.peer j) lane) s) v
          [.regs, .sched, .queue, .pipe, .peer, .observe, .log, .noticeSeq] (failed l)) ∧
    (∀ lane, laneUsed lane base n = true → q.retrain.isSome = true →
      Does (exec (.laneLockLost dt (.peer j) lane) s) v [.peer] [] fun t =>
        t.peer = { v.peer with
          links := modAt v.peer.links j fun q =>
            { q with retrainLanes := addLane q.retrainLanes lane }.noteStuck v.dial.now }) ∧
    (∀ lane, (laneUsed lane base n = false ∨ q.retrain = none ∧ rd v (PEER_LINK_STATUS.LANES j) = 0) →
      exec (.laneLockLost dt (.peer j) lane) s = .next v) ∧
    (q.retrain = none → exec (.retrainDone dt (.peer j)) s = .next v ∧ exec (.retrainTimeout dt (.peer j)) s = .next v) ∧
    (∀ t0, q.retrain = some t0 → v.dial.now - t0 ≤ 10000000 →
      Reaches (exec (.retrainDone dt (.peer j)) s) v
        [.regs, .sched, .queue, .pipe, .power, .peer, .observe, .log, .out, .noticeSeq] fun t =>
        rd t (PEER_LINK_STATUS.LANES j) = n ∧ (getLink t j).base = base ∧ (getLink t j).retrain = none ∧
        (getLink t j).retrained = markRetrained v.dial.now q.retrained q.retrainLanes ∧
        ((linkWorks t j && helloFresh t j) = true → rdB t (PEER_LINK_STATUS.UP j) = true)) ∧
    (∀ t0, q.retrain = some t0 → 10000000 ≤ v.dial.now - t0 →
      Reaches (exec (.retrainTimeout dt (.peer j)) s) v
        [.regs, .sched, .queue, .pipe, .peer, .observe, .log, .noticeSeq, .fresh] fun t =>
        (∃ l, failed l t ∧ (∀ x rest, q.retrainLanes = x :: rest → l = x) ∧ (q.retrainLanes = [] → base ≤ l ∧ l < base + n)) ∧
        t.peer.links = modAt v.peer.links j fun q => { q with retrain := none, retrainLanes := [] }.noteStuck v.dial.now)) ∧
  (∀ (s : State) (p locked : Nat),
    ((portOn s p = false ∨ (s.ports.getD p PortSt.reset).retrain.isSome = true) → exec (.blockLockGained (.head p) locked) s = .next s) ∧
    ((pdOn s 4 = false ∨ s.pins.lanesOff = true ∨ (getLink s p).retrain.isSome = true) →
      exec (.blockLockGained (.peer p) locked) s = .next s)) ∧
  (∀ (s : State) (p locked base n : Nat), p < 8 → portOn s p = true → (s.ports.getD p PortSt.reset).retrain = none →
    portLanes s p = some (base, n) →
    Does (exec (.blockLockGained (.head p) locked) s) s []
      [HEADPORT_STATUS.LOCKED p, HEADPORT_STATUS.ALIGNED p, HEADPORT_STATUS.ACTIVE_LANES p, HEADPORT_STATUS.LANE_BASE p] fun t =>
      rd t (HEADPORT_STATUS.ACTIVE_LANES p) = laneCode n ∧ rd t (HEADPORT_STATUS.LANE_BASE p) = base ∧
      (lanesIn locked base n = true → rdB t (HEADPORT_STATUS.ALIGNED p) = true) ∧
      (lanesIn locked base n = false → rdB t (HEADPORT_STATUS.ALIGNED p) = rdB s (HEADPORT_STATUS.ALIGNED p))) ∧
  ∀ (s : State) (j locked base n : Nat), j < 4 → PeerOk s.peer → pdOn s 4 = true → s.pins.lanesOff = false →
    (getLink s j).retrain = none → linkLanes s j = some (base, n) →
    (lanesIn locked base n = true →
      Reaches (exec (.blockLockGained (.peer j) locked) s) s [.regs, .queue, .power, .peer, .observe, .out, .noticeSeq] fun t =>
        rd t (PEER_LINK_STATUS.LANES j) = n ∧ (getLink t j).base = base ∧
        ((linkWorks t j && helloFresh t j) = true → rdB t (PEER_LINK_STATUS.UP j) = true)) ∧
    (lanesIn locked base n = false → exec (.blockLockGained (.peer j) locked) s = .next s)

/-- The transmitter of a port takes the items of its oldest ordered bundle, or where it has none those of its oldest closed shed
bundle, and sends their records in one frame under the next SEQUENCE of the stream, which advances by one for each bundle sent, or drops
and counts them where the port is not up; with no bundle to send nothing happens. Once no schedule runs, the last verdict to leave
closes the head-hold and ordered queues (log 177). While the dial is unset an open shed bundle closes 1,000 ns after its first record. A write of
HEADPORT_PORT_CFG that enables a port samples its version and lanes and starts its sequences anew; one that disables it turns its
lanes off. A write while the port's domain is off is ignored (log 156). -/
def Obligations.PortOutputsAreServed : Prop :=
  (∀ (s v w : State) (dt port : Nat) (shed : Bool) (o : OpenBundle) (rest : List OpenBundle), v = advance s dt → port < 8 →
    PortsOk v.ports →
    (shed = false → (v.ports.getD port PortSt.reset).ordered = o :: rest ∧
      w = { v with ports := modAt v.ports port fun t => { t with ordered := rest } }) →
    (shed = true → (v.ports.getD port PortSt.reset).ordered = [] ∧ (v.ports.getD port PortSt.reset).shedding = o :: rest ∧
      o.closed = true ∧ w = { v with ports := modAt v.ports port fun t => { t with shedding := rest } }) →
    let R (faults : List FaultEv) (P : State → Prop) : Prop :=
      Reaches (exec (.verdictTransmit dt port faults) s) v
        [.regs, .sched, .ports, .front, .flow, .endpoint, .queue, .pipe, .observe, .log, .hbm, .out, .noticeSeq] P
    (∀ faults, R faults fun t =>
      (if shed then (t.ports.getD port PortSt.reset).shedding.length else (t.ports.getD port PortSt.reset).ordered.length) ≤
        rest.length) ∧
    ∀ (u : State) (rs : List Nat) (p : PortSt), p = u.ports.getD port PortSt.reset →
      takeItems port (if shed then shedQueue port else orderedQueue port) (ceilDiv o.count 4) w [] = (u, rs) → rs ≠ [] →
      (portUp u port = true → R [] fun t =>
        t.out = v.out ++ [.bundle port (verdictFrame u port
          (if p.v1 then verdictHeader1 rs.length p.txOrdered
            else if shed then verdictHeader u port 3 rs.length p.txShed o.batch o.last
            else verdictHeader u port 2 rs.length p.txOrdered o.batch o.last) rs)] ∧
        rd t (HEADPORT_TX_VERDICTS.COUNT port) = satN (HEADPORT_TX_VERDICTS.COUNT port).width
          (rd u (HEADPORT_TX_VERDICTS.COUNT port) + rs.length) % 2 ^ (HEADPORT_TX_VERDICTS.COUNT port).width ∧
        (t.ports.getD port PortSt.reset).txOrdered =
          (if p.v1 = true ∨ shed = false then addMod 32 p.txOrdered 1 else p.txOrdered) ∧
        (t.ports.getD port PortSt.reset).txShed =
          (if p.v1 = true ∨ shed = false then p.txShed else addMod 32 p.txShed 1) ∧
        (v.sched.running.isSome = true ∨ shed = true → t.queue = u.queue) ∧
        (v.sched.running = none → shed = false → dataPathEmpty t = true →
          ∀ k < 8, (getQ t k).enable = false ∧ (getQ t (orderedQueue k)).enable = false)) ∧
      (portUp u port = false → R [] fun t =>
        t.out = v.out ∧ rd t (HEADPORT_MISC.VERDICTS_DROPPED port) = satN (HEADPORT_MISC.VERDICTS_DROPPED port).width
          (rd u (HEADPORT_MISC.VERDICTS_DROPPED port) + rs.length) % 2 ^ (HEADPORT_MISC.VERDICTS_DROPPED port).width)) ∧
  (∀ (s v : State) (dt port : Nat) (faults : List FaultEv), v = advance s dt → (v.ports.getD port PortSt.reset).ordered = [] →
    (∀ o rest, (v.ports.getD port PortSt.reset).shedding = o :: rest → o.closed = false) →
    exec (.verdictTransmit dt port faults) s = .next v) ∧
  (∀ (s v : State) (dt port t0 : Nat), v = advance s dt → port < 8 → PortsOk v.ports →
    (v.ports.getD port PortSt.reset).shedFirst = some t0 →
    (dialSet v = false → 1000 ≤ v.dial.now - t0 →
      Reaches (exec (.shedBundleTimeout dt port) s) v [.regs, .ports, .queue, .pipe, .observe, .noticeSeq] fun t =>
        (t.ports.getD port PortSt.reset).shedFirst = none ∧
        ∀ o ∈ (t.ports.getD port PortSt.reset).shedding, o.closed = true ∧ o.count ≠ 0) ∧
    ((dialSet v = true ∨ v.dial.now - t0 < 1000) → exec (.shedBundleTimeout dt port) s = .next v)) ∧
  ∀ (s : State) (port : Nat) (value : Word), port < 8 → PortsOk s.ports →
    (pdOn s (portDomain port) = true →
      Reaches (exec (.headportPortCfgWrite port value) s) s [.regs, .ports] fun t =>
        (rdB s HEADPORT_CTRL.LOCK = false →
          rdB t (HEADPORT_PORT_CFG.ENABLE port) = value.toNat.testBit (HEADPORT_PORT_CFG.ENABLE port).lsb) ∧
        (rdB s (HEADPORT_PORT_CFG.ENABLE port) = false → rdB t (HEADPORT_PORT_CFG.ENABLE port) = true →
          t.ports = modAt s.ports port fun q => { q with
            v1 := rdB t (HEADPORT_PORT_CFG.KEAFEN_V1 port)
            maxLanes := rd t (HEADPORT_PORT_CFG.MAX_LANES port)
            lastSeq := none
            txOrdered := 0
            txShed := 0 }) ∧
        (rdB s (HEADPORT_PORT_CFG.ENABLE port) = true → rdB t (HEADPORT_PORT_CFG.ENABLE port) = false →
          (∀ f ∈ [HEADPORT_STATUS.LOCKED port, HEADPORT_STATUS.ALIGNED port, HEADPORT_STATUS.ACTIVE_LANES port,
            HEADPORT_STATUS.LANE_BASE port], rd t f = 0) ∧
          t.ports = modAt s.ports port fun q => { q with retrain := none, retrainLanes := [], retrained := [] })) ∧
    (pdOn s (portDomain port) = false → exec (.headportPortCfgWrite port value) s = .next s)

/-! ## The pipeline -/

/-- An operation goes through its four stages: a fetched operation takes the next tag and joins the operations in flight, of which there
are at most 2,048, beyond which the fetch waits and is counted; it enters gather when its inputs are ready; the barrier ends the
operation in execute, whose cycles its chain has taken, and lets the next one in, for the cycles it will occupy the stage; the oldest
one, once executed, retires and leaves. Before its conditions hold an operation stays where it is. -/
def Obligations.OperationsPassTheirStages : Prop :=
  (∀ (s : State) (batch slot : Nat) (faults : List FaultEv) (b : Batch) (c : Chain), findBatch s batch = some b →
    b.chain slot = some c →
    (mayFetch s b c = true → s.pipe.flights.length < 2048 →
      Reaches (exec (.operationFetch batch slot faults) s) s
        [.regs, .sched, .front, .flow, .endpoint, .queue, .pipe, .slots, .tally, .observe, .log, .hbm, .noticeSeq] fun t =>
        t.pipe.flights = s.pipe.flights ++ [⟨s.pipe.nextTag, batch, slot, c.fetched, 0, batchNow s, 0, 0, 0, 0, 0, 0⟩] ∧
        t.pipe.nextTag = addMod 11 s.pipe.nextTag 1 ∧
        ∃ d e, findBatch t batch = some d ∧ d.chain slot = some e ∧ e.fetched = c.fetched + 1 ∧ e.retired = c.retired) ∧
    (mayFetch s b c = true → 2048 ≤ s.pipe.flights.length →
      Does (exec (.operationFetch batch slot faults) s) s [.observe] [] fun t =>
        t.observe = { s.observe with tagWaits := s.observe.tagWaits + if observeOn s then 1 else 0 }) ∧
    (mayFetch s b c = false → exec (.operationFetch batch slot faults) s = .next s)) ∧
  (∀ (s : State) (tag : Nat) (faults : List FaultEv) (f : Flight) (b : Batch) (c : Chain),
    (s.pipe.flights.find? fun f => f.tag == tag && f.stage == 0) = some f → findBatch s f.batch = some b →
    b.chain f.slot = some c →
    let ready := inputsReady c (c.op f.op) && producerReady s f.batch f.slot (c.op f.op) &&
      stateReady s f.batch f.slot c.model (c.op f.op)
    (ready = true →
      Reaches (exec (.operationGather tag faults) s) s
        [.regs, .sched, .front, .flow, .endpoint, .queue, .pipe, .slots, .tally, .observe, .log, .hbm, .noticeSeq] fun t =>
        t.pipe.flights = s.pipe.flights.map fun g => if g.tag = tag then { g with stage := 1 } else g) ∧
    (ready = false → exec (.operationGather tag faults) s = .next s)) ∧
  (∀ (s : State) (f : Flight), (s.pipe.flights.find? (·.stage == 2)) = some f →
    Reaches (exec .barrier s) s [.regs, .sched, .pipe, .tally, .observe] fun t =>
      (∀ g ∈ t.pipe.flights, g.tag = f.tag → g.stage = 3) ∧
      (∀ h, (s.pipe.flights.find? fun g => decide (g.stage < 2) && g.tag != f.tag) = some h →
        ∀ g ∈ t.pipe.flights, g.tag = h.tag → g.stage = if h.stage = 1 then 2 else g.stage) ∧
      ∀ b c, findBatch s f.batch = some b → b.chain f.slot = some c →
        ∃ d e, findBatch t f.batch = some d ∧ d.chain f.slot = some e ∧ e.cycles = c.cycles + f.cycles) ∧
  (∀ s : State, (s.pipe.flights.find? (·.stage == 2)) = none →
    (∀ f b c, nextExecute s = some f → f.stage = 1 → flightChain s f = some (b, c) →
      Does (exec .barrier s) s [.pipe] [] fun t =>
        t.pipe = { s.pipe with flights := s.pipe.flights.map fun g => if g.tag = f.tag then { g with
          stage := 2
          cycles := totalCycles (shapeNow s) (capacityOf s b) c.model (c.op f.op)
          runs := runCycles s b c (c.op f.op)
          place := opIndex (c.op f.op)
          moves := executeTransfers s c (c.op f.op)
          keyed := 0
          mark := s.dial.now } else g }) ∧
    ((∀ f, nextExecute s = some f → f.stage ≠ 1) → exec .barrier s = .next s)) ∧
  ∀ (s : State) (faults : List FaultEv) (f : Flight) (rest : List Flight), s.pipe.flights = f :: rest →
    (f.stage = 3 →
      Reaches (exec (.operationRetire faults) s) s
        [.regs, .sched, .front, .flow, .endpoint, .queue, .pipe, .slots, .tally, .observe, .log, .hbm, .noticeSeq] fun t =>
        t.pipe.flights = rest ∧ t.pipe.retiredBeat = batchNow s ∧
        ∀ b c, findBatch s f.batch = some b → b.chain f.slot = some c →
          ∃ d e, findBatch t f.batch = some d ∧ d.chain f.slot = some e ∧ e.retired = c.retired + 1 ∧ e.fetched = c.fetched) ∧
    (f.stage ≠ 3 → exec (.operationRetire faults) s = .next s)

/-- A batch: it is closed 256 ns into the beat after its own, and its slots are dealt to the dies in turn; its compute window ends 400 ns
into beat b + L, where a batch with operations still to retire is late and starts catch-up; in its return window it returns, once those
before it have, once the ordered queue of every port has room for its verdicts (R199; until then it waits, log 176), and its bundles
join the ordered streams of the ports; catch-up ends with the beat after the last late batch. -/
def Obligations.BatchesPassTheirWindows : Prop :=
  (∀ (s v : State) (batch : Nat) (b : Batch), findBatch s batch = some b → v = advance s ((batch + 1) * 1000 + 256 - s.dial.time) →
    (b.closed = false →
      Does (exec (.batchClose batch) s) v [.pipe] [] fun t =>
        t.pipe.batches = v.pipe.batches.map fun b =>
          if b.number = batch then { b with closed := true, places := dealSlots (shapeNow v) b.heads.length } else b) ∧
    (b.closed = true → exec (.batchClose batch) s = .next s)) ∧
  (∀ (s v : State) (batch : Nat) (b : Batch), findBatch s batch = some b → b.closed = true → b.windowEnded = false →
    v = advance s ((batch + b.latency) * 1000 + 400 - s.dial.time) →
    (b.tripped = false → b.retiredAll = true →
      Does (exec (.computeWindowEnd batch) s) v [.pipe] [] fun t =>
        t.pipe.batches = v.pipe.batches.map fun b => if b.number = batch then { b with windowEnded := true } else b) ∧
    ((b.tripped || !b.retiredAll) = true →
      Does (exec (.computeWindowEnd batch) s) v (.sched :: .pipe :: noticeParts)
        (DIAL_LATE_BATCHES.COUNT :: DIAL_EVENTS.LATE_BATCH :: DIAL_ADMISSION.CATCHUP :: DIAL_EVENTS.CATCHUP_STARTED ::
          noticeFields) fun t =>
        rdB t DIAL_EVENTS.LATE_BATCH = true ∧ (b.tripped = false → rdB t DIAL_ADMISSION.CATCHUP = true) ∧
        rd t DIAL_LATE_BATCHES.COUNT =
          satN DIAL_LATE_BATCHES.COUNT.width (rd v DIAL_LATE_BATCHES.COUNT + 1) % 2 ^ DIAL_LATE_BATCHES.COUNT.width ∧
        ∀ d ∈ t.pipe.batches, d.number = b.number → d.late = true ∧ d.windowEnded = true)) ∧
  (∀ s : State,
    (catchingUp s = true → lateOpen s = false → s.sched.caughtUp = 0 →
      Does (exec .catchupEnd s) s [.sched] [] fun t => t.sched = { s.sched with caughtUp := batchNow s + 1 }) ∧
    ((catchingUp s = false ∨ lateOpen s = true ∨ s.sched.caughtUp ≠ 0) → exec .catchupEnd s = .next s)) ∧
  ∀ (s : State) (batch : Nat) (faults : List FaultEv) (b : Batch), findBatch s batch = some b →
    (b.windowEnded = true → b.returned = false → (∀ d ∈ s.pipe.batches, d.number < batch → d.returned = true) →
      Reaches (exec (.returnWindowStart batch faults) s) s
        [.regs, .sched, .ports, .front, .flow, .endpoint, .queue, .pipe, .crown, .observe, .log, .hbm, .noticeSeq, .fresh] fun t =>
        ((∀ p < 8, b.portsDone.contains p = true ∨ itemsNeeded s b p ≤ roomQ s (orderedQueue p) 3) →
          ∀ d ∈ t.pipe.batches, d.number = batch → d.returned = true) ∧
        (faults = [] → (∃ p < 8, b.portsDone.contains p = false ∧ returnFits s b p = false) →
          ∃ d, findBatch t batch = some d ∧ d.returned = false) ∧
        ∀ (p : Nat), ∀ o ∈ (t.ports.getD p PortSt.reset).ordered,
          o ∈ (s.ports.getD p PortSt.reset).ordered ∨ o.batch = batch ∧ o.closed = true ∧ o.count ≤ 128) ∧
    ((b.windowEnded = false ∨ b.returned = true ∨ ∃ d ∈ s.pipe.batches, d.number < batch ∧ d.returned = false) →
      exec (.returnWindowStart batch faults) s = .next s)

/-! ## The front stage -/

/-- Staged rules: COMMIT checks them and hands over the whole set, or refuses it, naming the first entry that fails; a commit while
another waits to be applied is held; DISCARD empties the staging; the committed set is applied at a later beat, all of it at once, and a held commit is then checked against
what is staged by then. Meter configurations whose beat has passed are applied with full buckets, the newest of each meter, and no
other meter changes. -/
def Obligations.RuleSetsAreCommitted : Prop :=
  (∀ s : State, pdOn s 5 = true → s.front.committed = none →
    firstFailure (wr { s with front.held := false } FRONT_RULE_CTRL.COMMIT 0) s.front.staging = none →
    Does (exec .commit s) s (.front :: noticeParts)
      (FRONT_RULE_CTRL.COMMIT :: FRONT_RULE_STATUS.RESULT :: FRONT_RULE_STATUS.BUSY :: FRONT_RULE_STATUS.STAGED ::
        FRONT_EVENTS.RULE_COMMITTED :: noticeFields) fun t =>
      t.front = { s.front with held := false, committed := some s.front.staging, commitBeat := batchNow s, staging := [] } ∧
      rdB t FRONT_EVENTS.RULE_COMMITTED = true ∧ rd t FRONT_RULE_STATUS.RESULT = 1 ∧ rdB t FRONT_RULE_STATUS.BUSY = true ∧
      rd t FRONT_RULE_STATUS.STAGED = 0) ∧
  (∀ (s : State) (i k : Nat), pdOn s 5 = true → s.front.committed = none →
    firstFailure (wr { s with front.held := false } FRONT_RULE_CTRL.COMMIT 0) s.front.staging = some (i, k) →
    Does (exec .commit s) s (.front :: noticeParts)
      (FRONT_RULE_CTRL.COMMIT :: FRONT_RULE_STATUS.RESULT :: FRONT_RULE_STATUS.BAD_INDEX ::
        FRONT_EVENTS.RULE_REFUSED :: noticeFields) fun t =>
      t.front = { s.front with held := false } ∧ rdB t FRONT_EVENTS.RULE_REFUSED = true ∧
      rd t FRONT_RULE_STATUS.RESULT = k % 2 ^ FRONT_RULE_STATUS.RESULT.width ∧
      rd t FRONT_RULE_STATUS.BAD_INDEX = i % 2 ^ FRONT_RULE_STATUS.BAD_INDEX.width) ∧
  (∀ s : State, pdOn s 5 = true → s.front.committed.isSome = true →
    Does (exec .commit s) s [.front] [FRONT_RULE_CTRL.COMMIT] fun t =>
      t.front = { s.front with held := true } ∧ rd t FRONT_RULE_CTRL.COMMIT = 1) ∧
  (∀ s : State, pdOn s 5 = true →
    Does (exec .discard s) s [.front] [FRONT_RULE_CTRL.DISCARD, FRONT_RULE_STATUS.STAGED] fun t =>
      t.front = { s.front with staging := [] } ∧ rd t FRONT_RULE_STATUS.STAGED = 0) ∧
  (∀ (s : State) (set : Map Rule), s.front.committed = some set → laterBeat s s.front.commitBeat = true → s.front.held = false →
    Does (exec .ruleSetApply s) s [.front] [FRONT_RULE_STATUS.BUSY] fun t =>
      t.front = { s.front with
        committed := none
        rules := set.foldl (fun m r => if r.2.valid then Map.set m r.1 r.2 else Map.erase m r.1) s.front.rules } ∧
      rdB t FRONT_RULE_STATUS.BUSY = false) ∧
  (∀ (s : State) (set : Map Rule), s.front.committed = some set → laterBeat s s.front.commitBeat = true → s.front.held = true →
    Reaches (exec .ruleSetApply s) s (.regs :: .front :: noticeParts) fun t =>
      t.front.held = false ∧
      t.front.rules = set.foldl (fun m r => if r.2.valid then Map.set m r.1 r.2 else Map.erase m r.1) s.front.rules ∧
      ∀ u, u = wrB { s with front := { s.front with rules := t.front.rules, committed := none } } FRONT_RULE_STATUS.BUSY false →
        (firstFailure (wr { u with front.held := false } FRONT_RULE_CTRL.COMMIT 0) s.front.staging = none →
          t.front.committed = some s.front.staging ∧ t.front.commitBeat = batchNow s ∧ t.front.staging = [] ∧
          rd t FRONT_RULE_STATUS.RESULT = 1 ∧ rdB t FRONT_RULE_STATUS.BUSY = true ∧ rd t FRONT_RULE_STATUS.STAGED = 0 ∧
          rdB t FRONT_EVENTS.RULE_COMMITTED = true) ∧
        ∀ i k, firstFailure (wr { u with front.held := false } FRONT_RULE_CTRL.COMMIT 0) s.front.staging = some (i, k) →
          t.front.committed = none ∧ t.front.staging = s.front.staging ∧ rdB t FRONT_RULE_STATUS.BUSY = false ∧
          rd t FRONT_RULE_STATUS.RESULT = k % 2 ^ FRONT_RULE_STATUS.RESULT.width ∧
          rd t FRONT_RULE_STATUS.BAD_INDEX = i % 2 ^ FRONT_RULE_STATUS.BAD_INDEX.width ∧
          rdB t FRONT_EVENTS.RULE_REFUSED = true) ∧
  (∀ s : State, (s.front.committed = none ∨ laterBeat s s.front.commitBeat = false) → exec .ruleSetApply s = .next s) ∧
  (∀ s : State, pdOn s 5 = false → exec .commit s = .next s ∧ exec .discard s = .next s) ∧
  ∀ s : State,
    Does (exec .meterConfigApply s) s [.front] [] fun t =>
      t.front.meterNext = (s.front.meterNext.filter fun m => !laterBeat s m.2.2) ∧
      (∀ i, (∀ m ∈ s.front.meterNext, m.1 = i → laterBeat s m.2.2 = false) →
        Map.get? t.front.meters i = Map.get? s.front.meters i) ∧
      ∀ i c b before after, s.front.meterNext = before ++ (i, c, b) :: after → laterBeat s b = true →
        (∀ m ∈ after, m.1 = i → laterBeat s m.2.2 = false) →
        Map.get? t.front.meters i = some (Meter.full c (batchNow s))

/-! ## The flow table and the endpoint table -/

/-- The cuckoo engine takes its oldest waiting insertion and makes the entry at the lowest free index, where the key is not present and
the stash is not full; it rests during a rebuild and catch-up, and while its table is off (the lowest free index: log 58). A rebuild
starts with the hash constants to come, or fails where one of its multipliers is even (log 21); it places one valid record after another, after the DMA operations that wait, counting relocations and stash
placements, and fails where a record finds no place; when it is done the table searches the new halves under the new constants.
Elsewhere nothing changes. -/
def Obligations.CuckooInsertsAndRebuilds : Prop :=
  (∀ (s : State) (table batch : Nat) (faults : List FaultEv) (e : Entry) (rest : List (Nat × Entry)), table < 2 →
    (getT s table).requests = (batch, e) :: rest →
    (compat s table = true → tableOn s table = true → rebuilding s table = false → catchingUp s = false → (getT s table).insertedBeat < 256 →
      Reaches (exec (.cuckooInsert table faults) s) s
        [.regs, .sched, .front, .flow, .endpoint, .queue, .pipe, .tally, .observe, .log, .hbm, .noticeSeq] fun t =>
        (getT t table).requests = rest ∧
        ∀ i used, used = (getT s table).free.getD [] → i = lowestFree (used.length + 1) 0 used → faults = [] →
          (getT s table).stash.length < 64 → findKey table (getT s table) e.key = none → i < tableSize table →
          getEntry t table i = { e with
            valid := true
            rev := addMod 8 (getEntry s table i).rev 1
            software := if table = 0 then e.software else (getEntry s table i).software } ∧
          ∀ n, n = placeCuckoo (hashKey table (getT s table).hash) ⟨(getT s table).bank, (getT s table).stash, 0, false, false⟩
              ⟨i, e.key⟩ →
            (getT t table).bank = n.halves ∧ (getT t table).stash = n.stash ∧
            rd t (TABLE_CUCKOO.RELOCATIONS table) = satN (TABLE_CUCKOO.RELOCATIONS table).width
              (rd s (TABLE_CUCKOO.RELOCATIONS table) + n.relocations) % 2 ^ (TABLE_CUCKOO.RELOCATIONS table).width ∧
            (n.stashed = true → rdB t TABLE_EVENTS.STASH_USED = true ∧
              rd t (TABLE_CUCKOO.STASHED table) = satN (TABLE_CUCKOO.STASHED table).width
                (rd s (TABLE_CUCKOO.STASHED table) + 1) % 2 ^ (TABLE_CUCKOO.STASHED table).width)) ∧
    ((compat s table = false ∨ tableOn s table = false ∨ rebuilding s table = true ∨ catchingUp s = true ∨ 256 ≤ (getT s table).insertedBeat) →
      exec (.cuckooInsert table faults) s = .next s)) ∧
  (∀ (s : State) (table : Nat) (faults : List FaultEv), (getT s table).requests = [] →
    exec (.cuckooInsert table faults) s = .next s) ∧
  (∀ (s : State) (table : Nat), pdOn s 5 = true → compat s table = true → rebuilding s table = false →
    (rd s (TABLE_HASH_NEXT.VALUE table 1) % 2 = 1 → rd s (TABLE_HASH_NEXT.VALUE table 3) % 2 = 1 →
      Does (exec (.rebuildStart table) s) s [.flow, .endpoint] [rebuildState table] fun t =>
        (getT t table).rebuild = some 0 ∧ rd t (rebuildState table) = 1 ∧
        (getT t table).newHash = (List.range 4).map fun k => rd s (TABLE_HASH_NEXT.VALUE table k)) ∧
    ((rd s (TABLE_HASH_NEXT.VALUE table 1) % 2 = 0 ∨ rd s (TABLE_HASH_NEXT.VALUE table 3) % 2 = 0) →
      Does (exec (.rebuildStart table) s) s (.flow :: .endpoint :: noticeParts)
        (rebuildState table :: TABLE_EVENTS.REBUILD_FAILED :: noticeFields) fun t =>
        rdB t TABLE_EVENTS.REBUILD_FAILED = true ∧ rd t (rebuildState table) = 3 ∧ (getT t table).rebuild = none)) ∧
  (∀ (s : State) (table : Nat), (pdOn s 5 = false ∨ compat s table = false ∨ rebuilding s table = true) →
    exec (.rebuildStart table) s = .next s) ∧
  (∀ (s : State) (table i : Nat), (getT s table).rebuild = some i → (getT s table).rebuilt = none → mayRun s 4 0 = true →
    dmaPending s = false → tableOn s table = true → table < 2 →
    (∀ faults : List FaultEv,
      Reaches (exec (.rebuildPlace ⟨table, faults⟩) s) s
        [.regs, .sched, .front, .flow, .endpoint, .queue, .pipe, .tally, .observe, .log, .hbm, .noticeSeq] fun t =>
        (getT t table).rebuild = none ∨ (getT t table).rebuilt = some (batchNow s) ∨
          ∃ j, i ≤ j ∧ (getT t table).rebuild = some (j + 1)) ∧
    (∀ (j : Nat) (e : Entry) (n : Nest), ((getT s table).entries.find? fun e => decide (i ≤ e.1) && e.2.valid) = some (j, e) →
      n = placeCuckoo (hashKey table (getT s table).newHash) ⟨(getT s table).idle, (getT s table).newStash, 0, false, false⟩
        ⟨j, e.key⟩ →
      (n.failed = false →
        Does (exec (.rebuildPlace ⟨table, []⟩) s) s (.sched :: .flow :: .endpoint :: .tally :: noticeParts)
          (TABLE_CUCKOO.RELOCATIONS table :: TABLE_CUCKOO.STASHED table :: TABLE_EVENTS.STASH_USED :: noticeFields) fun t =>
          (getT t table).rebuild = some (j + 1) ∧ (getT t table).idle = n.halves ∧ (getT t table).newStash = n.stash ∧
          (n.stashed = true → rdB t TABLE_EVENTS.STASH_USED = true ∧
            rd t (TABLE_CUCKOO.STASHED table) = satN (TABLE_CUCKOO.STASHED table).width
              (rd s (TABLE_CUCKOO.STASHED table) + 1) % 2 ^ (TABLE_CUCKOO.STASHED table).width) ∧
          rd t (TABLE_CUCKOO.RELOCATIONS table) = satN (TABLE_CUCKOO.RELOCATIONS table).width
            (rd s (TABLE_CUCKOO.RELOCATIONS table) + n.relocations) % 2 ^ (TABLE_CUCKOO.RELOCATIONS table).width ∧
          (getT t table).rebuilt = if (getT s table).entries.any fun e => decide (j < e.1) && e.2.valid then none
            else some (batchNow s)) ∧
      (n.failed = true →
        Does (exec (.rebuildPlace ⟨table, []⟩) s) s (.sched :: .flow :: .endpoint :: .tally :: noticeParts)
          (TABLE_CUCKOO.RELOCATIONS table :: rebuildState table :: TABLE_EVENTS.REBUILD_FAILED :: noticeFields) fun t =>
          rdB t TABLE_EVENTS.REBUILD_FAILED = true ∧ rd t (rebuildState table) = 3 ∧ (getT t table).rebuild = none ∧
          rd t (TABLE_CUCKOO.RELOCATIONS table) = satN (TABLE_CUCKOO.RELOCATIONS table).width
            (rd s (TABLE_CUCKOO.RELOCATIONS table) + n.relocations) % 2 ^ (TABLE_CUCKOO.RELOCATIONS table).width ∧
          (getT t table).bank = (getT s table).bank)) ∧
    (((getT s table).entries.find? fun e => decide (i ≤ e.1) && e.2.valid) = none →
      Does (exec (.rebuildPlace ⟨table, []⟩) s) s [.sched, .flow, .endpoint, .tally, .observe] [] fun t =>
        (getT t table).rebuilt = some (batchNow s))) ∧
  (∀ (s : State) (table : Nat) (faults : List FaultEv),
    ((getT s table).rebuild = none ∨ (getT s table).rebuilt ≠ none ∨ mayRun s 4 0 = false ∨ dmaPending s = true ∨
      tableOn s table = false) →
    exec (.rebuildPlace ⟨table, faults⟩) s = .next s) ∧
  ∀ (s : State) (table : Nat),
    (∀ b, (getT s table).rebuilt = some b → laterBeat s b = true → tableOn s table = true →
      Reaches (exec (.rebuildDone table) s) s [.regs, .flow, .endpoint, .queue, .observe, .noticeSeq] fun t =>
        (getT t table).bank = (getT s table).idle ∧ (getT t table).stash = (getT s table).newStash ∧
        (getT t table).hash = (getT s table).newHash ∧ (getT t table).rebuild = none ∧
        rd t (rebuildState table) = 2 ∧ rdB t TABLE_EVENTS.REBUILD_DONE = true) ∧
    ((tableOn s table = false ∨ ∀ b, (getT s table).rebuilt = some b → laterBeat s b = false) →
      exec (.rebuildDone table) s = .next s)

/-- The rake: a sweep of an enabled table starts at its dial second; one that falls due while the last still runs waits for its end,
counts as an overrun and starts then, unless the table has been disabled; a visit deals with one entry and goes on to the next: an entry
that was hit loses its marks, one that was not is marked, a marked one is removed, a locked or static one is passed over; the visit of
the last entry ends the sweep. Each is counted. A visit waits for its unit, for a rebuild (at its index: log 170), and in catch-up where it would remove the entry;
while the table is off nothing happens. -/
def Obligations.RakeSweepsTheTables : Prop :=
  (∀ (s : State) (table : Nat) (due : Bool), tableOn s table = true →
    due = (atSecond s && dialSeconds s % sweepSeconds s table == 0 && rakeOn s table) →
    ((getT s table).rake = none → (getT s table).sweepDue = false → due = true →
      Does (exec (.rakeSweepStart table) s) s [.flow, .endpoint] [] fun t => (getT t table).rake = some 0) ∧
    (∀ i, (getT s table).rake = some i → due = true →
      Does (exec (.rakeSweepStart table) s) s [.flow, .endpoint] [] fun t =>
        (getT t table).rake = some i ∧ (getT t table).sweepDue = true) ∧
    ((getT s table).rake = none → (getT s table).sweepDue = true → rakeOn s table = true →
      Does (exec (.rakeSweepStart table) s) s (.flow :: .endpoint :: noticeParts)
        ((if table == 0 then TABLE_RAKE_STATUS.FLOW_OVERRUNS else TABLE_RAKE_STATUS.EP_OVERRUNS) ::
          TABLE_EVENTS.RAKE_OVERRUN :: noticeFields) fun t =>
        (getT t table).rake = some 0 ∧ (getT t table).sweepDue = false ∧ rdB t TABLE_EVENTS.RAKE_OVERRUN = true ∧
        ∀ f, f = (if table == 0 then TABLE_RAKE_STATUS.FLOW_OVERRUNS else TABLE_RAKE_STATUS.EP_OVERRUNS) →
          rd t f = satN f.width (rd s f + 1) % 2 ^ f.width) ∧
    ((getT s table).rake = none → (getT s table).sweepDue = true → rakeOn s table = false →
      Does (exec (.rakeSweepStart table) s) s [.flow, .endpoint] [] fun t =>
        (getT t table).rake = none ∧ (getT t table).sweepDue = false) ∧
    (due = false → ((getT s table).rake ≠ none ∨ (getT s table).sweepDue = false) →
      exec (.rakeSweepStart table) s = .next s)) ∧
  (∀ (s u : State) (table i : Nat) (faults : List FaultEv), (getT s table).rake = some i → mayRun s 3 0 = true →
    table < 2 → tableOn s table = true → rebuilding s table = false → u = faults.foldl structureFault s →
    ((catchingUp u = false ∨ rakeAct u table i ≠ .orphan ∧ rakeAct u table i ≠ .remove) →
      Reaches (exec (.rakeVisit table faults) s) s
        [.regs, .sched, .front, .flow, .endpoint, .queue, .pipe, .tally, .observe, .log, .hbm, .noticeSeq] fun t =>
        ((getT t table).rake = if i + 1 < tableSize table then some (i + 1) else none) ∧
        ((rakeAct u table i = .pass ∨ rakeAct u table i = .locked) → getEntry t table i = getEntry u table i) ∧
        (rakeAct u table i = .clear → getEntry t table i = { getEntry u table i with hit := false, age := false }) ∧
        (rakeAct u table i = .mark → getEntry t table i = { getEntry u table i with age := true }) ∧
        ((rakeAct u table i = .orphan ∨ rakeAct u table i = .remove) →
          getEntry t table i = { getEntry u table i with valid := false, rev := addMod 8 (getEntry u table i).rev 1 }) ∧
        (rakeAct u table i = .orphan → rdB t TABLE_EVENTS.ORPHAN_REMOVED = true) ∧
        ∀ a f, (a, f) ∈ [(RakeAct.locked, TABLE_AGING.LOCKED_PASSED table), (.orphan, TABLE_AGING.ORPHANS table),
            (.remove, TABLE_AGING.REMOVED table)] →
          rd t f = if rakeAct u table i = a then satN f.width (rd u f + 1) % 2 ^ f.width else rd u f) ∧
    (catchingUp u = true → (rakeAct u table i = .orphan ∨ rakeAct u table i = .remove) →
      exec (.rakeVisit table faults) s = .next u)) ∧
  ∀ (s : State) (table : Nat) (faults : List FaultEv),
    (((getT s table).rake = none ∨ mayRun s 3 0 = false ∨ rebuilding s table = true ∨ tableOn s table = false) →
      exec (.rakeVisit table faults) s = .next s) ∧
    (tableOn s table = false → exec (.rakeSweepStart table) s = .next s)

/-- Each table operation of a job, READ, WRITE, INSERT, DELETE, LOCK, UNLOCK, READ_STATE and WRITE_STATE, is done where it is the
job's next operation and nothing makes it wait, and adds its result and its data to the job's results: READ returns the entry, LOCK
and UNLOCK set and clear LOCK, WRITE replaces a locked entry but for VALID, LOCK, REV and KEY, DELETE makes it not valid, READ_STATE
returns the state block, WRITE_STATE replaces a locked entry's descriptor and block (layout: log 31), INSERT makes an entry with the fields given at the
index named or, in the compatibility organisation, at the lowest free one, and returns it (logs 58 and 171). A refused one leaves the
entries alone: 1 for a bad index, 2 during a rebuild, 3 where no valid entry is found, 4 where one exists, 5 and 6 for its LOCK, 7
with a full stash, 8 without a free record, 9 after a lasting fault in the entry (log 159). Done and refused ones are counted. Elsewhere nothing changes. -/
def Obligations.TableOperationsAddTheirResult : Prop :=
  ∀ (s : State) (job code : Nat) (faults : List FaultEv) (c : Instr),
    (c, code) ∈ [(Instr.tableRead job faults, 1), (.tableWrite job faults, 2), (.tableInsert job faults, 3),
      (.tableDelete job faults, 4), (.tableLock job faults, 5), (.tableUnlock job faults, 6), (.tableReadState job faults, 7),
      (.tableWriteState job faults, 8)] →
    (∀ (j : Job) (o : JobOp) (tb slot : Nat) (x : EntryRef × Bytes), nextOp s job 0x01 = some (j, o) → tb = b2n (bit o.2.2.1 63) →
      x = tableRef tb o.2.2.1 o.2.2.2 → slot = fld o.2.2.1 62 59 →
      (o.2.1 = code → tableOn s tb = true → unitAllowed s 4 = true → dmaWaits s tb code x.1 x.2 = false →
        let adds (t : State) (r : Nat) (d : Bytes) : Prop := (runningJob t job).map (·.results) = some (j.results ++ [(r, d)])
        let kept (t : State) : Prop := ∀ k, getEntry t tb k = getEntry s tb k
        (Reaches (exec c s) s
          [.regs, .sched, .front, .flow, .endpoint, .queue, .pipe, .slots, .tally, .crown, .observe, .log, .hbm,
            .noticeSeq] fun t => ∃ r d, adds t r d ∧
              ∀ f, f = (if r = 0 then TABLE_DMA.DONE else TABLE_DMA.REFUSED) → rd t f = satN f.width (rd s f + 1) % 2 ^ f.width) ∧
        (dmaBad s tb code x.1 slot = true → faults = [] → Answers (exec c s) fun t => adds t 1 [] ∧ kept t) ∧
        (dmaBad s tb code x.1 slot = false → rebuilding s tb = true → code ≠ 1 → code ≠ 7 → faults = [] →
          Answers (exec c s) fun t => adds t 2 [] ∧ kept t) ∧
        (dmaBad s tb code x.1 slot = false → (rebuilding s tb = true → code = 1 ∨ code = 7) → code ≠ 3 →
          (faults = [] → (∀ i, dmaIndex s tb x.1 = some i → (getEntry s tb i).valid = false) →
            Answers (exec c s) fun t => adds t 3 [] ∧ kept t) ∧
          ∀ (i : Nat) (e : Entry), dmaIndex s tb x.1 = some i → e = getEntry s tb i → e.valid = true →
            (dmaParity tb i faults = true → (code = 2 ∨ code = 8 → e.lock = true) → (code = 5 → e.lock = false) →
              Answers (exec c s) fun t => adds t 9 []) ∧
            (faults = [] → Answers (exec c s) fun t =>
              ((code = 2 ∨ code = 8) → e.lock = false → kept t ∧ adds t 5 []) ∧
              (code = 5 → e.lock = true → kept t ∧ adds t 6 []) ∧
              (code = 1 → kept t ∧ adds t 0 (entryBytes tb e)) ∧
              (code = 7 → kept t ∧ adds t 0 (readBlock s i slot)) ∧
              (code = 2 → e.lock = true → adds t 0 [] ∧ ∀ w, w = entryOfBytes tb x.2 →
                getEntry t tb i = { w with valid := e.valid, lock := e.lock, rev := addMod 8 e.rev 1, key := e.key }) ∧
              (code = 4 → adds t 0 [] ∧ getEntry t tb i = { e with valid := false, lock := false, rev := addMod 8 e.rev 1 }) ∧
              (code = 5 → e.lock = false → adds t 0 [] ∧ getEntry t tb i = { e with lock := true }) ∧
              (code = 6 → adds t 0 [] ∧ getEntry t tb i = { e with lock := false }) ∧
              (code = 8 → e.lock = true → SlotsOk s.slots → adds t 0 [] ∧
                getEntry t 0 i = { e.setDesc slot (SlotDesc.ofWord (beAt x.2 0 16)) with rev := addMod 8 e.rev 1 } ∧
                Map.getD (getSlot t slot).blocks i 0 =
                  beNat (padTo (stateBytes s slot) (slice x.2 16 (stateBytes s slot)))))) ∧
        (code = 3 → dmaBad s tb 3 x.1 slot = false → rebuilding s tb = false →
          (∀ i, (compat s tb = false ∧ x.1 = .index i ∨
              compat s tb = true ∧ ∃ pl, findKey tb (getT s tb) (insertKey tb x.1 x.2) = some (pl, i)) →
            ((getEntry s tb i).valid = true → dmaParity tb i faults = true → Answers (exec c s) fun t => adds t 9 []) ∧
            (((getEntry s tb i).valid = true ∨ compat s tb = true) → faults = [] → Answers (exec c s) fun t => adds t 4 [] ∧ kept t)) ∧
          (faults = [] → ∀ (i k : Nat), k = (if compat s tb then insertKey tb x.1 x.2 else 0) →
            (compat s tb = false ∧ x.1 = .index i ∧ (getEntry s tb i).valid = false ∨
              compat s tb = true ∧ findKey tb (getT s tb) k = none ∧ (getT s tb).stash.length < 64 ∧
              i = lowestFree (((getT s tb).free.getD []).length + 1) 0 ((getT s tb).free.getD []) ∧ i < tableSize tb) →
            Answers (exec c s) fun t => adds t 0 (natBe 4 i) ∧ ∀ w, w = entryOfBytes tb x.2 →
              getEntry t tb i = { w with
                valid := true
                lock := false
                rev := addMod 8 (getEntry s tb i).rev 1
                key := k
                id := if compat s tb then w.id else i }) ∧
          (faults = [] → compat s tb = true → findKey tb (getT s tb) (insertKey tb x.1 x.2) = none →
            (64 ≤ (getT s tb).stash.length →
              Answers (exec c s) fun t => adds t 7 [] ∧ kept t ∧ rdB t TABLE_EVENTS.REHASH_REQUEST = true) ∧
            ((getT s tb).stash.length < 64 →
              tableSize tb ≤ lowestFree (((getT s tb).free.getD []).length + 1) 0 ((getT s tb).free.getD []) →
              Answers (exec c s) fun t => adds t 8 [] ∧ kept t)))) ∧
      ((o.2.1 ≠ code ∨ tableOn s tb = false ∨ unitAllowed s 4 = false ∨ dmaWaits s tb code x.1 x.2 = true) →
        exec c s = .next s)) ∧
    (nextOp s job 0x01 = none → exec c s = .next s)

/-! ## Queues -/

/-- The consumer of a queue always takes the oldest item of the highest non-empty band, and an item is written behind those that its
band holds already, so that each band is first in, first out. A struck item fails its check when it is taken: a lasting fault discards
it, a transient one is corrected. -/
def Obligations.BandsAreFirstInFirstOut : Prop :=
  (∀ (s : State) (q i b : Nat), peekQ s q = .item i b →
    b < 4 ∧ (bandItems s ((getQ s q).bands.getD b noBand)).head? = some i ∧
    ∀ k, b < k → k < 4 → ((getQ s q).bands.getD k noBand).occ = 0) ∧
  (∀ (s : State) (q : Nat), peekQ s q = .empty → ∀ k < 4, ((getQ s q).bands.getD k noBand).occ = 0) ∧
  (∀ (s t : State) (q band item : Nat), band < (getQ s q).bands.length → enqueueRaw s q band item = (t, .written) →
    bandItems t ((getQ t q).bands.getD band noBand) = bandItems s ((getQ s q).bands.getD band noBand) ++ [item]) ∧
  (∀ (s t : State) (q i b : Nat), b < (getQ s q).bands.length → dequeueRaw s q = (t, .item i b) →
    bandItems s ((getQ s q).bands.getD b noBand) = i :: bandItems t ((getQ t q).bands.getD b noBand)) ∧
  ∀ (s : State) (q i b : Nat), hubOn s = true → peekQ s q = .item i b → (judgeLevel (dequeueRaw s q).1 q).2 = false →
    (s.queue.struck.find? (·.1 == ringPlace s q b 0) = none → (dequeue s q).2 = .item i b) ∧
    ∀ p lasting, s.queue.struck.find? (·.1 == ringPlace s q b 0) = some (p, lasting) →
      (dequeue s q).2 = (if lasting then .discarded i b else .item i b) ∧
      ∀ x ∈ (dequeue s q).1.queue.struck, x.1 ≠ ringPlace s q b 0

/-- A flush empties a queue that the data path does not use, and is refused for one that it does; a write of a descriptor word
sets the level and the enable, with the bands of a queue that is enabled empty, or is refused where the queue may not be enabled; or it
sets a band of a queue that is not enabled; it has no effect on a queue of the data path. ITEM_TAKE is the consumer of its queue at work:
the job processor for a job queue, the control complex for the queues of a capture, the transmitter for a verdict queue of a port, the
reorder stage for a head-hold queue of a port; a notice queue is drained by software. The job processor takes the queue that is next in
its round, and with it the job that its item names, which runs, or ends where it was aborted while it waited. Elsewhere nothing
changes. (ITEM_TAKE acting as the commands of the queue's consumer is log 101; JOB_START out of its turn changing nothing is log 132.) -/
def Obligations.QueuesAreSetUpAndServed : Prop :=
  ((∀ (s : State) (q : Nat), pdOn s 5 = true → q < 262144 → dataPathUse q = none →
    Reaches (exec (.queueFlush q) s) s [.regs, .ports, .queue, .pipe, .observe, .noticeSeq] fun t =>
      rdB t QUEUE_EVENTS.FLUSH_DONE = true ∧ rd t QUEUE_FLUSH.QUEUE = q ∧ (queueClass q ≠ 3 → (getQ t q).occ = 0)) ∧
  (∀ (s : State) (q : Nat), pdOn s 5 = true → q < 262144 → (dataPathUse q).isSome = true →
    Does (exec (.queueFlush q) s) s noticeParts
      (QUEUE_FLUSH.QUEUE :: QUEUE_REFUSALS.DESC_REFUSED :: QUEUE_EVENTS.DESC_REFUSED :: noticeFields) fun t =>
      rdB t QUEUE_EVENTS.DESC_REFUSED = true) ∧
  (∀ (s : State) (q : Nat), pdOn s 5 = false → exec (.queueFlush q) s = .next s) ∧
  (∀ (s : State) (q word : Nat) (v : Word), pdOn s 5 = true → q < 262144 → 4 ≤ word → word < 8 → dataPathUse q = none →
    (getQ s q).enable = false →
    Does (exec (.queueDescriptorWrite q word v) s) s [.queue] [] fun t =>
      getQ t q = { getQ s q with bands := modAt (getQ s q).bands (7 - word) fun x =>
        { x with base := fld v.toNat 63 41, log2 := fld v.toNat 40 36 } } ∧
      ∀ p, p ≠ q → getQ t p = getQ s p) ∧
  (∀ (s : State) (q : Nat) (v : Word), pdOn s 5 = true → q < 262144 → dataPathUse q = none →
    ((bit v.toNat 63 = false ∨ (getQ s q).enable = true ∨ enableOk s (getQ s q) = true) →
      Does (exec (.queueDescriptorWrite q 0 v) s) s [.queue] [] fun t =>
        getQ t q = { getQ s q with
          enable := bit v.toNat 63
          level := fld v.toNat 58 40
          armed := true
          bands := if bit v.toNat 63 && !(getQ s q).enable then (getQ s q).bands.map Band.zeroed else (getQ s q).bands } ∧
        ∀ p, p ≠ q → getQ t p = getQ s p) ∧
    (bit v.toNat 63 = true → (getQ s q).enable = false → enableOk s (getQ s q) = false →
      Does (exec (.queueDescriptorWrite q 0 v) s) s noticeParts
        (QUEUE_REFUSALS.DESC_REFUSED :: QUEUE_EVENTS.DESC_REFUSED :: noticeFields) fun t =>
        rdB t QUEUE_EVENTS.DESC_REFUSED = true ∧ (queueClass q ≠ 3 → getQ t q = getQ s q))) ∧
  ∀ (s : State) (q word : Nat) (v : Word),
    (pdOn s 5 = false ∨ 262144 ≤ q ∨ 8 ≤ word ∨ (dataPathUse q).isSome = true ∨ word = 1 ∨ word = 2 ∨ word = 3 ∨
      4 ≤ word ∧ (getQ s q).enable = true) →
    exec (.queueDescriptorWrite q word v) s = .next s) ∧
  ((∀ (s : State) (q : Nat) (faults : List FaultEv),
    (queueClass q = 2 → exec (.itemTake q faults) s = exec (.jobStart q faults) s) ∧
    (queueClass q = 0 → dataPathUse q = none → exec (.itemTake q faults) s = exec (.captureForward q) s) ∧
    (queueClass q = 1 → dataPathUse q = none → exec (.itemTake q faults) s = exec (.capturePush q true) s) ∧
    (∀ p use, queueClass q = 1 → dataPathUse q = some (p, use) →
      exec (.itemTake q faults) s = exec (.verdictTransmit 0 p faults) s) ∧
    (∀ x b, queueClass q = 0 → dataPathUse q = some x → oldestBatch s = some b →
      exec (.itemTake q faults) s = exec (.returnWindowStart b faults) s) ∧
    ((queueClass q = 3 ∨ queueClass q = 0 ∧ (dataPathUse q).isSome = true ∧ oldestBatch s = none) →
      exec (.itemTake q faults) s = .next s)) ∧
  (∀ (s : State) (q : Nat) (faults : List FaultEv) (c : Instr), queueClass q = 2 →
    c ∈ [Instr.jobStart q faults, .itemTake q faults] →
    ((s.crown.jobs.filter (·.state == 1)).length < 4 → nextJobQueue s = some q →
      Reaches (exec c s) s
        [.regs, .sched, .ports, .front, .flow, .endpoint, .queue, .pipe, .power, .tally, .crown, .peer, .observe, .log, .hbm, .out,
          .noticeSeq, .fresh] fun t => t.crown.lastQueue = q) ∧
    ((4 ≤ (s.crown.jobs.filter (·.state == 1)).length ∨ nextJobQueue s ≠ some q) → exec c s = .next s)) ∧
  ∀ (s : State) (q i b : Nat) (c : Instr) (j : Job) (u : State), queueClass q = 2 →
    c ∈ [Instr.jobStart q [], .itemTake q []] → (s.crown.jobs.filter (·.state == 1)).length < 4 →
    nextJobQueue s = some q → dequeue { s with crown.lastQueue := q } q = (u, .item i b) →
    waitingJob u q i = some j →
    (j.abort = false → Answers (exec c s) fun t => (t.crown.jobs.find? (·.post == j.post)).map (·.state) = some 1) ∧
    (j.abort = true → Answers (exec c s) fun t => ∀ x ∈ t.crown.jobs, x.post ≠ j.post))

/-- An event sets its flag, and where its notice is enabled and its block's notice queue has room, the notice is written behind those of
its band, urgent events in band 3 and the others in band 2, with the block's events as they are just after the flag was set; while the
notice is not enabled nothing but the flag changes. -/
def Obligations.EventsSendTheirNotice : Prop :=
  ∀ (s : State) (f : Field) (arg : Nat),
    f ∈ [GLOBAL_EVENTS.RESTART_DONE, DIAL_EVENTS.LATE_BATCH, HEADPORT_EVENTS.LANE_FAILED, FRONT_EVENTS.RULE_COMMITTED,
      TABLE_EVENTS.PARITY_LASTING, QUEUE_EVENTS.FLUSH_DONE, ARRAY_Q_EVENTS.CONTROL_APPLIED, SLOT_EVENTS.STAGED,
      REGULATOR_EVENTS.TRIP, TALLY_EVENTS.SIGNED, SECURE_EVENTS.SCHEDULE_LOADED, CROWN_EVENTS.SESSION_CHANGED,
      PEER_EVENTS.CRC_LASTING, OBSERVE_EVENTS.HANG, LOGBOOK_EVENTS.WRITTEN] →
    let q := noticeRoute s f
    let b := (getQ s q).bands.getD (noticeBand f) noBand
    (noticeEnabled s f = false → raiseOne s f arg = (wrB s f true, [])) ∧
    (noticeEnabled s f = true → queueClass q = 3 → (getQ s q).enable = true → b.present = true → b.bad = false →
      b.occ ≠ 2 ^ b.log2 →
      rdB (raiseOne s f arg).1 f = true ∧ (raiseOne s f arg).1.noticeSeq = s.noticeSeq + 1 ∧
      bandItems (raiseOne s f arg).1 ((getQ (raiseOne s f arg).1 q).bands.getD (noticeBand f) noBand) =
        bandItems s b ++ [noticeItem (wrB s f true) f arg]) ∧
    (noticeEnabled s f = true → queueClass q ≠ 3 →
      rdB (raiseOne s f arg).1 f = true ∧ (GLOBAL_EVENTS.ROUTE_INVALID, 0) ∈ (raiseOne s f arg).2 ∧
      rd (raiseOne s f arg).1 GLOBAL_STATUS.NOTICES_UNROUTED =
        satN GLOBAL_STATUS.NOTICES_UNROUTED.width (rd s GLOBAL_STATUS.NOTICES_UNROUTED + 1))

/-! ## Model slots and adaptation -/

/-- Slot commands: one that is accepted has its effect and reports ACCEPTED, and a swap is recorded for the boundary at which it takes
effect (ROLLBACK clears ADAPT_ON at once, log 90). One that is refused changes no slot and nothing but registers: WRONG_STATE where the slot is in no
state that the command's row names, BUSY where a swap is pending or a generation drains, or for STAGE where the slot's load buffer is
held for a distribution (R447), NO_BUDGET where the budget check of ADAPT_START fails. -/
def Obligations.AcceptedSlotCommandsActOnTheSlot : Prop :=
  (∀ (s : State) (slot : Nat), slot < 16 → SlotsOk s.slots →
    let x := getSlot s slot
    let R (c : Instr) (op : Nat) (P : SlotSt → Prop) : Prop :=
      Reaches (exec c s) s [.regs, .queue, .slots, .observe, .noticeSeq] fun t =>
        rd t SLOT_COMMAND_STATUS.SLOT = slot ∧ rd t SLOT_COMMAND_STATUS.OP = op ∧ rd t SLOT_COMMAND_STATUS.RESULT = 1 ∧
        P (getSlot t slot) ∧ ∀ k, k ≠ slot → getSlot t k = getSlot s k
    (x.swap = none → x.staging ≠ 1 → x.staging ≠ 6 → x.distHeld = false →
      R (.stage slot) 1 fun y => y.staging = 1 ∧ y.staged = none ∧ y.adaptOn = false ∧ y.active = x.active) ∧
    (x.swap = none → 2 ≤ x.staging → x.staging ≤ 5 →
      R (.slotDiscard slot) 2 fun y => y.staging = 0 ∧ y.staged = none ∧ y.adaptOn = false ∧ y.active = x.active) ∧
    (x.swap = none → x.staging = 2 →
      R (.activate slot) 3 fun y => y = { x with swap := some (3, effectBoundary s) }) ∧
    (x.swap = none → x.staging = 5 →
      R (.rollback slot) 4 fun y => y.swap = some (4, effectBoundary s) ∧ y.adaptOn = false ∧ y.staged = x.staged ∧
        y.active = x.active) ∧
    (x.swap = none → x.staging = 5 →
      R (.release slot) 5 fun y => y.staging = 0 ∧ y.staged = none ∧ y.adaptHeld = false ∧ y.adaptOn = x.adaptOn ∧
        (x.adaptOn = true → y.formAt = some (effectBoundary s)) ∧ y.active = x.active) ∧
    (∀ m a, activeAdapt x = some (m, a) → x.staging = 0 → adaptBudget s slot m a = true →
      R (.adaptStart slot) 6 fun y => y = { x with adaptOn := true, formAt := some (x.formAt.getD (effectBoundary s)) }) ∧
    (x.adaptOn = true →
      R (.adaptStop slot) 7 fun y => y.adaptOn = false ∧ y.active = x.active ∧
        y.staging = if (x.staging = 3 ∨ x.staging = 4) ∧ x.swap = none then 0 else x.staging) ∧
    (x.swap = none → x.staging = 4 → x.marked = false →
      R (.promote slot) 8 fun y => y = { x with swap := some (8, effectBoundary s) })) ∧
  ∀ (s : State) (slot op : Nat) (c : Instr), slot < 16 →
    (c, op) ∈ [(Instr.stage slot, 1), (.slotDiscard slot, 2), (.activate slot, 3), (.rollback slot, 4), (.release slot, 5),
      (.adaptStart slot, 6), (.adaptStop slot, 7), (.promote slot, 8)] →
    commandResult s slot op ≠ .accepted →
    Reaches (exec c s) s [.regs] fun t =>
      rd t SLOT_COMMAND_STATUS.SLOT = slot ∧ rd t SLOT_COMMAND_STATUS.OP = op ∧ rd t SLOT_COMMAND_STATUS.BEAT = 0 ∧
      rd t SLOT_COMMAND_STATUS.RESULT = (commandResult s slot op).code ∧
      (rd t SLOT_COMMAND_STATUS.RESULT = 3 ↔
        op ≠ 6 ∧ op ≠ 7 ∧ ((getSlot s slot).swap.isSome = true ∨
          (getSlot s slot).staging = 6 ∧ op ≠ 2 ∧ op ≠ 5 ∨ op = 1 ∧ (getSlot s slot).distHeld = true)) ∧
      (rd t SLOT_COMMAND_STATUS.RESULT = 4 ↔
        op = 6 ∧ (getSlot s slot).staging = 0 ∧ ∃ m a, activeAdapt (getSlot s slot) = some (m, a) ∧ adaptBudget s slot m a = false)

/-- The front stage and the verdicts. The parser reads nothing beyond the present length. Of the rules that match a key that of the highest
priority is taken, among equals the first; a matched rule is counted once, adds the head to its counter where it counts, and a head without one is
counted among the defaults. A meter fills its buckets up to their bursts by the beats passed, and its colour says which of them has room
for the packet, which it then takes from each bucket that has. An admitted head joins its batch with what the front stage gives it. A
lookup finds the entry at the head's index or of its key and answers hit, locked hit, miss or no key, which is counted; a hit updates the
entry, and takes the head's ingress port where the table learns by itself and the entry is not static; a locked hit changes nothing; a
miss in such a table makes the entry (its STATE_TAG 0: log 168) or hands it to the cuckoo engine; no other entry changes. A
late verdict carries the rule's action where one matched, else the default action; a verdict while a front table is lost the default; a FINAL
rule its action and score; a head on the fault path the default action and no score; any other the score of the verdict map, and the action of
the level that it reaches, where that may replace the rule's. -/
def Obligations.HeadsPassTheFrontStageToTheirVerdict : Prop :=
  (∀ (f : FrontSt) (h1 h2 : Bytes) (p : Nat), h1.length = h2.length → h1.take p = h2.take p →
    parseHead f h1 p = parseHead f h2 p) ∧
  (∀ (rules : Map Rule) (key : Nat),
    (classify rules key = none ↔ ∀ x ∈ rules, x.2.hits key = false) ∧
    ∀ r, classify rules key = some r → ∃ i before after, rules = before ++ (i, r) :: after ∧ r.hits key = true ∧
      (∀ x ∈ before, x.2.hits key = true → x.2.priority < r.priority) ∧
      ∀ x ∈ after, x.2.hits key = true → x.2.priority ≤ r.priority) ∧
  (∀ (s t : State) (part b len : Nat) (c : ClassResult),
    (applyRule s none part b len = (t, c) → t = s ∧ c.hit = false) ∧
    ∀ r, applyRule s (some r) part b len = (t, c) → c.hit = true ∧
      rd t FRONT_RULE_HITS.COUNT = satN FRONT_RULE_HITS.COUNT.width (rd s FRONT_RULE_HITS.COUNT + 1) % 2 ^ FRONT_RULE_HITS.COUNT.width ∧
      (bit r.result 65 = false → c.action = fld r.result 111 104 ∧ c.arg = fld r.result 103 88 ∧ c.colour = 0 ∧
        c.final = bit r.result 87 ∧ t.front.meters = s.front.meters) ∧
      ∀ k, Map.getD t.front.counters k (0, 0) = (if bit r.result 86 = true ∧ k = fld r.result 85 66 then
        (((Map.getD s.front.counters k (0, 0)).1 + 1) % 2 ^ 64, ((Map.getD s.front.counters k (0, 0)).2 + len) % 2 ^ 64)
        else Map.getD s.front.counters k (0, 0))) ∧
  (∀ (m n : Meter) (b len tc tp colour : Nat), meterHead m b len = (n, colour) →
    tc = min (fld m.config 191 160 * 65536) (m.tc + (b - m.last) * fld m.config 255 224) →
    tp = min (fld m.config 159 128 * 65536) (m.tp + (b - m.last) * fld m.config 223 192) →
    n.config = m.config ∧ n.last = b ∧
    (colour = 3 ↔ tp < len * 65536) ∧ (colour = 2 ↔ len * 65536 ≤ tp ∧ tc < len * 65536) ∧ (colour = 1 ∨ colour = 2 ∨ colour = 3) ∧
    n.tp + (if colour = 3 then 0 else len * 65536) = tp ∧ n.tc + (if colour = 1 then len * 65536 else 0) = tc) ∧
  (∀ (s : State) (p units seq arrival : Nat) (r : HeadRecord × Nat) (b : Batch), shedReason s p = none →
    s.pipe.batches.find? (·.number == batchNow s) = some b →
    ∃ c h, (takeHead p units seq arrival s r).pipe.batches.find? (·.number == batchNow s) = some c ∧ c.heads.getLast? = some h ∧
      (c.heads.dropLast.map fun x => { x with lost := false }) = (b.heads.map fun x => { x with lost := false }) ∧
      ∀ f, f = (frontStage s (rawHead p r.1 units seq r.2 arrival b.heads.length) r.1 (batchNow s)).2.1 →
        h = { f with flow := h.flow, rev := h.rev, lost := h.lost }) ∧
  (∀ (s u : State) (h : Head) (o : Origin) (t : Nat) (l : Lookup), t < 2 → lookupHead s h o t = (u, l) →
    let up (f : Field) : Prop := rd u f = satN f.width (rd s f + 1) % 2 ^ f.width
    let others (i : Nat) : Prop := ∀ n, n ≠ i → getEntry u t n = getEntry s t n
    (compat s t = true → tableKey s t o = none →
      l = .noKey ∧ up (TABLE_LOOKUP_MISSES.NO_KEY t) ∧ ∀ n, getEntry u t n = getEntry s t n) ∧
    (∀ (i : Nat) (e : Entry), e = getEntry s t i →
      (compat s t = false ∧ i = (if t = 0 then h.flowId else h.endpointId) ∨
        compat s t = true ∧ e.valid = true ∧ ∃ k pl, tableKey s t o = some k ∧ findKey t (getT s t) k = some (pl, i)) →
      others i ∧
      (e.valid = false → l = .miss ∧ up (TABLE_LOOKUP_MISSES.MISSES t) ∧
        (moveUpdate s t = true → getEntry u t i = { learnedEntry h t 0 with
          rev := addMod 8 e.rev 1
          software := if t = 0 then 0 else e.software }) ∧
        (moveUpdate s t = false → getEntry u t i = e)) ∧
      (e.valid = true → up (TABLE_LOOKUP_HITS.COUNT t)) ∧
      (e.valid = true → e.lock = true → l = .lockedHit i e.rev ∧ up (TABLE_CONFLICT.LOCKED_SKIPS t) ∧ getEntry u t i = e) ∧
      (e.valid = true → e.lock = false → l = .hit i e.rev ∧
        getEntry u t i = { e with
          hit := true
          age := false
          lastTs := h.switchTs
          packets := satN 32 (e.packets + 1)
          ingress := if e.static = false ∧ moveUpdate s t = true then h.ingress else e.ingress } ∧
        (e.ingress ≠ h.ingress → e.static = false → moveUpdate s t = true → up (TABLE_MOVE.MOVES t)) ∧
        (e.ingress ≠ h.ingress → e.static = true → up (TABLE_MOVE.STATIC_CONFLICTS t)))) ∧
    ∀ k, compat s t = true → tableKey s t o = some k → findKey t (getT s t) k = none →
      l = .miss ∧ up (TABLE_LOOKUP_MISSES.MISSES t) ∧ (∀ n, getEntry u t n = getEntry s t n) ∧
      (moveUpdate s t = true → (getT s t).requests.length < 4096 →
        (getT u t).requests = (getT s t).requests ++ [(batchNow s, learnedEntry h t k)])) ∧
  ∀ (s : State) (b : Batch) (h : Head) (e : Nat) (v : Verdict), v = headVerdict s b h → e = vmapFor s h.partition b.number →
    (v.cookie = h.cookie ∧ v.bundleSeq = h.bundleSeq ∧ v.record = h.record ∧ v.partition = h.partition ∧ v.colour = h.colour ∧
      v.batchLow = b.number ∧ v.shed = false ∧ v.reason = 0 ∧ v.late = b.late) ∧
    (tableLostAt s b.number = true → v.action = h.defAction ∧ v.arg = h.defArg ∧ v.featureFault = true ∧ v.defaultTaken = true ∧
      v.ruleHit = false ∧ v.score = 0 ∧ v.suppressed = false) ∧
    (tableLostAt s b.number = false → v.ruleHit = h.ruleHit ∧
      (b.late = true → v.score = 0 ∧ v.suppressed = false ∧ v.featureFault = h.featureFault ∧
        (h.ruleHit = true → v.action = h.action ∧ v.arg = h.arg ∧ v.defaultTaken = false) ∧
        (h.ruleHit = false → v.action = h.defAction ∧ v.arg = h.defArg ∧ v.defaultTaken = true)) ∧
      (b.late = false → (h.ruleHit && h.final) = true → v.action = h.action ∧ v.arg = h.arg ∧ v.defaultTaken = false ∧
        v.featureFault = faultPath b h ∧ v.score = score b h e ∧ v.suppressed = false) ∧
      (b.late = false → (h.ruleHit && h.final) = false → faultPath b h = true → v.action = h.defAction ∧ v.arg = h.defArg ∧
        v.defaultTaken = true ∧ v.featureFault = true ∧ v.score = 0 ∧ v.suppressed = false) ∧
      (b.late = false → (h.ruleHit && h.final) = false → faultPath b h = false →
        v.score = score b h e ∧ v.score ≤ 65535 ∧ v.suppressed = seqSuppressed b h e ∧ v.featureFault = false ∧
        ∀ may high mid : Prop, (may ↔ h.ruleHit = false ∨ bit e 253 = true) →
          (high ↔ fld e 143 128 ≤ v.score ∧ fld e 103 96 ≠ 0xFF) → (mid ↔ fld e 159 144 ≤ v.score ∧ fld e 127 120 ≠ 0xFF) →
          (may → high → v.action = fld e 103 96 ∧ v.arg = fld e 95 80 ∧ v.defaultTaken = false) ∧
          (may → ¬high → mid → v.action = fld e 127 120 ∧ v.arg = fld e 119 104 ∧ v.defaultTaken = false) ∧
          ((may → ¬high ∧ ¬mid) → (h.ruleHit = true → v.action = h.action ∧ v.arg = h.arg ∧ v.defaultTaken = false) ∧
            (h.ruleHit = false → v.action = h.defAction ∧ v.arg = h.defArg ∧ v.defaultTaken = true))))

/-- The checks of a staged image end in a staged generation with the slot's next number, or in a refusal that empties the position
and is reported; where nothing is being checked nothing changes. -/
def Obligations.StagingEndsInAGenerationOrARefusal : Prop :=
  (∀ (s : State) (slot : Nat), (getSlot s slot).staging ≠ 1 → exec (.stageComplete slot) s = .next s) ∧
  ∀ (s : State) (slot : Nat), slot < 16 → SlotsOk s.slots → (getSlot s slot).staging = 1 →
    let R (P : State → Prop) : Prop :=
      Reaches (exec (.stageComplete slot) s) s [.regs, .queue, .slots, .observe, .noticeSeq] P
    (∀ b, loadImage s slot = some b → acceptFailure (trustOf s) b 6 = none →
      modelFailure s slot (openEnvelope b).digest (openEnvelope b).body = none →
      R fun t => (getSlot t slot).staging = 2 ∧ rdB t SLOT_EVENTS.STAGED = true ∧
        (getSlot t slot).counter = addMod 32 (getSlot s slot).counter 1 ∧
        (getSlot t slot).staged = some (Gen.make (getSlot t slot).counter
          (parseModel (openEnvelope b).digest (openEnvelope b).body))) ∧
    ((loadImage s slot = none ∨ ∃ b, loadImage s slot = some b ∧ ((acceptFailure (trustOf s) b 6).isSome = true ∨
        (modelFailure s slot (openEnvelope b).digest (openEnvelope b).body).isSome = true)) →
      R fun t => (getSlot t slot).staging = 0 ∧ (getSlot t slot).staged = none ∧ rdB t SLOT_EVENTS.STAGE_REFUSED = true ∧
        rd t SLOT_REFUSAL.SLOT = slot ∧ (getSlot t slot).counter = (getSlot s slot).counter ∧
        (getSlot t slot).active = (getSlot s slot).active)

/-- At its boundary a pending swap makes the staged generation active and lets the displaced one drain; a drained generation is
retained, or discarded after a rollback; a candidate is formed from the active generation; the hold of a promotion is released. Before
their boundary, or where nothing waits for one, the four change nothing; a swap of a beat to whose batch a head has been admitted waits
for the next boundary (log 34), and a warm restart that begins at a boundary prevails over its swaps (R492). -/
def Obligations.SwapsDrainsAndCandidatesKeepTheirBoundary : Prop :=
  ∀ (s : State) (slot : Nat), slot < 16 → SlotsOk s.slots →
    let x := getSlot s slot
    (∀ op f, x.swap = some (op, f) → swapDue s x = true →
      Reaches (exec (.swap slot) s) s [.regs, .queue, .pipe, .slots, .quant, .observe, .noticeSeq] fun t =>
        (getSlot t slot).active.map (·.number) = x.staged.map (·.number) ∧ (getSlot t slot).staged = x.active ∧
        (getSlot t slot).swap = none ∧ (getSlot t slot).staging = (if x.active.isSome then 6 else 0) ∧
        rdB t SLOT_EVENTS.SWAPPED = true ∧ (op = 8 → rdB t SLOT_EVENTS.PROMOTED = true) ∧
        (op = 4 → rdB t SLOT_EVENTS.ROLLED_BACK = true)) ∧
    (swapDue s x = false → exec (.swap slot) s = .next s) ∧
    (∀ op f, x.swap = some (op, f) → (swapDue s x = true ↔ boundaryDue s f = true ∧ restartPrevails s = false ∧
      ∀ b, s.pipe.batches.find? (·.number == batchNow s) = some b → b.heads = [])) ∧
    (∀ g, x.staged = some g → x.staging = 6 → genInUse s slot g.number = false →
      Reaches (exec (.drainEnd slot) s) s [.regs, .slots] fun t =>
        (x.discardAfter = true → (getSlot t slot).staging = 0 ∧ (getSlot t slot).staged = none) ∧
        (x.discardAfter = false → (getSlot t slot).staging = 5 ∧ (getSlot t slot).staged = some g ∧
          (getSlot t slot).retainedAt = some (batchNow s))) ∧
    ((x.staged = none ∨ x.staging ≠ 6 ∨ ∃ g, x.staged = some g ∧ genInUse s slot g.number = true) →
      exec (.drainEnd slot) s = .next s) ∧
    (∀ f g, x.formAt = some f → boundaryDue s f = true → mayForm x = true → x.active = some g →
      Reaches (exec (.candidateForm slot) s) s [.regs, .queue, .slots, .observe, .noticeSeq] fun t =>
        (getSlot t slot).staging = 3 ∧ (getSlot t slot).staged = some { g with number := addMod 32 x.counter 1 } ∧
        (getSlot t slot).counter = addMod 32 x.counter 1 ∧ (getSlot t slot).active = some g ∧
        rdB t SLOT_EVENTS.CANDIDATE_FORMED = true) ∧
    ((x.formAt = none ∨ mayForm x = false ∨ ∃ f, x.formAt = some f ∧ boundaryDue s f = false) →
      exec (.candidateForm slot) s = .next s) ∧
    ((∀ f, releaseDue s slot = some f → boundaryDue s f = false) → exec (.autoRelease slot) s = .next s) ∧
    (∀ f, releaseDue s slot = some f → boundaryDue s f = true →
      Reaches (exec (.autoRelease slot) s) s [.regs, .slots] fun t =>
        (getSlot t slot).staging = 0 ∧ (getSlot t slot).staged = none ∧ (getSlot t slot).adaptHeld = false ∧
        (x.adaptOn = true → (getSlot t slot).formAt = some (effectBoundary s)))

/-- The adaptation activity of a slot does one unit at a time: the next group of an update, or the first head of its sample (groups come before the heads of a sample that waits, log 94). Where it
may not run, or no candidate adapts, nothing changes. -/
def Obligations.AdaptationWorksUnitByUnit : Prop :=
  (∀ (s : State) (slot : Nat), (mayRun s 2 slot = false ∨ (getSlot s slot).staging ≠ 3 ∨ (getSlot s slot).swap ≠ none ∨
      (getSlot s slot).active = none ∨ (getSlot s slot).staged = none ∨ ∃ cand, (getSlot s slot).staged = some cand ∧
        (cand.model.adapt = none ∨ cand.model.seq = none ∨ adapterOp cand.model = none)) →
    exec (.adaptUnit slot) s = .next s) ∧
  ∀ (s : State) (slot i : Nat) (act cand : Gen) (a : AdaptDesc) (q : SeqDesc) (o : OpRec), slot < 16 → SlotsOk s.slots →
    mayRun s 2 slot = true → (getSlot s slot).staging = 3 → (getSlot s slot).swap = none →
    (getSlot s slot).active = some act → (getSlot s slot).staged = some cand → cand.model.adapt = some a →
    cand.model.seq = some q → adapterOp cand.model = some (i, o) →
    let x := (getSlot s slot).adapt
    let R (P : AdaptSt → Prop) : Prop :=
      Reaches (exec (.adaptUnit slot) s) s [.regs, .sched, .queue, .slots, .tally, .observe, .noticeSeq] fun t =>
        P (getSlot t slot).adapt ∧ (getSlot t slot).active = some act
    (x.updating = true → x.groupsDone + 1 < o.outputs * o.groups →
      R fun y => y.groupsDone = x.groupsDone + 1 ∧ y.sample = x.sample ∧ y.tentative = x.tentative ++
        (updateGroup a (cand.model.luts.getD a.rsqrtTable Lut.none_) o o.weights x x.groupsDone).1) ∧
    (x.updating = true → o.outputs * o.groups ≤ x.groupsDone + 1 → R fun y => y.sample = x.sample) ∧
    (∀ h rest, x.updating = false → x.sample = h :: rest → R fun y => y.sample = rest ∧
      (rest ≠ [] → x.sampleEval = true → y.eval = x.eval + 1 ∧
        y.lossC = x.lossC + headLoss cand.model q a o (adapterWeights cand.model) h ∧
        y.lossA = x.lossA + headLoss cand.model q a o (adapterWeights act.model) h) ∧
      (rest ≠ [] → x.sampleEval = false → y.gacc = addGradient x.gacc (headDelta cand.model q a o (adapterWeights cand.model) h) h.x)) ∧
    (x.updating = false → x.sample = [] → exec (.adaptUnit slot) s = .next (maybeEndStep s slot a))

/-! ## Quantisation scales -/

/-- A scale command that is within its rules is staged, in place of an earlier one for the same tensor and scale, and is applied or
discarded at the round boundary that follows its beat by more than one, once the swaps of that boundary have been (log 34); one that is not is
refused with its result. Away from a boundary, or where a warm restart begins at it (R492), nothing is applied. A selected tensor is latched. -/
def Obligations.ScaleCommandsAreStagedThenApplied : Prop :=
  (∀ (s : State) (slot tensor op lo hi : Nat) (outlier : Bool) (c : Instr),
    slot < 16 → tensor < 256 → lo < 16777216 → hi < 16777216 →
    (c, op) ∈ [(Instr.qRelease slot tensor outlier lo hi, 0), (.qPin slot tensor outlier lo hi, 1),
      (.qBound slot tensor outlier lo hi, 2)] →
    let k : QCommand := ⟨slot, tensor, outlier, op, lo, hi, batchNow s⟩
    Reaches (exec c s) s [.regs, .quant] fun t =>
      rd t ARRAY_Q_CONTROL_STATUS.RESULT = controlResult s k ∧
      (controlResult s k = 1 → t.quant = { s.quant with staged :=
        (s.quant.staged.filter fun x => !(x.slot == slot && x.tensor == tensor && x.outlier == outlier)) ++ [k] }) ∧
      (controlResult s k ≠ 1 → t.quant = s.quant)) ∧
  (∀ s : State, (atRound s = false ∨ restartPrevails s = true ∨ ∃ x ∈ s.slots, swapDue s x = true) → exec .qCommandsApply s = .next s) ∧
  (∀ s : State, atRound s = true → restartPrevails s = false → (∀ x ∈ s.slots, swapDue s x = false) →
    Reaches (exec .qCommandsApply s) s [.regs, .queue, .quant, .observe, .noticeSeq] fun t =>
      t.quant.staged = s.quant.staged.filter (fun c => !decide (c.fromBatch + 1 < batchNow s)) ∧
      t.quant.force = s.quant.force ++ ((s.quant.staged.filter fun c => decide (c.fromBatch + 1 < batchNow s) && governable s c).map
        fun c => { c with fromBatch := batchNow s }) ∧
      ((∃ c ∈ s.quant.staged, c.fromBatch + 1 < batchNow s ∧ governable s c = true) →
        rdB t ARRAY_Q_EVENTS.CONTROL_APPLIED = true) ∧
      ((∃ c ∈ s.quant.staged, c.fromBatch + 1 < batchNow s ∧ governable s c = false) →
        rdB t ARRAY_Q_EVENTS.CONTROL_DISCARDED = true)) ∧
  ∀ (s : State) (slot tensor : Nat), slot < 16 → tensor < 256 →
    Reaches (exec (.arrayQSelect slot tensor) s) s [.regs] fun t =>
      rd t ARRAY_Q_SELECT.SLOT = slot ∧ rd t ARRAY_Q_SELECT.TENSOR = tensor ∧
      (rd t ARRAY_Q_STATE.EXISTS = 1 ↔ ∃ g d, (getSlot s slot).active = some g ∧ g.model.tensors[tensor]? = some d)

/-! ## Power, heat and domains -/

/-- A temperature sensor: a good reading is accepted; a doubtful one is read again and accepted where the second is good, and
counts as a transient fault of class 12; two bad ones in a row count as a lasting one and fail the sensor; a failed sensor is not read any
more. The temperature that an HBM stack reports is taken as reported (a die of 5 or above stands for a stack: log 15). A droop of a cluster is counted where its stretch begins, and its stretched cycles where it ends; no
operating point may change while a cluster stretches. -/
def Obligations.SensorsAndDroops : Prop :=
  (∀ (s : State) (die sensor : Nat) (first second : Int), 5 ≤ die →
    Does (exec (.sensorRead die sensor first second) s) s [.power] [REGULATOR_TEMP.HUB, REGULATOR_TEMP.DIE] fun t =>
      t.power = { s.power with sensors := Map.set s.power.sensors (die * 64 + sensor) first }) ∧
  (∀ (s : State) (die sensor : Nat) (first second : Int), die < 5 →
    let key := die * 64 + sensor
    (s.power.failedSensors.contains key = true → exec (.sensorRead die sensor first second) s = .next s) ∧
    (s.power.failedSensors.contains key = false → sensorGood s key first = true →
      Does (exec (.sensorRead die sensor first second) s) s [.power] [REGULATOR_TEMP.HUB, REGULATOR_TEMP.DIE] fun t =>
        t.power = { s.power with sensors := Map.set s.power.sensors key first }) ∧
    (s.power.failedSensors.contains key = false → sensorGood s key first = false → sensorGood s key second = true →
      Reaches (exec (.sensorRead die sensor first second) s) s [.regs, .sched, .queue, .pipe, .power, .observe, .log, .noticeSeq] fun t =>
        t.power = { s.power with sensors := Map.set s.power.sensors key second } ∧
        (t.log.faults.getD 12 (0, 0)).2 = (s.log.faults.getD 12 (0, 0)).2 ∧
        (12 < s.log.faults.length →
          (t.log.faults.getD 12 (0, 0)).1 = satN 32 ((s.log.faults.getD 12 (0, 0)).1 + 1)) ∧
        (observeOn s = true → ∀ f, f = OBSERVE_FAULT.TRANSIENT 12 → rd t f = satN f.width (rd s f + 1) % 2 ^ f.width)) ∧
    (s.power.failedSensors.contains key = false → sensorGood s key first = false → sensorGood s key second = false →
      Reaches (exec (.sensorRead die sensor first second) s) s [.regs, .sched, .queue, .pipe, .power, .observe, .log, .noticeSeq] fun t =>
        t.power = { s.power with failedSensors := s.power.failedSensors ++ [key] } ∧
        (12 < s.log.faults.length →
          (t.log.faults.getD 12 (0, 0)).2 = satN 32 ((s.log.faults.getD 12 (0, 0)).2 + 1)) ∧
        (observeOn s = true → ∀ f, f = OBSERVE_FAULT.LASTING 12 → rd t f = satN f.width (rd s f + 1) % 2 ^ f.width) ∧
        rdB t REGULATOR_EVENTS.SENSOR_FAILED = true)) ∧
  ((∀ (s : State) (cluster : Nat), s.power.stretching.contains cluster = false →
    Does (exec (.droopStretchStart cluster) s) s [.power] [REGULATOR_DROOP.EVENTS cluster] fun t =>
      t.power = { s.power with stretching := s.power.stretching ++ [cluster] } ∧ switchAllowed t = false ∧
      rd t (REGULATOR_DROOP.EVENTS cluster) = satN 32 (rd s (REGULATOR_DROOP.EVENTS cluster) + 1)) ∧
  (∀ (s : State) (cluster : Nat), s.power.stretching.contains cluster = true →
    exec (.droopStretchStart cluster) s = .next s) ∧
  (∀ (s : State) (cluster cycles : Nat), s.power.stretching.contains cluster = false →
    exec (.droopStretchEnd cluster cycles) s = .next s) ∧
  ∀ (s : State) (cluster cycles : Nat), cluster < 32 → s.power.stretching.contains cluster = true →
    Does (exec (.droopStretchEnd cluster cycles) s) s [.power]
      [REGULATOR_DROOP.STRETCHED cluster, OBSERVE_COUNTER.VALUE (128 + cluster)] fun t =>
      t.power.stretching = s.power.stretching.filter (· != cluster) ∧ t.power.lastClear = some s.dial.now ∧
      rd t (REGULATOR_DROOP.STRETCHED cluster) = satN 32 (rd s (REGULATOR_DROOP.STRETCHED cluster) + cycles))

/-- The thermal loop: at every thousandth beat a temperature at or above THROTTLE_C lowers the ceiling by one point, and the tenth
temperature in a row below it by more than HYST_C raises it by one, within 0 to 15; between the two the count of cool ones starts again.
At another beat, or before the first reading, nothing changes. -/
def Obligations.HeatLowersTheCeilingAndCoolnessRaisesIt : Prop :=
  (∀ s : State, (dialSet s = true ∧ beatInSecond s % 1000 ≠ 0 ∨ hottest s = none) → exec .thermalCheck s = .next s) ∧
  ∀ (s : State) (h : Int), (dialSet s = true → beatInSecond s % 1000 = 0) → hottest s = some h → s.power.theta ≤ 15 →
    let D (P : State → Prop) : Prop :=
      Does (exec .thermalCheck s) s (.power :: noticeParts)
        (REGULATOR_STATUS.THERMAL_CEIL :: REGULATOR_STATUS.THROTTLING :: REGULATOR_EVENTS.THROTTLE_ON ::
          REGULATOR_EVENTS.THROTTLE_OFF :: REGULATOR_EVENTS.THERMAL_OVER_FLOOR :: noticeFields) P
    (4 * (throttleC s : Int) ≤ h → 0 < s.power.theta → D fun t =>
      t.power = { s.power with theta := s.power.theta - 1, coolRun := 0 } ∧ rd t REGULATOR_STATUS.THERMAL_CEIL = s.power.theta - 1 ∧
      rdB t REGULATOR_STATUS.THROTTLING = true ∧ (s.power.theta = 15 → rdB t REGULATOR_EVENTS.THROTTLE_ON = true)) ∧
    (h < 4 * ((throttleC s : Int) - hystC s) → s.power.theta < 15 → s.power.coolRun < 9 → D fun t =>
      t.power = { s.power with coolRun := s.power.coolRun + 1 }) ∧
    (h < 4 * ((throttleC s : Int) - hystC s) → s.power.theta < 15 → 9 ≤ s.power.coolRun → D fun t =>
      t.power = { s.power with theta := s.power.theta + 1, coolRun := 0 } ∧
      rd t REGULATOR_STATUS.THERMAL_CEIL = s.power.theta + 1 ∧
      (rdB t REGULATOR_STATUS.THROTTLING = true ↔ s.power.theta < 14) ∧
      (s.power.theta = 14 → rdB t REGULATOR_EVENTS.THROTTLE_OFF = true)) ∧
    (4 * (throttleC s : Int) ≤ h → s.power.theta = 0 → D fun t => t.power = { s.power with coolRun := 0 }) ∧
    (h < 4 * ((throttleC s : Int) - hystC s) → s.power.theta = 15 → exec .thermalCheck s = .next s) ∧
    (h < 4 * (throttleC s : Int) → 4 * ((throttleC s : Int) - hystC s) ≤ h → D fun t =>
      t.power = { s.power with coolRun := 0 })

/-- Telemetry: at every 10,000th beat every VALID entry is read over PMBus, each interval with its own estimates; where reads of an earlier
interval are still pending, those of the next are made when they complete (R513); a result that is good, or good when it is read again, adds
its energy to its class, one that failed twice marks the interval of its class as failed; the last result of a class ends its interval:
a failed one is counted, and the eighth in a row loses the telemetry; a good one moves the correction of the class by an eighth of its
distance to the measured target, held within 10 %. At the end of a period the energies are estimated, the cap is divided, with bulk
allowances within their limits and a request among the allowed pairs, the keys start again and the corrections of the telemetry come
into force. Elsewhere nothing changes. (The period that a dial step cuts short: log 62. The allowances before the first division: log
151.) -/
def Obligations.TelemetryAndPeriods : Prop :=
  (∀ s : State,
    (dialSet s = true → beatInSecond s % 10000 = 0 →
      Reaches (exec .telemetryRead s) s [.power, .out] fun t =>
        t.power.raw = [0, 0, 0, 0] ∧
        (s.power.pendingVr = [] → s.power.telemetryDue = [] →
          t.power.pendingVr = validVr s ∧ t.power.estimate = s.power.raw ∧ t.power.telemetryDue = [] ∧
          t.power.measured = [0, 0, 0, 0] ∧ t.power.failedRead = [false, false, false, false] ∧
          t.out.length = s.out.length + (validVr s).length) ∧
        (s.power.pendingVr ≠ [] → t.out = s.out ∧
          t.power = { s.power with telemetryDue := s.power.telemetryDue ++ [s.power.raw], raw := [0, 0, 0, 0] })) ∧
    ((dialSet s = false ∨ beatInSecond s % 10000 ≠ 0) → exec .telemetryRead s = .next s)) ∧
  (∀ (s : State) (entry : Nat) (first second : Option Nat), s.power.pendingVr.contains entry = false →
    exec (.telemetryResult entry first second) s = .next s) ∧
  (∀ (s : State) (entry c : Nat) (first second : Option Nat), s.power.pendingVr.contains entry = true →
    c = rd s (REGULATOR_VR.CLASS entry) →
    let rest := s.power.pendingVr.erase entry
    let last := !(s.power.pendingVr.erase entry).any fun v => rd s (REGULATOR_VR.CLASS v) == c
    let R (P : State → Prop) : Prop :=
      Reaches (exec (.telemetryResult entry first second) s) s
        [.regs, .sched, .queue, .pipe, .power, .tally, .observe, .log, .out, .noticeSeq] P
    let next (t : State) : Prop := (rest ≠ [] ∨ s.power.telemetryDue = [] → t.power.pendingVr = rest) ∧
      ∀ e later, rest = [] → s.power.telemetryDue = e :: later → validVr s ≠ [] →
        t.power.pendingVr = validVr s ∧ t.power.estimate = e ∧ t.power.telemetryDue = later ∧ t.power.measured = [0, 0, 0, 0]
    let m (r : Option Nat) := modAt s.power.measured c (· + (linear11Energy (r.getD 0)).toNat)
    (last = false → readingGood first = true →
      Does (exec (.telemetryResult entry first second) s) s [.power] [] fun t =>
        t.power = { s.power with pendingVr := rest, measured := m first }) ∧
    (last = false → readingGood first = false → readingGood second = true → R fun t =>
      t.power = { s.power with pendingVr := rest, measured := m second }) ∧
    (last = false → readingGood first = false → readingGood second = false → R fun t =>
      t.power = { s.power with pendingVr := rest, failedRead := s.power.failedRead.set c true }) ∧
    (last = true → (s.power.failedRead.getD c false = true ∨
        c < s.power.failedRead.length ∧ readingGood first = false ∧ readingGood second = false) → R fun t =>
      next t ∧ t.power.correctNext = s.power.correctNext ∧
      rd t (REGULATOR_CLASS_B.FAILS c) =
        satN (REGULATOR_CLASS_B.FAILS c).width (rd s (REGULATOR_CLASS_B.FAILS c) + 1) % 2 ^ (REGULATOR_CLASS_B.FAILS c).width ∧
      (rd t (REGULATOR_CLASS_B.FAILS c) = 8 →
        rdB t REGULATOR_STATUS.TELEMETRY_LOST = true ∧ rdB t REGULATOR_EVENTS.TELEMETRY_LOST = true)) ∧
    ∀ r, last = true → s.power.failedRead.getD c false = false →
      (r = first ∧ readingGood first = true ∨ r = second ∧ readingGood first = false ∧ readingGood second = true) → R fun t =>
      next t ∧ rd t (REGULATOR_CLASS_B.FAILS c) = 0 ∧
      ∀ est, est = s.power.estimate.getD c 0 → est ≠ 0 →
        t.power.correctNext = s.power.correctNext.set c ((s.power.correct.getD c 32768 : Int) +
          rheSh (satI (((m r).getD c 0 * 2 ^ 15 / est : Nat) : Int) 29492 36044 - (s.power.correct.getD c 32768 : Int)) 3).toNat) ∧
  ∀ (s : State) (hub links arrays fabric memory : Counts),
    ((dialSet s = true → batchNow s % 2 = 0 ∨ s.dial.stepPhase = 2 ∨ s.tally.cutPeriod = true) →
      Reaches (exec (.periodEnd hub links arrays fabric memory) s) s
        [.regs, .sched, .queue, .pipe, .power, .tally, .peer, .observe, .out, .noticeSeq, .fresh] fun t =>
        t.power.energy = ((List.range 20).map (rawEnergy s (hub ++ links ++ arrays ++ fabric ++ memory))).zipIdx.map
          (fun r => corrK s r.2 r.1) ∧
        t.power.roundPeriods = s.power.roundPeriods + 1 ∧ t.power.correct = s.power.correctNext ∧
        t.power.bulk.getD 0 0 ≤ bulkMax 1 ∧ t.power.bulk.getD 1 0 ≤ bulkMax 2 ∧
        (∀ pg, t.power.request = some pg → pg ∈ allowedPairs s) ∧
        t.power.maxPointUsed = s.power.point ∧ t.tally.headKeys = [] ∧ t.tally.computeKeys = [] ∧ t.tally.memKeys = [] ∧
        t.tally.adaptKeys = [] ∧ t.tally.linkJobs = [] ∧ t.tally.cutPeriod = false) ∧
    (dialSet s = true → batchNow s % 2 ≠ 0 → s.dial.stepPhase ≠ 2 → s.tally.cutPeriod = false →
      exec (.periodEnd hub links arrays fabric memory) s = .next s)

/-- Domains: a domain that is ready is no longer starting; the requests of REGULATOR_PD_CTRL take effect at a dial second, and at no other
time, nor after a boot that has ended in the halt or the recovery class; a trip
switches off the domains of its die, stops the schedule, pulls TRIP_N low and latches the first trip; one of the hub die closes the
queues of the data path at once (log 177). In reset no trip is taken (log 175). -/
def Obligations.DomainsSwitchAndTripsLatch : Prop :=
  (∀ (s : State) (domain : Nat),
    Does (exec (.domainReady domain) s) s [.power] [] fun t =>
      t.power = { s.power with starting := s.power.starting.filter (· != domain) }) ∧
  (∀ s : State, (atSecond s = false ∨ bootEnded s = true) → exec .pdSwitch s = .next s) ∧
  (∀ s : State, atSecond s = true → bootEnded s = false →
    Reaches (exec .pdSwitch s) s [.regs, .ports, .queue, .power, .peer, .observe, .noticeSeq] fun t =>
      t.power.pdOff4 = rdB s REGULATOR_PD_CTRL.PD4_OFF ∧ t.power.pdOff19 = rdB s REGULATOR_PD_CTRL.PD19_OFF ∧
      ∀ d, d = 4 ∨ d = 19 → pdOn t d = (pdCondition t d && !tripOff t d)) ∧
  (∀ (s : State) (die sensor : Nat), s.secure.powerGood = false → exec (.trip die sensor) s = .next s) ∧
  ∀ (s : State) (die sensor : Nat), s.secure.powerGood = true → die < 5 → sensor < 64 →
    Reaches (exec (.trip die sensor) s) s
      [.regs, .dial, .sched, .ports, .queue, .pipe, .power, .tally, .peer, .observe, .log, .pins, .noticeSeq] fun t =>
      t.pins.tripN = false ∧ t.sched.running = none ∧ t.pipe.flights = [] ∧
      t.log.tripLog.head? = some (dialSeconds s, die, sensor, s.log.powerOnS) ∧
      (∀ d ∈ tripDomains die, pdOn t d = false) ∧ t.power.hubTrip = (s.power.hubTrip || die == 4) ∧
      (die = 4 → ∀ q u, dataPathUse q = some u → u.2 < 2 → (getQ t q).enable = false) ∧ rdB t REGULATOR_TRIP.LATCHED = true ∧
      (rdB s REGULATOR_TRIP.LATCHED = false →
        rd t REGULATOR_TRIP.DIE = die ∧ rd t REGULATOR_TRIP.SENSOR = sensor ∧ rdB t REGULATOR_STATUS.TRIPPED = true ∧
        rdB t REGULATOR_EVENTS.TRIP = true) ∧
      (rdB s REGULATOR_TRIP.LATCHED = true →
        rd t REGULATOR_TRIP.DIE = rd s REGULATOR_TRIP.DIE ∧ rd t REGULATOR_TRIP.SENSOR = rd s REGULATOR_TRIP.SENSOR)

/-! ## Energy and the tally -/

/-- The energy of a period that ends is charged whole: to accounts, to jobs (each posting its own) and to the pool, no more and no less, in every division of
the keys. -/
def Obligations.AttributionConservesEnergy : Prop :=
  ∀ (s t : State) (e f : Epoch), s.tally.open_ = some e → attributePeriod s = t → t.tally.open_ = some f →
    Map.sorted e.accounts = true → (e.jobs.map (·.post)).Nodup →
    attrEnergy s 0 + attrEnergy s 1 + attrEnergy s 2 ≤ sumN s.power.energy →
    f.charged = e.charged + sumN s.power.energy

/-- Epochs: one ends at its dial second and the next one starts with it, and at no other time; its close goes unit by unit, and the last
unit (log 17) puts a root record into the ring under the next sequence number, chained to the hash of the root record before it; a root, or an
epoch still to be closed, that is not signed in time is marked once; software marks entries collected, which they stay (log 60), and latches the live figures of
an account, which are 0 while no epoch runs. -/
def Obligations.EpochsCloseIntoTheRing : Prop :=
  (∀ s : State,
    (∀ e, s.tally.open_ = some e → atSecond s = true → dialSeconds s % e.epochS = 0 →
      e.startNs < dialSeconds s * 1000000000 →
      Does (exec .epochClose s) s [.dial, .tally] [TALLY_STATUS.CLOSING] fun t =>
        t.tally.frozen.length = s.tally.frozen.length + 1 ∧ t.tally.frozen.take s.tally.frozen.length = s.tally.frozen ∧
        t.tally.frozen.getLast?.map (fun f => (f.startNs, f.endNs, f.pool, f.accounts, f.jobs)) =
          some (e.startNs, dialSeconds s * 1000000000, e.pool, e.accounts, e.jobs) ∧
        t.tally.open_.map (fun f => (f.startNs, f.pool, f.accounts, f.jobs, f.epochS)) =
          some (dialSeconds s * 1000000000, 0, [], [], epochSeconds s) ∧ rdB t TALLY_STATUS.CLOSING = true) ∧
    ((∀ e, s.tally.open_ = some e → atSecond s = false ∨ dialSeconds s % e.epochS ≠ 0 ∨
      dialSeconds s * 1000000000 ≤ e.startNs) → exec .epochClose s = .next s)) ∧
  (∀ s : State,
    (s.tally.frozen ≠ [] → unitAllowed s 7 = true → s.tally.levelsDone + 1 < 26 →
      Does (exec .tallyClose s) s [.sched, .tally] [] fun t =>
        t.tally = { s.tally with levelsDone := s.tally.levelsDone + 1 }) ∧
    (∀ e rest, s.tally.frozen = e :: rest → unitAllowed s 7 = true → 26 ≤ s.tally.levelsDone + 1 → s.tally.seq < 2 ^ 64 →
      Reaches (exec .tallyClose s) s [.regs, .sched, .queue, .tally, .observe, .noticeSeq] fun t =>
        t.tally.seq = s.tally.seq + 1 ∧ rd t TALLY_LAST_SEQ.SEQ = s.tally.seq ∧ t.tally.frozen.length = rest.length ∧
        t.tally.levelsDone = 0 ∧ ∃ x, t.tally.ring.getLast? = some x ∧ x.seq = s.tally.seq ∧ x.endNs = e.endNs ∧
          x.signature = none ∧ t.tally.prevHash = sha256 x.root ∧ x.chain = rd s TALLY_STATUS.CHAIN ∧
          x.closedBeat = batchNow s) ∧
    ((s.tally.frozen = [] ∨ unitAllowed s 7 = false) → exec .tallyClose s = .next s)) ∧
  (∀ s : State,
    let old := s.tally.ring.find? fun t => t.signature.isNone && !t.lateMarked && decide (t.endNs + 50000000 < s.dial.time)
    let wait := s.tally.frozen.zipIdx.find? fun e => !e.1.late && decide (e.1.endNs + 50000000 < s.dial.time)
    let D (P : State → Prop) : Prop :=
      Does (exec .signLate s) s (.tally :: noticeParts) (TALLY_COUNTS.SIGN_LATE :: TALLY_EVENTS.SIGN_LATE :: noticeFields) fun t =>
        rdB t TALLY_EVENTS.SIGN_LATE = true ∧ rd t TALLY_COUNTS.SIGN_LATE = satN 16 (rd s TALLY_COUNTS.SIGN_LATE + 1) ∧ P t
    (∀ x, s.power.hubTrip = false → old = some x → D fun t => ∀ u ∈ t.tally.ring, u.seq = x.seq → u.lateMarked = true) ∧
    (∀ e i, s.power.hubTrip = false → old = none → wait = some (e, i) → D fun t =>
      t.tally.ring = s.tally.ring ∧ t.tally.frozen = modAt s.tally.frozen i fun e => { e with late := true }) ∧
    ((s.power.hubTrip = true ∨ old = none ∧ wait = none) → exec .signLate s = .next s)) ∧
  (∀ (s : State) (seq : Word),
    Does (exec (.tallyCollected seq) s) s [.tally] [TALLY_COLLECTED.SEQ, TALLY_STATUS.UNCOLLECTED] fun t =>
      rd t TALLY_COLLECTED.SEQ = seq.toNat ∧ (∀ x ∈ t.tally.ring, x.seq ≤ seq.toNat → collectedEntry t x = true) ∧
      t.tally.ring = s.tally.ring ∧ ∀ x ∈ s.tally.ring, collectedEntry s x = true → collectedEntry t x = true) ∧
  ∀ (s : State) (account : Nat), account < 4096 →
    Reaches (exec (.tallySelect account) s) s [.regs] fun t =>
      rd t TALLY_SELECT.ACCOUNT = account ∧
      (∀ e, s.tally.open_ = some e →
        rd t TALLY_LIVE_REQ.REQUESTS = (Map.getD e.accounts account Acc.zero).requests % 2 ^ 64 ∧
        ∀ c < 4, rd t (TALLY_LIVE.GRAINS c) = (accGrains (Map.getD e.accounts account Acc.zero)).getD c 0 % 2 ^ 64) ∧
      (s.tally.open_ = none → rd t TALLY_LIVE_REQ.REQUESTS = 0 ∧ ∀ c < 4, rd t (TALLY_LIVE.GRAINS c) = 0)

/-- SIGN signs the oldest root that waits for its signature, in a round later than that of its close and with its grant unused, before it
signs any attestation report; the signature is put into the entry of the ring. A report that waits is signed and answered where no root
is due and the grant has room. After a trip of the hub die nothing is signed, and elsewhere nothing changes. -/
def Obligations.RootsAreSignedBeforeReports : Prop :=
  ∀ s : State,
    let due := (waitsForSignature s).filter fun x => rootDue s x && signAllowed s
    (∀ x, s.power.hubTrip = false → due = some x →
      Reaches (exec .sign s) s [.regs, .sched, .queue, .tally, .observe, .noticeSeq] fun t =>
        (∀ u ∈ t.tally.ring, u.seq = x.seq → u.signature.isSome = true) ∧
        (∀ u ∈ s.tally.ring, u.seq ≠ x.seq → u ∈ t.tally.ring) ∧ rdB t TALLY_EVENTS.SIGNED = true ∧
        t.tally.ring.map (·.root) = s.tally.ring.map (·.root)) ∧
    (∀ a rest, s.power.hubTrip = false → due = none → signRoom s = true → s.secure.attests = a :: rest →
      Reaches (exec .sign s) s [.regs, .sched, .queue, .power, .secure, .peer, .observe, .out, .noticeSeq] fun t =>
        t.secure = { s.secure with attests := rest }) ∧
    ((s.power.hubTrip = true ∨ due = none ∧ (s.secure.attests = [] ∨ signRoom s = false)) → exec .sign s = .next s)

/-! ## Crown -/

/-- Sessions: a handshake that is good, with a known key, its signature verified and a free place, opens the session of the lowest free index
(log 29); a full device, a bad handshake or a signature that does not verify closes the connection without a count (log 120); a key without
rights, of a kind other than SLH-DSA too, is counted and closed; a session that closes leaves the list, and one that sends a bad header is
closed and counted. A handshake is good where it offers one of the two cipher suites and ML-KEM-768, the client presents a raw public key, and
it is no resumption. Without the port's power, or for no session, nothing changes. -/
def Obligations.SessionsOpenAndClose : Prop :=
  (∀ h : Handshake, handshakeOk h = true ↔ (0x1302 ∈ h.suites ∨ 0x1301 ∈ h.suites) ∧ h.mlKem768 = true ∧ h.rawKey = true ∧
    h.resumes = false) ∧
  (∀ (s : State) (key : Bytes) (h : Handshake),
    (∀ operator partition owner, pdOn s 1 = true → s.crown.sessions.length < maxSessions s → handshakeOk h = true →
      h.slhDsa = true → h.verified = true → sessionRights s key = some (operator, partition, owner) →
      Does (exec (.sessionOpen key h) s) s (.crown :: noticeParts)
        (CROWN_STATUS.SESSIONS :: CROWN_STATUS.RUNNING :: CROWN_STATUS.STORE_KIB :: CROWN_EVENTS.SESSION_CHANGED :: noticeFields)
        fun t => rdB t CROWN_EVENTS.SESSION_CHANGED = true ∧
          t.crown = { s.crown with
            sessions := s.crown.sessions ++
              [⟨lowestFree 16 0 (s.crown.sessions.map (·.index)), operator, partition, owner, s.crown.nextSerial⟩]
            nextSerial := s.crown.nextSerial + 1 }) ∧
    (pdOn s 1 = true → (maxSessions s ≤ s.crown.sessions.length ∨ handshakeOk h = false ∨
        h.slhDsa = true ∧ h.verified = false ∧ (sessionRights s key).isSome = true) →
      Does (exec (.sessionOpen key h) s) s [.out] [] fun t => t.out = s.out ++ [.closeConnection]) ∧
    (pdOn s 1 = true → s.crown.sessions.length < maxSessions s → handshakeOk h = true →
        (h.slhDsa = false ∨ sessionRights s key = none) →
      Does (exec (.sessionOpen key h) s) s (.out :: noticeParts)
        (CROWN_COUNTS.AUTH_FAILED :: CROWN_EVENTS.AUTH_FAILED :: noticeFields) fun t =>
        t.out = s.out ++ [.closeConnection] ∧ rdB t CROWN_EVENTS.AUTH_FAILED = true) ∧
    (pdOn s 1 = false → exec (.sessionOpen key h) s = .next s)) ∧
  (∀ (s : State) (session : Nat),
    (∀ x, findSession s session = some x →
      Reaches (exec (.sessionClose session) s) s
        [.regs, .queue, .power, .tally, .crown, .peer, .observe, .out, .noticeSeq, .fresh] fun t =>
        findSession t session = none ∧ rdB t CROWN_EVENTS.SESSION_CHANGED = true ∧
        ∀ y ∈ s.crown.sessions, y.index ≠ session → y ∈ t.crown.sessions) ∧
    (findSession s session = none → exec (.sessionClose session) s = .next s)) ∧
  ∀ (s : State) (session : Nat) (header : Bytes),
    (∀ x, findSession s session = some x → pdOn s 1 = true → crownHdrGood header = false →
      Reaches (exec (.badMessage session header) s) s
        [.regs, .queue, .power, .tally, .crown, .peer, .observe, .out, .noticeSeq, .fresh] fun t =>
        findSession t session = none ∧ rd t CROWN_COUNTS.BAD_MESSAGES = satN 16 (rd s CROWN_COUNTS.BAD_MESSAGES + 1)) ∧
    ((findSession s session = none ∨ pdOn s 1 = false ∨ crownHdrGood header = true ∧ knownOp (crownHdr header).op = true) →
      exec (.badMessage session header) s = .next s)

/-- A request that its session may not make is answered with its reason and changes nothing else: OPERATOR of another, then an
operation that changes state in the recovery class, then a payload that does not match, then the rights of the partition (the order of
these checks is the model's, log 30, and the layouts of RequestRow are those of log 29). An unknown
operation is answered as one, here too where the request names another device (log 135). A request is not read without a session or the port's power, or while the session's last operation is not
answered (log 119). -/
def Obligations.RefusedRequestsNameTheirReason : Prop :=
  (∀ (s : State) (session : Nat) (x : Session) (header : Bytes), crownHdrGood header = true →
    knownOp (crownHdr header).op = false → (crownHdr header).operator = x.operator →
    let r : Request :=
      ⟨session, (crownHdr header).dest, (crownHdr header).layer, (crownHdr header).operator, (crownHdr header).tag⟩
    Heard s r x → Does (exec (.badMessage session header) s) s [.out] [] fun t =>
      t.out = s.out ++ [answerTo s x r (crownHdr header).op 2 []]) ∧
  (∀ (s : State) (r : Request) (c : Instr) (op : Nat) (payload : Bytes), RequestRow c r op payload →
    (findSession s r.session = none ∨ pdOn s 1 = false ∨ ∃ x, findSession s r.session = some x ∧ sessionBusy s x = true) →
    exec c s = .next s) ∧
  ∀ (s : State) (r : Request) (x : Session) (c : Instr) (op : Nat) (payload : Bytes), Heard s r x →
    RequestRow c r op payload →
    (r.operator ≠ x.operator → Does (exec c s) s [.out] [] fun t => t.out = s.out ++ [answerTo s x r op 14 []]) ∧
    (r.operator = x.operator → bootClass s = 1 → readOp op = false →
      Does (exec c s) s [.out] [] fun t => t.out = s.out ++ [answerTo s x r op 3 []]) ∧
    (Served s r x op → (payloadOk op payload = false ∨ op = 0x20 ∧ parseJob s payload = none) →
      Does (exec c s) s [.out] [] fun t => t.out = s.out ++ [answerTo s x r op 1 []]) ∧
    (Served s r x op → payloadOk op payload = true → (op = 0x20 → (parseJob s payload).isSome = true) →
      rightsOk s (some x.partition) op payload = false →
      Does (exec c s) s [.out] [] fun t => t.out = s.out ++ [answerTo s x r op 3 []])

/-- What a request that is in order is answered from the registers, the tally and the identity of the device. REG_WRITE applies
its pairs in order up to the first that fails and answers how many it applied; DEQUEUE takes items up to the number asked for
from a queue that software may drain, and answers EMPTY where the queue is empty. (The layouts of TALLY_LEAVES and TALLY_PROOF are those
of log 29; job leaves are open to every reader, log 127.) -/
def Obligations.RequestsInOrderAreAnswered : Prop :=
  (∀ (s : State) (r : Request) (x : Session), Served s r x 0x01 →
    (Does (exec (.identity r) s) s [.out] [] fun t => t.out = s.out ++ [answerTo s x r 0x01 0 (identityBytes s)]) ∧
    (∀ address count, address + 8 * count < 2 ^ 64 → 1 ≤ count → count ≤ 512 →
      (privileged s x.partition = true ∨ address + 8 * count ≤ 0xD0000 ∨ 0xF0000 ≤ address) →
      ((∀ i < count, goodAddress (address + 8 * i) = true) →
        Reaches (exec (.regRead r address count) s) s [.regs, .out] fun t =>
          ∃ data : Bytes, data.length = 8 * count ∧ data.take 8 = natBe 8 (readRegister s address).2 ∧
            t.out = s.out ++ [answerTo s x r 0x02 0 data]) ∧
      ((∃ i < count, goodAddress (address + 8 * i) = false) →
        Does (exec (.regRead r address count) s) s [.out] [] fun t => t.out = s.out ++ [answerTo s x r 0x02 4 []])) ∧
    (∀ seq e, seq < 2 ^ 64 → ringEntry s seq = some e →
      (Does (exec (.tallyRoot r seq) s) s [.out] [] fun t =>
        t.out = s.out ++ [answerTo s x r 0x05 0 (e.root ++ e.signature.getD (natBe 8 0))]) ∧
      (∀ tree first n, tree ≤ 1 → 1 ≤ n → n ≤ 256 → first + n ≤ 4096 →
        (tree ≠ 0 ∨ accountsOk s x.partition first (first + n - 1) = true) →
        Does (exec (.tallyLeaves r tree first n seq) s) s [.out] [] fun t =>
          t.out = s.out ++ [answerTo s x r 0x06 0 ((List.range n).flatMap fun i => natBe 64 (e.leaf tree (first + i)))]) ∧
      (∀ tree i, tree ≤ 1 → i < 4096 → (tree ≠ 0 ∨ accountsOk s x.partition i i = true) →
        Does (exec (.tallyProof r tree i seq) s) s [.out] [] fun t =>
          t.out = s.out ++ [answerTo s x r 0x07 0 (natBe 64 (e.leaf tree i) ++
            (List.range 12).flatMap fun k => (treeLevel k (e.hashes tree)).getD ((i / 2 ^ k) ^^^ 1) [])])) ∧
    (∀ seq, seq < 2 ^ 64 → ringEntry s seq = none →
      Does (exec (.tallyRoot r seq) s) s [.out] [] fun t => t.out = s.out ++ [answerTo s x r 0x05 9 []]) ∧
    (∀ seq tree first n, seq < 2 ^ 64 → ringEntry s seq = none → tree ≤ 1 → 1 ≤ n → n ≤ 256 → first + n ≤ 4096 →
      (tree ≠ 0 ∨ accountsOk s x.partition first (first + n - 1) = true) →
      (Does (exec (.tallyLeaves r tree first n seq) s) s [.out] [] fun t =>
        t.out = s.out ++ [answerTo s x r 0x06 9 []]) ∧
      (n = 1 → Does (exec (.tallyProof r tree first seq) s) s [.out] [] fun t =>
        t.out = s.out ++ [answerTo s x r 0x07 9 []])) ∧
    ∀ nonce : Bytes, nonce.length = 32 →
      Does (exec (.attest r nonce) s) s [.secure] [] fun t =>
        t.secure = { s.secure with attests := s.secure.attests ++ [(.session x.index x.serial, r, nonce)] }) ∧
  (∀ (s : State) (r : Request) (x : Session), Served s r x 0x03 →
    (∀ pairs : List (Nat × Word), x.partition = 0 → pairs ≠ [] → pairs.length ≤ 512 → (∀ p ∈ pairs, p.1 < 2 ^ 64) →
      Answers (exec (.regWrite r pairs) s) fun t =>
        ∃ u, writePairs (pairs.map fun p => natBe 8 p.1 ++ natBe 8 p.2.toNat) s 0 = u ∧
          (findSession u.1 x.index = some x → t = { u.1 with out := u.1.out ++ [answerTo u.1 x r 0x03 u.2.2 (natBe 8 u.2.1)] }) ∧
          (findSession u.1 x.index = none → t = u.1)) ∧
    (∀ queue max, privileged s x.partition = true → queue < 0x40000 → 1 ≤ max → max ≤ 64 →
      (mayDequeue s queue = false →
        Does (exec (.dequeue r queue max) s) s [.out] [] fun t => t.out = s.out ++ [answerTo s x r 0x04 8 []]) ∧
      (mayDequeue s queue = true →
        Reaches (exec (.dequeue r queue max) s) s
          [.regs, .sched, .ports, .queue, .pipe, .crown, .observe, .log, .out, .noticeSeq] fun t =>
          ∃ (k status : Nat) (data : Bytes), k ≤ max ∧ data.length = 64 * k ∧ (status = 0 ∨ status = 7) ∧
            t.out = s.out ++ [answerTo s x r 0x04 status data] ∧ (0 < k → status = 0) ∧
            (peekQ s queue = .empty → k = 0 ∧ status = 7) ∧
            ∀ i b, peekQ s queue = .item i b → s.queue.struck.find? (·.1 == ringPlace s queue b 0) = none →
              0 < k ∧ data.take 64 = natBe 64 i)))

/-- A job that its queue takes is posted under the next identifier and waits; its session may ask for its state and abort it: one
that waits is marked, and one that runs retires as aborted. A job of another session is out of its rights
(a job belongs to the session that posted it and to partition 0: log 73). -/
def Obligations.JobsArePostedAbortedAndAsked : Prop :=
  (∀ (s : State) (r : Request) (x : Session) (payload : Bytes) (h : JobHdr) (ops : List JobOp), Served s r x 0x20 →
    parseJob s payload = some (h, ops) → rightsOk s (some x.partition) 0x20 payload = true →
    let q := getQ s h.queue
    let b := q.bands.getD h.band noBand
    let full := !b.bad && b.occ == 2 ^ b.log2
    let taken := hubOn s && queueClass h.queue == 2 && q.enable && b.present && ops.all captureQueuesOk
    (taken = true → b.bad = false → full = false → storeUsed s + ceilDiv (payload.length - 32) 64 ≤ storeUnits →
      Reaches (exec (.jobPost r payload) s) s [.regs, .queue, .crown, .observe, .out, .noticeSeq, .fresh] fun t =>
        ∃ j, t.crown.jobs = s.crown.jobs ++ [j] ∧ j.id = rd s CROWN_NEXT_JOB.JOB_ID ∧ j.post = s.crown.posts ∧ t.crown.posts = s.crown.posts + 1 ∧ j.ops = ops ∧ j.state = 0 ∧
          j.account = h.account ∧ j.queue = h.queue ∧ j.client = .session x.index x.serial ∧
          t.out = s.out ++ [answerTo s x r 0x20 0 (natBe 8 j.id)] ∧
          rd t CROWN_NEXT_JOB.JOB_ID = addMod 32 (rd s CROWN_NEXT_JOB.JOB_ID) 1) ∧
    (taken = false → Does (exec (.jobPost r payload) s) s [.out] [] fun t => t.out = s.out ++ [answerTo s x r 0x20 8 []]) ∧
    (taken = true → full = true →
      Does (exec (.jobPost r payload) s) s [.out] [QUEUE_REFUSALS.FULL_REFUSED] fun t =>
        t.out = s.out ++ [answerTo s x r 0x20 6 []]) ∧
    (taken = true → full = false → storeUnits < storeUsed s + ceilDiv (payload.length - 32) 64 →
      Does (exec (.jobPost r payload) s) s [.out] [] fun t => t.out = s.out ++ [answerTo s x r 0x20 6 []])) ∧
  (∀ (s : State) (r : Request) (x : Session) (job : Nat) (j : Job), Served s r x 0x22 → job < 2 ^ 64 → findJob s job = some j →
    (x.partition = 0 ∨ j.client = .session x.index x.serial) →
    (j.done = false → j.state = 0 →
      Does (exec (.jobAbort r job) s) s [.crown, .out] [] fun t =>
        t.out = s.out ++ [answerTo s x r 0x22 0 []] ∧ (∀ y ∈ t.crown.jobs, y.post = j.post → y.abort = true) ∧
        t.crown.jobs.length = s.crown.jobs.length) ∧
    (j.done = false → j.state = 1 →
      Reaches (exec (.jobAbort r job) s) s
        [.regs, .queue, .power, .tally, .crown, .peer, .observe, .out, .noticeSeq, .fresh] fun t =>
        (∀ y ∈ t.crown.jobs, y.post ≠ j.post) ∧ t.crown.retired.head? = some { j with state := 3 } ∧ rdB t CROWN_EVENTS.JOB_ABORTED = true) ∧
    ((j.done = true ∨ 2 ≤ j.state) →
      Does (exec (.jobAbort r job) s) s [.out] [] fun t => t.out = s.out ++ [answerTo s x r 0x22 10 []])) ∧
  (∀ (s : State) (r : Request) (x : Session) (job : Nat) (j : Job), Served s r x 0x23 → job < 2 ^ 64 → findJob s job = some j →
    (x.partition = 0 ∨ j.client = .session x.index x.serial) →
    Does (exec (.jobStatus r job) s) s [.out] [] fun t =>
      t.out = s.out ++ [answerTo s x r 0x23 0 (natBe 1 j.state ++ natBe 2 j.results.length ++
        ((if 2 ≤ j.state then jobResults j j.state else j.results.map (·.1)).flatMap (natBe 2)))]) ∧
  ∀ (s : State) (r : Request) (x : Session) (job op : Nat) (c : Instr), Served s r x op → job < 2 ^ 64 →
    (c, op) ∈ [(Instr.jobAbort r job, 0x22), (.jobStatus r job, 0x23)] →
    (findJob s job = none → Does (exec c s) s [.out] [] fun t => t.out = s.out ++ [answerTo s x r op 9 []]) ∧
    ∀ j, findJob s job = some j → x.partition ≠ 0 → j.client ≠ .session x.index x.serial →
      Does (exec c s) s [.out] [] fun t => t.out = s.out ++ [answerTo s x r op 3 []]

/-- The management port: its link is followed, a default router is learned and withdrawn, an address message for this device is noted
and answered, another one refreshes a neighbour that is known, an echo request is answered, and a write that changes an address closes
every session. (What ARP and neighbour discovery do here: log 56. Which registers are address registers: log 118.) Without the port's power, or for an IP version that is not in use, nothing changes. -/
def Obligations.TheManagementPortAnswers : Prop :=
  (∀ (s : State) (up : Bool), pdOn s 1 = true → rdB s CROWN_STATUS.LINK_UP ≠ up →
    Does (exec (.linkChanged up) s) s noticeParts (CROWN_STATUS.LINK_UP :: CROWN_EVENTS.LINK_CHANGED :: noticeFields) fun t =>
      rdB t CROWN_STATUS.LINK_UP = up ∧ rdB t CROWN_EVENTS.LINK_CHANGED = true) ∧
  (∀ (s : State) (up : Bool), (pdOn s 1 = false ∨ rdB s CROWN_STATUS.LINK_UP = up) → exec (.linkChanged up) s = .next s) ∧
  (∀ (s : State) (v6 : Bool) (c : Instr) (router lifetime target sender mac source : Nat) (isRequest : Bool) (payload : Bytes),
    ipEnabled s v6 = false → c ∈ [Instr.addressResolution v6 target sender mac isRequest, .echoRequest v6 source payload] →
    exec c s = .next s ∧ (v6 = true → exec (.routerAdvertisement router lifetime) s = .next s)) ∧
  (∀ (s : State) (v6 : Bool) (target sender mac : Nat) (isRequest : Bool), ipEnabled s v6 = true → target ≠ ownAddress s v6 →
    ((∃ n ∈ s.crown.neighbours, n.1 = v6 ∧ n.2.1 = sender) →
      Does (exec (.addressResolution v6 target sender mac isRequest) s) s [.crown] [] fun t => (v6, sender, mac) ∈ t.crown.neighbours) ∧
    ((∀ n ∈ s.crown.neighbours, n.1 = v6 → n.2.1 ≠ sender) →
      exec (.addressResolution v6 target sender mac isRequest) s = .next s)) ∧
  (∀ (s : State) (router lifetime : Nat), ipEnabled s true = true →
    Does (exec (.routerAdvertisement router lifetime) s) s [.crown] [] fun t =>
      t.crown = { s.crown with router6 := if lifetime ≠ 0 then some router
        else if s.crown.router6 = some router then none else s.crown.router6 }) ∧
  (∀ (s : State) (v6 : Bool) (sender mac : Nat) (isRequest : Bool), ipEnabled s v6 = true →
    Does (exec (.addressResolution v6 (ownAddress s v6) sender mac isRequest) s) s [.crown, .out] [] fun t =>
      (v6, sender, mac) ∈ t.crown.neighbours ∧
      t.out = s.out ++ if isRequest then [.neighbourReply v6 sender (rd s CROWN_MAC.ADDRESS)] else []) ∧
  (∀ (s : State) (v6 : Bool) (source : Nat) (payload : Bytes), ipEnabled s v6 = true →
    Does (exec (.echoRequest v6 source payload) s) s [.out] [] fun t => t.out = s.out ++ [.echoReply v6 source payload]) ∧
  (∀ (s : State) (address : Nat) (value : Word), (netRegs.contains address = false ∨ pdOn s 1 = false) →
    exec (.crownCtrlWrite address value) s = .next s) ∧
  ∀ (s : State) (address : Nat) (value : Word), netRegs.contains address = true → pdOn s 1 = true →
    blockLocked s (blockOf address) = false →
    Reaches (exec (.crownCtrlWrite address value) s) s
      [.regs, .queue, .power, .tally, .crown, .peer, .observe, .out, .noticeSeq, .fresh] fun t =>
      (∀ f ∈ fieldsAt address, f.access = .rwl → rd t f = value.toNat / 2 ^ f.lsb % 2 ^ f.width) ∧
      ((∃ f ∈ fieldsAt address, f.access = .rwl ∧ rd s f ≠ value.toNat / 2 ^ f.lsb % 2 ^ f.width) → t.crown.sessions = [])

/-! ## Jobs -/

/-- A job's operation on a rule, a meter, a counter or a verdict map entry: a read returns what is in force, a write takes its place, with
reserved bits zero, or is refused for what R132, R136 and R298 refuse, and either adds its result and its data to the job's results.
Where it is not the job's next operation, or while the hub is off, nothing changes. (The result of a refused METER_WRITE or VMAP_WRITE is
log 124; VMAP_READ gives the entry last written, log 126. The layout of METER_READ's state is the model's, log 32.) -/
def Obligations.RuleMeterCounterAndMapOperations : Prop :=
  (∀ (s : State) (job kind : Nat) (c : Instr),
    (c, kind) ∈ [(Instr.ruleWrite job, 2), (.ruleRead job, 3), (.meterWrite job, 4), (.meterRead job, 5), (.counterRead job, 6),
      (.vmapWrite job, 7), (.vmapRead job, 8)] →
    (nextOp s job kind = none ∨ hubOn s = false) → exec c s = .next s) ∧
  ∀ (s : State) (job kind : Nat) (j : Job) (o : JobOp), nextOp s job kind = some (j, o) → hubOn s = true →
    let target := o.2.2.1
    let data := o.2.2.2
    let D (c : Instr) (F : List Part) (fs : List Field) (r : Nat) (d : Bytes) (P : State → Prop) : Prop :=
      Does (exec c s) s (.tally :: .crown :: F) fs fun t =>
        (runningJob t job).map (·.results) = some (j.results ++ [(r, d)]) ∧ P t
    (kind = 2 → ((Map.get? s.front.staging target).isSome = true ∨ s.front.staging.length < 1024) →
      D (.ruleWrite job) [.front] [FRONT_RULE_STATUS.STAGED] 0 [] fun t =>
        t.front = { s.front with staging := Map.set s.front.staging target (ruleOfBytes data) } ∧
        (ruleOfBytes data).result % 2 ^ 35 = 0 ∧ bit (ruleOfBytes data).result 98 = false) ∧
    (kind = 2 → Map.get? s.front.staging target = none → 1024 ≤ s.front.staging.length →
      D (.ruleWrite job) [] [FRONT_RULE_STATUS.RESULT] 6 [] fun t => rd t FRONT_RULE_STATUS.RESULT = 6) ∧
    (kind = 3 → D (.ruleRead job) [] [] 0 (ruleAt s target).bytes fun _ => True) ∧
    (kind = 4 → meterRefused (meterOfBytes data) = true → D (.meterWrite job) [] [] 0x0100 [] fun _ => True) ∧
    (kind = 4 → meterRefused (meterOfBytes data) = false → D (.meterWrite job) [.front] [] 0 [] fun t =>
      t.front.meters = (applyMeterConfigs s).front.meters ∧ meterOfBytes data % 2 ^ 112 = 0 ∧
      t.front.meterNext = Map.set (applyMeterConfigs s).front.meterNext target (meterOfBytes data, batchNow s)) ∧
    (kind = 5 → D (.meterRead job) [] [] 0 (meterBytes (Map.get? s.front.meters target)) fun _ => True) ∧
    (kind = 6 → ∃ d : Bytes, d.length = 16 * fld target 12 0 ∧
      (0 < fld target 12 0 → d.take 16 =
        natBe 8 (Map.getD s.front.counters (fld target 51 32) (0, 0)).1 ++
        natBe 8 (Map.getD s.front.counters (fld target 51 32) (0, 0)).2) ∧
      D (.counterRead job) [.front, .observe] [] 0 d fun t =>
        t.front = { s.front with counters := if bit o.2.1 0 then (s.front.counters.filter fun p =>
          decide (p.1 < fld target 51 32) || decide (fld target 51 32 + fld target 12 0 ≤ p.1)) else s.front.counters }) ∧
    (kind = 7 → vmapRefused (vmapOf (beAt data 0 32)) = true → D (.vmapWrite job) [] [] 0x0100 [] fun _ => True) ∧
    (kind = 7 → vmapRefused (vmapOf (beAt data 0 32)) = false → D (.vmapWrite job) [.front] [] 0 [] fun t =>
      t.front = { s.front with vmapNext := Map.set s.front.vmapNext target (vmapOf (beAt data 0 32)) } ∧
      vmapOf (beAt data 0 32) % 2 ^ 80 = 0 ∧ bit (vmapOf (beAt data 0 32)) 114 = false ∧
      bit (vmapOf (beAt data 0 32)) 90 = false) ∧
    (kind = 8 → ∀ e, Map.get? s.front.vmapNext target = some e → D (.vmapRead job) [] [] 0 (natBe 32 e) fun _ => True) ∧
    (kind = 8 → Map.get? s.front.vmapNext target = none →
      D (.vmapRead job) [] [] 0 (natBe 32 (Map.getD s.front.vmap target 0)) fun _ => True)

/-- A job's loads: label entries go to the label plane of their slot, a chunk of a model to the load buffer at its offset, a chunk of a
schedule to the spare of the image store; a load without its region, or into a buffer that a distribution holds, is refused, one beyond
the end as well, and the last chunk of a schedule submits the image. The bytes of a load move within the bulk allowance of the period:
while some are left the operation goes on, and has its effect once all have moved (log 108). Where it is not the job's next operation, or while
the memory is off, nothing changes. -/
def Obligations.LoadsGoToTheirPlaces : Prop :=
  (∀ (s : State) (job kind : Nat) (c : Instr),
    (c, kind) ∈ [(Instr.labelWrite job, 9), (.modelLoad job, 10), (.scheduleLoad job, 11)] →
    (nextOp s job kind = none ∨ hbmOn s = false) → exec c s = .next s) ∧
  ∀ (s : State) (job kind : Nat) (j : Job) (o : JobOp), nextOp s job kind = some (j, o) → hbmOn s = true → SlotsOk s.slots →
    let target := o.2.2.1
    let data := o.2.2.2
    let slot := fld target 63 60
    let n := min (data.length - j.moved) (loadRoom s j)
    let all := decide (data.length ≤ j.moved + n)
    let D (c : Instr) (F : List Part) (r : Nat) (P : State → Prop) : Prop :=
      Does (exec c s) s (.power :: .tally :: .crown :: .observe :: F) [] fun t =>
        (runningJob t job).map (·.results) = some (j.results ++ [(r, [])]) ∧ P t
    let Part (c : Instr) : Prop :=
      Does (exec c s) s [.power, .tally, .crown, .observe] [] fun t =>
        (runningJob t job).map (fun x => (x.results, x.moved)) = some (j.results, j.moved + n)
    (kind = 9 → target < 16 → regionBase s 0x05 target = none → D (.labelWrite job) [] 0x0800 fun t => t.power = s.power) ∧
    (kind = 9 → target < 16 → (regionBase s 0x05 target).isSome = true →
      (all = false → Part (.labelWrite job)) ∧
      (all = true → D (.labelWrite job) [.slots] 0 fun t =>
        (getSlot t target).labels = (chunks 5 data).foldl writeLabel (getSlot s target).labels ∧
        ∀ k, k ≠ target → getSlot t k = getSlot s k)) ∧
    (kind = 10 → (loadBuffer s slot = none ∨ (getSlot s slot).distHeld = true) →
      D (.modelLoad job) [] 0x0800 fun t => t.power = s.power) ∧
    (kind = 10 → ∀ b size, loadBuffer s slot = some (b, size) → (getSlot s slot).distHeld = false →
      (size < fld target 39 0 + data.length → D (.modelLoad job) [] 0x0100 fun t => t.power = s.power) ∧
      (fld target 39 0 + data.length ≤ size →
        (all = false → Part (.modelLoad job)) ∧
        (all = true → D (.modelLoad job) [.slots, .hbm] 0 fun t =>
          Mem.readBytes t.hbm (b + fld target 39 0) data.length = data ∧
          (∀ a, a < b + fld target 39 0 ∨ b + fld target 39 0 + data.length ≤ a → Mem.read t.hbm a = Mem.read s.hbm a) ∧
          (getSlot t slot).image = true))) ∧
    (kind = 11 → 67108864 < target + data.length → D (.scheduleLoad job) [] 0x0100 fun t => t.power = s.power) ∧
    (kind = 11 → target + data.length ≤ 67108864 → all = false → Part (.scheduleLoad job)) ∧
    (kind = 11 → target + data.length ≤ 67108864 → all = true → bit o.2.1 0 = false → D (.scheduleLoad job) [.sched] 0 fun t =>
      Mem.readBytes t.sched.spare target data.length = data ∧
      t.sched.spareLen = max s.sched.spareLen (target + data.length) ∧ t.sched.loaded = s.sched.loaded) ∧
    (kind = 11 → target + data.length ≤ 67108864 → all = true → bit o.2.1 0 = true →
      Reaches (exec (.scheduleLoad job) s) s [.regs, .sched, .queue, .power, .tally, .crown, .observe, .noticeSeq] fun t =>
        t.sched.spare = [] ∧ t.sched.spareLen = 0 ∧
        ((t.sched.loaded.length = s.sched.loaded.length + 1 ∧ rdB t SECURE_EVENTS.SCHEDULE_LOADED = true ∧
            (runningJob t job).map (·.results) = some (j.results ++ [(0, [])])) ∨
          (t.sched.loaded = s.sched.loaded ∧ ∃ k, 1 ≤ k ∧ k ≤ 0x11 ∧
            (runningJob t job).map (·.results) = some (j.results ++ [(0x0800 + k, [])]))))

/-- A running job whose last operation has retired retires: complete, or failed where an operation failed and the job does not
go on after failures; it is known afterwards, and its completion message goes to the session that posted it. A capture: its
operation begins it for the heads that arrive later, and retires once its heads have been offered (log 130); records of its queue go on to the
verdict queue once that has room, and an item from there to the session, or the device, that posted the job, or is dropped where it
cannot leave at once. Elsewhere nothing changes. -/
def Obligations.JobsAndCapturesEnd : Prop :=
  (∀ (s : State) (job : Nat),
    (∀ j, runningJob s job = some j → j.done = true →
      Reaches (exec (.jobRetire job) s) s
        [.regs, .queue, .power, .tally, .crown, .peer, .observe, .out, .noticeSeq, .fresh] fun t =>
        ∃ code, (code = if !j.continue_ && j.results.any (·.1 != 0) then 4 else 2) ∧
          (∀ y ∈ t.crown.jobs, y.post ≠ j.post) ∧ t.crown.retired.head? = some { j with state := code } ∧
          rd t CROWN_JOBS_A.RETIRED = satN 32 (rd s CROWN_JOBS_A.RETIRED + 1) ∧
          (code = 4 → rdB t CROWN_EVENTS.JOB_FAILED = true) ∧
          ∀ i serial x, j.client = .session i serial → findSession s i = some x → x.serial = serial →
            t.out = s.out ++ [.crown i (completionMessage s j code)]) ∧
    ((∀ j, runningJob s job = some j → j.done = false) → exec (.jobRetire job) s = .next s)) ∧
  (∀ (s : State) (job : Nat), nextOp s job 0x0C = none → exec (.capture job) s = .next s) ∧
  (∀ (s : State) (job : Nat) (j : Job) (o : JobOp), nextOp s job 0x0C = some (j, o) →
    ((s.crown.captures.find? fun c => c.active && c.job == j.post) = none →
      Does (exec (.capture job) s) s [.crown] [] fun t =>
        t.crown.captures.getLast? = some (newCapture s j o.2.2.1) ∧ t.crown.jobs = s.crown.jobs) ∧
    (∀ u : State, (s.crown.captures.find? fun c => c.active && c.job == j.post).isSome = true → u = flushCaptures s →
      ((∃ c ∈ u.crown.captures, c.active = true ∧ c.job = j.post ∧ c.left = 0) →
        Reaches (exec (.capture job) s) s [.regs, .ports, .queue, .pipe, .tally, .crown, .observe, .noticeSeq] fun t =>
          (∀ c ∈ t.crown.captures, c.job = j.post → c.active = false) ∧
          t.crown.captures.map (·.held) = u.crown.captures.map (·.held) ∧
          (runningJob t job).map (·.results) = some (j.results ++ [(0, [])])) ∧
      ((∀ c ∈ u.crown.captures, c.active = true → c.job = j.post → c.left ≠ 0) → exec (.capture job) s = .next u))) ∧
  (∀ (s : State) (q : Nat) (faults : List FaultEv) (i : Instr), queueClass q = 0 → dataPathUse q = none →
    i ∈ [Instr.captureForward q, .itemTake q faults] →
    (∀ c, captureOf s (·.hq == q) = some c → roomQ s c.vq 0 ≠ 0 →
      Reaches (exec i s) s [.regs, .sched, .ports, .queue, .pipe, .crown, .observe, .log, .noticeSeq] fun t =>
        t.crown.jobs = s.crown.jobs ∧ t.crown.captures.length = s.crown.captures.length ∧
        ∀ u l, takeRecords 4 s q = (u, l) →
          t = if l.isEmpty then u else flushCaptures (enqueue u c.vq 0 (verdictItem l)).1) ∧
    ((captureOf s (·.hq == q) = none ∨ ∃ c, captureOf s (·.hq == q) = some c ∧ roomQ s c.vq 0 = 0) → exec i s = .next s)) ∧
  (∀ (s : State) (q : Nat), (queueClass q ≠ 0 ∨ (dataPathUse q).isSome = true) → exec (.captureForward q) s = .next s) ∧
  (∀ (s : State) (q : Nat) (ready : Bool),
    (queueClass q ≠ 1 ∨ (dataPathUse q).isSome = true ∨ captureOf s (·.vq == q) = none ∨ peekQ s q = .empty ∨ hubOn s = false) →
    exec (.capturePush q ready) s = .next s) ∧
  ∀ (s : State) (q i b : Nat) (c : CaptureRun), captureOf s (·.vq == q) = some c → hubOn s = true →
    queueClass q = 1 → dataPathUse q = none → peekQ s q = .item i b →
    s.queue.struck.find? (·.1 == ringPlace s q b 0) = none →
    (∀ n serial x, c.client = .session n serial → findSession s n = some x → x.serial = serial →
      Reaches (exec (.capturePush q true) s) s [.regs, .queue, .observe, .out, .noticeSeq, .fresh] fun t =>
        ∃ op < 256, t.out = s.out ++ [.crown n (pushMessage s c op i)]) ∧
    (∀ d msg, c.client = .peer d msg → leavesAtOnce s d = true →
      Reaches (exec (.capturePush q true) s) s
        [.regs, .queue, .power, .peer, .observe, .out, .noticeSeq, .fresh] fun t => t.out.length = s.out.length + 1) ∧
    (∀ n serial, c.client = .session n serial → sessionIs s n serial = false →
      Reaches (exec (.capturePush q true) s) s [.regs, .queue, .observe, .noticeSeq, .fresh] fun t =>
        rdB t CROWN_EVENTS.CAPTURE_DROPPED = true) ∧
    (∀ d msg, c.client = .peer d msg → leavesAtOnce s d = false →
      Reaches (exec (.capturePush q true) s) s [.regs, .queue, .observe, .noticeSeq, .fresh] fun t =>
        rdB t CROWN_EVENTS.CAPTURE_DROPPED = true) ∧
    (Reaches (exec (.capturePush q false) s) s [.regs, .queue, .observe, .noticeSeq, .fresh] fun t =>
      rdB t CROWN_EVENTS.CAPTURE_DROPPED = true)

/-! ## Peer links -/

/-- HELLO (its payload is the model's, log 25): each working link sends one; a good one brings the link up, and shows where its device is no member of this device's group; a bad one marks it MISWIRED and takes it down, and 3,000
beats without a good one take it down. Failed frames and credits: the first failure asks for a resend; a resend that fails again
counts as lasting and the link retrains; a NAK is answered with the kept frames from the named one on, once; a CREDIT frame
returns buffers, up to 16, and frames that waited for them leave. A frame that is not taken changes nothing, and a MISWIRED link asks
for no resend. -/
def Obligations.LinksComeUpAndResend : Prop :=
  ((∀ s : State, Reaches (exec .helloSend s) s [.regs, .queue, .peer, .observe, .out, .noticeSeq] fun t =>
    ∃ frames, t.out = s.out ++ frames ∧ frames.length = ((List.range 4).filter (linkWorks s)).length) ∧
  (∀ (s : State) (dt link : Nat) (frame : Bytes), acceptFrame (advance s dt) link frame 1 = none →
    exec (.hello dt link frame) s = .next (advance s dt)) ∧
  (∀ (s u : State) (dt link : Nat) (frame : Bytes), PeerOk s.peer → acceptFrame (advance s dt) link frame 1 = some u →
    let R (P : State → Prop) : Prop := Reaches (exec (.hello dt link frame) s) (advance s dt)
      [.regs, .sched, .queue, .pipe, .power, .peer, .observe, .log, .out, .noticeSeq] P
    (helloGood u link (framePayload frame) = true → R fun t =>
      rdB t (PEER_LINK_STATUS.UP link) = true ∧ rdB t (PEER_LINK_STATUS.MISWIRED link) = false ∧
      (getLink t link).lastHello = some (batchNow u) ∧ (getLink t link).group = some (beAt (framePayload frame) 5 1) ∧
      (beAt (framePayload frame) 5 1 ≠ u.peer.group → beAt (framePayload frame) 0 1 ∉ t.power.members) ∧
      (rdB u (PEER_LINK_STATUS.UP link) = false → rdB t PEER_EVENTS.LINK_UP = true)) ∧
    (helloGood u link (framePayload frame) = false → R fun t =>
      rdB t (PEER_LINK_STATUS.UP link) = false ∧ rdB t (PEER_LINK_STATUS.MISWIRED link) = true ∧
      (rdB u (PEER_LINK_STATUS.UP link) = true → rdB t PEER_EVENTS.LINK_DOWN = true) ∧
      (rdB u (PEER_LINK_STATUS.MISWIRED link) = false → rdB t PEER_EVENTS.MISWIRED = true))) ∧
  ∀ (s : State) (link : Nat),
    ((linkWorks s link = false ∨ helloFresh s link = false) →
      Does (exec (.helloTimeout link) s) s noticeParts
        (PEER_LINK_STATUS.UP link :: PEER_EVENTS.LINK_DOWN :: noticeFields) fun t =>
        rdB t (PEER_LINK_STATUS.UP link) = false ∧
        (rdB s (PEER_LINK_STATUS.UP link) = true → rdB t PEER_EVENTS.LINK_DOWN = true)) ∧
    (linkWorks s link = true → helloFresh s link = true → rdB s (PEER_LINK_STATUS.UP link) = false →
      Reaches (exec (.helloTimeout link) s) s [.regs, .queue, .power, .peer, .observe, .out, .noticeSeq] fun t =>
        rdB t (PEER_LINK_STATUS.UP link) = true ∧ rdB t PEER_EVENTS.LINK_UP = true) ∧
    (linkWorks s link = true → helloFresh s link = true → rdB s (PEER_LINK_STATUS.UP link) = true →
      exec (.helloTimeout link) s = .next s) ∧
    ((∀ b, (getLink s link).lastHello = some b → b + 3000 < batchNow s) → helloFresh s link = false)) ∧
  ((∀ (s : State) (link : Nat) (second : Bool), PeerOk s.peer → linkWorks s link = true →
    rdB s (PEER_LINK_STATUS.MISWIRED link) = false →
    ((getLink s link).nakking = false →
      Reaches (exec (.peerFrameError link second) s) s [.regs, .queue, .peer, .observe, .out, .noticeSeq] fun t =>
        (getLink t link).nakking = true ∧ t.out.length = s.out.length + 1) ∧
    ((getLink s link).nakking = true → second = true →
      Reaches (exec (.peerFrameError link second) s) s
        [.regs, .sched, .queue, .pipe, .peer, .observe, .log, .noticeSeq] fun t =>
        (getLink t link).nakking = false ∧ (getLink t link).retrain = some s.dial.now ∧
        rdB t PEER_EVENTS.CRC_LASTING = true ∧ rdB t (PEER_LINK_STATUS.UP link) = false) ∧
    ((getLink s link).nakking = true → second = false → exec (.peerFrameError link second) s = .next s)) ∧
  (∀ (s : State) (link : Nat) (second : Bool), (linkWorks s link = false ∨ rdB s (PEER_LINK_STATUS.MISWIRED link) = true) →
    exec (.peerFrameError link second) s = .next s) ∧
  (∀ (s : State) (link : Nat) (frame : Bytes), acceptFrame s link frame 4 = none → exec (.nak link frame) s = .next s) ∧
  (∀ (s u : State) (link q : Nat) (frame : Bytes), PeerOk s.peer → acceptFrame s link frame 4 = some u →
    q = beAt (framePayload frame) 0 2 →
    ((getLink s link).resent ≠ some q →
      Reaches (exec (.nak link frame) s) s [.regs, .sched, .queue, .pipe, .peer, .observe, .log, .out, .noticeSeq] fun t =>
        t.out = s.out ++ (framesFrom q (getLink s link).sent).map (fun f => .peer link f) ∧
        (getLink t link).resent = some q) ∧
    ((getLink s link).resent = some q → exec (.nak link frame) s = .next u)) ∧
  (∀ (s : State) (link : Nat) (frame : Bytes), acceptFrame s link frame 5 = none → exec (.credit link frame) s = .next s) ∧
  ∀ (s u : State) (link key : Nat) (frame : Bytes), PeerOk s.peer → acceptFrame s link frame 5 = some u →
    key = 2 * beAt (framePayload frame) 0 1 + beAt (framePayload frame) 1 1 →
    Reaches (exec (.credit link frame) s) s
      [.regs, .sched, .queue, .pipe, .power, .peer, .observe, .log, .out, .noticeSeq] fun t =>
      (∃ frames, t.out = s.out ++ frames) ∧
      ((getLink s link).waiting = [] → t.out = s.out ∧ t.power = s.power ∧ Map.getD (getLink t link).credits key 16 =
        min 16 (Map.getD (getLink s link).credits key 16 + beAt (framePayload frame) 2 1)))

/-- Relays: a request for another device leaves with a message of its own, or is answered UNREACHABLE where no way leads there, or with
the rights where they do not permit it; the other device grants (log 26) a reassembly buffer while it has one free, keeps the fragments, serves
the whole message and frees the buffer, and passes on what is not for it, or drops it where its link is down; a grant sends the request
on its way; a whole response goes to the session that waits for it, and is counted as late where none does; a relay that is not answered
in time, be it that its ask for a buffer still waits for a credit, is answered UNREACHABLE. (A response carries the MSG_ID of its request:
log 27; a forwarded frame goes on in its direction: log 33.) A frame that is not taken changes nothing. -/
def Obligations.RequestsAreRelayedAndAnswered : Prop :=
  (∀ (s : State) (r : Request) (x : Session) (c : Instr) (op : Nat) (payload : Bytes), Heard s r x → r.operator = x.operator →
    (bootClass s = 1 → readOp op = true) → r.dest ≠ s.peer.address → RequestRow c r op payload →
    (relayAllowed s x r op payload = false →
      Does (exec c s) s [.out] [] fun t => t.out = s.out ++ [answerTo s x r op 3 []]) ∧
    (relayAllowed s x r op payload = true → (sourceLink s r.dest = none ∨ inTopology s r.dest = false) →
      Does (exec c s) s (.out :: noticeParts) (PEER_RELAY.UNREACHABLE :: PEER_EVENTS.RELAY_TIMEOUT :: noticeFields) fun t =>
        t.out = s.out ++ [answerTo s x r op 13 []] ∧ rdB t PEER_EVENTS.RELAY_TIMEOUT = true) ∧
    (∀ j, relayAllowed s x r op payload = true → sourceLink s r.dest = some j → inTopology s r.dest = true →
      Reaches (exec c s) s [.regs, .queue, .power, .peer, .observe, .out, .noticeSeq] fun t =>
        t.peer.relays = s.peer.relays ++ [⟨s.peer.nextMessage, x.serial, r, op, false,
          crownMessage 0 ⟨1, op, r.dest, r.layer, r.operator, r.tag, 0⟩ payload, s.dial.now⟩] ∧
        t.peer.nextMessage = addMod 32 s.peer.nextMessage 1)) ∧
  (∀ (s : State) (link : Nat) (frame : Bytes),
    (acceptFrame s link frame 0x10 = none → exec (.request link frame) s = .next s) ∧
    (acceptFrame s link frame 0x11 = none → exec (.response link frame) s = .next s)) ∧
  (∀ (s u : State) (link kind : Nat) (frame : Bytes) (c : Instr) (h : PeerHdr), h = frameHdr frame → h.bcast = false →
    (c, kind) ∈ [(Instr.request link frame, 0x10), (.response link frame, 0x11)] → acceptFrame s link frame kind = some u →
    h.dest ≠ s.peer.address →
    Reaches (exec c s) s [.regs, .sched, .queue, .pipe, .power, .peer, .observe, .log, .out, .noticeSeq] fun t =>
      t.peer.buffers = s.peer.buffers ∧ t.peer.relayWait = s.peer.relayWait ∧
      (linkUp u (forwardLink u link h.dest) = true →
        rd t PEER_FORWARD.FORWARDED = satN 32 (rd s PEER_FORWARD.FORWARDED + 1)) ∧
      (linkUp u (forwardLink u link h.dest) = false → rdB t PEER_EVENTS.ROUTE_DROP = true)) ∧
  (∀ (s u : State) (link : Nat) (frame : Bytes) (h : PeerHdr), h = frameHdr frame → h.bcast = false → h.dest = s.peer.address →
    acceptFrame s link frame 0x10 = some u →
    let mine := s.peer.buffers.find? fun b => b.source == h.src && b.message == h.msgId
    let R (P : State → Prop) : Prop := Reaches (exec (.request link frame) s) s
      [.regs, .sched, .queue, .pipe, .power, .peer, .observe, .log, .out, .noticeSeq] P
    (h.length = 0 → s.peer.buffers.length < 16 → R fun t =>
      t.peer.buffers = s.peer.buffers ++ [⟨h.src, h.msgId, [], s.dial.now⟩] ∧ t.peer.relayWait = s.peer.relayWait) ∧
    (h.length = 0 → 16 ≤ s.peer.buffers.length → R fun t =>
      t.peer.buffers = s.peer.buffers ∧ t.peer.relayWait = s.peer.relayWait ++ [(h.src, h.msgId)]) ∧
    (h.length ≠ 0 → mine = none → exec (.request link frame) s = .next (arrive u link frame).1) ∧
    (∀ b, h.length ≠ 0 → mine = some b → h.last = false → R fun t =>
      t.peer.buffers = s.peer.buffers.map fun x =>
        if x.source == h.src && x.message == h.msgId then { x with bytes := b.bytes ++ framePayload frame } else x) ∧
    ∀ b, h.length ≠ 0 → mine = some b → h.last = true →
      Reaches (exec (.request link frame) s) s
        [.regs, .sched, .ports, .front, .flow, .endpoint, .queue, .pipe, .slots, .quant, .power, .tally, .secure, .crown, .peer,
          .observe, .log, .out, .noticeSeq, .fresh] fun t =>
        t = serveRelayed (freeBuffer (arrive u link frame).1 h.src h.msgId) h.src h.msgId (b.bytes ++ framePayload frame)) ∧
  (∀ (s u : State) (link : Nat) (frame m : Bytes) (h : PeerHdr), h = frameHdr frame → h.bcast = false →
    h.dest = s.peer.address → acceptFrame s link frame 0x11 = some u →
    m = (match s.peer.parts.find? fun b => b.source == h.src && b.message == h.msgId with
      | some b => if h.frag == 0 then [] else b.bytes
      | none => []) ++ framePayload frame →
    let waits := s.peer.relays.find? fun y => y.message == h.msgId && y.request.dest == h.src
    let R (P : State → Prop) : Prop := Reaches (exec (.response link frame) s) s
      [.regs, .sched, .queue, .pipe, .power, .peer, .observe, .log, .out, .noticeSeq] P
    (∀ y, h.length = 0 → h.last = false →
      (s.peer.relays.find? fun y => y.message == h.msgId && y.request.dest == h.src && !y.granted) = some y → R fun t =>
      ∀ z ∈ t.peer.relays, z.message = y.message → z.granted = true) ∧
    (h.length ≠ 0 → h.last = false → R fun t =>
      t.peer.relays = s.peer.relays ∧ t.peer.parts.getLast? = some ⟨h.src, h.msgId, m,
        match s.peer.parts.find? fun b => b.source == h.src && b.message == h.msgId with
        | some b => if h.frag == 0 then s.dial.now else b.since
        | none => s.dial.now⟩) ∧
    (∀ y x, h.last = true → wholeMessage m = true → (crownHdr m).type = 2 → waits = some y →
      findSession s y.request.session = some x → x.serial = y.serial → R fun t =>
      t.peer.relays = s.peer.relays.filter (fun z => z.message != h.msgId) ∧
      t.out.getLast? = some (.crown y.request.session m)) ∧
    (h.last = true → wholeMessage m = true → (crownHdr m).type = 2 → waits = none → R fun t =>
      t.peer.relays = s.peer.relays ∧ rd t PEER_RELAY.LATE =
        satN PEER_RELAY.LATE.width (rd s PEER_RELAY.LATE + 1) % 2 ^ PEER_RELAY.LATE.width) ∧
    (h.last = true → wholeMessage m = false → R fun t => t.peer.relays = s.peer.relays)) ∧
  ∀ (s : State) (message : Nat),
    (∀ y, (s.peer.relays.find? (·.message == message)) = some y → (y.granted = false ∨ messageWaits s 0x10 message = false) →
      timedOut s y.since = true →
      Reaches (exec (.relayTimeout message) s) s [.regs, .queue, .power, .peer, .observe, .out, .noticeSeq] fun t =>
        t.peer.relays = s.peer.relays.filter (fun z => z.message != message) ∧ rdB t PEER_EVENTS.RELAY_TIMEOUT = true ∧
        rd t PEER_RELAY.UNREACHABLE = satN 16 (rd s PEER_RELAY.UNREACHABLE + 1)) ∧
    ((∀ y, (s.peer.relays.find? (·.message == message)) = some y →
        y.granted = true ∧ messageWaits s 0x10 message = true ∨ timedOut s y.since = false) →
      exec (.relayTimeout message) s = .next s)

/-- Time events: one leaves on every link that is up and has a credit, while an interval is set; one that arrives is recorded
and its buffer returned. The power group: a member publishes its slack at every thousandth beat, keeps what the other members (log 110) publish,
and computes the grants 500 beats later from what has arrived, after which a member that was not heard is reported as missing; the
grants of a device that has left its group lapse. A grant is within the figures of its donor and of its receiver. A frame that is not
taken changes nothing. -/
def Obligations.EventsAndSlackCrossTheLinks : Prop :=
  ((∀ (s v : State) (dt : Nat), v = advance s dt →
    (rd v PEER_SYNC_CFG.INTERVAL_BEATS ≠ 0 →
      Reaches (exec (.eventSend dt) s) v [.regs, .queue, .power, .peer, .observe, .out, .noticeSeq] fun t =>
        ∃ frames, t.out = v.out ++ frames ∧ frames.length ≤ ((List.range 4).filter (linkUp v)).length ∧
          ((∀ j < 4, linkUp v j = true → (getLink v j).waiting = [] ∧ Map.getD (getLink v j).credits 0 16 ≠ 0) →
            frames.length = ((List.range 4).filter (linkUp v)).length)) ∧
    (rd v PEER_SYNC_CFG.INTERVAL_BEATS = 0 → exec (.eventSend dt) s = .next v)) ∧
  ∀ (s v : State) (dt link : Nat) (frame : Bytes), v = advance s dt →
    (acceptFrame v link frame 3 = none → exec (.event dt link frame) s = .next v) ∧
    ∀ u, acceptFrame v link frame 3 = some u →
      Reaches (exec (.event dt link frame) s) v [.regs, .sched, .queue, .pipe, .peer, .observe, .log, .out, .noticeSeq] fun t =>
        t.out.length = v.out.length + 1) ∧
  ((∀ s : State,
    (inGroup s = true → dialSet s = true → beatInSecond s % 1000 = 0 →
      Reaches (exec .slackPublish s) s [.regs, .queue, .power, .peer, .observe, .out, .noticeSeq] fun t =>
        ownSlack s ∈ t.power.slacks ∧ t.power.exchange = batchNow s) ∧
    (inGroup s = false → grantStands s = true → dialSet s = true → beatInSecond s % 1000 = 0 →
      Does (exec .slackPublish s) s [.power] [] fun t => t.power = { s.power with exchange := batchNow s, slacks := [] }) ∧
    ((dialSet s = false ∨ beatInSecond s % 1000 ≠ 0 ∨ inGroup s = false ∧ grantStands s = false) →
      exec .slackPublish s = .next s)) ∧
  (∀ (s : State) (link : Nat) (frame : Bytes), acceptFrame s link frame 2 = none → exec (.slack link frame) s = .next s) ∧
  (∀ (s u : State) (link : Nat) (frame : Bytes) (h : PeerHdr), h = frameHdr frame → acceptFrame s link frame 2 = some u →
    (inGroup s = true → h.src ≠ s.peer.address → otherGroup s h.src = false →
      Reaches (exec (.slack link frame) s) s
        [.regs, .sched, .queue, .pipe, .power, .peer, .observe, .log, .out, .noticeSeq] fun t =>
        slackOf h.src (framePayload frame) ∈ t.power.slacks ∧ h.src ∈ t.power.members ∧
        ∀ a ∈ s.power.members, a ∈ t.power.members) ∧
    ((inGroup s = false ∨ h.src = s.peer.address ∨ otherGroup s h.src = true) →
      exec (.slack link frame) s = .next (arrive u link frame).1)) ∧
  (∀ s : State,
    (inGroup s = true → s.power.exchange + 500 ≤ batchNow s →
      (s.power.slacks.any fun k => k.exchange == s.power.exchange && k.device == s.peer.address) = true →
      Reaches (exec .groupExchangeEval s) s [.regs, .queue, .power, .observe, .noticeSeq] fun t =>
        t.power.slacks = [] ∧
        (∀ a ∈ s.power.members, (∀ k ∈ s.power.slacks, k.exchange = s.power.exchange → k.device ≠ a) →
          rdB t PEER_EVENTS.SLACK_MISSING = true) ∧
        (standing t.power.given ≠ standing s.power.given ∨ standing t.power.received ≠ standing s.power.received →
          rdB t REGULATOR_EVENTS.GROUP_SHIFT = true)) ∧
    (inGroup s = false → s.power.exchange + 500 ≤ batchNow s → grantStands s = true →
      Reaches (exec .groupExchangeEval s) s [.regs, .queue, .power, .observe, .noticeSeq] fun t =>
        grantStands t = false ∧ rdB t REGULATOR_EVENTS.GROUP_SHIFT = true) ∧
    ((batchNow s < s.power.exchange + 500 ∨ inGroup s = false ∧ grantStands s = false ∨ inGroup s = true ∧
        (s.power.slacks.any fun k => k.exchange == s.power.exchange && k.device == s.peer.address) = false) →
      exec .groupExchangeEval s = .next s)) ∧
  ∀ (old l : List Slack) (x : Shift), x ∈ groupGrants old l →
    0 < x.2.2 ∧ ∃ k ∈ l, ∃ n ∈ l, k.device = x.1 ∧ n.device = x.2.1 ∧ k.need = false ∧ n.need = true ∧
      x.2.2 ≤ n.shiftMax ∧ x.2.2 ≤ k.shiftMax ∧ (x.2.2 : Int) ≤ k.slackW - k.reserve ∧
      (x.2.2 : Int) ≤ (k.effective : Int) - 400 ∧ (n.effective : Int) - heldGrants old l x.2.1 + x.2.2 ≤ 1500)

/-- A distribution: it starts where the slot has a load buffer that holds it and none runs, and is refused at once otherwise; a fragment
that fits holds the buffer and is written at its own place; the last one ends it, with the image complete where every fragment has come;
a report (slot and result in its bytes 0 and 1: log 25) sets its device's bit, and the last report ends the distribution; a sender that stops frees the buffer; devices that do not
report in time have failed, which ends the distribution. Elsewhere nothing changes but that a frame is passed on. -/
def Obligations.DistributionsFillTheLoadBuffers : Prop :=
  (∀ s : State,
    (pdOn s 4 = false → exec .distStart s = .next s) ∧
    (pdOn s 4 = true → (loadBuffer s (rd s PEER_DIST_CMD.SLOT) = none ∨ rdB s PEER_DIST_CMD.BUSY = true ∨
        ∃ b n, loadBuffer s (rd s PEER_DIST_CMD.SLOT) = some (b, n) ∧ n < rd s PEER_DIST_CMD.BYTES) →
      Does (exec .distStart s) s [] [PEER_DIST_CMD.GO, PEER_DIST_CMD.RESULT] fun t =>
        rd t PEER_DIST_CMD.RESULT = 2 ∧ rdB t PEER_DIST_CMD.GO = false) ∧
    (∀ b n, pdOn s 4 = true → loadBuffer s (rd s PEER_DIST_CMD.SLOT) = some (b, n) → rd s PEER_DIST_CMD.BYTES ≤ n →
      rdB s PEER_DIST_CMD.BUSY = false →
      Reaches (exec .distStart s) s [.regs, .queue, .power, .peer, .observe, .out, .noticeSeq] fun t =>
        t.peer.distTx = some ⟨rd s PEER_DIST_CMD.SLOT, rd s PEER_DIST_CMD.BYTES, rd s PEER_DIST_MASK.DEST, s.peer.nextMessage,
          s.dial.now⟩ ∧ t.peer.nextMessage = addMod 32 s.peer.nextMessage 1 ∧
        rdB t PEER_DIST_CMD.BUSY = true ∧ rd t PEER_DIST_CMD.RESULT = 0 ∧ rd t PEER_DIST_DONE.MASK = 0 ∧
        rd t PEER_DIST_FAILED.MASK = 0 ∧ rdB t PEER_DIST_CMD.GO = false)) ∧
  (∀ (s : State) (link : Nat) (frame : Bytes),
    (acceptFrame s link frame 0x20 = none → exec (.distData link frame) s = .next s) ∧
    (acceptFrame s link frame 0x21 = none → exec (.distDone link frame) s = .next s)) ∧
  (∀ (s u : State) (link : Nat) (frame p : Bytes) (h : PeerHdr) (d e : DistRx), SlotsOk s.slots →
    acceptFrame s link frame 0x20 = some u → h = frameHdr frame → p = framePayload frame →
    let slot := beAt p 0 1 % 16
    let R (P : State → Prop) : Prop := Reaches (exec (.distData link frame) s) s
      [.regs, .sched, .queue, .pipe, .slots, .power, .peer, .observe, .log, .hbm, .out, .noticeSeq] P
    d = (rxOf s h slot (beAt p 4 4)).2 → e = { d with got := d.got ++ [h.frag], since := s.dial.now } →
    ((bit (beAt p 8 8) s.peer.address = false ∨ h.src = s.peer.address) →
      exec (.distData link frame) s = .next (arrive u link frame).1) ∧
    (bit (beAt p 8 8) s.peer.address = true → h.src ≠ s.peer.address → R fun t =>
      (d.refused = true → t.hbm = s.hbm) ∧
      (∀ b n, d.refused = false → loadBuffer s slot = some (b, n) → t.hbm =
        Mem.writeBytes s.hbm (b + 8192 * h.frag) ((p.drop 24).take (min 8192 (d.bytes - 8192 * h.frag)))) ∧
      (h.last = false → e ∈ t.peer.distRx ∧
        (s.peer.distRx.find? (fun d => d.source == h.src && d.message == h.msgId && d.slot == slot) = none → d.refused = false →
          (getSlot t slot).distHeld = true)) ∧
      (h.last = true → e ∉ t.peer.distRx ∧ (e.refused = false → (getSlot t slot).distHeld = false) ∧
        (e.complete = true → (getSlot t slot).image = true ∧ (getSlot t slot).imageLen = e.bytes) ∧
        (e.complete = false → (getSlot t slot).image = (getSlot s slot).image)))) ∧
  (∀ (s u v : State) (link : Nat) (frame p : Bytes) (h : PeerHdr), acceptFrame s link frame 0x21 = some u →
    h = frameHdr frame → p = framePayload frame → h.bcast = false → v = (arrive u link frame).1 →
    ((h.dest ≠ s.peer.address ∨ ∀ d, s.peer.distTx = some d → beAt p 0 1 ≠ d.slot) → exec (.distDone link frame) s = .next v) ∧
    ∀ d, h.dest = s.peer.address → s.peer.distTx = some d → beAt p 0 1 = d.slot →
      Reaches (exec (.distDone link frame) s) s
        [.regs, .sched, .queue, .pipe, .power, .peer, .observe, .log, .out, .noticeSeq] fun t =>
        (beAt p 1 1 = 1 → rd t PEER_DIST_DONE.MASK = rd s PEER_DIST_DONE.MASK ||| 2 ^ h.src) ∧
        (beAt p 1 1 ≠ 1 → rd t PEER_DIST_FAILED.MASK = rd s PEER_DIST_FAILED.MASK ||| 2 ^ h.src) ∧
        ((rd t PEER_DIST_DONE.MASK ||| rd t PEER_DIST_FAILED.MASK) &&& d.mask = d.mask →
          t.peer.distTx = none ∧ rdB t PEER_DIST_CMD.BUSY = false ∧ rd t PEER_DIST_CMD.RESULT = 1) ∧
        ((rd t PEER_DIST_DONE.MASK ||| rd t PEER_DIST_FAILED.MASK) &&& d.mask ≠ d.mask → t.peer.distTx = s.peer.distTx)) ∧
  (∀ (s : State) (slot : Nat), slot < 16 → SlotsOk s.slots →
    (∀ d ∈ s.peer.distRx, d.slot = slot → timedOut s d.since = true →
      Reaches (exec (.distRxTimeout slot) s) s [.regs, .queue, .slots, .power, .peer, .observe, .out, .noticeSeq] fun t =>
        (d.refused = false → (getSlot t slot).distHeld = false) ∧ d ∉ t.peer.distRx ∧
        ∀ y ∈ s.peer.distRx, (y.slot ≠ slot ∨ timedOut s y.since = false) → y ∈ t.peer.distRx) ∧
    ((∀ d ∈ s.peer.distRx, d.slot = slot → timedOut s d.since = false) → exec (.distRxTimeout slot) s = .next s)) ∧
  ∀ s : State,
    (∀ d, s.peer.distTx = some d → d.mask < 2 ^ 64 → messageWaits s 0x20 d.message = false → timedOut s d.since = true →
      Reaches (exec .distDoneTimeout s) s [.regs, .queue, .peer, .observe, .noticeSeq] fun t =>
        t.peer.distTx = none ∧ rdB t PEER_DIST_CMD.BUSY = false ∧ rd t PEER_DIST_CMD.RESULT = 1 ∧
        (∀ a, d.mask.testBit a = true → (rd t PEER_DIST_DONE.MASK).testBit a = false →
          (rd t PEER_DIST_FAILED.MASK).testBit a = true) ∧
        (rdB t PEER_EVENTS.DIST_DONE = true ∨ rdB t PEER_EVENTS.DIST_FAILED = true)) ∧
    ((∀ d, s.peer.distTx = some d → messageWaits s 0x20 d.message = true ∨ timedOut s d.since = false) →
      exec .distDoneTimeout s = .next s)

/-! ## Observation -/

/-- Sampling: a write of START or STOP waits for the next beat, where the last one decides (START over STOP: log 117), unless a warm restart
begins there, through which it waits (log 102): a run ends with its final snapshot, a start
that R456 refuses is reported, and another one begins a run with its first snapshot; a snapshot counts all cycles up to its beat, waits in a buffer of 4 or is lost (and numbered all the same: log 103), and is
written to the ring, where the device has one, by the activity. A write with the domain off, a beat without a write, one during a
restart, a command at any other beat or without a run, and the activity with no snapshot or no beat to run in have no effect. -/
def Obligations.SamplingRunsBeginAndEndAtABeat : Prop :=
  (∀ (s : State) (start : Bool) (c : Instr), (c, start) ∈ [(Instr.sampleStart, true), (.sampleStop, false)] → observeOn s = true →
    Does (exec c s) s [.observe]
      [if start then OBSERVE_SAMPLE_CTRL.START else OBSERVE_SAMPLE_CTRL.STOP] fun t =>
      t.observe = { s.observe with startReq := some (start, batchNow s) } ∧
      rdB t (if start then OBSERVE_SAMPLE_CTRL.START else OBSERVE_SAMPLE_CTRL.STOP) = true) ∧
  (∀ s : State, (observeOn s = false → exec .sampleStart s = .next s ∧ exec .sampleStop s = .next s) ∧
    ((s.observe.startReq = none ∨ 2 ≤ s.sched.restart) → exec .runBoundary s = .next s) ∧
    ((runActive s = false ∨ observeOn s = false ∨ dialSet s = false ∨ rd s OBSERVE_SAMPLE_CTRL.INTERVAL_BEATS = 0 ∨
      beatInSecond s % rd s OBSERVE_SAMPLE_CTRL.INTERVAL_BEATS ≠ 0 ∨ s.observe.snapBeat = some (batchNow s)) →
      exec .snapshot s = .next s) ∧
    ((s.observe.snapshots = [] ∨ mayRun s 5 0 = false) → exec .counterSample s = .next s)) ∧
  (∀ (s v : State) (start : Bool) (b : Nat), s.observe.startReq = some (start, b) → s.sched.restart < 2 →
    v = (if batchNow s ≤ b then advanceTo s (b + 1) else s) → restartPrevails v = false →
    let R (P : State → Prop) : Prop := Reaches (exec .runBoundary s) v
      [.regs, .sched, .queue, .pipe, .tally, .observe, .noticeSeq] fun t =>
      t.observe.startReq = none ∧ rdB t OBSERVE_SAMPLE_CTRL.START = false ∧ rdB t OBSERVE_SAMPLE_CTRL.STOP = false ∧ P t
    (start = false → R fun t => runActive t = false ∧
      (runActive v = true → t.observe.runSeq = v.observe.runSeq + 1) ∧
      (runActive v = false → t.observe.snapshots = v.observe.snapshots)) ∧
    (start = true → startRefused v = true → observeOn v = true → R fun t => rdB t OBSERVE_EVENTS.START_REFUSED = true ∧ runActive t = runActive v) ∧
    (start = true → startRefused v = true → observeOn v = false →
      R fun t => rdB t OBSERVE_EVENTS.START_REFUSED = rdB v OBSERVE_EVENTS.START_REFUSED ∧ runActive t = runActive v) ∧
    (start = true → startRefused v = false → R fun t => runActive t = true ∧ t.observe.runSeq = 1 ∧
      rd t OBSERVE_SAMPLE_STATUS.RUN =
        satN OBSERVE_SAMPLE_STATUS.RUN.width (rd v OBSERVE_SAMPLE_STATUS.RUN + 1) % 2 ^ OBSERVE_SAMPLE_STATUS.RUN.width ∧
      rd t OBSERVE_SAMPLE_STATUS.SEQ = 0)) ∧
  (∀ (s v : State) (start : Bool) (b : Nat), s.observe.startReq = some (start, b) → s.sched.restart < 2 →
    v = (if batchNow s ≤ b then advanceTo s (b + 1) else s) → restartPrevails v = true → exec .runBoundary s = .next v) ∧
  (∀ s : State, runActive s = true → observeOn s = true → dialSet s = true → rd s OBSERVE_SAMPLE_CTRL.INTERVAL_BEATS ≠ 0 →
    beatInSecond s % rd s OBSERVE_SAMPLE_CTRL.INTERVAL_BEATS = 0 → s.observe.snapBeat ≠ some (batchNow s) →
    (s.observe.snapshots.length < 4 → Reaches (exec .snapshot s) s
      [.regs, .sched, .pipe, .tally, .observe] fun t =>
      t.observe.snapshots = s.observe.snapshots ++ [sampleRecord (accrue s) false false s.observe.runLost] ∧
      t.observe.runSeq = s.observe.runSeq + 1) ∧
    (4 ≤ s.observe.snapshots.length → Reaches (exec .snapshot s) s
      [.regs, .sched, .queue, .pipe, .tally, .observe, .noticeSeq] fun t =>
      t.observe.snapshots = s.observe.snapshots ∧ t.observe.runLost = s.observe.runLost + 1 ∧
      rdB t OBSERVE_EVENTS.SAMPLE_LOST = true)) ∧
  ∀ (s : State) (r : Bytes) (rs : List Bytes), s.observe.snapshots = r :: rs → mayRun s 5 0 = true →
    (∀ g : Region, (s.secure.regions.find? (·.code == 0x0A)) = some g →
      Does (exec .counterSample s) s [.sched, .tally, .observe, .hbm] [OBSERVE_SAMPLE_WP.OFFSET, OBSERVE_SAMPLE_STATUS.SEQ] fun t =>
        t.observe = { s.observe with
          snapshots := rs, hbmTransfers := s.observe.hbmTransfers + if observeOn s then 32 else 0 } ∧
        t.hbm = Mem.writeBytes s.hbm (g.base + rd s OBSERVE_SAMPLE_WP.OFFSET) r ∧
        rd t OBSERVE_SAMPLE_STATUS.SEQ = (if beAt r 3 3 = rd s OBSERVE_SAMPLE_STATUS.RUN then
          satN OBSERVE_SAMPLE_STATUS.SEQ.width (rd s OBSERVE_SAMPLE_STATUS.SEQ + 1) % 2 ^ OBSERVE_SAMPLE_STATUS.SEQ.width
          else rd s OBSERVE_SAMPLE_STATUS.SEQ) ∧
        rd t OBSERVE_SAMPLE_WP.OFFSET =
          (if g.size ≤ rd s OBSERVE_SAMPLE_WP.OFFSET + 2048 then 0 else rd s OBSERVE_SAMPLE_WP.OFFSET + 2048) % 2 ^ 40) ∧
    ((s.secure.regions.find? (·.code == 0x0A)) = none →
      Does (exec .counterSample s) s [.sched, .tally, .observe] [] fun t => t.observe = { s.observe with
        snapshots := rs, hbmTransfers := s.observe.hbmTransfers + if observeOn s then 32 else 0 })


/-- Trace and hangs: trace is enabled where the schedule and the configuration leave it room and refused otherwise; the activity moves
128 records to the region, from whose end it goes on at offset 0 or stops, as MODE says; a mark writes a record, or counts it lost where
the buffer is full; a detector whose condition has stood for its time counts a hang, once for each time that it arises, and captures a dump where none is kept;
the dump is done once. (Only a change of ENABLE from 0 to 1 is judged: log 100. What HANG checks: log 106.)
Each command acts not at all where its domain is off or its condition is not met. -/
def Obligations.TraceRecordsAndHangsAreKept : Prop :=
  (∀ (s : State) (value : Word),
    (observeOn s = false → exec (.traceEnable value) s = .next s ∧ exec (.mark value) s = .next s) ∧
    (observeOn s = true → (bit value.toNat 63 = false ∨ rdB s OBSERVE_TRACE_CTRL.ENABLE = true) →
      exec (.traceEnable value) s = .next (writeFields s OBSERVE_TRACE_CTRL.ENABLE.addr value.toNat)) ∧
    (observeOn s = true → bit value.toNat 63 = true → rdB s OBSERVE_TRACE_CTRL.ENABLE = false →
      (traceAllowed s = true → Reaches (exec (.traceEnable value) s) s [.regs, .queue, .observe, .noticeSeq] fun t =>
        rdB t OBSERVE_TRACE_CTRL.ENABLE = true) ∧
      (traceAllowed s = false → Reaches (exec (.traceEnable value) s) s [.regs, .queue, .observe, .noticeSeq] fun t =>
        rdB t OBSERVE_TRACE_CTRL.ENABLE = false ∧ rdB t OBSERVE_EVENTS.START_REFUSED = true))) ∧
  (∀ s : State, ((s.secure.regions.find? (·.code == 9)) = none ∨ s.observe.trace.length < 128 ∨
    rdB s OBSERVE_TRACE_STATUS.STOPPED = true ∨ mayRun s 6 0 = false) → exec .traceDrain s = .next s) ∧
  (∀ (s : State) (g : Region) (o : Nat), (s.secure.regions.find? (·.code == 9)) = some g → 128 ≤ s.observe.trace.length →
    rdB s OBSERVE_TRACE_STATUS.STOPPED = false → mayRun s 6 0 = true → o = rd s OBSERVE_TRACE_STATUS.OFFSET → g.size ≤ 2 ^ 39 →
    let moved (t : State) : Prop := t.hbm = Mem.writeBytes s.hbm (g.base + o) ((s.observe.trace.take 128).flatMap (natBe 32)) ∧
      t.observe.hbmTransfers = s.observe.hbmTransfers + if observeOn s then 64 else 0
    (o + 8192 ≤ g.size → Does (exec .traceDrain s) s [.sched, .tally, .observe, .hbm] [OBSERVE_TRACE_STATUS.OFFSET] fun t =>
      moved t ∧ t.observe.trace = s.observe.trace.drop 128 ∧ rd t OBSERVE_TRACE_STATUS.OFFSET = o + 4096) ∧
    (g.size < o + 8192 → rdB s OBSERVE_TRACE_CTRL.MODE = false →
      Does (exec .traceDrain s) s [.sched, .tally, .observe, .hbm] [OBSERVE_TRACE_STATUS.OFFSET, OBSERVE_TRACE_STATUS.WRAPPED] fun t =>
        moved t ∧ t.observe.trace = s.observe.trace.drop 128 ∧ rd t OBSERVE_TRACE_STATUS.OFFSET = 0 ∧
        rdB t OBSERVE_TRACE_STATUS.WRAPPED = true) ∧
    (g.size < o + 8192 → rdB s OBSERVE_TRACE_CTRL.MODE = true →
      Reaches (exec .traceDrain s) s [.regs, .sched, .queue, .tally, .observe, .noticeSeq, .hbm] fun t =>
        moved t ∧ rdB t OBSERVE_TRACE_STATUS.STOPPED = true ∧
        (observeOn s = true → rdB t OBSERVE_EVENTS.TRACE_FULL = true))) ∧
  (∀ (s : State) (value : Word), observeOn s = true →
    (rdB s OBSERVE_TRACE_CTRL.ENABLE = true → bit (rd s OBSERVE_TRACE_CTRL.CLASSES) 8 = true →
      (s.observe.lostSince = 0 → s.observe.trace.length < 2048 →
        Does (exec (.mark value) s) s [.observe] [OBSERVE_MARK.VALUE] fun t =>
          rd t OBSERVE_MARK.VALUE = value.toNat ∧ t.observe.trace.length = s.observe.trace.length + 1) ∧
      (2048 ≤ s.observe.trace.length →
        Reaches (exec (.mark value) s) s [.regs, .queue, .observe, .noticeSeq] fun t =>
          rd t OBSERVE_MARK.VALUE = value.toNat ∧ t.observe.trace = s.observe.trace ∧ rdB t OBSERVE_EVENTS.TRACE_LOST = true)) ∧
    ((rdB s OBSERVE_TRACE_CTRL.ENABLE = false ∨ bit (rd s OBSERVE_TRACE_CTRL.CLASSES) 8 = false) →
      Does (exec (.mark value) s) s [] [OBSERVE_MARK.VALUE] fun t => rd t OBSERVE_MARK.VALUE = value.toNat)) ∧
  (∀ (s : State) (detector subject : Nat), observeOn s = true → hangCondition s detector subject = true →
    (∀ h ∈ (settleHangs s).observe.hangs, h.1 = detector → h.2.1 ≠ subject) →
    Reaches (exec (.hang detector subject) s) s [.regs, .sched, .queue, .observe, .noticeSeq, .fresh] fun t =>
      (detector, subject, (hangSince s detector subject).getD 0) ∈ t.observe.hangs ∧
      rd t OBSERVE_HANG_STATUS.HANGS = satN 24 (rd s OBSERVE_HANG_STATUS.HANGS + 1) ∧ rdB t OBSERVE_EVENTS.HANG = true ∧
      rdB t OBSERVE_HANG_STATUS.DUMP_VALID = true ∧
      (rdB s OBSERVE_HANG_STATUS.DUMP_VALID = false → rd t OBSERVE_HANG_STATUS.CAUSE = detector ∧ t.observe.dumpOpen = true) ∧
      (rdB s OBSERVE_HANG_STATUS.DUMP_VALID = true → t.observe.dump = s.observe.dump)) ∧
  (∀ (s : State) (detector subject : Nat), (observeOn s = false ∨ hangCondition s detector subject = false ∨
    ∃ h ∈ (settleHangs s).observe.hangs, h.1 = detector ∧ h.2.1 = subject) →
    Does (exec (.hang detector subject) s) s [.observe] [] fun t => t.observe = { s.observe with hangs := t.observe.hangs } ∧
      ∀ h, h ∈ t.observe.hangs ↔ h ∈ s.observe.hangs ∧ hangCondition s h.1 h.2.1 = true ∧ hangSince s h.1 h.2.1 = some h.2.2) ∧
  (∀ (s : State) (subject n ms : Nat), n = rd s OBSERVE_HANG_CFG.HANG_BEATS → ms = rd s OBSERVE_HANG_CFG.JOB_HANG_MS →
    (hangCondition s 2 subject = true ↔ n ≠ 0 ∧ queueClass subject ≠ 3 ∧ (getQ s subject).occ ≠ 0 ∧
      (getQ s subject).since + 1000 * n ≤ s.dial.now) ∧
    (hangCondition s 3 subject = true ↔ ms ≠ 0 ∧ ∃ j, runningJob s subject = some j ∧ j.since + 1000000 * ms ≤ s.dial.now) ∧
    (hangCondition s 5 subject = true ↔ n ≠ 0 ∧ ∃ f rest, s.pipe.flights = f :: rest ∧ f.tag = subject ∧
      max f.since s.pipe.retiredBeat + n ≤ batchNow s)) ∧
  ∀ (s : State) (dt : Nat),
    ((advance s dt).observe.dumpOpen = false → exec (.dumpDone dt) s = .next (advance s dt)) ∧
    ((advance s dt).observe.dumpOpen = true →
      Does (exec (.dumpDone dt) s) (advance s dt) [.observe] [] fun t => t.observe.dumpOpen = false ∧
        Mem.readBytes t.observe.dump 48 8 = natBe 8 (nowShort (advance s dt)))

/-! ## The logbook, the board and the test pins -/

/-- The logbook: a record falls due after its interval, on a write and on a clear (which stays pending until a record is written: log 107);
it is written under the next SEQ, once more where the
read-back is bad, and fails where that is bad too; each second of power-on time is counted at its point. Before the interval has passed, with no record due and without two sectors
nothing is written. -/
def Obligations.LogbookRecordsFallDueAndAreWritten : Prop :=
  (∀ s : State, s.log.intervalLeft = 0 →
    Does (exec .logbookInterval s) s [.log] [] fun t =>
      t.log = { s.log with due := true, intervalLeft := logInterval s }) ∧
  (∀ s : State, s.log.intervalLeft ≠ 0 → exec .logbookInterval s = .next s) ∧
  (∀ (s : State) (first second : Bool), (s.log.due = false ∨ s.log.sectors < 2) → exec (.logbookWrite first second) s = .next s) ∧
  (∀ s : State, Does (exec .writeNow s) s [.log] [LOGBOOK_CTRL.WRITE_NOW] fun t => t.log = { s.log with due := true }) ∧
  (∀ s : State, Does (exec .clearFailed s) s [.log] [LOGBOOK_CTRL.CLEAR_FAILED, LOGBOOK_STATUS.CLEAR_PENDING] fun t =>
    t.log = { s.log with due := true, clearDue := true } ∧ rdB t LOGBOOK_STATUS.CLEAR_PENDING = true) ∧
  (∀ (s : State) (first second : Bool), s.log.due = true → 2 ≤ s.log.sectors → (first || second) = true →
    Reaches (exec (.logbookWrite first second) s) s [.regs, .queue, .secure, .observe, .log, .noticeSeq] fun t =>
      t.log.due = false ∧ t.log.seq = s.log.seq + 1 ∧ rdB t LOGBOOK_EVENTS.WRITTEN = true ∧
      rdB t LOGBOOK_STATUS.WRITE_FAILED = false ∧
      (s.log.clearDue = true → t.log.failedClusters = 0 ∧ t.log.failedDies = 0 ∧ t.log.failedChannels = 0 ∧
        t.log.failedStacks = 0 ∧ t.log.failedHeadLanes = 0 ∧ t.log.failedPeerLanes = 0 ∧
        rdB t LOGBOOK_EVENTS.FAILED_CLEARED = true) ∧
      (s.log.clearDue = false → t.log.failedDies = s.log.failedDies ∧ t.log.failedChannels = s.log.failedChannels) ∧
      ∃ k, Map.get? t.secure.nvmLog (s.log.base + 4096 * k) = some t.log.record) ∧
  (∀ s : State, s.log.due = true → 2 ≤ s.log.sectors →
    Reaches (exec (.logbookWrite false false) s) s [.regs, .queue, .secure, .observe, .log, .noticeSeq] fun t =>
      t.log.due = false ∧ t.log.seq = s.log.seq ∧ rdB t LOGBOOK_EVENTS.WRITE_FAILED = true ∧
      rdB t LOGBOOK_STATUS.WRITE_FAILED = true) ∧
  ∀ s : State, Does (exec .powerOnSecond s) s [.log] [LOGBOOK_HOURS.HOURS] fun t =>
    t.log.powerOnS = s.log.powerOnS + 1 ∧ t.log.pointHist = histAdd s.log.pointHist s.power.point ∧
    t.log.intervalLeft = s.log.intervalLeft - 1 ∧ rd t LOGBOOK_HOURS.HOURS = (s.log.powerOnS + 1) / 3600 % 2 ^ 32 ∧
    t.log.seq = s.log.seq ∧ t.log.trips = s.log.trips

/-- The board-management interface, once the power is good and not before, a read leaving its offset (log 54), and the test access port: the
bypass bit reads 0, IDCODE the identification, a sample a free value (the manual gives no boundary register: log 55), and nothing is shifted
out in reset, where TDO is high-impedance; an external test is in force only while RESET_N is low; TRST_N selects IDCODE (log 9). -/
def Obligations.BoardAndTestPinsAnswer : Prop :=
  (∀ (s : State) (offset : Byte), s.secure.powerGood = true →
    Does (exec (.bmiOffsetWrite offset) s) s [.pins] [] fun t => t.pins = { s.pins with bmiOffset := offset.toNat }) ∧
  (∀ (s : State) (count : Nat), s.secure.powerGood = true →
    Does (exec (.bmiRead count) s) s [.out] [] fun t =>
      t.out = s.out ++ [.bmi ((List.range count).map fun i => bmiByte s (s.pins.bmiOffset + i))]) ∧
  (∀ (s : State) (offset : Byte) (count : Nat), s.secure.powerGood = false →
    exec (.bmiOffsetWrite offset) s = .next s ∧ exec (.bmiRead count) s = .next s) ∧
  (∀ s : State,
    let tdo (v : Nat) : List Out := if s.secure.powerGood then [.tdo v] else []
    (Does (exec .bypass s) s [.pins, .out] [] fun t => t.pins = { s.pins with tapIr := 0 } ∧ t.out = s.out ++ tdo 0) ∧
    (Does (exec .idcode s) s [.pins, .out] [] fun t =>
      t.pins = { s.pins with tapIr := 1 } ∧ t.out = s.out ++ tdo 0xB204899F) ∧
    (Does (exec .samplePreload s) s [.pins, .out, .fresh] [] fun t =>
      t.pins = { s.pins with tapIr := 2 } ∧ ∃ v, t.out = s.out ++ tdo v) ∧
    (Does (exec .trstN s) s [.pins] [] fun t => t.pins = { s.pins with tapIr := 1 })) ∧
  ∀ (s : State) (c : Instr) (ir : Nat), (c, ir) ∈ [(Instr.extest, 3), (.extestPulse, 4), (.extestTrain, 5)] →
    (s.pins.resetN = false → Does (exec c s) s [.pins] [] fun t => t.pins = { s.pins with tapIr := ir }) ∧
    (s.pins.resetN = true → Does (exec c s) s [.pins, .out] [] fun t =>
      t.pins = { s.pins with tapIr := 0 } ∧ t.out = s.out ++ if s.secure.powerGood then [.tdo 0] else [])

/-! ## Register writes -/

/-- A register write of a block whose domain is off changes nothing, and neither does one of an address outside the map; a write of a
register that commands the block is its command, be it a control register, a slot or scale command, a commit, a rebuild, a flush, a queue's
descriptor, a distribution, a sampling or logbook request, or the hang configuration; a partition's register holds from the next beat,
and a head port starts and stops with its ENABLE; every other write is of its fields alone. Of a block that
lies in several domains blockOn says which one counts (log 156, the model's choice). -/
def Obligations.RegisterWritesAreTheirCommands : Prop :=
  (∀ (s : State) (a : Nat) (v : Word), (goodAddress a = false ∨ blockOn s a = false) → exec (.registerWrite a v) s = .next s) ∧
  (∀ (s : State) (slot op : Nat) (c : Instr), slot < 16 → blockOn s 0x70018 = true →
    (c, op) ∈ [(Instr.stage slot, 1), (.slotDiscard slot, 2), (.activate slot, 3), (.rollback slot, 4), (.release slot, 5),
      (.adaptStart slot, 6), (.adaptStop slot, 7), (.promote slot, 8)] →
    exec (.registerWrite 0x70018 (BitVec.ofNat 64 (commandWord slot op))) s = exec c s) ∧
  (∀ (s : State) (slot tensor op lo hi : Nat) (outlier : Bool) (c : Instr), slot < 16 → tensor < 256 → lo < 16777216 →
    hi < 16777216 → blockOn s 0x61010 = true →
    (c, op) ∈ [(Instr.qRelease slot tensor outlier lo hi, 0), (.qPin slot tensor outlier lo hi, 1),
      (.qBound slot tensor outlier lo hi, 2)] →
    exec (.registerWrite 0x61010 (BitVec.ofNat 64 (qControlWord slot tensor op outlier lo hi))) s = exec c s) ∧
  (∀ (s : State) (v : Word),
    exec (.registerWrite 0x90058 v) s = exec (.tallyCollected v) s ∧
    (blockOn s 0x90070 = true → exec (.registerWrite 0x90070 v) s = exec (.tallySelect (v.toNat % 4096)) s) ∧
    (blockOn s 0xD0030 = true → exec (.registerWrite 0xD0030 v) s = exec (.traceEnable v) s) ∧
    (blockOn s 0xD0048 = true → exec (.registerWrite 0xD0048 v) s = exec (.mark v) s) ∧
    (blockOn s 0x80000 = true → exec (.registerWrite 0x80000 v) s = .next (writeRegulatorCtrl s 0x80000 v.toNat)) ∧
    (blockOn s 0x80018 = true → exec (.registerWrite 0x80018 v) s = .next (writeCap s 0x80018 v.toNat)) ∧
    ∀ a ∈ netRegs, exec (.registerWrite a v) s = exec (.crownCtrlWrite a v) s) ∧
  ((∀ (s : State) (v : Word), exec .warmRestart s = exec (.registerWrite 0x8 1#64) s ∧
      (blockOn s 0x8 = true → exec (.registerWrite 0x8 v) s =
        .next (if bit v.toNat 0 then requestRestart (writeFields s 0x8 v.toNat) else writeFields s 0x8 v.toNat))) ∧
    (∀ (s : State) (v : Word), exec .start s = .next (decideStart (wrB s SECURE_CTRL.START true)) ∧
      exec (.registerWrite 0xA0000 v) s = .next (if bit v.toNat SECURE_CTRL.START.lsb then
        decideStart (writeFields s 0xA0000 v.toNat) else writeFields s 0xA0000 v.toNat)) ∧
    ∀ (s : State) (v : Word), pdOn s 5 = true →
      (bit v.toNat 0 = true → bit v.toNat 1 = false → exec (.registerWrite 0x30018 v) s = exec .commit s) ∧
      (bit v.toNat 0 = false → bit v.toNat 1 = true → exec (.registerWrite 0x30018 v) s = exec .discard s) ∧
      (bit v.toNat 0 = bit v.toNat 1 → exec (.registerWrite 0x30018 v) s = .next s) ∧
      (∀ fl ep, fl = bit v.toNat TABLE_REBUILD.FLOW_START.lsb → ep = bit v.toNat TABLE_REBUILD.EP_START.lsb →
        (fl = true → ep = false → exec (.registerWrite 0x40030 v) s = exec (.rebuildStart 0) s) ∧
        (fl = false → ep = true → exec (.registerWrite 0x40030 v) s = exec (.rebuildStart 1) s) ∧
        (fl = true → ep = true → exec (.registerWrite 0x40030 v) s = .next (startRebuild (startRebuild s 0) 1)) ∧
        (fl = false → ep = false → exec (.registerWrite 0x40030 v) s = .next s)) ∧
      (bit v.toNat 63 = true → exec (.registerWrite 0x50020 v) s = exec (.queueFlush (v.toNat % 2 ^ 18)) s) ∧
      (bit v.toNat 63 = false → exec (.registerWrite 0x50020 v) s = .next (wr s QUEUE_FLUSH.QUEUE (v.toNat % 2 ^ 18))) ∧
      ∀ q word, q < 0x40000 → word < 8 →
        exec (.registerWrite (0x100000000 + 64 * q + 8 * word) v) s = exec (.queueDescriptorWrite q word v) s) ∧
  ((∀ (s : State) (slot tensor : Nat) (v : Word), slot < 16 → tensor < 256 → blockOn s 0x61020 = true →
      v.toNat / 2 ^ ARRAY_Q_SELECT.SLOT.lsb % 16 = slot → v.toNat / 2 ^ ARRAY_Q_SELECT.TENSOR.lsb % 256 = tensor →
      exec (.registerWrite 0x61020 v) s = exec (.arrayQSelect slot tensor) s) ∧
    (∀ (s : State) (v : Word), pdOn s 4 = true → exec (.registerWrite 0xC0038 v) s =
      .next (if bit v.toNat 63 then startDist (writeFields s 0xC0038 v.toNat) else writeFields s 0xC0038 v.toNat)) ∧
    (∀ (s : State) (v : Word), observeOn s = true →
      (∀ req, req = (if bit v.toNat 63 then some (true, batchNow s) else if bit v.toNat 62 then some (false, batchNow s)
          else s.observe.startReq) →
        Answers (exec (.registerWrite 0xD0018 v) s) fun t => t.observe = { s.observe with startReq := req } ∧
          rd t OBSERVE_SAMPLE_CTRL.INTERVAL_BEATS = rd (writeFields s 0xD0018 v.toNat) OBSERVE_SAMPLE_CTRL.INTERVAL_BEATS) ∧
      exec (.registerWrite 0xD0050 v) s = .next (settleHangs (writeFields s 0xD0050 v.toNat))) ∧
    (∀ (s : State) (v : Word), pdOn s 1 = true → Answers (exec (.registerWrite 0xE0000 v) s) fun t =>
      t.log = { s.log with due := s.log.due || bit v.toNat 62 || bit v.toNat 61, clearDue := s.log.clearDue || bit v.toNat 61 } ∧
      (bit v.toNat 61 = true → rdB t LOGBOOK_STATUS.CLEAR_PENDING = true)) ∧
    (∀ (s : State) (a : Nat) (v : Word), 0x30100 ≤ a → a < 0x30500 → a % 16 = 0 → pdOn s 5 = true →
      ∃ m, exec (.registerWrite a v) s = .next { writeFields s a v.toNat with front := { (writeFields s a v.toNat).front with partNext := m } } ∧
        (dialSet s = false → m = s.front.partNext) ∧
        (dialSet s = true → ∀ f ∈ fieldsAt a, Map.get? m f.key = some (inForce s f))) ∧
    ∀ (s : State) (p : Nat) (v : Word), p < 8 → pdOn s (portDomain p) = true →
      ∀ u on, u = writeFields s (0x20100 + 64 * p) v.toNat → on = rdB u (HEADPORT_PORT_CFG.ENABLE p) →
        (rdB s (HEADPORT_PORT_CFG.ENABLE p) = on → exec (.registerWrite (0x20100 + 64 * p) v) s = .next u) ∧
        (rdB s (HEADPORT_PORT_CFG.ENABLE p) = false → on = true →
          Answers (exec (.registerWrite (0x20100 + 64 * p) v) s) fun t =>
            t.ports = modAt s.ports p fun x => { x with
              v1 := rdB u (HEADPORT_PORT_CFG.KEAFEN_V1 p)
              maxLanes := rd u (HEADPORT_PORT_CFG.MAX_LANES p)
              lastSeq := none
              txOrdered := 0
              txShed := 0 }) ∧
        (rdB s (HEADPORT_PORT_CFG.ENABLE p) = true → on = false →
          Answers (exec (.registerWrite (0x20100 + 64 * p) v) s) fun t =>
            rd t (HEADPORT_STATUS.LOCKED p) = 0 ∧ rdB t (HEADPORT_STATUS.ALIGNED p) = false ∧
            rd t (HEADPORT_STATUS.ACTIVE_LANES p) = 0 ∧
            t.ports = modAt s.ports p fun x => { x with retrain := none, retrainLanes := [], retrained := [] })) ∧
  ∀ (s : State) (a : Nat) (v : Word), goodAddress a = true → blockOn s a = true → inDescriptors a = false →
    netRegs.contains a = false → ¬ (0x30100 ≤ a ∧ a < 0x30500 ∧ a % 16 = 0) → ¬ (0x20100 ≤ a ∧ a < 0x20300 ∧ a % 64 = 0) →
    a ∉ [0x8, 0x30018, 0x40030, 0x50020, 0x61010, 0x61020, 0x70018, 0x90058, 0x90070, 0x80000, 0x80018, 0xA0000, 0xC0038, 0xD0018, 0xD0030,
      0xD0048, 0xE0000] →
    exec (.registerWrite a v) s = .next (writeFields s a v.toNat)
end

