-- ==== Sys2Proof/Laws/Acts.lean ====
section
/-! SUPPORT. What an operation may touch, once for all of them: `Acts F s t` says that every part outside F is as before and that
the invariant is kept. Operations compose by `Acts.step`; the rules below are for structure updates, conditions, folds and
results in pairs. -/

namespace Sys2Proof.Machine

/-- From s to t only parts of F differ, and the invariant is kept. -/
structure Acts (F : List Part) (s t : State) : Prop where
  same : Untouched F s t
  inv : Inv s → Inv t

/-- Every part of G is in F. -/
def subParts (G F : List Part) : Bool := G.all F.contains

theorem subParts_mem {G F : List Part} (h : subParts G F = true) {p : Part} (hp : F.contains p = false) : G.contains p = false := by
  cases hg : G.contains p with
  | false => rfl
  | true =>
    have h1 : p ∈ G := by simpa using hg
    have h2 := List.all_eq_true.mp h p h1
    rw [hp] at h2
    exact absurd h2 (by decide)

theorem Part.same_trans {s t u : State} {p : Part} (h : p.same s t) (k : p.same t u) : p.same s u := by
  cases p <;> exact Eq.trans k h

theorem Acts.refl (F : List Part) (s : State) : Acts F s s :=
  ⟨fun p _ => by cases p <;> rfl, id⟩

theorem Acts.trans {F : List Part} {s t u : State} (h : Acts F s t) (k : Acts F t u) : Acts F s u :=
  ⟨fun p hp => Part.same_trans (h.same p hp) (k.same p hp), fun hi => k.inv (h.inv hi)⟩

theorem Acts.mono {F G : List Part} {s t : State} (h : Acts G s t) (hs : subParts G F = true) : Acts F s t :=
  ⟨fun p hp => h.same p (subParts_mem hs hp), h.inv⟩

theorem Acts.step {F G : List Part} {s t u : State} (h : Acts F s t) (k : Acts G t u) (hs : subParts G F = true) : Acts F s u :=
  h.trans (k.mono hs)

/-- A condition under which a further step is taken. -/
theorem Acts.iteStep {F : List Part} {s a b : State} {c : Prop} [Decidable c] (h : Acts F s a) (k : Acts F s a → Acts F s b) :
    Acts F s (if c then b else a) := by
  split
  · exact k h
  · exact h

theorem Acts.ite {F : List Part} {s a b : State} {c : Prop} [Decidable c] (h : Acts F s a) (k : Acts F s b) :
    Acts F s (if c then a else b) := by
  split
  · exact h
  · exact k

theorem Acts.foldl {F : List Part} {s a : State} {α : Type} {g : State → α → State} {l : List α} (h : Acts F s a)
    (k : ∀ x b, Acts F s b → Acts F s (g b x)) : Acts F s (l.foldl g a) := by
  induction l generalizing a with
  | nil => exact h
  | cons x l ih => exact ih (k x a h)

theorem Acts.foldlPair {F : List Part} {s a : State} {α β : Type} {g : State × β → α → State × β} {l : List α} {r : β}
    (h : Acts F s a) (k : ∀ x b q, Acts F s b → Acts F s (g (b, q) x).1) : Acts F s (l.foldl g (a, r)).1 := by
  induction l generalizing a r with
  | nil => exact h
  | cons x l ih => exact ih (k x a r h)

theorem Acts.fstIte {F : List Part} {s : State} {α : Type} {a b : State × α} {c : Prop} [Decidable c] (h : Acts F s a.1)
    (k : Acts F s b.1) : Acts F s (if c then a else b).1 := by
  split
  · exact h
  · exact k

theorem Acts.fstCond {F : List Part} {s : State} {α : Type} {a b : State × α} {c : Prop} [Decidable c] (h : c → Acts F s a.1)
    (k : ¬c → Acts F s b.1) : Acts F s (if c then a else b).1 := by
  split
  · next e => exact h e
  · next e => exact k e

theorem Acts.cond {F : List Part} {s a b : State} {c : Prop} [Decidable c] (h : c → Acts F s a) (k : ¬c → Acts F s b) :
    Acts F s (if c then a else b) := by
  split
  · next e => exact h e
  · next e => exact k e

theorem Acts.fstMk {F : List Part} {s a : State} {α : Type} {x : α} (h : Acts F s a) : Acts F s (a, x).1 := h

theorem Acts.sndIte {F : List Part} {s : State} {α : Type} {a b : α × State} {c : Prop} [Decidable c] (h : Acts F s a.2)
    (k : Acts F s b.2) : Acts F s (if c then a else b).2 := by
  split
  · exact h
  · exact k

theorem Acts.sndMk {F : List Part} {s a : State} {α : Type} {x : α} (h : Acts F s a) : Acts F s (x, a).2 := h

theorem Acts.ofFst {F : List Part} {s t : State} {α : Type} {p : State × α} {r : α} (e : p = (t, r)) (h : Acts F s p.1) :
    Acts F s t := by
  rw [e] at h
  exact h

theorem Acts.ofSnd {F : List Part} {s t : State} {α : Type} {p : α × State} {r : α} (e : p = (r, t)) (h : Acts F s p.2) :
    Acts F s t := by
  rw [e] at h
  exact h

/-- A result that may be absent: where it is a state, only parts of F differ. -/
def ActsSome (F : List Part) (s : State) (o : Option State) : Prop := ∀ t, o = some t → Acts F s t

theorem Acts.ofSome {F : List Part} {s t : State} {o : Option State} (e : o = some t) (h : ActsSome F s o) : Acts F s t := h t e

theorem ActsSome.none {F : List Part} {s : State} : ActsSome F s none := fun _ h => by cases h

theorem ActsSome.some {F : List Part} {s a : State} (h : Acts F s a) : ActsSome F s (some a) := fun _ e => by cases e; exact h

theorem Acts.getSome {F : List Part} {s a : State} {o : Option State} (k : ActsSome F s o) (h : Acts F s a) : Acts F s (o.getD a) := by
  cases o with
  | none => exact h
  | some t => exact k t rfl

theorem ActsSome.ite {F : List Part} {s : State} {a b : Option State} {c : Prop} [Decidable c] (h : ActsSome F s a)
    (k : ActsSome F s b) : ActsSome F s (if c then a else b) := by
  split
  · exact h
  · exact k

/-- An answer: where it is a next state, only parts of F differ. -/
def ActsNext (F : List Part) (s : State) (o : Host.Outcome State Fault Refusal) : Prop := ∃ t, o = .next t ∧ Acts F s t

theorem ActsNext.next {F : List Part} {s t : State} (h : Acts F s t) : ActsNext F s (.next t) := ⟨t, rfl, h⟩

theorem ActsNext.ite {F : List Part} {s : State} {a b : Host.Outcome State Fault Refusal} {c : Prop} [Decidable c]
    (h : ActsNext F s a) (k : ActsNext F s b) : ActsNext F s (if c then a else b) := by
  split
  · exact h
  · exact k

theorem ActsNext.step {F G : List Part} {s a : State} {o : Host.Outcome State Fault Refusal} (h : Acts F s a) (k : ActsNext G a o)
    (hs : subParts G F = true) : ActsNext F s o := by
  obtain ⟨t, e, ht⟩ := k
  exact ⟨t, e, h.step ht hs⟩

/-! ## Structure updates -/

theorem Acts.set_regs {F : List Part} {s a : State} {x0 : Map Nat} (h : Acts F s a)
    (m0 : F.contains .regs = true)
    (o0 : RegsOk a.regs → RegsOk x0)
    : Acts F s { a with regs := x0 } := by
  refine ⟨fun p hp => ?_, fun hi => ?_⟩
  · cases p <;> first | exact h.same _ hp | exact absurd (m0.symm.trans hp) (by decide)
  · have k := h.inv hi
    exact ⟨o0 k.regs, k.sched, k.ports, k.pipe, k.slots, k.tally, k.crown, k.peer, k.observe, k.log, k.hbm⟩

theorem Acts.set_dial {F : List Part} {s a : State} {x0 : DialSt} (h : Acts F s a)
    (m0 : F.contains .dial = true)
    : Acts F s { a with dial := x0 } := by
  refine ⟨fun p hp => ?_, fun hi => ?_⟩
  · cases p <;> first | exact h.same _ hp | exact absurd (m0.symm.trans hp) (by decide)
  · have k := h.inv hi
    exact ⟨k.regs, k.sched, k.ports, k.pipe, k.slots, k.tally, k.crown, k.peer, k.observe, k.log, k.hbm⟩

theorem Acts.set_sched {F : List Part} {s a : State} {x0 : SchedSt} (h : Acts F s a)
    (m0 : F.contains .sched = true)
    (o0 : SchedOk a.sched → SchedOk x0)
    : Acts F s { a with sched := x0 } := by
  refine ⟨fun p hp => ?_, fun hi => ?_⟩
  · cases p <;> first | exact h.same _ hp | exact absurd (m0.symm.trans hp) (by decide)
  · have k := h.inv hi
    exact ⟨k.regs, o0 k.sched, k.ports, k.pipe, k.slots, k.tally, k.crown, k.peer, k.observe, k.log, k.hbm⟩

theorem Acts.set_ports {F : List Part} {s a : State} {x0 : List PortSt} (h : Acts F s a)
    (m0 : F.contains .ports = true)
    (o0 : PortsOk a.ports → PortsOk x0)
    : Acts F s { a with ports := x0 } := by
  refine ⟨fun p hp => ?_, fun hi => ?_⟩
  · cases p <;> first | exact h.same _ hp | exact absurd (m0.symm.trans hp) (by decide)
  · have k := h.inv hi
    exact ⟨k.regs, k.sched, o0 k.ports, k.pipe, k.slots, k.tally, k.crown, k.peer, k.observe, k.log, k.hbm⟩

theorem Acts.set_front {F : List Part} {s a : State} {x0 : FrontSt} (h : Acts F s a)
    (m0 : F.contains .front = true)
    : Acts F s { a with front := x0 } := by
  refine ⟨fun p hp => ?_, fun hi => ?_⟩
  · cases p <;> first | exact h.same _ hp | exact absurd (m0.symm.trans hp) (by decide)
  · have k := h.inv hi
    exact ⟨k.regs, k.sched, k.ports, k.pipe, k.slots, k.tally, k.crown, k.peer, k.observe, k.log, k.hbm⟩

theorem Acts.set_flow {F : List Part} {s a : State} {x0 : TableSt} (h : Acts F s a)
    (m0 : F.contains .flow = true)
    : Acts F s { a with flow := x0 } := by
  refine ⟨fun p hp => ?_, fun hi => ?_⟩
  · cases p <;> first | exact h.same _ hp | exact absurd (m0.symm.trans hp) (by decide)
  · have k := h.inv hi
    exact ⟨k.regs, k.sched, k.ports, k.pipe, k.slots, k.tally, k.crown, k.peer, k.observe, k.log, k.hbm⟩

theorem Acts.set_endpoint {F : List Part} {s a : State} {x0 : TableSt} (h : Acts F s a)
    (m0 : F.contains .endpoint = true)
    : Acts F s { a with endpoint := x0 } := by
  refine ⟨fun p hp => ?_, fun hi => ?_⟩
  · cases p <;> first | exact h.same _ hp | exact absurd (m0.symm.trans hp) (by decide)
  · have k := h.inv hi
    exact ⟨k.regs, k.sched, k.ports, k.pipe, k.slots, k.tally, k.crown, k.peer, k.observe, k.log, k.hbm⟩

theorem Acts.set_queue {F : List Part} {s a : State} {x0 : QueueSt} (h : Acts F s a)
    (m0 : F.contains .queue = true)
    : Acts F s { a with queue := x0 } := by
  refine ⟨fun p hp => ?_, fun hi => ?_⟩
  · cases p <;> first | exact h.same _ hp | exact absurd (m0.symm.trans hp) (by decide)
  · have k := h.inv hi
    exact ⟨k.regs, k.sched, k.ports, k.pipe, k.slots, k.tally, k.crown, k.peer, k.observe, k.log, k.hbm⟩

theorem Acts.set_pipe {F : List Part} {s a : State} {x0 : PipeSt} (h : Acts F s a)
    (m0 : F.contains .pipe = true)
    (o0 : PipeOk a.pipe → PipeOk x0)
    : Acts F s { a with pipe := x0 } := by
  refine ⟨fun p hp => ?_, fun hi => ?_⟩
  · cases p <;> first | exact h.same _ hp | exact absurd (m0.symm.trans hp) (by decide)
  · have k := h.inv hi
    exact ⟨k.regs, k.sched, k.ports, o0 k.pipe, k.slots, k.tally, k.crown, k.peer, k.observe, k.log, k.hbm⟩

theorem Acts.set_slots {F : List Part} {s a : State} {x0 : List SlotSt} (h : Acts F s a)
    (m0 : F.contains .slots = true)
    (o0 : SlotsOk a.slots → SlotsOk x0)
    : Acts F s { a with slots := x0 } := by
  refine ⟨fun p hp => ?_, fun hi => ?_⟩
  · cases p <;> first | exact h.same _ hp | exact absurd (m0.symm.trans hp) (by decide)
  · have k := h.inv hi
    exact ⟨k.regs, k.sched, k.ports, k.pipe, o0 k.slots, k.tally, k.crown, k.peer, k.observe, k.log, k.hbm⟩

theorem Acts.set_quant {F : List Part} {s a : State} {x0 : QuantSt} (h : Acts F s a)
    (m0 : F.contains .quant = true)
    : Acts F s { a with quant := x0 } := by
  refine ⟨fun p hp => ?_, fun hi => ?_⟩
  · cases p <;> first | exact h.same _ hp | exact absurd (m0.symm.trans hp) (by decide)
  · have k := h.inv hi
    exact ⟨k.regs, k.sched, k.ports, k.pipe, k.slots, k.tally, k.crown, k.peer, k.observe, k.log, k.hbm⟩

theorem Acts.set_power {F : List Part} {s a : State} {x0 : PowerSt} (h : Acts F s a)
    (m0 : F.contains .power = true)
    : Acts F s { a with power := x0 } := by
  refine ⟨fun p hp => ?_, fun hi => ?_⟩
  · cases p <;> first | exact h.same _ hp | exact absurd (m0.symm.trans hp) (by decide)
  · have k := h.inv hi
    exact ⟨k.regs, k.sched, k.ports, k.pipe, k.slots, k.tally, k.crown, k.peer, k.observe, k.log, k.hbm⟩

theorem Acts.set_tally {F : List Part} {s a : State} {x0 : TallySt} (h : Acts F s a)
    (m0 : F.contains .tally = true)
    (o0 : TallyOk a.tally → TallyOk x0)
    : Acts F s { a with tally := x0 } := by
  refine ⟨fun p hp => ?_, fun hi => ?_⟩
  · cases p <;> first | exact h.same _ hp | exact absurd (m0.symm.trans hp) (by decide)
  · have k := h.inv hi
    exact ⟨k.regs, k.sched, k.ports, k.pipe, k.slots, o0 k.tally, k.crown, k.peer, k.observe, k.log, k.hbm⟩

theorem Acts.set_secure {F : List Part} {s a : State} {x0 : SecureSt} (h : Acts F s a)
    (m0 : F.contains .secure = true)
    : Acts F s { a with secure := x0 } := by
  refine ⟨fun p hp => ?_, fun hi => ?_⟩
  · cases p <;> first | exact h.same _ hp | exact absurd (m0.symm.trans hp) (by decide)
  · have k := h.inv hi
    exact ⟨k.regs, k.sched, k.ports, k.pipe, k.slots, k.tally, k.crown, k.peer, k.observe, k.log, k.hbm⟩

theorem Acts.set_crown {F : List Part} {s a : State} {x0 : CrownSt} (h : Acts F s a)
    (m0 : F.contains .crown = true)
    (o0 : CrownOk a.crown → CrownOk x0)
    : Acts F s { a with crown := x0 } := by
  refine ⟨fun p hp => ?_, fun hi => ?_⟩
  · cases p <;> first | exact h.same _ hp | exact absurd (m0.symm.trans hp) (by decide)
  · have k := h.inv hi
    exact ⟨k.regs, k.sched, k.ports, k.pipe, k.slots, k.tally, o0 k.crown, k.peer, k.observe, k.log, k.hbm⟩

theorem Acts.set_peer {F : List Part} {s a : State} {x0 : PeerSt} (h : Acts F s a)
    (m0 : F.contains .peer = true)
    (o0 : PeerOk a.peer → PeerOk x0)
    : Acts F s { a with peer := x0 } := by
  refine ⟨fun p hp => ?_, fun hi => ?_⟩
  · cases p <;> first | exact h.same _ hp | exact absurd (m0.symm.trans hp) (by decide)
  · have k := h.inv hi
    exact ⟨k.regs, k.sched, k.ports, k.pipe, k.slots, k.tally, k.crown, o0 k.peer, k.observe, k.log, k.hbm⟩

theorem Acts.set_observe {F : List Part} {s a : State} {x0 : ObserveSt} (h : Acts F s a)
    (m0 : F.contains .observe = true)
    (o0 : ObserveOk a.observe → ObserveOk x0)
    : Acts F s { a with observe := x0 } := by
  refine ⟨fun p hp => ?_, fun hi => ?_⟩
  · cases p <;> first | exact h.same _ hp | exact absurd (m0.symm.trans hp) (by decide)
  · have k := h.inv hi
    exact ⟨k.regs, k.sched, k.ports, k.pipe, k.slots, k.tally, k.crown, k.peer, o0 k.observe, k.log, k.hbm⟩

theorem Acts.set_log {F : List Part} {s a : State} {x0 : LogSt} (h : Acts F s a)
    (m0 : F.contains .log = true)
    (o0 : LogOk a.log → LogOk x0)
    : Acts F s { a with log := x0 } := by
  refine ⟨fun p hp => ?_, fun hi => ?_⟩
  · cases p <;> first | exact h.same _ hp | exact absurd (m0.symm.trans hp) (by decide)
  · have k := h.inv hi
    exact ⟨k.regs, k.sched, k.ports, k.pipe, k.slots, k.tally, k.crown, k.peer, k.observe, o0 k.log, k.hbm⟩

theorem Acts.set_pins {F : List Part} {s a : State} {x0 : PinSt} (h : Acts F s a)
    (m0 : F.contains .pins = true)
    : Acts F s { a with pins := x0 } := by
  refine ⟨fun p hp => ?_, fun hi => ?_⟩
  · cases p <;> first | exact h.same _ hp | exact absurd (m0.symm.trans hp) (by decide)
  · have k := h.inv hi
    exact ⟨k.regs, k.sched, k.ports, k.pipe, k.slots, k.tally, k.crown, k.peer, k.observe, k.log, k.hbm⟩

theorem Acts.set_hbm {F : List Part} {s a : State} {x0 : Mem} (h : Acts F s a)
    (m0 : F.contains .hbm = true)
    (o0 : MemOk a.hbm → MemOk x0)
    : Acts F s { a with hbm := x0 } := by
  refine ⟨fun p hp => ?_, fun hi => ?_⟩
  · cases p <;> first | exact h.same _ hp | exact absurd (m0.symm.trans hp) (by decide)
  · have k := h.inv hi
    exact ⟨k.regs, k.sched, k.ports, k.pipe, k.slots, k.tally, k.crown, k.peer, k.observe, k.log, o0 k.hbm⟩

theorem Acts.set_out {F : List Part} {s a : State} {x0 : List Out} (h : Acts F s a)
    (m0 : F.contains .out = true)
    : Acts F s { a with out := x0 } := by
  refine ⟨fun p hp => ?_, fun hi => ?_⟩
  · cases p <;> first | exact h.same _ hp | exact absurd (m0.symm.trans hp) (by decide)
  · have k := h.inv hi
    exact ⟨k.regs, k.sched, k.ports, k.pipe, k.slots, k.tally, k.crown, k.peer, k.observe, k.log, k.hbm⟩

theorem Acts.set_noticeSeq {F : List Part} {s a : State} {x0 : Nat} (h : Acts F s a)
    (m0 : F.contains .noticeSeq = true)
    : Acts F s { a with noticeSeq := x0 } := by
  refine ⟨fun p hp => ?_, fun hi => ?_⟩
  · cases p <;> first | exact h.same _ hp | exact absurd (m0.symm.trans hp) (by decide)
  · have k := h.inv hi
    exact ⟨k.regs, k.sched, k.ports, k.pipe, k.slots, k.tally, k.crown, k.peer, k.observe, k.log, k.hbm⟩

theorem Acts.set_fresh {F : List Part} {s a : State} {x0 : Nat} (h : Acts F s a)
    (m0 : F.contains .fresh = true)
    : Acts F s { a with fresh := x0 } := by
  refine ⟨fun p hp => ?_, fun hi => ?_⟩
  · cases p <;> first | exact h.same _ hp | exact absurd (m0.symm.trans hp) (by decide)
  · have k := h.inv hi
    exact ⟨k.regs, k.sched, k.ports, k.pipe, k.slots, k.tally, k.crown, k.peer, k.observe, k.log, k.hbm⟩

theorem Acts.set_power_log_pins {F : List Part} {s a : State} {x0 : PowerSt} {x1 : LogSt} {x2 : PinSt} (h : Acts F s a)
    (m0 : F.contains .power = true) (m1 : F.contains .log = true) (m2 : F.contains .pins = true)
    (o1 : LogOk a.log → LogOk x1)
    : Acts F s { a with power := x0, log := x1, pins := x2 } := by
  refine ⟨fun p hp => ?_, fun hi => ?_⟩
  · cases p <;> first | exact h.same _ hp | exact absurd (m0.symm.trans hp) (by decide) | exact absurd (m1.symm.trans hp) (by decide) | exact absurd (m2.symm.trans hp) (by decide)
  · have k := h.inv hi
    exact ⟨k.regs, k.sched, k.ports, k.pipe, k.slots, k.tally, k.crown, k.peer, k.observe, o1 k.log, k.hbm⟩

theorem Acts.set_sched_pins {F : List Part} {s a : State} {x0 : SchedSt} {x1 : PinSt} (h : Acts F s a)
    (m0 : F.contains .sched = true) (m1 : F.contains .pins = true)
    (o0 : SchedOk a.sched → SchedOk x0)
    : Acts F s { a with sched := x0, pins := x1 } := by
  refine ⟨fun p hp => ?_, fun hi => ?_⟩
  · cases p <;> first | exact h.same _ hp | exact absurd (m0.symm.trans hp) (by decide) | exact absurd (m1.symm.trans hp) (by decide)
  · have k := h.inv hi
    exact ⟨k.regs, o0 k.sched, k.ports, k.pipe, k.slots, k.tally, k.crown, k.peer, k.observe, k.log, k.hbm⟩

theorem Acts.set_sched_power {F : List Part} {s a : State} {x0 : SchedSt} {x1 : PowerSt} (h : Acts F s a)
    (m0 : F.contains .sched = true) (m1 : F.contains .power = true)
    (o0 : SchedOk a.sched → SchedOk x0)
    : Acts F s { a with sched := x0, power := x1 } := by
  refine ⟨fun p hp => ?_, fun hi => ?_⟩
  · cases p <;> first | exact h.same _ hp | exact absurd (m0.symm.trans hp) (by decide) | exact absurd (m1.symm.trans hp) (by decide)
  · have k := h.inv hi
    exact ⟨k.regs, o0 k.sched, k.ports, k.pipe, k.slots, k.tally, k.crown, k.peer, k.observe, k.log, k.hbm⟩

theorem Acts.set_sched_pipe {F : List Part} {s a : State} {x0 : SchedSt} {x1 : PipeSt} (h : Acts F s a)
    (m0 : F.contains .sched = true) (m1 : F.contains .pipe = true)
    (o0 : SchedOk a.sched → SchedOk x0) (o1 : PipeOk a.pipe → PipeOk x1)
    : Acts F s { a with sched := x0, pipe := x1 } := by
  refine ⟨fun p hp => ?_, fun hi => ?_⟩
  · cases p <;> first | exact h.same _ hp | exact absurd (m0.symm.trans hp) (by decide) | exact absurd (m1.symm.trans hp) (by decide)
  · have k := h.inv hi
    exact ⟨k.regs, o0 k.sched, k.ports, o1 k.pipe, k.slots, k.tally, k.crown, k.peer, k.observe, k.log, k.hbm⟩

theorem Acts.set_flow_endpoint {F : List Part} {s a : State} {x0 : TableSt} {x1 : TableSt} (h : Acts F s a)
    (m0 : F.contains .flow = true) (m1 : F.contains .endpoint = true)
    : Acts F s { a with flow := x0, endpoint := x1 } := by
  refine ⟨fun p hp => ?_, fun hi => ?_⟩
  · cases p <;> first | exact h.same _ hp | exact absurd (m0.symm.trans hp) (by decide) | exact absurd (m1.symm.trans hp) (by decide)
  · have k := h.inv hi
    exact ⟨k.regs, k.sched, k.ports, k.pipe, k.slots, k.tally, k.crown, k.peer, k.observe, k.log, k.hbm⟩

theorem Acts.set_sched_secure_pins {F : List Part} {s a : State} {x0 : SchedSt} {x1 : SecureSt} {x2 : PinSt} (h : Acts F s a)
    (m0 : F.contains .sched = true) (m1 : F.contains .secure = true) (m2 : F.contains .pins = true)
    (o0 : SchedOk a.sched → SchedOk x0)
    : Acts F s { a with sched := x0, secure := x1, pins := x2 } := by
  refine ⟨fun p hp => ?_, fun hi => ?_⟩
  · cases p <;> first | exact h.same _ hp | exact absurd (m0.symm.trans hp) (by decide) | exact absurd (m1.symm.trans hp) (by decide) | exact absurd (m2.symm.trans hp) (by decide)
  · have k := h.inv hi
    exact ⟨k.regs, o0 k.sched, k.ports, k.pipe, k.slots, k.tally, k.crown, k.peer, k.observe, k.log, k.hbm⟩

theorem Acts.set_dial_power_secure_pins {F : List Part} {s a : State} {x0 : DialSt} {x1 : PowerSt} {x2 : SecureSt} {x3 : PinSt} (h : Acts F s a)
    (m0 : F.contains .dial = true) (m1 : F.contains .power = true) (m2 : F.contains .secure = true) (m3 : F.contains .pins = true)
    : Acts F s { a with dial := x0, power := x1, secure := x2, pins := x3 } := by
  refine ⟨fun p hp => ?_, fun hi => ?_⟩
  · cases p <;> first | exact h.same _ hp | exact absurd (m0.symm.trans hp) (by decide) | exact absurd (m1.symm.trans hp) (by decide) | exact absurd (m2.symm.trans hp) (by decide) | exact absurd (m3.symm.trans hp) (by decide)
  · have k := h.inv hi
    exact ⟨k.regs, k.sched, k.ports, k.pipe, k.slots, k.tally, k.crown, k.peer, k.observe, k.log, k.hbm⟩

theorem Acts.set_ports_pipe {F : List Part} {s a : State} {x0 : List PortSt} {x1 : PipeSt} (h : Acts F s a)
    (m0 : F.contains .ports = true) (m1 : F.contains .pipe = true)
    (o0 : PortsOk a.ports → PortsOk x0) (o1 : PipeOk a.pipe → PipeOk x1)
    : Acts F s { a with ports := x0, pipe := x1 } := by
  refine ⟨fun p hp => ?_, fun hi => ?_⟩
  · cases p <;> first | exact h.same _ hp | exact absurd (m0.symm.trans hp) (by decide) | exact absurd (m1.symm.trans hp) (by decide)
  · have k := h.inv hi
    exact ⟨k.regs, k.sched, o0 k.ports, o1 k.pipe, k.slots, k.tally, k.crown, k.peer, k.observe, k.log, k.hbm⟩

theorem Acts.set_slots_quant {F : List Part} {s a : State} {x0 : List SlotSt} {x1 : QuantSt} (h : Acts F s a)
    (m0 : F.contains .slots = true) (m1 : F.contains .quant = true)
    (o0 : SlotsOk a.slots → SlotsOk x0)
    : Acts F s { a with slots := x0, quant := x1 } := by
  refine ⟨fun p hp => ?_, fun hi => ?_⟩
  · cases p <;> first | exact h.same _ hp | exact absurd (m0.symm.trans hp) (by decide) | exact absurd (m1.symm.trans hp) (by decide)
  · have k := h.inv hi
    exact ⟨k.regs, k.sched, k.ports, k.pipe, o0 k.slots, k.tally, k.crown, k.peer, k.observe, k.log, k.hbm⟩

theorem Acts.set_sched_pipe_tally_secure_log_pins {F : List Part} {s a : State} {x0 : SchedSt} {x1 : PipeSt} {x2 : TallySt} {x3 : SecureSt} {x4 : LogSt} {x5 : PinSt} (h : Acts F s a)
    (m0 : F.contains .sched = true) (m1 : F.contains .pipe = true) (m2 : F.contains .tally = true) (m3 : F.contains .secure = true) (m4 : F.contains .log = true) (m5 : F.contains .pins = true)
    (o0 : SchedOk a.sched → SchedOk x0) (o1 : PipeOk a.pipe → PipeOk x1) (o2 : TallyOk a.tally → TallyOk x2) (o4 : LogOk a.log → LogOk x4)
    : Acts F s { a with sched := x0, pipe := x1, tally := x2, secure := x3, log := x4, pins := x5 } := by
  refine ⟨fun p hp => ?_, fun hi => ?_⟩
  · cases p <;> first | exact h.same _ hp | exact absurd (m0.symm.trans hp) (by decide) | exact absurd (m1.symm.trans hp) (by decide) | exact absurd (m2.symm.trans hp) (by decide) | exact absurd (m3.symm.trans hp) (by decide) | exact absurd (m4.symm.trans hp) (by decide) | exact absurd (m5.symm.trans hp) (by decide)
  · have k := h.inv hi
    exact ⟨k.regs, o0 k.sched, k.ports, o1 k.pipe, k.slots, o2 k.tally, k.crown, k.peer, k.observe, o4 k.log, k.hbm⟩

theorem Acts.set_power_pins {F : List Part} {s a : State} {x0 : PowerSt} {x1 : PinSt} (h : Acts F s a)
    (m0 : F.contains .power = true) (m1 : F.contains .pins = true)
    : Acts F s { a with power := x0, pins := x1 } := by
  refine ⟨fun p hp => ?_, fun hi => ?_⟩
  · cases p <;> first | exact h.same _ hp | exact absurd (m0.symm.trans hp) (by decide) | exact absurd (m1.symm.trans hp) (by decide)
  · have k := h.inv hi
    exact ⟨k.regs, k.sched, k.ports, k.pipe, k.slots, k.tally, k.crown, k.peer, k.observe, k.log, k.hbm⟩

theorem Acts.set_regs_ports {F : List Part} {s a : State} {x0 : Map Nat} {x1 : List PortSt} (h : Acts F s a)
    (m0 : F.contains .regs = true) (m1 : F.contains .ports = true)
    (o0 : RegsOk a.regs → RegsOk x0) (o1 : PortsOk a.ports → PortsOk x1)
    : Acts F s { a with regs := x0, ports := x1 } := by
  refine ⟨fun p hp => ?_, fun hi => ?_⟩
  · cases p <;> first | exact h.same _ hp | exact absurd (m0.symm.trans hp) (by decide) | exact absurd (m1.symm.trans hp) (by decide)
  · have k := h.inv hi
    exact ⟨o0 k.regs, k.sched, o1 k.ports, k.pipe, k.slots, k.tally, k.crown, k.peer, k.observe, k.log, k.hbm⟩

theorem Acts.set_sched_observe_log {F : List Part} {s a : State} {x0 : SchedSt} {x1 : ObserveSt} {x2 : LogSt} (h : Acts F s a)
    (m0 : F.contains .sched = true) (m1 : F.contains .observe = true) (m2 : F.contains .log = true)
    (o0 : SchedOk a.sched → SchedOk x0) (o1 : ObserveOk a.observe → ObserveOk x1) (o2 : LogOk a.log → LogOk x2)
    : Acts F s { a with sched := x0, observe := x1, log := x2 } := by
  refine ⟨fun p hp => ?_, fun hi => ?_⟩
  · cases p <;> first | exact h.same _ hp | exact absurd (m0.symm.trans hp) (by decide) | exact absurd (m1.symm.trans hp) (by decide) | exact absurd (m2.symm.trans hp) (by decide)
  · have k := h.inv hi
    exact ⟨k.regs, o0 k.sched, k.ports, k.pipe, k.slots, k.tally, k.crown, k.peer, o1 k.observe, o2 k.log, k.hbm⟩

theorem Acts.set_power_fresh {F : List Part} {s a : State} {x0 : PowerSt} {x1 : Nat} (h : Acts F s a)
    (m0 : F.contains .power = true) (m1 : F.contains .fresh = true)
    : Acts F s { a with power := x0, fresh := x1 } := by
  refine ⟨fun p hp => ?_, fun hi => ?_⟩
  · cases p <;> first | exact h.same _ hp | exact absurd (m0.symm.trans hp) (by decide) | exact absurd (m1.symm.trans hp) (by decide)
  · have k := h.inv hi
    exact ⟨k.regs, k.sched, k.ports, k.pipe, k.slots, k.tally, k.crown, k.peer, k.observe, k.log, k.hbm⟩

theorem Acts.set_front_pipe_slots_quant_power_peer_observe {F : List Part} {s a : State} {x0 : FrontSt} {x1 : PipeSt} {x2 : List SlotSt} {x3 : QuantSt} {x4 : PowerSt} {x5 : PeerSt} {x6 : ObserveSt} (h : Acts F s a)
    (m0 : F.contains .front = true) (m1 : F.contains .pipe = true) (m2 : F.contains .slots = true) (m3 : F.contains .quant = true) (m4 : F.contains .power = true) (m5 : F.contains .peer = true) (m6 : F.contains .observe = true)
    (o1 : PipeOk a.pipe → PipeOk x1) (o2 : SlotsOk a.slots → SlotsOk x2) (o5 : PeerOk a.peer → PeerOk x5) (o6 : ObserveOk a.observe → ObserveOk x6)
    : Acts F s { a with front := x0, pipe := x1, slots := x2, quant := x3, power := x4, peer := x5, observe := x6 } := by
  refine ⟨fun p hp => ?_, fun hi => ?_⟩
  · cases p <;> first | exact h.same _ hp | exact absurd (m0.symm.trans hp) (by decide) | exact absurd (m1.symm.trans hp) (by decide) | exact absurd (m2.symm.trans hp) (by decide) | exact absurd (m3.symm.trans hp) (by decide) | exact absurd (m4.symm.trans hp) (by decide) | exact absurd (m5.symm.trans hp) (by decide) | exact absurd (m6.symm.trans hp) (by decide)
  · have k := h.inv hi
    exact ⟨k.regs, k.sched, k.ports, o1 k.pipe, o2 k.slots, k.tally, k.crown, o5 k.peer, o6 k.observe, k.log, k.hbm⟩

theorem Acts.set_power_peer {F : List Part} {s a : State} {x0 : PowerSt} {x1 : PeerSt} (h : Acts F s a)
    (m0 : F.contains .power = true) (m1 : F.contains .peer = true)
    (o1 : PeerOk a.peer → PeerOk x1)
    : Acts F s { a with power := x0, peer := x1 } := by
  refine ⟨fun p hp => ?_, fun hi => ?_⟩
  · cases p <;> first | exact h.same _ hp | exact absurd (m0.symm.trans hp) (by decide) | exact absurd (m1.symm.trans hp) (by decide)
  · have k := h.inv hi
    exact ⟨k.regs, k.sched, k.ports, k.pipe, k.slots, k.tally, k.crown, o1 k.peer, k.observe, k.log, k.hbm⟩

theorem Acts.set_sched_front_secure {F : List Part} {s a : State} {x0 : SchedSt} {x1 : FrontSt} {x2 : SecureSt} (h : Acts F s a)
    (m0 : F.contains .sched = true) (m1 : F.contains .front = true) (m2 : F.contains .secure = true)
    (o0 : SchedOk a.sched → SchedOk x0)
    : Acts F s { a with sched := x0, front := x1, secure := x2 } := by
  refine ⟨fun p hp => ?_, fun hi => ?_⟩
  · cases p <;> first | exact h.same _ hp | exact absurd (m0.symm.trans hp) (by decide) | exact absurd (m1.symm.trans hp) (by decide) | exact absurd (m2.symm.trans hp) (by decide)
  · have k := h.inv hi
    exact ⟨k.regs, o0 k.sched, k.ports, k.pipe, k.slots, k.tally, k.crown, k.peer, k.observe, k.log, k.hbm⟩

theorem Acts.set_sched_secure {F : List Part} {s a : State} {x0 : SchedSt} {x1 : SecureSt} (h : Acts F s a)
    (m0 : F.contains .sched = true) (m1 : F.contains .secure = true)
    (o0 : SchedOk a.sched → SchedOk x0)
    : Acts F s { a with sched := x0, secure := x1 } := by
  refine ⟨fun p hp => ?_, fun hi => ?_⟩
  · cases p <;> first | exact h.same _ hp | exact absurd (m0.symm.trans hp) (by decide) | exact absurd (m1.symm.trans hp) (by decide)
  · have k := h.inv hi
    exact ⟨k.regs, o0 k.sched, k.ports, k.pipe, k.slots, k.tally, k.crown, k.peer, k.observe, k.log, k.hbm⟩

theorem Acts.set_observe_hbm {F : List Part} {s a : State} {x0 : ObserveSt} {x1 : Mem} (h : Acts F s a)
    (m0 : F.contains .observe = true) (m1 : F.contains .hbm = true)
    (o0 : ObserveOk a.observe → ObserveOk x0) (o1 : MemOk a.hbm → MemOk x1)
    : Acts F s { a with observe := x0, hbm := x1 } := by
  refine ⟨fun p hp => ?_, fun hi => ?_⟩
  · cases p <;> first | exact h.same _ hp | exact absurd (m0.symm.trans hp) (by decide) | exact absurd (m1.symm.trans hp) (by decide)
  · have k := h.inv hi
    exact ⟨k.regs, k.sched, k.ports, k.pipe, k.slots, k.tally, k.crown, k.peer, o0 k.observe, k.log, o1 k.hbm⟩

theorem Acts.set_observe_fresh {F : List Part} {s a : State} {x0 : ObserveSt} {x1 : Nat} (h : Acts F s a)
    (m0 : F.contains .observe = true) (m1 : F.contains .fresh = true)
    (o0 : ObserveOk a.observe → ObserveOk x0)
    : Acts F s { a with observe := x0, fresh := x1 } := by
  refine ⟨fun p hp => ?_, fun hi => ?_⟩
  · cases p <;> first | exact h.same _ hp | exact absurd (m0.symm.trans hp) (by decide) | exact absurd (m1.symm.trans hp) (by decide)
  · have k := h.inv hi
    exact ⟨k.regs, k.sched, k.ports, k.pipe, k.slots, k.tally, k.crown, k.peer, o0 k.observe, k.log, k.hbm⟩

theorem Acts.set_dial_tally {F : List Part} {s a : State} {x0 : DialSt} {x1 : TallySt} (h : Acts F s a)
    (m0 : F.contains .dial = true) (m1 : F.contains .tally = true)
    (o1 : TallyOk a.tally → TallyOk x1)
    : Acts F s { a with dial := x0, tally := x1 } := by
  refine ⟨fun p hp => ?_, fun hi => ?_⟩
  · cases p <;> first | exact h.same _ hp | exact absurd (m0.symm.trans hp) (by decide) | exact absurd (m1.symm.trans hp) (by decide)
  · have k := h.inv hi
    exact ⟨k.regs, k.sched, k.ports, k.pipe, k.slots, o1 k.tally, k.crown, k.peer, k.observe, k.log, k.hbm⟩

theorem Acts.set_sched_slots {F : List Part} {s a : State} {x0 : SchedSt} {x1 : List SlotSt} (h : Acts F s a)
    (m0 : F.contains .sched = true) (m1 : F.contains .slots = true)
    (o0 : SchedOk a.sched → SchedOk x0) (o1 : SlotsOk a.slots → SlotsOk x1)
    : Acts F s { a with sched := x0, slots := x1 } := by
  refine ⟨fun p hp => ?_, fun hi => ?_⟩
  · cases p <;> first | exact h.same _ hp | exact absurd (m0.symm.trans hp) (by decide) | exact absurd (m1.symm.trans hp) (by decide)
  · have k := h.inv hi
    exact ⟨k.regs, o0 k.sched, k.ports, k.pipe, o1 k.slots, k.tally, k.crown, k.peer, k.observe, k.log, k.hbm⟩

theorem Acts.set_crown_peer {F : List Part} {s a : State} {x0 : CrownSt} {x1 : PeerSt} (h : Acts F s a)
    (m0 : F.contains .crown = true) (m1 : F.contains .peer = true)
    (o0 : CrownOk a.crown → CrownOk x0) (o1 : PeerOk a.peer → PeerOk x1)
    : Acts F s { a with crown := x0, peer := x1 } := by
  refine ⟨fun p hp => ?_, fun hi => ?_⟩
  · cases p <;> first | exact h.same _ hp | exact absurd (m0.symm.trans hp) (by decide) | exact absurd (m1.symm.trans hp) (by decide)
  · have k := h.inv hi
    exact ⟨k.regs, k.sched, k.ports, k.pipe, k.slots, k.tally, o0 k.crown, o1 k.peer, k.observe, k.log, k.hbm⟩

theorem Acts.set_secure_pins {F : List Part} {s a : State} {x0 : SecureSt} {x1 : PinSt} (h : Acts F s a)
    (m0 : F.contains .secure = true) (m1 : F.contains .pins = true)
    : Acts F s { a with secure := x0, pins := x1 } := by
  refine ⟨fun p hp => ?_, fun hi => ?_⟩
  · cases p <;> first | exact h.same _ hp | exact absurd (m0.symm.trans hp) (by decide) | exact absurd (m1.symm.trans hp) (by decide)
  · have k := h.inv hi
    exact ⟨k.regs, k.sched, k.ports, k.pipe, k.slots, k.tally, k.crown, k.peer, k.observe, k.log, k.hbm⟩

theorem Acts.set_pipe_observe_pins {F : List Part} {s a : State} {x0 : PipeSt} {x1 : ObserveSt} {x2 : PinSt} (h : Acts F s a)
    (m0 : F.contains .pipe = true) (m1 : F.contains .observe = true) (m2 : F.contains .pins = true)
    (o0 : PipeOk a.pipe → PipeOk x0) (o1 : ObserveOk a.observe → ObserveOk x1)
    : Acts F s { a with pipe := x0, observe := x1, pins := x2 } := by
  refine ⟨fun p hp => ?_, fun hi => ?_⟩
  · cases p <;> first | exact h.same _ hp | exact absurd (m0.symm.trans hp) (by decide) | exact absurd (m1.symm.trans hp) (by decide) | exact absurd (m2.symm.trans hp) (by decide)
  · have k := h.inv hi
    exact ⟨k.regs, k.sched, k.ports, o0 k.pipe, k.slots, k.tally, k.crown, k.peer, o1 k.observe, k.log, k.hbm⟩

/-! ## Updates of the parts that the invariant speaks of -/

theorem CrownOk.keep_captures (y : CrownSt) (v0 : _) :
    CrownOk y → CrownOk { y with captures := v0 } := by
  intro h
  exact h

theorem CrownOk.keep_jobs (y : CrownSt) (v0 : _) :
    CrownOk y → CrownOk { y with jobs := v0 } := by
  intro h
  exact h

theorem CrownOk.keep_jobs_retired_captures (y : CrownSt) (v0 : _) (v1 : _) (v2 : _) (k1 : y.retired.length ≤ 4096 → v1.length ≤ 4096) :
    CrownOk y → CrownOk { y with jobs := v0, retired := v1, captures := v2 } := by
  intro h
  exact k1 h

theorem CrownOk.keep_lastQueue (y : CrownSt) (v0 : _) :
    CrownOk y → CrownOk { y with lastQueue := v0 } := by
  intro h
  exact h

theorem CrownOk.keep_neighbours (y : CrownSt) (v0 : _) :
    CrownOk y → CrownOk { y with neighbours := v0 } := by
  intro h
  exact h

theorem CrownOk.keep_posts_jobs (y : CrownSt) (v0 : _) (v1 : _) :
    CrownOk y → CrownOk { y with posts := v0, jobs := v1 } := by
  intro h
  exact h

theorem CrownOk.keep_router6 (y : CrownSt) (v0 : _) :
    CrownOk y → CrownOk { y with router6 := v0 } := by
  intro h
  exact h

theorem CrownOk.keep_sessions (y : CrownSt) (v0 : _) :
    CrownOk y → CrownOk { y with sessions := v0 } := by
  intro h
  exact h

theorem CrownOk.keep_sessions_nextSerial (y : CrownSt) (v0 : _) (v1 : _) :
    CrownOk y → CrownOk { y with sessions := v0, nextSerial := v1 } := by
  intro h
  exact h

theorem LogOk.keep_clearDue (y : LogSt) (v0 : _) :
    LogOk y → LogOk { y with clearDue := v0 } := by
  intro h
  exact h

theorem LogOk.keep_coldResets_due_sector_sectors_base (y : LogSt) (v0 : _) (v1 : _) (v2 : _) (v3 : _) (v4 : _) :
    LogOk y → LogOk { y with coldResets := v0, due := v1, sector := v2, sectors := v3, base := v4 } := by
  intro h
  exact h

theorem LogOk.keep_due (y : LogSt) (v0 : _) :
    LogOk y → LogOk { y with due := v0 } := by
  intro h
  exact h

theorem LogOk.keep_failedEvents_due (y : LogSt) (v0 : _) (v1 : _) :
    LogOk y → LogOk { y with failedEvents := v0, due := v1 } := by
  intro h
  exact h

theorem LogOk.keep_faults (y : LogSt) (v0 : _) :
    LogOk y → LogOk { y with faults := v0 } := by
  intro h
  exact h

theorem LogOk.keep_intervalLeft (y : LogSt) (v0 : _) :
    LogOk y → LogOk { y with intervalLeft := v0 } := by
  intro h
  exact h

theorem LogOk.keep_powerOnS_pointHist_tempHist_intervalLeft (y : LogSt) (v0 : _) (v1 : _) (v2 : _) (v3 : _) :
    LogOk y → LogOk { y with powerOnS := v0, pointHist := v1, tempHist := v2, intervalLeft := v3 } := by
  intro h
  exact h

theorem LogOk.keep_sector (y : LogSt) (v0 : _) :
    LogOk y → LogOk { y with sector := v0 } := by
  intro h
  exact h

theorem LogOk.keep_seq_due_clearDue_record (y : LogSt) (v0 : _) (v1 : _) (v2 : _) (v3 : _) :
    LogOk y → LogOk { y with seq := v0, due := v1, clearDue := v2, record := v3 } := by
  intro h
  exact h

theorem LogOk.keep_trips_tripLog_due (y : LogSt) (v0 : _) (v1 : _) (v2 : _) (k1 : y.tripLog.length ≤ 8 → v1.length ≤ 8) :
    LogOk y → LogOk { y with trips := v0, tripLog := v1, due := v2 } := by
  intro h
  exact k1 h

theorem LogOk.keep_warmRestarts (y : LogSt) (v0 : _) :
    LogOk y → LogOk { y with warmRestarts := v0 } := by
  intro h
  exact h

theorem ObserveOk.keep_barrierWaits (y : ObserveSt) (v0 : _) :
    ObserveOk y → ObserveOk { y with barrierWaits := v0 } := by
  intro h
  exact ⟨h.1, h.2.1, h.2.2⟩

theorem ObserveOk.keep_channelFaults (y : ObserveSt) (v0 : _) :
    ObserveOk y → ObserveOk { y with channelFaults := v0 } := by
  intro h
  exact ⟨h.1, h.2.1, h.2.2⟩

theorem ObserveOk.keep_dump_dumpOpen (y : ObserveSt) (v0 : _) (v1 : _) (k0 : MemOk y.dump → MemOk v0) :
    ObserveOk y → ObserveOk { y with dump := v0, dumpOpen := v1 } := by
  intro h
  exact ⟨k0 h.1, h.2.1, h.2.2⟩

theorem ObserveOk.keep_dumpOpen_hangs (y : ObserveSt) (v0 : _) (v1 : _) :
    ObserveOk y → ObserveOk { y with dumpOpen := v0, hangs := v1 } := by
  intro h
  exact ⟨h.1, h.2.1, h.2.2⟩

theorem ObserveOk.keep_failing (y : ObserveSt) (v0 : _) :
    ObserveOk y → ObserveOk { y with failing := v0 } := by
  intro h
  exact ⟨h.1, h.2.1, h.2.2⟩

theorem ObserveOk.keep_hangs (y : ObserveSt) (v0 : _) :
    ObserveOk y → ObserveOk { y with hangs := v0 } := by
  intro h
  exact ⟨h.1, h.2.1, h.2.2⟩

theorem ObserveOk.keep_hbmTransfers (y : ObserveSt) (v0 : _) :
    ObserveOk y → ObserveOk { y with hbmTransfers := v0 } := by
  intro h
  exact ⟨h.1, h.2.1, h.2.2⟩

theorem ObserveOk.keep_hbmTransfers_tagWaits_barrierWaits (y : ObserveSt) (v0 : _) (v1 : _) (v2 : _) :
    ObserveOk y → ObserveOk { y with hbmTransfers := v0, tagWaits := v1, barrierWaits := v2 } := by
  intro h
  exact ⟨h.1, h.2.1, h.2.2⟩

theorem ObserveOk.keep_lostSince (y : ObserveSt) (v0 : _) :
    ObserveOk y → ObserveOk { y with lostSince := v0 } := by
  intro h
  exact ⟨h.1, h.2.1, h.2.2⟩

theorem ObserveOk.keep_runLost (y : ObserveSt) (v0 : _) :
    ObserveOk y → ObserveOk { y with runLost := v0 } := by
  intro h
  exact ⟨h.1, h.2.1, h.2.2⟩

theorem ObserveOk.keep_runLost_runSeq (y : ObserveSt) (v0 : _) (v1 : _) :
    ObserveOk y → ObserveOk { y with runLost := v0, runSeq := v1 } := by
  intro h
  exact ⟨h.1, h.2.1, h.2.2⟩

theorem ObserveOk.keep_runSeq (y : ObserveSt) (v0 : _) :
    ObserveOk y → ObserveOk { y with runSeq := v0 } := by
  intro h
  exact ⟨h.1, h.2.1, h.2.2⟩

theorem ObserveOk.keep_snapBeat (y : ObserveSt) (v0 : _) :
    ObserveOk y → ObserveOk { y with snapBeat := v0 } := by
  intro h
  exact ⟨h.1, h.2.1, h.2.2⟩

theorem ObserveOk.keep_snapshots (y : ObserveSt) (v0 : _) (k0 : y.snapshots.length ≤ 4 → v0.length ≤ 4) :
    ObserveOk y → ObserveOk { y with snapshots := v0 } := by
  intro h
  exact ⟨h.1, h.2.1, k0 h.2.2⟩

theorem ObserveOk.keep_snapshots_runLost (y : ObserveSt) (v0 : _) (v1 : _) (k0 : y.snapshots.length ≤ 4 → v0.length ≤ 4) :
    ObserveOk y → ObserveOk { y with snapshots := v0, runLost := v1 } := by
  intro h
  exact ⟨h.1, h.2.1, k0 h.2.2⟩

theorem ObserveOk.keep_startReq (y : ObserveSt) (v0 : _) :
    ObserveOk y → ObserveOk { y with startReq := v0 } := by
  intro h
  exact ⟨h.1, h.2.1, h.2.2⟩

theorem ObserveOk.keep_tagWaits (y : ObserveSt) (v0 : _) :
    ObserveOk y → ObserveOk { y with tagWaits := v0 } := by
  intro h
  exact ⟨h.1, h.2.1, h.2.2⟩

theorem ObserveOk.keep_trace (y : ObserveSt) (v0 : _) (k0 : y.trace.length ≤ traceCapacity → v0.length ≤ traceCapacity) :
    ObserveOk y → ObserveOk { y with trace := v0 } := by
  intro h
  exact ⟨h.1, k0 h.2.1, h.2.2⟩

theorem ObserveOk.keep_trace_lostSince (y : ObserveSt) (v0 : _) (v1 : _) (k0 : y.trace.length ≤ traceCapacity → v0.length ≤ traceCapacity) :
    ObserveOk y → ObserveOk { y with trace := v0, lostSince := v1 } := by
  intro h
  exact ⟨h.1, k0 h.2.1, h.2.2⟩

theorem PeerOk.keep_buffers (y : PeerSt) (v0 : _) (k0 : y.buffers.length ≤ 16 → v0.length ≤ 16) :
    PeerOk y → PeerOk { y with buffers := v0 } := by
  intro h
  exact ⟨h.1, k0 h.2⟩

theorem PeerOk.keep_distRx (y : PeerSt) (v0 : _) :
    PeerOk y → PeerOk { y with distRx := v0 } := by
  intro h
  exact ⟨h.1, h.2⟩

theorem PeerOk.keep_distTx (y : PeerSt) (v0 : _) :
    PeerOk y → PeerOk { y with distTx := v0 } := by
  intro h
  exact ⟨h.1, h.2⟩

theorem PeerOk.keep_distTx_distRx (y : PeerSt) (v0 : _) (v1 : _) :
    PeerOk y → PeerOk { y with distTx := v0, distRx := v1 } := by
  intro h
  exact ⟨h.1, h.2⟩

theorem PeerOk.keep_links (y : PeerSt) (v0 : _) (k0 : y.links.length = 4 → v0.length = 4) :
    PeerOk y → PeerOk { y with links := v0 } := by
  intro h
  exact ⟨k0 h.1, h.2⟩

theorem PeerOk.keep_nextMessage_distTx (y : PeerSt) (v0 : _) (v1 : _) :
    PeerOk y → PeerOk { y with nextMessage := v0, distTx := v1 } := by
  intro h
  exact ⟨h.1, h.2⟩

theorem PeerOk.keep_nextMessage_relays_remoteJobs (y : PeerSt) (v0 : _) (v1 : _) (v2 : _) :
    PeerOk y → PeerOk { y with nextMessage := v0, relays := v1, remoteJobs := v2 } := by
  intro h
  exact ⟨h.1, h.2⟩

theorem PeerOk.keep_parts (y : PeerSt) (v0 : _) :
    PeerOk y → PeerOk { y with parts := v0 } := by
  intro h
  exact ⟨h.1, h.2⟩

theorem PeerOk.keep_relayWait (y : PeerSt) (v0 : _) :
    PeerOk y → PeerOk { y with relayWait := v0 } := by
  intro h
  exact ⟨h.1, h.2⟩

theorem PeerOk.keep_relays (y : PeerSt) (v0 : _) :
    PeerOk y → PeerOk { y with relays := v0 } := by
  intro h
  exact ⟨h.1, h.2⟩

theorem PeerOk.keep_remoteJobs (y : PeerSt) (v0 : _) :
    PeerOk y → PeerOk { y with remoteJobs := v0 } := by
  intro h
  exact ⟨h.1, h.2⟩

theorem PipeOk.keep_arrivals (y : PipeSt) (v0 : _) :
    PipeOk y → PipeOk { y with arrivals := v0 } := by
  intro h
  exact h

theorem PipeOk.keep_batches (y : PipeSt) (v0 : _) :
    PipeOk y → PipeOk { y with batches := v0 } := by
  intro h
  exact h

theorem PipeOk.keep_batches_flights (y : PipeSt) (v0 : _) (v1 : _) (k1 : y.flights.length ≤ 2048 → v1.length ≤ 2048) :
    PipeOk y → PipeOk { y with batches := v0, flights := v1 } := by
  intro h
  exact k1 h

theorem PipeOk.keep_batches_flights_nextTag_retiredBeat_arrivals (y : PipeSt) (v0 : _) (v1 : _) (v2 : _) (v3 : _) (v4 : _) (k1 : y.flights.length ≤ 2048 → v1.length ≤ 2048) :
    PipeOk y → PipeOk { y with batches := v0, flights := v1, nextTag := v2, retiredBeat := v3, arrivals := v4 } := by
  intro h
  exact k1 h

theorem PipeOk.keep_flights (y : PipeSt) (v0 : _) (k0 : y.flights.length ≤ 2048 → v0.length ≤ 2048) :
    PipeOk y → PipeOk { y with flights := v0 } := by
  intro h
  exact k0 h

theorem PipeOk.keep_flights_nextTag (y : PipeSt) (v0 : _) (v1 : _) (k0 : y.flights.length ≤ 2048 → v0.length ≤ 2048) :
    PipeOk y → PipeOk { y with flights := v0, nextTag := v1 } := by
  intro h
  exact k0 h

theorem PipeOk.keep_flights_retiredBeat (y : PipeSt) (v0 : _) (v1 : _) (k0 : y.flights.length ≤ 2048 → v0.length ≤ 2048) :
    PipeOk y → PipeOk { y with flights := v0, retiredBeat := v1 } := by
  intro h
  exact k0 h

theorem SchedOk.keep_acts (y : SchedSt) (v0 : _) :
    SchedOk y → SchedOk { y with acts := v0 } := by
  intro h
  exact h

theorem SchedOk.keep_acts_nextGrants_decided_capW_capNext (y : SchedSt) (v0 : _) (v1 : _) (v2 : _) (v3 : _) (v4 : _) :
    SchedOk y → SchedOk { y with acts := v0, nextGrants := v1, decided := v2, capW := v3, capNext := v4 } := by
  intro h
  exact h

theorem SchedOk.keep_admitting_restart (y : SchedSt) (v0 : _) (v1 : _) :
    SchedOk y → SchedOk { y with admitting := v0, restart := v1 } := by
  intro h
  exact h

theorem SchedOk.keep_again (y : SchedSt) (v0 : _) :
    SchedOk y → SchedOk { y with again := v0 } := by
  intro h
  exact h

theorem SchedOk.keep_capW (y : SchedSt) (v0 : _) :
    SchedOk y → SchedOk { y with capW := v0 } := by
  intro h
  exact h

theorem SchedOk.keep_caughtUp (y : SchedSt) (v0 : _) :
    SchedOk y → SchedOk { y with caughtUp := v0 } := by
  intro h
  exact h

theorem SchedOk.keep_chosen (y : SchedSt) (v0 : _) :
    SchedOk y → SchedOk { y with chosen := v0 } := by
  intro h
  exact h

theorem SchedOk.keep_frozen (y : SchedSt) (v0 : _) :
    SchedOk y → SchedOk { y with frozen := v0 } := by
  intro h
  exact h

theorem SchedOk.keep_frozen_capNext (y : SchedSt) (v0 : _) (v1 : _) :
    SchedOk y → SchedOk { y with frozen := v0, capNext := v1 } := by
  intro h
  exact h

theorem SchedOk.keep_genDue (y : SchedSt) (v0 : _) :
    SchedOk y → SchedOk { y with genDue := v0 } := by
  intro h
  exact h

theorem SchedOk.keep_loaded (y : SchedSt) (v0 : _) :
    SchedOk y → SchedOk { y with loaded := v0 } := by
  intro h
  exact h

theorem SchedOk.keep_nextGrants_decided (y : SchedSt) (v0 : _) (v1 : _) :
    SchedOk y → SchedOk { y with nextGrants := v0, decided := v1 } := by
  intro h
  exact h

theorem SchedOk.keep_order (y : SchedSt) (v0 : _) :
    SchedOk y → SchedOk { y with order := v0 } := by
  intro h
  exact h

theorem SchedOk.keep_restart (y : SchedSt) (v0 : _) :
    SchedOk y → SchedOk { y with restart := v0 } := by
  intro h
  exact h

theorem SchedOk.keep_restart_again (y : SchedSt) (v0 : _) (v1 : _) :
    SchedOk y → SchedOk { y with restart := v0, again := v1 } := by
  intro h
  exact h

theorem SchedOk.keep_restart_genDue (y : SchedSt) (v0 : _) (v1 : _) :
    SchedOk y → SchedOk { y with restart := v0, genDue := v1 } := by
  intro h
  exact h

theorem SchedOk.keep_restart_readyBeat (y : SchedSt) (v0 : _) (v1 : _) :
    SchedOk y → SchedOk { y with restart := v0, readyBeat := v1 } := by
  intro h
  exact h

theorem SchedOk.keep_running_acts_nextGrants_decided_admitting_caughtUp (y : SchedSt) (v0 : _) (v1 : _) (v2 : _) (v3 : _) (v4 : _) (v5 : _) :
    SchedOk y → SchedOk { y with running := v0, acts := v1, nextGrants := v2, decided := v3, admitting := v4, caughtUp := v5 } := by
  intro h
  exact h

theorem SchedOk.keep_running_chosen_admitting_restart (y : SchedSt) (v0 : _) (v1 : _) (v2 : _) (v3 : _) :
    SchedOk y → SchedOk { y with running := v0, chosen := v1, admitting := v2, restart := v3 } := by
  intro h
  exact h

theorem SchedOk.keep_shapeSet (y : SchedSt) (v0 : _) :
    SchedOk y → SchedOk { y with shapeSet := v0 } := by
  intro h
  exact h

theorem SchedOk.keep_spare_spareLen (y : SchedSt) (v0 : _) (v1 : _) (k0 : MemOk y.spare → MemOk v0) :
    SchedOk y → SchedOk { y with spare := v0, spareLen := v1 } := by
  intro h
  exact k0 h

theorem SchedOk.keep_unitNo (y : SchedSt) (v0 : _) :
    SchedOk y → SchedOk { y with unitNo := v0 } := by
  intro h
  exact h

theorem SchedOk.keep_workShape (y : SchedSt) (v0 : _) :
    SchedOk y → SchedOk { y with workShape := v0 } := by
  intro h
  exact h

theorem TallyOk.keep_adaptKeys (y : TallySt) (v0 : _) :
    TallyOk y → TallyOk { y with adaptKeys := v0 } := by
  intro h
  exact h

theorem TallyOk.keep_carry_seq_prevHash (y : TallySt) (v0 : _) (v1 : _) (v2 : _) :
    TallyOk y → TallyOk { y with carry := v0, seq := v1, prevHash := v2 } := by
  intro h
  exact h

theorem TallyOk.keep_collected (y : TallySt) (v0 : _) :
    TallyOk y → TallyOk { y with collected := v0 } := by
  intro h
  exact h

theorem TallyOk.keep_computeKeys (y : TallySt) (v0 : _) :
    TallyOk y → TallyOk { y with computeKeys := v0 } := by
  intro h
  exact h

theorem TallyOk.keep_cutPeriod (y : TallySt) (v0 : _) :
    TallyOk y → TallyOk { y with cutPeriod := v0 } := by
  intro h
  exact h

theorem TallyOk.keep_frozen (y : TallySt) (v0 : _) :
    TallyOk y → TallyOk { y with frozen := v0 } := by
  intro h
  exact h

theorem TallyOk.keep_frozen_levelsDone (y : TallySt) (v0 : _) (v1 : _) :
    TallyOk y → TallyOk { y with frozen := v0, levelsDone := v1 } := by
  intro h
  exact h

theorem TallyOk.keep_headKeys (y : TallySt) (v0 : _) :
    TallyOk y → TallyOk { y with headKeys := v0 } := by
  intro h
  exact h

theorem TallyOk.keep_headKeys_computeKeys_adaptKeys_memKeys_linkJobs (y : TallySt) (v0 : _) (v1 : _) (v2 : _) (v3 : _) (v4 : _) :
    TallyOk y → TallyOk { y with headKeys := v0, computeKeys := v1, adaptKeys := v2, memKeys := v3, linkJobs := v4 } := by
  intro h
  exact h

theorem TallyOk.keep_levelsDone (y : TallySt) (v0 : _) :
    TallyOk y → TallyOk { y with levelsDone := v0 } := by
  intro h
  exact h

theorem TallyOk.keep_linkJobs (y : TallySt) (v0 : _) :
    TallyOk y → TallyOk { y with linkJobs := v0 } := by
  intro h
  exact h

theorem TallyOk.keep_memKeys (y : TallySt) (v0 : _) :
    TallyOk y → TallyOk { y with memKeys := v0 } := by
  intro h
  exact h

theorem TallyOk.keep_open (y : TallySt) (v0 : _) :
    TallyOk y → TallyOk { y with open_ := v0 } := by
  intro h
  exact h

theorem TallyOk.keep_open_frozen (y : TallySt) (v0 : _) (v1 : _) :
    TallyOk y → TallyOk { y with open_ := v0, frozen := v1 } := by
  intro h
  exact h

theorem TallyOk.keep_restartNow (y : TallySt) (v0 : _) :
    TallyOk y → TallyOk { y with restartNow := v0 } := by
  intro h
  exact h

theorem TallyOk.keep_ring (y : TallySt) (v0 : _) (k0 : y.ring.length ≤ 64 → v0.length ≤ 64) :
    TallyOk y → TallyOk { y with ring := v0 } := by
  intro h
  exact k0 h

end Sys2Proof.Machine
end

