-- ==== Sys2Proof/Laws/Memory.lean ====
section
/-! SUPPORT. The laws of byte memory, of sparse tables and of the register store: a read after a write, other places left alone,
and the canonical form kept by every operation. -/

namespace Sys2Proof.Machine

/-! ## Sparse tables -/

theorem Map.get?_set {α : Type} (m : Map α) (k j : Nat) (v : α) :
    Map.get? (Map.set m k v) j = if j = k then some v else Map.get? m j := by
  induction m with
  | nil => by_cases h : k = j <;> simp [Map.set, Map.get?, h, eq_comm]
  | cons p m ih =>
    obtain ⟨a, w⟩ := p
    unfold Map.set
    split
    · by_cases h : k = j <;> simp [Map.get?, h, eq_comm]
    · split
      · next _ hk =>
        subst hk
        by_cases h : k = j <;> simp [Map.get?, h, eq_comm]
      · next h1 h2 =>
        by_cases h : a = j
        · subst h
          simp [Map.get?, Ne.symm h2]
        · simp [Map.get?, h, ih]

theorem Map.get?_erase {α : Type} (m : Map α) (k j : Nat) :
    Map.get? (Map.erase m k) j = if j = k then none else Map.get? m j := by
  induction m with
  | nil => simp [Map.erase, Map.get?]
  | cons p m ih =>
    obtain ⟨a, w⟩ := p
    unfold Map.erase at *
    by_cases h : a = k
    · subst h
      simp only [List.filter, bne_self_eq_false, ih]
      by_cases h2 : j = a
      · simp [h2]
      · simp [h2, Map.get?, Ne.symm h2]
    · have : (a != k) = true := by simpa using h
      simp only [List.filter, this, Map.get?, ih]
      by_cases h2 : a = j
      · subst h2
        simp [h]
      · simp [h2]

theorem Map.getD_put {α : Type} [DecidableEq α] (m : Map α) (k j : Nat) (v d : α) :
    Map.getD (Map.put m k v d) j d = if j = k then v else Map.getD m j d := by
  unfold Map.put Map.getD
  split
  · next h =>
    rw [Map.get?_erase]
    by_cases h2 : j = k <;> simp [h2, h]
  · rw [Map.get?_set]
    by_cases h2 : j = k <;> simp [h2]

theorem Map.getD_put_ne {α : Type} [DecidableEq α] (m : Map α) (k j : Nat) (v d e : α) (h : j ≠ k) :
    Map.getD (Map.put m k v d) j e = Map.getD m j e := by
  unfold Map.put Map.getD
  split
  · rw [Map.get?_erase, if_neg h]
  · rw [Map.get?_set, if_neg h]

theorem Map.sorted_cons {α : Type} {a : Nat} {v : α} {m : Map α} :
    Map.sorted ((a, v) :: m) = true ↔ (∀ p ∈ m.head?, a < p.1) ∧ Map.sorted m = true := by
  cases m with
  | nil => simp [Map.sorted]
  | cons p m =>
    obtain ⟨b, w⟩ := p
    simp [Map.sorted]

theorem Map.sorted_iff {α : Type} (m : Map α) : Map.sorted m = true ↔ m.Pairwise fun p q => p.1 < q.1 := by
  induction m with
  | nil => simp [Map.sorted]
  | cons p m ih =>
    obtain ⟨a, v⟩ := p
    rw [Map.sorted_cons, ih, List.pairwise_cons]
    constructor
    · rintro ⟨h1, h2⟩
      refine ⟨fun q hq => ?_, h2⟩
      cases m with
      | nil => cases hq
      | cons r m =>
        have hr : a < r.1 := h1 r (by simp)
        rcases List.mem_cons.mp hq with rfl | hq
        · exact hr
        · exact Nat.lt_trans hr ((List.pairwise_cons.mp h2).1 q hq)
    · rintro ⟨h1, h2⟩
      refine ⟨fun p hp => h1 p ?_, h2⟩
      cases m with
      | nil => simp at hp
      | cons r m => simp at hp; simp [hp]

theorem Map.head?_set {α : Type} (m : Map α) (k : Nat) (v : α) {p : Nat × α} (h : p ∈ (Map.set m k v).head?) :
    p.1 = k ∨ p ∈ m.head? := by
  cases m with
  | nil => simp [Map.set] at h; simp [← h]
  | cons q m =>
    obtain ⟨a, w⟩ := q
    unfold Map.set at h
    split at h
    · simp at h; simp [← h]
    · split at h
      · simp at h; simp [← h]
      · right; simpa using h

theorem Map.sorted_set {α : Type} {m : Map α} (k : Nat) (v : α) (h : Map.sorted m = true) : Map.sorted (Map.set m k v) = true := by
  induction m with
  | nil => simp [Map.set, Map.sorted]
  | cons p m ih =>
    obtain ⟨a, w⟩ := p
    unfold Map.set
    split
    · next hk => simp [Map.sorted, hk, h]
    · split
      · next hk => subst hk; rw [Map.sorted_cons] at *; exact h
      · next h1 h2 =>
        rw [Map.sorted_cons] at *
        refine ⟨fun p hp => ?_, ih h.2⟩
        rcases Map.head?_set _ _ _ hp with e | e
        · omega
        · exact h.1 p e

theorem Map.sorted_filter {α : Type} {m : Map α} (f : Nat × α → Bool) (h : Map.sorted m = true) :
    Map.sorted (m.filter f) = true := by
  rw [Map.sorted_iff] at *
  exact h.filter f

theorem Map.sorted_erase {α : Type} {m : Map α} (k : Nat) (h : Map.sorted m = true) : Map.sorted (Map.erase m k) = true :=
  Map.sorted_filter _ h

theorem Map.sorted_put {α : Type} [DecidableEq α] {m : Map α} (k : Nat) (v d : α) (h : Map.sorted m = true) :
    Map.sorted (Map.put m k v d) = true := by
  unfold Map.put
  split
  · exact Map.sorted_erase k h
  · exact Map.sorted_set k v h

/-! ## Byte memory -/

theorem Mem.wf_cons {a : Nat} {v : BitVec 8} {m : Mem} :
    Mem.wf ((a, v) :: m) = true ↔ (∀ p ∈ m.head?, a < p.1) ∧ v ≠ Mem.unlisted ∧ Mem.wf m = true := by
  cases m with
  | nil => simp [Mem.wf]
  | cons p m =>
    obtain ⟨b, w⟩ := p
    simp [Mem.wf, and_assoc]

theorem Mem.wf_iff (m : Mem) :
    Mem.wf m = true ↔ m.Pairwise (fun p q => p.1 < q.1) ∧ ∀ p ∈ m, p.2 ≠ Mem.unlisted := by
  induction m with
  | nil => simp [Mem.wf]
  | cons p m ih =>
    obtain ⟨a, v⟩ := p
    rw [Mem.wf_cons, ih, List.pairwise_cons]
    constructor
    · rintro ⟨h1, h2, h3, h4⟩
      refine ⟨⟨fun q hq => ?_, h3⟩, fun q hq => ?_⟩
      · cases m with
        | nil => cases hq
        | cons r m =>
          have hr : a < r.1 := h1 r (by simp)
          rcases List.mem_cons.mp hq with rfl | hq
          · exact hr
          · exact Nat.lt_trans hr ((List.pairwise_cons.mp h3).1 q hq)
      · rcases List.mem_cons.mp hq with rfl | hq
        · exact h2
        · exact h4 q hq
    · rintro ⟨⟨h1, h3⟩, h4⟩
      refine ⟨fun p hp => h1 p ?_, h4 (a, v) (by simp), h3, fun q hq => h4 q (by simp [hq])⟩
      cases m with
      | nil => simp at hp
      | cons r m => simp at hp; simp [hp]

theorem Mem.wf_drop {m : Mem} (a : Nat) (h : Mem.wf m = true) : Mem.wf (Mem.drop m a) = true := by
  rw [Mem.wf_iff] at *
  exact ⟨h.1.filter _, fun p hp => h.2 p (List.mem_filter.mp hp).1⟩

theorem Mem.head?_put (m : Mem) (a : Nat) (v : BitVec 8) {p : Nat × BitVec 8} (h : p ∈ (Mem.put m a v).head?) :
    p.1 = a ∨ p ∈ m.head? := by
  cases m with
  | nil => simp [Mem.put] at h; simp [← h]
  | cons q m =>
    obtain ⟨b, w⟩ := q
    unfold Mem.put at h
    split at h
    · simp at h; simp [← h]
    · split at h
      · simp at h; simp [← h]
      · right; simpa using h

theorem Mem.wf_put {m : Mem} (a : Nat) {v : BitVec 8} (hv : v ≠ Mem.unlisted) (h : Mem.wf m = true) :
    Mem.wf (Mem.put m a v) = true := by
  induction m with
  | nil => simpa [Mem.put, Mem.wf] using hv
  | cons p m ih =>
    obtain ⟨b, w⟩ := p
    unfold Mem.put
    split
    · next hk => rw [Mem.wf_cons]; exact ⟨by simpa using hk, hv, h⟩
    · split
      · next hk => subst hk; rw [Mem.wf_cons] at *; exact ⟨h.1, hv, h.2.2⟩
      · next h1 h2 =>
        rw [Mem.wf_cons] at *
        refine ⟨fun p hp => ?_, h.2.1, ih h.2.2⟩
        rcases Mem.head?_put _ _ _ hp with e | e
        · omega
        · exact h.1 p e

/-- A write keeps the canonical form. -/
theorem Mem.wf_write {m : Mem} (a : Nat) (v : BitVec 8) (h : Mem.wf m = true) : Mem.wf (Mem.write m a v) = true := by
  unfold Mem.write
  split
  · exact Mem.wf_drop a h
  · next hv => exact Mem.wf_put a hv h

/-- A write of bytes keeps the canonical form. -/
theorem Mem.wf_writeBytes {m : Mem} (a : Nat) (bs : Bytes) (h : Mem.wf m = true) : Mem.wf (Mem.writeBytes m a bs) = true := by
  induction bs generalizing m a with
  | nil => exact h
  | cons b bs ih => exact ih (a + 1) (Mem.wf_write a b h)

theorem Mem.read_drop (m : Mem) (a b : Nat) : Mem.read (Mem.drop m a) b = if b = a then Mem.unlisted else Mem.read m b := by
  induction m with
  | nil => simp [Mem.drop, Mem.read]
  | cons p m ih =>
    obtain ⟨c, w⟩ := p
    unfold Mem.drop at *
    by_cases h : c = a
    · subst h
      simp only [List.filter, bne_self_eq_false, ih]
      by_cases h2 : b = c
      · simp [h2]
      · simp [h2, Mem.read, Ne.symm h2]
    · have : (c != a) = true := by simpa using h
      simp only [List.filter, this, Mem.read, ih]
      by_cases h2 : c = b
      · subst h2
        simp [h]
      · simp [h2]

theorem Mem.read_put (m : Mem) (a b : Nat) (v : BitVec 8) : Mem.read (Mem.put m a v) b = if b = a then v else Mem.read m b := by
  induction m with
  | nil => by_cases h : a = b <;> simp [Mem.put, Mem.read, h, eq_comm]
  | cons p m ih =>
    obtain ⟨c, w⟩ := p
    unfold Mem.put
    split
    · by_cases h : a = b <;> simp [Mem.read, h, eq_comm]
    · split
      · next _ hk =>
        subst hk
        by_cases h : a = b <;> simp [Mem.read, h, eq_comm]
      · next h1 h2 =>
        by_cases h : c = b
        · subst h
          simp [Mem.read, Ne.symm h2]
        · simp [Mem.read, h, ih]

/-- A read after a write gives the value written, at any other address what it gave before. -/
theorem Mem.read_write (m : Mem) (a b : Nat) (v : BitVec 8) :
    Mem.read (Mem.write m a v) b = if b = a then v else Mem.read m b := by
  unfold Mem.write
  split
  · next h => rw [Mem.read_drop, h]
  · exact Mem.read_put m a b v

/-- A read after a write of bytes: outside the bytes written nothing changes. -/
theorem Mem.read_writeBytes (m : Mem) (a b : Nat) (bs : Bytes) :
    Mem.read (Mem.writeBytes m a bs) b = if a ≤ b ∧ b < a + bs.length then bs.getD (b - a) 0 else Mem.read m b := by
  induction bs generalizing m a with
  | nil =>
    simp only [Mem.writeBytes, List.length_nil]
    rw [if_neg (by omega)]
  | cons v bs ih =>
    simp only [Mem.writeBytes, ih, Mem.read_write, List.length_cons]
    by_cases h : b = a
    · subst h
      rw [if_neg (by omega), if_pos rfl, if_pos (by omega)]
      simp
    · by_cases h2 : a + 1 ≤ b ∧ b < a + 1 + bs.length
      · have e : b - a = (b - (a + 1)) + 1 := by omega
        rw [if_pos h2, if_pos (by omega), e, List.getD_cons_succ]
      · rw [if_neg h2, if_neg h, if_neg (by omega)]

/-! ## Lists -/

@[simp] theorem modAt_length {α : Type} (l : List α) (i : Nat) (f : α → α) : (modAt l i f).length = l.length := by
  induction l generalizing i with
  | nil => cases i <;> rfl
  | cons a l ih => cases i <;> simp [modAt, ih]

theorem modAt_getElem? {α : Type} (l : List α) (i j : Nat) (f : α → α) :
    (modAt l i f)[j]? = if i = j then l[j]?.map f else l[j]? := by
  induction l generalizing i j with
  | nil => cases i <;> simp [modAt]
  | cons a l ih =>
    cases i <;> cases j <;> simp [modAt, ih]

/-! ## Registers -/

/-- A field reads as the value written, modulo its width; any other field as before. -/
theorem rd_wr (s : State) (f : Field) (v : Nat) : rd (wr s f v) f = v % 2 ^ f.width := by
  simp [rd, wr, setField, Map.getD_put]

theorem rd_wr_ne (s : State) (f g : Field) (v : Nat) (h : g.key ≠ f.key) : rd (wr s f v) g = rd s g := by
  simp [rd, wr, setField, Map.getD_put_ne _ _ _ _ _ _ h]

theorem wr_regsKept (s : State) (f : Field) (v : Nat) : RegsKept [f] s (wr s f v) :=
  fun g hg => rd_wr_ne s f g v fun e => hg f (by simp) e.symm

theorem RegsKept.refl (fs : List Field) (s : State) : RegsKept fs s s := fun _ _ => rfl

theorem RegsKept.trans {fs : List Field} {s t u : State} (h : RegsKept fs s t) (k : RegsKept fs t u) : RegsKept fs s u :=
  fun g hg => (k g hg).trans (h g hg)

theorem RegsKept.mono {fs gs : List Field} {s t : State} (h : RegsKept gs s t) (hs : ∀ f ∈ gs, f ∈ fs) : RegsKept fs s t :=
  fun g hg => h g fun f hf => hg f (hs f hf)

theorem RegsKept.of_regs {s t : State} (fs : List Field) (h : t.regs = s.regs) : RegsKept fs s t :=
  fun g _ => by simp [rd, h]

theorem OnlyChanges.refl (F : List Part) (fs : List Field) (s : State) : OnlyChanges F fs s s :=
  ⟨fun p _ => by cases p <;> rfl, RegsKept.refl fs s⟩

/-! ## Lengths of bounded lists -/

theorem length_dropLast_append_le {α : Type} {l : List α} {x : α} {n : Nat} (h : l.length ≤ n + 1) :
    (l.dropLast ++ [x]).length ≤ n + 1 := by
  rw [List.length_append, List.length_dropLast, List.length_singleton]
  omega

theorem length_append_one_le {α : Type} {l : List α} {x : α} {n : Nat} (h : (!decide (n ≤ l.length)) = true) :
    (l ++ [x]).length ≤ n := by
  rw [List.length_append, List.length_singleton]
  simpa [Nat.succ_le_iff] using h

theorem length_drop_le {α : Type} {l : List α} {k n : Nat} (h : l.length ≤ n) : (l.drop k).length ≤ n := by
  rw [List.length_drop]
  omega

theorem length_filter_le' {α : Type} {l : List α} {q : α → Bool} {n : Nat} (h : l.length ≤ n) : (l.filter q).length ≤ n :=
  Nat.le_trans (List.length_filter_le q l) h

theorem length_tail_le {α : Type} {l r : List α} {x : α} {n : Nat} (e : l = x :: r) (h : l.length ≤ n) : r.length ≤ n := by
  rw [e, List.length_cons] at h
  omega

end Sys2Proof.Machine
end

