-- ==== Sys2Proof/Laws/ActsRegs.lean ====
section
/-! SUPPORT. What each operation of Machine/Regs.lean may touch, and that it keeps the invariant. -/

namespace Sys2Proof.Machine

theorem wr_acts {F : List Part} {S : State} (f : Field) (v : Nat) {s : State} (h : Acts F S s)
    (hs : subParts [.regs] F = true) : Acts F S (wr s f v) := by
  refine Acts.step h ?_ hs
  unfold wr setField
  exact Acts.set_regs (Acts.refl _ _) rfl (Map.sorted_put _ _ _)


theorem wrB_acts {F : List Part} {S : State} (f : Field) (b : Bool) {s : State} (h : Acts F S s)
    (hs : subParts [.regs] F = true) : Acts F S (wrB s f b) := by
  refine Acts.step h ?_ hs
  unfold wrB
  repeat' (first
    | with_reducible assumption
    | decide
    | with_reducible exact Acts.refl _ _
    | with_reducible refine wr_acts _ _ ?_ ?_
    | with_reducible refine Acts.iteStep ?_ (fun _ => ?_)
    | with_reducible refine Acts.foldl ?_ (fun _ _ _ => ?_)
    | dsimp -proj only
    | split)

theorem bump_acts {F : List Part} {S : State} (f : Field) (n : Nat) {s : State} (h : Acts F S s)
    (hs : subParts [.regs] F = true) : Acts F S (bump s f n) := by
  refine Acts.step h ?_ hs
  unfold bump
  repeat' (first
    | with_reducible assumption
    | decide
    | with_reducible exact Acts.refl _ _
    | with_reducible refine wr_acts _ _ ?_ ?_
    | with_reducible refine Acts.iteStep ?_ (fun _ => ?_)
    | with_reducible refine Acts.foldl ?_ (fun _ _ _ => ?_)
    | dsimp -proj only
    | split)

theorem writeField_acts {F : List Part} {S : State} (locked : Bool) (value : Nat) (f : Field) {s : State} (h : Acts F S s)
    (hs : subParts [.regs] F = true) : Acts F S (writeField locked value s f) := by
  refine Acts.step h ?_ hs
  unfold writeField
  repeat' (first
    | with_reducible assumption
    | decide
    | with_reducible exact Acts.refl _ _
    | with_reducible refine wr_acts _ _ ?_ ?_
    | with_reducible refine Acts.iteStep ?_ (fun _ => ?_)
    | with_reducible refine Acts.foldl ?_ (fun _ _ _ => ?_)
    | dsimp -proj only
    | split)

theorem writeFields_acts {F : List Part} {S : State} (a : Nat) (value : Nat) {s : State} (h : Acts F S s)
    (hs : subParts [.regs] F = true) : Acts F S (writeFields s a value) := by
  refine Acts.step h ?_ hs
  unfold writeFields
  repeat' (first
    | with_reducible assumption
    | decide
    | with_reducible exact Acts.refl _ _
    | with_reducible refine writeField_acts _ _ _ ?_ ?_
    | with_reducible refine Acts.iteStep ?_ (fun _ => ?_)
    | with_reducible refine Acts.foldl ?_ (fun _ _ _ => ?_)
    | dsimp -proj only
    | split)

theorem forceReg_acts {F : List Part} {S : State} (a : Nat) (value : Nat) {s : State} (h : Acts F S s)
    (hs : subParts [.regs] F = true) : Acts F S (forceReg s a value) := by
  refine Acts.step h ?_ hs
  unfold forceReg
  repeat' (first
    | with_reducible assumption
    | decide
    | with_reducible exact Acts.refl _ _
    | with_reducible refine wr_acts _ _ ?_ ?_
    | with_reducible refine Acts.iteStep ?_ (fun _ => ?_)
    | with_reducible refine Acts.foldl ?_ (fun _ _ _ => ?_)
    | dsimp -proj only
    | split)

end Sys2Proof.Machine
end

