-- ==== Sys2Proof/Laws/ActsOps.lean ====
section
/-! SUPPORT. What each operation of Machine/Ops.lean may touch, and that it keeps the invariant. -/

namespace Sys2Proof.Machine

theorem draw_acts {F : List Part} {S : State}  {s : State} (h : Acts F S s)
    (hs : subParts [.fresh] F = true) : Acts F S (draw s).2 := by
  refine Acts.step h ?_ hs
  unfold draw
  repeat' (first
    | with_reducible assumption
    | decide
    | with_reducible exact Acts.refl _ _
    | with_reducible refine Acts.iteStep ?_ (fun _ => ?_)
    | with_reducible refine Acts.foldl ?_ (fun _ _ _ => ?_)
    | with_reducible refine Acts.sndIte ?_ ?_
    | dsimp -proj only
    | (with_reducible refine Acts.set_fresh ?_ ?_; first | with_reducible assumption | with_reducible exact Acts.refl _ _ | with_reducible refine Acts.iteStep ?_ (fun _ => ?_) | with_reducible refine Acts.foldl ?_ (fun _ _ _ => ?_) | with_reducible refine Acts.sndIte ?_ ?_)
    | (with_reducible refine Acts.sndMk ?_; first | with_reducible assumption | with_reducible exact Acts.refl _ _ | with_reducible refine Acts.iteStep ?_ (fun _ => ?_) | with_reducible refine Acts.foldl ?_ (fun _ _ _ => ?_) | with_reducible refine Acts.sndIte ?_ ?_ | (with_reducible refine Acts.set_fresh ?_ ?_; first | with_reducible assumption | with_reducible exact Acts.refl _ _ | with_reducible refine Acts.iteStep ?_ (fun _ => ?_) | with_reducible refine Acts.foldl ?_ (fun _ _ _ => ?_) | with_reducible refine Acts.sndIte ?_ ?_))
    | split)

theorem emit_acts {F : List Part} {S : State} (o : Out) {s : State} (h : Acts F S s)
    (hs : subParts [.out] F = true) : Acts F S (emit s o) := by
  refine Acts.step h ?_ hs
  unfold emit
  repeat' (first
    | with_reducible assumption
    | decide
    | with_reducible exact Acts.refl _ _
    | with_reducible refine Acts.iteStep ?_ (fun _ => ?_)
    | with_reducible refine Acts.foldl ?_ (fun _ _ _ => ?_)
    | dsimp -proj only
    | (with_reducible refine Acts.set_out ?_ ?_; first | with_reducible assumption | with_reducible exact Acts.refl _ _ | with_reducible refine Acts.iteStep ?_ (fun _ => ?_) | with_reducible refine Acts.foldl ?_ (fun _ _ _ => ?_))
    | split)

theorem count_acts {F : List Part} {S : State} (i : Nat) (n : Nat) {s : State} (h : Acts F S s)
    (hs : subParts [.regs] F = true) : Acts F S (count s i n) := by
  refine Acts.step h ?_ hs
  unfold count
  repeat' (first
    | with_reducible assumption
    | decide
    | with_reducible exact Acts.refl _ _
    | with_reducible refine wr_acts _ _ ?_ ?_
    | with_reducible refine Acts.iteStep ?_ (fun _ => ?_)
    | with_reducible refine Acts.foldl ?_ (fun _ _ _ => ?_)
    | dsimp -proj only
    | split)

theorem countHbm_acts {F : List Part} {S : State} (n : Nat) {s : State} (h : Acts F S s)
    (hs : subParts [.observe] F = true) : Acts F S (countHbm s n) := by
  refine Acts.step h ?_ hs
  unfold countHbm
  repeat' (first
    | with_reducible assumption
    | decide
    | with_reducible exact Acts.refl _ _
    | with_reducible refine Acts.iteStep ?_ (fun _ => ?_)
    | with_reducible refine Acts.foldl ?_ (fun _ _ _ => ?_)
    | dsimp -proj only
    | (with_reducible refine Acts.set_observe ?_ ?_ ?_; first | with_reducible assumption | with_reducible exact Acts.refl _ _ | with_reducible refine Acts.iteStep ?_ (fun _ => ?_) | with_reducible refine Acts.foldl ?_ (fun _ _ _ => ?_))
    | split
    | with_reducible exact ObserveOk.keep_hbmTransfers _ _
    | (exact fun _ => rfl)
    | (intro k; rw [List.length_map]; exact k)
    | (exact fun h => Mem.wf_writeBytes _ _ h)
    | (exact fun h => Mem.wf_write _ _ h)
    | (intro _; exact Nat.zero_le _)
    | with_reducible with_reducible exact fun h => h
    | (intro h; rw [modAt_length]; exact h))

theorem setQ_acts {F : List Part} {S : State} (q : Nat) (d : Queue) {s : State} (h : Acts F S s)
    (hs : subParts [.queue] F = true) : Acts F S (setQ s q d) := by
  refine Acts.step h ?_ hs
  unfold setQ
  repeat' (first
    | with_reducible assumption
    | decide
    | with_reducible exact Acts.refl _ _
    | with_reducible refine Acts.iteStep ?_ (fun _ => ?_)
    | with_reducible refine Acts.foldl ?_ (fun _ _ _ => ?_)
    | dsimp -proj only
    | (with_reducible refine Acts.set_queue ?_ ?_; first | with_reducible assumption | with_reducible exact Acts.refl _ _ | with_reducible refine Acts.iteStep ?_ (fun _ => ?_) | with_reducible refine Acts.foldl ?_ (fun _ _ _ => ?_))
    | split)

theorem enqueueRaw_acts {F : List Part} {S : State} (q : Nat) (band : Nat) (item : Nat) {s : State} (h : Acts F S s)
    (hs : subParts [.queue] F = true) : Acts F S (enqueueRaw s q band item).1 := by
  refine Acts.step h ?_ hs
  unfold enqueueRaw
  repeat' (first
    | with_reducible assumption
    | decide
    | with_reducible exact Acts.refl _ _
    | with_reducible refine setQ_acts _ _ ?_ ?_
    | with_reducible refine Acts.iteStep ?_ (fun _ => ?_)
    | with_reducible refine Acts.foldl ?_ (fun _ _ _ => ?_)
    | with_reducible refine Acts.fstIte ?_ ?_
    | dsimp -proj only
    | (with_reducible refine Acts.set_queue ?_ ?_; first | with_reducible assumption | with_reducible exact Acts.refl _ _ | with_reducible refine setQ_acts _ _ ?_ ?_ | with_reducible refine Acts.iteStep ?_ (fun _ => ?_) | with_reducible refine Acts.foldl ?_ (fun _ _ _ => ?_) | with_reducible refine Acts.fstIte ?_ ?_)
    | (with_reducible refine Acts.fstMk ?_; first | with_reducible assumption | with_reducible exact Acts.refl _ _ | with_reducible refine setQ_acts _ _ ?_ ?_ | with_reducible refine Acts.iteStep ?_ (fun _ => ?_) | with_reducible refine Acts.foldl ?_ (fun _ _ _ => ?_) | with_reducible refine Acts.fstIte ?_ ?_ | (with_reducible refine Acts.set_queue ?_ ?_; first | with_reducible assumption | with_reducible exact Acts.refl _ _ | with_reducible refine setQ_acts _ _ ?_ ?_ | with_reducible refine Acts.iteStep ?_ (fun _ => ?_) | with_reducible refine Acts.foldl ?_ (fun _ _ _ => ?_) | with_reducible refine Acts.fstIte ?_ ?_))
    | split)

theorem dequeueRaw_acts {F : List Part} {S : State} (q : Nat) {s : State} (h : Acts F S s)
    (hs : subParts [.queue] F = true) : Acts F S (dequeueRaw s q).1 := by
  refine Acts.step h ?_ hs
  unfold dequeueRaw
  repeat' (first
    | with_reducible assumption
    | decide
    | with_reducible exact Acts.refl _ _
    | with_reducible refine setQ_acts _ _ ?_ ?_
    | with_reducible refine Acts.iteStep ?_ (fun _ => ?_)
    | with_reducible refine Acts.foldl ?_ (fun _ _ _ => ?_)
    | with_reducible refine Acts.fstIte ?_ ?_
    | dsimp -proj only
    | (with_reducible refine Acts.fstMk ?_; first | with_reducible assumption | with_reducible exact Acts.refl _ _ | with_reducible refine setQ_acts _ _ ?_ ?_ | with_reducible refine Acts.iteStep ?_ (fun _ => ?_) | with_reducible refine Acts.foldl ?_ (fun _ _ _ => ?_) | with_reducible refine Acts.fstIte ?_ ?_)
    | split)

theorem strikeItem_acts {F : List Part} {S : State} (q : Nat) (band : Nat) (place : Nat) (lasting : Bool) {s : State} (h : Acts F S s)
    (hs : subParts [.queue] F = true) : Acts F S (strikeItem s q band place lasting) := by
  refine Acts.step h ?_ hs
  unfold strikeItem
  repeat' (first
    | with_reducible assumption
    | decide
    | with_reducible exact Acts.refl _ _
    | with_reducible refine Acts.iteStep ?_ (fun _ => ?_)
    | with_reducible refine Acts.foldl ?_ (fun _ _ _ => ?_)
    | dsimp -proj only
    | (with_reducible refine Acts.set_queue ?_ ?_; first | with_reducible assumption | with_reducible exact Acts.refl _ _ | with_reducible refine Acts.iteStep ?_ (fun _ => ?_) | with_reducible refine Acts.foldl ?_ (fun _ _ _ => ?_))
    | split)

theorem upsetPointer_acts {F : List Part} {S : State} (q : Nat) (band : Nat) (pointer : Nat) (value : Nat) {s : State} (h : Acts F S s)
    (hs : subParts [.queue] F = true) : Acts F S (upsetPointer s q band pointer value) := by
  refine Acts.step h ?_ hs
  unfold upsetPointer
  repeat' (first
    | with_reducible assumption
    | decide
    | with_reducible exact Acts.refl _ _
    | with_reducible refine setQ_acts _ _ ?_ ?_
    | with_reducible refine Acts.iteStep ?_ (fun _ => ?_)
    | with_reducible refine Acts.foldl ?_ (fun _ _ _ => ?_)
    | dsimp -proj only
    | split)

/-- A queue that is not of the data path is reset without a loss of verdicts. -/
theorem resetRaw_acts_plain {F : List Part} {S : State} (q : Nat) (flush : Bool) {s : State} (hq : dataPathUse q = none)
    (h : Acts F S s) (hs : subParts [.regs, .queue] F = true) : Acts F S (resetRaw s q flush) := by
  refine Acts.step h ?_ hs
  unfold resetRaw
  rw [hq]
  repeat' (first
    | with_reducible assumption
    | decide
    | with_reducible exact Acts.refl _ _
    | with_reducible refine bump_acts _ _ ?_ ?_
    | with_reducible refine setQ_acts _ _ ?_ ?_
    | with_reducible refine wr_acts _ _ ?_ ?_
    | with_reducible refine wrB_acts _ _ ?_ ?_
    | with_reducible refine Acts.iteStep ?_ (fun _ => ?_)
    | dsimp -proj only
    | split)

theorem resetRaw_acts {F : List Part} {S : State} (q : Nat) (flush : Bool) {s : State} (h : Acts F S s)
    (hs : subParts [.regs, .ports, .queue, .pipe] F = true) : Acts F S (resetRaw s q flush) := by
  refine Acts.step h ?_ hs
  unfold resetRaw
  repeat' (first
    | with_reducible assumption
    | decide
    | with_reducible exact Acts.refl _ _
    | with_reducible refine bump_acts _ _ ?_ ?_
    | with_reducible refine setQ_acts _ _ ?_ ?_
    | with_reducible refine wr_acts _ _ ?_ ?_
    | with_reducible refine wrB_acts _ _ ?_ ?_
    | with_reducible refine Acts.iteStep ?_ (fun _ => ?_)
    | with_reducible refine Acts.foldl ?_ (fun _ _ _ => ?_)
    | dsimp -proj only
    | (with_reducible refine Acts.set_pipe ?_ ?_ ?_; first | with_reducible assumption | with_reducible exact Acts.refl _ _ | with_reducible refine bump_acts _ _ ?_ ?_ | with_reducible refine setQ_acts _ _ ?_ ?_ | with_reducible refine wr_acts _ _ ?_ ?_ | with_reducible refine wrB_acts _ _ ?_ ?_ | with_reducible refine Acts.iteStep ?_ (fun _ => ?_) | with_reducible refine Acts.foldl ?_ (fun _ _ _ => ?_))
    | (with_reducible refine Acts.set_ports ?_ ?_ ?_; first | with_reducible assumption | with_reducible exact Acts.refl _ _ | with_reducible refine bump_acts _ _ ?_ ?_ | with_reducible refine setQ_acts _ _ ?_ ?_ | with_reducible refine wr_acts _ _ ?_ ?_ | with_reducible refine wrB_acts _ _ ?_ ?_ | with_reducible refine Acts.iteStep ?_ (fun _ => ?_) | with_reducible refine Acts.foldl ?_ (fun _ _ _ => ?_))
    | (with_reducible refine Acts.set_pipe ?_ ?_ ?_; first | with_reducible assumption | with_reducible exact Acts.refl _ _ | with_reducible refine bump_acts _ _ ?_ ?_ | with_reducible refine setQ_acts _ _ ?_ ?_ | with_reducible refine wr_acts _ _ ?_ ?_ | with_reducible refine wrB_acts _ _ ?_ ?_ | with_reducible refine Acts.iteStep ?_ (fun _ => ?_) | with_reducible refine Acts.foldl ?_ (fun _ _ _ => ?_) | (with_reducible refine Acts.set_pipe ?_ ?_ ?_; first | with_reducible assumption | with_reducible exact Acts.refl _ _ | with_reducible refine bump_acts _ _ ?_ ?_ | with_reducible refine setQ_acts _ _ ?_ ?_ | with_reducible refine wr_acts _ _ ?_ ?_ | with_reducible refine wrB_acts _ _ ?_ ?_ | with_reducible refine Acts.iteStep ?_ (fun _ => ?_) | with_reducible refine Acts.foldl ?_ (fun _ _ _ => ?_)) | (with_reducible refine Acts.set_ports ?_ ?_ ?_; first | with_reducible assumption | with_reducible exact Acts.refl _ _ | with_reducible refine bump_acts _ _ ?_ ?_ | with_reducible refine setQ_acts _ _ ?_ ?_ | with_reducible refine wr_acts _ _ ?_ ?_ | with_reducible refine wrB_acts _ _ ?_ ?_ | with_reducible refine Acts.iteStep ?_ (fun _ => ?_) | with_reducible refine Acts.foldl ?_ (fun _ _ _ => ?_)))
    | (with_reducible refine Acts.set_ports ?_ ?_ ?_; first | with_reducible assumption | with_reducible exact Acts.refl _ _ | with_reducible refine bump_acts _ _ ?_ ?_ | with_reducible refine setQ_acts _ _ ?_ ?_ | with_reducible refine wr_acts _ _ ?_ ?_ | with_reducible refine wrB_acts _ _ ?_ ?_ | with_reducible refine Acts.iteStep ?_ (fun _ => ?_) | with_reducible refine Acts.foldl ?_ (fun _ _ _ => ?_) | (with_reducible refine Acts.set_pipe ?_ ?_ ?_; first | with_reducible assumption | with_reducible exact Acts.refl _ _ | with_reducible refine bump_acts _ _ ?_ ?_ | with_reducible refine setQ_acts _ _ ?_ ?_ | with_reducible refine wr_acts _ _ ?_ ?_ | with_reducible refine wrB_acts _ _ ?_ ?_ | with_reducible refine Acts.iteStep ?_ (fun _ => ?_) | with_reducible refine Acts.foldl ?_ (fun _ _ _ => ?_)) | (with_reducible refine Acts.set_ports ?_ ?_ ?_; first | with_reducible assumption | with_reducible exact Acts.refl _ _ | with_reducible refine bump_acts _ _ ?_ ?_ | with_reducible refine setQ_acts _ _ ?_ ?_ | with_reducible refine wr_acts _ _ ?_ ?_ | with_reducible refine wrB_acts _ _ ?_ ?_ | with_reducible refine Acts.iteStep ?_ (fun _ => ?_) | with_reducible refine Acts.foldl ?_ (fun _ _ _ => ?_)))
    | split
    | with_reducible exact PipeOk.keep_batches _ _
    | (generalize State.ports _ = y; intro h; simpa only [PortsOk, modAt_length, List.length_map, List.length_zipIdx] using h)
    | (exact fun _ => rfl)
    | (intro k; rw [List.length_map]; exact k)
    | (exact fun h => Mem.wf_writeBytes _ _ h)
    | (exact fun h => Mem.wf_write _ _ h)
    | (intro _; exact Nat.zero_le _)
    | with_reducible with_reducible exact fun h => h
    | (intro h; rw [modAt_length]; exact h))

theorem judgeLevel_acts {F : List Part} {S : State} (q : Nat) {s : State} (h : Acts F S s)
    (hs : subParts [.queue] F = true) : Acts F S (judgeLevel s q).1 := by
  refine Acts.step h ?_ hs
  unfold judgeLevel
  repeat' (first
    | with_reducible assumption
    | decide
    | with_reducible exact Acts.refl _ _
    | with_reducible refine setQ_acts _ _ ?_ ?_
    | with_reducible refine Acts.iteStep ?_ (fun _ => ?_)
    | with_reducible refine Acts.foldl ?_ (fun _ _ _ => ?_)
    | with_reducible refine Acts.fstIte ?_ ?_
    | dsimp -proj only
    | (with_reducible refine Acts.fstMk ?_; first | with_reducible assumption | with_reducible exact Acts.refl _ _ | with_reducible refine setQ_acts _ _ ?_ ?_ | with_reducible refine Acts.iteStep ?_ (fun _ => ?_) | with_reducible refine Acts.foldl ?_ (fun _ _ _ => ?_) | with_reducible refine Acts.fstIte ?_ ?_)
    | split)

theorem traceRaw_acts {F : List Part} {S : State} (type ts body : Nat) {s : State} (h : Acts F S s)
    (hs : subParts [.regs, .observe] F = true) : Acts F S (traceRaw s type ts body).1 := by
  have add (a : State) (r : Nat) (n : Nat) (hl : a.observe.trace.length < traceCapacity) :
      Acts [.regs, .observe] a { a with
        observe.trace := a.observe.trace ++ [r]
        observe.lostSince := n } := by
    refine Acts.set_observe (Acts.refl _ _) rfl fun k => ⟨k.1, ?_, k.2.2⟩
    simp only [List.length_append, List.length_singleton]
    omega
  refine Acts.step h ?_ hs
  unfold traceRaw
  split
  · exact Acts.refl _ _
  · dsimp only
    split
    · next hc =>
      have hc' : s.observe.trace.length < traceCapacity := by simpa using (Bool.and_eq_true _ _ |>.mp hc).2
      split
      · next h2 => exact (add s _ 0 hc').trans (add _ _ _ h2)
      · refine bump_acts _ _ (Acts.set_observe (add s _ 0 hc') rfl fun k => k) rfl
    · split
      · next h2 => exact add s _ _ h2
      · exact bump_acts _ _ (Acts.set_observe (Acts.refl _ _) rfl fun k => k) rfl


end Sys2Proof.Machine
end

