-- ==== Sys2Proof/Laws/ActsFlags.lean ====
section
/-! SUPPORT. What each operation of Machine/Flags.lean may touch, and that it keeps the invariant. -/

namespace Sys2Proof.Machine

/-- A notice queue is no queue of the data path (R189, R190). -/
theorem notice_not_dataPath {q : Nat} (h : queueClass q = 3) : dataPathUse q = none := by
  have hq : 0x38000 ≤ q := by
    unfold queueClass at h
    split at h
    · omega
    · split at h
      · omega
      · split at h <;> omega
  unfold dataPathUse
  rw [if_neg (by omega), if_neg (by simp; omega)]

theorem offerNotice_acts {F : List Part} {S : State} (q band item : Nat) {s : State} (hq : queueClass q = 3) (h : Acts F S s)
    (hs : subParts [.regs, .queue] F = true) : Acts F S (offerNotice s q band item).1 := by
  refine Acts.step h ?_ hs
  unfold offerNotice
  refine Acts.fstIte (Acts.refl _ _) ?_
  have e := enqueueRaw_acts (F := [.regs, .queue]) q band item (Acts.refl _ s) (by decide)
  split
  · next heq => rw [heq] at e; exact judgeLevel_acts _ e (by decide)
  · next heq => rw [heq] at e; exact bump_acts _ _ (setQ_acts _ _ e (by decide)) (by decide)
  · next heq =>
    rw [heq] at e
    dsimp only at e ⊢
    exact resetRaw_acts_plain _ _ (notice_not_dataPath hq) e (by decide)


theorem raiseOne_acts {F : List Part} {S : State} (f : Field) (arg : Nat) {s : State} (h : Acts F S s)
    (hs : subParts [.regs, .queue, .observe, .noticeSeq] F = true) : Acts F S (raiseOne s f arg).1 := by
  refine Acts.step h ?_ hs
  unfold raiseOne
  refine Acts.fstIte (c := _) ?_ ?_
  · exact wrB_acts _ _ (Acts.refl _ _) (by decide)
  · dsimp only
    have e := traceRaw_acts (F := [.regs, .queue, .observe, .noticeSeq]) (S := s) 0x05
      (nowShort { wrB s f true with noticeSeq := (wrB s f true).noticeSeq + 1 })
      (eventCode f % 2 ^ 16 * 2 ^ 160 + arg % 2 ^ 32 * 2 ^ 128)
      (Acts.set_noticeSeq (x0 := (wrB s f true).noticeSeq + 1) (wrB_acts f true (Acts.refl _ s) (by decide)) (by decide))
      (by decide)
    refine Acts.fstCond (fun _ => ?_) fun hc => ?_
    · refine Acts.fstIte ?_ ?_
      · exact wrB_acts _ _ (bump_acts _ _ e (by decide)) (by decide)
      · exact bump_acts _ _ e (by decide)
    · exact offerNotice_acts _ _ _ (by simpa using hc) e (by decide)


theorem raiseAll_acts {F : List Part} {S : State} (fuel : Nat) (l : List EventReq) {s : State} (h : Acts F S s)
    (hs : subParts [.regs, .queue, .observe, .noticeSeq] F = true) : Acts F S (raiseAll fuel s l) := by
  induction fuel generalizing s l with
  | zero => simpa [raiseAll] using h
  | succ n ih =>
    cases l with
    | nil => simpa [raiseAll] using h
    | cons r rest =>
      obtain ⟨f, arg⟩ := r
      unfold raiseAll
      split
      · exact ih _ h
      · exact ih _ (raiseOne_acts _ _ h hs)


theorem raise_acts {F : List Part} {S : State} (f : Field) (arg : Nat) {s : State} (h : Acts F S s)
    (hs : subParts [.regs, .queue, .observe, .noticeSeq] F = true) : Acts F S (raise s f arg) := by
  refine Acts.step h ?_ hs
  unfold raise
  repeat' (first
    | with_reducible assumption
    | decide
    | with_reducible exact Acts.refl _ _
    | with_reducible refine raiseAll_acts _ _ ?_ ?_
    | with_reducible refine Acts.iteStep ?_ (fun _ => ?_)
    | with_reducible refine Acts.foldl ?_ (fun _ _ _ => ?_)
    | dsimp -proj only
    | split)

theorem raiseIf_acts {F : List Part} {S : State} (c : Bool) (f : Field) (arg : Nat) {s : State} (h : Acts F S s)
    (hs : subParts [.regs, .queue, .observe, .noticeSeq] F = true) : Acts F S (raiseIf c s f arg) := by
  refine Acts.step h ?_ hs
  unfold raiseIf
  repeat' (first
    | with_reducible assumption
    | decide
    | with_reducible exact Acts.refl _ _
    | with_reducible refine raise_acts _ _ ?_ ?_
    | with_reducible refine Acts.iteStep ?_ (fun _ => ?_)
    | with_reducible refine Acts.foldl ?_ (fun _ _ _ => ?_)
    | dsimp -proj only
    | split)

theorem trace_acts {F : List Part} {S : State} (type : Nat) (ts : Nat) (body : Nat) {s : State} (h : Acts F S s)
    (hs : subParts [.regs, .queue, .observe, .noticeSeq] F = true) : Acts F S (trace s type ts body) := by
  refine Acts.step h ?_ hs
  unfold trace
  repeat' (first
    | with_reducible assumption
    | decide
    | with_reducible exact Acts.refl _ _
    | with_reducible refine traceRaw_acts _ _ _ ?_ ?_
    | with_reducible refine raise_acts _ _ ?_ ?_
    | with_reducible refine Acts.iteStep ?_ (fun _ => ?_)
    | with_reducible refine Acts.foldl ?_ (fun _ _ _ => ?_)
    | with_reducible refine Acts.fstIte ?_ ?_
    | with_reducible refine Acts.ofFst (by assumption) ?_
    | dsimp -proj only
    | (with_reducible refine Acts.fstMk ?_; first | with_reducible assumption | with_reducible exact Acts.refl _ _ | with_reducible refine traceRaw_acts _ _ _ ?_ ?_ | with_reducible refine raise_acts _ _ ?_ ?_ | with_reducible refine Acts.iteStep ?_ (fun _ => ?_) | with_reducible refine Acts.foldl ?_ (fun _ _ _ => ?_) | with_reducible refine Acts.fstIte ?_ ?_ | with_reducible refine Acts.ofFst (by assumption) ?_)
    | split)

theorem learnLost_acts {F : List Part} {S : State} (t : Nat) {s : State} (h : Acts F S s)
    (hs : subParts [.regs, .queue, .observe, .noticeSeq] F = true) : Acts F S (learnLost s t) := by
  refine Acts.step h ?_ hs
  unfold learnLost
  repeat' (first
    | with_reducible assumption
    | decide
    | with_reducible exact Acts.refl _ _
    | with_reducible refine raise_acts _ _ ?_ ?_
    | with_reducible refine bump_acts _ _ ?_ ?_
    | with_reducible refine Acts.iteStep ?_ (fun _ => ?_)
    | with_reducible refine Acts.foldl ?_ (fun _ _ _ => ?_)
    | dsimp -proj only
    | split)

theorem learnItem_acts {F : List Part} {S : State} (t item : Nat) {s : State} (h : Acts F S s)
    (hs : subParts [.regs, .queue, .observe, .noticeSeq] F = true) : Acts F S (learnItem s t item) := by
  refine Acts.step h ?_ hs
  unfold learnItem
  dsimp only
  split
  · exact learnLost_acts _ (Acts.refl _ _) (by decide)
  · next hc =>
    refine Acts.iteStep ?_ fun k => learnLost_acts _ k (by decide)
    exact raiseAll_acts _ _ (offerNotice_acts _ _ _ (by simpa using hc) (Acts.refl _ _) (by decide)) (by decide)


theorem enqueue_acts {F : List Part} {S : State} (q : Nat) (band : Nat) (item : Nat) {s : State} (h : Acts F S s)
    (hs : subParts [.regs, .ports, .queue, .pipe, .observe, .noticeSeq] F = true) : Acts F S (enqueue s q band item).1 := by
  refine Acts.step h ?_ hs
  unfold enqueue
  repeat' (first
    | with_reducible assumption
    | decide
    | with_reducible exact Acts.refl _ _
    | with_reducible refine enqueueRaw_acts _ _ _ ?_ ?_
    | with_reducible refine judgeLevel_acts _ ?_ ?_
    | with_reducible refine raiseIf_acts _ _ _ ?_ ?_
    | with_reducible refine raise_acts _ _ ?_ ?_
    | with_reducible refine resetRaw_acts _ _ ?_ ?_
    | with_reducible refine Acts.iteStep ?_ (fun _ => ?_)
    | with_reducible refine Acts.foldl ?_ (fun _ _ _ => ?_)
    | with_reducible refine Acts.fstIte ?_ ?_
    | with_reducible refine Acts.ofFst (by assumption) ?_
    | dsimp -proj only
    | (with_reducible refine Acts.fstMk ?_; first | with_reducible assumption | with_reducible exact Acts.refl _ _ | with_reducible refine enqueueRaw_acts _ _ _ ?_ ?_ | with_reducible refine judgeLevel_acts _ ?_ ?_ | with_reducible refine raiseIf_acts _ _ _ ?_ ?_ | with_reducible refine raise_acts _ _ ?_ ?_ | with_reducible refine resetRaw_acts _ _ ?_ ?_ | with_reducible refine Acts.iteStep ?_ (fun _ => ?_) | with_reducible refine Acts.foldl ?_ (fun _ _ _ => ?_) | with_reducible refine Acts.fstIte ?_ ?_ | with_reducible refine Acts.ofFst (by assumption) ?_)
    | split)

theorem enqueueDataPath_acts {F : List Part} {S : State} (q : Nat) (item : Nat) (verdicts : Nat) {s : State} (h : Acts F S s)
    (hs : subParts [.regs, .ports, .queue, .pipe, .observe, .noticeSeq] F = true) : Acts F S (enqueueDataPath s q item verdicts).1 := by
  refine Acts.step h ?_ hs
  unfold enqueueDataPath
  repeat' (first
    | with_reducible assumption
    | decide
    | with_reducible exact Acts.refl _ _
    | with_reducible refine enqueue_acts _ _ _ ?_ ?_
    | with_reducible refine setQ_acts _ _ ?_ ?_
    | with_reducible refine bump_acts _ _ ?_ ?_
    | with_reducible refine raise_acts _ _ ?_ ?_
    | with_reducible refine Acts.iteStep ?_ (fun _ => ?_)
    | with_reducible refine Acts.foldl ?_ (fun _ _ _ => ?_)
    | with_reducible refine Acts.fstIte ?_ ?_
    | with_reducible refine Acts.ofFst (by assumption) ?_
    | dsimp -proj only
    | (with_reducible refine Acts.fstMk ?_; first | with_reducible assumption | with_reducible exact Acts.refl _ _ | with_reducible refine enqueue_acts _ _ _ ?_ ?_ | with_reducible refine setQ_acts _ _ ?_ ?_ | with_reducible refine bump_acts _ _ ?_ ?_ | with_reducible refine raise_acts _ _ ?_ ?_ | with_reducible refine Acts.iteStep ?_ (fun _ => ?_) | with_reducible refine Acts.foldl ?_ (fun _ _ _ => ?_) | with_reducible refine Acts.fstIte ?_ ?_ | with_reducible refine Acts.ofFst (by assumption) ?_)
    | split)

theorem refuseDescriptor_acts {F : List Part} {S : State} (q : Nat) {s : State} (h : Acts F S s)
    (hs : subParts [.regs, .queue, .observe, .noticeSeq] F = true) : Acts F S (refuseDescriptor s q) := by
  refine Acts.step h ?_ hs
  unfold refuseDescriptor
  repeat' (first
    | with_reducible assumption
    | decide
    | with_reducible exact Acts.refl _ _
    | with_reducible refine raise_acts _ _ ?_ ?_
    | with_reducible refine bump_acts _ _ ?_ ?_
    | with_reducible refine Acts.iteStep ?_ (fun _ => ?_)
    | with_reducible refine Acts.foldl ?_ (fun _ _ _ => ?_)
    | dsimp -proj only
    | split)

theorem flushQueue_acts {F : List Part} {S : State} (q : Nat) {s : State} (h : Acts F S s)
    (hs : subParts [.regs, .ports, .queue, .pipe, .observe, .noticeSeq] F = true) : Acts F S (flushQueue s q) := by
  refine Acts.step h ?_ hs
  unfold flushQueue
  repeat' (first
    | with_reducible assumption
    | decide
    | with_reducible exact Acts.refl _ _
    | with_reducible refine refuseDescriptor_acts _ ?_ ?_
    | with_reducible refine raise_acts _ _ ?_ ?_
    | with_reducible refine resetRaw_acts _ _ ?_ ?_
    | with_reducible refine Acts.iteStep ?_ (fun _ => ?_)
    | with_reducible refine Acts.foldl ?_ (fun _ _ _ => ?_)
    | dsimp -proj only
    | split)

theorem requestRestart_acts {F : List Part} {S : State}  {s : State} (h : Acts F S s)
    (hs : subParts [.sched] F = true) : Acts F S (requestRestart s) := by
  refine Acts.step h ?_ hs
  unfold requestRestart
  repeat' (first
    | with_reducible assumption
    | decide
    | with_reducible exact Acts.refl _ _
    | with_reducible refine Acts.iteStep ?_ (fun _ => ?_)
    | with_reducible refine Acts.foldl ?_ (fun _ _ _ => ?_)
    | dsimp -proj only
    | (with_reducible refine Acts.set_sched ?_ ?_ ?_; first | with_reducible assumption | with_reducible exact Acts.refl _ _ | with_reducible refine Acts.iteStep ?_ (fun _ => ?_) | with_reducible refine Acts.foldl ?_ (fun _ _ _ => ?_))
    | (with_reducible refine Acts.set_sched ?_ ?_ ?_; first | with_reducible assumption | with_reducible exact Acts.refl _ _ | with_reducible refine Acts.iteStep ?_ (fun _ => ?_) | with_reducible refine Acts.foldl ?_ (fun _ _ _ => ?_) | (with_reducible refine Acts.set_sched ?_ ?_ ?_; first | with_reducible assumption | with_reducible exact Acts.refl _ _ | with_reducible refine Acts.iteStep ?_ (fun _ => ?_) | with_reducible refine Acts.foldl ?_ (fun _ _ _ => ?_)))
    | split
    | with_reducible exact SchedOk.keep_restart _ _
    | with_reducible exact SchedOk.keep_again _ _
    | (exact fun _ => rfl)
    | (intro k; rw [List.length_map]; exact k)
    | (exact fun h => Mem.wf_writeBytes _ _ h)
    | (exact fun h => Mem.wf_write _ _ h)
    | (intro _; exact Nat.zero_le _)
    | with_reducible with_reducible exact fun h => h
    | (intro h; rw [modAt_length]; exact h))

theorem unitFailing_acts {F : List Part} {S : State} (kind : Nat) (number : Nat) {s : State} (h : Acts F S s)
    (hs : subParts [.regs, .sched, .queue, .pipe, .observe, .noticeSeq] F = true) : Acts F S (unitFailing s kind number) := by
  refine Acts.step h ?_ hs
  unfold unitFailing
  repeat' (first
    | with_reducible assumption
    | decide
    | with_reducible exact Acts.refl _ _
    | with_reducible refine requestRestart_acts  ?_ ?_
    | with_reducible refine raise_acts _ _ ?_ ?_
    | with_reducible refine Acts.iteStep ?_ (fun _ => ?_)
    | with_reducible refine Acts.foldl ?_ (fun _ _ _ => ?_)
    | dsimp -proj only
    | (with_reducible refine Acts.set_observe ?_ ?_ ?_; first | with_reducible assumption | with_reducible exact Acts.refl _ _ | with_reducible refine requestRestart_acts  ?_ ?_ | with_reducible refine raise_acts _ _ ?_ ?_ | with_reducible refine Acts.iteStep ?_ (fun _ => ?_) | with_reducible refine Acts.foldl ?_ (fun _ _ _ => ?_))
    | (with_reducible refine Acts.set_pipe ?_ ?_ ?_; first | with_reducible assumption | with_reducible exact Acts.refl _ _ | with_reducible refine requestRestart_acts  ?_ ?_ | with_reducible refine raise_acts _ _ ?_ ?_ | with_reducible refine Acts.iteStep ?_ (fun _ => ?_) | with_reducible refine Acts.foldl ?_ (fun _ _ _ => ?_))
    | (with_reducible refine Acts.set_observe ?_ ?_ ?_; first | with_reducible assumption | with_reducible exact Acts.refl _ _ | with_reducible refine requestRestart_acts  ?_ ?_ | with_reducible refine raise_acts _ _ ?_ ?_ | with_reducible refine Acts.iteStep ?_ (fun _ => ?_) | with_reducible refine Acts.foldl ?_ (fun _ _ _ => ?_) | (with_reducible refine Acts.set_observe ?_ ?_ ?_; first | with_reducible assumption | with_reducible exact Acts.refl _ _ | with_reducible refine requestRestart_acts  ?_ ?_ | with_reducible refine raise_acts _ _ ?_ ?_ | with_reducible refine Acts.iteStep ?_ (fun _ => ?_) | with_reducible refine Acts.foldl ?_ (fun _ _ _ => ?_)) | (with_reducible refine Acts.set_pipe ?_ ?_ ?_; first | with_reducible assumption | with_reducible exact Acts.refl _ _ | with_reducible refine requestRestart_acts  ?_ ?_ | with_reducible refine raise_acts _ _ ?_ ?_ | with_reducible refine Acts.iteStep ?_ (fun _ => ?_) | with_reducible refine Acts.foldl ?_ (fun _ _ _ => ?_)))
    | (with_reducible refine Acts.set_pipe ?_ ?_ ?_; first | with_reducible assumption | with_reducible exact Acts.refl _ _ | with_reducible refine requestRestart_acts  ?_ ?_ | with_reducible refine raise_acts _ _ ?_ ?_ | with_reducible refine Acts.iteStep ?_ (fun _ => ?_) | with_reducible refine Acts.foldl ?_ (fun _ _ _ => ?_) | (with_reducible refine Acts.set_observe ?_ ?_ ?_; first | with_reducible assumption | with_reducible exact Acts.refl _ _ | with_reducible refine requestRestart_acts  ?_ ?_ | with_reducible refine raise_acts _ _ ?_ ?_ | with_reducible refine Acts.iteStep ?_ (fun _ => ?_) | with_reducible refine Acts.foldl ?_ (fun _ _ _ => ?_)) | (with_reducible refine Acts.set_pipe ?_ ?_ ?_; first | with_reducible assumption | with_reducible exact Acts.refl _ _ | with_reducible refine requestRestart_acts  ?_ ?_ | with_reducible refine raise_acts _ _ ?_ ?_ | with_reducible refine Acts.iteStep ?_ (fun _ => ?_) | with_reducible refine Acts.foldl ?_ (fun _ _ _ => ?_)))
    | split
    | with_reducible exact PipeOk.keep_batches _ _
    | with_reducible exact ObserveOk.keep_failing _ _
    | (exact fun _ => rfl)
    | (intro k; rw [List.length_map]; exact k)
    | (exact fun h => Mem.wf_writeBytes _ _ h)
    | (exact fun h => Mem.wf_write _ _ h)
    | (intro _; exact Nat.zero_le _)
    | with_reducible with_reducible exact fun h => h
    | (intro h; rw [modAt_length]; exact h))

theorem clusterFailing_acts {F : List Part} {S : State} (c : Nat) {s : State} (h : Acts F S s)
    (hs : subParts [.regs, .sched, .queue, .pipe, .observe, .noticeSeq] F = true) : Acts F S (clusterFailing s c) := by
  refine Acts.step h ?_ hs
  unfold clusterFailing
  repeat' (first
    | with_reducible assumption
    | decide
    | with_reducible exact Acts.refl _ _
    | with_reducible refine unitFailing_acts _ _ ?_ ?_
    | with_reducible refine Acts.iteStep ?_ (fun _ => ?_)
    | with_reducible refine Acts.foldl ?_ (fun _ _ _ => ?_)
    | dsimp -proj only
    | split)

theorem channelFailing_acts {F : List Part} {S : State} (ch : Nat) {s : State} (h : Acts F S s)
    (hs : subParts [.regs, .sched, .queue, .pipe, .observe, .noticeSeq] F = true) : Acts F S (channelFailing s ch) := by
  refine Acts.step h ?_ hs
  unfold channelFailing
  repeat' (first
    | with_reducible assumption
    | decide
    | with_reducible exact Acts.refl _ _
    | with_reducible refine unitFailing_acts _ _ ?_ ?_
    | with_reducible refine Acts.iteStep ?_ (fun _ => ?_)
    | with_reducible refine Acts.foldl ?_ (fun _ _ _ => ?_)
    | dsimp -proj only
    | split)

theorem channelFault_acts {F : List Part} {S : State} (ch : Nat) {s : State} (h : Acts F S s)
    (hs : subParts [.regs, .sched, .queue, .pipe, .observe, .noticeSeq] F = true) : Acts F S (channelFault s ch) := by
  refine Acts.step h ?_ hs
  unfold channelFault
  repeat' (first
    | with_reducible assumption
    | decide
    | with_reducible exact Acts.refl _ _
    | with_reducible refine channelFailing_acts _ ?_ ?_
    | with_reducible refine Acts.iteStep ?_ (fun _ => ?_)
    | with_reducible refine Acts.foldl ?_ (fun _ _ _ => ?_)
    | dsimp -proj only
    | (with_reducible refine Acts.set_observe ?_ ?_ ?_; first | with_reducible assumption | with_reducible exact Acts.refl _ _ | with_reducible refine channelFailing_acts _ ?_ ?_ | with_reducible refine Acts.iteStep ?_ (fun _ => ?_) | with_reducible refine Acts.foldl ?_ (fun _ _ _ => ?_))
    | split
    | with_reducible exact ObserveOk.keep_channelFaults _ _
    | (exact fun _ => rfl)
    | (intro k; rw [List.length_map]; exact k)
    | (exact fun h => Mem.wf_writeBytes _ _ h)
    | (exact fun h => Mem.wf_write _ _ h)
    | (intro _; exact Nat.zero_le _)
    | with_reducible with_reducible exact fun h => h
    | (intro h; rw [modAt_length]; exact h))

theorem faultFound_acts {F : List Part} {S : State} (c : Nat) (lasting : Bool) (location : Nat) (channel : Option Nat) {s : State} (h : Acts F S s)
    (hs : subParts [.regs, .sched, .queue, .pipe, .observe, .log, .noticeSeq] F = true) : Acts F S (faultFound s c lasting location channel) := by
  refine Acts.step h ?_ hs
  unfold faultFound
  repeat' (first
    | with_reducible assumption
    | decide
    | with_reducible exact Acts.refl _ _
    | with_reducible refine bump_acts _ _ ?_ ?_
    | with_reducible refine count_acts _ _ ?_ ?_
    | with_reducible refine trace_acts _ _ _ ?_ ?_
    | with_reducible refine raise_acts _ _ ?_ ?_
    | with_reducible refine channelFault_acts _ ?_ ?_
    | with_reducible refine Acts.iteStep ?_ (fun _ => ?_)
    | with_reducible refine Acts.foldl ?_ (fun _ _ _ => ?_)
    | dsimp -proj only
    | (with_reducible refine Acts.set_log ?_ ?_ ?_; first | with_reducible assumption | with_reducible exact Acts.refl _ _ | with_reducible refine bump_acts _ _ ?_ ?_ | with_reducible refine count_acts _ _ ?_ ?_ | with_reducible refine trace_acts _ _ _ ?_ ?_ | with_reducible refine raise_acts _ _ ?_ ?_ | with_reducible refine channelFault_acts _ ?_ ?_ | with_reducible refine Acts.iteStep ?_ (fun _ => ?_) | with_reducible refine Acts.foldl ?_ (fun _ _ _ => ?_))
    | split
    | with_reducible exact LogOk.keep_faults _ _
    | (exact fun _ => rfl)
    | (intro k; rw [List.length_map]; exact k)
    | (exact fun h => Mem.wf_writeBytes _ _ h)
    | (exact fun h => Mem.wf_write _ _ h)
    | (intro _; exact Nat.zero_le _)
    | with_reducible with_reducible exact fun h => h
    | (intro h; rw [modAt_length]; exact h))

theorem checkItem_acts {F : List Part} {S : State} (place : Nat) (i : Nat) (band : Nat) {s : State} (h : Acts F S s)
    (hs : subParts [.regs, .sched, .queue, .pipe, .observe, .log, .noticeSeq] F = true) : Acts F S (checkItem s place i band).1 := by
  refine Acts.step h ?_ hs
  unfold checkItem
  repeat' (first
    | with_reducible assumption
    | decide
    | with_reducible exact Acts.refl _ _
    | with_reducible refine faultFound_acts _ _ _ _ ?_ ?_
    | with_reducible refine Acts.iteStep ?_ (fun _ => ?_)
    | with_reducible refine Acts.foldl ?_ (fun _ _ _ => ?_)
    | with_reducible refine Acts.fstIte ?_ ?_
    | dsimp -proj only
    | (with_reducible refine Acts.set_queue ?_ ?_; first | with_reducible assumption | with_reducible exact Acts.refl _ _ | with_reducible refine faultFound_acts _ _ _ _ ?_ ?_ | with_reducible refine Acts.iteStep ?_ (fun _ => ?_) | with_reducible refine Acts.foldl ?_ (fun _ _ _ => ?_) | with_reducible refine Acts.fstIte ?_ ?_)
    | (with_reducible refine Acts.fstMk ?_; first | with_reducible assumption | with_reducible exact Acts.refl _ _ | with_reducible refine faultFound_acts _ _ _ _ ?_ ?_ | with_reducible refine Acts.iteStep ?_ (fun _ => ?_) | with_reducible refine Acts.foldl ?_ (fun _ _ _ => ?_) | with_reducible refine Acts.fstIte ?_ ?_ | (with_reducible refine Acts.set_queue ?_ ?_; first | with_reducible assumption | with_reducible exact Acts.refl _ _ | with_reducible refine faultFound_acts _ _ _ _ ?_ ?_ | with_reducible refine Acts.iteStep ?_ (fun _ => ?_) | with_reducible refine Acts.foldl ?_ (fun _ _ _ => ?_) | with_reducible refine Acts.fstIte ?_ ?_))
    | split)

theorem dequeue_acts {F : List Part} {S : State} (q : Nat) {s : State} (h : Acts F S s)
    (hs : subParts [.regs, .sched, .ports, .queue, .pipe, .observe, .log, .noticeSeq] F = true) : Acts F S (dequeue s q).1 := by
  refine Acts.step h ?_ hs
  unfold dequeue
  repeat' (first
    | with_reducible assumption
    | decide
    | with_reducible exact Acts.refl _ _
    | with_reducible refine dequeueRaw_acts _ ?_ ?_
    | with_reducible refine judgeLevel_acts _ ?_ ?_
    | with_reducible refine checkItem_acts _ _ _ ?_ ?_
    | with_reducible refine raiseIf_acts _ _ _ ?_ ?_
    | with_reducible refine raise_acts _ _ ?_ ?_
    | with_reducible refine resetRaw_acts _ _ ?_ ?_
    | with_reducible refine Acts.iteStep ?_ (fun _ => ?_)
    | with_reducible refine Acts.foldl ?_ (fun _ _ _ => ?_)
    | with_reducible refine Acts.fstIte ?_ ?_
    | with_reducible refine Acts.ofFst (by assumption) ?_
    | dsimp -proj only
    | (with_reducible refine Acts.fstMk ?_; first | with_reducible assumption | with_reducible exact Acts.refl _ _ | with_reducible refine dequeueRaw_acts _ ?_ ?_ | with_reducible refine judgeLevel_acts _ ?_ ?_ | with_reducible refine checkItem_acts _ _ _ ?_ ?_ | with_reducible refine raiseIf_acts _ _ _ ?_ ?_ | with_reducible refine raise_acts _ _ ?_ ?_ | with_reducible refine resetRaw_acts _ _ ?_ ?_ | with_reducible refine Acts.iteStep ?_ (fun _ => ?_) | with_reducible refine Acts.foldl ?_ (fun _ _ _ => ?_) | with_reducible refine Acts.fstIte ?_ ?_ | with_reducible refine Acts.ofFst (by assumption) ?_)
    | split)

end Sys2Proof.Machine
end

