-- ==== Sys2Proof/Laws/ActsTime.lean ====
section
/-! SUPPORT. What each operation of Machine/Time.lean may touch, and that it keeps the invariant. -/

namespace Sys2Proof.Machine

theorem refresh_acts {F : List Part} {S : State}  {s : State} (h : Acts F S s)
    (hs : subParts [.regs, .power, .pins] F = true) : Acts F S (refresh s) := by
  refine Acts.step h ?_ hs
  unfold refresh
  repeat' (first
    | with_reducible assumption
    | decide
    | with_reducible exact Acts.refl _ _
    | with_reducible refine wr_acts _ _ ?_ ?_
    | with_reducible refine wrB_acts _ _ ?_ ?_
    | with_reducible refine Acts.iteStep ?_ (fun _ => ?_)
    | with_reducible refine Acts.foldl ?_ (fun _ _ _ => ?_)
    | dsimp -proj only
    | (with_reducible refine Acts.set_power ?_ ?_; first | with_reducible assumption | with_reducible exact Acts.refl _ _ | with_reducible refine wr_acts _ _ ?_ ?_ | with_reducible refine wrB_acts _ _ ?_ ?_ | with_reducible refine Acts.iteStep ?_ (fun _ => ?_) | with_reducible refine Acts.foldl ?_ (fun _ _ _ => ?_))
    | (with_reducible refine Acts.set_pins ?_ ?_; first | with_reducible assumption | with_reducible exact Acts.refl _ _ | with_reducible refine wr_acts _ _ ?_ ?_ | with_reducible refine wrB_acts _ _ ?_ ?_ | with_reducible refine Acts.iteStep ?_ (fun _ => ?_) | with_reducible refine Acts.foldl ?_ (fun _ _ _ => ?_))
    | (with_reducible refine Acts.set_power ?_ ?_; first | with_reducible assumption | with_reducible exact Acts.refl _ _ | with_reducible refine wr_acts _ _ ?_ ?_ | with_reducible refine wrB_acts _ _ ?_ ?_ | with_reducible refine Acts.iteStep ?_ (fun _ => ?_) | with_reducible refine Acts.foldl ?_ (fun _ _ _ => ?_) | (with_reducible refine Acts.set_power ?_ ?_; first | with_reducible assumption | with_reducible exact Acts.refl _ _ | with_reducible refine wr_acts _ _ ?_ ?_ | with_reducible refine wrB_acts _ _ ?_ ?_ | with_reducible refine Acts.iteStep ?_ (fun _ => ?_) | with_reducible refine Acts.foldl ?_ (fun _ _ _ => ?_)) | (with_reducible refine Acts.set_pins ?_ ?_; first | with_reducible assumption | with_reducible exact Acts.refl _ _ | with_reducible refine wr_acts _ _ ?_ ?_ | with_reducible refine wrB_acts _ _ ?_ ?_ | with_reducible refine Acts.iteStep ?_ (fun _ => ?_) | with_reducible refine Acts.foldl ?_ (fun _ _ _ => ?_)))
    | (with_reducible refine Acts.set_pins ?_ ?_; first | with_reducible assumption | with_reducible exact Acts.refl _ _ | with_reducible refine wr_acts _ _ ?_ ?_ | with_reducible refine wrB_acts _ _ ?_ ?_ | with_reducible refine Acts.iteStep ?_ (fun _ => ?_) | with_reducible refine Acts.foldl ?_ (fun _ _ _ => ?_) | (with_reducible refine Acts.set_power ?_ ?_; first | with_reducible assumption | with_reducible exact Acts.refl _ _ | with_reducible refine wr_acts _ _ ?_ ?_ | with_reducible refine wrB_acts _ _ ?_ ?_ | with_reducible refine Acts.iteStep ?_ (fun _ => ?_) | with_reducible refine Acts.foldl ?_ (fun _ _ _ => ?_)) | (with_reducible refine Acts.set_pins ?_ ?_; first | with_reducible assumption | with_reducible exact Acts.refl _ _ | with_reducible refine wr_acts _ _ ?_ ?_ | with_reducible refine wrB_acts _ _ ?_ ?_ | with_reducible refine Acts.iteStep ?_ (fun _ => ?_) | with_reducible refine Acts.foldl ?_ (fun _ _ _ => ?_)))
    | split)

theorem enableDataPath_acts {F : List Part} {S : State} (on : Bool) {s : State} (h : Acts F S s)
    (hs : subParts [.queue] F = true) : Acts F S (enableDataPath s on) := by
  refine Acts.step h ?_ hs
  unfold enableDataPath
  repeat' (first
    | with_reducible assumption
    | decide
    | with_reducible exact Acts.refl _ _
    | with_reducible refine setQ_acts _ _ ?_ ?_
    | with_reducible refine Acts.iteStep ?_ (fun _ => ?_)
    | with_reducible refine Acts.foldl ?_ (fun _ _ _ => ?_)
    | dsimp -proj only
    | split)

theorem closeDataPath_acts {F : List Part} {S : State}  {s : State} (h : Acts F S s)
    (hs : subParts [.queue] F = true) : Acts F S (closeDataPath s) := by
  refine Acts.step h ?_ hs
  unfold closeDataPath
  repeat' (first
    | with_reducible assumption
    | decide
    | with_reducible exact Acts.refl _ _
    | with_reducible refine enableDataPath_acts _ ?_ ?_
    | with_reducible refine Acts.iteStep ?_ (fun _ => ?_)
    | with_reducible refine Acts.foldl ?_ (fun _ _ _ => ?_)
    | dsimp -proj only
    | split)

theorem flushShedPart_acts {F : List Part} {S : State} (p : Nat) {s : State} (h : Acts F S s)
    (hs : subParts [.regs, .ports, .queue, .pipe, .observe, .noticeSeq] F = true) : Acts F S (flushShedPart s p) := by
  refine Acts.step h ?_ hs
  unfold flushShedPart
  repeat' (first
    | with_reducible assumption
    | decide
    | with_reducible exact Acts.refl _ _
    | with_reducible refine enqueueDataPath_acts _ _ _ ?_ ?_
    | with_reducible refine Acts.iteStep ?_ (fun _ => ?_)
    | with_reducible refine Acts.foldl ?_ (fun _ _ _ => ?_)
    | with_reducible refine Acts.fstIte ?_ ?_
    | with_reducible refine Acts.ofFst (by assumption) ?_
    | dsimp -proj only
    | (with_reducible refine Acts.set_ports ?_ ?_ ?_; first | with_reducible assumption | with_reducible exact Acts.refl _ _ | with_reducible refine enqueueDataPath_acts _ _ _ ?_ ?_ | with_reducible refine Acts.iteStep ?_ (fun _ => ?_) | with_reducible refine Acts.foldl ?_ (fun _ _ _ => ?_) | with_reducible refine Acts.fstIte ?_ ?_ | with_reducible refine Acts.ofFst (by assumption) ?_)
    | (with_reducible refine Acts.set_ports ?_ ?_ ?_; first | with_reducible assumption | with_reducible exact Acts.refl _ _ | with_reducible refine enqueueDataPath_acts _ _ _ ?_ ?_ | with_reducible refine Acts.iteStep ?_ (fun _ => ?_) | with_reducible refine Acts.foldl ?_ (fun _ _ _ => ?_) | with_reducible refine Acts.fstIte ?_ ?_ | with_reducible refine Acts.ofFst (by assumption) ?_ | (with_reducible refine Acts.set_ports ?_ ?_ ?_; first | with_reducible assumption | with_reducible exact Acts.refl _ _ | with_reducible refine enqueueDataPath_acts _ _ _ ?_ ?_ | with_reducible refine Acts.iteStep ?_ (fun _ => ?_) | with_reducible refine Acts.foldl ?_ (fun _ _ _ => ?_) | with_reducible refine Acts.fstIte ?_ ?_ | with_reducible refine Acts.ofFst (by assumption) ?_))
    | (with_reducible refine Acts.fstMk ?_; first | with_reducible assumption | with_reducible exact Acts.refl _ _ | with_reducible refine enqueueDataPath_acts _ _ _ ?_ ?_ | with_reducible refine Acts.iteStep ?_ (fun _ => ?_) | with_reducible refine Acts.foldl ?_ (fun _ _ _ => ?_) | with_reducible refine Acts.fstIte ?_ ?_ | with_reducible refine Acts.ofFst (by assumption) ?_ | (with_reducible refine Acts.set_ports ?_ ?_ ?_; first | with_reducible assumption | with_reducible exact Acts.refl _ _ | with_reducible refine enqueueDataPath_acts _ _ _ ?_ ?_ | with_reducible refine Acts.iteStep ?_ (fun _ => ?_) | with_reducible refine Acts.foldl ?_ (fun _ _ _ => ?_) | with_reducible refine Acts.fstIte ?_ ?_ | with_reducible refine Acts.ofFst (by assumption) ?_))
    | split
    | (generalize State.ports _ = y; intro h; simpa only [PortsOk, modAt_length, List.length_map, List.length_zipIdx] using h)
    | (exact fun _ => rfl)
    | (intro k; rw [List.length_map]; exact k)
    | (exact fun h => Mem.wf_writeBytes _ _ h)
    | (exact fun h => Mem.wf_write _ _ h)
    | (intro _; exact Nat.zero_le _)
    | with_reducible with_reducible exact fun h => h
    | (intro h; rw [modAt_length]; exact h))

theorem closeShed_acts {F : List Part} {S : State} (p : Nat) {s : State} (h : Acts F S s)
    (hs : subParts [.regs, .ports, .queue, .pipe, .observe, .noticeSeq] F = true) : Acts F S (closeShed s p) := by
  refine Acts.step h ?_ hs
  unfold closeShed
  repeat' (first
    | with_reducible assumption
    | decide
    | with_reducible exact Acts.refl _ _
    | with_reducible refine flushShedPart_acts _ ?_ ?_
    | with_reducible refine Acts.iteStep ?_ (fun _ => ?_)
    | with_reducible refine Acts.foldl ?_ (fun _ _ _ => ?_)
    | dsimp -proj only
    | (with_reducible refine Acts.set_ports ?_ ?_ ?_; first | with_reducible assumption | with_reducible exact Acts.refl _ _ | with_reducible refine flushShedPart_acts _ ?_ ?_ | with_reducible refine Acts.iteStep ?_ (fun _ => ?_) | with_reducible refine Acts.foldl ?_ (fun _ _ _ => ?_))
    | split
    | (generalize State.ports _ = y; intro h; simpa only [PortsOk, modAt_length, List.length_map, List.length_zipIdx] using h)
    | (exact fun _ => rfl)
    | (intro k; rw [List.length_map]; exact k)
    | (exact fun h => Mem.wf_writeBytes _ _ h)
    | (exact fun h => Mem.wf_write _ _ h)
    | (intro _; exact Nat.zero_le _)
    | with_reducible with_reducible exact fun h => h
    | (intro h; rw [modAt_length]; exact h))

theorem openBatch_acts {F : List Part} {S : State}  {s : State} (h : Acts F S s)
    (hs : subParts [.pipe] F = true) : Acts F S (openBatch s) := by
  refine Acts.step h ?_ hs
  unfold openBatch
  repeat' (first
    | with_reducible assumption
    | decide
    | with_reducible exact Acts.refl _ _
    | with_reducible refine Acts.iteStep ?_ (fun _ => ?_)
    | with_reducible refine Acts.foldl ?_ (fun _ _ _ => ?_)
    | dsimp -proj only
    | (with_reducible refine Acts.set_pipe ?_ ?_ ?_; first | with_reducible assumption | with_reducible exact Acts.refl _ _ | with_reducible refine Acts.iteStep ?_ (fun _ => ?_) | with_reducible refine Acts.foldl ?_ (fun _ _ _ => ?_))
    | split
    | with_reducible exact PipeOk.keep_batches _ _
    | (exact fun _ => rfl)
    | (intro k; rw [List.length_map]; exact k)
    | (exact fun h => Mem.wf_writeBytes _ _ h)
    | (exact fun h => Mem.wf_write _ _ h)
    | (intro _; exact Nat.zero_le _)
    | with_reducible with_reducible exact fun h => h
    | (intro h; rw [modAt_length]; exact h))

theorem frontBeat_acts {F : List Part} {S : State} (last : Nat) {s : State} (h : Acts F S s)
    (hs : subParts [.front] F = true) : Acts F S (frontBeat s last) := by
  refine Acts.step h ?_ hs
  unfold frontBeat
  repeat' (first
    | with_reducible assumption
    | decide
    | with_reducible exact Acts.refl _ _
    | with_reducible refine Acts.iteStep ?_ (fun _ => ?_)
    | with_reducible refine Acts.foldl ?_ (fun _ _ _ => ?_)
    | dsimp -proj only
    | (with_reducible refine Acts.set_front ?_ ?_; first | with_reducible assumption | with_reducible exact Acts.refl _ _ | with_reducible refine Acts.iteStep ?_ (fun _ => ?_) | with_reducible refine Acts.foldl ?_ (fun _ _ _ => ?_))
    | split)

theorem openRuns_acts {F : List Part} {S : State} (n : Nat) {s : State} (h : Acts F S s)
    (hs : subParts [.sched] F = true) : Acts F S (openRuns s n) := by
  refine Acts.step h ?_ hs
  unfold openRuns
  repeat' (first
    | with_reducible assumption
    | decide
    | with_reducible exact Acts.refl _ _
    | with_reducible refine Acts.iteStep ?_ (fun _ => ?_)
    | with_reducible refine Acts.foldl ?_ (fun _ _ _ => ?_)
    | dsimp -proj only
    | (with_reducible refine Acts.set_sched ?_ ?_ ?_; first | with_reducible assumption | with_reducible exact Acts.refl _ _ | with_reducible refine Acts.iteStep ?_ (fun _ => ?_) | with_reducible refine Acts.foldl ?_ (fun _ _ _ => ?_))
    | split
    | with_reducible exact SchedOk.keep_acts _ _
    | (exact fun _ => rfl)
    | (intro k; rw [List.length_map]; exact k)
    | (exact fun h => Mem.wf_writeBytes _ _ h)
    | (exact fun h => Mem.wf_write _ _ h)
    | (intro _; exact Nat.zero_le _)
    | with_reducible with_reducible exact fun h => h
    | (intro h; rw [modAt_length]; exact h))

theorem catchupBeat_acts {F : List Part} {S : State} (n : Nat) {s : State} (h : Acts F S s)
    (hs : subParts [.regs, .sched] F = true) : Acts F S (catchupBeat s n) := by
  refine Acts.step h ?_ hs
  unfold catchupBeat
  repeat' (first
    | with_reducible assumption
    | decide
    | with_reducible exact Acts.refl _ _
    | with_reducible refine wrB_acts _ _ ?_ ?_
    | with_reducible refine bump_acts _ _ ?_ ?_
    | with_reducible refine Acts.iteStep ?_ (fun _ => ?_)
    | with_reducible refine Acts.foldl ?_ (fun _ _ _ => ?_)
    | dsimp -proj only
    | (with_reducible refine Acts.set_sched ?_ ?_ ?_; first | with_reducible assumption | with_reducible exact Acts.refl _ _ | with_reducible refine wrB_acts _ _ ?_ ?_ | with_reducible refine bump_acts _ _ ?_ ?_ | with_reducible refine Acts.iteStep ?_ (fun _ => ?_) | with_reducible refine Acts.foldl ?_ (fun _ _ _ => ?_))
    | split
    | with_reducible exact SchedOk.keep_caughtUp _ _
    | (exact fun _ => rfl)
    | (intro k; rw [List.length_map]; exact k)
    | (exact fun h => Mem.wf_writeBytes _ _ h)
    | (exact fun h => Mem.wf_write _ _ h)
    | (intro _; exact Nat.zero_le _)
    | with_reducible with_reducible exact fun h => h
    | (intro h; rw [modAt_length]; exact h))

theorem beatStart_acts {F : List Part} {S : State} (last : Nat) (n : Nat) {s : State} (h : Acts F S s)
    (hs : subParts [.regs, .sched, .ports, .front, .flow, .endpoint, .queue, .pipe, .observe, .noticeSeq] F = true) : Acts F S (beatStart s last n) := by
  refine Acts.step h ?_ hs
  unfold beatStart
  repeat' (first
    | with_reducible assumption
    | decide
    | with_reducible exact Acts.refl _ _
    | with_reducible refine closeShed_acts _ ?_ ?_
    | with_reducible refine frontBeat_acts _ ?_ ?_
    | with_reducible refine openRuns_acts _ ?_ ?_
    | with_reducible refine catchupBeat_acts _ ?_ ?_
    | with_reducible refine count_acts _ _ ?_ ?_
    | with_reducible refine openBatch_acts  ?_ ?_
    | with_reducible refine Acts.iteStep ?_ (fun _ => ?_)
    | with_reducible refine Acts.foldl ?_ (fun _ _ _ => ?_)
    | dsimp -proj only
    | (with_reducible refine Acts.set_ports ?_ ?_ ?_; first | with_reducible assumption | with_reducible exact Acts.refl _ _ | with_reducible refine closeShed_acts _ ?_ ?_ | with_reducible refine frontBeat_acts _ ?_ ?_ | with_reducible refine openRuns_acts _ ?_ ?_ | with_reducible refine catchupBeat_acts _ ?_ ?_ | with_reducible refine count_acts _ _ ?_ ?_ | with_reducible refine openBatch_acts  ?_ ?_ | with_reducible refine Acts.iteStep ?_ (fun _ => ?_) | with_reducible refine Acts.foldl ?_ (fun _ _ _ => ?_))
    | (with_reducible refine Acts.set_flow_endpoint ?_ ?_ ?_; first | with_reducible assumption | with_reducible exact Acts.refl _ _ | with_reducible refine closeShed_acts _ ?_ ?_ | with_reducible refine frontBeat_acts _ ?_ ?_ | with_reducible refine openRuns_acts _ ?_ ?_ | with_reducible refine catchupBeat_acts _ ?_ ?_ | with_reducible refine count_acts _ _ ?_ ?_ | with_reducible refine openBatch_acts  ?_ ?_ | with_reducible refine Acts.iteStep ?_ (fun _ => ?_) | with_reducible refine Acts.foldl ?_ (fun _ _ _ => ?_))
    | (with_reducible refine Acts.set_ports ?_ ?_ ?_; first | with_reducible assumption | with_reducible exact Acts.refl _ _ | with_reducible refine closeShed_acts _ ?_ ?_ | with_reducible refine frontBeat_acts _ ?_ ?_ | with_reducible refine openRuns_acts _ ?_ ?_ | with_reducible refine catchupBeat_acts _ ?_ ?_ | with_reducible refine count_acts _ _ ?_ ?_ | with_reducible refine openBatch_acts  ?_ ?_ | with_reducible refine Acts.iteStep ?_ (fun _ => ?_) | with_reducible refine Acts.foldl ?_ (fun _ _ _ => ?_) | (with_reducible refine Acts.set_ports ?_ ?_ ?_; first | with_reducible assumption | with_reducible exact Acts.refl _ _ | with_reducible refine closeShed_acts _ ?_ ?_ | with_reducible refine frontBeat_acts _ ?_ ?_ | with_reducible refine openRuns_acts _ ?_ ?_ | with_reducible refine catchupBeat_acts _ ?_ ?_ | with_reducible refine count_acts _ _ ?_ ?_ | with_reducible refine openBatch_acts  ?_ ?_ | with_reducible refine Acts.iteStep ?_ (fun _ => ?_) | with_reducible refine Acts.foldl ?_ (fun _ _ _ => ?_)) | (with_reducible refine Acts.set_flow_endpoint ?_ ?_ ?_; first | with_reducible assumption | with_reducible exact Acts.refl _ _ | with_reducible refine closeShed_acts _ ?_ ?_ | with_reducible refine frontBeat_acts _ ?_ ?_ | with_reducible refine openRuns_acts _ ?_ ?_ | with_reducible refine catchupBeat_acts _ ?_ ?_ | with_reducible refine count_acts _ _ ?_ ?_ | with_reducible refine openBatch_acts  ?_ ?_ | with_reducible refine Acts.iteStep ?_ (fun _ => ?_) | with_reducible refine Acts.foldl ?_ (fun _ _ _ => ?_)))
    | (with_reducible refine Acts.set_flow_endpoint ?_ ?_ ?_; first | with_reducible assumption | with_reducible exact Acts.refl _ _ | with_reducible refine closeShed_acts _ ?_ ?_ | with_reducible refine frontBeat_acts _ ?_ ?_ | with_reducible refine openRuns_acts _ ?_ ?_ | with_reducible refine catchupBeat_acts _ ?_ ?_ | with_reducible refine count_acts _ _ ?_ ?_ | with_reducible refine openBatch_acts  ?_ ?_ | with_reducible refine Acts.iteStep ?_ (fun _ => ?_) | with_reducible refine Acts.foldl ?_ (fun _ _ _ => ?_) | (with_reducible refine Acts.set_ports ?_ ?_ ?_; first | with_reducible assumption | with_reducible exact Acts.refl _ _ | with_reducible refine closeShed_acts _ ?_ ?_ | with_reducible refine frontBeat_acts _ ?_ ?_ | with_reducible refine openRuns_acts _ ?_ ?_ | with_reducible refine catchupBeat_acts _ ?_ ?_ | with_reducible refine count_acts _ _ ?_ ?_ | with_reducible refine openBatch_acts  ?_ ?_ | with_reducible refine Acts.iteStep ?_ (fun _ => ?_) | with_reducible refine Acts.foldl ?_ (fun _ _ _ => ?_)) | (with_reducible refine Acts.set_flow_endpoint ?_ ?_ ?_; first | with_reducible assumption | with_reducible exact Acts.refl _ _ | with_reducible refine closeShed_acts _ ?_ ?_ | with_reducible refine frontBeat_acts _ ?_ ?_ | with_reducible refine openRuns_acts _ ?_ ?_ | with_reducible refine catchupBeat_acts _ ?_ ?_ | with_reducible refine count_acts _ _ ?_ ?_ | with_reducible refine openBatch_acts  ?_ ?_ | with_reducible refine Acts.iteStep ?_ (fun _ => ?_) | with_reducible refine Acts.foldl ?_ (fun _ _ _ => ?_)))
    | split
    | (generalize State.ports _ = y; intro h; simpa only [PortsOk, modAt_length, List.length_map, List.length_zipIdx] using h)
    | (exact fun _ => rfl)
    | (intro k; rw [List.length_map]; exact k)
    | (exact fun h => Mem.wf_writeBytes _ _ h)
    | (exact fun h => Mem.wf_write _ _ h)
    | (intro _; exact Nat.zero_le _)
    | with_reducible with_reducible exact fun h => h
    | (intro h; rw [modAt_length]; exact h))

theorem tick_acts {F : List Part} {S : State} (dt : Nat) {s : State} (h : Acts F S s)
    (hs : subParts [.dial] F = true) : Acts F S (tick s dt) := by
  refine Acts.step h ?_ hs
  unfold tick
  repeat' (first
    | with_reducible assumption
    | decide
    | with_reducible exact Acts.refl _ _
    | with_reducible refine Acts.iteStep ?_ (fun _ => ?_)
    | with_reducible refine Acts.foldl ?_ (fun _ _ _ => ?_)
    | dsimp -proj only
    | (with_reducible refine Acts.set_dial ?_ ?_; first | with_reducible assumption | with_reducible exact Acts.refl _ _ | with_reducible refine Acts.iteStep ?_ (fun _ => ?_) | with_reducible refine Acts.foldl ?_ (fun _ _ _ => ?_))
    | split)

theorem advance_acts {F : List Part} {S : State} (dt : Nat) {s : State} (h : Acts F S s)
    (hs : subParts [.regs, .dial, .sched, .ports, .front, .flow, .endpoint, .queue, .pipe, .power, .observe, .pins, .noticeSeq] F = true) : Acts F S (advance s dt) := by
  refine Acts.step h ?_ hs
  unfold advance
  repeat' (first
    | with_reducible assumption
    | decide
    | with_reducible exact Acts.refl _ _
    | with_reducible refine tick_acts _ ?_ ?_
    | with_reducible refine refresh_acts  ?_ ?_
    | with_reducible refine beatStart_acts _ _ ?_ ?_
    | with_reducible refine Acts.iteStep ?_ (fun _ => ?_)
    | with_reducible refine Acts.foldl ?_ (fun _ _ _ => ?_)
    | dsimp -proj only
    | split)

theorem advanceTo_acts {F : List Part} {S : State} (b : Nat) {s : State} (h : Acts F S s)
    (hs : subParts [.regs, .dial, .sched, .ports, .front, .flow, .endpoint, .queue, .pipe, .power, .observe, .pins, .noticeSeq] F = true) : Acts F S (advanceTo s b) := by
  refine Acts.step h ?_ hs
  unfold advanceTo
  repeat' (first
    | with_reducible assumption
    | decide
    | with_reducible exact Acts.refl _ _
    | with_reducible refine advance_acts _ ?_ ?_
    | with_reducible refine Acts.iteStep ?_ (fun _ => ?_)
    | with_reducible refine Acts.foldl ?_ (fun _ _ _ => ?_)
    | dsimp -proj only
    | split)

theorem setTime_acts {F : List Part} {S : State} (t : Nat) {s : State} (h : Acts F S s)
    (hs : subParts [.regs, .dial, .sched, .ports, .front, .flow, .endpoint, .queue, .pipe, .power, .observe, .pins, .noticeSeq] F = true) : Acts F S (setTime s t) := by
  refine Acts.step h ?_ hs
  unfold setTime
  repeat' (first
    | with_reducible assumption
    | decide
    | with_reducible exact Acts.refl _ _
    | with_reducible refine refresh_acts  ?_ ?_
    | with_reducible refine beatStart_acts _ _ ?_ ?_
    | with_reducible refine Acts.iteStep ?_ (fun _ => ?_)
    | with_reducible refine Acts.foldl ?_ (fun _ _ _ => ?_)
    | dsimp -proj only
    | (with_reducible refine Acts.set_dial ?_ ?_; first | with_reducible assumption | with_reducible exact Acts.refl _ _ | with_reducible refine refresh_acts  ?_ ?_ | with_reducible refine beatStart_acts _ _ ?_ ?_ | with_reducible refine Acts.iteStep ?_ (fun _ => ?_) | with_reducible refine Acts.foldl ?_ (fun _ _ _ => ?_))
    | split)

end Sys2Proof.Machine
end

