-- ==== Sys2Proof/Laws/ActsPower.lean ====
section
/-! SUPPORT. What each operation of Machine/Power.lean may touch, and that it keeps the invariant. -/

namespace Sys2Proof.Machine

theorem refreshTemp_acts {F : List Part} {S : State}  {s : State} (h : Acts F S s)
    (hs : subParts [.regs] F = true) : Acts F S (refreshTemp s) := by
  refine Acts.step h ?_ hs
  unfold refreshTemp
  repeat' (first
    | with_reducible assumption
    | decide
    | with_reducible exact Acts.refl _ _
    | with_reducible refine wr_acts _ _ ?_ ?_
    | with_reducible refine Acts.iteStep ?_ (fun _ => ?_)
    | with_reducible refine Acts.foldl ?_ (fun _ _ _ => ?_)
    | dsimp -proj only
    | split)

theorem acceptReading_acts {F : List Part} {S : State} (key : Nat) (t : Int) {s : State} (h : Acts F S s)
    (hs : subParts [.regs, .power] F = true) : Acts F S (acceptReading s key t) := by
  refine Acts.step h ?_ hs
  unfold acceptReading
  repeat' (first
    | with_reducible assumption
    | decide
    | with_reducible exact Acts.refl _ _
    | with_reducible refine refreshTemp_acts  ?_ ?_
    | with_reducible refine Acts.iteStep ?_ (fun _ => ?_)
    | with_reducible refine Acts.foldl ?_ (fun _ _ _ => ?_)
    | dsimp -proj only
    | (with_reducible refine Acts.set_power ?_ ?_; first | with_reducible assumption | with_reducible exact Acts.refl _ _ | with_reducible refine refreshTemp_acts  ?_ ?_ | with_reducible refine Acts.iteStep ?_ (fun _ => ?_) | with_reducible refine Acts.foldl ?_ (fun _ _ _ => ?_))
    | split)

theorem execSensorRead_acts {F : List Part} {S : State} (die : Nat) (sensor : Nat) (first : Int) (second : Int) {s : State} (h : Acts F S s)
    (hs : subParts [.regs, .sched, .queue, .pipe, .power, .observe, .log, .noticeSeq] F = true) : ActsNext F S (execSensorRead die sensor first second s) := by
  refine ActsNext.step h ?_ hs
  unfold execSensorRead
  repeat' (first
    | with_reducible assumption
    | decide
    | with_reducible exact Acts.refl _ _
    | with_reducible refine acceptReading_acts _ _ ?_ ?_
    | with_reducible refine faultFound_acts _ _ _ _ ?_ ?_
    | with_reducible refine bump_acts _ _ ?_ ?_
    | with_reducible refine raise_acts _ _ ?_ ?_
    | with_reducible refine refreshTemp_acts  ?_ ?_
    | with_reducible refine Acts.iteStep ?_ (fun _ => ?_)
    | with_reducible refine Acts.foldl ?_ (fun _ _ _ => ?_)
    | with_reducible refine ActsNext.next ?_
    | with_reducible refine ActsNext.ite ?_ ?_
    | dsimp -proj only
    | (with_reducible refine Acts.set_power ?_ ?_; first | with_reducible assumption | with_reducible exact Acts.refl _ _ | with_reducible refine acceptReading_acts _ _ ?_ ?_ | with_reducible refine faultFound_acts _ _ _ _ ?_ ?_ | with_reducible refine bump_acts _ _ ?_ ?_ | with_reducible refine raise_acts _ _ ?_ ?_ | with_reducible refine refreshTemp_acts  ?_ ?_ | with_reducible refine Acts.iteStep ?_ (fun _ => ?_) | with_reducible refine Acts.foldl ?_ (fun _ _ _ => ?_) | with_reducible refine ActsNext.next ?_ | with_reducible refine ActsNext.ite ?_ ?_)
    | split)

theorem writeRegulatorCtrl_acts {F : List Part} {S : State} (a : Nat) (value : Nat) {s : State} (h : Acts F S s)
    (hs : subParts [.regs, .queue, .observe, .noticeSeq] F = true) : Acts F S (writeRegulatorCtrl s a value) := by
  refine Acts.step h ?_ hs
  unfold writeRegulatorCtrl
  repeat' (first
    | with_reducible assumption
    | decide
    | with_reducible exact Acts.refl _ _
    | with_reducible refine writeFields_acts _ _ ?_ ?_
    | with_reducible refine raiseIf_acts _ _ _ ?_ ?_
    | with_reducible refine Acts.iteStep ?_ (fun _ => ?_)
    | with_reducible refine Acts.foldl ?_ (fun _ _ _ => ?_)
    | dsimp -proj only
    | split)

theorem setTheta_acts {F : List Part} {S : State} (th : Nat) {s : State} (h : Acts F S s)
    (hs : subParts [.regs, .queue, .power, .observe, .noticeSeq] F = true) : Acts F S (setTheta s th) := by
  refine Acts.step h ?_ hs
  unfold setTheta
  repeat' (first
    | with_reducible assumption
    | decide
    | with_reducible exact Acts.refl _ _
    | with_reducible refine wrB_acts _ _ ?_ ?_
    | with_reducible refine wr_acts _ _ ?_ ?_
    | with_reducible refine raiseIf_acts _ _ _ ?_ ?_
    | with_reducible refine Acts.iteStep ?_ (fun _ => ?_)
    | with_reducible refine Acts.foldl ?_ (fun _ _ _ => ?_)
    | dsimp -proj only
    | (with_reducible refine Acts.set_power ?_ ?_; first | with_reducible assumption | with_reducible exact Acts.refl _ _ | with_reducible refine wrB_acts _ _ ?_ ?_ | with_reducible refine wr_acts _ _ ?_ ?_ | with_reducible refine raiseIf_acts _ _ _ ?_ ?_ | with_reducible refine Acts.iteStep ?_ (fun _ => ?_) | with_reducible refine Acts.foldl ?_ (fun _ _ _ => ?_))
    | split)

theorem execThermalCheck_acts {F : List Part} {S : State}  {s : State} (h : Acts F S s)
    (hs : subParts [.regs, .queue, .power, .observe, .noticeSeq] F = true) : ActsNext F S (execThermalCheck s) := by
  refine ActsNext.step h ?_ hs
  unfold execThermalCheck
  repeat' (first
    | with_reducible assumption
    | decide
    | with_reducible exact Acts.refl _ _
    | with_reducible refine setTheta_acts _ ?_ ?_
    | with_reducible refine Acts.iteStep ?_ (fun _ => ?_)
    | with_reducible refine Acts.foldl ?_ (fun _ _ _ => ?_)
    | with_reducible refine ActsNext.next ?_
    | with_reducible refine ActsNext.ite ?_ ?_
    | dsimp -proj only
    | (with_reducible refine Acts.set_power ?_ ?_; first | with_reducible assumption | with_reducible exact Acts.refl _ _ | with_reducible refine setTheta_acts _ ?_ ?_ | with_reducible refine Acts.iteStep ?_ (fun _ => ?_) | with_reducible refine Acts.foldl ?_ (fun _ _ _ => ?_) | with_reducible refine ActsNext.next ?_ | with_reducible refine ActsNext.ite ?_ ?_)
    | (with_reducible refine Acts.set_power ?_ ?_; first | with_reducible assumption | with_reducible exact Acts.refl _ _ | with_reducible refine setTheta_acts _ ?_ ?_ | with_reducible refine Acts.iteStep ?_ (fun _ => ?_) | with_reducible refine Acts.foldl ?_ (fun _ _ _ => ?_) | with_reducible refine ActsNext.next ?_ | with_reducible refine ActsNext.ite ?_ ?_ | (with_reducible refine Acts.set_power ?_ ?_; first | with_reducible assumption | with_reducible exact Acts.refl _ _ | with_reducible refine setTheta_acts _ ?_ ?_ | with_reducible refine Acts.iteStep ?_ (fun _ => ?_) | with_reducible refine Acts.foldl ?_ (fun _ _ _ => ?_) | with_reducible refine ActsNext.next ?_ | with_reducible refine ActsNext.ite ?_ ?_))
    | split)

theorem execDroopStretchStart_acts {F : List Part} {S : State} (cluster : Nat) {s : State} (h : Acts F S s)
    (hs : subParts [.regs, .power] F = true) : ActsNext F S (execDroopStretchStart cluster s) := by
  refine ActsNext.step h ?_ hs
  unfold execDroopStretchStart
  repeat' (first
    | with_reducible assumption
    | decide
    | with_reducible exact Acts.refl _ _
    | with_reducible refine bump_acts _ _ ?_ ?_
    | with_reducible refine Acts.iteStep ?_ (fun _ => ?_)
    | with_reducible refine Acts.foldl ?_ (fun _ _ _ => ?_)
    | with_reducible refine ActsNext.next ?_
    | with_reducible refine ActsNext.ite ?_ ?_
    | dsimp -proj only
    | (with_reducible refine Acts.set_power ?_ ?_; first | with_reducible assumption | with_reducible exact Acts.refl _ _ | with_reducible refine bump_acts _ _ ?_ ?_ | with_reducible refine Acts.iteStep ?_ (fun _ => ?_) | with_reducible refine Acts.foldl ?_ (fun _ _ _ => ?_) | with_reducible refine ActsNext.next ?_ | with_reducible refine ActsNext.ite ?_ ?_)
    | split)

theorem execDroopStretchEnd_acts {F : List Part} {S : State} (cluster : Nat) (cycles : Nat) {s : State} (h : Acts F S s)
    (hs : subParts [.regs, .power] F = true) : ActsNext F S (execDroopStretchEnd cluster cycles s) := by
  refine ActsNext.step h ?_ hs
  unfold execDroopStretchEnd
  repeat' (first
    | with_reducible assumption
    | decide
    | with_reducible exact Acts.refl _ _
    | with_reducible refine count_acts _ _ ?_ ?_
    | with_reducible refine bump_acts _ _ ?_ ?_
    | with_reducible refine Acts.iteStep ?_ (fun _ => ?_)
    | with_reducible refine Acts.foldl ?_ (fun _ _ _ => ?_)
    | with_reducible refine ActsNext.next ?_
    | with_reducible refine ActsNext.ite ?_ ?_
    | dsimp -proj only
    | (with_reducible refine Acts.set_power ?_ ?_; first | with_reducible assumption | with_reducible exact Acts.refl _ _ | with_reducible refine count_acts _ _ ?_ ?_ | with_reducible refine bump_acts _ _ ?_ ?_ | with_reducible refine Acts.iteStep ?_ (fun _ => ?_) | with_reducible refine Acts.foldl ?_ (fun _ _ _ => ?_) | with_reducible refine ActsNext.next ?_ | with_reducible refine ActsNext.ite ?_ ?_)
    | split)

theorem showEffective_acts {F : List Part} {S : State}  {s : State} (h : Acts F S s)
    (hs : subParts [.regs] F = true) : Acts F S (showEffective s) := by
  refine Acts.step h ?_ hs
  unfold showEffective
  repeat' (first
    | with_reducible assumption
    | decide
    | with_reducible exact Acts.refl _ _
    | with_reducible refine wr_acts _ _ ?_ ?_
    | with_reducible refine Acts.iteStep ?_ (fun _ => ?_)
    | with_reducible refine Acts.foldl ?_ (fun _ _ _ => ?_)
    | dsimp -proj only
    | split)

theorem writeCap_acts {F : List Part} {S : State} (a : Nat) (value : Nat) {s : State} (h : Acts F S s)
    (hs : subParts [.regs] F = true) : Acts F S (writeCap s a value) := by
  refine Acts.step h ?_ hs
  unfold writeCap
  repeat' (first
    | with_reducible assumption
    | decide
    | with_reducible exact Acts.refl _ _
    | with_reducible refine showEffective_acts  ?_ ?_
    | with_reducible refine writeFields_acts _ _ ?_ ?_
    | with_reducible refine Acts.iteStep ?_ (fun _ => ?_)
    | with_reducible refine Acts.foldl ?_ (fun _ _ _ => ?_)
    | dsimp -proj only
    | split)

theorem moveBulk_acts {F : List Part} {S : State} (c : Nat) (n : Nat) {s : State} (h : Acts F S s)
    (hs : subParts [.power] F = true) : Acts F S (moveBulk s c n) := by
  refine Acts.step h ?_ hs
  unfold moveBulk
  repeat' (first
    | with_reducible assumption
    | decide
    | with_reducible exact Acts.refl _ _
    | with_reducible refine Acts.iteStep ?_ (fun _ => ?_)
    | with_reducible refine Acts.foldl ?_ (fun _ _ _ => ?_)
    | dsimp -proj only
    | (with_reducible refine Acts.set_power ?_ ?_; first | with_reducible assumption | with_reducible exact Acts.refl _ _ | with_reducible refine Acts.iteStep ?_ (fun _ => ?_) | with_reducible refine Acts.foldl ?_ (fun _ _ _ => ?_))
    | split)

theorem renewRequest_acts {F : List Part} {S : State}  {s : State} (h : Acts F S s)
    (hs : subParts [.power] F = true) : Acts F S (renewRequest s) := by
  refine Acts.step h ?_ hs
  unfold renewRequest
  repeat' (first
    | with_reducible assumption
    | decide
    | with_reducible exact Acts.refl _ _
    | with_reducible refine Acts.iteStep ?_ (fun _ => ?_)
    | with_reducible refine Acts.foldl ?_ (fun _ _ _ => ?_)
    | dsimp -proj only
    | (with_reducible refine Acts.set_power ?_ ?_; first | with_reducible assumption | with_reducible exact Acts.refl _ _ | with_reducible refine Acts.iteStep ?_ (fun _ => ?_) | with_reducible refine Acts.foldl ?_ (fun _ _ _ => ?_))
    | split)

theorem divideCap_acts {F : List Part} {S : State} (linkBulk : Nat) (memBulk : Nat) (linkPending : Nat) (memPending : Nat) {s : State} (h : Acts F S s)
    (hs : subParts [.regs, .queue, .power, .observe, .noticeSeq] F = true) : Acts F S (divideCap s linkBulk memBulk linkPending memPending) := by
  refine Acts.step h ?_ hs
  unfold divideCap
  repeat' (first
    | with_reducible assumption
    | decide
    | with_reducible exact Acts.refl _ _
    | with_reducible refine wr_acts _ _ ?_ ?_
    | with_reducible refine raiseIf_acts _ _ _ ?_ ?_
    | with_reducible refine wrB_acts _ _ ?_ ?_
    | with_reducible refine Acts.iteStep ?_ (fun _ => ?_)
    | with_reducible refine Acts.foldl ?_ (fun _ _ _ => ?_)
    | dsimp -proj only
    | (with_reducible refine Acts.set_power ?_ ?_; first | with_reducible assumption | with_reducible exact Acts.refl _ _ | with_reducible refine wr_acts _ _ ?_ ?_ | with_reducible refine raiseIf_acts _ _ _ ?_ ?_ | with_reducible refine wrB_acts _ _ ?_ ?_ | with_reducible refine Acts.iteStep ?_ (fun _ => ?_) | with_reducible refine Acts.foldl ?_ (fun _ _ _ => ?_))
    | split)

theorem estimatePeriod_acts {F : List Part} {S : State} (counts : Sys2Proof.Counts) {s : State} (h : Acts F S s)
    (hs : subParts [.power, .fresh] F = true) : Acts F S (estimatePeriod s counts) := by
  refine Acts.step h ?_ hs
  unfold estimatePeriod
  repeat' (first
    | with_reducible assumption
    | decide
    | with_reducible exact Acts.refl _ _
    | with_reducible refine Acts.iteStep ?_ (fun _ => ?_)
    | with_reducible refine Acts.foldl ?_ (fun _ _ _ => ?_)
    | dsimp -proj only
    | (with_reducible refine Acts.set_power_fresh ?_ ?_ ?_; first | with_reducible assumption | with_reducible exact Acts.refl _ _ | with_reducible refine Acts.iteStep ?_ (fun _ => ?_) | with_reducible refine Acts.foldl ?_ (fun _ _ _ => ?_))
    | split)

theorem keepKilo_acts {F : List Part} {S : State}  {s : State} (h : Acts F S s)
    (hs : subParts [.power] F = true) : Acts F S (keepKilo s) := by
  refine Acts.step h ?_ hs
  unfold keepKilo
  repeat' (first
    | with_reducible assumption
    | decide
    | with_reducible exact Acts.refl _ _
    | with_reducible refine Acts.iteStep ?_ (fun _ => ?_)
    | with_reducible refine Acts.foldl ?_ (fun _ _ _ => ?_)
    | dsimp -proj only
    | (with_reducible refine Acts.set_power ?_ ?_; first | with_reducible assumption | with_reducible exact Acts.refl _ _ | with_reducible refine Acts.iteStep ?_ (fun _ => ?_) | with_reducible refine Acts.foldl ?_ (fun _ _ _ => ?_))
    | split)

theorem nextPeriod_acts {F : List Part} {S : State}  {s : State} (h : Acts F S s)
    (hs : subParts [.regs, .power] F = true) : Acts F S (nextPeriod s) := by
  refine Acts.step h ?_ hs
  unfold nextPeriod
  repeat' (first
    | with_reducible assumption
    | decide
    | with_reducible exact Acts.refl _ _
    | with_reducible refine wr_acts _ _ ?_ ?_
    | with_reducible refine Acts.iteStep ?_ (fun _ => ?_)
    | with_reducible refine Acts.foldl ?_ (fun _ _ _ => ?_)
    | dsimp -proj only
    | (with_reducible refine Acts.set_power ?_ ?_; first | with_reducible assumption | with_reducible exact Acts.refl _ _ | with_reducible refine wr_acts _ _ ?_ ?_ | with_reducible refine Acts.iteStep ?_ (fun _ => ?_) | with_reducible refine Acts.foldl ?_ (fun _ _ _ => ?_))
    | (with_reducible refine Acts.set_power ?_ ?_; first | with_reducible assumption | with_reducible exact Acts.refl _ _ | with_reducible refine wr_acts _ _ ?_ ?_ | with_reducible refine Acts.iteStep ?_ (fun _ => ?_) | with_reducible refine Acts.foldl ?_ (fun _ _ _ => ?_) | (with_reducible refine Acts.set_power ?_ ?_; first | with_reducible assumption | with_reducible exact Acts.refl _ _ | with_reducible refine wr_acts _ _ ?_ ?_ | with_reducible refine Acts.iteStep ?_ (fun _ => ?_) | with_reducible refine Acts.foldl ?_ (fun _ _ _ => ?_)))
    | split)

theorem beginReads_acts {F : List Part} {S : State} (estimate : List Nat) {s : State} (h : Acts F S s)
    (hs : subParts [.power, .out] F = true) : Acts F S (beginReads s estimate) := by
  refine Acts.step h ?_ hs
  unfold beginReads
  repeat' (first
    | with_reducible assumption
    | decide
    | with_reducible exact Acts.refl _ _
    | with_reducible refine emit_acts _ ?_ ?_
    | with_reducible refine Acts.iteStep ?_ (fun _ => ?_)
    | with_reducible refine Acts.foldl ?_ (fun _ _ _ => ?_)
    | dsimp -proj only
    | (with_reducible refine Acts.set_power ?_ ?_; first | with_reducible assumption | with_reducible exact Acts.refl _ _ | with_reducible refine emit_acts _ ?_ ?_ | with_reducible refine Acts.iteStep ?_ (fun _ => ?_) | with_reducible refine Acts.foldl ?_ (fun _ _ _ => ?_))
    | split)

theorem nextReads_acts {F : List Part} {S : State} (l : List (List Nat)) {s : State} (h : Acts F S s)
    (hs : subParts [.power, .out] F = true) : Acts F S (nextReads l s) := by
  refine Acts.step h ?_ hs
  clear h
  induction l generalizing s with
  | nil => exact Acts.set_power (Acts.refl _ _) rfl
  | cons e rest ih =>
    unfold nextReads
    have b := beginReads_acts (F := [.power, .out]) e (Acts.refl _ s) rfl
    dsimp -proj only
    split
    · exact b.trans ih
    · exact Acts.set_power b rfl


theorem execTelemetryRead_acts {F : List Part} {S : State}  {s : State} (h : Acts F S s)
    (hs : subParts [.power, .out] F = true) : ActsNext F S (execTelemetryRead s) := by
  refine ActsNext.step h ?_ hs
  unfold execTelemetryRead
  repeat' (first
    | with_reducible assumption
    | decide
    | with_reducible exact Acts.refl _ _
    | with_reducible refine nextReads_acts _ ?_ ?_
    | with_reducible refine Acts.iteStep ?_ (fun _ => ?_)
    | with_reducible refine Acts.foldl ?_ (fun _ _ _ => ?_)
    | with_reducible refine ActsNext.next ?_
    | with_reducible refine ActsNext.ite ?_ ?_
    | dsimp -proj only
    | (with_reducible refine Acts.set_power ?_ ?_; first | with_reducible assumption | with_reducible exact Acts.refl _ _ | with_reducible refine nextReads_acts _ ?_ ?_ | with_reducible refine Acts.iteStep ?_ (fun _ => ?_) | with_reducible refine Acts.foldl ?_ (fun _ _ _ => ?_) | with_reducible refine ActsNext.next ?_ | with_reducible refine ActsNext.ite ?_ ?_)
    | split)

theorem finishClass_acts {F : List Part} {S : State} (c : Nat) {s : State} (h : Acts F S s)
    (hs : subParts [.regs, .queue, .power, .tally, .observe, .noticeSeq] F = true) : Acts F S (finishClass s c) := by
  refine Acts.step h ?_ hs
  unfold finishClass
  repeat' (first
    | with_reducible assumption
    | decide
    | with_reducible exact Acts.refl _ _
    | with_reducible refine bump_acts _ _ ?_ ?_
    | with_reducible refine raise_acts _ _ ?_ ?_
    | with_reducible refine wrB_acts _ _ ?_ ?_
    | with_reducible refine wr_acts _ _ ?_ ?_
    | with_reducible refine Acts.iteStep ?_ (fun _ => ?_)
    | with_reducible refine Acts.foldl ?_ (fun _ _ _ => ?_)
    | dsimp -proj only
    | (with_reducible refine Acts.set_power ?_ ?_; first | with_reducible assumption | with_reducible exact Acts.refl _ _ | with_reducible refine bump_acts _ _ ?_ ?_ | with_reducible refine raise_acts _ _ ?_ ?_ | with_reducible refine wrB_acts _ _ ?_ ?_ | with_reducible refine wr_acts _ _ ?_ ?_ | with_reducible refine Acts.iteStep ?_ (fun _ => ?_) | with_reducible refine Acts.foldl ?_ (fun _ _ _ => ?_))
    | (with_reducible refine Acts.set_tally ?_ ?_ ?_; first | with_reducible assumption | with_reducible exact Acts.refl _ _ | with_reducible refine bump_acts _ _ ?_ ?_ | with_reducible refine raise_acts _ _ ?_ ?_ | with_reducible refine wrB_acts _ _ ?_ ?_ | with_reducible refine wr_acts _ _ ?_ ?_ | with_reducible refine Acts.iteStep ?_ (fun _ => ?_) | with_reducible refine Acts.foldl ?_ (fun _ _ _ => ?_))
    | (with_reducible refine Acts.set_power ?_ ?_; first | with_reducible assumption | with_reducible exact Acts.refl _ _ | with_reducible refine bump_acts _ _ ?_ ?_ | with_reducible refine raise_acts _ _ ?_ ?_ | with_reducible refine wrB_acts _ _ ?_ ?_ | with_reducible refine wr_acts _ _ ?_ ?_ | with_reducible refine Acts.iteStep ?_ (fun _ => ?_) | with_reducible refine Acts.foldl ?_ (fun _ _ _ => ?_) | (with_reducible refine Acts.set_power ?_ ?_; first | with_reducible assumption | with_reducible exact Acts.refl _ _ | with_reducible refine bump_acts _ _ ?_ ?_ | with_reducible refine raise_acts _ _ ?_ ?_ | with_reducible refine wrB_acts _ _ ?_ ?_ | with_reducible refine wr_acts _ _ ?_ ?_ | with_reducible refine Acts.iteStep ?_ (fun _ => ?_) | with_reducible refine Acts.foldl ?_ (fun _ _ _ => ?_)) | (with_reducible refine Acts.set_tally ?_ ?_ ?_; first | with_reducible assumption | with_reducible exact Acts.refl _ _ | with_reducible refine bump_acts _ _ ?_ ?_ | with_reducible refine raise_acts _ _ ?_ ?_ | with_reducible refine wrB_acts _ _ ?_ ?_ | with_reducible refine wr_acts _ _ ?_ ?_ | with_reducible refine Acts.iteStep ?_ (fun _ => ?_) | with_reducible refine Acts.foldl ?_ (fun _ _ _ => ?_)))
    | (with_reducible refine Acts.set_tally ?_ ?_ ?_; first | with_reducible assumption | with_reducible exact Acts.refl _ _ | with_reducible refine bump_acts _ _ ?_ ?_ | with_reducible refine raise_acts _ _ ?_ ?_ | with_reducible refine wrB_acts _ _ ?_ ?_ | with_reducible refine wr_acts _ _ ?_ ?_ | with_reducible refine Acts.iteStep ?_ (fun _ => ?_) | with_reducible refine Acts.foldl ?_ (fun _ _ _ => ?_) | (with_reducible refine Acts.set_power ?_ ?_; first | with_reducible assumption | with_reducible exact Acts.refl _ _ | with_reducible refine bump_acts _ _ ?_ ?_ | with_reducible refine raise_acts _ _ ?_ ?_ | with_reducible refine wrB_acts _ _ ?_ ?_ | with_reducible refine wr_acts _ _ ?_ ?_ | with_reducible refine Acts.iteStep ?_ (fun _ => ?_) | with_reducible refine Acts.foldl ?_ (fun _ _ _ => ?_)) | (with_reducible refine Acts.set_tally ?_ ?_ ?_; first | with_reducible assumption | with_reducible exact Acts.refl _ _ | with_reducible refine bump_acts _ _ ?_ ?_ | with_reducible refine raise_acts _ _ ?_ ?_ | with_reducible refine wrB_acts _ _ ?_ ?_ | with_reducible refine wr_acts _ _ ?_ ?_ | with_reducible refine Acts.iteStep ?_ (fun _ => ?_) | with_reducible refine Acts.foldl ?_ (fun _ _ _ => ?_)))
    | split
    | with_reducible exact TallyOk.keep_open _ _
    | (exact fun _ => rfl)
    | (intro k; rw [List.length_map]; exact k)
    | (exact fun h => Mem.wf_writeBytes _ _ h)
    | (exact fun h => Mem.wf_write _ _ h)
    | (intro _; exact Nat.zero_le _)
    | with_reducible with_reducible exact fun h => h
    | (intro h; rw [modAt_length]; exact h))

theorem execTelemetryResult_acts {F : List Part} {S : State} (entry : Nat) (first : Option Nat) (second : Option Nat) {s : State} (h : Acts F S s)
    (hs : subParts [.regs, .sched, .queue, .pipe, .power, .tally, .observe, .log, .out, .noticeSeq] F = true) : ActsNext F S (execTelemetryResult entry first second s) := by
  refine ActsNext.step h ?_ hs
  unfold execTelemetryResult
  repeat' (first
    | with_reducible assumption
    | decide
    | with_reducible exact Acts.refl _ _
    | with_reducible refine faultFound_acts _ _ _ _ ?_ ?_
    | with_reducible refine finishClass_acts _ ?_ ?_
    | with_reducible refine nextReads_acts _ ?_ ?_
    | with_reducible refine Acts.iteStep ?_ (fun _ => ?_)
    | with_reducible refine Acts.foldl ?_ (fun _ _ _ => ?_)
    | with_reducible refine ActsNext.next ?_
    | with_reducible refine ActsNext.ite ?_ ?_
    | dsimp -proj only
    | (with_reducible refine Acts.set_power ?_ ?_; first | with_reducible assumption | with_reducible exact Acts.refl _ _ | with_reducible refine faultFound_acts _ _ _ _ ?_ ?_ | with_reducible refine finishClass_acts _ ?_ ?_ | with_reducible refine nextReads_acts _ ?_ ?_ | with_reducible refine Acts.iteStep ?_ (fun _ => ?_) | with_reducible refine Acts.foldl ?_ (fun _ _ _ => ?_) | with_reducible refine ActsNext.next ?_ | with_reducible refine ActsNext.ite ?_ ?_)
    | (with_reducible refine Acts.set_power ?_ ?_; first | with_reducible assumption | with_reducible exact Acts.refl _ _ | with_reducible refine faultFound_acts _ _ _ _ ?_ ?_ | with_reducible refine finishClass_acts _ ?_ ?_ | with_reducible refine nextReads_acts _ ?_ ?_ | with_reducible refine Acts.iteStep ?_ (fun _ => ?_) | with_reducible refine Acts.foldl ?_ (fun _ _ _ => ?_) | with_reducible refine ActsNext.next ?_ | with_reducible refine ActsNext.ite ?_ ?_ | (with_reducible refine Acts.set_power ?_ ?_; first | with_reducible assumption | with_reducible exact Acts.refl _ _ | with_reducible refine faultFound_acts _ _ _ _ ?_ ?_ | with_reducible refine finishClass_acts _ ?_ ?_ | with_reducible refine nextReads_acts _ ?_ ?_ | with_reducible refine Acts.iteStep ?_ (fun _ => ?_) | with_reducible refine Acts.foldl ?_ (fun _ _ _ => ?_) | with_reducible refine ActsNext.next ?_ | with_reducible refine ActsNext.ite ?_ ?_))
    | split)

theorem applyPeerConfig_acts {F : List Part} {S : State}  {s : State} (h : Acts F S s)
    (hs : subParts [.regs, .queue, .power, .peer, .observe, .noticeSeq] F = true) : Acts F S (applyPeerConfig s) := by
  refine Acts.step h ?_ hs
  unfold applyPeerConfig
  repeat' (first
    | with_reducible assumption
    | decide
    | with_reducible exact Acts.refl _ _
    | with_reducible refine raise_acts _ _ ?_ ?_
    | with_reducible refine Acts.iteStep ?_ (fun _ => ?_)
    | with_reducible refine Acts.foldl ?_ (fun _ _ _ => ?_)
    | dsimp -proj only
    | (with_reducible refine Acts.set_power_peer ?_ ?_ ?_ ?_; first | with_reducible assumption | with_reducible exact Acts.refl _ _ | with_reducible refine raise_acts _ _ ?_ ?_ | with_reducible refine Acts.iteStep ?_ (fun _ => ?_) | with_reducible refine Acts.foldl ?_ (fun _ _ _ => ?_))
    | split
    | (exact fun (k : PeerOk _) => k)
    | (exact fun _ => rfl)
    | (intro k; rw [List.length_map]; exact k)
    | (exact fun h => Mem.wf_writeBytes _ _ h)
    | (exact fun h => Mem.wf_write _ _ h)
    | (intro _; exact Nat.zero_le _)
    | with_reducible with_reducible exact fun h => h
    | (intro h; rw [modAt_length]; exact h))

theorem portPowerOff_acts {F : List Part} {S : State} (p : Nat) {s : State} (h : Acts F S s)
    (hs : subParts [.regs, .ports] F = true) : Acts F S (portPowerOff s p) := by
  refine Acts.step h ?_ hs
  unfold portPowerOff
  repeat' (first
    | with_reducible assumption
    | decide
    | with_reducible exact Acts.refl _ _
    | with_reducible refine wr_acts _ _ ?_ ?_
    | with_reducible refine Acts.iteStep ?_ (fun _ => ?_)
    | with_reducible refine Acts.foldl ?_ (fun _ _ _ => ?_)
    | dsimp -proj only
    | (with_reducible refine Acts.set_ports ?_ ?_ ?_; first | with_reducible assumption | with_reducible exact Acts.refl _ _ | with_reducible refine wr_acts _ _ ?_ ?_ | with_reducible refine Acts.iteStep ?_ (fun _ => ?_) | with_reducible refine Acts.foldl ?_ (fun _ _ _ => ?_))
    | split
    | (generalize State.ports _ = y; intro h; simpa only [PortsOk, modAt_length, List.length_map, List.length_zipIdx] using h)
    | (exact fun _ => rfl)
    | (intro k; rw [List.length_map]; exact k)
    | (exact fun h => Mem.wf_writeBytes _ _ h)
    | (exact fun h => Mem.wf_write _ _ h)
    | (intro _; exact Nat.zero_le _)
    | with_reducible with_reducible exact fun h => h
    | (intro h; rw [modAt_length]; exact h))

theorem linkPowerOff_acts {F : List Part} {S : State} (j : Nat) {s : State} (h : Acts F S s)
    (hs : subParts [.regs, .queue, .peer, .observe, .noticeSeq] F = true) : Acts F S (linkPowerOff s j) := by
  refine Acts.step h ?_ hs
  unfold linkPowerOff
  repeat' (first
    | with_reducible assumption
    | decide
    | with_reducible exact Acts.refl _ _
    | with_reducible refine wrB_acts _ _ ?_ ?_
    | with_reducible refine wr_acts _ _ ?_ ?_
    | with_reducible refine raiseIf_acts _ _ _ ?_ ?_
    | with_reducible refine Acts.iteStep ?_ (fun _ => ?_)
    | with_reducible refine Acts.foldl ?_ (fun _ _ _ => ?_)
    | dsimp -proj only
    | (with_reducible refine Acts.set_peer ?_ ?_ ?_; first | with_reducible assumption | with_reducible exact Acts.refl _ _ | with_reducible refine wrB_acts _ _ ?_ ?_ | with_reducible refine wr_acts _ _ ?_ ?_ | with_reducible refine raiseIf_acts _ _ _ ?_ ?_ | with_reducible refine Acts.iteStep ?_ (fun _ => ?_) | with_reducible refine Acts.foldl ?_ (fun _ _ _ => ?_))
    | split
    | with_reducible refine PeerOk.keep_links _ _ ?_
    | (intro h; simpa only [modAt_length, List.length_map, List.length_zipIdx] using h)
    | (exact fun _ => rfl)
    | (intro k; rw [List.length_map]; exact k)
    | (exact fun h => Mem.wf_writeBytes _ _ h)
    | (exact fun h => Mem.wf_write _ _ h)
    | (intro _; exact Nat.zero_le _)
    | with_reducible with_reducible exact fun h => h
    | (intro h; rw [modAt_length]; exact h))

theorem lanesPowerOff_acts {F : List Part} {S : State} (d : Nat) {s : State} (h : Acts F S s)
    (hs : subParts [.regs, .ports, .queue, .peer, .observe, .noticeSeq] F = true) : Acts F S (lanesPowerOff s d) := by
  refine Acts.step h ?_ hs
  unfold lanesPowerOff
  repeat' (first
    | with_reducible assumption
    | decide
    | with_reducible exact Acts.refl _ _
    | with_reducible refine portPowerOff_acts _ ?_ ?_
    | with_reducible refine linkPowerOff_acts _ ?_ ?_
    | with_reducible refine Acts.iteStep ?_ (fun _ => ?_)
    | with_reducible refine Acts.foldl ?_ (fun _ _ _ => ?_)
    | dsimp -proj only
    | split)

theorem switchPd_acts {F : List Part} {S : State} (d : Nat) (on : Bool) {s : State} (h : Acts F S s)
    (hs : subParts [.regs, .ports, .queue, .power, .peer, .observe, .noticeSeq] F = true) : Acts F S (switchPd s d on) := by
  refine Acts.step h ?_ hs
  unfold switchPd
  repeat' (first
    | with_reducible assumption
    | decide
    | with_reducible exact Acts.refl _ _
    | with_reducible refine lanesPowerOff_acts _ ?_ ?_
    | with_reducible refine wr_acts _ _ ?_ ?_
    | with_reducible refine refreshTemp_acts  ?_ ?_
    | with_reducible refine applyPeerConfig_acts  ?_ ?_
    | with_reducible refine Acts.iteStep ?_ (fun _ => ?_)
    | with_reducible refine Acts.foldl ?_ (fun _ _ _ => ?_)
    | dsimp -proj only
    | (with_reducible refine Acts.set_power ?_ ?_; first | with_reducible assumption | with_reducible exact Acts.refl _ _ | with_reducible refine lanesPowerOff_acts _ ?_ ?_ | with_reducible refine wr_acts _ _ ?_ ?_ | with_reducible refine refreshTemp_acts  ?_ ?_ | with_reducible refine applyPeerConfig_acts  ?_ ?_ | with_reducible refine Acts.iteStep ?_ (fun _ => ?_) | with_reducible refine Acts.foldl ?_ (fun _ _ _ => ?_))
    | split)

theorem applyDomains_acts {F : List Part} {S : State} (ds : List Nat) {s : State} (h : Acts F S s)
    (hs : subParts [.regs, .ports, .queue, .power, .peer, .observe, .noticeSeq] F = true) : Acts F S (applyDomains s ds) := by
  refine Acts.step h ?_ hs
  unfold applyDomains
  repeat' (first
    | with_reducible assumption
    | decide
    | with_reducible exact Acts.refl _ _
    | with_reducible refine switchPd_acts _ _ ?_ ?_
    | with_reducible refine Acts.iteStep ?_ (fun _ => ?_)
    | with_reducible refine Acts.foldl ?_ (fun _ _ _ => ?_)
    | dsimp -proj only
    | split)

theorem execDomainReady_acts {F : List Part} {S : State} (domain : Nat) {s : State} (h : Acts F S s)
    (hs : subParts [.power] F = true) : ActsNext F S (execDomainReady domain s) := by
  refine ActsNext.step h ?_ hs
  unfold execDomainReady
  repeat' (first
    | with_reducible assumption
    | decide
    | with_reducible exact Acts.refl _ _
    | with_reducible refine Acts.iteStep ?_ (fun _ => ?_)
    | with_reducible refine Acts.foldl ?_ (fun _ _ _ => ?_)
    | with_reducible refine ActsNext.next ?_
    | with_reducible refine ActsNext.ite ?_ ?_
    | dsimp -proj only
    | (with_reducible refine Acts.set_power ?_ ?_; first | with_reducible assumption | with_reducible exact Acts.refl _ _ | with_reducible refine Acts.iteStep ?_ (fun _ => ?_) | with_reducible refine Acts.foldl ?_ (fun _ _ _ => ?_) | with_reducible refine ActsNext.next ?_ | with_reducible refine ActsNext.ite ?_ ?_)
    | split)

end Sys2Proof.Machine
end

