-- ==== Sys2Proof/Laws/ActsEpoch.lean ====
section
/-! SUPPORT. What each operation of Machine/Epoch.lean may touch, and that it keeps the invariant. -/

namespace Sys2Proof.Machine

theorem modEpoch_acts {F : List Part} {S : State} (f : Epoch → Epoch) {s : State} (h : Acts F S s)
    (hs : subParts [.tally] F = true) : Acts F S (modEpoch s f) := by
  refine Acts.step h ?_ hs
  unfold modEpoch
  repeat' (first
    | with_reducible assumption
    | decide
    | with_reducible exact Acts.refl _ _
    | with_reducible refine Acts.iteStep ?_ (fun _ => ?_)
    | with_reducible refine Acts.foldl ?_ (fun _ _ _ => ?_)
    | dsimp -proj only
    | (with_reducible refine Acts.set_tally ?_ ?_ ?_; first | with_reducible assumption | with_reducible exact Acts.refl _ _ | with_reducible refine Acts.iteStep ?_ (fun _ => ?_) | with_reducible refine Acts.foldl ?_ (fun _ _ _ => ?_))
    | split
    | with_reducible exact TallyOk.keep_open _ _
    | (exact fun _ => rfl)
    | (intro k; rw [List.length_map]; exact k)
    | (exact fun h => Mem.wf_writeBytes _ _ h)
    | (exact fun h => Mem.wf_write _ _ h)
    | (intro _; exact Nat.zero_le _)
    | with_reducible with_reducible exact fun h => h
    | (intro h; rw [modAt_length]; exact h))

theorem flagEpoch_acts {F : List Part} {S : State} (mask : Nat) {s : State} (h : Acts F S s)
    (hs : subParts [.tally] F = true) : Acts F S (flagEpoch s mask) := by
  refine Acts.step h ?_ hs
  unfold flagEpoch
  repeat' (first
    | with_reducible assumption
    | decide
    | with_reducible exact Acts.refl _ _
    | with_reducible refine modEpoch_acts _ ?_ ?_
    | with_reducible refine Acts.iteStep ?_ (fun _ => ?_)
    | with_reducible refine Acts.foldl ?_ (fun _ _ _ => ?_)
    | dsimp -proj only
    | split)

theorem startEpoch_acts {F : List Part} {S : State} (flags : Nat) (t : Nat) (seconds : Nat) {s : State} (h : Acts F S s)
    (hs : subParts [.dial, .tally] F = true) : Acts F S (startEpoch s flags t seconds) := by
  refine Acts.step h ?_ hs
  unfold startEpoch
  repeat' (first
    | with_reducible assumption
    | decide
    | with_reducible exact Acts.refl _ _
    | with_reducible refine Acts.iteStep ?_ (fun _ => ?_)
    | with_reducible refine Acts.foldl ?_ (fun _ _ _ => ?_)
    | dsimp -proj only
    | (with_reducible refine Acts.set_dial_tally ?_ ?_ ?_ ?_; first | with_reducible assumption | with_reducible exact Acts.refl _ _ | with_reducible refine Acts.iteStep ?_ (fun _ => ?_) | with_reducible refine Acts.foldl ?_ (fun _ _ _ => ?_))
    | split
    | with_reducible exact TallyOk.keep_open _ _
    | (exact fun _ => rfl)
    | (intro k; rw [List.length_map]; exact k)
    | (exact fun h => Mem.wf_writeBytes _ _ h)
    | (exact fun h => Mem.wf_write _ _ h)
    | (intro _; exact Nat.zero_le _)
    | with_reducible with_reducible exact fun h => h
    | (intro h; rw [modAt_length]; exact h))

theorem endEpoch_acts {F : List Part} {S : State} (flags : Nat) (t : Nat) {s : State} (h : Acts F S s)
    (hs : subParts [.regs, .tally] F = true) : Acts F S (endEpoch s flags t) := by
  refine Acts.step h ?_ hs
  unfold endEpoch
  repeat' (first
    | with_reducible assumption
    | decide
    | with_reducible exact Acts.refl _ _
    | with_reducible refine wrB_acts _ _ ?_ ?_
    | with_reducible refine Acts.iteStep ?_ (fun _ => ?_)
    | with_reducible refine Acts.foldl ?_ (fun _ _ _ => ?_)
    | dsimp -proj only
    | (with_reducible refine Acts.set_tally ?_ ?_ ?_; first | with_reducible assumption | with_reducible exact Acts.refl _ _ | with_reducible refine wrB_acts _ _ ?_ ?_ | with_reducible refine Acts.iteStep ?_ (fun _ => ?_) | with_reducible refine Acts.foldl ?_ (fun _ _ _ => ?_))
    | split
    | with_reducible exact TallyOk.keep_open_frozen _ _ _
    | (exact fun _ => rfl)
    | (intro k; rw [List.length_map]; exact k)
    | (exact fun h => Mem.wf_writeBytes _ _ h)
    | (exact fun h => Mem.wf_write _ _ h)
    | (intro _; exact Nat.zero_le _)
    | with_reducible with_reducible exact fun h => h
    | (intro h; rw [modAt_length]; exact h))

theorem showClosing_acts {F : List Part} {S : State}  {s : State} (h : Acts F S s)
    (hs : subParts [.regs] F = true) : Acts F S (showClosing s) := by
  refine Acts.step h ?_ hs
  unfold showClosing
  repeat' (first
    | with_reducible assumption
    | decide
    | with_reducible exact Acts.refl _ _
    | with_reducible refine wrB_acts _ _ ?_ ?_
    | with_reducible refine Acts.iteStep ?_ (fun _ => ?_)
    | with_reducible refine Acts.foldl ?_ (fun _ _ _ => ?_)
    | dsimp -proj only
    | split)

theorem dropStamps_acts {F : List Part} {S : State}  {s : State} (h : Acts F S s)
    (hs : subParts [.dial] F = true) : Acts F S (dropStamps s) := by
  refine Acts.step h ?_ hs
  unfold dropStamps
  repeat' (first
    | with_reducible assumption
    | decide
    | with_reducible exact Acts.refl _ _
    | with_reducible refine Acts.iteStep ?_ (fun _ => ?_)
    | with_reducible refine Acts.foldl ?_ (fun _ _ _ => ?_)
    | dsimp -proj only
    | (with_reducible refine Acts.set_dial ?_ ?_; first | with_reducible assumption | with_reducible exact Acts.refl _ _ | with_reducible refine Acts.iteStep ?_ (fun _ => ?_) | with_reducible refine Acts.foldl ?_ (fun _ _ _ => ?_))
    | split)

theorem stepTime_acts {F : List Part} {S : State} (t : Nat) {s : State} (h : Acts F S s)
    (hs : subParts [.regs, .dial, .sched, .ports, .front, .flow, .endpoint, .queue, .pipe, .power, .tally, .observe, .pins, .noticeSeq] F = true) : Acts F S (stepTime s t) := by
  refine Acts.step h ?_ hs
  unfold stepTime
  repeat' (first
    | with_reducible assumption
    | decide
    | with_reducible exact Acts.refl _ _
    | with_reducible refine endEpoch_acts _ _ ?_ ?_
    | with_reducible refine setTime_acts _ ?_ ?_
    | with_reducible refine startEpoch_acts _ _ _ ?_ ?_
    | with_reducible refine raiseIf_acts _ _ _ ?_ ?_
    | with_reducible refine Acts.iteStep ?_ (fun _ => ?_)
    | with_reducible refine Acts.foldl ?_ (fun _ _ _ => ?_)
    | dsimp -proj only
    | split)

theorem countRequest_acts {F : List Part} {S : State} (acct : Nat) {s : State} (h : Acts F S s)
    (hs : subParts [.tally] F = true) : Acts F S (countRequest s acct) := by
  refine Acts.step h ?_ hs
  unfold countRequest
  repeat' (first
    | with_reducible assumption
    | decide
    | with_reducible exact Acts.refl _ _
    | with_reducible refine modEpoch_acts _ ?_ ?_
    | with_reducible refine Acts.iteStep ?_ (fun _ => ?_)
    | with_reducible refine Acts.foldl ?_ (fun _ _ _ => ?_)
    | dsimp -proj only
    | split)

theorem countShed_acts {F : List Part} {S : State} (acct : Nat) {s : State} (h : Acts F S s)
    (hs : subParts [.tally] F = true) : Acts F S (countShed s acct) := by
  refine Acts.step h ?_ hs
  unfold countShed
  repeat' (first
    | with_reducible assumption
    | decide
    | with_reducible exact Acts.refl _ _
    | with_reducible refine modEpoch_acts _ ?_ ?_
    | with_reducible refine Acts.iteStep ?_ (fun _ => ?_)
    | with_reducible refine Acts.foldl ?_ (fun _ _ _ => ?_)
    | dsimp -proj only
    | split)

theorem countOperation_acts {F : List Part} {S : State} (j : Job) {s : State} (h : Acts F S s)
    (hs : subParts [.tally] F = true) : Acts F S (countOperation s j) := by
  refine Acts.step h ?_ hs
  unfold countOperation
  repeat' (first
    | with_reducible assumption
    | decide
    | with_reducible exact Acts.refl _ _
    | with_reducible refine modEpoch_acts _ ?_ ?_
    | with_reducible refine Acts.iteStep ?_ (fun _ => ?_)
    | with_reducible refine Acts.foldl ?_ (fun _ _ _ => ?_)
    | dsimp -proj only
    | split)

theorem retireJobAcc_acts {F : List Part} {S : State} (j : Job) (st : Nat) {s : State} (h : Acts F S s)
    (hs : subParts [.tally] F = true) : Acts F S (retireJobAcc s j st) := by
  refine Acts.step h ?_ hs
  unfold retireJobAcc
  repeat' (first
    | with_reducible assumption
    | decide
    | with_reducible exact Acts.refl _ _
    | with_reducible refine modEpoch_acts _ ?_ ?_
    | with_reducible refine Acts.iteStep ?_ (fun _ => ?_)
    | with_reducible refine Acts.foldl ?_ (fun _ _ _ => ?_)
    | dsimp -proj only
    | split)

theorem keyHead_acts {F : List Part} {S : State} (acct : Nat) (bytes : Nat) {s : State} (h : Acts F S s)
    (hs : subParts [.tally] F = true) : Acts F S (keyHead s acct bytes) := by
  refine Acts.step h ?_ hs
  unfold keyHead
  repeat' (first
    | with_reducible assumption
    | decide
    | with_reducible exact Acts.refl _ _
    | with_reducible refine Acts.iteStep ?_ (fun _ => ?_)
    | with_reducible refine Acts.foldl ?_ (fun _ _ _ => ?_)
    | dsimp -proj only
    | (with_reducible refine Acts.set_tally ?_ ?_ ?_; first | with_reducible assumption | with_reducible exact Acts.refl _ _ | with_reducible refine Acts.iteStep ?_ (fun _ => ?_) | with_reducible refine Acts.foldl ?_ (fun _ _ _ => ?_))
    | split
    | with_reducible exact TallyOk.keep_headKeys _ _
    | (exact fun _ => rfl)
    | (intro k; rw [List.length_map]; exact k)
    | (exact fun h => Mem.wf_writeBytes _ _ h)
    | (exact fun h => Mem.wf_write _ _ h)
    | (intro _; exact Nat.zero_le _)
    | with_reducible with_reducible exact fun h => h
    | (intro h; rw [modAt_length]; exact h))

theorem keyCompute_acts {F : List Part} {S : State} (batch : Nat) (cycles : Nat) {s : State} (h : Acts F S s)
    (hs : subParts [.tally] F = true) : Acts F S (keyCompute s batch cycles) := by
  refine Acts.step h ?_ hs
  unfold keyCompute
  repeat' (first
    | with_reducible assumption
    | decide
    | with_reducible exact Acts.refl _ _
    | with_reducible refine Acts.iteStep ?_ (fun _ => ?_)
    | with_reducible refine Acts.foldl ?_ (fun _ _ _ => ?_)
    | dsimp -proj only
    | (with_reducible refine Acts.set_tally ?_ ?_ ?_; first | with_reducible assumption | with_reducible exact Acts.refl _ _ | with_reducible refine Acts.iteStep ?_ (fun _ => ?_) | with_reducible refine Acts.foldl ?_ (fun _ _ _ => ?_))
    | split
    | with_reducible exact TallyOk.keep_computeKeys _ _
    | (exact fun _ => rfl)
    | (intro k; rw [List.length_map]; exact k)
    | (exact fun h => Mem.wf_writeBytes _ _ h)
    | (exact fun h => Mem.wf_write _ _ h)
    | (intro _; exact Nat.zero_le _)
    | with_reducible with_reducible exact fun h => h
    | (intro h; rw [modAt_length]; exact h))

theorem keyAdapt_acts {F : List Part} {S : State} (slot : Nat) (cycles : Nat) {s : State} (h : Acts F S s)
    (hs : subParts [.tally] F = true) : Acts F S (keyAdapt s slot cycles) := by
  refine Acts.step h ?_ hs
  unfold keyAdapt
  repeat' (first
    | with_reducible assumption
    | decide
    | with_reducible exact Acts.refl _ _
    | with_reducible refine Acts.iteStep ?_ (fun _ => ?_)
    | with_reducible refine Acts.foldl ?_ (fun _ _ _ => ?_)
    | dsimp -proj only
    | (with_reducible refine Acts.set_tally ?_ ?_ ?_; first | with_reducible assumption | with_reducible exact Acts.refl _ _ | with_reducible refine Acts.iteStep ?_ (fun _ => ?_) | with_reducible refine Acts.foldl ?_ (fun _ _ _ => ?_))
    | split
    | with_reducible exact TallyOk.keep_adaptKeys _ _
    | (exact fun _ => rfl)
    | (intro k; rw [List.length_map]; exact k)
    | (exact fun h => Mem.wf_writeBytes _ _ h)
    | (exact fun h => Mem.wf_write _ _ h)
    | (intro _; exact Nat.zero_le _)
    | with_reducible with_reducible exact fun h => h
    | (intro h; rw [modAt_length]; exact h))

theorem keyMemory_acts {F : List Part} {S : State} (kind : Nat) (id : Nat) (n : Nat) {s : State} (h : Acts F S s)
    (hs : subParts [.tally, .observe] F = true) : Acts F S (keyMemory s kind id n) := by
  refine Acts.step h ?_ hs
  unfold keyMemory
  repeat' (first
    | with_reducible assumption
    | decide
    | with_reducible exact Acts.refl _ _
    | with_reducible refine countHbm_acts _ ?_ ?_
    | with_reducible refine Acts.iteStep ?_ (fun _ => ?_)
    | with_reducible refine Acts.foldl ?_ (fun _ _ _ => ?_)
    | dsimp -proj only
    | (with_reducible refine Acts.set_tally ?_ ?_ ?_; first | with_reducible assumption | with_reducible exact Acts.refl _ _ | with_reducible refine countHbm_acts _ ?_ ?_ | with_reducible refine Acts.iteStep ?_ (fun _ => ?_) | with_reducible refine Acts.foldl ?_ (fun _ _ _ => ?_))
    | split
    | with_reducible exact TallyOk.keep_memKeys _ _
    | (exact fun _ => rfl)
    | (intro k; rw [List.length_map]; exact k)
    | (exact fun h => Mem.wf_writeBytes _ _ h)
    | (exact fun h => Mem.wf_write _ _ h)
    | (intro _; exact Nat.zero_le _)
    | with_reducible with_reducible exact fun h => h
    | (intro h; rw [modAt_length]; exact h))

theorem keyLinkJob_acts {F : List Part} {S : State} (job : Nat) (bytes : Nat) {s : State} (h : Acts F S s)
    (hs : subParts [.tally] F = true) : Acts F S (keyLinkJob s job bytes) := by
  refine Acts.step h ?_ hs
  unfold keyLinkJob
  repeat' (first
    | with_reducible assumption
    | decide
    | with_reducible exact Acts.refl _ _
    | with_reducible refine Acts.iteStep ?_ (fun _ => ?_)
    | with_reducible refine Acts.foldl ?_ (fun _ _ _ => ?_)
    | dsimp -proj only
    | (with_reducible refine Acts.set_tally ?_ ?_ ?_; first | with_reducible assumption | with_reducible exact Acts.refl _ _ | with_reducible refine Acts.iteStep ?_ (fun _ => ?_) | with_reducible refine Acts.foldl ?_ (fun _ _ _ => ?_))
    | split
    | with_reducible exact TallyOk.keep_linkJobs _ _
    | (exact fun _ => rfl)
    | (intro k; rw [List.length_map]; exact k)
    | (exact fun h => Mem.wf_writeBytes _ _ h)
    | (exact fun h => Mem.wf_write _ _ h)
    | (intro _; exact Nat.zero_le _)
    | with_reducible with_reducible exact fun h => h
    | (intro h; rw [modAt_length]; exact h))

end Sys2Proof.Machine
end

