-- ==== Sys2Proof/Laws/ActsSched.lean ====
section
/-! SUPPORT. What each operation of Machine/Sched.lean may touch, and that it keeps the invariant. -/

namespace Sys2Proof.Machine

theorem applyGroupGrants_acts {F : List Part} {S : State}  {s : State} (h : Acts F S s)
    (hs : subParts [.regs, .power] F = true) : Acts F S (applyGroupGrants s) := by
  refine Acts.step h ?_ hs
  unfold applyGroupGrants
  repeat' (first
    | with_reducible assumption
    | decide
    | with_reducible exact Acts.refl _ _
    | with_reducible refine wr_acts _ _ ?_ ?_
    | with_reducible refine showEffective_acts  ?_ ?_
    | with_reducible refine Acts.iteStep ?_ (fun _ => ?_)
    | with_reducible refine Acts.foldl ?_ (fun _ _ _ => ?_)
    | dsimp -proj only
    | (with_reducible refine Acts.set_power ?_ ?_; first | with_reducible assumption | with_reducible exact Acts.refl _ _ | with_reducible refine wr_acts _ _ ?_ ?_ | with_reducible refine showEffective_acts  ?_ ?_ | with_reducible refine Acts.iteStep ?_ (fun _ => ?_) | with_reducible refine Acts.foldl ?_ (fun _ _ _ => ?_))
    | split)

theorem raiseSupply_acts {F : List Part} {S : State}  {s : State} (h : Acts F S s)
    (hs : subParts [.power] F = true) : Acts F S (raiseSupply s) := by
  refine Acts.step h ?_ hs
  unfold raiseSupply
  repeat' (first
    | with_reducible assumption
    | decide
    | with_reducible exact Acts.refl _ _
    | with_reducible refine Acts.iteStep ?_ (fun _ => ?_)
    | with_reducible refine Acts.foldl ?_ (fun _ _ _ => ?_)
    | dsimp -proj only
    | (with_reducible refine Acts.set_power ?_ ?_; first | with_reducible assumption | with_reducible exact Acts.refl _ _ | with_reducible refine Acts.iteStep ?_ (fun _ => ?_) | with_reducible refine Acts.foldl ?_ (fun _ _ _ => ?_))
    | (with_reducible refine Acts.set_power ?_ ?_; first | with_reducible assumption | with_reducible exact Acts.refl _ _ | with_reducible refine Acts.iteStep ?_ (fun _ => ?_) | with_reducible refine Acts.foldl ?_ (fun _ _ _ => ?_) | (with_reducible refine Acts.set_power ?_ ?_; first | with_reducible assumption | with_reducible exact Acts.refl _ _ | with_reducible refine Acts.iteStep ?_ (fun _ => ?_) | with_reducible refine Acts.foldl ?_ (fun _ _ _ => ?_)))
    | split)

theorem settleSupply_acts {F : List Part} {S : State}  {s : State} (h : Acts F S s)
    (hs : subParts [.power] F = true) : Acts F S (settleSupply s) := by
  refine Acts.step h ?_ hs
  unfold settleSupply
  repeat' (first
    | with_reducible assumption
    | decide
    | with_reducible exact Acts.refl _ _
    | with_reducible refine Acts.iteStep ?_ (fun _ => ?_)
    | with_reducible refine Acts.foldl ?_ (fun _ _ _ => ?_)
    | dsimp -proj only
    | (with_reducible refine Acts.set_power ?_ ?_; first | with_reducible assumption | with_reducible exact Acts.refl _ _ | with_reducible refine Acts.iteStep ?_ (fun _ => ?_) | with_reducible refine Acts.foldl ?_ (fun _ _ _ => ?_))
    | (with_reducible refine Acts.set_power ?_ ?_; first | with_reducible assumption | with_reducible exact Acts.refl _ _ | with_reducible refine Acts.iteStep ?_ (fun _ => ?_) | with_reducible refine Acts.foldl ?_ (fun _ _ _ => ?_) | (with_reducible refine Acts.set_power ?_ ?_; first | with_reducible assumption | with_reducible exact Acts.refl _ _ | with_reducible refine Acts.iteStep ?_ (fun _ => ?_) | with_reducible refine Acts.foldl ?_ (fun _ _ _ => ?_)))
    | split)

theorem dropSupply_acts {F : List Part} {S : State}  {s : State} (h : Acts F S s)
    (hs : subParts [.power] F = true) : Acts F S (dropSupply s) := by
  refine Acts.step h ?_ hs
  unfold dropSupply
  repeat' (first
    | with_reducible assumption
    | decide
    | with_reducible exact Acts.refl _ _
    | with_reducible refine settleSupply_acts  ?_ ?_
    | with_reducible refine Acts.iteStep ?_ (fun _ => ?_)
    | with_reducible refine Acts.foldl ?_ (fun _ _ _ => ?_)
    | dsimp -proj only
    | split)

theorem execShedDecision_acts {F : List Part} {S : State}  {s : State} (h : Acts F S s)
    (hs : subParts [.regs, .sched, .queue, .pipe, .power, .observe, .noticeSeq] F = true) : ActsNext F S (execShedDecision s) := by
  refine ActsNext.step h ?_ hs
  unfold execShedDecision
  repeat' (first
    | with_reducible assumption
    | decide
    | with_reducible exact Acts.refl _ _
    | with_reducible refine renewRequest_acts  ?_ ?_
    | with_reducible refine applyGroupGrants_acts  ?_ ?_
    | with_reducible refine raiseSupply_acts  ?_ ?_
    | with_reducible refine wr_acts _ _ ?_ ?_
    | with_reducible refine raiseIf_acts _ _ _ ?_ ?_
    | with_reducible refine Acts.iteStep ?_ (fun _ => ?_)
    | with_reducible refine Acts.foldl ?_ (fun _ _ _ => ?_)
    | with_reducible refine ActsNext.next ?_
    | with_reducible refine ActsNext.ite ?_ ?_
    | dsimp -proj only
    | (with_reducible refine Acts.set_sched_power ?_ ?_ ?_ ?_; first | with_reducible assumption | with_reducible exact Acts.refl _ _ | with_reducible refine renewRequest_acts  ?_ ?_ | with_reducible refine applyGroupGrants_acts  ?_ ?_ | with_reducible refine raiseSupply_acts  ?_ ?_ | with_reducible refine wr_acts _ _ ?_ ?_ | with_reducible refine raiseIf_acts _ _ _ ?_ ?_ | with_reducible refine Acts.iteStep ?_ (fun _ => ?_) | with_reducible refine Acts.foldl ?_ (fun _ _ _ => ?_) | with_reducible refine ActsNext.next ?_ | with_reducible refine ActsNext.ite ?_ ?_)
    | (with_reducible refine Acts.set_sched_pipe ?_ ?_ ?_ ?_ ?_; first | with_reducible assumption | with_reducible exact Acts.refl _ _ | with_reducible refine renewRequest_acts  ?_ ?_ | with_reducible refine applyGroupGrants_acts  ?_ ?_ | with_reducible refine raiseSupply_acts  ?_ ?_ | with_reducible refine wr_acts _ _ ?_ ?_ | with_reducible refine raiseIf_acts _ _ _ ?_ ?_ | with_reducible refine Acts.iteStep ?_ (fun _ => ?_) | with_reducible refine Acts.foldl ?_ (fun _ _ _ => ?_) | with_reducible refine ActsNext.next ?_ | with_reducible refine ActsNext.ite ?_ ?_)
    | (with_reducible refine Acts.set_sched_power ?_ ?_ ?_ ?_; first | with_reducible assumption | with_reducible exact Acts.refl _ _ | with_reducible refine renewRequest_acts  ?_ ?_ | with_reducible refine applyGroupGrants_acts  ?_ ?_ | with_reducible refine raiseSupply_acts  ?_ ?_ | with_reducible refine wr_acts _ _ ?_ ?_ | with_reducible refine raiseIf_acts _ _ _ ?_ ?_ | with_reducible refine Acts.iteStep ?_ (fun _ => ?_) | with_reducible refine Acts.foldl ?_ (fun _ _ _ => ?_) | with_reducible refine ActsNext.next ?_ | with_reducible refine ActsNext.ite ?_ ?_ | (with_reducible refine Acts.set_sched_power ?_ ?_ ?_ ?_; first | with_reducible assumption | with_reducible exact Acts.refl _ _ | with_reducible refine renewRequest_acts  ?_ ?_ | with_reducible refine applyGroupGrants_acts  ?_ ?_ | with_reducible refine raiseSupply_acts  ?_ ?_ | with_reducible refine wr_acts _ _ ?_ ?_ | with_reducible refine raiseIf_acts _ _ _ ?_ ?_ | with_reducible refine Acts.iteStep ?_ (fun _ => ?_) | with_reducible refine Acts.foldl ?_ (fun _ _ _ => ?_) | with_reducible refine ActsNext.next ?_ | with_reducible refine ActsNext.ite ?_ ?_) | (with_reducible refine Acts.set_sched_pipe ?_ ?_ ?_ ?_ ?_; first | with_reducible assumption | with_reducible exact Acts.refl _ _ | with_reducible refine renewRequest_acts  ?_ ?_ | with_reducible refine applyGroupGrants_acts  ?_ ?_ | with_reducible refine raiseSupply_acts  ?_ ?_ | with_reducible refine wr_acts _ _ ?_ ?_ | with_reducible refine raiseIf_acts _ _ _ ?_ ?_ | with_reducible refine Acts.iteStep ?_ (fun _ => ?_) | with_reducible refine Acts.foldl ?_ (fun _ _ _ => ?_) | with_reducible refine ActsNext.next ?_ | with_reducible refine ActsNext.ite ?_ ?_))
    | (with_reducible refine Acts.set_sched_pipe ?_ ?_ ?_ ?_ ?_; first | with_reducible assumption | with_reducible exact Acts.refl _ _ | with_reducible refine renewRequest_acts  ?_ ?_ | with_reducible refine applyGroupGrants_acts  ?_ ?_ | with_reducible refine raiseSupply_acts  ?_ ?_ | with_reducible refine wr_acts _ _ ?_ ?_ | with_reducible refine raiseIf_acts _ _ _ ?_ ?_ | with_reducible refine Acts.iteStep ?_ (fun _ => ?_) | with_reducible refine Acts.foldl ?_ (fun _ _ _ => ?_) | with_reducible refine ActsNext.next ?_ | with_reducible refine ActsNext.ite ?_ ?_ | (with_reducible refine Acts.set_sched_power ?_ ?_ ?_ ?_; first | with_reducible assumption | with_reducible exact Acts.refl _ _ | with_reducible refine renewRequest_acts  ?_ ?_ | with_reducible refine applyGroupGrants_acts  ?_ ?_ | with_reducible refine raiseSupply_acts  ?_ ?_ | with_reducible refine wr_acts _ _ ?_ ?_ | with_reducible refine raiseIf_acts _ _ _ ?_ ?_ | with_reducible refine Acts.iteStep ?_ (fun _ => ?_) | with_reducible refine Acts.foldl ?_ (fun _ _ _ => ?_) | with_reducible refine ActsNext.next ?_ | with_reducible refine ActsNext.ite ?_ ?_) | (with_reducible refine Acts.set_sched_pipe ?_ ?_ ?_ ?_ ?_; first | with_reducible assumption | with_reducible exact Acts.refl _ _ | with_reducible refine renewRequest_acts  ?_ ?_ | with_reducible refine applyGroupGrants_acts  ?_ ?_ | with_reducible refine raiseSupply_acts  ?_ ?_ | with_reducible refine wr_acts _ _ ?_ ?_ | with_reducible refine raiseIf_acts _ _ _ ?_ ?_ | with_reducible refine Acts.iteStep ?_ (fun _ => ?_) | with_reducible refine Acts.foldl ?_ (fun _ _ _ => ?_) | with_reducible refine ActsNext.next ?_ | with_reducible refine ActsNext.ite ?_ ?_))
    | split
    | with_reducible exact SchedOk.keep_frozen_capNext _ _ _
    | with_reducible exact SchedOk.keep_nextGrants_decided _ _ _
    | with_reducible exact PipeOk.keep_batches _ _
    | (exact fun _ => rfl)
    | (intro k; rw [List.length_map]; exact k)
    | (exact fun h => Mem.wf_writeBytes _ _ h)
    | (exact fun h => Mem.wf_write _ _ h)
    | (intro _; exact Nat.zero_le _)
    | with_reducible with_reducible exact fun h => h
    | (intro h; rw [modAt_length]; exact h))

theorem showPair_acts {F : List Part} {S : State}  {s : State} (h : Acts F S s)
    (hs : subParts [.regs] F = true) : Acts F S (showPair s) := by
  refine Acts.step h ?_ hs
  unfold showPair
  repeat' (first
    | with_reducible assumption
    | decide
    | with_reducible exact Acts.refl _ _
    | with_reducible refine wr_acts _ _ ?_ ?_
    | with_reducible refine Acts.iteStep ?_ (fun _ => ?_)
    | with_reducible refine Acts.foldl ?_ (fun _ _ _ => ?_)
    | dsimp -proj only
    | split)

theorem showPoint_acts {F : List Part} {S : State}  {s : State} (h : Acts F S s)
    (hs : subParts [.regs] F = true) : Acts F S (showPoint s) := by
  refine Acts.step h ?_ hs
  unfold showPoint
  repeat' (first
    | with_reducible assumption
    | decide
    | with_reducible exact Acts.refl _ _
    | with_reducible refine wr_acts _ _ ?_ ?_
    | with_reducible refine showPair_acts  ?_ ?_
    | with_reducible refine Acts.iteStep ?_ (fun _ => ?_)
    | with_reducible refine Acts.foldl ?_ (fun _ _ _ => ?_)
    | dsimp -proj only
    | split)

theorem traceFreq_acts {F : List Part} {S : State} (deferred : Bool) {s : State} (h : Acts F S s)
    (hs : subParts [.regs, .queue, .observe, .noticeSeq] F = true) : Acts F S (traceFreq s deferred) := by
  refine Acts.step h ?_ hs
  unfold traceFreq
  repeat' (first
    | with_reducible assumption
    | decide
    | with_reducible exact Acts.refl _ _
    | with_reducible refine trace_acts _ _ _ ?_ ?_
    | with_reducible refine Acts.iteStep ?_ (fun _ => ?_)
    | with_reducible refine Acts.foldl ?_ (fun _ _ _ => ?_)
    | dsimp -proj only
    | split)

theorem judgeRound_acts {F : List Part} {S : State} (c : Schedule) {s : State} (h : Acts F S s)
    (hs : subParts [.regs, .sched, .queue, .power, .observe, .noticeSeq] F = true) : Acts F S (judgeRound s c) := by
  refine Acts.step h ?_ hs
  unfold judgeRound
  repeat' (first
    | with_reducible assumption
    | decide
    | with_reducible exact Acts.refl _ _
    | with_reducible refine wr_acts _ _ ?_ ?_
    | with_reducible refine raise_acts _ _ ?_ ?_
    | with_reducible refine bump_acts _ _ ?_ ?_
    | with_reducible refine raiseIf_acts _ _ _ ?_ ?_
    | with_reducible refine Acts.iteStep ?_ (fun _ => ?_)
    | with_reducible refine Acts.foldl ?_ (fun _ _ _ => ?_)
    | dsimp -proj only
    | (with_reducible refine Acts.set_sched_power ?_ ?_ ?_ ?_; first | with_reducible assumption | with_reducible exact Acts.refl _ _ | with_reducible refine wr_acts _ _ ?_ ?_ | with_reducible refine raise_acts _ _ ?_ ?_ | with_reducible refine bump_acts _ _ ?_ ?_ | with_reducible refine raiseIf_acts _ _ _ ?_ ?_ | with_reducible refine Acts.iteStep ?_ (fun _ => ?_) | with_reducible refine Acts.foldl ?_ (fun _ _ _ => ?_))
    | split
    | with_reducible exact SchedOk.keep_capW _ _
    | (exact fun _ => rfl)
    | (intro k; rw [List.length_map]; exact k)
    | (exact fun h => Mem.wf_writeBytes _ _ h)
    | (exact fun h => Mem.wf_write _ _ h)
    | (intro _; exact Nat.zero_le _)
    | with_reducible with_reducible exact fun h => h
    | (intro h; rw [modAt_length]; exact h))

theorem changePoint_acts {F : List Part} {S : State}  {s : State} (h : Acts F S s)
    (hs : subParts [.regs, .sched, .queue, .power, .observe, .noticeSeq] F = true) : Acts F S (changePoint s) := by
  refine Acts.step h ?_ hs
  unfold changePoint
  repeat' (first
    | with_reducible assumption
    | decide
    | with_reducible exact Acts.refl _ _
    | with_reducible refine dropSupply_acts  ?_ ?_
    | with_reducible refine traceFreq_acts _ ?_ ?_
    | with_reducible refine showPoint_acts  ?_ ?_
    | with_reducible refine count_acts _ _ ?_ ?_
    | with_reducible refine settleSupply_acts  ?_ ?_
    | with_reducible refine raise_acts _ _ ?_ ?_
    | with_reducible refine bump_acts _ _ ?_ ?_
    | with_reducible refine Acts.iteStep ?_ (fun _ => ?_)
    | with_reducible refine Acts.foldl ?_ (fun _ _ _ => ?_)
    | dsimp -proj only
    | (with_reducible refine Acts.set_sched_power ?_ ?_ ?_ ?_; first | with_reducible assumption | with_reducible exact Acts.refl _ _ | with_reducible refine dropSupply_acts  ?_ ?_ | with_reducible refine traceFreq_acts _ ?_ ?_ | with_reducible refine showPoint_acts  ?_ ?_ | with_reducible refine count_acts _ _ ?_ ?_ | with_reducible refine settleSupply_acts  ?_ ?_ | with_reducible refine raise_acts _ _ ?_ ?_ | with_reducible refine bump_acts _ _ ?_ ?_ | with_reducible refine Acts.iteStep ?_ (fun _ => ?_) | with_reducible refine Acts.foldl ?_ (fun _ _ _ => ?_))
    | split
    | with_reducible exact SchedOk.keep_frozen _ _
    | (exact fun _ => rfl)
    | (intro k; rw [List.length_map]; exact k)
    | (exact fun h => Mem.wf_writeBytes _ _ h)
    | (exact fun h => Mem.wf_write _ _ h)
    | (intro _; exact Nat.zero_le _)
    | with_reducible with_reducible exact fun h => h
    | (intro h; rw [modAt_length]; exact h))

theorem loseSnapshots_acts {F : List Part} {S : State}  {s : State} (h : Acts F S s)
    (hs : subParts [.regs, .queue, .observe, .noticeSeq] F = true) : Acts F S (loseSnapshots s) := by
  refine Acts.step h ?_ hs
  unfold loseSnapshots
  repeat' (first
    | with_reducible assumption
    | decide
    | with_reducible exact Acts.refl _ _
    | with_reducible refine raise_acts _ _ ?_ ?_
    | with_reducible refine bump_acts _ _ ?_ ?_
    | with_reducible refine Acts.iteStep ?_ (fun _ => ?_)
    | with_reducible refine Acts.foldl ?_ (fun _ _ _ => ?_)
    | dsimp -proj only
    | (with_reducible refine Acts.set_observe ?_ ?_ ?_; first | with_reducible assumption | with_reducible exact Acts.refl _ _ | with_reducible refine raise_acts _ _ ?_ ?_ | with_reducible refine bump_acts _ _ ?_ ?_ | with_reducible refine Acts.iteStep ?_ (fun _ => ?_) | with_reducible refine Acts.foldl ?_ (fun _ _ _ => ?_))
    | split
    | with_reducible refine ObserveOk.keep_snapshots_runLost _ _ _ ?_
    | (exact fun _ => rfl)
    | (intro k; rw [List.length_map]; exact k)
    | (exact fun h => Mem.wf_writeBytes _ _ h)
    | (exact fun h => Mem.wf_write _ _ h)
    | (intro _; exact Nat.zero_le _)
    | with_reducible with_reducible exact fun h => h
    | (intro h; rw [modAt_length]; exact h))

theorem loseTrace_acts {F : List Part} {S : State}  {s : State} (h : Acts F S s)
    (hs : subParts [.regs, .queue, .observe, .noticeSeq] F = true) : Acts F S (loseTrace s) := by
  refine Acts.step h ?_ hs
  unfold loseTrace
  repeat' (first
    | with_reducible assumption
    | decide
    | with_reducible exact Acts.refl _ _
    | with_reducible refine raise_acts _ _ ?_ ?_
    | with_reducible refine bump_acts _ _ ?_ ?_
    | with_reducible refine Acts.iteStep ?_ (fun _ => ?_)
    | with_reducible refine Acts.foldl ?_ (fun _ _ _ => ?_)
    | dsimp -proj only
    | (with_reducible refine Acts.set_observe ?_ ?_ ?_; first | with_reducible assumption | with_reducible exact Acts.refl _ _ | with_reducible refine raise_acts _ _ ?_ ?_ | with_reducible refine bump_acts _ _ ?_ ?_ | with_reducible refine Acts.iteStep ?_ (fun _ => ?_) | with_reducible refine Acts.foldl ?_ (fun _ _ _ => ?_))
    | split
    | with_reducible refine ObserveOk.keep_trace_lostSince _ _ _ ?_
    | (exact fun _ => rfl)
    | (intro k; rw [List.length_map]; exact k)
    | (exact fun h => Mem.wf_writeBytes _ _ h)
    | (exact fun h => Mem.wf_write _ _ h)
    | (intro _; exact Nat.zero_le _)
    | with_reducible with_reducible exact fun h => h
    | (intro h; rw [modAt_length]; exact h))

theorem loseWork_acts {F : List Part} {S : State} (x : Activity) {s : State} (h : Acts F S s)
    (hs : subParts [.regs, .flow, .endpoint, .queue, .slots, .observe, .noticeSeq] F = true) : Acts F S (loseWork s x) := by
  refine Acts.step h ?_ hs
  unfold loseWork
  repeat' (first
    | with_reducible assumption
    | decide
    | with_reducible exact Acts.refl _ _
    | with_reducible refine loseSnapshots_acts  ?_ ?_
    | with_reducible refine loseTrace_acts  ?_ ?_
    | with_reducible refine Acts.iteStep ?_ (fun _ => ?_)
    | with_reducible refine Acts.foldl ?_ (fun _ _ _ => ?_)
    | dsimp -proj only
    | (with_reducible refine Acts.set_slots ?_ ?_ ?_; first | with_reducible assumption | with_reducible exact Acts.refl _ _ | with_reducible refine loseSnapshots_acts  ?_ ?_ | with_reducible refine loseTrace_acts  ?_ ?_ | with_reducible refine Acts.iteStep ?_ (fun _ => ?_) | with_reducible refine Acts.foldl ?_ (fun _ _ _ => ?_))
    | (with_reducible refine Acts.set_flow_endpoint ?_ ?_ ?_; first | with_reducible assumption | with_reducible exact Acts.refl _ _ | with_reducible refine loseSnapshots_acts  ?_ ?_ | with_reducible refine loseTrace_acts  ?_ ?_ | with_reducible refine Acts.iteStep ?_ (fun _ => ?_) | with_reducible refine Acts.foldl ?_ (fun _ _ _ => ?_))
    | (with_reducible refine Acts.set_slots ?_ ?_ ?_; first | with_reducible assumption | with_reducible exact Acts.refl _ _ | with_reducible refine loseSnapshots_acts  ?_ ?_ | with_reducible refine loseTrace_acts  ?_ ?_ | with_reducible refine Acts.iteStep ?_ (fun _ => ?_) | with_reducible refine Acts.foldl ?_ (fun _ _ _ => ?_) | (with_reducible refine Acts.set_slots ?_ ?_ ?_; first | with_reducible assumption | with_reducible exact Acts.refl _ _ | with_reducible refine loseSnapshots_acts  ?_ ?_ | with_reducible refine loseTrace_acts  ?_ ?_ | with_reducible refine Acts.iteStep ?_ (fun _ => ?_) | with_reducible refine Acts.foldl ?_ (fun _ _ _ => ?_)) | (with_reducible refine Acts.set_flow_endpoint ?_ ?_ ?_; first | with_reducible assumption | with_reducible exact Acts.refl _ _ | with_reducible refine loseSnapshots_acts  ?_ ?_ | with_reducible refine loseTrace_acts  ?_ ?_ | with_reducible refine Acts.iteStep ?_ (fun _ => ?_) | with_reducible refine Acts.foldl ?_ (fun _ _ _ => ?_)))
    | (with_reducible refine Acts.set_flow_endpoint ?_ ?_ ?_; first | with_reducible assumption | with_reducible exact Acts.refl _ _ | with_reducible refine loseSnapshots_acts  ?_ ?_ | with_reducible refine loseTrace_acts  ?_ ?_ | with_reducible refine Acts.iteStep ?_ (fun _ => ?_) | with_reducible refine Acts.foldl ?_ (fun _ _ _ => ?_) | (with_reducible refine Acts.set_slots ?_ ?_ ?_; first | with_reducible assumption | with_reducible exact Acts.refl _ _ | with_reducible refine loseSnapshots_acts  ?_ ?_ | with_reducible refine loseTrace_acts  ?_ ?_ | with_reducible refine Acts.iteStep ?_ (fun _ => ?_) | with_reducible refine Acts.foldl ?_ (fun _ _ _ => ?_)) | (with_reducible refine Acts.set_flow_endpoint ?_ ?_ ?_; first | with_reducible assumption | with_reducible exact Acts.refl _ _ | with_reducible refine loseSnapshots_acts  ?_ ?_ | with_reducible refine loseTrace_acts  ?_ ?_ | with_reducible refine Acts.iteStep ?_ (fun _ => ?_) | with_reducible refine Acts.foldl ?_ (fun _ _ _ => ?_)))
    | split
    | (generalize State.slots _ = y; intro h; simpa only [SlotsOk, modAt_length, List.length_map, List.length_zipIdx] using h)
    | (exact fun _ => rfl)
    | (intro k; rw [List.length_map]; exact k)
    | (exact fun h => Mem.wf_writeBytes _ _ h)
    | (exact fun h => Mem.wf_write _ _ h)
    | (intro _; exact Nat.zero_le _)
    | with_reducible with_reducible exact fun h => h
    | (intro h; rw [modAt_length]; exact h))

theorem skipWork_acts {F : List Part} {S : State} (a : Nat) {s : State} (h : Acts F S s)
    (hs : subParts [.regs, .flow, .endpoint, .queue, .slots, .observe, .noticeSeq] F = true) : Acts F S (skipWork s a) := by
  refine Acts.step h ?_ hs
  unfold skipWork
  repeat' (first
    | with_reducible assumption
    | decide
    | with_reducible exact Acts.refl _ _
    | with_reducible refine loseWork_acts _ ?_ ?_
    | with_reducible refine Acts.iteStep ?_ (fun _ => ?_)
    | with_reducible refine Acts.foldl ?_ (fun _ _ _ => ?_)
    | dsimp -proj only
    | split)

theorem roundActivity_acts {F : List Part} {S : State} (a : Nat) (r : ActRun) {s : State} (h : Acts F S s)
    (hs : subParts [.regs, .flow, .endpoint, .queue, .slots, .observe, .noticeSeq] F = true) : Acts F S (roundActivity s a r) := by
  refine Acts.step h ?_ hs
  unfold roundActivity
  repeat' (first
    | with_reducible assumption
    | decide
    | with_reducible exact Acts.refl _ _
    | with_reducible refine wr_acts _ _ ?_ ?_
    | with_reducible refine skipWork_acts _ ?_ ?_
    | with_reducible refine bump_acts _ _ ?_ ?_
    | with_reducible refine Acts.iteStep ?_ (fun _ => ?_)
    | with_reducible refine Acts.foldl ?_ (fun _ _ _ => ?_)
    | dsimp -proj only
    | split)

theorem judgeRate_acts {F : List Part} {S : State} (c : Schedule) {s : State} (h : Acts F S s)
    (hs : subParts [.regs, .queue, .observe, .noticeSeq] F = true) : Acts F S (judgeRate s c) := by
  refine Acts.step h ?_ hs
  unfold judgeRate
  repeat' (first
    | with_reducible assumption
    | decide
    | with_reducible exact Acts.refl _ _
    | with_reducible refine wrB_acts _ _ ?_ ?_
    | with_reducible refine raise_acts _ _ ?_ ?_
    | with_reducible refine bump_acts _ _ ?_ ?_
    | with_reducible refine Acts.iteStep ?_ (fun _ => ?_)
    | with_reducible refine Acts.foldl ?_ (fun _ _ _ => ?_)
    | dsimp -proj only
    | split)

theorem useCycles_acts {F : List Part} {S : State} (a : Nat) (n : Nat) {s : State} (h : Acts F S s)
    (hs : subParts [.sched] F = true) : Acts F S (useCycles s a n) := by
  refine Acts.step h ?_ hs
  unfold useCycles
  repeat' (first
    | with_reducible assumption
    | decide
    | with_reducible exact Acts.refl _ _
    | with_reducible refine Acts.iteStep ?_ (fun _ => ?_)
    | with_reducible refine Acts.foldl ?_ (fun _ _ _ => ?_)
    | dsimp -proj only
    | (with_reducible refine Acts.set_sched ?_ ?_ ?_; first | with_reducible assumption | with_reducible exact Acts.refl _ _ | with_reducible refine Acts.iteStep ?_ (fun _ => ?_) | with_reducible refine Acts.foldl ?_ (fun _ _ _ => ?_))
    | split
    | with_reducible exact SchedOk.keep_acts _ _
    | (exact fun _ => rfl)
    | (intro k; rw [List.length_map]; exact k)
    | (exact fun h => Mem.wf_writeBytes _ _ h)
    | (exact fun h => Mem.wf_write _ _ h)
    | (intro _; exact Nat.zero_le _)
    | with_reducible with_reducible exact fun h => h
    | (intro h; rw [modAt_length]; exact h))

theorem useKind_acts {F : List Part} {S : State} (kind : Nat) (slot : Nat) (n : Nat) {s : State} (h : Acts F S s)
    (hs : subParts [.sched] F = true) : Acts F S (useKind s kind slot n) := by
  refine Acts.step h ?_ hs
  unfold useKind
  repeat' (first
    | with_reducible assumption
    | decide
    | with_reducible exact Acts.refl _ _
    | with_reducible refine useCycles_acts _ _ ?_ ?_
    | with_reducible refine Acts.iteStep ?_ (fun _ => ?_)
    | with_reducible refine Acts.foldl ?_ (fun _ _ _ => ?_)
    | dsimp -proj only
    | split)

theorem useUnit_acts {F : List Part} {S : State} (kind : Nat) {s : State} (h : Acts F S s)
    (hs : subParts [.sched] F = true) : Acts F S (useUnit s kind) := by
  refine Acts.step h ?_ hs
  unfold useUnit
  repeat' (first
    | with_reducible assumption
    | decide
    | with_reducible exact Acts.refl _ _
    | with_reducible refine useCycles_acts _ _ ?_ ?_
    | with_reducible refine Acts.iteStep ?_ (fun _ => ?_)
    | with_reducible refine Acts.foldl ?_ (fun _ _ _ => ?_)
    | dsimp -proj only
    | (with_reducible refine Acts.set_sched ?_ ?_ ?_; first | with_reducible assumption | with_reducible exact Acts.refl _ _ | with_reducible refine useCycles_acts _ _ ?_ ?_ | with_reducible refine Acts.iteStep ?_ (fun _ => ?_) | with_reducible refine Acts.foldl ?_ (fun _ _ _ => ?_))
    | split
    | with_reducible exact SchedOk.keep_unitNo _ _
    | (exact fun _ => rfl)
    | (intro k; rw [List.length_map]; exact k)
    | (exact fun h => Mem.wf_writeBytes _ _ h)
    | (exact fun h => Mem.wf_write _ _ h)
    | (intro _; exact Nat.zero_le _)
    | with_reducible with_reducible exact fun h => h
    | (intro h; rw [modAt_length]; exact h))

theorem spendCycles_acts {F : List Part} {S : State} (f : Flight) (n : Nat) {s : State} (h : Acts F S s)
    (hs : subParts [.regs, .sched, .tally, .observe] F = true) : Acts F S (spendCycles s f n) := by
  refine Acts.step h ?_ hs
  unfold spendCycles
  repeat' (first
    | with_reducible assumption
    | decide
    | with_reducible exact Acts.refl _ _
    | with_reducible refine count_acts _ _ ?_ ?_
    | with_reducible refine keyCompute_acts _ _ ?_ ?_
    | with_reducible refine useKind_acts _ _ _ ?_ ?_
    | with_reducible refine keyMemory_acts _ _ _ ?_ ?_
    | with_reducible refine Acts.iteStep ?_ (fun _ => ?_)
    | with_reducible refine Acts.foldl ?_ (fun _ _ _ => ?_)
    | dsimp -proj only
    | split)

theorem accrue_acts {F : List Part} {S : State}  {s : State} (h : Acts F S s)
    (hs : subParts [.regs, .sched, .pipe, .tally, .observe] F = true) : Acts F S (accrue s) := by
  refine Acts.step h ?_ hs
  unfold accrue
  repeat' (first
    | with_reducible assumption
    | decide
    | with_reducible exact Acts.refl _ _
    | with_reducible refine spendCycles_acts _ _ ?_ ?_
    | with_reducible refine Acts.iteStep ?_ (fun _ => ?_)
    | with_reducible refine Acts.foldl ?_ (fun _ _ _ => ?_)
    | dsimp -proj only
    | (with_reducible refine Acts.set_pipe ?_ ?_ ?_; first | with_reducible assumption | with_reducible exact Acts.refl _ _ | with_reducible refine spendCycles_acts _ _ ?_ ?_ | with_reducible refine Acts.iteStep ?_ (fun _ => ?_) | with_reducible refine Acts.foldl ?_ (fun _ _ _ => ?_))
    | split
    | with_reducible refine PipeOk.keep_flights _ _ ?_
    | (exact fun _ => rfl)
    | (intro k; rw [List.length_map]; exact k)
    | (exact fun h => Mem.wf_writeBytes _ _ h)
    | (exact fun h => Mem.wf_write _ _ h)
    | (intro _; exact Nat.zero_le _)
    | with_reducible with_reducible exact fun h => h
    | (intro h; rw [modAt_length]; exact h))

theorem execRoundBoundary_acts {F : List Part} {S : State}  {s : State} (h : Acts F S s)
    (hs : subParts [.regs, .dial, .sched, .ports, .front, .flow, .endpoint, .queue, .pipe, .slots, .power, .tally, .observe, .pins, .noticeSeq] F = true) : ActsNext F S (execRoundBoundary s) := by
  refine ActsNext.step h ?_ hs
  unfold execRoundBoundary
  repeat' (first
    | with_reducible assumption
    | decide
    | with_reducible exact Acts.refl _ _
    | with_reducible refine advanceTo_acts _ ?_ ?_
    | with_reducible refine judgeRound_acts _ ?_ ?_
    | with_reducible refine accrue_acts  ?_ ?_
    | with_reducible refine roundActivity_acts _ _ ?_ ?_
    | with_reducible refine wr_acts _ _ ?_ ?_
    | with_reducible refine changePoint_acts  ?_ ?_
    | with_reducible refine judgeRate_acts _ ?_ ?_
    | with_reducible refine wrB_acts _ _ ?_ ?_
    | with_reducible refine Acts.iteStep ?_ (fun _ => ?_)
    | with_reducible refine Acts.foldl ?_ (fun _ _ _ => ?_)
    | with_reducible refine ActsNext.next ?_
    | with_reducible refine ActsNext.ite ?_ ?_
    | dsimp -proj only
    | (with_reducible refine Acts.set_sched ?_ ?_ ?_; first | with_reducible assumption | with_reducible exact Acts.refl _ _ | with_reducible refine advanceTo_acts _ ?_ ?_ | with_reducible refine judgeRound_acts _ ?_ ?_ | with_reducible refine accrue_acts  ?_ ?_ | with_reducible refine roundActivity_acts _ _ ?_ ?_ | with_reducible refine wr_acts _ _ ?_ ?_ | with_reducible refine changePoint_acts  ?_ ?_ | with_reducible refine judgeRate_acts _ ?_ ?_ | with_reducible refine wrB_acts _ _ ?_ ?_ | with_reducible refine Acts.iteStep ?_ (fun _ => ?_) | with_reducible refine Acts.foldl ?_ (fun _ _ _ => ?_) | with_reducible refine ActsNext.next ?_ | with_reducible refine ActsNext.ite ?_ ?_)
    | (with_reducible refine Acts.set_power ?_ ?_; first | with_reducible assumption | with_reducible exact Acts.refl _ _ | with_reducible refine advanceTo_acts _ ?_ ?_ | with_reducible refine judgeRound_acts _ ?_ ?_ | with_reducible refine accrue_acts  ?_ ?_ | with_reducible refine roundActivity_acts _ _ ?_ ?_ | with_reducible refine wr_acts _ _ ?_ ?_ | with_reducible refine changePoint_acts  ?_ ?_ | with_reducible refine judgeRate_acts _ ?_ ?_ | with_reducible refine wrB_acts _ _ ?_ ?_ | with_reducible refine Acts.iteStep ?_ (fun _ => ?_) | with_reducible refine Acts.foldl ?_ (fun _ _ _ => ?_) | with_reducible refine ActsNext.next ?_ | with_reducible refine ActsNext.ite ?_ ?_)
    | (with_reducible refine Acts.set_sched ?_ ?_ ?_; first | with_reducible assumption | with_reducible exact Acts.refl _ _ | with_reducible refine advanceTo_acts _ ?_ ?_ | with_reducible refine judgeRound_acts _ ?_ ?_ | with_reducible refine accrue_acts  ?_ ?_ | with_reducible refine roundActivity_acts _ _ ?_ ?_ | with_reducible refine wr_acts _ _ ?_ ?_ | with_reducible refine changePoint_acts  ?_ ?_ | with_reducible refine judgeRate_acts _ ?_ ?_ | with_reducible refine wrB_acts _ _ ?_ ?_ | with_reducible refine Acts.iteStep ?_ (fun _ => ?_) | with_reducible refine Acts.foldl ?_ (fun _ _ _ => ?_) | with_reducible refine ActsNext.next ?_ | with_reducible refine ActsNext.ite ?_ ?_ | (with_reducible refine Acts.set_sched ?_ ?_ ?_; first | with_reducible assumption | with_reducible exact Acts.refl _ _ | with_reducible refine advanceTo_acts _ ?_ ?_ | with_reducible refine judgeRound_acts _ ?_ ?_ | with_reducible refine accrue_acts  ?_ ?_ | with_reducible refine roundActivity_acts _ _ ?_ ?_ | with_reducible refine wr_acts _ _ ?_ ?_ | with_reducible refine changePoint_acts  ?_ ?_ | with_reducible refine judgeRate_acts _ ?_ ?_ | with_reducible refine wrB_acts _ _ ?_ ?_ | with_reducible refine Acts.iteStep ?_ (fun _ => ?_) | with_reducible refine Acts.foldl ?_ (fun _ _ _ => ?_) | with_reducible refine ActsNext.next ?_ | with_reducible refine ActsNext.ite ?_ ?_) | (with_reducible refine Acts.set_power ?_ ?_; first | with_reducible assumption | with_reducible exact Acts.refl _ _ | with_reducible refine advanceTo_acts _ ?_ ?_ | with_reducible refine judgeRound_acts _ ?_ ?_ | with_reducible refine accrue_acts  ?_ ?_ | with_reducible refine roundActivity_acts _ _ ?_ ?_ | with_reducible refine wr_acts _ _ ?_ ?_ | with_reducible refine changePoint_acts  ?_ ?_ | with_reducible refine judgeRate_acts _ ?_ ?_ | with_reducible refine wrB_acts _ _ ?_ ?_ | with_reducible refine Acts.iteStep ?_ (fun _ => ?_) | with_reducible refine Acts.foldl ?_ (fun _ _ _ => ?_) | with_reducible refine ActsNext.next ?_ | with_reducible refine ActsNext.ite ?_ ?_))
    | (with_reducible refine Acts.set_power ?_ ?_; first | with_reducible assumption | with_reducible exact Acts.refl _ _ | with_reducible refine advanceTo_acts _ ?_ ?_ | with_reducible refine judgeRound_acts _ ?_ ?_ | with_reducible refine accrue_acts  ?_ ?_ | with_reducible refine roundActivity_acts _ _ ?_ ?_ | with_reducible refine wr_acts _ _ ?_ ?_ | with_reducible refine changePoint_acts  ?_ ?_ | with_reducible refine judgeRate_acts _ ?_ ?_ | with_reducible refine wrB_acts _ _ ?_ ?_ | with_reducible refine Acts.iteStep ?_ (fun _ => ?_) | with_reducible refine Acts.foldl ?_ (fun _ _ _ => ?_) | with_reducible refine ActsNext.next ?_ | with_reducible refine ActsNext.ite ?_ ?_ | (with_reducible refine Acts.set_sched ?_ ?_ ?_; first | with_reducible assumption | with_reducible exact Acts.refl _ _ | with_reducible refine advanceTo_acts _ ?_ ?_ | with_reducible refine judgeRound_acts _ ?_ ?_ | with_reducible refine accrue_acts  ?_ ?_ | with_reducible refine roundActivity_acts _ _ ?_ ?_ | with_reducible refine wr_acts _ _ ?_ ?_ | with_reducible refine changePoint_acts  ?_ ?_ | with_reducible refine judgeRate_acts _ ?_ ?_ | with_reducible refine wrB_acts _ _ ?_ ?_ | with_reducible refine Acts.iteStep ?_ (fun _ => ?_) | with_reducible refine Acts.foldl ?_ (fun _ _ _ => ?_) | with_reducible refine ActsNext.next ?_ | with_reducible refine ActsNext.ite ?_ ?_) | (with_reducible refine Acts.set_power ?_ ?_; first | with_reducible assumption | with_reducible exact Acts.refl _ _ | with_reducible refine advanceTo_acts _ ?_ ?_ | with_reducible refine judgeRound_acts _ ?_ ?_ | with_reducible refine accrue_acts  ?_ ?_ | with_reducible refine roundActivity_acts _ _ ?_ ?_ | with_reducible refine wr_acts _ _ ?_ ?_ | with_reducible refine changePoint_acts  ?_ ?_ | with_reducible refine judgeRate_acts _ ?_ ?_ | with_reducible refine wrB_acts _ _ ?_ ?_ | with_reducible refine Acts.iteStep ?_ (fun _ => ?_) | with_reducible refine Acts.foldl ?_ (fun _ _ _ => ?_) | with_reducible refine ActsNext.next ?_ | with_reducible refine ActsNext.ite ?_ ?_))
    | split
    | with_reducible exact SchedOk.keep_acts _ _
    | (exact fun _ => rfl)
    | (intro k; rw [List.length_map]; exact k)
    | (exact fun h => Mem.wf_writeBytes _ _ h)
    | (exact fun h => Mem.wf_write _ _ h)
    | (intro _; exact Nat.zero_le _)
    | with_reducible with_reducible exact fun h => h
    | (intro h; rw [modAt_length]; exact h))

theorem execBudgetHeld_acts {F : List Part} {S : State} (activity : Nat) {s : State} (h : Acts F S s)
    (hs : subParts [.regs, .sched, .flow, .endpoint, .queue, .slots, .observe, .noticeSeq] F = true) : ActsNext F S (execBudgetHeld activity s) := by
  refine ActsNext.step h ?_ hs
  unfold execBudgetHeld
  repeat' (first
    | with_reducible assumption
    | decide
    | with_reducible exact Acts.refl _ _
    | with_reducible refine skipWork_acts _ ?_ ?_
    | with_reducible refine raise_acts _ _ ?_ ?_
    | with_reducible refine bump_acts _ _ ?_ ?_
    | with_reducible refine Acts.iteStep ?_ (fun _ => ?_)
    | with_reducible refine Acts.foldl ?_ (fun _ _ _ => ?_)
    | with_reducible refine ActsNext.next ?_
    | with_reducible refine ActsNext.ite ?_ ?_
    | dsimp -proj only
    | (with_reducible refine Acts.set_sched ?_ ?_ ?_; first | with_reducible assumption | with_reducible exact Acts.refl _ _ | with_reducible refine skipWork_acts _ ?_ ?_ | with_reducible refine raise_acts _ _ ?_ ?_ | with_reducible refine bump_acts _ _ ?_ ?_ | with_reducible refine Acts.iteStep ?_ (fun _ => ?_) | with_reducible refine Acts.foldl ?_ (fun _ _ _ => ?_) | with_reducible refine ActsNext.next ?_ | with_reducible refine ActsNext.ite ?_ ?_)
    | split
    | with_reducible exact SchedOk.keep_acts _ _
    | (exact fun _ => rfl)
    | (intro k; rw [List.length_map]; exact k)
    | (exact fun h => Mem.wf_writeBytes _ _ h)
    | (exact fun h => Mem.wf_write _ _ h)
    | (intro _; exact Nat.zero_le _)
    | with_reducible with_reducible exact fun h => h
    | (intro h; rw [modAt_length]; exact h))

theorem execStepAdmissionStop_acts {F : List Part} {S : State}  {s : State} (h : Acts F S s)
    (hs : subParts [.dial] F = true) : ActsNext F S (execStepAdmissionStop s) := by
  refine ActsNext.step h ?_ hs
  unfold execStepAdmissionStop
  repeat' (first
    | with_reducible assumption
    | decide
    | with_reducible exact Acts.refl _ _
    | with_reducible refine Acts.iteStep ?_ (fun _ => ?_)
    | with_reducible refine Acts.foldl ?_ (fun _ _ _ => ?_)
    | with_reducible refine ActsNext.next ?_
    | with_reducible refine ActsNext.ite ?_ ?_
    | dsimp -proj only
    | (with_reducible refine Acts.set_dial ?_ ?_; first | with_reducible assumption | with_reducible exact Acts.refl _ _ | with_reducible refine Acts.iteStep ?_ (fun _ => ?_) | with_reducible refine Acts.foldl ?_ (fun _ _ _ => ?_) | with_reducible refine ActsNext.next ?_ | with_reducible refine ActsNext.ite ?_ ?_)
    | split)

theorem execStepTakeTime_acts {F : List Part} {S : State}  {s : State} (h : Acts F S s)
    (hs : subParts [.regs, .dial, .sched, .ports, .front, .flow, .endpoint, .queue, .pipe, .power, .tally, .observe, .pins, .noticeSeq] F = true) : ActsNext F S (execStepTakeTime s) := by
  refine ActsNext.step h ?_ hs
  unfold execStepTakeTime
  repeat' (first
    | with_reducible assumption
    | decide
    | with_reducible exact Acts.refl _ _
    | with_reducible refine stepTime_acts _ ?_ ?_
    | with_reducible refine dropStamps_acts  ?_ ?_
    | with_reducible refine Acts.iteStep ?_ (fun _ => ?_)
    | with_reducible refine Acts.foldl ?_ (fun _ _ _ => ?_)
    | with_reducible refine ActsNext.next ?_
    | with_reducible refine ActsNext.ite ?_ ?_
    | dsimp -proj only
    | (with_reducible refine Acts.set_dial ?_ ?_; first | with_reducible assumption | with_reducible exact Acts.refl _ _ | with_reducible refine stepTime_acts _ ?_ ?_ | with_reducible refine dropStamps_acts  ?_ ?_ | with_reducible refine Acts.iteStep ?_ (fun _ => ?_) | with_reducible refine Acts.foldl ?_ (fun _ _ _ => ?_) | with_reducible refine ActsNext.next ?_ | with_reducible refine ActsNext.ite ?_ ?_)
    | split)

theorem execStepDone_acts {F : List Part} {S : State}  {s : State} (h : Acts F S s)
    (hs : subParts [.regs, .dial, .queue, .observe, .noticeSeq] F = true) : ActsNext F S (execStepDone s) := by
  refine ActsNext.step h ?_ hs
  unfold execStepDone
  repeat' (first
    | with_reducible assumption
    | decide
    | with_reducible exact Acts.refl _ _
    | with_reducible refine raise_acts _ _ ?_ ?_
    | with_reducible refine Acts.iteStep ?_ (fun _ => ?_)
    | with_reducible refine Acts.foldl ?_ (fun _ _ _ => ?_)
    | with_reducible refine ActsNext.next ?_
    | with_reducible refine ActsNext.ite ?_ ?_
    | dsimp -proj only
    | (with_reducible refine Acts.set_dial ?_ ?_; first | with_reducible assumption | with_reducible exact Acts.refl _ _ | with_reducible refine raise_acts _ _ ?_ ?_ | with_reducible refine Acts.iteStep ?_ (fun _ => ?_) | with_reducible refine Acts.foldl ?_ (fun _ _ _ => ?_) | with_reducible refine ActsNext.next ?_ | with_reducible refine ActsNext.ite ?_ ?_)
    | split)

theorem clearScheduleRegs_acts {F : List Part} {S : State}  {s : State} (h : Acts F S s)
    (hs : subParts [.regs] F = true) : Acts F S (clearScheduleRegs s) := by
  refine Acts.step h ?_ hs
  unfold clearScheduleRegs
  repeat' (first
    | with_reducible assumption
    | decide
    | with_reducible exact Acts.refl _ _
    | with_reducible refine wr_acts _ _ ?_ ?_
    | with_reducible refine Acts.iteStep ?_ (fun _ => ?_)
    | with_reducible refine Acts.foldl ?_ (fun _ _ _ => ?_)
    | dsimp -proj only
    | split)

theorem lapseStep_acts {F : List Part} {S : State}  {s : State} (h : Acts F S s)
    (hs : subParts [.regs, .dial, .queue, .observe, .noticeSeq] F = true) : Acts F S (lapseStep s) := by
  refine Acts.step h ?_ hs
  unfold lapseStep
  repeat' (first
    | with_reducible assumption
    | decide
    | with_reducible exact Acts.refl _ _
    | with_reducible refine raiseIf_acts _ _ _ ?_ ?_
    | with_reducible refine Acts.iteStep ?_ (fun _ => ?_)
    | with_reducible refine Acts.foldl ?_ (fun _ _ _ => ?_)
    | dsimp -proj only
    | (with_reducible refine Acts.set_dial ?_ ?_; first | with_reducible assumption | with_reducible exact Acts.refl _ _ | with_reducible refine raiseIf_acts _ _ _ ?_ ?_ | with_reducible refine Acts.iteStep ?_ (fun _ => ?_) | with_reducible refine Acts.foldl ?_ (fun _ _ _ => ?_))
    | split)

theorem stopSchedule_acts {F : List Part} {S : State}  {s : State} (h : Acts F S s)
    (hs : subParts [.regs, .dial, .sched, .queue, .power, .observe, .pins, .noticeSeq] F = true) : Acts F S (stopSchedule s) := by
  refine Acts.step h ?_ hs
  unfold stopSchedule
  repeat' (first
    | with_reducible assumption
    | decide
    | with_reducible exact Acts.refl _ _
    | with_reducible refine dropSupply_acts  ?_ ?_
    | with_reducible refine lapseStep_acts  ?_ ?_
    | with_reducible refine wrB_acts _ _ ?_ ?_
    | with_reducible refine clearScheduleRegs_acts  ?_ ?_
    | with_reducible refine Acts.iteStep ?_ (fun _ => ?_)
    | with_reducible refine Acts.foldl ?_ (fun _ _ _ => ?_)
    | dsimp -proj only
    | (with_reducible refine Acts.set_sched ?_ ?_ ?_; first | with_reducible assumption | with_reducible exact Acts.refl _ _ | with_reducible refine dropSupply_acts  ?_ ?_ | with_reducible refine lapseStep_acts  ?_ ?_ | with_reducible refine wrB_acts _ _ ?_ ?_ | with_reducible refine clearScheduleRegs_acts  ?_ ?_ | with_reducible refine Acts.iteStep ?_ (fun _ => ?_) | with_reducible refine Acts.foldl ?_ (fun _ _ _ => ?_))
    | (with_reducible refine Acts.set_sched_pins ?_ ?_ ?_ ?_; first | with_reducible assumption | with_reducible exact Acts.refl _ _ | with_reducible refine dropSupply_acts  ?_ ?_ | with_reducible refine lapseStep_acts  ?_ ?_ | with_reducible refine wrB_acts _ _ ?_ ?_ | with_reducible refine clearScheduleRegs_acts  ?_ ?_ | with_reducible refine Acts.iteStep ?_ (fun _ => ?_) | with_reducible refine Acts.foldl ?_ (fun _ _ _ => ?_))
    | (with_reducible refine Acts.set_sched ?_ ?_ ?_; first | with_reducible assumption | with_reducible exact Acts.refl _ _ | with_reducible refine dropSupply_acts  ?_ ?_ | with_reducible refine lapseStep_acts  ?_ ?_ | with_reducible refine wrB_acts _ _ ?_ ?_ | with_reducible refine clearScheduleRegs_acts  ?_ ?_ | with_reducible refine Acts.iteStep ?_ (fun _ => ?_) | with_reducible refine Acts.foldl ?_ (fun _ _ _ => ?_) | (with_reducible refine Acts.set_sched ?_ ?_ ?_; first | with_reducible assumption | with_reducible exact Acts.refl _ _ | with_reducible refine dropSupply_acts  ?_ ?_ | with_reducible refine lapseStep_acts  ?_ ?_ | with_reducible refine wrB_acts _ _ ?_ ?_ | with_reducible refine clearScheduleRegs_acts  ?_ ?_ | with_reducible refine Acts.iteStep ?_ (fun _ => ?_) | with_reducible refine Acts.foldl ?_ (fun _ _ _ => ?_)) | (with_reducible refine Acts.set_sched_pins ?_ ?_ ?_ ?_; first | with_reducible assumption | with_reducible exact Acts.refl _ _ | with_reducible refine dropSupply_acts  ?_ ?_ | with_reducible refine lapseStep_acts  ?_ ?_ | with_reducible refine wrB_acts _ _ ?_ ?_ | with_reducible refine clearScheduleRegs_acts  ?_ ?_ | with_reducible refine Acts.iteStep ?_ (fun _ => ?_) | with_reducible refine Acts.foldl ?_ (fun _ _ _ => ?_)))
    | (with_reducible refine Acts.set_sched_pins ?_ ?_ ?_ ?_; first | with_reducible assumption | with_reducible exact Acts.refl _ _ | with_reducible refine dropSupply_acts  ?_ ?_ | with_reducible refine lapseStep_acts  ?_ ?_ | with_reducible refine wrB_acts _ _ ?_ ?_ | with_reducible refine clearScheduleRegs_acts  ?_ ?_ | with_reducible refine Acts.iteStep ?_ (fun _ => ?_) | with_reducible refine Acts.foldl ?_ (fun _ _ _ => ?_) | (with_reducible refine Acts.set_sched ?_ ?_ ?_; first | with_reducible assumption | with_reducible exact Acts.refl _ _ | with_reducible refine dropSupply_acts  ?_ ?_ | with_reducible refine lapseStep_acts  ?_ ?_ | with_reducible refine wrB_acts _ _ ?_ ?_ | with_reducible refine clearScheduleRegs_acts  ?_ ?_ | with_reducible refine Acts.iteStep ?_ (fun _ => ?_) | with_reducible refine Acts.foldl ?_ (fun _ _ _ => ?_)) | (with_reducible refine Acts.set_sched_pins ?_ ?_ ?_ ?_; first | with_reducible assumption | with_reducible exact Acts.refl _ _ | with_reducible refine dropSupply_acts  ?_ ?_ | with_reducible refine lapseStep_acts  ?_ ?_ | with_reducible refine wrB_acts _ _ ?_ ?_ | with_reducible refine clearScheduleRegs_acts  ?_ ?_ | with_reducible refine Acts.iteStep ?_ (fun _ => ?_) | with_reducible refine Acts.foldl ?_ (fun _ _ _ => ?_)))
    | split
    | with_reducible exact SchedOk.keep_frozen _ _
    | with_reducible exact SchedOk.keep_running_acts_nextGrants_decided_admitting_caughtUp _ _ _ _ _ _ _
    | (exact fun _ => rfl)
    | (intro k; rw [List.length_map]; exact k)
    | (exact fun h => Mem.wf_writeBytes _ _ h)
    | (exact fun h => Mem.wf_write _ _ h)
    | (intro _; exact Nat.zero_le _)
    | with_reducible with_reducible exact fun h => h
    | (intro h; rw [modAt_length]; exact h))

theorem tripBatches_acts {F : List Part} {S : State} (hub : Bool) {s : State} (h : Acts F S s)
    (hs : subParts [.pipe, .observe, .pins] F = true) : Acts F S (tripBatches s hub) := by
  refine Acts.step h ?_ hs
  unfold tripBatches
  repeat' (first
    | with_reducible assumption
    | decide
    | with_reducible exact Acts.refl _ _
    | with_reducible refine Acts.iteStep ?_ (fun _ => ?_)
    | with_reducible refine Acts.foldl ?_ (fun _ _ _ => ?_)
    | dsimp -proj only
    | (with_reducible refine Acts.set_pipe_observe_pins ?_ ?_ ?_ ?_ ?_ ?_; first | with_reducible assumption | with_reducible exact Acts.refl _ _ | with_reducible refine Acts.iteStep ?_ (fun _ => ?_) | with_reducible refine Acts.foldl ?_ (fun _ _ _ => ?_))
    | split
    | with_reducible refine PipeOk.keep_batches_flights _ _ _ ?_
    | with_reducible exact ObserveOk.keep_hangs _ _
    | (exact fun _ => rfl)
    | (intro k; rw [List.length_map]; exact k)
    | (exact fun h => Mem.wf_writeBytes _ _ h)
    | (exact fun h => Mem.wf_write _ _ h)
    | (intro _; exact Nat.zero_le _)
    | with_reducible with_reducible exact fun h => h
    | (intro h; rw [modAt_length]; exact h))

theorem tripFired_acts {F : List Part} {S : State} (die : Nat) (sensor : Nat) {s : State} (h : Acts F S s)
    (hs : subParts [.regs, .dial, .sched, .ports, .queue, .pipe, .power, .tally, .peer, .observe, .log, .pins, .noticeSeq] F = true) : Acts F S (tripFired s die sensor) := by
  refine Acts.step h ?_ hs
  unfold tripFired
  repeat' (first
    | with_reducible assumption
    | decide
    | with_reducible exact Acts.refl _ _
    | with_reducible refine accrue_acts  ?_ ?_
    | with_reducible refine wr_acts _ _ ?_ ?_
    | with_reducible refine switchPd_acts _ _ ?_ ?_
    | with_reducible refine closeDataPath_acts  ?_ ?_
    | with_reducible refine showClosing_acts  ?_ ?_
    | with_reducible refine stopSchedule_acts  ?_ ?_
    | with_reducible refine tripBatches_acts _ ?_ ?_
    | with_reducible refine wrB_acts _ _ ?_ ?_
    | with_reducible refine raise_acts _ _ ?_ ?_
    | with_reducible refine Acts.iteStep ?_ (fun _ => ?_)
    | with_reducible refine Acts.foldl ?_ (fun _ _ _ => ?_)
    | dsimp -proj only
    | (with_reducible refine Acts.set_power_log_pins ?_ ?_ ?_ ?_ ?_; first | with_reducible assumption | with_reducible exact Acts.refl _ _ | with_reducible refine accrue_acts  ?_ ?_ | with_reducible refine wr_acts _ _ ?_ ?_ | with_reducible refine switchPd_acts _ _ ?_ ?_ | with_reducible refine closeDataPath_acts  ?_ ?_ | with_reducible refine showClosing_acts  ?_ ?_ | with_reducible refine stopSchedule_acts  ?_ ?_ | with_reducible refine tripBatches_acts _ ?_ ?_ | with_reducible refine wrB_acts _ _ ?_ ?_ | with_reducible refine raise_acts _ _ ?_ ?_ | with_reducible refine Acts.iteStep ?_ (fun _ => ?_) | with_reducible refine Acts.foldl ?_ (fun _ _ _ => ?_))
    | split
    | exact LogOk.keep_trips_tripLog_due _ _ _ _ fun _ => by rw [List.length_take]; exact Nat.min_le_left _ _
    | with_reducible refine LogOk.keep_trips_tripLog_due _ _ _ _ ?_
    | (exact fun _ => rfl)
    | (intro k; rw [List.length_map]; exact k)
    | (exact fun h => Mem.wf_writeBytes _ _ h)
    | (exact fun h => Mem.wf_write _ _ h)
    | (intro _; exact Nat.zero_le _)
    | with_reducible with_reducible exact fun h => h
    | (intro h; rw [modAt_length]; exact h))

theorem execTrip_acts {F : List Part} {S : State} (die : Nat) (sensor : Nat) {s : State} (h : Acts F S s)
    (hs : subParts [.regs, .dial, .sched, .ports, .queue, .pipe, .power, .tally, .peer, .observe, .log, .pins, .noticeSeq] F = true) : ActsNext F S (execTrip die sensor s) := by
  refine ActsNext.step h ?_ hs
  unfold execTrip
  repeat' (first
    | with_reducible assumption
    | decide
    | with_reducible exact Acts.refl _ _
    | with_reducible refine tripFired_acts _ _ ?_ ?_
    | with_reducible refine Acts.iteStep ?_ (fun _ => ?_)
    | with_reducible refine Acts.foldl ?_ (fun _ _ _ => ?_)
    | with_reducible refine ActsNext.next ?_
    | with_reducible refine ActsNext.ite ?_ ?_
    | dsimp -proj only
    | split)

theorem execPdSwitch_acts {F : List Part} {S : State}  {s : State} (h : Acts F S s)
    (hs : subParts [.regs, .ports, .queue, .power, .peer, .observe, .noticeSeq] F = true) : ActsNext F S (execPdSwitch s) := by
  refine ActsNext.step h ?_ hs
  unfold execPdSwitch
  repeat' (first
    | with_reducible assumption
    | decide
    | with_reducible exact Acts.refl _ _
    | with_reducible refine applyDomains_acts _ ?_ ?_
    | with_reducible refine Acts.iteStep ?_ (fun _ => ?_)
    | with_reducible refine Acts.foldl ?_ (fun _ _ _ => ?_)
    | with_reducible refine ActsNext.next ?_
    | with_reducible refine ActsNext.ite ?_ ?_
    | dsimp -proj only
    | (with_reducible refine Acts.set_power ?_ ?_; first | with_reducible assumption | with_reducible exact Acts.refl _ _ | with_reducible refine applyDomains_acts _ ?_ ?_ | with_reducible refine Acts.iteStep ?_ (fun _ => ?_) | with_reducible refine Acts.foldl ?_ (fun _ _ _ => ?_) | with_reducible refine ActsNext.next ?_ | with_reducible refine ActsNext.ite ?_ ?_)
    | split)

end Sys2Proof.Machine
end

