-- ==== Sys2Proof/Laws/ActsQuant.lean ====
section
/-! SUPPORT. What each operation of Machine/Quant.lean may touch, and that it keeps the invariant. -/

namespace Sys2Proof.Machine

theorem modGen_acts {F : List Part} {S : State} (slot : Nat) (number : Nat) (f : Gen → Gen) {s : State} (h : Acts F S s)
    (hs : subParts [.slots] F = true) : Acts F S (modGen s slot number f) := by
  refine Acts.step h ?_ hs
  unfold modGen
  repeat' (first
    | with_reducible assumption
    | decide
    | with_reducible exact Acts.refl _ _
    | with_reducible refine Acts.iteStep ?_ (fun _ => ?_)
    | with_reducible refine Acts.foldl ?_ (fun _ _ _ => ?_)
    | dsimp -proj only
    | (with_reducible refine Acts.set_slots ?_ ?_ ?_; first | with_reducible assumption | with_reducible exact Acts.refl _ _ | with_reducible refine Acts.iteStep ?_ (fun _ => ?_) | with_reducible refine Acts.foldl ?_ (fun _ _ _ => ?_))
    | split
    | (generalize State.slots _ = y; intro h; simpa only [SlotsOk, modAt_length, List.length_map, List.length_zipIdx] using h)
    | (exact fun _ => rfl)
    | (intro k; rw [List.length_map]; exact k)
    | (exact fun h => Mem.wf_writeBytes _ _ h)
    | (exact fun h => Mem.wf_write _ _ h)
    | (intro _; exact Nat.zero_le _)
    | with_reducible with_reducible exact fun h => h
    | (intro h; rw [modAt_length]; exact h))

theorem modQ_acts {F : List Part} {S : State} (slot : Nat) (number : Nat) (t : Nat) (f : QTensor → QTensor) {s : State} (h : Acts F S s)
    (hs : subParts [.slots] F = true) : Acts F S (modQ s slot number t f) := by
  refine Acts.step h ?_ hs
  unfold modQ
  repeat' (first
    | with_reducible assumption
    | decide
    | with_reducible exact Acts.refl _ _
    | with_reducible refine modGen_acts _ _ _ ?_ ?_
    | with_reducible refine Acts.iteStep ?_ (fun _ => ?_)
    | with_reducible refine Acts.foldl ?_ (fun _ _ _ => ?_)
    | dsimp -proj only
    | split)

theorem markPinned_acts {F : List Part} {S : State} (slot : Nat) (t : Nat) (n : Nat) {s : State} (h : Acts F S s)
    (hs : subParts [.regs, .queue, .observe, .noticeSeq] F = true) : Acts F S (markPinned s slot t n) := by
  refine Acts.step h ?_ hs
  unfold markPinned
  repeat' (first
    | with_reducible assumption
    | decide
    | with_reducible exact Acts.refl _ _
    | with_reducible refine raise_acts _ _ ?_ ?_
    | with_reducible refine bump_acts _ _ ?_ ?_
    | with_reducible refine Acts.iteStep ?_ (fun _ => ?_)
    | with_reducible refine Acts.foldl ?_ (fun _ _ _ => ?_)
    | dsimp -proj only
    | split)

theorem keepPinned_acts {F : List Part} {S : State} (slot : Nat) (number : Nat) (t : Nat) (n : Nat) {s : State} (h : Acts F S s)
    (hs : subParts [.slots] F = true) : Acts F S (keepPinned s slot number t n) := by
  refine Acts.step h ?_ hs
  unfold keepPinned
  repeat' (first
    | with_reducible assumption
    | decide
    | with_reducible exact Acts.refl _ _
    | with_reducible refine modQ_acts _ _ _ _ ?_ ?_
    | with_reducible refine Acts.iteStep ?_ (fun _ => ?_)
    | with_reducible refine Acts.foldl ?_ (fun _ _ _ => ?_)
    | dsimp -proj only
    | split)

theorem markRatio_acts {F : List Part} {S : State} (slot : Nat) (t : Nat) (mark : Bool) {s : State} (h : Acts F S s)
    (hs : subParts [.regs, .queue, .observe, .noticeSeq] F = true) : Acts F S (markRatio s slot t mark) := by
  refine Acts.step h ?_ hs
  unfold markRatio
  repeat' (first
    | with_reducible assumption
    | decide
    | with_reducible exact Acts.refl _ _
    | with_reducible refine raise_acts _ _ ?_ ?_
    | with_reducible refine bump_acts _ _ ?_ ?_
    | with_reducible refine Acts.iteStep ?_ (fun _ => ?_)
    | with_reducible refine Acts.foldl ?_ (fun _ _ _ => ?_)
    | dsimp -proj only
    | split)

theorem markConst_acts {F : List Part} {S : State} (slot : Nat) (t : Nat) (mark : Bool) {s : State} (h : Acts F S s)
    (hs : subParts [.regs, .queue, .observe, .noticeSeq] F = true) : Acts F S (markConst s slot t mark) := by
  refine Acts.step h ?_ hs
  unfold markConst
  repeat' (first
    | with_reducible assumption
    | decide
    | with_reducible exact Acts.refl _ _
    | with_reducible refine raise_acts _ _ ?_ ?_
    | with_reducible refine bump_acts _ _ ?_ ?_
    | with_reducible refine Acts.iteStep ?_ (fun _ => ?_)
    | with_reducible refine Acts.foldl ?_ (fun _ _ _ => ?_)
    | dsimp -proj only
    | split)

theorem deliverStats_acts {F : List Part} {S : State} (slot : Nat) (g : Gen) (t : Nat) (o : OpRec) (batch : Nat) (sIn : Nat) (used : Nat) (st : Stats) {s : State} (h : Acts F S s)
    (hs : subParts [.regs, .queue, .slots, .observe, .noticeSeq] F = true) : Acts F S (deliverStats s slot g t o batch sIn used st).1 := by
  refine Acts.step h ?_ hs
  unfold deliverStats
  repeat' (first
    | with_reducible assumption
    | decide
    | with_reducible exact Acts.refl _ _
    | with_reducible refine modQ_acts _ _ _ _ ?_ ?_
    | with_reducible refine markConst_acts _ _ _ ?_ ?_
    | with_reducible refine bump_acts _ _ ?_ ?_
    | with_reducible refine raise_acts _ _ ?_ ?_
    | with_reducible refine Acts.iteStep ?_ (fun _ => ?_)
    | with_reducible refine Acts.foldl ?_ (fun _ _ _ => ?_)
    | with_reducible refine Acts.fstIte ?_ ?_
    | dsimp -proj only
    | (with_reducible refine Acts.fstMk ?_; first | with_reducible assumption | with_reducible exact Acts.refl _ _ | with_reducible refine modQ_acts _ _ _ _ ?_ ?_ | with_reducible refine markConst_acts _ _ _ ?_ ?_ | with_reducible refine bump_acts _ _ ?_ ?_ | with_reducible refine raise_acts _ _ ?_ ?_ | with_reducible refine Acts.iteStep ?_ (fun _ => ?_) | with_reducible refine Acts.foldl ?_ (fun _ _ _ => ?_) | with_reducible refine Acts.fstIte ?_ ?_)
    | split)

theorem showStagedQ_acts {F : List Part} {S : State}  {s : State} (h : Acts F S s)
    (hs : subParts [.regs] F = true) : Acts F S (showStagedQ s) := by
  refine Acts.step h ?_ hs
  unfold showStagedQ
  repeat' (first
    | with_reducible assumption
    | decide
    | with_reducible exact Acts.refl _ _
    | with_reducible refine wr_acts _ _ ?_ ?_
    | with_reducible refine Acts.iteStep ?_ (fun _ => ?_)
    | with_reducible refine Acts.foldl ?_ (fun _ _ _ => ?_)
    | dsimp -proj only
    | split)

theorem stageScale_acts {F : List Part} {S : State} (c : QCommand) {s : State} (h : Acts F S s)
    (hs : subParts [.regs, .quant] F = true) : Acts F S (stageScale s c) := by
  refine Acts.step h ?_ hs
  unfold stageScale
  repeat' (first
    | with_reducible assumption
    | decide
    | with_reducible exact Acts.refl _ _
    | with_reducible refine wr_acts _ _ ?_ ?_
    | with_reducible refine showStagedQ_acts  ?_ ?_
    | with_reducible refine Acts.iteStep ?_ (fun _ => ?_)
    | with_reducible refine Acts.foldl ?_ (fun _ _ _ => ?_)
    | dsimp -proj only
    | (with_reducible refine Acts.set_quant ?_ ?_; first | with_reducible assumption | with_reducible exact Acts.refl _ _ | with_reducible refine wr_acts _ _ ?_ ?_ | with_reducible refine showStagedQ_acts  ?_ ?_ | with_reducible refine Acts.iteStep ?_ (fun _ => ?_) | with_reducible refine Acts.foldl ?_ (fun _ _ _ => ?_))
    | split)

theorem writeQControl_acts {F : List Part} {S : State} (w : Nat) {s : State} (h : Acts F S s)
    (hs : subParts [.regs, .quant] F = true) : Acts F S (writeQControl s w) := by
  refine Acts.step h ?_ hs
  unfold writeQControl
  repeat' (first
    | with_reducible assumption
    | decide
    | with_reducible exact Acts.refl _ _
    | with_reducible refine stageScale_acts _ ?_ ?_
    | with_reducible refine writeFields_acts _ _ ?_ ?_
    | with_reducible refine Acts.iteStep ?_ (fun _ => ?_)
    | with_reducible refine Acts.foldl ?_ (fun _ _ _ => ?_)
    | dsimp -proj only
    | split)

theorem execQRelease_acts {F : List Part} {S : State} (slot : Nat) (tensor : Nat) (outlier : Bool) (lo : Nat) (hi : Nat) {s : State} (h : Acts F S s)
    (hs : subParts [.regs, .quant] F = true) : ActsNext F S (execQRelease slot tensor outlier lo hi s) := by
  refine ActsNext.step h ?_ hs
  unfold execQRelease
  repeat' (first
    | with_reducible assumption
    | decide
    | with_reducible exact Acts.refl _ _
    | with_reducible refine writeQControl_acts _ ?_ ?_
    | with_reducible refine Acts.iteStep ?_ (fun _ => ?_)
    | with_reducible refine Acts.foldl ?_ (fun _ _ _ => ?_)
    | with_reducible refine ActsNext.next ?_
    | with_reducible refine ActsNext.ite ?_ ?_
    | dsimp -proj only
    | split)

theorem execQPin_acts {F : List Part} {S : State} (slot : Nat) (tensor : Nat) (outlier : Bool) (lo : Nat) (hi : Nat) {s : State} (h : Acts F S s)
    (hs : subParts [.regs, .quant] F = true) : ActsNext F S (execQPin slot tensor outlier lo hi s) := by
  refine ActsNext.step h ?_ hs
  unfold execQPin
  repeat' (first
    | with_reducible assumption
    | decide
    | with_reducible exact Acts.refl _ _
    | with_reducible refine writeQControl_acts _ ?_ ?_
    | with_reducible refine Acts.iteStep ?_ (fun _ => ?_)
    | with_reducible refine Acts.foldl ?_ (fun _ _ _ => ?_)
    | with_reducible refine ActsNext.next ?_
    | with_reducible refine ActsNext.ite ?_ ?_
    | dsimp -proj only
    | split)

theorem execQBound_acts {F : List Part} {S : State} (slot : Nat) (tensor : Nat) (outlier : Bool) (lo : Nat) (hi : Nat) {s : State} (h : Acts F S s)
    (hs : subParts [.regs, .quant] F = true) : ActsNext F S (execQBound slot tensor outlier lo hi s) := by
  refine ActsNext.step h ?_ hs
  unfold execQBound
  repeat' (first
    | with_reducible assumption
    | decide
    | with_reducible exact Acts.refl _ _
    | with_reducible refine writeQControl_acts _ ?_ ?_
    | with_reducible refine Acts.iteStep ?_ (fun _ => ?_)
    | with_reducible refine Acts.foldl ?_ (fun _ _ _ => ?_)
    | with_reducible refine ActsNext.next ?_
    | with_reducible refine ActsNext.ite ?_ ?_
    | dsimp -proj only
    | split)

theorem applyScale_acts {F : List Part} {S : State} (c : QCommand) {s : State} (h : Acts F S s)
    (hs : subParts [.regs, .queue, .quant, .observe, .noticeSeq] F = true) : Acts F S (applyScale s c) := by
  refine Acts.step h ?_ hs
  unfold applyScale
  repeat' (first
    | with_reducible assumption
    | decide
    | with_reducible exact Acts.refl _ _
    | with_reducible refine raise_acts _ _ ?_ ?_
    | with_reducible refine bump_acts _ _ ?_ ?_
    | with_reducible refine Acts.iteStep ?_ (fun _ => ?_)
    | with_reducible refine Acts.foldl ?_ (fun _ _ _ => ?_)
    | dsimp -proj only
    | (with_reducible refine Acts.set_quant ?_ ?_; first | with_reducible assumption | with_reducible exact Acts.refl _ _ | with_reducible refine raise_acts _ _ ?_ ?_ | with_reducible refine bump_acts _ _ ?_ ?_ | with_reducible refine Acts.iteStep ?_ (fun _ => ?_) | with_reducible refine Acts.foldl ?_ (fun _ _ _ => ?_))
    | split)

theorem clearScaleCommands_acts {F : List Part} {S : State} (slot : Nat) {s : State} (h : Acts F S s)
    (hs : subParts [.quant] F = true) : Acts F S (clearScaleCommands s slot) := by
  refine Acts.step h ?_ hs
  unfold clearScaleCommands
  repeat' (first
    | with_reducible assumption
    | decide
    | with_reducible exact Acts.refl _ _
    | with_reducible refine Acts.iteStep ?_ (fun _ => ?_)
    | with_reducible refine Acts.foldl ?_ (fun _ _ _ => ?_)
    | dsimp -proj only
    | (with_reducible refine Acts.set_quant ?_ ?_; first | with_reducible assumption | with_reducible exact Acts.refl _ _ | with_reducible refine Acts.iteStep ?_ (fun _ => ?_) | with_reducible refine Acts.foldl ?_ (fun _ _ _ => ?_))
    | split)

theorem execQCommandsApply_acts {F : List Part} {S : State}  {s : State} (h : Acts F S s)
    (hs : subParts [.regs, .queue, .quant, .observe, .noticeSeq] F = true) : ActsNext F S (execQCommandsApply s) := by
  refine ActsNext.step h ?_ hs
  unfold execQCommandsApply
  repeat' (first
    | with_reducible assumption
    | decide
    | with_reducible exact Acts.refl _ _
    | with_reducible refine applyScale_acts _ ?_ ?_
    | with_reducible refine showStagedQ_acts  ?_ ?_
    | with_reducible refine Acts.iteStep ?_ (fun _ => ?_)
    | with_reducible refine Acts.foldl ?_ (fun _ _ _ => ?_)
    | with_reducible refine ActsNext.next ?_
    | with_reducible refine ActsNext.ite ?_ ?_
    | dsimp -proj only
    | (with_reducible refine Acts.set_quant ?_ ?_; first | with_reducible assumption | with_reducible exact Acts.refl _ _ | with_reducible refine applyScale_acts _ ?_ ?_ | with_reducible refine showStagedQ_acts  ?_ ?_ | with_reducible refine Acts.iteStep ?_ (fun _ => ?_) | with_reducible refine Acts.foldl ?_ (fun _ _ _ => ?_) | with_reducible refine ActsNext.next ?_ | with_reducible refine ActsNext.ite ?_ ?_)
    | split)

theorem latchTensor_acts {F : List Part} {S : State} (slot : Nat) (t : Nat) (d : TensorDesc) (q : QTensor) {s : State} (h : Acts F S s)
    (hs : subParts [.regs] F = true) : Acts F S (latchTensor s slot t d q) := by
  refine Acts.step h ?_ hs
  unfold latchTensor
  repeat' (first
    | with_reducible assumption
    | decide
    | with_reducible exact Acts.refl _ _
    | with_reducible refine wr_acts _ _ ?_ ?_
    | with_reducible refine Acts.iteStep ?_ (fun _ => ?_)
    | with_reducible refine Acts.foldl ?_ (fun _ _ _ => ?_)
    | dsimp -proj only
    | split)

theorem latchNone_acts {F : List Part} {S : State}  {s : State} (h : Acts F S s)
    (hs : subParts [.regs] F = true) : Acts F S (latchNone s) := by
  refine Acts.step h ?_ hs
  unfold latchNone
  repeat' (first
    | with_reducible assumption
    | decide
    | with_reducible exact Acts.refl _ _
    | with_reducible refine wr_acts _ _ ?_ ?_
    | with_reducible refine Acts.iteStep ?_ (fun _ => ?_)
    | with_reducible refine Acts.foldl ?_ (fun _ _ _ => ?_)
    | dsimp -proj only
    | split)

theorem selectTensor_acts {F : List Part} {S : State} (slot : Nat) (t : Nat) {s : State} (h : Acts F S s)
    (hs : subParts [.regs] F = true) : Acts F S (selectTensor s slot t) := by
  refine Acts.step h ?_ hs
  unfold selectTensor
  repeat' (first
    | with_reducible assumption
    | decide
    | with_reducible exact Acts.refl _ _
    | with_reducible refine wr_acts _ _ ?_ ?_
    | with_reducible refine latchNone_acts  ?_ ?_
    | with_reducible refine latchTensor_acts _ _ _ _ ?_ ?_
    | with_reducible refine Acts.iteStep ?_ (fun _ => ?_)
    | with_reducible refine Acts.foldl ?_ (fun _ _ _ => ?_)
    | dsimp -proj only
    | split)

theorem execArrayQSelect_acts {F : List Part} {S : State} (slot : Nat) (tensor : Nat) {s : State} (h : Acts F S s)
    (hs : subParts [.regs] F = true) : ActsNext F S (execArrayQSelect slot tensor s) := by
  refine ActsNext.step h ?_ hs
  unfold execArrayQSelect
  repeat' (first
    | with_reducible assumption
    | decide
    | with_reducible exact Acts.refl _ _
    | with_reducible refine selectTensor_acts _ _ ?_ ?_
    | with_reducible refine Acts.iteStep ?_ (fun _ => ?_)
    | with_reducible refine Acts.foldl ?_ (fun _ _ _ => ?_)
    | with_reducible refine ActsNext.next ?_
    | with_reducible refine ActsNext.ite ?_ ?_
    | dsimp -proj only
    | split)

end Sys2Proof.Machine
end

