-- ==== Sys2Proof/Laws/ActsFront.lean ====
section
/-! SUPPORT. What each operation of Machine/Front.lean may touch, and that it keeps the invariant. -/

namespace Sys2Proof.Machine

theorem assignPartition_acts {F : List Part} {S : State} (hint : Nat) {s : State} (h : Acts F S s)
    (hs : subParts [.regs, .queue, .observe, .noticeSeq] F = true) : Acts F S (assignPartition s hint).2 := by
  refine Acts.step h ?_ hs
  unfold assignPartition
  repeat' (first
    | with_reducible assumption
    | decide
    | with_reducible exact Acts.refl _ _
    | with_reducible refine raise_acts _ _ ?_ ?_
    | with_reducible refine bump_acts _ _ ?_ ?_
    | with_reducible refine Acts.iteStep ?_ (fun _ => ?_)
    | with_reducible refine Acts.foldl ?_ (fun _ _ _ => ?_)
    | with_reducible refine Acts.sndIte ?_ ?_
    | dsimp -proj only
    | (with_reducible refine Acts.sndMk ?_; first | with_reducible assumption | with_reducible exact Acts.refl _ _ | with_reducible refine raise_acts _ _ ?_ ?_ | with_reducible refine bump_acts _ _ ?_ ?_ | with_reducible refine Acts.iteStep ?_ (fun _ => ?_) | with_reducible refine Acts.foldl ?_ (fun _ _ _ => ?_) | with_reducible refine Acts.sndIte ?_ ?_)
    | split)

theorem countWalk_acts {F : List Part} {S : State} (w : Walk) {s : State} (h : Acts F S s)
    (hs : subParts [.regs, .queue, .observe, .noticeSeq] F = true) : Acts F S (countWalk s w) := by
  refine Acts.step h ?_ hs
  unfold countWalk
  repeat' (first
    | with_reducible assumption
    | decide
    | with_reducible exact Acts.refl _ _
    | with_reducible refine bump_acts _ _ ?_ ?_
    | with_reducible refine raise_acts _ _ ?_ ?_
    | with_reducible refine Acts.iteStep ?_ (fun _ => ?_)
    | with_reducible refine Acts.foldl ?_ (fun _ _ _ => ?_)
    | dsimp -proj only
    | split)

theorem applyMeter_acts {F : List Part} {S : State} (r : Rule) (b : Nat) (len : Nat) {s : State} (h : Acts F S s)
    (hs : subParts [.regs, .front] F = true) : Acts F S (applyMeter s r b len).1 := by
  refine Acts.step h ?_ hs
  unfold applyMeter
  repeat' (first
    | with_reducible assumption
    | decide
    | with_reducible exact Acts.refl _ _
    | with_reducible refine bump_acts _ _ ?_ ?_
    | with_reducible refine Acts.iteStep ?_ (fun _ => ?_)
    | with_reducible refine Acts.foldl ?_ (fun _ _ _ => ?_)
    | with_reducible refine Acts.fstIte ?_ ?_
    | dsimp -proj only
    | (with_reducible refine Acts.set_front ?_ ?_; first | with_reducible assumption | with_reducible exact Acts.refl _ _ | with_reducible refine bump_acts _ _ ?_ ?_ | with_reducible refine Acts.iteStep ?_ (fun _ => ?_) | with_reducible refine Acts.foldl ?_ (fun _ _ _ => ?_) | with_reducible refine Acts.fstIte ?_ ?_)
    | (with_reducible refine Acts.fstMk ?_; first | with_reducible assumption | with_reducible exact Acts.refl _ _ | with_reducible refine bump_acts _ _ ?_ ?_ | with_reducible refine Acts.iteStep ?_ (fun _ => ?_) | with_reducible refine Acts.foldl ?_ (fun _ _ _ => ?_) | with_reducible refine Acts.fstIte ?_ ?_ | (with_reducible refine Acts.set_front ?_ ?_; first | with_reducible assumption | with_reducible exact Acts.refl _ _ | with_reducible refine bump_acts _ _ ?_ ?_ | with_reducible refine Acts.iteStep ?_ (fun _ => ?_) | with_reducible refine Acts.foldl ?_ (fun _ _ _ => ?_) | with_reducible refine Acts.fstIte ?_ ?_))
    | split)

theorem applyRule_acts {F : List Part} {S : State} (r : Option Rule) (part : Nat) (b : Nat) (len : Nat) {s : State} (h : Acts F S s)
    (hs : subParts [.regs, .front, .tally, .observe] F = true) : Acts F S (applyRule s r part b len).1 := by
  refine Acts.step h ?_ hs
  unfold applyRule
  repeat' (first
    | with_reducible assumption
    | decide
    | with_reducible exact Acts.refl _ _
    | with_reducible refine count_acts _ _ ?_ ?_
    | with_reducible refine bump_acts _ _ ?_ ?_
    | with_reducible refine keyMemory_acts _ _ _ ?_ ?_
    | with_reducible refine applyMeter_acts _ _ _ ?_ ?_
    | with_reducible refine Acts.iteStep ?_ (fun _ => ?_)
    | with_reducible refine Acts.foldl ?_ (fun _ _ _ => ?_)
    | with_reducible refine Acts.fstIte ?_ ?_
    | with_reducible refine Acts.ofFst (by assumption) ?_
    | dsimp -proj only
    | (with_reducible refine Acts.set_front ?_ ?_; first | with_reducible assumption | with_reducible exact Acts.refl _ _ | with_reducible refine count_acts _ _ ?_ ?_ | with_reducible refine bump_acts _ _ ?_ ?_ | with_reducible refine keyMemory_acts _ _ _ ?_ ?_ | with_reducible refine applyMeter_acts _ _ _ ?_ ?_ | with_reducible refine Acts.iteStep ?_ (fun _ => ?_) | with_reducible refine Acts.foldl ?_ (fun _ _ _ => ?_) | with_reducible refine Acts.fstIte ?_ ?_ | with_reducible refine Acts.ofFst (by assumption) ?_)
    | (with_reducible refine Acts.fstMk ?_; first | with_reducible assumption | with_reducible exact Acts.refl _ _ | with_reducible refine count_acts _ _ ?_ ?_ | with_reducible refine bump_acts _ _ ?_ ?_ | with_reducible refine keyMemory_acts _ _ _ ?_ ?_ | with_reducible refine applyMeter_acts _ _ _ ?_ ?_ | with_reducible refine Acts.iteStep ?_ (fun _ => ?_) | with_reducible refine Acts.foldl ?_ (fun _ _ _ => ?_) | with_reducible refine Acts.fstIte ?_ ?_ | with_reducible refine Acts.ofFst (by assumption) ?_ | (with_reducible refine Acts.set_front ?_ ?_; first | with_reducible assumption | with_reducible exact Acts.refl _ _ | with_reducible refine count_acts _ _ ?_ ?_ | with_reducible refine bump_acts _ _ ?_ ?_ | with_reducible refine keyMemory_acts _ _ _ ?_ ?_ | with_reducible refine applyMeter_acts _ _ _ ?_ ?_ | with_reducible refine Acts.iteStep ?_ (fun _ => ?_) | with_reducible refine Acts.foldl ?_ (fun _ _ _ => ?_) | with_reducible refine Acts.fstIte ?_ ?_ | with_reducible refine Acts.ofFst (by assumption) ?_))
    | split)

theorem frontStage_acts {F : List Part} {S : State} (h0 : Head) (r : HeadRecord) (b : Nat) {s : State} (h : Acts F S s)
    (hs : subParts [.regs, .front, .queue, .tally, .observe, .noticeSeq] F = true) : Acts F S (frontStage s h0 r b).1 := by
  refine Acts.step h ?_ hs
  unfold frontStage
  repeat' (first
    | with_reducible assumption
    | decide
    | with_reducible exact Acts.refl _ _
    | with_reducible refine assignPartition_acts _ ?_ ?_
    | with_reducible refine countWalk_acts _ ?_ ?_
    | with_reducible refine applyRule_acts _ _ _ _ ?_ ?_
    | with_reducible refine count_acts _ _ ?_ ?_
    | with_reducible refine raise_acts _ _ ?_ ?_
    | with_reducible refine bump_acts _ _ ?_ ?_
    | with_reducible refine Acts.iteStep ?_ (fun _ => ?_)
    | with_reducible refine Acts.foldl ?_ (fun _ _ _ => ?_)
    | with_reducible refine Acts.fstIte ?_ ?_
    | with_reducible refine Acts.sndIte ?_ ?_
    | with_reducible refine Acts.ofFst (by assumption) ?_
    | with_reducible refine Acts.ofSnd (by assumption) ?_
    | dsimp -proj only
    | (with_reducible refine Acts.fstMk ?_; first | with_reducible assumption | with_reducible exact Acts.refl _ _ | with_reducible refine assignPartition_acts _ ?_ ?_ | with_reducible refine countWalk_acts _ ?_ ?_ | with_reducible refine applyRule_acts _ _ _ _ ?_ ?_ | with_reducible refine count_acts _ _ ?_ ?_ | with_reducible refine raise_acts _ _ ?_ ?_ | with_reducible refine bump_acts _ _ ?_ ?_ | with_reducible refine Acts.iteStep ?_ (fun _ => ?_) | with_reducible refine Acts.foldl ?_ (fun _ _ _ => ?_) | with_reducible refine Acts.fstIte ?_ ?_ | with_reducible refine Acts.sndIte ?_ ?_ | with_reducible refine Acts.ofFst (by assumption) ?_ | with_reducible refine Acts.ofSnd (by assumption) ?_)
    | (with_reducible refine Acts.sndMk ?_; first | with_reducible assumption | with_reducible exact Acts.refl _ _ | with_reducible refine assignPartition_acts _ ?_ ?_ | with_reducible refine countWalk_acts _ ?_ ?_ | with_reducible refine applyRule_acts _ _ _ _ ?_ ?_ | with_reducible refine count_acts _ _ ?_ ?_ | with_reducible refine raise_acts _ _ ?_ ?_ | with_reducible refine bump_acts _ _ ?_ ?_ | with_reducible refine Acts.iteStep ?_ (fun _ => ?_) | with_reducible refine Acts.foldl ?_ (fun _ _ _ => ?_) | with_reducible refine Acts.fstIte ?_ ?_ | with_reducible refine Acts.sndIte ?_ ?_ | with_reducible refine Acts.ofFst (by assumption) ?_ | with_reducible refine Acts.ofSnd (by assumption) ?_)
    | split)

theorem showStaged_acts {F : List Part} {S : State}  {s : State} (h : Acts F S s)
    (hs : subParts [.regs] F = true) : Acts F S (showStaged s) := by
  refine Acts.step h ?_ hs
  unfold showStaged
  repeat' (first
    | with_reducible assumption
    | decide
    | with_reducible exact Acts.refl _ _
    | with_reducible refine wr_acts _ _ ?_ ?_
    | with_reducible refine Acts.iteStep ?_ (fun _ => ?_)
    | with_reducible refine Acts.foldl ?_ (fun _ _ _ => ?_)
    | dsimp -proj only
    | split)

theorem checkCommit_acts {F : List Part} {S : State}  {s : State} (h : Acts F S s)
    (hs : subParts [.regs, .front, .queue, .observe, .noticeSeq] F = true) : Acts F S (checkCommit s) := by
  refine Acts.step h ?_ hs
  unfold checkCommit
  repeat' (first
    | with_reducible assumption
    | decide
    | with_reducible exact Acts.refl _ _
    | with_reducible refine wr_acts _ _ ?_ ?_
    | with_reducible refine raise_acts _ _ ?_ ?_
    | with_reducible refine showStaged_acts  ?_ ?_
    | with_reducible refine wrB_acts _ _ ?_ ?_
    | with_reducible refine Acts.iteStep ?_ (fun _ => ?_)
    | with_reducible refine Acts.foldl ?_ (fun _ _ _ => ?_)
    | dsimp -proj only
    | (with_reducible refine Acts.set_front ?_ ?_; first | with_reducible assumption | with_reducible exact Acts.refl _ _ | with_reducible refine wr_acts _ _ ?_ ?_ | with_reducible refine raise_acts _ _ ?_ ?_ | with_reducible refine showStaged_acts  ?_ ?_ | with_reducible refine wrB_acts _ _ ?_ ?_ | with_reducible refine Acts.iteStep ?_ (fun _ => ?_) | with_reducible refine Acts.foldl ?_ (fun _ _ _ => ?_))
    | (with_reducible refine Acts.set_front ?_ ?_; first | with_reducible assumption | with_reducible exact Acts.refl _ _ | with_reducible refine wr_acts _ _ ?_ ?_ | with_reducible refine raise_acts _ _ ?_ ?_ | with_reducible refine showStaged_acts  ?_ ?_ | with_reducible refine wrB_acts _ _ ?_ ?_ | with_reducible refine Acts.iteStep ?_ (fun _ => ?_) | with_reducible refine Acts.foldl ?_ (fun _ _ _ => ?_) | (with_reducible refine Acts.set_front ?_ ?_; first | with_reducible assumption | with_reducible exact Acts.refl _ _ | with_reducible refine wr_acts _ _ ?_ ?_ | with_reducible refine raise_acts _ _ ?_ ?_ | with_reducible refine showStaged_acts  ?_ ?_ | with_reducible refine wrB_acts _ _ ?_ ?_ | with_reducible refine Acts.iteStep ?_ (fun _ => ?_) | with_reducible refine Acts.foldl ?_ (fun _ _ _ => ?_)))
    | split)

theorem commitRules_acts {F : List Part} {S : State}  {s : State} (h : Acts F S s)
    (hs : subParts [.regs, .front, .queue, .observe, .noticeSeq] F = true) : Acts F S (commitRules s) := by
  refine Acts.step h ?_ hs
  unfold commitRules
  repeat' (first
    | with_reducible assumption
    | decide
    | with_reducible exact Acts.refl _ _
    | with_reducible refine wr_acts _ _ ?_ ?_
    | with_reducible refine checkCommit_acts  ?_ ?_
    | with_reducible refine Acts.iteStep ?_ (fun _ => ?_)
    | with_reducible refine Acts.foldl ?_ (fun _ _ _ => ?_)
    | dsimp -proj only
    | (with_reducible refine Acts.set_front ?_ ?_; first | with_reducible assumption | with_reducible exact Acts.refl _ _ | with_reducible refine wr_acts _ _ ?_ ?_ | with_reducible refine checkCommit_acts  ?_ ?_ | with_reducible refine Acts.iteStep ?_ (fun _ => ?_) | with_reducible refine Acts.foldl ?_ (fun _ _ _ => ?_))
    | split)

theorem discardRules_acts {F : List Part} {S : State}  {s : State} (h : Acts F S s)
    (hs : subParts [.regs, .front] F = true) : Acts F S (discardRules s) := by
  refine Acts.step h ?_ hs
  unfold discardRules
  repeat' (first
    | with_reducible assumption
    | decide
    | with_reducible exact Acts.refl _ _
    | with_reducible refine showStaged_acts  ?_ ?_
    | with_reducible refine wr_acts _ _ ?_ ?_
    | with_reducible refine Acts.iteStep ?_ (fun _ => ?_)
    | with_reducible refine Acts.foldl ?_ (fun _ _ _ => ?_)
    | dsimp -proj only
    | (with_reducible refine Acts.set_front ?_ ?_; first | with_reducible assumption | with_reducible exact Acts.refl _ _ | with_reducible refine showStaged_acts  ?_ ?_ | with_reducible refine wr_acts _ _ ?_ ?_ | with_reducible refine Acts.iteStep ?_ (fun _ => ?_) | with_reducible refine Acts.foldl ?_ (fun _ _ _ => ?_))
    | split)

theorem writeRuleCtrl_acts {F : List Part} {S : State} (w : Nat) {s : State} (h : Acts F S s)
    (hs : subParts [.regs, .front, .queue, .observe, .noticeSeq] F = true) : Acts F S (writeRuleCtrl s w) := by
  refine Acts.step h ?_ hs
  unfold writeRuleCtrl
  repeat' (first
    | with_reducible assumption
    | decide
    | with_reducible exact Acts.refl _ _
    | with_reducible refine commitRules_acts  ?_ ?_
    | with_reducible refine discardRules_acts  ?_ ?_
    | with_reducible refine Acts.iteStep ?_ (fun _ => ?_)
    | with_reducible refine Acts.foldl ?_ (fun _ _ _ => ?_)
    | dsimp -proj only
    | split)

theorem execCommit_acts {F : List Part} {S : State}  {s : State} (h : Acts F S s)
    (hs : subParts [.regs, .front, .queue, .observe, .noticeSeq] F = true) : ActsNext F S (execCommit s) := by
  refine ActsNext.step h ?_ hs
  unfold execCommit
  repeat' (first
    | with_reducible assumption
    | decide
    | with_reducible exact Acts.refl _ _
    | with_reducible refine commitRules_acts  ?_ ?_
    | with_reducible refine Acts.iteStep ?_ (fun _ => ?_)
    | with_reducible refine Acts.foldl ?_ (fun _ _ _ => ?_)
    | with_reducible refine ActsNext.next ?_
    | with_reducible refine ActsNext.ite ?_ ?_
    | dsimp -proj only
    | split)

theorem execDiscard_acts {F : List Part} {S : State}  {s : State} (h : Acts F S s)
    (hs : subParts [.regs, .front] F = true) : ActsNext F S (execDiscard s) := by
  refine ActsNext.step h ?_ hs
  unfold execDiscard
  repeat' (first
    | with_reducible assumption
    | decide
    | with_reducible exact Acts.refl _ _
    | with_reducible refine discardRules_acts  ?_ ?_
    | with_reducible refine Acts.iteStep ?_ (fun _ => ?_)
    | with_reducible refine Acts.foldl ?_ (fun _ _ _ => ?_)
    | with_reducible refine ActsNext.next ?_
    | with_reducible refine ActsNext.ite ?_ ?_
    | dsimp -proj only
    | split)

theorem execRuleSetApply_acts {F : List Part} {S : State}  {s : State} (h : Acts F S s)
    (hs : subParts [.regs, .front, .queue, .observe, .noticeSeq] F = true) : ActsNext F S (execRuleSetApply s) := by
  refine ActsNext.step h ?_ hs
  unfold execRuleSetApply
  repeat' (first
    | with_reducible assumption
    | decide
    | with_reducible exact Acts.refl _ _
    | with_reducible refine wrB_acts _ _ ?_ ?_
    | with_reducible refine checkCommit_acts  ?_ ?_
    | with_reducible refine Acts.iteStep ?_ (fun _ => ?_)
    | with_reducible refine Acts.foldl ?_ (fun _ _ _ => ?_)
    | with_reducible refine ActsNext.next ?_
    | with_reducible refine ActsNext.ite ?_ ?_
    | dsimp -proj only
    | (with_reducible refine Acts.set_front ?_ ?_; first | with_reducible assumption | with_reducible exact Acts.refl _ _ | with_reducible refine wrB_acts _ _ ?_ ?_ | with_reducible refine checkCommit_acts  ?_ ?_ | with_reducible refine Acts.iteStep ?_ (fun _ => ?_) | with_reducible refine Acts.foldl ?_ (fun _ _ _ => ?_) | with_reducible refine ActsNext.next ?_ | with_reducible refine ActsNext.ite ?_ ?_)
    | split)

theorem applyMeterConfigs_acts {F : List Part} {S : State}  {s : State} (h : Acts F S s)
    (hs : subParts [.front] F = true) : Acts F S (applyMeterConfigs s) := by
  refine Acts.step h ?_ hs
  unfold applyMeterConfigs
  repeat' (first
    | with_reducible assumption
    | decide
    | with_reducible exact Acts.refl _ _
    | with_reducible refine Acts.iteStep ?_ (fun _ => ?_)
    | with_reducible refine Acts.foldl ?_ (fun _ _ _ => ?_)
    | dsimp -proj only
    | (with_reducible refine Acts.set_front ?_ ?_; first | with_reducible assumption | with_reducible exact Acts.refl _ _ | with_reducible refine Acts.iteStep ?_ (fun _ => ?_) | with_reducible refine Acts.foldl ?_ (fun _ _ _ => ?_))
    | split)

theorem execMeterConfigApply_acts {F : List Part} {S : State}  {s : State} (h : Acts F S s)
    (hs : subParts [.front] F = true) : ActsNext F S (execMeterConfigApply s) := by
  refine ActsNext.step h ?_ hs
  unfold execMeterConfigApply
  repeat' (first
    | with_reducible assumption
    | decide
    | with_reducible exact Acts.refl _ _
    | with_reducible refine applyMeterConfigs_acts  ?_ ?_
    | with_reducible refine Acts.iteStep ?_ (fun _ => ?_)
    | with_reducible refine Acts.foldl ?_ (fun _ _ _ => ?_)
    | with_reducible refine ActsNext.next ?_
    | with_reducible refine ActsNext.ite ?_ ?_
    | dsimp -proj only
    | split)

theorem stageRule_acts {F : List Part} {S : State} (i : Nat) (r : Rule) {s : State} (h : Acts F S s)
    (hs : subParts [.regs, .front] F = true) : Acts F S (stageRule s i r).1 := by
  refine Acts.step h ?_ hs
  unfold stageRule
  repeat' (first
    | with_reducible assumption
    | decide
    | with_reducible exact Acts.refl _ _
    | with_reducible refine wr_acts _ _ ?_ ?_
    | with_reducible refine showStaged_acts  ?_ ?_
    | with_reducible refine Acts.iteStep ?_ (fun _ => ?_)
    | with_reducible refine Acts.foldl ?_ (fun _ _ _ => ?_)
    | with_reducible refine Acts.fstIte ?_ ?_
    | dsimp -proj only
    | (with_reducible refine Acts.set_front ?_ ?_; first | with_reducible assumption | with_reducible exact Acts.refl _ _ | with_reducible refine wr_acts _ _ ?_ ?_ | with_reducible refine showStaged_acts  ?_ ?_ | with_reducible refine Acts.iteStep ?_ (fun _ => ?_) | with_reducible refine Acts.foldl ?_ (fun _ _ _ => ?_) | with_reducible refine Acts.fstIte ?_ ?_)
    | (with_reducible refine Acts.fstMk ?_; first | with_reducible assumption | with_reducible exact Acts.refl _ _ | with_reducible refine wr_acts _ _ ?_ ?_ | with_reducible refine showStaged_acts  ?_ ?_ | with_reducible refine Acts.iteStep ?_ (fun _ => ?_) | with_reducible refine Acts.foldl ?_ (fun _ _ _ => ?_) | with_reducible refine Acts.fstIte ?_ ?_ | (with_reducible refine Acts.set_front ?_ ?_; first | with_reducible assumption | with_reducible exact Acts.refl _ _ | with_reducible refine wr_acts _ _ ?_ ?_ | with_reducible refine showStaged_acts  ?_ ?_ | with_reducible refine Acts.iteStep ?_ (fun _ => ?_) | with_reducible refine Acts.foldl ?_ (fun _ _ _ => ?_) | with_reducible refine Acts.fstIte ?_ ?_))
    | split)

theorem stageMeter_acts {F : List Part} {S : State} (i : Nat) (config : Nat) {s : State} (h : Acts F S s)
    (hs : subParts [.front] F = true) : Acts F S (stageMeter s i config).1 := by
  refine Acts.step h ?_ hs
  unfold stageMeter
  repeat' (first
    | with_reducible assumption
    | decide
    | with_reducible exact Acts.refl _ _
    | with_reducible refine applyMeterConfigs_acts  ?_ ?_
    | with_reducible refine Acts.iteStep ?_ (fun _ => ?_)
    | with_reducible refine Acts.foldl ?_ (fun _ _ _ => ?_)
    | with_reducible refine Acts.fstIte ?_ ?_
    | dsimp -proj only
    | (with_reducible refine Acts.set_front ?_ ?_; first | with_reducible assumption | with_reducible exact Acts.refl _ _ | with_reducible refine applyMeterConfigs_acts  ?_ ?_ | with_reducible refine Acts.iteStep ?_ (fun _ => ?_) | with_reducible refine Acts.foldl ?_ (fun _ _ _ => ?_) | with_reducible refine Acts.fstIte ?_ ?_)
    | (with_reducible refine Acts.fstMk ?_; first | with_reducible assumption | with_reducible exact Acts.refl _ _ | with_reducible refine applyMeterConfigs_acts  ?_ ?_ | with_reducible refine Acts.iteStep ?_ (fun _ => ?_) | with_reducible refine Acts.foldl ?_ (fun _ _ _ => ?_) | with_reducible refine Acts.fstIte ?_ ?_ | (with_reducible refine Acts.set_front ?_ ?_; first | with_reducible assumption | with_reducible exact Acts.refl _ _ | with_reducible refine applyMeterConfigs_acts  ?_ ?_ | with_reducible refine Acts.iteStep ?_ (fun _ => ?_) | with_reducible refine Acts.foldl ?_ (fun _ _ _ => ?_) | with_reducible refine Acts.fstIte ?_ ?_))
    | split)

theorem stageVmap_acts {F : List Part} {S : State} (i : Nat) (entry : Nat) {s : State} (h : Acts F S s)
    (hs : subParts [.front] F = true) : Acts F S (stageVmap s i entry).1 := by
  refine Acts.step h ?_ hs
  unfold stageVmap
  repeat' (first
    | with_reducible assumption
    | decide
    | with_reducible exact Acts.refl _ _
    | with_reducible refine Acts.iteStep ?_ (fun _ => ?_)
    | with_reducible refine Acts.foldl ?_ (fun _ _ _ => ?_)
    | with_reducible refine Acts.fstIte ?_ ?_
    | dsimp -proj only
    | (with_reducible refine Acts.set_front ?_ ?_; first | with_reducible assumption | with_reducible exact Acts.refl _ _ | with_reducible refine Acts.iteStep ?_ (fun _ => ?_) | with_reducible refine Acts.foldl ?_ (fun _ _ _ => ?_) | with_reducible refine Acts.fstIte ?_ ?_)
    | (with_reducible refine Acts.fstMk ?_; first | with_reducible assumption | with_reducible exact Acts.refl _ _ | with_reducible refine Acts.iteStep ?_ (fun _ => ?_) | with_reducible refine Acts.foldl ?_ (fun _ _ _ => ?_) | with_reducible refine Acts.fstIte ?_ ?_ | (with_reducible refine Acts.set_front ?_ ?_; first | with_reducible assumption | with_reducible exact Acts.refl _ _ | with_reducible refine Acts.iteStep ?_ (fun _ => ?_) | with_reducible refine Acts.foldl ?_ (fun _ _ _ => ?_) | with_reducible refine Acts.fstIte ?_ ?_))
    | split)

theorem frontError_acts {F : List Part} {S : State} (loc : Sys2Proof.FaultLoc) {s : State} (h : Acts F S s)
    (hs : subParts [.regs, .front, .queue, .observe, .noticeSeq] F = true) : Acts F S (frontError s loc) := by
  refine Acts.step h ?_ hs
  unfold frontError
  repeat' (first
    | with_reducible assumption
    | decide
    | with_reducible exact Acts.refl _ _
    | with_reducible refine raise_acts _ _ ?_ ?_
    | with_reducible refine bump_acts _ _ ?_ ?_
    | with_reducible refine Acts.iteStep ?_ (fun _ => ?_)
    | with_reducible refine Acts.foldl ?_ (fun _ _ _ => ?_)
    | dsimp -proj only
    | (with_reducible refine Acts.set_front ?_ ?_; first | with_reducible assumption | with_reducible exact Acts.refl _ _ | with_reducible refine raise_acts _ _ ?_ ?_ | with_reducible refine bump_acts _ _ ?_ ?_ | with_reducible refine Acts.iteStep ?_ (fun _ => ?_) | with_reducible refine Acts.foldl ?_ (fun _ _ _ => ?_))
    | (with_reducible refine Acts.set_front ?_ ?_; first | with_reducible assumption | with_reducible exact Acts.refl _ _ | with_reducible refine raise_acts _ _ ?_ ?_ | with_reducible refine bump_acts _ _ ?_ ?_ | with_reducible refine Acts.iteStep ?_ (fun _ => ?_) | with_reducible refine Acts.foldl ?_ (fun _ _ _ => ?_) | (with_reducible refine Acts.set_front ?_ ?_; first | with_reducible assumption | with_reducible exact Acts.refl _ _ | with_reducible refine raise_acts _ _ ?_ ?_ | with_reducible refine bump_acts _ _ ?_ ?_ | with_reducible refine Acts.iteStep ?_ (fun _ => ?_) | with_reducible refine Acts.foldl ?_ (fun _ _ _ => ?_)))
    | split)

end Sys2Proof.Machine
end

