-- ==== Sys2Proof/Laws/ActsTables.lean ====
section
/-! SUPPORT. What each operation of Machine/Tables.lean may touch, and that it keeps the invariant. -/

namespace Sys2Proof.Machine

theorem modT_acts {F : List Part} {S : State} (t : Nat) (f : TableSt → TableSt) {s : State} (h : Acts F S s)
    (hs : subParts [.flow, .endpoint] F = true) : Acts F S (modT s t f) := by
  refine Acts.step h ?_ hs
  unfold modT
  repeat' (first
    | with_reducible assumption
    | decide
    | with_reducible exact Acts.refl _ _
    | with_reducible refine Acts.iteStep ?_ (fun _ => ?_)
    | with_reducible refine Acts.foldl ?_ (fun _ _ _ => ?_)
    | dsimp -proj only
    | (with_reducible refine Acts.set_flow ?_ ?_; first | with_reducible assumption | with_reducible exact Acts.refl _ _ | with_reducible refine Acts.iteStep ?_ (fun _ => ?_) | with_reducible refine Acts.foldl ?_ (fun _ _ _ => ?_))
    | (with_reducible refine Acts.set_endpoint ?_ ?_; first | with_reducible assumption | with_reducible exact Acts.refl _ _ | with_reducible refine Acts.iteStep ?_ (fun _ => ?_) | with_reducible refine Acts.foldl ?_ (fun _ _ _ => ?_))
    | (with_reducible refine Acts.set_flow ?_ ?_; first | with_reducible assumption | with_reducible exact Acts.refl _ _ | with_reducible refine Acts.iteStep ?_ (fun _ => ?_) | with_reducible refine Acts.foldl ?_ (fun _ _ _ => ?_) | (with_reducible refine Acts.set_flow ?_ ?_; first | with_reducible assumption | with_reducible exact Acts.refl _ _ | with_reducible refine Acts.iteStep ?_ (fun _ => ?_) | with_reducible refine Acts.foldl ?_ (fun _ _ _ => ?_)) | (with_reducible refine Acts.set_endpoint ?_ ?_; first | with_reducible assumption | with_reducible exact Acts.refl _ _ | with_reducible refine Acts.iteStep ?_ (fun _ => ?_) | with_reducible refine Acts.foldl ?_ (fun _ _ _ => ?_)))
    | (with_reducible refine Acts.set_endpoint ?_ ?_; first | with_reducible assumption | with_reducible exact Acts.refl _ _ | with_reducible refine Acts.iteStep ?_ (fun _ => ?_) | with_reducible refine Acts.foldl ?_ (fun _ _ _ => ?_) | (with_reducible refine Acts.set_flow ?_ ?_; first | with_reducible assumption | with_reducible exact Acts.refl _ _ | with_reducible refine Acts.iteStep ?_ (fun _ => ?_) | with_reducible refine Acts.foldl ?_ (fun _ _ _ => ?_)) | (with_reducible refine Acts.set_endpoint ?_ ?_; first | with_reducible assumption | with_reducible exact Acts.refl _ _ | with_reducible refine Acts.iteStep ?_ (fun _ => ?_) | with_reducible refine Acts.foldl ?_ (fun _ _ _ => ?_)))
    | split)

theorem keyTable_acts {F : List Part} {S : State} (t : Nat) (holder : Nat) (id : Nat) (access : Nat) (bytes : Nat) {s : State} (h : Acts F S s)
    (hs : subParts [.tally, .observe] F = true) : Acts F S (keyTable s t holder id access bytes) := by
  refine Acts.step h ?_ hs
  unfold keyTable
  repeat' (first
    | with_reducible assumption
    | decide
    | with_reducible exact Acts.refl _ _
    | with_reducible refine keyMemory_acts _ _ _ ?_ ?_
    | with_reducible refine Acts.iteStep ?_ (fun _ => ?_)
    | with_reducible refine Acts.foldl ?_ (fun _ _ _ => ?_)
    | dsimp -proj only
    | split)

theorem setEntry_acts {F : List Part} {S : State} (t : Nat) (i : Nat) (e : Entry) {s : State} (h : Acts F S s)
    (hs : subParts [.flow, .endpoint] F = true) : Acts F S (setEntry s t i e) := by
  refine Acts.step h ?_ hs
  unfold setEntry
  repeat' (first
    | with_reducible assumption
    | decide
    | with_reducible exact Acts.refl _ _
    | with_reducible refine modT_acts _ _ ?_ ?_
    | with_reducible refine Acts.iteStep ?_ (fun _ => ?_)
    | with_reducible refine Acts.foldl ?_ (fun _ _ _ => ?_)
    | dsimp -proj only
    | split)

theorem showTable_acts {F : List Part} {S : State} (t : Nat) {s : State} (h : Acts F S s)
    (hs : subParts [.regs] F = true) : Acts F S (showTable s t) := by
  refine Acts.step h ?_ hs
  unfold showTable
  repeat' (first
    | with_reducible assumption
    | decide
    | with_reducible exact Acts.refl _ _
    | with_reducible refine wr_acts _ _ ?_ ?_
    | with_reducible refine Acts.iteStep ?_ (fun _ => ?_)
    | with_reducible refine Acts.foldl ?_ (fun _ _ _ => ?_)
    | dsimp -proj only
    | split)

theorem raiseLearn_acts {F : List Part} {S : State} (l : Learn) {s : State} (h : Acts F S s)
    (hs : subParts [.regs, .queue, .observe, .noticeSeq] F = true) : Acts F S (raiseLearn s l) := by
  refine Acts.step h ?_ hs
  unfold raiseLearn
  repeat' (first
    | with_reducible assumption
    | decide
    | with_reducible exact Acts.refl _ _
    | with_reducible refine learnItem_acts _ _ ?_ ?_
    | with_reducible refine raiseIf_acts _ _ _ ?_ ?_
    | with_reducible refine Acts.iteStep ?_ (fun _ => ?_)
    | with_reducible refine Acts.foldl ?_ (fun _ _ _ => ?_)
    | dsimp -proj only
    | split)

theorem raiseFiltered_acts {F : List Part} {S : State} (l : Learn) (i : Nat) {s : State} (h : Acts F S s)
    (hs : subParts [.regs, .flow, .endpoint, .queue, .observe, .noticeSeq] F = true) : Acts F S (raiseFiltered s l i) := by
  refine Acts.step h ?_ hs
  unfold raiseFiltered
  repeat' (first
    | with_reducible assumption
    | decide
    | with_reducible exact Acts.refl _ _
    | with_reducible refine modT_acts _ _ ?_ ?_
    | with_reducible refine raiseLearn_acts _ ?_ ?_
    | with_reducible refine Acts.iteStep ?_ (fun _ => ?_)
    | with_reducible refine Acts.foldl ?_ (fun _ _ _ => ?_)
    | dsimp -proj only
    | split)

theorem createAt_acts {F : List Part} {S : State} (t : Nat) (i : Nat) (e : Entry) (learned : Bool) {s : State} (h : Acts F S s)
    (hs : subParts [.regs, .flow, .endpoint] F = true) : Acts F S (createAt s t i e learned) := by
  refine Acts.step h ?_ hs
  unfold createAt
  repeat' (first
    | with_reducible assumption
    | decide
    | with_reducible exact Acts.refl _ _
    | with_reducible refine setEntry_acts _ _ _ ?_ ?_
    | with_reducible refine showTable_acts _ ?_ ?_
    | with_reducible refine bump_acts _ _ ?_ ?_
    | with_reducible refine Acts.iteStep ?_ (fun _ => ?_)
    | with_reducible refine Acts.foldl ?_ (fun _ _ _ => ?_)
    | dsimp -proj only
    | split)

theorem removeEntry_acts {F : List Part} {S : State} (t : Nat) (i : Nat) {s : State} (h : Acts F S s)
    (hs : subParts [.regs, .flow, .endpoint] F = true) : Acts F S (removeEntry s t i) := by
  refine Acts.step h ?_ hs
  unfold removeEntry
  repeat' (first
    | with_reducible assumption
    | decide
    | with_reducible exact Acts.refl _ _
    | with_reducible refine setEntry_acts _ _ _ ?_ ?_
    | with_reducible refine modT_acts _ _ ?_ ?_
    | with_reducible refine showTable_acts _ ?_ ?_
    | with_reducible refine Acts.iteStep ?_ (fun _ => ?_)
    | with_reducible refine Acts.foldl ?_ (fun _ _ _ => ?_)
    | dsimp -proj only
    | split)

theorem ageOut_acts {F : List Part} {S : State} (t : Nat) (i : Nat) {s : State} (h : Acts F S s)
    (hs : subParts [.regs, .flow, .endpoint, .queue, .observe, .noticeSeq] F = true) : Acts F S (ageOut s t i) := by
  refine Acts.step h ?_ hs
  unfold ageOut
  repeat' (first
    | with_reducible assumption
    | decide
    | with_reducible exact Acts.refl _ _
    | with_reducible refine removeEntry_acts _ _ ?_ ?_
    | with_reducible refine raiseLearn_acts _ ?_ ?_
    | with_reducible refine Acts.iteStep ?_ (fun _ => ?_)
    | with_reducible refine Acts.foldl ?_ (fun _ _ _ => ?_)
    | dsimp -proj only
    | split)

theorem insertEntry_acts {F : List Part} {S : State} (t : Nat) (e : Entry) (learned : Bool) {s : State} (h : Acts F S s)
    (hs : subParts [.regs, .flow, .endpoint, .queue, .observe, .noticeSeq] F = true) : Acts F S (insertEntry s t e learned).1 := by
  refine Acts.step h ?_ hs
  unfold insertEntry
  repeat' (first
    | with_reducible assumption
    | decide
    | with_reducible exact Acts.refl _ _
    | with_reducible refine bump_acts _ _ ?_ ?_
    | with_reducible refine raise_acts _ _ ?_ ?_
    | with_reducible refine modT_acts _ _ ?_ ?_
    | with_reducible refine createAt_acts _ _ _ _ ?_ ?_
    | with_reducible refine showTable_acts _ ?_ ?_
    | with_reducible refine Acts.iteStep ?_ (fun _ => ?_)
    | with_reducible refine Acts.foldl ?_ (fun _ _ _ => ?_)
    | with_reducible refine Acts.fstIte ?_ ?_
    | dsimp -proj only
    | (with_reducible refine Acts.fstMk ?_; first | with_reducible assumption | with_reducible exact Acts.refl _ _ | with_reducible refine bump_acts _ _ ?_ ?_ | with_reducible refine raise_acts _ _ ?_ ?_ | with_reducible refine modT_acts _ _ ?_ ?_ | with_reducible refine createAt_acts _ _ _ _ ?_ ?_ | with_reducible refine showTable_acts _ ?_ ?_ | with_reducible refine Acts.iteStep ?_ (fun _ => ?_) | with_reducible refine Acts.foldl ?_ (fun _ _ _ => ?_) | with_reducible refine Acts.fstIte ?_ ?_)
    | split)

theorem learnHead_acts {F : List Part} {S : State} (t : Nat) (i : Nat) (e : Entry) {s : State} (h : Acts F S s)
    (hs : subParts [.regs, .flow, .endpoint, .queue, .observe, .noticeSeq] F = true) : Acts F S (learnHead s t i e) := by
  refine Acts.step h ?_ hs
  unfold learnHead
  repeat' (first
    | with_reducible assumption
    | decide
    | with_reducible exact Acts.refl _ _
    | with_reducible refine createAt_acts _ _ _ _ ?_ ?_
    | with_reducible refine raise_acts _ _ ?_ ?_
    | with_reducible refine bump_acts _ _ ?_ ?_
    | with_reducible refine modT_acts _ _ ?_ ?_
    | with_reducible refine Acts.iteStep ?_ (fun _ => ?_)
    | with_reducible refine Acts.foldl ?_ (fun _ _ _ => ?_)
    | dsimp -proj only
    | split)

theorem countLookup_acts {F : List Part} {S : State} (t : Nat) (r : Lookup) {s : State} (h : Acts F S s)
    (hs : subParts [.regs] F = true) : Acts F S (countLookup s t r) := by
  refine Acts.step h ?_ hs
  unfold countLookup
  repeat' (first
    | with_reducible assumption
    | decide
    | with_reducible exact Acts.refl _ _
    | with_reducible refine count_acts _ _ ?_ ?_
    | with_reducible refine bump_acts _ _ ?_ ?_
    | with_reducible refine Acts.iteStep ?_ (fun _ => ?_)
    | with_reducible refine Acts.foldl ?_ (fun _ _ _ => ?_)
    | dsimp -proj only
    | split)

theorem hitEntry_acts {F : List Part} {S : State} (h0 : Head) (t : Nat) (i : Nat) (key : Nat) {s : State} (h : Acts F S s)
    (hs : subParts [.regs, .flow, .endpoint, .queue, .observe, .noticeSeq] F = true) : Acts F S (hitEntry s h0 t i key) := by
  refine Acts.step h ?_ hs
  unfold hitEntry
  repeat' (first
    | with_reducible assumption
    | decide
    | with_reducible exact Acts.refl _ _
    | with_reducible refine setEntry_acts _ _ _ ?_ ?_
    | with_reducible refine bump_acts _ _ ?_ ?_
    | with_reducible refine raise_acts _ _ ?_ ?_
    | with_reducible refine raiseLearn_acts _ ?_ ?_
    | with_reducible refine raiseFiltered_acts _ _ ?_ ?_
    | with_reducible refine Acts.iteStep ?_ (fun _ => ?_)
    | with_reducible refine Acts.foldl ?_ (fun _ _ _ => ?_)
    | dsimp -proj only
    | split)

theorem missEntry_acts {F : List Part} {S : State} (h0 : Head) (t : Nat) (i : Nat) (key : Nat) {s : State} (h : Acts F S s)
    (hs : subParts [.regs, .flow, .endpoint, .queue, .observe, .noticeSeq] F = true) : Acts F S (missEntry s h0 t i key) := by
  refine Acts.step h ?_ hs
  unfold missEntry
  repeat' (first
    | with_reducible assumption
    | decide
    | with_reducible exact Acts.refl _ _
    | with_reducible refine learnHead_acts _ _ _ ?_ ?_
    | with_reducible refine raiseFiltered_acts _ _ ?_ ?_
    | with_reducible refine Acts.iteStep ?_ (fun _ => ?_)
    | with_reducible refine Acts.foldl ?_ (fun _ _ _ => ?_)
    | dsimp -proj only
    | split)

theorem lookupHead_acts {F : List Part} {S : State} (h0 : Head) (o : Origin) (t : Nat) {s : State} (h : Acts F S s)
    (hs : subParts [.regs, .flow, .endpoint, .queue, .observe, .noticeSeq] F = true) : Acts F S (lookupHead s h0 o t).1 := by
  refine Acts.step h ?_ hs
  unfold lookupHead
  repeat' (first
    | with_reducible assumption
    | decide
    | with_reducible exact Acts.refl _ _
    | with_reducible refine countLookup_acts _ _ ?_ ?_
    | with_reducible refine missEntry_acts _ _ _ _ ?_ ?_
    | with_reducible refine bump_acts _ _ ?_ ?_
    | with_reducible refine hitEntry_acts _ _ _ _ ?_ ?_
    | with_reducible refine Acts.iteStep ?_ (fun _ => ?_)
    | with_reducible refine Acts.foldl ?_ (fun _ _ _ => ?_)
    | with_reducible refine Acts.fstIte ?_ ?_
    | dsimp -proj only
    | (with_reducible refine Acts.fstMk ?_; first | with_reducible assumption | with_reducible exact Acts.refl _ _ | with_reducible refine countLookup_acts _ _ ?_ ?_ | with_reducible refine missEntry_acts _ _ _ _ ?_ ?_ | with_reducible refine bump_acts _ _ ?_ ?_ | with_reducible refine hitEntry_acts _ _ _ _ ?_ ?_ | with_reducible refine Acts.iteStep ?_ (fun _ => ?_) | with_reducible refine Acts.foldl ?_ (fun _ _ _ => ?_) | with_reducible refine Acts.fstIte ?_ ?_)
    | split)

theorem removeFaulty_acts {F : List Part} {S : State} (t : Nat) (i : Nat) {s : State} (h : Acts F S s)
    (hs : subParts [.regs, .flow, .endpoint, .queue, .observe, .noticeSeq] F = true) : Acts F S (removeFaulty s t i) := by
  refine Acts.step h ?_ hs
  unfold removeFaulty
  repeat' (first
    | with_reducible assumption
    | decide
    | with_reducible exact Acts.refl _ _
    | with_reducible refine raiseLearn_acts _ ?_ ?_
    | with_reducible refine removeEntry_acts _ _ ?_ ?_
    | with_reducible refine Acts.iteStep ?_ (fun _ => ?_)
    | with_reducible refine Acts.foldl ?_ (fun _ _ _ => ?_)
    | dsimp -proj only
    | split)

theorem tableFault_acts {F : List Part} {S : State} (loc : Sys2Proof.FaultLoc) {s : State} (h : Acts F S s)
    (hs : subParts [.regs, .flow, .endpoint, .queue, .observe, .noticeSeq] F = true) : Acts F S (tableFault s loc) := by
  refine Acts.step h ?_ hs
  unfold tableFault
  repeat' (first
    | with_reducible assumption
    | decide
    | with_reducible exact Acts.refl _ _
    | with_reducible refine removeFaulty_acts _ _ ?_ ?_
    | with_reducible refine showTable_acts _ ?_ ?_
    | with_reducible refine modT_acts _ _ ?_ ?_
    | with_reducible refine bump_acts _ _ ?_ ?_
    | with_reducible refine setEntry_acts _ _ _ ?_ ?_
    | with_reducible refine Acts.iteStep ?_ (fun _ => ?_)
    | with_reducible refine Acts.foldl ?_ (fun _ _ _ => ?_)
    | dsimp -proj only
    | split)

theorem zeroWord_acts {F : List Part} {S : State} (a : Nat) {s : State} (h : Acts F S s)
    (hs : subParts [.front, .hbm] F = true) : Acts F S (zeroWord s a) := by
  refine Acts.step h ?_ hs
  unfold zeroWord
  repeat' (first
    | with_reducible assumption
    | decide
    | with_reducible exact Acts.refl _ _
    | with_reducible refine Acts.iteStep ?_ (fun _ => ?_)
    | with_reducible refine Acts.foldl ?_ (fun _ _ _ => ?_)
    | dsimp -proj only
    | (with_reducible refine Acts.set_front ?_ ?_; first | with_reducible assumption | with_reducible exact Acts.refl _ _ | with_reducible refine Acts.iteStep ?_ (fun _ => ?_) | with_reducible refine Acts.foldl ?_ (fun _ _ _ => ?_))
    | (with_reducible refine Acts.set_hbm ?_ ?_ ?_; first | with_reducible assumption | with_reducible exact Acts.refl _ _ | with_reducible refine Acts.iteStep ?_ (fun _ => ?_) | with_reducible refine Acts.foldl ?_ (fun _ _ _ => ?_))
    | (with_reducible refine Acts.set_front ?_ ?_; first | with_reducible assumption | with_reducible exact Acts.refl _ _ | with_reducible refine Acts.iteStep ?_ (fun _ => ?_) | with_reducible refine Acts.foldl ?_ (fun _ _ _ => ?_) | (with_reducible refine Acts.set_front ?_ ?_; first | with_reducible assumption | with_reducible exact Acts.refl _ _ | with_reducible refine Acts.iteStep ?_ (fun _ => ?_) | with_reducible refine Acts.foldl ?_ (fun _ _ _ => ?_)) | (with_reducible refine Acts.set_hbm ?_ ?_ ?_; first | with_reducible assumption | with_reducible exact Acts.refl _ _ | with_reducible refine Acts.iteStep ?_ (fun _ => ?_) | with_reducible refine Acts.foldl ?_ (fun _ _ _ => ?_)))
    | (with_reducible refine Acts.set_hbm ?_ ?_ ?_; first | with_reducible assumption | with_reducible exact Acts.refl _ _ | with_reducible refine Acts.iteStep ?_ (fun _ => ?_) | with_reducible refine Acts.foldl ?_ (fun _ _ _ => ?_) | (with_reducible refine Acts.set_front ?_ ?_; first | with_reducible assumption | with_reducible exact Acts.refl _ _ | with_reducible refine Acts.iteStep ?_ (fun _ => ?_) | with_reducible refine Acts.foldl ?_ (fun _ _ _ => ?_)) | (with_reducible refine Acts.set_hbm ?_ ?_ ?_; first | with_reducible assumption | with_reducible exact Acts.refl _ _ | with_reducible refine Acts.iteStep ?_ (fun _ => ?_) | with_reducible refine Acts.foldl ?_ (fun _ _ _ => ?_)))
    | split
    | (exact fun _ => rfl)
    | (intro k; rw [List.length_map]; exact k)
    | (exact fun h => Mem.wf_writeBytes _ _ h)
    | (exact fun h => Mem.wf_write _ _ h)
    | (intro _; exact Nat.zero_le _)
    | with_reducible with_reducible exact fun h => h
    | (intro h; rw [modAt_length]; exact h))

theorem unitFault_acts {F : List Part} {S : State} (loc : Sys2Proof.FaultLoc) {s : State} (h : Acts F S s)
    (hs : subParts [.regs, .sched, .front, .queue, .pipe, .observe, .hbm, .noticeSeq] F = true) : Acts F S (unitFault s loc) := by
  refine Acts.step h ?_ hs
  unfold unitFault
  repeat' (first
    | with_reducible assumption
    | decide
    | with_reducible exact Acts.refl _ _
    | with_reducible refine zeroWord_acts _ ?_ ?_
    | with_reducible refine clusterFailing_acts _ ?_ ?_
    | with_reducible refine unitFailing_acts _ _ ?_ ?_
    | with_reducible refine frontError_acts _ ?_ ?_
    | with_reducible refine Acts.iteStep ?_ (fun _ => ?_)
    | with_reducible refine Acts.foldl ?_ (fun _ _ _ => ?_)
    | dsimp -proj only
    | split)

theorem checkFault_acts {F : List Part} {S : State} (f : Sys2Proof.FaultEv) {s : State} (h : Acts F S s)
    (hs : subParts [.regs, .sched, .front, .flow, .endpoint, .queue, .pipe, .observe, .log, .hbm, .noticeSeq] F = true) : Acts F S (checkFault s f) := by
  refine Acts.step h ?_ hs
  unfold checkFault
  repeat' (first
    | with_reducible assumption
    | decide
    | with_reducible exact Acts.refl _ _
    | with_reducible refine faultFound_acts _ _ _ _ ?_ ?_
    | with_reducible refine unitFault_acts _ ?_ ?_
    | with_reducible refine tableFault_acts _ ?_ ?_
    | with_reducible refine raise_acts _ _ ?_ ?_
    | with_reducible refine bump_acts _ _ ?_ ?_
    | with_reducible refine Acts.iteStep ?_ (fun _ => ?_)
    | with_reducible refine Acts.foldl ?_ (fun _ _ _ => ?_)
    | dsimp -proj only
    | split)

theorem structureFault_acts {F : List Part} {S : State} (f : Sys2Proof.FaultEv) {s : State} (h : Acts F S s)
    (hs : subParts [.regs, .sched, .front, .flow, .endpoint, .queue, .pipe, .observe, .log, .hbm, .noticeSeq] F = true) : Acts F S (structureFault s f) := by
  refine Acts.step h ?_ hs
  unfold structureFault
  repeat' (first
    | with_reducible assumption
    | decide
    | with_reducible exact Acts.refl _ _
    | with_reducible refine count_acts _ _ ?_ ?_
    | with_reducible refine strikeItem_acts _ _ _ _ ?_ ?_
    | with_reducible refine upsetPointer_acts _ _ _ _ ?_ ?_
    | with_reducible refine checkFault_acts _ ?_ ?_
    | with_reducible refine Acts.iteStep ?_ (fun _ => ?_)
    | with_reducible refine Acts.foldl ?_ (fun _ _ _ => ?_)
    | dsimp -proj only
    | split)

theorem execCuckooInsert_acts {F : List Part} {S : State} (table : Nat) (faults : List Sys2Proof.FaultEv) {s : State} (h : Acts F S s)
    (hs : subParts [.regs, .sched, .front, .flow, .endpoint, .queue, .pipe, .tally, .observe, .log, .hbm, .noticeSeq] F = true) : ActsNext F S (execCuckooInsert table faults s) := by
  refine ActsNext.step h ?_ hs
  unfold execCuckooInsert
  repeat' (first
    | with_reducible assumption
    | decide
    | with_reducible exact Acts.refl _ _
    | with_reducible refine structureFault_acts _ ?_ ?_
    | with_reducible refine modT_acts _ _ ?_ ?_
    | with_reducible refine keyTable_acts _ _ _ _ _ ?_ ?_
    | with_reducible refine insertEntry_acts _ _ _ ?_ ?_
    | with_reducible refine Acts.iteStep ?_ (fun _ => ?_)
    | with_reducible refine Acts.foldl ?_ (fun _ _ _ => ?_)
    | with_reducible refine ActsNext.next ?_
    | with_reducible refine ActsNext.ite ?_ ?_
    | with_reducible refine Acts.fstIte ?_ ?_
    | with_reducible refine Acts.ofFst (by assumption) ?_
    | dsimp -proj only
    | (with_reducible refine Acts.fstMk ?_; first | with_reducible assumption | with_reducible exact Acts.refl _ _ | with_reducible refine structureFault_acts _ ?_ ?_ | with_reducible refine modT_acts _ _ ?_ ?_ | with_reducible refine keyTable_acts _ _ _ _ _ ?_ ?_ | with_reducible refine insertEntry_acts _ _ _ ?_ ?_ | with_reducible refine Acts.iteStep ?_ (fun _ => ?_) | with_reducible refine Acts.foldl ?_ (fun _ _ _ => ?_) | with_reducible refine ActsNext.next ?_ | with_reducible refine ActsNext.ite ?_ ?_ | with_reducible refine Acts.fstIte ?_ ?_ | with_reducible refine Acts.ofFst (by assumption) ?_)
    | split)

theorem failRebuild_acts {F : List Part} {S : State} (t : Nat) {s : State} (h : Acts F S s)
    (hs : subParts [.regs, .flow, .endpoint, .queue, .observe, .noticeSeq] F = true) : Acts F S (failRebuild s t) := by
  refine Acts.step h ?_ hs
  unfold failRebuild
  repeat' (first
    | with_reducible assumption
    | decide
    | with_reducible exact Acts.refl _ _
    | with_reducible refine modT_acts _ _ ?_ ?_
    | with_reducible refine raise_acts _ _ ?_ ?_
    | with_reducible refine wr_acts _ _ ?_ ?_
    | with_reducible refine Acts.iteStep ?_ (fun _ => ?_)
    | with_reducible refine Acts.foldl ?_ (fun _ _ _ => ?_)
    | dsimp -proj only
    | split)

theorem startRebuild_acts {F : List Part} {S : State} (table : Nat) {s : State} (h : Acts F S s)
    (hs : subParts [.regs, .flow, .endpoint, .queue, .observe, .noticeSeq] F = true) : Acts F S (startRebuild s table) := by
  refine Acts.step h ?_ hs
  unfold startRebuild
  repeat' (first
    | with_reducible assumption
    | decide
    | with_reducible exact Acts.refl _ _
    | with_reducible refine failRebuild_acts _ ?_ ?_
    | with_reducible refine modT_acts _ _ ?_ ?_
    | with_reducible refine wr_acts _ _ ?_ ?_
    | with_reducible refine Acts.iteStep ?_ (fun _ => ?_)
    | with_reducible refine Acts.foldl ?_ (fun _ _ _ => ?_)
    | dsimp -proj only
    | split)

theorem writeRebuild_acts {F : List Part} {S : State} (w : Nat) {s : State} (h : Acts F S s)
    (hs : subParts [.regs, .flow, .endpoint, .queue, .observe, .noticeSeq] F = true) : Acts F S (writeRebuild s w) := by
  refine Acts.step h ?_ hs
  unfold writeRebuild
  repeat' (first
    | with_reducible assumption
    | decide
    | with_reducible exact Acts.refl _ _
    | with_reducible refine startRebuild_acts _ ?_ ?_
    | with_reducible refine Acts.iteStep ?_ (fun _ => ?_)
    | with_reducible refine Acts.foldl ?_ (fun _ _ _ => ?_)
    | dsimp -proj only
    | split)

theorem execRebuildStart_acts {F : List Part} {S : State} (table : Nat) {s : State} (h : Acts F S s)
    (hs : subParts [.regs, .flow, .endpoint, .queue, .observe, .noticeSeq] F = true) : ActsNext F S (execRebuildStart table s) := by
  refine ActsNext.step h ?_ hs
  unfold execRebuildStart
  repeat' (first
    | with_reducible assumption
    | decide
    | with_reducible exact Acts.refl _ _
    | with_reducible refine startRebuild_acts _ ?_ ?_
    | with_reducible refine Acts.iteStep ?_ (fun _ => ?_)
    | with_reducible refine Acts.foldl ?_ (fun _ _ _ => ?_)
    | with_reducible refine ActsNext.next ?_
    | with_reducible refine ActsNext.ite ?_ ?_
    | dsimp -proj only
    | split)

theorem rebuildEnds_acts {F : List Part} {S : State} (t : Nat) {s : State} (h : Acts F S s)
    (hs : subParts [.flow, .endpoint] F = true) : Acts F S (rebuildEnds s t) := by
  refine Acts.step h ?_ hs
  unfold rebuildEnds
  repeat' (first
    | with_reducible assumption
    | decide
    | with_reducible exact Acts.refl _ _
    | with_reducible refine modT_acts _ _ ?_ ?_
    | with_reducible refine Acts.iteStep ?_ (fun _ => ?_)
    | with_reducible refine Acts.foldl ?_ (fun _ _ _ => ?_)
    | dsimp -proj only
    | split)

theorem placeRecord_acts {F : List Part} {S : State} (t : Nat) (j : Nat) (e : Entry) {s : State} (h : Acts F S s)
    (hs : subParts [.regs, .flow, .endpoint, .queue, .observe, .noticeSeq] F = true) : Acts F S (placeRecord s t j e) := by
  refine Acts.step h ?_ hs
  unfold placeRecord
  repeat' (first
    | with_reducible assumption
    | decide
    | with_reducible exact Acts.refl _ _
    | with_reducible refine bump_acts _ _ ?_ ?_
    | with_reducible refine failRebuild_acts _ ?_ ?_
    | with_reducible refine raise_acts _ _ ?_ ?_
    | with_reducible refine modT_acts _ _ ?_ ?_
    | with_reducible refine rebuildEnds_acts _ ?_ ?_
    | with_reducible refine Acts.iteStep ?_ (fun _ => ?_)
    | with_reducible refine Acts.foldl ?_ (fun _ _ _ => ?_)
    | dsimp -proj only
    | split)

theorem execRebuildPlace_acts {F : List Part} {S : State} (read : Sys2Proof.TableRead) {s : State} (h : Acts F S s)
    (hs : subParts [.regs, .sched, .front, .flow, .endpoint, .queue, .pipe, .tally, .observe, .log, .hbm, .noticeSeq] F = true) : ActsNext F S (execRebuildPlace read s) := by
  refine ActsNext.step h ?_ hs
  unfold execRebuildPlace
  repeat' (first
    | with_reducible assumption
    | decide
    | with_reducible exact Acts.refl _ _
    | with_reducible refine structureFault_acts _ ?_ ?_
    | with_reducible refine useUnit_acts _ ?_ ?_
    | with_reducible refine keyTable_acts _ _ _ _ _ ?_ ?_
    | with_reducible refine rebuildEnds_acts _ ?_ ?_
    | with_reducible refine placeRecord_acts _ _ _ ?_ ?_
    | with_reducible refine Acts.iteStep ?_ (fun _ => ?_)
    | with_reducible refine Acts.foldl ?_ (fun _ _ _ => ?_)
    | with_reducible refine ActsNext.next ?_
    | with_reducible refine ActsNext.ite ?_ ?_
    | dsimp -proj only
    | split)

theorem execRebuildDone_acts {F : List Part} {S : State} (table : Nat) {s : State} (h : Acts F S s)
    (hs : subParts [.regs, .flow, .endpoint, .queue, .observe, .noticeSeq] F = true) : ActsNext F S (execRebuildDone table s) := by
  refine ActsNext.step h ?_ hs
  unfold execRebuildDone
  repeat' (first
    | with_reducible assumption
    | decide
    | with_reducible exact Acts.refl _ _
    | with_reducible refine modT_acts _ _ ?_ ?_
    | with_reducible refine wr_acts _ _ ?_ ?_
    | with_reducible refine raise_acts _ _ ?_ ?_
    | with_reducible refine showTable_acts _ ?_ ?_
    | with_reducible refine Acts.iteStep ?_ (fun _ => ?_)
    | with_reducible refine Acts.foldl ?_ (fun _ _ _ => ?_)
    | with_reducible refine ActsNext.next ?_
    | with_reducible refine ActsNext.ite ?_ ?_
    | dsimp -proj only
    | split)

theorem execRakeSweepStart_acts {F : List Part} {S : State} (table : Nat) {s : State} (h : Acts F S s)
    (hs : subParts [.regs, .flow, .endpoint, .queue, .observe, .noticeSeq] F = true) : ActsNext F S (execRakeSweepStart table s) := by
  refine ActsNext.step h ?_ hs
  unfold execRakeSweepStart
  repeat' (first
    | with_reducible assumption
    | decide
    | with_reducible exact Acts.refl _ _
    | with_reducible refine modT_acts _ _ ?_ ?_
    | with_reducible refine bump_acts _ _ ?_ ?_
    | with_reducible refine raise_acts _ _ ?_ ?_
    | with_reducible refine Acts.iteStep ?_ (fun _ => ?_)
    | with_reducible refine Acts.foldl ?_ (fun _ _ _ => ?_)
    | with_reducible refine ActsNext.next ?_
    | with_reducible refine ActsNext.ite ?_ ?_
    | dsimp -proj only
    | split)

theorem doRake_acts {F : List Part} {S : State} (t : Nat) (i : Nat) (a3 : RakeAct) {s : State} (h : Acts F S s)
    (hs : subParts [.regs, .flow, .endpoint, .queue, .observe, .noticeSeq] F = true) : Acts F S (doRake s t i a3) := by
  refine Acts.step h ?_ hs
  unfold doRake
  repeat' (first
    | with_reducible assumption
    | decide
    | with_reducible exact Acts.refl _ _
    | with_reducible refine bump_acts _ _ ?_ ?_
    | with_reducible refine raise_acts _ _ ?_ ?_
    | with_reducible refine ageOut_acts _ _ ?_ ?_
    | with_reducible refine setEntry_acts _ _ _ ?_ ?_
    | with_reducible refine Acts.iteStep ?_ (fun _ => ?_)
    | with_reducible refine Acts.foldl ?_ (fun _ _ _ => ?_)
    | dsimp -proj only
    | split)

theorem execRakeVisit_acts {F : List Part} {S : State} (table : Nat) (faults : List Sys2Proof.FaultEv) {s : State} (h : Acts F S s)
    (hs : subParts [.regs, .sched, .front, .flow, .endpoint, .queue, .pipe, .tally, .observe, .log, .hbm, .noticeSeq] F = true) : ActsNext F S (execRakeVisit table faults s) := by
  refine ActsNext.step h ?_ hs
  unfold execRakeVisit
  repeat' (first
    | with_reducible assumption
    | decide
    | with_reducible exact Acts.refl _ _
    | with_reducible refine structureFault_acts _ ?_ ?_
    | with_reducible refine keyTable_acts _ _ _ _ _ ?_ ?_
    | with_reducible refine useUnit_acts _ ?_ ?_
    | with_reducible refine doRake_acts _ _ _ ?_ ?_
    | with_reducible refine modT_acts _ _ ?_ ?_
    | with_reducible refine bump_acts _ _ ?_ ?_
    | with_reducible refine Acts.iteStep ?_ (fun _ => ?_)
    | with_reducible refine Acts.foldl ?_ (fun _ _ _ => ?_)
    | with_reducible refine ActsNext.next ?_
    | with_reducible refine ActsNext.ite ?_ ?_
    | dsimp -proj only
    | split)

theorem noteRev_acts {F : List Part} {S : State} (t : Nat) (i : Nat) {s : State} (h : Acts F S s)
    (hs : subParts [.flow, .endpoint] F = true) : Acts F S (noteRev s t i) := by
  refine Acts.step h ?_ hs
  unfold noteRev
  repeat' (first
    | with_reducible assumption
    | decide
    | with_reducible exact Acts.refl _ _
    | with_reducible refine modT_acts _ _ ?_ ?_
    | with_reducible refine Acts.iteStep ?_ (fun _ => ?_)
    | with_reducible refine Acts.foldl ?_ (fun _ _ _ => ?_)
    | dsimp -proj only
    | split)

theorem dmaInsert_acts {F : List Part} {S : State} (t : Nat) (r : Sys2Proof.EntryRef) (b : Sys2Proof.Bytes) {s : State} (h : Acts F S s)
    (hs : subParts [.regs, .flow, .endpoint, .queue, .observe, .noticeSeq] F = true) : Acts F S (dmaInsert s t r b).1 := by
  refine Acts.step h ?_ hs
  unfold dmaInsert
  repeat' (first
    | with_reducible assumption
    | decide
    | with_reducible exact Acts.refl _ _
    | with_reducible refine insertEntry_acts _ _ _ ?_ ?_
    | with_reducible refine noteRev_acts _ _ ?_ ?_
    | with_reducible refine createAt_acts _ _ _ _ ?_ ?_
    | with_reducible refine Acts.iteStep ?_ (fun _ => ?_)
    | with_reducible refine Acts.foldl ?_ (fun _ _ _ => ?_)
    | with_reducible refine Acts.fstIte ?_ ?_
    | with_reducible refine Acts.ofFst (by assumption) ?_
    | dsimp -proj only
    | (with_reducible refine Acts.fstMk ?_; first | with_reducible assumption | with_reducible exact Acts.refl _ _ | with_reducible refine insertEntry_acts _ _ _ ?_ ?_ | with_reducible refine noteRev_acts _ _ ?_ ?_ | with_reducible refine createAt_acts _ _ _ _ ?_ ?_ | with_reducible refine Acts.iteStep ?_ (fun _ => ?_) | with_reducible refine Acts.foldl ?_ (fun _ _ _ => ?_) | with_reducible refine Acts.fstIte ?_ ?_ | with_reducible refine Acts.ofFst (by assumption) ?_)
    | split)

theorem dmaWrite_acts {F : List Part} {S : State} (t : Nat) (i : Nat) (b : Sys2Proof.Bytes) {s : State} (h : Acts F S s)
    (hs : subParts [.flow, .endpoint] F = true) : Acts F S (dmaWrite s t i b) := by
  refine Acts.step h ?_ hs
  unfold dmaWrite
  repeat' (first
    | with_reducible assumption
    | decide
    | with_reducible exact Acts.refl _ _
    | with_reducible refine noteRev_acts _ _ ?_ ?_
    | with_reducible refine setEntry_acts _ _ _ ?_ ?_
    | with_reducible refine Acts.iteStep ?_ (fun _ => ?_)
    | with_reducible refine Acts.foldl ?_ (fun _ _ _ => ?_)
    | dsimp -proj only
    | split)

theorem dmaWriteState_acts {F : List Part} {S : State} (i : Nat) (slot : Nat) (b : Sys2Proof.Bytes) {s : State} (h : Acts F S s)
    (hs : subParts [.flow, .endpoint, .slots] F = true) : Acts F S (dmaWriteState s i slot b) := by
  refine Acts.step h ?_ hs
  unfold dmaWriteState
  repeat' (first
    | with_reducible assumption
    | decide
    | with_reducible exact Acts.refl _ _
    | with_reducible refine noteRev_acts _ _ ?_ ?_
    | with_reducible refine setEntry_acts _ _ _ ?_ ?_
    | with_reducible refine Acts.iteStep ?_ (fun _ => ?_)
    | with_reducible refine Acts.foldl ?_ (fun _ _ _ => ?_)
    | dsimp -proj only
    | (with_reducible refine Acts.set_slots ?_ ?_ ?_; first | with_reducible assumption | with_reducible exact Acts.refl _ _ | with_reducible refine noteRev_acts _ _ ?_ ?_ | with_reducible refine setEntry_acts _ _ _ ?_ ?_ | with_reducible refine Acts.iteStep ?_ (fun _ => ?_) | with_reducible refine Acts.foldl ?_ (fun _ _ _ => ?_))
    | split
    | (generalize State.slots _ = y; intro h; simpa only [SlotsOk, modAt_length, List.length_map, List.length_zipIdx] using h)
    | (exact fun _ => rfl)
    | (intro k; rw [List.length_map]; exact k)
    | (exact fun h => Mem.wf_writeBytes _ _ h)
    | (exact fun h => Mem.wf_write _ _ h)
    | (intro _; exact Nat.zero_le _)
    | with_reducible with_reducible exact fun h => h
    | (intro h; rw [modAt_length]; exact h))

theorem dmaOnEntry_acts {F : List Part} {S : State} (t : Nat) (code : Nat) (i : Nat) (slot : Nat) (b : Sys2Proof.Bytes) {s : State} (h : Acts F S s)
    (hs : subParts [.regs, .flow, .endpoint, .slots] F = true) : Acts F S (dmaOnEntry s t code i slot b).1 := by
  refine Acts.step h ?_ hs
  unfold dmaOnEntry
  repeat' (first
    | with_reducible assumption
    | decide
    | with_reducible exact Acts.refl _ _
    | with_reducible refine dmaWrite_acts _ _ _ ?_ ?_
    | with_reducible refine noteRev_acts _ _ ?_ ?_
    | with_reducible refine removeEntry_acts _ _ ?_ ?_
    | with_reducible refine setEntry_acts _ _ _ ?_ ?_
    | with_reducible refine dmaWriteState_acts _ _ _ ?_ ?_
    | with_reducible refine Acts.iteStep ?_ (fun _ => ?_)
    | with_reducible refine Acts.foldl ?_ (fun _ _ _ => ?_)
    | with_reducible refine Acts.fstIte ?_ ?_
    | dsimp -proj only
    | (with_reducible refine Acts.fstMk ?_; first | with_reducible assumption | with_reducible exact Acts.refl _ _ | with_reducible refine dmaWrite_acts _ _ _ ?_ ?_ | with_reducible refine noteRev_acts _ _ ?_ ?_ | with_reducible refine removeEntry_acts _ _ ?_ ?_ | with_reducible refine setEntry_acts _ _ _ ?_ ?_ | with_reducible refine dmaWriteState_acts _ _ _ ?_ ?_ | with_reducible refine Acts.iteStep ?_ (fun _ => ?_) | with_reducible refine Acts.foldl ?_ (fun _ _ _ => ?_) | with_reducible refine Acts.fstIte ?_ ?_)
    | split)

theorem dmaOther_acts {F : List Part} {S : State} (t : Nat) (code : Nat) (slot : Nat) (b : Sys2Proof.Bytes) (parity : Bool) (a6 : Option (Nat × Entry)) {s : State} (h : Acts F S s)
    (hs : subParts [.regs, .flow, .endpoint, .slots] F = true) : Acts F S (dmaOther s t code slot b parity a6).1 := by
  refine Acts.step h ?_ hs
  unfold dmaOther
  repeat' (first
    | with_reducible assumption
    | decide
    | with_reducible exact Acts.refl _ _
    | with_reducible refine dmaOnEntry_acts _ _ _ _ _ ?_ ?_
    | with_reducible refine Acts.iteStep ?_ (fun _ => ?_)
    | with_reducible refine Acts.foldl ?_ (fun _ _ _ => ?_)
    | with_reducible refine Acts.fstIte ?_ ?_
    | with_reducible refine Acts.ofFst (by assumption) ?_
    | dsimp -proj only
    | (with_reducible refine Acts.fstMk ?_; first | with_reducible assumption | with_reducible exact Acts.refl _ _ | with_reducible refine dmaOnEntry_acts _ _ _ _ _ ?_ ?_ | with_reducible refine Acts.iteStep ?_ (fun _ => ?_) | with_reducible refine Acts.foldl ?_ (fun _ _ _ => ?_) | with_reducible refine Acts.fstIte ?_ ?_ | with_reducible refine Acts.ofFst (by assumption) ?_)
    | split)

theorem dmaOperation_acts {F : List Part} {S : State} (t : Nat) (code : Nat) (r : Sys2Proof.EntryRef) (slot : Nat) (b : Sys2Proof.Bytes) (faults : List Sys2Proof.FaultEv) {s : State} (h : Acts F S s)
    (hs : subParts [.regs, .sched, .front, .flow, .endpoint, .queue, .pipe, .slots, .observe, .log, .hbm, .noticeSeq] F = true) : Acts F S (dmaOperation s t code r slot b faults).1 := by
  refine Acts.step h ?_ hs
  unfold dmaOperation
  repeat' (first
    | with_reducible assumption
    | decide
    | with_reducible exact Acts.refl _ _
    | with_reducible refine structureFault_acts _ ?_ ?_
    | with_reducible refine dmaInsert_acts _ _ _ ?_ ?_
    | with_reducible refine dmaOther_acts _ _ _ _ _ _ ?_ ?_
    | with_reducible refine bump_acts _ _ ?_ ?_
    | with_reducible refine Acts.iteStep ?_ (fun _ => ?_)
    | with_reducible refine Acts.foldl ?_ (fun _ _ _ => ?_)
    | with_reducible refine Acts.fstIte ?_ ?_
    | with_reducible refine Acts.ofFst (by assumption) ?_
    | dsimp -proj only
    | (with_reducible refine Acts.fstMk ?_; first | with_reducible assumption | with_reducible exact Acts.refl _ _ | with_reducible refine structureFault_acts _ ?_ ?_ | with_reducible refine dmaInsert_acts _ _ _ ?_ ?_ | with_reducible refine dmaOther_acts _ _ _ _ _ _ ?_ ?_ | with_reducible refine bump_acts _ _ ?_ ?_ | with_reducible refine Acts.iteStep ?_ (fun _ => ?_) | with_reducible refine Acts.foldl ?_ (fun _ _ _ => ?_) | with_reducible refine Acts.fstIte ?_ ?_ | with_reducible refine Acts.ofFst (by assumption) ?_)
    | split)

end Sys2Proof.Machine
end

