-- ==== Sys2Proof/Laws/ActsSeq.lean ====
section
/-! SUPPORT. What each operation of Machine/Seq.lean may touch, and that it keeps the invariant. -/

namespace Sys2Proof.Machine

theorem gatherHead_acts {F : List Part} {S : State} (slot : Nat) (q : SeqDesc) (h0 : Head) {s : State} (h : Acts F S s)
    (hs : subParts [.regs] F = true) : Acts F S (gatherHead s slot q h0).1 := by
  refine Acts.step h ?_ hs
  unfold gatherHead
  repeat' (first
    | with_reducible assumption
    | decide
    | with_reducible exact Acts.refl _ _
    | with_reducible refine bump_acts _ _ ?_ ?_
    | with_reducible refine Acts.iteStep ?_ (fun _ => ?_)
    | with_reducible refine Acts.foldl ?_ (fun _ _ _ => ?_)
    | with_reducible refine Acts.fstIte ?_ ?_
    | dsimp -proj only
    | (with_reducible refine Acts.fstMk ?_; first | with_reducible assumption | with_reducible exact Acts.refl _ _ | with_reducible refine bump_acts _ _ ?_ ?_ | with_reducible refine Acts.iteStep ?_ (fun _ => ?_) | with_reducible refine Acts.foldl ?_ (fun _ _ _ => ?_) | with_reducible refine Acts.fstIte ?_ ?_)
    | split)

theorem gatherHeads_acts {F : List Part} {S : State} (slot : Nat) (q : SeqDesc) (l : List Head) {s : State} (h : Acts F S s)
    (hs : subParts [.regs] F = true) : Acts F S (gatherHeads slot q l s).1 := by
  refine Acts.step h ?_ hs
  clear h
  induction l generalizing s with
  | nil => exact Acts.refl _ _
  | cons x l ih => exact Acts.trans (gatherHead_acts _ _ _ (Acts.refl _ _) (by decide)) ih


theorem writeBack_acts {F : List Part} {S : State} (slot : Nat) (q : SeqDesc) (batch : Nat) (k : Nat) (w : Flowing) {s : State} (h : Acts F S s)
    (hs : subParts [.regs, .flow, .endpoint, .slots, .tally, .observe] F = true) : Acts F S (writeBack s slot q batch k w) := by
  refine Acts.step h ?_ hs
  unfold writeBack
  repeat' (first
    | with_reducible assumption
    | decide
    | with_reducible exact Acts.refl _ _
    | with_reducible refine bump_acts _ _ ?_ ?_
    | with_reducible refine keyMemory_acts _ _ _ ?_ ?_
    | with_reducible refine setEntry_acts _ _ _ ?_ ?_
    | with_reducible refine Acts.iteStep ?_ (fun _ => ?_)
    | with_reducible refine Acts.foldl ?_ (fun _ _ _ => ?_)
    | dsimp -proj only
    | (with_reducible refine Acts.set_slots ?_ ?_ ?_; first | with_reducible assumption | with_reducible exact Acts.refl _ _ | with_reducible refine bump_acts _ _ ?_ ?_ | with_reducible refine keyMemory_acts _ _ _ ?_ ?_ | with_reducible refine setEntry_acts _ _ _ ?_ ?_ | with_reducible refine Acts.iteStep ?_ (fun _ => ?_) | with_reducible refine Acts.foldl ?_ (fun _ _ _ => ?_))
    | split
    | (generalize State.slots _ = y; intro h; simpa only [SlotsOk, modAt_length, List.length_map, List.length_zipIdx] using h)
    | (exact fun _ => rfl)
    | (intro k; rw [List.length_map]; exact k)
    | (exact fun h => Mem.wf_writeBytes _ _ h)
    | (exact fun h => Mem.wf_write _ _ h)
    | (intro _; exact Nat.zero_le _)
    | with_reducible with_reducible exact fun h => h
    | (intro h; rw [modAt_length]; exact h))

theorem writeGroup_acts {F : List Part} {S : State} (slot : Nat) (q : SeqDesc) (batch : Nat) (group : List Flowing) {s : State} (h : Acts F S s)
    (hs : subParts [.regs, .flow, .endpoint, .slots, .tally, .observe] F = true) : Acts F S (writeGroup s slot q batch group) := by
  refine Acts.step h ?_ hs
  unfold writeGroup
  repeat' (first
    | with_reducible assumption
    | decide
    | with_reducible exact Acts.refl _ _
    | with_reducible refine bump_acts _ _ ?_ ?_
    | with_reducible refine writeBack_acts _ _ _ _ _ ?_ ?_
    | with_reducible refine Acts.iteStep ?_ (fun _ => ?_)
    | with_reducible refine Acts.foldl ?_ (fun _ _ _ => ?_)
    | dsimp -proj only
    | split)

theorem writeBatch_acts {F : List Part} {S : State} (slot : Nat) (q : SeqDesc) (batch : Nat) (l : List Flowing) {s : State} (h : Acts F S s)
    (hs : subParts [.regs, .flow, .endpoint, .slots, .tally, .observe] F = true) : Acts F S (writeBatch s slot q batch l) := by
  refine Acts.step h ?_ hs
  unfold writeBatch
  repeat' (first
    | with_reducible assumption
    | decide
    | with_reducible exact Acts.refl _ _
    | with_reducible refine writeGroup_acts _ _ _ _ ?_ ?_
    | with_reducible refine Acts.iteStep ?_ (fun _ => ?_)
    | with_reducible refine Acts.foldl ?_ (fun _ _ _ => ?_)
    | dsimp -proj only
    | split)

end Sys2Proof.Machine
end

