-- ==== Sys2Proof/Laws/ActsSlots.lean ====
section
/-! SUPPORT. What each operation of Machine/Slots.lean may touch, and that it keeps the invariant. -/

namespace Sys2Proof.Machine

theorem modSlot_acts {F : List Part} {S : State} (slot : Nat) (f : SlotSt → SlotSt) {s : State} (h : Acts F S s)
    (hs : subParts [.slots] F = true) : Acts F S (modSlot s slot f) := by
  refine Acts.step h ?_ hs
  unfold modSlot
  repeat' (first
    | with_reducible assumption
    | decide
    | with_reducible exact Acts.refl _ _
    | with_reducible refine Acts.iteStep ?_ (fun _ => ?_)
    | with_reducible refine Acts.foldl ?_ (fun _ _ _ => ?_)
    | dsimp -proj only
    | (with_reducible refine Acts.set_slots ?_ ?_ ?_; first | with_reducible assumption | with_reducible exact Acts.refl _ _ | with_reducible refine Acts.iteStep ?_ (fun _ => ?_) | with_reducible refine Acts.foldl ?_ (fun _ _ _ => ?_))
    | split
    | (generalize State.slots _ = y; intro h; simpa only [SlotsOk, modAt_length, List.length_map, List.length_zipIdx] using h)
    | (exact fun _ => rfl)
    | (intro k; rw [List.length_map]; exact k)
    | (exact fun h => Mem.wf_writeBytes _ _ h)
    | (exact fun h => Mem.wf_write _ _ h)
    | (intro _; exact Nat.zero_le _)
    | with_reducible with_reducible exact fun h => h
    | (intro h; rw [modAt_length]; exact h))

theorem showSlot_acts {F : List Part} {S : State} (slot : Nat) (gens : Bool) {s : State} (h : Acts F S s)
    (hs : subParts [.regs] F = true) : Acts F S (showSlot s slot gens) := by
  refine Acts.step h ?_ hs
  unfold showSlot
  repeat' (first
    | with_reducible assumption
    | decide
    | with_reducible exact Acts.refl _ _
    | with_reducible refine wr_acts _ _ ?_ ?_
    | with_reducible refine Acts.iteStep ?_ (fun _ => ?_)
    | with_reducible refine Acts.foldl ?_ (fun _ _ _ => ?_)
    | dsimp -proj only
    | split)

theorem putSlot_acts {F : List Part} {S : State} (slot : Nat) (f : SlotSt → SlotSt) {s : State} (h : Acts F S s)
    (hs : subParts [.regs, .slots] F = true) : Acts F S (putSlot s slot f) := by
  refine Acts.step h ?_ hs
  unfold putSlot
  repeat' (first
    | with_reducible assumption
    | decide
    | with_reducible exact Acts.refl _ _
    | with_reducible refine showSlot_acts _ _ ?_ ?_
    | with_reducible refine modSlot_acts _ _ ?_ ?_
    | with_reducible refine Acts.iteStep ?_ (fun _ => ?_)
    | with_reducible refine Acts.foldl ?_ (fun _ _ _ => ?_)
    | dsimp -proj only
    | split)

theorem stopAdapt_acts {F : List Part} {S : State} (slot : Nat) {s : State} (h : Acts F S s)
    (hs : subParts [.regs, .queue, .slots, .observe, .noticeSeq] F = true) : Acts F S (stopAdapt s slot) := by
  refine Acts.step h ?_ hs
  unfold stopAdapt
  repeat' (first
    | with_reducible assumption
    | decide
    | with_reducible exact Acts.refl _ _
    | with_reducible refine putSlot_acts _ _ ?_ ?_
    | with_reducible refine raiseIf_acts _ _ _ ?_ ?_
    | with_reducible refine Acts.iteStep ?_ (fun _ => ?_)
    | with_reducible refine Acts.foldl ?_ (fun _ _ _ => ?_)
    | dsimp -proj only
    | split)

theorem releaseSlot_acts {F : List Part} {S : State} (slot : Nat) {s : State} (h : Acts F S s)
    (hs : subParts [.regs, .slots] F = true) : Acts F S (releaseSlot s slot) := by
  refine Acts.step h ?_ hs
  unfold releaseSlot
  repeat' (first
    | with_reducible assumption
    | decide
    | with_reducible exact Acts.refl _ _
    | with_reducible refine putSlot_acts _ _ ?_ ?_
    | with_reducible refine Acts.iteStep ?_ (fun _ => ?_)
    | with_reducible refine Acts.foldl ?_ (fun _ _ _ => ?_)
    | dsimp -proj only
    | split)

theorem commandEffect_acts {F : List Part} {S : State} (slot : Nat) (op : Nat) {s : State} (h : Acts F S s)
    (hs : subParts [.regs, .queue, .slots, .observe, .noticeSeq] F = true) : Acts F S (commandEffect s slot op) := by
  refine Acts.step h ?_ hs
  unfold commandEffect
  repeat' (first
    | with_reducible assumption
    | decide
    | with_reducible exact Acts.refl _ _
    | with_reducible refine putSlot_acts _ _ ?_ ?_
    | with_reducible refine stopAdapt_acts _ ?_ ?_
    | with_reducible refine releaseSlot_acts _ ?_ ?_
    | with_reducible refine Acts.iteStep ?_ (fun _ => ?_)
    | with_reducible refine Acts.foldl ?_ (fun _ _ _ => ?_)
    | dsimp -proj only
    | split)

theorem slotCommand_acts {F : List Part} {S : State} (slot : Nat) (op : Nat) {s : State} (h : Acts F S s)
    (hs : subParts [.regs, .queue, .slots, .observe, .noticeSeq] F = true) : Acts F S (slotCommand s slot op) := by
  refine Acts.step h ?_ hs
  unfold slotCommand
  repeat' (first
    | with_reducible assumption
    | decide
    | with_reducible exact Acts.refl _ _
    | with_reducible refine commandEffect_acts _ _ ?_ ?_
    | with_reducible refine wr_acts _ _ ?_ ?_
    | with_reducible refine Acts.iteStep ?_ (fun _ => ?_)
    | with_reducible refine Acts.foldl ?_ (fun _ _ _ => ?_)
    | dsimp -proj only
    | split)

theorem writeSlotCommand_acts {F : List Part} {S : State} (w : Nat) {s : State} (h : Acts F S s)
    (hs : subParts [.regs, .queue, .slots, .observe, .noticeSeq] F = true) : Acts F S (writeSlotCommand s w) := by
  refine Acts.step h ?_ hs
  unfold writeSlotCommand
  repeat' (first
    | with_reducible assumption
    | decide
    | with_reducible exact Acts.refl _ _
    | with_reducible refine slotCommand_acts _ _ ?_ ?_
    | with_reducible refine writeFields_acts _ _ ?_ ?_
    | with_reducible refine Acts.iteStep ?_ (fun _ => ?_)
    | with_reducible refine Acts.foldl ?_ (fun _ _ _ => ?_)
    | dsimp -proj only
    | split)

theorem execStage_acts {F : List Part} {S : State} (slot : Nat) {s : State} (h : Acts F S s)
    (hs : subParts [.regs, .queue, .slots, .observe, .noticeSeq] F = true) : ActsNext F S (execStage slot s) := by
  refine ActsNext.step h ?_ hs
  unfold execStage
  repeat' (first
    | with_reducible assumption
    | decide
    | with_reducible exact Acts.refl _ _
    | with_reducible refine writeSlotCommand_acts _ ?_ ?_
    | with_reducible refine Acts.iteStep ?_ (fun _ => ?_)
    | with_reducible refine Acts.foldl ?_ (fun _ _ _ => ?_)
    | with_reducible refine ActsNext.next ?_
    | with_reducible refine ActsNext.ite ?_ ?_
    | dsimp -proj only
    | split)

theorem execSlotDiscard_acts {F : List Part} {S : State} (slot : Nat) {s : State} (h : Acts F S s)
    (hs : subParts [.regs, .queue, .slots, .observe, .noticeSeq] F = true) : ActsNext F S (execSlotDiscard slot s) := by
  refine ActsNext.step h ?_ hs
  unfold execSlotDiscard
  repeat' (first
    | with_reducible assumption
    | decide
    | with_reducible exact Acts.refl _ _
    | with_reducible refine writeSlotCommand_acts _ ?_ ?_
    | with_reducible refine Acts.iteStep ?_ (fun _ => ?_)
    | with_reducible refine Acts.foldl ?_ (fun _ _ _ => ?_)
    | with_reducible refine ActsNext.next ?_
    | with_reducible refine ActsNext.ite ?_ ?_
    | dsimp -proj only
    | split)

theorem execActivate_acts {F : List Part} {S : State} (slot : Nat) {s : State} (h : Acts F S s)
    (hs : subParts [.regs, .queue, .slots, .observe, .noticeSeq] F = true) : ActsNext F S (execActivate slot s) := by
  refine ActsNext.step h ?_ hs
  unfold execActivate
  repeat' (first
    | with_reducible assumption
    | decide
    | with_reducible exact Acts.refl _ _
    | with_reducible refine writeSlotCommand_acts _ ?_ ?_
    | with_reducible refine Acts.iteStep ?_ (fun _ => ?_)
    | with_reducible refine Acts.foldl ?_ (fun _ _ _ => ?_)
    | with_reducible refine ActsNext.next ?_
    | with_reducible refine ActsNext.ite ?_ ?_
    | dsimp -proj only
    | split)

theorem execRollback_acts {F : List Part} {S : State} (slot : Nat) {s : State} (h : Acts F S s)
    (hs : subParts [.regs, .queue, .slots, .observe, .noticeSeq] F = true) : ActsNext F S (execRollback slot s) := by
  refine ActsNext.step h ?_ hs
  unfold execRollback
  repeat' (first
    | with_reducible assumption
    | decide
    | with_reducible exact Acts.refl _ _
    | with_reducible refine writeSlotCommand_acts _ ?_ ?_
    | with_reducible refine Acts.iteStep ?_ (fun _ => ?_)
    | with_reducible refine Acts.foldl ?_ (fun _ _ _ => ?_)
    | with_reducible refine ActsNext.next ?_
    | with_reducible refine ActsNext.ite ?_ ?_
    | dsimp -proj only
    | split)

theorem execRelease_acts {F : List Part} {S : State} (slot : Nat) {s : State} (h : Acts F S s)
    (hs : subParts [.regs, .queue, .slots, .observe, .noticeSeq] F = true) : ActsNext F S (execRelease slot s) := by
  refine ActsNext.step h ?_ hs
  unfold execRelease
  repeat' (first
    | with_reducible assumption
    | decide
    | with_reducible exact Acts.refl _ _
    | with_reducible refine writeSlotCommand_acts _ ?_ ?_
    | with_reducible refine Acts.iteStep ?_ (fun _ => ?_)
    | with_reducible refine Acts.foldl ?_ (fun _ _ _ => ?_)
    | with_reducible refine ActsNext.next ?_
    | with_reducible refine ActsNext.ite ?_ ?_
    | dsimp -proj only
    | split)

theorem execAdaptStart_acts {F : List Part} {S : State} (slot : Nat) {s : State} (h : Acts F S s)
    (hs : subParts [.regs, .queue, .slots, .observe, .noticeSeq] F = true) : ActsNext F S (execAdaptStart slot s) := by
  refine ActsNext.step h ?_ hs
  unfold execAdaptStart
  repeat' (first
    | with_reducible assumption
    | decide
    | with_reducible exact Acts.refl _ _
    | with_reducible refine writeSlotCommand_acts _ ?_ ?_
    | with_reducible refine Acts.iteStep ?_ (fun _ => ?_)
    | with_reducible refine Acts.foldl ?_ (fun _ _ _ => ?_)
    | with_reducible refine ActsNext.next ?_
    | with_reducible refine ActsNext.ite ?_ ?_
    | dsimp -proj only
    | split)

theorem execAdaptStop_acts {F : List Part} {S : State} (slot : Nat) {s : State} (h : Acts F S s)
    (hs : subParts [.regs, .queue, .slots, .observe, .noticeSeq] F = true) : ActsNext F S (execAdaptStop slot s) := by
  refine ActsNext.step h ?_ hs
  unfold execAdaptStop
  repeat' (first
    | with_reducible assumption
    | decide
    | with_reducible exact Acts.refl _ _
    | with_reducible refine writeSlotCommand_acts _ ?_ ?_
    | with_reducible refine Acts.iteStep ?_ (fun _ => ?_)
    | with_reducible refine Acts.foldl ?_ (fun _ _ _ => ?_)
    | with_reducible refine ActsNext.next ?_
    | with_reducible refine ActsNext.ite ?_ ?_
    | dsimp -proj only
    | split)

theorem execPromote_acts {F : List Part} {S : State} (slot : Nat) {s : State} (h : Acts F S s)
    (hs : subParts [.regs, .queue, .slots, .observe, .noticeSeq] F = true) : ActsNext F S (execPromote slot s) := by
  refine ActsNext.step h ?_ hs
  unfold execPromote
  repeat' (first
    | with_reducible assumption
    | decide
    | with_reducible exact Acts.refl _ _
    | with_reducible refine writeSlotCommand_acts _ ?_ ?_
    | with_reducible refine Acts.iteStep ?_ (fun _ => ?_)
    | with_reducible refine Acts.foldl ?_ (fun _ _ _ => ?_)
    | with_reducible refine ActsNext.next ?_
    | with_reducible refine ActsNext.ite ?_ ?_
    | dsimp -proj only
    | split)

theorem stageGen_acts {F : List Part} {S : State} (slot : Nat) (m : Model) {s : State} (h : Acts F S s)
    (hs : subParts [.regs, .queue, .slots, .observe, .noticeSeq] F = true) : Acts F S (stageGen s slot m) := by
  refine Acts.step h ?_ hs
  unfold stageGen
  repeat' (first
    | with_reducible assumption
    | decide
    | with_reducible exact Acts.refl _ _
    | with_reducible refine putSlot_acts _ _ ?_ ?_
    | with_reducible refine raise_acts _ _ ?_ ?_
    | with_reducible refine Acts.iteStep ?_ (fun _ => ?_)
    | with_reducible refine Acts.foldl ?_ (fun _ _ _ => ?_)
    | dsimp -proj only
    | split)

theorem refuseStage_acts {F : List Part} {S : State} (slot : Nat) (f : StageFail) {s : State} (h : Acts F S s)
    (hs : subParts [.regs, .queue, .slots, .observe, .noticeSeq] F = true) : Acts F S (refuseStage s slot f) := by
  refine Acts.step h ?_ hs
  unfold refuseStage
  repeat' (first
    | with_reducible assumption
    | decide
    | with_reducible exact Acts.refl _ _
    | with_reducible refine putSlot_acts _ _ ?_ ?_
    | with_reducible refine wr_acts _ _ ?_ ?_
    | with_reducible refine raise_acts _ _ ?_ ?_
    | with_reducible refine Acts.iteStep ?_ (fun _ => ?_)
    | with_reducible refine Acts.foldl ?_ (fun _ _ _ => ?_)
    | dsimp -proj only
    | split)

theorem checkStage_acts {F : List Part} {S : State} (slot : Nat) (image : Option Sys2Proof.Bytes) {s : State} (h : Acts F S s)
    (hs : subParts [.regs, .queue, .slots, .observe, .noticeSeq] F = true) : Acts F S (checkStage s slot image) := by
  refine Acts.step h ?_ hs
  unfold checkStage
  repeat' (first
    | with_reducible assumption
    | decide
    | with_reducible exact Acts.refl _ _
    | with_reducible refine refuseStage_acts _ _ ?_ ?_
    | with_reducible refine stageGen_acts _ _ ?_ ?_
    | with_reducible refine Acts.iteStep ?_ (fun _ => ?_)
    | with_reducible refine Acts.foldl ?_ (fun _ _ _ => ?_)
    | dsimp -proj only
    | split)

theorem execStageComplete_acts {F : List Part} {S : State} (slot : Nat) {s : State} (h : Acts F S s)
    (hs : subParts [.regs, .queue, .slots, .observe, .noticeSeq] F = true) : ActsNext F S (execStageComplete slot s) := by
  refine ActsNext.step h ?_ hs
  unfold execStageComplete
  repeat' (first
    | with_reducible assumption
    | decide
    | with_reducible exact Acts.refl _ _
    | with_reducible refine checkStage_acts _ _ ?_ ?_
    | with_reducible refine Acts.iteStep ?_ (fun _ => ?_)
    | with_reducible refine Acts.foldl ?_ (fun _ _ _ => ?_)
    | with_reducible refine ActsNext.next ?_
    | with_reducible refine ActsNext.ite ?_ ?_
    | dsimp -proj only
    | split)

theorem traceGen_acts {F : List Part} {S : State} (slot : Nat) (g : Option Gen) (batch : Nat) (cause : Nat) {s : State} (h : Acts F S s)
    (hs : subParts [.regs, .queue, .observe, .noticeSeq] F = true) : Acts F S (traceGen s slot g batch cause) := by
  refine Acts.step h ?_ hs
  unfold traceGen
  repeat' (first
    | with_reducible assumption
    | decide
    | with_reducible exact Acts.refl _ _
    | with_reducible refine trace_acts _ _ _ ?_ ?_
    | with_reducible refine Acts.iteStep ?_ (fun _ => ?_)
    | with_reducible refine Acts.foldl ?_ (fun _ _ _ => ?_)
    | dsimp -proj only
    | split)

theorem rechain_acts {F : List Part} {S : State} (slot : Nat) {s : State} (h : Acts F S s)
    (hs : subParts [.pipe] F = true) : Acts F S (rechain s slot) := by
  refine Acts.step h ?_ hs
  unfold rechain
  repeat' (first
    | with_reducible assumption
    | decide
    | with_reducible exact Acts.refl _ _
    | with_reducible refine Acts.iteStep ?_ (fun _ => ?_)
    | with_reducible refine Acts.foldl ?_ (fun _ _ _ => ?_)
    | dsimp -proj only
    | (with_reducible refine Acts.set_pipe ?_ ?_ ?_; first | with_reducible assumption | with_reducible exact Acts.refl _ _ | with_reducible refine Acts.iteStep ?_ (fun _ => ?_) | with_reducible refine Acts.foldl ?_ (fun _ _ _ => ?_))
    | split
    | with_reducible exact PipeOk.keep_batches _ _
    | (exact fun _ => rfl)
    | (intro k; rw [List.length_map]; exact k)
    | (exact fun h => Mem.wf_writeBytes _ _ h)
    | (exact fun h => Mem.wf_write _ _ h)
    | (intro _; exact Nat.zero_le _)
    | with_reducible with_reducible exact fun h => h
    | (intro h; rw [modAt_length]; exact h))

theorem takeSwap_acts {F : List Part} {S : State} (slot : Nat) (op : Nat) {s : State} (h : Acts F S s)
    (hs : subParts [.regs, .queue, .pipe, .slots, .quant, .observe, .noticeSeq] F = true) : Acts F S (takeSwap s slot op) := by
  refine Acts.step h ?_ hs
  unfold takeSwap
  repeat' (first
    | with_reducible assumption
    | decide
    | with_reducible exact Acts.refl _ _
    | with_reducible refine putSlot_acts _ _ ?_ ?_
    | with_reducible refine rechain_acts _ ?_ ?_
    | with_reducible refine clearScaleCommands_acts _ ?_ ?_
    | with_reducible refine raise_acts _ _ ?_ ?_
    | with_reducible refine raiseIf_acts _ _ _ ?_ ?_
    | with_reducible refine traceGen_acts _ _ _ _ ?_ ?_
    | with_reducible refine Acts.iteStep ?_ (fun _ => ?_)
    | with_reducible refine Acts.foldl ?_ (fun _ _ _ => ?_)
    | dsimp -proj only
    | split)

theorem execSwap_acts {F : List Part} {S : State} (slot : Nat) {s : State} (h : Acts F S s)
    (hs : subParts [.regs, .queue, .pipe, .slots, .quant, .observe, .noticeSeq] F = true) : ActsNext F S (execSwap slot s) := by
  refine ActsNext.step h ?_ hs
  unfold execSwap
  repeat' (first
    | with_reducible assumption
    | decide
    | with_reducible exact Acts.refl _ _
    | with_reducible refine takeSwap_acts _ _ ?_ ?_
    | with_reducible refine Acts.iteStep ?_ (fun _ => ?_)
    | with_reducible refine Acts.foldl ?_ (fun _ _ _ => ?_)
    | with_reducible refine ActsNext.next ?_
    | with_reducible refine ActsNext.ite ?_ ?_
    | dsimp -proj only
    | split)

theorem drained_acts {F : List Part} {S : State} (slot : Nat) {s : State} (h : Acts F S s)
    (hs : subParts [.regs, .slots] F = true) : Acts F S (drained s slot) := by
  refine Acts.step h ?_ hs
  unfold drained
  repeat' (first
    | with_reducible assumption
    | decide
    | with_reducible exact Acts.refl _ _
    | with_reducible refine putSlot_acts _ _ ?_ ?_
    | with_reducible refine Acts.iteStep ?_ (fun _ => ?_)
    | with_reducible refine Acts.foldl ?_ (fun _ _ _ => ?_)
    | dsimp -proj only
    | split)

theorem execDrainEnd_acts {F : List Part} {S : State} (slot : Nat) {s : State} (h : Acts F S s)
    (hs : subParts [.regs, .slots] F = true) : ActsNext F S (execDrainEnd slot s) := by
  refine ActsNext.step h ?_ hs
  unfold execDrainEnd
  repeat' (first
    | with_reducible assumption
    | decide
    | with_reducible exact Acts.refl _ _
    | with_reducible refine drained_acts _ ?_ ?_
    | with_reducible refine Acts.iteStep ?_ (fun _ => ?_)
    | with_reducible refine Acts.foldl ?_ (fun _ _ _ => ?_)
    | with_reducible refine ActsNext.next ?_
    | with_reducible refine ActsNext.ite ?_ ?_
    | dsimp -proj only
    | split)

theorem formCandidate_acts {F : List Part} {S : State} (slot : Nat) {s : State} (h : Acts F S s)
    (hs : subParts [.regs, .queue, .slots, .observe, .noticeSeq] F = true) : Acts F S (formCandidate s slot) := by
  refine Acts.step h ?_ hs
  unfold formCandidate
  repeat' (first
    | with_reducible assumption
    | decide
    | with_reducible exact Acts.refl _ _
    | with_reducible refine putSlot_acts _ _ ?_ ?_
    | with_reducible refine raise_acts _ _ ?_ ?_
    | with_reducible refine Acts.iteStep ?_ (fun _ => ?_)
    | with_reducible refine Acts.foldl ?_ (fun _ _ _ => ?_)
    | dsimp -proj only
    | split)

theorem execCandidateForm_acts {F : List Part} {S : State} (slot : Nat) {s : State} (h : Acts F S s)
    (hs : subParts [.regs, .queue, .slots, .observe, .noticeSeq] F = true) : ActsNext F S (execCandidateForm slot s) := by
  refine ActsNext.step h ?_ hs
  unfold execCandidateForm
  repeat' (first
    | with_reducible assumption
    | decide
    | with_reducible exact Acts.refl _ _
    | with_reducible refine formCandidate_acts _ ?_ ?_
    | with_reducible refine Acts.iteStep ?_ (fun _ => ?_)
    | with_reducible refine Acts.foldl ?_ (fun _ _ _ => ?_)
    | with_reducible refine ActsNext.next ?_
    | with_reducible refine ActsNext.ite ?_ ?_
    | dsimp -proj only
    | split)

theorem execAutoRelease_acts {F : List Part} {S : State} (slot : Nat) {s : State} (h : Acts F S s)
    (hs : subParts [.regs, .slots] F = true) : ActsNext F S (execAutoRelease slot s) := by
  refine ActsNext.step h ?_ hs
  unfold execAutoRelease
  repeat' (first
    | with_reducible assumption
    | decide
    | with_reducible exact Acts.refl _ _
    | with_reducible refine releaseSlot_acts _ ?_ ?_
    | with_reducible refine Acts.iteStep ?_ (fun _ => ?_)
    | with_reducible refine Acts.foldl ?_ (fun _ _ _ => ?_)
    | with_reducible refine ActsNext.next ?_
    | with_reducible refine ActsNext.ite ?_ ?_
    | dsimp -proj only
    | split)

theorem loseTrees_acts {F : List Part} {S : State} (slot : Nat) (number : Nat) (batch : Nat) {s : State} (h : Acts F S s)
    (hs : subParts [.regs, .queue, .pipe, .slots, .observe, .noticeSeq] F = true) : Acts F S (loseTrees s slot number batch) := by
  refine Acts.step h ?_ hs
  unfold loseTrees
  repeat' (first
    | with_reducible assumption
    | decide
    | with_reducible exact Acts.refl _ _
    | with_reducible refine putSlot_acts _ _ ?_ ?_
    | with_reducible refine raise_acts _ _ ?_ ?_
    | with_reducible refine stopAdapt_acts _ ?_ ?_
    | with_reducible refine Acts.iteStep ?_ (fun _ => ?_)
    | with_reducible refine Acts.foldl ?_ (fun _ _ _ => ?_)
    | dsimp -proj only
    | (with_reducible refine Acts.set_pipe ?_ ?_ ?_; first | with_reducible assumption | with_reducible exact Acts.refl _ _ | with_reducible refine putSlot_acts _ _ ?_ ?_ | with_reducible refine raise_acts _ _ ?_ ?_ | with_reducible refine stopAdapt_acts _ ?_ ?_ | with_reducible refine Acts.iteStep ?_ (fun _ => ?_) | with_reducible refine Acts.foldl ?_ (fun _ _ _ => ?_))
    | split
    | with_reducible exact PipeOk.keep_batches _ _
    | (exact fun _ => rfl)
    | (intro k; rw [List.length_map]; exact k)
    | (exact fun h => Mem.wf_writeBytes _ _ h)
    | (exact fun h => Mem.wf_write _ _ h)
    | (intro _; exact Nat.zero_le _)
    | with_reducible with_reducible exact fun h => h
    | (intro h; rw [modAt_length]; exact h))

end Sys2Proof.Machine
end

