-- ==== Sys2Proof/Laws/ActsAdapt.lean ====
section
/-! SUPPORT. What each operation of Machine/Adapt.lean may touch, and that it keeps the invariant. -/

namespace Sys2Proof.Machine

theorem endStep_acts {F : List Part} {S : State} (slot : Nat) (a : AdaptDesc) {s : State} (h : Acts F S s)
    (hs : subParts [.regs, .queue, .slots, .observe, .noticeSeq] F = true) : Acts F S (endStep s slot a) := by
  refine Acts.step h ?_ hs
  unfold endStep
  repeat' (first
    | with_reducible assumption
    | decide
    | with_reducible exact Acts.refl _ _
    | with_reducible refine wr_acts _ _ ?_ ?_
    | with_reducible refine putSlot_acts _ _ ?_ ?_
    | with_reducible refine raise_acts _ _ ?_ ?_
    | with_reducible refine bump_acts _ _ ?_ ?_
    | with_reducible refine raiseIf_acts _ _ _ ?_ ?_
    | with_reducible refine Acts.iteStep ?_ (fun _ => ?_)
    | with_reducible refine Acts.foldl ?_ (fun _ _ _ => ?_)
    | dsimp -proj only
    | split)

theorem maybeEndStep_acts {F : List Part} {S : State} (slot : Nat) (a : AdaptDesc) {s : State} (h : Acts F S s)
    (hs : subParts [.regs, .queue, .slots, .observe, .noticeSeq] F = true) : Acts F S (maybeEndStep s slot a) := by
  refine Acts.step h ?_ hs
  unfold maybeEndStep
  repeat' (first
    | with_reducible assumption
    | decide
    | with_reducible exact Acts.refl _ _
    | with_reducible refine endStep_acts _ _ ?_ ?_
    | with_reducible refine Acts.iteStep ?_ (fun _ => ?_)
    | with_reducible refine Acts.foldl ?_ (fun _ _ _ => ?_)
    | dsimp -proj only
    | split)

theorem takeSample_acts {F : List Part} {S : State} (slot : Nat) (batch : Nat) (m : Model) (q : SeqDesc) (a : AdaptDesc) (o : OpRec) (l : List SampleCand) {s : State} (h : Acts F S s)
    (hs : subParts [.regs, .queue, .slots, .tally, .observe, .noticeSeq] F = true) : Acts F S (takeSample s slot batch m q a o l) := by
  refine Acts.step h ?_ hs
  unfold takeSample
  repeat' (first
    | with_reducible assumption
    | decide
    | with_reducible exact Acts.refl _ _
    | with_reducible refine maybeEndStep_acts _ _ ?_ ?_
    | with_reducible refine modSlot_acts _ _ ?_ ?_
    | with_reducible refine raise_acts _ _ ?_ ?_
    | with_reducible refine bump_acts _ _ ?_ ?_
    | with_reducible refine keyMemory_acts _ _ _ ?_ ?_
    | with_reducible refine Acts.iteStep ?_ (fun _ => ?_)
    | with_reducible refine Acts.foldl ?_ (fun _ _ _ => ?_)
    | dsimp -proj only
    | split)

theorem finishUpdate_acts {F : List Part} {S : State} (slot : Nat) (a : AdaptDesc) {s : State} (h : Acts F S s)
    (hs : subParts [.regs, .queue, .slots, .observe, .noticeSeq] F = true) : Acts F S (finishUpdate s slot a) := by
  refine Acts.step h ?_ hs
  unfold finishUpdate
  repeat' (first
    | with_reducible assumption
    | decide
    | with_reducible exact Acts.refl _ _
    | with_reducible refine wr_acts _ _ ?_ ?_
    | with_reducible refine modSlot_acts _ _ ?_ ?_
    | with_reducible refine raise_acts _ _ ?_ ?_
    | with_reducible refine bump_acts _ _ ?_ ?_
    | with_reducible refine Acts.iteStep ?_ (fun _ => ?_)
    | with_reducible refine Acts.foldl ?_ (fun _ _ _ => ?_)
    | dsimp -proj only
    | split)

theorem updateUnit_acts {F : List Part} {S : State} (slot : Nat) (g : Gen) (a : AdaptDesc) (o : OpRec) {s : State} (h : Acts F S s)
    (hs : subParts [.regs, .queue, .slots, .observe, .noticeSeq] F = true) : Acts F S (updateUnit s slot g a o) := by
  refine Acts.step h ?_ hs
  unfold updateUnit
  repeat' (first
    | with_reducible assumption
    | decide
    | with_reducible exact Acts.refl _ _
    | with_reducible refine bump_acts _ _ ?_ ?_
    | with_reducible refine modSlot_acts _ _ ?_ ?_
    | with_reducible refine maybeEndStep_acts _ _ ?_ ?_
    | with_reducible refine finishUpdate_acts _ _ ?_ ?_
    | with_reducible refine Acts.iteStep ?_ (fun _ => ?_)
    | with_reducible refine Acts.foldl ?_ (fun _ _ _ => ?_)
    | dsimp -proj only
    | split)

theorem sampleUnit_acts {F : List Part} {S : State} (slot : Nat) (act : Gen) (cand : Gen) (q : SeqDesc) (a : AdaptDesc) (o : OpRec) (h0 : SampleHead) {s : State} (h : Acts F S s)
    (hs : subParts [.regs, .queue, .slots, .observe, .noticeSeq] F = true) : Acts F S (sampleUnit s slot act cand q a o h0) := by
  refine Acts.step h ?_ hs
  unfold sampleUnit
  repeat' (first
    | with_reducible assumption
    | decide
    | with_reducible exact Acts.refl _ _
    | with_reducible refine modSlot_acts _ _ ?_ ?_
    | with_reducible refine maybeEndStep_acts _ _ ?_ ?_
    | with_reducible refine Acts.iteStep ?_ (fun _ => ?_)
    | with_reducible refine Acts.foldl ?_ (fun _ _ _ => ?_)
    | dsimp -proj only
    | split)

theorem execAdaptUnit_acts {F : List Part} {S : State} (slot : Nat) {s : State} (h : Acts F S s)
    (hs : subParts [.regs, .sched, .queue, .slots, .tally, .observe, .noticeSeq] F = true) : ActsNext F S (execAdaptUnit slot s) := by
  refine ActsNext.step h ?_ hs
  unfold execAdaptUnit
  repeat' (first
    | with_reducible assumption
    | decide
    | with_reducible exact Acts.refl _ _
    | with_reducible refine keyMemory_acts _ _ _ ?_ ?_
    | with_reducible refine keyAdapt_acts _ _ ?_ ?_
    | with_reducible refine count_acts _ _ ?_ ?_
    | with_reducible refine useKind_acts _ _ _ ?_ ?_
    | with_reducible refine updateUnit_acts _ _ _ _ ?_ ?_
    | with_reducible refine sampleUnit_acts _ _ _ _ _ _ _ ?_ ?_
    | with_reducible refine maybeEndStep_acts _ _ ?_ ?_
    | with_reducible refine Acts.iteStep ?_ (fun _ => ?_)
    | with_reducible refine Acts.foldl ?_ (fun _ _ _ => ?_)
    | with_reducible refine ActsNext.next ?_
    | with_reducible refine ActsNext.ite ?_ ?_
    | dsimp -proj only
    | split)

end Sys2Proof.Machine
end

