-- ==== Sys2Proof/Laws/ActsHeadPort.lean ====
section
/-! SUPPORT. What each operation of Machine/HeadPort.lean may touch, and that it keeps the invariant. -/

namespace Sys2Proof.Machine

theorem showLanes_acts {F : List Part} {S : State} (p : Nat) {s : State} (h : Acts F S s)
    (hs : subParts [.regs] F = true) : Acts F S (showLanes s p) := by
  refine Acts.step h ?_ hs
  unfold showLanes
  repeat' (first
    | with_reducible assumption
    | decide
    | with_reducible exact Acts.refl _ _
    | with_reducible refine wr_acts _ _ ?_ ?_
    | with_reducible refine Acts.iteStep ?_ (fun _ => ?_)
    | with_reducible refine Acts.foldl ?_ (fun _ _ _ => ?_)
    | dsimp -proj only
    | split)

theorem portDown_acts {F : List Part} {S : State} (p : Nat) {s : State} (h : Acts F S s)
    (hs : subParts [.regs, .ports] F = true) : Acts F S (portDown s p) := by
  refine Acts.step h ?_ hs
  unfold portDown
  repeat' (first
    | with_reducible assumption
    | decide
    | with_reducible exact Acts.refl _ _
    | with_reducible refine wr_acts _ _ ?_ ?_
    | with_reducible refine Acts.iteStep ?_ (fun _ => ?_)
    | with_reducible refine Acts.foldl ?_ (fun _ _ _ => ?_)
    | dsimp -proj only
    | (with_reducible refine Acts.set_ports ?_ ?_ ?_; first | with_reducible assumption | with_reducible exact Acts.refl _ _ | with_reducible refine wr_acts _ _ ?_ ?_ | with_reducible refine Acts.iteStep ?_ (fun _ => ?_) | with_reducible refine Acts.foldl ?_ (fun _ _ _ => ?_))
    | split
    | (intro h; show (modAt _ _ _).length = _; rw [modAt_length]; exact h)
    | (generalize State.ports _ = y; intro h; simpa only [PortsOk, modAt_length, List.length_map, List.length_zipIdx] using h)
    | (exact fun _ => rfl)
    | (intro k; rw [List.length_map]; exact k)
    | (exact fun h => Mem.wf_writeBytes _ _ h)
    | (exact fun h => Mem.wf_write _ _ h)
    | (intro _; exact Nat.zero_le _)
    | with_reducible with_reducible exact fun h => h
    | (intro h; rw [modAt_length]; exact h))

theorem portLinkUp_acts {F : List Part} {S : State} (p : Nat) (base : Nat) (n : Nat) {s : State} (h : Acts F S s)
    (hs : subParts [.regs] F = true) : Acts F S (portLinkUp s p base n) := by
  refine Acts.step h ?_ hs
  unfold portLinkUp
  repeat' (first
    | with_reducible assumption
    | decide
    | with_reducible exact Acts.refl _ _
    | with_reducible refine wr_acts _ _ ?_ ?_
    | with_reducible refine Acts.iteStep ?_ (fun _ => ?_)
    | with_reducible refine Acts.foldl ?_ (fun _ _ _ => ?_)
    | dsimp -proj only
    | split)

theorem linkDown_acts {F : List Part} {S : State} (j : Nat) {s : State} (h : Acts F S s)
    (hs : subParts [.regs, .queue, .observe, .noticeSeq] F = true) : Acts F S (linkDown s j) := by
  refine Acts.step h ?_ hs
  unfold linkDown
  repeat' (first
    | with_reducible assumption
    | decide
    | with_reducible exact Acts.refl _ _
    | with_reducible refine raise_acts _ _ ?_ ?_
    | with_reducible refine wrB_acts _ _ ?_ ?_
    | with_reducible refine Acts.iteStep ?_ (fun _ => ?_)
    | with_reducible refine Acts.foldl ?_ (fun _ _ _ => ?_)
    | dsimp -proj only
    | split)

theorem execMacControlFrame_acts {F : List Part} {S : State} (port : Nat) {s : State} (h : Acts F S s)
    (hs : subParts [.regs, .queue, .observe, .noticeSeq] F = true) : ActsNext F S (execMacControlFrame port s) := by
  refine ActsNext.step h ?_ hs
  unfold execMacControlFrame
  repeat' (first
    | with_reducible assumption
    | decide
    | with_reducible exact Acts.refl _ _
    | with_reducible refine raise_acts _ _ ?_ ?_
    | with_reducible refine bump_acts _ _ ?_ ?_
    | with_reducible refine Acts.iteStep ?_ (fun _ => ?_)
    | with_reducible refine Acts.foldl ?_ (fun _ _ _ => ?_)
    | with_reducible refine ActsNext.next ?_
    | with_reducible refine ActsNext.ite ?_ ?_
    | dsimp -proj only
    | split)

theorem writePortCfg_acts {F : List Part} {S : State} (p : Nat) (value : Nat) {s : State} (h : Acts F S s)
    (hs : subParts [.regs, .ports] F = true) : Acts F S (writePortCfg s p value) := by
  refine Acts.step h ?_ hs
  unfold writePortCfg
  repeat' (first
    | with_reducible assumption
    | decide
    | with_reducible exact Acts.refl _ _
    | with_reducible refine writeFields_acts _ _ ?_ ?_
    | with_reducible refine showLanes_acts _ ?_ ?_
    | with_reducible refine wr_acts _ _ ?_ ?_
    | with_reducible refine portDown_acts _ ?_ ?_
    | with_reducible refine Acts.iteStep ?_ (fun _ => ?_)
    | with_reducible refine Acts.foldl ?_ (fun _ _ _ => ?_)
    | dsimp -proj only
    | (with_reducible refine Acts.set_ports ?_ ?_ ?_; first | with_reducible assumption | with_reducible exact Acts.refl _ _ | with_reducible refine writeFields_acts _ _ ?_ ?_ | with_reducible refine showLanes_acts _ ?_ ?_ | with_reducible refine wr_acts _ _ ?_ ?_ | with_reducible refine portDown_acts _ ?_ ?_ | with_reducible refine Acts.iteStep ?_ (fun _ => ?_) | with_reducible refine Acts.foldl ?_ (fun _ _ _ => ?_))
    | (with_reducible refine Acts.set_ports ?_ ?_ ?_; first | with_reducible assumption | with_reducible exact Acts.refl _ _ | with_reducible refine writeFields_acts _ _ ?_ ?_ | with_reducible refine showLanes_acts _ ?_ ?_ | with_reducible refine wr_acts _ _ ?_ ?_ | with_reducible refine portDown_acts _ ?_ ?_ | with_reducible refine Acts.iteStep ?_ (fun _ => ?_) | with_reducible refine Acts.foldl ?_ (fun _ _ _ => ?_) | (with_reducible refine Acts.set_ports ?_ ?_ ?_; first | with_reducible assumption | with_reducible exact Acts.refl _ _ | with_reducible refine writeFields_acts _ _ ?_ ?_ | with_reducible refine showLanes_acts _ ?_ ?_ | with_reducible refine wr_acts _ _ ?_ ?_ | with_reducible refine portDown_acts _ ?_ ?_ | with_reducible refine Acts.iteStep ?_ (fun _ => ?_) | with_reducible refine Acts.foldl ?_ (fun _ _ _ => ?_)))
    | split
    | (generalize State.ports _ = y; intro h; simpa only [PortsOk, modAt_length, List.length_map, List.length_zipIdx] using h)
    | (exact fun _ => rfl)
    | (intro k; rw [List.length_map]; exact k)
    | (exact fun h => Mem.wf_writeBytes _ _ h)
    | (exact fun h => Mem.wf_write _ _ h)
    | (intro _; exact Nat.zero_le _)
    | with_reducible with_reducible exact fun h => h
    | (intro h; rw [modAt_length]; exact h))

theorem execHeadportPortCfgWrite_acts {F : List Part} {S : State} (port : Nat) (value : Sys2Proof.Word) {s : State} (h : Acts F S s)
    (hs : subParts [.regs, .ports] F = true) : ActsNext F S (execHeadportPortCfgWrite port value s) := by
  refine ActsNext.step h ?_ hs
  unfold execHeadportPortCfgWrite
  repeat' (first
    | with_reducible assumption
    | decide
    | with_reducible exact Acts.refl _ _
    | with_reducible refine writePortCfg_acts _ _ ?_ ?_
    | with_reducible refine Acts.iteStep ?_ (fun _ => ?_)
    | with_reducible refine Acts.foldl ?_ (fun _ _ _ => ?_)
    | with_reducible refine ActsNext.next ?_
    | with_reducible refine ActsNext.ite ?_ ?_
    | dsimp -proj only
    | split)

theorem pushShed_acts {F : List Part} {S : State} (p : Nat) (rec : Nat) {s : State} (h : Acts F S s)
    (hs : subParts [.regs, .ports, .queue, .pipe, .observe, .noticeSeq] F = true) : Acts F S (pushShed s p rec) := by
  refine Acts.step h ?_ hs
  unfold pushShed
  repeat' (first
    | with_reducible assumption
    | decide
    | with_reducible exact Acts.refl _ _
    | with_reducible refine flushShedPart_acts _ ?_ ?_
    | with_reducible refine closeShed_acts _ ?_ ?_
    | with_reducible refine Acts.iteStep ?_ (fun _ => ?_)
    | with_reducible refine Acts.foldl ?_ (fun _ _ _ => ?_)
    | dsimp -proj only
    | (with_reducible refine Acts.set_ports ?_ ?_ ?_; first | with_reducible assumption | with_reducible exact Acts.refl _ _ | with_reducible refine flushShedPart_acts _ ?_ ?_ | with_reducible refine closeShed_acts _ ?_ ?_ | with_reducible refine Acts.iteStep ?_ (fun _ => ?_) | with_reducible refine Acts.foldl ?_ (fun _ _ _ => ?_))
    | (with_reducible refine Acts.set_ports ?_ ?_ ?_; first | with_reducible assumption | with_reducible exact Acts.refl _ _ | with_reducible refine flushShedPart_acts _ ?_ ?_ | with_reducible refine closeShed_acts _ ?_ ?_ | with_reducible refine Acts.iteStep ?_ (fun _ => ?_) | with_reducible refine Acts.foldl ?_ (fun _ _ _ => ?_) | (with_reducible refine Acts.set_ports ?_ ?_ ?_; first | with_reducible assumption | with_reducible exact Acts.refl _ _ | with_reducible refine flushShedPart_acts _ ?_ ?_ | with_reducible refine closeShed_acts _ ?_ ?_ | with_reducible refine Acts.iteStep ?_ (fun _ => ?_) | with_reducible refine Acts.foldl ?_ (fun _ _ _ => ?_)))
    | split
    | (generalize State.ports _ = y; intro h; simpa only [PortsOk, modAt_length, List.length_map, List.length_zipIdx] using h)
    | (exact fun _ => rfl)
    | (intro k; rw [List.length_map]; exact k)
    | (exact fun h => Mem.wf_writeBytes _ _ h)
    | (exact fun h => Mem.wf_write _ _ h)
    | (intro _; exact Nat.zero_le _)
    | with_reducible with_reducible exact fun h => h
    | (intro h; rw [modAt_length]; exact h))

theorem shedHead_acts {F : List Part} {S : State} (p : Nat) (r : HeadRecord) (units : Nat) (seq : Nat) (idx : Nat) (arrival : Nat) (reason : Nat) {s : State} (h : Acts F S s)
    (hs : subParts [.regs, .ports, .queue, .pipe, .tally, .observe, .noticeSeq] F = true) : Acts F S (shedHead s p r units seq idx arrival reason) := by
  refine Acts.step h ?_ hs
  unfold shedHead
  repeat' (first
    | with_reducible assumption
    | decide
    | with_reducible exact Acts.refl _ _
    | with_reducible refine count_acts _ _ ?_ ?_
    | with_reducible refine bump_acts _ _ ?_ ?_
    | with_reducible refine raiseIf_acts _ _ _ ?_ ?_
    | with_reducible refine keyHead_acts _ _ ?_ ?_
    | with_reducible refine countShed_acts _ ?_ ?_
    | with_reducible refine pushShed_acts _ _ ?_ ?_
    | with_reducible refine Acts.iteStep ?_ (fun _ => ?_)
    | with_reducible refine Acts.foldl ?_ (fun _ _ _ => ?_)
    | dsimp -proj only
    | (with_reducible refine Acts.set_pipe ?_ ?_ ?_; first | with_reducible assumption | with_reducible exact Acts.refl _ _ | with_reducible refine count_acts _ _ ?_ ?_ | with_reducible refine bump_acts _ _ ?_ ?_ | with_reducible refine raiseIf_acts _ _ _ ?_ ?_ | with_reducible refine keyHead_acts _ _ ?_ ?_ | with_reducible refine countShed_acts _ ?_ ?_ | with_reducible refine pushShed_acts _ _ ?_ ?_ | with_reducible refine Acts.iteStep ?_ (fun _ => ?_) | with_reducible refine Acts.foldl ?_ (fun _ _ _ => ?_))
    | (with_reducible refine Acts.set_ports ?_ ?_ ?_; first | with_reducible assumption | with_reducible exact Acts.refl _ _ | with_reducible refine count_acts _ _ ?_ ?_ | with_reducible refine bump_acts _ _ ?_ ?_ | with_reducible refine raiseIf_acts _ _ _ ?_ ?_ | with_reducible refine keyHead_acts _ _ ?_ ?_ | with_reducible refine countShed_acts _ ?_ ?_ | with_reducible refine pushShed_acts _ _ ?_ ?_ | with_reducible refine Acts.iteStep ?_ (fun _ => ?_) | with_reducible refine Acts.foldl ?_ (fun _ _ _ => ?_))
    | (with_reducible refine Acts.set_pipe ?_ ?_ ?_; first | with_reducible assumption | with_reducible exact Acts.refl _ _ | with_reducible refine count_acts _ _ ?_ ?_ | with_reducible refine bump_acts _ _ ?_ ?_ | with_reducible refine raiseIf_acts _ _ _ ?_ ?_ | with_reducible refine keyHead_acts _ _ ?_ ?_ | with_reducible refine countShed_acts _ ?_ ?_ | with_reducible refine pushShed_acts _ _ ?_ ?_ | with_reducible refine Acts.iteStep ?_ (fun _ => ?_) | with_reducible refine Acts.foldl ?_ (fun _ _ _ => ?_) | (with_reducible refine Acts.set_pipe ?_ ?_ ?_; first | with_reducible assumption | with_reducible exact Acts.refl _ _ | with_reducible refine count_acts _ _ ?_ ?_ | with_reducible refine bump_acts _ _ ?_ ?_ | with_reducible refine raiseIf_acts _ _ _ ?_ ?_ | with_reducible refine keyHead_acts _ _ ?_ ?_ | with_reducible refine countShed_acts _ ?_ ?_ | with_reducible refine pushShed_acts _ _ ?_ ?_ | with_reducible refine Acts.iteStep ?_ (fun _ => ?_) | with_reducible refine Acts.foldl ?_ (fun _ _ _ => ?_)) | (with_reducible refine Acts.set_ports ?_ ?_ ?_; first | with_reducible assumption | with_reducible exact Acts.refl _ _ | with_reducible refine count_acts _ _ ?_ ?_ | with_reducible refine bump_acts _ _ ?_ ?_ | with_reducible refine raiseIf_acts _ _ _ ?_ ?_ | with_reducible refine keyHead_acts _ _ ?_ ?_ | with_reducible refine countShed_acts _ ?_ ?_ | with_reducible refine pushShed_acts _ _ ?_ ?_ | with_reducible refine Acts.iteStep ?_ (fun _ => ?_) | with_reducible refine Acts.foldl ?_ (fun _ _ _ => ?_)))
    | (with_reducible refine Acts.set_ports ?_ ?_ ?_; first | with_reducible assumption | with_reducible exact Acts.refl _ _ | with_reducible refine count_acts _ _ ?_ ?_ | with_reducible refine bump_acts _ _ ?_ ?_ | with_reducible refine raiseIf_acts _ _ _ ?_ ?_ | with_reducible refine keyHead_acts _ _ ?_ ?_ | with_reducible refine countShed_acts _ ?_ ?_ | with_reducible refine pushShed_acts _ _ ?_ ?_ | with_reducible refine Acts.iteStep ?_ (fun _ => ?_) | with_reducible refine Acts.foldl ?_ (fun _ _ _ => ?_) | (with_reducible refine Acts.set_pipe ?_ ?_ ?_; first | with_reducible assumption | with_reducible exact Acts.refl _ _ | with_reducible refine count_acts _ _ ?_ ?_ | with_reducible refine bump_acts _ _ ?_ ?_ | with_reducible refine raiseIf_acts _ _ _ ?_ ?_ | with_reducible refine keyHead_acts _ _ ?_ ?_ | with_reducible refine countShed_acts _ ?_ ?_ | with_reducible refine pushShed_acts _ _ ?_ ?_ | with_reducible refine Acts.iteStep ?_ (fun _ => ?_) | with_reducible refine Acts.foldl ?_ (fun _ _ _ => ?_)) | (with_reducible refine Acts.set_ports ?_ ?_ ?_; first | with_reducible assumption | with_reducible exact Acts.refl _ _ | with_reducible refine count_acts _ _ ?_ ?_ | with_reducible refine bump_acts _ _ ?_ ?_ | with_reducible refine raiseIf_acts _ _ _ ?_ ?_ | with_reducible refine keyHead_acts _ _ ?_ ?_ | with_reducible refine countShed_acts _ ?_ ?_ | with_reducible refine pushShed_acts _ _ ?_ ?_ | with_reducible refine Acts.iteStep ?_ (fun _ => ?_) | with_reducible refine Acts.foldl ?_ (fun _ _ _ => ?_)))
    | split
    | with_reducible exact PipeOk.keep_batches _ _
    | (generalize State.ports _ = y; intro h; simpa only [PortsOk, modAt_length, List.length_map, List.length_zipIdx] using h)
    | (exact fun _ => rfl)
    | (intro k; rw [List.length_map]; exact k)
    | (exact fun h => Mem.wf_writeBytes _ _ h)
    | (exact fun h => Mem.wf_write _ _ h)
    | (intro _; exact Nat.zero_le _)
    | with_reducible with_reducible exact fun h => h
    | (intro h; rw [modAt_length]; exact h))

theorem admitHead_acts {F : List Part} {S : State} (p : Nat) (r : HeadRecord) (units : Nat) (seq : Nat) (idx : Nat) (arrival : Nat) {s : State} (h : Acts F S s)
    (hs : subParts [.regs, .ports, .front, .flow, .endpoint, .queue, .pipe, .tally, .observe, .noticeSeq] F = true) : Acts F S (admitHead s p r units seq idx arrival) := by
  refine Acts.step h ?_ hs
  unfold admitHead
  repeat' (first
    | with_reducible assumption
    | decide
    | with_reducible exact Acts.refl _ _
    | with_reducible refine frontStage_acts _ _ _ ?_ ?_
    | with_reducible refine lookupHead_acts _ _ _ ?_ ?_
    | with_reducible refine keyMemory_acts _ _ _ ?_ ?_
    | with_reducible refine keyHead_acts _ _ ?_ ?_
    | with_reducible refine countRequest_acts _ ?_ ?_
    | with_reducible refine enqueueDataPath_acts _ _ _ ?_ ?_
    | with_reducible refine count_acts _ _ ?_ ?_
    | with_reducible refine Acts.iteStep ?_ (fun _ => ?_)
    | with_reducible refine Acts.foldl ?_ (fun _ _ _ => ?_)
    | with_reducible refine Acts.fstIte ?_ ?_
    | with_reducible refine Acts.ofFst (by assumption) ?_
    | dsimp -proj only
    | (with_reducible refine Acts.set_ports_pipe ?_ ?_ ?_ ?_ ?_; first | with_reducible assumption | with_reducible exact Acts.refl _ _ | with_reducible refine frontStage_acts _ _ _ ?_ ?_ | with_reducible refine lookupHead_acts _ _ _ ?_ ?_ | with_reducible refine keyMemory_acts _ _ _ ?_ ?_ | with_reducible refine keyHead_acts _ _ ?_ ?_ | with_reducible refine countRequest_acts _ ?_ ?_ | with_reducible refine enqueueDataPath_acts _ _ _ ?_ ?_ | with_reducible refine count_acts _ _ ?_ ?_ | with_reducible refine Acts.iteStep ?_ (fun _ => ?_) | with_reducible refine Acts.foldl ?_ (fun _ _ _ => ?_) | with_reducible refine Acts.fstIte ?_ ?_ | with_reducible refine Acts.ofFst (by assumption) ?_)
    | (with_reducible refine Acts.fstMk ?_; first | with_reducible assumption | with_reducible exact Acts.refl _ _ | with_reducible refine frontStage_acts _ _ _ ?_ ?_ | with_reducible refine lookupHead_acts _ _ _ ?_ ?_ | with_reducible refine keyMemory_acts _ _ _ ?_ ?_ | with_reducible refine keyHead_acts _ _ ?_ ?_ | with_reducible refine countRequest_acts _ ?_ ?_ | with_reducible refine enqueueDataPath_acts _ _ _ ?_ ?_ | with_reducible refine count_acts _ _ ?_ ?_ | with_reducible refine Acts.iteStep ?_ (fun _ => ?_) | with_reducible refine Acts.foldl ?_ (fun _ _ _ => ?_) | with_reducible refine Acts.fstIte ?_ ?_ | with_reducible refine Acts.ofFst (by assumption) ?_ | (with_reducible refine Acts.set_ports_pipe ?_ ?_ ?_ ?_ ?_; first | with_reducible assumption | with_reducible exact Acts.refl _ _ | with_reducible refine frontStage_acts _ _ _ ?_ ?_ | with_reducible refine lookupHead_acts _ _ _ ?_ ?_ | with_reducible refine keyMemory_acts _ _ _ ?_ ?_ | with_reducible refine keyHead_acts _ _ ?_ ?_ | with_reducible refine countRequest_acts _ ?_ ?_ | with_reducible refine enqueueDataPath_acts _ _ _ ?_ ?_ | with_reducible refine count_acts _ _ ?_ ?_ | with_reducible refine Acts.iteStep ?_ (fun _ => ?_) | with_reducible refine Acts.foldl ?_ (fun _ _ _ => ?_) | with_reducible refine Acts.fstIte ?_ ?_ | with_reducible refine Acts.ofFst (by assumption) ?_))
    | split
    | with_reducible exact PipeOk.keep_batches _ _
    | (generalize State.ports _ = y; intro h; simpa only [PortsOk, modAt_length, List.length_map, List.length_zipIdx] using h)
    | (exact fun _ => rfl)
    | (intro k; rw [List.length_map]; exact k)
    | (exact fun h => Mem.wf_writeBytes _ _ h)
    | (exact fun h => Mem.wf_write _ _ h)
    | (intro _; exact Nat.zero_le _)
    | with_reducible with_reducible exact fun h => h
    | (intro h; rw [modAt_length]; exact h))

theorem takeHead_acts {F : List Part} {S : State} (p : Nat) (units : Nat) (seq : Nat) (arrival : Nat) (r : HeadRecord × Nat) {s : State} (h : Acts F S s)
    (hs : subParts [.regs, .ports, .front, .flow, .endpoint, .queue, .pipe, .tally, .observe, .noticeSeq] F = true) : Acts F S (takeHead p units seq arrival s r) := by
  refine Acts.step h ?_ hs
  unfold takeHead
  repeat' (first
    | with_reducible assumption
    | decide
    | with_reducible exact Acts.refl _ _
    | with_reducible refine shedHead_acts _ _ _ _ _ _ _ ?_ ?_
    | with_reducible refine admitHead_acts _ _ _ _ _ _ ?_ ?_
    | with_reducible refine Acts.iteStep ?_ (fun _ => ?_)
    | with_reducible refine Acts.foldl ?_ (fun _ _ _ => ?_)
    | dsimp -proj only
    | split)

theorem countBundle_acts {F : List Part} {S : State} (p : Nat) (b : Bundle) {s : State} (h : Acts F S s)
    (hs : subParts [.regs, .ports, .queue, .observe, .noticeSeq] F = true) : Acts F S (countBundle s p b) := by
  refine Acts.step h ?_ hs
  unfold countBundle
  repeat' (first
    | with_reducible assumption
    | decide
    | with_reducible exact Acts.refl _ _
    | with_reducible refine bump_acts _ _ ?_ ?_
    | with_reducible refine wr_acts _ _ ?_ ?_
    | with_reducible refine raise_acts _ _ ?_ ?_
    | with_reducible refine Acts.iteStep ?_ (fun _ => ?_)
    | with_reducible refine Acts.foldl ?_ (fun _ _ _ => ?_)
    | dsimp -proj only
    | (with_reducible refine Acts.set_ports ?_ ?_ ?_; first | with_reducible assumption | with_reducible exact Acts.refl _ _ | with_reducible refine bump_acts _ _ ?_ ?_ | with_reducible refine wr_acts _ _ ?_ ?_ | with_reducible refine raise_acts _ _ ?_ ?_ | with_reducible refine Acts.iteStep ?_ (fun _ => ?_) | with_reducible refine Acts.foldl ?_ (fun _ _ _ => ?_))
    | split
    | (generalize State.ports _ = y; intro h; simpa only [PortsOk, modAt_length, List.length_map, List.length_zipIdx] using h)
    | (exact fun _ => rfl)
    | (intro k; rw [List.length_map]; exact k)
    | (exact fun h => Mem.wf_writeBytes _ _ h)
    | (exact fun h => Mem.wf_write _ _ h)
    | (intro _; exact Nat.zero_le _)
    | with_reducible with_reducible exact fun h => h
    | (intro h; rw [modAt_length]; exact h))

theorem receiveFrame_acts {F : List Part} {S : State} (f : Sys2Proof.FrameIn) {s : State} (h : Acts F S s)
    (hs : subParts [.regs, .sched, .ports, .front, .flow, .endpoint, .queue, .pipe, .tally, .observe, .log, .hbm, .noticeSeq] F = true) : Acts F S (receiveFrame s f) := by
  refine Acts.step h ?_ hs
  unfold receiveFrame
  repeat' (first
    | with_reducible assumption
    | decide
    | with_reducible exact Acts.refl _ _
    | with_reducible refine bump_acts _ _ ?_ ?_
    | with_reducible refine raise_acts _ _ ?_ ?_
    | with_reducible refine structureFault_acts _ ?_ ?_
    | with_reducible refine countBundle_acts _ _ ?_ ?_
    | with_reducible refine takeHead_acts _ _ _ _ _ ?_ ?_
    | with_reducible refine Acts.iteStep ?_ (fun _ => ?_)
    | with_reducible refine Acts.foldl ?_ (fun _ _ _ => ?_)
    | dsimp -proj only
    | (with_reducible refine Acts.set_pipe ?_ ?_ ?_; first | with_reducible assumption | with_reducible exact Acts.refl _ _ | with_reducible refine bump_acts _ _ ?_ ?_ | with_reducible refine raise_acts _ _ ?_ ?_ | with_reducible refine structureFault_acts _ ?_ ?_ | with_reducible refine countBundle_acts _ _ ?_ ?_ | with_reducible refine takeHead_acts _ _ _ _ _ ?_ ?_ | with_reducible refine Acts.iteStep ?_ (fun _ => ?_) | with_reducible refine Acts.foldl ?_ (fun _ _ _ => ?_))
    | split
    | with_reducible exact PipeOk.keep_arrivals _ _
    | (exact fun _ => rfl)
    | (intro k; rw [List.length_map]; exact k)
    | (exact fun h => Mem.wf_writeBytes _ _ h)
    | (exact fun h => Mem.wf_write _ _ h)
    | (intro _; exact Nat.zero_le _)
    | with_reducible with_reducible exact fun h => h
    | (intro h; rw [modAt_length]; exact h))

theorem execHeadBundle_acts {F : List Part} {S : State} (dt : Nat) (port : Nat) (frame : Sys2Proof.Bytes) (fcsGood : Bool) (words : Sys2Proof.Codewords) (faults : List Sys2Proof.FaultEv) (also : List Sys2Proof.FrameIn) {s : State} (h : Acts F S s)
    (hs : subParts [.regs, .dial, .sched, .ports, .front, .flow, .endpoint, .queue, .pipe, .power, .tally, .observe, .log, .pins, .hbm, .noticeSeq] F = true) : ActsNext F S (execHeadBundle dt port frame fcsGood words faults also s) := by
  refine ActsNext.step h ?_ hs
  unfold execHeadBundle
  repeat' (first
    | with_reducible assumption
    | decide
    | with_reducible exact Acts.refl _ _
    | with_reducible refine receiveFrame_acts _ ?_ ?_
    | with_reducible refine advance_acts _ ?_ ?_
    | with_reducible refine Acts.iteStep ?_ (fun _ => ?_)
    | with_reducible refine Acts.foldl ?_ (fun _ _ _ => ?_)
    | with_reducible refine ActsNext.next ?_
    | with_reducible refine ActsNext.ite ?_ ?_
    | dsimp -proj only
    | split)

theorem takeItems_acts {F : List Part} {S : State} (p q n : Nat) (rs : List Nat) {s : State} (h : Acts F S s)
    (hs : subParts [.regs, .sched, .ports, .queue, .pipe, .observe, .log, .noticeSeq] F = true) : Acts F S (takeItems p q n s rs).1 := by
  refine Acts.step h ?_ hs
  clear h
  induction n generalizing s rs with
  | zero => exact Acts.refl _ _
  | succ n ih =>
    unfold takeItems
    have e := dequeue_acts (F := [.regs, .sched, .ports, .queue, .pipe, .observe, .log, .noticeSeq]) q (Acts.refl _ s) (by decide)
    split
    · next heq =>
      rw [heq] at e
      exact Acts.trans e (ih _)
    · next heq =>
      rw [heq] at e
      exact Acts.trans (bump_acts _ _ e (by decide)) (ih _)
    · next heq => rw [heq] at e; exact e


theorem sendBundle_acts {F : List Part} {S : State} (p : Nat) (o : OpenBundle) (shed : Bool) (records : List Nat) {s : State} (h : Acts F S s)
    (hs : subParts [.regs, .ports, .out] F = true) : Acts F S (sendBundle s p o shed records) := by
  refine Acts.step h ?_ hs
  unfold sendBundle
  repeat' (first
    | with_reducible assumption
    | decide
    | with_reducible exact Acts.refl _ _
    | with_reducible refine bump_acts _ _ ?_ ?_
    | with_reducible refine emit_acts _ ?_ ?_
    | with_reducible refine count_acts _ _ ?_ ?_
    | with_reducible refine Acts.iteStep ?_ (fun _ => ?_)
    | with_reducible refine Acts.foldl ?_ (fun _ _ _ => ?_)
    | dsimp -proj only
    | (with_reducible refine Acts.set_ports ?_ ?_ ?_; first | with_reducible assumption | with_reducible exact Acts.refl _ _ | with_reducible refine bump_acts _ _ ?_ ?_ | with_reducible refine emit_acts _ ?_ ?_ | with_reducible refine count_acts _ _ ?_ ?_ | with_reducible refine Acts.iteStep ?_ (fun _ => ?_) | with_reducible refine Acts.foldl ?_ (fun _ _ _ => ?_))
    | split
    | (generalize State.ports _ = y; intro h; simpa only [PortsOk, modAt_length, List.length_map, List.length_zipIdx] using h)
    | (exact fun _ => rfl)
    | (intro k; rw [List.length_map]; exact k)
    | (exact fun h => Mem.wf_writeBytes _ _ h)
    | (exact fun h => Mem.wf_write _ _ h)
    | (intro _; exact Nat.zero_le _)
    | with_reducible with_reducible exact fun h => h
    | (intro h; rw [modAt_length]; exact h))

theorem execVerdictTransmit_acts {F : List Part} {S : State} (dt : Nat) (port : Nat) (faults : List Sys2Proof.FaultEv) {s : State} (h : Acts F S s)
    (hs : subParts [.regs, .dial, .sched, .ports, .front, .flow, .endpoint, .queue, .pipe, .power, .observe, .log, .pins, .hbm, .out, .noticeSeq] F = true) : ActsNext F S (execVerdictTransmit dt port faults s) := by
  refine ActsNext.step h ?_ hs
  unfold execVerdictTransmit
  repeat' (first
    | with_reducible assumption
    | decide
    | with_reducible exact Acts.refl _ _
    | with_reducible refine advance_acts _ ?_ ?_
    | with_reducible refine structureFault_acts _ ?_ ?_
    | with_reducible refine takeItems_acts _ _ _ _ ?_ ?_
    | with_reducible refine closeDataPath_acts  ?_ ?_
    | with_reducible refine sendBundle_acts _ _ _ _ ?_ ?_
    | with_reducible refine Acts.iteStep ?_ (fun _ => ?_)
    | with_reducible refine Acts.foldl ?_ (fun _ _ _ => ?_)
    | with_reducible refine ActsNext.next ?_
    | with_reducible refine ActsNext.ite ?_ ?_
    | with_reducible refine Acts.fstIte ?_ ?_
    | with_reducible refine Acts.ofFst (by assumption) ?_
    | dsimp -proj only
    | (with_reducible refine Acts.set_ports ?_ ?_ ?_; first | with_reducible assumption | with_reducible exact Acts.refl _ _ | with_reducible refine advance_acts _ ?_ ?_ | with_reducible refine structureFault_acts _ ?_ ?_ | with_reducible refine takeItems_acts _ _ _ _ ?_ ?_ | with_reducible refine closeDataPath_acts  ?_ ?_ | with_reducible refine sendBundle_acts _ _ _ _ ?_ ?_ | with_reducible refine Acts.iteStep ?_ (fun _ => ?_) | with_reducible refine Acts.foldl ?_ (fun _ _ _ => ?_) | with_reducible refine ActsNext.next ?_ | with_reducible refine ActsNext.ite ?_ ?_ | with_reducible refine Acts.fstIte ?_ ?_ | with_reducible refine Acts.ofFst (by assumption) ?_)
    | (with_reducible refine Acts.set_ports ?_ ?_ ?_; first | with_reducible assumption | with_reducible exact Acts.refl _ _ | with_reducible refine advance_acts _ ?_ ?_ | with_reducible refine structureFault_acts _ ?_ ?_ | with_reducible refine takeItems_acts _ _ _ _ ?_ ?_ | with_reducible refine closeDataPath_acts  ?_ ?_ | with_reducible refine sendBundle_acts _ _ _ _ ?_ ?_ | with_reducible refine Acts.iteStep ?_ (fun _ => ?_) | with_reducible refine Acts.foldl ?_ (fun _ _ _ => ?_) | with_reducible refine ActsNext.next ?_ | with_reducible refine ActsNext.ite ?_ ?_ | with_reducible refine Acts.fstIte ?_ ?_ | with_reducible refine Acts.ofFst (by assumption) ?_ | (with_reducible refine Acts.set_ports ?_ ?_ ?_; first | with_reducible assumption | with_reducible exact Acts.refl _ _ | with_reducible refine advance_acts _ ?_ ?_ | with_reducible refine structureFault_acts _ ?_ ?_ | with_reducible refine takeItems_acts _ _ _ _ ?_ ?_ | with_reducible refine closeDataPath_acts  ?_ ?_ | with_reducible refine sendBundle_acts _ _ _ _ ?_ ?_ | with_reducible refine Acts.iteStep ?_ (fun _ => ?_) | with_reducible refine Acts.foldl ?_ (fun _ _ _ => ?_) | with_reducible refine ActsNext.next ?_ | with_reducible refine ActsNext.ite ?_ ?_ | with_reducible refine Acts.fstIte ?_ ?_ | with_reducible refine Acts.ofFst (by assumption) ?_))
    | (with_reducible refine Acts.fstMk ?_; first | with_reducible assumption | with_reducible exact Acts.refl _ _ | with_reducible refine advance_acts _ ?_ ?_ | with_reducible refine structureFault_acts _ ?_ ?_ | with_reducible refine takeItems_acts _ _ _ _ ?_ ?_ | with_reducible refine closeDataPath_acts  ?_ ?_ | with_reducible refine sendBundle_acts _ _ _ _ ?_ ?_ | with_reducible refine Acts.iteStep ?_ (fun _ => ?_) | with_reducible refine Acts.foldl ?_ (fun _ _ _ => ?_) | with_reducible refine ActsNext.next ?_ | with_reducible refine ActsNext.ite ?_ ?_ | with_reducible refine Acts.fstIte ?_ ?_ | with_reducible refine Acts.ofFst (by assumption) ?_ | (with_reducible refine Acts.set_ports ?_ ?_ ?_; first | with_reducible assumption | with_reducible exact Acts.refl _ _ | with_reducible refine advance_acts _ ?_ ?_ | with_reducible refine structureFault_acts _ ?_ ?_ | with_reducible refine takeItems_acts _ _ _ _ ?_ ?_ | with_reducible refine closeDataPath_acts  ?_ ?_ | with_reducible refine sendBundle_acts _ _ _ _ ?_ ?_ | with_reducible refine Acts.iteStep ?_ (fun _ => ?_) | with_reducible refine Acts.foldl ?_ (fun _ _ _ => ?_) | with_reducible refine ActsNext.next ?_ | with_reducible refine ActsNext.ite ?_ ?_ | with_reducible refine Acts.fstIte ?_ ?_ | with_reducible refine Acts.ofFst (by assumption) ?_))
    | split
    | (generalize State.ports _ = y; intro h; simpa only [PortsOk, modAt_length, List.length_map, List.length_zipIdx] using h)
    | (exact fun _ => rfl)
    | (intro k; rw [List.length_map]; exact k)
    | (exact fun h => Mem.wf_writeBytes _ _ h)
    | (exact fun h => Mem.wf_write _ _ h)
    | (intro _; exact Nat.zero_le _)
    | with_reducible with_reducible exact fun h => h
    | (intro h; rw [modAt_length]; exact h))

theorem execShedBundleTimeout_acts {F : List Part} {S : State} (dt : Nat) (port : Nat) {s : State} (h : Acts F S s)
    (hs : subParts [.regs, .dial, .sched, .ports, .front, .flow, .endpoint, .queue, .pipe, .power, .observe, .pins, .noticeSeq] F = true) : ActsNext F S (execShedBundleTimeout dt port s) := by
  refine ActsNext.step h ?_ hs
  unfold execShedBundleTimeout
  repeat' (first
    | with_reducible assumption
    | decide
    | with_reducible exact Acts.refl _ _
    | with_reducible refine advance_acts _ ?_ ?_
    | with_reducible refine closeShed_acts _ ?_ ?_
    | with_reducible refine Acts.iteStep ?_ (fun _ => ?_)
    | with_reducible refine Acts.foldl ?_ (fun _ _ _ => ?_)
    | with_reducible refine ActsNext.next ?_
    | with_reducible refine ActsNext.ite ?_ ?_
    | dsimp -proj only
    | split)

end Sys2Proof.Machine
end

