-- ==== Sys2Proof/Laws/ActsPipeline.lean ====
section
/-! SUPPORT. What each operation of Machine/Pipeline.lean may touch, and that it keeps the invariant. -/

namespace Sys2Proof.Machine

theorem modBatch_acts {F : List Part} {S : State} (n : Nat) (f : Batch → Batch) {s : State} (h : Acts F S s)
    (hs : subParts [.pipe] F = true) : Acts F S (modBatch s n f) := by
  refine Acts.step h ?_ hs
  unfold modBatch
  repeat' (first
    | with_reducible assumption
    | decide
    | with_reducible exact Acts.refl _ _
    | with_reducible refine Acts.iteStep ?_ (fun _ => ?_)
    | with_reducible refine Acts.foldl ?_ (fun _ _ _ => ?_)
    | dsimp -proj only
    | (with_reducible refine Acts.set_pipe ?_ ?_ ?_; first | with_reducible assumption | with_reducible exact Acts.refl _ _ | with_reducible refine Acts.iteStep ?_ (fun _ => ?_) | with_reducible refine Acts.foldl ?_ (fun _ _ _ => ?_))
    | split
    | with_reducible exact PipeOk.keep_batches _ _
    | (exact fun _ => rfl)
    | (intro k; rw [List.length_map]; exact k)
    | (exact fun h => Mem.wf_writeBytes _ _ h)
    | (exact fun h => Mem.wf_write _ _ h)
    | (intro _; exact Nat.zero_le _)
    | with_reducible with_reducible exact fun h => h
    | (intro h; rw [modAt_length]; exact h))

theorem modChain_acts {F : List Part} {S : State} (n : Nat) (slot : Nat) (f : Chain → Chain) {s : State} (h : Acts F S s)
    (hs : subParts [.pipe] F = true) : Acts F S (modChain s n slot f) := by
  refine Acts.step h ?_ hs
  unfold modChain
  repeat' (first
    | with_reducible assumption
    | decide
    | with_reducible exact Acts.refl _ _
    | with_reducible refine modBatch_acts _ _ ?_ ?_
    | with_reducible refine Acts.iteStep ?_ (fun _ => ?_)
    | with_reducible refine Acts.foldl ?_ (fun _ _ _ => ?_)
    | dsimp -proj only
    | split)

theorem execBatchClose_acts {F : List Part} {S : State} (batch : Nat) {s : State} (h : Acts F S s)
    (hs : subParts [.regs, .dial, .sched, .ports, .front, .flow, .endpoint, .queue, .pipe, .power, .observe, .pins, .noticeSeq] F = true) : ActsNext F S (execBatchClose batch s) := by
  refine ActsNext.step h ?_ hs
  unfold execBatchClose
  repeat' (first
    | with_reducible assumption
    | decide
    | with_reducible exact Acts.refl _ _
    | with_reducible refine advance_acts _ ?_ ?_
    | with_reducible refine modBatch_acts _ _ ?_ ?_
    | with_reducible refine Acts.iteStep ?_ (fun _ => ?_)
    | with_reducible refine Acts.foldl ?_ (fun _ _ _ => ?_)
    | with_reducible refine ActsNext.next ?_
    | with_reducible refine ActsNext.ite ?_ ?_
    | dsimp -proj only
    | split)

theorem readFaults_acts {F : List Part} {S : State} (batch : Nat) (gen : Nat) (faults : List Sys2Proof.FaultEv) {s : State} (h : Acts F S s)
    (hs : subParts [.regs, .sched, .front, .flow, .endpoint, .queue, .pipe, .slots, .observe, .log, .hbm, .noticeSeq] F = true) : Acts F S (readFaults s batch gen faults) := by
  refine Acts.step h ?_ hs
  unfold readFaults
  repeat' (first
    | with_reducible assumption
    | decide
    | with_reducible exact Acts.refl _ _
    | with_reducible refine structureFault_acts _ ?_ ?_
    | with_reducible refine loseTrees_acts _ _ _ ?_ ?_
    | with_reducible refine Acts.iteStep ?_ (fun _ => ?_)
    | with_reducible refine Acts.foldl ?_ (fun _ _ _ => ?_)
    | dsimp -proj only
    | split)

theorem waitForTag_acts {F : List Part} {S : State}  {s : State} (h : Acts F S s)
    (hs : subParts [.observe] F = true) : Acts F S (waitForTag s) := by
  refine Acts.step h ?_ hs
  unfold waitForTag
  repeat' (first
    | with_reducible assumption
    | decide
    | with_reducible exact Acts.refl _ _
    | with_reducible refine Acts.iteStep ?_ (fun _ => ?_)
    | with_reducible refine Acts.foldl ?_ (fun _ _ _ => ?_)
    | dsimp -proj only
    | (with_reducible refine Acts.set_observe ?_ ?_ ?_; first | with_reducible assumption | with_reducible exact Acts.refl _ _ | with_reducible refine Acts.iteStep ?_ (fun _ => ?_) | with_reducible refine Acts.foldl ?_ (fun _ _ _ => ?_))
    | split
    | with_reducible exact ObserveOk.keep_tagWaits _ _
    | (exact fun _ => rfl)
    | (intro k; rw [List.length_map]; exact k)
    | (exact fun h => Mem.wf_writeBytes _ _ h)
    | (exact fun h => Mem.wf_write _ _ h)
    | (intro _; exact Nat.zero_le _)
    | with_reducible with_reducible exact fun h => h
    | (intro h; rw [modAt_length]; exact h))

theorem takeTag_acts {F : List Part} {S : State} (batch slot op : Nat) {s : State} (hl : s.pipe.flights.length < 2048)
    (h : Acts F S s) (hs : subParts [.pipe] F = true) : Acts F S (takeTag s batch slot op) := by
  refine Acts.step h ?_ hs
  unfold takeTag
  refine Acts.set_pipe (Acts.refl _ _) (by decide) (PipeOk.keep_flights_nextTag _ _ _ fun _ => ?_)
  simp only [List.length_append, List.length_singleton]
  omega


theorem execOperationFetch_acts {F : List Part} {S : State} (batch : Nat) (slot : Nat) (faults : List Sys2Proof.FaultEv) {s : State} (h : Acts F S s)
    (hs : subParts [.regs, .sched, .front, .flow, .endpoint, .queue, .pipe, .slots, .tally, .observe, .log, .hbm, .noticeSeq] F = true) : ActsNext F S (execOperationFetch batch slot faults s) := by
  refine ActsNext.step h ?_ hs
  unfold execOperationFetch
  repeat' (first
    | with_reducible assumption
    | decide
    | with_reducible exact Acts.refl _ _
    | with_reducible refine waitForTag_acts  ?_ ?_
    | with_reducible refine readFaults_acts _ _ _ ?_ ?_
    | with_reducible refine takeTag_acts _ _ _ ?_ ?_ ?_
    | with_reducible refine keyMemory_acts _ _ _ ?_ ?_
    | with_reducible refine modChain_acts _ _ _ ?_ ?_
    | with_reducible refine Acts.foldl ?_ (fun _ _ _ => ?_)
    | with_reducible refine ActsNext.next ?_
    | dsimp -proj only
    | split
    | omega)

theorem fixScale_acts {F : List Part} {S : State} (batch : Nat) (b : Batch) (c : Chain) (o : OpRec) {s : State} (h : Acts F S s)
    (hs : subParts [.regs, .queue, .pipe, .observe, .noticeSeq] F = true) : Acts F S (fixScale s batch b c o) := by
  refine Acts.step h ?_ hs
  unfold fixScale
  repeat' (first
    | with_reducible assumption
    | decide
    | with_reducible exact Acts.refl _ _
    | with_reducible refine markPinned_acts _ _ _ ?_ ?_
    | with_reducible refine modChain_acts _ _ _ ?_ ?_
    | with_reducible refine Acts.iteStep ?_ (fun _ => ?_)
    | with_reducible refine Acts.foldl ?_ (fun _ _ _ => ?_)
    | dsimp -proj only
    | split)

theorem markConv_acts {F : List Part} {S : State} (batch : Nat) (slot : Nat) (o : OpRec) {s : State} (h : Acts F S s)
    (hs : subParts [.regs, .queue, .observe, .noticeSeq] F = true) : Acts F S (markConv s batch slot o) := by
  refine Acts.step h ?_ hs
  unfold markConv
  repeat' (first
    | with_reducible assumption
    | decide
    | with_reducible exact Acts.refl _ _
    | with_reducible refine markRatio_acts _ _ _ ?_ ?_
    | with_reducible refine Acts.iteStep ?_ (fun _ => ?_)
    | with_reducible refine Acts.foldl ?_ (fun _ _ _ => ?_)
    | dsimp -proj only
    | split)

theorem gatherState_acts {F : List Part} {S : State} (batch : Nat) (b : Batch) (c : Chain) (o : OpRec) {s : State} (h : Acts F S s)
    (hs : subParts [.regs, .pipe, .tally, .observe] F = true) : Acts F S (gatherState s batch b c o) := by
  refine Acts.step h ?_ hs
  unfold gatherState
  repeat' (first
    | with_reducible assumption
    | decide
    | with_reducible exact Acts.refl _ _
    | with_reducible refine gatherHeads_acts _ _ _ ?_ ?_
    | with_reducible refine keyMemory_acts _ _ _ ?_ ?_
    | with_reducible refine modChain_acts _ _ _ ?_ ?_
    | with_reducible refine Acts.iteStep ?_ (fun _ => ?_)
    | with_reducible refine Acts.foldl ?_ (fun _ _ _ => ?_)
    | with_reducible refine Acts.fstIte ?_ ?_
    | with_reducible refine Acts.ofFst (by assumption) ?_
    | dsimp -proj only
    | (with_reducible refine Acts.fstMk ?_; first | with_reducible assumption | with_reducible exact Acts.refl _ _ | with_reducible refine gatherHeads_acts _ _ _ ?_ ?_ | with_reducible refine keyMemory_acts _ _ _ ?_ ?_ | with_reducible refine modChain_acts _ _ _ ?_ ?_ | with_reducible refine Acts.iteStep ?_ (fun _ => ?_) | with_reducible refine Acts.foldl ?_ (fun _ _ _ => ?_) | with_reducible refine Acts.fstIte ?_ ?_ | with_reducible refine Acts.ofFst (by assumption) ?_)
    | split)

theorem setStage_acts {F : List Part} {S : State} (tag : Nat) (stage : Nat) {s : State} (h : Acts F S s)
    (hs : subParts [.pipe] F = true) : Acts F S (setStage s tag stage) := by
  refine Acts.step h ?_ hs
  unfold setStage
  repeat' (first
    | with_reducible assumption
    | decide
    | with_reducible exact Acts.refl _ _
    | with_reducible refine Acts.iteStep ?_ (fun _ => ?_)
    | with_reducible refine Acts.foldl ?_ (fun _ _ _ => ?_)
    | dsimp -proj only
    | (with_reducible refine Acts.set_pipe ?_ ?_ ?_; first | with_reducible assumption | with_reducible exact Acts.refl _ _ | with_reducible refine Acts.iteStep ?_ (fun _ => ?_) | with_reducible refine Acts.foldl ?_ (fun _ _ _ => ?_))
    | split
    | (refine PipeOk.keep_flights _ _ fun k => ?_; rw [List.length_map]; exact k)
    | with_reducible refine PipeOk.keep_flights _ _ ?_
    | (exact fun _ => rfl)
    | (intro k; rw [List.length_map]; exact k)
    | (exact fun h => Mem.wf_writeBytes _ _ h)
    | (exact fun h => Mem.wf_write _ _ h)
    | (intro _; exact Nat.zero_le _)
    | with_reducible with_reducible exact fun h => h
    | (intro h; rw [modAt_length]; exact h))

theorem execOperationGather_acts {F : List Part} {S : State} (tag : Nat) (faults : List Sys2Proof.FaultEv) {s : State} (h : Acts F S s)
    (hs : subParts [.regs, .sched, .front, .flow, .endpoint, .queue, .pipe, .slots, .tally, .observe, .log, .hbm, .noticeSeq] F = true) : ActsNext F S (execOperationGather tag faults s) := by
  refine ActsNext.step h ?_ hs
  unfold execOperationGather
  repeat' (first
    | with_reducible assumption
    | decide
    | with_reducible exact Acts.refl _ _
    | with_reducible refine readFaults_acts _ _ _ ?_ ?_
    | with_reducible refine gatherState_acts _ _ _ _ ?_ ?_
    | with_reducible refine fixScale_acts _ _ _ _ ?_ ?_
    | with_reducible refine setStage_acts _ _ ?_ ?_
    | with_reducible refine markConv_acts _ _ _ ?_ ?_
    | with_reducible refine Acts.iteStep ?_ (fun _ => ?_)
    | with_reducible refine Acts.foldl ?_ (fun _ _ _ => ?_)
    | with_reducible refine ActsNext.next ?_
    | with_reducible refine ActsNext.ite ?_ ?_
    | dsimp -proj only
    | split)

theorem startExecute_acts {F : List Part} {S : State} (f : Flight) {s : State} (h : Acts F S s)
    (hs : subParts [.pipe] F = true) : Acts F S (startExecute s f) := by
  refine Acts.step h ?_ hs
  unfold startExecute
  repeat' (first
    | with_reducible assumption
    | decide
    | with_reducible exact Acts.refl _ _
    | with_reducible refine Acts.iteStep ?_ (fun _ => ?_)
    | with_reducible refine Acts.foldl ?_ (fun _ _ _ => ?_)
    | dsimp -proj only
    | (with_reducible refine Acts.set_pipe ?_ ?_ ?_; first | with_reducible assumption | with_reducible exact Acts.refl _ _ | with_reducible refine Acts.iteStep ?_ (fun _ => ?_) | with_reducible refine Acts.foldl ?_ (fun _ _ _ => ?_))
    | split
    | with_reducible refine PipeOk.keep_flights _ _ ?_
    | (exact fun _ => rfl)
    | (intro k; rw [List.length_map]; exact k)
    | (exact fun h => Mem.wf_writeBytes _ _ h)
    | (exact fun h => Mem.wf_write _ _ h)
    | (intro _; exact Nat.zero_le _)
    | with_reducible with_reducible exact fun h => h
    | (intro h; rw [modAt_length]; exact h))

theorem countWide_acts {F : List Part} {S : State} (b : Batch) (c : Chain) (o : OpRec) {s : State} (h : Acts F S s)
    (hs : subParts [.regs] F = true) : Acts F S (countWide s b c o) := by
  refine Acts.step h ?_ hs
  unfold countWide
  repeat' (first
    | with_reducible assumption
    | decide
    | with_reducible exact Acts.refl _ _
    | with_reducible refine count_acts _ _ ?_ ?_
    | with_reducible refine Acts.iteStep ?_ (fun _ => ?_)
    | with_reducible refine Acts.foldl ?_ (fun _ _ _ => ?_)
    | dsimp -proj only
    | split)

theorem endExecute_acts {F : List Part} {S : State} (f : Flight) {s : State} (h : Acts F S s)
    (hs : subParts [.regs, .sched, .pipe, .tally, .observe] F = true) : Acts F S (endExecute s f) := by
  refine Acts.step h ?_ hs
  unfold endExecute
  repeat' (first
    | with_reducible assumption
    | decide
    | with_reducible exact Acts.refl _ _
    | with_reducible refine setStage_acts _ _ ?_ ?_
    | with_reducible refine spendCycles_acts _ _ ?_ ?_
    | with_reducible refine modChain_acts _ _ _ ?_ ?_
    | with_reducible refine countWide_acts _ _ _ ?_ ?_
    | with_reducible refine Acts.iteStep ?_ (fun _ => ?_)
    | with_reducible refine Acts.foldl ?_ (fun _ _ _ => ?_)
    | dsimp -proj only
    | split)

theorem countBarrier_acts {F : List Part} {S : State}  {s : State} (h : Acts F S s)
    (hs : subParts [.observe] F = true) : Acts F S (countBarrier s) := by
  refine Acts.step h ?_ hs
  unfold countBarrier
  repeat' (first
    | with_reducible assumption
    | decide
    | with_reducible exact Acts.refl _ _
    | with_reducible refine Acts.iteStep ?_ (fun _ => ?_)
    | with_reducible refine Acts.foldl ?_ (fun _ _ _ => ?_)
    | dsimp -proj only
    | (with_reducible refine Acts.set_observe ?_ ?_ ?_; first | with_reducible assumption | with_reducible exact Acts.refl _ _ | with_reducible refine Acts.iteStep ?_ (fun _ => ?_) | with_reducible refine Acts.foldl ?_ (fun _ _ _ => ?_))
    | split
    | with_reducible exact ObserveOk.keep_barrierWaits _ _
    | (exact fun _ => rfl)
    | (intro k; rw [List.length_map]; exact k)
    | (exact fun h => Mem.wf_writeBytes _ _ h)
    | (exact fun h => Mem.wf_write _ _ h)
    | (intro _; exact Nat.zero_le _)
    | with_reducible with_reducible exact fun h => h
    | (intro h; rw [modAt_length]; exact h))

theorem execBarrier_acts {F : List Part} {S : State}  {s : State} (h : Acts F S s)
    (hs : subParts [.regs, .sched, .pipe, .tally, .observe] F = true) : ActsNext F S (execBarrier s) := by
  refine ActsNext.step h ?_ hs
  unfold execBarrier
  repeat' (first
    | with_reducible assumption
    | decide
    | with_reducible exact Acts.refl _ _
    | with_reducible refine endExecute_acts _ ?_ ?_
    | with_reducible refine countBarrier_acts  ?_ ?_
    | with_reducible refine startExecute_acts _ ?_ ?_
    | with_reducible refine Acts.iteStep ?_ (fun _ => ?_)
    | with_reducible refine Acts.foldl ?_ (fun _ _ _ => ?_)
    | with_reducible refine ActsNext.next ?_
    | with_reducible refine ActsNext.ite ?_ ?_
    | dsimp -proj only
    | split)

theorem keepVal_acts {F : List Part} {S : State} (batch : Nat) (slot : Nat) (i : Nat) (v : TensorVal) {s : State} (h : Acts F S s)
    (hs : subParts [.pipe] F = true) : Acts F S (keepVal s batch slot i v) := by
  refine Acts.step h ?_ hs
  unfold keepVal
  repeat' (first
    | with_reducible assumption
    | decide
    | with_reducible exact Acts.refl _ _
    | with_reducible refine modChain_acts _ _ _ ?_ ?_
    | with_reducible refine Acts.iteStep ?_ (fun _ => ?_)
    | with_reducible refine Acts.foldl ?_ (fun _ _ _ => ?_)
    | dsimp -proj only
    | split)

theorem retireDense_acts {F : List Part} {S : State} (b : Batch) (c : Chain) (i : Nat) (o : OpRec) {s : State} (h : Acts F S s)
    (hs : subParts [.regs, .queue, .pipe, .slots, .observe, .noticeSeq] F = true) : Acts F S (retireDense s b c i o).1 := by
  refine Acts.step h ?_ hs
  unfold retireDense
  repeat' (first
    | with_reducible assumption
    | decide
    | with_reducible exact Acts.refl _ _
    | with_reducible refine keepPinned_acts _ _ _ _ ?_ ?_
    | with_reducible refine deliverStats_acts _ _ _ _ _ _ _ _ ?_ ?_
    | with_reducible refine keepVal_acts _ _ _ _ ?_ ?_
    | with_reducible refine markRatio_acts _ _ _ ?_ ?_
    | with_reducible refine Acts.iteStep ?_ (fun _ => ?_)
    | with_reducible refine Acts.foldl ?_ (fun _ _ _ => ?_)
    | with_reducible refine Acts.fstIte ?_ ?_
    | with_reducible refine Acts.ofFst (by assumption) ?_
    | dsimp -proj only
    | (with_reducible refine Acts.fstMk ?_; first | with_reducible assumption | with_reducible exact Acts.refl _ _ | with_reducible refine keepPinned_acts _ _ _ _ ?_ ?_ | with_reducible refine deliverStats_acts _ _ _ _ _ _ _ _ ?_ ?_ | with_reducible refine keepVal_acts _ _ _ _ ?_ ?_ | with_reducible refine markRatio_acts _ _ _ ?_ ?_ | with_reducible refine Acts.iteStep ?_ (fun _ => ?_) | with_reducible refine Acts.foldl ?_ (fun _ _ _ => ?_) | with_reducible refine Acts.fstIte ?_ ?_ | with_reducible refine Acts.ofFst (by assumption) ?_)
    | split)

theorem retirePlain_acts {F : List Part} {S : State} (b : Batch) (c : Chain) (i : Nat) (o : OpRec) {s : State} (h : Acts F S s)
    (hs : subParts [.regs, .flow, .endpoint, .pipe, .slots, .tally, .observe] F = true) : Acts F S (retirePlain s b c i o) := by
  refine Acts.step h ?_ hs
  unfold retirePlain
  repeat' (first
    | with_reducible assumption
    | decide
    | with_reducible exact Acts.refl _ _
    | with_reducible refine keepVal_acts _ _ _ _ ?_ ?_
    | with_reducible refine modChain_acts _ _ _ ?_ ?_
    | with_reducible refine writeBatch_acts _ _ _ _ ?_ ?_
    | with_reducible refine Acts.iteStep ?_ (fun _ => ?_)
    | with_reducible refine Acts.foldl ?_ (fun _ _ _ => ?_)
    | dsimp -proj only
    | split)

theorem countOp_acts {F : List Part} {S : State} (o : OpRec) (second : Bool) {s : State} (h : Acts F S s)
    (hs : subParts [.regs] F = true) : Acts F S (countOp s o second) := by
  refine Acts.step h ?_ hs
  unfold countOp
  repeat' (first
    | with_reducible assumption
    | decide
    | with_reducible exact Acts.refl _ _
    | with_reducible refine count_acts _ _ ?_ ?_
    | with_reducible refine Acts.iteStep ?_ (fun _ => ?_)
    | with_reducible refine Acts.foldl ?_ (fun _ _ _ => ?_)
    | dsimp -proj only
    | split)

theorem countSuppressed_acts {F : List Part} {S : State} (b : Batch) (c : Chain) {s : State} (h : Acts F S s)
    (hs : subParts [.regs] F = true) : Acts F S (countSuppressed s b c) := by
  refine Acts.step h ?_ hs
  unfold countSuppressed
  repeat' (first
    | with_reducible assumption
    | decide
    | with_reducible exact Acts.refl _ _
    | with_reducible refine bump_acts _ _ ?_ ?_
    | with_reducible refine Acts.iteStep ?_ (fun _ => ?_)
    | with_reducible refine Acts.foldl ?_ (fun _ _ _ => ?_)
    | dsimp -proj only
    | split)

theorem sampleBatch_acts {F : List Part} {S : State} (b : Batch) (c : Chain) {s : State} (h : Acts F S s)
    (hs : subParts [.regs, .queue, .slots, .tally, .observe, .noticeSeq] F = true) : Acts F S (sampleBatch s b c) := by
  refine Acts.step h ?_ hs
  unfold sampleBatch
  repeat' (first
    | with_reducible assumption
    | decide
    | with_reducible exact Acts.refl _ _
    | with_reducible refine takeSample_acts _ _ _ _ _ _ _ ?_ ?_
    | with_reducible refine Acts.iteStep ?_ (fun _ => ?_)
    | with_reducible refine Acts.foldl ?_ (fun _ _ _ => ?_)
    | dsimp -proj only
    | split)

theorem settleChain_acts {F : List Part} {S : State} (slot : Nat) {s : State} (h : Acts F S s)
    (hs : subParts [.observe] F = true) : Acts F S (settleChain s slot) := by
  refine Acts.step h ?_ hs
  unfold settleChain
  repeat' (first
    | with_reducible assumption
    | decide
    | with_reducible exact Acts.refl _ _
    | with_reducible refine Acts.iteStep ?_ (fun _ => ?_)
    | with_reducible refine Acts.foldl ?_ (fun _ _ _ => ?_)
    | dsimp -proj only
    | (with_reducible refine Acts.set_observe ?_ ?_ ?_; first | with_reducible assumption | with_reducible exact Acts.refl _ _ | with_reducible refine Acts.iteStep ?_ (fun _ => ?_) | with_reducible refine Acts.foldl ?_ (fun _ _ _ => ?_))
    | split
    | with_reducible exact ObserveOk.keep_hangs _ _
    | (exact fun _ => rfl)
    | (intro k; rw [List.length_map]; exact k)
    | (exact fun h => Mem.wf_writeBytes _ _ h)
    | (exact fun h => Mem.wf_write _ _ h)
    | (intro _; exact Nat.zero_le _)
    | with_reducible with_reducible exact fun h => h
    | (intro h; rw [modAt_length]; exact h))

theorem finishChain_acts {F : List Part} {S : State} (batch : Nat) (slot : Nat) {s : State} (h : Acts F S s)
    (hs : subParts [.regs, .queue, .slots, .tally, .observe, .noticeSeq] F = true) : Acts F S (finishChain s batch slot) := by
  refine Acts.step h ?_ hs
  unfold finishChain
  repeat' (first
    | with_reducible assumption
    | decide
    | with_reducible exact Acts.refl _ _
    | with_reducible refine countSuppressed_acts _ _ ?_ ?_
    | with_reducible refine trace_acts _ _ _ ?_ ?_
    | with_reducible refine sampleBatch_acts _ _ ?_ ?_
    | with_reducible refine Acts.iteStep ?_ (fun _ => ?_)
    | with_reducible refine Acts.foldl ?_ (fun _ _ _ => ?_)
    | dsimp -proj only
    | split)

theorem execOperationRetire_acts {F : List Part} {S : State} (faults : List Sys2Proof.FaultEv) {s : State} (h : Acts F S s)
    (hs : subParts [.regs, .sched, .front, .flow, .endpoint, .queue, .pipe, .slots, .tally, .observe, .log, .hbm, .noticeSeq] F = true) : ActsNext F S (execOperationRetire faults s) := by
  refine ActsNext.step h ?_ hs
  unfold execOperationRetire
  repeat' (first
    | with_reducible assumption
    | decide
    | with_reducible exact Acts.refl _ _
    | with_reducible refine readFaults_acts _ _ _ ?_ ?_
    | with_reducible refine structureFault_acts _ ?_ ?_
    | with_reducible refine retireDense_acts _ _ _ _ ?_ ?_
    | with_reducible refine retirePlain_acts _ _ _ _ ?_ ?_
    | with_reducible refine countOp_acts _ _ ?_ ?_
    | with_reducible refine modChain_acts _ _ _ ?_ ?_
    | with_reducible refine settleChain_acts _ ?_ ?_
    | with_reducible refine finishChain_acts _ _ ?_ ?_
    | with_reducible refine Acts.iteStep ?_ (fun _ => ?_)
    | with_reducible refine Acts.foldl ?_ (fun _ _ _ => ?_)
    | with_reducible refine ActsNext.next ?_
    | with_reducible refine ActsNext.ite ?_ ?_
    | with_reducible refine Acts.fstIte ?_ ?_
    | with_reducible refine Acts.ofFst (by assumption) ?_
    | dsimp -proj only
    | (with_reducible refine Acts.set_pipe ?_ ?_ ?_; first | with_reducible assumption | with_reducible exact Acts.refl _ _ | with_reducible refine readFaults_acts _ _ _ ?_ ?_ | with_reducible refine structureFault_acts _ ?_ ?_ | with_reducible refine retireDense_acts _ _ _ _ ?_ ?_ | with_reducible refine retirePlain_acts _ _ _ _ ?_ ?_ | with_reducible refine countOp_acts _ _ ?_ ?_ | with_reducible refine modChain_acts _ _ _ ?_ ?_ | with_reducible refine settleChain_acts _ ?_ ?_ | with_reducible refine finishChain_acts _ _ ?_ ?_ | with_reducible refine Acts.iteStep ?_ (fun _ => ?_) | with_reducible refine Acts.foldl ?_ (fun _ _ _ => ?_) | with_reducible refine ActsNext.next ?_ | with_reducible refine ActsNext.ite ?_ ?_ | with_reducible refine Acts.fstIte ?_ ?_ | with_reducible refine Acts.ofFst (by assumption) ?_)
    | (with_reducible refine Acts.fstMk ?_; first | with_reducible assumption | with_reducible exact Acts.refl _ _ | with_reducible refine readFaults_acts _ _ _ ?_ ?_ | with_reducible refine structureFault_acts _ ?_ ?_ | with_reducible refine retireDense_acts _ _ _ _ ?_ ?_ | with_reducible refine retirePlain_acts _ _ _ _ ?_ ?_ | with_reducible refine countOp_acts _ _ ?_ ?_ | with_reducible refine modChain_acts _ _ _ ?_ ?_ | with_reducible refine settleChain_acts _ ?_ ?_ | with_reducible refine finishChain_acts _ _ ?_ ?_ | with_reducible refine Acts.iteStep ?_ (fun _ => ?_) | with_reducible refine Acts.foldl ?_ (fun _ _ _ => ?_) | with_reducible refine ActsNext.next ?_ | with_reducible refine ActsNext.ite ?_ ?_ | with_reducible refine Acts.fstIte ?_ ?_ | with_reducible refine Acts.ofFst (by assumption) ?_ | (with_reducible refine Acts.set_pipe ?_ ?_ ?_; first | with_reducible assumption | with_reducible exact Acts.refl _ _ | with_reducible refine readFaults_acts _ _ _ ?_ ?_ | with_reducible refine structureFault_acts _ ?_ ?_ | with_reducible refine retireDense_acts _ _ _ _ ?_ ?_ | with_reducible refine retirePlain_acts _ _ _ _ ?_ ?_ | with_reducible refine countOp_acts _ _ ?_ ?_ | with_reducible refine modChain_acts _ _ _ ?_ ?_ | with_reducible refine settleChain_acts _ ?_ ?_ | with_reducible refine finishChain_acts _ _ ?_ ?_ | with_reducible refine Acts.iteStep ?_ (fun _ => ?_) | with_reducible refine Acts.foldl ?_ (fun _ _ _ => ?_) | with_reducible refine ActsNext.next ?_ | with_reducible refine ActsNext.ite ?_ ?_ | with_reducible refine Acts.fstIte ?_ ?_ | with_reducible refine Acts.ofFst (by assumption) ?_))
    | split
    | (refine PipeOk.keep_flights _ _ fun k => ?_
       have e := ‹s.pipe.flights = _ :: _›
       rw [e] at k
       exact Nat.le_trans (Nat.le_succ _) k)
    | with_reducible refine PipeOk.keep_flights_retiredBeat _ _ _ ?_
    | (exact fun _ => rfl)
    | (intro k; rw [List.length_map]; exact k)
    | (exact fun h => Mem.wf_writeBytes _ _ h)
    | (exact fun h => Mem.wf_write _ _ h)
    | (intro _; exact Nat.zero_le _)
    | with_reducible with_reducible exact fun h => h
    | (intro h; rw [modAt_length]; exact h))

theorem batchLate_acts {F : List Part} {S : State} (b : Batch) {s : State} (h : Acts F S s)
    (hs : subParts [.regs, .sched, .queue, .pipe, .observe, .noticeSeq] F = true) : Acts F S (batchLate s b) := by
  refine Acts.step h ?_ hs
  unfold batchLate
  repeat' (first
    | with_reducible assumption
    | decide
    | with_reducible exact Acts.refl _ _
    | with_reducible refine modBatch_acts _ _ ?_ ?_
    | with_reducible refine raise_acts _ _ ?_ ?_
    | with_reducible refine bump_acts _ _ ?_ ?_
    | with_reducible refine raiseIf_acts _ _ _ ?_ ?_
    | with_reducible refine wrB_acts _ _ ?_ ?_
    | with_reducible refine Acts.iteStep ?_ (fun _ => ?_)
    | with_reducible refine Acts.foldl ?_ (fun _ _ _ => ?_)
    | dsimp -proj only
    | (with_reducible refine Acts.set_sched ?_ ?_ ?_; first | with_reducible assumption | with_reducible exact Acts.refl _ _ | with_reducible refine modBatch_acts _ _ ?_ ?_ | with_reducible refine raise_acts _ _ ?_ ?_ | with_reducible refine bump_acts _ _ ?_ ?_ | with_reducible refine raiseIf_acts _ _ _ ?_ ?_ | with_reducible refine wrB_acts _ _ ?_ ?_ | with_reducible refine Acts.iteStep ?_ (fun _ => ?_) | with_reducible refine Acts.foldl ?_ (fun _ _ _ => ?_))
    | split
    | with_reducible exact SchedOk.keep_caughtUp _ _
    | (exact fun _ => rfl)
    | (intro k; rw [List.length_map]; exact k)
    | (exact fun h => Mem.wf_writeBytes _ _ h)
    | (exact fun h => Mem.wf_write _ _ h)
    | (intro _; exact Nat.zero_le _)
    | with_reducible with_reducible exact fun h => h
    | (intro h; rw [modAt_length]; exact h))

theorem execComputeWindowEnd_acts {F : List Part} {S : State} (batch : Nat) {s : State} (h : Acts F S s)
    (hs : subParts [.regs, .dial, .sched, .ports, .front, .flow, .endpoint, .queue, .pipe, .power, .observe, .pins, .noticeSeq] F = true) : ActsNext F S (execComputeWindowEnd batch s) := by
  refine ActsNext.step h ?_ hs
  unfold execComputeWindowEnd
  repeat' (first
    | with_reducible assumption
    | decide
    | with_reducible exact Acts.refl _ _
    | with_reducible refine advance_acts _ ?_ ?_
    | with_reducible refine modBatch_acts _ _ ?_ ?_
    | with_reducible refine batchLate_acts _ ?_ ?_
    | with_reducible refine Acts.iteStep ?_ (fun _ => ?_)
    | with_reducible refine Acts.foldl ?_ (fun _ _ _ => ?_)
    | with_reducible refine ActsNext.next ?_
    | with_reducible refine ActsNext.ite ?_ ?_
    | dsimp -proj only
    | split)

theorem execCatchupEnd_acts {F : List Part} {S : State}  {s : State} (h : Acts F S s)
    (hs : subParts [.sched] F = true) : ActsNext F S (execCatchupEnd s) := by
  refine ActsNext.step h ?_ hs
  unfold execCatchupEnd
  repeat' (first
    | with_reducible assumption
    | decide
    | with_reducible exact Acts.refl _ _
    | with_reducible refine Acts.iteStep ?_ (fun _ => ?_)
    | with_reducible refine Acts.foldl ?_ (fun _ _ _ => ?_)
    | with_reducible refine ActsNext.next ?_
    | with_reducible refine ActsNext.ite ?_ ?_
    | dsimp -proj only
    | (with_reducible refine Acts.set_sched ?_ ?_ ?_; first | with_reducible assumption | with_reducible exact Acts.refl _ _ | with_reducible refine Acts.iteStep ?_ (fun _ => ?_) | with_reducible refine Acts.foldl ?_ (fun _ _ _ => ?_) | with_reducible refine ActsNext.next ?_ | with_reducible refine ActsNext.ite ?_ ?_)
    | split
    | with_reducible exact SchedOk.keep_caughtUp _ _
    | (exact fun _ => rfl)
    | (intro k; rw [List.length_map]; exact k)
    | (exact fun h => Mem.wf_writeBytes _ _ h)
    | (exact fun h => Mem.wf_write _ _ h)
    | (intro _; exact Nat.zero_le _)
    | with_reducible with_reducible exact fun h => h
    | (intro h; rw [modAt_length]; exact h))

end Sys2Proof.Machine
end

