-- ==== Sys2Proof/Laws/ActsCapture.lean ====
section
/-! SUPPORT. What each operation of Machine/Capture.lean may touch, and that it keeps the invariant. -/

namespace Sys2Proof.Machine

theorem clientIndex_acts {F : List Part} {S : State} (c : Client) {s : State} (h : Acts F S s)
    (hs : subParts [.fresh] F = true) : Acts F S (clientIndex s c).1 := by
  refine Acts.step h ?_ hs
  unfold clientIndex
  repeat' (first
    | with_reducible assumption
    | decide
    | with_reducible exact Acts.refl _ _
    | with_reducible refine draw_acts  ?_ ?_
    | with_reducible refine Acts.iteStep ?_ (fun _ => ?_)
    | with_reducible refine Acts.foldl ?_ (fun _ _ _ => ?_)
    | with_reducible refine Acts.fstIte ?_ ?_
    | with_reducible refine Acts.sndIte ?_ ?_
    | with_reducible refine Acts.ofSnd (by assumption) ?_
    | dsimp -proj only
    | (with_reducible refine Acts.fstMk ?_; first | with_reducible assumption | with_reducible exact Acts.refl _ _ | with_reducible refine draw_acts  ?_ ?_ | with_reducible refine Acts.iteStep ?_ (fun _ => ?_) | with_reducible refine Acts.foldl ?_ (fun _ _ _ => ?_) | with_reducible refine Acts.fstIte ?_ ?_ | with_reducible refine Acts.sndIte ?_ ?_ | with_reducible refine Acts.ofSnd (by assumption) ?_)
    | (with_reducible refine Acts.sndMk ?_; first | with_reducible assumption | with_reducible exact Acts.refl _ _ | with_reducible refine draw_acts  ?_ ?_ | with_reducible refine Acts.iteStep ?_ (fun _ => ?_) | with_reducible refine Acts.foldl ?_ (fun _ _ _ => ?_) | with_reducible refine Acts.fstIte ?_ ?_ | with_reducible refine Acts.sndIte ?_ ?_ | with_reducible refine Acts.ofSnd (by assumption) ?_)
    | split)

theorem dropCapture_acts {F : List Part} {S : State} (c : Client) {s : State} (h : Acts F S s)
    (hs : subParts [.regs, .queue, .observe, .noticeSeq, .fresh] F = true) : Acts F S (dropCapture s c) := by
  refine Acts.step h ?_ hs
  unfold dropCapture
  repeat' (first
    | with_reducible assumption
    | decide
    | with_reducible exact Acts.refl _ _
    | with_reducible refine clientIndex_acts _ ?_ ?_
    | with_reducible refine raise_acts _ _ ?_ ?_
    | with_reducible refine bump_acts _ _ ?_ ?_
    | with_reducible refine Acts.iteStep ?_ (fun _ => ?_)
    | with_reducible refine Acts.foldl ?_ (fun _ _ _ => ?_)
    | with_reducible refine Acts.fstIte ?_ ?_
    | with_reducible refine Acts.ofFst (by assumption) ?_
    | dsimp -proj only
    | (with_reducible refine Acts.fstMk ?_; first | with_reducible assumption | with_reducible exact Acts.refl _ _ | with_reducible refine clientIndex_acts _ ?_ ?_ | with_reducible refine raise_acts _ _ ?_ ?_ | with_reducible refine bump_acts _ _ ?_ ?_ | with_reducible refine Acts.iteStep ?_ (fun _ => ?_) | with_reducible refine Acts.foldl ?_ (fun _ _ _ => ?_) | with_reducible refine Acts.fstIte ?_ ?_ | with_reducible refine Acts.ofFst (by assumption) ?_)
    | split)

theorem modCapture_acts {F : List Part} {S : State} (i : Nat) (f : CaptureRun → CaptureRun) {s : State} (h : Acts F S s)
    (hs : subParts [.crown] F = true) : Acts F S (modCapture s i f) := by
  refine Acts.step h ?_ hs
  unfold modCapture
  repeat' (first
    | with_reducible assumption
    | decide
    | with_reducible exact Acts.refl _ _
    | with_reducible refine Acts.iteStep ?_ (fun _ => ?_)
    | with_reducible refine Acts.foldl ?_ (fun _ _ _ => ?_)
    | dsimp -proj only
    | (with_reducible refine Acts.set_crown ?_ ?_ ?_; first | with_reducible assumption | with_reducible exact Acts.refl _ _ | with_reducible refine Acts.iteStep ?_ (fun _ => ?_) | with_reducible refine Acts.foldl ?_ (fun _ _ _ => ?_))
    | split
    | with_reducible exact CrownOk.keep_captures _ _
    | (exact fun _ => rfl)
    | (intro k; rw [List.length_map]; exact k)
    | (exact fun h => Mem.wf_writeBytes _ _ h)
    | (exact fun h => Mem.wf_write _ _ h)
    | (intro _; exact Nat.zero_le _)
    | with_reducible with_reducible exact fun h => h
    | (intro h; rw [modAt_length]; exact h))

theorem flushCapture_acts {F : List Part} {S : State} (i : Nat) {s : State} (h : Acts F S s)
    (hs : subParts [.regs, .ports, .queue, .pipe, .crown, .observe, .noticeSeq] F = true) : Acts F S (flushCapture s i) := by
  refine Acts.step h ?_ hs
  unfold flushCapture
  repeat' (first
    | with_reducible assumption
    | decide
    | with_reducible exact Acts.refl _ _
    | with_reducible refine modCapture_acts _ _ ?_ ?_
    | with_reducible refine enqueue_acts _ _ _ ?_ ?_
    | with_reducible refine Acts.iteStep ?_ (fun _ => ?_)
    | with_reducible refine Acts.foldl ?_ (fun _ _ _ => ?_)
    | with_reducible refine Acts.fstIte ?_ ?_
    | with_reducible refine Acts.ofFst (by assumption) ?_
    | dsimp -proj only
    | (with_reducible refine Acts.fstMk ?_; first | with_reducible assumption | with_reducible exact Acts.refl _ _ | with_reducible refine modCapture_acts _ _ ?_ ?_ | with_reducible refine enqueue_acts _ _ _ ?_ ?_ | with_reducible refine Acts.iteStep ?_ (fun _ => ?_) | with_reducible refine Acts.foldl ?_ (fun _ _ _ => ?_) | with_reducible refine Acts.fstIte ?_ ?_ | with_reducible refine Acts.ofFst (by assumption) ?_)
    | split)

theorem flushCaptures_acts {F : List Part} {S : State}  {s : State} (h : Acts F S s)
    (hs : subParts [.regs, .ports, .queue, .pipe, .crown, .observe, .noticeSeq] F = true) : Acts F S (flushCaptures s) := by
  refine Acts.step h ?_ hs
  unfold flushCaptures
  repeat' (first
    | with_reducible assumption
    | decide
    | with_reducible exact Acts.refl _ _
    | with_reducible refine flushCapture_acts _ ?_ ?_
    | with_reducible refine Acts.iteStep ?_ (fun _ => ?_)
    | with_reducible refine Acts.foldl ?_ (fun _ _ _ => ?_)
    | dsimp -proj only
    | split)

theorem offerItem_acts {F : List Part} {S : State} (i : Nat) (item : Nat) {s : State} (h : Acts F S s)
    (hs : subParts [.regs, .ports, .queue, .pipe, .crown, .observe, .noticeSeq, .fresh] F = true) : Acts F S (offerItem s i item) := by
  refine Acts.step h ?_ hs
  unfold offerItem
  repeat' (first
    | with_reducible assumption
    | decide
    | with_reducible exact Acts.refl _ _
    | with_reducible refine modCapture_acts _ _ ?_ ?_
    | with_reducible refine dropCapture_acts _ ?_ ?_
    | with_reducible refine enqueue_acts _ _ _ ?_ ?_
    | with_reducible refine Acts.iteStep ?_ (fun _ => ?_)
    | with_reducible refine Acts.foldl ?_ (fun _ _ _ => ?_)
    | with_reducible refine Acts.fstIte ?_ ?_
    | with_reducible refine Acts.ofFst (by assumption) ?_
    | dsimp -proj only
    | (with_reducible refine Acts.fstMk ?_; first | with_reducible assumption | with_reducible exact Acts.refl _ _ | with_reducible refine modCapture_acts _ _ ?_ ?_ | with_reducible refine dropCapture_acts _ ?_ ?_ | with_reducible refine enqueue_acts _ _ _ ?_ ?_ | with_reducible refine Acts.iteStep ?_ (fun _ => ?_) | with_reducible refine Acts.foldl ?_ (fun _ _ _ => ?_) | with_reducible refine Acts.fstIte ?_ ?_ | with_reducible refine Acts.ofFst (by assumption) ?_)
    | split)

theorem offerCapture_acts {F : List Part} {S : State} (batch : Nat) (h0 : Head) (record : Nat) {s : State} (h : Acts F S s)
    (hs : subParts [.regs, .ports, .queue, .pipe, .crown, .observe, .noticeSeq, .fresh] F = true) : Acts F S (offerCapture s batch h0 record) := by
  refine Acts.step h ?_ hs
  unfold offerCapture
  repeat' (first
    | with_reducible assumption
    | decide
    | with_reducible exact Acts.refl _ _
    | with_reducible refine offerItem_acts _ _ ?_ ?_
    | with_reducible refine flushCapture_acts _ ?_ ?_
    | with_reducible refine Acts.iteStep ?_ (fun _ => ?_)
    | with_reducible refine Acts.foldl ?_ (fun _ _ _ => ?_)
    | dsimp -proj only
    | split)

end Sys2Proof.Machine
end

