-- ==== Sys2Proof/Laws/ActsReturn.lean ====
section
/-! SUPPORT. What each operation of Machine/Return.lean may touch, and that it keeps the invariant. -/

namespace Sys2Proof.Machine

theorem takeHeld_acts {F : List Part} {S : State} (batch : Nat) (h0 : Head) {s : State} (h : Acts F S s)
    (hs : subParts [.regs, .sched, .ports, .queue, .pipe, .observe, .log, .noticeSeq] F = true) : Acts F S (takeHeld s batch h0).1 := by
  refine Acts.step h ?_ hs
  unfold takeHeld
  repeat' (first
    | with_reducible assumption
    | decide
    | with_reducible exact Acts.refl _ _
    | with_reducible refine dequeue_acts _ ?_ ?_
    | with_reducible refine bump_acts _ _ ?_ ?_
    | with_reducible refine Acts.iteStep ?_ (fun _ => ?_)
    | with_reducible refine Acts.foldl ?_ (fun _ _ _ => ?_)
    | with_reducible refine Acts.fstIte ?_ ?_
    | with_reducible refine Acts.ofFst (by assumption) ?_
    | dsimp -proj only
    | (with_reducible refine Acts.fstMk ?_; first | with_reducible assumption | with_reducible exact Acts.refl _ _ | with_reducible refine dequeue_acts _ ?_ ?_ | with_reducible refine bump_acts _ _ ?_ ?_ | with_reducible refine Acts.iteStep ?_ (fun _ => ?_) | with_reducible refine Acts.foldl ?_ (fun _ _ _ => ?_) | with_reducible refine Acts.fstIte ?_ ?_ | with_reducible refine Acts.ofFst (by assumption) ?_)
    | split)

theorem countDefault_acts {F : List Part} {S : State} (b : Batch) (h0 : Head) {s : State} (h : Acts F S s)
    (hs : subParts [.regs] F = true) : Acts F S (countDefault s b h0) := by
  refine Acts.step h ?_ hs
  unfold countDefault
  repeat' (first
    | with_reducible assumption
    | decide
    | with_reducible exact Acts.refl _ _
    | with_reducible refine bump_acts _ _ ?_ ?_
    | with_reducible refine Acts.iteStep ?_ (fun _ => ?_)
    | with_reducible refine Acts.foldl ?_ (fun _ _ _ => ?_)
    | dsimp -proj only
    | split)

theorem portRecords_acts {F : List Part} {S : State} (batch : Nat) (b : Batch) (v1 : Bool) (l : List Head) {s : State} (h : Acts F S s)
    (hs : subParts [.regs, .sched, .ports, .queue, .pipe, .crown, .observe, .log, .noticeSeq, .fresh] F = true) : Acts F S (portRecords batch b v1 l s).1 := by
  refine Acts.step h ?_ hs
  clear h
  induction l generalizing s with
  | nil => unfold portRecords; exact Acts.refl _ _
  | cons x l ih =>
    unfold portRecords
    dsimp only
    have e := takeHeld_acts (F := [.regs, .sched, .ports, .queue, .pipe, .crown, .observe, .log, .noticeSeq, .fresh]) batch x (countDefault_acts b x (Acts.refl _ s) (by decide)) (by decide)
    split
    · exact Acts.trans (offerCapture_acts _ _ _ e (by decide)) ih
    · exact Acts.trans e ih


theorem writeItems_acts {F : List Part} {S : State} (p : Nat) (l : List (List Nat)) (n : Nat) {s : State} (h : Acts F S s)
    (hs : subParts [.regs, .ports, .queue, .pipe, .observe, .noticeSeq] F = true) : Acts F S (writeItems p l (s, n)).1 := by
  refine Acts.step h ?_ hs
  clear h
  induction l generalizing s n with
  | nil => exact Acts.refl _ _
  | cons x l ih =>
    unfold writeItems
    have e := enqueueDataPath_acts (F := [.regs, .ports, .queue, .pipe, .observe, .noticeSeq]) (orderedQueue p) (verdictItem x) x.length (Acts.refl _ s) (by decide)
    split
    · next heq => rw [heq] at e; exact Acts.trans e (ih _)
    · next heq => rw [heq] at e; exact Acts.trans e (ih _)
    · next heq => rw [heq] at e; exact Acts.trans e (ih _)


theorem writeBundle_acts {F : List Part} {S : State} (p : Nat) (batch : Nat) (records : List Nat) (last : Bool) {s : State} (h : Acts F S s)
    (hs : subParts [.regs, .ports, .queue, .pipe, .observe, .noticeSeq] F = true) : Acts F S (writeBundle p batch s records last) := by
  refine Acts.step h ?_ hs
  unfold writeBundle
  repeat' (first
    | with_reducible assumption
    | decide
    | with_reducible exact Acts.refl _ _
    | with_reducible refine writeItems_acts _ _ _ ?_ ?_
    | with_reducible refine Acts.iteStep ?_ (fun _ => ?_)
    | with_reducible refine Acts.foldl ?_ (fun _ _ _ => ?_)
    | dsimp -proj only
    | (with_reducible refine Acts.set_ports ?_ ?_ ?_; first | with_reducible assumption | with_reducible exact Acts.refl _ _ | with_reducible refine writeItems_acts _ _ _ ?_ ?_ | with_reducible refine Acts.iteStep ?_ (fun _ => ?_) | with_reducible refine Acts.foldl ?_ (fun _ _ _ => ?_))
    | split
    | (generalize State.ports _ = y; intro h; simpa only [PortsOk, modAt_length, List.length_map, List.length_zipIdx] using h)
    | (exact fun _ => rfl)
    | (intro k; rw [List.length_map]; exact k)
    | (exact fun h => Mem.wf_writeBytes _ _ h)
    | (exact fun h => Mem.wf_write _ _ h)
    | (intro _; exact Nat.zero_le _)
    | with_reducible with_reducible exact fun h => h
    | (intro h; rw [modAt_length]; exact h))

theorem writeBundles_acts {F : List Part} {S : State} (p batch : Nat) (l : List (List Nat)) {s : State} (h : Acts F S s)
    (hs : subParts [.regs, .ports, .queue, .pipe, .observe, .noticeSeq] F = true) : Acts F S (writeBundles p batch l s) := by
  refine Acts.step h ?_ hs
  clear h
  induction l generalizing s with
  | nil => exact Acts.refl _ _
  | cons x l ih =>
    cases l with
    | nil => exact writeBundle_acts _ _ _ _ (Acts.refl _ _) (by decide)
    | cons y l => exact Acts.trans (writeBundle_acts _ _ _ _ (Acts.refl _ _) (by decide)) ih


theorem returnPort_acts {F : List Part} {S : State} (batch : Nat) (p : Nat) {s : State} (h : Acts F S s)
    (hs : subParts [.regs, .sched, .ports, .queue, .pipe, .crown, .observe, .log, .noticeSeq, .fresh] F = true) : Acts F S (returnPort batch s p) := by
  refine Acts.step h ?_ hs
  unfold returnPort
  repeat' (first
    | with_reducible assumption
    | decide
    | with_reducible exact Acts.refl _ _
    | with_reducible refine portRecords_acts _ _ _ _ ?_ ?_
    | with_reducible refine modBatch_acts _ _ ?_ ?_
    | with_reducible refine writeBundles_acts _ _ _ ?_ ?_
    | with_reducible refine Acts.iteStep ?_ (fun _ => ?_)
    | with_reducible refine Acts.foldl ?_ (fun _ _ _ => ?_)
    | with_reducible refine Acts.fstIte ?_ ?_
    | with_reducible refine Acts.ofFst (by assumption) ?_
    | dsimp -proj only
    | (with_reducible refine Acts.set_ports ?_ ?_ ?_; first | with_reducible assumption | with_reducible exact Acts.refl _ _ | with_reducible refine portRecords_acts _ _ _ _ ?_ ?_ | with_reducible refine modBatch_acts _ _ ?_ ?_ | with_reducible refine writeBundles_acts _ _ _ ?_ ?_ | with_reducible refine Acts.iteStep ?_ (fun _ => ?_) | with_reducible refine Acts.foldl ?_ (fun _ _ _ => ?_) | with_reducible refine Acts.fstIte ?_ ?_ | with_reducible refine Acts.ofFst (by assumption) ?_)
    | (with_reducible refine Acts.fstMk ?_; first | with_reducible assumption | with_reducible exact Acts.refl _ _ | with_reducible refine portRecords_acts _ _ _ _ ?_ ?_ | with_reducible refine modBatch_acts _ _ ?_ ?_ | with_reducible refine writeBundles_acts _ _ _ ?_ ?_ | with_reducible refine Acts.iteStep ?_ (fun _ => ?_) | with_reducible refine Acts.foldl ?_ (fun _ _ _ => ?_) | with_reducible refine Acts.fstIte ?_ ?_ | with_reducible refine Acts.ofFst (by assumption) ?_ | (with_reducible refine Acts.set_ports ?_ ?_ ?_; first | with_reducible assumption | with_reducible exact Acts.refl _ _ | with_reducible refine portRecords_acts _ _ _ _ ?_ ?_ | with_reducible refine modBatch_acts _ _ ?_ ?_ | with_reducible refine writeBundles_acts _ _ _ ?_ ?_ | with_reducible refine Acts.iteStep ?_ (fun _ => ?_) | with_reducible refine Acts.foldl ?_ (fun _ _ _ => ?_) | with_reducible refine Acts.fstIte ?_ ?_ | with_reducible refine Acts.ofFst (by assumption) ?_))
    | split
    | (generalize State.ports _ = y; intro h; simpa only [PortsOk, modAt_length, List.length_map, List.length_zipIdx] using h)
    | (exact fun _ => rfl)
    | (intro k; rw [List.length_map]; exact k)
    | (exact fun h => Mem.wf_writeBytes _ _ h)
    | (exact fun h => Mem.wf_write _ _ h)
    | (intro _; exact Nat.zero_le _)
    | with_reducible with_reducible exact fun h => h
    | (intro h; rw [modAt_length]; exact h))

theorem mapFault_acts {F : List Part} {S : State} (f : Sys2Proof.FaultEv) {s : State} (h : Acts F S s)
    (hs : subParts [.regs, .sched, .front, .flow, .endpoint, .queue, .pipe, .observe, .log, .hbm, .noticeSeq] F = true) : Acts F S (mapFault s f) := by
  refine Acts.step h ?_ hs
  unfold mapFault
  repeat' (first
    | with_reducible assumption
    | decide
    | with_reducible exact Acts.refl _ _
    | with_reducible refine faultFound_acts _ _ _ _ ?_ ?_
    | with_reducible refine frontError_acts _ ?_ ?_
    | with_reducible refine structureFault_acts _ ?_ ?_
    | with_reducible refine Acts.iteStep ?_ (fun _ => ?_)
    | with_reducible refine Acts.foldl ?_ (fun _ _ _ => ?_)
    | dsimp -proj only
    | split)

theorem traceBatch_acts {F : List Part} {S : State} (b : Batch) {s : State} (h : Acts F S s)
    (hs : subParts [.regs, .queue, .observe, .noticeSeq] F = true) : Acts F S (traceBatch s b) := by
  refine Acts.step h ?_ hs
  unfold traceBatch
  repeat' (first
    | with_reducible assumption
    | decide
    | with_reducible exact Acts.refl _ _
    | with_reducible refine trace_acts _ _ _ ?_ ?_
    | with_reducible refine Acts.iteStep ?_ (fun _ => ?_)
    | with_reducible refine Acts.foldl ?_ (fun _ _ _ => ?_)
    | dsimp -proj only
    | split)

theorem endReturn_acts {F : List Part} {S : State} (batch : Nat) {s : State} (h : Acts F S s)
    (hs : subParts [.regs, .queue, .pipe, .observe, .noticeSeq] F = true) : Acts F S (endReturn s batch) := by
  refine Acts.step h ?_ hs
  unfold endReturn
  repeat' (first
    | with_reducible assumption
    | decide
    | with_reducible exact Acts.refl _ _
    | with_reducible refine closeDataPath_acts  ?_ ?_
    | with_reducible refine modBatch_acts _ _ ?_ ?_
    | with_reducible refine traceBatch_acts _ ?_ ?_
    | with_reducible refine Acts.iteStep ?_ (fun _ => ?_)
    | with_reducible refine Acts.foldl ?_ (fun _ _ _ => ?_)
    | dsimp -proj only
    | split)

theorem execReturnWindowStart_acts {F : List Part} {S : State} (batch : Nat) (faults : List Sys2Proof.FaultEv) {s : State} (h : Acts F S s)
    (hs : subParts [.regs, .sched, .ports, .front, .flow, .endpoint, .queue, .pipe, .crown, .observe, .log, .hbm, .noticeSeq, .fresh] F = true) : ActsNext F S (execReturnWindowStart batch faults s) := by
  refine ActsNext.step h ?_ hs
  unfold execReturnWindowStart
  repeat' (first
    | with_reducible assumption
    | decide
    | with_reducible exact Acts.refl _ _
    | with_reducible refine mapFault_acts _ ?_ ?_
    | with_reducible refine endReturn_acts _ ?_ ?_
    | with_reducible refine returnPort_acts _ _ ?_ ?_
    | with_reducible refine Acts.iteStep ?_ (fun _ => ?_)
    | with_reducible refine Acts.foldl ?_ (fun _ _ _ => ?_)
    | with_reducible refine ActsNext.next ?_
    | with_reducible refine ActsNext.ite ?_ ?_
    | dsimp -proj only
    | split)

end Sys2Proof.Machine
end

