-- ==== Sys2Proof/Laws/ActsPeer.lean ====
section
/-! SUPPORT. What each operation of Machine/Peer.lean may touch, and that it keeps the invariant. -/

namespace Sys2Proof.Machine

theorem modLink_acts {F : List Part} {S : State} (j : Nat) (f : LinkSt → LinkSt) {s : State} (h : Acts F S s)
    (hs : subParts [.peer] F = true) : Acts F S (modLink s j f) := by
  refine Acts.step h ?_ hs
  unfold modLink
  repeat' (first
    | with_reducible assumption
    | decide
    | with_reducible exact Acts.refl _ _
    | with_reducible refine Acts.iteStep ?_ (fun _ => ?_)
    | with_reducible refine Acts.foldl ?_ (fun _ _ _ => ?_)
    | dsimp -proj only
    | (with_reducible refine Acts.set_peer ?_ ?_ ?_; first | with_reducible assumption | with_reducible exact Acts.refl _ _ | with_reducible refine Acts.iteStep ?_ (fun _ => ?_) | with_reducible refine Acts.foldl ?_ (fun _ _ _ => ?_))
    | split
    | with_reducible refine PeerOk.keep_links _ _ ?_
    | (intro h; simpa only [modAt_length, List.length_map, List.length_zipIdx] using h)
    | (exact fun _ => rfl)
    | (intro k; rw [List.length_map]; exact k)
    | (exact fun h => Mem.wf_writeBytes _ _ h)
    | (exact fun h => Mem.wf_write _ _ h)
    | (intro _; exact Nat.zero_le _)
    | with_reducible with_reducible exact fun h => h
    | (intro h; rw [modAt_length]; exact h))

theorem lastSent_acts {F : List Part} {S : State} (h0 : PeerHdr) {s : State} (h : Acts F S s)
    (hs : subParts [.peer] F = true) : Acts F S (lastSent s h0) := by
  refine Acts.step h ?_ hs
  unfold lastSent
  repeat' (first
    | with_reducible assumption
    | decide
    | with_reducible exact Acts.refl _ _
    | with_reducible refine Acts.iteStep ?_ (fun _ => ?_)
    | with_reducible refine Acts.foldl ?_ (fun _ _ _ => ?_)
    | dsimp -proj only
    | (with_reducible refine Acts.set_peer ?_ ?_ ?_; first | with_reducible assumption | with_reducible exact Acts.refl _ _ | with_reducible refine Acts.iteStep ?_ (fun _ => ?_) | with_reducible refine Acts.foldl ?_ (fun _ _ _ => ?_))
    | (with_reducible refine Acts.set_peer ?_ ?_ ?_; first | with_reducible assumption | with_reducible exact Acts.refl _ _ | with_reducible refine Acts.iteStep ?_ (fun _ => ?_) | with_reducible refine Acts.foldl ?_ (fun _ _ _ => ?_) | (with_reducible refine Acts.set_peer ?_ ?_ ?_; first | with_reducible assumption | with_reducible exact Acts.refl _ _ | with_reducible refine Acts.iteStep ?_ (fun _ => ?_) | with_reducible refine Acts.foldl ?_ (fun _ _ _ => ?_)))
    | split
    | with_reducible exact PeerOk.keep_relays _ _
    | with_reducible exact PeerOk.keep_distTx _ _
    | (exact fun _ => rfl)
    | (intro k; rw [List.length_map]; exact k)
    | (exact fun h => Mem.wf_writeBytes _ _ h)
    | (exact fun h => Mem.wf_write _ _ h)
    | (intro _; exact Nat.zero_le _)
    | with_reducible with_reducible exact fun h => h
    | (intro h; rw [modAt_length]; exact h))

theorem transmit_acts {F : List Part} {S : State} (j : Nat) (f : Sys2Proof.Bytes) {s : State} (h : Acts F S s)
    (hs : subParts [.regs, .queue, .peer, .observe, .out, .noticeSeq] F = true) : Acts F S (transmit s j f) := by
  refine Acts.step h ?_ hs
  unfold transmit
  repeat' (first
    | with_reducible assumption
    | decide
    | with_reducible exact Acts.refl _ _
    | with_reducible refine modLink_acts _ _ ?_ ?_
    | with_reducible refine lastSent_acts _ ?_ ?_
    | with_reducible refine emit_acts _ ?_ ?_
    | with_reducible refine trace_acts _ _ _ ?_ ?_
    | with_reducible refine Acts.iteStep ?_ (fun _ => ?_)
    | with_reducible refine Acts.foldl ?_ (fun _ _ _ => ?_)
    | dsimp -proj only
    | split)

theorem returnCredit_acts {F : List Part} {S : State} (j : Nat) (key : Nat) {s : State} (h : Acts F S s)
    (hs : subParts [.regs, .queue, .peer, .observe, .out, .noticeSeq] F = true) : Acts F S (returnCredit s j key) := by
  refine Acts.step h ?_ hs
  unfold returnCredit
  repeat' (first
    | with_reducible assumption
    | decide
    | with_reducible exact Acts.refl _ _
    | with_reducible refine transmit_acts _ _ ?_ ?_
    | with_reducible refine Acts.iteStep ?_ (fun _ => ?_)
    | with_reducible refine Acts.foldl ?_ (fun _ _ _ => ?_)
    | dsimp -proj only
    | split)

theorem takeCredit_acts {F : List Part} {S : State} (j : Nat) (key : Nat) (f : Sys2Proof.Bytes) (held : Option (Nat × Nat)) {s : State} (h : Acts F S s)
    (hs : subParts [.regs, .queue, .power, .peer, .observe, .out, .noticeSeq] F = true) : Acts F S (takeCredit s j key f held) := by
  refine Acts.step h ?_ hs
  unfold takeCredit
  repeat' (first
    | with_reducible assumption
    | decide
    | with_reducible exact Acts.refl _ _
    | with_reducible refine moveBulk_acts _ _ ?_ ?_
    | with_reducible refine modLink_acts _ _ ?_ ?_
    | with_reducible refine transmit_acts _ _ ?_ ?_
    | with_reducible refine returnCredit_acts _ _ ?_ ?_
    | with_reducible refine Acts.iteStep ?_ (fun _ => ?_)
    | with_reducible refine Acts.foldl ?_ (fun _ _ _ => ?_)
    | dsimp -proj only
    | split)

theorem offerFrame_acts {F : List Part} {S : State} (j : Nat) (f : Sys2Proof.Bytes) (held : Option (Nat × Nat)) {s : State} (h : Acts F S s)
    (hs : subParts [.regs, .queue, .power, .peer, .observe, .out, .noticeSeq] F = true) : Acts F S (offerFrame s j f held) := by
  refine Acts.step h ?_ hs
  unfold offerFrame
  repeat' (first
    | with_reducible assumption
    | decide
    | with_reducible exact Acts.refl _ _
    | with_reducible refine takeCredit_acts _ _ _ _ ?_ ?_
    | with_reducible refine modLink_acts _ _ ?_ ?_
    | with_reducible refine Acts.iteStep ?_ (fun _ => ?_)
    | with_reducible refine Acts.foldl ?_ (fun _ _ _ => ?_)
    | dsimp -proj only
    | split)

theorem pump_acts {F : List Part} {S : State} (n j : Nat) {s : State} (h : Acts F S s)
    (hs : subParts [.regs, .queue, .power, .peer, .observe, .out, .noticeSeq] F = true) : Acts F S (pump n s j) := by
  refine Acts.step h ?_ hs
  clear h
  induction n generalizing s with
  | zero => exact Acts.refl _ _
  | succ n ih =>
    unfold pump
    split
    · exact Acts.refl _ _
    · split
      · exact Acts.refl _ _
      · exact Acts.trans (takeCredit_acts _ _ _ _ (modLink_acts _ _ (Acts.refl _ _) (by decide)) (by decide)) ih


theorem refreshLink_acts {F : List Part} {S : State} (j : Nat) {s : State} (h : Acts F S s)
    (hs : subParts [.regs, .queue, .power, .peer, .observe, .out, .noticeSeq] F = true) : Acts F S (refreshLink s j) := by
  refine Acts.step h ?_ hs
  unfold refreshLink
  repeat' (first
    | with_reducible assumption
    | decide
    | with_reducible exact Acts.refl _ _
    | with_reducible refine wrB_acts _ _ ?_ ?_
    | with_reducible refine modLink_acts _ _ ?_ ?_
    | with_reducible refine pump_acts _ _ ?_ ?_
    | with_reducible refine raise_acts _ _ ?_ ?_
    | with_reducible refine linkDown_acts _ ?_ ?_
    | with_reducible refine Acts.iteStep ?_ (fun _ => ?_)
    | with_reducible refine Acts.foldl ?_ (fun _ _ _ => ?_)
    | dsimp -proj only
    | split)

theorem linkAligned_acts {F : List Part} {S : State} (j : Nat) (base : Nat) (n : Nat) {s : State} (h : Acts F S s)
    (hs : subParts [.regs, .queue, .power, .peer, .observe, .out, .noticeSeq] F = true) : Acts F S (linkAligned s j base n) := by
  refine Acts.step h ?_ hs
  unfold linkAligned
  repeat' (first
    | with_reducible assumption
    | decide
    | with_reducible exact Acts.refl _ _
    | with_reducible refine refreshLink_acts _ ?_ ?_
    | with_reducible refine wr_acts _ _ ?_ ?_
    | with_reducible refine modLink_acts _ _ ?_ ?_
    | with_reducible refine Acts.iteStep ?_ (fun _ => ?_)
    | with_reducible refine Acts.foldl ?_ (fun _ _ _ => ?_)
    | dsimp -proj only
    | split)

theorem linkLost_acts {F : List Part} {S : State} (j : Nat) {s : State} (h : Acts F S s)
    (hs : subParts [.regs, .queue, .peer, .observe, .noticeSeq] F = true) : Acts F S (linkLost s j) := by
  refine Acts.step h ?_ hs
  unfold linkLost
  repeat' (first
    | with_reducible assumption
    | decide
    | with_reducible exact Acts.refl _ _
    | with_reducible refine modLink_acts _ _ ?_ ?_
    | with_reducible refine linkDown_acts _ ?_ ?_
    | with_reducible refine wr_acts _ _ ?_ ?_
    | with_reducible refine Acts.iteStep ?_ (fun _ => ?_)
    | with_reducible refine Acts.foldl ?_ (fun _ _ _ => ?_)
    | dsimp -proj only
    | split)

theorem execHelloSend_acts {F : List Part} {S : State}  {s : State} (h : Acts F S s)
    (hs : subParts [.regs, .queue, .peer, .observe, .out, .noticeSeq] F = true) : ActsNext F S (execHelloSend s) := by
  refine ActsNext.step h ?_ hs
  unfold execHelloSend
  repeat' (first
    | with_reducible assumption
    | decide
    | with_reducible exact Acts.refl _ _
    | with_reducible refine transmit_acts _ _ ?_ ?_
    | with_reducible refine Acts.iteStep ?_ (fun _ => ?_)
    | with_reducible refine Acts.foldl ?_ (fun _ _ _ => ?_)
    | with_reducible refine ActsNext.next ?_
    | with_reducible refine ActsNext.ite ?_ ?_
    | dsimp -proj only
    | split)

theorem acceptFrame_acts {F : List Part} {S : State} (j : Nat) (f : Sys2Proof.Bytes) (kind : Nat) {s : State} (h : Acts F S s)
    (hs : subParts [.regs, .sched, .queue, .pipe, .peer, .observe, .log, .noticeSeq] F = true) : ActsSome F S (acceptFrame s j f kind) := by
  refine fun t e => Acts.step h ((?_ : ActsSome _ _ _) t e) hs
  unfold acceptFrame
  repeat' (first
    | with_reducible assumption
    | decide
    | with_reducible exact Acts.refl _ _
    | with_reducible refine bump_acts _ _ ?_ ?_
    | with_reducible refine faultFound_acts _ _ _ _ ?_ ?_
    | with_reducible refine modLink_acts _ _ ?_ ?_
    | with_reducible refine Acts.iteStep ?_ (fun _ => ?_)
    | with_reducible refine Acts.foldl ?_ (fun _ _ _ => ?_)
    | exact ActsSome.none
    | with_reducible refine ActsSome.some ?_
    | with_reducible refine ActsSome.ite ?_ ?_
    | dsimp -proj only
    | split)

theorem dropStranger_acts {F : List Part} {S : State} (device : Nat) (group : Nat) {s : State} (h : Acts F S s)
    (hs : subParts [.power] F = true) : Acts F S (dropStranger s device group) := by
  refine Acts.step h ?_ hs
  unfold dropStranger
  repeat' (first
    | with_reducible assumption
    | decide
    | with_reducible exact Acts.refl _ _
    | with_reducible refine Acts.iteStep ?_ (fun _ => ?_)
    | with_reducible refine Acts.foldl ?_ (fun _ _ _ => ?_)
    | dsimp -proj only
    | (with_reducible refine Acts.set_power ?_ ?_; first | with_reducible assumption | with_reducible exact Acts.refl _ _ | with_reducible refine Acts.iteStep ?_ (fun _ => ?_) | with_reducible refine Acts.foldl ?_ (fun _ _ _ => ?_))
    | split)

theorem execHello_acts {F : List Part} {S : State} (dt : Nat) (link : Nat) (frame : Sys2Proof.Bytes) {s : State} (h : Acts F S s)
    (hs : subParts [.regs, .dial, .sched, .ports, .front, .flow, .endpoint, .queue, .pipe, .power, .peer, .observe, .log, .pins, .out, .noticeSeq] F = true) : ActsNext F S (execHello dt link frame s) := by
  refine ActsNext.step h ?_ hs
  unfold execHello
  repeat' (first
    | with_reducible assumption
    | decide
    | with_reducible exact Acts.refl _ _
    | with_reducible refine advance_acts _ ?_ ?_
    | with_reducible refine wr_acts _ _ ?_ ?_
    | with_reducible refine dropStranger_acts _ _ ?_ ?_
    | with_reducible refine modLink_acts _ _ ?_ ?_
    | with_reducible refine refreshLink_acts _ ?_ ?_
    | with_reducible refine wrB_acts _ _ ?_ ?_
    | with_reducible refine raiseIf_acts _ _ _ ?_ ?_
    | with_reducible refine Acts.iteStep ?_ (fun _ => ?_)
    | with_reducible refine Acts.foldl ?_ (fun _ _ _ => ?_)
    | with_reducible refine ActsNext.next ?_
    | with_reducible refine ActsNext.ite ?_ ?_
    | with_reducible refine Acts.ofSome (by assumption) ?_
    | with_reducible refine acceptFrame_acts _ _ _ ?_ ?_
    | dsimp -proj only
    | split)

theorem execHelloTimeout_acts {F : List Part} {S : State} (link : Nat) {s : State} (h : Acts F S s)
    (hs : subParts [.regs, .queue, .power, .peer, .observe, .out, .noticeSeq] F = true) : ActsNext F S (execHelloTimeout link s) := by
  refine ActsNext.step h ?_ hs
  unfold execHelloTimeout
  repeat' (first
    | with_reducible assumption
    | decide
    | with_reducible exact Acts.refl _ _
    | with_reducible refine refreshLink_acts _ ?_ ?_
    | with_reducible refine Acts.iteStep ?_ (fun _ => ?_)
    | with_reducible refine Acts.foldl ?_ (fun _ _ _ => ?_)
    | with_reducible refine ActsNext.next ?_
    | with_reducible refine ActsNext.ite ?_ ?_
    | dsimp -proj only
    | split)

theorem retrainLink_acts {F : List Part} {S : State} (j : Nat) {s : State} (h : Acts F S s)
    (hs : subParts [.regs, .queue, .peer, .observe, .noticeSeq] F = true) : Acts F S (retrainLink s j) := by
  refine Acts.step h ?_ hs
  unfold retrainLink
  repeat' (first
    | with_reducible assumption
    | decide
    | with_reducible exact Acts.refl _ _
    | with_reducible refine modLink_acts _ _ ?_ ?_
    | with_reducible refine linkLost_acts _ ?_ ?_
    | with_reducible refine Acts.iteStep ?_ (fun _ => ?_)
    | with_reducible refine Acts.foldl ?_ (fun _ _ _ => ?_)
    | dsimp -proj only
    | split)

theorem execPeerFrameError_acts {F : List Part} {S : State} (link : Nat) (secondFailure : Bool) {s : State} (h : Acts F S s)
    (hs : subParts [.regs, .sched, .queue, .pipe, .peer, .observe, .log, .out, .noticeSeq] F = true) : ActsNext F S (execPeerFrameError link secondFailure s) := by
  refine ActsNext.step h ?_ hs
  unfold execPeerFrameError
  repeat' (first
    | with_reducible assumption
    | decide
    | with_reducible exact Acts.refl _ _
    | with_reducible refine modLink_acts _ _ ?_ ?_
    | with_reducible refine transmit_acts _ _ ?_ ?_
    | with_reducible refine bump_acts _ _ ?_ ?_
    | with_reducible refine faultFound_acts _ _ _ _ ?_ ?_
    | with_reducible refine retrainLink_acts _ ?_ ?_
    | with_reducible refine raise_acts _ _ ?_ ?_
    | with_reducible refine Acts.iteStep ?_ (fun _ => ?_)
    | with_reducible refine Acts.foldl ?_ (fun _ _ _ => ?_)
    | with_reducible refine ActsNext.next ?_
    | with_reducible refine ActsNext.ite ?_ ?_
    | dsimp -proj only
    | split)

theorem execNak_acts {F : List Part} {S : State} (link : Nat) (frame : Sys2Proof.Bytes) {s : State} (h : Acts F S s)
    (hs : subParts [.regs, .sched, .queue, .pipe, .peer, .observe, .log, .out, .noticeSeq] F = true) : ActsNext F S (execNak link frame s) := by
  refine ActsNext.step h ?_ hs
  unfold execNak
  repeat' (first
    | with_reducible assumption
    | decide
    | with_reducible exact Acts.refl _ _
    | with_reducible refine emit_acts _ ?_ ?_
    | with_reducible refine modLink_acts _ _ ?_ ?_
    | with_reducible refine Acts.iteStep ?_ (fun _ => ?_)
    | with_reducible refine Acts.foldl ?_ (fun _ _ _ => ?_)
    | with_reducible refine ActsNext.next ?_
    | with_reducible refine ActsNext.ite ?_ ?_
    | with_reducible refine Acts.ofSome (by assumption) ?_
    | with_reducible refine acceptFrame_acts _ _ _ ?_ ?_
    | dsimp -proj only
    | split)

theorem execCredit_acts {F : List Part} {S : State} (link : Nat) (frame : Sys2Proof.Bytes) {s : State} (h : Acts F S s)
    (hs : subParts [.regs, .sched, .queue, .pipe, .power, .peer, .observe, .log, .out, .noticeSeq] F = true) : ActsNext F S (execCredit link frame s) := by
  refine ActsNext.step h ?_ hs
  unfold execCredit
  repeat' (first
    | with_reducible assumption
    | decide
    | with_reducible exact Acts.refl _ _
    | with_reducible refine modLink_acts _ _ ?_ ?_
    | with_reducible refine pump_acts _ _ ?_ ?_
    | with_reducible refine Acts.iteStep ?_ (fun _ => ?_)
    | with_reducible refine Acts.foldl ?_ (fun _ _ _ => ?_)
    | with_reducible refine ActsNext.next ?_
    | with_reducible refine ActsNext.ite ?_ ?_
    | with_reducible refine Acts.ofSome (by assumption) ?_
    | with_reducible refine acceptFrame_acts _ _ _ ?_ ?_
    | dsimp -proj only
    | split)

theorem putFrame_acts {F : List Part} {S : State} (from_ : Option Nat) (held : Option (Nat × Nat)) (j : Nat) (f : Sys2Proof.Bytes) {s : State} (h : Acts F S s)
    (hs : subParts [.regs, .queue, .power, .peer, .observe, .out, .noticeSeq] F = true) : Acts F S (putFrame s from_ held j f) := by
  refine Acts.step h ?_ hs
  unfold putFrame
  repeat' (first
    | with_reducible assumption
    | decide
    | with_reducible exact Acts.refl _ _
    | with_reducible refine offerFrame_acts _ _ _ ?_ ?_
    | with_reducible refine Acts.iteStep ?_ (fun _ => ?_)
    | with_reducible refine Acts.foldl ?_ (fun _ _ _ => ?_)
    | dsimp -proj only
    | split)

theorem sendTo_acts {F : List Part} {S : State} (h0 : PeerHdr) (payload : Sys2Proof.Bytes) {s : State} (h : Acts F S s)
    (hs : subParts [.regs, .queue, .power, .peer, .observe, .out, .noticeSeq] F = true) : ActsSome F S (sendTo s h0 payload) := by
  refine fun t e => Acts.step h ((?_ : ActsSome _ _ _) t e) hs
  unfold sendTo
  repeat' (first
    | with_reducible assumption
    | decide
    | with_reducible exact Acts.refl _ _
    | with_reducible refine putFrame_acts _ _ _ _ ?_ ?_
    | with_reducible refine Acts.iteStep ?_ (fun _ => ?_)
    | with_reducible refine Acts.foldl ?_ (fun _ _ _ => ?_)
    | exact ActsSome.none
    | with_reducible refine ActsSome.some ?_
    | with_reducible refine ActsSome.ite ?_ ?_
    | dsimp -proj only
    | split)

theorem sendOrLose_acts {F : List Part} {S : State} (h0 : PeerHdr) (payload : Sys2Proof.Bytes) {s : State} (h : Acts F S s)
    (hs : subParts [.regs, .queue, .power, .peer, .observe, .out, .noticeSeq] F = true) : Acts F S (sendOrLose s h0 payload) := by
  refine Acts.step h ?_ hs
  unfold sendOrLose
  repeat' (first
    | with_reducible assumption
    | decide
    | with_reducible exact Acts.refl _ _
    | with_reducible refine Acts.getSome ?_ ?_
    | with_reducible refine Acts.iteStep ?_ (fun _ => ?_)
    | with_reducible refine Acts.foldl ?_ (fun _ _ _ => ?_)
    | with_reducible refine Acts.ofSome (by assumption) ?_
    | with_reducible refine sendTo_acts _ _ ?_ ?_
    | dsimp -proj only
    | split)

theorem dropRoute_acts {F : List Part} {S : State}  {s : State} (h : Acts F S s)
    (hs : subParts [.regs, .queue, .observe, .noticeSeq] F = true) : Acts F S (dropRoute s) := by
  refine Acts.step h ?_ hs
  unfold dropRoute
  repeat' (first
    | with_reducible assumption
    | decide
    | with_reducible exact Acts.refl _ _
    | with_reducible refine raise_acts _ _ ?_ ?_
    | with_reducible refine bump_acts _ _ ?_ ?_
    | with_reducible refine Acts.iteStep ?_ (fun _ => ?_)
    | with_reducible refine Acts.foldl ?_ (fun _ _ _ => ?_)
    | dsimp -proj only
    | split)

theorem passOn_acts {F : List Part} {S : State} (i : Nat) (j : Nat) (held : Option (Nat × Nat)) (f : Sys2Proof.Bytes) {s : State} (h : Acts F S s)
    (hs : subParts [.regs, .queue, .power, .peer, .observe, .out, .noticeSeq] F = true) : Acts F S (passOn s i j held f) := by
  refine Acts.step h ?_ hs
  unfold passOn
  repeat' (first
    | with_reducible assumption
    | decide
    | with_reducible exact Acts.refl _ _
    | with_reducible refine putFrame_acts _ _ _ _ ?_ ?_
    | with_reducible refine bump_acts _ _ ?_ ?_
    | with_reducible refine dropRoute_acts  ?_ ?_
    | with_reducible refine returnCredit_acts _ _ ?_ ?_
    | with_reducible refine Acts.iteStep ?_ (fun _ => ?_)
    | with_reducible refine Acts.foldl ?_ (fun _ _ _ => ?_)
    | dsimp -proj only
    | split)

theorem flood_acts {F : List Part} {S : State} (h0 : PeerHdr) (payload : Sys2Proof.Bytes) {s : State} (h : Acts F S s)
    (hs : subParts [.regs, .queue, .power, .peer, .observe, .out, .noticeSeq] F = true) : Acts F S (flood s h0 payload) := by
  refine Acts.step h ?_ hs
  unfold flood
  repeat' (first
    | with_reducible assumption
    | decide
    | with_reducible exact Acts.refl _ _
    | with_reducible refine putFrame_acts _ _ _ _ ?_ ?_
    | with_reducible refine Acts.iteStep ?_ (fun _ => ?_)
    | with_reducible refine Acts.foldl ?_ (fun _ _ _ => ?_)
    | dsimp -proj only
    | split)

theorem floodOn_acts {F : List Part} {S : State} (i : Nat) (f : Sys2Proof.Bytes) {s : State} (h : Acts F S s)
    (hs : subParts [.regs, .queue, .power, .peer, .observe, .out, .noticeSeq] F = true) : Acts F S (floodOn s i f) := by
  refine Acts.step h ?_ hs
  unfold floodOn
  repeat' (first
    | with_reducible assumption
    | decide
    | with_reducible exact Acts.refl _ _
    | with_reducible refine passOn_acts _ _ _ _ ?_ ?_
    | with_reducible refine Acts.iteStep ?_ (fun _ => ?_)
    | with_reducible refine Acts.foldl ?_ (fun _ _ _ => ?_)
    | dsimp -proj only
    | split)

theorem arrive_acts {F : List Part} {S : State} (i : Nat) (f : Sys2Proof.Bytes) {s : State} (h : Acts F S s)
    (hs : subParts [.regs, .queue, .power, .peer, .observe, .out, .noticeSeq] F = true) : Acts F S (arrive s i f).1 := by
  refine Acts.step h ?_ hs
  unfold arrive
  repeat' (first
    | with_reducible assumption
    | decide
    | with_reducible exact Acts.refl _ _
    | with_reducible refine returnCredit_acts _ _ ?_ ?_
    | with_reducible refine floodOn_acts _ _ ?_ ?_
    | with_reducible refine passOn_acts _ _ _ _ ?_ ?_
    | with_reducible refine Acts.iteStep ?_ (fun _ => ?_)
    | with_reducible refine Acts.foldl ?_ (fun _ _ _ => ?_)
    | with_reducible refine Acts.fstIte ?_ ?_
    | dsimp -proj only
    | (with_reducible refine Acts.fstMk ?_; first | with_reducible assumption | with_reducible exact Acts.refl _ _ | with_reducible refine returnCredit_acts _ _ ?_ ?_ | with_reducible refine floodOn_acts _ _ ?_ ?_ | with_reducible refine passOn_acts _ _ _ _ ?_ ?_ | with_reducible refine Acts.iteStep ?_ (fun _ => ?_) | with_reducible refine Acts.foldl ?_ (fun _ _ _ => ?_) | with_reducible refine Acts.fstIte ?_ ?_)
    | split)

theorem execEventSend_acts {F : List Part} {S : State} (dt : Nat) {s : State} (h : Acts F S s)
    (hs : subParts [.regs, .dial, .sched, .ports, .front, .flow, .endpoint, .queue, .pipe, .power, .peer, .observe, .pins, .out, .noticeSeq] F = true) : ActsNext F S (execEventSend dt s) := by
  refine ActsNext.step h ?_ hs
  unfold execEventSend
  repeat' (first
    | with_reducible assumption
    | decide
    | with_reducible exact Acts.refl _ _
    | with_reducible refine advance_acts _ ?_ ?_
    | with_reducible refine offerFrame_acts _ _ _ ?_ ?_
    | with_reducible refine Acts.iteStep ?_ (fun _ => ?_)
    | with_reducible refine Acts.foldl ?_ (fun _ _ _ => ?_)
    | with_reducible refine ActsNext.next ?_
    | with_reducible refine ActsNext.ite ?_ ?_
    | dsimp -proj only
    | split)

theorem execEvent_acts {F : List Part} {S : State} (dt : Nat) (link : Nat) (frame : Sys2Proof.Bytes) {s : State} (h : Acts F S s)
    (hs : subParts [.regs, .dial, .sched, .ports, .front, .flow, .endpoint, .queue, .pipe, .power, .peer, .observe, .log, .pins, .out, .noticeSeq] F = true) : ActsNext F S (execEvent dt link frame s) := by
  refine ActsNext.step h ?_ hs
  unfold execEvent
  repeat' (first
    | with_reducible assumption
    | decide
    | with_reducible exact Acts.refl _ _
    | with_reducible refine advance_acts _ ?_ ?_
    | with_reducible refine trace_acts _ _ _ ?_ ?_
    | with_reducible refine returnCredit_acts _ _ ?_ ?_
    | with_reducible refine Acts.iteStep ?_ (fun _ => ?_)
    | with_reducible refine Acts.foldl ?_ (fun _ _ _ => ?_)
    | with_reducible refine ActsNext.next ?_
    | with_reducible refine ActsNext.ite ?_ ?_
    | with_reducible refine Acts.ofSome (by assumption) ?_
    | with_reducible refine acceptFrame_acts _ _ _ ?_ ?_
    | dsimp -proj only
    | split)

theorem floodFragment_acts {F : List Part} {S : State} (slot : Nat) (bytes : Nat) (mask : Nat) (msg : Nat) (base : Nat) (f : Nat) {s : State} (h : Acts F S s)
    (hs : subParts [.regs, .queue, .power, .peer, .observe, .out, .noticeSeq] F = true) : Acts F S (floodFragment slot bytes mask msg base s f) := by
  refine Acts.step h ?_ hs
  unfold floodFragment
  repeat' (first
    | with_reducible assumption
    | decide
    | with_reducible exact Acts.refl _ _
    | with_reducible refine flood_acts _ _ ?_ ?_
    | with_reducible refine Acts.iteStep ?_ (fun _ => ?_)
    | with_reducible refine Acts.foldl ?_ (fun _ _ _ => ?_)
    | dsimp -proj only
    | split)

theorem startDist_acts {F : List Part} {S : State}  {s : State} (h : Acts F S s)
    (hs : subParts [.regs, .queue, .power, .peer, .observe, .out, .noticeSeq] F = true) : Acts F S (startDist s) := by
  refine Acts.step h ?_ hs
  unfold startDist
  repeat' (first
    | with_reducible assumption
    | decide
    | with_reducible exact Acts.refl _ _
    | with_reducible refine wrB_acts _ _ ?_ ?_
    | with_reducible refine wr_acts _ _ ?_ ?_
    | with_reducible refine floodFragment_acts _ _ _ _ _ _ ?_ ?_
    | with_reducible refine Acts.iteStep ?_ (fun _ => ?_)
    | with_reducible refine Acts.foldl ?_ (fun _ _ _ => ?_)
    | dsimp -proj only
    | (with_reducible refine Acts.set_peer ?_ ?_ ?_; first | with_reducible assumption | with_reducible exact Acts.refl _ _ | with_reducible refine wrB_acts _ _ ?_ ?_ | with_reducible refine wr_acts _ _ ?_ ?_ | with_reducible refine floodFragment_acts _ _ _ _ _ _ ?_ ?_ | with_reducible refine Acts.iteStep ?_ (fun _ => ?_) | with_reducible refine Acts.foldl ?_ (fun _ _ _ => ?_))
    | split
    | with_reducible exact PeerOk.keep_nextMessage_distTx _ _ _
    | (exact fun _ => rfl)
    | (intro k; rw [List.length_map]; exact k)
    | (exact fun h => Mem.wf_writeBytes _ _ h)
    | (exact fun h => Mem.wf_write _ _ h)
    | (intro _; exact Nat.zero_le _)
    | with_reducible with_reducible exact fun h => h
    | (intro h; rw [modAt_length]; exact h))

theorem writeDistCmd_acts {F : List Part} {S : State} (w : Nat) {s : State} (h : Acts F S s)
    (hs : subParts [.regs, .queue, .power, .peer, .observe, .out, .noticeSeq] F = true) : Acts F S (writeDistCmd s w) := by
  refine Acts.step h ?_ hs
  unfold writeDistCmd
  repeat' (first
    | with_reducible assumption
    | decide
    | with_reducible exact Acts.refl _ _
    | with_reducible refine writeFields_acts _ _ ?_ ?_
    | with_reducible refine startDist_acts  ?_ ?_
    | with_reducible refine Acts.iteStep ?_ (fun _ => ?_)
    | with_reducible refine Acts.foldl ?_ (fun _ _ _ => ?_)
    | dsimp -proj only
    | split)

theorem execDistStart_acts {F : List Part} {S : State}  {s : State} (h : Acts F S s)
    (hs : subParts [.regs, .queue, .power, .peer, .observe, .out, .noticeSeq] F = true) : ActsNext F S (execDistStart s) := by
  refine ActsNext.step h ?_ hs
  unfold execDistStart
  repeat' (first
    | with_reducible assumption
    | decide
    | with_reducible exact Acts.refl _ _
    | with_reducible refine startDist_acts  ?_ ?_
    | with_reducible refine wrB_acts _ _ ?_ ?_
    | with_reducible refine Acts.iteStep ?_ (fun _ => ?_)
    | with_reducible refine Acts.foldl ?_ (fun _ _ _ => ?_)
    | with_reducible refine ActsNext.next ?_
    | with_reducible refine ActsNext.ite ?_ ?_
    | dsimp -proj only
    | split)

theorem sendDistDone_acts {F : List Part} {S : State} (dest : Nat) (msg : Nat) (slot : Nat) (result : Nat) {s : State} (h : Acts F S s)
    (hs : subParts [.regs, .queue, .power, .peer, .observe, .out, .noticeSeq] F = true) : Acts F S (sendDistDone s dest msg slot result) := by
  refine Acts.step h ?_ hs
  unfold sendDistDone
  repeat' (first
    | with_reducible assumption
    | decide
    | with_reducible exact Acts.refl _ _
    | with_reducible refine sendOrLose_acts _ _ ?_ ?_
    | with_reducible refine Acts.iteStep ?_ (fun _ => ?_)
    | with_reducible refine Acts.foldl ?_ (fun _ _ _ => ?_)
    | dsimp -proj only
    | split)

theorem holdBuffer_acts {F : List Part} {S : State} (slot : Nat) (on : Bool) {s : State} (h : Acts F S s)
    (hs : subParts [.slots] F = true) : Acts F S (holdBuffer s slot on) := by
  refine Acts.step h ?_ hs
  unfold holdBuffer
  repeat' (first
    | with_reducible assumption
    | decide
    | with_reducible exact Acts.refl _ _
    | with_reducible refine modSlot_acts _ _ ?_ ?_
    | with_reducible refine Acts.iteStep ?_ (fun _ => ?_)
    | with_reducible refine Acts.foldl ?_ (fun _ _ _ => ?_)
    | dsimp -proj only
    | split)

theorem endRx_acts {F : List Part} {S : State} (d : DistRx) (result : Nat) {s : State} (h : Acts F S s)
    (hs : subParts [.regs, .queue, .slots, .power, .peer, .observe, .out, .noticeSeq] F = true) : Acts F S (endRx s d result) := by
  refine Acts.step h ?_ hs
  unfold endRx
  repeat' (first
    | with_reducible assumption
    | decide
    | with_reducible exact Acts.refl _ _
    | with_reducible refine holdBuffer_acts _ _ ?_ ?_
    | with_reducible refine sendDistDone_acts _ _ _ _ ?_ ?_
    | with_reducible refine Acts.iteStep ?_ (fun _ => ?_)
    | with_reducible refine Acts.foldl ?_ (fun _ _ _ => ?_)
    | dsimp -proj only
    | (with_reducible refine Acts.set_peer ?_ ?_ ?_; first | with_reducible assumption | with_reducible exact Acts.refl _ _ | with_reducible refine holdBuffer_acts _ _ ?_ ?_ | with_reducible refine sendDistDone_acts _ _ _ _ ?_ ?_ | with_reducible refine Acts.iteStep ?_ (fun _ => ?_) | with_reducible refine Acts.foldl ?_ (fun _ _ _ => ?_))
    | split
    | with_reducible exact PeerOk.keep_distRx _ _
    | (exact fun _ => rfl)
    | (intro k; rw [List.length_map]; exact k)
    | (exact fun h => Mem.wf_writeBytes _ _ h)
    | (exact fun h => Mem.wf_write _ _ h)
    | (intro _; exact Nat.zero_le _)
    | with_reducible with_reducible exact fun h => h
    | (intro h; rw [modAt_length]; exact h))

theorem rxOf_acts {F : List Part} {S : State} (h0 : PeerHdr) (slot : Nat) (bytes : Nat) {s : State} (h : Acts F S s)
    (hs : subParts [.slots, .peer] F = true) : Acts F S (rxOf s h0 slot bytes).1 := by
  refine Acts.step h ?_ hs
  unfold rxOf
  repeat' (first
    | with_reducible assumption
    | decide
    | with_reducible exact Acts.refl _ _
    | with_reducible refine holdBuffer_acts _ _ ?_ ?_
    | with_reducible refine Acts.iteStep ?_ (fun _ => ?_)
    | with_reducible refine Acts.foldl ?_ (fun _ _ _ => ?_)
    | with_reducible refine Acts.fstIte ?_ ?_
    | dsimp -proj only
    | (with_reducible refine Acts.set_peer ?_ ?_ ?_; first | with_reducible assumption | with_reducible exact Acts.refl _ _ | with_reducible refine holdBuffer_acts _ _ ?_ ?_ | with_reducible refine Acts.iteStep ?_ (fun _ => ?_) | with_reducible refine Acts.foldl ?_ (fun _ _ _ => ?_) | with_reducible refine Acts.fstIte ?_ ?_)
    | (with_reducible refine Acts.fstMk ?_; first | with_reducible assumption | with_reducible exact Acts.refl _ _ | with_reducible refine holdBuffer_acts _ _ ?_ ?_ | with_reducible refine Acts.iteStep ?_ (fun _ => ?_) | with_reducible refine Acts.foldl ?_ (fun _ _ _ => ?_) | with_reducible refine Acts.fstIte ?_ ?_ | (with_reducible refine Acts.set_peer ?_ ?_ ?_; first | with_reducible assumption | with_reducible exact Acts.refl _ _ | with_reducible refine holdBuffer_acts _ _ ?_ ?_ | with_reducible refine Acts.iteStep ?_ (fun _ => ?_) | with_reducible refine Acts.foldl ?_ (fun _ _ _ => ?_) | with_reducible refine Acts.fstIte ?_ ?_))
    | split
    | with_reducible exact PeerOk.keep_distRx _ _
    | (exact fun _ => rfl)
    | (intro k; rw [List.length_map]; exact k)
    | (exact fun h => Mem.wf_writeBytes _ _ h)
    | (exact fun h => Mem.wf_write _ _ h)
    | (intro _; exact Nat.zero_le _)
    | with_reducible with_reducible exact fun h => h
    | (intro h; rw [modAt_length]; exact h))

theorem takeFragment_acts {F : List Part} {S : State} (h0 : PeerHdr) (p : Sys2Proof.Bytes) {s : State} (h : Acts F S s)
    (hs : subParts [.regs, .queue, .slots, .power, .peer, .observe, .hbm, .out, .noticeSeq] F = true) : Acts F S (takeFragment s h0 p) := by
  refine Acts.step h ?_ hs
  unfold takeFragment
  repeat' (first
    | with_reducible assumption
    | decide
    | with_reducible exact Acts.refl _ _
    | with_reducible refine rxOf_acts _ _ _ ?_ ?_
    | with_reducible refine modSlot_acts _ _ ?_ ?_
    | with_reducible refine endRx_acts _ _ ?_ ?_
    | with_reducible refine Acts.iteStep ?_ (fun _ => ?_)
    | with_reducible refine Acts.foldl ?_ (fun _ _ _ => ?_)
    | with_reducible refine Acts.fstIte ?_ ?_
    | with_reducible refine Acts.ofFst (by assumption) ?_
    | dsimp -proj only
    | (with_reducible refine Acts.set_hbm ?_ ?_ ?_; first | with_reducible assumption | with_reducible exact Acts.refl _ _ | with_reducible refine rxOf_acts _ _ _ ?_ ?_ | with_reducible refine modSlot_acts _ _ ?_ ?_ | with_reducible refine endRx_acts _ _ ?_ ?_ | with_reducible refine Acts.iteStep ?_ (fun _ => ?_) | with_reducible refine Acts.foldl ?_ (fun _ _ _ => ?_) | with_reducible refine Acts.fstIte ?_ ?_ | with_reducible refine Acts.ofFst (by assumption) ?_)
    | (with_reducible refine Acts.set_peer ?_ ?_ ?_; first | with_reducible assumption | with_reducible exact Acts.refl _ _ | with_reducible refine rxOf_acts _ _ _ ?_ ?_ | with_reducible refine modSlot_acts _ _ ?_ ?_ | with_reducible refine endRx_acts _ _ ?_ ?_ | with_reducible refine Acts.iteStep ?_ (fun _ => ?_) | with_reducible refine Acts.foldl ?_ (fun _ _ _ => ?_) | with_reducible refine Acts.fstIte ?_ ?_ | with_reducible refine Acts.ofFst (by assumption) ?_)
    | (with_reducible refine Acts.set_hbm ?_ ?_ ?_; first | with_reducible assumption | with_reducible exact Acts.refl _ _ | with_reducible refine rxOf_acts _ _ _ ?_ ?_ | with_reducible refine modSlot_acts _ _ ?_ ?_ | with_reducible refine endRx_acts _ _ ?_ ?_ | with_reducible refine Acts.iteStep ?_ (fun _ => ?_) | with_reducible refine Acts.foldl ?_ (fun _ _ _ => ?_) | with_reducible refine Acts.fstIte ?_ ?_ | with_reducible refine Acts.ofFst (by assumption) ?_ | (with_reducible refine Acts.set_hbm ?_ ?_ ?_; first | with_reducible assumption | with_reducible exact Acts.refl _ _ | with_reducible refine rxOf_acts _ _ _ ?_ ?_ | with_reducible refine modSlot_acts _ _ ?_ ?_ | with_reducible refine endRx_acts _ _ ?_ ?_ | with_reducible refine Acts.iteStep ?_ (fun _ => ?_) | with_reducible refine Acts.foldl ?_ (fun _ _ _ => ?_) | with_reducible refine Acts.fstIte ?_ ?_ | with_reducible refine Acts.ofFst (by assumption) ?_) | (with_reducible refine Acts.set_peer ?_ ?_ ?_; first | with_reducible assumption | with_reducible exact Acts.refl _ _ | with_reducible refine rxOf_acts _ _ _ ?_ ?_ | with_reducible refine modSlot_acts _ _ ?_ ?_ | with_reducible refine endRx_acts _ _ ?_ ?_ | with_reducible refine Acts.iteStep ?_ (fun _ => ?_) | with_reducible refine Acts.foldl ?_ (fun _ _ _ => ?_) | with_reducible refine Acts.fstIte ?_ ?_ | with_reducible refine Acts.ofFst (by assumption) ?_))
    | (with_reducible refine Acts.set_peer ?_ ?_ ?_; first | with_reducible assumption | with_reducible exact Acts.refl _ _ | with_reducible refine rxOf_acts _ _ _ ?_ ?_ | with_reducible refine modSlot_acts _ _ ?_ ?_ | with_reducible refine endRx_acts _ _ ?_ ?_ | with_reducible refine Acts.iteStep ?_ (fun _ => ?_) | with_reducible refine Acts.foldl ?_ (fun _ _ _ => ?_) | with_reducible refine Acts.fstIte ?_ ?_ | with_reducible refine Acts.ofFst (by assumption) ?_ | (with_reducible refine Acts.set_hbm ?_ ?_ ?_; first | with_reducible assumption | with_reducible exact Acts.refl _ _ | with_reducible refine rxOf_acts _ _ _ ?_ ?_ | with_reducible refine modSlot_acts _ _ ?_ ?_ | with_reducible refine endRx_acts _ _ ?_ ?_ | with_reducible refine Acts.iteStep ?_ (fun _ => ?_) | with_reducible refine Acts.foldl ?_ (fun _ _ _ => ?_) | with_reducible refine Acts.fstIte ?_ ?_ | with_reducible refine Acts.ofFst (by assumption) ?_) | (with_reducible refine Acts.set_peer ?_ ?_ ?_; first | with_reducible assumption | with_reducible exact Acts.refl _ _ | with_reducible refine rxOf_acts _ _ _ ?_ ?_ | with_reducible refine modSlot_acts _ _ ?_ ?_ | with_reducible refine endRx_acts _ _ ?_ ?_ | with_reducible refine Acts.iteStep ?_ (fun _ => ?_) | with_reducible refine Acts.foldl ?_ (fun _ _ _ => ?_) | with_reducible refine Acts.fstIte ?_ ?_ | with_reducible refine Acts.ofFst (by assumption) ?_))
    | (with_reducible refine Acts.fstMk ?_; first | with_reducible assumption | with_reducible exact Acts.refl _ _ | with_reducible refine rxOf_acts _ _ _ ?_ ?_ | with_reducible refine modSlot_acts _ _ ?_ ?_ | with_reducible refine endRx_acts _ _ ?_ ?_ | with_reducible refine Acts.iteStep ?_ (fun _ => ?_) | with_reducible refine Acts.foldl ?_ (fun _ _ _ => ?_) | with_reducible refine Acts.fstIte ?_ ?_ | with_reducible refine Acts.ofFst (by assumption) ?_ | (with_reducible refine Acts.set_hbm ?_ ?_ ?_; first | with_reducible assumption | with_reducible exact Acts.refl _ _ | with_reducible refine rxOf_acts _ _ _ ?_ ?_ | with_reducible refine modSlot_acts _ _ ?_ ?_ | with_reducible refine endRx_acts _ _ ?_ ?_ | with_reducible refine Acts.iteStep ?_ (fun _ => ?_) | with_reducible refine Acts.foldl ?_ (fun _ _ _ => ?_) | with_reducible refine Acts.fstIte ?_ ?_ | with_reducible refine Acts.ofFst (by assumption) ?_) | (with_reducible refine Acts.set_peer ?_ ?_ ?_; first | with_reducible assumption | with_reducible exact Acts.refl _ _ | with_reducible refine rxOf_acts _ _ _ ?_ ?_ | with_reducible refine modSlot_acts _ _ ?_ ?_ | with_reducible refine endRx_acts _ _ ?_ ?_ | with_reducible refine Acts.iteStep ?_ (fun _ => ?_) | with_reducible refine Acts.foldl ?_ (fun _ _ _ => ?_) | with_reducible refine Acts.fstIte ?_ ?_ | with_reducible refine Acts.ofFst (by assumption) ?_))
    | split
    | with_reducible exact PeerOk.keep_distRx _ _
    | (exact fun _ => rfl)
    | (intro k; rw [List.length_map]; exact k)
    | (exact fun h => Mem.wf_writeBytes _ _ h)
    | (exact fun h => Mem.wf_write _ _ h)
    | (intro _; exact Nat.zero_le _)
    | with_reducible with_reducible exact fun h => h
    | (intro h; rw [modAt_length]; exact h))

theorem execDistData_acts {F : List Part} {S : State} (link : Nat) (frame : Sys2Proof.Bytes) {s : State} (h : Acts F S s)
    (hs : subParts [.regs, .sched, .queue, .pipe, .slots, .power, .peer, .observe, .log, .hbm, .out, .noticeSeq] F = true) : ActsNext F S (execDistData link frame s) := by
  refine ActsNext.step h ?_ hs
  unfold execDistData
  repeat' (first
    | with_reducible assumption
    | decide
    | with_reducible exact Acts.refl _ _
    | with_reducible refine arrive_acts _ _ ?_ ?_
    | with_reducible refine takeFragment_acts _ _ ?_ ?_
    | with_reducible refine Acts.iteStep ?_ (fun _ => ?_)
    | with_reducible refine Acts.foldl ?_ (fun _ _ _ => ?_)
    | with_reducible refine ActsNext.next ?_
    | with_reducible refine ActsNext.ite ?_ ?_
    | with_reducible refine Acts.fstIte ?_ ?_
    | with_reducible refine Acts.ofFst (by assumption) ?_
    | with_reducible refine Acts.ofSome (by assumption) ?_
    | with_reducible refine acceptFrame_acts _ _ _ ?_ ?_
    | dsimp -proj only
    | (with_reducible refine Acts.fstMk ?_; first | with_reducible assumption | with_reducible exact Acts.refl _ _ | with_reducible refine arrive_acts _ _ ?_ ?_ | with_reducible refine takeFragment_acts _ _ ?_ ?_ | with_reducible refine Acts.iteStep ?_ (fun _ => ?_) | with_reducible refine Acts.foldl ?_ (fun _ _ _ => ?_) | with_reducible refine ActsNext.next ?_ | with_reducible refine ActsNext.ite ?_ ?_ | with_reducible refine Acts.fstIte ?_ ?_ | with_reducible refine Acts.ofFst (by assumption) ?_ | with_reducible refine Acts.ofSome (by assumption) ?_ | with_reducible refine acceptFrame_acts _ _ _ ?_ ?_)
    | split)

theorem endDist_acts {F : List Part} {S : State}  {s : State} (h : Acts F S s)
    (hs : subParts [.regs, .queue, .peer, .observe, .noticeSeq] F = true) : Acts F S (endDist s) := by
  refine Acts.step h ?_ hs
  unfold endDist
  repeat' (first
    | with_reducible assumption
    | decide
    | with_reducible exact Acts.refl _ _
    | with_reducible refine wr_acts _ _ ?_ ?_
    | with_reducible refine wrB_acts _ _ ?_ ?_
    | with_reducible refine raise_acts _ _ ?_ ?_
    | with_reducible refine Acts.iteStep ?_ (fun _ => ?_)
    | with_reducible refine Acts.foldl ?_ (fun _ _ _ => ?_)
    | dsimp -proj only
    | (with_reducible refine Acts.set_peer ?_ ?_ ?_; first | with_reducible assumption | with_reducible exact Acts.refl _ _ | with_reducible refine wr_acts _ _ ?_ ?_ | with_reducible refine wrB_acts _ _ ?_ ?_ | with_reducible refine raise_acts _ _ ?_ ?_ | with_reducible refine Acts.iteStep ?_ (fun _ => ?_) | with_reducible refine Acts.foldl ?_ (fun _ _ _ => ?_))
    | split
    | with_reducible exact PeerOk.keep_distTx _ _
    | (exact fun _ => rfl)
    | (intro k; rw [List.length_map]; exact k)
    | (exact fun h => Mem.wf_writeBytes _ _ h)
    | (exact fun h => Mem.wf_write _ _ h)
    | (intro _; exact Nat.zero_le _)
    | with_reducible with_reducible exact fun h => h
    | (intro h; rw [modAt_length]; exact h))

theorem execDistDone_acts {F : List Part} {S : State} (link : Nat) (frame : Sys2Proof.Bytes) {s : State} (h : Acts F S s)
    (hs : subParts [.regs, .sched, .queue, .pipe, .power, .peer, .observe, .log, .out, .noticeSeq] F = true) : ActsNext F S (execDistDone link frame s) := by
  refine ActsNext.step h ?_ hs
  unfold execDistDone
  repeat' (first
    | with_reducible assumption
    | decide
    | with_reducible exact Acts.refl _ _
    | with_reducible refine arrive_acts _ _ ?_ ?_
    | with_reducible refine endDist_acts  ?_ ?_
    | with_reducible refine wr_acts _ _ ?_ ?_
    | with_reducible refine Acts.iteStep ?_ (fun _ => ?_)
    | with_reducible refine Acts.foldl ?_ (fun _ _ _ => ?_)
    | with_reducible refine ActsNext.next ?_
    | with_reducible refine ActsNext.ite ?_ ?_
    | with_reducible refine Acts.fstIte ?_ ?_
    | with_reducible refine Acts.ofFst (by assumption) ?_
    | with_reducible refine Acts.ofSome (by assumption) ?_
    | with_reducible refine acceptFrame_acts _ _ _ ?_ ?_
    | dsimp -proj only
    | (with_reducible refine Acts.fstMk ?_; first | with_reducible assumption | with_reducible exact Acts.refl _ _ | with_reducible refine arrive_acts _ _ ?_ ?_ | with_reducible refine endDist_acts  ?_ ?_ | with_reducible refine wr_acts _ _ ?_ ?_ | with_reducible refine Acts.iteStep ?_ (fun _ => ?_) | with_reducible refine Acts.foldl ?_ (fun _ _ _ => ?_) | with_reducible refine ActsNext.next ?_ | with_reducible refine ActsNext.ite ?_ ?_ | with_reducible refine Acts.fstIte ?_ ?_ | with_reducible refine Acts.ofFst (by assumption) ?_ | with_reducible refine Acts.ofSome (by assumption) ?_ | with_reducible refine acceptFrame_acts _ _ _ ?_ ?_)
    | split)

theorem execDistRxTimeout_acts {F : List Part} {S : State} (slot : Nat) {s : State} (h : Acts F S s)
    (hs : subParts [.regs, .queue, .slots, .power, .peer, .observe, .out, .noticeSeq] F = true) : ActsNext F S (execDistRxTimeout slot s) := by
  refine ActsNext.step h ?_ hs
  unfold execDistRxTimeout
  repeat' (first
    | with_reducible assumption
    | decide
    | with_reducible exact Acts.refl _ _
    | with_reducible refine endRx_acts _ _ ?_ ?_
    | with_reducible refine Acts.iteStep ?_ (fun _ => ?_)
    | with_reducible refine Acts.foldl ?_ (fun _ _ _ => ?_)
    | with_reducible refine ActsNext.next ?_
    | with_reducible refine ActsNext.ite ?_ ?_
    | dsimp -proj only
    | split)

theorem execDistDoneTimeout_acts {F : List Part} {S : State}  {s : State} (h : Acts F S s)
    (hs : subParts [.regs, .queue, .peer, .observe, .noticeSeq] F = true) : ActsNext F S (execDistDoneTimeout s) := by
  refine ActsNext.step h ?_ hs
  unfold execDistDoneTimeout
  repeat' (first
    | with_reducible assumption
    | decide
    | with_reducible exact Acts.refl _ _
    | with_reducible refine endDist_acts  ?_ ?_
    | with_reducible refine wr_acts _ _ ?_ ?_
    | with_reducible refine Acts.iteStep ?_ (fun _ => ?_)
    | with_reducible refine Acts.foldl ?_ (fun _ _ _ => ?_)
    | with_reducible refine ActsNext.next ?_
    | with_reducible refine ActsNext.ite ?_ ?_
    | dsimp -proj only
    | split)

theorem execSlackPublish_acts {F : List Part} {S : State}  {s : State} (h : Acts F S s)
    (hs : subParts [.regs, .queue, .power, .peer, .observe, .out, .noticeSeq] F = true) : ActsNext F S (execSlackPublish s) := by
  refine ActsNext.step h ?_ hs
  unfold execSlackPublish
  repeat' (first
    | with_reducible assumption
    | decide
    | with_reducible exact Acts.refl _ _
    | with_reducible refine flood_acts _ _ ?_ ?_
    | with_reducible refine Acts.iteStep ?_ (fun _ => ?_)
    | with_reducible refine Acts.foldl ?_ (fun _ _ _ => ?_)
    | with_reducible refine ActsNext.next ?_
    | with_reducible refine ActsNext.ite ?_ ?_
    | dsimp -proj only
    | (with_reducible refine Acts.set_power ?_ ?_; first | with_reducible assumption | with_reducible exact Acts.refl _ _ | with_reducible refine flood_acts _ _ ?_ ?_ | with_reducible refine Acts.iteStep ?_ (fun _ => ?_) | with_reducible refine Acts.foldl ?_ (fun _ _ _ => ?_) | with_reducible refine ActsNext.next ?_ | with_reducible refine ActsNext.ite ?_ ?_)
    | (with_reducible refine Acts.set_power ?_ ?_; first | with_reducible assumption | with_reducible exact Acts.refl _ _ | with_reducible refine flood_acts _ _ ?_ ?_ | with_reducible refine Acts.iteStep ?_ (fun _ => ?_) | with_reducible refine Acts.foldl ?_ (fun _ _ _ => ?_) | with_reducible refine ActsNext.next ?_ | with_reducible refine ActsNext.ite ?_ ?_ | (with_reducible refine Acts.set_power ?_ ?_; first | with_reducible assumption | with_reducible exact Acts.refl _ _ | with_reducible refine flood_acts _ _ ?_ ?_ | with_reducible refine Acts.iteStep ?_ (fun _ => ?_) | with_reducible refine Acts.foldl ?_ (fun _ _ _ => ?_) | with_reducible refine ActsNext.next ?_ | with_reducible refine ActsNext.ite ?_ ?_))
    | split)

theorem confirmGrants_acts {F : List Part} {S : State} (k : Slack) {s : State} (h : Acts F S s)
    (hs : subParts [.power] F = true) : Acts F S (confirmGrants s k) := by
  refine Acts.step h ?_ hs
  unfold confirmGrants
  repeat' (first
    | with_reducible assumption
    | decide
    | with_reducible exact Acts.refl _ _
    | with_reducible refine Acts.iteStep ?_ (fun _ => ?_)
    | with_reducible refine Acts.foldl ?_ (fun _ _ _ => ?_)
    | dsimp -proj only
    | (with_reducible refine Acts.set_power ?_ ?_; first | with_reducible assumption | with_reducible exact Acts.refl _ _ | with_reducible refine Acts.iteStep ?_ (fun _ => ?_) | with_reducible refine Acts.foldl ?_ (fun _ _ _ => ?_))
    | split)

theorem execSlack_acts {F : List Part} {S : State} (link : Nat) (frame : Sys2Proof.Bytes) {s : State} (h : Acts F S s)
    (hs : subParts [.regs, .sched, .queue, .pipe, .power, .peer, .observe, .log, .out, .noticeSeq] F = true) : ActsNext F S (execSlack link frame s) := by
  refine ActsNext.step h ?_ hs
  unfold execSlack
  repeat' (first
    | with_reducible assumption
    | decide
    | with_reducible exact Acts.refl _ _
    | with_reducible refine arrive_acts _ _ ?_ ?_
    | with_reducible refine confirmGrants_acts _ ?_ ?_
    | with_reducible refine Acts.iteStep ?_ (fun _ => ?_)
    | with_reducible refine Acts.foldl ?_ (fun _ _ _ => ?_)
    | with_reducible refine ActsNext.next ?_
    | with_reducible refine ActsNext.ite ?_ ?_
    | with_reducible refine Acts.fstIte ?_ ?_
    | with_reducible refine Acts.ofFst (by assumption) ?_
    | with_reducible refine Acts.ofSome (by assumption) ?_
    | with_reducible refine acceptFrame_acts _ _ _ ?_ ?_
    | dsimp -proj only
    | (with_reducible refine Acts.set_power ?_ ?_; first | with_reducible assumption | with_reducible exact Acts.refl _ _ | with_reducible refine arrive_acts _ _ ?_ ?_ | with_reducible refine confirmGrants_acts _ ?_ ?_ | with_reducible refine Acts.iteStep ?_ (fun _ => ?_) | with_reducible refine Acts.foldl ?_ (fun _ _ _ => ?_) | with_reducible refine ActsNext.next ?_ | with_reducible refine ActsNext.ite ?_ ?_ | with_reducible refine Acts.fstIte ?_ ?_ | with_reducible refine Acts.ofFst (by assumption) ?_ | with_reducible refine Acts.ofSome (by assumption) ?_ | with_reducible refine acceptFrame_acts _ _ _ ?_ ?_)
    | (with_reducible refine Acts.fstMk ?_; first | with_reducible assumption | with_reducible exact Acts.refl _ _ | with_reducible refine arrive_acts _ _ ?_ ?_ | with_reducible refine confirmGrants_acts _ ?_ ?_ | with_reducible refine Acts.iteStep ?_ (fun _ => ?_) | with_reducible refine Acts.foldl ?_ (fun _ _ _ => ?_) | with_reducible refine ActsNext.next ?_ | with_reducible refine ActsNext.ite ?_ ?_ | with_reducible refine Acts.fstIte ?_ ?_ | with_reducible refine Acts.ofFst (by assumption) ?_ | with_reducible refine Acts.ofSome (by assumption) ?_ | with_reducible refine acceptFrame_acts _ _ _ ?_ ?_ | (with_reducible refine Acts.set_power ?_ ?_; first | with_reducible assumption | with_reducible exact Acts.refl _ _ | with_reducible refine arrive_acts _ _ ?_ ?_ | with_reducible refine confirmGrants_acts _ ?_ ?_ | with_reducible refine Acts.iteStep ?_ (fun _ => ?_) | with_reducible refine Acts.foldl ?_ (fun _ _ _ => ?_) | with_reducible refine ActsNext.next ?_ | with_reducible refine ActsNext.ite ?_ ?_ | with_reducible refine Acts.fstIte ?_ ?_ | with_reducible refine Acts.ofFst (by assumption) ?_ | with_reducible refine Acts.ofSome (by assumption) ?_ | with_reducible refine acceptFrame_acts _ _ _ ?_ ?_))
    | split)

theorem regrant_acts {F : List Part} {S : State} (l : List Slack) {s : State} (h : Acts F S s)
    (hs : subParts [.regs, .queue, .power, .observe, .noticeSeq] F = true) : Acts F S (regrant s l) := by
  refine Acts.step h ?_ hs
  unfold regrant
  repeat' (first
    | with_reducible assumption
    | decide
    | with_reducible exact Acts.refl _ _
    | with_reducible refine raiseIf_acts _ _ _ ?_ ?_
    | with_reducible refine Acts.iteStep ?_ (fun _ => ?_)
    | with_reducible refine Acts.foldl ?_ (fun _ _ _ => ?_)
    | dsimp -proj only
    | (with_reducible refine Acts.set_power ?_ ?_; first | with_reducible assumption | with_reducible exact Acts.refl _ _ | with_reducible refine raiseIf_acts _ _ _ ?_ ?_ | with_reducible refine Acts.iteStep ?_ (fun _ => ?_) | with_reducible refine Acts.foldl ?_ (fun _ _ _ => ?_))
    | split)

theorem execGroupExchangeEval_acts {F : List Part} {S : State}  {s : State} (h : Acts F S s)
    (hs : subParts [.regs, .queue, .power, .observe, .noticeSeq] F = true) : ActsNext F S (execGroupExchangeEval s) := by
  refine ActsNext.step h ?_ hs
  unfold execGroupExchangeEval
  repeat' (first
    | with_reducible assumption
    | decide
    | with_reducible exact Acts.refl _ _
    | with_reducible refine regrant_acts _ ?_ ?_
    | with_reducible refine wr_acts _ _ ?_ ?_
    | with_reducible refine raise_acts _ _ ?_ ?_
    | with_reducible refine Acts.iteStep ?_ (fun _ => ?_)
    | with_reducible refine Acts.foldl ?_ (fun _ _ _ => ?_)
    | with_reducible refine ActsNext.next ?_
    | with_reducible refine ActsNext.ite ?_ ?_
    | dsimp -proj only
    | split)

end Sys2Proof.Machine
end

