-- ==== Sys2Proof/Laws/ActsJobs.lean ====
section
/-! SUPPORT. What each operation of Machine/Jobs.lean may touch, and that it keeps the invariant. -/

namespace Sys2Proof.Machine

theorem sendClient_acts {F : List Part} {S : State} (c : Client) (m : Sys2Proof.Bytes) {s : State} (h : Acts F S s)
    (hs : subParts [.regs, .queue, .power, .peer, .observe, .out, .noticeSeq] F = true) : Acts F S (sendClient s c m) := by
  refine Acts.step h ?_ hs
  unfold sendClient
  repeat' (first
    | with_reducible assumption
    | decide
    | with_reducible exact Acts.refl _ _
    | with_reducible refine emit_acts _ ?_ ?_
    | with_reducible refine sendOrLose_acts _ _ ?_ ?_
    | with_reducible refine Acts.iteStep ?_ (fun _ => ?_)
    | with_reducible refine Acts.foldl ?_ (fun _ _ _ => ?_)
    | dsimp -proj only
    | split)

theorem respond_acts {F : List Part} {S : State} (c : Client) (r : Sys2Proof.Request) (op : Nat) (status : Nat) (payload : Sys2Proof.Bytes) {s : State} (h : Acts F S s)
    (hs : subParts [.regs, .queue, .power, .peer, .observe, .out, .noticeSeq] F = true) : Acts F S (respond s c r op status payload) := by
  refine Acts.step h ?_ hs
  unfold respond
  repeat' (first
    | with_reducible assumption
    | decide
    | with_reducible exact Acts.refl _ _
    | with_reducible refine sendClient_acts _ _ ?_ ?_
    | with_reducible refine Acts.iteStep ?_ (fun _ => ?_)
    | with_reducible refine Acts.foldl ?_ (fun _ _ _ => ?_)
    | dsimp -proj only
    | split)

theorem showCrown_acts {F : List Part} {S : State}  {s : State} (h : Acts F S s)
    (hs : subParts [.regs] F = true) : Acts F S (showCrown s) := by
  refine Acts.step h ?_ hs
  unfold showCrown
  repeat' (first
    | with_reducible assumption
    | decide
    | with_reducible exact Acts.refl _ _
    | with_reducible refine wr_acts _ _ ?_ ?_
    | with_reducible refine Acts.iteStep ?_ (fun _ => ?_)
    | with_reducible refine Acts.foldl ?_ (fun _ _ _ => ?_)
    | dsimp -proj only
    | split)

theorem modJob_acts {F : List Part} {S : State} (post : Nat) (f : Job → Job) {s : State} (h : Acts F S s)
    (hs : subParts [.crown] F = true) : Acts F S (modJob s post f) := by
  refine Acts.step h ?_ hs
  unfold modJob
  repeat' (first
    | with_reducible assumption
    | decide
    | with_reducible exact Acts.refl _ _
    | with_reducible refine Acts.iteStep ?_ (fun _ => ?_)
    | with_reducible refine Acts.foldl ?_ (fun _ _ _ => ?_)
    | dsimp -proj only
    | (with_reducible refine Acts.set_crown ?_ ?_ ?_; first | with_reducible assumption | with_reducible exact Acts.refl _ _ | with_reducible refine Acts.iteStep ?_ (fun _ => ?_) | with_reducible refine Acts.foldl ?_ (fun _ _ _ => ?_))
    | split
    | with_reducible exact CrownOk.keep_jobs _ _
    | (exact fun _ => rfl)
    | (intro k; rw [List.length_map]; exact k)
    | (exact fun h => Mem.wf_writeBytes _ _ h)
    | (exact fun h => Mem.wf_write _ _ h)
    | (intro _; exact Nat.zero_le _)
    | with_reducible with_reducible exact fun h => h
    | (intro h; rw [modAt_length]; exact h))

theorem retireJob_acts {F : List Part} {S : State} (j : Job) (state : Nat) {s : State} (h : Acts F S s)
    (hs : subParts [.regs, .queue, .power, .tally, .crown, .peer, .observe, .out, .noticeSeq, .fresh] F = true) : Acts F S (retireJob s j state) := by
  refine Acts.step h ?_ hs
  unfold retireJob
  repeat' (first
    | with_reducible assumption
    | decide
    | with_reducible exact Acts.refl _ _
    | with_reducible refine dropCapture_acts _ ?_ ?_
    | with_reducible refine retireJobAcc_acts _ _ ?_ ?_
    | with_reducible refine bump_acts _ _ ?_ ?_
    | with_reducible refine raise_acts _ _ ?_ ?_
    | with_reducible refine sendClient_acts _ _ ?_ ?_
    | with_reducible refine showCrown_acts  ?_ ?_
    | with_reducible refine Acts.iteStep ?_ (fun _ => ?_)
    | with_reducible refine Acts.foldl ?_ (fun _ _ _ => ?_)
    | dsimp -proj only
    | (with_reducible refine Acts.set_crown ?_ ?_ ?_; first | with_reducible assumption | with_reducible exact Acts.refl _ _ | with_reducible refine dropCapture_acts _ ?_ ?_ | with_reducible refine retireJobAcc_acts _ _ ?_ ?_ | with_reducible refine bump_acts _ _ ?_ ?_ | with_reducible refine raise_acts _ _ ?_ ?_ | with_reducible refine sendClient_acts _ _ ?_ ?_ | with_reducible refine showCrown_acts  ?_ ?_ | with_reducible refine Acts.iteStep ?_ (fun _ => ?_) | with_reducible refine Acts.foldl ?_ (fun _ _ _ => ?_))
    | split
    | exact fun _ => List.length_take_le _ _
    | with_reducible refine CrownOk.keep_jobs_retired_captures _ _ _ _ ?_
    | (exact fun _ => rfl)
    | (intro k; rw [List.length_map]; exact k)
    | (exact fun h => Mem.wf_writeBytes _ _ h)
    | (exact fun h => Mem.wf_write _ _ h)
    | (intro _; exact Nat.zero_le _)
    | with_reducible with_reducible exact fun h => h
    | (intro h; rw [modAt_length]; exact h))

theorem abortJob_acts {F : List Part} {S : State} (j : Job) {s : State} (h : Acts F S s)
    (hs : subParts [.regs, .queue, .power, .tally, .crown, .peer, .observe, .out, .noticeSeq, .fresh] F = true) : Acts F S (abortJob s j) := by
  refine Acts.step h ?_ hs
  unfold abortJob
  repeat' (first
    | with_reducible assumption
    | decide
    | with_reducible exact Acts.refl _ _
    | with_reducible refine retireJob_acts _ _ ?_ ?_
    | with_reducible refine modJob_acts _ _ ?_ ?_
    | with_reducible refine Acts.iteStep ?_ (fun _ => ?_)
    | with_reducible refine Acts.foldl ?_ (fun _ _ _ => ?_)
    | dsimp -proj only
    | split)

theorem abortAllJobs_acts {F : List Part} {S : State}  {s : State} (h : Acts F S s)
    (hs : subParts [.regs, .queue, .power, .tally, .crown, .peer, .observe, .out, .noticeSeq, .fresh] F = true) : Acts F S (abortAllJobs s) := by
  refine Acts.step h ?_ hs
  unfold abortAllJobs
  repeat' (first
    | with_reducible assumption
    | decide
    | with_reducible exact Acts.refl _ _
    | with_reducible refine retireJob_acts _ _ ?_ ?_
    | with_reducible refine Acts.iteStep ?_ (fun _ => ?_)
    | with_reducible refine Acts.foldl ?_ (fun _ _ _ => ?_)
    | dsimp -proj only
    | (with_reducible refine Acts.set_crown ?_ ?_ ?_; first | with_reducible assumption | with_reducible exact Acts.refl _ _ | with_reducible refine retireJob_acts _ _ ?_ ?_ | with_reducible refine Acts.iteStep ?_ (fun _ => ?_) | with_reducible refine Acts.foldl ?_ (fun _ _ _ => ?_))
    | split
    | with_reducible exact CrownOk.keep_captures _ _
    | (exact fun _ => rfl)
    | (intro k; rw [List.length_map]; exact k)
    | (exact fun h => Mem.wf_writeBytes _ _ h)
    | (exact fun h => Mem.wf_write _ _ h)
    | (intro _; exact Nat.zero_le _)
    | with_reducible with_reducible exact fun h => h
    | (intro h; rw [modAt_length]; exact h))

theorem closeSession_acts {F : List Part} {S : State} (x : Session) {s : State} (h : Acts F S s)
    (hs : subParts [.regs, .queue, .power, .tally, .crown, .peer, .observe, .out, .noticeSeq, .fresh] F = true) : Acts F S (closeSession s x) := by
  refine Acts.step h ?_ hs
  unfold closeSession
  repeat' (first
    | with_reducible assumption
    | decide
    | with_reducible exact Acts.refl _ _
    | with_reducible refine raise_acts _ _ ?_ ?_
    | with_reducible refine showCrown_acts  ?_ ?_
    | with_reducible refine abortJob_acts _ ?_ ?_
    | with_reducible refine Acts.iteStep ?_ (fun _ => ?_)
    | with_reducible refine Acts.foldl ?_ (fun _ _ _ => ?_)
    | dsimp -proj only
    | (with_reducible refine Acts.set_crown_peer ?_ ?_ ?_ ?_ ?_; first | with_reducible assumption | with_reducible exact Acts.refl _ _ | with_reducible refine raise_acts _ _ ?_ ?_ | with_reducible refine showCrown_acts  ?_ ?_ | with_reducible refine abortJob_acts _ ?_ ?_ | with_reducible refine Acts.iteStep ?_ (fun _ => ?_) | with_reducible refine Acts.foldl ?_ (fun _ _ _ => ?_))
    | split
    | with_reducible exact CrownOk.keep_sessions _ _
    | with_reducible exact PeerOk.keep_remoteJobs _ _
    | (exact fun _ => rfl)
    | (intro k; rw [List.length_map]; exact k)
    | (exact fun h => Mem.wf_writeBytes _ _ h)
    | (exact fun h => Mem.wf_write _ _ h)
    | (intro _; exact Nat.zero_le _)
    | with_reducible with_reducible exact fun h => h
    | (intro h; rw [modAt_length]; exact h))

theorem closeAllSessions_acts {F : List Part} {S : State}  {s : State} (h : Acts F S s)
    (hs : subParts [.regs, .queue, .power, .tally, .crown, .peer, .observe, .out, .noticeSeq, .fresh] F = true) : Acts F S (closeAllSessions s) := by
  refine Acts.step h ?_ hs
  unfold closeAllSessions
  repeat' (first
    | with_reducible assumption
    | decide
    | with_reducible exact Acts.refl _ _
    | with_reducible refine closeSession_acts _ ?_ ?_
    | with_reducible refine Acts.iteStep ?_ (fun _ => ?_)
    | with_reducible refine Acts.foldl ?_ (fun _ _ _ => ?_)
    | dsimp -proj only
    | split)

end Sys2Proof.Machine
end

