-- ==== Sys2Proof/Laws/ActsQueues.lean ====
section
/-! SUPPORT. What each operation of Machine/Queues.lean may touch, and that it keeps the invariant. -/

namespace Sys2Proof.Machine

theorem writeQueueHead_acts {F : List Part} {S : State} (q : Nat) (value : Nat) {s : State} (h : Acts F S s)
    (hs : subParts [.regs, .queue, .observe, .noticeSeq] F = true) : Acts F S (writeQueueHead s q value) := by
  refine Acts.step h ?_ hs
  unfold writeQueueHead
  repeat' (first
    | with_reducible assumption
    | decide
    | with_reducible exact Acts.refl _ _
    | with_reducible refine setQ_acts _ _ ?_ ?_
    | with_reducible refine refuseDescriptor_acts _ ?_ ?_
    | with_reducible refine Acts.iteStep ?_ (fun _ => ?_)
    | with_reducible refine Acts.foldl ?_ (fun _ _ _ => ?_)
    | dsimp -proj only
    | split)

theorem writeQueueBand_acts {F : List Part} {S : State} (q : Nat) (b : Nat) (value : Nat) {s : State} (h : Acts F S s)
    (hs : subParts [.queue] F = true) : Acts F S (writeQueueBand s q b value) := by
  refine Acts.step h ?_ hs
  unfold writeQueueBand
  repeat' (first
    | with_reducible assumption
    | decide
    | with_reducible exact Acts.refl _ _
    | with_reducible refine setQ_acts _ _ ?_ ?_
    | with_reducible refine Acts.iteStep ?_ (fun _ => ?_)
    | with_reducible refine Acts.foldl ?_ (fun _ _ _ => ?_)
    | dsimp -proj only
    | split)

theorem writeQueueWord_acts {F : List Part} {S : State} (q : Nat) (k : Nat) (value : Nat) {s : State} (h : Acts F S s)
    (hs : subParts [.regs, .queue, .observe, .noticeSeq] F = true) : Acts F S (writeQueueWord s q k value) := by
  refine Acts.step h ?_ hs
  unfold writeQueueWord
  repeat' (first
    | with_reducible assumption
    | decide
    | with_reducible exact Acts.refl _ _
    | with_reducible refine writeQueueHead_acts _ _ ?_ ?_
    | with_reducible refine writeQueueBand_acts _ _ _ ?_ ?_
    | with_reducible refine Acts.iteStep ?_ (fun _ => ?_)
    | with_reducible refine Acts.foldl ?_ (fun _ _ _ => ?_)
    | dsimp -proj only
    | split)

theorem execQueueDescriptorWrite_acts {F : List Part} {S : State} (queue : Nat) (word : Nat) (value : Sys2Proof.Word) {s : State} (h : Acts F S s)
    (hs : subParts [.regs, .queue, .observe, .noticeSeq] F = true) : ActsNext F S (execQueueDescriptorWrite queue word value s) := by
  refine ActsNext.step h ?_ hs
  unfold execQueueDescriptorWrite
  repeat' (first
    | with_reducible assumption
    | decide
    | with_reducible exact Acts.refl _ _
    | with_reducible refine writeQueueWord_acts _ _ _ ?_ ?_
    | with_reducible refine Acts.iteStep ?_ (fun _ => ?_)
    | with_reducible refine Acts.foldl ?_ (fun _ _ _ => ?_)
    | with_reducible refine ActsNext.next ?_
    | with_reducible refine ActsNext.ite ?_ ?_
    | dsimp -proj only
    | split)

theorem writeQueueFlush_acts {F : List Part} {S : State} (w : Nat) {s : State} (h : Acts F S s)
    (hs : subParts [.regs, .ports, .queue, .pipe, .observe, .noticeSeq] F = true) : Acts F S (writeQueueFlush s w) := by
  refine Acts.step h ?_ hs
  unfold writeQueueFlush
  repeat' (first
    | with_reducible assumption
    | decide
    | with_reducible exact Acts.refl _ _
    | with_reducible refine wr_acts _ _ ?_ ?_
    | with_reducible refine flushQueue_acts _ ?_ ?_
    | with_reducible refine Acts.iteStep ?_ (fun _ => ?_)
    | with_reducible refine Acts.foldl ?_ (fun _ _ _ => ?_)
    | dsimp -proj only
    | split)

theorem execQueueFlush_acts {F : List Part} {S : State} (queue : Nat) {s : State} (h : Acts F S s)
    (hs : subParts [.regs, .ports, .queue, .pipe, .observe, .noticeSeq] F = true) : ActsNext F S (execQueueFlush queue s) := by
  refine ActsNext.step h ?_ hs
  unfold execQueueFlush
  repeat' (first
    | with_reducible assumption
    | decide
    | with_reducible exact Acts.refl _ _
    | with_reducible refine writeQueueFlush_acts _ ?_ ?_
    | with_reducible refine Acts.iteStep ?_ (fun _ => ?_)
    | with_reducible refine Acts.foldl ?_ (fun _ _ _ => ?_)
    | with_reducible refine ActsNext.next ?_
    | with_reducible refine ActsNext.ite ?_ ?_
    | dsimp -proj only
    | split)

theorem setupDataPath_acts {F : List Part} {S : State} (uses : List Nat) {s : State} (h : Acts F S s)
    (hs : subParts [.queue] F = true) : Acts F S (setupDataPath s uses) := by
  refine Acts.step h ?_ hs
  unfold setupDataPath
  repeat' (first
    | with_reducible assumption
    | decide
    | with_reducible exact Acts.refl _ _
    | with_reducible refine setQ_acts _ _ ?_ ?_
    | with_reducible refine Acts.iteStep ?_ (fun _ => ?_)
    | with_reducible refine Acts.foldl ?_ (fun _ _ _ => ?_)
    | dsimp -proj only
    | split)

theorem restartQueues_acts {F : List Part} {S : State}  {s : State} (h : Acts F S s)
    (hs : subParts [.queue] F = true) : Acts F S (restartQueues s) := by
  refine Acts.step h ?_ hs
  unfold restartQueues
  repeat' (first
    | with_reducible assumption
    | decide
    | with_reducible exact Acts.refl _ _
    | with_reducible refine Acts.iteStep ?_ (fun _ => ?_)
    | with_reducible refine Acts.foldl ?_ (fun _ _ _ => ?_)
    | dsimp -proj only
    | (with_reducible refine Acts.set_queue ?_ ?_; first | with_reducible assumption | with_reducible exact Acts.refl _ _ | with_reducible refine Acts.iteStep ?_ (fun _ => ?_) | with_reducible refine Acts.foldl ?_ (fun _ _ _ => ?_))
    | split)

end Sys2Proof.Machine
end

