-- ==== Sys2Proof/Laws/ActsTally.lean ====
section
/-! SUPPORT. What each operation of Machine/Tally.lean may touch, and that it keeps the invariant. -/

namespace Sys2Proof.Machine

theorem attributePeriod_acts {F : List Part} {S : State}  {s : State} (h : Acts F S s)
    (hs : subParts [.tally] F = true) : Acts F S (attributePeriod s) := by
  refine Acts.step h ?_ hs
  unfold attributePeriod
  repeat' (first
    | with_reducible assumption
    | decide
    | with_reducible exact Acts.refl _ _
    | with_reducible refine modEpoch_acts _ ?_ ?_
    | with_reducible refine Acts.iteStep ?_ (fun _ => ?_)
    | with_reducible refine Acts.foldl ?_ (fun _ _ _ => ?_)
    | dsimp -proj only
    | split)

theorem clearKeys_acts {F : List Part} {S : State}  {s : State} (h : Acts F S s)
    (hs : subParts [.tally] F = true) : Acts F S (clearKeys s) := by
  refine Acts.step h ?_ hs
  unfold clearKeys
  repeat' (first
    | with_reducible assumption
    | decide
    | with_reducible exact Acts.refl _ _
    | with_reducible refine Acts.iteStep ?_ (fun _ => ?_)
    | with_reducible refine Acts.foldl ?_ (fun _ _ _ => ?_)
    | dsimp -proj only
    | (with_reducible refine Acts.set_tally ?_ ?_ ?_; first | with_reducible assumption | with_reducible exact Acts.refl _ _ | with_reducible refine Acts.iteStep ?_ (fun _ => ?_) | with_reducible refine Acts.foldl ?_ (fun _ _ _ => ?_))
    | split
    | with_reducible exact TallyOk.keep_headKeys_computeKeys_adaptKeys_memKeys_linkJobs _ _ _ _ _ _
    | (exact fun _ => rfl)
    | (intro k; rw [List.length_map]; exact k)
    | (exact fun h => Mem.wf_writeBytes _ _ h)
    | (exact fun h => Mem.wf_write _ _ h)
    | (intro _; exact Nat.zero_le _)
    | with_reducible with_reducible exact fun h => h
    | (intro h; rw [modAt_length]; exact h))

theorem chargePeriod_acts {F : List Part} {S : State}  {s : State} (h : Acts F S s)
    (hs : subParts [.tally] F = true) : Acts F S (chargePeriod s) := by
  refine Acts.step h ?_ hs
  unfold chargePeriod
  repeat' (first
    | with_reducible assumption
    | decide
    | with_reducible exact Acts.refl _ _
    | with_reducible refine attributePeriod_acts  ?_ ?_
    | with_reducible refine flagEpoch_acts _ ?_ ?_
    | with_reducible refine Acts.iteStep ?_ (fun _ => ?_)
    | with_reducible refine Acts.foldl ?_ (fun _ _ _ => ?_)
    | dsimp -proj only
    | split)

theorem chargeCutPeriod_acts {F : List Part} {S : State}  {s : State} (h : Acts F S s)
    (hs : subParts [.tally] F = true) : Acts F S (chargeCutPeriod s) := by
  refine Acts.step h ?_ hs
  unfold chargeCutPeriod
  repeat' (first
    | with_reducible assumption
    | decide
    | with_reducible exact Acts.refl _ _
    | with_reducible refine chargePeriod_acts  ?_ ?_
    | with_reducible refine Acts.iteStep ?_ (fun _ => ?_)
    | with_reducible refine Acts.foldl ?_ (fun _ _ _ => ?_)
    | dsimp -proj only
    | (with_reducible refine Acts.set_tally ?_ ?_ ?_; first | with_reducible assumption | with_reducible exact Acts.refl _ _ | with_reducible refine chargePeriod_acts  ?_ ?_ | with_reducible refine Acts.iteStep ?_ (fun _ => ?_) | with_reducible refine Acts.foldl ?_ (fun _ _ _ => ?_))
    | (with_reducible refine Acts.set_tally ?_ ?_ ?_; first | with_reducible assumption | with_reducible exact Acts.refl _ _ | with_reducible refine chargePeriod_acts  ?_ ?_ | with_reducible refine Acts.iteStep ?_ (fun _ => ?_) | with_reducible refine Acts.foldl ?_ (fun _ _ _ => ?_) | (with_reducible refine Acts.set_tally ?_ ?_ ?_; first | with_reducible assumption | with_reducible exact Acts.refl _ _ | with_reducible refine chargePeriod_acts  ?_ ?_ | with_reducible refine Acts.iteStep ?_ (fun _ => ?_) | with_reducible refine Acts.foldl ?_ (fun _ _ _ => ?_)))
    | split
    | (exact fun h => h)
    | with_reducible exact TallyOk.keep_open _ _
    | with_reducible exact TallyOk.keep_frozen _ _
    | (exact fun _ => rfl)
    | (intro k; rw [List.length_map]; exact k)
    | (exact fun h => Mem.wf_writeBytes _ _ h)
    | (exact fun h => Mem.wf_write _ _ h)
    | (intro _; exact Nat.zero_le _)
    | with_reducible with_reducible exact fun h => h
    | (intro h; rw [modAt_length]; exact h))

theorem execPeriodEnd_acts {F : List Part} {S : State} (hub : Sys2Proof.Counts) (links : Sys2Proof.Counts) (arrays : Sys2Proof.Counts) (fabric : Sys2Proof.Counts) (memory : Sys2Proof.Counts) {s : State} (h : Acts F S s)
    (hs : subParts [.regs, .sched, .queue, .pipe, .power, .tally, .peer, .observe, .out, .noticeSeq, .fresh] F = true) : ActsNext F S (execPeriodEnd hub links arrays fabric memory s) := by
  refine ActsNext.step h ?_ hs
  unfold execPeriodEnd
  repeat' (first
    | with_reducible assumption
    | decide
    | with_reducible exact Acts.refl _ _
    | with_reducible refine accrue_acts  ?_ ?_
    | with_reducible refine divideCap_acts _ _ _ _ ?_ ?_
    | with_reducible refine estimatePeriod_acts _ ?_ ?_
    | with_reducible refine chargeCutPeriod_acts  ?_ ?_
    | with_reducible refine chargePeriod_acts  ?_ ?_
    | with_reducible refine keepKilo_acts  ?_ ?_
    | with_reducible refine nextPeriod_acts  ?_ ?_
    | with_reducible refine clearKeys_acts  ?_ ?_
    | with_reducible refine wr_acts _ _ ?_ ?_
    | with_reducible refine pump_acts _ _ ?_ ?_
    | with_reducible refine Acts.iteStep ?_ (fun _ => ?_)
    | with_reducible refine Acts.foldl ?_ (fun _ _ _ => ?_)
    | with_reducible refine ActsNext.next ?_
    | with_reducible refine ActsNext.ite ?_ ?_
    | dsimp -proj only
    | (with_reducible refine Acts.set_tally ?_ ?_ ?_; first | with_reducible assumption | with_reducible exact Acts.refl _ _ | with_reducible refine accrue_acts  ?_ ?_ | with_reducible refine divideCap_acts _ _ _ _ ?_ ?_ | with_reducible refine estimatePeriod_acts _ ?_ ?_ | with_reducible refine chargeCutPeriod_acts  ?_ ?_ | with_reducible refine chargePeriod_acts  ?_ ?_ | with_reducible refine keepKilo_acts  ?_ ?_ | with_reducible refine nextPeriod_acts  ?_ ?_ | with_reducible refine clearKeys_acts  ?_ ?_ | with_reducible refine wr_acts _ _ ?_ ?_ | with_reducible refine pump_acts _ _ ?_ ?_ | with_reducible refine Acts.iteStep ?_ (fun _ => ?_) | with_reducible refine Acts.foldl ?_ (fun _ _ _ => ?_) | with_reducible refine ActsNext.next ?_ | with_reducible refine ActsNext.ite ?_ ?_)
    | split
    | with_reducible exact TallyOk.keep_cutPeriod _ _
    | (exact fun _ => rfl)
    | (intro k; rw [List.length_map]; exact k)
    | (exact fun h => Mem.wf_writeBytes _ _ h)
    | (exact fun h => Mem.wf_write _ _ h)
    | (intro _; exact Nat.zero_le _)
    | with_reducible with_reducible exact fun h => h
    | (intro h; rw [modAt_length]; exact h))

theorem execEpochClose_acts {F : List Part} {S : State}  {s : State} (h : Acts F S s)
    (hs : subParts [.regs, .dial, .tally] F = true) : ActsNext F S (execEpochClose s) := by
  refine ActsNext.step h ?_ hs
  unfold execEpochClose
  repeat' (first
    | with_reducible assumption
    | decide
    | with_reducible exact Acts.refl _ _
    | with_reducible refine endEpoch_acts _ _ ?_ ?_
    | with_reducible refine startEpoch_acts _ _ _ ?_ ?_
    | with_reducible refine Acts.iteStep ?_ (fun _ => ?_)
    | with_reducible refine Acts.foldl ?_ (fun _ _ _ => ?_)
    | with_reducible refine ActsNext.next ?_
    | with_reducible refine ActsNext.ite ?_ ?_
    | dsimp -proj only
    | split)

theorem modNextEpoch_acts {F : List Part} {S : State} (f : Epoch → Epoch) {s : State} (h : Acts F S s)
    (hs : subParts [.tally] F = true) : Acts F S (modNextEpoch s f) := by
  refine Acts.step h ?_ hs
  unfold modNextEpoch
  repeat' (first
    | with_reducible assumption
    | decide
    | with_reducible exact Acts.refl _ _
    | with_reducible refine modEpoch_acts _ ?_ ?_
    | with_reducible refine Acts.iteStep ?_ (fun _ => ?_)
    | with_reducible refine Acts.foldl ?_ (fun _ _ _ => ?_)
    | dsimp -proj only
    | (with_reducible refine Acts.set_tally ?_ ?_ ?_; first | with_reducible assumption | with_reducible exact Acts.refl _ _ | with_reducible refine modEpoch_acts _ ?_ ?_ | with_reducible refine Acts.iteStep ?_ (fun _ => ?_) | with_reducible refine Acts.foldl ?_ (fun _ _ _ => ?_))
    | split
    | with_reducible exact TallyOk.keep_frozen _ _
    | (exact fun _ => rfl)
    | (intro k; rw [List.length_map]; exact k)
    | (exact fun h => Mem.wf_writeBytes _ _ h)
    | (exact fun h => Mem.wf_write _ _ h)
    | (intro _; exact Nat.zero_le _)
    | with_reducible with_reducible exact fun h => h
    | (intro h; rw [modAt_length]; exact h))

theorem showRing_acts {F : List Part} {S : State}  {s : State} (h : Acts F S s)
    (hs : subParts [.regs] F = true) : Acts F S (showRing s) := by
  refine Acts.step h ?_ hs
  unfold showRing
  repeat' (first
    | with_reducible assumption
    | decide
    | with_reducible exact Acts.refl _ _
    | with_reducible refine wr_acts _ _ ?_ ?_
    | with_reducible refine Acts.iteStep ?_ (fun _ => ?_)
    | with_reducible refine Acts.foldl ?_ (fun _ _ _ => ?_)
    | dsimp -proj only
    | split)

theorem pushEntry_acts {F : List Part} {S : State} (t : TallyEntry) {s : State} (h : Acts F S s)
    (hs : subParts [.regs, .queue, .tally, .observe, .noticeSeq] F = true) : Acts F S (pushEntry s t) := by
  refine Acts.step h ?_ hs
  unfold pushEntry
  split
  · next old rest e =>
    refine Acts.cond (fun hc => ?_) fun _ => ?_
    · refine showRing_acts (Acts.set_tally (Acts.refl _ s) rfl (TallyOk.keep_ring _ _ fun _ => ?_)) (by decide)
      rw [List.length_append]
      exact hc
    · dsimp -proj only
      have k := showRing_acts (F := [.regs, .queue, .tally, .observe, .noticeSeq]) (Acts.set_tally (Acts.refl _ s) rfl
        (TallyOk.keep_ring _ (rest ++ [t]) fun k => by rw [e] at k; rw [List.length_append]; exact k)) (by decide)
      exact Acts.ite (raise_acts _ _ (bump_acts _ _ k (by decide)) (by decide)) k
  · exact showRing_acts (Acts.set_tally (Acts.refl _ s) rfl (TallyOk.keep_ring _ _ fun _ => by simp)) (by decide)


theorem finishClose_acts {F : List Part} {S : State} (e : Epoch) {s : State} (h : Acts F S s)
    (hs : subParts [.regs, .queue, .tally, .observe, .noticeSeq] F = true) : Acts F S (finishClose s e) := by
  refine Acts.step h ?_ hs
  unfold finishClose
  repeat' (first
    | with_reducible assumption
    | decide
    | with_reducible exact Acts.refl _ _
    | with_reducible refine modNextEpoch_acts _ ?_ ?_
    | with_reducible refine wr_acts _ _ ?_ ?_
    | with_reducible refine pushEntry_acts _ ?_ ?_
    | with_reducible refine raise_acts _ _ ?_ ?_
    | with_reducible refine bump_acts _ _ ?_ ?_
    | with_reducible refine showClosing_acts  ?_ ?_
    | with_reducible refine Acts.iteStep ?_ (fun _ => ?_)
    | with_reducible refine Acts.foldl ?_ (fun _ _ _ => ?_)
    | dsimp -proj only
    | (with_reducible refine Acts.set_tally ?_ ?_ ?_; first | with_reducible assumption | with_reducible exact Acts.refl _ _ | with_reducible refine modNextEpoch_acts _ ?_ ?_ | with_reducible refine wr_acts _ _ ?_ ?_ | with_reducible refine pushEntry_acts _ ?_ ?_ | with_reducible refine raise_acts _ _ ?_ ?_ | with_reducible refine bump_acts _ _ ?_ ?_ | with_reducible refine showClosing_acts  ?_ ?_ | with_reducible refine Acts.iteStep ?_ (fun _ => ?_) | with_reducible refine Acts.foldl ?_ (fun _ _ _ => ?_))
    | (with_reducible refine Acts.set_tally ?_ ?_ ?_; first | with_reducible assumption | with_reducible exact Acts.refl _ _ | with_reducible refine modNextEpoch_acts _ ?_ ?_ | with_reducible refine wr_acts _ _ ?_ ?_ | with_reducible refine pushEntry_acts _ ?_ ?_ | with_reducible refine raise_acts _ _ ?_ ?_ | with_reducible refine bump_acts _ _ ?_ ?_ | with_reducible refine showClosing_acts  ?_ ?_ | with_reducible refine Acts.iteStep ?_ (fun _ => ?_) | with_reducible refine Acts.foldl ?_ (fun _ _ _ => ?_) | (with_reducible refine Acts.set_tally ?_ ?_ ?_; first | with_reducible assumption | with_reducible exact Acts.refl _ _ | with_reducible refine modNextEpoch_acts _ ?_ ?_ | with_reducible refine wr_acts _ _ ?_ ?_ | with_reducible refine pushEntry_acts _ ?_ ?_ | with_reducible refine raise_acts _ _ ?_ ?_ | with_reducible refine bump_acts _ _ ?_ ?_ | with_reducible refine showClosing_acts  ?_ ?_ | with_reducible refine Acts.iteStep ?_ (fun _ => ?_) | with_reducible refine Acts.foldl ?_ (fun _ _ _ => ?_)))
    | split
    | with_reducible exact TallyOk.keep_frozen_levelsDone _ _ _
    | with_reducible exact TallyOk.keep_carry_seq_prevHash _ _ _ _
    | (exact fun _ => rfl)
    | (intro k; rw [List.length_map]; exact k)
    | (exact fun h => Mem.wf_writeBytes _ _ h)
    | (exact fun h => Mem.wf_write _ _ h)
    | (intro _; exact Nat.zero_le _)
    | with_reducible with_reducible exact fun h => h
    | (intro h; rw [modAt_length]; exact h))

theorem execTallyClose_acts {F : List Part} {S : State}  {s : State} (h : Acts F S s)
    (hs : subParts [.regs, .sched, .queue, .tally, .observe, .noticeSeq] F = true) : ActsNext F S (execTallyClose s) := by
  refine ActsNext.step h ?_ hs
  unfold execTallyClose
  repeat' (first
    | with_reducible assumption
    | decide
    | with_reducible exact Acts.refl _ _
    | with_reducible refine useKind_acts _ _ _ ?_ ?_
    | with_reducible refine finishClose_acts _ ?_ ?_
    | with_reducible refine Acts.iteStep ?_ (fun _ => ?_)
    | with_reducible refine Acts.foldl ?_ (fun _ _ _ => ?_)
    | with_reducible refine ActsNext.next ?_
    | with_reducible refine ActsNext.ite ?_ ?_
    | dsimp -proj only
    | (with_reducible refine Acts.set_tally ?_ ?_ ?_; first | with_reducible assumption | with_reducible exact Acts.refl _ _ | with_reducible refine useKind_acts _ _ _ ?_ ?_ | with_reducible refine finishClose_acts _ ?_ ?_ | with_reducible refine Acts.iteStep ?_ (fun _ => ?_) | with_reducible refine Acts.foldl ?_ (fun _ _ _ => ?_) | with_reducible refine ActsNext.next ?_ | with_reducible refine ActsNext.ite ?_ ?_)
    | split
    | with_reducible exact TallyOk.keep_levelsDone _ _
    | (exact fun _ => rfl)
    | (intro k; rw [List.length_map]; exact k)
    | (exact fun h => Mem.wf_writeBytes _ _ h)
    | (exact fun h => Mem.wf_write _ _ h)
    | (intro _; exact Nat.zero_le _)
    | with_reducible with_reducible exact fun h => h
    | (intro h; rw [modAt_length]; exact h))

theorem execSignLate_acts {F : List Part} {S : State}  {s : State} (h : Acts F S s)
    (hs : subParts [.regs, .queue, .tally, .observe, .noticeSeq] F = true) : ActsNext F S (execSignLate s) := by
  refine ActsNext.step h ?_ hs
  unfold execSignLate
  repeat' (first
    | with_reducible assumption
    | decide
    | with_reducible exact Acts.refl _ _
    | with_reducible refine raise_acts _ _ ?_ ?_
    | with_reducible refine bump_acts _ _ ?_ ?_
    | with_reducible refine Acts.iteStep ?_ (fun _ => ?_)
    | with_reducible refine Acts.foldl ?_ (fun _ _ _ => ?_)
    | with_reducible refine ActsNext.next ?_
    | with_reducible refine ActsNext.ite ?_ ?_
    | dsimp -proj only
    | (with_reducible refine Acts.set_tally ?_ ?_ ?_; first | with_reducible assumption | with_reducible exact Acts.refl _ _ | with_reducible refine raise_acts _ _ ?_ ?_ | with_reducible refine bump_acts _ _ ?_ ?_ | with_reducible refine Acts.iteStep ?_ (fun _ => ?_) | with_reducible refine Acts.foldl ?_ (fun _ _ _ => ?_) | with_reducible refine ActsNext.next ?_ | with_reducible refine ActsNext.ite ?_ ?_)
    | (with_reducible refine Acts.set_tally ?_ ?_ ?_; first | with_reducible assumption | with_reducible exact Acts.refl _ _ | with_reducible refine raise_acts _ _ ?_ ?_ | with_reducible refine bump_acts _ _ ?_ ?_ | with_reducible refine Acts.iteStep ?_ (fun _ => ?_) | with_reducible refine Acts.foldl ?_ (fun _ _ _ => ?_) | with_reducible refine ActsNext.next ?_ | with_reducible refine ActsNext.ite ?_ ?_ | (with_reducible refine Acts.set_tally ?_ ?_ ?_; first | with_reducible assumption | with_reducible exact Acts.refl _ _ | with_reducible refine raise_acts _ _ ?_ ?_ | with_reducible refine bump_acts _ _ ?_ ?_ | with_reducible refine Acts.iteStep ?_ (fun _ => ?_) | with_reducible refine Acts.foldl ?_ (fun _ _ _ => ?_) | with_reducible refine ActsNext.next ?_ | with_reducible refine ActsNext.ite ?_ ?_))
    | split
    | with_reducible refine TallyOk.keep_ring _ _ ?_
    | with_reducible exact TallyOk.keep_frozen _ _
    | (exact fun _ => rfl)
    | (intro k; rw [List.length_map]; exact k)
    | (exact fun h => Mem.wf_writeBytes _ _ h)
    | (exact fun h => Mem.wf_write _ _ h)
    | (intro _; exact Nat.zero_le _)
    | with_reducible with_reducible exact fun h => h
    | (intro h; rw [modAt_length]; exact h))

theorem collectTallies_acts {F : List Part} {S : State} (seq : Nat) {s : State} (h : Acts F S s)
    (hs : subParts [.regs, .tally] F = true) : Acts F S (collectTallies s seq) := by
  refine Acts.step h ?_ hs
  unfold collectTallies
  repeat' (first
    | with_reducible assumption
    | decide
    | with_reducible exact Acts.refl _ _
    | with_reducible refine wr_acts _ _ ?_ ?_
    | with_reducible refine showRing_acts  ?_ ?_
    | with_reducible refine Acts.iteStep ?_ (fun _ => ?_)
    | with_reducible refine Acts.foldl ?_ (fun _ _ _ => ?_)
    | dsimp -proj only
    | (with_reducible refine Acts.set_tally ?_ ?_ ?_; first | with_reducible assumption | with_reducible exact Acts.refl _ _ | with_reducible refine wr_acts _ _ ?_ ?_ | with_reducible refine showRing_acts  ?_ ?_ | with_reducible refine Acts.iteStep ?_ (fun _ => ?_) | with_reducible refine Acts.foldl ?_ (fun _ _ _ => ?_))
    | split
    | with_reducible exact TallyOk.keep_collected _ _
    | (exact fun _ => rfl)
    | (intro k; rw [List.length_map]; exact k)
    | (exact fun h => Mem.wf_writeBytes _ _ h)
    | (exact fun h => Mem.wf_write _ _ h)
    | (intro _; exact Nat.zero_le _)
    | with_reducible with_reducible exact fun h => h
    | (intro h; rw [modAt_length]; exact h))

theorem execTallyCollected_acts {F : List Part} {S : State} (seq : Sys2Proof.Word) {s : State} (h : Acts F S s)
    (hs : subParts [.regs, .tally] F = true) : ActsNext F S (execTallyCollected seq s) := by
  refine ActsNext.step h ?_ hs
  unfold execTallyCollected
  repeat' (first
    | with_reducible assumption
    | decide
    | with_reducible exact Acts.refl _ _
    | with_reducible refine collectTallies_acts _ ?_ ?_
    | with_reducible refine Acts.iteStep ?_ (fun _ => ?_)
    | with_reducible refine Acts.foldl ?_ (fun _ _ _ => ?_)
    | with_reducible refine ActsNext.next ?_
    | with_reducible refine ActsNext.ite ?_ ?_
    | dsimp -proj only
    | split)

theorem selectAccount_acts {F : List Part} {S : State} (account : Nat) {s : State} (h : Acts F S s)
    (hs : subParts [.regs] F = true) : Acts F S (selectAccount s account) := by
  refine Acts.step h ?_ hs
  unfold selectAccount
  repeat' (first
    | with_reducible assumption
    | decide
    | with_reducible exact Acts.refl _ _
    | with_reducible refine wr_acts _ _ ?_ ?_
    | with_reducible refine Acts.iteStep ?_ (fun _ => ?_)
    | with_reducible refine Acts.foldl ?_ (fun _ _ _ => ?_)
    | dsimp -proj only
    | split)

theorem execTallySelect_acts {F : List Part} {S : State} (account : Nat) {s : State} (h : Acts F S s)
    (hs : subParts [.regs] F = true) : ActsNext F S (execTallySelect account s) := by
  refine ActsNext.step h ?_ hs
  unfold execTallySelect
  repeat' (first
    | with_reducible assumption
    | decide
    | with_reducible exact Acts.refl _ _
    | with_reducible refine selectAccount_acts _ ?_ ?_
    | with_reducible refine Acts.iteStep ?_ (fun _ => ?_)
    | with_reducible refine Acts.foldl ?_ (fun _ _ _ => ?_)
    | with_reducible refine ActsNext.next ?_
    | with_reducible refine ActsNext.ite ?_ ?_
    | dsimp -proj only
    | split)

end Sys2Proof.Machine
end

