-- ==== Sys2Proof/Laws/ActsStart.lean ====
section
/-! SUPPORT. What each operation of Machine/Start.lean may touch, and that it keeps the invariant. -/

namespace Sys2Proof.Machine

theorem refitPort_acts {F : List Part} {S : State} (p : Nat) {s : State} (h : Acts F S s)
    (hs : subParts [.regs, .ports] F = true) : Acts F S (refitPort s p) := by
  refine Acts.step h ?_ hs
  unfold refitPort
  repeat' (first
    | with_reducible assumption
    | decide
    | with_reducible exact Acts.refl _ _
    | with_reducible refine showLanes_acts _ ?_ ?_
    | with_reducible refine portDown_acts _ ?_ ?_
    | with_reducible refine Acts.iteStep ?_ (fun _ => ?_)
    | with_reducible refine Acts.foldl ?_ (fun _ _ _ => ?_)
    | dsimp -proj only
    | split)

theorem refitLink_acts {F : List Part} {S : State} (j : Nat) {s : State} (h : Acts F S s)
    (hs : subParts [.regs, .queue, .peer, .observe, .noticeSeq] F = true) : Acts F S (refitLink s j) := by
  refine Acts.step h ?_ hs
  unfold refitLink
  repeat' (first
    | with_reducible assumption
    | decide
    | with_reducible exact Acts.refl _ _
    | with_reducible refine linkLost_acts _ ?_ ?_
    | with_reducible refine Acts.iteStep ?_ (fun _ => ?_)
    | with_reducible refine Acts.foldl ?_ (fun _ _ _ => ?_)
    | dsimp -proj only
    | split)

theorem refitLanes_acts {F : List Part} {S : State}  {s : State} (h : Acts F S s)
    (hs : subParts [.regs, .ports, .queue, .peer, .observe, .noticeSeq] F = true) : Acts F S (refitLanes s) := by
  refine Acts.step h ?_ hs
  unfold refitLanes
  repeat' (first
    | with_reducible assumption
    | decide
    | with_reducible exact Acts.refl _ _
    | with_reducible refine refitLink_acts _ ?_ ?_
    | with_reducible refine refitPort_acts _ ?_ ?_
    | with_reducible refine Acts.iteStep ?_ (fun _ => ?_)
    | with_reducible refine Acts.foldl ?_ (fun _ _ _ => ?_)
    | dsimp -proj only
    | split)

theorem decideStart_acts {F : List Part} {S : State}  {s : State} (h : Acts F S s)
    (hs : subParts [.regs, .sched, .queue, .secure, .observe, .noticeSeq] F = true) : Acts F S (decideStart s) := by
  refine Acts.step h ?_ hs
  unfold decideStart
  repeat' (first
    | with_reducible assumption
    | decide
    | with_reducible exact Acts.refl _ _
    | with_reducible refine wrB_acts _ _ ?_ ?_
    | with_reducible refine raise_acts _ _ ?_ ?_
    | with_reducible refine wr_acts _ _ ?_ ?_
    | with_reducible refine Acts.iteStep ?_ (fun _ => ?_)
    | with_reducible refine Acts.foldl ?_ (fun _ _ _ => ?_)
    | dsimp -proj only
    | (with_reducible refine Acts.set_sched_secure ?_ ?_ ?_ ?_; first | with_reducible assumption | with_reducible exact Acts.refl _ _ | with_reducible refine wrB_acts _ _ ?_ ?_ | with_reducible refine raise_acts _ _ ?_ ?_ | with_reducible refine wr_acts _ _ ?_ ?_ | with_reducible refine Acts.iteStep ?_ (fun _ => ?_) | with_reducible refine Acts.foldl ?_ (fun _ _ _ => ?_))
    | split
    | with_reducible exact SchedOk.keep_chosen _ _
    | (exact fun _ => rfl)
    | (intro k; rw [List.length_map]; exact k)
    | (exact fun h => Mem.wf_writeBytes _ _ h)
    | (exact fun h => Mem.wf_write _ _ h)
    | (intro _; exact Nat.zero_le _)
    | with_reducible with_reducible exact fun h => h
    | (intro h; rw [modAt_length]; exact h))

theorem execStart_acts {F : List Part} {S : State}  {s : State} (h : Acts F S s)
    (hs : subParts [.regs, .sched, .queue, .secure, .observe, .noticeSeq] F = true) : ActsNext F S (execStart s) := by
  refine ActsNext.step h ?_ hs
  unfold execStart
  repeat' (first
    | with_reducible assumption
    | decide
    | with_reducible exact Acts.refl _ _
    | with_reducible refine decideStart_acts  ?_ ?_
    | with_reducible refine wrB_acts _ _ ?_ ?_
    | with_reducible refine Acts.iteStep ?_ (fun _ => ?_)
    | with_reducible refine Acts.foldl ?_ (fun _ _ _ => ?_)
    | with_reducible refine ActsNext.next ?_
    | with_reducible refine ActsNext.ite ?_ ?_
    | dsimp -proj only
    | split)

theorem showSchedule_acts {F : List Part} {S : State} (c : Schedule) {s : State} (h : Acts F S s)
    (hs : subParts [.regs] F = true) : Acts F S (showSchedule s c) := by
  refine Acts.step h ?_ hs
  unfold showSchedule
  repeat' (first
    | with_reducible assumption
    | decide
    | with_reducible exact Acts.refl _ _
    | with_reducible refine wr_acts _ _ ?_ ?_
    | with_reducible refine Acts.iteStep ?_ (fun _ => ?_)
    | with_reducible refine Acts.foldl ?_ (fun _ _ _ => ?_)
    | dsimp -proj only
    | split)

theorem activateStaged_acts {F : List Part} {S : State} (slot : Nat) {s : State} (h : Acts F S s)
    (hs : subParts [.regs, .slots] F = true) : Acts F S (activateStaged s slot) := by
  refine Acts.step h ?_ hs
  unfold activateStaged
  repeat' (first
    | with_reducible assumption
    | decide
    | with_reducible exact Acts.refl _ _
    | with_reducible refine putSlot_acts _ _ ?_ ?_
    | with_reducible refine Acts.iteStep ?_ (fun _ => ?_)
    | with_reducible refine Acts.foldl ?_ (fun _ _ _ => ?_)
    | dsimp -proj only
    | split)

theorem admissionSwap_acts {F : List Part} {S : State} (slot : Nat) {s : State} (h : Acts F S s)
    (hs : subParts [.regs, .queue, .pipe, .slots, .quant, .observe, .noticeSeq] F = true) : Acts F S (admissionSwap s slot) := by
  refine Acts.step h ?_ hs
  unfold admissionSwap
  repeat' (first
    | with_reducible assumption
    | decide
    | with_reducible exact Acts.refl _ _
    | with_reducible refine takeSwap_acts _ _ ?_ ?_
    | with_reducible refine Acts.iteStep ?_ (fun _ => ?_)
    | with_reducible refine Acts.foldl ?_ (fun _ _ _ => ?_)
    | dsimp -proj only
    | split)

theorem restartGens_acts {F : List Part} {S : State}  {s : State} (h : Acts F S s)
    (hs : subParts [.regs, .sched, .queue, .slots, .observe, .noticeSeq] F = true) : Acts F S (restartGens s) := by
  refine Acts.step h ?_ hs
  unfold restartGens
  repeat' (first
    | with_reducible assumption
    | decide
    | with_reducible exact Acts.refl _ _
    | with_reducible refine traceGen_acts _ _ _ _ ?_ ?_
    | with_reducible refine Acts.iteStep ?_ (fun _ => ?_)
    | with_reducible refine Acts.foldl ?_ (fun _ _ _ => ?_)
    | dsimp -proj only
    | (with_reducible refine Acts.set_sched_slots ?_ ?_ ?_ ?_ ?_; first | with_reducible assumption | with_reducible exact Acts.refl _ _ | with_reducible refine traceGen_acts _ _ _ _ ?_ ?_ | with_reducible refine Acts.iteStep ?_ (fun _ => ?_) | with_reducible refine Acts.foldl ?_ (fun _ _ _ => ?_))
    | split
    | with_reducible exact SchedOk.keep_genDue _ _
    | (generalize State.slots _ = y; intro h; simpa only [SlotsOk, modAt_length, List.length_map, List.length_zipIdx] using h)
    | (exact fun _ => rfl)
    | (intro k; rw [List.length_map]; exact k)
    | (exact fun h => Mem.wf_writeBytes _ _ h)
    | (exact fun h => Mem.wf_write _ _ h)
    | (intro _; exact Nat.zero_le _)
    | with_reducible with_reducible exact fun h => h
    | (intro h; rw [modAt_length]; exact h))

theorem firstGrants_acts {F : List Part} {S : State} (c : Schedule) {s : State} (h : Acts F S s)
    (hs : subParts [.regs, .sched] F = true) : Acts F S (firstGrants s c) := by
  refine Acts.step h ?_ hs
  unfold firstGrants
  repeat' (first
    | with_reducible assumption
    | decide
    | with_reducible exact Acts.refl _ _
    | with_reducible refine wr_acts _ _ ?_ ?_
    | with_reducible refine bump_acts _ _ ?_ ?_
    | with_reducible refine Acts.iteStep ?_ (fun _ => ?_)
    | with_reducible refine Acts.foldl ?_ (fun _ _ _ => ?_)
    | dsimp -proj only
    | (with_reducible refine Acts.set_sched ?_ ?_ ?_; first | with_reducible assumption | with_reducible exact Acts.refl _ _ | with_reducible refine wr_acts _ _ ?_ ?_ | with_reducible refine bump_acts _ _ ?_ ?_ | with_reducible refine Acts.iteStep ?_ (fun _ => ?_) | with_reducible refine Acts.foldl ?_ (fun _ _ _ => ?_))
    | split
    | with_reducible exact SchedOk.keep_acts_nextGrants_decided_capW_capNext _ _ _ _ _ _
    | (exact fun _ => rfl)
    | (intro k; rw [List.length_map]; exact k)
    | (exact fun h => Mem.wf_writeBytes _ _ h)
    | (exact fun h => Mem.wf_write _ _ h)
    | (intro _; exact Nat.zero_le _)
    | with_reducible with_reducible exact fun h => h
    | (intro h; rw [modAt_length]; exact h))

theorem firstRound_acts {F : List Part} {S : State} (c : Schedule) {s : State} (h : Acts F S s)
    (hs : subParts [.regs, .queue, .power, .observe, .noticeSeq] F = true) : Acts F S (firstRound s c) := by
  refine Acts.step h ?_ hs
  unfold firstRound
  repeat' (first
    | with_reducible assumption
    | decide
    | with_reducible exact Acts.refl _ _
    | with_reducible refine settleSupply_acts  ?_ ?_
    | with_reducible refine judgeRate_acts _ ?_ ?_
    | with_reducible refine wrB_acts _ _ ?_ ?_
    | with_reducible refine showPoint_acts  ?_ ?_
    | with_reducible refine Acts.iteStep ?_ (fun _ => ?_)
    | with_reducible refine Acts.foldl ?_ (fun _ _ _ => ?_)
    | dsimp -proj only
    | (with_reducible refine Acts.set_power ?_ ?_; first | with_reducible assumption | with_reducible exact Acts.refl _ _ | with_reducible refine settleSupply_acts  ?_ ?_ | with_reducible refine judgeRate_acts _ ?_ ?_ | with_reducible refine wrB_acts _ _ ?_ ?_ | with_reducible refine showPoint_acts  ?_ ?_ | with_reducible refine Acts.iteStep ?_ (fun _ => ?_) | with_reducible refine Acts.foldl ?_ (fun _ _ _ => ?_))
    | split)

theorem startSchedule_acts {F : List Part} {S : State} (c : Schedule) {s : State} (h : Acts F S s)
    (hs : subParts [.regs, .sched, .ports, .queue, .pipe, .slots, .quant, .power, .secure, .peer, .observe, .pins, .noticeSeq] F = true) : Acts F S (startSchedule s c) := by
  refine Acts.step h ?_ hs
  unfold startSchedule
  repeat' (first
    | with_reducible assumption
    | decide
    | with_reducible exact Acts.refl _ _
    | with_reducible refine wrB_acts _ _ ?_ ?_
    | with_reducible refine showSchedule_acts _ ?_ ?_
    | with_reducible refine firstGrants_acts _ ?_ ?_
    | with_reducible refine refitLanes_acts  ?_ ?_
    | with_reducible refine applyDomains_acts _ ?_ ?_
    | with_reducible refine enableDataPath_acts _ ?_ ?_
    | with_reducible refine firstRound_acts _ ?_ ?_
    | with_reducible refine admissionSwap_acts _ ?_ ?_
    | with_reducible refine restartGens_acts  ?_ ?_
    | with_reducible refine activateStaged_acts _ ?_ ?_
    | with_reducible refine openBatch_acts  ?_ ?_
    | with_reducible refine requestRestart_acts  ?_ ?_
    | with_reducible refine Acts.iteStep ?_ (fun _ => ?_)
    | with_reducible refine Acts.foldl ?_ (fun _ _ _ => ?_)
    | dsimp -proj only
    | (with_reducible refine Acts.set_sched_secure_pins ?_ ?_ ?_ ?_ ?_; first | with_reducible assumption | with_reducible exact Acts.refl _ _ | with_reducible refine wrB_acts _ _ ?_ ?_ | with_reducible refine showSchedule_acts _ ?_ ?_ | with_reducible refine firstGrants_acts _ ?_ ?_ | with_reducible refine refitLanes_acts  ?_ ?_ | with_reducible refine applyDomains_acts _ ?_ ?_ | with_reducible refine enableDataPath_acts _ ?_ ?_ | with_reducible refine firstRound_acts _ ?_ ?_ | with_reducible refine admissionSwap_acts _ ?_ ?_ | with_reducible refine restartGens_acts  ?_ ?_ | with_reducible refine activateStaged_acts _ ?_ ?_ | with_reducible refine openBatch_acts  ?_ ?_ | with_reducible refine requestRestart_acts  ?_ ?_ | with_reducible refine Acts.iteStep ?_ (fun _ => ?_) | with_reducible refine Acts.foldl ?_ (fun _ _ _ => ?_))
    | (with_reducible refine Acts.set_pipe ?_ ?_ ?_; first | with_reducible assumption | with_reducible exact Acts.refl _ _ | with_reducible refine wrB_acts _ _ ?_ ?_ | with_reducible refine showSchedule_acts _ ?_ ?_ | with_reducible refine firstGrants_acts _ ?_ ?_ | with_reducible refine refitLanes_acts  ?_ ?_ | with_reducible refine applyDomains_acts _ ?_ ?_ | with_reducible refine enableDataPath_acts _ ?_ ?_ | with_reducible refine firstRound_acts _ ?_ ?_ | with_reducible refine admissionSwap_acts _ ?_ ?_ | with_reducible refine restartGens_acts  ?_ ?_ | with_reducible refine activateStaged_acts _ ?_ ?_ | with_reducible refine openBatch_acts  ?_ ?_ | with_reducible refine requestRestart_acts  ?_ ?_ | with_reducible refine Acts.iteStep ?_ (fun _ => ?_) | with_reducible refine Acts.foldl ?_ (fun _ _ _ => ?_))
    | (with_reducible refine Acts.set_sched ?_ ?_ ?_; first | with_reducible assumption | with_reducible exact Acts.refl _ _ | with_reducible refine wrB_acts _ _ ?_ ?_ | with_reducible refine showSchedule_acts _ ?_ ?_ | with_reducible refine firstGrants_acts _ ?_ ?_ | with_reducible refine refitLanes_acts  ?_ ?_ | with_reducible refine applyDomains_acts _ ?_ ?_ | with_reducible refine enableDataPath_acts _ ?_ ?_ | with_reducible refine firstRound_acts _ ?_ ?_ | with_reducible refine admissionSwap_acts _ ?_ ?_ | with_reducible refine restartGens_acts  ?_ ?_ | with_reducible refine activateStaged_acts _ ?_ ?_ | with_reducible refine openBatch_acts  ?_ ?_ | with_reducible refine requestRestart_acts  ?_ ?_ | with_reducible refine Acts.iteStep ?_ (fun _ => ?_) | with_reducible refine Acts.foldl ?_ (fun _ _ _ => ?_))
    | (with_reducible refine Acts.set_sched_secure_pins ?_ ?_ ?_ ?_ ?_; first | with_reducible assumption | with_reducible exact Acts.refl _ _ | with_reducible refine wrB_acts _ _ ?_ ?_ | with_reducible refine showSchedule_acts _ ?_ ?_ | with_reducible refine firstGrants_acts _ ?_ ?_ | with_reducible refine refitLanes_acts  ?_ ?_ | with_reducible refine applyDomains_acts _ ?_ ?_ | with_reducible refine enableDataPath_acts _ ?_ ?_ | with_reducible refine firstRound_acts _ ?_ ?_ | with_reducible refine admissionSwap_acts _ ?_ ?_ | with_reducible refine restartGens_acts  ?_ ?_ | with_reducible refine activateStaged_acts _ ?_ ?_ | with_reducible refine openBatch_acts  ?_ ?_ | with_reducible refine requestRestart_acts  ?_ ?_ | with_reducible refine Acts.iteStep ?_ (fun _ => ?_) | with_reducible refine Acts.foldl ?_ (fun _ _ _ => ?_) | (with_reducible refine Acts.set_sched_secure_pins ?_ ?_ ?_ ?_ ?_; first | with_reducible assumption | with_reducible exact Acts.refl _ _ | with_reducible refine wrB_acts _ _ ?_ ?_ | with_reducible refine showSchedule_acts _ ?_ ?_ | with_reducible refine firstGrants_acts _ ?_ ?_ | with_reducible refine refitLanes_acts  ?_ ?_ | with_reducible refine applyDomains_acts _ ?_ ?_ | with_reducible refine enableDataPath_acts _ ?_ ?_ | with_reducible refine firstRound_acts _ ?_ ?_ | with_reducible refine admissionSwap_acts _ ?_ ?_ | with_reducible refine restartGens_acts  ?_ ?_ | with_reducible refine activateStaged_acts _ ?_ ?_ | with_reducible refine openBatch_acts  ?_ ?_ | with_reducible refine requestRestart_acts  ?_ ?_ | with_reducible refine Acts.iteStep ?_ (fun _ => ?_) | with_reducible refine Acts.foldl ?_ (fun _ _ _ => ?_)) | (with_reducible refine Acts.set_pipe ?_ ?_ ?_; first | with_reducible assumption | with_reducible exact Acts.refl _ _ | with_reducible refine wrB_acts _ _ ?_ ?_ | with_reducible refine showSchedule_acts _ ?_ ?_ | with_reducible refine firstGrants_acts _ ?_ ?_ | with_reducible refine refitLanes_acts  ?_ ?_ | with_reducible refine applyDomains_acts _ ?_ ?_ | with_reducible refine enableDataPath_acts _ ?_ ?_ | with_reducible refine firstRound_acts _ ?_ ?_ | with_reducible refine admissionSwap_acts _ ?_ ?_ | with_reducible refine restartGens_acts  ?_ ?_ | with_reducible refine activateStaged_acts _ ?_ ?_ | with_reducible refine openBatch_acts  ?_ ?_ | with_reducible refine requestRestart_acts  ?_ ?_ | with_reducible refine Acts.iteStep ?_ (fun _ => ?_) | with_reducible refine Acts.foldl ?_ (fun _ _ _ => ?_)) | (with_reducible refine Acts.set_sched ?_ ?_ ?_; first | with_reducible assumption | with_reducible exact Acts.refl _ _ | with_reducible refine wrB_acts _ _ ?_ ?_ | with_reducible refine showSchedule_acts _ ?_ ?_ | with_reducible refine firstGrants_acts _ ?_ ?_ | with_reducible refine refitLanes_acts  ?_ ?_ | with_reducible refine applyDomains_acts _ ?_ ?_ | with_reducible refine enableDataPath_acts _ ?_ ?_ | with_reducible refine firstRound_acts _ ?_ ?_ | with_reducible refine admissionSwap_acts _ ?_ ?_ | with_reducible refine restartGens_acts  ?_ ?_ | with_reducible refine activateStaged_acts _ ?_ ?_ | with_reducible refine openBatch_acts  ?_ ?_ | with_reducible refine requestRestart_acts  ?_ ?_ | with_reducible refine Acts.iteStep ?_ (fun _ => ?_) | with_reducible refine Acts.foldl ?_ (fun _ _ _ => ?_)))
    | (with_reducible refine Acts.set_pipe ?_ ?_ ?_; first | with_reducible assumption | with_reducible exact Acts.refl _ _ | with_reducible refine wrB_acts _ _ ?_ ?_ | with_reducible refine showSchedule_acts _ ?_ ?_ | with_reducible refine firstGrants_acts _ ?_ ?_ | with_reducible refine refitLanes_acts  ?_ ?_ | with_reducible refine applyDomains_acts _ ?_ ?_ | with_reducible refine enableDataPath_acts _ ?_ ?_ | with_reducible refine firstRound_acts _ ?_ ?_ | with_reducible refine admissionSwap_acts _ ?_ ?_ | with_reducible refine restartGens_acts  ?_ ?_ | with_reducible refine activateStaged_acts _ ?_ ?_ | with_reducible refine openBatch_acts  ?_ ?_ | with_reducible refine requestRestart_acts  ?_ ?_ | with_reducible refine Acts.iteStep ?_ (fun _ => ?_) | with_reducible refine Acts.foldl ?_ (fun _ _ _ => ?_) | (with_reducible refine Acts.set_sched_secure_pins ?_ ?_ ?_ ?_ ?_; first | with_reducible assumption | with_reducible exact Acts.refl _ _ | with_reducible refine wrB_acts _ _ ?_ ?_ | with_reducible refine showSchedule_acts _ ?_ ?_ | with_reducible refine firstGrants_acts _ ?_ ?_ | with_reducible refine refitLanes_acts  ?_ ?_ | with_reducible refine applyDomains_acts _ ?_ ?_ | with_reducible refine enableDataPath_acts _ ?_ ?_ | with_reducible refine firstRound_acts _ ?_ ?_ | with_reducible refine admissionSwap_acts _ ?_ ?_ | with_reducible refine restartGens_acts  ?_ ?_ | with_reducible refine activateStaged_acts _ ?_ ?_ | with_reducible refine openBatch_acts  ?_ ?_ | with_reducible refine requestRestart_acts  ?_ ?_ | with_reducible refine Acts.iteStep ?_ (fun _ => ?_) | with_reducible refine Acts.foldl ?_ (fun _ _ _ => ?_)) | (with_reducible refine Acts.set_pipe ?_ ?_ ?_; first | with_reducible assumption | with_reducible exact Acts.refl _ _ | with_reducible refine wrB_acts _ _ ?_ ?_ | with_reducible refine showSchedule_acts _ ?_ ?_ | with_reducible refine firstGrants_acts _ ?_ ?_ | with_reducible refine refitLanes_acts  ?_ ?_ | with_reducible refine applyDomains_acts _ ?_ ?_ | with_reducible refine enableDataPath_acts _ ?_ ?_ | with_reducible refine firstRound_acts _ ?_ ?_ | with_reducible refine admissionSwap_acts _ ?_ ?_ | with_reducible refine restartGens_acts  ?_ ?_ | with_reducible refine activateStaged_acts _ ?_ ?_ | with_reducible refine openBatch_acts  ?_ ?_ | with_reducible refine requestRestart_acts  ?_ ?_ | with_reducible refine Acts.iteStep ?_ (fun _ => ?_) | with_reducible refine Acts.foldl ?_ (fun _ _ _ => ?_)) | (with_reducible refine Acts.set_sched ?_ ?_ ?_; first | with_reducible assumption | with_reducible exact Acts.refl _ _ | with_reducible refine wrB_acts _ _ ?_ ?_ | with_reducible refine showSchedule_acts _ ?_ ?_ | with_reducible refine firstGrants_acts _ ?_ ?_ | with_reducible refine refitLanes_acts  ?_ ?_ | with_reducible refine applyDomains_acts _ ?_ ?_ | with_reducible refine enableDataPath_acts _ ?_ ?_ | with_reducible refine firstRound_acts _ ?_ ?_ | with_reducible refine admissionSwap_acts _ ?_ ?_ | with_reducible refine restartGens_acts  ?_ ?_ | with_reducible refine activateStaged_acts _ ?_ ?_ | with_reducible refine openBatch_acts  ?_ ?_ | with_reducible refine requestRestart_acts  ?_ ?_ | with_reducible refine Acts.iteStep ?_ (fun _ => ?_) | with_reducible refine Acts.foldl ?_ (fun _ _ _ => ?_)))
    | (with_reducible refine Acts.set_sched ?_ ?_ ?_; first | with_reducible assumption | with_reducible exact Acts.refl _ _ | with_reducible refine wrB_acts _ _ ?_ ?_ | with_reducible refine showSchedule_acts _ ?_ ?_ | with_reducible refine firstGrants_acts _ ?_ ?_ | with_reducible refine refitLanes_acts  ?_ ?_ | with_reducible refine applyDomains_acts _ ?_ ?_ | with_reducible refine enableDataPath_acts _ ?_ ?_ | with_reducible refine firstRound_acts _ ?_ ?_ | with_reducible refine admissionSwap_acts _ ?_ ?_ | with_reducible refine restartGens_acts  ?_ ?_ | with_reducible refine activateStaged_acts _ ?_ ?_ | with_reducible refine openBatch_acts  ?_ ?_ | with_reducible refine requestRestart_acts  ?_ ?_ | with_reducible refine Acts.iteStep ?_ (fun _ => ?_) | with_reducible refine Acts.foldl ?_ (fun _ _ _ => ?_) | (with_reducible refine Acts.set_sched_secure_pins ?_ ?_ ?_ ?_ ?_; first | with_reducible assumption | with_reducible exact Acts.refl _ _ | with_reducible refine wrB_acts _ _ ?_ ?_ | with_reducible refine showSchedule_acts _ ?_ ?_ | with_reducible refine firstGrants_acts _ ?_ ?_ | with_reducible refine refitLanes_acts  ?_ ?_ | with_reducible refine applyDomains_acts _ ?_ ?_ | with_reducible refine enableDataPath_acts _ ?_ ?_ | with_reducible refine firstRound_acts _ ?_ ?_ | with_reducible refine admissionSwap_acts _ ?_ ?_ | with_reducible refine restartGens_acts  ?_ ?_ | with_reducible refine activateStaged_acts _ ?_ ?_ | with_reducible refine openBatch_acts  ?_ ?_ | with_reducible refine requestRestart_acts  ?_ ?_ | with_reducible refine Acts.iteStep ?_ (fun _ => ?_) | with_reducible refine Acts.foldl ?_ (fun _ _ _ => ?_)) | (with_reducible refine Acts.set_pipe ?_ ?_ ?_; first | with_reducible assumption | with_reducible exact Acts.refl _ _ | with_reducible refine wrB_acts _ _ ?_ ?_ | with_reducible refine showSchedule_acts _ ?_ ?_ | with_reducible refine firstGrants_acts _ ?_ ?_ | with_reducible refine refitLanes_acts  ?_ ?_ | with_reducible refine applyDomains_acts _ ?_ ?_ | with_reducible refine enableDataPath_acts _ ?_ ?_ | with_reducible refine firstRound_acts _ ?_ ?_ | with_reducible refine admissionSwap_acts _ ?_ ?_ | with_reducible refine restartGens_acts  ?_ ?_ | with_reducible refine activateStaged_acts _ ?_ ?_ | with_reducible refine openBatch_acts  ?_ ?_ | with_reducible refine requestRestart_acts  ?_ ?_ | with_reducible refine Acts.iteStep ?_ (fun _ => ?_) | with_reducible refine Acts.foldl ?_ (fun _ _ _ => ?_)) | (with_reducible refine Acts.set_sched ?_ ?_ ?_; first | with_reducible assumption | with_reducible exact Acts.refl _ _ | with_reducible refine wrB_acts _ _ ?_ ?_ | with_reducible refine showSchedule_acts _ ?_ ?_ | with_reducible refine firstGrants_acts _ ?_ ?_ | with_reducible refine refitLanes_acts  ?_ ?_ | with_reducible refine applyDomains_acts _ ?_ ?_ | with_reducible refine enableDataPath_acts _ ?_ ?_ | with_reducible refine firstRound_acts _ ?_ ?_ | with_reducible refine admissionSwap_acts _ ?_ ?_ | with_reducible refine restartGens_acts  ?_ ?_ | with_reducible refine activateStaged_acts _ ?_ ?_ | with_reducible refine openBatch_acts  ?_ ?_ | with_reducible refine requestRestart_acts  ?_ ?_ | with_reducible refine Acts.iteStep ?_ (fun _ => ?_) | with_reducible refine Acts.foldl ?_ (fun _ _ _ => ?_)))
    | split
    | with_reducible exact SchedOk.keep_running_chosen_admitting_restart _ _ _ _ _
    | with_reducible exact SchedOk.keep_again _ _
    | with_reducible exact PipeOk.keep_batches _ _
    | (exact fun _ => rfl)
    | (intro k; rw [List.length_map]; exact k)
    | (exact fun h => Mem.wf_writeBytes _ _ h)
    | (exact fun h => Mem.wf_write _ _ h)
    | (intro _; exact Nat.zero_le _)
    | with_reducible with_reducible exact fun h => h
    | (intro h; rw [modAt_length]; exact h))

theorem announceAdmission_acts {F : List Part} {S : State} (restart : Bool) {s : State} (h : Acts F S s)
    (hs : subParts [.regs, .queue, .observe, .noticeSeq] F = true) : Acts F S (announceAdmission s restart) := by
  refine Acts.step h ?_ hs
  unfold announceAdmission
  repeat' (first
    | with_reducible assumption
    | decide
    | with_reducible exact Acts.refl _ _
    | with_reducible refine wr_acts _ _ ?_ ?_
    | with_reducible refine raise_acts _ _ ?_ ?_
    | with_reducible refine Acts.iteStep ?_ (fun _ => ?_)
    | with_reducible refine Acts.foldl ?_ (fun _ _ _ => ?_)
    | dsimp -proj only
    | split)

theorem execAdmissionBegin_acts {F : List Part} {S : State}  {s : State} (h : Acts F S s)
    (hs : subParts [.regs, .dial, .sched, .ports, .front, .flow, .endpoint, .queue, .pipe, .slots, .quant, .power, .secure, .peer, .observe, .pins, .noticeSeq] F = true) : ActsNext F S (execAdmissionBegin s) := by
  refine ActsNext.step h ?_ hs
  unfold execAdmissionBegin
  repeat' (first
    | with_reducible assumption
    | decide
    | with_reducible exact Acts.refl _ _
    | with_reducible refine advanceTo_acts _ ?_ ?_
    | with_reducible refine announceAdmission_acts _ ?_ ?_
    | with_reducible refine startSchedule_acts _ ?_ ?_
    | with_reducible refine Acts.iteStep ?_ (fun _ => ?_)
    | with_reducible refine Acts.foldl ?_ (fun _ _ _ => ?_)
    | with_reducible refine ActsNext.next ?_
    | with_reducible refine ActsNext.ite ?_ ?_
    | dsimp -proj only
    | split)

theorem signRoot_acts {F : List Part} {S : State} (t : TallyEntry) {s : State} (h : Acts F S s)
    (hs : subParts [.regs, .queue, .tally, .observe, .noticeSeq] F = true) : Acts F S (signRoot s t) := by
  refine Acts.step h ?_ hs
  unfold signRoot
  repeat' (first
    | with_reducible assumption
    | decide
    | with_reducible exact Acts.refl _ _
    | with_reducible refine wr_acts _ _ ?_ ?_
    | with_reducible refine raise_acts _ _ ?_ ?_
    | with_reducible refine showClosing_acts  ?_ ?_
    | with_reducible refine Acts.iteStep ?_ (fun _ => ?_)
    | with_reducible refine Acts.foldl ?_ (fun _ _ _ => ?_)
    | dsimp -proj only
    | (with_reducible refine Acts.set_tally ?_ ?_ ?_; first | with_reducible assumption | with_reducible exact Acts.refl _ _ | with_reducible refine wr_acts _ _ ?_ ?_ | with_reducible refine raise_acts _ _ ?_ ?_ | with_reducible refine showClosing_acts  ?_ ?_ | with_reducible refine Acts.iteStep ?_ (fun _ => ?_) | with_reducible refine Acts.foldl ?_ (fun _ _ _ => ?_))
    | split
    | with_reducible refine TallyOk.keep_ring _ _ ?_
    | (exact fun _ => rfl)
    | (intro k; rw [List.length_map]; exact k)
    | (exact fun h => Mem.wf_writeBytes _ _ h)
    | (exact fun h => Mem.wf_write _ _ h)
    | (intro _; exact Nat.zero_le _)
    | with_reducible with_reducible exact fun h => h
    | (intro h; rw [modAt_length]; exact h))

end Sys2Proof.Machine
end

