-- ==== Sys2Proof/Laws/ActsDial.lean ====
section
/-! SUPPORT. What each operation of Machine/Dial.lean may touch, and that it keeps the invariant. -/

namespace Sys2Proof.Machine

theorem setDialState_acts {F : List Part} {S : State} (st : Nat) {s : State} (h : Acts F S s)
    (hs : subParts [.regs, .dial] F = true) : Acts F S (setDialState s st) := by
  refine Acts.step h ?_ hs
  unfold setDialState
  repeat' (first
    | with_reducible assumption
    | decide
    | with_reducible exact Acts.refl _ _
    | with_reducible refine wr_acts _ _ ?_ ?_
    | with_reducible refine Acts.iteStep ?_ (fun _ => ?_)
    | with_reducible refine Acts.foldl ?_ (fun _ _ _ => ?_)
    | dsimp -proj only
    | (with_reducible refine Acts.set_dial ?_ ?_; first | with_reducible assumption | with_reducible exact Acts.refl _ _ | with_reducible refine wr_acts _ _ ?_ ?_ | with_reducible refine Acts.iteStep ?_ (fun _ => ?_) | with_reducible refine Acts.foldl ?_ (fun _ _ _ => ?_))
    | split)

theorem freeQuot_acts {F : List Part} {S : State} (num : Int) (den : Nat) {s : State} (h : Acts F S s)
    (hs : subParts [.fresh] F = true) : Acts F S (freeQuot s num den).2 := by
  refine Acts.step h ?_ hs
  unfold freeQuot
  repeat' (first
    | with_reducible assumption
    | decide
    | with_reducible exact Acts.refl _ _
    | with_reducible refine draw_acts  ?_ ?_
    | with_reducible refine Acts.iteStep ?_ (fun _ => ?_)
    | with_reducible refine Acts.foldl ?_ (fun _ _ _ => ?_)
    | with_reducible refine Acts.sndIte ?_ ?_
    | with_reducible refine Acts.ofSnd (by assumption) ?_
    | dsimp -proj only
    | (with_reducible refine Acts.sndMk ?_; first | with_reducible assumption | with_reducible exact Acts.refl _ _ | with_reducible refine draw_acts  ?_ ?_ | with_reducible refine Acts.iteStep ?_ (fun _ => ?_) | with_reducible refine Acts.foldl ?_ (fun _ _ _ => ?_) | with_reducible refine Acts.sndIte ?_ ?_ | with_reducible refine Acts.ofSnd (by assumption) ?_)
    | split)

theorem accountLock_acts {F : List Part} {S : State}  {s : State} (h : Acts F S s)
    (hs : subParts [.dial] F = true) : Acts F S (accountLock s) := by
  refine Acts.step h ?_ hs
  unfold accountLock
  repeat' (first
    | with_reducible assumption
    | decide
    | with_reducible exact Acts.refl _ _
    | with_reducible refine Acts.iteStep ?_ (fun _ => ?_)
    | with_reducible refine Acts.foldl ?_ (fun _ _ _ => ?_)
    | dsimp -proj only
    | (with_reducible refine Acts.set_dial ?_ ?_; first | with_reducible assumption | with_reducible exact Acts.refl _ _ | with_reducible refine Acts.iteStep ?_ (fun _ => ?_) | with_reducible refine Acts.foldl ?_ (fun _ _ _ => ?_))
    | (with_reducible refine Acts.set_dial ?_ ?_; first | with_reducible assumption | with_reducible exact Acts.refl _ _ | with_reducible refine Acts.iteStep ?_ (fun _ => ?_) | with_reducible refine Acts.foldl ?_ (fun _ _ _ => ?_) | (with_reducible refine Acts.set_dial ?_ ?_; first | with_reducible assumption | with_reducible exact Acts.refl _ _ | with_reducible refine Acts.iteStep ?_ (fun _ => ?_) | with_reducible refine Acts.foldl ?_ (fun _ _ _ => ?_)))
    | split)

theorem holdoverAdj_acts {F : List Part} {S s t : State} {a : Int} (e : holdoverAdj s = some (a, t)) (h : Acts F S s)
    (hs : subParts [.fresh] F = true) : Acts F S t := by
  unfold holdoverAdj at e
  dsimp only at e
  split at e
  · cases e
  · exact Acts.ofSnd (Option.some.inj e) (freeQuot_acts _ _ h hs)


theorem enterHoldover_acts {F : List Part} {S : State}  {s : State} (h : Acts F S s)
    (hs : subParts [.regs, .dial, .queue, .power, .observe, .pins, .noticeSeq, .fresh] F = true) : Acts F S (enterHoldover s) := by
  refine Acts.step h ?_ hs
  unfold enterHoldover
  repeat' (first
    | with_reducible assumption
    | decide
    | with_reducible exact Acts.refl _ _
    | with_reducible refine accountLock_acts  ?_ ?_
    | with_reducible refine wr_acts _ _ ?_ ?_
    | with_reducible refine setDialState_acts _ ?_ ?_
    | with_reducible refine raise_acts _ _ ?_ ?_
    | with_reducible refine refresh_acts  ?_ ?_
    | with_reducible refine holdoverAdj_acts (by assumption) ?_ ?_
    | with_reducible refine Acts.iteStep ?_ (fun _ => ?_)
    | with_reducible refine Acts.foldl ?_ (fun _ _ _ => ?_)
    | dsimp -proj only
    | (with_reducible refine Acts.set_dial ?_ ?_; first | with_reducible assumption | with_reducible exact Acts.refl _ _ | with_reducible refine accountLock_acts  ?_ ?_ | with_reducible refine wr_acts _ _ ?_ ?_ | with_reducible refine setDialState_acts _ ?_ ?_ | with_reducible refine raise_acts _ _ ?_ ?_ | with_reducible refine refresh_acts  ?_ ?_ | with_reducible refine holdoverAdj_acts (by assumption) ?_ ?_ | with_reducible refine Acts.iteStep ?_ (fun _ => ?_) | with_reducible refine Acts.foldl ?_ (fun _ _ _ => ?_))
    | split)

theorem sourceGone_acts {F : List Part} {S : State}  {s : State} (h : Acts F S s)
    (hs : subParts [.regs, .dial, .queue, .power, .observe, .pins, .noticeSeq, .fresh] F = true) : Acts F S (sourceGone s) := by
  refine Acts.step h ?_ hs
  unfold sourceGone
  repeat' (first
    | with_reducible assumption
    | decide
    | with_reducible exact Acts.refl _ _
    | with_reducible refine enterHoldover_acts  ?_ ?_
    | with_reducible refine Acts.iteStep ?_ (fun _ => ?_)
    | with_reducible refine Acts.foldl ?_ (fun _ _ _ => ?_)
    | dsimp -proj only
    | split)

theorem sourceLost_acts {F : List Part} {S : State}  {s : State} (h : Acts F S s)
    (hs : subParts [.regs, .dial, .queue, .power, .observe, .pins, .noticeSeq, .fresh] F = true) : Acts F S (sourceLost s) := by
  refine Acts.step h ?_ hs
  unfold sourceLost
  repeat' (first
    | with_reducible assumption
    | decide
    | with_reducible exact Acts.refl _ _
    | with_reducible refine enterHoldover_acts  ?_ ?_
    | with_reducible refine Acts.iteStep ?_ (fun _ => ?_)
    | with_reducible refine Acts.foldl ?_ (fun _ _ _ => ?_)
    | dsimp -proj only
    | split)

theorem follow_acts {F : List Part} {S : State} (src : Nat) {s : State} (h : Acts F S s)
    (hs : subParts [.regs, .dial] F = true) : Acts F S (follow s src) := by
  refine Acts.step h ?_ hs
  unfold follow
  repeat' (first
    | with_reducible assumption
    | decide
    | with_reducible exact Acts.refl _ _
    | with_reducible refine wr_acts _ _ ?_ ?_
    | with_reducible refine Acts.iteStep ?_ (fun _ => ?_)
    | with_reducible refine Acts.foldl ?_ (fun _ _ _ => ?_)
    | dsimp -proj only
    | (with_reducible refine Acts.set_dial ?_ ?_; first | with_reducible assumption | with_reducible exact Acts.refl _ _ | with_reducible refine wr_acts _ _ ?_ ?_ | with_reducible refine Acts.iteStep ?_ (fun _ => ?_) | with_reducible refine Acts.foldl ?_ (fun _ _ _ => ?_))
    | split)

theorem markLost_acts {F : List Part} {S : State} (src : Nat) {s : State} (h : Acts F S s)
    (hs : subParts [.dial] F = true) : Acts F S (markLost s src) := by
  refine Acts.step h ?_ hs
  unfold markLost
  repeat' (first
    | with_reducible assumption
    | decide
    | with_reducible exact Acts.refl _ _
    | with_reducible refine Acts.iteStep ?_ (fun _ => ?_)
    | with_reducible refine Acts.foldl ?_ (fun _ _ _ => ?_)
    | dsimp -proj only
    | (with_reducible refine Acts.set_dial ?_ ?_; first | with_reducible assumption | with_reducible exact Acts.refl _ _ | with_reducible refine Acts.iteStep ?_ (fun _ => ?_) | with_reducible refine Acts.foldl ?_ (fun _ _ _ => ?_))
    | (with_reducible refine Acts.set_dial ?_ ?_; first | with_reducible assumption | with_reducible exact Acts.refl _ _ | with_reducible refine Acts.iteStep ?_ (fun _ => ?_) | with_reducible refine Acts.foldl ?_ (fun _ _ _ => ?_) | (with_reducible refine Acts.set_dial ?_ ?_; first | with_reducible assumption | with_reducible exact Acts.refl _ _ | with_reducible refine Acts.iteStep ?_ (fun _ => ?_) | with_reducible refine Acts.foldl ?_ (fun _ _ _ => ?_)))
    | split)

theorem loseSource_acts {F : List Part} {S : State} (src : Nat) {s : State} (h : Acts F S s)
    (hs : subParts [.regs, .dial, .queue, .power, .observe, .pins, .noticeSeq, .fresh] F = true) : Acts F S (loseSource s src) := by
  refine Acts.step h ?_ hs
  unfold loseSource
  repeat' (first
    | with_reducible assumption
    | decide
    | with_reducible exact Acts.refl _ _
    | with_reducible refine markLost_acts _ ?_ ?_
    | with_reducible refine sourceLost_acts  ?_ ?_
    | with_reducible refine sourceGone_acts  ?_ ?_
    | with_reducible refine raise_acts _ _ ?_ ?_
    | with_reducible refine follow_acts _ ?_ ?_
    | with_reducible refine Acts.iteStep ?_ (fun _ => ?_)
    | with_reducible refine Acts.foldl ?_ (fun _ _ _ => ?_)
    | dsimp -proj only
    | split)

theorem breakRun_acts {F : List Part} {S : State} (src : Nat) {s : State} (h : Acts F S s)
    (hs : subParts [.dial] F = true) : Acts F S (breakRun s src) := by
  refine Acts.step h ?_ hs
  unfold breakRun
  repeat' (first
    | with_reducible assumption
    | decide
    | with_reducible exact Acts.refl _ _
    | with_reducible refine Acts.iteStep ?_ (fun _ => ?_)
    | with_reducible refine Acts.foldl ?_ (fun _ _ _ => ?_)
    | dsimp -proj only
    | (with_reducible refine Acts.set_dial ?_ ?_; first | with_reducible assumption | with_reducible exact Acts.refl _ _ | with_reducible refine Acts.iteStep ?_ (fun _ => ?_) | with_reducible refine Acts.foldl ?_ (fun _ _ _ => ?_))
    | split)

theorem enterLocked_acts {F : List Part} {S : State}  {s : State} (h : Acts F S s)
    (hs : subParts [.regs, .dial, .queue, .observe, .noticeSeq] F = true) : Acts F S (enterLocked s) := by
  refine Acts.step h ?_ hs
  unfold enterLocked
  repeat' (first
    | with_reducible assumption
    | decide
    | with_reducible exact Acts.refl _ _
    | with_reducible refine setDialState_acts _ ?_ ?_
    | with_reducible refine accountLock_acts  ?_ ?_
    | with_reducible refine raise_acts _ _ ?_ ?_
    | with_reducible refine wrB_acts _ _ ?_ ?_
    | with_reducible refine Acts.iteStep ?_ (fun _ => ?_)
    | with_reducible refine Acts.foldl ?_ (fun _ _ _ => ?_)
    | dsimp -proj only
    | (with_reducible refine Acts.set_dial ?_ ?_; first | with_reducible assumption | with_reducible exact Acts.refl _ _ | with_reducible refine setDialState_acts _ ?_ ?_ | with_reducible refine accountLock_acts  ?_ ?_ | with_reducible refine raise_acts _ _ ?_ ?_ | with_reducible refine wrB_acts _ _ ?_ ?_ | with_reducible refine Acts.iteStep ?_ (fun _ => ?_) | with_reducible refine Acts.foldl ?_ (fun _ _ _ => ?_))
    | split)

theorem beginStep_acts {F : List Part} {S : State} (err : Int) {s : State} (h : Acts F S s)
    (hs : subParts [.regs, .dial, .sched, .ports, .front, .flow, .endpoint, .queue, .pipe, .power, .tally, .observe, .pins, .noticeSeq] F = true) : Acts F S (beginStep s err) := by
  refine Acts.step h ?_ hs
  unfold beginStep
  repeat' (first
    | with_reducible assumption
    | decide
    | with_reducible exact Acts.refl _ _
    | with_reducible refine stepTime_acts _ ?_ ?_
    | with_reducible refine dropStamps_acts  ?_ ?_
    | with_reducible refine raise_acts _ _ ?_ ?_
    | with_reducible refine Acts.iteStep ?_ (fun _ => ?_)
    | with_reducible refine Acts.foldl ?_ (fun _ _ _ => ?_)
    | dsimp -proj only
    | (with_reducible refine Acts.set_dial ?_ ?_; first | with_reducible assumption | with_reducible exact Acts.refl _ _ | with_reducible refine stepTime_acts _ ?_ ?_ | with_reducible refine dropStamps_acts  ?_ ?_ | with_reducible refine raise_acts _ _ ?_ ?_ | with_reducible refine Acts.iteStep ?_ (fun _ => ?_) | with_reducible refine Acts.foldl ?_ (fun _ _ _ => ?_))
    | (with_reducible refine Acts.set_tally ?_ ?_ ?_; first | with_reducible assumption | with_reducible exact Acts.refl _ _ | with_reducible refine stepTime_acts _ ?_ ?_ | with_reducible refine dropStamps_acts  ?_ ?_ | with_reducible refine raise_acts _ _ ?_ ?_ | with_reducible refine Acts.iteStep ?_ (fun _ => ?_) | with_reducible refine Acts.foldl ?_ (fun _ _ _ => ?_))
    | (with_reducible refine Acts.set_dial ?_ ?_; first | with_reducible assumption | with_reducible exact Acts.refl _ _ | with_reducible refine stepTime_acts _ ?_ ?_ | with_reducible refine dropStamps_acts  ?_ ?_ | with_reducible refine raise_acts _ _ ?_ ?_ | with_reducible refine Acts.iteStep ?_ (fun _ => ?_) | with_reducible refine Acts.foldl ?_ (fun _ _ _ => ?_) | (with_reducible refine Acts.set_dial ?_ ?_; first | with_reducible assumption | with_reducible exact Acts.refl _ _ | with_reducible refine stepTime_acts _ ?_ ?_ | with_reducible refine dropStamps_acts  ?_ ?_ | with_reducible refine raise_acts _ _ ?_ ?_ | with_reducible refine Acts.iteStep ?_ (fun _ => ?_) | with_reducible refine Acts.foldl ?_ (fun _ _ _ => ?_)) | (with_reducible refine Acts.set_tally ?_ ?_ ?_; first | with_reducible assumption | with_reducible exact Acts.refl _ _ | with_reducible refine stepTime_acts _ ?_ ?_ | with_reducible refine dropStamps_acts  ?_ ?_ | with_reducible refine raise_acts _ _ ?_ ?_ | with_reducible refine Acts.iteStep ?_ (fun _ => ?_) | with_reducible refine Acts.foldl ?_ (fun _ _ _ => ?_)))
    | (with_reducible refine Acts.set_tally ?_ ?_ ?_; first | with_reducible assumption | with_reducible exact Acts.refl _ _ | with_reducible refine stepTime_acts _ ?_ ?_ | with_reducible refine dropStamps_acts  ?_ ?_ | with_reducible refine raise_acts _ _ ?_ ?_ | with_reducible refine Acts.iteStep ?_ (fun _ => ?_) | with_reducible refine Acts.foldl ?_ (fun _ _ _ => ?_) | (with_reducible refine Acts.set_dial ?_ ?_; first | with_reducible assumption | with_reducible exact Acts.refl _ _ | with_reducible refine stepTime_acts _ ?_ ?_ | with_reducible refine dropStamps_acts  ?_ ?_ | with_reducible refine raise_acts _ _ ?_ ?_ | with_reducible refine Acts.iteStep ?_ (fun _ => ?_) | with_reducible refine Acts.foldl ?_ (fun _ _ _ => ?_)) | (with_reducible refine Acts.set_tally ?_ ?_ ?_; first | with_reducible assumption | with_reducible exact Acts.refl _ _ | with_reducible refine stepTime_acts _ ?_ ?_ | with_reducible refine dropStamps_acts  ?_ ?_ | with_reducible refine raise_acts _ _ ?_ ?_ | with_reducible refine Acts.iteStep ?_ (fun _ => ?_) | with_reducible refine Acts.foldl ?_ (fun _ _ _ => ?_)))
    | split
    | with_reducible exact TallyOk.keep_cutPeriod _ _
    | (exact fun _ => rfl)
    | (intro k; rw [List.length_map]; exact k)
    | (exact fun h => Mem.wf_writeBytes _ _ h)
    | (exact fun h => Mem.wf_write _ _ h)
    | (intro _; exact Nat.zero_le _)
    | with_reducible with_reducible exact fun h => h
    | (intro h; rw [modAt_length]; exact h))

theorem measureAcquiring_acts {F : List Part} {S : State} (src : Nat) (err : Int) {s : State} (h : Acts F S s)
    (hs : subParts [.regs, .dial, .sched, .ports, .front, .flow, .endpoint, .queue, .pipe, .power, .tally, .observe, .pins, .noticeSeq] F = true) : Acts F S (measureAcquiring s src err) := by
  refine Acts.step h ?_ hs
  unfold measureAcquiring
  repeat' (first
    | with_reducible assumption
    | decide
    | with_reducible exact Acts.refl _ _
    | with_reducible refine beginStep_acts _ ?_ ?_
    | with_reducible refine wr_acts _ _ ?_ ?_
    | with_reducible refine enterLocked_acts  ?_ ?_
    | with_reducible refine Acts.iteStep ?_ (fun _ => ?_)
    | with_reducible refine Acts.foldl ?_ (fun _ _ _ => ?_)
    | dsimp -proj only
    | (with_reducible refine Acts.set_dial ?_ ?_; first | with_reducible assumption | with_reducible exact Acts.refl _ _ | with_reducible refine beginStep_acts _ ?_ ?_ | with_reducible refine wr_acts _ _ ?_ ?_ | with_reducible refine enterLocked_acts  ?_ ?_ | with_reducible refine Acts.iteStep ?_ (fun _ => ?_) | with_reducible refine Acts.foldl ?_ (fun _ _ _ => ?_))
    | (with_reducible refine Acts.set_dial ?_ ?_; first | with_reducible assumption | with_reducible exact Acts.refl _ _ | with_reducible refine beginStep_acts _ ?_ ?_ | with_reducible refine wr_acts _ _ ?_ ?_ | with_reducible refine enterLocked_acts  ?_ ?_ | with_reducible refine Acts.iteStep ?_ (fun _ => ?_) | with_reducible refine Acts.foldl ?_ (fun _ _ _ => ?_) | (with_reducible refine Acts.set_dial ?_ ?_; first | with_reducible assumption | with_reducible exact Acts.refl _ _ | with_reducible refine beginStep_acts _ ?_ ?_ | with_reducible refine wr_acts _ _ ?_ ?_ | with_reducible refine enterLocked_acts  ?_ ?_ | with_reducible refine Acts.iteStep ?_ (fun _ => ?_) | with_reducible refine Acts.foldl ?_ (fun _ _ _ => ?_)))
    | split)

theorem measureLocked_acts {F : List Part} {S : State} (src : Nat) (err : Int) {s : State} (h : Acts F S s)
    (hs : subParts [.regs, .dial, .queue, .observe, .noticeSeq] F = true) : Acts F S (measureLocked s src err) := by
  refine Acts.step h ?_ hs
  unfold measureLocked
  repeat' (first
    | with_reducible assumption
    | decide
    | with_reducible exact Acts.refl _ _
    | with_reducible refine accountLock_acts  ?_ ?_
    | with_reducible refine wr_acts _ _ ?_ ?_
    | with_reducible refine raise_acts _ _ ?_ ?_
    | with_reducible refine setDialState_acts _ ?_ ?_
    | with_reducible refine Acts.iteStep ?_ (fun _ => ?_)
    | with_reducible refine Acts.foldl ?_ (fun _ _ _ => ?_)
    | dsimp -proj only
    | (with_reducible refine Acts.set_dial ?_ ?_; first | with_reducible assumption | with_reducible exact Acts.refl _ _ | with_reducible refine accountLock_acts  ?_ ?_ | with_reducible refine wr_acts _ _ ?_ ?_ | with_reducible refine raise_acts _ _ ?_ ?_ | with_reducible refine setDialState_acts _ ?_ ?_ | with_reducible refine Acts.iteStep ?_ (fun _ => ?_) | with_reducible refine Acts.foldl ?_ (fun _ _ _ => ?_))
    | (with_reducible refine Acts.set_dial ?_ ?_; first | with_reducible assumption | with_reducible exact Acts.refl _ _ | with_reducible refine accountLock_acts  ?_ ?_ | with_reducible refine wr_acts _ _ ?_ ?_ | with_reducible refine raise_acts _ _ ?_ ?_ | with_reducible refine setDialState_acts _ ?_ ?_ | with_reducible refine Acts.iteStep ?_ (fun _ => ?_) | with_reducible refine Acts.foldl ?_ (fun _ _ _ => ?_) | (with_reducible refine Acts.set_dial ?_ ?_; first | with_reducible assumption | with_reducible exact Acts.refl _ _ | with_reducible refine accountLock_acts  ?_ ?_ | with_reducible refine wr_acts _ _ ?_ ?_ | with_reducible refine raise_acts _ _ ?_ ?_ | with_reducible refine setDialState_acts _ ?_ ?_ | with_reducible refine Acts.iteStep ?_ (fun _ => ?_) | with_reducible refine Acts.foldl ?_ (fun _ _ _ => ?_)))
    | split)

theorem leaveHoldover_acts {F : List Part} {S : State}  {s : State} (h : Acts F S s)
    (hs : subParts [.regs, .dial] F = true) : Acts F S (leaveHoldover s) := by
  refine Acts.step h ?_ hs
  unfold leaveHoldover
  repeat' (first
    | with_reducible assumption
    | decide
    | with_reducible exact Acts.refl _ _
    | with_reducible refine setDialState_acts _ ?_ ?_
    | with_reducible refine wr_acts _ _ ?_ ?_
    | with_reducible refine Acts.iteStep ?_ (fun _ => ?_)
    | with_reducible refine Acts.foldl ?_ (fun _ _ _ => ?_)
    | dsimp -proj only
    | (with_reducible refine Acts.set_dial ?_ ?_; first | with_reducible assumption | with_reducible exact Acts.refl _ _ | with_reducible refine setDialState_acts _ ?_ ?_ | with_reducible refine wr_acts _ _ ?_ ?_ | with_reducible refine Acts.iteStep ?_ (fun _ => ?_) | with_reducible refine Acts.foldl ?_ (fun _ _ _ => ?_))
    | split)

theorem setDial_acts {F : List Part} {S : State} (t : Nat) {s : State} (h : Acts F S s)
    (hs : subParts [.regs, .dial, .sched, .ports, .front, .flow, .endpoint, .queue, .pipe, .power, .tally, .observe, .pins, .noticeSeq] F = true) : Acts F S (setDial s t) := by
  refine Acts.step h ?_ hs
  unfold setDial
  repeat' (first
    | with_reducible assumption
    | decide
    | with_reducible exact Acts.refl _ _
    | with_reducible refine wrB_acts _ _ ?_ ?_
    | with_reducible refine setDialState_acts _ ?_ ?_
    | with_reducible refine setTime_acts _ ?_ ?_
    | with_reducible refine dropStamps_acts  ?_ ?_
    | with_reducible refine startEpoch_acts _ _ _ ?_ ?_
    | with_reducible refine Acts.iteStep ?_ (fun _ => ?_)
    | with_reducible refine Acts.foldl ?_ (fun _ _ _ => ?_)
    | dsimp -proj only
    | (with_reducible refine Acts.set_dial ?_ ?_; first | with_reducible assumption | with_reducible exact Acts.refl _ _ | with_reducible refine wrB_acts _ _ ?_ ?_ | with_reducible refine setDialState_acts _ ?_ ?_ | with_reducible refine setTime_acts _ ?_ ?_ | with_reducible refine dropStamps_acts  ?_ ?_ | with_reducible refine startEpoch_acts _ _ _ ?_ ?_ | with_reducible refine Acts.iteStep ?_ (fun _ => ?_) | with_reducible refine Acts.foldl ?_ (fun _ _ _ => ?_))
    | split)

theorem markValid_acts {F : List Part} {S : State} (src : Nat) {s : State} (h : Acts F S s)
    (hs : subParts [.dial] F = true) : Acts F S (markValid s src) := by
  refine Acts.step h ?_ hs
  unfold markValid
  repeat' (first
    | with_reducible assumption
    | decide
    | with_reducible exact Acts.refl _ _
    | with_reducible refine Acts.iteStep ?_ (fun _ => ?_)
    | with_reducible refine Acts.foldl ?_ (fun _ _ _ => ?_)
    | dsimp -proj only
    | (with_reducible refine Acts.set_dial ?_ ?_; first | with_reducible assumption | with_reducible exact Acts.refl _ _ | with_reducible refine Acts.iteStep ?_ (fun _ => ?_) | with_reducible refine Acts.foldl ?_ (fun _ _ _ => ?_))
    | (with_reducible refine Acts.set_dial ?_ ?_; first | with_reducible assumption | with_reducible exact Acts.refl _ _ | with_reducible refine Acts.iteStep ?_ (fun _ => ?_) | with_reducible refine Acts.foldl ?_ (fun _ _ _ => ?_) | (with_reducible refine Acts.set_dial ?_ ?_; first | with_reducible assumption | with_reducible exact Acts.refl _ _ | with_reducible refine Acts.iteStep ?_ (fun _ => ?_) | with_reducible refine Acts.foldl ?_ (fun _ _ _ => ?_)))
    | split)

theorem measure_acts {F : List Part} {S : State} (src : Nat) (t : Nat) {s : State} (h : Acts F S s)
    (hs : subParts [.regs, .dial, .sched, .ports, .front, .flow, .endpoint, .queue, .pipe, .power, .tally, .observe, .pins, .noticeSeq] F = true) : Acts F S (measure s src t) := by
  refine Acts.step h ?_ hs
  unfold measure
  repeat' (first
    | with_reducible assumption
    | decide
    | with_reducible exact Acts.refl _ _
    | with_reducible refine markValid_acts _ ?_ ?_
    | with_reducible refine setDial_acts _ ?_ ?_
    | with_reducible refine wr_acts _ _ ?_ ?_
    | with_reducible refine bump_acts _ _ ?_ ?_
    | with_reducible refine measureLocked_acts _ _ ?_ ?_
    | with_reducible refine measureAcquiring_acts _ _ ?_ ?_
    | with_reducible refine leaveHoldover_acts  ?_ ?_
    | with_reducible refine Acts.iteStep ?_ (fun _ => ?_)
    | with_reducible refine Acts.foldl ?_ (fun _ _ _ => ?_)
    | dsimp -proj only
    | (with_reducible refine Acts.set_dial ?_ ?_; first | with_reducible assumption | with_reducible exact Acts.refl _ _ | with_reducible refine markValid_acts _ ?_ ?_ | with_reducible refine setDial_acts _ ?_ ?_ | with_reducible refine wr_acts _ _ ?_ ?_ | with_reducible refine bump_acts _ _ ?_ ?_ | with_reducible refine measureLocked_acts _ _ ?_ ?_ | with_reducible refine measureAcquiring_acts _ _ ?_ ?_ | with_reducible refine leaveHoldover_acts  ?_ ?_ | with_reducible refine Acts.iteStep ?_ (fun _ => ?_) | with_reducible refine Acts.foldl ?_ (fun _ _ _ => ?_))
    | split)

theorem todError_acts {F : List Part} {S : State} (f : Field) {s : State} (h : Acts F S s)
    (hs : subParts [.regs, .queue, .observe, .noticeSeq] F = true) : Acts F S (todError s f) := by
  refine Acts.step h ?_ hs
  unfold todError
  repeat' (first
    | with_reducible assumption
    | decide
    | with_reducible exact Acts.refl _ _
    | with_reducible refine raise_acts _ _ ?_ ?_
    | with_reducible refine bump_acts _ _ ?_ ?_
    | with_reducible refine Acts.iteStep ?_ (fun _ => ?_)
    | with_reducible refine Acts.foldl ?_ (fun _ _ _ => ?_)
    | dsimp -proj only
    | split)

theorem takeEdge_acts {F : List Part} {S : State}  {s : State} (h : Acts F S s)
    (hs : subParts [.regs, .dial, .sched, .ports, .front, .flow, .endpoint, .queue, .pipe, .power, .tally, .observe, .pins, .noticeSeq, .fresh] F = true) : Acts F S (takeEdge s) := by
  refine Acts.step h ?_ hs
  unfold takeEdge
  repeat' (first
    | with_reducible assumption
    | decide
    | with_reducible exact Acts.refl _ _
    | with_reducible refine wrB_acts _ _ ?_ ?_
    | with_reducible refine measure_acts _ _ ?_ ?_
    | with_reducible refine todError_acts _ ?_ ?_
    | with_reducible refine breakRun_acts _ ?_ ?_
    | with_reducible refine loseSource_acts _ ?_ ?_
    | with_reducible refine Acts.iteStep ?_ (fun _ => ?_)
    | with_reducible refine Acts.foldl ?_ (fun _ _ _ => ?_)
    | dsimp -proj only
    | (with_reducible refine Acts.set_dial ?_ ?_; first | with_reducible assumption | with_reducible exact Acts.refl _ _ | with_reducible refine wrB_acts _ _ ?_ ?_ | with_reducible refine measure_acts _ _ ?_ ?_ | with_reducible refine todError_acts _ ?_ ?_ | with_reducible refine breakRun_acts _ ?_ ?_ | with_reducible refine loseSource_acts _ ?_ ?_ | with_reducible refine Acts.iteStep ?_ (fun _ => ?_) | with_reducible refine Acts.foldl ?_ (fun _ _ _ => ?_))
    | (with_reducible refine Acts.set_dial ?_ ?_; first | with_reducible assumption | with_reducible exact Acts.refl _ _ | with_reducible refine wrB_acts _ _ ?_ ?_ | with_reducible refine measure_acts _ _ ?_ ?_ | with_reducible refine todError_acts _ ?_ ?_ | with_reducible refine breakRun_acts _ ?_ ?_ | with_reducible refine loseSource_acts _ ?_ ?_ | with_reducible refine Acts.iteStep ?_ (fun _ => ?_) | with_reducible refine Acts.foldl ?_ (fun _ _ _ => ?_) | (with_reducible refine Acts.set_dial ?_ ?_; first | with_reducible assumption | with_reducible exact Acts.refl _ _ | with_reducible refine wrB_acts _ _ ?_ ?_ | with_reducible refine measure_acts _ _ ?_ ?_ | with_reducible refine todError_acts _ ?_ ?_ | with_reducible refine breakRun_acts _ ?_ ?_ | with_reducible refine loseSource_acts _ ?_ ?_ | with_reducible refine Acts.iteStep ?_ (fun _ => ?_) | with_reducible refine Acts.foldl ?_ (fun _ _ _ => ?_)))
    | split)

theorem execPpsEdge_acts {F : List Part} {S : State} (dt : Nat) {s : State} (h : Acts F S s)
    (hs : subParts [.regs, .dial, .sched, .ports, .front, .flow, .endpoint, .queue, .pipe, .power, .tally, .observe, .pins, .noticeSeq, .fresh] F = true) : ActsNext F S (execPpsEdge dt s) := by
  refine ActsNext.step h ?_ hs
  unfold execPpsEdge
  repeat' (first
    | with_reducible assumption
    | decide
    | with_reducible exact Acts.refl _ _
    | with_reducible refine advance_acts _ ?_ ?_
    | with_reducible refine todError_acts _ ?_ ?_
    | with_reducible refine takeEdge_acts  ?_ ?_
    | with_reducible refine loseSource_acts _ ?_ ?_
    | with_reducible refine Acts.iteStep ?_ (fun _ => ?_)
    | with_reducible refine Acts.foldl ?_ (fun _ _ _ => ?_)
    | with_reducible refine ActsNext.next ?_
    | with_reducible refine ActsNext.ite ?_ ?_
    | dsimp -proj only
    | split)

theorem execTodMessage_acts {F : List Part} {S : State} (dt : Nat) (m : Sys2Proof.Bytes) {s : State} (h : Acts F S s)
    (hs : subParts [.regs, .dial, .sched, .ports, .front, .flow, .endpoint, .queue, .pipe, .power, .observe, .pins, .noticeSeq] F = true) : ActsNext F S (execTodMessage dt m s) := by
  refine ActsNext.step h ?_ hs
  unfold execTodMessage
  repeat' (first
    | with_reducible assumption
    | decide
    | with_reducible exact Acts.refl _ _
    | with_reducible refine advance_acts _ ?_ ?_
    | with_reducible refine todError_acts _ ?_ ?_
    | with_reducible refine Acts.iteStep ?_ (fun _ => ?_)
    | with_reducible refine Acts.foldl ?_ (fun _ _ _ => ?_)
    | with_reducible refine ActsNext.next ?_
    | with_reducible refine ActsNext.ite ?_ ?_
    | dsimp -proj only
    | (with_reducible refine Acts.set_dial ?_ ?_; first | with_reducible assumption | with_reducible exact Acts.refl _ _ | with_reducible refine advance_acts _ ?_ ?_ | with_reducible refine todError_acts _ ?_ ?_ | with_reducible refine Acts.iteStep ?_ (fun _ => ?_) | with_reducible refine Acts.foldl ?_ (fun _ _ _ => ?_) | with_reducible refine ActsNext.next ?_ | with_reducible refine ActsNext.ite ?_ ?_)
    | split)

theorem execPpsTimeout_acts {F : List Part} {S : State} (dt : Nat) {s : State} (h : Acts F S s)
    (hs : subParts [.regs, .dial, .sched, .ports, .front, .flow, .endpoint, .queue, .pipe, .power, .observe, .pins, .noticeSeq, .fresh] F = true) : ActsNext F S (execPpsTimeout dt s) := by
  refine ActsNext.step h ?_ hs
  unfold execPpsTimeout
  repeat' (first
    | with_reducible assumption
    | decide
    | with_reducible exact Acts.refl _ _
    | with_reducible refine advance_acts _ ?_ ?_
    | with_reducible refine loseSource_acts _ ?_ ?_
    | with_reducible refine wrB_acts _ _ ?_ ?_
    | with_reducible refine Acts.iteStep ?_ (fun _ => ?_)
    | with_reducible refine Acts.foldl ?_ (fun _ _ _ => ?_)
    | with_reducible refine ActsNext.next ?_
    | with_reducible refine ActsNext.ite ?_ ?_
    | dsimp -proj only
    | split)

theorem chooseMaster_acts {F : List Part} {S : State} (ms : List Sys2Proof.Foreign) {s : State} (h : Acts F S s)
    (hs : subParts [.regs, .dial] F = true) : Acts F S (chooseMaster s ms) := by
  refine Acts.step h ?_ hs
  unfold chooseMaster
  repeat' (first
    | with_reducible assumption
    | decide
    | with_reducible exact Acts.refl _ _
    | with_reducible refine wrB_acts _ _ ?_ ?_
    | with_reducible refine Acts.iteStep ?_ (fun _ => ?_)
    | with_reducible refine Acts.foldl ?_ (fun _ _ _ => ?_)
    | dsimp -proj only
    | (with_reducible refine Acts.set_dial ?_ ?_; first | with_reducible assumption | with_reducible exact Acts.refl _ _ | with_reducible refine wrB_acts _ _ ?_ ?_ | with_reducible refine Acts.iteStep ?_ (fun _ => ?_) | with_reducible refine Acts.foldl ?_ (fun _ _ _ => ?_))
    | (with_reducible refine Acts.set_dial ?_ ?_; first | with_reducible assumption | with_reducible exact Acts.refl _ _ | with_reducible refine wrB_acts _ _ ?_ ?_ | with_reducible refine Acts.iteStep ?_ (fun _ => ?_) | with_reducible refine Acts.foldl ?_ (fun _ _ _ => ?_) | (with_reducible refine Acts.set_dial ?_ ?_; first | with_reducible assumption | with_reducible exact Acts.refl _ _ | with_reducible refine wrB_acts _ _ ?_ ?_ | with_reducible refine Acts.iteStep ?_ (fun _ => ?_) | with_reducible refine Acts.foldl ?_ (fun _ _ _ => ?_)))
    | split)

theorem checkPtp_acts {F : List Part} {S : State}  {s : State} (h : Acts F S s)
    (hs : subParts [.regs, .dial, .queue, .power, .observe, .pins, .noticeSeq, .fresh] F = true) : Acts F S (checkPtp s) := by
  refine Acts.step h ?_ hs
  unfold checkPtp
  repeat' (first
    | with_reducible assumption
    | decide
    | with_reducible exact Acts.refl _ _
    | with_reducible refine chooseMaster_acts _ ?_ ?_
    | with_reducible refine loseSource_acts _ ?_ ?_
    | with_reducible refine Acts.iteStep ?_ (fun _ => ?_)
    | with_reducible refine Acts.foldl ?_ (fun _ _ _ => ?_)
    | dsimp -proj only
    | (with_reducible refine Acts.set_dial ?_ ?_; first | with_reducible assumption | with_reducible exact Acts.refl _ _ | with_reducible refine chooseMaster_acts _ ?_ ?_ | with_reducible refine loseSource_acts _ ?_ ?_ | with_reducible refine Acts.iteStep ?_ (fun _ => ?_) | with_reducible refine Acts.foldl ?_ (fun _ _ _ => ?_))
    | (with_reducible refine Acts.set_dial ?_ ?_; first | with_reducible assumption | with_reducible exact Acts.refl _ _ | with_reducible refine chooseMaster_acts _ ?_ ?_ | with_reducible refine loseSource_acts _ ?_ ?_ | with_reducible refine Acts.iteStep ?_ (fun _ => ?_) | with_reducible refine Acts.foldl ?_ (fun _ _ _ => ?_) | (with_reducible refine Acts.set_dial ?_ ?_; first | with_reducible assumption | with_reducible exact Acts.refl _ _ | with_reducible refine chooseMaster_acts _ ?_ ?_ | with_reducible refine loseSource_acts _ ?_ ?_ | with_reducible refine Acts.iteStep ?_ (fun _ => ?_) | with_reducible refine Acts.foldl ?_ (fun _ _ _ => ?_)))
    | split)

theorem execPtpAnnounce_acts {F : List Part} {S : State} (dt : Nat) (m : Sys2Proof.PtpAnnounce) {s : State} (h : Acts F S s)
    (hs : subParts [.regs, .dial, .sched, .ports, .front, .flow, .endpoint, .queue, .pipe, .power, .observe, .pins, .noticeSeq, .fresh] F = true) : ActsNext F S (execPtpAnnounce dt m s) := by
  refine ActsNext.step h ?_ hs
  unfold execPtpAnnounce
  repeat' (first
    | with_reducible assumption
    | decide
    | with_reducible exact Acts.refl _ _
    | with_reducible refine checkPtp_acts  ?_ ?_
    | with_reducible refine advance_acts _ ?_ ?_
    | with_reducible refine chooseMaster_acts _ ?_ ?_
    | with_reducible refine Acts.iteStep ?_ (fun _ => ?_)
    | with_reducible refine Acts.foldl ?_ (fun _ _ _ => ?_)
    | with_reducible refine ActsNext.next ?_
    | with_reducible refine ActsNext.ite ?_ ?_
    | dsimp -proj only
    | split)

theorem completeSync_acts {F : List Part} {S : State} (origin : Nat) (arrival : Nat) {s : State} (h : Acts F S s)
    (hs : subParts [.regs, .dial, .sched, .ports, .front, .flow, .endpoint, .queue, .pipe, .power, .tally, .observe, .pins, .noticeSeq] F = true) : Acts F S (completeSync s origin arrival) := by
  refine Acts.step h ?_ hs
  unfold completeSync
  repeat' (first
    | with_reducible assumption
    | decide
    | with_reducible exact Acts.refl _ _
    | with_reducible refine breakRun_acts _ ?_ ?_
    | with_reducible refine measure_acts _ _ ?_ ?_
    | with_reducible refine Acts.iteStep ?_ (fun _ => ?_)
    | with_reducible refine Acts.foldl ?_ (fun _ _ _ => ?_)
    | dsimp -proj only
    | (with_reducible refine Acts.set_dial ?_ ?_; first | with_reducible assumption | with_reducible exact Acts.refl _ _ | with_reducible refine breakRun_acts _ ?_ ?_ | with_reducible refine measure_acts _ _ ?_ ?_ | with_reducible refine Acts.iteStep ?_ (fun _ => ?_) | with_reducible refine Acts.foldl ?_ (fun _ _ _ => ?_))
    | split)

theorem execPtpSync_acts {F : List Part} {S : State} (dt : Nat) (m : Sys2Proof.PtpSync) {s : State} (h : Acts F S s)
    (hs : subParts [.regs, .dial, .sched, .ports, .front, .flow, .endpoint, .queue, .pipe, .power, .tally, .observe, .pins, .noticeSeq, .fresh] F = true) : ActsNext F S (execPtpSync dt m s) := by
  refine ActsNext.step h ?_ hs
  unfold execPtpSync
  repeat' (first
    | with_reducible assumption
    | decide
    | with_reducible exact Acts.refl _ _
    | with_reducible refine checkPtp_acts  ?_ ?_
    | with_reducible refine advance_acts _ ?_ ?_
    | with_reducible refine breakRun_acts _ ?_ ?_
    | with_reducible refine completeSync_acts _ _ ?_ ?_
    | with_reducible refine Acts.iteStep ?_ (fun _ => ?_)
    | with_reducible refine Acts.foldl ?_ (fun _ _ _ => ?_)
    | with_reducible refine ActsNext.next ?_
    | with_reducible refine ActsNext.ite ?_ ?_
    | dsimp -proj only
    | (with_reducible refine Acts.set_dial ?_ ?_; first | with_reducible assumption | with_reducible exact Acts.refl _ _ | with_reducible refine checkPtp_acts  ?_ ?_ | with_reducible refine advance_acts _ ?_ ?_ | with_reducible refine breakRun_acts _ ?_ ?_ | with_reducible refine completeSync_acts _ _ ?_ ?_ | with_reducible refine Acts.iteStep ?_ (fun _ => ?_) | with_reducible refine Acts.foldl ?_ (fun _ _ _ => ?_) | with_reducible refine ActsNext.next ?_ | with_reducible refine ActsNext.ite ?_ ?_)
    | (with_reducible refine Acts.set_dial ?_ ?_; first | with_reducible assumption | with_reducible exact Acts.refl _ _ | with_reducible refine checkPtp_acts  ?_ ?_ | with_reducible refine advance_acts _ ?_ ?_ | with_reducible refine breakRun_acts _ ?_ ?_ | with_reducible refine completeSync_acts _ _ ?_ ?_ | with_reducible refine Acts.iteStep ?_ (fun _ => ?_) | with_reducible refine Acts.foldl ?_ (fun _ _ _ => ?_) | with_reducible refine ActsNext.next ?_ | with_reducible refine ActsNext.ite ?_ ?_ | (with_reducible refine Acts.set_dial ?_ ?_; first | with_reducible assumption | with_reducible exact Acts.refl _ _ | with_reducible refine checkPtp_acts  ?_ ?_ | with_reducible refine advance_acts _ ?_ ?_ | with_reducible refine breakRun_acts _ ?_ ?_ | with_reducible refine completeSync_acts _ _ ?_ ?_ | with_reducible refine Acts.iteStep ?_ (fun _ => ?_) | with_reducible refine Acts.foldl ?_ (fun _ _ _ => ?_) | with_reducible refine ActsNext.next ?_ | with_reducible refine ActsNext.ite ?_ ?_))
    | split)

theorem execPtpFollowUp_acts {F : List Part} {S : State} (dt : Nat) (net : Sys2Proof.PtpNet) (master : Nat) (sequence : Nat) (originNs : Nat) (correctionNs : Int) {s : State} (h : Acts F S s)
    (hs : subParts [.regs, .dial, .sched, .ports, .front, .flow, .endpoint, .queue, .pipe, .power, .tally, .observe, .pins, .noticeSeq, .fresh] F = true) : ActsNext F S (execPtpFollowUp dt net master sequence originNs correctionNs s) := by
  refine ActsNext.step h ?_ hs
  unfold execPtpFollowUp
  repeat' (first
    | with_reducible assumption
    | decide
    | with_reducible exact Acts.refl _ _
    | with_reducible refine checkPtp_acts  ?_ ?_
    | with_reducible refine advance_acts _ ?_ ?_
    | with_reducible refine completeSync_acts _ _ ?_ ?_
    | with_reducible refine Acts.iteStep ?_ (fun _ => ?_)
    | with_reducible refine Acts.foldl ?_ (fun _ _ _ => ?_)
    | with_reducible refine ActsNext.next ?_
    | with_reducible refine ActsNext.ite ?_ ?_
    | dsimp -proj only
    | (with_reducible refine Acts.set_dial ?_ ?_; first | with_reducible assumption | with_reducible exact Acts.refl _ _ | with_reducible refine checkPtp_acts  ?_ ?_ | with_reducible refine advance_acts _ ?_ ?_ | with_reducible refine completeSync_acts _ _ ?_ ?_ | with_reducible refine Acts.iteStep ?_ (fun _ => ?_) | with_reducible refine Acts.foldl ?_ (fun _ _ _ => ?_) | with_reducible refine ActsNext.next ?_ | with_reducible refine ActsNext.ite ?_ ?_)
    | split)

theorem execDelayReq_acts {F : List Part} {S : State} (dt : Nat) {s : State} (h : Acts F S s)
    (hs : subParts [.regs, .dial, .sched, .ports, .front, .flow, .endpoint, .queue, .pipe, .power, .observe, .pins, .out, .noticeSeq] F = true) : ActsNext F S (execDelayReq dt s) := by
  refine ActsNext.step h ?_ hs
  unfold execDelayReq
  repeat' (first
    | with_reducible assumption
    | decide
    | with_reducible exact Acts.refl _ _
    | with_reducible refine advance_acts _ ?_ ?_
    | with_reducible refine emit_acts _ ?_ ?_
    | with_reducible refine Acts.iteStep ?_ (fun _ => ?_)
    | with_reducible refine Acts.foldl ?_ (fun _ _ _ => ?_)
    | with_reducible refine ActsNext.next ?_
    | with_reducible refine ActsNext.ite ?_ ?_
    | dsimp -proj only
    | (with_reducible refine Acts.set_dial ?_ ?_; first | with_reducible assumption | with_reducible exact Acts.refl _ _ | with_reducible refine advance_acts _ ?_ ?_ | with_reducible refine emit_acts _ ?_ ?_ | with_reducible refine Acts.iteStep ?_ (fun _ => ?_) | with_reducible refine Acts.foldl ?_ (fun _ _ _ => ?_) | with_reducible refine ActsNext.next ?_ | with_reducible refine ActsNext.ite ?_ ?_)
    | split)

theorem execPtpDelayResp_acts {F : List Part} {S : State} (dt : Nat) (net : Sys2Proof.PtpNet) (master : Nat) (sequence : Nat) (receiveNs : Nat) (correctionNs : Int) {s : State} (h : Acts F S s)
    (hs : subParts [.regs, .dial, .sched, .ports, .front, .flow, .endpoint, .queue, .pipe, .power, .observe, .pins, .noticeSeq, .fresh] F = true) : ActsNext F S (execPtpDelayResp dt net master sequence receiveNs correctionNs s) := by
  refine ActsNext.step h ?_ hs
  unfold execPtpDelayResp
  repeat' (first
    | with_reducible assumption
    | decide
    | with_reducible exact Acts.refl _ _
    | with_reducible refine advance_acts _ ?_ ?_
    | with_reducible refine freeQuot_acts _ _ ?_ ?_
    | with_reducible refine Acts.iteStep ?_ (fun _ => ?_)
    | with_reducible refine Acts.foldl ?_ (fun _ _ _ => ?_)
    | with_reducible refine ActsNext.next ?_
    | with_reducible refine ActsNext.ite ?_ ?_
    | with_reducible refine Acts.sndIte ?_ ?_
    | with_reducible refine Acts.ofSnd (by assumption) ?_
    | dsimp -proj only
    | (with_reducible refine Acts.set_dial ?_ ?_; first | with_reducible assumption | with_reducible exact Acts.refl _ _ | with_reducible refine advance_acts _ ?_ ?_ | with_reducible refine freeQuot_acts _ _ ?_ ?_ | with_reducible refine Acts.iteStep ?_ (fun _ => ?_) | with_reducible refine Acts.foldl ?_ (fun _ _ _ => ?_) | with_reducible refine ActsNext.next ?_ | with_reducible refine ActsNext.ite ?_ ?_ | with_reducible refine Acts.sndIte ?_ ?_ | with_reducible refine Acts.ofSnd (by assumption) ?_)
    | (with_reducible refine Acts.sndMk ?_; first | with_reducible assumption | with_reducible exact Acts.refl _ _ | with_reducible refine advance_acts _ ?_ ?_ | with_reducible refine freeQuot_acts _ _ ?_ ?_ | with_reducible refine Acts.iteStep ?_ (fun _ => ?_) | with_reducible refine Acts.foldl ?_ (fun _ _ _ => ?_) | with_reducible refine ActsNext.next ?_ | with_reducible refine ActsNext.ite ?_ ?_ | with_reducible refine Acts.sndIte ?_ ?_ | with_reducible refine Acts.ofSnd (by assumption) ?_ | (with_reducible refine Acts.set_dial ?_ ?_; first | with_reducible assumption | with_reducible exact Acts.refl _ _ | with_reducible refine advance_acts _ ?_ ?_ | with_reducible refine freeQuot_acts _ _ ?_ ?_ | with_reducible refine Acts.iteStep ?_ (fun _ => ?_) | with_reducible refine Acts.foldl ?_ (fun _ _ _ => ?_) | with_reducible refine ActsNext.next ?_ | with_reducible refine ActsNext.ite ?_ ?_ | with_reducible refine Acts.sndIte ?_ ?_ | with_reducible refine Acts.ofSnd (by assumption) ?_))
    | split)

theorem execSyncTimeout_acts {F : List Part} {S : State} (dt : Nat) {s : State} (h : Acts F S s)
    (hs : subParts [.regs, .dial, .sched, .ports, .front, .flow, .endpoint, .queue, .pipe, .power, .observe, .pins, .noticeSeq, .fresh] F = true) : ActsNext F S (execSyncTimeout dt s) := by
  refine ActsNext.step h ?_ hs
  unfold execSyncTimeout
  repeat' (first
    | with_reducible assumption
    | decide
    | with_reducible exact Acts.refl _ _
    | with_reducible refine checkPtp_acts  ?_ ?_
    | with_reducible refine advance_acts _ ?_ ?_
    | with_reducible refine Acts.iteStep ?_ (fun _ => ?_)
    | with_reducible refine Acts.foldl ?_ (fun _ _ _ => ?_)
    | with_reducible refine ActsNext.next ?_
    | with_reducible refine ActsNext.ite ?_ ?_
    | dsimp -proj only
    | split)

theorem execAnnounceTimeout_acts {F : List Part} {S : State} (dt : Nat) {s : State} (h : Acts F S s)
    (hs : subParts [.regs, .dial, .sched, .ports, .front, .flow, .endpoint, .queue, .pipe, .power, .observe, .pins, .noticeSeq, .fresh] F = true) : ActsNext F S (execAnnounceTimeout dt s) := by
  refine ActsNext.step h ?_ hs
  unfold execAnnounceTimeout
  repeat' (first
    | with_reducible assumption
    | decide
    | with_reducible exact Acts.refl _ _
    | with_reducible refine checkPtp_acts  ?_ ?_
    | with_reducible refine advance_acts _ ?_ ?_
    | with_reducible refine Acts.iteStep ?_ (fun _ => ?_)
    | with_reducible refine Acts.foldl ?_ (fun _ _ _ => ?_)
    | with_reducible refine ActsNext.next ?_
    | with_reducible refine ActsNext.ite ?_ ?_
    | dsimp -proj only
    | split)

theorem execSourceChange_acts {F : List Part} {S : State}  {s : State} (h : Acts F S s)
    (hs : subParts [.regs, .dial, .queue, .power, .observe, .pins, .noticeSeq, .fresh] F = true) : ActsNext F S (execSourceChange s) := by
  refine ActsNext.step h ?_ hs
  unfold execSourceChange
  repeat' (first
    | with_reducible assumption
    | decide
    | with_reducible exact Acts.refl _ _
    | with_reducible refine raise_acts _ _ ?_ ?_
    | with_reducible refine follow_acts _ ?_ ?_
    | with_reducible refine sourceGone_acts  ?_ ?_
    | with_reducible refine Acts.iteStep ?_ (fun _ => ?_)
    | with_reducible refine Acts.foldl ?_ (fun _ _ _ => ?_)
    | with_reducible refine ActsNext.next ?_
    | with_reducible refine ActsNext.ite ?_ ?_
    | dsimp -proj only
    | (with_reducible refine Acts.set_dial ?_ ?_; first | with_reducible assumption | with_reducible exact Acts.refl _ _ | with_reducible refine raise_acts _ _ ?_ ?_ | with_reducible refine follow_acts _ ?_ ?_ | with_reducible refine sourceGone_acts  ?_ ?_ | with_reducible refine Acts.iteStep ?_ (fun _ => ?_) | with_reducible refine Acts.foldl ?_ (fun _ _ _ => ?_) | with_reducible refine ActsNext.next ?_ | with_reducible refine ActsNext.ite ?_ ?_)
    | split)

theorem execFallbackReturn_acts {F : List Part} {S : State} (dt : Nat) {s : State} (h : Acts F S s)
    (hs : subParts [.regs, .dial, .sched, .ports, .front, .flow, .endpoint, .queue, .pipe, .power, .observe, .pins, .noticeSeq] F = true) : ActsNext F S (execFallbackReturn dt s) := by
  refine ActsNext.step h ?_ hs
  unfold execFallbackReturn
  repeat' (first
    | with_reducible assumption
    | decide
    | with_reducible exact Acts.refl _ _
    | with_reducible refine advance_acts _ ?_ ?_
    | with_reducible refine raise_acts _ _ ?_ ?_
    | with_reducible refine follow_acts _ ?_ ?_
    | with_reducible refine Acts.iteStep ?_ (fun _ => ?_)
    | with_reducible refine Acts.foldl ?_ (fun _ _ _ => ?_)
    | with_reducible refine ActsNext.next ?_
    | with_reducible refine ActsNext.ite ?_ ?_
    | dsimp -proj only
    | split)

theorem execHoldoverWarn_acts {F : List Part} {S : State} (dt : Nat) {s : State} (h : Acts F S s)
    (hs : subParts [.regs, .dial, .sched, .ports, .front, .flow, .endpoint, .queue, .pipe, .power, .observe, .pins, .noticeSeq] F = true) : ActsNext F S (execHoldoverWarn dt s) := by
  refine ActsNext.step h ?_ hs
  unfold execHoldoverWarn
  repeat' (first
    | with_reducible assumption
    | decide
    | with_reducible exact Acts.refl _ _
    | with_reducible refine advance_acts _ ?_ ?_
    | with_reducible refine raise_acts _ _ ?_ ?_
    | with_reducible refine Acts.iteStep ?_ (fun _ => ?_)
    | with_reducible refine Acts.foldl ?_ (fun _ _ _ => ?_)
    | with_reducible refine ActsNext.next ?_
    | with_reducible refine ActsNext.ite ?_ ?_
    | dsimp -proj only
    | (with_reducible refine Acts.set_dial ?_ ?_; first | with_reducible assumption | with_reducible exact Acts.refl _ _ | with_reducible refine advance_acts _ ?_ ?_ | with_reducible refine raise_acts _ _ ?_ ?_ | with_reducible refine Acts.iteStep ?_ (fun _ => ?_) | with_reducible refine Acts.foldl ?_ (fun _ _ _ => ?_) | with_reducible refine ActsNext.next ?_ | with_reducible refine ActsNext.ite ?_ ?_)
    | split)

theorem execHoldoverExpired_acts {F : List Part} {S : State} (dt : Nat) {s : State} (h : Acts F S s)
    (hs : subParts [.regs, .dial, .sched, .ports, .front, .flow, .endpoint, .queue, .pipe, .power, .observe, .pins, .noticeSeq] F = true) : ActsNext F S (execHoldoverExpired dt s) := by
  refine ActsNext.step h ?_ hs
  unfold execHoldoverExpired
  repeat' (first
    | with_reducible assumption
    | decide
    | with_reducible exact Acts.refl _ _
    | with_reducible refine advance_acts _ ?_ ?_
    | with_reducible refine raise_acts _ _ ?_ ?_
    | with_reducible refine setDialState_acts _ ?_ ?_
    | with_reducible refine Acts.iteStep ?_ (fun _ => ?_)
    | with_reducible refine Acts.foldl ?_ (fun _ _ _ => ?_)
    | with_reducible refine ActsNext.next ?_
    | with_reducible refine ActsNext.ite ?_ ?_
    | dsimp -proj only
    | split)

theorem latchDial_acts {F : List Part} {S : State}  {s : State} (h : Acts F S s)
    (hs : subParts [.regs] F = true) : Acts F S (latchDial s) := by
  refine Acts.step h ?_ hs
  unfold latchDial
  repeat' (first
    | with_reducible assumption
    | decide
    | with_reducible exact Acts.refl _ _
    | with_reducible refine wr_acts _ _ ?_ ?_
    | with_reducible refine Acts.iteStep ?_ (fun _ => ?_)
    | with_reducible refine Acts.foldl ?_ (fun _ _ _ => ?_)
    | dsimp -proj only
    | split)

theorem execDialNowSecRead_acts {F : List Part} {S : State}  {s : State} (h : Acts F S s)
    (hs : subParts [.regs] F = true) : ActsNext F S (execDialNowSecRead s) := by
  refine ActsNext.step h ?_ hs
  unfold execDialNowSecRead
  repeat' (first
    | with_reducible assumption
    | decide
    | with_reducible exact Acts.refl _ _
    | with_reducible refine latchDial_acts  ?_ ?_
    | with_reducible refine Acts.iteStep ?_ (fun _ => ?_)
    | with_reducible refine Acts.foldl ?_ (fun _ _ _ => ?_)
    | with_reducible refine ActsNext.next ?_
    | with_reducible refine ActsNext.ite ?_ ?_
    | dsimp -proj only
    | split)

theorem execDialSecondBoundary_acts {F : List Part} {S : State}  {s : State} (h : Acts F S s)
    (hs : subParts [.regs, .dial, .sched, .ports, .front, .flow, .endpoint, .queue, .pipe, .power, .observe, .pins, .noticeSeq] F = true) : ActsNext F S (execDialSecondBoundary s) := by
  refine ActsNext.step h ?_ hs
  unfold execDialSecondBoundary
  repeat' (first
    | with_reducible assumption
    | decide
    | with_reducible exact Acts.refl _ _
    | with_reducible refine refresh_acts  ?_ ?_
    | with_reducible refine advanceTo_acts _ ?_ ?_
    | with_reducible refine Acts.iteStep ?_ (fun _ => ?_)
    | with_reducible refine Acts.foldl ?_ (fun _ _ _ => ?_)
    | with_reducible refine ActsNext.next ?_
    | with_reducible refine ActsNext.ite ?_ ?_
    | dsimp -proj only
    | split)

theorem execBeatStart_acts {F : List Part} {S : State}  {s : State} (h : Acts F S s)
    (hs : subParts [.regs, .dial, .sched, .ports, .front, .flow, .endpoint, .queue, .pipe, .power, .observe, .pins, .noticeSeq] F = true) : ActsNext F S (execBeatStart s) := by
  refine ActsNext.step h ?_ hs
  unfold execBeatStart
  repeat' (first
    | with_reducible assumption
    | decide
    | with_reducible exact Acts.refl _ _
    | with_reducible refine advanceTo_acts _ ?_ ?_
    | with_reducible refine Acts.iteStep ?_ (fun _ => ?_)
    | with_reducible refine Acts.foldl ?_ (fun _ _ _ => ?_)
    | with_reducible refine ActsNext.next ?_
    | with_reducible refine ActsNext.ite ?_ ?_
    | dsimp -proj only
    | split)

end Sys2Proof.Machine
end

