-- ==== Sys2Proof/Laws/ActsRegWrite.lean ====
section
/-! SUPPORT. What each operation of Machine/RegWrite.lean may touch, and that it keeps the invariant. -/

namespace Sys2Proof.Machine

theorem writeNet_acts {F : List Part} {S : State} (a : Nat) (value : Nat) {s : State} (h : Acts F S s)
    (hs : subParts [.regs, .queue, .power, .tally, .crown, .peer, .observe, .out, .noticeSeq, .fresh] F = true) : Acts F S (writeNet s a value) := by
  refine Acts.step h ?_ hs
  unfold writeNet
  repeat' (first
    | with_reducible assumption
    | decide
    | with_reducible exact Acts.refl _ _
    | with_reducible refine writeFields_acts _ _ ?_ ?_
    | with_reducible refine closeAllSessions_acts  ?_ ?_
    | with_reducible refine Acts.iteStep ?_ (fun _ => ?_)
    | with_reducible refine Acts.foldl ?_ (fun _ _ _ => ?_)
    | dsimp -proj only
    | split)

theorem writePartition_acts {F : List Part} {S : State} (a : Nat) (value : Nat) {s : State} (h : Acts F S s)
    (hs : subParts [.regs, .front] F = true) : Acts F S (writePartition s a value) := by
  refine Acts.step h ?_ hs
  unfold writePartition
  repeat' (first
    | with_reducible assumption
    | decide
    | with_reducible exact Acts.refl _ _
    | with_reducible refine writeFields_acts _ _ ?_ ?_
    | with_reducible refine Acts.iteStep ?_ (fun _ => ?_)
    | with_reducible refine Acts.foldl ?_ (fun _ _ _ => ?_)
    | dsimp -proj only
    | (with_reducible refine Acts.set_front ?_ ?_; first | with_reducible assumption | with_reducible exact Acts.refl _ _ | with_reducible refine writeFields_acts _ _ ?_ ?_ | with_reducible refine Acts.iteStep ?_ (fun _ => ?_) | with_reducible refine Acts.foldl ?_ (fun _ _ _ => ?_))
    | split)

theorem writeRegisterOn_acts {F : List Part} {S : State} (a : Nat) (value : Nat) {s : State} (h : Acts F S s)
    (hs : subParts [.regs, .sched, .ports, .front, .flow, .endpoint, .queue, .pipe, .slots, .quant, .power, .tally, .secure, .crown, .peer, .observe, .log, .out, .noticeSeq, .fresh] F = true) : Acts F S (writeRegisterOn s a value) := by
  refine Acts.step h ?_ hs
  unfold writeRegisterOn
  repeat' (first
    | with_reducible assumption
    | decide
    | with_reducible exact Acts.refl _ _
    | with_reducible refine writeQueueWord_acts _ _ _ ?_ ?_
    | with_reducible refine writeNet_acts _ _ ?_ ?_
    | with_reducible refine writePartition_acts _ _ ?_ ?_
    | with_reducible refine writePortCfg_acts _ _ ?_ ?_
    | with_reducible refine writeFields_acts _ _ ?_ ?_
    | with_reducible refine requestRestart_acts  ?_ ?_
    | with_reducible refine writeRuleCtrl_acts _ ?_ ?_
    | with_reducible refine writeRebuild_acts _ ?_ ?_
    | with_reducible refine writeQueueFlush_acts _ ?_ ?_
    | with_reducible refine writeQControl_acts _ ?_ ?_
    | with_reducible refine selectTensor_acts _ _ ?_ ?_
    | with_reducible refine writeSlotCommand_acts _ ?_ ?_
    | with_reducible refine writeRegulatorCtrl_acts _ _ ?_ ?_
    | with_reducible refine writeCap_acts _ _ ?_ ?_
    | with_reducible refine collectTallies_acts _ ?_ ?_
    | with_reducible refine selectAccount_acts _ ?_ ?_
    | with_reducible refine decideStart_acts  ?_ ?_
    | with_reducible refine writeDistCmd_acts _ ?_ ?_
    | with_reducible refine writeSampleCtrl_acts _ ?_ ?_
    | with_reducible refine writeTraceCtrl_acts _ ?_ ?_
    | with_reducible refine writeMark_acts _ ?_ ?_
    | with_reducible refine writeHangCfg_acts _ ?_ ?_
    | with_reducible refine writeLogbookCtrl_acts _ ?_ ?_
    | with_reducible refine Acts.iteStep ?_ (fun _ => ?_)
    | with_reducible refine Acts.foldl ?_ (fun _ _ _ => ?_)
    | dsimp -proj only
    | split)

theorem writeRegister_acts {F : List Part} {S : State} (a : Nat) (value : Nat) {s : State} (h : Acts F S s)
    (hs : subParts [.regs, .sched, .ports, .front, .flow, .endpoint, .queue, .pipe, .slots, .quant, .power, .tally, .secure, .crown, .peer, .observe, .log, .out, .noticeSeq, .fresh] F = true) : Acts F S (writeRegister s a value) := by
  refine Acts.step h ?_ hs
  unfold writeRegister
  repeat' (first
    | with_reducible assumption
    | decide
    | with_reducible exact Acts.refl _ _
    | with_reducible refine writeRegisterOn_acts _ _ ?_ ?_
    | with_reducible refine Acts.iteStep ?_ (fun _ => ?_)
    | with_reducible refine Acts.foldl ?_ (fun _ _ _ => ?_)
    | dsimp -proj only
    | split)

theorem readRegister_acts {F : List Part} {S : State} (a : Nat) {s : State} (h : Acts F S s)
    (hs : subParts [.regs] F = true) : Acts F S (readRegister s a).1 := by
  refine Acts.step h ?_ hs
  unfold readRegister
  repeat' (first
    | with_reducible assumption
    | decide
    | with_reducible exact Acts.refl _ _
    | with_reducible refine latchDial_acts  ?_ ?_
    | with_reducible refine Acts.iteStep ?_ (fun _ => ?_)
    | with_reducible refine Acts.foldl ?_ (fun _ _ _ => ?_)
    | with_reducible refine Acts.fstIte ?_ ?_
    | dsimp -proj only
    | (with_reducible refine Acts.fstMk ?_; first | with_reducible assumption | with_reducible exact Acts.refl _ _ | with_reducible refine latchDial_acts  ?_ ?_ | with_reducible refine Acts.iteStep ?_ (fun _ => ?_) | with_reducible refine Acts.foldl ?_ (fun _ _ _ => ?_) | with_reducible refine Acts.fstIte ?_ ?_)
    | split)

theorem execWarmRestart_acts {F : List Part} {S : State}  {s : State} (h : Acts F S s)
    (hs : subParts [.regs, .sched, .ports, .front, .flow, .endpoint, .queue, .pipe, .slots, .quant, .power, .tally, .secure, .crown, .peer, .observe, .log, .out, .noticeSeq, .fresh] F = true) : ActsNext F S (execWarmRestart s) := by
  refine ActsNext.step h ?_ hs
  unfold execWarmRestart
  repeat' (first
    | with_reducible assumption
    | decide
    | with_reducible exact Acts.refl _ _
    | with_reducible refine writeRegister_acts _ _ ?_ ?_
    | with_reducible refine Acts.iteStep ?_ (fun _ => ?_)
    | with_reducible refine Acts.foldl ?_ (fun _ _ _ => ?_)
    | with_reducible refine ActsNext.next ?_
    | with_reducible refine ActsNext.ite ?_ ?_
    | dsimp -proj only
    | split)

theorem execRegisterWrite_acts {F : List Part} {S : State} (address : Nat) (value : Sys2Proof.Word) {s : State} (h : Acts F S s)
    (hs : subParts [.regs, .sched, .ports, .front, .flow, .endpoint, .queue, .pipe, .slots, .quant, .power, .tally, .secure, .crown, .peer, .observe, .log, .out, .noticeSeq, .fresh] F = true) : ActsNext F S (execRegisterWrite address value s) := by
  refine ActsNext.step h ?_ hs
  unfold execRegisterWrite
  repeat' (first
    | with_reducible assumption
    | decide
    | with_reducible exact Acts.refl _ _
    | with_reducible refine writeRegister_acts _ _ ?_ ?_
    | with_reducible refine Acts.iteStep ?_ (fun _ => ?_)
    | with_reducible refine Acts.foldl ?_ (fun _ _ _ => ?_)
    | with_reducible refine ActsNext.next ?_
    | with_reducible refine ActsNext.ite ?_ ?_
    | dsimp -proj only
    | split)

theorem execCrownCtrlWrite_acts {F : List Part} {S : State} (address : Nat) (value : Sys2Proof.Word) {s : State} (h : Acts F S s)
    (hs : subParts [.regs, .sched, .ports, .front, .flow, .endpoint, .queue, .pipe, .slots, .quant, .power, .tally, .secure, .crown, .peer, .observe, .log, .out, .noticeSeq, .fresh] F = true) : ActsNext F S (execCrownCtrlWrite address value s) := by
  refine ActsNext.step h ?_ hs
  unfold execCrownCtrlWrite
  repeat' (first
    | with_reducible assumption
    | decide
    | with_reducible exact Acts.refl _ _
    | with_reducible refine writeRegister_acts _ _ ?_ ?_
    | with_reducible refine Acts.iteStep ?_ (fun _ => ?_)
    | with_reducible refine Acts.foldl ?_ (fun _ _ _ => ?_)
    | with_reducible refine ActsNext.next ?_
    | with_reducible refine ActsNext.ite ?_ ?_
    | dsimp -proj only
    | split)

end Sys2Proof.Machine
end

