-- ==== Sys2Proof/Laws/ActsCrown.lean ====
section
/-! SUPPORT. What each operation of Machine/Crown.lean may touch, and that it keeps the invariant. -/

namespace Sys2Proof.Machine

theorem execSessionOpen_acts {F : List Part} {S : State} (clientKey : Sys2Proof.Bytes) (handshake : Sys2Proof.Handshake) {s : State} (h : Acts F S s)
    (hs : subParts [.regs, .queue, .crown, .observe, .out, .noticeSeq] F = true) : ActsNext F S (execSessionOpen clientKey handshake s) := by
  refine ActsNext.step h ?_ hs
  unfold execSessionOpen
  repeat' (first
    | with_reducible assumption
    | decide
    | with_reducible exact Acts.refl _ _
    | with_reducible refine emit_acts _ ?_ ?_
    | with_reducible refine raise_acts _ _ ?_ ?_
    | with_reducible refine bump_acts _ _ ?_ ?_
    | with_reducible refine showCrown_acts  ?_ ?_
    | with_reducible refine Acts.iteStep ?_ (fun _ => ?_)
    | with_reducible refine Acts.foldl ?_ (fun _ _ _ => ?_)
    | with_reducible refine ActsNext.next ?_
    | with_reducible refine ActsNext.ite ?_ ?_
    | dsimp -proj only
    | (with_reducible refine Acts.set_crown ?_ ?_ ?_; first | with_reducible assumption | with_reducible exact Acts.refl _ _ | with_reducible refine emit_acts _ ?_ ?_ | with_reducible refine raise_acts _ _ ?_ ?_ | with_reducible refine bump_acts _ _ ?_ ?_ | with_reducible refine showCrown_acts  ?_ ?_ | with_reducible refine Acts.iteStep ?_ (fun _ => ?_) | with_reducible refine Acts.foldl ?_ (fun _ _ _ => ?_) | with_reducible refine ActsNext.next ?_ | with_reducible refine ActsNext.ite ?_ ?_)
    | split
    | with_reducible exact CrownOk.keep_sessions_nextSerial _ _ _
    | (exact fun _ => rfl)
    | (intro k; rw [List.length_map]; exact k)
    | (exact fun h => Mem.wf_writeBytes _ _ h)
    | (exact fun h => Mem.wf_write _ _ h)
    | (intro _; exact Nat.zero_le _)
    | with_reducible with_reducible exact fun h => h
    | (intro h; rw [modAt_length]; exact h))

theorem execSessionClose_acts {F : List Part} {S : State} (session : Nat) {s : State} (h : Acts F S s)
    (hs : subParts [.regs, .queue, .power, .tally, .crown, .peer, .observe, .out, .noticeSeq, .fresh] F = true) : ActsNext F S (execSessionClose session s) := by
  refine ActsNext.step h ?_ hs
  unfold execSessionClose
  repeat' (first
    | with_reducible assumption
    | decide
    | with_reducible exact Acts.refl _ _
    | with_reducible refine closeSession_acts _ ?_ ?_
    | with_reducible refine Acts.iteStep ?_ (fun _ => ?_)
    | with_reducible refine Acts.foldl ?_ (fun _ _ _ => ?_)
    | with_reducible refine ActsNext.next ?_
    | with_reducible refine ActsNext.ite ?_ ?_
    | dsimp -proj only
    | split)

theorem readWords_acts {F : List Part} {S : State} (n a : Nat) {s : State} (h : Acts F S s)
    (hs : subParts [.regs] F = true) : Acts F S (readWords n s a).1 := by
  refine Acts.step h ?_ hs
  clear h
  induction n generalizing s a with
  | zero => exact Acts.refl _ _
  | succ n ih => exact Acts.trans (readRegister_acts _ (Acts.refl _ _) (by decide)) (ih _)


theorem serveRegRead_acts {F : List Part} {S : State} (payload : Sys2Proof.Bytes) {s : State} (h : Acts F S s)
    (hs : subParts [.regs] F = true) : Acts F S (serveRegRead s payload).1 := by
  refine Acts.step h ?_ hs
  unfold serveRegRead
  repeat' (first
    | with_reducible assumption
    | decide
    | with_reducible exact Acts.refl _ _
    | with_reducible refine readWords_acts _ _ ?_ ?_
    | with_reducible refine Acts.iteStep ?_ (fun _ => ?_)
    | with_reducible refine Acts.foldl ?_ (fun _ _ _ => ?_)
    | with_reducible refine Acts.fstIte ?_ ?_
    | with_reducible refine Acts.ofFst (by assumption) ?_
    | dsimp -proj only
    | (with_reducible refine Acts.fstMk ?_; first | with_reducible assumption | with_reducible exact Acts.refl _ _ | with_reducible refine readWords_acts _ _ ?_ ?_ | with_reducible refine Acts.iteStep ?_ (fun _ => ?_) | with_reducible refine Acts.foldl ?_ (fun _ _ _ => ?_) | with_reducible refine Acts.fstIte ?_ ?_ | with_reducible refine Acts.ofFst (by assumption) ?_)
    | split)

theorem writePairs_acts {F : List Part} {S : State} (l : List Bytes) (k : Nat) {s : State} (h : Acts F S s)
    (hs : subParts [.regs, .sched, .ports, .front, .flow, .endpoint, .queue, .pipe, .slots, .quant, .power, .tally, .secure, .crown, .peer, .observe, .log, .out, .noticeSeq, .fresh] F = true) : Acts F S (writePairs l s k).1 := by
  refine Acts.step h ?_ hs
  clear h
  induction l generalizing s k with
  | nil => exact Acts.refl _ _
  | cons p l ih =>
    unfold writePairs
    dsimp only
    split
    · exact Acts.refl _ _
    · split
      · exact writeRegister_acts _ _ (Acts.refl _ _) (by decide)
      · exact Acts.trans (writeRegister_acts _ _ (Acts.refl _ _) (by decide)) (ih _)


theorem serveRegWrite_acts {F : List Part} {S : State} (payload : Sys2Proof.Bytes) {s : State} (h : Acts F S s)
    (hs : subParts [.regs, .sched, .ports, .front, .flow, .endpoint, .queue, .pipe, .slots, .quant, .power, .tally, .secure, .crown, .peer, .observe, .log, .out, .noticeSeq, .fresh] F = true) : Acts F S (serveRegWrite s payload).1 := by
  refine Acts.step h ?_ hs
  unfold serveRegWrite
  repeat' (first
    | with_reducible assumption
    | decide
    | with_reducible exact Acts.refl _ _
    | with_reducible refine writePairs_acts _ _ ?_ ?_
    | with_reducible refine Acts.iteStep ?_ (fun _ => ?_)
    | with_reducible refine Acts.foldl ?_ (fun _ _ _ => ?_)
    | with_reducible refine Acts.fstIte ?_ ?_
    | with_reducible refine Acts.ofFst (by assumption) ?_
    | dsimp -proj only
    | (with_reducible refine Acts.fstMk ?_; first | with_reducible assumption | with_reducible exact Acts.refl _ _ | with_reducible refine writePairs_acts _ _ ?_ ?_ | with_reducible refine Acts.iteStep ?_ (fun _ => ?_) | with_reducible refine Acts.foldl ?_ (fun _ _ _ => ?_) | with_reducible refine Acts.fstIte ?_ ?_ | with_reducible refine Acts.ofFst (by assumption) ?_)
    | split)

theorem takeQueue_acts {F : List Part} {S : State} (n q : Nat) {s : State} (h : Acts F S s)
    (hs : subParts [.regs, .sched, .ports, .queue, .pipe, .observe, .log, .noticeSeq] F = true) : Acts F S (takeQueue n s q).1 := by
  refine Acts.step h ?_ hs
  clear h
  induction n generalizing s with
  | zero => exact Acts.refl _ _
  | succ n ih =>
    unfold takeQueue
    have e := dequeue_acts (F := [.regs, .sched, .ports, .queue, .pipe, .observe, .log, .noticeSeq]) q (Acts.refl _ s) (by decide)
    split
    · next heq => rw [heq] at e; exact Acts.trans e ih
    · next heq => rw [heq] at e; exact Acts.trans e ih
    · next heq => rw [heq] at e; exact e


theorem serveDequeue_acts {F : List Part} {S : State} (payload : Sys2Proof.Bytes) {s : State} (h : Acts F S s)
    (hs : subParts [.regs, .sched, .ports, .queue, .pipe, .crown, .observe, .log, .noticeSeq] F = true) : Acts F S (serveDequeue s payload).1 := by
  refine Acts.step h ?_ hs
  unfold serveDequeue
  repeat' (first
    | with_reducible assumption
    | decide
    | with_reducible exact Acts.refl _ _
    | with_reducible refine takeQueue_acts _ _ ?_ ?_
    | with_reducible refine flushCaptures_acts  ?_ ?_
    | with_reducible refine Acts.iteStep ?_ (fun _ => ?_)
    | with_reducible refine Acts.foldl ?_ (fun _ _ _ => ?_)
    | with_reducible refine Acts.fstIte ?_ ?_
    | with_reducible refine Acts.ofFst (by assumption) ?_
    | dsimp -proj only
    | (with_reducible refine Acts.fstMk ?_; first | with_reducible assumption | with_reducible exact Acts.refl _ _ | with_reducible refine takeQueue_acts _ _ ?_ ?_ | with_reducible refine flushCaptures_acts  ?_ ?_ | with_reducible refine Acts.iteStep ?_ (fun _ => ?_) | with_reducible refine Acts.foldl ?_ (fun _ _ _ => ?_) | with_reducible refine Acts.fstIte ?_ ?_ | with_reducible refine Acts.ofFst (by assumption) ?_)
    | split)

theorem postJob_acts {F : List Part} {S : State} (c : Client) (r : Sys2Proof.Request) (h0 : JobHdr) (ops : List JobOp) (units : Nat) {s : State} (h : Acts F S s)
    (hs : subParts [.regs, .ports, .queue, .pipe, .crown, .observe, .noticeSeq, .fresh] F = true) : Acts F S (postJob s c r h0 ops units).1 := by
  refine Acts.step h ?_ hs
  unfold postJob
  repeat' (first
    | with_reducible assumption
    | decide
    | with_reducible exact Acts.refl _ _
    | with_reducible refine bump_acts _ _ ?_ ?_
    | with_reducible refine clientIndex_acts _ ?_ ?_
    | with_reducible refine draw_acts  ?_ ?_
    | with_reducible refine enqueue_acts _ _ _ ?_ ?_
    | with_reducible refine wr_acts _ _ ?_ ?_
    | with_reducible refine showCrown_acts  ?_ ?_
    | with_reducible refine Acts.iteStep ?_ (fun _ => ?_)
    | with_reducible refine Acts.foldl ?_ (fun _ _ _ => ?_)
    | with_reducible refine Acts.fstIte ?_ ?_
    | with_reducible refine Acts.sndIte ?_ ?_
    | with_reducible refine Acts.ofFst (by assumption) ?_
    | with_reducible refine Acts.ofSnd (by assumption) ?_
    | dsimp -proj only
    | (with_reducible refine Acts.set_crown ?_ ?_ ?_; first | with_reducible assumption | with_reducible exact Acts.refl _ _ | with_reducible refine bump_acts _ _ ?_ ?_ | with_reducible refine clientIndex_acts _ ?_ ?_ | with_reducible refine draw_acts  ?_ ?_ | with_reducible refine enqueue_acts _ _ _ ?_ ?_ | with_reducible refine wr_acts _ _ ?_ ?_ | with_reducible refine showCrown_acts  ?_ ?_ | with_reducible refine Acts.iteStep ?_ (fun _ => ?_) | with_reducible refine Acts.foldl ?_ (fun _ _ _ => ?_) | with_reducible refine Acts.fstIte ?_ ?_ | with_reducible refine Acts.sndIte ?_ ?_ | with_reducible refine Acts.ofFst (by assumption) ?_ | with_reducible refine Acts.ofSnd (by assumption) ?_)
    | (with_reducible refine Acts.fstMk ?_; first | with_reducible assumption | with_reducible exact Acts.refl _ _ | with_reducible refine bump_acts _ _ ?_ ?_ | with_reducible refine clientIndex_acts _ ?_ ?_ | with_reducible refine draw_acts  ?_ ?_ | with_reducible refine enqueue_acts _ _ _ ?_ ?_ | with_reducible refine wr_acts _ _ ?_ ?_ | with_reducible refine showCrown_acts  ?_ ?_ | with_reducible refine Acts.iteStep ?_ (fun _ => ?_) | with_reducible refine Acts.foldl ?_ (fun _ _ _ => ?_) | with_reducible refine Acts.fstIte ?_ ?_ | with_reducible refine Acts.sndIte ?_ ?_ | with_reducible refine Acts.ofFst (by assumption) ?_ | with_reducible refine Acts.ofSnd (by assumption) ?_ | (with_reducible refine Acts.set_crown ?_ ?_ ?_; first | with_reducible assumption | with_reducible exact Acts.refl _ _ | with_reducible refine bump_acts _ _ ?_ ?_ | with_reducible refine clientIndex_acts _ ?_ ?_ | with_reducible refine draw_acts  ?_ ?_ | with_reducible refine enqueue_acts _ _ _ ?_ ?_ | with_reducible refine wr_acts _ _ ?_ ?_ | with_reducible refine showCrown_acts  ?_ ?_ | with_reducible refine Acts.iteStep ?_ (fun _ => ?_) | with_reducible refine Acts.foldl ?_ (fun _ _ _ => ?_) | with_reducible refine Acts.fstIte ?_ ?_ | with_reducible refine Acts.sndIte ?_ ?_ | with_reducible refine Acts.ofFst (by assumption) ?_ | with_reducible refine Acts.ofSnd (by assumption) ?_))
    | (with_reducible refine Acts.sndMk ?_; first | with_reducible assumption | with_reducible exact Acts.refl _ _ | with_reducible refine bump_acts _ _ ?_ ?_ | with_reducible refine clientIndex_acts _ ?_ ?_ | with_reducible refine draw_acts  ?_ ?_ | with_reducible refine enqueue_acts _ _ _ ?_ ?_ | with_reducible refine wr_acts _ _ ?_ ?_ | with_reducible refine showCrown_acts  ?_ ?_ | with_reducible refine Acts.iteStep ?_ (fun _ => ?_) | with_reducible refine Acts.foldl ?_ (fun _ _ _ => ?_) | with_reducible refine Acts.fstIte ?_ ?_ | with_reducible refine Acts.sndIte ?_ ?_ | with_reducible refine Acts.ofFst (by assumption) ?_ | with_reducible refine Acts.ofSnd (by assumption) ?_ | (with_reducible refine Acts.set_crown ?_ ?_ ?_; first | with_reducible assumption | with_reducible exact Acts.refl _ _ | with_reducible refine bump_acts _ _ ?_ ?_ | with_reducible refine clientIndex_acts _ ?_ ?_ | with_reducible refine draw_acts  ?_ ?_ | with_reducible refine enqueue_acts _ _ _ ?_ ?_ | with_reducible refine wr_acts _ _ ?_ ?_ | with_reducible refine showCrown_acts  ?_ ?_ | with_reducible refine Acts.iteStep ?_ (fun _ => ?_) | with_reducible refine Acts.foldl ?_ (fun _ _ _ => ?_) | with_reducible refine Acts.fstIte ?_ ?_ | with_reducible refine Acts.sndIte ?_ ?_ | with_reducible refine Acts.ofFst (by assumption) ?_ | with_reducible refine Acts.ofSnd (by assumption) ?_))
    | split
    | with_reducible exact CrownOk.keep_posts_jobs _ _ _
    | (exact fun _ => rfl)
    | (intro k; rw [List.length_map]; exact k)
    | (exact fun h => Mem.wf_writeBytes _ _ h)
    | (exact fun h => Mem.wf_write _ _ h)
    | (intro _; exact Nat.zero_le _)
    | with_reducible with_reducible exact fun h => h
    | (intro h; rw [modAt_length]; exact h))

theorem serveJobPost_acts {F : List Part} {S : State} (c : Client) (r : Sys2Proof.Request) (payload : Sys2Proof.Bytes) {s : State} (h : Acts F S s)
    (hs : subParts [.regs, .ports, .queue, .pipe, .crown, .observe, .noticeSeq, .fresh] F = true) : Acts F S (serveJobPost s c r payload).1 := by
  refine Acts.step h ?_ hs
  unfold serveJobPost
  repeat' (first
    | with_reducible assumption
    | decide
    | with_reducible exact Acts.refl _ _
    | with_reducible refine postJob_acts _ _ _ _ _ ?_ ?_
    | with_reducible refine Acts.iteStep ?_ (fun _ => ?_)
    | with_reducible refine Acts.foldl ?_ (fun _ _ _ => ?_)
    | with_reducible refine Acts.fstIte ?_ ?_
    | with_reducible refine Acts.ofFst (by assumption) ?_
    | dsimp -proj only
    | (with_reducible refine Acts.fstMk ?_; first | with_reducible assumption | with_reducible exact Acts.refl _ _ | with_reducible refine postJob_acts _ _ _ _ _ ?_ ?_ | with_reducible refine Acts.iteStep ?_ (fun _ => ?_) | with_reducible refine Acts.foldl ?_ (fun _ _ _ => ?_) | with_reducible refine Acts.fstIte ?_ ?_ | with_reducible refine Acts.ofFst (by assumption) ?_)
    | split)

theorem serveJobAbort_acts {F : List Part} {S : State} (c : Client) (partition : Option Nat) (payload : Sys2Proof.Bytes) {s : State} (h : Acts F S s)
    (hs : subParts [.regs, .queue, .power, .tally, .crown, .peer, .observe, .out, .noticeSeq, .fresh] F = true) : Acts F S (serveJobAbort s c partition payload).1 := by
  refine Acts.step h ?_ hs
  unfold serveJobAbort
  repeat' (first
    | with_reducible assumption
    | decide
    | with_reducible exact Acts.refl _ _
    | with_reducible refine abortJob_acts _ ?_ ?_
    | with_reducible refine Acts.iteStep ?_ (fun _ => ?_)
    | with_reducible refine Acts.foldl ?_ (fun _ _ _ => ?_)
    | with_reducible refine Acts.fstIte ?_ ?_
    | dsimp -proj only
    | (with_reducible refine Acts.fstMk ?_; first | with_reducible assumption | with_reducible exact Acts.refl _ _ | with_reducible refine abortJob_acts _ ?_ ?_ | with_reducible refine Acts.iteStep ?_ (fun _ => ?_) | with_reducible refine Acts.foldl ?_ (fun _ _ _ => ?_) | with_reducible refine Acts.fstIte ?_ ?_)
    | split)

theorem serve_acts {F : List Part} {S : State} (c : Client) (partition : Option Nat) (r : Sys2Proof.Request) (op : Nat) (payload : Sys2Proof.Bytes) {s : State} (h : Acts F S s)
    (hs : subParts [.regs, .sched, .ports, .front, .flow, .endpoint, .queue, .pipe, .slots, .quant, .power, .tally, .secure, .crown, .peer, .observe, .log, .out, .noticeSeq, .fresh] F = true) : Acts F S (serve s c partition r op payload).1 := by
  refine Acts.step h ?_ hs
  unfold serve
  repeat' (first
    | with_reducible assumption
    | decide
    | with_reducible exact Acts.refl _ _
    | with_reducible refine serveRegRead_acts _ ?_ ?_
    | with_reducible refine serveRegWrite_acts _ ?_ ?_
    | with_reducible refine serveDequeue_acts _ ?_ ?_
    | with_reducible refine serveJobPost_acts _ _ _ ?_ ?_
    | with_reducible refine serveJobAbort_acts _ _ _ ?_ ?_
    | with_reducible refine Acts.iteStep ?_ (fun _ => ?_)
    | with_reducible refine Acts.foldl ?_ (fun _ _ _ => ?_)
    | with_reducible refine Acts.fstIte ?_ ?_
    | with_reducible refine Acts.ofFst (by assumption) ?_
    | dsimp -proj only
    | (with_reducible refine Acts.set_secure ?_ ?_; first | with_reducible assumption | with_reducible exact Acts.refl _ _ | with_reducible refine serveRegRead_acts _ ?_ ?_ | with_reducible refine serveRegWrite_acts _ ?_ ?_ | with_reducible refine serveDequeue_acts _ ?_ ?_ | with_reducible refine serveJobPost_acts _ _ _ ?_ ?_ | with_reducible refine serveJobAbort_acts _ _ _ ?_ ?_ | with_reducible refine Acts.iteStep ?_ (fun _ => ?_) | with_reducible refine Acts.foldl ?_ (fun _ _ _ => ?_) | with_reducible refine Acts.fstIte ?_ ?_ | with_reducible refine Acts.ofFst (by assumption) ?_)
    | (with_reducible refine Acts.fstMk ?_; first | with_reducible assumption | with_reducible exact Acts.refl _ _ | with_reducible refine serveRegRead_acts _ ?_ ?_ | with_reducible refine serveRegWrite_acts _ ?_ ?_ | with_reducible refine serveDequeue_acts _ ?_ ?_ | with_reducible refine serveJobPost_acts _ _ _ ?_ ?_ | with_reducible refine serveJobAbort_acts _ _ _ ?_ ?_ | with_reducible refine Acts.iteStep ?_ (fun _ => ?_) | with_reducible refine Acts.foldl ?_ (fun _ _ _ => ?_) | with_reducible refine Acts.fstIte ?_ ?_ | with_reducible refine Acts.ofFst (by assumption) ?_ | (with_reducible refine Acts.set_secure ?_ ?_; first | with_reducible assumption | with_reducible exact Acts.refl _ _ | with_reducible refine serveRegRead_acts _ ?_ ?_ | with_reducible refine serveRegWrite_acts _ ?_ ?_ | with_reducible refine serveDequeue_acts _ ?_ ?_ | with_reducible refine serveJobPost_acts _ _ _ ?_ ?_ | with_reducible refine serveJobAbort_acts _ _ _ ?_ ?_ | with_reducible refine Acts.iteStep ?_ (fun _ => ?_) | with_reducible refine Acts.foldl ?_ (fun _ _ _ => ?_) | with_reducible refine Acts.fstIte ?_ ?_ | with_reducible refine Acts.ofFst (by assumption) ?_))
    | split)

theorem serveAnswer_acts {F : List Part} {S : State} (c : Client) (partition : Option Nat) (r : Sys2Proof.Request) (op : Nat) (payload : Sys2Proof.Bytes) {s : State} (h : Acts F S s)
    (hs : subParts [.regs, .sched, .ports, .front, .flow, .endpoint, .queue, .pipe, .slots, .quant, .power, .tally, .secure, .crown, .peer, .observe, .log, .out, .noticeSeq, .fresh] F = true) : Acts F S (serveAnswer s c partition r op payload) := by
  refine Acts.step h ?_ hs
  unfold serveAnswer
  repeat' (first
    | with_reducible assumption
    | decide
    | with_reducible exact Acts.refl _ _
    | with_reducible refine serve_acts _ _ _ _ _ ?_ ?_
    | with_reducible refine respond_acts _ _ _ _ _ ?_ ?_
    | with_reducible refine Acts.iteStep ?_ (fun _ => ?_)
    | with_reducible refine Acts.foldl ?_ (fun _ _ _ => ?_)
    | with_reducible refine Acts.fstIte ?_ ?_
    | with_reducible refine Acts.ofFst (by assumption) ?_
    | dsimp -proj only
    | (with_reducible refine Acts.fstMk ?_; first | with_reducible assumption | with_reducible exact Acts.refl _ _ | with_reducible refine serve_acts _ _ _ _ _ ?_ ?_ | with_reducible refine respond_acts _ _ _ _ _ ?_ ?_ | with_reducible refine Acts.iteStep ?_ (fun _ => ?_) | with_reducible refine Acts.foldl ?_ (fun _ _ _ => ?_) | with_reducible refine Acts.fstIte ?_ ?_ | with_reducible refine Acts.ofFst (by assumption) ?_)
    | split)

end Sys2Proof.Machine
end

