-- ==== Sys2Proof/Laws/ActsRelay.lean ====
section
/-! SUPPORT. What each operation of Machine/Relay.lean may touch, and that it keeps the invariant. -/

namespace Sys2Proof.Machine

theorem unreachable_acts {F : List Part} {S : State} (c : Client) (r : Sys2Proof.Request) (op : Nat) {s : State} (h : Acts F S s)
    (hs : subParts [.regs, .queue, .power, .peer, .observe, .out, .noticeSeq] F = true) : Acts F S (unreachable s c r op) := by
  refine Acts.step h ?_ hs
  unfold unreachable
  repeat' (first
    | with_reducible assumption
    | decide
    | with_reducible exact Acts.refl _ _
    | with_reducible refine raise_acts _ _ ?_ ?_
    | with_reducible refine bump_acts _ _ ?_ ?_
    | with_reducible refine respond_acts _ _ _ _ _ ?_ ?_
    | with_reducible refine Acts.iteStep ?_ (fun _ => ?_)
    | with_reducible refine Acts.foldl ?_ (fun _ _ _ => ?_)
    | dsimp -proj only
    | split)

theorem startRelay_acts {F : List Part} {S : State} (x : Session) (r : Sys2Proof.Request) (op : Nat) (payload : Sys2Proof.Bytes) {s : State} (h : Acts F S s)
    (hs : subParts [.regs, .queue, .power, .peer, .observe, .out, .noticeSeq] F = true) : Acts F S (startRelay s x r op payload) := by
  refine Acts.step h ?_ hs
  unfold startRelay
  repeat' (first
    | with_reducible assumption
    | decide
    | with_reducible exact Acts.refl _ _
    | with_reducible refine unreachable_acts _ _ _ ?_ ?_
    | with_reducible refine bump_acts _ _ ?_ ?_
    | with_reducible refine Acts.iteStep ?_ (fun _ => ?_)
    | with_reducible refine Acts.foldl ?_ (fun _ _ _ => ?_)
    | with_reducible refine Acts.ofSome (by assumption) ?_
    | with_reducible refine sendTo_acts _ _ ?_ ?_
    | dsimp -proj only
    | (with_reducible refine Acts.set_peer ?_ ?_ ?_; first | with_reducible assumption | with_reducible exact Acts.refl _ _ | with_reducible refine unreachable_acts _ _ _ ?_ ?_ | with_reducible refine bump_acts _ _ ?_ ?_ | with_reducible refine Acts.iteStep ?_ (fun _ => ?_) | with_reducible refine Acts.foldl ?_ (fun _ _ _ => ?_) | with_reducible refine Acts.ofSome (by assumption) ?_ | with_reducible refine sendTo_acts _ _ ?_ ?_)
    | split
    | with_reducible exact PeerOk.keep_nextMessage_relays_remoteJobs _ _ _ _
    | (exact fun _ => rfl)
    | (intro k; rw [List.length_map]; exact k)
    | (exact fun h => Mem.wf_writeBytes _ _ h)
    | (exact fun h => Mem.wf_write _ _ h)
    | (intro _; exact Nat.zero_le _)
    | with_reducible with_reducible exact fun h => h
    | (intro h; rw [modAt_length]; exact h))

theorem crownRequest_acts {F : List Part} {S : State} (r : Sys2Proof.Request) (op : Nat) (payload : Sys2Proof.Bytes) {s : State} (h : Acts F S s)
    (hs : subParts [.regs, .sched, .ports, .front, .flow, .endpoint, .queue, .pipe, .slots, .quant, .power, .tally, .secure, .crown, .peer, .observe, .log, .out, .noticeSeq, .fresh] F = true) : Acts F S (crownRequest s r op payload) := by
  refine Acts.step h ?_ hs
  unfold crownRequest
  repeat' (first
    | with_reducible assumption
    | decide
    | with_reducible exact Acts.refl _ _
    | with_reducible refine respond_acts _ _ _ _ _ ?_ ?_
    | with_reducible refine serveAnswer_acts _ _ _ _ _ ?_ ?_
    | with_reducible refine startRelay_acts _ _ _ _ ?_ ?_
    | with_reducible refine Acts.iteStep ?_ (fun _ => ?_)
    | with_reducible refine Acts.foldl ?_ (fun _ _ _ => ?_)
    | dsimp -proj only
    | split)

theorem execIdentity_acts {F : List Part} {S : State} (r : Sys2Proof.Request) {s : State} (h : Acts F S s)
    (hs : subParts [.regs, .sched, .ports, .front, .flow, .endpoint, .queue, .pipe, .slots, .quant, .power, .tally, .secure, .crown, .peer, .observe, .log, .out, .noticeSeq, .fresh] F = true) : ActsNext F S (execIdentity r s) := by
  refine ActsNext.step h ?_ hs
  unfold execIdentity
  repeat' (first
    | with_reducible assumption
    | decide
    | with_reducible exact Acts.refl _ _
    | with_reducible refine crownRequest_acts _ _ _ ?_ ?_
    | with_reducible refine Acts.iteStep ?_ (fun _ => ?_)
    | with_reducible refine Acts.foldl ?_ (fun _ _ _ => ?_)
    | with_reducible refine ActsNext.next ?_
    | with_reducible refine ActsNext.ite ?_ ?_
    | dsimp -proj only
    | split)

theorem execRegRead_acts {F : List Part} {S : State} (r : Sys2Proof.Request) (address : Nat) (count : Nat) {s : State} (h : Acts F S s)
    (hs : subParts [.regs, .sched, .ports, .front, .flow, .endpoint, .queue, .pipe, .slots, .quant, .power, .tally, .secure, .crown, .peer, .observe, .log, .out, .noticeSeq, .fresh] F = true) : ActsNext F S (execRegRead r address count s) := by
  refine ActsNext.step h ?_ hs
  unfold execRegRead
  repeat' (first
    | with_reducible assumption
    | decide
    | with_reducible exact Acts.refl _ _
    | with_reducible refine crownRequest_acts _ _ _ ?_ ?_
    | with_reducible refine Acts.iteStep ?_ (fun _ => ?_)
    | with_reducible refine Acts.foldl ?_ (fun _ _ _ => ?_)
    | with_reducible refine ActsNext.next ?_
    | with_reducible refine ActsNext.ite ?_ ?_
    | dsimp -proj only
    | split)

theorem execRegWrite_acts {F : List Part} {S : State} (r : Sys2Proof.Request) (pairs : List (Nat × Sys2Proof.Word)) {s : State} (h : Acts F S s)
    (hs : subParts [.regs, .sched, .ports, .front, .flow, .endpoint, .queue, .pipe, .slots, .quant, .power, .tally, .secure, .crown, .peer, .observe, .log, .out, .noticeSeq, .fresh] F = true) : ActsNext F S (execRegWrite r pairs s) := by
  refine ActsNext.step h ?_ hs
  unfold execRegWrite
  repeat' (first
    | with_reducible assumption
    | decide
    | with_reducible exact Acts.refl _ _
    | with_reducible refine crownRequest_acts _ _ _ ?_ ?_
    | with_reducible refine Acts.iteStep ?_ (fun _ => ?_)
    | with_reducible refine Acts.foldl ?_ (fun _ _ _ => ?_)
    | with_reducible refine ActsNext.next ?_
    | with_reducible refine ActsNext.ite ?_ ?_
    | dsimp -proj only
    | split)

theorem execDequeue_acts {F : List Part} {S : State} (r : Sys2Proof.Request) (queue : Nat) (max : Nat) {s : State} (h : Acts F S s)
    (hs : subParts [.regs, .sched, .ports, .front, .flow, .endpoint, .queue, .pipe, .slots, .quant, .power, .tally, .secure, .crown, .peer, .observe, .log, .out, .noticeSeq, .fresh] F = true) : ActsNext F S (execDequeue r queue max s) := by
  refine ActsNext.step h ?_ hs
  unfold execDequeue
  repeat' (first
    | with_reducible assumption
    | decide
    | with_reducible exact Acts.refl _ _
    | with_reducible refine crownRequest_acts _ _ _ ?_ ?_
    | with_reducible refine Acts.iteStep ?_ (fun _ => ?_)
    | with_reducible refine Acts.foldl ?_ (fun _ _ _ => ?_)
    | with_reducible refine ActsNext.next ?_
    | with_reducible refine ActsNext.ite ?_ ?_
    | dsimp -proj only
    | split)

theorem execTallyRoot_acts {F : List Part} {S : State} (r : Sys2Proof.Request) (seq : Nat) {s : State} (h : Acts F S s)
    (hs : subParts [.regs, .sched, .ports, .front, .flow, .endpoint, .queue, .pipe, .slots, .quant, .power, .tally, .secure, .crown, .peer, .observe, .log, .out, .noticeSeq, .fresh] F = true) : ActsNext F S (execTallyRoot r seq s) := by
  refine ActsNext.step h ?_ hs
  unfold execTallyRoot
  repeat' (first
    | with_reducible assumption
    | decide
    | with_reducible exact Acts.refl _ _
    | with_reducible refine crownRequest_acts _ _ _ ?_ ?_
    | with_reducible refine Acts.iteStep ?_ (fun _ => ?_)
    | with_reducible refine Acts.foldl ?_ (fun _ _ _ => ?_)
    | with_reducible refine ActsNext.next ?_
    | with_reducible refine ActsNext.ite ?_ ?_
    | dsimp -proj only
    | split)

theorem execTallyLeaves_acts {F : List Part} {S : State} (r : Sys2Proof.Request) (tree : Nat) (first : Nat) (count : Nat) (seq : Nat) {s : State} (h : Acts F S s)
    (hs : subParts [.regs, .sched, .ports, .front, .flow, .endpoint, .queue, .pipe, .slots, .quant, .power, .tally, .secure, .crown, .peer, .observe, .log, .out, .noticeSeq, .fresh] F = true) : ActsNext F S (execTallyLeaves r tree first count seq s) := by
  refine ActsNext.step h ?_ hs
  unfold execTallyLeaves
  repeat' (first
    | with_reducible assumption
    | decide
    | with_reducible exact Acts.refl _ _
    | with_reducible refine crownRequest_acts _ _ _ ?_ ?_
    | with_reducible refine Acts.iteStep ?_ (fun _ => ?_)
    | with_reducible refine Acts.foldl ?_ (fun _ _ _ => ?_)
    | with_reducible refine ActsNext.next ?_
    | with_reducible refine ActsNext.ite ?_ ?_
    | dsimp -proj only
    | split)

theorem execTallyProof_acts {F : List Part} {S : State} (r : Sys2Proof.Request) (tree : Nat) (index : Nat) (seq : Nat) {s : State} (h : Acts F S s)
    (hs : subParts [.regs, .sched, .ports, .front, .flow, .endpoint, .queue, .pipe, .slots, .quant, .power, .tally, .secure, .crown, .peer, .observe, .log, .out, .noticeSeq, .fresh] F = true) : ActsNext F S (execTallyProof r tree index seq s) := by
  refine ActsNext.step h ?_ hs
  unfold execTallyProof
  repeat' (first
    | with_reducible assumption
    | decide
    | with_reducible exact Acts.refl _ _
    | with_reducible refine crownRequest_acts _ _ _ ?_ ?_
    | with_reducible refine Acts.iteStep ?_ (fun _ => ?_)
    | with_reducible refine Acts.foldl ?_ (fun _ _ _ => ?_)
    | with_reducible refine ActsNext.next ?_
    | with_reducible refine ActsNext.ite ?_ ?_
    | dsimp -proj only
    | split)

theorem execAttest_acts {F : List Part} {S : State} (r : Sys2Proof.Request) (nonce : Sys2Proof.Bytes) {s : State} (h : Acts F S s)
    (hs : subParts [.regs, .sched, .ports, .front, .flow, .endpoint, .queue, .pipe, .slots, .quant, .power, .tally, .secure, .crown, .peer, .observe, .log, .out, .noticeSeq, .fresh] F = true) : ActsNext F S (execAttest r nonce s) := by
  refine ActsNext.step h ?_ hs
  unfold execAttest
  repeat' (first
    | with_reducible assumption
    | decide
    | with_reducible exact Acts.refl _ _
    | with_reducible refine crownRequest_acts _ _ _ ?_ ?_
    | with_reducible refine Acts.iteStep ?_ (fun _ => ?_)
    | with_reducible refine Acts.foldl ?_ (fun _ _ _ => ?_)
    | with_reducible refine ActsNext.next ?_
    | with_reducible refine ActsNext.ite ?_ ?_
    | dsimp -proj only
    | split)

theorem execJobPost_acts {F : List Part} {S : State} (r : Sys2Proof.Request) (payload : Sys2Proof.Bytes) {s : State} (h : Acts F S s)
    (hs : subParts [.regs, .sched, .ports, .front, .flow, .endpoint, .queue, .pipe, .slots, .quant, .power, .tally, .secure, .crown, .peer, .observe, .log, .out, .noticeSeq, .fresh] F = true) : ActsNext F S (execJobPost r payload s) := by
  refine ActsNext.step h ?_ hs
  unfold execJobPost
  repeat' (first
    | with_reducible assumption
    | decide
    | with_reducible exact Acts.refl _ _
    | with_reducible refine crownRequest_acts _ _ _ ?_ ?_
    | with_reducible refine Acts.iteStep ?_ (fun _ => ?_)
    | with_reducible refine Acts.foldl ?_ (fun _ _ _ => ?_)
    | with_reducible refine ActsNext.next ?_
    | with_reducible refine ActsNext.ite ?_ ?_
    | dsimp -proj only
    | split)

theorem execJobAbort_acts {F : List Part} {S : State} (r : Sys2Proof.Request) (job : Nat) {s : State} (h : Acts F S s)
    (hs : subParts [.regs, .sched, .ports, .front, .flow, .endpoint, .queue, .pipe, .slots, .quant, .power, .tally, .secure, .crown, .peer, .observe, .log, .out, .noticeSeq, .fresh] F = true) : ActsNext F S (execJobAbort r job s) := by
  refine ActsNext.step h ?_ hs
  unfold execJobAbort
  repeat' (first
    | with_reducible assumption
    | decide
    | with_reducible exact Acts.refl _ _
    | with_reducible refine crownRequest_acts _ _ _ ?_ ?_
    | with_reducible refine Acts.iteStep ?_ (fun _ => ?_)
    | with_reducible refine Acts.foldl ?_ (fun _ _ _ => ?_)
    | with_reducible refine ActsNext.next ?_
    | with_reducible refine ActsNext.ite ?_ ?_
    | dsimp -proj only
    | split)

theorem execJobStatus_acts {F : List Part} {S : State} (r : Sys2Proof.Request) (job : Nat) {s : State} (h : Acts F S s)
    (hs : subParts [.regs, .sched, .ports, .front, .flow, .endpoint, .queue, .pipe, .slots, .quant, .power, .tally, .secure, .crown, .peer, .observe, .log, .out, .noticeSeq, .fresh] F = true) : ActsNext F S (execJobStatus r job s) := by
  refine ActsNext.step h ?_ hs
  unfold execJobStatus
  repeat' (first
    | with_reducible assumption
    | decide
    | with_reducible exact Acts.refl _ _
    | with_reducible refine crownRequest_acts _ _ _ ?_ ?_
    | with_reducible refine Acts.iteStep ?_ (fun _ => ?_)
    | with_reducible refine Acts.foldl ?_ (fun _ _ _ => ?_)
    | with_reducible refine ActsNext.next ?_
    | with_reducible refine ActsNext.ite ?_ ?_
    | dsimp -proj only
    | split)

theorem execBadMessage_acts {F : List Part} {S : State} (session : Nat) (header : Sys2Proof.Bytes) {s : State} (h : Acts F S s)
    (hs : subParts [.regs, .sched, .ports, .front, .flow, .endpoint, .queue, .pipe, .slots, .quant, .power, .tally, .secure, .crown, .peer, .observe, .log, .out, .noticeSeq, .fresh] F = true) : ActsNext F S (execBadMessage session header s) := by
  refine ActsNext.step h ?_ hs
  unfold execBadMessage
  repeat' (first
    | with_reducible assumption
    | decide
    | with_reducible exact Acts.refl _ _
    | with_reducible refine closeSession_acts _ ?_ ?_
    | with_reducible refine bump_acts _ _ ?_ ?_
    | with_reducible refine crownRequest_acts _ _ _ ?_ ?_
    | with_reducible refine Acts.iteStep ?_ (fun _ => ?_)
    | with_reducible refine Acts.foldl ?_ (fun _ _ _ => ?_)
    | with_reducible refine ActsNext.next ?_
    | with_reducible refine ActsNext.ite ?_ ?_
    | dsimp -proj only
    | split)

theorem execRelayTimeout_acts {F : List Part} {S : State} (message : Nat) {s : State} (h : Acts F S s)
    (hs : subParts [.regs, .queue, .power, .peer, .observe, .out, .noticeSeq] F = true) : ActsNext F S (execRelayTimeout message s) := by
  refine ActsNext.step h ?_ hs
  unfold execRelayTimeout
  repeat' (first
    | with_reducible assumption
    | decide
    | with_reducible exact Acts.refl _ _
    | with_reducible refine unreachable_acts _ _ _ ?_ ?_
    | with_reducible refine Acts.iteStep ?_ (fun _ => ?_)
    | with_reducible refine Acts.foldl ?_ (fun _ _ _ => ?_)
    | with_reducible refine ActsNext.next ?_
    | with_reducible refine ActsNext.ite ?_ ?_
    | dsimp -proj only
    | (with_reducible refine Acts.set_peer ?_ ?_ ?_; first | with_reducible assumption | with_reducible exact Acts.refl _ _ | with_reducible refine unreachable_acts _ _ _ ?_ ?_ | with_reducible refine Acts.iteStep ?_ (fun _ => ?_) | with_reducible refine Acts.foldl ?_ (fun _ _ _ => ?_) | with_reducible refine ActsNext.next ?_ | with_reducible refine ActsNext.ite ?_ ?_)
    | split
    | with_reducible exact PeerOk.keep_relays _ _
    | (exact fun _ => rfl)
    | (intro k; rw [List.length_map]; exact k)
    | (exact fun h => Mem.wf_writeBytes _ _ h)
    | (exact fun h => Mem.wf_write _ _ h)
    | (intro _; exact Nat.zero_le _)
    | with_reducible with_reducible exact fun h => h
    | (intro h; rw [modAt_length]; exact h))

theorem grantBuffer_acts {F : List Part} {S : State} (source message : Nat) {s : State} (hl : s.peer.buffers.length < 16)
    (h : Acts F S s) (hs : subParts [.regs, .queue, .power, .peer, .observe, .out, .noticeSeq] F = true) : Acts F S (grantBuffer s source message) := by
  refine Acts.step h ?_ hs
  unfold grantBuffer
  refine sendOrLose_acts _ _ (Acts.set_peer (Acts.refl _ _) rfl (PeerOk.keep_buffers _ _ fun _ => ?_)) (by decide)
  rw [List.length_append]
  exact hl


theorem askBuffer_acts {F : List Part} {S : State} (source message : Nat) {s : State} (h : Acts F S s)
    (hs : subParts [.regs, .queue, .power, .peer, .observe, .out, .noticeSeq] F = true) : Acts F S (askBuffer s source message) := by
  refine Acts.step h ?_ hs
  unfold askBuffer
  exact Acts.cond (fun hc => grantBuffer_acts _ _ hc (Acts.refl _ _) (by decide))
    fun _ => Acts.set_peer (Acts.refl _ _) rfl (PeerOk.keep_relayWait _ _)


theorem freeBuffer_acts {F : List Part} {S : State} (source message : Nat) {s : State} (h : Acts F S s)
    (hs : subParts [.regs, .queue, .power, .peer, .observe, .out, .noticeSeq] F = true) : Acts F S (freeBuffer s source message) := by
  refine Acts.step h ?_ hs
  have k : Acts [.regs, .queue, .power, .peer, .observe, .out, .noticeSeq] s { s with
      peer.buffers := s.peer.buffers.filter fun b => !(b.source == source && b.message == message) } :=
    Acts.set_peer (Acts.refl _ _) rfl (PeerOk.keep_buffers _ _ length_filter_le')
  unfold freeBuffer
  dsimp -proj only
  split
  · exact k
  · refine Acts.cond (fun hc => ?_) fun _ => k
    exact grantBuffer_acts _ _ hc (Acts.set_peer k rfl (PeerOk.keep_relayWait _ _)) (by decide)


theorem serveRelayed_acts {F : List Part} {S : State} (source : Nat) (message : Nat) (m : Sys2Proof.Bytes) {s : State} (h : Acts F S s)
    (hs : subParts [.regs, .sched, .ports, .front, .flow, .endpoint, .queue, .pipe, .slots, .quant, .power, .tally, .secure, .crown, .peer, .observe, .log, .out, .noticeSeq, .fresh] F = true) : Acts F S (serveRelayed s source message m) := by
  refine Acts.step h ?_ hs
  unfold serveRelayed
  repeat' (first
    | with_reducible assumption
    | decide
    | with_reducible exact Acts.refl _ _
    | with_reducible refine respond_acts _ _ _ _ _ ?_ ?_
    | with_reducible refine serveAnswer_acts _ _ _ _ _ ?_ ?_
    | with_reducible refine Acts.iteStep ?_ (fun _ => ?_)
    | with_reducible refine Acts.foldl ?_ (fun _ _ _ => ?_)
    | dsimp -proj only
    | split)

theorem takeRequest_acts {F : List Part} {S : State} (h0 : PeerHdr) (p : Sys2Proof.Bytes) {s : State} (h : Acts F S s)
    (hs : subParts [.regs, .sched, .ports, .front, .flow, .endpoint, .queue, .pipe, .slots, .quant, .power, .tally, .secure, .crown, .peer, .observe, .log, .out, .noticeSeq, .fresh] F = true) : Acts F S (takeRequest s h0 p) := by
  refine Acts.step h ?_ hs
  unfold takeRequest
  repeat' (first
    | with_reducible assumption
    | decide
    | with_reducible exact Acts.refl _ _
    | with_reducible refine askBuffer_acts _ _ ?_ ?_
    | with_reducible refine serveRelayed_acts _ _ _ ?_ ?_
    | with_reducible refine freeBuffer_acts _ _ ?_ ?_
    | with_reducible refine Acts.iteStep ?_ (fun _ => ?_)
    | with_reducible refine Acts.foldl ?_ (fun _ _ _ => ?_)
    | dsimp -proj only
    | (with_reducible refine Acts.set_peer ?_ ?_ ?_; first | with_reducible assumption | with_reducible exact Acts.refl _ _ | with_reducible refine askBuffer_acts _ _ ?_ ?_ | with_reducible refine serveRelayed_acts _ _ _ ?_ ?_ | with_reducible refine freeBuffer_acts _ _ ?_ ?_ | with_reducible refine Acts.iteStep ?_ (fun _ => ?_) | with_reducible refine Acts.foldl ?_ (fun _ _ _ => ?_))
    | split
    | with_reducible refine PeerOk.keep_buffers _ _ ?_
    | (exact fun _ => rfl)
    | (intro k; rw [List.length_map]; exact k)
    | (exact fun h => Mem.wf_writeBytes _ _ h)
    | (exact fun h => Mem.wf_write _ _ h)
    | (intro _; exact Nat.zero_le _)
    | with_reducible with_reducible exact fun h => h
    | (intro h; rw [modAt_length]; exact h))

theorem execRequest_acts {F : List Part} {S : State} (link : Nat) (frame : Sys2Proof.Bytes) {s : State} (h : Acts F S s)
    (hs : subParts [.regs, .sched, .ports, .front, .flow, .endpoint, .queue, .pipe, .slots, .quant, .power, .tally, .secure, .crown, .peer, .observe, .log, .out, .noticeSeq, .fresh] F = true) : ActsNext F S (execRequest link frame s) := by
  refine ActsNext.step h ?_ hs
  unfold execRequest
  repeat' (first
    | with_reducible assumption
    | decide
    | with_reducible exact Acts.refl _ _
    | with_reducible refine arrive_acts _ _ ?_ ?_
    | with_reducible refine takeRequest_acts _ _ ?_ ?_
    | with_reducible refine Acts.iteStep ?_ (fun _ => ?_)
    | with_reducible refine Acts.foldl ?_ (fun _ _ _ => ?_)
    | with_reducible refine ActsNext.next ?_
    | with_reducible refine ActsNext.ite ?_ ?_
    | with_reducible refine Acts.fstIte ?_ ?_
    | with_reducible refine Acts.ofFst (by assumption) ?_
    | with_reducible refine Acts.ofSome (by assumption) ?_
    | with_reducible refine acceptFrame_acts _ _ _ ?_ ?_
    | dsimp -proj only
    | (with_reducible refine Acts.fstMk ?_; first | with_reducible assumption | with_reducible exact Acts.refl _ _ | with_reducible refine arrive_acts _ _ ?_ ?_ | with_reducible refine takeRequest_acts _ _ ?_ ?_ | with_reducible refine Acts.iteStep ?_ (fun _ => ?_) | with_reducible refine Acts.foldl ?_ (fun _ _ _ => ?_) | with_reducible refine ActsNext.next ?_ | with_reducible refine ActsNext.ite ?_ ?_ | with_reducible refine Acts.fstIte ?_ ?_ | with_reducible refine Acts.ofFst (by assumption) ?_ | with_reducible refine Acts.ofSome (by assumption) ?_ | with_reducible refine acceptFrame_acts _ _ _ ?_ ?_)
    | split)

theorem sendRelay_acts {F : List Part} {S : State} (y : Relay) {s : State} (h : Acts F S s)
    (hs : subParts [.regs, .queue, .power, .peer, .observe, .out, .noticeSeq] F = true) : Acts F S (sendRelay s y) := by
  refine Acts.step h ?_ hs
  unfold sendRelay
  repeat' (first
    | with_reducible assumption
    | decide
    | with_reducible exact Acts.refl _ _
    | with_reducible refine sendOrLose_acts _ _ ?_ ?_
    | with_reducible refine Acts.iteStep ?_ (fun _ => ?_)
    | with_reducible refine Acts.foldl ?_ (fun _ _ _ => ?_)
    | dsimp -proj only
    | (with_reducible refine Acts.set_peer ?_ ?_ ?_; first | with_reducible assumption | with_reducible exact Acts.refl _ _ | with_reducible refine sendOrLose_acts _ _ ?_ ?_ | with_reducible refine Acts.iteStep ?_ (fun _ => ?_) | with_reducible refine Acts.foldl ?_ (fun _ _ _ => ?_))
    | split
    | with_reducible exact PeerOk.keep_relays _ _
    | (exact fun _ => rfl)
    | (intro k; rw [List.length_map]; exact k)
    | (exact fun h => Mem.wf_writeBytes _ _ h)
    | (exact fun h => Mem.wf_write _ _ h)
    | (intro _; exact Nat.zero_le _)
    | with_reducible with_reducible exact fun h => h
    | (intro h; rw [modAt_length]; exact h))

theorem noteRemoteJob_acts {F : List Part} {S : State} (y : Relay) (m : Sys2Proof.Bytes) {s : State} (h : Acts F S s)
    (hs : subParts [.peer] F = true) : Acts F S (noteRemoteJob s y m) := by
  refine Acts.step h ?_ hs
  unfold noteRemoteJob
  repeat' (first
    | with_reducible assumption
    | decide
    | with_reducible exact Acts.refl _ _
    | with_reducible refine Acts.iteStep ?_ (fun _ => ?_)
    | with_reducible refine Acts.foldl ?_ (fun _ _ _ => ?_)
    | dsimp -proj only
    | (with_reducible refine Acts.set_peer ?_ ?_ ?_; first | with_reducible assumption | with_reducible exact Acts.refl _ _ | with_reducible refine Acts.iteStep ?_ (fun _ => ?_) | with_reducible refine Acts.foldl ?_ (fun _ _ _ => ?_))
    | (with_reducible refine Acts.set_peer ?_ ?_ ?_; first | with_reducible assumption | with_reducible exact Acts.refl _ _ | with_reducible refine Acts.iteStep ?_ (fun _ => ?_) | with_reducible refine Acts.foldl ?_ (fun _ _ _ => ?_) | (with_reducible refine Acts.set_peer ?_ ?_ ?_; first | with_reducible assumption | with_reducible exact Acts.refl _ _ | with_reducible refine Acts.iteStep ?_ (fun _ => ?_) | with_reducible refine Acts.foldl ?_ (fun _ _ _ => ?_)))
    | split
    | with_reducible exact PeerOk.keep_remoteJobs _ _
    | (exact fun _ => rfl)
    | (intro k; rw [List.length_map]; exact k)
    | (exact fun h => Mem.wf_writeBytes _ _ h)
    | (exact fun h => Mem.wf_write _ _ h)
    | (intro _; exact Nat.zero_le _)
    | with_reducible with_reducible exact fun h => h
    | (intro h; rw [modAt_length]; exact h))

theorem takeResponse_acts {F : List Part} {S : State} (source : Nat) (message : Nat) (m : Sys2Proof.Bytes) {s : State} (h : Acts F S s)
    (hs : subParts [.regs, .queue, .power, .peer, .observe, .out, .noticeSeq] F = true) : Acts F S (takeResponse s source message m) := by
  refine Acts.step h ?_ hs
  unfold takeResponse
  repeat' (first
    | with_reducible assumption
    | decide
    | with_reducible exact Acts.refl _ _
    | with_reducible refine bump_acts _ _ ?_ ?_
    | with_reducible refine sendClient_acts _ _ ?_ ?_
    | with_reducible refine noteRemoteJob_acts _ _ ?_ ?_
    | with_reducible refine Acts.iteStep ?_ (fun _ => ?_)
    | with_reducible refine Acts.foldl ?_ (fun _ _ _ => ?_)
    | dsimp -proj only
    | (with_reducible refine Acts.set_peer ?_ ?_ ?_; first | with_reducible assumption | with_reducible exact Acts.refl _ _ | with_reducible refine bump_acts _ _ ?_ ?_ | with_reducible refine sendClient_acts _ _ ?_ ?_ | with_reducible refine noteRemoteJob_acts _ _ ?_ ?_ | with_reducible refine Acts.iteStep ?_ (fun _ => ?_) | with_reducible refine Acts.foldl ?_ (fun _ _ _ => ?_))
    | split
    | with_reducible exact PeerOk.keep_relays _ _
    | (exact fun _ => rfl)
    | (intro k; rw [List.length_map]; exact k)
    | (exact fun h => Mem.wf_writeBytes _ _ h)
    | (exact fun h => Mem.wf_write _ _ h)
    | (intro _; exact Nat.zero_le _)
    | with_reducible with_reducible exact fun h => h
    | (intro h; rw [modAt_length]; exact h))

theorem takeResponsePart_acts {F : List Part} {S : State} (h0 : PeerHdr) (p : Sys2Proof.Bytes) {s : State} (h : Acts F S s)
    (hs : subParts [.regs, .queue, .power, .peer, .observe, .out, .noticeSeq] F = true) : Acts F S (takeResponsePart s h0 p) := by
  refine Acts.step h ?_ hs
  unfold takeResponsePart
  repeat' (first
    | with_reducible assumption
    | decide
    | with_reducible exact Acts.refl _ _
    | with_reducible refine sendRelay_acts _ ?_ ?_
    | with_reducible refine takeResponse_acts _ _ _ ?_ ?_
    | with_reducible refine Acts.iteStep ?_ (fun _ => ?_)
    | with_reducible refine Acts.foldl ?_ (fun _ _ _ => ?_)
    | dsimp -proj only
    | (with_reducible refine Acts.set_peer ?_ ?_ ?_; first | with_reducible assumption | with_reducible exact Acts.refl _ _ | with_reducible refine sendRelay_acts _ ?_ ?_ | with_reducible refine takeResponse_acts _ _ _ ?_ ?_ | with_reducible refine Acts.iteStep ?_ (fun _ => ?_) | with_reducible refine Acts.foldl ?_ (fun _ _ _ => ?_))
    | (with_reducible refine Acts.set_peer ?_ ?_ ?_; first | with_reducible assumption | with_reducible exact Acts.refl _ _ | with_reducible refine sendRelay_acts _ ?_ ?_ | with_reducible refine takeResponse_acts _ _ _ ?_ ?_ | with_reducible refine Acts.iteStep ?_ (fun _ => ?_) | with_reducible refine Acts.foldl ?_ (fun _ _ _ => ?_) | (with_reducible refine Acts.set_peer ?_ ?_ ?_; first | with_reducible assumption | with_reducible exact Acts.refl _ _ | with_reducible refine sendRelay_acts _ ?_ ?_ | with_reducible refine takeResponse_acts _ _ _ ?_ ?_ | with_reducible refine Acts.iteStep ?_ (fun _ => ?_) | with_reducible refine Acts.foldl ?_ (fun _ _ _ => ?_)))
    | split
    | with_reducible exact PeerOk.keep_parts _ _
    | (exact fun _ => rfl)
    | (intro k; rw [List.length_map]; exact k)
    | (exact fun h => Mem.wf_writeBytes _ _ h)
    | (exact fun h => Mem.wf_write _ _ h)
    | (intro _; exact Nat.zero_le _)
    | with_reducible with_reducible exact fun h => h
    | (intro h; rw [modAt_length]; exact h))

theorem execResponse_acts {F : List Part} {S : State} (link : Nat) (frame : Sys2Proof.Bytes) {s : State} (h : Acts F S s)
    (hs : subParts [.regs, .sched, .queue, .pipe, .power, .peer, .observe, .log, .out, .noticeSeq] F = true) : ActsNext F S (execResponse link frame s) := by
  refine ActsNext.step h ?_ hs
  unfold execResponse
  repeat' (first
    | with_reducible assumption
    | decide
    | with_reducible exact Acts.refl _ _
    | with_reducible refine arrive_acts _ _ ?_ ?_
    | with_reducible refine takeResponsePart_acts _ _ ?_ ?_
    | with_reducible refine Acts.iteStep ?_ (fun _ => ?_)
    | with_reducible refine Acts.foldl ?_ (fun _ _ _ => ?_)
    | with_reducible refine ActsNext.next ?_
    | with_reducible refine ActsNext.ite ?_ ?_
    | with_reducible refine Acts.fstIte ?_ ?_
    | with_reducible refine Acts.ofFst (by assumption) ?_
    | with_reducible refine Acts.ofSome (by assumption) ?_
    | with_reducible refine acceptFrame_acts _ _ _ ?_ ?_
    | dsimp -proj only
    | (with_reducible refine Acts.fstMk ?_; first | with_reducible assumption | with_reducible exact Acts.refl _ _ | with_reducible refine arrive_acts _ _ ?_ ?_ | with_reducible refine takeResponsePart_acts _ _ ?_ ?_ | with_reducible refine Acts.iteStep ?_ (fun _ => ?_) | with_reducible refine Acts.foldl ?_ (fun _ _ _ => ?_) | with_reducible refine ActsNext.next ?_ | with_reducible refine ActsNext.ite ?_ ?_ | with_reducible refine Acts.fstIte ?_ ?_ | with_reducible refine Acts.ofFst (by assumption) ?_ | with_reducible refine Acts.ofSome (by assumption) ?_ | with_reducible refine acceptFrame_acts _ _ _ ?_ ?_)
    | split)

theorem signReport_acts {F : List Part} {S : State}  {s : State} (h : Acts F S s)
    (hs : subParts [.regs, .queue, .power, .secure, .peer, .observe, .out, .noticeSeq] F = true) : Acts F S (signReport s) := by
  refine Acts.step h ?_ hs
  unfold signReport
  repeat' (first
    | with_reducible assumption
    | decide
    | with_reducible exact Acts.refl _ _
    | with_reducible refine respond_acts _ _ _ _ _ ?_ ?_
    | with_reducible refine Acts.iteStep ?_ (fun _ => ?_)
    | with_reducible refine Acts.foldl ?_ (fun _ _ _ => ?_)
    | dsimp -proj only
    | (with_reducible refine Acts.set_secure ?_ ?_; first | with_reducible assumption | with_reducible exact Acts.refl _ _ | with_reducible refine respond_acts _ _ _ _ _ ?_ ?_ | with_reducible refine Acts.iteStep ?_ (fun _ => ?_) | with_reducible refine Acts.foldl ?_ (fun _ _ _ => ?_))
    | split)

theorem execSign_acts {F : List Part} {S : State}  {s : State} (h : Acts F S s)
    (hs : subParts [.regs, .sched, .queue, .power, .tally, .secure, .peer, .observe, .out, .noticeSeq] F = true) : ActsNext F S (execSign s) := by
  refine ActsNext.step h ?_ hs
  unfold execSign
  repeat' (first
    | with_reducible assumption
    | decide
    | with_reducible exact Acts.refl _ _
    | with_reducible refine signRoot_acts _ ?_ ?_
    | with_reducible refine useKind_acts _ _ _ ?_ ?_
    | with_reducible refine signReport_acts  ?_ ?_
    | with_reducible refine Acts.iteStep ?_ (fun _ => ?_)
    | with_reducible refine Acts.foldl ?_ (fun _ _ _ => ?_)
    | with_reducible refine ActsNext.next ?_
    | with_reducible refine ActsNext.ite ?_ ?_
    | dsimp -proj only
    | split)

end Sys2Proof.Machine
end

