-- ==== Sys2Proof/Laws/ActsJobRun.lean ====
section
/-! SUPPORT. What each operation of Machine/JobRun.lean may touch, and that it keeps the invariant. -/

namespace Sys2Proof.Machine

theorem startJob_acts {F : List Part} {S : State} (q : Nat) (faults : List Sys2Proof.FaultEv) {s : State} (h : Acts F S s)
    (hs : subParts [.regs, .sched, .ports, .front, .flow, .endpoint, .queue, .pipe, .power, .tally, .crown, .peer, .observe, .log, .hbm, .out, .noticeSeq, .fresh] F = true) : Acts F S (startJob s q faults) := by
  refine Acts.step h ?_ hs
  unfold startJob
  repeat' (first
    | with_reducible assumption
    | decide
    | with_reducible exact Acts.refl _ _
    | with_reducible refine dequeue_acts _ ?_ ?_
    | with_reducible refine structureFault_acts _ ?_ ?_
    | with_reducible refine retireJob_acts _ _ ?_ ?_
    | with_reducible refine showCrown_acts  ?_ ?_
    | with_reducible refine modJob_acts _ _ ?_ ?_
    | with_reducible refine Acts.iteStep ?_ (fun _ => ?_)
    | with_reducible refine Acts.foldl ?_ (fun _ _ _ => ?_)
    | with_reducible refine Acts.fstIte ?_ ?_
    | with_reducible refine Acts.ofFst (by assumption) ?_
    | dsimp -proj only
    | (with_reducible refine Acts.set_crown ?_ ?_ ?_; first | with_reducible assumption | with_reducible exact Acts.refl _ _ | with_reducible refine dequeue_acts _ ?_ ?_ | with_reducible refine structureFault_acts _ ?_ ?_ | with_reducible refine retireJob_acts _ _ ?_ ?_ | with_reducible refine showCrown_acts  ?_ ?_ | with_reducible refine modJob_acts _ _ ?_ ?_ | with_reducible refine Acts.iteStep ?_ (fun _ => ?_) | with_reducible refine Acts.foldl ?_ (fun _ _ _ => ?_) | with_reducible refine Acts.fstIte ?_ ?_ | with_reducible refine Acts.ofFst (by assumption) ?_)
    | (with_reducible refine Acts.fstMk ?_; first | with_reducible assumption | with_reducible exact Acts.refl _ _ | with_reducible refine dequeue_acts _ ?_ ?_ | with_reducible refine structureFault_acts _ ?_ ?_ | with_reducible refine retireJob_acts _ _ ?_ ?_ | with_reducible refine showCrown_acts  ?_ ?_ | with_reducible refine modJob_acts _ _ ?_ ?_ | with_reducible refine Acts.iteStep ?_ (fun _ => ?_) | with_reducible refine Acts.foldl ?_ (fun _ _ _ => ?_) | with_reducible refine Acts.fstIte ?_ ?_ | with_reducible refine Acts.ofFst (by assumption) ?_ | (with_reducible refine Acts.set_crown ?_ ?_ ?_; first | with_reducible assumption | with_reducible exact Acts.refl _ _ | with_reducible refine dequeue_acts _ ?_ ?_ | with_reducible refine structureFault_acts _ ?_ ?_ | with_reducible refine retireJob_acts _ _ ?_ ?_ | with_reducible refine showCrown_acts  ?_ ?_ | with_reducible refine modJob_acts _ _ ?_ ?_ | with_reducible refine Acts.iteStep ?_ (fun _ => ?_) | with_reducible refine Acts.foldl ?_ (fun _ _ _ => ?_) | with_reducible refine Acts.fstIte ?_ ?_ | with_reducible refine Acts.ofFst (by assumption) ?_))
    | split
    | with_reducible exact CrownOk.keep_lastQueue _ _
    | (exact fun _ => rfl)
    | (intro k; rw [List.length_map]; exact k)
    | (exact fun h => Mem.wf_writeBytes _ _ h)
    | (exact fun h => Mem.wf_write _ _ h)
    | (intro _; exact Nat.zero_le _)
    | with_reducible with_reducible exact fun h => h
    | (intro h; rw [modAt_length]; exact h))

theorem execJobStart_acts {F : List Part} {S : State} (queue : Nat) (faults : List Sys2Proof.FaultEv) {s : State} (h : Acts F S s)
    (hs : subParts [.regs, .sched, .ports, .front, .flow, .endpoint, .queue, .pipe, .power, .tally, .crown, .peer, .observe, .log, .hbm, .out, .noticeSeq, .fresh] F = true) : ActsNext F S (execJobStart queue faults s) := by
  refine ActsNext.step h ?_ hs
  unfold execJobStart
  repeat' (first
    | with_reducible assumption
    | decide
    | with_reducible exact Acts.refl _ _
    | with_reducible refine startJob_acts _ _ ?_ ?_
    | with_reducible refine Acts.iteStep ?_ (fun _ => ?_)
    | with_reducible refine Acts.foldl ?_ (fun _ _ _ => ?_)
    | with_reducible refine ActsNext.next ?_
    | with_reducible refine ActsNext.ite ?_ ?_
    | dsimp -proj only
    | split)

theorem execJobRetire_acts {F : List Part} {S : State} (job : Nat) {s : State} (h : Acts F S s)
    (hs : subParts [.regs, .queue, .power, .tally, .crown, .peer, .observe, .out, .noticeSeq, .fresh] F = true) : ActsNext F S (execJobRetire job s) := by
  refine ActsNext.step h ?_ hs
  unfold execJobRetire
  repeat' (first
    | with_reducible assumption
    | decide
    | with_reducible exact Acts.refl _ _
    | with_reducible refine retireJob_acts _ _ ?_ ?_
    | with_reducible refine Acts.iteStep ?_ (fun _ => ?_)
    | with_reducible refine Acts.foldl ?_ (fun _ _ _ => ?_)
    | with_reducible refine ActsNext.next ?_
    | with_reducible refine ActsNext.ite ?_ ?_
    | dsimp -proj only
    | split)

theorem retireOp_acts {F : List Part} {S : State} (j : Job) (result : Nat) (data : Sys2Proof.Bytes) {s : State} (h : Acts F S s)
    (hs : subParts [.tally, .crown] F = true) : Acts F S (retireOp s j result data) := by
  refine Acts.step h ?_ hs
  unfold retireOp
  repeat' (first
    | with_reducible assumption
    | decide
    | with_reducible exact Acts.refl _ _
    | with_reducible refine modJob_acts _ _ ?_ ?_
    | with_reducible refine countOperation_acts _ ?_ ?_
    | with_reducible refine Acts.iteStep ?_ (fun _ => ?_)
    | with_reducible refine Acts.foldl ?_ (fun _ _ _ => ?_)
    | dsimp -proj only
    | split)

theorem controlOp_acts {F : List Part} {S : State} (id kind : Nat) (f : State → Job → JobOp → State × Nat × Bytes) {s : State}
    (hf : ∀ j o b, Acts F S b → Acts F S (f b j o).1) (h : Acts F S s) (hs : subParts [.tally, .crown] F = true) :
    ActsNext F S (controlOp s id kind f) := by
  unfold controlOp
  refine ActsNext.ite (ActsNext.next h) ?_
  split
  · exact ActsNext.next h
  · next j o _ => exact ActsNext.next (retireOp_acts _ _ _ (hf j o s h) hs)


theorem tableOp_acts {F : List Part} {S : State} (id : Nat) (code : Nat) (faults : List Sys2Proof.FaultEv) {s : State} (h : Acts F S s)
    (hs : subParts [.regs, .sched, .front, .flow, .endpoint, .queue, .pipe, .slots, .tally, .crown, .observe, .log, .hbm, .noticeSeq] F = true) : Acts F S (tableOp s id code faults) := by
  refine Acts.step h ?_ hs
  unfold tableOp
  repeat' (first
    | with_reducible assumption
    | decide
    | with_reducible exact Acts.refl _ _
    | with_reducible refine keyTable_acts _ _ _ _ _ ?_ ?_
    | with_reducible refine useUnit_acts _ ?_ ?_
    | with_reducible refine dmaOperation_acts _ _ _ _ _ _ ?_ ?_
    | with_reducible refine retireOp_acts _ _ _ ?_ ?_
    | with_reducible refine Acts.iteStep ?_ (fun _ => ?_)
    | with_reducible refine Acts.foldl ?_ (fun _ _ _ => ?_)
    | with_reducible refine Acts.fstIte ?_ ?_
    | with_reducible refine Acts.ofFst (by assumption) ?_
    | dsimp -proj only
    | (with_reducible refine Acts.fstMk ?_; first | with_reducible assumption | with_reducible exact Acts.refl _ _ | with_reducible refine keyTable_acts _ _ _ _ _ ?_ ?_ | with_reducible refine useUnit_acts _ ?_ ?_ | with_reducible refine dmaOperation_acts _ _ _ _ _ _ ?_ ?_ | with_reducible refine retireOp_acts _ _ _ ?_ ?_ | with_reducible refine Acts.iteStep ?_ (fun _ => ?_) | with_reducible refine Acts.foldl ?_ (fun _ _ _ => ?_) | with_reducible refine Acts.fstIte ?_ ?_ | with_reducible refine Acts.ofFst (by assumption) ?_)
    | split)

theorem execTableRead_acts {F : List Part} {S : State} (job : Nat) (faults : List Sys2Proof.FaultEv) {s : State} (h : Acts F S s)
    (hs : subParts [.regs, .sched, .front, .flow, .endpoint, .queue, .pipe, .slots, .tally, .crown, .observe, .log, .hbm, .noticeSeq] F = true) : ActsNext F S (execTableRead job faults s) := by
  refine ActsNext.step h ?_ hs
  unfold execTableRead
  repeat' (first
    | with_reducible assumption
    | decide
    | with_reducible exact Acts.refl _ _
    | with_reducible refine tableOp_acts _ _ _ ?_ ?_
    | with_reducible refine Acts.iteStep ?_ (fun _ => ?_)
    | with_reducible refine Acts.foldl ?_ (fun _ _ _ => ?_)
    | with_reducible refine ActsNext.next ?_
    | with_reducible refine ActsNext.ite ?_ ?_
    | dsimp -proj only
    | split)

theorem execTableWrite_acts {F : List Part} {S : State} (job : Nat) (faults : List Sys2Proof.FaultEv) {s : State} (h : Acts F S s)
    (hs : subParts [.regs, .sched, .front, .flow, .endpoint, .queue, .pipe, .slots, .tally, .crown, .observe, .log, .hbm, .noticeSeq] F = true) : ActsNext F S (execTableWrite job faults s) := by
  refine ActsNext.step h ?_ hs
  unfold execTableWrite
  repeat' (first
    | with_reducible assumption
    | decide
    | with_reducible exact Acts.refl _ _
    | with_reducible refine tableOp_acts _ _ _ ?_ ?_
    | with_reducible refine Acts.iteStep ?_ (fun _ => ?_)
    | with_reducible refine Acts.foldl ?_ (fun _ _ _ => ?_)
    | with_reducible refine ActsNext.next ?_
    | with_reducible refine ActsNext.ite ?_ ?_
    | dsimp -proj only
    | split)

theorem execTableInsert_acts {F : List Part} {S : State} (job : Nat) (faults : List Sys2Proof.FaultEv) {s : State} (h : Acts F S s)
    (hs : subParts [.regs, .sched, .front, .flow, .endpoint, .queue, .pipe, .slots, .tally, .crown, .observe, .log, .hbm, .noticeSeq] F = true) : ActsNext F S (execTableInsert job faults s) := by
  refine ActsNext.step h ?_ hs
  unfold execTableInsert
  repeat' (first
    | with_reducible assumption
    | decide
    | with_reducible exact Acts.refl _ _
    | with_reducible refine tableOp_acts _ _ _ ?_ ?_
    | with_reducible refine Acts.iteStep ?_ (fun _ => ?_)
    | with_reducible refine Acts.foldl ?_ (fun _ _ _ => ?_)
    | with_reducible refine ActsNext.next ?_
    | with_reducible refine ActsNext.ite ?_ ?_
    | dsimp -proj only
    | split)

theorem execTableDelete_acts {F : List Part} {S : State} (job : Nat) (faults : List Sys2Proof.FaultEv) {s : State} (h : Acts F S s)
    (hs : subParts [.regs, .sched, .front, .flow, .endpoint, .queue, .pipe, .slots, .tally, .crown, .observe, .log, .hbm, .noticeSeq] F = true) : ActsNext F S (execTableDelete job faults s) := by
  refine ActsNext.step h ?_ hs
  unfold execTableDelete
  repeat' (first
    | with_reducible assumption
    | decide
    | with_reducible exact Acts.refl _ _
    | with_reducible refine tableOp_acts _ _ _ ?_ ?_
    | with_reducible refine Acts.iteStep ?_ (fun _ => ?_)
    | with_reducible refine Acts.foldl ?_ (fun _ _ _ => ?_)
    | with_reducible refine ActsNext.next ?_
    | with_reducible refine ActsNext.ite ?_ ?_
    | dsimp -proj only
    | split)

theorem execTableLock_acts {F : List Part} {S : State} (job : Nat) (faults : List Sys2Proof.FaultEv) {s : State} (h : Acts F S s)
    (hs : subParts [.regs, .sched, .front, .flow, .endpoint, .queue, .pipe, .slots, .tally, .crown, .observe, .log, .hbm, .noticeSeq] F = true) : ActsNext F S (execTableLock job faults s) := by
  refine ActsNext.step h ?_ hs
  unfold execTableLock
  repeat' (first
    | with_reducible assumption
    | decide
    | with_reducible exact Acts.refl _ _
    | with_reducible refine tableOp_acts _ _ _ ?_ ?_
    | with_reducible refine Acts.iteStep ?_ (fun _ => ?_)
    | with_reducible refine Acts.foldl ?_ (fun _ _ _ => ?_)
    | with_reducible refine ActsNext.next ?_
    | with_reducible refine ActsNext.ite ?_ ?_
    | dsimp -proj only
    | split)

theorem execTableUnlock_acts {F : List Part} {S : State} (job : Nat) (faults : List Sys2Proof.FaultEv) {s : State} (h : Acts F S s)
    (hs : subParts [.regs, .sched, .front, .flow, .endpoint, .queue, .pipe, .slots, .tally, .crown, .observe, .log, .hbm, .noticeSeq] F = true) : ActsNext F S (execTableUnlock job faults s) := by
  refine ActsNext.step h ?_ hs
  unfold execTableUnlock
  repeat' (first
    | with_reducible assumption
    | decide
    | with_reducible exact Acts.refl _ _
    | with_reducible refine tableOp_acts _ _ _ ?_ ?_
    | with_reducible refine Acts.iteStep ?_ (fun _ => ?_)
    | with_reducible refine Acts.foldl ?_ (fun _ _ _ => ?_)
    | with_reducible refine ActsNext.next ?_
    | with_reducible refine ActsNext.ite ?_ ?_
    | dsimp -proj only
    | split)

theorem execTableReadState_acts {F : List Part} {S : State} (job : Nat) (faults : List Sys2Proof.FaultEv) {s : State} (h : Acts F S s)
    (hs : subParts [.regs, .sched, .front, .flow, .endpoint, .queue, .pipe, .slots, .tally, .crown, .observe, .log, .hbm, .noticeSeq] F = true) : ActsNext F S (execTableReadState job faults s) := by
  refine ActsNext.step h ?_ hs
  unfold execTableReadState
  repeat' (first
    | with_reducible assumption
    | decide
    | with_reducible exact Acts.refl _ _
    | with_reducible refine tableOp_acts _ _ _ ?_ ?_
    | with_reducible refine Acts.iteStep ?_ (fun _ => ?_)
    | with_reducible refine Acts.foldl ?_ (fun _ _ _ => ?_)
    | with_reducible refine ActsNext.next ?_
    | with_reducible refine ActsNext.ite ?_ ?_
    | dsimp -proj only
    | split)

theorem execTableWriteState_acts {F : List Part} {S : State} (job : Nat) (faults : List Sys2Proof.FaultEv) {s : State} (h : Acts F S s)
    (hs : subParts [.regs, .sched, .front, .flow, .endpoint, .queue, .pipe, .slots, .tally, .crown, .observe, .log, .hbm, .noticeSeq] F = true) : ActsNext F S (execTableWriteState job faults s) := by
  refine ActsNext.step h ?_ hs
  unfold execTableWriteState
  repeat' (first
    | with_reducible assumption
    | decide
    | with_reducible exact Acts.refl _ _
    | with_reducible refine tableOp_acts _ _ _ ?_ ?_
    | with_reducible refine Acts.iteStep ?_ (fun _ => ?_)
    | with_reducible refine Acts.foldl ?_ (fun _ _ _ => ?_)
    | with_reducible refine ActsNext.next ?_
    | with_reducible refine ActsNext.ite ?_ ?_
    | dsimp -proj only
    | split)

theorem execRuleWrite_acts {F : List Part} {S : State} (job : Nat) {s : State} (h : Acts F S s)
    (hs : subParts [.regs, .front, .tally, .crown] F = true) : ActsNext F S (execRuleWrite job s) := by
  refine ActsNext.step h ?_ hs
  unfold execRuleWrite
  repeat' (first
    | with_reducible assumption
    | decide
    | with_reducible exact Acts.refl _ _
    | with_reducible refine controlOp_acts _ _ _ ?_ ?_ ?_
    | with_reducible refine stageRule_acts _ _ ?_ ?_
    | with_reducible refine Acts.iteStep ?_ (fun _ => ?_)
    | with_reducible refine Acts.foldl ?_ (fun _ _ _ => ?_)
    | with_reducible refine ActsNext.next ?_
    | with_reducible refine ActsNext.ite ?_ ?_
    | with_reducible refine Acts.fstIte ?_ ?_
    | with_reducible refine Acts.ofFst (by assumption) ?_
    | with_reducible intro _ _ _ _
    | dsimp -proj only
    | (with_reducible refine Acts.fstMk ?_; first | with_reducible assumption | with_reducible exact Acts.refl _ _ | with_reducible refine controlOp_acts _ _ _ ?_ ?_ ?_ | with_reducible refine stageRule_acts _ _ ?_ ?_ | with_reducible refine Acts.iteStep ?_ (fun _ => ?_) | with_reducible refine Acts.foldl ?_ (fun _ _ _ => ?_) | with_reducible refine ActsNext.next ?_ | with_reducible refine ActsNext.ite ?_ ?_ | with_reducible refine Acts.fstIte ?_ ?_ | with_reducible refine Acts.ofFst (by assumption) ?_)
    | split)

theorem execRuleRead_acts {F : List Part} {S : State} (job : Nat) {s : State} (h : Acts F S s)
    (hs : subParts [.tally, .crown] F = true) : ActsNext F S (execRuleRead job s) := by
  refine ActsNext.step h ?_ hs
  unfold execRuleRead
  repeat' (first
    | with_reducible assumption
    | decide
    | with_reducible exact Acts.refl _ _
    | with_reducible refine controlOp_acts _ _ _ ?_ ?_ ?_
    | with_reducible refine Acts.iteStep ?_ (fun _ => ?_)
    | with_reducible refine Acts.foldl ?_ (fun _ _ _ => ?_)
    | with_reducible refine ActsNext.next ?_
    | with_reducible refine ActsNext.ite ?_ ?_
    | with_reducible intro _ _ _ _
    | dsimp -proj only
    | split)

theorem execMeterWrite_acts {F : List Part} {S : State} (job : Nat) {s : State} (h : Acts F S s)
    (hs : subParts [.front, .tally, .crown] F = true) : ActsNext F S (execMeterWrite job s) := by
  refine ActsNext.step h ?_ hs
  exact controlOp_acts _ _ _ (fun _ _ _ hb => Acts.fstMk (stageMeter_acts _ _ hb (by decide))) (Acts.refl _ _) (by decide)


theorem execMeterRead_acts {F : List Part} {S : State} (job : Nat) {s : State} (h : Acts F S s)
    (hs : subParts [.tally, .crown] F = true) : ActsNext F S (execMeterRead job s) := by
  refine ActsNext.step h ?_ hs
  unfold execMeterRead
  repeat' (first
    | with_reducible assumption
    | decide
    | with_reducible exact Acts.refl _ _
    | with_reducible refine controlOp_acts _ _ _ ?_ ?_ ?_
    | with_reducible refine Acts.iteStep ?_ (fun _ => ?_)
    | with_reducible refine Acts.foldl ?_ (fun _ _ _ => ?_)
    | with_reducible refine ActsNext.next ?_
    | with_reducible refine ActsNext.ite ?_ ?_
    | with_reducible intro _ _ _ _
    | dsimp -proj only
    | split)

theorem execCounterRead_acts {F : List Part} {S : State} (job : Nat) {s : State} (h : Acts F S s)
    (hs : subParts [.front, .tally, .crown] F = true) : ActsNext F S (execCounterRead job s) := by
  refine ActsNext.step h ?_ hs
  unfold execCounterRead
  repeat' (first
    | with_reducible assumption
    | decide
    | with_reducible exact Acts.refl _ _
    | with_reducible refine controlOp_acts _ _ _ ?_ ?_ ?_
    | with_reducible refine Acts.iteStep ?_ (fun _ => ?_)
    | with_reducible refine Acts.foldl ?_ (fun _ _ _ => ?_)
    | with_reducible refine ActsNext.next ?_
    | with_reducible refine ActsNext.ite ?_ ?_
    | with_reducible intro _ _ _ _
    | dsimp -proj only
    | (with_reducible refine Acts.set_front ?_ ?_; first | with_reducible assumption | with_reducible exact Acts.refl _ _ | with_reducible refine controlOp_acts _ _ _ ?_ ?_ ?_ | with_reducible refine Acts.iteStep ?_ (fun _ => ?_) | with_reducible refine Acts.foldl ?_ (fun _ _ _ => ?_) | with_reducible refine ActsNext.next ?_ | with_reducible refine ActsNext.ite ?_ ?_)
    | split)

theorem execVmapWrite_acts {F : List Part} {S : State} (job : Nat) {s : State} (h : Acts F S s)
    (hs : subParts [.front, .tally, .crown] F = true) : ActsNext F S (execVmapWrite job s) := by
  refine ActsNext.step h ?_ hs
  exact controlOp_acts _ _ _ (fun _ _ _ hb => Acts.fstMk (stageVmap_acts _ _ hb (by decide))) (Acts.refl _ _) (by decide)


theorem execVmapRead_acts {F : List Part} {S : State} (job : Nat) {s : State} (h : Acts F S s)
    (hs : subParts [.tally, .crown] F = true) : ActsNext F S (execVmapRead job s) := by
  refine ActsNext.step h ?_ hs
  unfold execVmapRead
  repeat' (first
    | with_reducible assumption
    | decide
    | with_reducible exact Acts.refl _ _
    | with_reducible refine controlOp_acts _ _ _ ?_ ?_ ?_
    | with_reducible refine Acts.iteStep ?_ (fun _ => ?_)
    | with_reducible refine Acts.foldl ?_ (fun _ _ _ => ?_)
    | with_reducible refine ActsNext.next ?_
    | with_reducible refine ActsNext.ite ?_ ?_
    | with_reducible intro _ _ _ _
    | dsimp -proj only
    | split)

theorem keyLoad_acts {F : List Part} {S : State} (j : Job) (bytes : Nat) {s : State} (h : Acts F S s)
    (hs : subParts [.power, .tally, .observe] F = true) : Acts F S (keyLoad s j bytes) := by
  refine Acts.step h ?_ hs
  unfold keyLoad
  repeat' (first
    | with_reducible assumption
    | decide
    | with_reducible exact Acts.refl _ _
    | with_reducible refine moveBulk_acts _ _ ?_ ?_
    | with_reducible refine keyMemory_acts _ _ _ ?_ ?_
    | with_reducible refine keyLinkJob_acts _ _ ?_ ?_
    | with_reducible refine Acts.iteStep ?_ (fun _ => ?_)
    | with_reducible refine Acts.foldl ?_ (fun _ _ _ => ?_)
    | dsimp -proj only
    | split)

theorem subParts_trans {G H F : List Part} (h : subParts G H = true) (k : subParts H F = true) : subParts G F = true := by
  refine List.all_eq_true.mpr fun p hp => ?_
  exact List.all_eq_true.mp k p (by simpa using List.all_eq_true.mp h p hp)

theorem loadOp_acts {F : List Part} {S : State} (id kind : Nat) (check : State → JobOp → Option Nat) (effect : State → JobOp → State × Nat)
    {s : State} (hf : ∀ o b, Acts F S b → Acts F S (effect b o).1) (h : Acts F S s) (hs : subParts [.power, .tally, .crown, .observe] F = true) :
    ActsNext F S (loadOp s id kind check effect) := by
  unfold loadOp
  refine ActsNext.ite (ActsNext.next h) ?_
  split
  · exact ActsNext.next h
  · next j o _ =>
    split
    · exact ActsNext.next (retireOp_acts _ _ _ h (subParts_trans (by decide) hs))
    · have hk : Acts F S (keyLoad s j (min (o.2.2.2.length - j.moved) (loadRoom s j))) :=
        keyLoad_acts _ _ h (subParts_trans (by decide) hs)
      dsimp only
      split
      · exact ActsNext.next (modJob_acts _ _ hk (subParts_trans (by decide) hs))
      · exact ActsNext.next (retireOp_acts _ _ _ (hf o _ hk) (subParts_trans (by decide) hs))


theorem execLabelWrite_acts {F : List Part} {S : State} (job : Nat) {s : State} (h : Acts F S s)
    (hs : subParts [.slots, .power, .tally, .crown, .observe] F = true) : ActsNext F S (execLabelWrite job s) := by
  refine ActsNext.step h ?_ hs
  unfold execLabelWrite
  repeat' (first
    | with_reducible assumption
    | decide
    | with_reducible exact Acts.refl _ _
    | with_reducible refine loadOp_acts _ _ _ _ ?_ ?_ ?_
    | with_reducible refine modSlot_acts _ _ ?_ ?_
    | with_reducible refine Acts.iteStep ?_ (fun _ => ?_)
    | with_reducible refine Acts.foldl ?_ (fun _ _ _ => ?_)
    | with_reducible refine ActsNext.next ?_
    | with_reducible refine ActsNext.ite ?_ ?_
    | with_reducible intro _ _ _
    | dsimp -proj only
    | split)

theorem execModelLoad_acts {F : List Part} {S : State} (job : Nat) {s : State} (h : Acts F S s)
    (hs : subParts [.slots, .power, .tally, .crown, .observe, .hbm] F = true) : ActsNext F S (execModelLoad job s) := by
  refine ActsNext.step h ?_ hs
  unfold execModelLoad
  repeat' (first
    | with_reducible assumption
    | decide
    | with_reducible exact Acts.refl _ _
    | with_reducible refine loadOp_acts _ _ _ _ ?_ ?_ ?_
    | with_reducible refine modSlot_acts _ _ ?_ ?_
    | with_reducible refine Acts.iteStep ?_ (fun _ => ?_)
    | with_reducible refine Acts.foldl ?_ (fun _ _ _ => ?_)
    | with_reducible refine ActsNext.next ?_
    | with_reducible refine ActsNext.ite ?_ ?_
    | with_reducible intro _ _ _
    | dsimp -proj only
    | (with_reducible refine Acts.set_hbm ?_ ?_ ?_; first | with_reducible assumption | with_reducible exact Acts.refl _ _ | with_reducible refine loadOp_acts _ _ _ _ ?_ ?_ ?_ | with_reducible refine modSlot_acts _ _ ?_ ?_ | with_reducible refine Acts.iteStep ?_ (fun _ => ?_) | with_reducible refine Acts.foldl ?_ (fun _ _ _ => ?_) | with_reducible refine ActsNext.next ?_ | with_reducible refine ActsNext.ite ?_ ?_)
    | split
    | (exact fun _ => rfl)
    | (intro k; rw [List.length_map]; exact k)
    | (exact fun h => Mem.wf_writeBytes _ _ h)
    | (exact fun h => Mem.wf_write _ _ h)
    | (intro _; exact Nat.zero_le _)
    | with_reducible with_reducible exact fun h => h
    | (intro h; rw [modAt_length]; exact h))

theorem submitSchedule_acts {F : List Part} {S : State}  {s : State} (h : Acts F S s)
    (hs : subParts [.regs, .sched, .queue, .observe, .noticeSeq] F = true) : Acts F S (submitSchedule s).1 := by
  refine Acts.step h ?_ hs
  unfold submitSchedule
  repeat' (first
    | with_reducible assumption
    | decide
    | with_reducible exact Acts.refl _ _
    | with_reducible refine raise_acts _ _ ?_ ?_
    | with_reducible refine Acts.iteStep ?_ (fun _ => ?_)
    | with_reducible refine Acts.foldl ?_ (fun _ _ _ => ?_)
    | with_reducible refine Acts.fstIte ?_ ?_
    | dsimp -proj only
    | (with_reducible refine Acts.set_sched ?_ ?_ ?_; first | with_reducible assumption | with_reducible exact Acts.refl _ _ | with_reducible refine raise_acts _ _ ?_ ?_ | with_reducible refine Acts.iteStep ?_ (fun _ => ?_) | with_reducible refine Acts.foldl ?_ (fun _ _ _ => ?_) | with_reducible refine Acts.fstIte ?_ ?_)
    | (with_reducible refine Acts.set_sched ?_ ?_ ?_; first | with_reducible assumption | with_reducible exact Acts.refl _ _ | with_reducible refine raise_acts _ _ ?_ ?_ | with_reducible refine Acts.iteStep ?_ (fun _ => ?_) | with_reducible refine Acts.foldl ?_ (fun _ _ _ => ?_) | with_reducible refine Acts.fstIte ?_ ?_ | (with_reducible refine Acts.set_sched ?_ ?_ ?_; first | with_reducible assumption | with_reducible exact Acts.refl _ _ | with_reducible refine raise_acts _ _ ?_ ?_ | with_reducible refine Acts.iteStep ?_ (fun _ => ?_) | with_reducible refine Acts.foldl ?_ (fun _ _ _ => ?_) | with_reducible refine Acts.fstIte ?_ ?_))
    | (with_reducible refine Acts.fstMk ?_; first | with_reducible assumption | with_reducible exact Acts.refl _ _ | with_reducible refine raise_acts _ _ ?_ ?_ | with_reducible refine Acts.iteStep ?_ (fun _ => ?_) | with_reducible refine Acts.foldl ?_ (fun _ _ _ => ?_) | with_reducible refine Acts.fstIte ?_ ?_ | (with_reducible refine Acts.set_sched ?_ ?_ ?_; first | with_reducible assumption | with_reducible exact Acts.refl _ _ | with_reducible refine raise_acts _ _ ?_ ?_ | with_reducible refine Acts.iteStep ?_ (fun _ => ?_) | with_reducible refine Acts.foldl ?_ (fun _ _ _ => ?_) | with_reducible refine Acts.fstIte ?_ ?_))
    | split
    | with_reducible refine SchedOk.keep_spare_spareLen _ _ _ ?_
    | with_reducible exact SchedOk.keep_loaded _ _
    | (exact fun _ => rfl)
    | (intro k; rw [List.length_map]; exact k)
    | (exact fun h => Mem.wf_writeBytes _ _ h)
    | (exact fun h => Mem.wf_write _ _ h)
    | (intro _; exact Nat.zero_le _)
    | with_reducible with_reducible exact fun h => h
    | (intro h; rw [modAt_length]; exact h))

theorem execScheduleLoad_acts {F : List Part} {S : State} (job : Nat) {s : State} (h : Acts F S s)
    (hs : subParts [.regs, .sched, .queue, .power, .tally, .crown, .observe, .noticeSeq] F = true) : ActsNext F S (execScheduleLoad job s) := by
  refine ActsNext.step h ?_ hs
  unfold execScheduleLoad
  repeat' (first
    | with_reducible assumption
    | decide
    | with_reducible exact Acts.refl _ _
    | with_reducible refine loadOp_acts _ _ _ _ ?_ ?_ ?_
    | with_reducible refine submitSchedule_acts  ?_ ?_
    | with_reducible refine Acts.iteStep ?_ (fun _ => ?_)
    | with_reducible refine Acts.foldl ?_ (fun _ _ _ => ?_)
    | with_reducible refine ActsNext.next ?_
    | with_reducible refine ActsNext.ite ?_ ?_
    | with_reducible refine Acts.fstIte ?_ ?_
    | with_reducible refine Acts.ofFst (by assumption) ?_
    | with_reducible intro _ _ _
    | dsimp -proj only
    | (with_reducible refine Acts.set_sched ?_ ?_ ?_; first | with_reducible assumption | with_reducible exact Acts.refl _ _ | with_reducible refine loadOp_acts _ _ _ _ ?_ ?_ ?_ | with_reducible refine submitSchedule_acts  ?_ ?_ | with_reducible refine Acts.iteStep ?_ (fun _ => ?_) | with_reducible refine Acts.foldl ?_ (fun _ _ _ => ?_) | with_reducible refine ActsNext.next ?_ | with_reducible refine ActsNext.ite ?_ ?_ | with_reducible refine Acts.fstIte ?_ ?_ | with_reducible refine Acts.ofFst (by assumption) ?_)
    | (with_reducible refine Acts.fstMk ?_; first | with_reducible assumption | with_reducible exact Acts.refl _ _ | with_reducible refine loadOp_acts _ _ _ _ ?_ ?_ ?_ | with_reducible refine submitSchedule_acts  ?_ ?_ | with_reducible refine Acts.iteStep ?_ (fun _ => ?_) | with_reducible refine Acts.foldl ?_ (fun _ _ _ => ?_) | with_reducible refine ActsNext.next ?_ | with_reducible refine ActsNext.ite ?_ ?_ | with_reducible refine Acts.fstIte ?_ ?_ | with_reducible refine Acts.ofFst (by assumption) ?_ | (with_reducible refine Acts.set_sched ?_ ?_ ?_; first | with_reducible assumption | with_reducible exact Acts.refl _ _ | with_reducible refine loadOp_acts _ _ _ _ ?_ ?_ ?_ | with_reducible refine submitSchedule_acts  ?_ ?_ | with_reducible refine Acts.iteStep ?_ (fun _ => ?_) | with_reducible refine Acts.foldl ?_ (fun _ _ _ => ?_) | with_reducible refine ActsNext.next ?_ | with_reducible refine ActsNext.ite ?_ ?_ | with_reducible refine Acts.fstIte ?_ ?_ | with_reducible refine Acts.ofFst (by assumption) ?_))
    | split
    | with_reducible refine SchedOk.keep_spare_spareLen _ _ _ ?_
    | (exact fun _ => rfl)
    | (intro k; rw [List.length_map]; exact k)
    | (exact fun h => Mem.wf_writeBytes _ _ h)
    | (exact fun h => Mem.wf_write _ _ h)
    | (intro _; exact Nat.zero_le _)
    | with_reducible with_reducible exact fun h => h
    | (intro h; rw [modAt_length]; exact h))

theorem runCapture_acts {F : List Part} {S : State} (j : Job) (o : JobOp) {s : State} (h : Acts F S s)
    (hs : subParts [.regs, .ports, .queue, .pipe, .tally, .crown, .observe, .noticeSeq] F = true) : Acts F S (runCapture s j o) := by
  refine Acts.step h ?_ hs
  unfold runCapture
  repeat' (first
    | with_reducible assumption
    | decide
    | with_reducible exact Acts.refl _ _
    | with_reducible refine flushCaptures_acts  ?_ ?_
    | with_reducible refine retireOp_acts _ _ _ ?_ ?_
    | with_reducible refine Acts.iteStep ?_ (fun _ => ?_)
    | with_reducible refine Acts.foldl ?_ (fun _ _ _ => ?_)
    | dsimp -proj only
    | (with_reducible refine Acts.set_crown ?_ ?_ ?_; first | with_reducible assumption | with_reducible exact Acts.refl _ _ | with_reducible refine flushCaptures_acts  ?_ ?_ | with_reducible refine retireOp_acts _ _ _ ?_ ?_ | with_reducible refine Acts.iteStep ?_ (fun _ => ?_) | with_reducible refine Acts.foldl ?_ (fun _ _ _ => ?_))
    | (with_reducible refine Acts.set_crown ?_ ?_ ?_; first | with_reducible assumption | with_reducible exact Acts.refl _ _ | with_reducible refine flushCaptures_acts  ?_ ?_ | with_reducible refine retireOp_acts _ _ _ ?_ ?_ | with_reducible refine Acts.iteStep ?_ (fun _ => ?_) | with_reducible refine Acts.foldl ?_ (fun _ _ _ => ?_) | (with_reducible refine Acts.set_crown ?_ ?_ ?_; first | with_reducible assumption | with_reducible exact Acts.refl _ _ | with_reducible refine flushCaptures_acts  ?_ ?_ | with_reducible refine retireOp_acts _ _ _ ?_ ?_ | with_reducible refine Acts.iteStep ?_ (fun _ => ?_) | with_reducible refine Acts.foldl ?_ (fun _ _ _ => ?_)))
    | split
    | with_reducible exact CrownOk.keep_captures _ _
    | (exact fun _ => rfl)
    | (intro k; rw [List.length_map]; exact k)
    | (exact fun h => Mem.wf_writeBytes _ _ h)
    | (exact fun h => Mem.wf_write _ _ h)
    | (intro _; exact Nat.zero_le _)
    | with_reducible with_reducible exact fun h => h
    | (intro h; rw [modAt_length]; exact h))

theorem execCapture_acts {F : List Part} {S : State} (job : Nat) {s : State} (h : Acts F S s)
    (hs : subParts [.regs, .ports, .queue, .pipe, .tally, .crown, .observe, .noticeSeq] F = true) : ActsNext F S (execCapture job s) := by
  refine ActsNext.step h ?_ hs
  unfold execCapture
  repeat' (first
    | with_reducible assumption
    | decide
    | with_reducible exact Acts.refl _ _
    | with_reducible refine runCapture_acts _ _ ?_ ?_
    | with_reducible refine Acts.iteStep ?_ (fun _ => ?_)
    | with_reducible refine Acts.foldl ?_ (fun _ _ _ => ?_)
    | with_reducible refine ActsNext.next ?_
    | with_reducible refine ActsNext.ite ?_ ?_
    | dsimp -proj only
    | split)

theorem takeRecords_acts {F : List Part} {S : State} (n q : Nat) {s : State} (h : Acts F S s)
    (hs : subParts [.regs, .sched, .ports, .queue, .pipe, .observe, .log, .noticeSeq] F = true) : Acts F S (takeRecords n s q).1 := by
  refine Acts.step h ?_ hs
  clear h
  induction n generalizing s with
  | zero => exact Acts.refl _ _
  | succ n ih =>
    unfold takeRecords
    have e := dequeue_acts (F := [.regs, .sched, .ports, .queue, .pipe, .observe, .log, .noticeSeq]) q (Acts.refl _ s) (by decide)
    split
    · next heq => rw [heq] at e; exact Acts.trans e ih
    · next heq => rw [heq] at e; exact Acts.trans e ih
    · next heq => rw [heq] at e; exact e


theorem forwardCapture_acts {F : List Part} {S : State} (q : Nat) {s : State} (h : Acts F S s)
    (hs : subParts [.regs, .sched, .ports, .queue, .pipe, .crown, .observe, .log, .noticeSeq] F = true) : Acts F S (forwardCapture s q) := by
  refine Acts.step h ?_ hs
  unfold forwardCapture
  repeat' (first
    | with_reducible assumption
    | decide
    | with_reducible exact Acts.refl _ _
    | with_reducible refine takeRecords_acts _ _ ?_ ?_
    | with_reducible refine flushCaptures_acts  ?_ ?_
    | with_reducible refine enqueue_acts _ _ _ ?_ ?_
    | with_reducible refine Acts.iteStep ?_ (fun _ => ?_)
    | with_reducible refine Acts.foldl ?_ (fun _ _ _ => ?_)
    | with_reducible refine Acts.fstIte ?_ ?_
    | with_reducible refine Acts.ofFst (by assumption) ?_
    | dsimp -proj only
    | (with_reducible refine Acts.fstMk ?_; first | with_reducible assumption | with_reducible exact Acts.refl _ _ | with_reducible refine takeRecords_acts _ _ ?_ ?_ | with_reducible refine flushCaptures_acts  ?_ ?_ | with_reducible refine enqueue_acts _ _ _ ?_ ?_ | with_reducible refine Acts.iteStep ?_ (fun _ => ?_) | with_reducible refine Acts.foldl ?_ (fun _ _ _ => ?_) | with_reducible refine Acts.fstIte ?_ ?_ | with_reducible refine Acts.ofFst (by assumption) ?_)
    | split)

theorem execCaptureForward_acts {F : List Part} {S : State} (queue : Nat) {s : State} (h : Acts F S s)
    (hs : subParts [.regs, .sched, .ports, .queue, .pipe, .crown, .observe, .log, .noticeSeq] F = true) : ActsNext F S (execCaptureForward queue s) := by
  refine ActsNext.step h ?_ hs
  unfold execCaptureForward
  repeat' (first
    | with_reducible assumption
    | decide
    | with_reducible exact Acts.refl _ _
    | with_reducible refine forwardCapture_acts _ ?_ ?_
    | with_reducible refine Acts.iteStep ?_ (fun _ => ?_)
    | with_reducible refine Acts.foldl ?_ (fun _ _ _ => ?_)
    | with_reducible refine ActsNext.next ?_
    | with_reducible refine ActsNext.ite ?_ ?_
    | dsimp -proj only
    | split)

theorem sendPush_acts {F : List Part} {S : State} (c : CaptureRun) (m : Sys2Proof.Bytes) {s : State} (h : Acts F S s)
    (hs : subParts [.regs, .queue, .power, .peer, .observe, .out, .noticeSeq] F = true) : ActsSome F S (sendPush s c m) := by
  refine fun t e => Acts.step h ((?_ : ActsSome _ _ _) t e) hs
  unfold sendPush
  repeat' (first
    | with_reducible assumption
    | decide
    | with_reducible exact Acts.refl _ _
    | with_reducible refine emit_acts _ ?_ ?_
    | with_reducible refine Acts.iteStep ?_ (fun _ => ?_)
    | with_reducible refine Acts.foldl ?_ (fun _ _ _ => ?_)
    | exact ActsSome.none
    | with_reducible refine ActsSome.some ?_
    | with_reducible refine ActsSome.ite ?_ ?_
    | with_reducible refine Acts.ofSome (by assumption) ?_
    | with_reducible refine sendTo_acts _ _ ?_ ?_
    | dsimp -proj only
    | split)

theorem pushCapture_acts {F : List Part} {S : State} (q : Nat) (ready : Bool) {s : State} (h : Acts F S s)
    (hs : subParts [.regs, .sched, .ports, .queue, .pipe, .power, .peer, .observe, .log, .out, .noticeSeq, .fresh] F = true) : Acts F S (pushCapture s q ready) := by
  refine Acts.step h ?_ hs
  unfold pushCapture
  repeat' (first
    | with_reducible assumption
    | decide
    | with_reducible exact Acts.refl _ _
    | with_reducible refine dequeue_acts _ ?_ ?_
    | with_reducible refine draw_acts  ?_ ?_
    | with_reducible refine dropCapture_acts _ ?_ ?_
    | with_reducible refine Acts.iteStep ?_ (fun _ => ?_)
    | with_reducible refine Acts.foldl ?_ (fun _ _ _ => ?_)
    | with_reducible refine Acts.fstIte ?_ ?_
    | with_reducible refine Acts.sndIte ?_ ?_
    | with_reducible refine Acts.ofFst (by assumption) ?_
    | with_reducible refine Acts.ofSnd (by assumption) ?_
    | with_reducible refine Acts.ofSome (by assumption) ?_
    | with_reducible refine sendPush_acts _ _ ?_ ?_
    | dsimp -proj only
    | (with_reducible refine Acts.fstMk ?_; first | with_reducible assumption | with_reducible exact Acts.refl _ _ | with_reducible refine dequeue_acts _ ?_ ?_ | with_reducible refine draw_acts  ?_ ?_ | with_reducible refine dropCapture_acts _ ?_ ?_ | with_reducible refine Acts.iteStep ?_ (fun _ => ?_) | with_reducible refine Acts.foldl ?_ (fun _ _ _ => ?_) | with_reducible refine Acts.fstIte ?_ ?_ | with_reducible refine Acts.sndIte ?_ ?_ | with_reducible refine Acts.ofFst (by assumption) ?_ | with_reducible refine Acts.ofSnd (by assumption) ?_ | with_reducible refine Acts.ofSome (by assumption) ?_ | with_reducible refine sendPush_acts _ _ ?_ ?_)
    | (with_reducible refine Acts.sndMk ?_; first | with_reducible assumption | with_reducible exact Acts.refl _ _ | with_reducible refine dequeue_acts _ ?_ ?_ | with_reducible refine draw_acts  ?_ ?_ | with_reducible refine dropCapture_acts _ ?_ ?_ | with_reducible refine Acts.iteStep ?_ (fun _ => ?_) | with_reducible refine Acts.foldl ?_ (fun _ _ _ => ?_) | with_reducible refine Acts.fstIte ?_ ?_ | with_reducible refine Acts.sndIte ?_ ?_ | with_reducible refine Acts.ofFst (by assumption) ?_ | with_reducible refine Acts.ofSnd (by assumption) ?_ | with_reducible refine Acts.ofSome (by assumption) ?_ | with_reducible refine sendPush_acts _ _ ?_ ?_)
    | split)

theorem execCapturePush_acts {F : List Part} {S : State} (queue : Nat) (sessionReady : Bool) {s : State} (h : Acts F S s)
    (hs : subParts [.regs, .sched, .ports, .queue, .pipe, .power, .peer, .observe, .log, .out, .noticeSeq, .fresh] F = true) : ActsNext F S (execCapturePush queue sessionReady s) := by
  refine ActsNext.step h ?_ hs
  unfold execCapturePush
  repeat' (first
    | with_reducible assumption
    | decide
    | with_reducible exact Acts.refl _ _
    | with_reducible refine pushCapture_acts _ _ ?_ ?_
    | with_reducible refine Acts.iteStep ?_ (fun _ => ?_)
    | with_reducible refine Acts.foldl ?_ (fun _ _ _ => ?_)
    | with_reducible refine ActsNext.next ?_
    | with_reducible refine ActsNext.ite ?_ ?_
    | dsimp -proj only
    | split)

theorem execItemTake_acts {F : List Part} {S : State} (queue : Nat) (faults : List Sys2Proof.FaultEv) {s : State} (h : Acts F S s)
    (hs : subParts [.regs, .dial, .sched, .ports, .front, .flow, .endpoint, .queue, .pipe, .power, .tally, .crown, .peer, .observe, .log, .pins, .hbm, .out, .noticeSeq, .fresh] F = true) : ActsNext F S (execItemTake queue faults s) := by
  refine ActsNext.step h ?_ hs
  unfold execItemTake
  repeat' (first
    | with_reducible assumption
    | decide
    | with_reducible exact Acts.refl _ _
    | with_reducible refine startJob_acts _ _ ?_ ?_
    | with_reducible refine forwardCapture_acts _ ?_ ?_
    | with_reducible refine pushCapture_acts _ _ ?_ ?_
    | with_reducible refine execVerdictTransmit_acts _ _ _ ?_ ?_
    | with_reducible refine execReturnWindowStart_acts _ _ ?_ ?_
    | with_reducible refine Acts.iteStep ?_ (fun _ => ?_)
    | with_reducible refine Acts.foldl ?_ (fun _ _ _ => ?_)
    | with_reducible refine ActsNext.next ?_
    | with_reducible refine ActsNext.ite ?_ ?_
    | dsimp -proj only
    | split)

end Sys2Proof.Machine
end

