-- ==== Sys2Proof/Laws/ActsNvm.lean ====
section
/-! SUPPORT. What each operation of Machine/Nvm.lean may touch, and that it keeps the invariant. -/

namespace Sys2Proof.Machine

theorem applyPreset_acts {F : List Part} {S : State} (p : Nat × Nat) {s : State} (h : Acts F S s)
    (hs : subParts [.regs, .sched, .ports, .front, .flow, .endpoint, .queue, .pipe, .slots, .quant, .power, .tally, .secure, .crown, .peer, .observe, .log, .out, .noticeSeq, .fresh] F = true) : Acts F S (applyPreset s p) := by
  refine Acts.step h ?_ hs
  unfold applyPreset
  repeat' (first
    | with_reducible assumption
    | decide
    | with_reducible exact Acts.refl _ _
    | with_reducible refine writeFields_acts _ _ ?_ ?_
    | with_reducible refine writeRegisterOn_acts _ _ ?_ ?_
    | with_reducible refine Acts.iteStep ?_ (fun _ => ?_)
    | with_reducible refine Acts.foldl ?_ (fun _ _ _ => ?_)
    | dsimp -proj only
    | split)

theorem applyPresets_acts {F : List Part} {S : State} (ps : List (Nat × Nat)) {s : State} (h : Acts F S s)
    (hs : subParts [.regs, .sched, .ports, .front, .flow, .endpoint, .queue, .pipe, .slots, .quant, .power, .tally, .secure, .crown, .peer, .observe, .log, .out, .noticeSeq, .fresh] F = true) : Acts F S (applyPresets s ps) := by
  refine Acts.step h ?_ hs
  unfold applyPresets
  repeat' (first
    | with_reducible assumption
    | decide
    | with_reducible exact Acts.refl _ _
    | with_reducible refine applyPreset_acts _ ?_ ?_
    | with_reducible refine Acts.iteStep ?_ (fun _ => ?_)
    | with_reducible refine Acts.foldl ?_ (fun _ _ _ => ?_)
    | dsimp -proj only
    | (with_reducible refine Acts.set_secure ?_ ?_; first | with_reducible assumption | with_reducible exact Acts.refl _ _ | with_reducible refine applyPreset_acts _ ?_ ?_ | with_reducible refine Acts.iteStep ?_ (fun _ => ?_) | with_reducible refine Acts.foldl ?_ (fun _ _ _ => ?_))
    | split)

theorem applyLockPresets_acts {F : List Part} {S : State}  {s : State} (h : Acts F S s)
    (hs : subParts [.regs, .sched, .ports, .front, .flow, .endpoint, .queue, .pipe, .slots, .quant, .power, .tally, .secure, .crown, .peer, .observe, .log, .out, .noticeSeq, .fresh] F = true) : Acts F S (applyLockPresets s) := by
  refine Acts.step h ?_ hs
  unfold applyLockPresets
  repeat' (first
    | with_reducible assumption
    | decide
    | with_reducible exact Acts.refl _ _
    | with_reducible refine applyPreset_acts _ ?_ ?_
    | with_reducible refine Acts.iteStep ?_ (fun _ => ?_)
    | with_reducible refine Acts.foldl ?_ (fun _ _ _ => ?_)
    | dsimp -proj only
    | (with_reducible refine Acts.set_secure ?_ ?_; first | with_reducible assumption | with_reducible exact Acts.refl _ _ | with_reducible refine applyPreset_acts _ ?_ ?_ | with_reducible refine Acts.iteStep ?_ (fun _ => ?_) | with_reducible refine Acts.foldl ?_ (fun _ _ _ => ?_))
    | split)

theorem loadFront_acts {F : List Part} {S : State} (b : Sys2Proof.Bytes) {s : State} (h : Acts F S s)
    (hs : subParts [.front] F = true) : Acts F S (loadFront s b) := by
  refine Acts.step h ?_ hs
  unfold loadFront
  repeat' (first
    | with_reducible assumption
    | decide
    | with_reducible exact Acts.refl _ _
    | with_reducible refine Acts.iteStep ?_ (fun _ => ?_)
    | with_reducible refine Acts.foldl ?_ (fun _ _ _ => ?_)
    | dsimp -proj only
    | (with_reducible refine Acts.set_front ?_ ?_; first | with_reducible assumption | with_reducible exact Acts.refl _ _ | with_reducible refine Acts.iteStep ?_ (fun _ => ?_) | with_reducible refine Acts.foldl ?_ (fun _ _ _ => ?_))
    | split)

theorem loadTableKeys_acts {F : List Part} {S : State} (b : Sys2Proof.Bytes) {s : State} (h : Acts F S s)
    (hs : subParts [.regs] F = true) : Acts F S (loadTableKeys s b) := by
  refine Acts.step h ?_ hs
  unfold loadTableKeys
  repeat' (first
    | with_reducible assumption
    | decide
    | with_reducible exact Acts.refl _ _
    | with_reducible refine wr_acts _ _ ?_ ?_
    | with_reducible refine Acts.iteStep ?_ (fun _ => ?_)
    | with_reducible refine Acts.foldl ?_ (fun _ _ _ => ?_)
    | dsimp -proj only
    | split)

theorem emptyTable_acts {F : List Part} {S : State} (t : Nat) {s : State} (h : Acts F S s)
    (hs : subParts [.regs, .flow, .endpoint] F = true) : Acts F S (emptyTable s t) := by
  refine Acts.step h ?_ hs
  unfold emptyTable
  repeat' (first
    | with_reducible assumption
    | decide
    | with_reducible exact Acts.refl _ _
    | with_reducible refine showTable_acts _ ?_ ?_
    | with_reducible refine modT_acts _ _ ?_ ?_
    | with_reducible refine Acts.iteStep ?_ (fun _ => ?_)
    | with_reducible refine Acts.foldl ?_ (fun _ _ _ => ?_)
    | dsimp -proj only
    | split)

theorem loadConfig_acts {F : List Part} {S : State} (b : Sys2Proof.Bytes) {s : State} (h : Acts F S s)
    (hs : subParts [.regs, .sched, .front, .queue, .secure] F = true) : Acts F S (loadConfig s b) := by
  refine Acts.step h ?_ hs
  unfold loadConfig
  repeat' (first
    | with_reducible assumption
    | decide
    | with_reducible exact Acts.refl _ _
    | with_reducible refine wrB_acts _ _ ?_ ?_
    | with_reducible refine wr_acts _ _ ?_ ?_
    | with_reducible refine loadFront_acts _ ?_ ?_
    | with_reducible refine loadTableKeys_acts _ ?_ ?_
    | with_reducible refine setupDataPath_acts _ ?_ ?_
    | with_reducible refine Acts.iteStep ?_ (fun _ => ?_)
    | with_reducible refine Acts.foldl ?_ (fun _ _ _ => ?_)
    | dsimp -proj only
    | (with_reducible refine Acts.set_sched_front_secure ?_ ?_ ?_ ?_ ?_; first | with_reducible assumption | with_reducible exact Acts.refl _ _ | with_reducible refine wrB_acts _ _ ?_ ?_ | with_reducible refine wr_acts _ _ ?_ ?_ | with_reducible refine loadFront_acts _ ?_ ?_ | with_reducible refine loadTableKeys_acts _ ?_ ?_ | with_reducible refine setupDataPath_acts _ ?_ ?_ | with_reducible refine Acts.iteStep ?_ (fun _ => ?_) | with_reducible refine Acts.foldl ?_ (fun _ _ _ => ?_))
    | split
    | with_reducible exact SchedOk.keep_order _ _
    | (exact fun _ => rfl)
    | (intro k; rw [List.length_map]; exact k)
    | (exact fun h => Mem.wf_writeBytes _ _ h)
    | (exact fun h => Mem.wf_write _ _ h)
    | (intro _; exact Nat.zero_le _)
    | with_reducible with_reducible exact fun h => h
    | (intro h; rw [modAt_length]; exact h))

theorem loadRule_acts {F : List Part} {S : State} (o : Option State) (e : Nat × Bytes) (h : ActsSome F S o)
    (hs : subParts [.front] F = true) : ActsSome F S (loadRule o e) := by
  cases o with
  | none => exact ActsSome.none
  | some s =>
    unfold loadRule
    dsimp only [Option.bind]
    exact ActsSome.ite ActsSome.none (ActsSome.some (Acts.step (h s rfl) (Acts.set_front (Acts.refl _ _) rfl) hs))


theorem loadMeter_acts {F : List Part} {S : State} (o : Option State) (e : Nat × Bytes) (h : ActsSome F S o)
    (hs : subParts [.front] F = true) : ActsSome F S (loadMeter o e) := by
  cases o with
  | none => exact ActsSome.none
  | some s =>
    unfold loadMeter
    dsimp only [Option.bind]
    exact ActsSome.ite ActsSome.none (ActsSome.some (Acts.step (h s rfl) (Acts.set_front (Acts.refl _ _) rfl) hs))


theorem loadEntry_acts {F : List Part} {S : State} (t : Nat) (o : Option State) (e : Nat × Bytes) (h : ActsSome F S o)
    (hs : subParts [.regs, .flow, .endpoint, .queue, .observe, .noticeSeq] F = true) : ActsSome F S (loadEntry t o e) := by
  cases o with
  | none => exact ActsSome.none
  | some s =>
    have k := h s rfl
    unfold loadEntry
    dsimp only [Option.bind]
    refine ActsSome.ite ActsSome.none ?_
    split
    · have e1 := insertEntry_acts (F := [.regs, .flow, .endpoint, .queue, .observe, .noticeSeq]) t (entryOfBytes t e.2) false (Acts.refl _ s) (by decide)
      split
      · exact ActsSome.none
      · exact ActsSome.none
      · next heq => rw [heq] at e1; exact ActsSome.some (k.step e1 hs)
    · exact ActsSome.ite ActsSome.none (ActsSome.some (k.step (createAt_acts (F := [.regs, .flow, .endpoint, .queue, .observe, .noticeSeq]) _ _ _ _ (Acts.refl _ s) (by decide)) hs))


theorem ActsSome.foldl {F : List Part} {S : State} {α : Type} {g : Option State → α → Option State} {l : List α} {o : Option State}
    (h : ActsSome F S o) (k : ∀ x b, ActsSome F S b → ActsSome F S (g b x)) : ActsSome F S (l.foldl g o) := by
  induction l generalizing o with
  | nil => exact h
  | cons x l ih => exact ih (k x o h)

theorem loadTables_acts {F : List Part} {S : State} (b : Bytes) {s : State} (h : Acts F S s)
    (hs : subParts [.regs, .front, .flow, .endpoint, .queue, .observe, .noticeSeq] F = true) : ActsSome F S (loadTables s b) := by
  intro t e
  refine Acts.step h ((?_ : ActsSome [.regs, .front, .flow, .endpoint, .queue, .observe, .noticeSeq] s (loadTables s b)) t e) hs
  unfold loadTables
  refine ActsSome.ite (ActsSome.some (Acts.refl _ _)) (ActsSome.ite ActsSome.none ?_)
  have k := ActsSome.foldl (l := tableRecords b 4 64) (ActsSome.foldl (l := tableRecords b 3 512) (ActsSome.foldl
      (l := tableRecords b 2 32) (ActsSome.foldl (l := tableRecords b 1 144) (F := [.regs, .front, .flow, .endpoint, .queue, .observe, .noticeSeq]) (ActsSome.some (Acts.refl _ s))
      fun x o k => loadRule_acts o x k (by decide)) fun x o k => loadMeter_acts o x k (by decide))
      fun x o k => loadEntry_acts 0 o x k (by decide)) fun x o k => loadEntry_acts 1 o x k (by decide)
  dsimp only
  generalize List.foldl (loadEntry 1) _ _ = o at k
  cases o with
  | none => exact ActsSome.none
  | some u => exact ActsSome.some (wr_acts _ _ (wr_acts _ _ (modT_acts _ _ (modT_acts _ _ (k u rfl) (by decide)) (by decide)) (by decide))
      (by decide))


end Sys2Proof.Machine
end

