-- ==== Sys2Proof/Laws/ActsBoot.lean ====
section
/-! SUPPORT. What each operation of Machine/Boot.lean may touch, and that it keeps the invariant. -/

namespace Sys2Proof.Machine

theorem stepDone_acts {F : List Part} {S : State} (k : Nat) {s : State} (h : Acts F S s)
    (hs : subParts [.regs] F = true) : Acts F S (stepDone s k).1 := by
  refine Acts.step h ?_ hs
  unfold stepDone
  repeat' (first
    | with_reducible assumption
    | decide
    | with_reducible exact Acts.refl _ _
    | with_reducible refine wr_acts _ _ ?_ ?_
    | with_reducible refine Acts.iteStep ?_ (fun _ => ?_)
    | with_reducible refine Acts.foldl ?_ (fun _ _ _ => ?_)
    | with_reducible refine Acts.fstIte ?_ ?_
    | dsimp -proj only
    | (with_reducible refine Acts.fstMk ?_; first | with_reducible assumption | with_reducible exact Acts.refl _ _ | with_reducible refine wr_acts _ _ ?_ ?_ | with_reducible refine Acts.iteStep ?_ (fun _ => ?_) | with_reducible refine Acts.foldl ?_ (fun _ _ _ => ?_) | with_reducible refine Acts.fstIte ?_ ?_)
    | split)

theorem thenBoot_acts {F : List Part} {S : State} {f : State → State × Nat} {r : State × Nat}
    (hf : ∀ b, Acts F S b → Acts F S (f b).1) (h : Acts F S r.1) : Acts F S (thenBoot r f).1 := by
  unfold thenBoot
  exact Acts.fstIte (hf _ h) h


theorem domainsOn_acts {F : List Part} {S : State} (ds : List Nat) {s : State} (h : Acts F S s)
    (hs : subParts [.regs, .ports, .queue, .power, .peer, .observe, .noticeSeq] F = true) : Acts F S (domainsOn s ds) := by
  refine Acts.step h ?_ hs
  unfold domainsOn
  repeat' (first
    | with_reducible assumption
    | decide
    | with_reducible exact Acts.refl _ _
    | with_reducible refine switchPd_acts _ _ ?_ ?_
    | with_reducible refine Acts.iteStep ?_ (fun _ => ?_)
    | with_reducible refine Acts.foldl ?_ (fun _ _ _ => ?_)
    | dsimp -proj only
    | split)

theorem nvmFault_acts {F : List Part} {S : State} (lasting : Bool) {s : State} (h : Acts F S s)
    (hs : subParts [.regs, .sched, .queue, .pipe, .observe, .log, .noticeSeq, .fresh] F = true) : Acts F S (nvmFault s lasting) := by
  refine Acts.step h ?_ hs
  unfold nvmFault
  repeat' (first
    | with_reducible assumption
    | decide
    | with_reducible exact Acts.refl _ _
    | with_reducible refine draw_acts  ?_ ?_
    | with_reducible refine faultFound_acts _ _ _ _ ?_ ?_
    | with_reducible refine Acts.iteStep ?_ (fun _ => ?_)
    | with_reducible refine Acts.foldl ?_ (fun _ _ _ => ?_)
    | with_reducible refine Acts.sndIte ?_ ?_
    | with_reducible refine Acts.ofSnd (by assumption) ?_
    | dsimp -proj only
    | (with_reducible refine Acts.sndMk ?_; first | with_reducible assumption | with_reducible exact Acts.refl _ _ | with_reducible refine draw_acts  ?_ ?_ | with_reducible refine faultFound_acts _ _ _ _ ?_ ?_ | with_reducible refine Acts.iteStep ?_ (fun _ => ?_) | with_reducible refine Acts.foldl ?_ (fun _ _ _ => ?_) | with_reducible refine Acts.sndIte ?_ ?_ | with_reducible refine Acts.ofSnd (by assumption) ?_)
    | split)

theorem nvmFaults_acts {F : List Part} {S : State} (n : Nat) {s : State} (h : Acts F S s)
    (hs : subParts [.regs, .sched, .queue, .pipe, .observe, .log, .noticeSeq, .fresh] F = true) : Acts F S (nvmFaults s n) := by
  refine Acts.step h ?_ hs
  unfold nvmFaults
  repeat' (first
    | with_reducible assumption
    | decide
    | with_reducible exact Acts.refl _ _
    | with_reducible refine nvmFault_acts _ ?_ ?_
    | with_reducible refine Acts.iteStep ?_ (fun _ => ?_)
    | with_reducible refine Acts.foldl ?_ (fun _ _ _ => ?_)
    | dsimp -proj only
    | split)

theorem digestFault_acts {F : List Part} {S : State} (f : Option AcceptFail) {s : State} (h : Acts F S s)
    (hs : subParts [.regs, .sched, .queue, .pipe, .observe, .log, .noticeSeq, .fresh] F = true) : Acts F S (digestFault s f) := by
  refine Acts.step h ?_ hs
  unfold digestFault
  repeat' (first
    | with_reducible assumption
    | decide
    | with_reducible exact Acts.refl _ _
    | with_reducible refine nvmFault_acts _ ?_ ?_
    | with_reducible refine Acts.iteStep ?_ (fun _ => ?_)
    | with_reducible refine Acts.foldl ?_ (fun _ _ _ => ?_)
    | dsimp -proj only
    | split)

theorem bootStep1_acts {F : List Part} {S : State} (b : Sys2Proof.BootInput) {s : State} (h : Acts F S s)
    (hs : subParts [.regs, .dial, .sched, .ports, .queue, .pipe, .power, .tally, .secure, .peer, .observe, .log, .pins, .noticeSeq] F = true) : Acts F S (bootStep1 s b) := by
  refine Acts.step h ?_ hs
  unfold bootStep1
  repeat' (first
    | with_reducible assumption
    | decide
    | with_reducible exact Acts.refl _ _
    | with_reducible refine refresh_acts  ?_ ?_
    | with_reducible refine wr_acts _ _ ?_ ?_
    | with_reducible refine tripFired_acts _ _ ?_ ?_
    | with_reducible refine domainsOn_acts _ ?_ ?_
    | with_reducible refine raiseIf_acts _ _ _ ?_ ?_
    | with_reducible refine Acts.iteStep ?_ (fun _ => ?_)
    | with_reducible refine Acts.foldl ?_ (fun _ _ _ => ?_)
    | dsimp -proj only
    | (with_reducible refine Acts.set_dial_power_secure_pins ?_ ?_ ?_ ?_ ?_; first | with_reducible assumption | with_reducible exact Acts.refl _ _ | with_reducible refine refresh_acts  ?_ ?_ | with_reducible refine wr_acts _ _ ?_ ?_ | with_reducible refine tripFired_acts _ _ ?_ ?_ | with_reducible refine domainsOn_acts _ ?_ ?_ | with_reducible refine raiseIf_acts _ _ _ ?_ ?_ | with_reducible refine Acts.iteStep ?_ (fun _ => ?_) | with_reducible refine Acts.foldl ?_ (fun _ _ _ => ?_))
    | split)

theorem resetNvm_acts {F : List Part} {S : State}  {s : State} (h : Acts F S s)
    (hs : subParts [.out] F = true) : Acts F S (resetNvm s) := by
  refine Acts.step h ?_ hs
  unfold resetNvm
  repeat' (first
    | with_reducible assumption
    | decide
    | with_reducible exact Acts.refl _ _
    | with_reducible refine emit_acts _ ?_ ?_
    | with_reducible refine Acts.iteStep ?_ (fun _ => ?_)
    | with_reducible refine Acts.foldl ?_ (fun _ _ _ => ?_)
    | dsimp -proj only
    | split)

theorem bootStep2_acts {F : List Part} {S : State} (b : Sys2Proof.BootInput) (h0 : NvmHeader) {s : State} (h : Acts F S s)
    (hs : subParts [.regs, .secure] F = true) : Acts F S (bootStep2 s b h0).1 := by
  refine Acts.step h ?_ hs
  unfold bootStep2
  repeat' (first
    | with_reducible assumption
    | decide
    | with_reducible exact Acts.refl _ _
    | with_reducible refine wr_acts _ _ ?_ ?_
    | with_reducible refine stepDone_acts _ ?_ ?_
    | with_reducible refine wrB_acts _ _ ?_ ?_
    | with_reducible refine Acts.iteStep ?_ (fun _ => ?_)
    | with_reducible refine Acts.foldl ?_ (fun _ _ _ => ?_)
    | with_reducible refine Acts.fstIte ?_ ?_
    | with_reducible refine Acts.ofFst (by assumption) ?_
    | dsimp -proj only
    | (with_reducible refine Acts.set_secure ?_ ?_; first | with_reducible assumption | with_reducible exact Acts.refl _ _ | with_reducible refine wr_acts _ _ ?_ ?_ | with_reducible refine stepDone_acts _ ?_ ?_ | with_reducible refine wrB_acts _ _ ?_ ?_ | with_reducible refine Acts.iteStep ?_ (fun _ => ?_) | with_reducible refine Acts.foldl ?_ (fun _ _ _ => ?_) | with_reducible refine Acts.fstIte ?_ ?_ | with_reducible refine Acts.ofFst (by assumption) ?_)
    | (with_reducible refine Acts.fstMk ?_; first | with_reducible assumption | with_reducible exact Acts.refl _ _ | with_reducible refine wr_acts _ _ ?_ ?_ | with_reducible refine stepDone_acts _ ?_ ?_ | with_reducible refine wrB_acts _ _ ?_ ?_ | with_reducible refine Acts.iteStep ?_ (fun _ => ?_) | with_reducible refine Acts.foldl ?_ (fun _ _ _ => ?_) | with_reducible refine Acts.fstIte ?_ ?_ | with_reducible refine Acts.ofFst (by assumption) ?_ | (with_reducible refine Acts.set_secure ?_ ?_; first | with_reducible assumption | with_reducible exact Acts.refl _ _ | with_reducible refine wr_acts _ _ ?_ ?_ | with_reducible refine stepDone_acts _ ?_ ?_ | with_reducible refine wrB_acts _ _ ?_ ?_ | with_reducible refine Acts.iteStep ?_ (fun _ => ?_) | with_reducible refine Acts.foldl ?_ (fun _ _ _ => ?_) | with_reducible refine Acts.fstIte ?_ ?_ | with_reducible refine Acts.ofFst (by assumption) ?_))
    | split)

theorem bootStep3_acts {F : List Part} {S : State} (b : Sys2Proof.BootInput) (h0 : NvmHeader) {s : State} (h : Acts F S s)
    (hs : subParts [.regs, .secure] F = true) : Acts F S (bootStep3 s b h0).1 := by
  refine Acts.step h ?_ hs
  unfold bootStep3
  repeat' (first
    | with_reducible assumption
    | decide
    | with_reducible exact Acts.refl _ _
    | with_reducible refine stepDone_acts _ ?_ ?_
    | with_reducible refine wr_acts _ _ ?_ ?_
    | with_reducible refine Acts.iteStep ?_ (fun _ => ?_)
    | with_reducible refine Acts.foldl ?_ (fun _ _ _ => ?_)
    | with_reducible refine Acts.fstIte ?_ ?_
    | with_reducible refine Acts.ofFst (by assumption) ?_
    | dsimp -proj only
    | (with_reducible refine Acts.set_secure ?_ ?_; first | with_reducible assumption | with_reducible exact Acts.refl _ _ | with_reducible refine stepDone_acts _ ?_ ?_ | with_reducible refine wr_acts _ _ ?_ ?_ | with_reducible refine Acts.iteStep ?_ (fun _ => ?_) | with_reducible refine Acts.foldl ?_ (fun _ _ _ => ?_) | with_reducible refine Acts.fstIte ?_ ?_ | with_reducible refine Acts.ofFst (by assumption) ?_)
    | (with_reducible refine Acts.fstMk ?_; first | with_reducible assumption | with_reducible exact Acts.refl _ _ | with_reducible refine stepDone_acts _ ?_ ?_ | with_reducible refine wr_acts _ _ ?_ ?_ | with_reducible refine Acts.iteStep ?_ (fun _ => ?_) | with_reducible refine Acts.foldl ?_ (fun _ _ _ => ?_) | with_reducible refine Acts.fstIte ?_ ?_ | with_reducible refine Acts.ofFst (by assumption) ?_ | (with_reducible refine Acts.set_secure ?_ ?_; first | with_reducible assumption | with_reducible exact Acts.refl _ _ | with_reducible refine stepDone_acts _ ?_ ?_ | with_reducible refine wr_acts _ _ ?_ ?_ | with_reducible refine Acts.iteStep ?_ (fun _ => ?_) | with_reducible refine Acts.foldl ?_ (fun _ _ _ => ?_) | with_reducible refine Acts.fstIte ?_ ?_ | with_reducible refine Acts.ofFst (by assumption) ?_))
    | split)

theorem loadTestRecord_acts {F : List Part} {S : State} (t : Sys2Proof.Bytes) {s : State} (h : Acts F S s)
    (hs : subParts [.regs, .power] F = true) : Acts F S (loadTestRecord s t) := by
  refine Acts.step h ?_ hs
  unfold loadTestRecord
  repeat' (first
    | with_reducible assumption
    | decide
    | with_reducible exact Acts.refl _ _
    | with_reducible refine wr_acts _ _ ?_ ?_
    | with_reducible refine Acts.iteStep ?_ (fun _ => ?_)
    | with_reducible refine Acts.foldl ?_ (fun _ _ _ => ?_)
    | dsimp -proj only
    | (with_reducible refine Acts.set_power ?_ ?_; first | with_reducible assumption | with_reducible exact Acts.refl _ _ | with_reducible refine wr_acts _ _ ?_ ?_ | with_reducible refine Acts.iteStep ?_ (fun _ => ?_) | with_reducible refine Acts.foldl ?_ (fun _ _ _ => ?_))
    | split)

theorem bootStep4_acts {F : List Part} {S : State} (b : Sys2Proof.BootInput) (h0 : NvmHeader) {s : State} (h : Acts F S s)
    (hs : subParts [.regs, .sched, .queue, .pipe, .power, .secure, .observe, .log, .noticeSeq, .fresh] F = true) : Acts F S (bootStep4 s b h0).1 := by
  refine Acts.step h ?_ hs
  unfold bootStep4
  repeat' (first
    | with_reducible assumption
    | decide
    | with_reducible exact Acts.refl _ _
    | with_reducible refine wr_acts _ _ ?_ ?_
    | with_reducible refine digestFault_acts _ ?_ ?_
    | with_reducible refine stepDone_acts _ ?_ ?_
    | with_reducible refine loadTestRecord_acts _ ?_ ?_
    | with_reducible refine Acts.iteStep ?_ (fun _ => ?_)
    | with_reducible refine Acts.foldl ?_ (fun _ _ _ => ?_)
    | with_reducible refine Acts.fstIte ?_ ?_
    | with_reducible refine Acts.ofFst (by assumption) ?_
    | dsimp -proj only
    | (with_reducible refine Acts.set_secure ?_ ?_; first | with_reducible assumption | with_reducible exact Acts.refl _ _ | with_reducible refine wr_acts _ _ ?_ ?_ | with_reducible refine digestFault_acts _ ?_ ?_ | with_reducible refine stepDone_acts _ ?_ ?_ | with_reducible refine loadTestRecord_acts _ ?_ ?_ | with_reducible refine Acts.iteStep ?_ (fun _ => ?_) | with_reducible refine Acts.foldl ?_ (fun _ _ _ => ?_) | with_reducible refine Acts.fstIte ?_ ?_ | with_reducible refine Acts.ofFst (by assumption) ?_)
    | (with_reducible refine Acts.set_secure ?_ ?_; first | with_reducible assumption | with_reducible exact Acts.refl _ _ | with_reducible refine wr_acts _ _ ?_ ?_ | with_reducible refine digestFault_acts _ ?_ ?_ | with_reducible refine stepDone_acts _ ?_ ?_ | with_reducible refine loadTestRecord_acts _ ?_ ?_ | with_reducible refine Acts.iteStep ?_ (fun _ => ?_) | with_reducible refine Acts.foldl ?_ (fun _ _ _ => ?_) | with_reducible refine Acts.fstIte ?_ ?_ | with_reducible refine Acts.ofFst (by assumption) ?_ | (with_reducible refine Acts.set_secure ?_ ?_; first | with_reducible assumption | with_reducible exact Acts.refl _ _ | with_reducible refine wr_acts _ _ ?_ ?_ | with_reducible refine digestFault_acts _ ?_ ?_ | with_reducible refine stepDone_acts _ ?_ ?_ | with_reducible refine loadTestRecord_acts _ ?_ ?_ | with_reducible refine Acts.iteStep ?_ (fun _ => ?_) | with_reducible refine Acts.foldl ?_ (fun _ _ _ => ?_) | with_reducible refine Acts.fstIte ?_ ?_ | with_reducible refine Acts.ofFst (by assumption) ?_))
    | (with_reducible refine Acts.fstMk ?_; first | with_reducible assumption | with_reducible exact Acts.refl _ _ | with_reducible refine wr_acts _ _ ?_ ?_ | with_reducible refine digestFault_acts _ ?_ ?_ | with_reducible refine stepDone_acts _ ?_ ?_ | with_reducible refine loadTestRecord_acts _ ?_ ?_ | with_reducible refine Acts.iteStep ?_ (fun _ => ?_) | with_reducible refine Acts.foldl ?_ (fun _ _ _ => ?_) | with_reducible refine Acts.fstIte ?_ ?_ | with_reducible refine Acts.ofFst (by assumption) ?_ | (with_reducible refine Acts.set_secure ?_ ?_; first | with_reducible assumption | with_reducible exact Acts.refl _ _ | with_reducible refine wr_acts _ _ ?_ ?_ | with_reducible refine digestFault_acts _ ?_ ?_ | with_reducible refine stepDone_acts _ ?_ ?_ | with_reducible refine loadTestRecord_acts _ ?_ ?_ | with_reducible refine Acts.iteStep ?_ (fun _ => ?_) | with_reducible refine Acts.foldl ?_ (fun _ _ _ => ?_) | with_reducible refine Acts.fstIte ?_ ?_ | with_reducible refine Acts.ofFst (by assumption) ?_))
    | split)

theorem bootStep5_acts {F : List Part} {S : State} (b : Sys2Proof.BootInput) (h0 : NvmHeader) {s : State} (h : Acts F S s)
    (hs : subParts [.regs, .sched, .ports, .queue, .pipe, .power, .secure, .peer, .observe, .log, .noticeSeq, .fresh] F = true) : Acts F S (bootStep5 s b h0).1 := by
  refine Acts.step h ?_ hs
  unfold bootStep5
  repeat' (first
    | with_reducible assumption
    | decide
    | with_reducible exact Acts.refl _ _
    | with_reducible refine digestFault_acts _ ?_ ?_
    | with_reducible refine wr_acts _ _ ?_ ?_
    | with_reducible refine stepDone_acts _ ?_ ?_
    | with_reducible refine domainsOn_acts _ ?_ ?_
    | with_reducible refine Acts.iteStep ?_ (fun _ => ?_)
    | with_reducible refine Acts.foldl ?_ (fun _ _ _ => ?_)
    | with_reducible refine Acts.fstIte ?_ ?_
    | with_reducible refine Acts.ofFst (by assumption) ?_
    | dsimp -proj only
    | (with_reducible refine Acts.set_secure ?_ ?_; first | with_reducible assumption | with_reducible exact Acts.refl _ _ | with_reducible refine digestFault_acts _ ?_ ?_ | with_reducible refine wr_acts _ _ ?_ ?_ | with_reducible refine stepDone_acts _ ?_ ?_ | with_reducible refine domainsOn_acts _ ?_ ?_ | with_reducible refine Acts.iteStep ?_ (fun _ => ?_) | with_reducible refine Acts.foldl ?_ (fun _ _ _ => ?_) | with_reducible refine Acts.fstIte ?_ ?_ | with_reducible refine Acts.ofFst (by assumption) ?_)
    | (with_reducible refine Acts.fstMk ?_; first | with_reducible assumption | with_reducible exact Acts.refl _ _ | with_reducible refine digestFault_acts _ ?_ ?_ | with_reducible refine wr_acts _ _ ?_ ?_ | with_reducible refine stepDone_acts _ ?_ ?_ | with_reducible refine domainsOn_acts _ ?_ ?_ | with_reducible refine Acts.iteStep ?_ (fun _ => ?_) | with_reducible refine Acts.foldl ?_ (fun _ _ _ => ?_) | with_reducible refine Acts.fstIte ?_ ?_ | with_reducible refine Acts.ofFst (by assumption) ?_ | (with_reducible refine Acts.set_secure ?_ ?_; first | with_reducible assumption | with_reducible exact Acts.refl _ _ | with_reducible refine digestFault_acts _ ?_ ?_ | with_reducible refine wr_acts _ _ ?_ ?_ | with_reducible refine stepDone_acts _ ?_ ?_ | with_reducible refine domainsOn_acts _ ?_ ?_ | with_reducible refine Acts.iteStep ?_ (fun _ => ?_) | with_reducible refine Acts.foldl ?_ (fun _ _ _ => ?_) | with_reducible refine Acts.fstIte ?_ ?_ | with_reducible refine Acts.ofFst (by assumption) ?_))
    | split)

theorem readRecord_ok (l : LogSt) (b : Bytes) : LogOk (readRecord l b) := List.length_take_le _ _

theorem readLogbook_acts {F : List Part} {S : State} (b : Sys2Proof.BootInput) (h0 : NvmHeader) {s : State} (h : Acts F S s)
    (hs : subParts [.regs, .queue, .observe, .log, .noticeSeq] F = true) : Acts F S (readLogbook s b h0) := by
  refine Acts.step h ?_ hs
  unfold readLogbook
  repeat' (first
    | with_reducible assumption
    | decide
    | with_reducible exact Acts.refl _ _
    | with_reducible refine wr_acts _ _ ?_ ?_
    | with_reducible refine raiseIf_acts _ _ _ ?_ ?_
    | with_reducible refine wrB_acts _ _ ?_ ?_
    | with_reducible refine showLog_acts  ?_ ?_
    | with_reducible refine Acts.iteStep ?_ (fun _ => ?_)
    | with_reducible refine Acts.foldl ?_ (fun _ _ _ => ?_)
    | dsimp -proj only
    | (with_reducible refine Acts.set_log ?_ ?_ ?_; first | with_reducible assumption | with_reducible exact Acts.refl _ _ | with_reducible refine wr_acts _ _ ?_ ?_ | with_reducible refine raiseIf_acts _ _ _ ?_ ?_ | with_reducible refine wrB_acts _ _ ?_ ?_ | with_reducible refine showLog_acts  ?_ ?_ | with_reducible refine Acts.iteStep ?_ (fun _ => ?_) | with_reducible refine Acts.foldl ?_ (fun _ _ _ => ?_))
    | split
    | (exact fun _ => readRecord_ok s.log _)
    | (exact fun _ => Nat.le_trans (List.length_filter_le _ _) (by simp))
    | (exact fun h => h)
    | with_reducible exact LogOk.keep_coldResets_due_sector_sectors_base _ _ _ _ _ _
    | (exact fun _ => rfl)
    | (intro k; rw [List.length_map]; exact k)
    | (exact fun h => Mem.wf_writeBytes _ _ h)
    | (exact fun h => Mem.wf_write _ _ h)
    | (intro _; exact Nat.zero_le _)
    | with_reducible with_reducible exact fun h => h
    | (intro h; rw [modAt_length]; exact h))

theorem bootStep6_acts {F : List Part} {S : State} (b : Sys2Proof.BootInput) (h0 : NvmHeader) {s : State} (h : Acts F S s)
    (hs : subParts [.regs, .dial, .sched, .ports, .front, .flow, .endpoint, .queue, .pipe, .slots, .quant, .power, .tally, .secure, .crown, .peer, .observe, .log, .pins, .out, .noticeSeq, .fresh] F = true) : Acts F S (bootStep6 s b h0).1 := by
  refine Acts.step h ?_ hs
  unfold bootStep6
  repeat' (first
    | with_reducible assumption
    | decide
    | with_reducible exact Acts.refl _ _
    | with_reducible refine nvmFaults_acts _ ?_ ?_
    | with_reducible refine readLogbook_acts _ _ ?_ ?_
    | with_reducible refine digestFault_acts _ ?_ ?_
    | with_reducible refine wr_acts _ _ ?_ ?_
    | with_reducible refine loadConfig_acts _ ?_ ?_
    | with_reducible refine applyPresets_acts _ ?_ ?_
    | with_reducible refine stepDone_acts _ ?_ ?_
    | with_reducible refine setDial_acts _ ?_ ?_
    | with_reducible refine Acts.iteStep ?_ (fun _ => ?_)
    | with_reducible refine Acts.foldl ?_ (fun _ _ _ => ?_)
    | with_reducible refine Acts.fstIte ?_ ?_
    | with_reducible refine Acts.ofFst (by assumption) ?_
    | dsimp -proj only
    | (with_reducible refine Acts.set_secure ?_ ?_; first | with_reducible assumption | with_reducible exact Acts.refl _ _ | with_reducible refine nvmFaults_acts _ ?_ ?_ | with_reducible refine readLogbook_acts _ _ ?_ ?_ | with_reducible refine digestFault_acts _ ?_ ?_ | with_reducible refine wr_acts _ _ ?_ ?_ | with_reducible refine loadConfig_acts _ ?_ ?_ | with_reducible refine applyPresets_acts _ ?_ ?_ | with_reducible refine stepDone_acts _ ?_ ?_ | with_reducible refine setDial_acts _ ?_ ?_ | with_reducible refine Acts.iteStep ?_ (fun _ => ?_) | with_reducible refine Acts.foldl ?_ (fun _ _ _ => ?_) | with_reducible refine Acts.fstIte ?_ ?_ | with_reducible refine Acts.ofFst (by assumption) ?_)
    | (with_reducible refine Acts.set_log ?_ ?_ ?_; first | with_reducible assumption | with_reducible exact Acts.refl _ _ | with_reducible refine nvmFaults_acts _ ?_ ?_ | with_reducible refine readLogbook_acts _ _ ?_ ?_ | with_reducible refine digestFault_acts _ ?_ ?_ | with_reducible refine wr_acts _ _ ?_ ?_ | with_reducible refine loadConfig_acts _ ?_ ?_ | with_reducible refine applyPresets_acts _ ?_ ?_ | with_reducible refine stepDone_acts _ ?_ ?_ | with_reducible refine setDial_acts _ ?_ ?_ | with_reducible refine Acts.iteStep ?_ (fun _ => ?_) | with_reducible refine Acts.foldl ?_ (fun _ _ _ => ?_) | with_reducible refine Acts.fstIte ?_ ?_ | with_reducible refine Acts.ofFst (by assumption) ?_)
    | (with_reducible refine Acts.set_dial ?_ ?_; first | with_reducible assumption | with_reducible exact Acts.refl _ _ | with_reducible refine nvmFaults_acts _ ?_ ?_ | with_reducible refine readLogbook_acts _ _ ?_ ?_ | with_reducible refine digestFault_acts _ ?_ ?_ | with_reducible refine wr_acts _ _ ?_ ?_ | with_reducible refine loadConfig_acts _ ?_ ?_ | with_reducible refine applyPresets_acts _ ?_ ?_ | with_reducible refine stepDone_acts _ ?_ ?_ | with_reducible refine setDial_acts _ ?_ ?_ | with_reducible refine Acts.iteStep ?_ (fun _ => ?_) | with_reducible refine Acts.foldl ?_ (fun _ _ _ => ?_) | with_reducible refine Acts.fstIte ?_ ?_ | with_reducible refine Acts.ofFst (by assumption) ?_)
    | (with_reducible refine Acts.set_secure ?_ ?_; first | with_reducible assumption | with_reducible exact Acts.refl _ _ | with_reducible refine nvmFaults_acts _ ?_ ?_ | with_reducible refine readLogbook_acts _ _ ?_ ?_ | with_reducible refine digestFault_acts _ ?_ ?_ | with_reducible refine wr_acts _ _ ?_ ?_ | with_reducible refine loadConfig_acts _ ?_ ?_ | with_reducible refine applyPresets_acts _ ?_ ?_ | with_reducible refine stepDone_acts _ ?_ ?_ | with_reducible refine setDial_acts _ ?_ ?_ | with_reducible refine Acts.iteStep ?_ (fun _ => ?_) | with_reducible refine Acts.foldl ?_ (fun _ _ _ => ?_) | with_reducible refine Acts.fstIte ?_ ?_ | with_reducible refine Acts.ofFst (by assumption) ?_ | (with_reducible refine Acts.set_secure ?_ ?_; first | with_reducible assumption | with_reducible exact Acts.refl _ _ | with_reducible refine nvmFaults_acts _ ?_ ?_ | with_reducible refine readLogbook_acts _ _ ?_ ?_ | with_reducible refine digestFault_acts _ ?_ ?_ | with_reducible refine wr_acts _ _ ?_ ?_ | with_reducible refine loadConfig_acts _ ?_ ?_ | with_reducible refine applyPresets_acts _ ?_ ?_ | with_reducible refine stepDone_acts _ ?_ ?_ | with_reducible refine setDial_acts _ ?_ ?_ | with_reducible refine Acts.iteStep ?_ (fun _ => ?_) | with_reducible refine Acts.foldl ?_ (fun _ _ _ => ?_) | with_reducible refine Acts.fstIte ?_ ?_ | with_reducible refine Acts.ofFst (by assumption) ?_) | (with_reducible refine Acts.set_log ?_ ?_ ?_; first | with_reducible assumption | with_reducible exact Acts.refl _ _ | with_reducible refine nvmFaults_acts _ ?_ ?_ | with_reducible refine readLogbook_acts _ _ ?_ ?_ | with_reducible refine digestFault_acts _ ?_ ?_ | with_reducible refine wr_acts _ _ ?_ ?_ | with_reducible refine loadConfig_acts _ ?_ ?_ | with_reducible refine applyPresets_acts _ ?_ ?_ | with_reducible refine stepDone_acts _ ?_ ?_ | with_reducible refine setDial_acts _ ?_ ?_ | with_reducible refine Acts.iteStep ?_ (fun _ => ?_) | with_reducible refine Acts.foldl ?_ (fun _ _ _ => ?_) | with_reducible refine Acts.fstIte ?_ ?_ | with_reducible refine Acts.ofFst (by assumption) ?_) | (with_reducible refine Acts.set_dial ?_ ?_; first | with_reducible assumption | with_reducible exact Acts.refl _ _ | with_reducible refine nvmFaults_acts _ ?_ ?_ | with_reducible refine readLogbook_acts _ _ ?_ ?_ | with_reducible refine digestFault_acts _ ?_ ?_ | with_reducible refine wr_acts _ _ ?_ ?_ | with_reducible refine loadConfig_acts _ ?_ ?_ | with_reducible refine applyPresets_acts _ ?_ ?_ | with_reducible refine stepDone_acts _ ?_ ?_ | with_reducible refine setDial_acts _ ?_ ?_ | with_reducible refine Acts.iteStep ?_ (fun _ => ?_) | with_reducible refine Acts.foldl ?_ (fun _ _ _ => ?_) | with_reducible refine Acts.fstIte ?_ ?_ | with_reducible refine Acts.ofFst (by assumption) ?_))
    | (with_reducible refine Acts.set_log ?_ ?_ ?_; first | with_reducible assumption | with_reducible exact Acts.refl _ _ | with_reducible refine nvmFaults_acts _ ?_ ?_ | with_reducible refine readLogbook_acts _ _ ?_ ?_ | with_reducible refine digestFault_acts _ ?_ ?_ | with_reducible refine wr_acts _ _ ?_ ?_ | with_reducible refine loadConfig_acts _ ?_ ?_ | with_reducible refine applyPresets_acts _ ?_ ?_ | with_reducible refine stepDone_acts _ ?_ ?_ | with_reducible refine setDial_acts _ ?_ ?_ | with_reducible refine Acts.iteStep ?_ (fun _ => ?_) | with_reducible refine Acts.foldl ?_ (fun _ _ _ => ?_) | with_reducible refine Acts.fstIte ?_ ?_ | with_reducible refine Acts.ofFst (by assumption) ?_ | (with_reducible refine Acts.set_secure ?_ ?_; first | with_reducible assumption | with_reducible exact Acts.refl _ _ | with_reducible refine nvmFaults_acts _ ?_ ?_ | with_reducible refine readLogbook_acts _ _ ?_ ?_ | with_reducible refine digestFault_acts _ ?_ ?_ | with_reducible refine wr_acts _ _ ?_ ?_ | with_reducible refine loadConfig_acts _ ?_ ?_ | with_reducible refine applyPresets_acts _ ?_ ?_ | with_reducible refine stepDone_acts _ ?_ ?_ | with_reducible refine setDial_acts _ ?_ ?_ | with_reducible refine Acts.iteStep ?_ (fun _ => ?_) | with_reducible refine Acts.foldl ?_ (fun _ _ _ => ?_) | with_reducible refine Acts.fstIte ?_ ?_ | with_reducible refine Acts.ofFst (by assumption) ?_) | (with_reducible refine Acts.set_log ?_ ?_ ?_; first | with_reducible assumption | with_reducible exact Acts.refl _ _ | with_reducible refine nvmFaults_acts _ ?_ ?_ | with_reducible refine readLogbook_acts _ _ ?_ ?_ | with_reducible refine digestFault_acts _ ?_ ?_ | with_reducible refine wr_acts _ _ ?_ ?_ | with_reducible refine loadConfig_acts _ ?_ ?_ | with_reducible refine applyPresets_acts _ ?_ ?_ | with_reducible refine stepDone_acts _ ?_ ?_ | with_reducible refine setDial_acts _ ?_ ?_ | with_reducible refine Acts.iteStep ?_ (fun _ => ?_) | with_reducible refine Acts.foldl ?_ (fun _ _ _ => ?_) | with_reducible refine Acts.fstIte ?_ ?_ | with_reducible refine Acts.ofFst (by assumption) ?_) | (with_reducible refine Acts.set_dial ?_ ?_; first | with_reducible assumption | with_reducible exact Acts.refl _ _ | with_reducible refine nvmFaults_acts _ ?_ ?_ | with_reducible refine readLogbook_acts _ _ ?_ ?_ | with_reducible refine digestFault_acts _ ?_ ?_ | with_reducible refine wr_acts _ _ ?_ ?_ | with_reducible refine loadConfig_acts _ ?_ ?_ | with_reducible refine applyPresets_acts _ ?_ ?_ | with_reducible refine stepDone_acts _ ?_ ?_ | with_reducible refine setDial_acts _ ?_ ?_ | with_reducible refine Acts.iteStep ?_ (fun _ => ?_) | with_reducible refine Acts.foldl ?_ (fun _ _ _ => ?_) | with_reducible refine Acts.fstIte ?_ ?_ | with_reducible refine Acts.ofFst (by assumption) ?_))
    | (with_reducible refine Acts.set_dial ?_ ?_; first | with_reducible assumption | with_reducible exact Acts.refl _ _ | with_reducible refine nvmFaults_acts _ ?_ ?_ | with_reducible refine readLogbook_acts _ _ ?_ ?_ | with_reducible refine digestFault_acts _ ?_ ?_ | with_reducible refine wr_acts _ _ ?_ ?_ | with_reducible refine loadConfig_acts _ ?_ ?_ | with_reducible refine applyPresets_acts _ ?_ ?_ | with_reducible refine stepDone_acts _ ?_ ?_ | with_reducible refine setDial_acts _ ?_ ?_ | with_reducible refine Acts.iteStep ?_ (fun _ => ?_) | with_reducible refine Acts.foldl ?_ (fun _ _ _ => ?_) | with_reducible refine Acts.fstIte ?_ ?_ | with_reducible refine Acts.ofFst (by assumption) ?_ | (with_reducible refine Acts.set_secure ?_ ?_; first | with_reducible assumption | with_reducible exact Acts.refl _ _ | with_reducible refine nvmFaults_acts _ ?_ ?_ | with_reducible refine readLogbook_acts _ _ ?_ ?_ | with_reducible refine digestFault_acts _ ?_ ?_ | with_reducible refine wr_acts _ _ ?_ ?_ | with_reducible refine loadConfig_acts _ ?_ ?_ | with_reducible refine applyPresets_acts _ ?_ ?_ | with_reducible refine stepDone_acts _ ?_ ?_ | with_reducible refine setDial_acts _ ?_ ?_ | with_reducible refine Acts.iteStep ?_ (fun _ => ?_) | with_reducible refine Acts.foldl ?_ (fun _ _ _ => ?_) | with_reducible refine Acts.fstIte ?_ ?_ | with_reducible refine Acts.ofFst (by assumption) ?_) | (with_reducible refine Acts.set_log ?_ ?_ ?_; first | with_reducible assumption | with_reducible exact Acts.refl _ _ | with_reducible refine nvmFaults_acts _ ?_ ?_ | with_reducible refine readLogbook_acts _ _ ?_ ?_ | with_reducible refine digestFault_acts _ ?_ ?_ | with_reducible refine wr_acts _ _ ?_ ?_ | with_reducible refine loadConfig_acts _ ?_ ?_ | with_reducible refine applyPresets_acts _ ?_ ?_ | with_reducible refine stepDone_acts _ ?_ ?_ | with_reducible refine setDial_acts _ ?_ ?_ | with_reducible refine Acts.iteStep ?_ (fun _ => ?_) | with_reducible refine Acts.foldl ?_ (fun _ _ _ => ?_) | with_reducible refine Acts.fstIte ?_ ?_ | with_reducible refine Acts.ofFst (by assumption) ?_) | (with_reducible refine Acts.set_dial ?_ ?_; first | with_reducible assumption | with_reducible exact Acts.refl _ _ | with_reducible refine nvmFaults_acts _ ?_ ?_ | with_reducible refine readLogbook_acts _ _ ?_ ?_ | with_reducible refine digestFault_acts _ ?_ ?_ | with_reducible refine wr_acts _ _ ?_ ?_ | with_reducible refine loadConfig_acts _ ?_ ?_ | with_reducible refine applyPresets_acts _ ?_ ?_ | with_reducible refine stepDone_acts _ ?_ ?_ | with_reducible refine setDial_acts _ ?_ ?_ | with_reducible refine Acts.iteStep ?_ (fun _ => ?_) | with_reducible refine Acts.foldl ?_ (fun _ _ _ => ?_) | with_reducible refine Acts.fstIte ?_ ?_ | with_reducible refine Acts.ofFst (by assumption) ?_))
    | (with_reducible refine Acts.fstMk ?_; first | with_reducible assumption | with_reducible exact Acts.refl _ _ | with_reducible refine nvmFaults_acts _ ?_ ?_ | with_reducible refine readLogbook_acts _ _ ?_ ?_ | with_reducible refine digestFault_acts _ ?_ ?_ | with_reducible refine wr_acts _ _ ?_ ?_ | with_reducible refine loadConfig_acts _ ?_ ?_ | with_reducible refine applyPresets_acts _ ?_ ?_ | with_reducible refine stepDone_acts _ ?_ ?_ | with_reducible refine setDial_acts _ ?_ ?_ | with_reducible refine Acts.iteStep ?_ (fun _ => ?_) | with_reducible refine Acts.foldl ?_ (fun _ _ _ => ?_) | with_reducible refine Acts.fstIte ?_ ?_ | with_reducible refine Acts.ofFst (by assumption) ?_ | (with_reducible refine Acts.set_secure ?_ ?_; first | with_reducible assumption | with_reducible exact Acts.refl _ _ | with_reducible refine nvmFaults_acts _ ?_ ?_ | with_reducible refine readLogbook_acts _ _ ?_ ?_ | with_reducible refine digestFault_acts _ ?_ ?_ | with_reducible refine wr_acts _ _ ?_ ?_ | with_reducible refine loadConfig_acts _ ?_ ?_ | with_reducible refine applyPresets_acts _ ?_ ?_ | with_reducible refine stepDone_acts _ ?_ ?_ | with_reducible refine setDial_acts _ ?_ ?_ | with_reducible refine Acts.iteStep ?_ (fun _ => ?_) | with_reducible refine Acts.foldl ?_ (fun _ _ _ => ?_) | with_reducible refine Acts.fstIte ?_ ?_ | with_reducible refine Acts.ofFst (by assumption) ?_) | (with_reducible refine Acts.set_log ?_ ?_ ?_; first | with_reducible assumption | with_reducible exact Acts.refl _ _ | with_reducible refine nvmFaults_acts _ ?_ ?_ | with_reducible refine readLogbook_acts _ _ ?_ ?_ | with_reducible refine digestFault_acts _ ?_ ?_ | with_reducible refine wr_acts _ _ ?_ ?_ | with_reducible refine loadConfig_acts _ ?_ ?_ | with_reducible refine applyPresets_acts _ ?_ ?_ | with_reducible refine stepDone_acts _ ?_ ?_ | with_reducible refine setDial_acts _ ?_ ?_ | with_reducible refine Acts.iteStep ?_ (fun _ => ?_) | with_reducible refine Acts.foldl ?_ (fun _ _ _ => ?_) | with_reducible refine Acts.fstIte ?_ ?_ | with_reducible refine Acts.ofFst (by assumption) ?_) | (with_reducible refine Acts.set_dial ?_ ?_; first | with_reducible assumption | with_reducible exact Acts.refl _ _ | with_reducible refine nvmFaults_acts _ ?_ ?_ | with_reducible refine readLogbook_acts _ _ ?_ ?_ | with_reducible refine digestFault_acts _ ?_ ?_ | with_reducible refine wr_acts _ _ ?_ ?_ | with_reducible refine loadConfig_acts _ ?_ ?_ | with_reducible refine applyPresets_acts _ ?_ ?_ | with_reducible refine stepDone_acts _ ?_ ?_ | with_reducible refine setDial_acts _ ?_ ?_ | with_reducible refine Acts.iteStep ?_ (fun _ => ?_) | with_reducible refine Acts.foldl ?_ (fun _ _ _ => ?_) | with_reducible refine Acts.fstIte ?_ ?_ | with_reducible refine Acts.ofFst (by assumption) ?_))
    | split
    | with_reducible exact LogOk.keep_intervalLeft _ _
    | (exact fun _ => rfl)
    | (intro k; rw [List.length_map]; exact k)
    | (exact fun h => Mem.wf_writeBytes _ _ h)
    | (exact fun h => Mem.wf_write _ _ h)
    | (intro _; exact Nat.zero_le _)
    | with_reducible with_reducible exact fun h => h
    | (intro h; rw [modAt_length]; exact h))

theorem testFailures_acts {F : List Part} {S : State} (passed : Nat) {s : State} (h : Acts F S s)
    (hs : subParts [.regs, .sched, .queue, .pipe, .observe, .noticeSeq] F = true) : Acts F S (testFailures s passed) := by
  refine Acts.step h ?_ hs
  unfold testFailures
  repeat' (first
    | with_reducible assumption
    | decide
    | with_reducible exact Acts.refl _ _
    | with_reducible refine clusterFailing_acts _ ?_ ?_
    | with_reducible refine unitFailing_acts _ _ ?_ ?_
    | with_reducible refine channelFailing_acts _ ?_ ?_
    | with_reducible refine Acts.iteStep ?_ (fun _ => ?_)
    | with_reducible refine Acts.foldl ?_ (fun _ _ _ => ?_)
    | dsimp -proj only
    | split)

theorem bootStep7_acts {F : List Part} {S : State} (b : Sys2Proof.BootInput) {s : State} (h : Acts F S s)
    (hs : subParts [.regs, .sched, .ports, .queue, .pipe, .power, .peer, .observe, .noticeSeq] F = true) : Acts F S (bootStep7 s b).1 := by
  refine Acts.step h ?_ hs
  unfold bootStep7
  repeat' (first
    | with_reducible assumption
    | decide
    | with_reducible exact Acts.refl _ _
    | with_reducible refine domainsOn_acts _ ?_ ?_
    | with_reducible refine stepDone_acts _ ?_ ?_
    | with_reducible refine applyDomains_acts _ ?_ ?_
    | with_reducible refine testFailures_acts _ ?_ ?_
    | with_reducible refine Acts.iteStep ?_ (fun _ => ?_)
    | with_reducible refine Acts.foldl ?_ (fun _ _ _ => ?_)
    | with_reducible refine Acts.fstIte ?_ ?_
    | with_reducible refine Acts.ofFst (by assumption) ?_
    | dsimp -proj only
    | (with_reducible refine Acts.set_sched ?_ ?_ ?_; first | with_reducible assumption | with_reducible exact Acts.refl _ _ | with_reducible refine domainsOn_acts _ ?_ ?_ | with_reducible refine stepDone_acts _ ?_ ?_ | with_reducible refine applyDomains_acts _ ?_ ?_ | with_reducible refine testFailures_acts _ ?_ ?_ | with_reducible refine Acts.iteStep ?_ (fun _ => ?_) | with_reducible refine Acts.foldl ?_ (fun _ _ _ => ?_) | with_reducible refine Acts.fstIte ?_ ?_ | with_reducible refine Acts.ofFst (by assumption) ?_)
    | (with_reducible refine Acts.fstMk ?_; first | with_reducible assumption | with_reducible exact Acts.refl _ _ | with_reducible refine domainsOn_acts _ ?_ ?_ | with_reducible refine stepDone_acts _ ?_ ?_ | with_reducible refine applyDomains_acts _ ?_ ?_ | with_reducible refine testFailures_acts _ ?_ ?_ | with_reducible refine Acts.iteStep ?_ (fun _ => ?_) | with_reducible refine Acts.foldl ?_ (fun _ _ _ => ?_) | with_reducible refine Acts.fstIte ?_ ?_ | with_reducible refine Acts.ofFst (by assumption) ?_ | (with_reducible refine Acts.set_sched ?_ ?_ ?_; first | with_reducible assumption | with_reducible exact Acts.refl _ _ | with_reducible refine domainsOn_acts _ ?_ ?_ | with_reducible refine stepDone_acts _ ?_ ?_ | with_reducible refine applyDomains_acts _ ?_ ?_ | with_reducible refine testFailures_acts _ ?_ ?_ | with_reducible refine Acts.iteStep ?_ (fun _ => ?_) | with_reducible refine Acts.foldl ?_ (fun _ _ _ => ?_) | with_reducible refine Acts.fstIte ?_ ?_ | with_reducible refine Acts.ofFst (by assumption) ?_))
    | split
    | with_reducible exact SchedOk.keep_workShape _ _
    | (exact fun _ => rfl)
    | (intro k; rw [List.length_map]; exact k)
    | (exact fun h => Mem.wf_writeBytes _ _ h)
    | (exact fun h => Mem.wf_write _ _ h)
    | (intro _; exact Nat.zero_le _)
    | with_reducible with_reducible exact fun h => h
    | (intro h; rw [modAt_length]; exact h))

theorem imageDigests_acts {F : List Part} {S : State} (b : Sys2Proof.BootInput) (h0 : NvmHeader) (kind : Nat) {s : State} (h : Acts F S s)
    (hs : subParts [.regs, .sched, .queue, .pipe, .observe, .log, .noticeSeq, .fresh] F = true) : Acts F S (imageDigests s b h0 kind) := by
  refine Acts.step h ?_ hs
  unfold imageDigests
  repeat' (first
    | with_reducible assumption
    | decide
    | with_reducible exact Acts.refl _ _
    | with_reducible refine digestFault_acts _ ?_ ?_
    | with_reducible refine Acts.iteStep ?_ (fun _ => ?_)
    | with_reducible refine Acts.foldl ?_ (fun _ _ _ => ?_)
    | dsimp -proj only
    | split)

theorem bootStep8_acts {F : List Part} {S : State} (b : Sys2Proof.BootInput) (h0 : NvmHeader) {s : State} (h : Acts F S s)
    (hs : subParts [.regs, .sched, .queue, .pipe, .secure, .observe, .log, .noticeSeq, .fresh] F = true) : Acts F S (bootStep8 s b h0).1 := by
  refine Acts.step h ?_ hs
  unfold bootStep8
  repeat' (first
    | with_reducible assumption
    | decide
    | with_reducible exact Acts.refl _ _
    | with_reducible refine imageDigests_acts _ _ _ ?_ ?_
    | with_reducible refine digestFault_acts _ ?_ ?_
    | with_reducible refine stepDone_acts _ ?_ ?_
    | with_reducible refine Acts.iteStep ?_ (fun _ => ?_)
    | with_reducible refine Acts.foldl ?_ (fun _ _ _ => ?_)
    | with_reducible refine Acts.fstIte ?_ ?_
    | with_reducible refine Acts.ofFst (by assumption) ?_
    | dsimp -proj only
    | (with_reducible refine Acts.set_sched_secure ?_ ?_ ?_ ?_; first | with_reducible assumption | with_reducible exact Acts.refl _ _ | with_reducible refine imageDigests_acts _ _ _ ?_ ?_ | with_reducible refine digestFault_acts _ ?_ ?_ | with_reducible refine stepDone_acts _ ?_ ?_ | with_reducible refine Acts.iteStep ?_ (fun _ => ?_) | with_reducible refine Acts.foldl ?_ (fun _ _ _ => ?_) | with_reducible refine Acts.fstIte ?_ ?_ | with_reducible refine Acts.ofFst (by assumption) ?_)
    | (with_reducible refine Acts.fstMk ?_; first | with_reducible assumption | with_reducible exact Acts.refl _ _ | with_reducible refine imageDigests_acts _ _ _ ?_ ?_ | with_reducible refine digestFault_acts _ ?_ ?_ | with_reducible refine stepDone_acts _ ?_ ?_ | with_reducible refine Acts.iteStep ?_ (fun _ => ?_) | with_reducible refine Acts.foldl ?_ (fun _ _ _ => ?_) | with_reducible refine Acts.fstIte ?_ ?_ | with_reducible refine Acts.ofFst (by assumption) ?_ | (with_reducible refine Acts.set_sched_secure ?_ ?_ ?_ ?_; first | with_reducible assumption | with_reducible exact Acts.refl _ _ | with_reducible refine imageDigests_acts _ _ _ ?_ ?_ | with_reducible refine digestFault_acts _ ?_ ?_ | with_reducible refine stepDone_acts _ ?_ ?_ | with_reducible refine Acts.iteStep ?_ (fun _ => ?_) | with_reducible refine Acts.foldl ?_ (fun _ _ _ => ?_) | with_reducible refine Acts.fstIte ?_ ?_ | with_reducible refine Acts.ofFst (by assumption) ?_))
    | split
    | with_reducible exact SchedOk.keep_shapeSet _ _
    | (exact fun _ => rfl)
    | (intro k; rw [List.length_map]; exact k)
    | (exact fun h => Mem.wf_writeBytes _ _ h)
    | (exact fun h => Mem.wf_write _ _ h)
    | (intro _; exact Nat.zero_le _)
    | with_reducible with_reducible exact fun h => h
    | (intro h; rw [modAt_length]; exact h))

theorem stageModel_acts {F : List Part} {S : State} (slot : Nat) (index : Nat) {s : State} (h : Acts F S s)
    (hs : subParts [.regs, .queue, .slots, .observe, .noticeSeq] F = true) : Acts F S (stageModel s slot index) := by
  refine Acts.step h ?_ hs
  unfold stageModel
  repeat' (first
    | with_reducible assumption
    | decide
    | with_reducible exact Acts.refl _ _
    | with_reducible refine refuseStage_acts _ _ ?_ ?_
    | with_reducible refine checkStage_acts _ _ ?_ ?_
    | with_reducible refine Acts.iteStep ?_ (fun _ => ?_)
    | with_reducible refine Acts.foldl ?_ (fun _ _ _ => ?_)
    | dsimp -proj only
    | split)

theorem modelRefused_acts {F : List Part} {S : State} (index : Nat) {s : State} (h : Acts F S s)
    (hs : subParts [.regs, .queue, .observe, .noticeSeq] F = true) : Acts F S (modelRefused s index) := by
  refine Acts.step h ?_ hs
  unfold modelRefused
  repeat' (first
    | with_reducible assumption
    | decide
    | with_reducible exact Acts.refl _ _
    | with_reducible refine raise_acts _ _ ?_ ?_
    | with_reducible refine wr_acts _ _ ?_ ?_
    | with_reducible refine Acts.iteStep ?_ (fun _ => ?_)
    | with_reducible refine Acts.foldl ?_ (fun _ _ _ => ?_)
    | dsimp -proj only
    | split)

theorem stageModels_acts {F : List Part} {S : State}  {s : State} (h : Acts F S s)
    (hs : subParts [.regs, .queue, .slots, .observe, .noticeSeq] F = true) : Acts F S (stageModels s).1 := by
  refine Acts.step h ?_ hs
  unfold stageModels
  repeat' (first
    | with_reducible assumption
    | decide
    | with_reducible exact Acts.refl _ _
    | with_reducible refine stageModel_acts _ _ ?_ ?_
    | with_reducible refine modelRefused_acts _ ?_ ?_
    | (refine Acts.foldlPair ?_ fun _ _ _ _ => ?_)
    | with_reducible refine Acts.iteStep ?_ (fun _ => ?_)
    | with_reducible refine Acts.foldl ?_ (fun _ _ _ => ?_)
    | with_reducible refine Acts.fstIte ?_ ?_
    | dsimp -proj only
    | (with_reducible refine Acts.fstMk ?_; first | with_reducible assumption | with_reducible exact Acts.refl _ _ | with_reducible refine stageModel_acts _ _ ?_ ?_ | with_reducible refine modelRefused_acts _ ?_ ?_ | (refine Acts.foldlPair ?_ fun _ _ _ _ => ?_) | with_reducible refine Acts.iteStep ?_ (fun _ => ?_) | with_reducible refine Acts.foldl ?_ (fun _ _ _ => ?_) | with_reducible refine Acts.fstIte ?_ ?_)
    | split)

theorem bootStep9_acts {F : List Part} {S : State}  {s : State} (h : Acts F S s)
    (hs : subParts [.regs, .sched, .front, .flow, .endpoint, .queue, .slots, .observe, .noticeSeq] F = true) : Acts F S (bootStep9 s).1 := by
  refine Acts.step h ?_ hs
  unfold bootStep9
  repeat' (first
    | with_reducible assumption
    | decide
    | with_reducible exact Acts.refl _ _
    | with_reducible refine stageModels_acts  ?_ ?_
    | with_reducible refine Acts.iteStep ?_ (fun _ => ?_)
    | with_reducible refine Acts.foldl ?_ (fun _ _ _ => ?_)
    | with_reducible refine Acts.fstIte ?_ ?_
    | with_reducible refine Acts.ofFst (by assumption) ?_
    | with_reducible refine Acts.ofSome (by assumption) ?_
    | with_reducible refine loadTables_acts _ ?_ ?_
    | dsimp -proj only
    | (with_reducible refine Acts.set_sched ?_ ?_ ?_; first | with_reducible assumption | with_reducible exact Acts.refl _ _ | with_reducible refine stageModels_acts  ?_ ?_ | with_reducible refine Acts.iteStep ?_ (fun _ => ?_) | with_reducible refine Acts.foldl ?_ (fun _ _ _ => ?_) | with_reducible refine Acts.fstIte ?_ ?_ | with_reducible refine Acts.ofFst (by assumption) ?_ | with_reducible refine Acts.ofSome (by assumption) ?_ | with_reducible refine loadTables_acts _ ?_ ?_)
    | (with_reducible refine Acts.fstMk ?_; first | with_reducible assumption | with_reducible exact Acts.refl _ _ | with_reducible refine stageModels_acts  ?_ ?_ | with_reducible refine Acts.iteStep ?_ (fun _ => ?_) | with_reducible refine Acts.foldl ?_ (fun _ _ _ => ?_) | with_reducible refine Acts.fstIte ?_ ?_ | with_reducible refine Acts.ofFst (by assumption) ?_ | with_reducible refine Acts.ofSome (by assumption) ?_ | with_reducible refine loadTables_acts _ ?_ ?_ | (with_reducible refine Acts.set_sched ?_ ?_ ?_; first | with_reducible assumption | with_reducible exact Acts.refl _ _ | with_reducible refine stageModels_acts  ?_ ?_ | with_reducible refine Acts.iteStep ?_ (fun _ => ?_) | with_reducible refine Acts.foldl ?_ (fun _ _ _ => ?_) | with_reducible refine Acts.fstIte ?_ ?_ | with_reducible refine Acts.ofFst (by assumption) ?_ | with_reducible refine Acts.ofSome (by assumption) ?_ | with_reducible refine loadTables_acts _ ?_ ?_))
    | split
    | with_reducible exact SchedOk.keep_chosen _ _
    | (exact fun _ => rfl)
    | (intro k; rw [List.length_map]; exact k)
    | (exact fun h => Mem.wf_writeBytes _ _ h)
    | (exact fun h => Mem.wf_write _ _ h)
    | (intro _; exact Nat.zero_le _)
    | with_reducible with_reducible exact fun h => h
    | (intro h; rw [modAt_length]; exact h))

theorem bootStep10_acts {F : List Part} {S : State}  {s : State} (h : Acts F S s)
    (hs : subParts [.regs, .queue, .secure, .observe, .noticeSeq] F = true) : Acts F S (bootStep10 s).1 := by
  refine Acts.step h ?_ hs
  unfold bootStep10
  repeat' (first
    | with_reducible assumption
    | decide
    | with_reducible exact Acts.refl _ _
    | with_reducible refine stepDone_acts _ ?_ ?_
    | with_reducible refine wr_acts _ _ ?_ ?_
    | with_reducible refine raise_acts _ _ ?_ ?_
    | with_reducible refine Acts.iteStep ?_ (fun _ => ?_)
    | with_reducible refine Acts.foldl ?_ (fun _ _ _ => ?_)
    | with_reducible refine Acts.fstIte ?_ ?_
    | with_reducible refine Acts.ofFst (by assumption) ?_
    | dsimp -proj only
    | (with_reducible refine Acts.set_secure ?_ ?_; first | with_reducible assumption | with_reducible exact Acts.refl _ _ | with_reducible refine stepDone_acts _ ?_ ?_ | with_reducible refine wr_acts _ _ ?_ ?_ | with_reducible refine raise_acts _ _ ?_ ?_ | with_reducible refine Acts.iteStep ?_ (fun _ => ?_) | with_reducible refine Acts.foldl ?_ (fun _ _ _ => ?_) | with_reducible refine Acts.fstIte ?_ ?_ | with_reducible refine Acts.ofFst (by assumption) ?_)
    | (with_reducible refine Acts.fstMk ?_; first | with_reducible assumption | with_reducible exact Acts.refl _ _ | with_reducible refine stepDone_acts _ ?_ ?_ | with_reducible refine wr_acts _ _ ?_ ?_ | with_reducible refine raise_acts _ _ ?_ ?_ | with_reducible refine Acts.iteStep ?_ (fun _ => ?_) | with_reducible refine Acts.foldl ?_ (fun _ _ _ => ?_) | with_reducible refine Acts.fstIte ?_ ?_ | with_reducible refine Acts.ofFst (by assumption) ?_ | (with_reducible refine Acts.set_secure ?_ ?_; first | with_reducible assumption | with_reducible exact Acts.refl _ _ | with_reducible refine stepDone_acts _ ?_ ?_ | with_reducible refine wr_acts _ _ ?_ ?_ | with_reducible refine raise_acts _ _ ?_ ?_ | with_reducible refine Acts.iteStep ?_ (fun _ => ?_) | with_reducible refine Acts.foldl ?_ (fun _ _ _ => ?_) | with_reducible refine Acts.fstIte ?_ ?_ | with_reducible refine Acts.ofFst (by assumption) ?_))
    | split)

theorem startPoint_acts {F : List Part} {S : State}  {s : State} (h : Acts F S s)
    (hs : subParts [.regs, .power] F = true) : Acts F S (startPoint s) := by
  refine Acts.step h ?_ hs
  unfold startPoint
  repeat' (first
    | with_reducible assumption
    | decide
    | with_reducible exact Acts.refl _ _
    | with_reducible refine showPoint_acts  ?_ ?_
    | with_reducible refine Acts.iteStep ?_ (fun _ => ?_)
    | with_reducible refine Acts.foldl ?_ (fun _ _ _ => ?_)
    | dsimp -proj only
    | (with_reducible refine Acts.set_power ?_ ?_; first | with_reducible assumption | with_reducible exact Acts.refl _ _ | with_reducible refine showPoint_acts  ?_ ?_ | with_reducible refine Acts.iteStep ?_ (fun _ => ?_) | with_reducible refine Acts.foldl ?_ (fun _ _ _ => ?_))
    | split)

theorem bootFrom_acts {F : List Part} {S : State} (b : BootInput) (h0 : NvmHeader) {s : State} (h : Acts F S s)
    (hs : subParts [.regs, .dial, .sched, .ports, .front, .flow, .endpoint, .queue, .pipe, .slots, .quant, .power, .tally, .secure, .crown, .peer, .observe, .log, .pins, .out, .noticeSeq, .fresh] F = true) : Acts F S (bootFrom s b h0).1 := by
  refine Acts.step h ?_ hs
  have e := thenBoot_acts (fun _ k => bootStep7_acts b k (by decide))
    (thenBoot_acts (fun _ k => bootStep6_acts b h0 k (by decide)) (thenBoot_acts (fun _ k => bootStep5_acts b h0 k (by decide))
    (thenBoot_acts (fun _ k => bootStep4_acts b h0 k (by decide)) (thenBoot_acts (fun _ k => bootStep3_acts b h0 k (by decide))
    (bootStep2_acts (F := [.regs, .dial, .sched, .ports, .front, .flow, .endpoint, .queue, .pipe, .slots, .quant, .power, .tally, .secure, .crown, .peer, .observe, .log, .pins, .out, .noticeSeq, .fresh]) b h0 (Acts.refl _ s) (by decide))))))
  unfold bootFrom
  dsimp -proj only
  have e8 := thenBoot_acts (fun _ k => bootStep8_acts b h0 k (by decide)) e
  have e9 := bootStep9_acts (emptyTable_acts 1 (emptyTable_acts 0 e8 (by decide)) (by decide)) (by decide)
  refine Acts.fstIte e8 (Acts.fstIte ?_ ?_)
  · with_reducible exact e9
  · with_reducible refine bootStep10_acts ?_ ?_
    · with_reducible refine wr_acts _ _ ?_ ?_
      · with_reducible exact e9
      · decide
    · decide


theorem showExit_acts {F : List Part} {S : State} (x : Nat) (cls : Nat) {s : State} (h : Acts F S s)
    (hs : subParts [.regs] F = true) : Acts F S (showExit s x cls) := by
  refine Acts.step h ?_ hs
  unfold showExit
  repeat' (first
    | with_reducible assumption
    | decide
    | with_reducible exact Acts.refl _ _
    | with_reducible refine wr_acts _ _ ?_ ?_
    | with_reducible refine Acts.iteStep ?_ (fun _ => ?_)
    | with_reducible refine Acts.foldl ?_ (fun _ _ _ => ?_)
    | dsimp -proj only
    | split)

theorem haltBoot_acts {F : List Part} {S : State} (x : Nat) {s : State} (h : Acts F S s)
    (hs : subParts [.regs, .ports, .queue, .power, .secure, .peer, .observe, .pins, .noticeSeq] F = true) : Acts F S (haltBoot s x) := by
  refine Acts.step h ?_ hs
  unfold haltBoot
  repeat' (first
    | with_reducible assumption
    | decide
    | with_reducible exact Acts.refl _ _
    | with_reducible refine showExit_acts _ _ ?_ ?_
    | with_reducible refine switchPd_acts _ _ ?_ ?_
    | with_reducible refine Acts.iteStep ?_ (fun _ => ?_)
    | with_reducible refine Acts.foldl ?_ (fun _ _ _ => ?_)
    | dsimp -proj only
    | (with_reducible refine Acts.set_secure_pins ?_ ?_ ?_; first | with_reducible assumption | with_reducible exact Acts.refl _ _ | with_reducible refine showExit_acts _ _ ?_ ?_ | with_reducible refine switchPd_acts _ _ ?_ ?_ | with_reducible refine Acts.iteStep ?_ (fun _ => ?_) | with_reducible refine Acts.foldl ?_ (fun _ _ _ => ?_))
    | split)

theorem resetPorts_acts {F : List Part} {S : State}  {s : State} (h : Acts F S s)
    (hs : subParts [.regs, .ports] F = true) : Acts F S (resetPorts s) := by
  refine Acts.step h ?_ hs
  unfold resetPorts
  repeat' (first
    | with_reducible assumption
    | decide
    | with_reducible exact Acts.refl _ _
    | with_reducible refine Acts.iteStep ?_ (fun _ => ?_)
    | with_reducible refine Acts.foldl ?_ (fun _ _ _ => ?_)
    | dsimp -proj only
    | (with_reducible refine Acts.set_regs_ports ?_ ?_ ?_ ?_ ?_; first | with_reducible assumption | with_reducible exact Acts.refl _ _ | with_reducible refine Acts.iteStep ?_ (fun _ => ?_) | with_reducible refine Acts.foldl ?_ (fun _ _ _ => ?_))
    | split
    | (exact fun h => Map.sorted_filter _ h)
    | (intro h; simpa [RegsOk] using h)
    | (generalize State.ports _ = y; intro h; simpa only [PortsOk, modAt_length, List.length_map, List.length_zipIdx] using h)
    | (exact fun _ => rfl)
    | (intro k; rw [List.length_map]; exact k)
    | (exact fun h => Mem.wf_writeBytes _ _ h)
    | (exact fun h => Mem.wf_write _ _ h)
    | (intro _; exact Nat.zero_le _)
    | with_reducible with_reducible exact fun h => h
    | (intro h; rw [modAt_length]; exact h))

theorem recoverBoot_acts {F : List Part} {S : State} (x : Nat) {s : State} (h : Acts F S s)
    (hs : subParts [.regs, .sched, .ports, .queue, .power, .peer, .observe, .pins, .noticeSeq] F = true) : Acts F S (recoverBoot s x) := by
  refine Acts.step h ?_ hs
  unfold recoverBoot
  repeat' (first
    | with_reducible assumption
    | decide
    | with_reducible exact Acts.refl _ _
    | with_reducible refine domainsOn_acts _ ?_ ?_
    | with_reducible refine setupDataPath_acts _ ?_ ?_
    | with_reducible refine wr_acts _ _ ?_ ?_
    | with_reducible refine resetPorts_acts  ?_ ?_
    | with_reducible refine showExit_acts _ _ ?_ ?_
    | with_reducible refine showLanes_acts _ ?_ ?_
    | with_reducible refine Acts.iteStep ?_ (fun _ => ?_)
    | with_reducible refine Acts.foldl ?_ (fun _ _ _ => ?_)
    | dsimp -proj only
    | (with_reducible refine Acts.set_sched_pins ?_ ?_ ?_ ?_; first | with_reducible assumption | with_reducible exact Acts.refl _ _ | with_reducible refine domainsOn_acts _ ?_ ?_ | with_reducible refine setupDataPath_acts _ ?_ ?_ | with_reducible refine wr_acts _ _ ?_ ?_ | with_reducible refine resetPorts_acts  ?_ ?_ | with_reducible refine showExit_acts _ _ ?_ ?_ | with_reducible refine showLanes_acts _ ?_ ?_ | with_reducible refine Acts.iteStep ?_ (fun _ => ?_) | with_reducible refine Acts.foldl ?_ (fun _ _ _ => ?_))
    | split
    | with_reducible exact SchedOk.keep_chosen _ _
    | (exact fun _ => rfl)
    | (intro k; rw [List.length_map]; exact k)
    | (exact fun h => Mem.wf_writeBytes _ _ h)
    | (exact fun h => Mem.wf_write _ _ h)
    | (intro _; exact Nat.zero_le _)
    | with_reducible with_reducible exact fun h => h
    | (intro h; rw [modAt_length]; exact h))

theorem enablePorts_acts {F : List Part} {S : State}  {s : State} (h : Acts F S s)
    (hs : subParts [.regs, .ports, .pins] F = true) : Acts F S (enablePorts s) := by
  refine Acts.step h ?_ hs
  unfold enablePorts
  repeat' (first
    | with_reducible assumption
    | decide
    | with_reducible exact Acts.refl _ _
    | with_reducible refine showLanes_acts _ ?_ ?_
    | with_reducible refine Acts.iteStep ?_ (fun _ => ?_)
    | with_reducible refine Acts.foldl ?_ (fun _ _ _ => ?_)
    | dsimp -proj only
    | (with_reducible refine Acts.set_ports ?_ ?_ ?_; first | with_reducible assumption | with_reducible exact Acts.refl _ _ | with_reducible refine showLanes_acts _ ?_ ?_ | with_reducible refine Acts.iteStep ?_ (fun _ => ?_) | with_reducible refine Acts.foldl ?_ (fun _ _ _ => ?_))
    | (with_reducible refine Acts.set_pins ?_ ?_; first | with_reducible assumption | with_reducible exact Acts.refl _ _ | with_reducible refine showLanes_acts _ ?_ ?_ | with_reducible refine Acts.iteStep ?_ (fun _ => ?_) | with_reducible refine Acts.foldl ?_ (fun _ _ _ => ?_))
    | (with_reducible refine Acts.set_ports ?_ ?_ ?_; first | with_reducible assumption | with_reducible exact Acts.refl _ _ | with_reducible refine showLanes_acts _ ?_ ?_ | with_reducible refine Acts.iteStep ?_ (fun _ => ?_) | with_reducible refine Acts.foldl ?_ (fun _ _ _ => ?_) | (with_reducible refine Acts.set_ports ?_ ?_ ?_; first | with_reducible assumption | with_reducible exact Acts.refl _ _ | with_reducible refine showLanes_acts _ ?_ ?_ | with_reducible refine Acts.iteStep ?_ (fun _ => ?_) | with_reducible refine Acts.foldl ?_ (fun _ _ _ => ?_)) | (with_reducible refine Acts.set_pins ?_ ?_; first | with_reducible assumption | with_reducible exact Acts.refl _ _ | with_reducible refine showLanes_acts _ ?_ ?_ | with_reducible refine Acts.iteStep ?_ (fun _ => ?_) | with_reducible refine Acts.foldl ?_ (fun _ _ _ => ?_)))
    | (with_reducible refine Acts.set_pins ?_ ?_; first | with_reducible assumption | with_reducible exact Acts.refl _ _ | with_reducible refine showLanes_acts _ ?_ ?_ | with_reducible refine Acts.iteStep ?_ (fun _ => ?_) | with_reducible refine Acts.foldl ?_ (fun _ _ _ => ?_) | (with_reducible refine Acts.set_ports ?_ ?_ ?_; first | with_reducible assumption | with_reducible exact Acts.refl _ _ | with_reducible refine showLanes_acts _ ?_ ?_ | with_reducible refine Acts.iteStep ?_ (fun _ => ?_) | with_reducible refine Acts.foldl ?_ (fun _ _ _ => ?_)) | (with_reducible refine Acts.set_pins ?_ ?_; first | with_reducible assumption | with_reducible exact Acts.refl _ _ | with_reducible refine showLanes_acts _ ?_ ?_ | with_reducible refine Acts.iteStep ?_ (fun _ => ?_) | with_reducible refine Acts.foldl ?_ (fun _ _ _ => ?_)))
    | split
    | (generalize State.ports _ = y; intro h; simpa only [PortsOk, modAt_length, List.length_map, List.length_zipIdx] using h)
    | (exact fun _ => rfl)
    | (intro k; rw [List.length_map]; exact k)
    | (exact fun h => Mem.wf_writeBytes _ _ h)
    | (exact fun h => Mem.wf_write _ _ h)
    | (intro _; exact Nat.zero_le _)
    | with_reducible with_reducible exact fun h => h
    | (intro h; rw [modAt_length]; exact h))

theorem writeStart_acts {F : List Part} {S : State} (b : Sys2Proof.BootInput) {s : State} (h : Acts F S s)
    (hs : subParts [.regs, .queue, .secure, .observe, .log, .noticeSeq] F = true) : Acts F S (writeStart s b) := by
  refine Acts.step h ?_ hs
  unfold writeStart
  repeat' (first
    | with_reducible assumption
    | decide
    | with_reducible exact Acts.refl _ _
    | with_reducible refine writeRecord_acts _ _ ?_ ?_
    | with_reducible refine Acts.iteStep ?_ (fun _ => ?_)
    | with_reducible refine Acts.foldl ?_ (fun _ _ _ => ?_)
    | dsimp -proj only
    | split)

theorem waitBoot_acts {F : List Part} {S : State} (x : Nat) {s : State} (h : Acts F S s)
    (hs : subParts [.regs, .sched, .ports, .front, .flow, .endpoint, .queue, .pipe, .slots, .quant, .power, .tally, .secure, .crown, .peer, .observe, .log, .pins, .out, .noticeSeq, .fresh] F = true) : Acts F S (waitBoot s x) := by
  refine Acts.step h ?_ hs
  unfold waitBoot
  repeat' (first
    | with_reducible assumption
    | decide
    | with_reducible exact Acts.refl _ _
    | with_reducible refine showExit_acts _ _ ?_ ?_
    | with_reducible refine enablePorts_acts  ?_ ?_
    | with_reducible refine applyLockPresets_acts  ?_ ?_
    | with_reducible refine Acts.iteStep ?_ (fun _ => ?_)
    | with_reducible refine Acts.foldl ?_ (fun _ _ _ => ?_)
    | dsimp -proj only
    | (with_reducible refine Acts.set_sched ?_ ?_ ?_; first | with_reducible assumption | with_reducible exact Acts.refl _ _ | with_reducible refine showExit_acts _ _ ?_ ?_ | with_reducible refine enablePorts_acts  ?_ ?_ | with_reducible refine applyLockPresets_acts  ?_ ?_ | with_reducible refine Acts.iteStep ?_ (fun _ => ?_) | with_reducible refine Acts.foldl ?_ (fun _ _ _ => ?_))
    | split
    | with_reducible exact SchedOk.keep_chosen _ _
    | (exact fun _ => rfl)
    | (intro k; rw [List.length_map]; exact k)
    | (exact fun h => Mem.wf_writeBytes _ _ h)
    | (exact fun h => Mem.wf_write _ _ h)
    | (intro _; exact Nat.zero_le _)
    | with_reducible with_reducible exact fun h => h
    | (intro h; rw [modAt_length]; exact h))

theorem readyBoot_acts {F : List Part} {S : State} (ms : Nat) {s : State} (h : Acts F S s)
    (hs : subParts [.regs, .sched, .ports, .front, .flow, .endpoint, .queue, .pipe, .slots, .quant, .power, .tally, .secure, .crown, .peer, .observe, .log, .pins, .out, .noticeSeq, .fresh] F = true) : Acts F S (readyBoot s ms) := by
  refine Acts.step h ?_ hs
  unfold readyBoot
  repeat' (first
    | with_reducible assumption
    | decide
    | with_reducible exact Acts.refl _ _
    | with_reducible refine wr_acts _ _ ?_ ?_
    | with_reducible refine wrB_acts _ _ ?_ ?_
    | with_reducible refine enablePorts_acts  ?_ ?_
    | with_reducible refine applyLockPresets_acts  ?_ ?_
    | with_reducible refine Acts.iteStep ?_ (fun _ => ?_)
    | with_reducible refine Acts.foldl ?_ (fun _ _ _ => ?_)
    | dsimp -proj only
    | split)

theorem finishBoot_acts {F : List Part} {S : State} (b : BootInput) {r : State × Nat} (h : Acts F S r.1)
    (hs : subParts [.regs, .sched, .ports, .front, .flow, .endpoint, .queue, .pipe, .slots, .quant, .power, .tally, .secure, .crown, .peer, .observe, .log, .pins, .out, .noticeSeq, .fresh] F = true) : Acts F S (finishBoot b r) := by
  refine Acts.step h ?_ hs
  have k : Acts [.regs, .sched, .ports, .front, .flow, .endpoint, .queue, .pipe, .slots, .quant, .power, .tally, .secure, .crown, .peer, .observe, .log, .pins, .out, .noticeSeq, .fresh] r.1 (startPoint { r.1 with power.starting := [] }) :=
    startPoint_acts (Acts.set_power (Acts.refl _ _) rfl) (by decide)
  have w : Acts [.regs, .sched, .ports, .front, .flow, .endpoint, .queue, .pipe, .slots, .quant, .power, .tally, .secure, .crown, .peer, .observe, .log, .pins, .out, .noticeSeq, .fresh] r.1 (writeStart (startPoint { r.1 with power.starting := [] }) b) := writeStart_acts _ k (by decide)
  unfold finishBoot
  dsimp only
  refine Acts.ite (readyBoot_acts _ w (by decide)) (Acts.ite (waitBoot_acts _ w (by decide)) (Acts.ite ?_ ?_))
  · exact haltBoot_acts _ (Acts.refl _ _) (by decide)
  · exact recoverBoot_acts _ (Acts.refl _ _) (by decide)


theorem keepFaults_acts {F : List Part} {S : State} (now : State) {s : State} (h : Acts F S s)
    (hs : subParts [.regs, .sched, .queue, .pipe, .observe, .log, .noticeSeq, .fresh] F = true) : Acts F S (keepFaults s now) := by
  refine Acts.step h ?_ hs
  unfold keepFaults
  repeat' (first
    | with_reducible assumption
    | decide
    | with_reducible exact Acts.refl _ _
    | with_reducible refine nvmFault_acts _ ?_ ?_
    | with_reducible refine Acts.iteStep ?_ (fun _ => ?_)
    | with_reducible refine Acts.foldl ?_ (fun _ _ _ => ?_)
    | dsimp -proj only
    | split)

theorem bootSequence_acts {F : List Part} {S : State} (b : Sys2Proof.BootInput) {s : State} (h : Acts F S s)
    (hs : subParts [.regs, .dial, .sched, .ports, .front, .flow, .endpoint, .queue, .pipe, .slots, .quant, .power, .tally, .secure, .crown, .peer, .observe, .log, .pins, .out, .noticeSeq, .fresh] F = true) : Acts F S (bootSequence s b) := by
  refine Acts.step h ?_ hs
  unfold bootSequence
  repeat' (first
    | with_reducible assumption
    | decide
    | with_reducible exact Acts.refl _ _
    | with_reducible refine resetNvm_acts  ?_ ?_
    | with_reducible refine bootFrom_acts _ _ ?_ ?_
    | with_reducible refine wrB_acts _ _ ?_ ?_
    | with_reducible refine wr_acts _ _ ?_ ?_
    | with_reducible refine keepFaults_acts _ ?_ ?_
    | with_reducible refine raise_acts _ _ ?_ ?_
    | (with_reducible refine finishBoot_acts _ ?_ ?_; first | with_reducible exact Acts.refl _ _ | with_reducible refine bootFrom_acts _ _ ?_ ?_ | (with_reducible refine Acts.fstMk ?_; with_reducible refine resetNvm_acts ?_ ?_))
    | (with_reducible refine finishBoot_acts _ (resetNvm_acts (Acts.refl _ _) rfl) ?_)
    | with_reducible refine Acts.iteStep ?_ (fun _ => ?_)
    | with_reducible refine Acts.foldl ?_ (fun _ _ _ => ?_)
    | with_reducible refine Acts.fstIte ?_ ?_
    | with_reducible refine Acts.ofFst (by assumption) ?_
    | dsimp -proj only
    | (with_reducible refine Acts.fstMk ?_; first | with_reducible assumption | with_reducible exact Acts.refl _ _ | with_reducible refine resetNvm_acts  ?_ ?_ | with_reducible refine bootFrom_acts _ _ ?_ ?_ | with_reducible refine wrB_acts _ _ ?_ ?_ | with_reducible refine wr_acts _ _ ?_ ?_ | with_reducible refine keepFaults_acts _ ?_ ?_ | with_reducible refine raise_acts _ _ ?_ ?_ | (with_reducible refine finishBoot_acts _ ?_ ?_; first | with_reducible exact Acts.refl _ _ | with_reducible refine bootFrom_acts _ _ ?_ ?_ | (with_reducible refine Acts.fstMk ?_; with_reducible refine resetNvm_acts ?_ ?_)) | (with_reducible refine finishBoot_acts _ (resetNvm_acts (Acts.refl _ _) rfl) ?_) | with_reducible refine Acts.iteStep ?_ (fun _ => ?_) | with_reducible refine Acts.foldl ?_ (fun _ _ _ => ?_) | with_reducible refine Acts.fstIte ?_ ?_ | with_reducible refine Acts.ofFst (by assumption) ?_)
    | split)

theorem execColdStart_acts {F : List Part} {S : State} (b : Sys2Proof.BootInput) {s : State} (h : Acts F S s)
    (hs : subParts [.regs, .dial, .sched, .ports, .front, .flow, .endpoint, .queue, .pipe, .slots, .quant, .power, .tally, .secure, .crown, .peer, .observe, .log, .pins, .out, .noticeSeq, .fresh] F = true) : ActsNext F S (execColdStart b s) := by
  refine ActsNext.step h ?_ hs
  unfold execColdStart
  repeat' (first
    | with_reducible assumption
    | decide
    | with_reducible exact Acts.refl _ _
    | with_reducible refine bootSequence_acts _ ?_ ?_
    | with_reducible refine bootStep1_acts _ ?_ ?_
    | with_reducible refine Acts.iteStep ?_ (fun _ => ?_)
    | with_reducible refine Acts.foldl ?_ (fun _ _ _ => ?_)
    | with_reducible refine ActsNext.next ?_
    | with_reducible refine ActsNext.ite ?_ ?_
    | dsimp -proj only
    | split)

theorem reset_rest_ok : SchedOk SchedSt.reset ∧ TallyOk TallySt.reset ∧ CrownOk CrownSt.reset ∧ PeerOk PeerSt.reset ∧
    ObserveOk ObserveSt.reset ∧ LogOk LogSt.reset :=
  ⟨rfl, Nat.zero_le _, Nat.zero_le _, ⟨rfl, Nat.zero_le _⟩, ⟨rfl, Nat.zero_le _, Nat.zero_le _⟩, Nat.zero_le _⟩

theorem execColdReset_acts {F : List Part} {S : State} {s : State} (h : Acts F S s) (hs : subParts [.regs, .dial, .sched, .ports, .front, .flow, .endpoint, .queue, .pipe, .slots, .quant, .power, .tally, .secure, .crown, .peer, .observe, .log, .pins, .hbm, .noticeSeq, .fresh] F = true) :
    ActsNext F S (execColdReset s) := by
  refine ActsNext.step h ?_ hs
  obtain ⟨h1, h2, h3, h4, h5, h6⟩ := reset_rest_ok
  unfold execColdReset
  refine ActsNext.next (Acts.foldl ⟨fun p hp => ?_, fun _ => ?_⟩ fun _ _ k => wr_acts _ _ k (by decide))
  · cases p <;> first | rfl | exact absurd hp (by decide)
  · exact ⟨rfl, h1, List.length_replicate, Nat.zero_le _, List.length_replicate, h2, h3, h4, h5, h6, rfl⟩


theorem abandonSwaps_acts {F : List Part} {S : State}  {s : State} (h : Acts F S s)
    (hs : subParts [.regs, .slots, .quant] F = true) : Acts F S (abandonSwaps s) := by
  refine Acts.step h ?_ hs
  unfold abandonSwaps
  repeat' (first
    | with_reducible assumption
    | decide
    | with_reducible exact Acts.refl _ _
    | with_reducible refine showSlot_acts _ _ ?_ ?_
    | with_reducible refine Acts.iteStep ?_ (fun _ => ?_)
    | with_reducible refine Acts.foldl ?_ (fun _ _ _ => ?_)
    | dsimp -proj only
    | (with_reducible refine Acts.set_slots_quant ?_ ?_ ?_ ?_; first | with_reducible assumption | with_reducible exact Acts.refl _ _ | with_reducible refine showSlot_acts _ _ ?_ ?_ | with_reducible refine Acts.iteStep ?_ (fun _ => ?_) | with_reducible refine Acts.foldl ?_ (fun _ _ _ => ?_))
    | split
    | (generalize State.slots _ = y; intro h; simpa only [SlotsOk, modAt_length, List.length_map, List.length_zipIdx] using h)
    | (exact fun _ => rfl)
    | (intro k; rw [List.length_map]; exact k)
    | (exact fun h => Mem.wf_writeBytes _ _ h)
    | (exact fun h => Mem.wf_write _ _ h)
    | (intro _; exact Nat.zero_le _)
    | with_reducible with_reducible exact fun h => h
    | (intro h; rw [modAt_length]; exact h))

theorem endSampling_acts {F : List Part} {S : State}  {s : State} (h : Acts F S s)
    (hs : subParts [.regs, .observe, .hbm] F = true) : Acts F S (endSampling s) := by
  refine Acts.step h ?_ hs
  unfold endSampling
  repeat' (first
    | with_reducible assumption
    | decide
    | with_reducible exact Acts.refl _ _
    | with_reducible refine writeSample_acts _ ?_ ?_
    | with_reducible refine wrB_acts _ _ ?_ ?_
    | with_reducible refine Acts.iteStep ?_ (fun _ => ?_)
    | with_reducible refine Acts.foldl ?_ (fun _ _ _ => ?_)
    | dsimp -proj only
    | (with_reducible refine Acts.set_observe ?_ ?_ ?_; first | with_reducible assumption | with_reducible exact Acts.refl _ _ | with_reducible refine writeSample_acts _ ?_ ?_ | with_reducible refine wrB_acts _ _ ?_ ?_ | with_reducible refine Acts.iteStep ?_ (fun _ => ?_) | with_reducible refine Acts.foldl ?_ (fun _ _ _ => ?_))
    | split
    | with_reducible exact ObserveOk.keep_runSeq _ _
    | (exact fun _ => rfl)
    | (intro k; rw [List.length_map]; exact k)
    | (exact fun h => Mem.wf_writeBytes _ _ h)
    | (exact fun h => Mem.wf_write _ _ h)
    | (intro _; exact Nat.zero_le _)
    | with_reducible with_reducible exact fun h => h
    | (intro h; rw [modAt_length]; exact h))

theorem beginRestart_acts {F : List Part} {S : State}  {s : State} (h : Acts F S s)
    (hs : subParts [.regs, .sched, .pipe, .slots, .quant, .tally, .secure, .observe, .log, .pins, .hbm] F = true) : Acts F S (beginRestart s) := by
  refine Acts.step h ?_ hs
  unfold beginRestart
  repeat' (first
    | with_reducible assumption
    | decide
    | with_reducible exact Acts.refl _ _
    | with_reducible refine wrB_acts _ _ ?_ ?_
    | with_reducible refine bump_acts _ _ ?_ ?_
    | with_reducible refine wr_acts _ _ ?_ ?_
    | with_reducible refine endSampling_acts  ?_ ?_
    | with_reducible refine abandonSwaps_acts  ?_ ?_
    | with_reducible refine Acts.iteStep ?_ (fun _ => ?_)
    | with_reducible refine Acts.foldl ?_ (fun _ _ _ => ?_)
    | dsimp -proj only
    | (with_reducible refine Acts.set_sched_pipe_tally_secure_log_pins ?_ ?_ ?_ ?_ ?_ ?_ ?_ ?_ ?_ ?_ ?_; first | with_reducible assumption | with_reducible exact Acts.refl _ _ | with_reducible refine wrB_acts _ _ ?_ ?_ | with_reducible refine bump_acts _ _ ?_ ?_ | with_reducible refine wr_acts _ _ ?_ ?_ | with_reducible refine endSampling_acts  ?_ ?_ | with_reducible refine abandonSwaps_acts  ?_ ?_ | with_reducible refine Acts.iteStep ?_ (fun _ => ?_) | with_reducible refine Acts.foldl ?_ (fun _ _ _ => ?_))
    | split
    | with_reducible exact SchedOk.keep_admitting_restart _ _ _
    | with_reducible exact PipeOk.keep_batches _ _
    | with_reducible exact TallyOk.keep_restartNow _ _
    | with_reducible exact LogOk.keep_warmRestarts _ _
    | (exact fun _ => rfl)
    | (intro k; rw [List.length_map]; exact k)
    | (exact fun h => Mem.wf_writeBytes _ _ h)
    | (exact fun h => Mem.wf_write _ _ h)
    | (intro _; exact Nat.zero_le _)
    | with_reducible with_reducible exact fun h => h
    | (intro h; rw [modAt_length]; exact h))

theorem execWarmRestartBegin_acts {F : List Part} {S : State}  {s : State} (h : Acts F S s)
    (hs : subParts [.regs, .dial, .sched, .ports, .front, .flow, .endpoint, .queue, .pipe, .slots, .quant, .power, .tally, .secure, .observe, .log, .pins, .hbm, .noticeSeq] F = true) : ActsNext F S (execWarmRestartBegin s) := by
  refine ActsNext.step h ?_ hs
  unfold execWarmRestartBegin
  repeat' (first
    | with_reducible assumption
    | decide
    | with_reducible exact Acts.refl _ _
    | with_reducible refine advanceTo_acts _ ?_ ?_
    | with_reducible refine beginRestart_acts  ?_ ?_
    | with_reducible refine Acts.iteStep ?_ (fun _ => ?_)
    | with_reducible refine Acts.foldl ?_ (fun _ _ _ => ?_)
    | with_reducible refine ActsNext.next ?_
    | with_reducible refine ActsNext.ite ?_ ?_
    | dsimp -proj only
    | split)

theorem LogSt.mark_ok {l : LogSt} (k : Nat) (h : LogOk l) : LogOk (l.mark k) := by
  unfold LogSt.mark
  dsimp only
  split <;> exact h

theorem LogSt.marks_ok {l : LogSt} (ks : List Nat) (h : LogOk l) : LogOk (ks.foldl LogSt.mark l) := by
  induction ks generalizing l with
  | nil => exact h
  | cons k ks ih => exact ih (LogSt.mark_ok k h)

theorem markFailed_acts {F : List Part} {S : State}  {s : State} (h : Acts F S s)
    (hs : subParts [.regs, .sched, .ports, .queue, .power, .peer, .observe, .log, .noticeSeq] F = true) : Acts F S (markFailed s) := by
  refine Acts.step h ?_ hs
  unfold markFailed
  repeat' (first
    | with_reducible assumption
    | decide
    | with_reducible exact Acts.refl _ _
    | with_reducible refine showLog_acts  ?_ ?_
    | with_reducible refine switchPd_acts _ _ ?_ ?_
    | with_reducible refine Acts.iteStep ?_ (fun _ => ?_)
    | with_reducible refine Acts.foldl ?_ (fun _ _ _ => ?_)
    | dsimp -proj only
    | (with_reducible refine Acts.set_sched_observe_log ?_ ?_ ?_ ?_ ?_ ?_ ?_; first | with_reducible assumption | with_reducible exact Acts.refl _ _ | with_reducible refine showLog_acts  ?_ ?_ | with_reducible refine switchPd_acts _ _ ?_ ?_ | with_reducible refine Acts.iteStep ?_ (fun _ => ?_) | with_reducible refine Acts.foldl ?_ (fun _ _ _ => ?_))
    | split
    | (exact fun h => LogSt.marks_ok _ h)
    | with_reducible exact SchedOk.keep_workShape _ _
    | with_reducible exact ObserveOk.keep_failing _ _
    | with_reducible exact LogOk.keep_failedEvents_due _ _ _
    | (exact fun _ => rfl)
    | (intro k; rw [List.length_map]; exact k)
    | (exact fun h => Mem.wf_writeBytes _ _ h)
    | (exact fun h => Mem.wf_write _ _ h)
    | (intro _; exact Nat.zero_le _)
    | with_reducible with_reducible exact fun h => h
    | (intro h; rw [modAt_length]; exact h))

theorem restartRegs_ok {m : Map Nat} (h : RegsOk m) : RegsOk (restartRegs m) := Map.sorted_filter _ h

theorem restartRegisters_acts {F : List Part} {S : State}  {s : State} (h : Acts F S s)
    (hs : subParts [.regs] F = true) : Acts F S (restartRegisters s) := by
  refine Acts.step h ?_ hs
  unfold restartRegisters
  repeat' (first
    | with_reducible assumption
    | decide
    | with_reducible exact Acts.refl _ _
    | with_reducible refine refreshTemp_acts  ?_ ?_
    | with_reducible refine wr_acts _ _ ?_ ?_
    | with_reducible refine Acts.iteStep ?_ (fun _ => ?_)
    | with_reducible refine Acts.foldl ?_ (fun _ _ _ => ?_)
    | dsimp -proj only
    | (with_reducible refine Acts.set_regs ?_ ?_ ?_; first | with_reducible assumption | with_reducible exact Acts.refl _ _ | with_reducible refine refreshTemp_acts  ?_ ?_ | with_reducible refine wr_acts _ _ ?_ ?_ | with_reducible refine Acts.iteStep ?_ (fun _ => ?_) | with_reducible refine Acts.foldl ?_ (fun _ _ _ => ?_))
    | split
    | with_reducible exact restartRegs_ok
    | (intro h; simpa [RegsOk] using h)
    | (exact fun _ => rfl)
    | (intro k; rw [List.length_map]; exact k)
    | (exact fun h => Mem.wf_writeBytes _ _ h)
    | (exact fun h => Mem.wf_write _ _ h)
    | (intro _; exact Nat.zero_le _)
    | with_reducible with_reducible exact fun h => h
    | (intro h; rw [modAt_length]; exact h))

theorem restartPorts_acts {F : List Part} {S : State}  {s : State} (h : Acts F S s)
    (hs : subParts [.ports] F = true) : Acts F S (restartPorts s) := by
  refine Acts.step h ?_ hs
  unfold restartPorts
  repeat' (first
    | with_reducible assumption
    | decide
    | with_reducible exact Acts.refl _ _
    | with_reducible refine Acts.iteStep ?_ (fun _ => ?_)
    | with_reducible refine Acts.foldl ?_ (fun _ _ _ => ?_)
    | dsimp -proj only
    | (with_reducible refine Acts.set_ports ?_ ?_ ?_; first | with_reducible assumption | with_reducible exact Acts.refl _ _ | with_reducible refine Acts.iteStep ?_ (fun _ => ?_) | with_reducible refine Acts.foldl ?_ (fun _ _ _ => ?_))
    | split
    | (generalize State.ports _ = y; intro h; simpa only [PortsOk, modAt_length, List.length_map, List.length_zipIdx] using h)
    | (exact fun _ => rfl)
    | (intro k; rw [List.length_map]; exact k)
    | (exact fun h => Mem.wf_writeBytes _ _ h)
    | (exact fun h => Mem.wf_write _ _ h)
    | (intro _; exact Nat.zero_le _)
    | with_reducible with_reducible exact fun h => h
    | (intro h; rw [modAt_length]; exact h))

theorem restartLinks_acts {F : List Part} {S : State}  {s : State} (h : Acts F S s)
    (hs : subParts [.regs, .queue, .power, .peer, .observe, .noticeSeq] F = true) : Acts F S (restartLinks s) := by
  refine Acts.step h ?_ hs
  unfold restartLinks
  repeat' (first
    | with_reducible assumption
    | decide
    | with_reducible exact Acts.refl _ _
    | with_reducible refine applyPeerConfig_acts  ?_ ?_
    | with_reducible refine Acts.iteStep ?_ (fun _ => ?_)
    | with_reducible refine Acts.foldl ?_ (fun _ _ _ => ?_)
    | dsimp -proj only
    | (with_reducible refine Acts.set_peer ?_ ?_ ?_; first | with_reducible assumption | with_reducible exact Acts.refl _ _ | with_reducible refine applyPeerConfig_acts  ?_ ?_ | with_reducible refine Acts.iteStep ?_ (fun _ => ?_) | with_reducible refine Acts.foldl ?_ (fun _ _ _ => ?_))
    | split
    | with_reducible refine PeerOk.keep_links _ _ ?_
    | (intro h; simpa only [modAt_length, List.length_map, List.length_zipIdx] using h)
    | (exact fun _ => rfl)
    | (intro k; rw [List.length_map]; exact k)
    | (exact fun h => Mem.wf_writeBytes _ _ h)
    | (exact fun h => Mem.wf_write _ _ h)
    | (intro _; exact Nat.zero_le _)
    | with_reducible with_reducible exact fun h => h
    | (intro h; rw [modAt_length]; exact h))

theorem restartSlots_ok {l : List SlotSt} (h : SlotsOk l) : SlotsOk (restartSlots l) := by
  unfold SlotsOk restartSlots at *
  rw [List.length_map]
  exact h

theorem emptyForRestart_acts {F : List Part} {S : State}  {s : State} (h : Acts F S s)
    (hs : subParts [.regs, .ports, .front, .queue, .pipe, .slots, .quant, .power, .tally, .secure, .crown, .peer, .observe, .out, .noticeSeq, .fresh] F = true) : Acts F S (emptyForRestart s) := by
  refine Acts.step h ?_ hs
  unfold emptyForRestart
  repeat' (first
    | with_reducible assumption
    | decide
    | with_reducible exact Acts.refl _ _
    | with_reducible refine abortAllJobs_acts  ?_ ?_
    | with_reducible refine restartQueues_acts  ?_ ?_
    | with_reducible refine enableDataPath_acts _ ?_ ?_
    | with_reducible refine restartRegisters_acts  ?_ ?_
    | with_reducible refine showSlot_acts _ _ ?_ ?_
    | with_reducible refine showCrown_acts  ?_ ?_
    | with_reducible refine showPair_acts  ?_ ?_
    | with_reducible refine loadTableKeys_acts _ ?_ ?_
    | with_reducible refine loadFront_acts _ ?_ ?_
    | with_reducible refine restartPorts_acts  ?_ ?_
    | with_reducible refine restartLinks_acts  ?_ ?_
    | with_reducible refine Acts.iteStep ?_ (fun _ => ?_)
    | with_reducible refine Acts.foldl ?_ (fun _ _ _ => ?_)
    | dsimp -proj only
    | (with_reducible refine Acts.set_crown ?_ ?_ ?_; first | with_reducible assumption | with_reducible exact Acts.refl _ _ | with_reducible refine abortAllJobs_acts  ?_ ?_ | with_reducible refine restartQueues_acts  ?_ ?_ | with_reducible refine enableDataPath_acts _ ?_ ?_ | with_reducible refine restartRegisters_acts  ?_ ?_ | with_reducible refine showSlot_acts _ _ ?_ ?_ | with_reducible refine showCrown_acts  ?_ ?_ | with_reducible refine showPair_acts  ?_ ?_ | with_reducible refine loadTableKeys_acts _ ?_ ?_ | with_reducible refine loadFront_acts _ ?_ ?_ | with_reducible refine restartPorts_acts  ?_ ?_ | with_reducible refine restartLinks_acts  ?_ ?_ | with_reducible refine Acts.iteStep ?_ (fun _ => ?_) | with_reducible refine Acts.foldl ?_ (fun _ _ _ => ?_))
    | (with_reducible refine Acts.set_front_pipe_slots_quant_power_peer_observe ?_ ?_ ?_ ?_ ?_ ?_ ?_ ?_ ?_ ?_ ?_ ?_; first | with_reducible assumption | with_reducible exact Acts.refl _ _ | with_reducible refine abortAllJobs_acts  ?_ ?_ | with_reducible refine restartQueues_acts  ?_ ?_ | with_reducible refine enableDataPath_acts _ ?_ ?_ | with_reducible refine restartRegisters_acts  ?_ ?_ | with_reducible refine showSlot_acts _ _ ?_ ?_ | with_reducible refine showCrown_acts  ?_ ?_ | with_reducible refine showPair_acts  ?_ ?_ | with_reducible refine loadTableKeys_acts _ ?_ ?_ | with_reducible refine loadFront_acts _ ?_ ?_ | with_reducible refine restartPorts_acts  ?_ ?_ | with_reducible refine restartLinks_acts  ?_ ?_ | with_reducible refine Acts.iteStep ?_ (fun _ => ?_) | with_reducible refine Acts.foldl ?_ (fun _ _ _ => ?_))
    | (with_reducible refine Acts.set_secure ?_ ?_; first | with_reducible assumption | with_reducible exact Acts.refl _ _ | with_reducible refine abortAllJobs_acts  ?_ ?_ | with_reducible refine restartQueues_acts  ?_ ?_ | with_reducible refine enableDataPath_acts _ ?_ ?_ | with_reducible refine restartRegisters_acts  ?_ ?_ | with_reducible refine showSlot_acts _ _ ?_ ?_ | with_reducible refine showCrown_acts  ?_ ?_ | with_reducible refine showPair_acts  ?_ ?_ | with_reducible refine loadTableKeys_acts _ ?_ ?_ | with_reducible refine loadFront_acts _ ?_ ?_ | with_reducible refine restartPorts_acts  ?_ ?_ | with_reducible refine restartLinks_acts  ?_ ?_ | with_reducible refine Acts.iteStep ?_ (fun _ => ?_) | with_reducible refine Acts.foldl ?_ (fun _ _ _ => ?_))
    | (with_reducible refine Acts.set_crown ?_ ?_ ?_; first | with_reducible assumption | with_reducible exact Acts.refl _ _ | with_reducible refine abortAllJobs_acts  ?_ ?_ | with_reducible refine restartQueues_acts  ?_ ?_ | with_reducible refine enableDataPath_acts _ ?_ ?_ | with_reducible refine restartRegisters_acts  ?_ ?_ | with_reducible refine showSlot_acts _ _ ?_ ?_ | with_reducible refine showCrown_acts  ?_ ?_ | with_reducible refine showPair_acts  ?_ ?_ | with_reducible refine loadTableKeys_acts _ ?_ ?_ | with_reducible refine loadFront_acts _ ?_ ?_ | with_reducible refine restartPorts_acts  ?_ ?_ | with_reducible refine restartLinks_acts  ?_ ?_ | with_reducible refine Acts.iteStep ?_ (fun _ => ?_) | with_reducible refine Acts.foldl ?_ (fun _ _ _ => ?_) | (with_reducible refine Acts.set_crown ?_ ?_ ?_; first | with_reducible assumption | with_reducible exact Acts.refl _ _ | with_reducible refine abortAllJobs_acts  ?_ ?_ | with_reducible refine restartQueues_acts  ?_ ?_ | with_reducible refine enableDataPath_acts _ ?_ ?_ | with_reducible refine restartRegisters_acts  ?_ ?_ | with_reducible refine showSlot_acts _ _ ?_ ?_ | with_reducible refine showCrown_acts  ?_ ?_ | with_reducible refine showPair_acts  ?_ ?_ | with_reducible refine loadTableKeys_acts _ ?_ ?_ | with_reducible refine loadFront_acts _ ?_ ?_ | with_reducible refine restartPorts_acts  ?_ ?_ | with_reducible refine restartLinks_acts  ?_ ?_ | with_reducible refine Acts.iteStep ?_ (fun _ => ?_) | with_reducible refine Acts.foldl ?_ (fun _ _ _ => ?_)) | (with_reducible refine Acts.set_front_pipe_slots_quant_power_peer_observe ?_ ?_ ?_ ?_ ?_ ?_ ?_ ?_ ?_ ?_ ?_ ?_; first | with_reducible assumption | with_reducible exact Acts.refl _ _ | with_reducible refine abortAllJobs_acts  ?_ ?_ | with_reducible refine restartQueues_acts  ?_ ?_ | with_reducible refine enableDataPath_acts _ ?_ ?_ | with_reducible refine restartRegisters_acts  ?_ ?_ | with_reducible refine showSlot_acts _ _ ?_ ?_ | with_reducible refine showCrown_acts  ?_ ?_ | with_reducible refine showPair_acts  ?_ ?_ | with_reducible refine loadTableKeys_acts _ ?_ ?_ | with_reducible refine loadFront_acts _ ?_ ?_ | with_reducible refine restartPorts_acts  ?_ ?_ | with_reducible refine restartLinks_acts  ?_ ?_ | with_reducible refine Acts.iteStep ?_ (fun _ => ?_) | with_reducible refine Acts.foldl ?_ (fun _ _ _ => ?_)) | (with_reducible refine Acts.set_secure ?_ ?_; first | with_reducible assumption | with_reducible exact Acts.refl _ _ | with_reducible refine abortAllJobs_acts  ?_ ?_ | with_reducible refine restartQueues_acts  ?_ ?_ | with_reducible refine enableDataPath_acts _ ?_ ?_ | with_reducible refine restartRegisters_acts  ?_ ?_ | with_reducible refine showSlot_acts _ _ ?_ ?_ | with_reducible refine showCrown_acts  ?_ ?_ | with_reducible refine showPair_acts  ?_ ?_ | with_reducible refine loadTableKeys_acts _ ?_ ?_ | with_reducible refine loadFront_acts _ ?_ ?_ | with_reducible refine restartPorts_acts  ?_ ?_ | with_reducible refine restartLinks_acts  ?_ ?_ | with_reducible refine Acts.iteStep ?_ (fun _ => ?_) | with_reducible refine Acts.foldl ?_ (fun _ _ _ => ?_)))
    | (with_reducible refine Acts.set_front_pipe_slots_quant_power_peer_observe ?_ ?_ ?_ ?_ ?_ ?_ ?_ ?_ ?_ ?_ ?_ ?_; first | with_reducible assumption | with_reducible exact Acts.refl _ _ | with_reducible refine abortAllJobs_acts  ?_ ?_ | with_reducible refine restartQueues_acts  ?_ ?_ | with_reducible refine enableDataPath_acts _ ?_ ?_ | with_reducible refine restartRegisters_acts  ?_ ?_ | with_reducible refine showSlot_acts _ _ ?_ ?_ | with_reducible refine showCrown_acts  ?_ ?_ | with_reducible refine showPair_acts  ?_ ?_ | with_reducible refine loadTableKeys_acts _ ?_ ?_ | with_reducible refine loadFront_acts _ ?_ ?_ | with_reducible refine restartPorts_acts  ?_ ?_ | with_reducible refine restartLinks_acts  ?_ ?_ | with_reducible refine Acts.iteStep ?_ (fun _ => ?_) | with_reducible refine Acts.foldl ?_ (fun _ _ _ => ?_) | (with_reducible refine Acts.set_crown ?_ ?_ ?_; first | with_reducible assumption | with_reducible exact Acts.refl _ _ | with_reducible refine abortAllJobs_acts  ?_ ?_ | with_reducible refine restartQueues_acts  ?_ ?_ | with_reducible refine enableDataPath_acts _ ?_ ?_ | with_reducible refine restartRegisters_acts  ?_ ?_ | with_reducible refine showSlot_acts _ _ ?_ ?_ | with_reducible refine showCrown_acts  ?_ ?_ | with_reducible refine showPair_acts  ?_ ?_ | with_reducible refine loadTableKeys_acts _ ?_ ?_ | with_reducible refine loadFront_acts _ ?_ ?_ | with_reducible refine restartPorts_acts  ?_ ?_ | with_reducible refine restartLinks_acts  ?_ ?_ | with_reducible refine Acts.iteStep ?_ (fun _ => ?_) | with_reducible refine Acts.foldl ?_ (fun _ _ _ => ?_)) | (with_reducible refine Acts.set_front_pipe_slots_quant_power_peer_observe ?_ ?_ ?_ ?_ ?_ ?_ ?_ ?_ ?_ ?_ ?_ ?_; first | with_reducible assumption | with_reducible exact Acts.refl _ _ | with_reducible refine abortAllJobs_acts  ?_ ?_ | with_reducible refine restartQueues_acts  ?_ ?_ | with_reducible refine enableDataPath_acts _ ?_ ?_ | with_reducible refine restartRegisters_acts  ?_ ?_ | with_reducible refine showSlot_acts _ _ ?_ ?_ | with_reducible refine showCrown_acts  ?_ ?_ | with_reducible refine showPair_acts  ?_ ?_ | with_reducible refine loadTableKeys_acts _ ?_ ?_ | with_reducible refine loadFront_acts _ ?_ ?_ | with_reducible refine restartPorts_acts  ?_ ?_ | with_reducible refine restartLinks_acts  ?_ ?_ | with_reducible refine Acts.iteStep ?_ (fun _ => ?_) | with_reducible refine Acts.foldl ?_ (fun _ _ _ => ?_)) | (with_reducible refine Acts.set_secure ?_ ?_; first | with_reducible assumption | with_reducible exact Acts.refl _ _ | with_reducible refine abortAllJobs_acts  ?_ ?_ | with_reducible refine restartQueues_acts  ?_ ?_ | with_reducible refine enableDataPath_acts _ ?_ ?_ | with_reducible refine restartRegisters_acts  ?_ ?_ | with_reducible refine showSlot_acts _ _ ?_ ?_ | with_reducible refine showCrown_acts  ?_ ?_ | with_reducible refine showPair_acts  ?_ ?_ | with_reducible refine loadTableKeys_acts _ ?_ ?_ | with_reducible refine loadFront_acts _ ?_ ?_ | with_reducible refine restartPorts_acts  ?_ ?_ | with_reducible refine restartLinks_acts  ?_ ?_ | with_reducible refine Acts.iteStep ?_ (fun _ => ?_) | with_reducible refine Acts.foldl ?_ (fun _ _ _ => ?_)))
    | (with_reducible refine Acts.set_secure ?_ ?_; first | with_reducible assumption | with_reducible exact Acts.refl _ _ | with_reducible refine abortAllJobs_acts  ?_ ?_ | with_reducible refine restartQueues_acts  ?_ ?_ | with_reducible refine enableDataPath_acts _ ?_ ?_ | with_reducible refine restartRegisters_acts  ?_ ?_ | with_reducible refine showSlot_acts _ _ ?_ ?_ | with_reducible refine showCrown_acts  ?_ ?_ | with_reducible refine showPair_acts  ?_ ?_ | with_reducible refine loadTableKeys_acts _ ?_ ?_ | with_reducible refine loadFront_acts _ ?_ ?_ | with_reducible refine restartPorts_acts  ?_ ?_ | with_reducible refine restartLinks_acts  ?_ ?_ | with_reducible refine Acts.iteStep ?_ (fun _ => ?_) | with_reducible refine Acts.foldl ?_ (fun _ _ _ => ?_) | (with_reducible refine Acts.set_crown ?_ ?_ ?_; first | with_reducible assumption | with_reducible exact Acts.refl _ _ | with_reducible refine abortAllJobs_acts  ?_ ?_ | with_reducible refine restartQueues_acts  ?_ ?_ | with_reducible refine enableDataPath_acts _ ?_ ?_ | with_reducible refine restartRegisters_acts  ?_ ?_ | with_reducible refine showSlot_acts _ _ ?_ ?_ | with_reducible refine showCrown_acts  ?_ ?_ | with_reducible refine showPair_acts  ?_ ?_ | with_reducible refine loadTableKeys_acts _ ?_ ?_ | with_reducible refine loadFront_acts _ ?_ ?_ | with_reducible refine restartPorts_acts  ?_ ?_ | with_reducible refine restartLinks_acts  ?_ ?_ | with_reducible refine Acts.iteStep ?_ (fun _ => ?_) | with_reducible refine Acts.foldl ?_ (fun _ _ _ => ?_)) | (with_reducible refine Acts.set_front_pipe_slots_quant_power_peer_observe ?_ ?_ ?_ ?_ ?_ ?_ ?_ ?_ ?_ ?_ ?_ ?_; first | with_reducible assumption | with_reducible exact Acts.refl _ _ | with_reducible refine abortAllJobs_acts  ?_ ?_ | with_reducible refine restartQueues_acts  ?_ ?_ | with_reducible refine enableDataPath_acts _ ?_ ?_ | with_reducible refine restartRegisters_acts  ?_ ?_ | with_reducible refine showSlot_acts _ _ ?_ ?_ | with_reducible refine showCrown_acts  ?_ ?_ | with_reducible refine showPair_acts  ?_ ?_ | with_reducible refine loadTableKeys_acts _ ?_ ?_ | with_reducible refine loadFront_acts _ ?_ ?_ | with_reducible refine restartPorts_acts  ?_ ?_ | with_reducible refine restartLinks_acts  ?_ ?_ | with_reducible refine Acts.iteStep ?_ (fun _ => ?_) | with_reducible refine Acts.foldl ?_ (fun _ _ _ => ?_)) | (with_reducible refine Acts.set_secure ?_ ?_; first | with_reducible assumption | with_reducible exact Acts.refl _ _ | with_reducible refine abortAllJobs_acts  ?_ ?_ | with_reducible refine restartQueues_acts  ?_ ?_ | with_reducible refine enableDataPath_acts _ ?_ ?_ | with_reducible refine restartRegisters_acts  ?_ ?_ | with_reducible refine showSlot_acts _ _ ?_ ?_ | with_reducible refine showCrown_acts  ?_ ?_ | with_reducible refine showPair_acts  ?_ ?_ | with_reducible refine loadTableKeys_acts _ ?_ ?_ | with_reducible refine loadFront_acts _ ?_ ?_ | with_reducible refine restartPorts_acts  ?_ ?_ | with_reducible refine restartLinks_acts  ?_ ?_ | with_reducible refine Acts.iteStep ?_ (fun _ => ?_) | with_reducible refine Acts.foldl ?_ (fun _ _ _ => ?_)))
    | split
    | with_reducible exact restartSlots_ok
    | with_reducible refine PipeOk.keep_batches_flights _ _ _ ?_
    | with_reducible exact CrownOk.keep_captures _ _
    | with_reducible exact PeerOk.keep_distTx_distRx _ _ _
    | with_reducible exact ObserveOk.keep_dumpOpen_hangs _ _ _
    | (generalize State.slots _ = y; intro h; simpa only [SlotsOk, modAt_length, List.length_map, List.length_zipIdx] using h)
    | (exact fun _ => rfl)
    | (intro k; rw [List.length_map]; exact k)
    | (exact fun h => Mem.wf_writeBytes _ _ h)
    | (exact fun h => Mem.wf_write _ _ h)
    | (intro _; exact Nat.zero_le _)
    | with_reducible with_reducible exact fun h => h
    | (intro h; rw [modAt_length]; exact h))

theorem stopTrace_acts {F : List Part} {S : State}  {s : State} (h : Acts F S s)
    (hs : subParts [.regs, .queue, .observe, .noticeSeq] F = true) : Acts F S (stopTrace s) := by
  refine Acts.step h ?_ hs
  unfold stopTrace
  repeat' (first
    | with_reducible assumption
    | decide
    | with_reducible exact Acts.refl _ _
    | with_reducible refine raise_acts _ _ ?_ ?_
    | with_reducible refine wrB_acts _ _ ?_ ?_
    | with_reducible refine Acts.iteStep ?_ (fun _ => ?_)
    | with_reducible refine Acts.foldl ?_ (fun _ _ _ => ?_)
    | dsimp -proj only
    | split)

theorem reload_acts {F : List Part} {S : State} (digestsMatch : Bool) {s : State} (h : Acts F S s)
    (hs : subParts [.regs, .sched, .front, .flow, .endpoint, .queue, .slots, .secure, .observe, .noticeSeq] F = true) : Acts F S (reload s digestsMatch).1 := by
  refine Acts.step h ?_ hs
  unfold reload
  repeat' (first
    | with_reducible assumption
    | decide
    | with_reducible exact Acts.refl _ _
    | with_reducible refine emptyTable_acts _ ?_ ?_
    | with_reducible refine bootStep9_acts  ?_ ?_
    | with_reducible refine Acts.iteStep ?_ (fun _ => ?_)
    | with_reducible refine Acts.foldl ?_ (fun _ _ _ => ?_)
    | with_reducible refine Acts.fstIte ?_ ?_
    | with_reducible refine Acts.ofFst (by assumption) ?_
    | dsimp -proj only
    | (with_reducible refine Acts.set_secure ?_ ?_; first | with_reducible assumption | with_reducible exact Acts.refl _ _ | with_reducible refine emptyTable_acts _ ?_ ?_ | with_reducible refine bootStep9_acts  ?_ ?_ | with_reducible refine Acts.iteStep ?_ (fun _ => ?_) | with_reducible refine Acts.foldl ?_ (fun _ _ _ => ?_) | with_reducible refine Acts.fstIte ?_ ?_ | with_reducible refine Acts.ofFst (by assumption) ?_)
    | (with_reducible refine Acts.set_secure ?_ ?_; first | with_reducible assumption | with_reducible exact Acts.refl _ _ | with_reducible refine emptyTable_acts _ ?_ ?_ | with_reducible refine bootStep9_acts  ?_ ?_ | with_reducible refine Acts.iteStep ?_ (fun _ => ?_) | with_reducible refine Acts.foldl ?_ (fun _ _ _ => ?_) | with_reducible refine Acts.fstIte ?_ ?_ | with_reducible refine Acts.ofFst (by assumption) ?_ | (with_reducible refine Acts.set_secure ?_ ?_; first | with_reducible assumption | with_reducible exact Acts.refl _ _ | with_reducible refine emptyTable_acts _ ?_ ?_ | with_reducible refine bootStep9_acts  ?_ ?_ | with_reducible refine Acts.iteStep ?_ (fun _ => ?_) | with_reducible refine Acts.foldl ?_ (fun _ _ _ => ?_) | with_reducible refine Acts.fstIte ?_ ?_ | with_reducible refine Acts.ofFst (by assumption) ?_))
    | (with_reducible refine Acts.fstMk ?_; first | with_reducible assumption | with_reducible exact Acts.refl _ _ | with_reducible refine emptyTable_acts _ ?_ ?_ | with_reducible refine bootStep9_acts  ?_ ?_ | with_reducible refine Acts.iteStep ?_ (fun _ => ?_) | with_reducible refine Acts.foldl ?_ (fun _ _ _ => ?_) | with_reducible refine Acts.fstIte ?_ ?_ | with_reducible refine Acts.ofFst (by assumption) ?_ | (with_reducible refine Acts.set_secure ?_ ?_; first | with_reducible assumption | with_reducible exact Acts.refl _ _ | with_reducible refine emptyTable_acts _ ?_ ?_ | with_reducible refine bootStep9_acts  ?_ ?_ | with_reducible refine Acts.iteStep ?_ (fun _ => ?_) | with_reducible refine Acts.foldl ?_ (fun _ _ _ => ?_) | with_reducible refine Acts.fstIte ?_ ?_ | with_reducible refine Acts.ofFst (by assumption) ?_))
    | split)

theorem drainEnded_acts {F : List Part} {S : State} (transient : Nat) (digestsMatch : Bool) {s : State} (h : Acts F S s)
    (hs : subParts [.regs, .dial, .sched, .ports, .front, .flow, .endpoint, .queue, .pipe, .slots, .quant, .power, .tally, .secure, .crown, .peer, .observe, .log, .pins, .out, .noticeSeq, .fresh] F = true) : Acts F S (drainEnded s transient digestsMatch) := by
  refine Acts.step h ?_ hs
  unfold drainEnded
  repeat' (first
    | with_reducible assumption
    | decide
    | with_reducible exact Acts.refl _ _
    | with_reducible refine flagEpoch_acts _ ?_ ?_
    | with_reducible refine markFailed_acts  ?_ ?_
    | with_reducible refine stopSchedule_acts  ?_ ?_
    | with_reducible refine applyDomains_acts _ ?_ ?_
    | with_reducible refine emptyForRestart_acts  ?_ ?_
    | with_reducible refine raiseIf_acts _ _ _ ?_ ?_
    | with_reducible refine bump_acts _ _ ?_ ?_
    | with_reducible refine nvmFaults_acts _ ?_ ?_
    | with_reducible refine reload_acts _ ?_ ?_
    | with_reducible refine nvmFault_acts _ ?_ ?_
    | with_reducible refine stopTrace_acts  ?_ ?_
    | with_reducible refine showExit_acts _ _ ?_ ?_
    | with_reducible refine wr_acts _ _ ?_ ?_
    | with_reducible refine Acts.iteStep ?_ (fun _ => ?_)
    | with_reducible refine Acts.foldl ?_ (fun _ _ _ => ?_)
    | with_reducible refine Acts.fstIte ?_ ?_
    | with_reducible refine Acts.ofFst (by assumption) ?_
    | dsimp -proj only
    | (with_reducible refine Acts.set_sched ?_ ?_ ?_; first | with_reducible assumption | with_reducible exact Acts.refl _ _ | with_reducible refine flagEpoch_acts _ ?_ ?_ | with_reducible refine markFailed_acts  ?_ ?_ | with_reducible refine stopSchedule_acts  ?_ ?_ | with_reducible refine applyDomains_acts _ ?_ ?_ | with_reducible refine emptyForRestart_acts  ?_ ?_ | with_reducible refine raiseIf_acts _ _ _ ?_ ?_ | with_reducible refine bump_acts _ _ ?_ ?_ | with_reducible refine nvmFaults_acts _ ?_ ?_ | with_reducible refine reload_acts _ ?_ ?_ | with_reducible refine nvmFault_acts _ ?_ ?_ | with_reducible refine stopTrace_acts  ?_ ?_ | with_reducible refine showExit_acts _ _ ?_ ?_ | with_reducible refine wr_acts _ _ ?_ ?_ | with_reducible refine Acts.iteStep ?_ (fun _ => ?_) | with_reducible refine Acts.foldl ?_ (fun _ _ _ => ?_) | with_reducible refine Acts.fstIte ?_ ?_ | with_reducible refine Acts.ofFst (by assumption) ?_)
    | (with_reducible refine Acts.set_sched ?_ ?_ ?_; first | with_reducible assumption | with_reducible exact Acts.refl _ _ | with_reducible refine flagEpoch_acts _ ?_ ?_ | with_reducible refine markFailed_acts  ?_ ?_ | with_reducible refine stopSchedule_acts  ?_ ?_ | with_reducible refine applyDomains_acts _ ?_ ?_ | with_reducible refine emptyForRestart_acts  ?_ ?_ | with_reducible refine raiseIf_acts _ _ _ ?_ ?_ | with_reducible refine bump_acts _ _ ?_ ?_ | with_reducible refine nvmFaults_acts _ ?_ ?_ | with_reducible refine reload_acts _ ?_ ?_ | with_reducible refine nvmFault_acts _ ?_ ?_ | with_reducible refine stopTrace_acts  ?_ ?_ | with_reducible refine showExit_acts _ _ ?_ ?_ | with_reducible refine wr_acts _ _ ?_ ?_ | with_reducible refine Acts.iteStep ?_ (fun _ => ?_) | with_reducible refine Acts.foldl ?_ (fun _ _ _ => ?_) | with_reducible refine Acts.fstIte ?_ ?_ | with_reducible refine Acts.ofFst (by assumption) ?_ | (with_reducible refine Acts.set_sched ?_ ?_ ?_; first | with_reducible assumption | with_reducible exact Acts.refl _ _ | with_reducible refine flagEpoch_acts _ ?_ ?_ | with_reducible refine markFailed_acts  ?_ ?_ | with_reducible refine stopSchedule_acts  ?_ ?_ | with_reducible refine applyDomains_acts _ ?_ ?_ | with_reducible refine emptyForRestart_acts  ?_ ?_ | with_reducible refine raiseIf_acts _ _ _ ?_ ?_ | with_reducible refine bump_acts _ _ ?_ ?_ | with_reducible refine nvmFaults_acts _ ?_ ?_ | with_reducible refine reload_acts _ ?_ ?_ | with_reducible refine nvmFault_acts _ ?_ ?_ | with_reducible refine stopTrace_acts  ?_ ?_ | with_reducible refine showExit_acts _ _ ?_ ?_ | with_reducible refine wr_acts _ _ ?_ ?_ | with_reducible refine Acts.iteStep ?_ (fun _ => ?_) | with_reducible refine Acts.foldl ?_ (fun _ _ _ => ?_) | with_reducible refine Acts.fstIte ?_ ?_ | with_reducible refine Acts.ofFst (by assumption) ?_))
    | (with_reducible refine Acts.fstMk ?_; first | with_reducible assumption | with_reducible exact Acts.refl _ _ | with_reducible refine flagEpoch_acts _ ?_ ?_ | with_reducible refine markFailed_acts  ?_ ?_ | with_reducible refine stopSchedule_acts  ?_ ?_ | with_reducible refine applyDomains_acts _ ?_ ?_ | with_reducible refine emptyForRestart_acts  ?_ ?_ | with_reducible refine raiseIf_acts _ _ _ ?_ ?_ | with_reducible refine bump_acts _ _ ?_ ?_ | with_reducible refine nvmFaults_acts _ ?_ ?_ | with_reducible refine reload_acts _ ?_ ?_ | with_reducible refine nvmFault_acts _ ?_ ?_ | with_reducible refine stopTrace_acts  ?_ ?_ | with_reducible refine showExit_acts _ _ ?_ ?_ | with_reducible refine wr_acts _ _ ?_ ?_ | with_reducible refine Acts.iteStep ?_ (fun _ => ?_) | with_reducible refine Acts.foldl ?_ (fun _ _ _ => ?_) | with_reducible refine Acts.fstIte ?_ ?_ | with_reducible refine Acts.ofFst (by assumption) ?_ | (with_reducible refine Acts.set_sched ?_ ?_ ?_; first | with_reducible assumption | with_reducible exact Acts.refl _ _ | with_reducible refine flagEpoch_acts _ ?_ ?_ | with_reducible refine markFailed_acts  ?_ ?_ | with_reducible refine stopSchedule_acts  ?_ ?_ | with_reducible refine applyDomains_acts _ ?_ ?_ | with_reducible refine emptyForRestart_acts  ?_ ?_ | with_reducible refine raiseIf_acts _ _ _ ?_ ?_ | with_reducible refine bump_acts _ _ ?_ ?_ | with_reducible refine nvmFaults_acts _ ?_ ?_ | with_reducible refine reload_acts _ ?_ ?_ | with_reducible refine nvmFault_acts _ ?_ ?_ | with_reducible refine stopTrace_acts  ?_ ?_ | with_reducible refine showExit_acts _ _ ?_ ?_ | with_reducible refine wr_acts _ _ ?_ ?_ | with_reducible refine Acts.iteStep ?_ (fun _ => ?_) | with_reducible refine Acts.foldl ?_ (fun _ _ _ => ?_) | with_reducible refine Acts.fstIte ?_ ?_ | with_reducible refine Acts.ofFst (by assumption) ?_))
    | split
    | with_reducible exact SchedOk.keep_chosen _ _
    | with_reducible exact SchedOk.keep_restart_genDue _ _ _
    | (exact fun _ => rfl)
    | (intro k; rw [List.length_map]; exact k)
    | (exact fun h => Mem.wf_writeBytes _ _ h)
    | (exact fun h => Mem.wf_write _ _ h)
    | (intro _; exact Nat.zero_le _)
    | with_reducible with_reducible exact fun h => h
    | (intro h; rw [modAt_length]; exact h))

theorem execRestartDrainEnd_acts {F : List Part} {S : State} (transient : Nat) (digestsMatch : Bool) {s : State} (h : Acts F S s)
    (hs : subParts [.regs, .dial, .sched, .ports, .front, .flow, .endpoint, .queue, .pipe, .slots, .quant, .power, .tally, .secure, .crown, .peer, .observe, .log, .pins, .out, .noticeSeq, .fresh] F = true) : ActsNext F S (execRestartDrainEnd transient digestsMatch s) := by
  refine ActsNext.step h ?_ hs
  unfold execRestartDrainEnd
  repeat' (first
    | with_reducible assumption
    | decide
    | with_reducible exact Acts.refl _ _
    | with_reducible refine drainEnded_acts _ _ ?_ ?_
    | with_reducible refine Acts.iteStep ?_ (fun _ => ?_)
    | with_reducible refine Acts.foldl ?_ (fun _ _ _ => ?_)
    | with_reducible refine ActsNext.next ?_
    | with_reducible refine ActsNext.ite ?_ ?_
    | dsimp -proj only
    | split)

theorem restartReached_acts {F : List Part} {S : State} (ms : Nat) {s : State} (h : Acts F S s)
    (hs : subParts [.regs, .sched, .ports, .front, .flow, .endpoint, .queue, .pipe, .slots, .quant, .power, .tally, .secure, .crown, .peer, .observe, .log, .out, .noticeSeq, .fresh] F = true) : Acts F S (restartReached s ms) := by
  refine Acts.step h ?_ hs
  unfold restartReached
  repeat' (first
    | with_reducible assumption
    | decide
    | with_reducible exact Acts.refl _ _
    | with_reducible refine showLanes_acts _ ?_ ?_
    | with_reducible refine applyLockPresets_acts  ?_ ?_
    | with_reducible refine wr_acts _ _ ?_ ?_
    | with_reducible refine wrB_acts _ _ ?_ ?_
    | with_reducible refine raise_acts _ _ ?_ ?_
    | with_reducible refine Acts.iteStep ?_ (fun _ => ?_)
    | with_reducible refine Acts.foldl ?_ (fun _ _ _ => ?_)
    | dsimp -proj only
    | (with_reducible refine Acts.set_sched ?_ ?_ ?_; first | with_reducible assumption | with_reducible exact Acts.refl _ _ | with_reducible refine showLanes_acts _ ?_ ?_ | with_reducible refine applyLockPresets_acts  ?_ ?_ | with_reducible refine wr_acts _ _ ?_ ?_ | with_reducible refine wrB_acts _ _ ?_ ?_ | with_reducible refine raise_acts _ _ ?_ ?_ | with_reducible refine Acts.iteStep ?_ (fun _ => ?_) | with_reducible refine Acts.foldl ?_ (fun _ _ _ => ?_))
    | (with_reducible refine Acts.set_sched ?_ ?_ ?_; first | with_reducible assumption | with_reducible exact Acts.refl _ _ | with_reducible refine showLanes_acts _ ?_ ?_ | with_reducible refine applyLockPresets_acts  ?_ ?_ | with_reducible refine wr_acts _ _ ?_ ?_ | with_reducible refine wrB_acts _ _ ?_ ?_ | with_reducible refine raise_acts _ _ ?_ ?_ | with_reducible refine Acts.iteStep ?_ (fun _ => ?_) | with_reducible refine Acts.foldl ?_ (fun _ _ _ => ?_) | (with_reducible refine Acts.set_sched ?_ ?_ ?_; first | with_reducible assumption | with_reducible exact Acts.refl _ _ | with_reducible refine showLanes_acts _ ?_ ?_ | with_reducible refine applyLockPresets_acts  ?_ ?_ | with_reducible refine wr_acts _ _ ?_ ?_ | with_reducible refine wrB_acts _ _ ?_ ?_ | with_reducible refine raise_acts _ _ ?_ ?_ | with_reducible refine Acts.iteStep ?_ (fun _ => ?_) | with_reducible refine Acts.foldl ?_ (fun _ _ _ => ?_)))
    | split
    | with_reducible exact SchedOk.keep_restart_readyBeat _ _ _
    | with_reducible exact SchedOk.keep_restart_again _ _ _
    | (exact fun _ => rfl)
    | (intro k; rw [List.length_map]; exact k)
    | (exact fun h => Mem.wf_writeBytes _ _ h)
    | (exact fun h => Mem.wf_write _ _ h)
    | (intro _; exact Nat.zero_le _)
    | with_reducible with_reducible exact fun h => h
    | (intro h; rw [modAt_length]; exact h))

theorem execRestartReady_acts {F : List Part} {S : State} (ms : Nat) {s : State} (h : Acts F S s)
    (hs : subParts [.regs, .sched, .ports, .front, .flow, .endpoint, .queue, .pipe, .slots, .quant, .power, .tally, .secure, .crown, .peer, .observe, .log, .out, .noticeSeq, .fresh] F = true) : ActsNext F S (execRestartReady ms s) := by
  refine ActsNext.step h ?_ hs
  unfold execRestartReady
  repeat' (first
    | with_reducible assumption
    | decide
    | with_reducible exact Acts.refl _ _
    | with_reducible refine restartReached_acts _ ?_ ?_
    | with_reducible refine Acts.iteStep ?_ (fun _ => ?_)
    | with_reducible refine Acts.foldl ?_ (fun _ _ _ => ?_)
    | with_reducible refine ActsNext.next ?_
    | with_reducible refine ActsNext.ite ?_ ?_
    | dsimp -proj only
    | split)

end Sys2Proof.Machine
end

