-- ==== Sys2Proof/Laws/ActsLanes.lean ====
section
/-! SUPPORT. What each operation of Machine/Lanes.lean may touch, and that it keeps the invariant. -/

namespace Sys2Proof.Machine

theorem execBlockLockGained_acts {F : List Part} {S : State} (where_ : Sys2Proof.PortRef) (locked : Nat) {s : State} (h : Acts F S s)
    (hs : subParts [.regs, .queue, .power, .peer, .observe, .out, .noticeSeq] F = true) : ActsNext F S (execBlockLockGained where_ locked s) := by
  refine ActsNext.step h ?_ hs
  unfold execBlockLockGained
  repeat' (first
    | with_reducible assumption
    | decide
    | with_reducible exact Acts.refl _ _
    | with_reducible refine wr_acts _ _ ?_ ?_
    | with_reducible refine portLinkUp_acts _ _ _ ?_ ?_
    | with_reducible refine showLanes_acts _ ?_ ?_
    | with_reducible refine linkAligned_acts _ _ _ ?_ ?_
    | with_reducible refine Acts.iteStep ?_ (fun _ => ?_)
    | with_reducible refine Acts.foldl ?_ (fun _ _ _ => ?_)
    | with_reducible refine ActsNext.next ?_
    | with_reducible refine ActsNext.ite ?_ ?_
    | dsimp -proj only
    | split)

theorem faultyLane_acts {F : List Part} {S : State} (lanes : List Nat) (base : Nat) (n : Nat) {s : State} (h : Acts F S s)
    (hs : subParts [.fresh] F = true) : Acts F S (faultyLane s lanes base n).1 := by
  refine Acts.step h ?_ hs
  unfold faultyLane
  repeat' (first
    | with_reducible assumption
    | decide
    | with_reducible exact Acts.refl _ _
    | with_reducible refine draw_acts  ?_ ?_
    | with_reducible refine Acts.iteStep ?_ (fun _ => ?_)
    | with_reducible refine Acts.foldl ?_ (fun _ _ _ => ?_)
    | with_reducible refine Acts.fstIte ?_ ?_
    | with_reducible refine Acts.sndIte ?_ ?_
    | with_reducible refine Acts.ofSnd (by assumption) ?_
    | dsimp -proj only
    | (with_reducible refine Acts.fstMk ?_; first | with_reducible assumption | with_reducible exact Acts.refl _ _ | with_reducible refine draw_acts  ?_ ?_ | with_reducible refine Acts.iteStep ?_ (fun _ => ?_) | with_reducible refine Acts.foldl ?_ (fun _ _ _ => ?_) | with_reducible refine Acts.fstIte ?_ ?_ | with_reducible refine Acts.sndIte ?_ ?_ | with_reducible refine Acts.ofSnd (by assumption) ?_)
    | (with_reducible refine Acts.sndMk ?_; first | with_reducible assumption | with_reducible exact Acts.refl _ _ | with_reducible refine draw_acts  ?_ ?_ | with_reducible refine Acts.iteStep ?_ (fun _ => ?_) | with_reducible refine Acts.foldl ?_ (fun _ _ _ => ?_) | with_reducible refine Acts.fstIte ?_ ?_ | with_reducible refine Acts.sndIte ?_ ?_ | with_reducible refine Acts.ofSnd (by assumption) ?_)
    | split)

theorem headLaneFailed_acts {F : List Part} {S : State} (p : Nat) (l : Nat) {s : State} (h : Acts F S s)
    (hs : subParts [.regs, .sched, .ports, .queue, .pipe, .observe, .log, .noticeSeq] F = true) : Acts F S (headLaneFailed s p l) := by
  refine Acts.step h ?_ hs
  unfold headLaneFailed
  repeat' (first
    | with_reducible assumption
    | decide
    | with_reducible exact Acts.refl _ _
    | with_reducible refine faultFound_acts _ _ _ _ ?_ ?_
    | with_reducible refine wr_acts _ _ ?_ ?_
    | with_reducible refine showLanes_acts _ ?_ ?_
    | with_reducible refine unitFailing_acts _ _ ?_ ?_
    | with_reducible refine raise_acts _ _ ?_ ?_
    | with_reducible refine portDown_acts _ ?_ ?_
    | with_reducible refine Acts.iteStep ?_ (fun _ => ?_)
    | with_reducible refine Acts.foldl ?_ (fun _ _ _ => ?_)
    | dsimp -proj only
    | split)

theorem peerLaneFailed_acts {F : List Part} {S : State} (j : Nat) (l : Nat) {s : State} (h : Acts F S s)
    (hs : subParts [.regs, .sched, .queue, .pipe, .peer, .observe, .log, .noticeSeq] F = true) : Acts F S (peerLaneFailed s j l) := by
  refine Acts.step h ?_ hs
  unfold peerLaneFailed
  repeat' (first
    | with_reducible assumption
    | decide
    | with_reducible exact Acts.refl _ _
    | with_reducible refine faultFound_acts _ _ _ _ ?_ ?_
    | with_reducible refine wr_acts _ _ ?_ ?_
    | with_reducible refine unitFailing_acts _ _ ?_ ?_
    | with_reducible refine linkLost_acts _ ?_ ?_
    | with_reducible refine Acts.iteStep ?_ (fun _ => ?_)
    | with_reducible refine Acts.foldl ?_ (fun _ _ _ => ?_)
    | dsimp -proj only
    | split)

theorem laneUnlocked_acts {F : List Part} {S : State} (p : Nat) (lane : Option Nat) {s : State} (h : Acts F S s)
    (hs : subParts [.regs] F = true) : Acts F S (laneUnlocked s p lane) := by
  refine Acts.step h ?_ hs
  unfold laneUnlocked
  repeat' (first
    | with_reducible assumption
    | decide
    | with_reducible exact Acts.refl _ _
    | with_reducible refine wr_acts _ _ ?_ ?_
    | with_reducible refine Acts.iteStep ?_ (fun _ => ?_)
    | with_reducible refine Acts.foldl ?_ (fun _ _ _ => ?_)
    | dsimp -proj only
    | split)

theorem execLaneLockLost_acts {F : List Part} {S : State} (dt : Nat) (where_ : Sys2Proof.PortRef) (lane : Option Nat) {s : State} (h : Acts F S s)
    (hs : subParts [.regs, .dial, .sched, .ports, .front, .flow, .endpoint, .queue, .pipe, .power, .peer, .observe, .log, .pins, .noticeSeq] F = true) : ActsNext F S (execLaneLockLost dt where_ lane s) := by
  refine ActsNext.step h ?_ hs
  unfold execLaneLockLost
  repeat' (first
    | with_reducible assumption
    | decide
    | with_reducible exact Acts.refl _ _
    | with_reducible refine advance_acts _ ?_ ?_
    | with_reducible refine laneUnlocked_acts _ _ ?_ ?_
    | with_reducible refine headLaneFailed_acts _ _ ?_ ?_
    | with_reducible refine portDown_acts _ ?_ ?_
    | with_reducible refine modLink_acts _ _ ?_ ?_
    | with_reducible refine peerLaneFailed_acts _ _ ?_ ?_
    | with_reducible refine linkLost_acts _ ?_ ?_
    | with_reducible refine Acts.iteStep ?_ (fun _ => ?_)
    | with_reducible refine Acts.foldl ?_ (fun _ _ _ => ?_)
    | with_reducible refine ActsNext.next ?_
    | with_reducible refine ActsNext.ite ?_ ?_
    | dsimp -proj only
    | (with_reducible refine Acts.set_ports ?_ ?_ ?_; first | with_reducible assumption | with_reducible exact Acts.refl _ _ | with_reducible refine advance_acts _ ?_ ?_ | with_reducible refine laneUnlocked_acts _ _ ?_ ?_ | with_reducible refine headLaneFailed_acts _ _ ?_ ?_ | with_reducible refine portDown_acts _ ?_ ?_ | with_reducible refine modLink_acts _ _ ?_ ?_ | with_reducible refine peerLaneFailed_acts _ _ ?_ ?_ | with_reducible refine linkLost_acts _ ?_ ?_ | with_reducible refine Acts.iteStep ?_ (fun _ => ?_) | with_reducible refine Acts.foldl ?_ (fun _ _ _ => ?_) | with_reducible refine ActsNext.next ?_ | with_reducible refine ActsNext.ite ?_ ?_)
    | (with_reducible refine Acts.set_ports ?_ ?_ ?_; first | with_reducible assumption | with_reducible exact Acts.refl _ _ | with_reducible refine advance_acts _ ?_ ?_ | with_reducible refine laneUnlocked_acts _ _ ?_ ?_ | with_reducible refine headLaneFailed_acts _ _ ?_ ?_ | with_reducible refine portDown_acts _ ?_ ?_ | with_reducible refine modLink_acts _ _ ?_ ?_ | with_reducible refine peerLaneFailed_acts _ _ ?_ ?_ | with_reducible refine linkLost_acts _ ?_ ?_ | with_reducible refine Acts.iteStep ?_ (fun _ => ?_) | with_reducible refine Acts.foldl ?_ (fun _ _ _ => ?_) | with_reducible refine ActsNext.next ?_ | with_reducible refine ActsNext.ite ?_ ?_ | (with_reducible refine Acts.set_ports ?_ ?_ ?_; first | with_reducible assumption | with_reducible exact Acts.refl _ _ | with_reducible refine advance_acts _ ?_ ?_ | with_reducible refine laneUnlocked_acts _ _ ?_ ?_ | with_reducible refine headLaneFailed_acts _ _ ?_ ?_ | with_reducible refine portDown_acts _ ?_ ?_ | with_reducible refine modLink_acts _ _ ?_ ?_ | with_reducible refine peerLaneFailed_acts _ _ ?_ ?_ | with_reducible refine linkLost_acts _ ?_ ?_ | with_reducible refine Acts.iteStep ?_ (fun _ => ?_) | with_reducible refine Acts.foldl ?_ (fun _ _ _ => ?_) | with_reducible refine ActsNext.next ?_ | with_reducible refine ActsNext.ite ?_ ?_))
    | split
    | (generalize State.ports _ = y; intro h; simpa only [PortsOk, modAt_length, List.length_map, List.length_zipIdx] using h)
    | (exact fun _ => rfl)
    | (intro k; rw [List.length_map]; exact k)
    | (exact fun h => Mem.wf_writeBytes _ _ h)
    | (exact fun h => Mem.wf_write _ _ h)
    | (intro _; exact Nat.zero_le _)
    | with_reducible with_reducible exact fun h => h
    | (intro h; rw [modAt_length]; exact h))

theorem execRetrainDone_acts {F : List Part} {S : State} (dt : Nat) (where_ : Sys2Proof.PortRef) {s : State} (h : Acts F S s)
    (hs : subParts [.regs, .dial, .sched, .ports, .front, .flow, .endpoint, .queue, .pipe, .power, .peer, .observe, .log, .pins, .out, .noticeSeq] F = true) : ActsNext F S (execRetrainDone dt where_ s) := by
  refine ActsNext.step h ?_ hs
  unfold execRetrainDone
  repeat' (first
    | with_reducible assumption
    | decide
    | with_reducible exact Acts.refl _ _
    | with_reducible refine advance_acts _ ?_ ?_
    | with_reducible refine portLinkUp_acts _ _ _ ?_ ?_
    | with_reducible refine bump_acts _ _ ?_ ?_
    | with_reducible refine faultFound_acts _ _ _ _ ?_ ?_
    | with_reducible refine raise_acts _ _ ?_ ?_
    | with_reducible refine modLink_acts _ _ ?_ ?_
    | with_reducible refine linkAligned_acts _ _ _ ?_ ?_
    | with_reducible refine Acts.iteStep ?_ (fun _ => ?_)
    | with_reducible refine Acts.foldl ?_ (fun _ _ _ => ?_)
    | with_reducible refine ActsNext.next ?_
    | with_reducible refine ActsNext.ite ?_ ?_
    | dsimp -proj only
    | (with_reducible refine Acts.set_ports ?_ ?_ ?_; first | with_reducible assumption | with_reducible exact Acts.refl _ _ | with_reducible refine advance_acts _ ?_ ?_ | with_reducible refine portLinkUp_acts _ _ _ ?_ ?_ | with_reducible refine bump_acts _ _ ?_ ?_ | with_reducible refine faultFound_acts _ _ _ _ ?_ ?_ | with_reducible refine raise_acts _ _ ?_ ?_ | with_reducible refine modLink_acts _ _ ?_ ?_ | with_reducible refine linkAligned_acts _ _ _ ?_ ?_ | with_reducible refine Acts.iteStep ?_ (fun _ => ?_) | with_reducible refine Acts.foldl ?_ (fun _ _ _ => ?_) | with_reducible refine ActsNext.next ?_ | with_reducible refine ActsNext.ite ?_ ?_)
    | split
    | (generalize State.ports _ = y; intro h; simpa only [PortsOk, modAt_length, List.length_map, List.length_zipIdx] using h)
    | (exact fun _ => rfl)
    | (intro k; rw [List.length_map]; exact k)
    | (exact fun h => Mem.wf_writeBytes _ _ h)
    | (exact fun h => Mem.wf_write _ _ h)
    | (intro _; exact Nat.zero_le _)
    | with_reducible with_reducible exact fun h => h
    | (intro h; rw [modAt_length]; exact h))

theorem execRetrainTimeout_acts {F : List Part} {S : State} (dt : Nat) (where_ : Sys2Proof.PortRef) {s : State} (h : Acts F S s)
    (hs : subParts [.regs, .dial, .sched, .ports, .front, .flow, .endpoint, .queue, .pipe, .power, .peer, .observe, .log, .pins, .noticeSeq, .fresh] F = true) : ActsNext F S (execRetrainTimeout dt where_ s) := by
  refine ActsNext.step h ?_ hs
  unfold execRetrainTimeout
  repeat' (first
    | with_reducible assumption
    | decide
    | with_reducible exact Acts.refl _ _
    | with_reducible refine advance_acts _ ?_ ?_
    | with_reducible refine faultyLane_acts _ _ _ ?_ ?_
    | with_reducible refine headLaneFailed_acts _ _ ?_ ?_
    | with_reducible refine peerLaneFailed_acts _ _ ?_ ?_
    | with_reducible refine Acts.iteStep ?_ (fun _ => ?_)
    | with_reducible refine Acts.foldl ?_ (fun _ _ _ => ?_)
    | with_reducible refine ActsNext.next ?_
    | with_reducible refine ActsNext.ite ?_ ?_
    | with_reducible refine Acts.fstIte ?_ ?_
    | with_reducible refine Acts.ofFst (by assumption) ?_
    | dsimp -proj only
    | (with_reducible refine Acts.fstMk ?_; first | with_reducible assumption | with_reducible exact Acts.refl _ _ | with_reducible refine advance_acts _ ?_ ?_ | with_reducible refine faultyLane_acts _ _ _ ?_ ?_ | with_reducible refine headLaneFailed_acts _ _ ?_ ?_ | with_reducible refine peerLaneFailed_acts _ _ ?_ ?_ | with_reducible refine Acts.iteStep ?_ (fun _ => ?_) | with_reducible refine Acts.foldl ?_ (fun _ _ _ => ?_) | with_reducible refine ActsNext.next ?_ | with_reducible refine ActsNext.ite ?_ ?_ | with_reducible refine Acts.fstIte ?_ ?_ | with_reducible refine Acts.ofFst (by assumption) ?_)
    | split)

end Sys2Proof.Machine
end

