-- ==== Sys2Proof/Laws/ActsPins.lean ====
section
/-! SUPPORT. What each operation of Machine/Pins.lean may touch, and that it keeps the invariant. -/

namespace Sys2Proof.Machine

theorem execBmiOffsetWrite_acts {F : List Part} {S : State} (offset : Sys2Proof.Byte) {s : State} (h : Acts F S s)
    (hs : subParts [.pins] F = true) : ActsNext F S (execBmiOffsetWrite offset s) := by
  refine ActsNext.step h ?_ hs
  unfold execBmiOffsetWrite
  repeat' (first
    | with_reducible assumption
    | decide
    | with_reducible exact Acts.refl _ _
    | with_reducible refine Acts.iteStep ?_ (fun _ => ?_)
    | with_reducible refine Acts.foldl ?_ (fun _ _ _ => ?_)
    | with_reducible refine ActsNext.next ?_
    | with_reducible refine ActsNext.ite ?_ ?_
    | dsimp -proj only
    | (with_reducible refine Acts.set_pins ?_ ?_; first | with_reducible assumption | with_reducible exact Acts.refl _ _ | with_reducible refine Acts.iteStep ?_ (fun _ => ?_) | with_reducible refine Acts.foldl ?_ (fun _ _ _ => ?_) | with_reducible refine ActsNext.next ?_ | with_reducible refine ActsNext.ite ?_ ?_)
    | split)

theorem execBmiRead_acts {F : List Part} {S : State} (count : Nat) {s : State} (h : Acts F S s)
    (hs : subParts [.out] F = true) : ActsNext F S (execBmiRead count s) := by
  refine ActsNext.step h ?_ hs
  unfold execBmiRead
  repeat' (first
    | with_reducible assumption
    | decide
    | with_reducible exact Acts.refl _ _
    | with_reducible refine emit_acts _ ?_ ?_
    | with_reducible refine Acts.iteStep ?_ (fun _ => ?_)
    | with_reducible refine Acts.foldl ?_ (fun _ _ _ => ?_)
    | with_reducible refine ActsNext.next ?_
    | with_reducible refine ActsNext.ite ?_ ?_
    | dsimp -proj only
    | split)

theorem tapSelect_acts {F : List Part} {S : State} (ir : Nat) {s : State} (h : Acts F S s)
    (hs : subParts [.pins] F = true) : Acts F S (tapSelect s ir) := by
  refine Acts.step h ?_ hs
  unfold tapSelect
  repeat' (first
    | with_reducible assumption
    | decide
    | with_reducible exact Acts.refl _ _
    | with_reducible refine Acts.iteStep ?_ (fun _ => ?_)
    | with_reducible refine Acts.foldl ?_ (fun _ _ _ => ?_)
    | dsimp -proj only
    | (with_reducible refine Acts.set_pins ?_ ?_; first | with_reducible assumption | with_reducible exact Acts.refl _ _ | with_reducible refine Acts.iteStep ?_ (fun _ => ?_) | with_reducible refine Acts.foldl ?_ (fun _ _ _ => ?_))
    | split)

theorem shiftOut_acts {F : List Part} {S : State} (v : Nat) {s : State} (h : Acts F S s)
    (hs : subParts [.out] F = true) : Acts F S (shiftOut s v) := by
  refine Acts.step h ?_ hs
  unfold shiftOut
  repeat' (first
    | with_reducible assumption
    | decide
    | with_reducible exact Acts.refl _ _
    | with_reducible refine emit_acts _ ?_ ?_
    | with_reducible refine Acts.iteStep ?_ (fun _ => ?_)
    | with_reducible refine Acts.foldl ?_ (fun _ _ _ => ?_)
    | dsimp -proj only
    | split)

theorem execBypass_acts {F : List Part} {S : State}  {s : State} (h : Acts F S s)
    (hs : subParts [.pins, .out] F = true) : ActsNext F S (execBypass s) := by
  refine ActsNext.step h ?_ hs
  unfold execBypass
  repeat' (first
    | with_reducible assumption
    | decide
    | with_reducible exact Acts.refl _ _
    | with_reducible refine shiftOut_acts _ ?_ ?_
    | with_reducible refine tapSelect_acts _ ?_ ?_
    | with_reducible refine Acts.iteStep ?_ (fun _ => ?_)
    | with_reducible refine Acts.foldl ?_ (fun _ _ _ => ?_)
    | with_reducible refine ActsNext.next ?_
    | with_reducible refine ActsNext.ite ?_ ?_
    | dsimp -proj only
    | split)

theorem execIdcode_acts {F : List Part} {S : State}  {s : State} (h : Acts F S s)
    (hs : subParts [.pins, .out] F = true) : ActsNext F S (execIdcode s) := by
  refine ActsNext.step h ?_ hs
  unfold execIdcode
  repeat' (first
    | with_reducible assumption
    | decide
    | with_reducible exact Acts.refl _ _
    | with_reducible refine shiftOut_acts _ ?_ ?_
    | with_reducible refine tapSelect_acts _ ?_ ?_
    | with_reducible refine Acts.iteStep ?_ (fun _ => ?_)
    | with_reducible refine Acts.foldl ?_ (fun _ _ _ => ?_)
    | with_reducible refine ActsNext.next ?_
    | with_reducible refine ActsNext.ite ?_ ?_
    | dsimp -proj only
    | split)

theorem execSamplePreload_acts {F : List Part} {S : State}  {s : State} (h : Acts F S s)
    (hs : subParts [.pins, .out, .fresh] F = true) : ActsNext F S (execSamplePreload s) := by
  refine ActsNext.step h ?_ hs
  unfold execSamplePreload
  repeat' (first
    | with_reducible assumption
    | decide
    | with_reducible exact Acts.refl _ _
    | with_reducible refine draw_acts  ?_ ?_
    | with_reducible refine tapSelect_acts _ ?_ ?_
    | with_reducible refine shiftOut_acts _ ?_ ?_
    | with_reducible refine Acts.iteStep ?_ (fun _ => ?_)
    | with_reducible refine Acts.foldl ?_ (fun _ _ _ => ?_)
    | with_reducible refine ActsNext.next ?_
    | with_reducible refine ActsNext.ite ?_ ?_
    | with_reducible refine Acts.sndIte ?_ ?_
    | with_reducible refine Acts.ofSnd (by assumption) ?_
    | dsimp -proj only
    | (with_reducible refine Acts.sndMk ?_; first | with_reducible assumption | with_reducible exact Acts.refl _ _ | with_reducible refine draw_acts  ?_ ?_ | with_reducible refine tapSelect_acts _ ?_ ?_ | with_reducible refine shiftOut_acts _ ?_ ?_ | with_reducible refine Acts.iteStep ?_ (fun _ => ?_) | with_reducible refine Acts.foldl ?_ (fun _ _ _ => ?_) | with_reducible refine ActsNext.next ?_ | with_reducible refine ActsNext.ite ?_ ?_ | with_reducible refine Acts.sndIte ?_ ?_ | with_reducible refine Acts.ofSnd (by assumption) ?_)
    | split)

theorem tapExtest_acts {F : List Part} {S : State} (ir : Nat) {s : State} (h : Acts F S s)
    (hs : subParts [.pins, .out] F = true) : Acts F S (tapExtest s ir) := by
  refine Acts.step h ?_ hs
  unfold tapExtest
  repeat' (first
    | with_reducible assumption
    | decide
    | with_reducible exact Acts.refl _ _
    | with_reducible refine shiftOut_acts _ ?_ ?_
    | with_reducible refine tapSelect_acts _ ?_ ?_
    | with_reducible refine Acts.iteStep ?_ (fun _ => ?_)
    | with_reducible refine Acts.foldl ?_ (fun _ _ _ => ?_)
    | dsimp -proj only
    | split)

theorem execExtest_acts {F : List Part} {S : State}  {s : State} (h : Acts F S s)
    (hs : subParts [.pins, .out] F = true) : ActsNext F S (execExtest s) := by
  refine ActsNext.step h ?_ hs
  unfold execExtest
  repeat' (first
    | with_reducible assumption
    | decide
    | with_reducible exact Acts.refl _ _
    | with_reducible refine tapExtest_acts _ ?_ ?_
    | with_reducible refine Acts.iteStep ?_ (fun _ => ?_)
    | with_reducible refine Acts.foldl ?_ (fun _ _ _ => ?_)
    | with_reducible refine ActsNext.next ?_
    | with_reducible refine ActsNext.ite ?_ ?_
    | dsimp -proj only
    | split)

theorem execExtestPulse_acts {F : List Part} {S : State}  {s : State} (h : Acts F S s)
    (hs : subParts [.pins, .out] F = true) : ActsNext F S (execExtestPulse s) := by
  refine ActsNext.step h ?_ hs
  unfold execExtestPulse
  repeat' (first
    | with_reducible assumption
    | decide
    | with_reducible exact Acts.refl _ _
    | with_reducible refine tapExtest_acts _ ?_ ?_
    | with_reducible refine Acts.iteStep ?_ (fun _ => ?_)
    | with_reducible refine Acts.foldl ?_ (fun _ _ _ => ?_)
    | with_reducible refine ActsNext.next ?_
    | with_reducible refine ActsNext.ite ?_ ?_
    | dsimp -proj only
    | split)

theorem execExtestTrain_acts {F : List Part} {S : State}  {s : State} (h : Acts F S s)
    (hs : subParts [.pins, .out] F = true) : ActsNext F S (execExtestTrain s) := by
  refine ActsNext.step h ?_ hs
  unfold execExtestTrain
  repeat' (first
    | with_reducible assumption
    | decide
    | with_reducible exact Acts.refl _ _
    | with_reducible refine tapExtest_acts _ ?_ ?_
    | with_reducible refine Acts.iteStep ?_ (fun _ => ?_)
    | with_reducible refine Acts.foldl ?_ (fun _ _ _ => ?_)
    | with_reducible refine ActsNext.next ?_
    | with_reducible refine ActsNext.ite ?_ ?_
    | dsimp -proj only
    | split)

theorem execTrstN_acts {F : List Part} {S : State}  {s : State} (h : Acts F S s)
    (hs : subParts [.pins] F = true) : ActsNext F S (execTrstN s) := by
  refine ActsNext.step h ?_ hs
  unfold execTrstN
  repeat' (first
    | with_reducible assumption
    | decide
    | with_reducible exact Acts.refl _ _
    | with_reducible refine tapSelect_acts _ ?_ ?_
    | with_reducible refine Acts.iteStep ?_ (fun _ => ?_)
    | with_reducible refine Acts.foldl ?_ (fun _ _ _ => ?_)
    | with_reducible refine ActsNext.next ?_
    | with_reducible refine ActsNext.ite ?_ ?_
    | dsimp -proj only
    | split)

theorem execLinkChanged_acts {F : List Part} {S : State} (up : Bool) {s : State} (h : Acts F S s)
    (hs : subParts [.regs, .queue, .observe, .noticeSeq] F = true) : ActsNext F S (execLinkChanged up s) := by
  refine ActsNext.step h ?_ hs
  unfold execLinkChanged
  repeat' (first
    | with_reducible assumption
    | decide
    | with_reducible exact Acts.refl _ _
    | with_reducible refine raise_acts _ _ ?_ ?_
    | with_reducible refine wrB_acts _ _ ?_ ?_
    | with_reducible refine Acts.iteStep ?_ (fun _ => ?_)
    | with_reducible refine Acts.foldl ?_ (fun _ _ _ => ?_)
    | with_reducible refine ActsNext.next ?_
    | with_reducible refine ActsNext.ite ?_ ?_
    | dsimp -proj only
    | split)

theorem execRouterAdvertisement_acts {F : List Part} {S : State} (router : Nat) (lifetime : Nat) {s : State} (h : Acts F S s)
    (hs : subParts [.crown] F = true) : ActsNext F S (execRouterAdvertisement router lifetime s) := by
  refine ActsNext.step h ?_ hs
  unfold execRouterAdvertisement
  repeat' (first
    | with_reducible assumption
    | decide
    | with_reducible exact Acts.refl _ _
    | with_reducible refine Acts.iteStep ?_ (fun _ => ?_)
    | with_reducible refine Acts.foldl ?_ (fun _ _ _ => ?_)
    | with_reducible refine ActsNext.next ?_
    | with_reducible refine ActsNext.ite ?_ ?_
    | dsimp -proj only
    | (with_reducible refine Acts.set_crown ?_ ?_ ?_; first | with_reducible assumption | with_reducible exact Acts.refl _ _ | with_reducible refine Acts.iteStep ?_ (fun _ => ?_) | with_reducible refine Acts.foldl ?_ (fun _ _ _ => ?_) | with_reducible refine ActsNext.next ?_ | with_reducible refine ActsNext.ite ?_ ?_)
    | (with_reducible refine Acts.set_crown ?_ ?_ ?_; first | with_reducible assumption | with_reducible exact Acts.refl _ _ | with_reducible refine Acts.iteStep ?_ (fun _ => ?_) | with_reducible refine Acts.foldl ?_ (fun _ _ _ => ?_) | with_reducible refine ActsNext.next ?_ | with_reducible refine ActsNext.ite ?_ ?_ | (with_reducible refine Acts.set_crown ?_ ?_ ?_; first | with_reducible assumption | with_reducible exact Acts.refl _ _ | with_reducible refine Acts.iteStep ?_ (fun _ => ?_) | with_reducible refine Acts.foldl ?_ (fun _ _ _ => ?_) | with_reducible refine ActsNext.next ?_ | with_reducible refine ActsNext.ite ?_ ?_))
    | split
    | with_reducible exact CrownOk.keep_router6 _ _
    | (exact fun _ => rfl)
    | (intro k; rw [List.length_map]; exact k)
    | (exact fun h => Mem.wf_writeBytes _ _ h)
    | (exact fun h => Mem.wf_write _ _ h)
    | (intro _; exact Nat.zero_le _)
    | with_reducible with_reducible exact fun h => h
    | (intro h; rw [modAt_length]; exact h))

theorem noteNeighbour_acts {F : List Part} {S : State} (v6 : Bool) (ip : Nat) (mac : Nat) {s : State} (h : Acts F S s)
    (hs : subParts [.crown] F = true) : Acts F S (noteNeighbour s v6 ip mac) := by
  refine Acts.step h ?_ hs
  unfold noteNeighbour
  repeat' (first
    | with_reducible assumption
    | decide
    | with_reducible exact Acts.refl _ _
    | with_reducible refine Acts.iteStep ?_ (fun _ => ?_)
    | with_reducible refine Acts.foldl ?_ (fun _ _ _ => ?_)
    | dsimp -proj only
    | (with_reducible refine Acts.set_crown ?_ ?_ ?_; first | with_reducible assumption | with_reducible exact Acts.refl _ _ | with_reducible refine Acts.iteStep ?_ (fun _ => ?_) | with_reducible refine Acts.foldl ?_ (fun _ _ _ => ?_))
    | split
    | with_reducible exact CrownOk.keep_neighbours _ _
    | (exact fun _ => rfl)
    | (intro k; rw [List.length_map]; exact k)
    | (exact fun h => Mem.wf_writeBytes _ _ h)
    | (exact fun h => Mem.wf_write _ _ h)
    | (intro _; exact Nat.zero_le _)
    | with_reducible with_reducible exact fun h => h
    | (intro h; rw [modAt_length]; exact h))

theorem execAddressResolution_acts {F : List Part} {S : State} (v6 : Bool) (target : Nat) (sender : Nat) (senderMac : Nat) (isRequest : Bool) {s : State} (h : Acts F S s)
    (hs : subParts [.crown, .out] F = true) : ActsNext F S (execAddressResolution v6 target sender senderMac isRequest s) := by
  refine ActsNext.step h ?_ hs
  unfold execAddressResolution
  repeat' (first
    | with_reducible assumption
    | decide
    | with_reducible exact Acts.refl _ _
    | with_reducible refine noteNeighbour_acts _ _ _ ?_ ?_
    | with_reducible refine emit_acts _ ?_ ?_
    | with_reducible refine Acts.iteStep ?_ (fun _ => ?_)
    | with_reducible refine Acts.foldl ?_ (fun _ _ _ => ?_)
    | with_reducible refine ActsNext.next ?_
    | with_reducible refine ActsNext.ite ?_ ?_
    | dsimp -proj only
    | split)

theorem execEchoRequest_acts {F : List Part} {S : State} (v6 : Bool) (source : Nat) (payload : Sys2Proof.Bytes) {s : State} (h : Acts F S s)
    (hs : subParts [.out] F = true) : ActsNext F S (execEchoRequest v6 source payload s) := by
  refine ActsNext.step h ?_ hs
  unfold execEchoRequest
  repeat' (first
    | with_reducible assumption
    | decide
    | with_reducible exact Acts.refl _ _
    | with_reducible refine emit_acts _ ?_ ?_
    | with_reducible refine Acts.iteStep ?_ (fun _ => ?_)
    | with_reducible refine Acts.foldl ?_ (fun _ _ _ => ?_)
    | with_reducible refine ActsNext.next ?_
    | with_reducible refine ActsNext.ite ?_ ?_
    | dsimp -proj only
    | split)

end Sys2Proof.Machine
end

