-- ==== Sys2Proof/Laws/ActsDispatch.lean ====
section
/-! SUPPORT. What each operation of Machine/Dispatch.lean may touch, and that it keeps the invariant. -/

namespace Sys2Proof.Machine

theorem exec_acts {F : List Part} {S : State} (i : Sys2Proof.Instr) {s : State} (h : Acts F S s)
    (hs : subParts [.regs, .dial, .sched, .ports, .front, .flow, .endpoint, .queue, .pipe, .slots, .quant, .power, .tally, .secure, .crown, .peer, .observe, .log, .pins, .hbm, .out, .noticeSeq, .fresh] F = true) : ActsNext F S (exec i s) := by
  refine ActsNext.step h ?_ hs
  unfold exec
  repeat' (first
    | with_reducible assumption
    | decide
    | with_reducible exact Acts.refl _ _
    | with_reducible refine execColdStart_acts _ ?_ ?_
    | with_reducible refine execColdReset_acts  ?_ ?_
    | with_reducible refine execAdmissionBegin_acts  ?_ ?_
    | with_reducible refine execStart_acts  ?_ ?_
    | with_reducible refine execWarmRestart_acts  ?_ ?_
    | with_reducible refine execWarmRestartBegin_acts  ?_ ?_
    | with_reducible refine execRestartDrainEnd_acts _ _ ?_ ?_
    | with_reducible refine execRestartReady_acts _ ?_ ?_
    | with_reducible refine execPpsEdge_acts _ ?_ ?_
    | with_reducible refine execTodMessage_acts _ _ ?_ ?_
    | with_reducible refine execPpsTimeout_acts _ ?_ ?_
    | with_reducible refine execPtpSync_acts _ _ ?_ ?_
    | with_reducible refine execPtpFollowUp_acts _ _ _ _ _ _ ?_ ?_
    | with_reducible refine execPtpDelayResp_acts _ _ _ _ _ _ ?_ ?_
    | with_reducible refine execPtpAnnounce_acts _ _ ?_ ?_
    | with_reducible refine execSyncTimeout_acts _ ?_ ?_
    | with_reducible refine execAnnounceTimeout_acts _ ?_ ?_
    | with_reducible refine execSourceChange_acts  ?_ ?_
    | with_reducible refine execFallbackReturn_acts _ ?_ ?_
    | with_reducible refine execHoldoverWarn_acts _ ?_ ?_
    | with_reducible refine execHoldoverExpired_acts _ ?_ ?_
    | with_reducible refine execStepAdmissionStop_acts  ?_ ?_
    | with_reducible refine execStepTakeTime_acts  ?_ ?_
    | with_reducible refine execStepDone_acts  ?_ ?_
    | with_reducible refine execDialSecondBoundary_acts  ?_ ?_
    | with_reducible refine execBeatStart_acts  ?_ ?_
    | with_reducible refine execRoundBoundary_acts  ?_ ?_
    | with_reducible refine execShedDecision_acts  ?_ ?_
    | with_reducible refine execBudgetHeld_acts _ ?_ ?_
    | with_reducible refine execHeadBundle_acts _ _ _ _ _ _ _ ?_ ?_
    | with_reducible refine execMacControlFrame_acts _ ?_ ?_
    | with_reducible refine execLaneLockLost_acts _ _ _ ?_ ?_
    | with_reducible refine execRetrainDone_acts _ _ ?_ ?_
    | with_reducible refine execRetrainTimeout_acts _ _ ?_ ?_
    | with_reducible refine execBatchClose_acts _ ?_ ?_
    | with_reducible refine execOperationFetch_acts _ _ _ ?_ ?_
    | with_reducible refine execOperationGather_acts _ _ ?_ ?_
    | with_reducible refine execBarrier_acts  ?_ ?_
    | with_reducible refine execOperationRetire_acts _ ?_ ?_
    | with_reducible refine execComputeWindowEnd_acts _ ?_ ?_
    | with_reducible refine execCatchupEnd_acts  ?_ ?_
    | with_reducible refine execReturnWindowStart_acts _ _ ?_ ?_
    | with_reducible refine execVerdictTransmit_acts _ _ _ ?_ ?_
    | with_reducible refine execShedBundleTimeout_acts _ _ ?_ ?_
    | with_reducible refine execCommit_acts  ?_ ?_
    | with_reducible refine execDiscard_acts  ?_ ?_
    | with_reducible refine execRuleSetApply_acts  ?_ ?_
    | with_reducible refine execMeterConfigApply_acts  ?_ ?_
    | with_reducible refine execCuckooInsert_acts _ _ ?_ ?_
    | with_reducible refine execRebuildStart_acts _ ?_ ?_
    | with_reducible refine execRebuildPlace_acts _ ?_ ?_
    | with_reducible refine execRebuildDone_acts _ ?_ ?_
    | with_reducible refine execRakeSweepStart_acts _ ?_ ?_
    | with_reducible refine execRakeVisit_acts _ _ ?_ ?_
    | with_reducible refine execTableRead_acts _ _ ?_ ?_
    | with_reducible refine execTableWrite_acts _ _ ?_ ?_
    | with_reducible refine execTableInsert_acts _ _ ?_ ?_
    | with_reducible refine execTableDelete_acts _ _ ?_ ?_
    | with_reducible refine execTableLock_acts _ _ ?_ ?_
    | with_reducible refine execTableUnlock_acts _ _ ?_ ?_
    | with_reducible refine execTableReadState_acts _ _ ?_ ?_
    | with_reducible refine execTableWriteState_acts _ _ ?_ ?_
    | with_reducible refine execQueueFlush_acts _ ?_ ?_
    | with_reducible refine execQueueDescriptorWrite_acts _ _ _ ?_ ?_
    | with_reducible refine execItemTake_acts _ _ ?_ ?_
    | with_reducible refine execQRelease_acts _ _ _ _ _ ?_ ?_
    | with_reducible refine execQPin_acts _ _ _ _ _ ?_ ?_
    | with_reducible refine execQBound_acts _ _ _ _ _ ?_ ?_
    | with_reducible refine execQCommandsApply_acts  ?_ ?_
    | with_reducible refine execArrayQSelect_acts _ _ ?_ ?_
    | with_reducible refine execStage_acts _ ?_ ?_
    | with_reducible refine execStageComplete_acts _ ?_ ?_
    | with_reducible refine execSlotDiscard_acts _ ?_ ?_
    | with_reducible refine execActivate_acts _ ?_ ?_
    | with_reducible refine execRollback_acts _ ?_ ?_
    | with_reducible refine execRelease_acts _ ?_ ?_
    | with_reducible refine execAdaptStart_acts _ ?_ ?_
    | with_reducible refine execAdaptStop_acts _ ?_ ?_
    | with_reducible refine execPromote_acts _ ?_ ?_
    | with_reducible refine execSwap_acts _ ?_ ?_
    | with_reducible refine execDrainEnd_acts _ ?_ ?_
    | with_reducible refine execCandidateForm_acts _ ?_ ?_
    | with_reducible refine execAutoRelease_acts _ ?_ ?_
    | with_reducible refine execAdaptUnit_acts _ ?_ ?_
    | with_reducible refine execPdSwitch_acts  ?_ ?_
    | with_reducible refine execDomainReady_acts _ ?_ ?_
    | with_reducible refine execPeriodEnd_acts _ _ _ _ _ ?_ ?_
    | with_reducible refine execTelemetryRead_acts  ?_ ?_
    | with_reducible refine execTelemetryResult_acts _ _ _ ?_ ?_
    | with_reducible refine execDroopStretchStart_acts _ ?_ ?_
    | with_reducible refine execDroopStretchEnd_acts _ _ ?_ ?_
    | with_reducible refine execSensorRead_acts _ _ _ _ ?_ ?_
    | with_reducible refine execThermalCheck_acts  ?_ ?_
    | with_reducible refine execTrip_acts _ _ ?_ ?_
    | with_reducible refine execSlackPublish_acts  ?_ ?_
    | with_reducible refine execGroupExchangeEval_acts  ?_ ?_
    | with_reducible refine execEpochClose_acts  ?_ ?_
    | with_reducible refine execTallyClose_acts  ?_ ?_
    | with_reducible refine execSign_acts  ?_ ?_
    | with_reducible refine execSignLate_acts  ?_ ?_
    | with_reducible refine execTallyCollected_acts _ ?_ ?_
    | with_reducible refine execTallySelect_acts _ ?_ ?_
    | with_reducible refine execSessionOpen_acts _ _ ?_ ?_
    | with_reducible refine execSessionClose_acts _ ?_ ?_
    | with_reducible refine execBadMessage_acts _ _ ?_ ?_
    | with_reducible refine execIdentity_acts _ ?_ ?_
    | with_reducible refine execRegRead_acts _ _ _ ?_ ?_
    | with_reducible refine execRegWrite_acts _ _ ?_ ?_
    | with_reducible refine execDequeue_acts _ _ _ ?_ ?_
    | with_reducible refine execTallyRoot_acts _ _ ?_ ?_
    | with_reducible refine execTallyLeaves_acts _ _ _ _ _ ?_ ?_
    | with_reducible refine execTallyProof_acts _ _ _ _ ?_ ?_
    | with_reducible refine execAttest_acts _ _ ?_ ?_
    | with_reducible refine execJobPost_acts _ _ ?_ ?_
    | with_reducible refine execJobAbort_acts _ _ ?_ ?_
    | with_reducible refine execJobStatus_acts _ _ ?_ ?_
    | with_reducible refine execJobStart_acts _ _ ?_ ?_
    | with_reducible refine execJobRetire_acts _ ?_ ?_
    | with_reducible refine execRuleWrite_acts _ ?_ ?_
    | with_reducible refine execRuleRead_acts _ ?_ ?_
    | with_reducible refine execMeterWrite_acts _ ?_ ?_
    | with_reducible refine execMeterRead_acts _ ?_ ?_
    | with_reducible refine execCounterRead_acts _ ?_ ?_
    | with_reducible refine execVmapWrite_acts _ ?_ ?_
    | with_reducible refine execVmapRead_acts _ ?_ ?_
    | with_reducible refine execLabelWrite_acts _ ?_ ?_
    | with_reducible refine execModelLoad_acts _ ?_ ?_
    | with_reducible refine execScheduleLoad_acts _ ?_ ?_
    | with_reducible refine execCapture_acts _ ?_ ?_
    | with_reducible refine execCaptureForward_acts _ ?_ ?_
    | with_reducible refine execCapturePush_acts _ _ ?_ ?_
    | with_reducible refine execCrownCtrlWrite_acts _ _ ?_ ?_
    | with_reducible refine execHelloSend_acts  ?_ ?_
    | with_reducible refine execHello_acts _ _ _ ?_ ?_
    | with_reducible refine execHelloTimeout_acts _ ?_ ?_
    | with_reducible refine execPeerFrameError_acts _ _ ?_ ?_
    | with_reducible refine execNak_acts _ _ ?_ ?_
    | with_reducible refine execCredit_acts _ _ ?_ ?_
    | with_reducible refine execRequest_acts _ _ ?_ ?_
    | with_reducible refine execResponse_acts _ _ ?_ ?_
    | with_reducible refine execRelayTimeout_acts _ ?_ ?_
    | with_reducible refine execDistStart_acts  ?_ ?_
    | with_reducible refine execDistData_acts _ _ ?_ ?_
    | with_reducible refine execDistDone_acts _ _ ?_ ?_
    | with_reducible refine execDistRxTimeout_acts _ ?_ ?_
    | with_reducible refine execDistDoneTimeout_acts  ?_ ?_
    | with_reducible refine execSlack_acts _ _ ?_ ?_
    | with_reducible refine execEventSend_acts _ ?_ ?_
    | with_reducible refine execEvent_acts _ _ _ ?_ ?_
    | with_reducible refine execSampleStart_acts  ?_ ?_
    | with_reducible refine execSampleStop_acts  ?_ ?_
    | with_reducible refine execRunBoundary_acts  ?_ ?_
    | with_reducible refine execSnapshot_acts  ?_ ?_
    | with_reducible refine execCounterSample_acts  ?_ ?_
    | with_reducible refine execTraceEnable_acts _ ?_ ?_
    | with_reducible refine execTraceDrain_acts  ?_ ?_
    | with_reducible refine execMark_acts _ ?_ ?_
    | with_reducible refine execHang_acts _ _ ?_ ?_
    | with_reducible refine execDumpDone_acts _ ?_ ?_
    | with_reducible refine execLogbookInterval_acts  ?_ ?_
    | with_reducible refine execWriteNow_acts  ?_ ?_
    | with_reducible refine execClearFailed_acts  ?_ ?_
    | with_reducible refine execLogbookWrite_acts _ _ ?_ ?_
    | with_reducible refine execBmiOffsetWrite_acts _ ?_ ?_
    | with_reducible refine execBmiRead_acts _ ?_ ?_
    | with_reducible refine execBypass_acts  ?_ ?_
    | with_reducible refine execIdcode_acts  ?_ ?_
    | with_reducible refine execSamplePreload_acts  ?_ ?_
    | with_reducible refine execExtest_acts  ?_ ?_
    | with_reducible refine execExtestPulse_acts  ?_ ?_
    | with_reducible refine execExtestTrain_acts  ?_ ?_
    | with_reducible refine execDialNowSecRead_acts  ?_ ?_
    | with_reducible refine execHeadportPortCfgWrite_acts _ _ ?_ ?_
    | with_reducible refine execRegisterWrite_acts _ _ ?_ ?_
    | with_reducible refine execDelayReq_acts _ ?_ ?_
    | with_reducible refine execBlockLockGained_acts _ _ ?_ ?_
    | with_reducible refine execLinkChanged_acts _ ?_ ?_
    | with_reducible refine execRouterAdvertisement_acts _ _ ?_ ?_
    | with_reducible refine execAddressResolution_acts _ _ _ _ _ ?_ ?_
    | with_reducible refine execEchoRequest_acts _ _ _ ?_ ?_
    | with_reducible refine execPowerOnSecond_acts  ?_ ?_
    | with_reducible refine execTrstN_acts  ?_ ?_
    | with_reducible refine Acts.iteStep ?_ (fun _ => ?_)
    | with_reducible refine Acts.foldl ?_ (fun _ _ _ => ?_)
    | with_reducible refine ActsNext.next ?_
    | with_reducible refine ActsNext.ite ?_ ?_
    | dsimp -proj only
    | split)

end Sys2Proof.Machine
end

