-- ==== Sys2Proof/Laws/Parts.lean ====
section
/-! SUPPORT. The parts of the state that an operation leaves alone, one equation each, for `simp`. -/

namespace Sys2Proof.Machine

@[simp] theorem wr_pending (f : Field) (v : Nat) (s : State) : (wr s f v).pending = s.pending :=
  (wr_acts _ _ (Acts.refl [.regs] s) rfl).same .pending rfl

@[simp] theorem wr_dial (f : Field) (v : Nat) (s : State) : (wr s f v).dial = s.dial :=
  (wr_acts _ _ (Acts.refl [.regs] s) rfl).same .dial rfl

@[simp] theorem wr_sched (f : Field) (v : Nat) (s : State) : (wr s f v).sched = s.sched :=
  (wr_acts _ _ (Acts.refl [.regs] s) rfl).same .sched rfl

@[simp] theorem wr_ports (f : Field) (v : Nat) (s : State) : (wr s f v).ports = s.ports :=
  (wr_acts _ _ (Acts.refl [.regs] s) rfl).same .ports rfl

@[simp] theorem wr_front (f : Field) (v : Nat) (s : State) : (wr s f v).front = s.front :=
  (wr_acts _ _ (Acts.refl [.regs] s) rfl).same .front rfl

@[simp] theorem wr_flow (f : Field) (v : Nat) (s : State) : (wr s f v).flow = s.flow :=
  (wr_acts _ _ (Acts.refl [.regs] s) rfl).same .flow rfl

@[simp] theorem wr_endpoint (f : Field) (v : Nat) (s : State) : (wr s f v).endpoint = s.endpoint :=
  (wr_acts _ _ (Acts.refl [.regs] s) rfl).same .endpoint rfl

@[simp] theorem wr_queue (f : Field) (v : Nat) (s : State) : (wr s f v).queue = s.queue :=
  (wr_acts _ _ (Acts.refl [.regs] s) rfl).same .queue rfl

@[simp] theorem wr_pipe (f : Field) (v : Nat) (s : State) : (wr s f v).pipe = s.pipe :=
  (wr_acts _ _ (Acts.refl [.regs] s) rfl).same .pipe rfl

@[simp] theorem wr_slots (f : Field) (v : Nat) (s : State) : (wr s f v).slots = s.slots :=
  (wr_acts _ _ (Acts.refl [.regs] s) rfl).same .slots rfl

@[simp] theorem wr_quant (f : Field) (v : Nat) (s : State) : (wr s f v).quant = s.quant :=
  (wr_acts _ _ (Acts.refl [.regs] s) rfl).same .quant rfl

@[simp] theorem wr_power (f : Field) (v : Nat) (s : State) : (wr s f v).power = s.power :=
  (wr_acts _ _ (Acts.refl [.regs] s) rfl).same .power rfl

@[simp] theorem wr_tally (f : Field) (v : Nat) (s : State) : (wr s f v).tally = s.tally :=
  (wr_acts _ _ (Acts.refl [.regs] s) rfl).same .tally rfl

@[simp] theorem wr_secure (f : Field) (v : Nat) (s : State) : (wr s f v).secure = s.secure :=
  (wr_acts _ _ (Acts.refl [.regs] s) rfl).same .secure rfl

@[simp] theorem wr_crown (f : Field) (v : Nat) (s : State) : (wr s f v).crown = s.crown :=
  (wr_acts _ _ (Acts.refl [.regs] s) rfl).same .crown rfl

@[simp] theorem wr_peer (f : Field) (v : Nat) (s : State) : (wr s f v).peer = s.peer :=
  (wr_acts _ _ (Acts.refl [.regs] s) rfl).same .peer rfl

@[simp] theorem wr_observe (f : Field) (v : Nat) (s : State) : (wr s f v).observe = s.observe :=
  (wr_acts _ _ (Acts.refl [.regs] s) rfl).same .observe rfl

@[simp] theorem wr_log (f : Field) (v : Nat) (s : State) : (wr s f v).log = s.log :=
  (wr_acts _ _ (Acts.refl [.regs] s) rfl).same .log rfl

@[simp] theorem wr_pins (f : Field) (v : Nat) (s : State) : (wr s f v).pins = s.pins :=
  (wr_acts _ _ (Acts.refl [.regs] s) rfl).same .pins rfl

@[simp] theorem wr_hbm (f : Field) (v : Nat) (s : State) : (wr s f v).hbm = s.hbm :=
  (wr_acts _ _ (Acts.refl [.regs] s) rfl).same .hbm rfl

@[simp] theorem wr_out (f : Field) (v : Nat) (s : State) : (wr s f v).out = s.out :=
  (wr_acts _ _ (Acts.refl [.regs] s) rfl).same .out rfl

@[simp] theorem wr_noticeSeq (f : Field) (v : Nat) (s : State) : (wr s f v).noticeSeq = s.noticeSeq :=
  (wr_acts _ _ (Acts.refl [.regs] s) rfl).same .noticeSeq rfl

@[simp] theorem wr_fresh (f : Field) (v : Nat) (s : State) : (wr s f v).fresh = s.fresh :=
  (wr_acts _ _ (Acts.refl [.regs] s) rfl).same .fresh rfl

@[simp] theorem wrB_pending (f : Field) (b : Bool) (s : State) : (wrB s f b).pending = s.pending :=
  (wrB_acts _ _ (Acts.refl [.regs] s) rfl).same .pending rfl

@[simp] theorem wrB_dial (f : Field) (b : Bool) (s : State) : (wrB s f b).dial = s.dial :=
  (wrB_acts _ _ (Acts.refl [.regs] s) rfl).same .dial rfl

@[simp] theorem wrB_sched (f : Field) (b : Bool) (s : State) : (wrB s f b).sched = s.sched :=
  (wrB_acts _ _ (Acts.refl [.regs] s) rfl).same .sched rfl

@[simp] theorem wrB_ports (f : Field) (b : Bool) (s : State) : (wrB s f b).ports = s.ports :=
  (wrB_acts _ _ (Acts.refl [.regs] s) rfl).same .ports rfl

@[simp] theorem wrB_front (f : Field) (b : Bool) (s : State) : (wrB s f b).front = s.front :=
  (wrB_acts _ _ (Acts.refl [.regs] s) rfl).same .front rfl

@[simp] theorem wrB_flow (f : Field) (b : Bool) (s : State) : (wrB s f b).flow = s.flow :=
  (wrB_acts _ _ (Acts.refl [.regs] s) rfl).same .flow rfl

@[simp] theorem wrB_endpoint (f : Field) (b : Bool) (s : State) : (wrB s f b).endpoint = s.endpoint :=
  (wrB_acts _ _ (Acts.refl [.regs] s) rfl).same .endpoint rfl

@[simp] theorem wrB_queue (f : Field) (b : Bool) (s : State) : (wrB s f b).queue = s.queue :=
  (wrB_acts _ _ (Acts.refl [.regs] s) rfl).same .queue rfl

@[simp] theorem wrB_pipe (f : Field) (b : Bool) (s : State) : (wrB s f b).pipe = s.pipe :=
  (wrB_acts _ _ (Acts.refl [.regs] s) rfl).same .pipe rfl

@[simp] theorem wrB_slots (f : Field) (b : Bool) (s : State) : (wrB s f b).slots = s.slots :=
  (wrB_acts _ _ (Acts.refl [.regs] s) rfl).same .slots rfl

@[simp] theorem wrB_quant (f : Field) (b : Bool) (s : State) : (wrB s f b).quant = s.quant :=
  (wrB_acts _ _ (Acts.refl [.regs] s) rfl).same .quant rfl

@[simp] theorem wrB_power (f : Field) (b : Bool) (s : State) : (wrB s f b).power = s.power :=
  (wrB_acts _ _ (Acts.refl [.regs] s) rfl).same .power rfl

@[simp] theorem wrB_tally (f : Field) (b : Bool) (s : State) : (wrB s f b).tally = s.tally :=
  (wrB_acts _ _ (Acts.refl [.regs] s) rfl).same .tally rfl

@[simp] theorem wrB_secure (f : Field) (b : Bool) (s : State) : (wrB s f b).secure = s.secure :=
  (wrB_acts _ _ (Acts.refl [.regs] s) rfl).same .secure rfl

@[simp] theorem wrB_crown (f : Field) (b : Bool) (s : State) : (wrB s f b).crown = s.crown :=
  (wrB_acts _ _ (Acts.refl [.regs] s) rfl).same .crown rfl

@[simp] theorem wrB_peer (f : Field) (b : Bool) (s : State) : (wrB s f b).peer = s.peer :=
  (wrB_acts _ _ (Acts.refl [.regs] s) rfl).same .peer rfl

@[simp] theorem wrB_observe (f : Field) (b : Bool) (s : State) : (wrB s f b).observe = s.observe :=
  (wrB_acts _ _ (Acts.refl [.regs] s) rfl).same .observe rfl

@[simp] theorem wrB_log (f : Field) (b : Bool) (s : State) : (wrB s f b).log = s.log :=
  (wrB_acts _ _ (Acts.refl [.regs] s) rfl).same .log rfl

@[simp] theorem wrB_pins (f : Field) (b : Bool) (s : State) : (wrB s f b).pins = s.pins :=
  (wrB_acts _ _ (Acts.refl [.regs] s) rfl).same .pins rfl

@[simp] theorem wrB_hbm (f : Field) (b : Bool) (s : State) : (wrB s f b).hbm = s.hbm :=
  (wrB_acts _ _ (Acts.refl [.regs] s) rfl).same .hbm rfl

@[simp] theorem wrB_out (f : Field) (b : Bool) (s : State) : (wrB s f b).out = s.out :=
  (wrB_acts _ _ (Acts.refl [.regs] s) rfl).same .out rfl

@[simp] theorem wrB_noticeSeq (f : Field) (b : Bool) (s : State) : (wrB s f b).noticeSeq = s.noticeSeq :=
  (wrB_acts _ _ (Acts.refl [.regs] s) rfl).same .noticeSeq rfl

@[simp] theorem wrB_fresh (f : Field) (b : Bool) (s : State) : (wrB s f b).fresh = s.fresh :=
  (wrB_acts _ _ (Acts.refl [.regs] s) rfl).same .fresh rfl

@[simp] theorem bump_pending (f : Field) (n : Nat) (s : State) : (bump s f n).pending = s.pending :=
  (bump_acts _ _ (Acts.refl [.regs] s) rfl).same .pending rfl

@[simp] theorem bump_dial (f : Field) (n : Nat) (s : State) : (bump s f n).dial = s.dial :=
  (bump_acts _ _ (Acts.refl [.regs] s) rfl).same .dial rfl

@[simp] theorem bump_sched (f : Field) (n : Nat) (s : State) : (bump s f n).sched = s.sched :=
  (bump_acts _ _ (Acts.refl [.regs] s) rfl).same .sched rfl

@[simp] theorem bump_ports (f : Field) (n : Nat) (s : State) : (bump s f n).ports = s.ports :=
  (bump_acts _ _ (Acts.refl [.regs] s) rfl).same .ports rfl

@[simp] theorem bump_front (f : Field) (n : Nat) (s : State) : (bump s f n).front = s.front :=
  (bump_acts _ _ (Acts.refl [.regs] s) rfl).same .front rfl

@[simp] theorem bump_flow (f : Field) (n : Nat) (s : State) : (bump s f n).flow = s.flow :=
  (bump_acts _ _ (Acts.refl [.regs] s) rfl).same .flow rfl

@[simp] theorem bump_endpoint (f : Field) (n : Nat) (s : State) : (bump s f n).endpoint = s.endpoint :=
  (bump_acts _ _ (Acts.refl [.regs] s) rfl).same .endpoint rfl

@[simp] theorem bump_queue (f : Field) (n : Nat) (s : State) : (bump s f n).queue = s.queue :=
  (bump_acts _ _ (Acts.refl [.regs] s) rfl).same .queue rfl

@[simp] theorem bump_pipe (f : Field) (n : Nat) (s : State) : (bump s f n).pipe = s.pipe :=
  (bump_acts _ _ (Acts.refl [.regs] s) rfl).same .pipe rfl

@[simp] theorem bump_slots (f : Field) (n : Nat) (s : State) : (bump s f n).slots = s.slots :=
  (bump_acts _ _ (Acts.refl [.regs] s) rfl).same .slots rfl

@[simp] theorem bump_quant (f : Field) (n : Nat) (s : State) : (bump s f n).quant = s.quant :=
  (bump_acts _ _ (Acts.refl [.regs] s) rfl).same .quant rfl

@[simp] theorem bump_power (f : Field) (n : Nat) (s : State) : (bump s f n).power = s.power :=
  (bump_acts _ _ (Acts.refl [.regs] s) rfl).same .power rfl

@[simp] theorem bump_tally (f : Field) (n : Nat) (s : State) : (bump s f n).tally = s.tally :=
  (bump_acts _ _ (Acts.refl [.regs] s) rfl).same .tally rfl

@[simp] theorem bump_secure (f : Field) (n : Nat) (s : State) : (bump s f n).secure = s.secure :=
  (bump_acts _ _ (Acts.refl [.regs] s) rfl).same .secure rfl

@[simp] theorem bump_crown (f : Field) (n : Nat) (s : State) : (bump s f n).crown = s.crown :=
  (bump_acts _ _ (Acts.refl [.regs] s) rfl).same .crown rfl

@[simp] theorem bump_peer (f : Field) (n : Nat) (s : State) : (bump s f n).peer = s.peer :=
  (bump_acts _ _ (Acts.refl [.regs] s) rfl).same .peer rfl

@[simp] theorem bump_observe (f : Field) (n : Nat) (s : State) : (bump s f n).observe = s.observe :=
  (bump_acts _ _ (Acts.refl [.regs] s) rfl).same .observe rfl

@[simp] theorem bump_log (f : Field) (n : Nat) (s : State) : (bump s f n).log = s.log :=
  (bump_acts _ _ (Acts.refl [.regs] s) rfl).same .log rfl

@[simp] theorem bump_pins (f : Field) (n : Nat) (s : State) : (bump s f n).pins = s.pins :=
  (bump_acts _ _ (Acts.refl [.regs] s) rfl).same .pins rfl

@[simp] theorem bump_hbm (f : Field) (n : Nat) (s : State) : (bump s f n).hbm = s.hbm :=
  (bump_acts _ _ (Acts.refl [.regs] s) rfl).same .hbm rfl

@[simp] theorem bump_out (f : Field) (n : Nat) (s : State) : (bump s f n).out = s.out :=
  (bump_acts _ _ (Acts.refl [.regs] s) rfl).same .out rfl

@[simp] theorem bump_noticeSeq (f : Field) (n : Nat) (s : State) : (bump s f n).noticeSeq = s.noticeSeq :=
  (bump_acts _ _ (Acts.refl [.regs] s) rfl).same .noticeSeq rfl

@[simp] theorem bump_fresh (f : Field) (n : Nat) (s : State) : (bump s f n).fresh = s.fresh :=
  (bump_acts _ _ (Acts.refl [.regs] s) rfl).same .fresh rfl

@[simp] theorem writeFields_pending (a : Nat) (value : Nat) (s : State) : (writeFields s a value).pending = s.pending :=
  (writeFields_acts _ _ (Acts.refl [.regs] s) rfl).same .pending rfl

@[simp] theorem writeFields_dial (a : Nat) (value : Nat) (s : State) : (writeFields s a value).dial = s.dial :=
  (writeFields_acts _ _ (Acts.refl [.regs] s) rfl).same .dial rfl

@[simp] theorem writeFields_sched (a : Nat) (value : Nat) (s : State) : (writeFields s a value).sched = s.sched :=
  (writeFields_acts _ _ (Acts.refl [.regs] s) rfl).same .sched rfl

@[simp] theorem writeFields_ports (a : Nat) (value : Nat) (s : State) : (writeFields s a value).ports = s.ports :=
  (writeFields_acts _ _ (Acts.refl [.regs] s) rfl).same .ports rfl

@[simp] theorem writeFields_front (a : Nat) (value : Nat) (s : State) : (writeFields s a value).front = s.front :=
  (writeFields_acts _ _ (Acts.refl [.regs] s) rfl).same .front rfl

@[simp] theorem writeFields_flow (a : Nat) (value : Nat) (s : State) : (writeFields s a value).flow = s.flow :=
  (writeFields_acts _ _ (Acts.refl [.regs] s) rfl).same .flow rfl

@[simp] theorem writeFields_endpoint (a : Nat) (value : Nat) (s : State) : (writeFields s a value).endpoint = s.endpoint :=
  (writeFields_acts _ _ (Acts.refl [.regs] s) rfl).same .endpoint rfl

@[simp] theorem writeFields_queue (a : Nat) (value : Nat) (s : State) : (writeFields s a value).queue = s.queue :=
  (writeFields_acts _ _ (Acts.refl [.regs] s) rfl).same .queue rfl

@[simp] theorem writeFields_pipe (a : Nat) (value : Nat) (s : State) : (writeFields s a value).pipe = s.pipe :=
  (writeFields_acts _ _ (Acts.refl [.regs] s) rfl).same .pipe rfl

@[simp] theorem writeFields_slots (a : Nat) (value : Nat) (s : State) : (writeFields s a value).slots = s.slots :=
  (writeFields_acts _ _ (Acts.refl [.regs] s) rfl).same .slots rfl

@[simp] theorem writeFields_quant (a : Nat) (value : Nat) (s : State) : (writeFields s a value).quant = s.quant :=
  (writeFields_acts _ _ (Acts.refl [.regs] s) rfl).same .quant rfl

@[simp] theorem writeFields_power (a : Nat) (value : Nat) (s : State) : (writeFields s a value).power = s.power :=
  (writeFields_acts _ _ (Acts.refl [.regs] s) rfl).same .power rfl

@[simp] theorem writeFields_tally (a : Nat) (value : Nat) (s : State) : (writeFields s a value).tally = s.tally :=
  (writeFields_acts _ _ (Acts.refl [.regs] s) rfl).same .tally rfl

@[simp] theorem writeFields_secure (a : Nat) (value : Nat) (s : State) : (writeFields s a value).secure = s.secure :=
  (writeFields_acts _ _ (Acts.refl [.regs] s) rfl).same .secure rfl

@[simp] theorem writeFields_crown (a : Nat) (value : Nat) (s : State) : (writeFields s a value).crown = s.crown :=
  (writeFields_acts _ _ (Acts.refl [.regs] s) rfl).same .crown rfl

@[simp] theorem writeFields_peer (a : Nat) (value : Nat) (s : State) : (writeFields s a value).peer = s.peer :=
  (writeFields_acts _ _ (Acts.refl [.regs] s) rfl).same .peer rfl

@[simp] theorem writeFields_observe (a : Nat) (value : Nat) (s : State) : (writeFields s a value).observe = s.observe :=
  (writeFields_acts _ _ (Acts.refl [.regs] s) rfl).same .observe rfl

@[simp] theorem writeFields_log (a : Nat) (value : Nat) (s : State) : (writeFields s a value).log = s.log :=
  (writeFields_acts _ _ (Acts.refl [.regs] s) rfl).same .log rfl

@[simp] theorem writeFields_pins (a : Nat) (value : Nat) (s : State) : (writeFields s a value).pins = s.pins :=
  (writeFields_acts _ _ (Acts.refl [.regs] s) rfl).same .pins rfl

@[simp] theorem writeFields_hbm (a : Nat) (value : Nat) (s : State) : (writeFields s a value).hbm = s.hbm :=
  (writeFields_acts _ _ (Acts.refl [.regs] s) rfl).same .hbm rfl

@[simp] theorem writeFields_out (a : Nat) (value : Nat) (s : State) : (writeFields s a value).out = s.out :=
  (writeFields_acts _ _ (Acts.refl [.regs] s) rfl).same .out rfl

@[simp] theorem writeFields_noticeSeq (a : Nat) (value : Nat) (s : State) : (writeFields s a value).noticeSeq = s.noticeSeq :=
  (writeFields_acts _ _ (Acts.refl [.regs] s) rfl).same .noticeSeq rfl

@[simp] theorem writeFields_fresh (a : Nat) (value : Nat) (s : State) : (writeFields s a value).fresh = s.fresh :=
  (writeFields_acts _ _ (Acts.refl [.regs] s) rfl).same .fresh rfl

@[simp] theorem emit_pending (o : Out) (s : State) : (emit s o).pending = s.pending :=
  (emit_acts _ (Acts.refl [.out] s) rfl).same .pending rfl

@[simp] theorem emit_regs (o : Out) (s : State) : (emit s o).regs = s.regs :=
  (emit_acts _ (Acts.refl [.out] s) rfl).same .regs rfl

@[simp] theorem emit_dial (o : Out) (s : State) : (emit s o).dial = s.dial :=
  (emit_acts _ (Acts.refl [.out] s) rfl).same .dial rfl

@[simp] theorem emit_sched (o : Out) (s : State) : (emit s o).sched = s.sched :=
  (emit_acts _ (Acts.refl [.out] s) rfl).same .sched rfl

@[simp] theorem emit_ports (o : Out) (s : State) : (emit s o).ports = s.ports :=
  (emit_acts _ (Acts.refl [.out] s) rfl).same .ports rfl

@[simp] theorem emit_front (o : Out) (s : State) : (emit s o).front = s.front :=
  (emit_acts _ (Acts.refl [.out] s) rfl).same .front rfl

@[simp] theorem emit_flow (o : Out) (s : State) : (emit s o).flow = s.flow :=
  (emit_acts _ (Acts.refl [.out] s) rfl).same .flow rfl

@[simp] theorem emit_endpoint (o : Out) (s : State) : (emit s o).endpoint = s.endpoint :=
  (emit_acts _ (Acts.refl [.out] s) rfl).same .endpoint rfl

@[simp] theorem emit_queue (o : Out) (s : State) : (emit s o).queue = s.queue :=
  (emit_acts _ (Acts.refl [.out] s) rfl).same .queue rfl

@[simp] theorem emit_pipe (o : Out) (s : State) : (emit s o).pipe = s.pipe :=
  (emit_acts _ (Acts.refl [.out] s) rfl).same .pipe rfl

@[simp] theorem emit_slots (o : Out) (s : State) : (emit s o).slots = s.slots :=
  (emit_acts _ (Acts.refl [.out] s) rfl).same .slots rfl

@[simp] theorem emit_quant (o : Out) (s : State) : (emit s o).quant = s.quant :=
  (emit_acts _ (Acts.refl [.out] s) rfl).same .quant rfl

@[simp] theorem emit_power (o : Out) (s : State) : (emit s o).power = s.power :=
  (emit_acts _ (Acts.refl [.out] s) rfl).same .power rfl

@[simp] theorem emit_tally (o : Out) (s : State) : (emit s o).tally = s.tally :=
  (emit_acts _ (Acts.refl [.out] s) rfl).same .tally rfl

@[simp] theorem emit_secure (o : Out) (s : State) : (emit s o).secure = s.secure :=
  (emit_acts _ (Acts.refl [.out] s) rfl).same .secure rfl

@[simp] theorem emit_crown (o : Out) (s : State) : (emit s o).crown = s.crown :=
  (emit_acts _ (Acts.refl [.out] s) rfl).same .crown rfl

@[simp] theorem emit_peer (o : Out) (s : State) : (emit s o).peer = s.peer :=
  (emit_acts _ (Acts.refl [.out] s) rfl).same .peer rfl

@[simp] theorem emit_observe (o : Out) (s : State) : (emit s o).observe = s.observe :=
  (emit_acts _ (Acts.refl [.out] s) rfl).same .observe rfl

@[simp] theorem emit_log (o : Out) (s : State) : (emit s o).log = s.log :=
  (emit_acts _ (Acts.refl [.out] s) rfl).same .log rfl

@[simp] theorem emit_pins (o : Out) (s : State) : (emit s o).pins = s.pins :=
  (emit_acts _ (Acts.refl [.out] s) rfl).same .pins rfl

@[simp] theorem emit_hbm (o : Out) (s : State) : (emit s o).hbm = s.hbm :=
  (emit_acts _ (Acts.refl [.out] s) rfl).same .hbm rfl

@[simp] theorem emit_noticeSeq (o : Out) (s : State) : (emit s o).noticeSeq = s.noticeSeq :=
  (emit_acts _ (Acts.refl [.out] s) rfl).same .noticeSeq rfl

@[simp] theorem emit_fresh (o : Out) (s : State) : (emit s o).fresh = s.fresh :=
  (emit_acts _ (Acts.refl [.out] s) rfl).same .fresh rfl

@[simp] theorem count_pending (i : Nat) (n : Nat) (s : State) : (count s i n).pending = s.pending :=
  (count_acts _ _ (Acts.refl [.regs] s) rfl).same .pending rfl

@[simp] theorem count_dial (i : Nat) (n : Nat) (s : State) : (count s i n).dial = s.dial :=
  (count_acts _ _ (Acts.refl [.regs] s) rfl).same .dial rfl

@[simp] theorem count_sched (i : Nat) (n : Nat) (s : State) : (count s i n).sched = s.sched :=
  (count_acts _ _ (Acts.refl [.regs] s) rfl).same .sched rfl

@[simp] theorem count_ports (i : Nat) (n : Nat) (s : State) : (count s i n).ports = s.ports :=
  (count_acts _ _ (Acts.refl [.regs] s) rfl).same .ports rfl

@[simp] theorem count_front (i : Nat) (n : Nat) (s : State) : (count s i n).front = s.front :=
  (count_acts _ _ (Acts.refl [.regs] s) rfl).same .front rfl

@[simp] theorem count_flow (i : Nat) (n : Nat) (s : State) : (count s i n).flow = s.flow :=
  (count_acts _ _ (Acts.refl [.regs] s) rfl).same .flow rfl

@[simp] theorem count_endpoint (i : Nat) (n : Nat) (s : State) : (count s i n).endpoint = s.endpoint :=
  (count_acts _ _ (Acts.refl [.regs] s) rfl).same .endpoint rfl

@[simp] theorem count_queue (i : Nat) (n : Nat) (s : State) : (count s i n).queue = s.queue :=
  (count_acts _ _ (Acts.refl [.regs] s) rfl).same .queue rfl

@[simp] theorem count_pipe (i : Nat) (n : Nat) (s : State) : (count s i n).pipe = s.pipe :=
  (count_acts _ _ (Acts.refl [.regs] s) rfl).same .pipe rfl

@[simp] theorem count_slots (i : Nat) (n : Nat) (s : State) : (count s i n).slots = s.slots :=
  (count_acts _ _ (Acts.refl [.regs] s) rfl).same .slots rfl

@[simp] theorem count_quant (i : Nat) (n : Nat) (s : State) : (count s i n).quant = s.quant :=
  (count_acts _ _ (Acts.refl [.regs] s) rfl).same .quant rfl

@[simp] theorem count_power (i : Nat) (n : Nat) (s : State) : (count s i n).power = s.power :=
  (count_acts _ _ (Acts.refl [.regs] s) rfl).same .power rfl

@[simp] theorem count_tally (i : Nat) (n : Nat) (s : State) : (count s i n).tally = s.tally :=
  (count_acts _ _ (Acts.refl [.regs] s) rfl).same .tally rfl

@[simp] theorem count_secure (i : Nat) (n : Nat) (s : State) : (count s i n).secure = s.secure :=
  (count_acts _ _ (Acts.refl [.regs] s) rfl).same .secure rfl

@[simp] theorem count_crown (i : Nat) (n : Nat) (s : State) : (count s i n).crown = s.crown :=
  (count_acts _ _ (Acts.refl [.regs] s) rfl).same .crown rfl

@[simp] theorem count_peer (i : Nat) (n : Nat) (s : State) : (count s i n).peer = s.peer :=
  (count_acts _ _ (Acts.refl [.regs] s) rfl).same .peer rfl

@[simp] theorem count_observe (i : Nat) (n : Nat) (s : State) : (count s i n).observe = s.observe :=
  (count_acts _ _ (Acts.refl [.regs] s) rfl).same .observe rfl

@[simp] theorem count_log (i : Nat) (n : Nat) (s : State) : (count s i n).log = s.log :=
  (count_acts _ _ (Acts.refl [.regs] s) rfl).same .log rfl

@[simp] theorem count_pins (i : Nat) (n : Nat) (s : State) : (count s i n).pins = s.pins :=
  (count_acts _ _ (Acts.refl [.regs] s) rfl).same .pins rfl

@[simp] theorem count_hbm (i : Nat) (n : Nat) (s : State) : (count s i n).hbm = s.hbm :=
  (count_acts _ _ (Acts.refl [.regs] s) rfl).same .hbm rfl

@[simp] theorem count_out (i : Nat) (n : Nat) (s : State) : (count s i n).out = s.out :=
  (count_acts _ _ (Acts.refl [.regs] s) rfl).same .out rfl

@[simp] theorem count_noticeSeq (i : Nat) (n : Nat) (s : State) : (count s i n).noticeSeq = s.noticeSeq :=
  (count_acts _ _ (Acts.refl [.regs] s) rfl).same .noticeSeq rfl

@[simp] theorem count_fresh (i : Nat) (n : Nat) (s : State) : (count s i n).fresh = s.fresh :=
  (count_acts _ _ (Acts.refl [.regs] s) rfl).same .fresh rfl

@[simp] theorem setQ_pending (q : Nat) (d : Queue) (s : State) : (setQ s q d).pending = s.pending :=
  (setQ_acts _ _ (Acts.refl [.queue] s) rfl).same .pending rfl

@[simp] theorem setQ_regs (q : Nat) (d : Queue) (s : State) : (setQ s q d).regs = s.regs :=
  (setQ_acts _ _ (Acts.refl [.queue] s) rfl).same .regs rfl

@[simp] theorem setQ_dial (q : Nat) (d : Queue) (s : State) : (setQ s q d).dial = s.dial :=
  (setQ_acts _ _ (Acts.refl [.queue] s) rfl).same .dial rfl

@[simp] theorem setQ_sched (q : Nat) (d : Queue) (s : State) : (setQ s q d).sched = s.sched :=
  (setQ_acts _ _ (Acts.refl [.queue] s) rfl).same .sched rfl

@[simp] theorem setQ_ports (q : Nat) (d : Queue) (s : State) : (setQ s q d).ports = s.ports :=
  (setQ_acts _ _ (Acts.refl [.queue] s) rfl).same .ports rfl

@[simp] theorem setQ_front (q : Nat) (d : Queue) (s : State) : (setQ s q d).front = s.front :=
  (setQ_acts _ _ (Acts.refl [.queue] s) rfl).same .front rfl

@[simp] theorem setQ_flow (q : Nat) (d : Queue) (s : State) : (setQ s q d).flow = s.flow :=
  (setQ_acts _ _ (Acts.refl [.queue] s) rfl).same .flow rfl

@[simp] theorem setQ_endpoint (q : Nat) (d : Queue) (s : State) : (setQ s q d).endpoint = s.endpoint :=
  (setQ_acts _ _ (Acts.refl [.queue] s) rfl).same .endpoint rfl

@[simp] theorem setQ_pipe (q : Nat) (d : Queue) (s : State) : (setQ s q d).pipe = s.pipe :=
  (setQ_acts _ _ (Acts.refl [.queue] s) rfl).same .pipe rfl

@[simp] theorem setQ_slots (q : Nat) (d : Queue) (s : State) : (setQ s q d).slots = s.slots :=
  (setQ_acts _ _ (Acts.refl [.queue] s) rfl).same .slots rfl

@[simp] theorem setQ_quant (q : Nat) (d : Queue) (s : State) : (setQ s q d).quant = s.quant :=
  (setQ_acts _ _ (Acts.refl [.queue] s) rfl).same .quant rfl

@[simp] theorem setQ_power (q : Nat) (d : Queue) (s : State) : (setQ s q d).power = s.power :=
  (setQ_acts _ _ (Acts.refl [.queue] s) rfl).same .power rfl

@[simp] theorem setQ_tally (q : Nat) (d : Queue) (s : State) : (setQ s q d).tally = s.tally :=
  (setQ_acts _ _ (Acts.refl [.queue] s) rfl).same .tally rfl

@[simp] theorem setQ_secure (q : Nat) (d : Queue) (s : State) : (setQ s q d).secure = s.secure :=
  (setQ_acts _ _ (Acts.refl [.queue] s) rfl).same .secure rfl

@[simp] theorem setQ_crown (q : Nat) (d : Queue) (s : State) : (setQ s q d).crown = s.crown :=
  (setQ_acts _ _ (Acts.refl [.queue] s) rfl).same .crown rfl

@[simp] theorem setQ_peer (q : Nat) (d : Queue) (s : State) : (setQ s q d).peer = s.peer :=
  (setQ_acts _ _ (Acts.refl [.queue] s) rfl).same .peer rfl

@[simp] theorem setQ_observe (q : Nat) (d : Queue) (s : State) : (setQ s q d).observe = s.observe :=
  (setQ_acts _ _ (Acts.refl [.queue] s) rfl).same .observe rfl

@[simp] theorem setQ_log (q : Nat) (d : Queue) (s : State) : (setQ s q d).log = s.log :=
  (setQ_acts _ _ (Acts.refl [.queue] s) rfl).same .log rfl

@[simp] theorem setQ_pins (q : Nat) (d : Queue) (s : State) : (setQ s q d).pins = s.pins :=
  (setQ_acts _ _ (Acts.refl [.queue] s) rfl).same .pins rfl

@[simp] theorem setQ_hbm (q : Nat) (d : Queue) (s : State) : (setQ s q d).hbm = s.hbm :=
  (setQ_acts _ _ (Acts.refl [.queue] s) rfl).same .hbm rfl

@[simp] theorem setQ_out (q : Nat) (d : Queue) (s : State) : (setQ s q d).out = s.out :=
  (setQ_acts _ _ (Acts.refl [.queue] s) rfl).same .out rfl

@[simp] theorem setQ_noticeSeq (q : Nat) (d : Queue) (s : State) : (setQ s q d).noticeSeq = s.noticeSeq :=
  (setQ_acts _ _ (Acts.refl [.queue] s) rfl).same .noticeSeq rfl

@[simp] theorem setQ_fresh (q : Nat) (d : Queue) (s : State) : (setQ s q d).fresh = s.fresh :=
  (setQ_acts _ _ (Acts.refl [.queue] s) rfl).same .fresh rfl

@[simp] theorem resetRaw_pending (q : Nat) (flush : Bool) (s : State) : (resetRaw s q flush).pending = s.pending :=
  (resetRaw_acts _ _ (Acts.refl [.regs, .ports, .queue, .pipe] s) rfl).same .pending rfl

@[simp] theorem resetRaw_dial (q : Nat) (flush : Bool) (s : State) : (resetRaw s q flush).dial = s.dial :=
  (resetRaw_acts _ _ (Acts.refl [.regs, .ports, .queue, .pipe] s) rfl).same .dial rfl

@[simp] theorem resetRaw_sched (q : Nat) (flush : Bool) (s : State) : (resetRaw s q flush).sched = s.sched :=
  (resetRaw_acts _ _ (Acts.refl [.regs, .ports, .queue, .pipe] s) rfl).same .sched rfl

@[simp] theorem resetRaw_front (q : Nat) (flush : Bool) (s : State) : (resetRaw s q flush).front = s.front :=
  (resetRaw_acts _ _ (Acts.refl [.regs, .ports, .queue, .pipe] s) rfl).same .front rfl

@[simp] theorem resetRaw_flow (q : Nat) (flush : Bool) (s : State) : (resetRaw s q flush).flow = s.flow :=
  (resetRaw_acts _ _ (Acts.refl [.regs, .ports, .queue, .pipe] s) rfl).same .flow rfl

@[simp] theorem resetRaw_endpoint (q : Nat) (flush : Bool) (s : State) : (resetRaw s q flush).endpoint = s.endpoint :=
  (resetRaw_acts _ _ (Acts.refl [.regs, .ports, .queue, .pipe] s) rfl).same .endpoint rfl

@[simp] theorem resetRaw_slots (q : Nat) (flush : Bool) (s : State) : (resetRaw s q flush).slots = s.slots :=
  (resetRaw_acts _ _ (Acts.refl [.regs, .ports, .queue, .pipe] s) rfl).same .slots rfl

@[simp] theorem resetRaw_quant (q : Nat) (flush : Bool) (s : State) : (resetRaw s q flush).quant = s.quant :=
  (resetRaw_acts _ _ (Acts.refl [.regs, .ports, .queue, .pipe] s) rfl).same .quant rfl

@[simp] theorem resetRaw_power (q : Nat) (flush : Bool) (s : State) : (resetRaw s q flush).power = s.power :=
  (resetRaw_acts _ _ (Acts.refl [.regs, .ports, .queue, .pipe] s) rfl).same .power rfl

@[simp] theorem resetRaw_tally (q : Nat) (flush : Bool) (s : State) : (resetRaw s q flush).tally = s.tally :=
  (resetRaw_acts _ _ (Acts.refl [.regs, .ports, .queue, .pipe] s) rfl).same .tally rfl

@[simp] theorem resetRaw_secure (q : Nat) (flush : Bool) (s : State) : (resetRaw s q flush).secure = s.secure :=
  (resetRaw_acts _ _ (Acts.refl [.regs, .ports, .queue, .pipe] s) rfl).same .secure rfl

@[simp] theorem resetRaw_crown (q : Nat) (flush : Bool) (s : State) : (resetRaw s q flush).crown = s.crown :=
  (resetRaw_acts _ _ (Acts.refl [.regs, .ports, .queue, .pipe] s) rfl).same .crown rfl

@[simp] theorem resetRaw_peer (q : Nat) (flush : Bool) (s : State) : (resetRaw s q flush).peer = s.peer :=
  (resetRaw_acts _ _ (Acts.refl [.regs, .ports, .queue, .pipe] s) rfl).same .peer rfl

@[simp] theorem resetRaw_observe (q : Nat) (flush : Bool) (s : State) : (resetRaw s q flush).observe = s.observe :=
  (resetRaw_acts _ _ (Acts.refl [.regs, .ports, .queue, .pipe] s) rfl).same .observe rfl

@[simp] theorem resetRaw_log (q : Nat) (flush : Bool) (s : State) : (resetRaw s q flush).log = s.log :=
  (resetRaw_acts _ _ (Acts.refl [.regs, .ports, .queue, .pipe] s) rfl).same .log rfl

@[simp] theorem resetRaw_pins (q : Nat) (flush : Bool) (s : State) : (resetRaw s q flush).pins = s.pins :=
  (resetRaw_acts _ _ (Acts.refl [.regs, .ports, .queue, .pipe] s) rfl).same .pins rfl

@[simp] theorem resetRaw_hbm (q : Nat) (flush : Bool) (s : State) : (resetRaw s q flush).hbm = s.hbm :=
  (resetRaw_acts _ _ (Acts.refl [.regs, .ports, .queue, .pipe] s) rfl).same .hbm rfl

@[simp] theorem resetRaw_out (q : Nat) (flush : Bool) (s : State) : (resetRaw s q flush).out = s.out :=
  (resetRaw_acts _ _ (Acts.refl [.regs, .ports, .queue, .pipe] s) rfl).same .out rfl

@[simp] theorem resetRaw_noticeSeq (q : Nat) (flush : Bool) (s : State) : (resetRaw s q flush).noticeSeq = s.noticeSeq :=
  (resetRaw_acts _ _ (Acts.refl [.regs, .ports, .queue, .pipe] s) rfl).same .noticeSeq rfl

@[simp] theorem resetRaw_fresh (q : Nat) (flush : Bool) (s : State) : (resetRaw s q flush).fresh = s.fresh :=
  (resetRaw_acts _ _ (Acts.refl [.regs, .ports, .queue, .pipe] s) rfl).same .fresh rfl

@[simp] theorem raise_pending (f : Field) (arg : Nat) (s : State) : (raise s f arg).pending = s.pending :=
  (raise_acts _ _ (Acts.refl [.regs, .queue, .observe, .noticeSeq] s) rfl).same .pending rfl

@[simp] theorem raise_dial (f : Field) (arg : Nat) (s : State) : (raise s f arg).dial = s.dial :=
  (raise_acts _ _ (Acts.refl [.regs, .queue, .observe, .noticeSeq] s) rfl).same .dial rfl

@[simp] theorem raise_sched (f : Field) (arg : Nat) (s : State) : (raise s f arg).sched = s.sched :=
  (raise_acts _ _ (Acts.refl [.regs, .queue, .observe, .noticeSeq] s) rfl).same .sched rfl

@[simp] theorem raise_ports (f : Field) (arg : Nat) (s : State) : (raise s f arg).ports = s.ports :=
  (raise_acts _ _ (Acts.refl [.regs, .queue, .observe, .noticeSeq] s) rfl).same .ports rfl

@[simp] theorem raise_front (f : Field) (arg : Nat) (s : State) : (raise s f arg).front = s.front :=
  (raise_acts _ _ (Acts.refl [.regs, .queue, .observe, .noticeSeq] s) rfl).same .front rfl

@[simp] theorem raise_flow (f : Field) (arg : Nat) (s : State) : (raise s f arg).flow = s.flow :=
  (raise_acts _ _ (Acts.refl [.regs, .queue, .observe, .noticeSeq] s) rfl).same .flow rfl

@[simp] theorem raise_endpoint (f : Field) (arg : Nat) (s : State) : (raise s f arg).endpoint = s.endpoint :=
  (raise_acts _ _ (Acts.refl [.regs, .queue, .observe, .noticeSeq] s) rfl).same .endpoint rfl

@[simp] theorem raise_pipe (f : Field) (arg : Nat) (s : State) : (raise s f arg).pipe = s.pipe :=
  (raise_acts _ _ (Acts.refl [.regs, .queue, .observe, .noticeSeq] s) rfl).same .pipe rfl

@[simp] theorem raise_slots (f : Field) (arg : Nat) (s : State) : (raise s f arg).slots = s.slots :=
  (raise_acts _ _ (Acts.refl [.regs, .queue, .observe, .noticeSeq] s) rfl).same .slots rfl

@[simp] theorem raise_quant (f : Field) (arg : Nat) (s : State) : (raise s f arg).quant = s.quant :=
  (raise_acts _ _ (Acts.refl [.regs, .queue, .observe, .noticeSeq] s) rfl).same .quant rfl

@[simp] theorem raise_power (f : Field) (arg : Nat) (s : State) : (raise s f arg).power = s.power :=
  (raise_acts _ _ (Acts.refl [.regs, .queue, .observe, .noticeSeq] s) rfl).same .power rfl

@[simp] theorem raise_tally (f : Field) (arg : Nat) (s : State) : (raise s f arg).tally = s.tally :=
  (raise_acts _ _ (Acts.refl [.regs, .queue, .observe, .noticeSeq] s) rfl).same .tally rfl

@[simp] theorem raise_secure (f : Field) (arg : Nat) (s : State) : (raise s f arg).secure = s.secure :=
  (raise_acts _ _ (Acts.refl [.regs, .queue, .observe, .noticeSeq] s) rfl).same .secure rfl

@[simp] theorem raise_crown (f : Field) (arg : Nat) (s : State) : (raise s f arg).crown = s.crown :=
  (raise_acts _ _ (Acts.refl [.regs, .queue, .observe, .noticeSeq] s) rfl).same .crown rfl

@[simp] theorem raise_peer (f : Field) (arg : Nat) (s : State) : (raise s f arg).peer = s.peer :=
  (raise_acts _ _ (Acts.refl [.regs, .queue, .observe, .noticeSeq] s) rfl).same .peer rfl

@[simp] theorem raise_log (f : Field) (arg : Nat) (s : State) : (raise s f arg).log = s.log :=
  (raise_acts _ _ (Acts.refl [.regs, .queue, .observe, .noticeSeq] s) rfl).same .log rfl

@[simp] theorem raise_pins (f : Field) (arg : Nat) (s : State) : (raise s f arg).pins = s.pins :=
  (raise_acts _ _ (Acts.refl [.regs, .queue, .observe, .noticeSeq] s) rfl).same .pins rfl

@[simp] theorem raise_hbm (f : Field) (arg : Nat) (s : State) : (raise s f arg).hbm = s.hbm :=
  (raise_acts _ _ (Acts.refl [.regs, .queue, .observe, .noticeSeq] s) rfl).same .hbm rfl

@[simp] theorem raise_out (f : Field) (arg : Nat) (s : State) : (raise s f arg).out = s.out :=
  (raise_acts _ _ (Acts.refl [.regs, .queue, .observe, .noticeSeq] s) rfl).same .out rfl

@[simp] theorem raise_fresh (f : Field) (arg : Nat) (s : State) : (raise s f arg).fresh = s.fresh :=
  (raise_acts _ _ (Acts.refl [.regs, .queue, .observe, .noticeSeq] s) rfl).same .fresh rfl

@[simp] theorem raiseIf_pending (c : Bool) (f : Field) (arg : Nat) (s : State) : (raiseIf c s f arg).pending = s.pending :=
  (raiseIf_acts _ _ _ (Acts.refl [.regs, .queue, .observe, .noticeSeq] s) rfl).same .pending rfl

@[simp] theorem raiseIf_dial (c : Bool) (f : Field) (arg : Nat) (s : State) : (raiseIf c s f arg).dial = s.dial :=
  (raiseIf_acts _ _ _ (Acts.refl [.regs, .queue, .observe, .noticeSeq] s) rfl).same .dial rfl

@[simp] theorem raiseIf_sched (c : Bool) (f : Field) (arg : Nat) (s : State) : (raiseIf c s f arg).sched = s.sched :=
  (raiseIf_acts _ _ _ (Acts.refl [.regs, .queue, .observe, .noticeSeq] s) rfl).same .sched rfl

@[simp] theorem raiseIf_ports (c : Bool) (f : Field) (arg : Nat) (s : State) : (raiseIf c s f arg).ports = s.ports :=
  (raiseIf_acts _ _ _ (Acts.refl [.regs, .queue, .observe, .noticeSeq] s) rfl).same .ports rfl

@[simp] theorem raiseIf_front (c : Bool) (f : Field) (arg : Nat) (s : State) : (raiseIf c s f arg).front = s.front :=
  (raiseIf_acts _ _ _ (Acts.refl [.regs, .queue, .observe, .noticeSeq] s) rfl).same .front rfl

@[simp] theorem raiseIf_flow (c : Bool) (f : Field) (arg : Nat) (s : State) : (raiseIf c s f arg).flow = s.flow :=
  (raiseIf_acts _ _ _ (Acts.refl [.regs, .queue, .observe, .noticeSeq] s) rfl).same .flow rfl

@[simp] theorem raiseIf_endpoint (c : Bool) (f : Field) (arg : Nat) (s : State) : (raiseIf c s f arg).endpoint = s.endpoint :=
  (raiseIf_acts _ _ _ (Acts.refl [.regs, .queue, .observe, .noticeSeq] s) rfl).same .endpoint rfl

@[simp] theorem raiseIf_pipe (c : Bool) (f : Field) (arg : Nat) (s : State) : (raiseIf c s f arg).pipe = s.pipe :=
  (raiseIf_acts _ _ _ (Acts.refl [.regs, .queue, .observe, .noticeSeq] s) rfl).same .pipe rfl

@[simp] theorem raiseIf_slots (c : Bool) (f : Field) (arg : Nat) (s : State) : (raiseIf c s f arg).slots = s.slots :=
  (raiseIf_acts _ _ _ (Acts.refl [.regs, .queue, .observe, .noticeSeq] s) rfl).same .slots rfl

@[simp] theorem raiseIf_quant (c : Bool) (f : Field) (arg : Nat) (s : State) : (raiseIf c s f arg).quant = s.quant :=
  (raiseIf_acts _ _ _ (Acts.refl [.regs, .queue, .observe, .noticeSeq] s) rfl).same .quant rfl

@[simp] theorem raiseIf_power (c : Bool) (f : Field) (arg : Nat) (s : State) : (raiseIf c s f arg).power = s.power :=
  (raiseIf_acts _ _ _ (Acts.refl [.regs, .queue, .observe, .noticeSeq] s) rfl).same .power rfl

@[simp] theorem raiseIf_tally (c : Bool) (f : Field) (arg : Nat) (s : State) : (raiseIf c s f arg).tally = s.tally :=
  (raiseIf_acts _ _ _ (Acts.refl [.regs, .queue, .observe, .noticeSeq] s) rfl).same .tally rfl

@[simp] theorem raiseIf_secure (c : Bool) (f : Field) (arg : Nat) (s : State) : (raiseIf c s f arg).secure = s.secure :=
  (raiseIf_acts _ _ _ (Acts.refl [.regs, .queue, .observe, .noticeSeq] s) rfl).same .secure rfl

@[simp] theorem raiseIf_crown (c : Bool) (f : Field) (arg : Nat) (s : State) : (raiseIf c s f arg).crown = s.crown :=
  (raiseIf_acts _ _ _ (Acts.refl [.regs, .queue, .observe, .noticeSeq] s) rfl).same .crown rfl

@[simp] theorem raiseIf_peer (c : Bool) (f : Field) (arg : Nat) (s : State) : (raiseIf c s f arg).peer = s.peer :=
  (raiseIf_acts _ _ _ (Acts.refl [.regs, .queue, .observe, .noticeSeq] s) rfl).same .peer rfl

@[simp] theorem raiseIf_log (c : Bool) (f : Field) (arg : Nat) (s : State) : (raiseIf c s f arg).log = s.log :=
  (raiseIf_acts _ _ _ (Acts.refl [.regs, .queue, .observe, .noticeSeq] s) rfl).same .log rfl

@[simp] theorem raiseIf_pins (c : Bool) (f : Field) (arg : Nat) (s : State) : (raiseIf c s f arg).pins = s.pins :=
  (raiseIf_acts _ _ _ (Acts.refl [.regs, .queue, .observe, .noticeSeq] s) rfl).same .pins rfl

@[simp] theorem raiseIf_hbm (c : Bool) (f : Field) (arg : Nat) (s : State) : (raiseIf c s f arg).hbm = s.hbm :=
  (raiseIf_acts _ _ _ (Acts.refl [.regs, .queue, .observe, .noticeSeq] s) rfl).same .hbm rfl

@[simp] theorem raiseIf_out (c : Bool) (f : Field) (arg : Nat) (s : State) : (raiseIf c s f arg).out = s.out :=
  (raiseIf_acts _ _ _ (Acts.refl [.regs, .queue, .observe, .noticeSeq] s) rfl).same .out rfl

@[simp] theorem raiseIf_fresh (c : Bool) (f : Field) (arg : Nat) (s : State) : (raiseIf c s f arg).fresh = s.fresh :=
  (raiseIf_acts _ _ _ (Acts.refl [.regs, .queue, .observe, .noticeSeq] s) rfl).same .fresh rfl

@[simp] theorem trace_pending (type : Nat) (ts : Nat) (body : Nat) (s : State) : (trace s type ts body).pending = s.pending :=
  (trace_acts _ _ _ (Acts.refl [.regs, .queue, .observe, .noticeSeq] s) rfl).same .pending rfl

@[simp] theorem trace_dial (type : Nat) (ts : Nat) (body : Nat) (s : State) : (trace s type ts body).dial = s.dial :=
  (trace_acts _ _ _ (Acts.refl [.regs, .queue, .observe, .noticeSeq] s) rfl).same .dial rfl

@[simp] theorem trace_sched (type : Nat) (ts : Nat) (body : Nat) (s : State) : (trace s type ts body).sched = s.sched :=
  (trace_acts _ _ _ (Acts.refl [.regs, .queue, .observe, .noticeSeq] s) rfl).same .sched rfl

@[simp] theorem trace_ports (type : Nat) (ts : Nat) (body : Nat) (s : State) : (trace s type ts body).ports = s.ports :=
  (trace_acts _ _ _ (Acts.refl [.regs, .queue, .observe, .noticeSeq] s) rfl).same .ports rfl

@[simp] theorem trace_front (type : Nat) (ts : Nat) (body : Nat) (s : State) : (trace s type ts body).front = s.front :=
  (trace_acts _ _ _ (Acts.refl [.regs, .queue, .observe, .noticeSeq] s) rfl).same .front rfl

@[simp] theorem trace_flow (type : Nat) (ts : Nat) (body : Nat) (s : State) : (trace s type ts body).flow = s.flow :=
  (trace_acts _ _ _ (Acts.refl [.regs, .queue, .observe, .noticeSeq] s) rfl).same .flow rfl

@[simp] theorem trace_endpoint (type : Nat) (ts : Nat) (body : Nat) (s : State) : (trace s type ts body).endpoint = s.endpoint :=
  (trace_acts _ _ _ (Acts.refl [.regs, .queue, .observe, .noticeSeq] s) rfl).same .endpoint rfl

@[simp] theorem trace_pipe (type : Nat) (ts : Nat) (body : Nat) (s : State) : (trace s type ts body).pipe = s.pipe :=
  (trace_acts _ _ _ (Acts.refl [.regs, .queue, .observe, .noticeSeq] s) rfl).same .pipe rfl

@[simp] theorem trace_slots (type : Nat) (ts : Nat) (body : Nat) (s : State) : (trace s type ts body).slots = s.slots :=
  (trace_acts _ _ _ (Acts.refl [.regs, .queue, .observe, .noticeSeq] s) rfl).same .slots rfl

@[simp] theorem trace_quant (type : Nat) (ts : Nat) (body : Nat) (s : State) : (trace s type ts body).quant = s.quant :=
  (trace_acts _ _ _ (Acts.refl [.regs, .queue, .observe, .noticeSeq] s) rfl).same .quant rfl

@[simp] theorem trace_power (type : Nat) (ts : Nat) (body : Nat) (s : State) : (trace s type ts body).power = s.power :=
  (trace_acts _ _ _ (Acts.refl [.regs, .queue, .observe, .noticeSeq] s) rfl).same .power rfl

@[simp] theorem trace_tally (type : Nat) (ts : Nat) (body : Nat) (s : State) : (trace s type ts body).tally = s.tally :=
  (trace_acts _ _ _ (Acts.refl [.regs, .queue, .observe, .noticeSeq] s) rfl).same .tally rfl

@[simp] theorem trace_secure (type : Nat) (ts : Nat) (body : Nat) (s : State) : (trace s type ts body).secure = s.secure :=
  (trace_acts _ _ _ (Acts.refl [.regs, .queue, .observe, .noticeSeq] s) rfl).same .secure rfl

@[simp] theorem trace_crown (type : Nat) (ts : Nat) (body : Nat) (s : State) : (trace s type ts body).crown = s.crown :=
  (trace_acts _ _ _ (Acts.refl [.regs, .queue, .observe, .noticeSeq] s) rfl).same .crown rfl

@[simp] theorem trace_peer (type : Nat) (ts : Nat) (body : Nat) (s : State) : (trace s type ts body).peer = s.peer :=
  (trace_acts _ _ _ (Acts.refl [.regs, .queue, .observe, .noticeSeq] s) rfl).same .peer rfl

@[simp] theorem trace_log (type : Nat) (ts : Nat) (body : Nat) (s : State) : (trace s type ts body).log = s.log :=
  (trace_acts _ _ _ (Acts.refl [.regs, .queue, .observe, .noticeSeq] s) rfl).same .log rfl

@[simp] theorem trace_pins (type : Nat) (ts : Nat) (body : Nat) (s : State) : (trace s type ts body).pins = s.pins :=
  (trace_acts _ _ _ (Acts.refl [.regs, .queue, .observe, .noticeSeq] s) rfl).same .pins rfl

@[simp] theorem trace_hbm (type : Nat) (ts : Nat) (body : Nat) (s : State) : (trace s type ts body).hbm = s.hbm :=
  (trace_acts _ _ _ (Acts.refl [.regs, .queue, .observe, .noticeSeq] s) rfl).same .hbm rfl

@[simp] theorem trace_out (type : Nat) (ts : Nat) (body : Nat) (s : State) : (trace s type ts body).out = s.out :=
  (trace_acts _ _ _ (Acts.refl [.regs, .queue, .observe, .noticeSeq] s) rfl).same .out rfl

@[simp] theorem trace_fresh (type : Nat) (ts : Nat) (body : Nat) (s : State) : (trace s type ts body).fresh = s.fresh :=
  (trace_acts _ _ _ (Acts.refl [.regs, .queue, .observe, .noticeSeq] s) rfl).same .fresh rfl

@[simp] theorem enqueue_pending (q : Nat) (band : Nat) (item : Nat) (s : State) : (enqueue s q band item).1.pending = s.pending :=
  (enqueue_acts _ _ _ (Acts.refl [.regs, .ports, .queue, .pipe, .observe, .noticeSeq] s) rfl).same .pending rfl

@[simp] theorem enqueue_dial (q : Nat) (band : Nat) (item : Nat) (s : State) : (enqueue s q band item).1.dial = s.dial :=
  (enqueue_acts _ _ _ (Acts.refl [.regs, .ports, .queue, .pipe, .observe, .noticeSeq] s) rfl).same .dial rfl

@[simp] theorem enqueue_sched (q : Nat) (band : Nat) (item : Nat) (s : State) : (enqueue s q band item).1.sched = s.sched :=
  (enqueue_acts _ _ _ (Acts.refl [.regs, .ports, .queue, .pipe, .observe, .noticeSeq] s) rfl).same .sched rfl

@[simp] theorem enqueue_front (q : Nat) (band : Nat) (item : Nat) (s : State) : (enqueue s q band item).1.front = s.front :=
  (enqueue_acts _ _ _ (Acts.refl [.regs, .ports, .queue, .pipe, .observe, .noticeSeq] s) rfl).same .front rfl

@[simp] theorem enqueue_flow (q : Nat) (band : Nat) (item : Nat) (s : State) : (enqueue s q band item).1.flow = s.flow :=
  (enqueue_acts _ _ _ (Acts.refl [.regs, .ports, .queue, .pipe, .observe, .noticeSeq] s) rfl).same .flow rfl

@[simp] theorem enqueue_endpoint (q : Nat) (band : Nat) (item : Nat) (s : State) : (enqueue s q band item).1.endpoint = s.endpoint :=
  (enqueue_acts _ _ _ (Acts.refl [.regs, .ports, .queue, .pipe, .observe, .noticeSeq] s) rfl).same .endpoint rfl

@[simp] theorem enqueue_slots (q : Nat) (band : Nat) (item : Nat) (s : State) : (enqueue s q band item).1.slots = s.slots :=
  (enqueue_acts _ _ _ (Acts.refl [.regs, .ports, .queue, .pipe, .observe, .noticeSeq] s) rfl).same .slots rfl

@[simp] theorem enqueue_quant (q : Nat) (band : Nat) (item : Nat) (s : State) : (enqueue s q band item).1.quant = s.quant :=
  (enqueue_acts _ _ _ (Acts.refl [.regs, .ports, .queue, .pipe, .observe, .noticeSeq] s) rfl).same .quant rfl

@[simp] theorem enqueue_power (q : Nat) (band : Nat) (item : Nat) (s : State) : (enqueue s q band item).1.power = s.power :=
  (enqueue_acts _ _ _ (Acts.refl [.regs, .ports, .queue, .pipe, .observe, .noticeSeq] s) rfl).same .power rfl

@[simp] theorem enqueue_tally (q : Nat) (band : Nat) (item : Nat) (s : State) : (enqueue s q band item).1.tally = s.tally :=
  (enqueue_acts _ _ _ (Acts.refl [.regs, .ports, .queue, .pipe, .observe, .noticeSeq] s) rfl).same .tally rfl

@[simp] theorem enqueue_secure (q : Nat) (band : Nat) (item : Nat) (s : State) : (enqueue s q band item).1.secure = s.secure :=
  (enqueue_acts _ _ _ (Acts.refl [.regs, .ports, .queue, .pipe, .observe, .noticeSeq] s) rfl).same .secure rfl

@[simp] theorem enqueue_crown (q : Nat) (band : Nat) (item : Nat) (s : State) : (enqueue s q band item).1.crown = s.crown :=
  (enqueue_acts _ _ _ (Acts.refl [.regs, .ports, .queue, .pipe, .observe, .noticeSeq] s) rfl).same .crown rfl

@[simp] theorem enqueue_peer (q : Nat) (band : Nat) (item : Nat) (s : State) : (enqueue s q band item).1.peer = s.peer :=
  (enqueue_acts _ _ _ (Acts.refl [.regs, .ports, .queue, .pipe, .observe, .noticeSeq] s) rfl).same .peer rfl

@[simp] theorem enqueue_log (q : Nat) (band : Nat) (item : Nat) (s : State) : (enqueue s q band item).1.log = s.log :=
  (enqueue_acts _ _ _ (Acts.refl [.regs, .ports, .queue, .pipe, .observe, .noticeSeq] s) rfl).same .log rfl

@[simp] theorem enqueue_pins (q : Nat) (band : Nat) (item : Nat) (s : State) : (enqueue s q band item).1.pins = s.pins :=
  (enqueue_acts _ _ _ (Acts.refl [.regs, .ports, .queue, .pipe, .observe, .noticeSeq] s) rfl).same .pins rfl

@[simp] theorem enqueue_hbm (q : Nat) (band : Nat) (item : Nat) (s : State) : (enqueue s q band item).1.hbm = s.hbm :=
  (enqueue_acts _ _ _ (Acts.refl [.regs, .ports, .queue, .pipe, .observe, .noticeSeq] s) rfl).same .hbm rfl

@[simp] theorem enqueue_out (q : Nat) (band : Nat) (item : Nat) (s : State) : (enqueue s q band item).1.out = s.out :=
  (enqueue_acts _ _ _ (Acts.refl [.regs, .ports, .queue, .pipe, .observe, .noticeSeq] s) rfl).same .out rfl

@[simp] theorem enqueue_fresh (q : Nat) (band : Nat) (item : Nat) (s : State) : (enqueue s q band item).1.fresh = s.fresh :=
  (enqueue_acts _ _ _ (Acts.refl [.regs, .ports, .queue, .pipe, .observe, .noticeSeq] s) rfl).same .fresh rfl

@[simp] theorem requestRestart_pending  (s : State) : (requestRestart s).pending = s.pending :=
  (requestRestart_acts  (Acts.refl [.sched] s) rfl).same .pending rfl

@[simp] theorem requestRestart_regs  (s : State) : (requestRestart s).regs = s.regs :=
  (requestRestart_acts  (Acts.refl [.sched] s) rfl).same .regs rfl

@[simp] theorem requestRestart_dial  (s : State) : (requestRestart s).dial = s.dial :=
  (requestRestart_acts  (Acts.refl [.sched] s) rfl).same .dial rfl

@[simp] theorem requestRestart_ports  (s : State) : (requestRestart s).ports = s.ports :=
  (requestRestart_acts  (Acts.refl [.sched] s) rfl).same .ports rfl

@[simp] theorem requestRestart_front  (s : State) : (requestRestart s).front = s.front :=
  (requestRestart_acts  (Acts.refl [.sched] s) rfl).same .front rfl

@[simp] theorem requestRestart_flow  (s : State) : (requestRestart s).flow = s.flow :=
  (requestRestart_acts  (Acts.refl [.sched] s) rfl).same .flow rfl

@[simp] theorem requestRestart_endpoint  (s : State) : (requestRestart s).endpoint = s.endpoint :=
  (requestRestart_acts  (Acts.refl [.sched] s) rfl).same .endpoint rfl

@[simp] theorem requestRestart_queue  (s : State) : (requestRestart s).queue = s.queue :=
  (requestRestart_acts  (Acts.refl [.sched] s) rfl).same .queue rfl

@[simp] theorem requestRestart_pipe  (s : State) : (requestRestart s).pipe = s.pipe :=
  (requestRestart_acts  (Acts.refl [.sched] s) rfl).same .pipe rfl

@[simp] theorem requestRestart_slots  (s : State) : (requestRestart s).slots = s.slots :=
  (requestRestart_acts  (Acts.refl [.sched] s) rfl).same .slots rfl

@[simp] theorem requestRestart_quant  (s : State) : (requestRestart s).quant = s.quant :=
  (requestRestart_acts  (Acts.refl [.sched] s) rfl).same .quant rfl

@[simp] theorem requestRestart_power  (s : State) : (requestRestart s).power = s.power :=
  (requestRestart_acts  (Acts.refl [.sched] s) rfl).same .power rfl

@[simp] theorem requestRestart_tally  (s : State) : (requestRestart s).tally = s.tally :=
  (requestRestart_acts  (Acts.refl [.sched] s) rfl).same .tally rfl

@[simp] theorem requestRestart_secure  (s : State) : (requestRestart s).secure = s.secure :=
  (requestRestart_acts  (Acts.refl [.sched] s) rfl).same .secure rfl

@[simp] theorem requestRestart_crown  (s : State) : (requestRestart s).crown = s.crown :=
  (requestRestart_acts  (Acts.refl [.sched] s) rfl).same .crown rfl

@[simp] theorem requestRestart_peer  (s : State) : (requestRestart s).peer = s.peer :=
  (requestRestart_acts  (Acts.refl [.sched] s) rfl).same .peer rfl

@[simp] theorem requestRestart_observe  (s : State) : (requestRestart s).observe = s.observe :=
  (requestRestart_acts  (Acts.refl [.sched] s) rfl).same .observe rfl

@[simp] theorem requestRestart_log  (s : State) : (requestRestart s).log = s.log :=
  (requestRestart_acts  (Acts.refl [.sched] s) rfl).same .log rfl

@[simp] theorem requestRestart_pins  (s : State) : (requestRestart s).pins = s.pins :=
  (requestRestart_acts  (Acts.refl [.sched] s) rfl).same .pins rfl

@[simp] theorem requestRestart_hbm  (s : State) : (requestRestart s).hbm = s.hbm :=
  (requestRestart_acts  (Acts.refl [.sched] s) rfl).same .hbm rfl

@[simp] theorem requestRestart_out  (s : State) : (requestRestart s).out = s.out :=
  (requestRestart_acts  (Acts.refl [.sched] s) rfl).same .out rfl

@[simp] theorem requestRestart_noticeSeq  (s : State) : (requestRestart s).noticeSeq = s.noticeSeq :=
  (requestRestart_acts  (Acts.refl [.sched] s) rfl).same .noticeSeq rfl

@[simp] theorem requestRestart_fresh  (s : State) : (requestRestart s).fresh = s.fresh :=
  (requestRestart_acts  (Acts.refl [.sched] s) rfl).same .fresh rfl

@[simp] theorem unitFailing_pending (kind : Nat) (number : Nat) (s : State) : (unitFailing s kind number).pending = s.pending :=
  (unitFailing_acts _ _ (Acts.refl [.regs, .sched, .queue, .pipe, .observe, .noticeSeq] s) rfl).same .pending rfl

@[simp] theorem unitFailing_dial (kind : Nat) (number : Nat) (s : State) : (unitFailing s kind number).dial = s.dial :=
  (unitFailing_acts _ _ (Acts.refl [.regs, .sched, .queue, .pipe, .observe, .noticeSeq] s) rfl).same .dial rfl

@[simp] theorem unitFailing_ports (kind : Nat) (number : Nat) (s : State) : (unitFailing s kind number).ports = s.ports :=
  (unitFailing_acts _ _ (Acts.refl [.regs, .sched, .queue, .pipe, .observe, .noticeSeq] s) rfl).same .ports rfl

@[simp] theorem unitFailing_front (kind : Nat) (number : Nat) (s : State) : (unitFailing s kind number).front = s.front :=
  (unitFailing_acts _ _ (Acts.refl [.regs, .sched, .queue, .pipe, .observe, .noticeSeq] s) rfl).same .front rfl

@[simp] theorem unitFailing_flow (kind : Nat) (number : Nat) (s : State) : (unitFailing s kind number).flow = s.flow :=
  (unitFailing_acts _ _ (Acts.refl [.regs, .sched, .queue, .pipe, .observe, .noticeSeq] s) rfl).same .flow rfl

@[simp] theorem unitFailing_endpoint (kind : Nat) (number : Nat) (s : State) : (unitFailing s kind number).endpoint = s.endpoint :=
  (unitFailing_acts _ _ (Acts.refl [.regs, .sched, .queue, .pipe, .observe, .noticeSeq] s) rfl).same .endpoint rfl

@[simp] theorem unitFailing_slots (kind : Nat) (number : Nat) (s : State) : (unitFailing s kind number).slots = s.slots :=
  (unitFailing_acts _ _ (Acts.refl [.regs, .sched, .queue, .pipe, .observe, .noticeSeq] s) rfl).same .slots rfl

@[simp] theorem unitFailing_quant (kind : Nat) (number : Nat) (s : State) : (unitFailing s kind number).quant = s.quant :=
  (unitFailing_acts _ _ (Acts.refl [.regs, .sched, .queue, .pipe, .observe, .noticeSeq] s) rfl).same .quant rfl

@[simp] theorem unitFailing_power (kind : Nat) (number : Nat) (s : State) : (unitFailing s kind number).power = s.power :=
  (unitFailing_acts _ _ (Acts.refl [.regs, .sched, .queue, .pipe, .observe, .noticeSeq] s) rfl).same .power rfl

@[simp] theorem unitFailing_tally (kind : Nat) (number : Nat) (s : State) : (unitFailing s kind number).tally = s.tally :=
  (unitFailing_acts _ _ (Acts.refl [.regs, .sched, .queue, .pipe, .observe, .noticeSeq] s) rfl).same .tally rfl

@[simp] theorem unitFailing_secure (kind : Nat) (number : Nat) (s : State) : (unitFailing s kind number).secure = s.secure :=
  (unitFailing_acts _ _ (Acts.refl [.regs, .sched, .queue, .pipe, .observe, .noticeSeq] s) rfl).same .secure rfl

@[simp] theorem unitFailing_crown (kind : Nat) (number : Nat) (s : State) : (unitFailing s kind number).crown = s.crown :=
  (unitFailing_acts _ _ (Acts.refl [.regs, .sched, .queue, .pipe, .observe, .noticeSeq] s) rfl).same .crown rfl

@[simp] theorem unitFailing_peer (kind : Nat) (number : Nat) (s : State) : (unitFailing s kind number).peer = s.peer :=
  (unitFailing_acts _ _ (Acts.refl [.regs, .sched, .queue, .pipe, .observe, .noticeSeq] s) rfl).same .peer rfl

@[simp] theorem unitFailing_log (kind : Nat) (number : Nat) (s : State) : (unitFailing s kind number).log = s.log :=
  (unitFailing_acts _ _ (Acts.refl [.regs, .sched, .queue, .pipe, .observe, .noticeSeq] s) rfl).same .log rfl

@[simp] theorem unitFailing_pins (kind : Nat) (number : Nat) (s : State) : (unitFailing s kind number).pins = s.pins :=
  (unitFailing_acts _ _ (Acts.refl [.regs, .sched, .queue, .pipe, .observe, .noticeSeq] s) rfl).same .pins rfl

@[simp] theorem unitFailing_hbm (kind : Nat) (number : Nat) (s : State) : (unitFailing s kind number).hbm = s.hbm :=
  (unitFailing_acts _ _ (Acts.refl [.regs, .sched, .queue, .pipe, .observe, .noticeSeq] s) rfl).same .hbm rfl

@[simp] theorem unitFailing_out (kind : Nat) (number : Nat) (s : State) : (unitFailing s kind number).out = s.out :=
  (unitFailing_acts _ _ (Acts.refl [.regs, .sched, .queue, .pipe, .observe, .noticeSeq] s) rfl).same .out rfl

@[simp] theorem unitFailing_fresh (kind : Nat) (number : Nat) (s : State) : (unitFailing s kind number).fresh = s.fresh :=
  (unitFailing_acts _ _ (Acts.refl [.regs, .sched, .queue, .pipe, .observe, .noticeSeq] s) rfl).same .fresh rfl

@[simp] theorem faultFound_pending (c : Nat) (lasting : Bool) (location : Nat) (channel : Option Nat) (s : State) : (faultFound s c lasting location channel).pending = s.pending :=
  (faultFound_acts _ _ _ _ (Acts.refl [.regs, .sched, .queue, .pipe, .observe, .log, .noticeSeq] s) rfl).same .pending rfl

@[simp] theorem faultFound_dial (c : Nat) (lasting : Bool) (location : Nat) (channel : Option Nat) (s : State) : (faultFound s c lasting location channel).dial = s.dial :=
  (faultFound_acts _ _ _ _ (Acts.refl [.regs, .sched, .queue, .pipe, .observe, .log, .noticeSeq] s) rfl).same .dial rfl

@[simp] theorem faultFound_ports (c : Nat) (lasting : Bool) (location : Nat) (channel : Option Nat) (s : State) : (faultFound s c lasting location channel).ports = s.ports :=
  (faultFound_acts _ _ _ _ (Acts.refl [.regs, .sched, .queue, .pipe, .observe, .log, .noticeSeq] s) rfl).same .ports rfl

@[simp] theorem faultFound_front (c : Nat) (lasting : Bool) (location : Nat) (channel : Option Nat) (s : State) : (faultFound s c lasting location channel).front = s.front :=
  (faultFound_acts _ _ _ _ (Acts.refl [.regs, .sched, .queue, .pipe, .observe, .log, .noticeSeq] s) rfl).same .front rfl

@[simp] theorem faultFound_flow (c : Nat) (lasting : Bool) (location : Nat) (channel : Option Nat) (s : State) : (faultFound s c lasting location channel).flow = s.flow :=
  (faultFound_acts _ _ _ _ (Acts.refl [.regs, .sched, .queue, .pipe, .observe, .log, .noticeSeq] s) rfl).same .flow rfl

@[simp] theorem faultFound_endpoint (c : Nat) (lasting : Bool) (location : Nat) (channel : Option Nat) (s : State) : (faultFound s c lasting location channel).endpoint = s.endpoint :=
  (faultFound_acts _ _ _ _ (Acts.refl [.regs, .sched, .queue, .pipe, .observe, .log, .noticeSeq] s) rfl).same .endpoint rfl

@[simp] theorem faultFound_slots (c : Nat) (lasting : Bool) (location : Nat) (channel : Option Nat) (s : State) : (faultFound s c lasting location channel).slots = s.slots :=
  (faultFound_acts _ _ _ _ (Acts.refl [.regs, .sched, .queue, .pipe, .observe, .log, .noticeSeq] s) rfl).same .slots rfl

@[simp] theorem faultFound_quant (c : Nat) (lasting : Bool) (location : Nat) (channel : Option Nat) (s : State) : (faultFound s c lasting location channel).quant = s.quant :=
  (faultFound_acts _ _ _ _ (Acts.refl [.regs, .sched, .queue, .pipe, .observe, .log, .noticeSeq] s) rfl).same .quant rfl

@[simp] theorem faultFound_power (c : Nat) (lasting : Bool) (location : Nat) (channel : Option Nat) (s : State) : (faultFound s c lasting location channel).power = s.power :=
  (faultFound_acts _ _ _ _ (Acts.refl [.regs, .sched, .queue, .pipe, .observe, .log, .noticeSeq] s) rfl).same .power rfl

@[simp] theorem faultFound_tally (c : Nat) (lasting : Bool) (location : Nat) (channel : Option Nat) (s : State) : (faultFound s c lasting location channel).tally = s.tally :=
  (faultFound_acts _ _ _ _ (Acts.refl [.regs, .sched, .queue, .pipe, .observe, .log, .noticeSeq] s) rfl).same .tally rfl

@[simp] theorem faultFound_secure (c : Nat) (lasting : Bool) (location : Nat) (channel : Option Nat) (s : State) : (faultFound s c lasting location channel).secure = s.secure :=
  (faultFound_acts _ _ _ _ (Acts.refl [.regs, .sched, .queue, .pipe, .observe, .log, .noticeSeq] s) rfl).same .secure rfl

@[simp] theorem faultFound_crown (c : Nat) (lasting : Bool) (location : Nat) (channel : Option Nat) (s : State) : (faultFound s c lasting location channel).crown = s.crown :=
  (faultFound_acts _ _ _ _ (Acts.refl [.regs, .sched, .queue, .pipe, .observe, .log, .noticeSeq] s) rfl).same .crown rfl

@[simp] theorem faultFound_peer (c : Nat) (lasting : Bool) (location : Nat) (channel : Option Nat) (s : State) : (faultFound s c lasting location channel).peer = s.peer :=
  (faultFound_acts _ _ _ _ (Acts.refl [.regs, .sched, .queue, .pipe, .observe, .log, .noticeSeq] s) rfl).same .peer rfl

@[simp] theorem faultFound_pins (c : Nat) (lasting : Bool) (location : Nat) (channel : Option Nat) (s : State) : (faultFound s c lasting location channel).pins = s.pins :=
  (faultFound_acts _ _ _ _ (Acts.refl [.regs, .sched, .queue, .pipe, .observe, .log, .noticeSeq] s) rfl).same .pins rfl

@[simp] theorem faultFound_hbm (c : Nat) (lasting : Bool) (location : Nat) (channel : Option Nat) (s : State) : (faultFound s c lasting location channel).hbm = s.hbm :=
  (faultFound_acts _ _ _ _ (Acts.refl [.regs, .sched, .queue, .pipe, .observe, .log, .noticeSeq] s) rfl).same .hbm rfl

@[simp] theorem faultFound_out (c : Nat) (lasting : Bool) (location : Nat) (channel : Option Nat) (s : State) : (faultFound s c lasting location channel).out = s.out :=
  (faultFound_acts _ _ _ _ (Acts.refl [.regs, .sched, .queue, .pipe, .observe, .log, .noticeSeq] s) rfl).same .out rfl

@[simp] theorem faultFound_fresh (c : Nat) (lasting : Bool) (location : Nat) (channel : Option Nat) (s : State) : (faultFound s c lasting location channel).fresh = s.fresh :=
  (faultFound_acts _ _ _ _ (Acts.refl [.regs, .sched, .queue, .pipe, .observe, .log, .noticeSeq] s) rfl).same .fresh rfl

@[simp] theorem dequeue_pending (q : Nat) (s : State) : (dequeue s q).1.pending = s.pending :=
  (dequeue_acts _ (Acts.refl [.regs, .sched, .ports, .queue, .pipe, .observe, .log, .noticeSeq] s) rfl).same .pending rfl

@[simp] theorem dequeue_dial (q : Nat) (s : State) : (dequeue s q).1.dial = s.dial :=
  (dequeue_acts _ (Acts.refl [.regs, .sched, .ports, .queue, .pipe, .observe, .log, .noticeSeq] s) rfl).same .dial rfl

@[simp] theorem dequeue_front (q : Nat) (s : State) : (dequeue s q).1.front = s.front :=
  (dequeue_acts _ (Acts.refl [.regs, .sched, .ports, .queue, .pipe, .observe, .log, .noticeSeq] s) rfl).same .front rfl

@[simp] theorem dequeue_flow (q : Nat) (s : State) : (dequeue s q).1.flow = s.flow :=
  (dequeue_acts _ (Acts.refl [.regs, .sched, .ports, .queue, .pipe, .observe, .log, .noticeSeq] s) rfl).same .flow rfl

@[simp] theorem dequeue_endpoint (q : Nat) (s : State) : (dequeue s q).1.endpoint = s.endpoint :=
  (dequeue_acts _ (Acts.refl [.regs, .sched, .ports, .queue, .pipe, .observe, .log, .noticeSeq] s) rfl).same .endpoint rfl

@[simp] theorem dequeue_slots (q : Nat) (s : State) : (dequeue s q).1.slots = s.slots :=
  (dequeue_acts _ (Acts.refl [.regs, .sched, .ports, .queue, .pipe, .observe, .log, .noticeSeq] s) rfl).same .slots rfl

@[simp] theorem dequeue_quant (q : Nat) (s : State) : (dequeue s q).1.quant = s.quant :=
  (dequeue_acts _ (Acts.refl [.regs, .sched, .ports, .queue, .pipe, .observe, .log, .noticeSeq] s) rfl).same .quant rfl

@[simp] theorem dequeue_power (q : Nat) (s : State) : (dequeue s q).1.power = s.power :=
  (dequeue_acts _ (Acts.refl [.regs, .sched, .ports, .queue, .pipe, .observe, .log, .noticeSeq] s) rfl).same .power rfl

@[simp] theorem dequeue_tally (q : Nat) (s : State) : (dequeue s q).1.tally = s.tally :=
  (dequeue_acts _ (Acts.refl [.regs, .sched, .ports, .queue, .pipe, .observe, .log, .noticeSeq] s) rfl).same .tally rfl

@[simp] theorem dequeue_secure (q : Nat) (s : State) : (dequeue s q).1.secure = s.secure :=
  (dequeue_acts _ (Acts.refl [.regs, .sched, .ports, .queue, .pipe, .observe, .log, .noticeSeq] s) rfl).same .secure rfl

@[simp] theorem dequeue_crown (q : Nat) (s : State) : (dequeue s q).1.crown = s.crown :=
  (dequeue_acts _ (Acts.refl [.regs, .sched, .ports, .queue, .pipe, .observe, .log, .noticeSeq] s) rfl).same .crown rfl

@[simp] theorem dequeue_peer (q : Nat) (s : State) : (dequeue s q).1.peer = s.peer :=
  (dequeue_acts _ (Acts.refl [.regs, .sched, .ports, .queue, .pipe, .observe, .log, .noticeSeq] s) rfl).same .peer rfl

@[simp] theorem dequeue_pins (q : Nat) (s : State) : (dequeue s q).1.pins = s.pins :=
  (dequeue_acts _ (Acts.refl [.regs, .sched, .ports, .queue, .pipe, .observe, .log, .noticeSeq] s) rfl).same .pins rfl

@[simp] theorem dequeue_hbm (q : Nat) (s : State) : (dequeue s q).1.hbm = s.hbm :=
  (dequeue_acts _ (Acts.refl [.regs, .sched, .ports, .queue, .pipe, .observe, .log, .noticeSeq] s) rfl).same .hbm rfl

@[simp] theorem dequeue_out (q : Nat) (s : State) : (dequeue s q).1.out = s.out :=
  (dequeue_acts _ (Acts.refl [.regs, .sched, .ports, .queue, .pipe, .observe, .log, .noticeSeq] s) rfl).same .out rfl

@[simp] theorem dequeue_fresh (q : Nat) (s : State) : (dequeue s q).1.fresh = s.fresh :=
  (dequeue_acts _ (Acts.refl [.regs, .sched, .ports, .queue, .pipe, .observe, .log, .noticeSeq] s) rfl).same .fresh rfl

@[simp] theorem refresh_pending  (s : State) : (refresh s).pending = s.pending :=
  (refresh_acts  (Acts.refl [.regs, .power, .pins] s) rfl).same .pending rfl

@[simp] theorem refresh_dial  (s : State) : (refresh s).dial = s.dial :=
  (refresh_acts  (Acts.refl [.regs, .power, .pins] s) rfl).same .dial rfl

@[simp] theorem refresh_sched  (s : State) : (refresh s).sched = s.sched :=
  (refresh_acts  (Acts.refl [.regs, .power, .pins] s) rfl).same .sched rfl

@[simp] theorem refresh_ports  (s : State) : (refresh s).ports = s.ports :=
  (refresh_acts  (Acts.refl [.regs, .power, .pins] s) rfl).same .ports rfl

@[simp] theorem refresh_front  (s : State) : (refresh s).front = s.front :=
  (refresh_acts  (Acts.refl [.regs, .power, .pins] s) rfl).same .front rfl

@[simp] theorem refresh_flow  (s : State) : (refresh s).flow = s.flow :=
  (refresh_acts  (Acts.refl [.regs, .power, .pins] s) rfl).same .flow rfl

@[simp] theorem refresh_endpoint  (s : State) : (refresh s).endpoint = s.endpoint :=
  (refresh_acts  (Acts.refl [.regs, .power, .pins] s) rfl).same .endpoint rfl

@[simp] theorem refresh_queue  (s : State) : (refresh s).queue = s.queue :=
  (refresh_acts  (Acts.refl [.regs, .power, .pins] s) rfl).same .queue rfl

@[simp] theorem refresh_pipe  (s : State) : (refresh s).pipe = s.pipe :=
  (refresh_acts  (Acts.refl [.regs, .power, .pins] s) rfl).same .pipe rfl

@[simp] theorem refresh_slots  (s : State) : (refresh s).slots = s.slots :=
  (refresh_acts  (Acts.refl [.regs, .power, .pins] s) rfl).same .slots rfl

@[simp] theorem refresh_quant  (s : State) : (refresh s).quant = s.quant :=
  (refresh_acts  (Acts.refl [.regs, .power, .pins] s) rfl).same .quant rfl

@[simp] theorem refresh_tally  (s : State) : (refresh s).tally = s.tally :=
  (refresh_acts  (Acts.refl [.regs, .power, .pins] s) rfl).same .tally rfl

@[simp] theorem refresh_secure  (s : State) : (refresh s).secure = s.secure :=
  (refresh_acts  (Acts.refl [.regs, .power, .pins] s) rfl).same .secure rfl

@[simp] theorem refresh_crown  (s : State) : (refresh s).crown = s.crown :=
  (refresh_acts  (Acts.refl [.regs, .power, .pins] s) rfl).same .crown rfl

@[simp] theorem refresh_peer  (s : State) : (refresh s).peer = s.peer :=
  (refresh_acts  (Acts.refl [.regs, .power, .pins] s) rfl).same .peer rfl

@[simp] theorem refresh_observe  (s : State) : (refresh s).observe = s.observe :=
  (refresh_acts  (Acts.refl [.regs, .power, .pins] s) rfl).same .observe rfl

@[simp] theorem refresh_log  (s : State) : (refresh s).log = s.log :=
  (refresh_acts  (Acts.refl [.regs, .power, .pins] s) rfl).same .log rfl

@[simp] theorem refresh_hbm  (s : State) : (refresh s).hbm = s.hbm :=
  (refresh_acts  (Acts.refl [.regs, .power, .pins] s) rfl).same .hbm rfl

@[simp] theorem refresh_out  (s : State) : (refresh s).out = s.out :=
  (refresh_acts  (Acts.refl [.regs, .power, .pins] s) rfl).same .out rfl

@[simp] theorem refresh_noticeSeq  (s : State) : (refresh s).noticeSeq = s.noticeSeq :=
  (refresh_acts  (Acts.refl [.regs, .power, .pins] s) rfl).same .noticeSeq rfl

@[simp] theorem refresh_fresh  (s : State) : (refresh s).fresh = s.fresh :=
  (refresh_acts  (Acts.refl [.regs, .power, .pins] s) rfl).same .fresh rfl

@[simp] theorem beatStart_pending (last : Nat) (n : Nat) (s : State) : (beatStart s last n).pending = s.pending :=
  (beatStart_acts _ _ (Acts.refl [.regs, .sched, .ports, .front, .flow, .endpoint, .queue, .pipe, .observe, .noticeSeq] s) rfl).same .pending rfl

@[simp] theorem beatStart_dial (last : Nat) (n : Nat) (s : State) : (beatStart s last n).dial = s.dial :=
  (beatStart_acts _ _ (Acts.refl [.regs, .sched, .ports, .front, .flow, .endpoint, .queue, .pipe, .observe, .noticeSeq] s) rfl).same .dial rfl

@[simp] theorem beatStart_slots (last : Nat) (n : Nat) (s : State) : (beatStart s last n).slots = s.slots :=
  (beatStart_acts _ _ (Acts.refl [.regs, .sched, .ports, .front, .flow, .endpoint, .queue, .pipe, .observe, .noticeSeq] s) rfl).same .slots rfl

@[simp] theorem beatStart_quant (last : Nat) (n : Nat) (s : State) : (beatStart s last n).quant = s.quant :=
  (beatStart_acts _ _ (Acts.refl [.regs, .sched, .ports, .front, .flow, .endpoint, .queue, .pipe, .observe, .noticeSeq] s) rfl).same .quant rfl

@[simp] theorem beatStart_power (last : Nat) (n : Nat) (s : State) : (beatStart s last n).power = s.power :=
  (beatStart_acts _ _ (Acts.refl [.regs, .sched, .ports, .front, .flow, .endpoint, .queue, .pipe, .observe, .noticeSeq] s) rfl).same .power rfl

@[simp] theorem beatStart_tally (last : Nat) (n : Nat) (s : State) : (beatStart s last n).tally = s.tally :=
  (beatStart_acts _ _ (Acts.refl [.regs, .sched, .ports, .front, .flow, .endpoint, .queue, .pipe, .observe, .noticeSeq] s) rfl).same .tally rfl

@[simp] theorem beatStart_secure (last : Nat) (n : Nat) (s : State) : (beatStart s last n).secure = s.secure :=
  (beatStart_acts _ _ (Acts.refl [.regs, .sched, .ports, .front, .flow, .endpoint, .queue, .pipe, .observe, .noticeSeq] s) rfl).same .secure rfl

@[simp] theorem beatStart_crown (last : Nat) (n : Nat) (s : State) : (beatStart s last n).crown = s.crown :=
  (beatStart_acts _ _ (Acts.refl [.regs, .sched, .ports, .front, .flow, .endpoint, .queue, .pipe, .observe, .noticeSeq] s) rfl).same .crown rfl

@[simp] theorem beatStart_peer (last : Nat) (n : Nat) (s : State) : (beatStart s last n).peer = s.peer :=
  (beatStart_acts _ _ (Acts.refl [.regs, .sched, .ports, .front, .flow, .endpoint, .queue, .pipe, .observe, .noticeSeq] s) rfl).same .peer rfl

@[simp] theorem beatStart_log (last : Nat) (n : Nat) (s : State) : (beatStart s last n).log = s.log :=
  (beatStart_acts _ _ (Acts.refl [.regs, .sched, .ports, .front, .flow, .endpoint, .queue, .pipe, .observe, .noticeSeq] s) rfl).same .log rfl

@[simp] theorem beatStart_pins (last : Nat) (n : Nat) (s : State) : (beatStart s last n).pins = s.pins :=
  (beatStart_acts _ _ (Acts.refl [.regs, .sched, .ports, .front, .flow, .endpoint, .queue, .pipe, .observe, .noticeSeq] s) rfl).same .pins rfl

@[simp] theorem beatStart_hbm (last : Nat) (n : Nat) (s : State) : (beatStart s last n).hbm = s.hbm :=
  (beatStart_acts _ _ (Acts.refl [.regs, .sched, .ports, .front, .flow, .endpoint, .queue, .pipe, .observe, .noticeSeq] s) rfl).same .hbm rfl

@[simp] theorem beatStart_out (last : Nat) (n : Nat) (s : State) : (beatStart s last n).out = s.out :=
  (beatStart_acts _ _ (Acts.refl [.regs, .sched, .ports, .front, .flow, .endpoint, .queue, .pipe, .observe, .noticeSeq] s) rfl).same .out rfl

@[simp] theorem beatStart_fresh (last : Nat) (n : Nat) (s : State) : (beatStart s last n).fresh = s.fresh :=
  (beatStart_acts _ _ (Acts.refl [.regs, .sched, .ports, .front, .flow, .endpoint, .queue, .pipe, .observe, .noticeSeq] s) rfl).same .fresh rfl

@[simp] theorem tick_pending (dt : Nat) (s : State) : (tick s dt).pending = s.pending :=
  (tick_acts _ (Acts.refl [.dial] s) rfl).same .pending rfl

@[simp] theorem tick_regs (dt : Nat) (s : State) : (tick s dt).regs = s.regs :=
  (tick_acts _ (Acts.refl [.dial] s) rfl).same .regs rfl

@[simp] theorem tick_sched (dt : Nat) (s : State) : (tick s dt).sched = s.sched :=
  (tick_acts _ (Acts.refl [.dial] s) rfl).same .sched rfl

@[simp] theorem tick_ports (dt : Nat) (s : State) : (tick s dt).ports = s.ports :=
  (tick_acts _ (Acts.refl [.dial] s) rfl).same .ports rfl

@[simp] theorem tick_front (dt : Nat) (s : State) : (tick s dt).front = s.front :=
  (tick_acts _ (Acts.refl [.dial] s) rfl).same .front rfl

@[simp] theorem tick_flow (dt : Nat) (s : State) : (tick s dt).flow = s.flow :=
  (tick_acts _ (Acts.refl [.dial] s) rfl).same .flow rfl

@[simp] theorem tick_endpoint (dt : Nat) (s : State) : (tick s dt).endpoint = s.endpoint :=
  (tick_acts _ (Acts.refl [.dial] s) rfl).same .endpoint rfl

@[simp] theorem tick_queue (dt : Nat) (s : State) : (tick s dt).queue = s.queue :=
  (tick_acts _ (Acts.refl [.dial] s) rfl).same .queue rfl

@[simp] theorem tick_pipe (dt : Nat) (s : State) : (tick s dt).pipe = s.pipe :=
  (tick_acts _ (Acts.refl [.dial] s) rfl).same .pipe rfl

@[simp] theorem tick_slots (dt : Nat) (s : State) : (tick s dt).slots = s.slots :=
  (tick_acts _ (Acts.refl [.dial] s) rfl).same .slots rfl

@[simp] theorem tick_quant (dt : Nat) (s : State) : (tick s dt).quant = s.quant :=
  (tick_acts _ (Acts.refl [.dial] s) rfl).same .quant rfl

@[simp] theorem tick_power (dt : Nat) (s : State) : (tick s dt).power = s.power :=
  (tick_acts _ (Acts.refl [.dial] s) rfl).same .power rfl

@[simp] theorem tick_tally (dt : Nat) (s : State) : (tick s dt).tally = s.tally :=
  (tick_acts _ (Acts.refl [.dial] s) rfl).same .tally rfl

@[simp] theorem tick_secure (dt : Nat) (s : State) : (tick s dt).secure = s.secure :=
  (tick_acts _ (Acts.refl [.dial] s) rfl).same .secure rfl

@[simp] theorem tick_crown (dt : Nat) (s : State) : (tick s dt).crown = s.crown :=
  (tick_acts _ (Acts.refl [.dial] s) rfl).same .crown rfl

@[simp] theorem tick_peer (dt : Nat) (s : State) : (tick s dt).peer = s.peer :=
  (tick_acts _ (Acts.refl [.dial] s) rfl).same .peer rfl

@[simp] theorem tick_observe (dt : Nat) (s : State) : (tick s dt).observe = s.observe :=
  (tick_acts _ (Acts.refl [.dial] s) rfl).same .observe rfl

@[simp] theorem tick_log (dt : Nat) (s : State) : (tick s dt).log = s.log :=
  (tick_acts _ (Acts.refl [.dial] s) rfl).same .log rfl

@[simp] theorem tick_pins (dt : Nat) (s : State) : (tick s dt).pins = s.pins :=
  (tick_acts _ (Acts.refl [.dial] s) rfl).same .pins rfl

@[simp] theorem tick_hbm (dt : Nat) (s : State) : (tick s dt).hbm = s.hbm :=
  (tick_acts _ (Acts.refl [.dial] s) rfl).same .hbm rfl

@[simp] theorem tick_out (dt : Nat) (s : State) : (tick s dt).out = s.out :=
  (tick_acts _ (Acts.refl [.dial] s) rfl).same .out rfl

@[simp] theorem tick_noticeSeq (dt : Nat) (s : State) : (tick s dt).noticeSeq = s.noticeSeq :=
  (tick_acts _ (Acts.refl [.dial] s) rfl).same .noticeSeq rfl

@[simp] theorem tick_fresh (dt : Nat) (s : State) : (tick s dt).fresh = s.fresh :=
  (tick_acts _ (Acts.refl [.dial] s) rfl).same .fresh rfl

@[simp] theorem advance_pending (dt : Nat) (s : State) : (advance s dt).pending = s.pending :=
  (advance_acts _ (Acts.refl [.regs, .dial, .sched, .ports, .front, .flow, .endpoint, .queue, .pipe, .power, .observe, .pins, .noticeSeq] s) rfl).same .pending rfl

@[simp] theorem advance_slots (dt : Nat) (s : State) : (advance s dt).slots = s.slots :=
  (advance_acts _ (Acts.refl [.regs, .dial, .sched, .ports, .front, .flow, .endpoint, .queue, .pipe, .power, .observe, .pins, .noticeSeq] s) rfl).same .slots rfl

@[simp] theorem advance_quant (dt : Nat) (s : State) : (advance s dt).quant = s.quant :=
  (advance_acts _ (Acts.refl [.regs, .dial, .sched, .ports, .front, .flow, .endpoint, .queue, .pipe, .power, .observe, .pins, .noticeSeq] s) rfl).same .quant rfl

@[simp] theorem advance_tally (dt : Nat) (s : State) : (advance s dt).tally = s.tally :=
  (advance_acts _ (Acts.refl [.regs, .dial, .sched, .ports, .front, .flow, .endpoint, .queue, .pipe, .power, .observe, .pins, .noticeSeq] s) rfl).same .tally rfl

@[simp] theorem advance_secure (dt : Nat) (s : State) : (advance s dt).secure = s.secure :=
  (advance_acts _ (Acts.refl [.regs, .dial, .sched, .ports, .front, .flow, .endpoint, .queue, .pipe, .power, .observe, .pins, .noticeSeq] s) rfl).same .secure rfl

@[simp] theorem advance_crown (dt : Nat) (s : State) : (advance s dt).crown = s.crown :=
  (advance_acts _ (Acts.refl [.regs, .dial, .sched, .ports, .front, .flow, .endpoint, .queue, .pipe, .power, .observe, .pins, .noticeSeq] s) rfl).same .crown rfl

@[simp] theorem advance_peer (dt : Nat) (s : State) : (advance s dt).peer = s.peer :=
  (advance_acts _ (Acts.refl [.regs, .dial, .sched, .ports, .front, .flow, .endpoint, .queue, .pipe, .power, .observe, .pins, .noticeSeq] s) rfl).same .peer rfl

@[simp] theorem advance_log (dt : Nat) (s : State) : (advance s dt).log = s.log :=
  (advance_acts _ (Acts.refl [.regs, .dial, .sched, .ports, .front, .flow, .endpoint, .queue, .pipe, .power, .observe, .pins, .noticeSeq] s) rfl).same .log rfl

@[simp] theorem advance_hbm (dt : Nat) (s : State) : (advance s dt).hbm = s.hbm :=
  (advance_acts _ (Acts.refl [.regs, .dial, .sched, .ports, .front, .flow, .endpoint, .queue, .pipe, .power, .observe, .pins, .noticeSeq] s) rfl).same .hbm rfl

@[simp] theorem advance_out (dt : Nat) (s : State) : (advance s dt).out = s.out :=
  (advance_acts _ (Acts.refl [.regs, .dial, .sched, .ports, .front, .flow, .endpoint, .queue, .pipe, .power, .observe, .pins, .noticeSeq] s) rfl).same .out rfl

@[simp] theorem advance_fresh (dt : Nat) (s : State) : (advance s dt).fresh = s.fresh :=
  (advance_acts _ (Acts.refl [.regs, .dial, .sched, .ports, .front, .flow, .endpoint, .queue, .pipe, .power, .observe, .pins, .noticeSeq] s) rfl).same .fresh rfl

@[simp] theorem advanceTo_pending (b : Nat) (s : State) : (advanceTo s b).pending = s.pending :=
  (advanceTo_acts _ (Acts.refl [.regs, .dial, .sched, .ports, .front, .flow, .endpoint, .queue, .pipe, .power, .observe, .pins, .noticeSeq] s) rfl).same .pending rfl

@[simp] theorem advanceTo_slots (b : Nat) (s : State) : (advanceTo s b).slots = s.slots :=
  (advanceTo_acts _ (Acts.refl [.regs, .dial, .sched, .ports, .front, .flow, .endpoint, .queue, .pipe, .power, .observe, .pins, .noticeSeq] s) rfl).same .slots rfl

@[simp] theorem advanceTo_quant (b : Nat) (s : State) : (advanceTo s b).quant = s.quant :=
  (advanceTo_acts _ (Acts.refl [.regs, .dial, .sched, .ports, .front, .flow, .endpoint, .queue, .pipe, .power, .observe, .pins, .noticeSeq] s) rfl).same .quant rfl

@[simp] theorem advanceTo_tally (b : Nat) (s : State) : (advanceTo s b).tally = s.tally :=
  (advanceTo_acts _ (Acts.refl [.regs, .dial, .sched, .ports, .front, .flow, .endpoint, .queue, .pipe, .power, .observe, .pins, .noticeSeq] s) rfl).same .tally rfl

@[simp] theorem advanceTo_secure (b : Nat) (s : State) : (advanceTo s b).secure = s.secure :=
  (advanceTo_acts _ (Acts.refl [.regs, .dial, .sched, .ports, .front, .flow, .endpoint, .queue, .pipe, .power, .observe, .pins, .noticeSeq] s) rfl).same .secure rfl

@[simp] theorem advanceTo_crown (b : Nat) (s : State) : (advanceTo s b).crown = s.crown :=
  (advanceTo_acts _ (Acts.refl [.regs, .dial, .sched, .ports, .front, .flow, .endpoint, .queue, .pipe, .power, .observe, .pins, .noticeSeq] s) rfl).same .crown rfl

@[simp] theorem advanceTo_peer (b : Nat) (s : State) : (advanceTo s b).peer = s.peer :=
  (advanceTo_acts _ (Acts.refl [.regs, .dial, .sched, .ports, .front, .flow, .endpoint, .queue, .pipe, .power, .observe, .pins, .noticeSeq] s) rfl).same .peer rfl

@[simp] theorem advanceTo_log (b : Nat) (s : State) : (advanceTo s b).log = s.log :=
  (advanceTo_acts _ (Acts.refl [.regs, .dial, .sched, .ports, .front, .flow, .endpoint, .queue, .pipe, .power, .observe, .pins, .noticeSeq] s) rfl).same .log rfl

@[simp] theorem advanceTo_hbm (b : Nat) (s : State) : (advanceTo s b).hbm = s.hbm :=
  (advanceTo_acts _ (Acts.refl [.regs, .dial, .sched, .ports, .front, .flow, .endpoint, .queue, .pipe, .power, .observe, .pins, .noticeSeq] s) rfl).same .hbm rfl

@[simp] theorem advanceTo_out (b : Nat) (s : State) : (advanceTo s b).out = s.out :=
  (advanceTo_acts _ (Acts.refl [.regs, .dial, .sched, .ports, .front, .flow, .endpoint, .queue, .pipe, .power, .observe, .pins, .noticeSeq] s) rfl).same .out rfl

@[simp] theorem advanceTo_fresh (b : Nat) (s : State) : (advanceTo s b).fresh = s.fresh :=
  (advanceTo_acts _ (Acts.refl [.regs, .dial, .sched, .ports, .front, .flow, .endpoint, .queue, .pipe, .power, .observe, .pins, .noticeSeq] s) rfl).same .fresh rfl

@[simp] theorem setTime_pending (t : Nat) (s : State) : (setTime s t).pending = s.pending :=
  (setTime_acts _ (Acts.refl [.regs, .dial, .sched, .ports, .front, .flow, .endpoint, .queue, .pipe, .power, .observe, .pins, .noticeSeq] s) rfl).same .pending rfl

@[simp] theorem setTime_slots (t : Nat) (s : State) : (setTime s t).slots = s.slots :=
  (setTime_acts _ (Acts.refl [.regs, .dial, .sched, .ports, .front, .flow, .endpoint, .queue, .pipe, .power, .observe, .pins, .noticeSeq] s) rfl).same .slots rfl

@[simp] theorem setTime_quant (t : Nat) (s : State) : (setTime s t).quant = s.quant :=
  (setTime_acts _ (Acts.refl [.regs, .dial, .sched, .ports, .front, .flow, .endpoint, .queue, .pipe, .power, .observe, .pins, .noticeSeq] s) rfl).same .quant rfl

@[simp] theorem setTime_tally (t : Nat) (s : State) : (setTime s t).tally = s.tally :=
  (setTime_acts _ (Acts.refl [.regs, .dial, .sched, .ports, .front, .flow, .endpoint, .queue, .pipe, .power, .observe, .pins, .noticeSeq] s) rfl).same .tally rfl

@[simp] theorem setTime_secure (t : Nat) (s : State) : (setTime s t).secure = s.secure :=
  (setTime_acts _ (Acts.refl [.regs, .dial, .sched, .ports, .front, .flow, .endpoint, .queue, .pipe, .power, .observe, .pins, .noticeSeq] s) rfl).same .secure rfl

@[simp] theorem setTime_crown (t : Nat) (s : State) : (setTime s t).crown = s.crown :=
  (setTime_acts _ (Acts.refl [.regs, .dial, .sched, .ports, .front, .flow, .endpoint, .queue, .pipe, .power, .observe, .pins, .noticeSeq] s) rfl).same .crown rfl

@[simp] theorem setTime_peer (t : Nat) (s : State) : (setTime s t).peer = s.peer :=
  (setTime_acts _ (Acts.refl [.regs, .dial, .sched, .ports, .front, .flow, .endpoint, .queue, .pipe, .power, .observe, .pins, .noticeSeq] s) rfl).same .peer rfl

@[simp] theorem setTime_log (t : Nat) (s : State) : (setTime s t).log = s.log :=
  (setTime_acts _ (Acts.refl [.regs, .dial, .sched, .ports, .front, .flow, .endpoint, .queue, .pipe, .power, .observe, .pins, .noticeSeq] s) rfl).same .log rfl

@[simp] theorem setTime_hbm (t : Nat) (s : State) : (setTime s t).hbm = s.hbm :=
  (setTime_acts _ (Acts.refl [.regs, .dial, .sched, .ports, .front, .flow, .endpoint, .queue, .pipe, .power, .observe, .pins, .noticeSeq] s) rfl).same .hbm rfl

@[simp] theorem setTime_out (t : Nat) (s : State) : (setTime s t).out = s.out :=
  (setTime_acts _ (Acts.refl [.regs, .dial, .sched, .ports, .front, .flow, .endpoint, .queue, .pipe, .power, .observe, .pins, .noticeSeq] s) rfl).same .out rfl

@[simp] theorem setTime_fresh (t : Nat) (s : State) : (setTime s t).fresh = s.fresh :=
  (setTime_acts _ (Acts.refl [.regs, .dial, .sched, .ports, .front, .flow, .endpoint, .queue, .pipe, .power, .observe, .pins, .noticeSeq] s) rfl).same .fresh rfl

@[simp] theorem refreshTemp_pending  (s : State) : (refreshTemp s).pending = s.pending :=
  (refreshTemp_acts  (Acts.refl [.regs] s) rfl).same .pending rfl

@[simp] theorem refreshTemp_dial  (s : State) : (refreshTemp s).dial = s.dial :=
  (refreshTemp_acts  (Acts.refl [.regs] s) rfl).same .dial rfl

@[simp] theorem refreshTemp_sched  (s : State) : (refreshTemp s).sched = s.sched :=
  (refreshTemp_acts  (Acts.refl [.regs] s) rfl).same .sched rfl

@[simp] theorem refreshTemp_ports  (s : State) : (refreshTemp s).ports = s.ports :=
  (refreshTemp_acts  (Acts.refl [.regs] s) rfl).same .ports rfl

@[simp] theorem refreshTemp_front  (s : State) : (refreshTemp s).front = s.front :=
  (refreshTemp_acts  (Acts.refl [.regs] s) rfl).same .front rfl

@[simp] theorem refreshTemp_flow  (s : State) : (refreshTemp s).flow = s.flow :=
  (refreshTemp_acts  (Acts.refl [.regs] s) rfl).same .flow rfl

@[simp] theorem refreshTemp_endpoint  (s : State) : (refreshTemp s).endpoint = s.endpoint :=
  (refreshTemp_acts  (Acts.refl [.regs] s) rfl).same .endpoint rfl

@[simp] theorem refreshTemp_queue  (s : State) : (refreshTemp s).queue = s.queue :=
  (refreshTemp_acts  (Acts.refl [.regs] s) rfl).same .queue rfl

@[simp] theorem refreshTemp_pipe  (s : State) : (refreshTemp s).pipe = s.pipe :=
  (refreshTemp_acts  (Acts.refl [.regs] s) rfl).same .pipe rfl

@[simp] theorem refreshTemp_slots  (s : State) : (refreshTemp s).slots = s.slots :=
  (refreshTemp_acts  (Acts.refl [.regs] s) rfl).same .slots rfl

@[simp] theorem refreshTemp_quant  (s : State) : (refreshTemp s).quant = s.quant :=
  (refreshTemp_acts  (Acts.refl [.regs] s) rfl).same .quant rfl

@[simp] theorem refreshTemp_power  (s : State) : (refreshTemp s).power = s.power :=
  (refreshTemp_acts  (Acts.refl [.regs] s) rfl).same .power rfl

@[simp] theorem refreshTemp_tally  (s : State) : (refreshTemp s).tally = s.tally :=
  (refreshTemp_acts  (Acts.refl [.regs] s) rfl).same .tally rfl

@[simp] theorem refreshTemp_secure  (s : State) : (refreshTemp s).secure = s.secure :=
  (refreshTemp_acts  (Acts.refl [.regs] s) rfl).same .secure rfl

@[simp] theorem refreshTemp_crown  (s : State) : (refreshTemp s).crown = s.crown :=
  (refreshTemp_acts  (Acts.refl [.regs] s) rfl).same .crown rfl

@[simp] theorem refreshTemp_peer  (s : State) : (refreshTemp s).peer = s.peer :=
  (refreshTemp_acts  (Acts.refl [.regs] s) rfl).same .peer rfl

@[simp] theorem refreshTemp_observe  (s : State) : (refreshTemp s).observe = s.observe :=
  (refreshTemp_acts  (Acts.refl [.regs] s) rfl).same .observe rfl

@[simp] theorem refreshTemp_log  (s : State) : (refreshTemp s).log = s.log :=
  (refreshTemp_acts  (Acts.refl [.regs] s) rfl).same .log rfl

@[simp] theorem refreshTemp_pins  (s : State) : (refreshTemp s).pins = s.pins :=
  (refreshTemp_acts  (Acts.refl [.regs] s) rfl).same .pins rfl

@[simp] theorem refreshTemp_hbm  (s : State) : (refreshTemp s).hbm = s.hbm :=
  (refreshTemp_acts  (Acts.refl [.regs] s) rfl).same .hbm rfl

@[simp] theorem refreshTemp_out  (s : State) : (refreshTemp s).out = s.out :=
  (refreshTemp_acts  (Acts.refl [.regs] s) rfl).same .out rfl

@[simp] theorem refreshTemp_noticeSeq  (s : State) : (refreshTemp s).noticeSeq = s.noticeSeq :=
  (refreshTemp_acts  (Acts.refl [.regs] s) rfl).same .noticeSeq rfl

@[simp] theorem refreshTemp_fresh  (s : State) : (refreshTemp s).fresh = s.fresh :=
  (refreshTemp_acts  (Acts.refl [.regs] s) rfl).same .fresh rfl

@[simp] theorem switchPd_pending (d : Nat) (on : Bool) (s : State) : (switchPd s d on).pending = s.pending :=
  (switchPd_acts _ _ (Acts.refl [.regs, .ports, .queue, .power, .peer, .observe, .noticeSeq] s) rfl).same .pending rfl

@[simp] theorem switchPd_dial (d : Nat) (on : Bool) (s : State) : (switchPd s d on).dial = s.dial :=
  (switchPd_acts _ _ (Acts.refl [.regs, .ports, .queue, .power, .peer, .observe, .noticeSeq] s) rfl).same .dial rfl

@[simp] theorem switchPd_sched (d : Nat) (on : Bool) (s : State) : (switchPd s d on).sched = s.sched :=
  (switchPd_acts _ _ (Acts.refl [.regs, .ports, .queue, .power, .peer, .observe, .noticeSeq] s) rfl).same .sched rfl

@[simp] theorem switchPd_front (d : Nat) (on : Bool) (s : State) : (switchPd s d on).front = s.front :=
  (switchPd_acts _ _ (Acts.refl [.regs, .ports, .queue, .power, .peer, .observe, .noticeSeq] s) rfl).same .front rfl

@[simp] theorem switchPd_flow (d : Nat) (on : Bool) (s : State) : (switchPd s d on).flow = s.flow :=
  (switchPd_acts _ _ (Acts.refl [.regs, .ports, .queue, .power, .peer, .observe, .noticeSeq] s) rfl).same .flow rfl

@[simp] theorem switchPd_endpoint (d : Nat) (on : Bool) (s : State) : (switchPd s d on).endpoint = s.endpoint :=
  (switchPd_acts _ _ (Acts.refl [.regs, .ports, .queue, .power, .peer, .observe, .noticeSeq] s) rfl).same .endpoint rfl

@[simp] theorem switchPd_pipe (d : Nat) (on : Bool) (s : State) : (switchPd s d on).pipe = s.pipe :=
  (switchPd_acts _ _ (Acts.refl [.regs, .ports, .queue, .power, .peer, .observe, .noticeSeq] s) rfl).same .pipe rfl

@[simp] theorem switchPd_slots (d : Nat) (on : Bool) (s : State) : (switchPd s d on).slots = s.slots :=
  (switchPd_acts _ _ (Acts.refl [.regs, .ports, .queue, .power, .peer, .observe, .noticeSeq] s) rfl).same .slots rfl

@[simp] theorem switchPd_quant (d : Nat) (on : Bool) (s : State) : (switchPd s d on).quant = s.quant :=
  (switchPd_acts _ _ (Acts.refl [.regs, .ports, .queue, .power, .peer, .observe, .noticeSeq] s) rfl).same .quant rfl

@[simp] theorem switchPd_tally (d : Nat) (on : Bool) (s : State) : (switchPd s d on).tally = s.tally :=
  (switchPd_acts _ _ (Acts.refl [.regs, .ports, .queue, .power, .peer, .observe, .noticeSeq] s) rfl).same .tally rfl

@[simp] theorem switchPd_secure (d : Nat) (on : Bool) (s : State) : (switchPd s d on).secure = s.secure :=
  (switchPd_acts _ _ (Acts.refl [.regs, .ports, .queue, .power, .peer, .observe, .noticeSeq] s) rfl).same .secure rfl

@[simp] theorem switchPd_crown (d : Nat) (on : Bool) (s : State) : (switchPd s d on).crown = s.crown :=
  (switchPd_acts _ _ (Acts.refl [.regs, .ports, .queue, .power, .peer, .observe, .noticeSeq] s) rfl).same .crown rfl

@[simp] theorem switchPd_log (d : Nat) (on : Bool) (s : State) : (switchPd s d on).log = s.log :=
  (switchPd_acts _ _ (Acts.refl [.regs, .ports, .queue, .power, .peer, .observe, .noticeSeq] s) rfl).same .log rfl

@[simp] theorem switchPd_pins (d : Nat) (on : Bool) (s : State) : (switchPd s d on).pins = s.pins :=
  (switchPd_acts _ _ (Acts.refl [.regs, .ports, .queue, .power, .peer, .observe, .noticeSeq] s) rfl).same .pins rfl

@[simp] theorem switchPd_hbm (d : Nat) (on : Bool) (s : State) : (switchPd s d on).hbm = s.hbm :=
  (switchPd_acts _ _ (Acts.refl [.regs, .ports, .queue, .power, .peer, .observe, .noticeSeq] s) rfl).same .hbm rfl

@[simp] theorem switchPd_out (d : Nat) (on : Bool) (s : State) : (switchPd s d on).out = s.out :=
  (switchPd_acts _ _ (Acts.refl [.regs, .ports, .queue, .power, .peer, .observe, .noticeSeq] s) rfl).same .out rfl

@[simp] theorem switchPd_fresh (d : Nat) (on : Bool) (s : State) : (switchPd s d on).fresh = s.fresh :=
  (switchPd_acts _ _ (Acts.refl [.regs, .ports, .queue, .power, .peer, .observe, .noticeSeq] s) rfl).same .fresh rfl

@[simp] theorem applyDomains_pending (ds : List Nat) (s : State) : (applyDomains s ds).pending = s.pending :=
  (applyDomains_acts _ (Acts.refl [.regs, .ports, .queue, .power, .peer, .observe, .noticeSeq] s) rfl).same .pending rfl

@[simp] theorem applyDomains_dial (ds : List Nat) (s : State) : (applyDomains s ds).dial = s.dial :=
  (applyDomains_acts _ (Acts.refl [.regs, .ports, .queue, .power, .peer, .observe, .noticeSeq] s) rfl).same .dial rfl

@[simp] theorem applyDomains_sched (ds : List Nat) (s : State) : (applyDomains s ds).sched = s.sched :=
  (applyDomains_acts _ (Acts.refl [.regs, .ports, .queue, .power, .peer, .observe, .noticeSeq] s) rfl).same .sched rfl

@[simp] theorem applyDomains_front (ds : List Nat) (s : State) : (applyDomains s ds).front = s.front :=
  (applyDomains_acts _ (Acts.refl [.regs, .ports, .queue, .power, .peer, .observe, .noticeSeq] s) rfl).same .front rfl

@[simp] theorem applyDomains_flow (ds : List Nat) (s : State) : (applyDomains s ds).flow = s.flow :=
  (applyDomains_acts _ (Acts.refl [.regs, .ports, .queue, .power, .peer, .observe, .noticeSeq] s) rfl).same .flow rfl

@[simp] theorem applyDomains_endpoint (ds : List Nat) (s : State) : (applyDomains s ds).endpoint = s.endpoint :=
  (applyDomains_acts _ (Acts.refl [.regs, .ports, .queue, .power, .peer, .observe, .noticeSeq] s) rfl).same .endpoint rfl

@[simp] theorem applyDomains_pipe (ds : List Nat) (s : State) : (applyDomains s ds).pipe = s.pipe :=
  (applyDomains_acts _ (Acts.refl [.regs, .ports, .queue, .power, .peer, .observe, .noticeSeq] s) rfl).same .pipe rfl

@[simp] theorem applyDomains_slots (ds : List Nat) (s : State) : (applyDomains s ds).slots = s.slots :=
  (applyDomains_acts _ (Acts.refl [.regs, .ports, .queue, .power, .peer, .observe, .noticeSeq] s) rfl).same .slots rfl

@[simp] theorem applyDomains_quant (ds : List Nat) (s : State) : (applyDomains s ds).quant = s.quant :=
  (applyDomains_acts _ (Acts.refl [.regs, .ports, .queue, .power, .peer, .observe, .noticeSeq] s) rfl).same .quant rfl

@[simp] theorem applyDomains_tally (ds : List Nat) (s : State) : (applyDomains s ds).tally = s.tally :=
  (applyDomains_acts _ (Acts.refl [.regs, .ports, .queue, .power, .peer, .observe, .noticeSeq] s) rfl).same .tally rfl

@[simp] theorem applyDomains_secure (ds : List Nat) (s : State) : (applyDomains s ds).secure = s.secure :=
  (applyDomains_acts _ (Acts.refl [.regs, .ports, .queue, .power, .peer, .observe, .noticeSeq] s) rfl).same .secure rfl

@[simp] theorem applyDomains_crown (ds : List Nat) (s : State) : (applyDomains s ds).crown = s.crown :=
  (applyDomains_acts _ (Acts.refl [.regs, .ports, .queue, .power, .peer, .observe, .noticeSeq] s) rfl).same .crown rfl

@[simp] theorem applyDomains_log (ds : List Nat) (s : State) : (applyDomains s ds).log = s.log :=
  (applyDomains_acts _ (Acts.refl [.regs, .ports, .queue, .power, .peer, .observe, .noticeSeq] s) rfl).same .log rfl

@[simp] theorem applyDomains_pins (ds : List Nat) (s : State) : (applyDomains s ds).pins = s.pins :=
  (applyDomains_acts _ (Acts.refl [.regs, .ports, .queue, .power, .peer, .observe, .noticeSeq] s) rfl).same .pins rfl

@[simp] theorem applyDomains_hbm (ds : List Nat) (s : State) : (applyDomains s ds).hbm = s.hbm :=
  (applyDomains_acts _ (Acts.refl [.regs, .ports, .queue, .power, .peer, .observe, .noticeSeq] s) rfl).same .hbm rfl

@[simp] theorem applyDomains_out (ds : List Nat) (s : State) : (applyDomains s ds).out = s.out :=
  (applyDomains_acts _ (Acts.refl [.regs, .ports, .queue, .power, .peer, .observe, .noticeSeq] s) rfl).same .out rfl

@[simp] theorem applyDomains_fresh (ds : List Nat) (s : State) : (applyDomains s ds).fresh = s.fresh :=
  (applyDomains_acts _ (Acts.refl [.regs, .ports, .queue, .power, .peer, .observe, .noticeSeq] s) rfl).same .fresh rfl

@[simp] theorem modEpoch_pending (f : Epoch → Epoch) (s : State) : (modEpoch s f).pending = s.pending :=
  (modEpoch_acts _ (Acts.refl [.tally] s) rfl).same .pending rfl

@[simp] theorem modEpoch_regs (f : Epoch → Epoch) (s : State) : (modEpoch s f).regs = s.regs :=
  (modEpoch_acts _ (Acts.refl [.tally] s) rfl).same .regs rfl

@[simp] theorem modEpoch_dial (f : Epoch → Epoch) (s : State) : (modEpoch s f).dial = s.dial :=
  (modEpoch_acts _ (Acts.refl [.tally] s) rfl).same .dial rfl

@[simp] theorem modEpoch_sched (f : Epoch → Epoch) (s : State) : (modEpoch s f).sched = s.sched :=
  (modEpoch_acts _ (Acts.refl [.tally] s) rfl).same .sched rfl

@[simp] theorem modEpoch_ports (f : Epoch → Epoch) (s : State) : (modEpoch s f).ports = s.ports :=
  (modEpoch_acts _ (Acts.refl [.tally] s) rfl).same .ports rfl

@[simp] theorem modEpoch_front (f : Epoch → Epoch) (s : State) : (modEpoch s f).front = s.front :=
  (modEpoch_acts _ (Acts.refl [.tally] s) rfl).same .front rfl

@[simp] theorem modEpoch_flow (f : Epoch → Epoch) (s : State) : (modEpoch s f).flow = s.flow :=
  (modEpoch_acts _ (Acts.refl [.tally] s) rfl).same .flow rfl

@[simp] theorem modEpoch_endpoint (f : Epoch → Epoch) (s : State) : (modEpoch s f).endpoint = s.endpoint :=
  (modEpoch_acts _ (Acts.refl [.tally] s) rfl).same .endpoint rfl

@[simp] theorem modEpoch_queue (f : Epoch → Epoch) (s : State) : (modEpoch s f).queue = s.queue :=
  (modEpoch_acts _ (Acts.refl [.tally] s) rfl).same .queue rfl

@[simp] theorem modEpoch_pipe (f : Epoch → Epoch) (s : State) : (modEpoch s f).pipe = s.pipe :=
  (modEpoch_acts _ (Acts.refl [.tally] s) rfl).same .pipe rfl

@[simp] theorem modEpoch_slots (f : Epoch → Epoch) (s : State) : (modEpoch s f).slots = s.slots :=
  (modEpoch_acts _ (Acts.refl [.tally] s) rfl).same .slots rfl

@[simp] theorem modEpoch_quant (f : Epoch → Epoch) (s : State) : (modEpoch s f).quant = s.quant :=
  (modEpoch_acts _ (Acts.refl [.tally] s) rfl).same .quant rfl

@[simp] theorem modEpoch_power (f : Epoch → Epoch) (s : State) : (modEpoch s f).power = s.power :=
  (modEpoch_acts _ (Acts.refl [.tally] s) rfl).same .power rfl

@[simp] theorem modEpoch_secure (f : Epoch → Epoch) (s : State) : (modEpoch s f).secure = s.secure :=
  (modEpoch_acts _ (Acts.refl [.tally] s) rfl).same .secure rfl

@[simp] theorem modEpoch_crown (f : Epoch → Epoch) (s : State) : (modEpoch s f).crown = s.crown :=
  (modEpoch_acts _ (Acts.refl [.tally] s) rfl).same .crown rfl

@[simp] theorem modEpoch_peer (f : Epoch → Epoch) (s : State) : (modEpoch s f).peer = s.peer :=
  (modEpoch_acts _ (Acts.refl [.tally] s) rfl).same .peer rfl

@[simp] theorem modEpoch_observe (f : Epoch → Epoch) (s : State) : (modEpoch s f).observe = s.observe :=
  (modEpoch_acts _ (Acts.refl [.tally] s) rfl).same .observe rfl

@[simp] theorem modEpoch_log (f : Epoch → Epoch) (s : State) : (modEpoch s f).log = s.log :=
  (modEpoch_acts _ (Acts.refl [.tally] s) rfl).same .log rfl

@[simp] theorem modEpoch_pins (f : Epoch → Epoch) (s : State) : (modEpoch s f).pins = s.pins :=
  (modEpoch_acts _ (Acts.refl [.tally] s) rfl).same .pins rfl

@[simp] theorem modEpoch_hbm (f : Epoch → Epoch) (s : State) : (modEpoch s f).hbm = s.hbm :=
  (modEpoch_acts _ (Acts.refl [.tally] s) rfl).same .hbm rfl

@[simp] theorem modEpoch_out (f : Epoch → Epoch) (s : State) : (modEpoch s f).out = s.out :=
  (modEpoch_acts _ (Acts.refl [.tally] s) rfl).same .out rfl

@[simp] theorem modEpoch_noticeSeq (f : Epoch → Epoch) (s : State) : (modEpoch s f).noticeSeq = s.noticeSeq :=
  (modEpoch_acts _ (Acts.refl [.tally] s) rfl).same .noticeSeq rfl

@[simp] theorem modEpoch_fresh (f : Epoch → Epoch) (s : State) : (modEpoch s f).fresh = s.fresh :=
  (modEpoch_acts _ (Acts.refl [.tally] s) rfl).same .fresh rfl

@[simp] theorem startEpoch_pending (flags : Nat) (t : Nat) (seconds : Nat) (s : State) : (startEpoch s flags t seconds).pending = s.pending :=
  (startEpoch_acts _ _ _ (Acts.refl [.dial, .tally] s) rfl).same .pending rfl

@[simp] theorem startEpoch_regs (flags : Nat) (t : Nat) (seconds : Nat) (s : State) : (startEpoch s flags t seconds).regs = s.regs :=
  (startEpoch_acts _ _ _ (Acts.refl [.dial, .tally] s) rfl).same .regs rfl

@[simp] theorem startEpoch_sched (flags : Nat) (t : Nat) (seconds : Nat) (s : State) : (startEpoch s flags t seconds).sched = s.sched :=
  (startEpoch_acts _ _ _ (Acts.refl [.dial, .tally] s) rfl).same .sched rfl

@[simp] theorem startEpoch_ports (flags : Nat) (t : Nat) (seconds : Nat) (s : State) : (startEpoch s flags t seconds).ports = s.ports :=
  (startEpoch_acts _ _ _ (Acts.refl [.dial, .tally] s) rfl).same .ports rfl

@[simp] theorem startEpoch_front (flags : Nat) (t : Nat) (seconds : Nat) (s : State) : (startEpoch s flags t seconds).front = s.front :=
  (startEpoch_acts _ _ _ (Acts.refl [.dial, .tally] s) rfl).same .front rfl

@[simp] theorem startEpoch_flow (flags : Nat) (t : Nat) (seconds : Nat) (s : State) : (startEpoch s flags t seconds).flow = s.flow :=
  (startEpoch_acts _ _ _ (Acts.refl [.dial, .tally] s) rfl).same .flow rfl

@[simp] theorem startEpoch_endpoint (flags : Nat) (t : Nat) (seconds : Nat) (s : State) : (startEpoch s flags t seconds).endpoint = s.endpoint :=
  (startEpoch_acts _ _ _ (Acts.refl [.dial, .tally] s) rfl).same .endpoint rfl

@[simp] theorem startEpoch_queue (flags : Nat) (t : Nat) (seconds : Nat) (s : State) : (startEpoch s flags t seconds).queue = s.queue :=
  (startEpoch_acts _ _ _ (Acts.refl [.dial, .tally] s) rfl).same .queue rfl

@[simp] theorem startEpoch_pipe (flags : Nat) (t : Nat) (seconds : Nat) (s : State) : (startEpoch s flags t seconds).pipe = s.pipe :=
  (startEpoch_acts _ _ _ (Acts.refl [.dial, .tally] s) rfl).same .pipe rfl

@[simp] theorem startEpoch_slots (flags : Nat) (t : Nat) (seconds : Nat) (s : State) : (startEpoch s flags t seconds).slots = s.slots :=
  (startEpoch_acts _ _ _ (Acts.refl [.dial, .tally] s) rfl).same .slots rfl

@[simp] theorem startEpoch_quant (flags : Nat) (t : Nat) (seconds : Nat) (s : State) : (startEpoch s flags t seconds).quant = s.quant :=
  (startEpoch_acts _ _ _ (Acts.refl [.dial, .tally] s) rfl).same .quant rfl

@[simp] theorem startEpoch_power (flags : Nat) (t : Nat) (seconds : Nat) (s : State) : (startEpoch s flags t seconds).power = s.power :=
  (startEpoch_acts _ _ _ (Acts.refl [.dial, .tally] s) rfl).same .power rfl

@[simp] theorem startEpoch_secure (flags : Nat) (t : Nat) (seconds : Nat) (s : State) : (startEpoch s flags t seconds).secure = s.secure :=
  (startEpoch_acts _ _ _ (Acts.refl [.dial, .tally] s) rfl).same .secure rfl

@[simp] theorem startEpoch_crown (flags : Nat) (t : Nat) (seconds : Nat) (s : State) : (startEpoch s flags t seconds).crown = s.crown :=
  (startEpoch_acts _ _ _ (Acts.refl [.dial, .tally] s) rfl).same .crown rfl

@[simp] theorem startEpoch_peer (flags : Nat) (t : Nat) (seconds : Nat) (s : State) : (startEpoch s flags t seconds).peer = s.peer :=
  (startEpoch_acts _ _ _ (Acts.refl [.dial, .tally] s) rfl).same .peer rfl

@[simp] theorem startEpoch_observe (flags : Nat) (t : Nat) (seconds : Nat) (s : State) : (startEpoch s flags t seconds).observe = s.observe :=
  (startEpoch_acts _ _ _ (Acts.refl [.dial, .tally] s) rfl).same .observe rfl

@[simp] theorem startEpoch_log (flags : Nat) (t : Nat) (seconds : Nat) (s : State) : (startEpoch s flags t seconds).log = s.log :=
  (startEpoch_acts _ _ _ (Acts.refl [.dial, .tally] s) rfl).same .log rfl

@[simp] theorem startEpoch_pins (flags : Nat) (t : Nat) (seconds : Nat) (s : State) : (startEpoch s flags t seconds).pins = s.pins :=
  (startEpoch_acts _ _ _ (Acts.refl [.dial, .tally] s) rfl).same .pins rfl

@[simp] theorem startEpoch_hbm (flags : Nat) (t : Nat) (seconds : Nat) (s : State) : (startEpoch s flags t seconds).hbm = s.hbm :=
  (startEpoch_acts _ _ _ (Acts.refl [.dial, .tally] s) rfl).same .hbm rfl

@[simp] theorem startEpoch_out (flags : Nat) (t : Nat) (seconds : Nat) (s : State) : (startEpoch s flags t seconds).out = s.out :=
  (startEpoch_acts _ _ _ (Acts.refl [.dial, .tally] s) rfl).same .out rfl

@[simp] theorem startEpoch_noticeSeq (flags : Nat) (t : Nat) (seconds : Nat) (s : State) : (startEpoch s flags t seconds).noticeSeq = s.noticeSeq :=
  (startEpoch_acts _ _ _ (Acts.refl [.dial, .tally] s) rfl).same .noticeSeq rfl

@[simp] theorem startEpoch_fresh (flags : Nat) (t : Nat) (seconds : Nat) (s : State) : (startEpoch s flags t seconds).fresh = s.fresh :=
  (startEpoch_acts _ _ _ (Acts.refl [.dial, .tally] s) rfl).same .fresh rfl

@[simp] theorem endEpoch_pending (flags : Nat) (t : Nat) (s : State) : (endEpoch s flags t).pending = s.pending :=
  (endEpoch_acts _ _ (Acts.refl [.regs, .tally] s) rfl).same .pending rfl

@[simp] theorem endEpoch_dial (flags : Nat) (t : Nat) (s : State) : (endEpoch s flags t).dial = s.dial :=
  (endEpoch_acts _ _ (Acts.refl [.regs, .tally] s) rfl).same .dial rfl

@[simp] theorem endEpoch_sched (flags : Nat) (t : Nat) (s : State) : (endEpoch s flags t).sched = s.sched :=
  (endEpoch_acts _ _ (Acts.refl [.regs, .tally] s) rfl).same .sched rfl

@[simp] theorem endEpoch_ports (flags : Nat) (t : Nat) (s : State) : (endEpoch s flags t).ports = s.ports :=
  (endEpoch_acts _ _ (Acts.refl [.regs, .tally] s) rfl).same .ports rfl

@[simp] theorem endEpoch_front (flags : Nat) (t : Nat) (s : State) : (endEpoch s flags t).front = s.front :=
  (endEpoch_acts _ _ (Acts.refl [.regs, .tally] s) rfl).same .front rfl

@[simp] theorem endEpoch_flow (flags : Nat) (t : Nat) (s : State) : (endEpoch s flags t).flow = s.flow :=
  (endEpoch_acts _ _ (Acts.refl [.regs, .tally] s) rfl).same .flow rfl

@[simp] theorem endEpoch_endpoint (flags : Nat) (t : Nat) (s : State) : (endEpoch s flags t).endpoint = s.endpoint :=
  (endEpoch_acts _ _ (Acts.refl [.regs, .tally] s) rfl).same .endpoint rfl

@[simp] theorem endEpoch_queue (flags : Nat) (t : Nat) (s : State) : (endEpoch s flags t).queue = s.queue :=
  (endEpoch_acts _ _ (Acts.refl [.regs, .tally] s) rfl).same .queue rfl

@[simp] theorem endEpoch_pipe (flags : Nat) (t : Nat) (s : State) : (endEpoch s flags t).pipe = s.pipe :=
  (endEpoch_acts _ _ (Acts.refl [.regs, .tally] s) rfl).same .pipe rfl

@[simp] theorem endEpoch_slots (flags : Nat) (t : Nat) (s : State) : (endEpoch s flags t).slots = s.slots :=
  (endEpoch_acts _ _ (Acts.refl [.regs, .tally] s) rfl).same .slots rfl

@[simp] theorem endEpoch_quant (flags : Nat) (t : Nat) (s : State) : (endEpoch s flags t).quant = s.quant :=
  (endEpoch_acts _ _ (Acts.refl [.regs, .tally] s) rfl).same .quant rfl

@[simp] theorem endEpoch_power (flags : Nat) (t : Nat) (s : State) : (endEpoch s flags t).power = s.power :=
  (endEpoch_acts _ _ (Acts.refl [.regs, .tally] s) rfl).same .power rfl

@[simp] theorem endEpoch_secure (flags : Nat) (t : Nat) (s : State) : (endEpoch s flags t).secure = s.secure :=
  (endEpoch_acts _ _ (Acts.refl [.regs, .tally] s) rfl).same .secure rfl

@[simp] theorem endEpoch_crown (flags : Nat) (t : Nat) (s : State) : (endEpoch s flags t).crown = s.crown :=
  (endEpoch_acts _ _ (Acts.refl [.regs, .tally] s) rfl).same .crown rfl

@[simp] theorem endEpoch_peer (flags : Nat) (t : Nat) (s : State) : (endEpoch s flags t).peer = s.peer :=
  (endEpoch_acts _ _ (Acts.refl [.regs, .tally] s) rfl).same .peer rfl

@[simp] theorem endEpoch_observe (flags : Nat) (t : Nat) (s : State) : (endEpoch s flags t).observe = s.observe :=
  (endEpoch_acts _ _ (Acts.refl [.regs, .tally] s) rfl).same .observe rfl

@[simp] theorem endEpoch_log (flags : Nat) (t : Nat) (s : State) : (endEpoch s flags t).log = s.log :=
  (endEpoch_acts _ _ (Acts.refl [.regs, .tally] s) rfl).same .log rfl

@[simp] theorem endEpoch_pins (flags : Nat) (t : Nat) (s : State) : (endEpoch s flags t).pins = s.pins :=
  (endEpoch_acts _ _ (Acts.refl [.regs, .tally] s) rfl).same .pins rfl

@[simp] theorem endEpoch_hbm (flags : Nat) (t : Nat) (s : State) : (endEpoch s flags t).hbm = s.hbm :=
  (endEpoch_acts _ _ (Acts.refl [.regs, .tally] s) rfl).same .hbm rfl

@[simp] theorem endEpoch_out (flags : Nat) (t : Nat) (s : State) : (endEpoch s flags t).out = s.out :=
  (endEpoch_acts _ _ (Acts.refl [.regs, .tally] s) rfl).same .out rfl

@[simp] theorem endEpoch_noticeSeq (flags : Nat) (t : Nat) (s : State) : (endEpoch s flags t).noticeSeq = s.noticeSeq :=
  (endEpoch_acts _ _ (Acts.refl [.regs, .tally] s) rfl).same .noticeSeq rfl

@[simp] theorem endEpoch_fresh (flags : Nat) (t : Nat) (s : State) : (endEpoch s flags t).fresh = s.fresh :=
  (endEpoch_acts _ _ (Acts.refl [.regs, .tally] s) rfl).same .fresh rfl

@[simp] theorem stepTime_pending (t : Nat) (s : State) : (stepTime s t).pending = s.pending :=
  (stepTime_acts _ (Acts.refl [.regs, .dial, .sched, .ports, .front, .flow, .endpoint, .queue, .pipe, .power, .tally, .observe, .pins, .noticeSeq] s) rfl).same .pending rfl

@[simp] theorem stepTime_slots (t : Nat) (s : State) : (stepTime s t).slots = s.slots :=
  (stepTime_acts _ (Acts.refl [.regs, .dial, .sched, .ports, .front, .flow, .endpoint, .queue, .pipe, .power, .tally, .observe, .pins, .noticeSeq] s) rfl).same .slots rfl

@[simp] theorem stepTime_quant (t : Nat) (s : State) : (stepTime s t).quant = s.quant :=
  (stepTime_acts _ (Acts.refl [.regs, .dial, .sched, .ports, .front, .flow, .endpoint, .queue, .pipe, .power, .tally, .observe, .pins, .noticeSeq] s) rfl).same .quant rfl

@[simp] theorem stepTime_secure (t : Nat) (s : State) : (stepTime s t).secure = s.secure :=
  (stepTime_acts _ (Acts.refl [.regs, .dial, .sched, .ports, .front, .flow, .endpoint, .queue, .pipe, .power, .tally, .observe, .pins, .noticeSeq] s) rfl).same .secure rfl

@[simp] theorem stepTime_crown (t : Nat) (s : State) : (stepTime s t).crown = s.crown :=
  (stepTime_acts _ (Acts.refl [.regs, .dial, .sched, .ports, .front, .flow, .endpoint, .queue, .pipe, .power, .tally, .observe, .pins, .noticeSeq] s) rfl).same .crown rfl

@[simp] theorem stepTime_peer (t : Nat) (s : State) : (stepTime s t).peer = s.peer :=
  (stepTime_acts _ (Acts.refl [.regs, .dial, .sched, .ports, .front, .flow, .endpoint, .queue, .pipe, .power, .tally, .observe, .pins, .noticeSeq] s) rfl).same .peer rfl

@[simp] theorem stepTime_log (t : Nat) (s : State) : (stepTime s t).log = s.log :=
  (stepTime_acts _ (Acts.refl [.regs, .dial, .sched, .ports, .front, .flow, .endpoint, .queue, .pipe, .power, .tally, .observe, .pins, .noticeSeq] s) rfl).same .log rfl

@[simp] theorem stepTime_hbm (t : Nat) (s : State) : (stepTime s t).hbm = s.hbm :=
  (stepTime_acts _ (Acts.refl [.regs, .dial, .sched, .ports, .front, .flow, .endpoint, .queue, .pipe, .power, .tally, .observe, .pins, .noticeSeq] s) rfl).same .hbm rfl

@[simp] theorem stepTime_out (t : Nat) (s : State) : (stepTime s t).out = s.out :=
  (stepTime_acts _ (Acts.refl [.regs, .dial, .sched, .ports, .front, .flow, .endpoint, .queue, .pipe, .power, .tally, .observe, .pins, .noticeSeq] s) rfl).same .out rfl

@[simp] theorem stepTime_fresh (t : Nat) (s : State) : (stepTime s t).fresh = s.fresh :=
  (stepTime_acts _ (Acts.refl [.regs, .dial, .sched, .ports, .front, .flow, .endpoint, .queue, .pipe, .power, .tally, .observe, .pins, .noticeSeq] s) rfl).same .fresh rfl

@[simp] theorem keyMemory_pending (kind : Nat) (id : Nat) (n : Nat) (s : State) : (keyMemory s kind id n).pending = s.pending :=
  (keyMemory_acts _ _ _ (Acts.refl [.tally, .observe] s) rfl).same .pending rfl

@[simp] theorem keyMemory_regs (kind : Nat) (id : Nat) (n : Nat) (s : State) : (keyMemory s kind id n).regs = s.regs :=
  (keyMemory_acts _ _ _ (Acts.refl [.tally, .observe] s) rfl).same .regs rfl

@[simp] theorem keyMemory_dial (kind : Nat) (id : Nat) (n : Nat) (s : State) : (keyMemory s kind id n).dial = s.dial :=
  (keyMemory_acts _ _ _ (Acts.refl [.tally, .observe] s) rfl).same .dial rfl

@[simp] theorem keyMemory_sched (kind : Nat) (id : Nat) (n : Nat) (s : State) : (keyMemory s kind id n).sched = s.sched :=
  (keyMemory_acts _ _ _ (Acts.refl [.tally, .observe] s) rfl).same .sched rfl

@[simp] theorem keyMemory_ports (kind : Nat) (id : Nat) (n : Nat) (s : State) : (keyMemory s kind id n).ports = s.ports :=
  (keyMemory_acts _ _ _ (Acts.refl [.tally, .observe] s) rfl).same .ports rfl

@[simp] theorem keyMemory_front (kind : Nat) (id : Nat) (n : Nat) (s : State) : (keyMemory s kind id n).front = s.front :=
  (keyMemory_acts _ _ _ (Acts.refl [.tally, .observe] s) rfl).same .front rfl

@[simp] theorem keyMemory_flow (kind : Nat) (id : Nat) (n : Nat) (s : State) : (keyMemory s kind id n).flow = s.flow :=
  (keyMemory_acts _ _ _ (Acts.refl [.tally, .observe] s) rfl).same .flow rfl

@[simp] theorem keyMemory_endpoint (kind : Nat) (id : Nat) (n : Nat) (s : State) : (keyMemory s kind id n).endpoint = s.endpoint :=
  (keyMemory_acts _ _ _ (Acts.refl [.tally, .observe] s) rfl).same .endpoint rfl

@[simp] theorem keyMemory_queue (kind : Nat) (id : Nat) (n : Nat) (s : State) : (keyMemory s kind id n).queue = s.queue :=
  (keyMemory_acts _ _ _ (Acts.refl [.tally, .observe] s) rfl).same .queue rfl

@[simp] theorem keyMemory_pipe (kind : Nat) (id : Nat) (n : Nat) (s : State) : (keyMemory s kind id n).pipe = s.pipe :=
  (keyMemory_acts _ _ _ (Acts.refl [.tally, .observe] s) rfl).same .pipe rfl

@[simp] theorem keyMemory_slots (kind : Nat) (id : Nat) (n : Nat) (s : State) : (keyMemory s kind id n).slots = s.slots :=
  (keyMemory_acts _ _ _ (Acts.refl [.tally, .observe] s) rfl).same .slots rfl

@[simp] theorem keyMemory_quant (kind : Nat) (id : Nat) (n : Nat) (s : State) : (keyMemory s kind id n).quant = s.quant :=
  (keyMemory_acts _ _ _ (Acts.refl [.tally, .observe] s) rfl).same .quant rfl

@[simp] theorem keyMemory_power (kind : Nat) (id : Nat) (n : Nat) (s : State) : (keyMemory s kind id n).power = s.power :=
  (keyMemory_acts _ _ _ (Acts.refl [.tally, .observe] s) rfl).same .power rfl

@[simp] theorem keyMemory_secure (kind : Nat) (id : Nat) (n : Nat) (s : State) : (keyMemory s kind id n).secure = s.secure :=
  (keyMemory_acts _ _ _ (Acts.refl [.tally, .observe] s) rfl).same .secure rfl

@[simp] theorem keyMemory_crown (kind : Nat) (id : Nat) (n : Nat) (s : State) : (keyMemory s kind id n).crown = s.crown :=
  (keyMemory_acts _ _ _ (Acts.refl [.tally, .observe] s) rfl).same .crown rfl

@[simp] theorem keyMemory_peer (kind : Nat) (id : Nat) (n : Nat) (s : State) : (keyMemory s kind id n).peer = s.peer :=
  (keyMemory_acts _ _ _ (Acts.refl [.tally, .observe] s) rfl).same .peer rfl

@[simp] theorem keyMemory_log (kind : Nat) (id : Nat) (n : Nat) (s : State) : (keyMemory s kind id n).log = s.log :=
  (keyMemory_acts _ _ _ (Acts.refl [.tally, .observe] s) rfl).same .log rfl

@[simp] theorem keyMemory_pins (kind : Nat) (id : Nat) (n : Nat) (s : State) : (keyMemory s kind id n).pins = s.pins :=
  (keyMemory_acts _ _ _ (Acts.refl [.tally, .observe] s) rfl).same .pins rfl

@[simp] theorem keyMemory_hbm (kind : Nat) (id : Nat) (n : Nat) (s : State) : (keyMemory s kind id n).hbm = s.hbm :=
  (keyMemory_acts _ _ _ (Acts.refl [.tally, .observe] s) rfl).same .hbm rfl

@[simp] theorem keyMemory_out (kind : Nat) (id : Nat) (n : Nat) (s : State) : (keyMemory s kind id n).out = s.out :=
  (keyMemory_acts _ _ _ (Acts.refl [.tally, .observe] s) rfl).same .out rfl

@[simp] theorem keyMemory_noticeSeq (kind : Nat) (id : Nat) (n : Nat) (s : State) : (keyMemory s kind id n).noticeSeq = s.noticeSeq :=
  (keyMemory_acts _ _ _ (Acts.refl [.tally, .observe] s) rfl).same .noticeSeq rfl

@[simp] theorem keyMemory_fresh (kind : Nat) (id : Nat) (n : Nat) (s : State) : (keyMemory s kind id n).fresh = s.fresh :=
  (keyMemory_acts _ _ _ (Acts.refl [.tally, .observe] s) rfl).same .fresh rfl

@[simp] theorem useKind_pending (kind : Nat) (slot : Nat) (n : Nat) (s : State) : (useKind s kind slot n).pending = s.pending :=
  (useKind_acts _ _ _ (Acts.refl [.sched] s) rfl).same .pending rfl

@[simp] theorem useKind_regs (kind : Nat) (slot : Nat) (n : Nat) (s : State) : (useKind s kind slot n).regs = s.regs :=
  (useKind_acts _ _ _ (Acts.refl [.sched] s) rfl).same .regs rfl

@[simp] theorem useKind_dial (kind : Nat) (slot : Nat) (n : Nat) (s : State) : (useKind s kind slot n).dial = s.dial :=
  (useKind_acts _ _ _ (Acts.refl [.sched] s) rfl).same .dial rfl

@[simp] theorem useKind_ports (kind : Nat) (slot : Nat) (n : Nat) (s : State) : (useKind s kind slot n).ports = s.ports :=
  (useKind_acts _ _ _ (Acts.refl [.sched] s) rfl).same .ports rfl

@[simp] theorem useKind_front (kind : Nat) (slot : Nat) (n : Nat) (s : State) : (useKind s kind slot n).front = s.front :=
  (useKind_acts _ _ _ (Acts.refl [.sched] s) rfl).same .front rfl

@[simp] theorem useKind_flow (kind : Nat) (slot : Nat) (n : Nat) (s : State) : (useKind s kind slot n).flow = s.flow :=
  (useKind_acts _ _ _ (Acts.refl [.sched] s) rfl).same .flow rfl

@[simp] theorem useKind_endpoint (kind : Nat) (slot : Nat) (n : Nat) (s : State) : (useKind s kind slot n).endpoint = s.endpoint :=
  (useKind_acts _ _ _ (Acts.refl [.sched] s) rfl).same .endpoint rfl

@[simp] theorem useKind_queue (kind : Nat) (slot : Nat) (n : Nat) (s : State) : (useKind s kind slot n).queue = s.queue :=
  (useKind_acts _ _ _ (Acts.refl [.sched] s) rfl).same .queue rfl

@[simp] theorem useKind_pipe (kind : Nat) (slot : Nat) (n : Nat) (s : State) : (useKind s kind slot n).pipe = s.pipe :=
  (useKind_acts _ _ _ (Acts.refl [.sched] s) rfl).same .pipe rfl

@[simp] theorem useKind_slots (kind : Nat) (slot : Nat) (n : Nat) (s : State) : (useKind s kind slot n).slots = s.slots :=
  (useKind_acts _ _ _ (Acts.refl [.sched] s) rfl).same .slots rfl

@[simp] theorem useKind_quant (kind : Nat) (slot : Nat) (n : Nat) (s : State) : (useKind s kind slot n).quant = s.quant :=
  (useKind_acts _ _ _ (Acts.refl [.sched] s) rfl).same .quant rfl

@[simp] theorem useKind_power (kind : Nat) (slot : Nat) (n : Nat) (s : State) : (useKind s kind slot n).power = s.power :=
  (useKind_acts _ _ _ (Acts.refl [.sched] s) rfl).same .power rfl

@[simp] theorem useKind_tally (kind : Nat) (slot : Nat) (n : Nat) (s : State) : (useKind s kind slot n).tally = s.tally :=
  (useKind_acts _ _ _ (Acts.refl [.sched] s) rfl).same .tally rfl

@[simp] theorem useKind_secure (kind : Nat) (slot : Nat) (n : Nat) (s : State) : (useKind s kind slot n).secure = s.secure :=
  (useKind_acts _ _ _ (Acts.refl [.sched] s) rfl).same .secure rfl

@[simp] theorem useKind_crown (kind : Nat) (slot : Nat) (n : Nat) (s : State) : (useKind s kind slot n).crown = s.crown :=
  (useKind_acts _ _ _ (Acts.refl [.sched] s) rfl).same .crown rfl

@[simp] theorem useKind_peer (kind : Nat) (slot : Nat) (n : Nat) (s : State) : (useKind s kind slot n).peer = s.peer :=
  (useKind_acts _ _ _ (Acts.refl [.sched] s) rfl).same .peer rfl

@[simp] theorem useKind_observe (kind : Nat) (slot : Nat) (n : Nat) (s : State) : (useKind s kind slot n).observe = s.observe :=
  (useKind_acts _ _ _ (Acts.refl [.sched] s) rfl).same .observe rfl

@[simp] theorem useKind_log (kind : Nat) (slot : Nat) (n : Nat) (s : State) : (useKind s kind slot n).log = s.log :=
  (useKind_acts _ _ _ (Acts.refl [.sched] s) rfl).same .log rfl

@[simp] theorem useKind_pins (kind : Nat) (slot : Nat) (n : Nat) (s : State) : (useKind s kind slot n).pins = s.pins :=
  (useKind_acts _ _ _ (Acts.refl [.sched] s) rfl).same .pins rfl

@[simp] theorem useKind_hbm (kind : Nat) (slot : Nat) (n : Nat) (s : State) : (useKind s kind slot n).hbm = s.hbm :=
  (useKind_acts _ _ _ (Acts.refl [.sched] s) rfl).same .hbm rfl

@[simp] theorem useKind_out (kind : Nat) (slot : Nat) (n : Nat) (s : State) : (useKind s kind slot n).out = s.out :=
  (useKind_acts _ _ _ (Acts.refl [.sched] s) rfl).same .out rfl

@[simp] theorem useKind_noticeSeq (kind : Nat) (slot : Nat) (n : Nat) (s : State) : (useKind s kind slot n).noticeSeq = s.noticeSeq :=
  (useKind_acts _ _ _ (Acts.refl [.sched] s) rfl).same .noticeSeq rfl

@[simp] theorem useKind_fresh (kind : Nat) (slot : Nat) (n : Nat) (s : State) : (useKind s kind slot n).fresh = s.fresh :=
  (useKind_acts _ _ _ (Acts.refl [.sched] s) rfl).same .fresh rfl

@[simp] theorem useUnit_pending (kind : Nat) (s : State) : (useUnit s kind).pending = s.pending :=
  (useUnit_acts _ (Acts.refl [.sched] s) rfl).same .pending rfl

@[simp] theorem useUnit_regs (kind : Nat) (s : State) : (useUnit s kind).regs = s.regs :=
  (useUnit_acts _ (Acts.refl [.sched] s) rfl).same .regs rfl

@[simp] theorem useUnit_dial (kind : Nat) (s : State) : (useUnit s kind).dial = s.dial :=
  (useUnit_acts _ (Acts.refl [.sched] s) rfl).same .dial rfl

@[simp] theorem useUnit_ports (kind : Nat) (s : State) : (useUnit s kind).ports = s.ports :=
  (useUnit_acts _ (Acts.refl [.sched] s) rfl).same .ports rfl

@[simp] theorem useUnit_front (kind : Nat) (s : State) : (useUnit s kind).front = s.front :=
  (useUnit_acts _ (Acts.refl [.sched] s) rfl).same .front rfl

@[simp] theorem useUnit_flow (kind : Nat) (s : State) : (useUnit s kind).flow = s.flow :=
  (useUnit_acts _ (Acts.refl [.sched] s) rfl).same .flow rfl

@[simp] theorem useUnit_endpoint (kind : Nat) (s : State) : (useUnit s kind).endpoint = s.endpoint :=
  (useUnit_acts _ (Acts.refl [.sched] s) rfl).same .endpoint rfl

@[simp] theorem useUnit_queue (kind : Nat) (s : State) : (useUnit s kind).queue = s.queue :=
  (useUnit_acts _ (Acts.refl [.sched] s) rfl).same .queue rfl

@[simp] theorem useUnit_pipe (kind : Nat) (s : State) : (useUnit s kind).pipe = s.pipe :=
  (useUnit_acts _ (Acts.refl [.sched] s) rfl).same .pipe rfl

@[simp] theorem useUnit_slots (kind : Nat) (s : State) : (useUnit s kind).slots = s.slots :=
  (useUnit_acts _ (Acts.refl [.sched] s) rfl).same .slots rfl

@[simp] theorem useUnit_quant (kind : Nat) (s : State) : (useUnit s kind).quant = s.quant :=
  (useUnit_acts _ (Acts.refl [.sched] s) rfl).same .quant rfl

@[simp] theorem useUnit_power (kind : Nat) (s : State) : (useUnit s kind).power = s.power :=
  (useUnit_acts _ (Acts.refl [.sched] s) rfl).same .power rfl

@[simp] theorem useUnit_tally (kind : Nat) (s : State) : (useUnit s kind).tally = s.tally :=
  (useUnit_acts _ (Acts.refl [.sched] s) rfl).same .tally rfl

@[simp] theorem useUnit_secure (kind : Nat) (s : State) : (useUnit s kind).secure = s.secure :=
  (useUnit_acts _ (Acts.refl [.sched] s) rfl).same .secure rfl

@[simp] theorem useUnit_crown (kind : Nat) (s : State) : (useUnit s kind).crown = s.crown :=
  (useUnit_acts _ (Acts.refl [.sched] s) rfl).same .crown rfl

@[simp] theorem useUnit_peer (kind : Nat) (s : State) : (useUnit s kind).peer = s.peer :=
  (useUnit_acts _ (Acts.refl [.sched] s) rfl).same .peer rfl

@[simp] theorem useUnit_observe (kind : Nat) (s : State) : (useUnit s kind).observe = s.observe :=
  (useUnit_acts _ (Acts.refl [.sched] s) rfl).same .observe rfl

@[simp] theorem useUnit_log (kind : Nat) (s : State) : (useUnit s kind).log = s.log :=
  (useUnit_acts _ (Acts.refl [.sched] s) rfl).same .log rfl

@[simp] theorem useUnit_pins (kind : Nat) (s : State) : (useUnit s kind).pins = s.pins :=
  (useUnit_acts _ (Acts.refl [.sched] s) rfl).same .pins rfl

@[simp] theorem useUnit_hbm (kind : Nat) (s : State) : (useUnit s kind).hbm = s.hbm :=
  (useUnit_acts _ (Acts.refl [.sched] s) rfl).same .hbm rfl

@[simp] theorem useUnit_out (kind : Nat) (s : State) : (useUnit s kind).out = s.out :=
  (useUnit_acts _ (Acts.refl [.sched] s) rfl).same .out rfl

@[simp] theorem useUnit_noticeSeq (kind : Nat) (s : State) : (useUnit s kind).noticeSeq = s.noticeSeq :=
  (useUnit_acts _ (Acts.refl [.sched] s) rfl).same .noticeSeq rfl

@[simp] theorem useUnit_fresh (kind : Nat) (s : State) : (useUnit s kind).fresh = s.fresh :=
  (useUnit_acts _ (Acts.refl [.sched] s) rfl).same .fresh rfl

@[simp] theorem accrue_pending  (s : State) : (accrue s).pending = s.pending :=
  (accrue_acts  (Acts.refl [.regs, .sched, .pipe, .tally, .observe] s) rfl).same .pending rfl

@[simp] theorem accrue_dial  (s : State) : (accrue s).dial = s.dial :=
  (accrue_acts  (Acts.refl [.regs, .sched, .pipe, .tally, .observe] s) rfl).same .dial rfl

@[simp] theorem accrue_ports  (s : State) : (accrue s).ports = s.ports :=
  (accrue_acts  (Acts.refl [.regs, .sched, .pipe, .tally, .observe] s) rfl).same .ports rfl

@[simp] theorem accrue_front  (s : State) : (accrue s).front = s.front :=
  (accrue_acts  (Acts.refl [.regs, .sched, .pipe, .tally, .observe] s) rfl).same .front rfl

@[simp] theorem accrue_flow  (s : State) : (accrue s).flow = s.flow :=
  (accrue_acts  (Acts.refl [.regs, .sched, .pipe, .tally, .observe] s) rfl).same .flow rfl

@[simp] theorem accrue_endpoint  (s : State) : (accrue s).endpoint = s.endpoint :=
  (accrue_acts  (Acts.refl [.regs, .sched, .pipe, .tally, .observe] s) rfl).same .endpoint rfl

@[simp] theorem accrue_queue  (s : State) : (accrue s).queue = s.queue :=
  (accrue_acts  (Acts.refl [.regs, .sched, .pipe, .tally, .observe] s) rfl).same .queue rfl

@[simp] theorem accrue_slots  (s : State) : (accrue s).slots = s.slots :=
  (accrue_acts  (Acts.refl [.regs, .sched, .pipe, .tally, .observe] s) rfl).same .slots rfl

@[simp] theorem accrue_quant  (s : State) : (accrue s).quant = s.quant :=
  (accrue_acts  (Acts.refl [.regs, .sched, .pipe, .tally, .observe] s) rfl).same .quant rfl

@[simp] theorem accrue_power  (s : State) : (accrue s).power = s.power :=
  (accrue_acts  (Acts.refl [.regs, .sched, .pipe, .tally, .observe] s) rfl).same .power rfl

@[simp] theorem accrue_secure  (s : State) : (accrue s).secure = s.secure :=
  (accrue_acts  (Acts.refl [.regs, .sched, .pipe, .tally, .observe] s) rfl).same .secure rfl

@[simp] theorem accrue_crown  (s : State) : (accrue s).crown = s.crown :=
  (accrue_acts  (Acts.refl [.regs, .sched, .pipe, .tally, .observe] s) rfl).same .crown rfl

@[simp] theorem accrue_peer  (s : State) : (accrue s).peer = s.peer :=
  (accrue_acts  (Acts.refl [.regs, .sched, .pipe, .tally, .observe] s) rfl).same .peer rfl

@[simp] theorem accrue_log  (s : State) : (accrue s).log = s.log :=
  (accrue_acts  (Acts.refl [.regs, .sched, .pipe, .tally, .observe] s) rfl).same .log rfl

@[simp] theorem accrue_pins  (s : State) : (accrue s).pins = s.pins :=
  (accrue_acts  (Acts.refl [.regs, .sched, .pipe, .tally, .observe] s) rfl).same .pins rfl

@[simp] theorem accrue_hbm  (s : State) : (accrue s).hbm = s.hbm :=
  (accrue_acts  (Acts.refl [.regs, .sched, .pipe, .tally, .observe] s) rfl).same .hbm rfl

@[simp] theorem accrue_out  (s : State) : (accrue s).out = s.out :=
  (accrue_acts  (Acts.refl [.regs, .sched, .pipe, .tally, .observe] s) rfl).same .out rfl

@[simp] theorem accrue_noticeSeq  (s : State) : (accrue s).noticeSeq = s.noticeSeq :=
  (accrue_acts  (Acts.refl [.regs, .sched, .pipe, .tally, .observe] s) rfl).same .noticeSeq rfl

@[simp] theorem accrue_fresh  (s : State) : (accrue s).fresh = s.fresh :=
  (accrue_acts  (Acts.refl [.regs, .sched, .pipe, .tally, .observe] s) rfl).same .fresh rfl

@[simp] theorem writeQControl_pending (w : Nat) (s : State) : (writeQControl s w).pending = s.pending :=
  (writeQControl_acts _ (Acts.refl [.regs, .quant] s) rfl).same .pending rfl

@[simp] theorem writeQControl_dial (w : Nat) (s : State) : (writeQControl s w).dial = s.dial :=
  (writeQControl_acts _ (Acts.refl [.regs, .quant] s) rfl).same .dial rfl

@[simp] theorem writeQControl_sched (w : Nat) (s : State) : (writeQControl s w).sched = s.sched :=
  (writeQControl_acts _ (Acts.refl [.regs, .quant] s) rfl).same .sched rfl

@[simp] theorem writeQControl_ports (w : Nat) (s : State) : (writeQControl s w).ports = s.ports :=
  (writeQControl_acts _ (Acts.refl [.regs, .quant] s) rfl).same .ports rfl

@[simp] theorem writeQControl_front (w : Nat) (s : State) : (writeQControl s w).front = s.front :=
  (writeQControl_acts _ (Acts.refl [.regs, .quant] s) rfl).same .front rfl

@[simp] theorem writeQControl_flow (w : Nat) (s : State) : (writeQControl s w).flow = s.flow :=
  (writeQControl_acts _ (Acts.refl [.regs, .quant] s) rfl).same .flow rfl

@[simp] theorem writeQControl_endpoint (w : Nat) (s : State) : (writeQControl s w).endpoint = s.endpoint :=
  (writeQControl_acts _ (Acts.refl [.regs, .quant] s) rfl).same .endpoint rfl

@[simp] theorem writeQControl_queue (w : Nat) (s : State) : (writeQControl s w).queue = s.queue :=
  (writeQControl_acts _ (Acts.refl [.regs, .quant] s) rfl).same .queue rfl

@[simp] theorem writeQControl_pipe (w : Nat) (s : State) : (writeQControl s w).pipe = s.pipe :=
  (writeQControl_acts _ (Acts.refl [.regs, .quant] s) rfl).same .pipe rfl

@[simp] theorem writeQControl_slots (w : Nat) (s : State) : (writeQControl s w).slots = s.slots :=
  (writeQControl_acts _ (Acts.refl [.regs, .quant] s) rfl).same .slots rfl

@[simp] theorem writeQControl_power (w : Nat) (s : State) : (writeQControl s w).power = s.power :=
  (writeQControl_acts _ (Acts.refl [.regs, .quant] s) rfl).same .power rfl

@[simp] theorem writeQControl_tally (w : Nat) (s : State) : (writeQControl s w).tally = s.tally :=
  (writeQControl_acts _ (Acts.refl [.regs, .quant] s) rfl).same .tally rfl

@[simp] theorem writeQControl_secure (w : Nat) (s : State) : (writeQControl s w).secure = s.secure :=
  (writeQControl_acts _ (Acts.refl [.regs, .quant] s) rfl).same .secure rfl

@[simp] theorem writeQControl_crown (w : Nat) (s : State) : (writeQControl s w).crown = s.crown :=
  (writeQControl_acts _ (Acts.refl [.regs, .quant] s) rfl).same .crown rfl

@[simp] theorem writeQControl_peer (w : Nat) (s : State) : (writeQControl s w).peer = s.peer :=
  (writeQControl_acts _ (Acts.refl [.regs, .quant] s) rfl).same .peer rfl

@[simp] theorem writeQControl_observe (w : Nat) (s : State) : (writeQControl s w).observe = s.observe :=
  (writeQControl_acts _ (Acts.refl [.regs, .quant] s) rfl).same .observe rfl

@[simp] theorem writeQControl_log (w : Nat) (s : State) : (writeQControl s w).log = s.log :=
  (writeQControl_acts _ (Acts.refl [.regs, .quant] s) rfl).same .log rfl

@[simp] theorem writeQControl_pins (w : Nat) (s : State) : (writeQControl s w).pins = s.pins :=
  (writeQControl_acts _ (Acts.refl [.regs, .quant] s) rfl).same .pins rfl

@[simp] theorem writeQControl_hbm (w : Nat) (s : State) : (writeQControl s w).hbm = s.hbm :=
  (writeQControl_acts _ (Acts.refl [.regs, .quant] s) rfl).same .hbm rfl

@[simp] theorem writeQControl_out (w : Nat) (s : State) : (writeQControl s w).out = s.out :=
  (writeQControl_acts _ (Acts.refl [.regs, .quant] s) rfl).same .out rfl

@[simp] theorem writeQControl_noticeSeq (w : Nat) (s : State) : (writeQControl s w).noticeSeq = s.noticeSeq :=
  (writeQControl_acts _ (Acts.refl [.regs, .quant] s) rfl).same .noticeSeq rfl

@[simp] theorem writeQControl_fresh (w : Nat) (s : State) : (writeQControl s w).fresh = s.fresh :=
  (writeQControl_acts _ (Acts.refl [.regs, .quant] s) rfl).same .fresh rfl

@[simp] theorem modT_pending (t : Nat) (f : TableSt → TableSt) (s : State) : (modT s t f).pending = s.pending :=
  (modT_acts _ _ (Acts.refl [.flow, .endpoint] s) rfl).same .pending rfl

@[simp] theorem modT_regs (t : Nat) (f : TableSt → TableSt) (s : State) : (modT s t f).regs = s.regs :=
  (modT_acts _ _ (Acts.refl [.flow, .endpoint] s) rfl).same .regs rfl

@[simp] theorem modT_dial (t : Nat) (f : TableSt → TableSt) (s : State) : (modT s t f).dial = s.dial :=
  (modT_acts _ _ (Acts.refl [.flow, .endpoint] s) rfl).same .dial rfl

@[simp] theorem modT_sched (t : Nat) (f : TableSt → TableSt) (s : State) : (modT s t f).sched = s.sched :=
  (modT_acts _ _ (Acts.refl [.flow, .endpoint] s) rfl).same .sched rfl

@[simp] theorem modT_ports (t : Nat) (f : TableSt → TableSt) (s : State) : (modT s t f).ports = s.ports :=
  (modT_acts _ _ (Acts.refl [.flow, .endpoint] s) rfl).same .ports rfl

@[simp] theorem modT_front (t : Nat) (f : TableSt → TableSt) (s : State) : (modT s t f).front = s.front :=
  (modT_acts _ _ (Acts.refl [.flow, .endpoint] s) rfl).same .front rfl

@[simp] theorem modT_queue (t : Nat) (f : TableSt → TableSt) (s : State) : (modT s t f).queue = s.queue :=
  (modT_acts _ _ (Acts.refl [.flow, .endpoint] s) rfl).same .queue rfl

@[simp] theorem modT_pipe (t : Nat) (f : TableSt → TableSt) (s : State) : (modT s t f).pipe = s.pipe :=
  (modT_acts _ _ (Acts.refl [.flow, .endpoint] s) rfl).same .pipe rfl

@[simp] theorem modT_slots (t : Nat) (f : TableSt → TableSt) (s : State) : (modT s t f).slots = s.slots :=
  (modT_acts _ _ (Acts.refl [.flow, .endpoint] s) rfl).same .slots rfl

@[simp] theorem modT_quant (t : Nat) (f : TableSt → TableSt) (s : State) : (modT s t f).quant = s.quant :=
  (modT_acts _ _ (Acts.refl [.flow, .endpoint] s) rfl).same .quant rfl

@[simp] theorem modT_power (t : Nat) (f : TableSt → TableSt) (s : State) : (modT s t f).power = s.power :=
  (modT_acts _ _ (Acts.refl [.flow, .endpoint] s) rfl).same .power rfl

@[simp] theorem modT_tally (t : Nat) (f : TableSt → TableSt) (s : State) : (modT s t f).tally = s.tally :=
  (modT_acts _ _ (Acts.refl [.flow, .endpoint] s) rfl).same .tally rfl

@[simp] theorem modT_secure (t : Nat) (f : TableSt → TableSt) (s : State) : (modT s t f).secure = s.secure :=
  (modT_acts _ _ (Acts.refl [.flow, .endpoint] s) rfl).same .secure rfl

@[simp] theorem modT_crown (t : Nat) (f : TableSt → TableSt) (s : State) : (modT s t f).crown = s.crown :=
  (modT_acts _ _ (Acts.refl [.flow, .endpoint] s) rfl).same .crown rfl

@[simp] theorem modT_peer (t : Nat) (f : TableSt → TableSt) (s : State) : (modT s t f).peer = s.peer :=
  (modT_acts _ _ (Acts.refl [.flow, .endpoint] s) rfl).same .peer rfl

@[simp] theorem modT_observe (t : Nat) (f : TableSt → TableSt) (s : State) : (modT s t f).observe = s.observe :=
  (modT_acts _ _ (Acts.refl [.flow, .endpoint] s) rfl).same .observe rfl

@[simp] theorem modT_log (t : Nat) (f : TableSt → TableSt) (s : State) : (modT s t f).log = s.log :=
  (modT_acts _ _ (Acts.refl [.flow, .endpoint] s) rfl).same .log rfl

@[simp] theorem modT_pins (t : Nat) (f : TableSt → TableSt) (s : State) : (modT s t f).pins = s.pins :=
  (modT_acts _ _ (Acts.refl [.flow, .endpoint] s) rfl).same .pins rfl

@[simp] theorem modT_hbm (t : Nat) (f : TableSt → TableSt) (s : State) : (modT s t f).hbm = s.hbm :=
  (modT_acts _ _ (Acts.refl [.flow, .endpoint] s) rfl).same .hbm rfl

@[simp] theorem modT_out (t : Nat) (f : TableSt → TableSt) (s : State) : (modT s t f).out = s.out :=
  (modT_acts _ _ (Acts.refl [.flow, .endpoint] s) rfl).same .out rfl

@[simp] theorem modT_noticeSeq (t : Nat) (f : TableSt → TableSt) (s : State) : (modT s t f).noticeSeq = s.noticeSeq :=
  (modT_acts _ _ (Acts.refl [.flow, .endpoint] s) rfl).same .noticeSeq rfl

@[simp] theorem modT_fresh (t : Nat) (f : TableSt → TableSt) (s : State) : (modT s t f).fresh = s.fresh :=
  (modT_acts _ _ (Acts.refl [.flow, .endpoint] s) rfl).same .fresh rfl

@[simp] theorem keyTable_pending (t : Nat) (holder : Nat) (id : Nat) (access : Nat) (bytes : Nat) (s : State) : (keyTable s t holder id access bytes).pending = s.pending :=
  (keyTable_acts _ _ _ _ _ (Acts.refl [.tally, .observe] s) rfl).same .pending rfl

@[simp] theorem keyTable_regs (t : Nat) (holder : Nat) (id : Nat) (access : Nat) (bytes : Nat) (s : State) : (keyTable s t holder id access bytes).regs = s.regs :=
  (keyTable_acts _ _ _ _ _ (Acts.refl [.tally, .observe] s) rfl).same .regs rfl

@[simp] theorem keyTable_dial (t : Nat) (holder : Nat) (id : Nat) (access : Nat) (bytes : Nat) (s : State) : (keyTable s t holder id access bytes).dial = s.dial :=
  (keyTable_acts _ _ _ _ _ (Acts.refl [.tally, .observe] s) rfl).same .dial rfl

@[simp] theorem keyTable_sched (t : Nat) (holder : Nat) (id : Nat) (access : Nat) (bytes : Nat) (s : State) : (keyTable s t holder id access bytes).sched = s.sched :=
  (keyTable_acts _ _ _ _ _ (Acts.refl [.tally, .observe] s) rfl).same .sched rfl

@[simp] theorem keyTable_ports (t : Nat) (holder : Nat) (id : Nat) (access : Nat) (bytes : Nat) (s : State) : (keyTable s t holder id access bytes).ports = s.ports :=
  (keyTable_acts _ _ _ _ _ (Acts.refl [.tally, .observe] s) rfl).same .ports rfl

@[simp] theorem keyTable_front (t : Nat) (holder : Nat) (id : Nat) (access : Nat) (bytes : Nat) (s : State) : (keyTable s t holder id access bytes).front = s.front :=
  (keyTable_acts _ _ _ _ _ (Acts.refl [.tally, .observe] s) rfl).same .front rfl

@[simp] theorem keyTable_flow (t : Nat) (holder : Nat) (id : Nat) (access : Nat) (bytes : Nat) (s : State) : (keyTable s t holder id access bytes).flow = s.flow :=
  (keyTable_acts _ _ _ _ _ (Acts.refl [.tally, .observe] s) rfl).same .flow rfl

@[simp] theorem keyTable_endpoint (t : Nat) (holder : Nat) (id : Nat) (access : Nat) (bytes : Nat) (s : State) : (keyTable s t holder id access bytes).endpoint = s.endpoint :=
  (keyTable_acts _ _ _ _ _ (Acts.refl [.tally, .observe] s) rfl).same .endpoint rfl

@[simp] theorem keyTable_queue (t : Nat) (holder : Nat) (id : Nat) (access : Nat) (bytes : Nat) (s : State) : (keyTable s t holder id access bytes).queue = s.queue :=
  (keyTable_acts _ _ _ _ _ (Acts.refl [.tally, .observe] s) rfl).same .queue rfl

@[simp] theorem keyTable_pipe (t : Nat) (holder : Nat) (id : Nat) (access : Nat) (bytes : Nat) (s : State) : (keyTable s t holder id access bytes).pipe = s.pipe :=
  (keyTable_acts _ _ _ _ _ (Acts.refl [.tally, .observe] s) rfl).same .pipe rfl

@[simp] theorem keyTable_slots (t : Nat) (holder : Nat) (id : Nat) (access : Nat) (bytes : Nat) (s : State) : (keyTable s t holder id access bytes).slots = s.slots :=
  (keyTable_acts _ _ _ _ _ (Acts.refl [.tally, .observe] s) rfl).same .slots rfl

@[simp] theorem keyTable_quant (t : Nat) (holder : Nat) (id : Nat) (access : Nat) (bytes : Nat) (s : State) : (keyTable s t holder id access bytes).quant = s.quant :=
  (keyTable_acts _ _ _ _ _ (Acts.refl [.tally, .observe] s) rfl).same .quant rfl

@[simp] theorem keyTable_power (t : Nat) (holder : Nat) (id : Nat) (access : Nat) (bytes : Nat) (s : State) : (keyTable s t holder id access bytes).power = s.power :=
  (keyTable_acts _ _ _ _ _ (Acts.refl [.tally, .observe] s) rfl).same .power rfl

@[simp] theorem keyTable_secure (t : Nat) (holder : Nat) (id : Nat) (access : Nat) (bytes : Nat) (s : State) : (keyTable s t holder id access bytes).secure = s.secure :=
  (keyTable_acts _ _ _ _ _ (Acts.refl [.tally, .observe] s) rfl).same .secure rfl

@[simp] theorem keyTable_crown (t : Nat) (holder : Nat) (id : Nat) (access : Nat) (bytes : Nat) (s : State) : (keyTable s t holder id access bytes).crown = s.crown :=
  (keyTable_acts _ _ _ _ _ (Acts.refl [.tally, .observe] s) rfl).same .crown rfl

@[simp] theorem keyTable_peer (t : Nat) (holder : Nat) (id : Nat) (access : Nat) (bytes : Nat) (s : State) : (keyTable s t holder id access bytes).peer = s.peer :=
  (keyTable_acts _ _ _ _ _ (Acts.refl [.tally, .observe] s) rfl).same .peer rfl

@[simp] theorem keyTable_log (t : Nat) (holder : Nat) (id : Nat) (access : Nat) (bytes : Nat) (s : State) : (keyTable s t holder id access bytes).log = s.log :=
  (keyTable_acts _ _ _ _ _ (Acts.refl [.tally, .observe] s) rfl).same .log rfl

@[simp] theorem keyTable_pins (t : Nat) (holder : Nat) (id : Nat) (access : Nat) (bytes : Nat) (s : State) : (keyTable s t holder id access bytes).pins = s.pins :=
  (keyTable_acts _ _ _ _ _ (Acts.refl [.tally, .observe] s) rfl).same .pins rfl

@[simp] theorem keyTable_hbm (t : Nat) (holder : Nat) (id : Nat) (access : Nat) (bytes : Nat) (s : State) : (keyTable s t holder id access bytes).hbm = s.hbm :=
  (keyTable_acts _ _ _ _ _ (Acts.refl [.tally, .observe] s) rfl).same .hbm rfl

@[simp] theorem keyTable_out (t : Nat) (holder : Nat) (id : Nat) (access : Nat) (bytes : Nat) (s : State) : (keyTable s t holder id access bytes).out = s.out :=
  (keyTable_acts _ _ _ _ _ (Acts.refl [.tally, .observe] s) rfl).same .out rfl

@[simp] theorem keyTable_noticeSeq (t : Nat) (holder : Nat) (id : Nat) (access : Nat) (bytes : Nat) (s : State) : (keyTable s t holder id access bytes).noticeSeq = s.noticeSeq :=
  (keyTable_acts _ _ _ _ _ (Acts.refl [.tally, .observe] s) rfl).same .noticeSeq rfl

@[simp] theorem keyTable_fresh (t : Nat) (holder : Nat) (id : Nat) (access : Nat) (bytes : Nat) (s : State) : (keyTable s t holder id access bytes).fresh = s.fresh :=
  (keyTable_acts _ _ _ _ _ (Acts.refl [.tally, .observe] s) rfl).same .fresh rfl

@[simp] theorem setEntry_pending (t : Nat) (i : Nat) (e : Entry) (s : State) : (setEntry s t i e).pending = s.pending :=
  (setEntry_acts _ _ _ (Acts.refl [.flow, .endpoint] s) rfl).same .pending rfl

@[simp] theorem setEntry_regs (t : Nat) (i : Nat) (e : Entry) (s : State) : (setEntry s t i e).regs = s.regs :=
  (setEntry_acts _ _ _ (Acts.refl [.flow, .endpoint] s) rfl).same .regs rfl

@[simp] theorem setEntry_dial (t : Nat) (i : Nat) (e : Entry) (s : State) : (setEntry s t i e).dial = s.dial :=
  (setEntry_acts _ _ _ (Acts.refl [.flow, .endpoint] s) rfl).same .dial rfl

@[simp] theorem setEntry_sched (t : Nat) (i : Nat) (e : Entry) (s : State) : (setEntry s t i e).sched = s.sched :=
  (setEntry_acts _ _ _ (Acts.refl [.flow, .endpoint] s) rfl).same .sched rfl

@[simp] theorem setEntry_ports (t : Nat) (i : Nat) (e : Entry) (s : State) : (setEntry s t i e).ports = s.ports :=
  (setEntry_acts _ _ _ (Acts.refl [.flow, .endpoint] s) rfl).same .ports rfl

@[simp] theorem setEntry_front (t : Nat) (i : Nat) (e : Entry) (s : State) : (setEntry s t i e).front = s.front :=
  (setEntry_acts _ _ _ (Acts.refl [.flow, .endpoint] s) rfl).same .front rfl

@[simp] theorem setEntry_queue (t : Nat) (i : Nat) (e : Entry) (s : State) : (setEntry s t i e).queue = s.queue :=
  (setEntry_acts _ _ _ (Acts.refl [.flow, .endpoint] s) rfl).same .queue rfl

@[simp] theorem setEntry_pipe (t : Nat) (i : Nat) (e : Entry) (s : State) : (setEntry s t i e).pipe = s.pipe :=
  (setEntry_acts _ _ _ (Acts.refl [.flow, .endpoint] s) rfl).same .pipe rfl

@[simp] theorem setEntry_slots (t : Nat) (i : Nat) (e : Entry) (s : State) : (setEntry s t i e).slots = s.slots :=
  (setEntry_acts _ _ _ (Acts.refl [.flow, .endpoint] s) rfl).same .slots rfl

@[simp] theorem setEntry_quant (t : Nat) (i : Nat) (e : Entry) (s : State) : (setEntry s t i e).quant = s.quant :=
  (setEntry_acts _ _ _ (Acts.refl [.flow, .endpoint] s) rfl).same .quant rfl

@[simp] theorem setEntry_power (t : Nat) (i : Nat) (e : Entry) (s : State) : (setEntry s t i e).power = s.power :=
  (setEntry_acts _ _ _ (Acts.refl [.flow, .endpoint] s) rfl).same .power rfl

@[simp] theorem setEntry_tally (t : Nat) (i : Nat) (e : Entry) (s : State) : (setEntry s t i e).tally = s.tally :=
  (setEntry_acts _ _ _ (Acts.refl [.flow, .endpoint] s) rfl).same .tally rfl

@[simp] theorem setEntry_secure (t : Nat) (i : Nat) (e : Entry) (s : State) : (setEntry s t i e).secure = s.secure :=
  (setEntry_acts _ _ _ (Acts.refl [.flow, .endpoint] s) rfl).same .secure rfl

@[simp] theorem setEntry_crown (t : Nat) (i : Nat) (e : Entry) (s : State) : (setEntry s t i e).crown = s.crown :=
  (setEntry_acts _ _ _ (Acts.refl [.flow, .endpoint] s) rfl).same .crown rfl

@[simp] theorem setEntry_peer (t : Nat) (i : Nat) (e : Entry) (s : State) : (setEntry s t i e).peer = s.peer :=
  (setEntry_acts _ _ _ (Acts.refl [.flow, .endpoint] s) rfl).same .peer rfl

@[simp] theorem setEntry_observe (t : Nat) (i : Nat) (e : Entry) (s : State) : (setEntry s t i e).observe = s.observe :=
  (setEntry_acts _ _ _ (Acts.refl [.flow, .endpoint] s) rfl).same .observe rfl

@[simp] theorem setEntry_log (t : Nat) (i : Nat) (e : Entry) (s : State) : (setEntry s t i e).log = s.log :=
  (setEntry_acts _ _ _ (Acts.refl [.flow, .endpoint] s) rfl).same .log rfl

@[simp] theorem setEntry_pins (t : Nat) (i : Nat) (e : Entry) (s : State) : (setEntry s t i e).pins = s.pins :=
  (setEntry_acts _ _ _ (Acts.refl [.flow, .endpoint] s) rfl).same .pins rfl

@[simp] theorem setEntry_hbm (t : Nat) (i : Nat) (e : Entry) (s : State) : (setEntry s t i e).hbm = s.hbm :=
  (setEntry_acts _ _ _ (Acts.refl [.flow, .endpoint] s) rfl).same .hbm rfl

@[simp] theorem setEntry_out (t : Nat) (i : Nat) (e : Entry) (s : State) : (setEntry s t i e).out = s.out :=
  (setEntry_acts _ _ _ (Acts.refl [.flow, .endpoint] s) rfl).same .out rfl

@[simp] theorem setEntry_noticeSeq (t : Nat) (i : Nat) (e : Entry) (s : State) : (setEntry s t i e).noticeSeq = s.noticeSeq :=
  (setEntry_acts _ _ _ (Acts.refl [.flow, .endpoint] s) rfl).same .noticeSeq rfl

@[simp] theorem setEntry_fresh (t : Nat) (i : Nat) (e : Entry) (s : State) : (setEntry s t i e).fresh = s.fresh :=
  (setEntry_acts _ _ _ (Acts.refl [.flow, .endpoint] s) rfl).same .fresh rfl

@[simp] theorem showTable_pending (t : Nat) (s : State) : (showTable s t).pending = s.pending :=
  (showTable_acts _ (Acts.refl [.regs] s) rfl).same .pending rfl

@[simp] theorem showTable_dial (t : Nat) (s : State) : (showTable s t).dial = s.dial :=
  (showTable_acts _ (Acts.refl [.regs] s) rfl).same .dial rfl

@[simp] theorem showTable_sched (t : Nat) (s : State) : (showTable s t).sched = s.sched :=
  (showTable_acts _ (Acts.refl [.regs] s) rfl).same .sched rfl

@[simp] theorem showTable_ports (t : Nat) (s : State) : (showTable s t).ports = s.ports :=
  (showTable_acts _ (Acts.refl [.regs] s) rfl).same .ports rfl

@[simp] theorem showTable_front (t : Nat) (s : State) : (showTable s t).front = s.front :=
  (showTable_acts _ (Acts.refl [.regs] s) rfl).same .front rfl

@[simp] theorem showTable_flow (t : Nat) (s : State) : (showTable s t).flow = s.flow :=
  (showTable_acts _ (Acts.refl [.regs] s) rfl).same .flow rfl

@[simp] theorem showTable_endpoint (t : Nat) (s : State) : (showTable s t).endpoint = s.endpoint :=
  (showTable_acts _ (Acts.refl [.regs] s) rfl).same .endpoint rfl

@[simp] theorem showTable_queue (t : Nat) (s : State) : (showTable s t).queue = s.queue :=
  (showTable_acts _ (Acts.refl [.regs] s) rfl).same .queue rfl

@[simp] theorem showTable_pipe (t : Nat) (s : State) : (showTable s t).pipe = s.pipe :=
  (showTable_acts _ (Acts.refl [.regs] s) rfl).same .pipe rfl

@[simp] theorem showTable_slots (t : Nat) (s : State) : (showTable s t).slots = s.slots :=
  (showTable_acts _ (Acts.refl [.regs] s) rfl).same .slots rfl

@[simp] theorem showTable_quant (t : Nat) (s : State) : (showTable s t).quant = s.quant :=
  (showTable_acts _ (Acts.refl [.regs] s) rfl).same .quant rfl

@[simp] theorem showTable_power (t : Nat) (s : State) : (showTable s t).power = s.power :=
  (showTable_acts _ (Acts.refl [.regs] s) rfl).same .power rfl

@[simp] theorem showTable_tally (t : Nat) (s : State) : (showTable s t).tally = s.tally :=
  (showTable_acts _ (Acts.refl [.regs] s) rfl).same .tally rfl

@[simp] theorem showTable_secure (t : Nat) (s : State) : (showTable s t).secure = s.secure :=
  (showTable_acts _ (Acts.refl [.regs] s) rfl).same .secure rfl

@[simp] theorem showTable_crown (t : Nat) (s : State) : (showTable s t).crown = s.crown :=
  (showTable_acts _ (Acts.refl [.regs] s) rfl).same .crown rfl

@[simp] theorem showTable_peer (t : Nat) (s : State) : (showTable s t).peer = s.peer :=
  (showTable_acts _ (Acts.refl [.regs] s) rfl).same .peer rfl

@[simp] theorem showTable_observe (t : Nat) (s : State) : (showTable s t).observe = s.observe :=
  (showTable_acts _ (Acts.refl [.regs] s) rfl).same .observe rfl

@[simp] theorem showTable_log (t : Nat) (s : State) : (showTable s t).log = s.log :=
  (showTable_acts _ (Acts.refl [.regs] s) rfl).same .log rfl

@[simp] theorem showTable_pins (t : Nat) (s : State) : (showTable s t).pins = s.pins :=
  (showTable_acts _ (Acts.refl [.regs] s) rfl).same .pins rfl

@[simp] theorem showTable_hbm (t : Nat) (s : State) : (showTable s t).hbm = s.hbm :=
  (showTable_acts _ (Acts.refl [.regs] s) rfl).same .hbm rfl

@[simp] theorem showTable_out (t : Nat) (s : State) : (showTable s t).out = s.out :=
  (showTable_acts _ (Acts.refl [.regs] s) rfl).same .out rfl

@[simp] theorem showTable_noticeSeq (t : Nat) (s : State) : (showTable s t).noticeSeq = s.noticeSeq :=
  (showTable_acts _ (Acts.refl [.regs] s) rfl).same .noticeSeq rfl

@[simp] theorem showTable_fresh (t : Nat) (s : State) : (showTable s t).fresh = s.fresh :=
  (showTable_acts _ (Acts.refl [.regs] s) rfl).same .fresh rfl

@[simp] theorem raiseLearn_pending (l : Learn) (s : State) : (raiseLearn s l).pending = s.pending :=
  (raiseLearn_acts _ (Acts.refl [.regs, .queue, .observe, .noticeSeq] s) rfl).same .pending rfl

@[simp] theorem raiseLearn_dial (l : Learn) (s : State) : (raiseLearn s l).dial = s.dial :=
  (raiseLearn_acts _ (Acts.refl [.regs, .queue, .observe, .noticeSeq] s) rfl).same .dial rfl

@[simp] theorem raiseLearn_sched (l : Learn) (s : State) : (raiseLearn s l).sched = s.sched :=
  (raiseLearn_acts _ (Acts.refl [.regs, .queue, .observe, .noticeSeq] s) rfl).same .sched rfl

@[simp] theorem raiseLearn_ports (l : Learn) (s : State) : (raiseLearn s l).ports = s.ports :=
  (raiseLearn_acts _ (Acts.refl [.regs, .queue, .observe, .noticeSeq] s) rfl).same .ports rfl

@[simp] theorem raiseLearn_front (l : Learn) (s : State) : (raiseLearn s l).front = s.front :=
  (raiseLearn_acts _ (Acts.refl [.regs, .queue, .observe, .noticeSeq] s) rfl).same .front rfl

@[simp] theorem raiseLearn_flow (l : Learn) (s : State) : (raiseLearn s l).flow = s.flow :=
  (raiseLearn_acts _ (Acts.refl [.regs, .queue, .observe, .noticeSeq] s) rfl).same .flow rfl

@[simp] theorem raiseLearn_endpoint (l : Learn) (s : State) : (raiseLearn s l).endpoint = s.endpoint :=
  (raiseLearn_acts _ (Acts.refl [.regs, .queue, .observe, .noticeSeq] s) rfl).same .endpoint rfl

@[simp] theorem raiseLearn_pipe (l : Learn) (s : State) : (raiseLearn s l).pipe = s.pipe :=
  (raiseLearn_acts _ (Acts.refl [.regs, .queue, .observe, .noticeSeq] s) rfl).same .pipe rfl

@[simp] theorem raiseLearn_slots (l : Learn) (s : State) : (raiseLearn s l).slots = s.slots :=
  (raiseLearn_acts _ (Acts.refl [.regs, .queue, .observe, .noticeSeq] s) rfl).same .slots rfl

@[simp] theorem raiseLearn_quant (l : Learn) (s : State) : (raiseLearn s l).quant = s.quant :=
  (raiseLearn_acts _ (Acts.refl [.regs, .queue, .observe, .noticeSeq] s) rfl).same .quant rfl

@[simp] theorem raiseLearn_power (l : Learn) (s : State) : (raiseLearn s l).power = s.power :=
  (raiseLearn_acts _ (Acts.refl [.regs, .queue, .observe, .noticeSeq] s) rfl).same .power rfl

@[simp] theorem raiseLearn_tally (l : Learn) (s : State) : (raiseLearn s l).tally = s.tally :=
  (raiseLearn_acts _ (Acts.refl [.regs, .queue, .observe, .noticeSeq] s) rfl).same .tally rfl

@[simp] theorem raiseLearn_secure (l : Learn) (s : State) : (raiseLearn s l).secure = s.secure :=
  (raiseLearn_acts _ (Acts.refl [.regs, .queue, .observe, .noticeSeq] s) rfl).same .secure rfl

@[simp] theorem raiseLearn_crown (l : Learn) (s : State) : (raiseLearn s l).crown = s.crown :=
  (raiseLearn_acts _ (Acts.refl [.regs, .queue, .observe, .noticeSeq] s) rfl).same .crown rfl

@[simp] theorem raiseLearn_peer (l : Learn) (s : State) : (raiseLearn s l).peer = s.peer :=
  (raiseLearn_acts _ (Acts.refl [.regs, .queue, .observe, .noticeSeq] s) rfl).same .peer rfl

@[simp] theorem raiseLearn_log (l : Learn) (s : State) : (raiseLearn s l).log = s.log :=
  (raiseLearn_acts _ (Acts.refl [.regs, .queue, .observe, .noticeSeq] s) rfl).same .log rfl

@[simp] theorem raiseLearn_pins (l : Learn) (s : State) : (raiseLearn s l).pins = s.pins :=
  (raiseLearn_acts _ (Acts.refl [.regs, .queue, .observe, .noticeSeq] s) rfl).same .pins rfl

@[simp] theorem raiseLearn_hbm (l : Learn) (s : State) : (raiseLearn s l).hbm = s.hbm :=
  (raiseLearn_acts _ (Acts.refl [.regs, .queue, .observe, .noticeSeq] s) rfl).same .hbm rfl

@[simp] theorem raiseLearn_out (l : Learn) (s : State) : (raiseLearn s l).out = s.out :=
  (raiseLearn_acts _ (Acts.refl [.regs, .queue, .observe, .noticeSeq] s) rfl).same .out rfl

@[simp] theorem raiseLearn_fresh (l : Learn) (s : State) : (raiseLearn s l).fresh = s.fresh :=
  (raiseLearn_acts _ (Acts.refl [.regs, .queue, .observe, .noticeSeq] s) rfl).same .fresh rfl

@[simp] theorem createAt_pending (t : Nat) (i : Nat) (e : Entry) (learned : Bool) (s : State) : (createAt s t i e learned).pending = s.pending :=
  (createAt_acts _ _ _ _ (Acts.refl [.regs, .flow, .endpoint] s) rfl).same .pending rfl

@[simp] theorem createAt_dial (t : Nat) (i : Nat) (e : Entry) (learned : Bool) (s : State) : (createAt s t i e learned).dial = s.dial :=
  (createAt_acts _ _ _ _ (Acts.refl [.regs, .flow, .endpoint] s) rfl).same .dial rfl

@[simp] theorem createAt_sched (t : Nat) (i : Nat) (e : Entry) (learned : Bool) (s : State) : (createAt s t i e learned).sched = s.sched :=
  (createAt_acts _ _ _ _ (Acts.refl [.regs, .flow, .endpoint] s) rfl).same .sched rfl

@[simp] theorem createAt_ports (t : Nat) (i : Nat) (e : Entry) (learned : Bool) (s : State) : (createAt s t i e learned).ports = s.ports :=
  (createAt_acts _ _ _ _ (Acts.refl [.regs, .flow, .endpoint] s) rfl).same .ports rfl

@[simp] theorem createAt_front (t : Nat) (i : Nat) (e : Entry) (learned : Bool) (s : State) : (createAt s t i e learned).front = s.front :=
  (createAt_acts _ _ _ _ (Acts.refl [.regs, .flow, .endpoint] s) rfl).same .front rfl

@[simp] theorem createAt_queue (t : Nat) (i : Nat) (e : Entry) (learned : Bool) (s : State) : (createAt s t i e learned).queue = s.queue :=
  (createAt_acts _ _ _ _ (Acts.refl [.regs, .flow, .endpoint] s) rfl).same .queue rfl

@[simp] theorem createAt_pipe (t : Nat) (i : Nat) (e : Entry) (learned : Bool) (s : State) : (createAt s t i e learned).pipe = s.pipe :=
  (createAt_acts _ _ _ _ (Acts.refl [.regs, .flow, .endpoint] s) rfl).same .pipe rfl

@[simp] theorem createAt_slots (t : Nat) (i : Nat) (e : Entry) (learned : Bool) (s : State) : (createAt s t i e learned).slots = s.slots :=
  (createAt_acts _ _ _ _ (Acts.refl [.regs, .flow, .endpoint] s) rfl).same .slots rfl

@[simp] theorem createAt_quant (t : Nat) (i : Nat) (e : Entry) (learned : Bool) (s : State) : (createAt s t i e learned).quant = s.quant :=
  (createAt_acts _ _ _ _ (Acts.refl [.regs, .flow, .endpoint] s) rfl).same .quant rfl

@[simp] theorem createAt_power (t : Nat) (i : Nat) (e : Entry) (learned : Bool) (s : State) : (createAt s t i e learned).power = s.power :=
  (createAt_acts _ _ _ _ (Acts.refl [.regs, .flow, .endpoint] s) rfl).same .power rfl

@[simp] theorem createAt_tally (t : Nat) (i : Nat) (e : Entry) (learned : Bool) (s : State) : (createAt s t i e learned).tally = s.tally :=
  (createAt_acts _ _ _ _ (Acts.refl [.regs, .flow, .endpoint] s) rfl).same .tally rfl

@[simp] theorem createAt_secure (t : Nat) (i : Nat) (e : Entry) (learned : Bool) (s : State) : (createAt s t i e learned).secure = s.secure :=
  (createAt_acts _ _ _ _ (Acts.refl [.regs, .flow, .endpoint] s) rfl).same .secure rfl

@[simp] theorem createAt_crown (t : Nat) (i : Nat) (e : Entry) (learned : Bool) (s : State) : (createAt s t i e learned).crown = s.crown :=
  (createAt_acts _ _ _ _ (Acts.refl [.regs, .flow, .endpoint] s) rfl).same .crown rfl

@[simp] theorem createAt_peer (t : Nat) (i : Nat) (e : Entry) (learned : Bool) (s : State) : (createAt s t i e learned).peer = s.peer :=
  (createAt_acts _ _ _ _ (Acts.refl [.regs, .flow, .endpoint] s) rfl).same .peer rfl

@[simp] theorem createAt_observe (t : Nat) (i : Nat) (e : Entry) (learned : Bool) (s : State) : (createAt s t i e learned).observe = s.observe :=
  (createAt_acts _ _ _ _ (Acts.refl [.regs, .flow, .endpoint] s) rfl).same .observe rfl

@[simp] theorem createAt_log (t : Nat) (i : Nat) (e : Entry) (learned : Bool) (s : State) : (createAt s t i e learned).log = s.log :=
  (createAt_acts _ _ _ _ (Acts.refl [.regs, .flow, .endpoint] s) rfl).same .log rfl

@[simp] theorem createAt_pins (t : Nat) (i : Nat) (e : Entry) (learned : Bool) (s : State) : (createAt s t i e learned).pins = s.pins :=
  (createAt_acts _ _ _ _ (Acts.refl [.regs, .flow, .endpoint] s) rfl).same .pins rfl

@[simp] theorem createAt_hbm (t : Nat) (i : Nat) (e : Entry) (learned : Bool) (s : State) : (createAt s t i e learned).hbm = s.hbm :=
  (createAt_acts _ _ _ _ (Acts.refl [.regs, .flow, .endpoint] s) rfl).same .hbm rfl

@[simp] theorem createAt_out (t : Nat) (i : Nat) (e : Entry) (learned : Bool) (s : State) : (createAt s t i e learned).out = s.out :=
  (createAt_acts _ _ _ _ (Acts.refl [.regs, .flow, .endpoint] s) rfl).same .out rfl

@[simp] theorem createAt_noticeSeq (t : Nat) (i : Nat) (e : Entry) (learned : Bool) (s : State) : (createAt s t i e learned).noticeSeq = s.noticeSeq :=
  (createAt_acts _ _ _ _ (Acts.refl [.regs, .flow, .endpoint] s) rfl).same .noticeSeq rfl

@[simp] theorem createAt_fresh (t : Nat) (i : Nat) (e : Entry) (learned : Bool) (s : State) : (createAt s t i e learned).fresh = s.fresh :=
  (createAt_acts _ _ _ _ (Acts.refl [.regs, .flow, .endpoint] s) rfl).same .fresh rfl

@[simp] theorem structureFault_pending (f : Sys2Proof.FaultEv) (s : State) : (structureFault s f).pending = s.pending :=
  (structureFault_acts _ (Acts.refl [.regs, .sched, .front, .flow, .endpoint, .queue, .pipe, .observe, .log, .hbm, .noticeSeq] s) rfl).same .pending rfl

@[simp] theorem structureFault_dial (f : Sys2Proof.FaultEv) (s : State) : (structureFault s f).dial = s.dial :=
  (structureFault_acts _ (Acts.refl [.regs, .sched, .front, .flow, .endpoint, .queue, .pipe, .observe, .log, .hbm, .noticeSeq] s) rfl).same .dial rfl

@[simp] theorem structureFault_ports (f : Sys2Proof.FaultEv) (s : State) : (structureFault s f).ports = s.ports :=
  (structureFault_acts _ (Acts.refl [.regs, .sched, .front, .flow, .endpoint, .queue, .pipe, .observe, .log, .hbm, .noticeSeq] s) rfl).same .ports rfl

@[simp] theorem structureFault_slots (f : Sys2Proof.FaultEv) (s : State) : (structureFault s f).slots = s.slots :=
  (structureFault_acts _ (Acts.refl [.regs, .sched, .front, .flow, .endpoint, .queue, .pipe, .observe, .log, .hbm, .noticeSeq] s) rfl).same .slots rfl

@[simp] theorem structureFault_quant (f : Sys2Proof.FaultEv) (s : State) : (structureFault s f).quant = s.quant :=
  (structureFault_acts _ (Acts.refl [.regs, .sched, .front, .flow, .endpoint, .queue, .pipe, .observe, .log, .hbm, .noticeSeq] s) rfl).same .quant rfl

@[simp] theorem structureFault_power (f : Sys2Proof.FaultEv) (s : State) : (structureFault s f).power = s.power :=
  (structureFault_acts _ (Acts.refl [.regs, .sched, .front, .flow, .endpoint, .queue, .pipe, .observe, .log, .hbm, .noticeSeq] s) rfl).same .power rfl

@[simp] theorem structureFault_tally (f : Sys2Proof.FaultEv) (s : State) : (structureFault s f).tally = s.tally :=
  (structureFault_acts _ (Acts.refl [.regs, .sched, .front, .flow, .endpoint, .queue, .pipe, .observe, .log, .hbm, .noticeSeq] s) rfl).same .tally rfl

@[simp] theorem structureFault_secure (f : Sys2Proof.FaultEv) (s : State) : (structureFault s f).secure = s.secure :=
  (structureFault_acts _ (Acts.refl [.regs, .sched, .front, .flow, .endpoint, .queue, .pipe, .observe, .log, .hbm, .noticeSeq] s) rfl).same .secure rfl

@[simp] theorem structureFault_crown (f : Sys2Proof.FaultEv) (s : State) : (structureFault s f).crown = s.crown :=
  (structureFault_acts _ (Acts.refl [.regs, .sched, .front, .flow, .endpoint, .queue, .pipe, .observe, .log, .hbm, .noticeSeq] s) rfl).same .crown rfl

@[simp] theorem structureFault_peer (f : Sys2Proof.FaultEv) (s : State) : (structureFault s f).peer = s.peer :=
  (structureFault_acts _ (Acts.refl [.regs, .sched, .front, .flow, .endpoint, .queue, .pipe, .observe, .log, .hbm, .noticeSeq] s) rfl).same .peer rfl

@[simp] theorem structureFault_pins (f : Sys2Proof.FaultEv) (s : State) : (structureFault s f).pins = s.pins :=
  (structureFault_acts _ (Acts.refl [.regs, .sched, .front, .flow, .endpoint, .queue, .pipe, .observe, .log, .hbm, .noticeSeq] s) rfl).same .pins rfl

@[simp] theorem structureFault_out (f : Sys2Proof.FaultEv) (s : State) : (structureFault s f).out = s.out :=
  (structureFault_acts _ (Acts.refl [.regs, .sched, .front, .flow, .endpoint, .queue, .pipe, .observe, .log, .hbm, .noticeSeq] s) rfl).same .out rfl

@[simp] theorem structureFault_fresh (f : Sys2Proof.FaultEv) (s : State) : (structureFault s f).fresh = s.fresh :=
  (structureFault_acts _ (Acts.refl [.regs, .sched, .front, .flow, .endpoint, .queue, .pipe, .observe, .log, .hbm, .noticeSeq] s) rfl).same .fresh rfl

@[simp] theorem noteRev_pending (t : Nat) (i : Nat) (s : State) : (noteRev s t i).pending = s.pending :=
  (noteRev_acts _ _ (Acts.refl [.flow, .endpoint] s) rfl).same .pending rfl

@[simp] theorem noteRev_regs (t : Nat) (i : Nat) (s : State) : (noteRev s t i).regs = s.regs :=
  (noteRev_acts _ _ (Acts.refl [.flow, .endpoint] s) rfl).same .regs rfl

@[simp] theorem noteRev_dial (t : Nat) (i : Nat) (s : State) : (noteRev s t i).dial = s.dial :=
  (noteRev_acts _ _ (Acts.refl [.flow, .endpoint] s) rfl).same .dial rfl

@[simp] theorem noteRev_sched (t : Nat) (i : Nat) (s : State) : (noteRev s t i).sched = s.sched :=
  (noteRev_acts _ _ (Acts.refl [.flow, .endpoint] s) rfl).same .sched rfl

@[simp] theorem noteRev_ports (t : Nat) (i : Nat) (s : State) : (noteRev s t i).ports = s.ports :=
  (noteRev_acts _ _ (Acts.refl [.flow, .endpoint] s) rfl).same .ports rfl

@[simp] theorem noteRev_front (t : Nat) (i : Nat) (s : State) : (noteRev s t i).front = s.front :=
  (noteRev_acts _ _ (Acts.refl [.flow, .endpoint] s) rfl).same .front rfl

@[simp] theorem noteRev_queue (t : Nat) (i : Nat) (s : State) : (noteRev s t i).queue = s.queue :=
  (noteRev_acts _ _ (Acts.refl [.flow, .endpoint] s) rfl).same .queue rfl

@[simp] theorem noteRev_pipe (t : Nat) (i : Nat) (s : State) : (noteRev s t i).pipe = s.pipe :=
  (noteRev_acts _ _ (Acts.refl [.flow, .endpoint] s) rfl).same .pipe rfl

@[simp] theorem noteRev_slots (t : Nat) (i : Nat) (s : State) : (noteRev s t i).slots = s.slots :=
  (noteRev_acts _ _ (Acts.refl [.flow, .endpoint] s) rfl).same .slots rfl

@[simp] theorem noteRev_quant (t : Nat) (i : Nat) (s : State) : (noteRev s t i).quant = s.quant :=
  (noteRev_acts _ _ (Acts.refl [.flow, .endpoint] s) rfl).same .quant rfl

@[simp] theorem noteRev_power (t : Nat) (i : Nat) (s : State) : (noteRev s t i).power = s.power :=
  (noteRev_acts _ _ (Acts.refl [.flow, .endpoint] s) rfl).same .power rfl

@[simp] theorem noteRev_tally (t : Nat) (i : Nat) (s : State) : (noteRev s t i).tally = s.tally :=
  (noteRev_acts _ _ (Acts.refl [.flow, .endpoint] s) rfl).same .tally rfl

@[simp] theorem noteRev_secure (t : Nat) (i : Nat) (s : State) : (noteRev s t i).secure = s.secure :=
  (noteRev_acts _ _ (Acts.refl [.flow, .endpoint] s) rfl).same .secure rfl

@[simp] theorem noteRev_crown (t : Nat) (i : Nat) (s : State) : (noteRev s t i).crown = s.crown :=
  (noteRev_acts _ _ (Acts.refl [.flow, .endpoint] s) rfl).same .crown rfl

@[simp] theorem noteRev_peer (t : Nat) (i : Nat) (s : State) : (noteRev s t i).peer = s.peer :=
  (noteRev_acts _ _ (Acts.refl [.flow, .endpoint] s) rfl).same .peer rfl

@[simp] theorem noteRev_observe (t : Nat) (i : Nat) (s : State) : (noteRev s t i).observe = s.observe :=
  (noteRev_acts _ _ (Acts.refl [.flow, .endpoint] s) rfl).same .observe rfl

@[simp] theorem noteRev_log (t : Nat) (i : Nat) (s : State) : (noteRev s t i).log = s.log :=
  (noteRev_acts _ _ (Acts.refl [.flow, .endpoint] s) rfl).same .log rfl

@[simp] theorem noteRev_pins (t : Nat) (i : Nat) (s : State) : (noteRev s t i).pins = s.pins :=
  (noteRev_acts _ _ (Acts.refl [.flow, .endpoint] s) rfl).same .pins rfl

@[simp] theorem noteRev_hbm (t : Nat) (i : Nat) (s : State) : (noteRev s t i).hbm = s.hbm :=
  (noteRev_acts _ _ (Acts.refl [.flow, .endpoint] s) rfl).same .hbm rfl

@[simp] theorem noteRev_out (t : Nat) (i : Nat) (s : State) : (noteRev s t i).out = s.out :=
  (noteRev_acts _ _ (Acts.refl [.flow, .endpoint] s) rfl).same .out rfl

@[simp] theorem noteRev_noticeSeq (t : Nat) (i : Nat) (s : State) : (noteRev s t i).noticeSeq = s.noticeSeq :=
  (noteRev_acts _ _ (Acts.refl [.flow, .endpoint] s) rfl).same .noticeSeq rfl

@[simp] theorem noteRev_fresh (t : Nat) (i : Nat) (s : State) : (noteRev s t i).fresh = s.fresh :=
  (noteRev_acts _ _ (Acts.refl [.flow, .endpoint] s) rfl).same .fresh rfl

@[simp] theorem modSlot_pending (slot : Nat) (f : SlotSt → SlotSt) (s : State) : (modSlot s slot f).pending = s.pending :=
  (modSlot_acts _ _ (Acts.refl [.slots] s) rfl).same .pending rfl

@[simp] theorem modSlot_regs (slot : Nat) (f : SlotSt → SlotSt) (s : State) : (modSlot s slot f).regs = s.regs :=
  (modSlot_acts _ _ (Acts.refl [.slots] s) rfl).same .regs rfl

@[simp] theorem modSlot_dial (slot : Nat) (f : SlotSt → SlotSt) (s : State) : (modSlot s slot f).dial = s.dial :=
  (modSlot_acts _ _ (Acts.refl [.slots] s) rfl).same .dial rfl

@[simp] theorem modSlot_sched (slot : Nat) (f : SlotSt → SlotSt) (s : State) : (modSlot s slot f).sched = s.sched :=
  (modSlot_acts _ _ (Acts.refl [.slots] s) rfl).same .sched rfl

@[simp] theorem modSlot_ports (slot : Nat) (f : SlotSt → SlotSt) (s : State) : (modSlot s slot f).ports = s.ports :=
  (modSlot_acts _ _ (Acts.refl [.slots] s) rfl).same .ports rfl

@[simp] theorem modSlot_front (slot : Nat) (f : SlotSt → SlotSt) (s : State) : (modSlot s slot f).front = s.front :=
  (modSlot_acts _ _ (Acts.refl [.slots] s) rfl).same .front rfl

@[simp] theorem modSlot_flow (slot : Nat) (f : SlotSt → SlotSt) (s : State) : (modSlot s slot f).flow = s.flow :=
  (modSlot_acts _ _ (Acts.refl [.slots] s) rfl).same .flow rfl

@[simp] theorem modSlot_endpoint (slot : Nat) (f : SlotSt → SlotSt) (s : State) : (modSlot s slot f).endpoint = s.endpoint :=
  (modSlot_acts _ _ (Acts.refl [.slots] s) rfl).same .endpoint rfl

@[simp] theorem modSlot_queue (slot : Nat) (f : SlotSt → SlotSt) (s : State) : (modSlot s slot f).queue = s.queue :=
  (modSlot_acts _ _ (Acts.refl [.slots] s) rfl).same .queue rfl

@[simp] theorem modSlot_pipe (slot : Nat) (f : SlotSt → SlotSt) (s : State) : (modSlot s slot f).pipe = s.pipe :=
  (modSlot_acts _ _ (Acts.refl [.slots] s) rfl).same .pipe rfl

@[simp] theorem modSlot_quant (slot : Nat) (f : SlotSt → SlotSt) (s : State) : (modSlot s slot f).quant = s.quant :=
  (modSlot_acts _ _ (Acts.refl [.slots] s) rfl).same .quant rfl

@[simp] theorem modSlot_power (slot : Nat) (f : SlotSt → SlotSt) (s : State) : (modSlot s slot f).power = s.power :=
  (modSlot_acts _ _ (Acts.refl [.slots] s) rfl).same .power rfl

@[simp] theorem modSlot_tally (slot : Nat) (f : SlotSt → SlotSt) (s : State) : (modSlot s slot f).tally = s.tally :=
  (modSlot_acts _ _ (Acts.refl [.slots] s) rfl).same .tally rfl

@[simp] theorem modSlot_secure (slot : Nat) (f : SlotSt → SlotSt) (s : State) : (modSlot s slot f).secure = s.secure :=
  (modSlot_acts _ _ (Acts.refl [.slots] s) rfl).same .secure rfl

@[simp] theorem modSlot_crown (slot : Nat) (f : SlotSt → SlotSt) (s : State) : (modSlot s slot f).crown = s.crown :=
  (modSlot_acts _ _ (Acts.refl [.slots] s) rfl).same .crown rfl

@[simp] theorem modSlot_peer (slot : Nat) (f : SlotSt → SlotSt) (s : State) : (modSlot s slot f).peer = s.peer :=
  (modSlot_acts _ _ (Acts.refl [.slots] s) rfl).same .peer rfl

@[simp] theorem modSlot_observe (slot : Nat) (f : SlotSt → SlotSt) (s : State) : (modSlot s slot f).observe = s.observe :=
  (modSlot_acts _ _ (Acts.refl [.slots] s) rfl).same .observe rfl

@[simp] theorem modSlot_log (slot : Nat) (f : SlotSt → SlotSt) (s : State) : (modSlot s slot f).log = s.log :=
  (modSlot_acts _ _ (Acts.refl [.slots] s) rfl).same .log rfl

@[simp] theorem modSlot_pins (slot : Nat) (f : SlotSt → SlotSt) (s : State) : (modSlot s slot f).pins = s.pins :=
  (modSlot_acts _ _ (Acts.refl [.slots] s) rfl).same .pins rfl

@[simp] theorem modSlot_hbm (slot : Nat) (f : SlotSt → SlotSt) (s : State) : (modSlot s slot f).hbm = s.hbm :=
  (modSlot_acts _ _ (Acts.refl [.slots] s) rfl).same .hbm rfl

@[simp] theorem modSlot_out (slot : Nat) (f : SlotSt → SlotSt) (s : State) : (modSlot s slot f).out = s.out :=
  (modSlot_acts _ _ (Acts.refl [.slots] s) rfl).same .out rfl

@[simp] theorem modSlot_noticeSeq (slot : Nat) (f : SlotSt → SlotSt) (s : State) : (modSlot s slot f).noticeSeq = s.noticeSeq :=
  (modSlot_acts _ _ (Acts.refl [.slots] s) rfl).same .noticeSeq rfl

@[simp] theorem modSlot_fresh (slot : Nat) (f : SlotSt → SlotSt) (s : State) : (modSlot s slot f).fresh = s.fresh :=
  (modSlot_acts _ _ (Acts.refl [.slots] s) rfl).same .fresh rfl

@[simp] theorem putSlot_pending (slot : Nat) (f : SlotSt → SlotSt) (s : State) : (putSlot s slot f).pending = s.pending :=
  (putSlot_acts _ _ (Acts.refl [.regs, .slots] s) rfl).same .pending rfl

@[simp] theorem putSlot_dial (slot : Nat) (f : SlotSt → SlotSt) (s : State) : (putSlot s slot f).dial = s.dial :=
  (putSlot_acts _ _ (Acts.refl [.regs, .slots] s) rfl).same .dial rfl

@[simp] theorem putSlot_sched (slot : Nat) (f : SlotSt → SlotSt) (s : State) : (putSlot s slot f).sched = s.sched :=
  (putSlot_acts _ _ (Acts.refl [.regs, .slots] s) rfl).same .sched rfl

@[simp] theorem putSlot_ports (slot : Nat) (f : SlotSt → SlotSt) (s : State) : (putSlot s slot f).ports = s.ports :=
  (putSlot_acts _ _ (Acts.refl [.regs, .slots] s) rfl).same .ports rfl

@[simp] theorem putSlot_front (slot : Nat) (f : SlotSt → SlotSt) (s : State) : (putSlot s slot f).front = s.front :=
  (putSlot_acts _ _ (Acts.refl [.regs, .slots] s) rfl).same .front rfl

@[simp] theorem putSlot_flow (slot : Nat) (f : SlotSt → SlotSt) (s : State) : (putSlot s slot f).flow = s.flow :=
  (putSlot_acts _ _ (Acts.refl [.regs, .slots] s) rfl).same .flow rfl

@[simp] theorem putSlot_endpoint (slot : Nat) (f : SlotSt → SlotSt) (s : State) : (putSlot s slot f).endpoint = s.endpoint :=
  (putSlot_acts _ _ (Acts.refl [.regs, .slots] s) rfl).same .endpoint rfl

@[simp] theorem putSlot_queue (slot : Nat) (f : SlotSt → SlotSt) (s : State) : (putSlot s slot f).queue = s.queue :=
  (putSlot_acts _ _ (Acts.refl [.regs, .slots] s) rfl).same .queue rfl

@[simp] theorem putSlot_pipe (slot : Nat) (f : SlotSt → SlotSt) (s : State) : (putSlot s slot f).pipe = s.pipe :=
  (putSlot_acts _ _ (Acts.refl [.regs, .slots] s) rfl).same .pipe rfl

@[simp] theorem putSlot_quant (slot : Nat) (f : SlotSt → SlotSt) (s : State) : (putSlot s slot f).quant = s.quant :=
  (putSlot_acts _ _ (Acts.refl [.regs, .slots] s) rfl).same .quant rfl

@[simp] theorem putSlot_power (slot : Nat) (f : SlotSt → SlotSt) (s : State) : (putSlot s slot f).power = s.power :=
  (putSlot_acts _ _ (Acts.refl [.regs, .slots] s) rfl).same .power rfl

@[simp] theorem putSlot_tally (slot : Nat) (f : SlotSt → SlotSt) (s : State) : (putSlot s slot f).tally = s.tally :=
  (putSlot_acts _ _ (Acts.refl [.regs, .slots] s) rfl).same .tally rfl

@[simp] theorem putSlot_secure (slot : Nat) (f : SlotSt → SlotSt) (s : State) : (putSlot s slot f).secure = s.secure :=
  (putSlot_acts _ _ (Acts.refl [.regs, .slots] s) rfl).same .secure rfl

@[simp] theorem putSlot_crown (slot : Nat) (f : SlotSt → SlotSt) (s : State) : (putSlot s slot f).crown = s.crown :=
  (putSlot_acts _ _ (Acts.refl [.regs, .slots] s) rfl).same .crown rfl

@[simp] theorem putSlot_peer (slot : Nat) (f : SlotSt → SlotSt) (s : State) : (putSlot s slot f).peer = s.peer :=
  (putSlot_acts _ _ (Acts.refl [.regs, .slots] s) rfl).same .peer rfl

@[simp] theorem putSlot_observe (slot : Nat) (f : SlotSt → SlotSt) (s : State) : (putSlot s slot f).observe = s.observe :=
  (putSlot_acts _ _ (Acts.refl [.regs, .slots] s) rfl).same .observe rfl

@[simp] theorem putSlot_log (slot : Nat) (f : SlotSt → SlotSt) (s : State) : (putSlot s slot f).log = s.log :=
  (putSlot_acts _ _ (Acts.refl [.regs, .slots] s) rfl).same .log rfl

@[simp] theorem putSlot_pins (slot : Nat) (f : SlotSt → SlotSt) (s : State) : (putSlot s slot f).pins = s.pins :=
  (putSlot_acts _ _ (Acts.refl [.regs, .slots] s) rfl).same .pins rfl

@[simp] theorem putSlot_hbm (slot : Nat) (f : SlotSt → SlotSt) (s : State) : (putSlot s slot f).hbm = s.hbm :=
  (putSlot_acts _ _ (Acts.refl [.regs, .slots] s) rfl).same .hbm rfl

@[simp] theorem putSlot_out (slot : Nat) (f : SlotSt → SlotSt) (s : State) : (putSlot s slot f).out = s.out :=
  (putSlot_acts _ _ (Acts.refl [.regs, .slots] s) rfl).same .out rfl

@[simp] theorem putSlot_noticeSeq (slot : Nat) (f : SlotSt → SlotSt) (s : State) : (putSlot s slot f).noticeSeq = s.noticeSeq :=
  (putSlot_acts _ _ (Acts.refl [.regs, .slots] s) rfl).same .noticeSeq rfl

@[simp] theorem putSlot_fresh (slot : Nat) (f : SlotSt → SlotSt) (s : State) : (putSlot s slot f).fresh = s.fresh :=
  (putSlot_acts _ _ (Acts.refl [.regs, .slots] s) rfl).same .fresh rfl

@[simp] theorem writeSlotCommand_pending (w : Nat) (s : State) : (writeSlotCommand s w).pending = s.pending :=
  (writeSlotCommand_acts _ (Acts.refl [.regs, .queue, .slots, .observe, .noticeSeq] s) rfl).same .pending rfl

@[simp] theorem writeSlotCommand_dial (w : Nat) (s : State) : (writeSlotCommand s w).dial = s.dial :=
  (writeSlotCommand_acts _ (Acts.refl [.regs, .queue, .slots, .observe, .noticeSeq] s) rfl).same .dial rfl

@[simp] theorem writeSlotCommand_sched (w : Nat) (s : State) : (writeSlotCommand s w).sched = s.sched :=
  (writeSlotCommand_acts _ (Acts.refl [.regs, .queue, .slots, .observe, .noticeSeq] s) rfl).same .sched rfl

@[simp] theorem writeSlotCommand_ports (w : Nat) (s : State) : (writeSlotCommand s w).ports = s.ports :=
  (writeSlotCommand_acts _ (Acts.refl [.regs, .queue, .slots, .observe, .noticeSeq] s) rfl).same .ports rfl

@[simp] theorem writeSlotCommand_front (w : Nat) (s : State) : (writeSlotCommand s w).front = s.front :=
  (writeSlotCommand_acts _ (Acts.refl [.regs, .queue, .slots, .observe, .noticeSeq] s) rfl).same .front rfl

@[simp] theorem writeSlotCommand_flow (w : Nat) (s : State) : (writeSlotCommand s w).flow = s.flow :=
  (writeSlotCommand_acts _ (Acts.refl [.regs, .queue, .slots, .observe, .noticeSeq] s) rfl).same .flow rfl

@[simp] theorem writeSlotCommand_endpoint (w : Nat) (s : State) : (writeSlotCommand s w).endpoint = s.endpoint :=
  (writeSlotCommand_acts _ (Acts.refl [.regs, .queue, .slots, .observe, .noticeSeq] s) rfl).same .endpoint rfl

@[simp] theorem writeSlotCommand_pipe (w : Nat) (s : State) : (writeSlotCommand s w).pipe = s.pipe :=
  (writeSlotCommand_acts _ (Acts.refl [.regs, .queue, .slots, .observe, .noticeSeq] s) rfl).same .pipe rfl

@[simp] theorem writeSlotCommand_quant (w : Nat) (s : State) : (writeSlotCommand s w).quant = s.quant :=
  (writeSlotCommand_acts _ (Acts.refl [.regs, .queue, .slots, .observe, .noticeSeq] s) rfl).same .quant rfl

@[simp] theorem writeSlotCommand_power (w : Nat) (s : State) : (writeSlotCommand s w).power = s.power :=
  (writeSlotCommand_acts _ (Acts.refl [.regs, .queue, .slots, .observe, .noticeSeq] s) rfl).same .power rfl

@[simp] theorem writeSlotCommand_tally (w : Nat) (s : State) : (writeSlotCommand s w).tally = s.tally :=
  (writeSlotCommand_acts _ (Acts.refl [.regs, .queue, .slots, .observe, .noticeSeq] s) rfl).same .tally rfl

@[simp] theorem writeSlotCommand_secure (w : Nat) (s : State) : (writeSlotCommand s w).secure = s.secure :=
  (writeSlotCommand_acts _ (Acts.refl [.regs, .queue, .slots, .observe, .noticeSeq] s) rfl).same .secure rfl

@[simp] theorem writeSlotCommand_crown (w : Nat) (s : State) : (writeSlotCommand s w).crown = s.crown :=
  (writeSlotCommand_acts _ (Acts.refl [.regs, .queue, .slots, .observe, .noticeSeq] s) rfl).same .crown rfl

@[simp] theorem writeSlotCommand_peer (w : Nat) (s : State) : (writeSlotCommand s w).peer = s.peer :=
  (writeSlotCommand_acts _ (Acts.refl [.regs, .queue, .slots, .observe, .noticeSeq] s) rfl).same .peer rfl

@[simp] theorem writeSlotCommand_log (w : Nat) (s : State) : (writeSlotCommand s w).log = s.log :=
  (writeSlotCommand_acts _ (Acts.refl [.regs, .queue, .slots, .observe, .noticeSeq] s) rfl).same .log rfl

@[simp] theorem writeSlotCommand_pins (w : Nat) (s : State) : (writeSlotCommand s w).pins = s.pins :=
  (writeSlotCommand_acts _ (Acts.refl [.regs, .queue, .slots, .observe, .noticeSeq] s) rfl).same .pins rfl

@[simp] theorem writeSlotCommand_hbm (w : Nat) (s : State) : (writeSlotCommand s w).hbm = s.hbm :=
  (writeSlotCommand_acts _ (Acts.refl [.regs, .queue, .slots, .observe, .noticeSeq] s) rfl).same .hbm rfl

@[simp] theorem writeSlotCommand_out (w : Nat) (s : State) : (writeSlotCommand s w).out = s.out :=
  (writeSlotCommand_acts _ (Acts.refl [.regs, .queue, .slots, .observe, .noticeSeq] s) rfl).same .out rfl

@[simp] theorem writeSlotCommand_fresh (w : Nat) (s : State) : (writeSlotCommand s w).fresh = s.fresh :=
  (writeSlotCommand_acts _ (Acts.refl [.regs, .queue, .slots, .observe, .noticeSeq] s) rfl).same .fresh rfl

@[simp] theorem maybeEndStep_pending (slot : Nat) (a : AdaptDesc) (s : State) : (maybeEndStep s slot a).pending = s.pending :=
  (maybeEndStep_acts _ _ (Acts.refl [.regs, .queue, .slots, .observe, .noticeSeq] s) rfl).same .pending rfl

@[simp] theorem maybeEndStep_dial (slot : Nat) (a : AdaptDesc) (s : State) : (maybeEndStep s slot a).dial = s.dial :=
  (maybeEndStep_acts _ _ (Acts.refl [.regs, .queue, .slots, .observe, .noticeSeq] s) rfl).same .dial rfl

@[simp] theorem maybeEndStep_sched (slot : Nat) (a : AdaptDesc) (s : State) : (maybeEndStep s slot a).sched = s.sched :=
  (maybeEndStep_acts _ _ (Acts.refl [.regs, .queue, .slots, .observe, .noticeSeq] s) rfl).same .sched rfl

@[simp] theorem maybeEndStep_ports (slot : Nat) (a : AdaptDesc) (s : State) : (maybeEndStep s slot a).ports = s.ports :=
  (maybeEndStep_acts _ _ (Acts.refl [.regs, .queue, .slots, .observe, .noticeSeq] s) rfl).same .ports rfl

@[simp] theorem maybeEndStep_front (slot : Nat) (a : AdaptDesc) (s : State) : (maybeEndStep s slot a).front = s.front :=
  (maybeEndStep_acts _ _ (Acts.refl [.regs, .queue, .slots, .observe, .noticeSeq] s) rfl).same .front rfl

@[simp] theorem maybeEndStep_flow (slot : Nat) (a : AdaptDesc) (s : State) : (maybeEndStep s slot a).flow = s.flow :=
  (maybeEndStep_acts _ _ (Acts.refl [.regs, .queue, .slots, .observe, .noticeSeq] s) rfl).same .flow rfl

@[simp] theorem maybeEndStep_endpoint (slot : Nat) (a : AdaptDesc) (s : State) : (maybeEndStep s slot a).endpoint = s.endpoint :=
  (maybeEndStep_acts _ _ (Acts.refl [.regs, .queue, .slots, .observe, .noticeSeq] s) rfl).same .endpoint rfl

@[simp] theorem maybeEndStep_pipe (slot : Nat) (a : AdaptDesc) (s : State) : (maybeEndStep s slot a).pipe = s.pipe :=
  (maybeEndStep_acts _ _ (Acts.refl [.regs, .queue, .slots, .observe, .noticeSeq] s) rfl).same .pipe rfl

@[simp] theorem maybeEndStep_quant (slot : Nat) (a : AdaptDesc) (s : State) : (maybeEndStep s slot a).quant = s.quant :=
  (maybeEndStep_acts _ _ (Acts.refl [.regs, .queue, .slots, .observe, .noticeSeq] s) rfl).same .quant rfl

@[simp] theorem maybeEndStep_power (slot : Nat) (a : AdaptDesc) (s : State) : (maybeEndStep s slot a).power = s.power :=
  (maybeEndStep_acts _ _ (Acts.refl [.regs, .queue, .slots, .observe, .noticeSeq] s) rfl).same .power rfl

@[simp] theorem maybeEndStep_tally (slot : Nat) (a : AdaptDesc) (s : State) : (maybeEndStep s slot a).tally = s.tally :=
  (maybeEndStep_acts _ _ (Acts.refl [.regs, .queue, .slots, .observe, .noticeSeq] s) rfl).same .tally rfl

@[simp] theorem maybeEndStep_secure (slot : Nat) (a : AdaptDesc) (s : State) : (maybeEndStep s slot a).secure = s.secure :=
  (maybeEndStep_acts _ _ (Acts.refl [.regs, .queue, .slots, .observe, .noticeSeq] s) rfl).same .secure rfl

@[simp] theorem maybeEndStep_crown (slot : Nat) (a : AdaptDesc) (s : State) : (maybeEndStep s slot a).crown = s.crown :=
  (maybeEndStep_acts _ _ (Acts.refl [.regs, .queue, .slots, .observe, .noticeSeq] s) rfl).same .crown rfl

@[simp] theorem maybeEndStep_peer (slot : Nat) (a : AdaptDesc) (s : State) : (maybeEndStep s slot a).peer = s.peer :=
  (maybeEndStep_acts _ _ (Acts.refl [.regs, .queue, .slots, .observe, .noticeSeq] s) rfl).same .peer rfl

@[simp] theorem maybeEndStep_log (slot : Nat) (a : AdaptDesc) (s : State) : (maybeEndStep s slot a).log = s.log :=
  (maybeEndStep_acts _ _ (Acts.refl [.regs, .queue, .slots, .observe, .noticeSeq] s) rfl).same .log rfl

@[simp] theorem maybeEndStep_pins (slot : Nat) (a : AdaptDesc) (s : State) : (maybeEndStep s slot a).pins = s.pins :=
  (maybeEndStep_acts _ _ (Acts.refl [.regs, .queue, .slots, .observe, .noticeSeq] s) rfl).same .pins rfl

@[simp] theorem maybeEndStep_hbm (slot : Nat) (a : AdaptDesc) (s : State) : (maybeEndStep s slot a).hbm = s.hbm :=
  (maybeEndStep_acts _ _ (Acts.refl [.regs, .queue, .slots, .observe, .noticeSeq] s) rfl).same .hbm rfl

@[simp] theorem maybeEndStep_out (slot : Nat) (a : AdaptDesc) (s : State) : (maybeEndStep s slot a).out = s.out :=
  (maybeEndStep_acts _ _ (Acts.refl [.regs, .queue, .slots, .observe, .noticeSeq] s) rfl).same .out rfl

@[simp] theorem maybeEndStep_fresh (slot : Nat) (a : AdaptDesc) (s : State) : (maybeEndStep s slot a).fresh = s.fresh :=
  (maybeEndStep_acts _ _ (Acts.refl [.regs, .queue, .slots, .observe, .noticeSeq] s) rfl).same .fresh rfl

@[simp] theorem showLanes_pending (p : Nat) (s : State) : (showLanes s p).pending = s.pending :=
  (showLanes_acts _ (Acts.refl [.regs] s) rfl).same .pending rfl

@[simp] theorem showLanes_dial (p : Nat) (s : State) : (showLanes s p).dial = s.dial :=
  (showLanes_acts _ (Acts.refl [.regs] s) rfl).same .dial rfl

@[simp] theorem showLanes_sched (p : Nat) (s : State) : (showLanes s p).sched = s.sched :=
  (showLanes_acts _ (Acts.refl [.regs] s) rfl).same .sched rfl

@[simp] theorem showLanes_ports (p : Nat) (s : State) : (showLanes s p).ports = s.ports :=
  (showLanes_acts _ (Acts.refl [.regs] s) rfl).same .ports rfl

@[simp] theorem showLanes_front (p : Nat) (s : State) : (showLanes s p).front = s.front :=
  (showLanes_acts _ (Acts.refl [.regs] s) rfl).same .front rfl

@[simp] theorem showLanes_flow (p : Nat) (s : State) : (showLanes s p).flow = s.flow :=
  (showLanes_acts _ (Acts.refl [.regs] s) rfl).same .flow rfl

@[simp] theorem showLanes_endpoint (p : Nat) (s : State) : (showLanes s p).endpoint = s.endpoint :=
  (showLanes_acts _ (Acts.refl [.regs] s) rfl).same .endpoint rfl

@[simp] theorem showLanes_queue (p : Nat) (s : State) : (showLanes s p).queue = s.queue :=
  (showLanes_acts _ (Acts.refl [.regs] s) rfl).same .queue rfl

@[simp] theorem showLanes_pipe (p : Nat) (s : State) : (showLanes s p).pipe = s.pipe :=
  (showLanes_acts _ (Acts.refl [.regs] s) rfl).same .pipe rfl

@[simp] theorem showLanes_slots (p : Nat) (s : State) : (showLanes s p).slots = s.slots :=
  (showLanes_acts _ (Acts.refl [.regs] s) rfl).same .slots rfl

@[simp] theorem showLanes_quant (p : Nat) (s : State) : (showLanes s p).quant = s.quant :=
  (showLanes_acts _ (Acts.refl [.regs] s) rfl).same .quant rfl

@[simp] theorem showLanes_power (p : Nat) (s : State) : (showLanes s p).power = s.power :=
  (showLanes_acts _ (Acts.refl [.regs] s) rfl).same .power rfl

@[simp] theorem showLanes_tally (p : Nat) (s : State) : (showLanes s p).tally = s.tally :=
  (showLanes_acts _ (Acts.refl [.regs] s) rfl).same .tally rfl

@[simp] theorem showLanes_secure (p : Nat) (s : State) : (showLanes s p).secure = s.secure :=
  (showLanes_acts _ (Acts.refl [.regs] s) rfl).same .secure rfl

@[simp] theorem showLanes_crown (p : Nat) (s : State) : (showLanes s p).crown = s.crown :=
  (showLanes_acts _ (Acts.refl [.regs] s) rfl).same .crown rfl

@[simp] theorem showLanes_peer (p : Nat) (s : State) : (showLanes s p).peer = s.peer :=
  (showLanes_acts _ (Acts.refl [.regs] s) rfl).same .peer rfl

@[simp] theorem showLanes_observe (p : Nat) (s : State) : (showLanes s p).observe = s.observe :=
  (showLanes_acts _ (Acts.refl [.regs] s) rfl).same .observe rfl

@[simp] theorem showLanes_log (p : Nat) (s : State) : (showLanes s p).log = s.log :=
  (showLanes_acts _ (Acts.refl [.regs] s) rfl).same .log rfl

@[simp] theorem showLanes_pins (p : Nat) (s : State) : (showLanes s p).pins = s.pins :=
  (showLanes_acts _ (Acts.refl [.regs] s) rfl).same .pins rfl

@[simp] theorem showLanes_hbm (p : Nat) (s : State) : (showLanes s p).hbm = s.hbm :=
  (showLanes_acts _ (Acts.refl [.regs] s) rfl).same .hbm rfl

@[simp] theorem showLanes_out (p : Nat) (s : State) : (showLanes s p).out = s.out :=
  (showLanes_acts _ (Acts.refl [.regs] s) rfl).same .out rfl

@[simp] theorem showLanes_noticeSeq (p : Nat) (s : State) : (showLanes s p).noticeSeq = s.noticeSeq :=
  (showLanes_acts _ (Acts.refl [.regs] s) rfl).same .noticeSeq rfl

@[simp] theorem showLanes_fresh (p : Nat) (s : State) : (showLanes s p).fresh = s.fresh :=
  (showLanes_acts _ (Acts.refl [.regs] s) rfl).same .fresh rfl

@[simp] theorem portDown_pending (p : Nat) (s : State) : (portDown s p).pending = s.pending :=
  (portDown_acts _ (Acts.refl [.regs, .ports] s) rfl).same .pending rfl

@[simp] theorem portDown_dial (p : Nat) (s : State) : (portDown s p).dial = s.dial :=
  (portDown_acts _ (Acts.refl [.regs, .ports] s) rfl).same .dial rfl

@[simp] theorem portDown_sched (p : Nat) (s : State) : (portDown s p).sched = s.sched :=
  (portDown_acts _ (Acts.refl [.regs, .ports] s) rfl).same .sched rfl

@[simp] theorem portDown_front (p : Nat) (s : State) : (portDown s p).front = s.front :=
  (portDown_acts _ (Acts.refl [.regs, .ports] s) rfl).same .front rfl

@[simp] theorem portDown_flow (p : Nat) (s : State) : (portDown s p).flow = s.flow :=
  (portDown_acts _ (Acts.refl [.regs, .ports] s) rfl).same .flow rfl

@[simp] theorem portDown_endpoint (p : Nat) (s : State) : (portDown s p).endpoint = s.endpoint :=
  (portDown_acts _ (Acts.refl [.regs, .ports] s) rfl).same .endpoint rfl

@[simp] theorem portDown_queue (p : Nat) (s : State) : (portDown s p).queue = s.queue :=
  (portDown_acts _ (Acts.refl [.regs, .ports] s) rfl).same .queue rfl

@[simp] theorem portDown_pipe (p : Nat) (s : State) : (portDown s p).pipe = s.pipe :=
  (portDown_acts _ (Acts.refl [.regs, .ports] s) rfl).same .pipe rfl

@[simp] theorem portDown_slots (p : Nat) (s : State) : (portDown s p).slots = s.slots :=
  (portDown_acts _ (Acts.refl [.regs, .ports] s) rfl).same .slots rfl

@[simp] theorem portDown_quant (p : Nat) (s : State) : (portDown s p).quant = s.quant :=
  (portDown_acts _ (Acts.refl [.regs, .ports] s) rfl).same .quant rfl

@[simp] theorem portDown_power (p : Nat) (s : State) : (portDown s p).power = s.power :=
  (portDown_acts _ (Acts.refl [.regs, .ports] s) rfl).same .power rfl

@[simp] theorem portDown_tally (p : Nat) (s : State) : (portDown s p).tally = s.tally :=
  (portDown_acts _ (Acts.refl [.regs, .ports] s) rfl).same .tally rfl

@[simp] theorem portDown_secure (p : Nat) (s : State) : (portDown s p).secure = s.secure :=
  (portDown_acts _ (Acts.refl [.regs, .ports] s) rfl).same .secure rfl

@[simp] theorem portDown_crown (p : Nat) (s : State) : (portDown s p).crown = s.crown :=
  (portDown_acts _ (Acts.refl [.regs, .ports] s) rfl).same .crown rfl

@[simp] theorem portDown_peer (p : Nat) (s : State) : (portDown s p).peer = s.peer :=
  (portDown_acts _ (Acts.refl [.regs, .ports] s) rfl).same .peer rfl

@[simp] theorem portDown_observe (p : Nat) (s : State) : (portDown s p).observe = s.observe :=
  (portDown_acts _ (Acts.refl [.regs, .ports] s) rfl).same .observe rfl

@[simp] theorem portDown_log (p : Nat) (s : State) : (portDown s p).log = s.log :=
  (portDown_acts _ (Acts.refl [.regs, .ports] s) rfl).same .log rfl

@[simp] theorem portDown_pins (p : Nat) (s : State) : (portDown s p).pins = s.pins :=
  (portDown_acts _ (Acts.refl [.regs, .ports] s) rfl).same .pins rfl

@[simp] theorem portDown_hbm (p : Nat) (s : State) : (portDown s p).hbm = s.hbm :=
  (portDown_acts _ (Acts.refl [.regs, .ports] s) rfl).same .hbm rfl

@[simp] theorem portDown_out (p : Nat) (s : State) : (portDown s p).out = s.out :=
  (portDown_acts _ (Acts.refl [.regs, .ports] s) rfl).same .out rfl

@[simp] theorem portDown_noticeSeq (p : Nat) (s : State) : (portDown s p).noticeSeq = s.noticeSeq :=
  (portDown_acts _ (Acts.refl [.regs, .ports] s) rfl).same .noticeSeq rfl

@[simp] theorem portDown_fresh (p : Nat) (s : State) : (portDown s p).fresh = s.fresh :=
  (portDown_acts _ (Acts.refl [.regs, .ports] s) rfl).same .fresh rfl

@[simp] theorem modBatch_pending (n : Nat) (f : Batch → Batch) (s : State) : (modBatch s n f).pending = s.pending :=
  (modBatch_acts _ _ (Acts.refl [.pipe] s) rfl).same .pending rfl

@[simp] theorem modBatch_regs (n : Nat) (f : Batch → Batch) (s : State) : (modBatch s n f).regs = s.regs :=
  (modBatch_acts _ _ (Acts.refl [.pipe] s) rfl).same .regs rfl

@[simp] theorem modBatch_dial (n : Nat) (f : Batch → Batch) (s : State) : (modBatch s n f).dial = s.dial :=
  (modBatch_acts _ _ (Acts.refl [.pipe] s) rfl).same .dial rfl

@[simp] theorem modBatch_sched (n : Nat) (f : Batch → Batch) (s : State) : (modBatch s n f).sched = s.sched :=
  (modBatch_acts _ _ (Acts.refl [.pipe] s) rfl).same .sched rfl

@[simp] theorem modBatch_ports (n : Nat) (f : Batch → Batch) (s : State) : (modBatch s n f).ports = s.ports :=
  (modBatch_acts _ _ (Acts.refl [.pipe] s) rfl).same .ports rfl

@[simp] theorem modBatch_front (n : Nat) (f : Batch → Batch) (s : State) : (modBatch s n f).front = s.front :=
  (modBatch_acts _ _ (Acts.refl [.pipe] s) rfl).same .front rfl

@[simp] theorem modBatch_flow (n : Nat) (f : Batch → Batch) (s : State) : (modBatch s n f).flow = s.flow :=
  (modBatch_acts _ _ (Acts.refl [.pipe] s) rfl).same .flow rfl

@[simp] theorem modBatch_endpoint (n : Nat) (f : Batch → Batch) (s : State) : (modBatch s n f).endpoint = s.endpoint :=
  (modBatch_acts _ _ (Acts.refl [.pipe] s) rfl).same .endpoint rfl

@[simp] theorem modBatch_queue (n : Nat) (f : Batch → Batch) (s : State) : (modBatch s n f).queue = s.queue :=
  (modBatch_acts _ _ (Acts.refl [.pipe] s) rfl).same .queue rfl

@[simp] theorem modBatch_slots (n : Nat) (f : Batch → Batch) (s : State) : (modBatch s n f).slots = s.slots :=
  (modBatch_acts _ _ (Acts.refl [.pipe] s) rfl).same .slots rfl

@[simp] theorem modBatch_quant (n : Nat) (f : Batch → Batch) (s : State) : (modBatch s n f).quant = s.quant :=
  (modBatch_acts _ _ (Acts.refl [.pipe] s) rfl).same .quant rfl

@[simp] theorem modBatch_power (n : Nat) (f : Batch → Batch) (s : State) : (modBatch s n f).power = s.power :=
  (modBatch_acts _ _ (Acts.refl [.pipe] s) rfl).same .power rfl

@[simp] theorem modBatch_tally (n : Nat) (f : Batch → Batch) (s : State) : (modBatch s n f).tally = s.tally :=
  (modBatch_acts _ _ (Acts.refl [.pipe] s) rfl).same .tally rfl

@[simp] theorem modBatch_secure (n : Nat) (f : Batch → Batch) (s : State) : (modBatch s n f).secure = s.secure :=
  (modBatch_acts _ _ (Acts.refl [.pipe] s) rfl).same .secure rfl

@[simp] theorem modBatch_crown (n : Nat) (f : Batch → Batch) (s : State) : (modBatch s n f).crown = s.crown :=
  (modBatch_acts _ _ (Acts.refl [.pipe] s) rfl).same .crown rfl

@[simp] theorem modBatch_peer (n : Nat) (f : Batch → Batch) (s : State) : (modBatch s n f).peer = s.peer :=
  (modBatch_acts _ _ (Acts.refl [.pipe] s) rfl).same .peer rfl

@[simp] theorem modBatch_observe (n : Nat) (f : Batch → Batch) (s : State) : (modBatch s n f).observe = s.observe :=
  (modBatch_acts _ _ (Acts.refl [.pipe] s) rfl).same .observe rfl

@[simp] theorem modBatch_log (n : Nat) (f : Batch → Batch) (s : State) : (modBatch s n f).log = s.log :=
  (modBatch_acts _ _ (Acts.refl [.pipe] s) rfl).same .log rfl

@[simp] theorem modBatch_pins (n : Nat) (f : Batch → Batch) (s : State) : (modBatch s n f).pins = s.pins :=
  (modBatch_acts _ _ (Acts.refl [.pipe] s) rfl).same .pins rfl

@[simp] theorem modBatch_hbm (n : Nat) (f : Batch → Batch) (s : State) : (modBatch s n f).hbm = s.hbm :=
  (modBatch_acts _ _ (Acts.refl [.pipe] s) rfl).same .hbm rfl

@[simp] theorem modBatch_out (n : Nat) (f : Batch → Batch) (s : State) : (modBatch s n f).out = s.out :=
  (modBatch_acts _ _ (Acts.refl [.pipe] s) rfl).same .out rfl

@[simp] theorem modBatch_noticeSeq (n : Nat) (f : Batch → Batch) (s : State) : (modBatch s n f).noticeSeq = s.noticeSeq :=
  (modBatch_acts _ _ (Acts.refl [.pipe] s) rfl).same .noticeSeq rfl

@[simp] theorem modBatch_fresh (n : Nat) (f : Batch → Batch) (s : State) : (modBatch s n f).fresh = s.fresh :=
  (modBatch_acts _ _ (Acts.refl [.pipe] s) rfl).same .fresh rfl

@[simp] theorem modChain_pending (n : Nat) (slot : Nat) (f : Chain → Chain) (s : State) : (modChain s n slot f).pending = s.pending :=
  (modChain_acts _ _ _ (Acts.refl [.pipe] s) rfl).same .pending rfl

@[simp] theorem modChain_regs (n : Nat) (slot : Nat) (f : Chain → Chain) (s : State) : (modChain s n slot f).regs = s.regs :=
  (modChain_acts _ _ _ (Acts.refl [.pipe] s) rfl).same .regs rfl

@[simp] theorem modChain_dial (n : Nat) (slot : Nat) (f : Chain → Chain) (s : State) : (modChain s n slot f).dial = s.dial :=
  (modChain_acts _ _ _ (Acts.refl [.pipe] s) rfl).same .dial rfl

@[simp] theorem modChain_sched (n : Nat) (slot : Nat) (f : Chain → Chain) (s : State) : (modChain s n slot f).sched = s.sched :=
  (modChain_acts _ _ _ (Acts.refl [.pipe] s) rfl).same .sched rfl

@[simp] theorem modChain_ports (n : Nat) (slot : Nat) (f : Chain → Chain) (s : State) : (modChain s n slot f).ports = s.ports :=
  (modChain_acts _ _ _ (Acts.refl [.pipe] s) rfl).same .ports rfl

@[simp] theorem modChain_front (n : Nat) (slot : Nat) (f : Chain → Chain) (s : State) : (modChain s n slot f).front = s.front :=
  (modChain_acts _ _ _ (Acts.refl [.pipe] s) rfl).same .front rfl

@[simp] theorem modChain_flow (n : Nat) (slot : Nat) (f : Chain → Chain) (s : State) : (modChain s n slot f).flow = s.flow :=
  (modChain_acts _ _ _ (Acts.refl [.pipe] s) rfl).same .flow rfl

@[simp] theorem modChain_endpoint (n : Nat) (slot : Nat) (f : Chain → Chain) (s : State) : (modChain s n slot f).endpoint = s.endpoint :=
  (modChain_acts _ _ _ (Acts.refl [.pipe] s) rfl).same .endpoint rfl

@[simp] theorem modChain_queue (n : Nat) (slot : Nat) (f : Chain → Chain) (s : State) : (modChain s n slot f).queue = s.queue :=
  (modChain_acts _ _ _ (Acts.refl [.pipe] s) rfl).same .queue rfl

@[simp] theorem modChain_slots (n : Nat) (slot : Nat) (f : Chain → Chain) (s : State) : (modChain s n slot f).slots = s.slots :=
  (modChain_acts _ _ _ (Acts.refl [.pipe] s) rfl).same .slots rfl

@[simp] theorem modChain_quant (n : Nat) (slot : Nat) (f : Chain → Chain) (s : State) : (modChain s n slot f).quant = s.quant :=
  (modChain_acts _ _ _ (Acts.refl [.pipe] s) rfl).same .quant rfl

@[simp] theorem modChain_power (n : Nat) (slot : Nat) (f : Chain → Chain) (s : State) : (modChain s n slot f).power = s.power :=
  (modChain_acts _ _ _ (Acts.refl [.pipe] s) rfl).same .power rfl

@[simp] theorem modChain_tally (n : Nat) (slot : Nat) (f : Chain → Chain) (s : State) : (modChain s n slot f).tally = s.tally :=
  (modChain_acts _ _ _ (Acts.refl [.pipe] s) rfl).same .tally rfl

@[simp] theorem modChain_secure (n : Nat) (slot : Nat) (f : Chain → Chain) (s : State) : (modChain s n slot f).secure = s.secure :=
  (modChain_acts _ _ _ (Acts.refl [.pipe] s) rfl).same .secure rfl

@[simp] theorem modChain_crown (n : Nat) (slot : Nat) (f : Chain → Chain) (s : State) : (modChain s n slot f).crown = s.crown :=
  (modChain_acts _ _ _ (Acts.refl [.pipe] s) rfl).same .crown rfl

@[simp] theorem modChain_peer (n : Nat) (slot : Nat) (f : Chain → Chain) (s : State) : (modChain s n slot f).peer = s.peer :=
  (modChain_acts _ _ _ (Acts.refl [.pipe] s) rfl).same .peer rfl

@[simp] theorem modChain_observe (n : Nat) (slot : Nat) (f : Chain → Chain) (s : State) : (modChain s n slot f).observe = s.observe :=
  (modChain_acts _ _ _ (Acts.refl [.pipe] s) rfl).same .observe rfl

@[simp] theorem modChain_log (n : Nat) (slot : Nat) (f : Chain → Chain) (s : State) : (modChain s n slot f).log = s.log :=
  (modChain_acts _ _ _ (Acts.refl [.pipe] s) rfl).same .log rfl

@[simp] theorem modChain_pins (n : Nat) (slot : Nat) (f : Chain → Chain) (s : State) : (modChain s n slot f).pins = s.pins :=
  (modChain_acts _ _ _ (Acts.refl [.pipe] s) rfl).same .pins rfl

@[simp] theorem modChain_hbm (n : Nat) (slot : Nat) (f : Chain → Chain) (s : State) : (modChain s n slot f).hbm = s.hbm :=
  (modChain_acts _ _ _ (Acts.refl [.pipe] s) rfl).same .hbm rfl

@[simp] theorem modChain_out (n : Nat) (slot : Nat) (f : Chain → Chain) (s : State) : (modChain s n slot f).out = s.out :=
  (modChain_acts _ _ _ (Acts.refl [.pipe] s) rfl).same .out rfl

@[simp] theorem modChain_noticeSeq (n : Nat) (slot : Nat) (f : Chain → Chain) (s : State) : (modChain s n slot f).noticeSeq = s.noticeSeq :=
  (modChain_acts _ _ _ (Acts.refl [.pipe] s) rfl).same .noticeSeq rfl

@[simp] theorem modChain_fresh (n : Nat) (slot : Nat) (f : Chain → Chain) (s : State) : (modChain s n slot f).fresh = s.fresh :=
  (modChain_acts _ _ _ (Acts.refl [.pipe] s) rfl).same .fresh rfl

@[simp] theorem modLink_pending (j : Nat) (f : LinkSt → LinkSt) (s : State) : (modLink s j f).pending = s.pending :=
  (modLink_acts _ _ (Acts.refl [.peer] s) rfl).same .pending rfl

@[simp] theorem modLink_regs (j : Nat) (f : LinkSt → LinkSt) (s : State) : (modLink s j f).regs = s.regs :=
  (modLink_acts _ _ (Acts.refl [.peer] s) rfl).same .regs rfl

@[simp] theorem modLink_dial (j : Nat) (f : LinkSt → LinkSt) (s : State) : (modLink s j f).dial = s.dial :=
  (modLink_acts _ _ (Acts.refl [.peer] s) rfl).same .dial rfl

@[simp] theorem modLink_sched (j : Nat) (f : LinkSt → LinkSt) (s : State) : (modLink s j f).sched = s.sched :=
  (modLink_acts _ _ (Acts.refl [.peer] s) rfl).same .sched rfl

@[simp] theorem modLink_ports (j : Nat) (f : LinkSt → LinkSt) (s : State) : (modLink s j f).ports = s.ports :=
  (modLink_acts _ _ (Acts.refl [.peer] s) rfl).same .ports rfl

@[simp] theorem modLink_front (j : Nat) (f : LinkSt → LinkSt) (s : State) : (modLink s j f).front = s.front :=
  (modLink_acts _ _ (Acts.refl [.peer] s) rfl).same .front rfl

@[simp] theorem modLink_flow (j : Nat) (f : LinkSt → LinkSt) (s : State) : (modLink s j f).flow = s.flow :=
  (modLink_acts _ _ (Acts.refl [.peer] s) rfl).same .flow rfl

@[simp] theorem modLink_endpoint (j : Nat) (f : LinkSt → LinkSt) (s : State) : (modLink s j f).endpoint = s.endpoint :=
  (modLink_acts _ _ (Acts.refl [.peer] s) rfl).same .endpoint rfl

@[simp] theorem modLink_queue (j : Nat) (f : LinkSt → LinkSt) (s : State) : (modLink s j f).queue = s.queue :=
  (modLink_acts _ _ (Acts.refl [.peer] s) rfl).same .queue rfl

@[simp] theorem modLink_pipe (j : Nat) (f : LinkSt → LinkSt) (s : State) : (modLink s j f).pipe = s.pipe :=
  (modLink_acts _ _ (Acts.refl [.peer] s) rfl).same .pipe rfl

@[simp] theorem modLink_slots (j : Nat) (f : LinkSt → LinkSt) (s : State) : (modLink s j f).slots = s.slots :=
  (modLink_acts _ _ (Acts.refl [.peer] s) rfl).same .slots rfl

@[simp] theorem modLink_quant (j : Nat) (f : LinkSt → LinkSt) (s : State) : (modLink s j f).quant = s.quant :=
  (modLink_acts _ _ (Acts.refl [.peer] s) rfl).same .quant rfl

@[simp] theorem modLink_power (j : Nat) (f : LinkSt → LinkSt) (s : State) : (modLink s j f).power = s.power :=
  (modLink_acts _ _ (Acts.refl [.peer] s) rfl).same .power rfl

@[simp] theorem modLink_tally (j : Nat) (f : LinkSt → LinkSt) (s : State) : (modLink s j f).tally = s.tally :=
  (modLink_acts _ _ (Acts.refl [.peer] s) rfl).same .tally rfl

@[simp] theorem modLink_secure (j : Nat) (f : LinkSt → LinkSt) (s : State) : (modLink s j f).secure = s.secure :=
  (modLink_acts _ _ (Acts.refl [.peer] s) rfl).same .secure rfl

@[simp] theorem modLink_crown (j : Nat) (f : LinkSt → LinkSt) (s : State) : (modLink s j f).crown = s.crown :=
  (modLink_acts _ _ (Acts.refl [.peer] s) rfl).same .crown rfl

@[simp] theorem modLink_observe (j : Nat) (f : LinkSt → LinkSt) (s : State) : (modLink s j f).observe = s.observe :=
  (modLink_acts _ _ (Acts.refl [.peer] s) rfl).same .observe rfl

@[simp] theorem modLink_log (j : Nat) (f : LinkSt → LinkSt) (s : State) : (modLink s j f).log = s.log :=
  (modLink_acts _ _ (Acts.refl [.peer] s) rfl).same .log rfl

@[simp] theorem modLink_pins (j : Nat) (f : LinkSt → LinkSt) (s : State) : (modLink s j f).pins = s.pins :=
  (modLink_acts _ _ (Acts.refl [.peer] s) rfl).same .pins rfl

@[simp] theorem modLink_hbm (j : Nat) (f : LinkSt → LinkSt) (s : State) : (modLink s j f).hbm = s.hbm :=
  (modLink_acts _ _ (Acts.refl [.peer] s) rfl).same .hbm rfl

@[simp] theorem modLink_out (j : Nat) (f : LinkSt → LinkSt) (s : State) : (modLink s j f).out = s.out :=
  (modLink_acts _ _ (Acts.refl [.peer] s) rfl).same .out rfl

@[simp] theorem modLink_noticeSeq (j : Nat) (f : LinkSt → LinkSt) (s : State) : (modLink s j f).noticeSeq = s.noticeSeq :=
  (modLink_acts _ _ (Acts.refl [.peer] s) rfl).same .noticeSeq rfl

@[simp] theorem modLink_fresh (j : Nat) (f : LinkSt → LinkSt) (s : State) : (modLink s j f).fresh = s.fresh :=
  (modLink_acts _ _ (Acts.refl [.peer] s) rfl).same .fresh rfl

@[simp] theorem transmit_pending (j : Nat) (f : Sys2Proof.Bytes) (s : State) : (transmit s j f).pending = s.pending :=
  (transmit_acts _ _ (Acts.refl [.regs, .queue, .peer, .observe, .out, .noticeSeq] s) rfl).same .pending rfl

@[simp] theorem transmit_dial (j : Nat) (f : Sys2Proof.Bytes) (s : State) : (transmit s j f).dial = s.dial :=
  (transmit_acts _ _ (Acts.refl [.regs, .queue, .peer, .observe, .out, .noticeSeq] s) rfl).same .dial rfl

@[simp] theorem transmit_sched (j : Nat) (f : Sys2Proof.Bytes) (s : State) : (transmit s j f).sched = s.sched :=
  (transmit_acts _ _ (Acts.refl [.regs, .queue, .peer, .observe, .out, .noticeSeq] s) rfl).same .sched rfl

@[simp] theorem transmit_ports (j : Nat) (f : Sys2Proof.Bytes) (s : State) : (transmit s j f).ports = s.ports :=
  (transmit_acts _ _ (Acts.refl [.regs, .queue, .peer, .observe, .out, .noticeSeq] s) rfl).same .ports rfl

@[simp] theorem transmit_front (j : Nat) (f : Sys2Proof.Bytes) (s : State) : (transmit s j f).front = s.front :=
  (transmit_acts _ _ (Acts.refl [.regs, .queue, .peer, .observe, .out, .noticeSeq] s) rfl).same .front rfl

@[simp] theorem transmit_flow (j : Nat) (f : Sys2Proof.Bytes) (s : State) : (transmit s j f).flow = s.flow :=
  (transmit_acts _ _ (Acts.refl [.regs, .queue, .peer, .observe, .out, .noticeSeq] s) rfl).same .flow rfl

@[simp] theorem transmit_endpoint (j : Nat) (f : Sys2Proof.Bytes) (s : State) : (transmit s j f).endpoint = s.endpoint :=
  (transmit_acts _ _ (Acts.refl [.regs, .queue, .peer, .observe, .out, .noticeSeq] s) rfl).same .endpoint rfl

@[simp] theorem transmit_pipe (j : Nat) (f : Sys2Proof.Bytes) (s : State) : (transmit s j f).pipe = s.pipe :=
  (transmit_acts _ _ (Acts.refl [.regs, .queue, .peer, .observe, .out, .noticeSeq] s) rfl).same .pipe rfl

@[simp] theorem transmit_slots (j : Nat) (f : Sys2Proof.Bytes) (s : State) : (transmit s j f).slots = s.slots :=
  (transmit_acts _ _ (Acts.refl [.regs, .queue, .peer, .observe, .out, .noticeSeq] s) rfl).same .slots rfl

@[simp] theorem transmit_quant (j : Nat) (f : Sys2Proof.Bytes) (s : State) : (transmit s j f).quant = s.quant :=
  (transmit_acts _ _ (Acts.refl [.regs, .queue, .peer, .observe, .out, .noticeSeq] s) rfl).same .quant rfl

@[simp] theorem transmit_power (j : Nat) (f : Sys2Proof.Bytes) (s : State) : (transmit s j f).power = s.power :=
  (transmit_acts _ _ (Acts.refl [.regs, .queue, .peer, .observe, .out, .noticeSeq] s) rfl).same .power rfl

@[simp] theorem transmit_tally (j : Nat) (f : Sys2Proof.Bytes) (s : State) : (transmit s j f).tally = s.tally :=
  (transmit_acts _ _ (Acts.refl [.regs, .queue, .peer, .observe, .out, .noticeSeq] s) rfl).same .tally rfl

@[simp] theorem transmit_secure (j : Nat) (f : Sys2Proof.Bytes) (s : State) : (transmit s j f).secure = s.secure :=
  (transmit_acts _ _ (Acts.refl [.regs, .queue, .peer, .observe, .out, .noticeSeq] s) rfl).same .secure rfl

@[simp] theorem transmit_crown (j : Nat) (f : Sys2Proof.Bytes) (s : State) : (transmit s j f).crown = s.crown :=
  (transmit_acts _ _ (Acts.refl [.regs, .queue, .peer, .observe, .out, .noticeSeq] s) rfl).same .crown rfl

@[simp] theorem transmit_log (j : Nat) (f : Sys2Proof.Bytes) (s : State) : (transmit s j f).log = s.log :=
  (transmit_acts _ _ (Acts.refl [.regs, .queue, .peer, .observe, .out, .noticeSeq] s) rfl).same .log rfl

@[simp] theorem transmit_pins (j : Nat) (f : Sys2Proof.Bytes) (s : State) : (transmit s j f).pins = s.pins :=
  (transmit_acts _ _ (Acts.refl [.regs, .queue, .peer, .observe, .out, .noticeSeq] s) rfl).same .pins rfl

@[simp] theorem transmit_hbm (j : Nat) (f : Sys2Proof.Bytes) (s : State) : (transmit s j f).hbm = s.hbm :=
  (transmit_acts _ _ (Acts.refl [.regs, .queue, .peer, .observe, .out, .noticeSeq] s) rfl).same .hbm rfl

@[simp] theorem transmit_fresh (j : Nat) (f : Sys2Proof.Bytes) (s : State) : (transmit s j f).fresh = s.fresh :=
  (transmit_acts _ _ (Acts.refl [.regs, .queue, .peer, .observe, .out, .noticeSeq] s) rfl).same .fresh rfl

@[simp] theorem returnCredit_pending (j : Nat) (key : Nat) (s : State) : (returnCredit s j key).pending = s.pending :=
  (returnCredit_acts _ _ (Acts.refl [.regs, .queue, .peer, .observe, .out, .noticeSeq] s) rfl).same .pending rfl

@[simp] theorem returnCredit_dial (j : Nat) (key : Nat) (s : State) : (returnCredit s j key).dial = s.dial :=
  (returnCredit_acts _ _ (Acts.refl [.regs, .queue, .peer, .observe, .out, .noticeSeq] s) rfl).same .dial rfl

@[simp] theorem returnCredit_sched (j : Nat) (key : Nat) (s : State) : (returnCredit s j key).sched = s.sched :=
  (returnCredit_acts _ _ (Acts.refl [.regs, .queue, .peer, .observe, .out, .noticeSeq] s) rfl).same .sched rfl

@[simp] theorem returnCredit_ports (j : Nat) (key : Nat) (s : State) : (returnCredit s j key).ports = s.ports :=
  (returnCredit_acts _ _ (Acts.refl [.regs, .queue, .peer, .observe, .out, .noticeSeq] s) rfl).same .ports rfl

@[simp] theorem returnCredit_front (j : Nat) (key : Nat) (s : State) : (returnCredit s j key).front = s.front :=
  (returnCredit_acts _ _ (Acts.refl [.regs, .queue, .peer, .observe, .out, .noticeSeq] s) rfl).same .front rfl

@[simp] theorem returnCredit_flow (j : Nat) (key : Nat) (s : State) : (returnCredit s j key).flow = s.flow :=
  (returnCredit_acts _ _ (Acts.refl [.regs, .queue, .peer, .observe, .out, .noticeSeq] s) rfl).same .flow rfl

@[simp] theorem returnCredit_endpoint (j : Nat) (key : Nat) (s : State) : (returnCredit s j key).endpoint = s.endpoint :=
  (returnCredit_acts _ _ (Acts.refl [.regs, .queue, .peer, .observe, .out, .noticeSeq] s) rfl).same .endpoint rfl

@[simp] theorem returnCredit_pipe (j : Nat) (key : Nat) (s : State) : (returnCredit s j key).pipe = s.pipe :=
  (returnCredit_acts _ _ (Acts.refl [.regs, .queue, .peer, .observe, .out, .noticeSeq] s) rfl).same .pipe rfl

@[simp] theorem returnCredit_slots (j : Nat) (key : Nat) (s : State) : (returnCredit s j key).slots = s.slots :=
  (returnCredit_acts _ _ (Acts.refl [.regs, .queue, .peer, .observe, .out, .noticeSeq] s) rfl).same .slots rfl

@[simp] theorem returnCredit_quant (j : Nat) (key : Nat) (s : State) : (returnCredit s j key).quant = s.quant :=
  (returnCredit_acts _ _ (Acts.refl [.regs, .queue, .peer, .observe, .out, .noticeSeq] s) rfl).same .quant rfl

@[simp] theorem returnCredit_power (j : Nat) (key : Nat) (s : State) : (returnCredit s j key).power = s.power :=
  (returnCredit_acts _ _ (Acts.refl [.regs, .queue, .peer, .observe, .out, .noticeSeq] s) rfl).same .power rfl

@[simp] theorem returnCredit_tally (j : Nat) (key : Nat) (s : State) : (returnCredit s j key).tally = s.tally :=
  (returnCredit_acts _ _ (Acts.refl [.regs, .queue, .peer, .observe, .out, .noticeSeq] s) rfl).same .tally rfl

@[simp] theorem returnCredit_secure (j : Nat) (key : Nat) (s : State) : (returnCredit s j key).secure = s.secure :=
  (returnCredit_acts _ _ (Acts.refl [.regs, .queue, .peer, .observe, .out, .noticeSeq] s) rfl).same .secure rfl

@[simp] theorem returnCredit_crown (j : Nat) (key : Nat) (s : State) : (returnCredit s j key).crown = s.crown :=
  (returnCredit_acts _ _ (Acts.refl [.regs, .queue, .peer, .observe, .out, .noticeSeq] s) rfl).same .crown rfl

@[simp] theorem returnCredit_log (j : Nat) (key : Nat) (s : State) : (returnCredit s j key).log = s.log :=
  (returnCredit_acts _ _ (Acts.refl [.regs, .queue, .peer, .observe, .out, .noticeSeq] s) rfl).same .log rfl

@[simp] theorem returnCredit_pins (j : Nat) (key : Nat) (s : State) : (returnCredit s j key).pins = s.pins :=
  (returnCredit_acts _ _ (Acts.refl [.regs, .queue, .peer, .observe, .out, .noticeSeq] s) rfl).same .pins rfl

@[simp] theorem returnCredit_hbm (j : Nat) (key : Nat) (s : State) : (returnCredit s j key).hbm = s.hbm :=
  (returnCredit_acts _ _ (Acts.refl [.regs, .queue, .peer, .observe, .out, .noticeSeq] s) rfl).same .hbm rfl

@[simp] theorem returnCredit_fresh (j : Nat) (key : Nat) (s : State) : (returnCredit s j key).fresh = s.fresh :=
  (returnCredit_acts _ _ (Acts.refl [.regs, .queue, .peer, .observe, .out, .noticeSeq] s) rfl).same .fresh rfl

@[simp] theorem linkLost_pending (j : Nat) (s : State) : (linkLost s j).pending = s.pending :=
  (linkLost_acts _ (Acts.refl [.regs, .queue, .peer, .observe, .noticeSeq] s) rfl).same .pending rfl

@[simp] theorem linkLost_dial (j : Nat) (s : State) : (linkLost s j).dial = s.dial :=
  (linkLost_acts _ (Acts.refl [.regs, .queue, .peer, .observe, .noticeSeq] s) rfl).same .dial rfl

@[simp] theorem linkLost_sched (j : Nat) (s : State) : (linkLost s j).sched = s.sched :=
  (linkLost_acts _ (Acts.refl [.regs, .queue, .peer, .observe, .noticeSeq] s) rfl).same .sched rfl

@[simp] theorem linkLost_ports (j : Nat) (s : State) : (linkLost s j).ports = s.ports :=
  (linkLost_acts _ (Acts.refl [.regs, .queue, .peer, .observe, .noticeSeq] s) rfl).same .ports rfl

@[simp] theorem linkLost_front (j : Nat) (s : State) : (linkLost s j).front = s.front :=
  (linkLost_acts _ (Acts.refl [.regs, .queue, .peer, .observe, .noticeSeq] s) rfl).same .front rfl

@[simp] theorem linkLost_flow (j : Nat) (s : State) : (linkLost s j).flow = s.flow :=
  (linkLost_acts _ (Acts.refl [.regs, .queue, .peer, .observe, .noticeSeq] s) rfl).same .flow rfl

@[simp] theorem linkLost_endpoint (j : Nat) (s : State) : (linkLost s j).endpoint = s.endpoint :=
  (linkLost_acts _ (Acts.refl [.regs, .queue, .peer, .observe, .noticeSeq] s) rfl).same .endpoint rfl

@[simp] theorem linkLost_pipe (j : Nat) (s : State) : (linkLost s j).pipe = s.pipe :=
  (linkLost_acts _ (Acts.refl [.regs, .queue, .peer, .observe, .noticeSeq] s) rfl).same .pipe rfl

@[simp] theorem linkLost_slots (j : Nat) (s : State) : (linkLost s j).slots = s.slots :=
  (linkLost_acts _ (Acts.refl [.regs, .queue, .peer, .observe, .noticeSeq] s) rfl).same .slots rfl

@[simp] theorem linkLost_quant (j : Nat) (s : State) : (linkLost s j).quant = s.quant :=
  (linkLost_acts _ (Acts.refl [.regs, .queue, .peer, .observe, .noticeSeq] s) rfl).same .quant rfl

@[simp] theorem linkLost_power (j : Nat) (s : State) : (linkLost s j).power = s.power :=
  (linkLost_acts _ (Acts.refl [.regs, .queue, .peer, .observe, .noticeSeq] s) rfl).same .power rfl

@[simp] theorem linkLost_tally (j : Nat) (s : State) : (linkLost s j).tally = s.tally :=
  (linkLost_acts _ (Acts.refl [.regs, .queue, .peer, .observe, .noticeSeq] s) rfl).same .tally rfl

@[simp] theorem linkLost_secure (j : Nat) (s : State) : (linkLost s j).secure = s.secure :=
  (linkLost_acts _ (Acts.refl [.regs, .queue, .peer, .observe, .noticeSeq] s) rfl).same .secure rfl

@[simp] theorem linkLost_crown (j : Nat) (s : State) : (linkLost s j).crown = s.crown :=
  (linkLost_acts _ (Acts.refl [.regs, .queue, .peer, .observe, .noticeSeq] s) rfl).same .crown rfl

@[simp] theorem linkLost_log (j : Nat) (s : State) : (linkLost s j).log = s.log :=
  (linkLost_acts _ (Acts.refl [.regs, .queue, .peer, .observe, .noticeSeq] s) rfl).same .log rfl

@[simp] theorem linkLost_pins (j : Nat) (s : State) : (linkLost s j).pins = s.pins :=
  (linkLost_acts _ (Acts.refl [.regs, .queue, .peer, .observe, .noticeSeq] s) rfl).same .pins rfl

@[simp] theorem linkLost_hbm (j : Nat) (s : State) : (linkLost s j).hbm = s.hbm :=
  (linkLost_acts _ (Acts.refl [.regs, .queue, .peer, .observe, .noticeSeq] s) rfl).same .hbm rfl

@[simp] theorem linkLost_out (j : Nat) (s : State) : (linkLost s j).out = s.out :=
  (linkLost_acts _ (Acts.refl [.regs, .queue, .peer, .observe, .noticeSeq] s) rfl).same .out rfl

@[simp] theorem linkLost_fresh (j : Nat) (s : State) : (linkLost s j).fresh = s.fresh :=
  (linkLost_acts _ (Acts.refl [.regs, .queue, .peer, .observe, .noticeSeq] s) rfl).same .fresh rfl

@[simp] theorem sendOrLose_pending (h0 : PeerHdr) (payload : Sys2Proof.Bytes) (s : State) : (sendOrLose s h0 payload).pending = s.pending :=
  (sendOrLose_acts _ _ (Acts.refl [.regs, .queue, .power, .peer, .observe, .out, .noticeSeq] s) rfl).same .pending rfl

@[simp] theorem sendOrLose_dial (h0 : PeerHdr) (payload : Sys2Proof.Bytes) (s : State) : (sendOrLose s h0 payload).dial = s.dial :=
  (sendOrLose_acts _ _ (Acts.refl [.regs, .queue, .power, .peer, .observe, .out, .noticeSeq] s) rfl).same .dial rfl

@[simp] theorem sendOrLose_sched (h0 : PeerHdr) (payload : Sys2Proof.Bytes) (s : State) : (sendOrLose s h0 payload).sched = s.sched :=
  (sendOrLose_acts _ _ (Acts.refl [.regs, .queue, .power, .peer, .observe, .out, .noticeSeq] s) rfl).same .sched rfl

@[simp] theorem sendOrLose_ports (h0 : PeerHdr) (payload : Sys2Proof.Bytes) (s : State) : (sendOrLose s h0 payload).ports = s.ports :=
  (sendOrLose_acts _ _ (Acts.refl [.regs, .queue, .power, .peer, .observe, .out, .noticeSeq] s) rfl).same .ports rfl

@[simp] theorem sendOrLose_front (h0 : PeerHdr) (payload : Sys2Proof.Bytes) (s : State) : (sendOrLose s h0 payload).front = s.front :=
  (sendOrLose_acts _ _ (Acts.refl [.regs, .queue, .power, .peer, .observe, .out, .noticeSeq] s) rfl).same .front rfl

@[simp] theorem sendOrLose_flow (h0 : PeerHdr) (payload : Sys2Proof.Bytes) (s : State) : (sendOrLose s h0 payload).flow = s.flow :=
  (sendOrLose_acts _ _ (Acts.refl [.regs, .queue, .power, .peer, .observe, .out, .noticeSeq] s) rfl).same .flow rfl

@[simp] theorem sendOrLose_endpoint (h0 : PeerHdr) (payload : Sys2Proof.Bytes) (s : State) : (sendOrLose s h0 payload).endpoint = s.endpoint :=
  (sendOrLose_acts _ _ (Acts.refl [.regs, .queue, .power, .peer, .observe, .out, .noticeSeq] s) rfl).same .endpoint rfl

@[simp] theorem sendOrLose_pipe (h0 : PeerHdr) (payload : Sys2Proof.Bytes) (s : State) : (sendOrLose s h0 payload).pipe = s.pipe :=
  (sendOrLose_acts _ _ (Acts.refl [.regs, .queue, .power, .peer, .observe, .out, .noticeSeq] s) rfl).same .pipe rfl

@[simp] theorem sendOrLose_slots (h0 : PeerHdr) (payload : Sys2Proof.Bytes) (s : State) : (sendOrLose s h0 payload).slots = s.slots :=
  (sendOrLose_acts _ _ (Acts.refl [.regs, .queue, .power, .peer, .observe, .out, .noticeSeq] s) rfl).same .slots rfl

@[simp] theorem sendOrLose_quant (h0 : PeerHdr) (payload : Sys2Proof.Bytes) (s : State) : (sendOrLose s h0 payload).quant = s.quant :=
  (sendOrLose_acts _ _ (Acts.refl [.regs, .queue, .power, .peer, .observe, .out, .noticeSeq] s) rfl).same .quant rfl

@[simp] theorem sendOrLose_tally (h0 : PeerHdr) (payload : Sys2Proof.Bytes) (s : State) : (sendOrLose s h0 payload).tally = s.tally :=
  (sendOrLose_acts _ _ (Acts.refl [.regs, .queue, .power, .peer, .observe, .out, .noticeSeq] s) rfl).same .tally rfl

@[simp] theorem sendOrLose_secure (h0 : PeerHdr) (payload : Sys2Proof.Bytes) (s : State) : (sendOrLose s h0 payload).secure = s.secure :=
  (sendOrLose_acts _ _ (Acts.refl [.regs, .queue, .power, .peer, .observe, .out, .noticeSeq] s) rfl).same .secure rfl

@[simp] theorem sendOrLose_crown (h0 : PeerHdr) (payload : Sys2Proof.Bytes) (s : State) : (sendOrLose s h0 payload).crown = s.crown :=
  (sendOrLose_acts _ _ (Acts.refl [.regs, .queue, .power, .peer, .observe, .out, .noticeSeq] s) rfl).same .crown rfl

@[simp] theorem sendOrLose_log (h0 : PeerHdr) (payload : Sys2Proof.Bytes) (s : State) : (sendOrLose s h0 payload).log = s.log :=
  (sendOrLose_acts _ _ (Acts.refl [.regs, .queue, .power, .peer, .observe, .out, .noticeSeq] s) rfl).same .log rfl

@[simp] theorem sendOrLose_pins (h0 : PeerHdr) (payload : Sys2Proof.Bytes) (s : State) : (sendOrLose s h0 payload).pins = s.pins :=
  (sendOrLose_acts _ _ (Acts.refl [.regs, .queue, .power, .peer, .observe, .out, .noticeSeq] s) rfl).same .pins rfl

@[simp] theorem sendOrLose_hbm (h0 : PeerHdr) (payload : Sys2Proof.Bytes) (s : State) : (sendOrLose s h0 payload).hbm = s.hbm :=
  (sendOrLose_acts _ _ (Acts.refl [.regs, .queue, .power, .peer, .observe, .out, .noticeSeq] s) rfl).same .hbm rfl

@[simp] theorem sendOrLose_fresh (h0 : PeerHdr) (payload : Sys2Proof.Bytes) (s : State) : (sendOrLose s h0 payload).fresh = s.fresh :=
  (sendOrLose_acts _ _ (Acts.refl [.regs, .queue, .power, .peer, .observe, .out, .noticeSeq] s) rfl).same .fresh rfl

@[simp] theorem arrive_pending (i : Nat) (f : Sys2Proof.Bytes) (s : State) : (arrive s i f).1.pending = s.pending :=
  (arrive_acts _ _ (Acts.refl [.regs, .queue, .power, .peer, .observe, .out, .noticeSeq] s) rfl).same .pending rfl

@[simp] theorem arrive_dial (i : Nat) (f : Sys2Proof.Bytes) (s : State) : (arrive s i f).1.dial = s.dial :=
  (arrive_acts _ _ (Acts.refl [.regs, .queue, .power, .peer, .observe, .out, .noticeSeq] s) rfl).same .dial rfl

@[simp] theorem arrive_sched (i : Nat) (f : Sys2Proof.Bytes) (s : State) : (arrive s i f).1.sched = s.sched :=
  (arrive_acts _ _ (Acts.refl [.regs, .queue, .power, .peer, .observe, .out, .noticeSeq] s) rfl).same .sched rfl

@[simp] theorem arrive_ports (i : Nat) (f : Sys2Proof.Bytes) (s : State) : (arrive s i f).1.ports = s.ports :=
  (arrive_acts _ _ (Acts.refl [.regs, .queue, .power, .peer, .observe, .out, .noticeSeq] s) rfl).same .ports rfl

@[simp] theorem arrive_front (i : Nat) (f : Sys2Proof.Bytes) (s : State) : (arrive s i f).1.front = s.front :=
  (arrive_acts _ _ (Acts.refl [.regs, .queue, .power, .peer, .observe, .out, .noticeSeq] s) rfl).same .front rfl

@[simp] theorem arrive_flow (i : Nat) (f : Sys2Proof.Bytes) (s : State) : (arrive s i f).1.flow = s.flow :=
  (arrive_acts _ _ (Acts.refl [.regs, .queue, .power, .peer, .observe, .out, .noticeSeq] s) rfl).same .flow rfl

@[simp] theorem arrive_endpoint (i : Nat) (f : Sys2Proof.Bytes) (s : State) : (arrive s i f).1.endpoint = s.endpoint :=
  (arrive_acts _ _ (Acts.refl [.regs, .queue, .power, .peer, .observe, .out, .noticeSeq] s) rfl).same .endpoint rfl

@[simp] theorem arrive_pipe (i : Nat) (f : Sys2Proof.Bytes) (s : State) : (arrive s i f).1.pipe = s.pipe :=
  (arrive_acts _ _ (Acts.refl [.regs, .queue, .power, .peer, .observe, .out, .noticeSeq] s) rfl).same .pipe rfl

@[simp] theorem arrive_slots (i : Nat) (f : Sys2Proof.Bytes) (s : State) : (arrive s i f).1.slots = s.slots :=
  (arrive_acts _ _ (Acts.refl [.regs, .queue, .power, .peer, .observe, .out, .noticeSeq] s) rfl).same .slots rfl

@[simp] theorem arrive_quant (i : Nat) (f : Sys2Proof.Bytes) (s : State) : (arrive s i f).1.quant = s.quant :=
  (arrive_acts _ _ (Acts.refl [.regs, .queue, .power, .peer, .observe, .out, .noticeSeq] s) rfl).same .quant rfl

@[simp] theorem arrive_tally (i : Nat) (f : Sys2Proof.Bytes) (s : State) : (arrive s i f).1.tally = s.tally :=
  (arrive_acts _ _ (Acts.refl [.regs, .queue, .power, .peer, .observe, .out, .noticeSeq] s) rfl).same .tally rfl

@[simp] theorem arrive_secure (i : Nat) (f : Sys2Proof.Bytes) (s : State) : (arrive s i f).1.secure = s.secure :=
  (arrive_acts _ _ (Acts.refl [.regs, .queue, .power, .peer, .observe, .out, .noticeSeq] s) rfl).same .secure rfl

@[simp] theorem arrive_crown (i : Nat) (f : Sys2Proof.Bytes) (s : State) : (arrive s i f).1.crown = s.crown :=
  (arrive_acts _ _ (Acts.refl [.regs, .queue, .power, .peer, .observe, .out, .noticeSeq] s) rfl).same .crown rfl

@[simp] theorem arrive_log (i : Nat) (f : Sys2Proof.Bytes) (s : State) : (arrive s i f).1.log = s.log :=
  (arrive_acts _ _ (Acts.refl [.regs, .queue, .power, .peer, .observe, .out, .noticeSeq] s) rfl).same .log rfl

@[simp] theorem arrive_pins (i : Nat) (f : Sys2Proof.Bytes) (s : State) : (arrive s i f).1.pins = s.pins :=
  (arrive_acts _ _ (Acts.refl [.regs, .queue, .power, .peer, .observe, .out, .noticeSeq] s) rfl).same .pins rfl

@[simp] theorem arrive_hbm (i : Nat) (f : Sys2Proof.Bytes) (s : State) : (arrive s i f).1.hbm = s.hbm :=
  (arrive_acts _ _ (Acts.refl [.regs, .queue, .power, .peer, .observe, .out, .noticeSeq] s) rfl).same .hbm rfl

@[simp] theorem arrive_fresh (i : Nat) (f : Sys2Proof.Bytes) (s : State) : (arrive s i f).1.fresh = s.fresh :=
  (arrive_acts _ _ (Acts.refl [.regs, .queue, .power, .peer, .observe, .out, .noticeSeq] s) rfl).same .fresh rfl

@[simp] theorem respond_pending (c : Client) (r : Sys2Proof.Request) (op : Nat) (status : Nat) (payload : Sys2Proof.Bytes) (s : State) : (respond s c r op status payload).pending = s.pending :=
  (respond_acts _ _ _ _ _ (Acts.refl [.regs, .queue, .power, .peer, .observe, .out, .noticeSeq] s) rfl).same .pending rfl

@[simp] theorem respond_dial (c : Client) (r : Sys2Proof.Request) (op : Nat) (status : Nat) (payload : Sys2Proof.Bytes) (s : State) : (respond s c r op status payload).dial = s.dial :=
  (respond_acts _ _ _ _ _ (Acts.refl [.regs, .queue, .power, .peer, .observe, .out, .noticeSeq] s) rfl).same .dial rfl

@[simp] theorem respond_sched (c : Client) (r : Sys2Proof.Request) (op : Nat) (status : Nat) (payload : Sys2Proof.Bytes) (s : State) : (respond s c r op status payload).sched = s.sched :=
  (respond_acts _ _ _ _ _ (Acts.refl [.regs, .queue, .power, .peer, .observe, .out, .noticeSeq] s) rfl).same .sched rfl

@[simp] theorem respond_ports (c : Client) (r : Sys2Proof.Request) (op : Nat) (status : Nat) (payload : Sys2Proof.Bytes) (s : State) : (respond s c r op status payload).ports = s.ports :=
  (respond_acts _ _ _ _ _ (Acts.refl [.regs, .queue, .power, .peer, .observe, .out, .noticeSeq] s) rfl).same .ports rfl

@[simp] theorem respond_front (c : Client) (r : Sys2Proof.Request) (op : Nat) (status : Nat) (payload : Sys2Proof.Bytes) (s : State) : (respond s c r op status payload).front = s.front :=
  (respond_acts _ _ _ _ _ (Acts.refl [.regs, .queue, .power, .peer, .observe, .out, .noticeSeq] s) rfl).same .front rfl

@[simp] theorem respond_flow (c : Client) (r : Sys2Proof.Request) (op : Nat) (status : Nat) (payload : Sys2Proof.Bytes) (s : State) : (respond s c r op status payload).flow = s.flow :=
  (respond_acts _ _ _ _ _ (Acts.refl [.regs, .queue, .power, .peer, .observe, .out, .noticeSeq] s) rfl).same .flow rfl

@[simp] theorem respond_endpoint (c : Client) (r : Sys2Proof.Request) (op : Nat) (status : Nat) (payload : Sys2Proof.Bytes) (s : State) : (respond s c r op status payload).endpoint = s.endpoint :=
  (respond_acts _ _ _ _ _ (Acts.refl [.regs, .queue, .power, .peer, .observe, .out, .noticeSeq] s) rfl).same .endpoint rfl

@[simp] theorem respond_pipe (c : Client) (r : Sys2Proof.Request) (op : Nat) (status : Nat) (payload : Sys2Proof.Bytes) (s : State) : (respond s c r op status payload).pipe = s.pipe :=
  (respond_acts _ _ _ _ _ (Acts.refl [.regs, .queue, .power, .peer, .observe, .out, .noticeSeq] s) rfl).same .pipe rfl

@[simp] theorem respond_slots (c : Client) (r : Sys2Proof.Request) (op : Nat) (status : Nat) (payload : Sys2Proof.Bytes) (s : State) : (respond s c r op status payload).slots = s.slots :=
  (respond_acts _ _ _ _ _ (Acts.refl [.regs, .queue, .power, .peer, .observe, .out, .noticeSeq] s) rfl).same .slots rfl

@[simp] theorem respond_quant (c : Client) (r : Sys2Proof.Request) (op : Nat) (status : Nat) (payload : Sys2Proof.Bytes) (s : State) : (respond s c r op status payload).quant = s.quant :=
  (respond_acts _ _ _ _ _ (Acts.refl [.regs, .queue, .power, .peer, .observe, .out, .noticeSeq] s) rfl).same .quant rfl

@[simp] theorem respond_tally (c : Client) (r : Sys2Proof.Request) (op : Nat) (status : Nat) (payload : Sys2Proof.Bytes) (s : State) : (respond s c r op status payload).tally = s.tally :=
  (respond_acts _ _ _ _ _ (Acts.refl [.regs, .queue, .power, .peer, .observe, .out, .noticeSeq] s) rfl).same .tally rfl

@[simp] theorem respond_secure (c : Client) (r : Sys2Proof.Request) (op : Nat) (status : Nat) (payload : Sys2Proof.Bytes) (s : State) : (respond s c r op status payload).secure = s.secure :=
  (respond_acts _ _ _ _ _ (Acts.refl [.regs, .queue, .power, .peer, .observe, .out, .noticeSeq] s) rfl).same .secure rfl

@[simp] theorem respond_crown (c : Client) (r : Sys2Proof.Request) (op : Nat) (status : Nat) (payload : Sys2Proof.Bytes) (s : State) : (respond s c r op status payload).crown = s.crown :=
  (respond_acts _ _ _ _ _ (Acts.refl [.regs, .queue, .power, .peer, .observe, .out, .noticeSeq] s) rfl).same .crown rfl

@[simp] theorem respond_log (c : Client) (r : Sys2Proof.Request) (op : Nat) (status : Nat) (payload : Sys2Proof.Bytes) (s : State) : (respond s c r op status payload).log = s.log :=
  (respond_acts _ _ _ _ _ (Acts.refl [.regs, .queue, .power, .peer, .observe, .out, .noticeSeq] s) rfl).same .log rfl

@[simp] theorem respond_pins (c : Client) (r : Sys2Proof.Request) (op : Nat) (status : Nat) (payload : Sys2Proof.Bytes) (s : State) : (respond s c r op status payload).pins = s.pins :=
  (respond_acts _ _ _ _ _ (Acts.refl [.regs, .queue, .power, .peer, .observe, .out, .noticeSeq] s) rfl).same .pins rfl

@[simp] theorem respond_hbm (c : Client) (r : Sys2Proof.Request) (op : Nat) (status : Nat) (payload : Sys2Proof.Bytes) (s : State) : (respond s c r op status payload).hbm = s.hbm :=
  (respond_acts _ _ _ _ _ (Acts.refl [.regs, .queue, .power, .peer, .observe, .out, .noticeSeq] s) rfl).same .hbm rfl

@[simp] theorem respond_fresh (c : Client) (r : Sys2Proof.Request) (op : Nat) (status : Nat) (payload : Sys2Proof.Bytes) (s : State) : (respond s c r op status payload).fresh = s.fresh :=
  (respond_acts _ _ _ _ _ (Acts.refl [.regs, .queue, .power, .peer, .observe, .out, .noticeSeq] s) rfl).same .fresh rfl

@[simp] theorem showCrown_pending  (s : State) : (showCrown s).pending = s.pending :=
  (showCrown_acts  (Acts.refl [.regs] s) rfl).same .pending rfl

@[simp] theorem showCrown_dial  (s : State) : (showCrown s).dial = s.dial :=
  (showCrown_acts  (Acts.refl [.regs] s) rfl).same .dial rfl

@[simp] theorem showCrown_sched  (s : State) : (showCrown s).sched = s.sched :=
  (showCrown_acts  (Acts.refl [.regs] s) rfl).same .sched rfl

@[simp] theorem showCrown_ports  (s : State) : (showCrown s).ports = s.ports :=
  (showCrown_acts  (Acts.refl [.regs] s) rfl).same .ports rfl

@[simp] theorem showCrown_front  (s : State) : (showCrown s).front = s.front :=
  (showCrown_acts  (Acts.refl [.regs] s) rfl).same .front rfl

@[simp] theorem showCrown_flow  (s : State) : (showCrown s).flow = s.flow :=
  (showCrown_acts  (Acts.refl [.regs] s) rfl).same .flow rfl

@[simp] theorem showCrown_endpoint  (s : State) : (showCrown s).endpoint = s.endpoint :=
  (showCrown_acts  (Acts.refl [.regs] s) rfl).same .endpoint rfl

@[simp] theorem showCrown_queue  (s : State) : (showCrown s).queue = s.queue :=
  (showCrown_acts  (Acts.refl [.regs] s) rfl).same .queue rfl

@[simp] theorem showCrown_pipe  (s : State) : (showCrown s).pipe = s.pipe :=
  (showCrown_acts  (Acts.refl [.regs] s) rfl).same .pipe rfl

@[simp] theorem showCrown_slots  (s : State) : (showCrown s).slots = s.slots :=
  (showCrown_acts  (Acts.refl [.regs] s) rfl).same .slots rfl

@[simp] theorem showCrown_quant  (s : State) : (showCrown s).quant = s.quant :=
  (showCrown_acts  (Acts.refl [.regs] s) rfl).same .quant rfl

@[simp] theorem showCrown_power  (s : State) : (showCrown s).power = s.power :=
  (showCrown_acts  (Acts.refl [.regs] s) rfl).same .power rfl

@[simp] theorem showCrown_tally  (s : State) : (showCrown s).tally = s.tally :=
  (showCrown_acts  (Acts.refl [.regs] s) rfl).same .tally rfl

@[simp] theorem showCrown_secure  (s : State) : (showCrown s).secure = s.secure :=
  (showCrown_acts  (Acts.refl [.regs] s) rfl).same .secure rfl

@[simp] theorem showCrown_crown  (s : State) : (showCrown s).crown = s.crown :=
  (showCrown_acts  (Acts.refl [.regs] s) rfl).same .crown rfl

@[simp] theorem showCrown_peer  (s : State) : (showCrown s).peer = s.peer :=
  (showCrown_acts  (Acts.refl [.regs] s) rfl).same .peer rfl

@[simp] theorem showCrown_observe  (s : State) : (showCrown s).observe = s.observe :=
  (showCrown_acts  (Acts.refl [.regs] s) rfl).same .observe rfl

@[simp] theorem showCrown_log  (s : State) : (showCrown s).log = s.log :=
  (showCrown_acts  (Acts.refl [.regs] s) rfl).same .log rfl

@[simp] theorem showCrown_pins  (s : State) : (showCrown s).pins = s.pins :=
  (showCrown_acts  (Acts.refl [.regs] s) rfl).same .pins rfl

@[simp] theorem showCrown_hbm  (s : State) : (showCrown s).hbm = s.hbm :=
  (showCrown_acts  (Acts.refl [.regs] s) rfl).same .hbm rfl

@[simp] theorem showCrown_out  (s : State) : (showCrown s).out = s.out :=
  (showCrown_acts  (Acts.refl [.regs] s) rfl).same .out rfl

@[simp] theorem showCrown_noticeSeq  (s : State) : (showCrown s).noticeSeq = s.noticeSeq :=
  (showCrown_acts  (Acts.refl [.regs] s) rfl).same .noticeSeq rfl

@[simp] theorem showCrown_fresh  (s : State) : (showCrown s).fresh = s.fresh :=
  (showCrown_acts  (Acts.refl [.regs] s) rfl).same .fresh rfl

@[simp] theorem modJob_pending (post : Nat) (f : Job → Job) (s : State) : (modJob s post f).pending = s.pending :=
  (modJob_acts _ _ (Acts.refl [.crown] s) rfl).same .pending rfl

@[simp] theorem modJob_regs (post : Nat) (f : Job → Job) (s : State) : (modJob s post f).regs = s.regs :=
  (modJob_acts _ _ (Acts.refl [.crown] s) rfl).same .regs rfl

@[simp] theorem modJob_dial (post : Nat) (f : Job → Job) (s : State) : (modJob s post f).dial = s.dial :=
  (modJob_acts _ _ (Acts.refl [.crown] s) rfl).same .dial rfl

@[simp] theorem modJob_sched (post : Nat) (f : Job → Job) (s : State) : (modJob s post f).sched = s.sched :=
  (modJob_acts _ _ (Acts.refl [.crown] s) rfl).same .sched rfl

@[simp] theorem modJob_ports (post : Nat) (f : Job → Job) (s : State) : (modJob s post f).ports = s.ports :=
  (modJob_acts _ _ (Acts.refl [.crown] s) rfl).same .ports rfl

@[simp] theorem modJob_front (post : Nat) (f : Job → Job) (s : State) : (modJob s post f).front = s.front :=
  (modJob_acts _ _ (Acts.refl [.crown] s) rfl).same .front rfl

@[simp] theorem modJob_flow (post : Nat) (f : Job → Job) (s : State) : (modJob s post f).flow = s.flow :=
  (modJob_acts _ _ (Acts.refl [.crown] s) rfl).same .flow rfl

@[simp] theorem modJob_endpoint (post : Nat) (f : Job → Job) (s : State) : (modJob s post f).endpoint = s.endpoint :=
  (modJob_acts _ _ (Acts.refl [.crown] s) rfl).same .endpoint rfl

@[simp] theorem modJob_queue (post : Nat) (f : Job → Job) (s : State) : (modJob s post f).queue = s.queue :=
  (modJob_acts _ _ (Acts.refl [.crown] s) rfl).same .queue rfl

@[simp] theorem modJob_pipe (post : Nat) (f : Job → Job) (s : State) : (modJob s post f).pipe = s.pipe :=
  (modJob_acts _ _ (Acts.refl [.crown] s) rfl).same .pipe rfl

@[simp] theorem modJob_slots (post : Nat) (f : Job → Job) (s : State) : (modJob s post f).slots = s.slots :=
  (modJob_acts _ _ (Acts.refl [.crown] s) rfl).same .slots rfl

@[simp] theorem modJob_quant (post : Nat) (f : Job → Job) (s : State) : (modJob s post f).quant = s.quant :=
  (modJob_acts _ _ (Acts.refl [.crown] s) rfl).same .quant rfl

@[simp] theorem modJob_power (post : Nat) (f : Job → Job) (s : State) : (modJob s post f).power = s.power :=
  (modJob_acts _ _ (Acts.refl [.crown] s) rfl).same .power rfl

@[simp] theorem modJob_tally (post : Nat) (f : Job → Job) (s : State) : (modJob s post f).tally = s.tally :=
  (modJob_acts _ _ (Acts.refl [.crown] s) rfl).same .tally rfl

@[simp] theorem modJob_secure (post : Nat) (f : Job → Job) (s : State) : (modJob s post f).secure = s.secure :=
  (modJob_acts _ _ (Acts.refl [.crown] s) rfl).same .secure rfl

@[simp] theorem modJob_peer (post : Nat) (f : Job → Job) (s : State) : (modJob s post f).peer = s.peer :=
  (modJob_acts _ _ (Acts.refl [.crown] s) rfl).same .peer rfl

@[simp] theorem modJob_observe (post : Nat) (f : Job → Job) (s : State) : (modJob s post f).observe = s.observe :=
  (modJob_acts _ _ (Acts.refl [.crown] s) rfl).same .observe rfl

@[simp] theorem modJob_log (post : Nat) (f : Job → Job) (s : State) : (modJob s post f).log = s.log :=
  (modJob_acts _ _ (Acts.refl [.crown] s) rfl).same .log rfl

@[simp] theorem modJob_pins (post : Nat) (f : Job → Job) (s : State) : (modJob s post f).pins = s.pins :=
  (modJob_acts _ _ (Acts.refl [.crown] s) rfl).same .pins rfl

@[simp] theorem modJob_hbm (post : Nat) (f : Job → Job) (s : State) : (modJob s post f).hbm = s.hbm :=
  (modJob_acts _ _ (Acts.refl [.crown] s) rfl).same .hbm rfl

@[simp] theorem modJob_out (post : Nat) (f : Job → Job) (s : State) : (modJob s post f).out = s.out :=
  (modJob_acts _ _ (Acts.refl [.crown] s) rfl).same .out rfl

@[simp] theorem modJob_noticeSeq (post : Nat) (f : Job → Job) (s : State) : (modJob s post f).noticeSeq = s.noticeSeq :=
  (modJob_acts _ _ (Acts.refl [.crown] s) rfl).same .noticeSeq rfl

@[simp] theorem modJob_fresh (post : Nat) (f : Job → Job) (s : State) : (modJob s post f).fresh = s.fresh :=
  (modJob_acts _ _ (Acts.refl [.crown] s) rfl).same .fresh rfl

@[simp] theorem retireJob_pending (j : Job) (state : Nat) (s : State) : (retireJob s j state).pending = s.pending :=
  (retireJob_acts _ _ (Acts.refl [.regs, .queue, .power, .tally, .crown, .peer, .observe, .out, .noticeSeq, .fresh] s) rfl).same .pending rfl

@[simp] theorem retireJob_dial (j : Job) (state : Nat) (s : State) : (retireJob s j state).dial = s.dial :=
  (retireJob_acts _ _ (Acts.refl [.regs, .queue, .power, .tally, .crown, .peer, .observe, .out, .noticeSeq, .fresh] s) rfl).same .dial rfl

@[simp] theorem retireJob_sched (j : Job) (state : Nat) (s : State) : (retireJob s j state).sched = s.sched :=
  (retireJob_acts _ _ (Acts.refl [.regs, .queue, .power, .tally, .crown, .peer, .observe, .out, .noticeSeq, .fresh] s) rfl).same .sched rfl

@[simp] theorem retireJob_ports (j : Job) (state : Nat) (s : State) : (retireJob s j state).ports = s.ports :=
  (retireJob_acts _ _ (Acts.refl [.regs, .queue, .power, .tally, .crown, .peer, .observe, .out, .noticeSeq, .fresh] s) rfl).same .ports rfl

@[simp] theorem retireJob_front (j : Job) (state : Nat) (s : State) : (retireJob s j state).front = s.front :=
  (retireJob_acts _ _ (Acts.refl [.regs, .queue, .power, .tally, .crown, .peer, .observe, .out, .noticeSeq, .fresh] s) rfl).same .front rfl

@[simp] theorem retireJob_flow (j : Job) (state : Nat) (s : State) : (retireJob s j state).flow = s.flow :=
  (retireJob_acts _ _ (Acts.refl [.regs, .queue, .power, .tally, .crown, .peer, .observe, .out, .noticeSeq, .fresh] s) rfl).same .flow rfl

@[simp] theorem retireJob_endpoint (j : Job) (state : Nat) (s : State) : (retireJob s j state).endpoint = s.endpoint :=
  (retireJob_acts _ _ (Acts.refl [.regs, .queue, .power, .tally, .crown, .peer, .observe, .out, .noticeSeq, .fresh] s) rfl).same .endpoint rfl

@[simp] theorem retireJob_pipe (j : Job) (state : Nat) (s : State) : (retireJob s j state).pipe = s.pipe :=
  (retireJob_acts _ _ (Acts.refl [.regs, .queue, .power, .tally, .crown, .peer, .observe, .out, .noticeSeq, .fresh] s) rfl).same .pipe rfl

@[simp] theorem retireJob_slots (j : Job) (state : Nat) (s : State) : (retireJob s j state).slots = s.slots :=
  (retireJob_acts _ _ (Acts.refl [.regs, .queue, .power, .tally, .crown, .peer, .observe, .out, .noticeSeq, .fresh] s) rfl).same .slots rfl

@[simp] theorem retireJob_quant (j : Job) (state : Nat) (s : State) : (retireJob s j state).quant = s.quant :=
  (retireJob_acts _ _ (Acts.refl [.regs, .queue, .power, .tally, .crown, .peer, .observe, .out, .noticeSeq, .fresh] s) rfl).same .quant rfl

@[simp] theorem retireJob_secure (j : Job) (state : Nat) (s : State) : (retireJob s j state).secure = s.secure :=
  (retireJob_acts _ _ (Acts.refl [.regs, .queue, .power, .tally, .crown, .peer, .observe, .out, .noticeSeq, .fresh] s) rfl).same .secure rfl

@[simp] theorem retireJob_log (j : Job) (state : Nat) (s : State) : (retireJob s j state).log = s.log :=
  (retireJob_acts _ _ (Acts.refl [.regs, .queue, .power, .tally, .crown, .peer, .observe, .out, .noticeSeq, .fresh] s) rfl).same .log rfl

@[simp] theorem retireJob_pins (j : Job) (state : Nat) (s : State) : (retireJob s j state).pins = s.pins :=
  (retireJob_acts _ _ (Acts.refl [.regs, .queue, .power, .tally, .crown, .peer, .observe, .out, .noticeSeq, .fresh] s) rfl).same .pins rfl

@[simp] theorem retireJob_hbm (j : Job) (state : Nat) (s : State) : (retireJob s j state).hbm = s.hbm :=
  (retireJob_acts _ _ (Acts.refl [.regs, .queue, .power, .tally, .crown, .peer, .observe, .out, .noticeSeq, .fresh] s) rfl).same .hbm rfl

@[simp] theorem logDue_pending  (s : State) : (logDue s).pending = s.pending :=
  (logDue_acts  (Acts.refl [.log] s) rfl).same .pending rfl

@[simp] theorem logDue_regs  (s : State) : (logDue s).regs = s.regs :=
  (logDue_acts  (Acts.refl [.log] s) rfl).same .regs rfl

@[simp] theorem logDue_dial  (s : State) : (logDue s).dial = s.dial :=
  (logDue_acts  (Acts.refl [.log] s) rfl).same .dial rfl

@[simp] theorem logDue_sched  (s : State) : (logDue s).sched = s.sched :=
  (logDue_acts  (Acts.refl [.log] s) rfl).same .sched rfl

@[simp] theorem logDue_ports  (s : State) : (logDue s).ports = s.ports :=
  (logDue_acts  (Acts.refl [.log] s) rfl).same .ports rfl

@[simp] theorem logDue_front  (s : State) : (logDue s).front = s.front :=
  (logDue_acts  (Acts.refl [.log] s) rfl).same .front rfl

@[simp] theorem logDue_flow  (s : State) : (logDue s).flow = s.flow :=
  (logDue_acts  (Acts.refl [.log] s) rfl).same .flow rfl

@[simp] theorem logDue_endpoint  (s : State) : (logDue s).endpoint = s.endpoint :=
  (logDue_acts  (Acts.refl [.log] s) rfl).same .endpoint rfl

@[simp] theorem logDue_queue  (s : State) : (logDue s).queue = s.queue :=
  (logDue_acts  (Acts.refl [.log] s) rfl).same .queue rfl

@[simp] theorem logDue_pipe  (s : State) : (logDue s).pipe = s.pipe :=
  (logDue_acts  (Acts.refl [.log] s) rfl).same .pipe rfl

@[simp] theorem logDue_slots  (s : State) : (logDue s).slots = s.slots :=
  (logDue_acts  (Acts.refl [.log] s) rfl).same .slots rfl

@[simp] theorem logDue_quant  (s : State) : (logDue s).quant = s.quant :=
  (logDue_acts  (Acts.refl [.log] s) rfl).same .quant rfl

@[simp] theorem logDue_power  (s : State) : (logDue s).power = s.power :=
  (logDue_acts  (Acts.refl [.log] s) rfl).same .power rfl

@[simp] theorem logDue_tally  (s : State) : (logDue s).tally = s.tally :=
  (logDue_acts  (Acts.refl [.log] s) rfl).same .tally rfl

@[simp] theorem logDue_secure  (s : State) : (logDue s).secure = s.secure :=
  (logDue_acts  (Acts.refl [.log] s) rfl).same .secure rfl

@[simp] theorem logDue_crown  (s : State) : (logDue s).crown = s.crown :=
  (logDue_acts  (Acts.refl [.log] s) rfl).same .crown rfl

@[simp] theorem logDue_peer  (s : State) : (logDue s).peer = s.peer :=
  (logDue_acts  (Acts.refl [.log] s) rfl).same .peer rfl

@[simp] theorem logDue_observe  (s : State) : (logDue s).observe = s.observe :=
  (logDue_acts  (Acts.refl [.log] s) rfl).same .observe rfl

@[simp] theorem logDue_pins  (s : State) : (logDue s).pins = s.pins :=
  (logDue_acts  (Acts.refl [.log] s) rfl).same .pins rfl

@[simp] theorem logDue_hbm  (s : State) : (logDue s).hbm = s.hbm :=
  (logDue_acts  (Acts.refl [.log] s) rfl).same .hbm rfl

@[simp] theorem logDue_out  (s : State) : (logDue s).out = s.out :=
  (logDue_acts  (Acts.refl [.log] s) rfl).same .out rfl

@[simp] theorem logDue_noticeSeq  (s : State) : (logDue s).noticeSeq = s.noticeSeq :=
  (logDue_acts  (Acts.refl [.log] s) rfl).same .noticeSeq rfl

@[simp] theorem logDue_fresh  (s : State) : (logDue s).fresh = s.fresh :=
  (logDue_acts  (Acts.refl [.log] s) rfl).same .fresh rfl

@[simp] theorem setDialState_pending (st : Nat) (s : State) : (setDialState s st).pending = s.pending :=
  (setDialState_acts _ (Acts.refl [.regs, .dial] s) rfl).same .pending rfl

@[simp] theorem setDialState_sched (st : Nat) (s : State) : (setDialState s st).sched = s.sched :=
  (setDialState_acts _ (Acts.refl [.regs, .dial] s) rfl).same .sched rfl

@[simp] theorem setDialState_ports (st : Nat) (s : State) : (setDialState s st).ports = s.ports :=
  (setDialState_acts _ (Acts.refl [.regs, .dial] s) rfl).same .ports rfl

@[simp] theorem setDialState_front (st : Nat) (s : State) : (setDialState s st).front = s.front :=
  (setDialState_acts _ (Acts.refl [.regs, .dial] s) rfl).same .front rfl

@[simp] theorem setDialState_flow (st : Nat) (s : State) : (setDialState s st).flow = s.flow :=
  (setDialState_acts _ (Acts.refl [.regs, .dial] s) rfl).same .flow rfl

@[simp] theorem setDialState_endpoint (st : Nat) (s : State) : (setDialState s st).endpoint = s.endpoint :=
  (setDialState_acts _ (Acts.refl [.regs, .dial] s) rfl).same .endpoint rfl

@[simp] theorem setDialState_queue (st : Nat) (s : State) : (setDialState s st).queue = s.queue :=
  (setDialState_acts _ (Acts.refl [.regs, .dial] s) rfl).same .queue rfl

@[simp] theorem setDialState_pipe (st : Nat) (s : State) : (setDialState s st).pipe = s.pipe :=
  (setDialState_acts _ (Acts.refl [.regs, .dial] s) rfl).same .pipe rfl

@[simp] theorem setDialState_slots (st : Nat) (s : State) : (setDialState s st).slots = s.slots :=
  (setDialState_acts _ (Acts.refl [.regs, .dial] s) rfl).same .slots rfl

@[simp] theorem setDialState_quant (st : Nat) (s : State) : (setDialState s st).quant = s.quant :=
  (setDialState_acts _ (Acts.refl [.regs, .dial] s) rfl).same .quant rfl

@[simp] theorem setDialState_power (st : Nat) (s : State) : (setDialState s st).power = s.power :=
  (setDialState_acts _ (Acts.refl [.regs, .dial] s) rfl).same .power rfl

@[simp] theorem setDialState_tally (st : Nat) (s : State) : (setDialState s st).tally = s.tally :=
  (setDialState_acts _ (Acts.refl [.regs, .dial] s) rfl).same .tally rfl

@[simp] theorem setDialState_secure (st : Nat) (s : State) : (setDialState s st).secure = s.secure :=
  (setDialState_acts _ (Acts.refl [.regs, .dial] s) rfl).same .secure rfl

@[simp] theorem setDialState_crown (st : Nat) (s : State) : (setDialState s st).crown = s.crown :=
  (setDialState_acts _ (Acts.refl [.regs, .dial] s) rfl).same .crown rfl

@[simp] theorem setDialState_peer (st : Nat) (s : State) : (setDialState s st).peer = s.peer :=
  (setDialState_acts _ (Acts.refl [.regs, .dial] s) rfl).same .peer rfl

@[simp] theorem setDialState_observe (st : Nat) (s : State) : (setDialState s st).observe = s.observe :=
  (setDialState_acts _ (Acts.refl [.regs, .dial] s) rfl).same .observe rfl

@[simp] theorem setDialState_log (st : Nat) (s : State) : (setDialState s st).log = s.log :=
  (setDialState_acts _ (Acts.refl [.regs, .dial] s) rfl).same .log rfl

@[simp] theorem setDialState_pins (st : Nat) (s : State) : (setDialState s st).pins = s.pins :=
  (setDialState_acts _ (Acts.refl [.regs, .dial] s) rfl).same .pins rfl

@[simp] theorem setDialState_hbm (st : Nat) (s : State) : (setDialState s st).hbm = s.hbm :=
  (setDialState_acts _ (Acts.refl [.regs, .dial] s) rfl).same .hbm rfl

@[simp] theorem setDialState_out (st : Nat) (s : State) : (setDialState s st).out = s.out :=
  (setDialState_acts _ (Acts.refl [.regs, .dial] s) rfl).same .out rfl

@[simp] theorem setDialState_noticeSeq (st : Nat) (s : State) : (setDialState s st).noticeSeq = s.noticeSeq :=
  (setDialState_acts _ (Acts.refl [.regs, .dial] s) rfl).same .noticeSeq rfl

@[simp] theorem setDialState_fresh (st : Nat) (s : State) : (setDialState s st).fresh = s.fresh :=
  (setDialState_acts _ (Acts.refl [.regs, .dial] s) rfl).same .fresh rfl

@[simp] theorem accountLock_pending  (s : State) : (accountLock s).pending = s.pending :=
  (accountLock_acts  (Acts.refl [.dial] s) rfl).same .pending rfl

@[simp] theorem accountLock_regs  (s : State) : (accountLock s).regs = s.regs :=
  (accountLock_acts  (Acts.refl [.dial] s) rfl).same .regs rfl

@[simp] theorem accountLock_sched  (s : State) : (accountLock s).sched = s.sched :=
  (accountLock_acts  (Acts.refl [.dial] s) rfl).same .sched rfl

@[simp] theorem accountLock_ports  (s : State) : (accountLock s).ports = s.ports :=
  (accountLock_acts  (Acts.refl [.dial] s) rfl).same .ports rfl

@[simp] theorem accountLock_front  (s : State) : (accountLock s).front = s.front :=
  (accountLock_acts  (Acts.refl [.dial] s) rfl).same .front rfl

@[simp] theorem accountLock_flow  (s : State) : (accountLock s).flow = s.flow :=
  (accountLock_acts  (Acts.refl [.dial] s) rfl).same .flow rfl

@[simp] theorem accountLock_endpoint  (s : State) : (accountLock s).endpoint = s.endpoint :=
  (accountLock_acts  (Acts.refl [.dial] s) rfl).same .endpoint rfl

@[simp] theorem accountLock_queue  (s : State) : (accountLock s).queue = s.queue :=
  (accountLock_acts  (Acts.refl [.dial] s) rfl).same .queue rfl

@[simp] theorem accountLock_pipe  (s : State) : (accountLock s).pipe = s.pipe :=
  (accountLock_acts  (Acts.refl [.dial] s) rfl).same .pipe rfl

@[simp] theorem accountLock_slots  (s : State) : (accountLock s).slots = s.slots :=
  (accountLock_acts  (Acts.refl [.dial] s) rfl).same .slots rfl

@[simp] theorem accountLock_quant  (s : State) : (accountLock s).quant = s.quant :=
  (accountLock_acts  (Acts.refl [.dial] s) rfl).same .quant rfl

@[simp] theorem accountLock_power  (s : State) : (accountLock s).power = s.power :=
  (accountLock_acts  (Acts.refl [.dial] s) rfl).same .power rfl

@[simp] theorem accountLock_tally  (s : State) : (accountLock s).tally = s.tally :=
  (accountLock_acts  (Acts.refl [.dial] s) rfl).same .tally rfl

@[simp] theorem accountLock_secure  (s : State) : (accountLock s).secure = s.secure :=
  (accountLock_acts  (Acts.refl [.dial] s) rfl).same .secure rfl

@[simp] theorem accountLock_crown  (s : State) : (accountLock s).crown = s.crown :=
  (accountLock_acts  (Acts.refl [.dial] s) rfl).same .crown rfl

@[simp] theorem accountLock_peer  (s : State) : (accountLock s).peer = s.peer :=
  (accountLock_acts  (Acts.refl [.dial] s) rfl).same .peer rfl

@[simp] theorem accountLock_observe  (s : State) : (accountLock s).observe = s.observe :=
  (accountLock_acts  (Acts.refl [.dial] s) rfl).same .observe rfl

@[simp] theorem accountLock_log  (s : State) : (accountLock s).log = s.log :=
  (accountLock_acts  (Acts.refl [.dial] s) rfl).same .log rfl

@[simp] theorem accountLock_pins  (s : State) : (accountLock s).pins = s.pins :=
  (accountLock_acts  (Acts.refl [.dial] s) rfl).same .pins rfl

@[simp] theorem accountLock_hbm  (s : State) : (accountLock s).hbm = s.hbm :=
  (accountLock_acts  (Acts.refl [.dial] s) rfl).same .hbm rfl

@[simp] theorem accountLock_out  (s : State) : (accountLock s).out = s.out :=
  (accountLock_acts  (Acts.refl [.dial] s) rfl).same .out rfl

@[simp] theorem accountLock_noticeSeq  (s : State) : (accountLock s).noticeSeq = s.noticeSeq :=
  (accountLock_acts  (Acts.refl [.dial] s) rfl).same .noticeSeq rfl

@[simp] theorem accountLock_fresh  (s : State) : (accountLock s).fresh = s.fresh :=
  (accountLock_acts  (Acts.refl [.dial] s) rfl).same .fresh rfl

@[simp] theorem loseSource_pending (src : Nat) (s : State) : (loseSource s src).pending = s.pending :=
  (loseSource_acts _ (Acts.refl [.regs, .dial, .queue, .power, .observe, .pins, .noticeSeq, .fresh] s) rfl).same .pending rfl

@[simp] theorem loseSource_sched (src : Nat) (s : State) : (loseSource s src).sched = s.sched :=
  (loseSource_acts _ (Acts.refl [.regs, .dial, .queue, .power, .observe, .pins, .noticeSeq, .fresh] s) rfl).same .sched rfl

@[simp] theorem loseSource_ports (src : Nat) (s : State) : (loseSource s src).ports = s.ports :=
  (loseSource_acts _ (Acts.refl [.regs, .dial, .queue, .power, .observe, .pins, .noticeSeq, .fresh] s) rfl).same .ports rfl

@[simp] theorem loseSource_front (src : Nat) (s : State) : (loseSource s src).front = s.front :=
  (loseSource_acts _ (Acts.refl [.regs, .dial, .queue, .power, .observe, .pins, .noticeSeq, .fresh] s) rfl).same .front rfl

@[simp] theorem loseSource_flow (src : Nat) (s : State) : (loseSource s src).flow = s.flow :=
  (loseSource_acts _ (Acts.refl [.regs, .dial, .queue, .power, .observe, .pins, .noticeSeq, .fresh] s) rfl).same .flow rfl

@[simp] theorem loseSource_endpoint (src : Nat) (s : State) : (loseSource s src).endpoint = s.endpoint :=
  (loseSource_acts _ (Acts.refl [.regs, .dial, .queue, .power, .observe, .pins, .noticeSeq, .fresh] s) rfl).same .endpoint rfl

@[simp] theorem loseSource_pipe (src : Nat) (s : State) : (loseSource s src).pipe = s.pipe :=
  (loseSource_acts _ (Acts.refl [.regs, .dial, .queue, .power, .observe, .pins, .noticeSeq, .fresh] s) rfl).same .pipe rfl

@[simp] theorem loseSource_slots (src : Nat) (s : State) : (loseSource s src).slots = s.slots :=
  (loseSource_acts _ (Acts.refl [.regs, .dial, .queue, .power, .observe, .pins, .noticeSeq, .fresh] s) rfl).same .slots rfl

@[simp] theorem loseSource_quant (src : Nat) (s : State) : (loseSource s src).quant = s.quant :=
  (loseSource_acts _ (Acts.refl [.regs, .dial, .queue, .power, .observe, .pins, .noticeSeq, .fresh] s) rfl).same .quant rfl

@[simp] theorem loseSource_tally (src : Nat) (s : State) : (loseSource s src).tally = s.tally :=
  (loseSource_acts _ (Acts.refl [.regs, .dial, .queue, .power, .observe, .pins, .noticeSeq, .fresh] s) rfl).same .tally rfl

@[simp] theorem loseSource_secure (src : Nat) (s : State) : (loseSource s src).secure = s.secure :=
  (loseSource_acts _ (Acts.refl [.regs, .dial, .queue, .power, .observe, .pins, .noticeSeq, .fresh] s) rfl).same .secure rfl

@[simp] theorem loseSource_crown (src : Nat) (s : State) : (loseSource s src).crown = s.crown :=
  (loseSource_acts _ (Acts.refl [.regs, .dial, .queue, .power, .observe, .pins, .noticeSeq, .fresh] s) rfl).same .crown rfl

@[simp] theorem loseSource_peer (src : Nat) (s : State) : (loseSource s src).peer = s.peer :=
  (loseSource_acts _ (Acts.refl [.regs, .dial, .queue, .power, .observe, .pins, .noticeSeq, .fresh] s) rfl).same .peer rfl

@[simp] theorem loseSource_log (src : Nat) (s : State) : (loseSource s src).log = s.log :=
  (loseSource_acts _ (Acts.refl [.regs, .dial, .queue, .power, .observe, .pins, .noticeSeq, .fresh] s) rfl).same .log rfl

@[simp] theorem loseSource_hbm (src : Nat) (s : State) : (loseSource s src).hbm = s.hbm :=
  (loseSource_acts _ (Acts.refl [.regs, .dial, .queue, .power, .observe, .pins, .noticeSeq, .fresh] s) rfl).same .hbm rfl

@[simp] theorem loseSource_out (src : Nat) (s : State) : (loseSource s src).out = s.out :=
  (loseSource_acts _ (Acts.refl [.regs, .dial, .queue, .power, .observe, .pins, .noticeSeq, .fresh] s) rfl).same .out rfl

@[simp] theorem todError_pending (f : Field) (s : State) : (todError s f).pending = s.pending :=
  (todError_acts _ (Acts.refl [.regs, .queue, .observe, .noticeSeq] s) rfl).same .pending rfl

@[simp] theorem todError_dial (f : Field) (s : State) : (todError s f).dial = s.dial :=
  (todError_acts _ (Acts.refl [.regs, .queue, .observe, .noticeSeq] s) rfl).same .dial rfl

@[simp] theorem todError_sched (f : Field) (s : State) : (todError s f).sched = s.sched :=
  (todError_acts _ (Acts.refl [.regs, .queue, .observe, .noticeSeq] s) rfl).same .sched rfl

@[simp] theorem todError_ports (f : Field) (s : State) : (todError s f).ports = s.ports :=
  (todError_acts _ (Acts.refl [.regs, .queue, .observe, .noticeSeq] s) rfl).same .ports rfl

@[simp] theorem todError_front (f : Field) (s : State) : (todError s f).front = s.front :=
  (todError_acts _ (Acts.refl [.regs, .queue, .observe, .noticeSeq] s) rfl).same .front rfl

@[simp] theorem todError_flow (f : Field) (s : State) : (todError s f).flow = s.flow :=
  (todError_acts _ (Acts.refl [.regs, .queue, .observe, .noticeSeq] s) rfl).same .flow rfl

@[simp] theorem todError_endpoint (f : Field) (s : State) : (todError s f).endpoint = s.endpoint :=
  (todError_acts _ (Acts.refl [.regs, .queue, .observe, .noticeSeq] s) rfl).same .endpoint rfl

@[simp] theorem todError_pipe (f : Field) (s : State) : (todError s f).pipe = s.pipe :=
  (todError_acts _ (Acts.refl [.regs, .queue, .observe, .noticeSeq] s) rfl).same .pipe rfl

@[simp] theorem todError_slots (f : Field) (s : State) : (todError s f).slots = s.slots :=
  (todError_acts _ (Acts.refl [.regs, .queue, .observe, .noticeSeq] s) rfl).same .slots rfl

@[simp] theorem todError_quant (f : Field) (s : State) : (todError s f).quant = s.quant :=
  (todError_acts _ (Acts.refl [.regs, .queue, .observe, .noticeSeq] s) rfl).same .quant rfl

@[simp] theorem todError_power (f : Field) (s : State) : (todError s f).power = s.power :=
  (todError_acts _ (Acts.refl [.regs, .queue, .observe, .noticeSeq] s) rfl).same .power rfl

@[simp] theorem todError_tally (f : Field) (s : State) : (todError s f).tally = s.tally :=
  (todError_acts _ (Acts.refl [.regs, .queue, .observe, .noticeSeq] s) rfl).same .tally rfl

@[simp] theorem todError_secure (f : Field) (s : State) : (todError s f).secure = s.secure :=
  (todError_acts _ (Acts.refl [.regs, .queue, .observe, .noticeSeq] s) rfl).same .secure rfl

@[simp] theorem todError_crown (f : Field) (s : State) : (todError s f).crown = s.crown :=
  (todError_acts _ (Acts.refl [.regs, .queue, .observe, .noticeSeq] s) rfl).same .crown rfl

@[simp] theorem todError_peer (f : Field) (s : State) : (todError s f).peer = s.peer :=
  (todError_acts _ (Acts.refl [.regs, .queue, .observe, .noticeSeq] s) rfl).same .peer rfl

@[simp] theorem todError_log (f : Field) (s : State) : (todError s f).log = s.log :=
  (todError_acts _ (Acts.refl [.regs, .queue, .observe, .noticeSeq] s) rfl).same .log rfl

@[simp] theorem todError_pins (f : Field) (s : State) : (todError s f).pins = s.pins :=
  (todError_acts _ (Acts.refl [.regs, .queue, .observe, .noticeSeq] s) rfl).same .pins rfl

@[simp] theorem todError_hbm (f : Field) (s : State) : (todError s f).hbm = s.hbm :=
  (todError_acts _ (Acts.refl [.regs, .queue, .observe, .noticeSeq] s) rfl).same .hbm rfl

@[simp] theorem todError_out (f : Field) (s : State) : (todError s f).out = s.out :=
  (todError_acts _ (Acts.refl [.regs, .queue, .observe, .noticeSeq] s) rfl).same .out rfl

@[simp] theorem todError_fresh (f : Field) (s : State) : (todError s f).fresh = s.fresh :=
  (todError_acts _ (Acts.refl [.regs, .queue, .observe, .noticeSeq] s) rfl).same .fresh rfl

@[simp] theorem checkPtp_pending  (s : State) : (checkPtp s).pending = s.pending :=
  (checkPtp_acts  (Acts.refl [.regs, .dial, .queue, .power, .observe, .pins, .noticeSeq, .fresh] s) rfl).same .pending rfl

@[simp] theorem checkPtp_sched  (s : State) : (checkPtp s).sched = s.sched :=
  (checkPtp_acts  (Acts.refl [.regs, .dial, .queue, .power, .observe, .pins, .noticeSeq, .fresh] s) rfl).same .sched rfl

@[simp] theorem checkPtp_ports  (s : State) : (checkPtp s).ports = s.ports :=
  (checkPtp_acts  (Acts.refl [.regs, .dial, .queue, .power, .observe, .pins, .noticeSeq, .fresh] s) rfl).same .ports rfl

@[simp] theorem checkPtp_front  (s : State) : (checkPtp s).front = s.front :=
  (checkPtp_acts  (Acts.refl [.regs, .dial, .queue, .power, .observe, .pins, .noticeSeq, .fresh] s) rfl).same .front rfl

@[simp] theorem checkPtp_flow  (s : State) : (checkPtp s).flow = s.flow :=
  (checkPtp_acts  (Acts.refl [.regs, .dial, .queue, .power, .observe, .pins, .noticeSeq, .fresh] s) rfl).same .flow rfl

@[simp] theorem checkPtp_endpoint  (s : State) : (checkPtp s).endpoint = s.endpoint :=
  (checkPtp_acts  (Acts.refl [.regs, .dial, .queue, .power, .observe, .pins, .noticeSeq, .fresh] s) rfl).same .endpoint rfl

@[simp] theorem checkPtp_pipe  (s : State) : (checkPtp s).pipe = s.pipe :=
  (checkPtp_acts  (Acts.refl [.regs, .dial, .queue, .power, .observe, .pins, .noticeSeq, .fresh] s) rfl).same .pipe rfl

@[simp] theorem checkPtp_slots  (s : State) : (checkPtp s).slots = s.slots :=
  (checkPtp_acts  (Acts.refl [.regs, .dial, .queue, .power, .observe, .pins, .noticeSeq, .fresh] s) rfl).same .slots rfl

@[simp] theorem checkPtp_quant  (s : State) : (checkPtp s).quant = s.quant :=
  (checkPtp_acts  (Acts.refl [.regs, .dial, .queue, .power, .observe, .pins, .noticeSeq, .fresh] s) rfl).same .quant rfl

@[simp] theorem checkPtp_tally  (s : State) : (checkPtp s).tally = s.tally :=
  (checkPtp_acts  (Acts.refl [.regs, .dial, .queue, .power, .observe, .pins, .noticeSeq, .fresh] s) rfl).same .tally rfl

@[simp] theorem checkPtp_secure  (s : State) : (checkPtp s).secure = s.secure :=
  (checkPtp_acts  (Acts.refl [.regs, .dial, .queue, .power, .observe, .pins, .noticeSeq, .fresh] s) rfl).same .secure rfl

@[simp] theorem checkPtp_crown  (s : State) : (checkPtp s).crown = s.crown :=
  (checkPtp_acts  (Acts.refl [.regs, .dial, .queue, .power, .observe, .pins, .noticeSeq, .fresh] s) rfl).same .crown rfl

@[simp] theorem checkPtp_peer  (s : State) : (checkPtp s).peer = s.peer :=
  (checkPtp_acts  (Acts.refl [.regs, .dial, .queue, .power, .observe, .pins, .noticeSeq, .fresh] s) rfl).same .peer rfl

@[simp] theorem checkPtp_log  (s : State) : (checkPtp s).log = s.log :=
  (checkPtp_acts  (Acts.refl [.regs, .dial, .queue, .power, .observe, .pins, .noticeSeq, .fresh] s) rfl).same .log rfl

@[simp] theorem checkPtp_hbm  (s : State) : (checkPtp s).hbm = s.hbm :=
  (checkPtp_acts  (Acts.refl [.regs, .dial, .queue, .power, .observe, .pins, .noticeSeq, .fresh] s) rfl).same .hbm rfl

@[simp] theorem checkPtp_out  (s : State) : (checkPtp s).out = s.out :=
  (checkPtp_acts  (Acts.refl [.regs, .dial, .queue, .power, .observe, .pins, .noticeSeq, .fresh] s) rfl).same .out rfl

@[simp] theorem writeRegister_pending (a : Nat) (value : Nat) (s : State) : (writeRegister s a value).pending = s.pending :=
  (writeRegister_acts _ _ (Acts.refl [.regs, .sched, .ports, .front, .flow, .endpoint, .queue, .pipe, .slots, .quant, .power, .tally, .secure, .crown, .peer, .observe, .log, .out, .noticeSeq, .fresh] s) rfl).same .pending rfl

@[simp] theorem writeRegister_dial (a : Nat) (value : Nat) (s : State) : (writeRegister s a value).dial = s.dial :=
  (writeRegister_acts _ _ (Acts.refl [.regs, .sched, .ports, .front, .flow, .endpoint, .queue, .pipe, .slots, .quant, .power, .tally, .secure, .crown, .peer, .observe, .log, .out, .noticeSeq, .fresh] s) rfl).same .dial rfl

@[simp] theorem writeRegister_pins (a : Nat) (value : Nat) (s : State) : (writeRegister s a value).pins = s.pins :=
  (writeRegister_acts _ _ (Acts.refl [.regs, .sched, .ports, .front, .flow, .endpoint, .queue, .pipe, .slots, .quant, .power, .tally, .secure, .crown, .peer, .observe, .log, .out, .noticeSeq, .fresh] s) rfl).same .pins rfl

@[simp] theorem writeRegister_hbm (a : Nat) (value : Nat) (s : State) : (writeRegister s a value).hbm = s.hbm :=
  (writeRegister_acts _ _ (Acts.refl [.regs, .sched, .ports, .front, .flow, .endpoint, .queue, .pipe, .slots, .quant, .power, .tally, .secure, .crown, .peer, .observe, .log, .out, .noticeSeq, .fresh] s) rfl).same .hbm rfl

@[simp] theorem crownRequest_pending (r : Sys2Proof.Request) (op : Nat) (payload : Sys2Proof.Bytes) (s : State) : (crownRequest s r op payload).pending = s.pending :=
  (crownRequest_acts _ _ _ (Acts.refl [.regs, .sched, .ports, .front, .flow, .endpoint, .queue, .pipe, .slots, .quant, .power, .tally, .secure, .crown, .peer, .observe, .log, .out, .noticeSeq, .fresh] s) rfl).same .pending rfl

@[simp] theorem crownRequest_dial (r : Sys2Proof.Request) (op : Nat) (payload : Sys2Proof.Bytes) (s : State) : (crownRequest s r op payload).dial = s.dial :=
  (crownRequest_acts _ _ _ (Acts.refl [.regs, .sched, .ports, .front, .flow, .endpoint, .queue, .pipe, .slots, .quant, .power, .tally, .secure, .crown, .peer, .observe, .log, .out, .noticeSeq, .fresh] s) rfl).same .dial rfl

@[simp] theorem crownRequest_pins (r : Sys2Proof.Request) (op : Nat) (payload : Sys2Proof.Bytes) (s : State) : (crownRequest s r op payload).pins = s.pins :=
  (crownRequest_acts _ _ _ (Acts.refl [.regs, .sched, .ports, .front, .flow, .endpoint, .queue, .pipe, .slots, .quant, .power, .tally, .secure, .crown, .peer, .observe, .log, .out, .noticeSeq, .fresh] s) rfl).same .pins rfl

@[simp] theorem crownRequest_hbm (r : Sys2Proof.Request) (op : Nat) (payload : Sys2Proof.Bytes) (s : State) : (crownRequest s r op payload).hbm = s.hbm :=
  (crownRequest_acts _ _ _ (Acts.refl [.regs, .sched, .ports, .front, .flow, .endpoint, .queue, .pipe, .slots, .quant, .power, .tally, .secure, .crown, .peer, .observe, .log, .out, .noticeSeq, .fresh] s) rfl).same .hbm rfl

@[simp] theorem retireOp_pending (j : Job) (result : Nat) (data : Sys2Proof.Bytes) (s : State) : (retireOp s j result data).pending = s.pending :=
  (retireOp_acts _ _ _ (Acts.refl [.tally, .crown] s) rfl).same .pending rfl

@[simp] theorem retireOp_regs (j : Job) (result : Nat) (data : Sys2Proof.Bytes) (s : State) : (retireOp s j result data).regs = s.regs :=
  (retireOp_acts _ _ _ (Acts.refl [.tally, .crown] s) rfl).same .regs rfl

@[simp] theorem retireOp_dial (j : Job) (result : Nat) (data : Sys2Proof.Bytes) (s : State) : (retireOp s j result data).dial = s.dial :=
  (retireOp_acts _ _ _ (Acts.refl [.tally, .crown] s) rfl).same .dial rfl

@[simp] theorem retireOp_sched (j : Job) (result : Nat) (data : Sys2Proof.Bytes) (s : State) : (retireOp s j result data).sched = s.sched :=
  (retireOp_acts _ _ _ (Acts.refl [.tally, .crown] s) rfl).same .sched rfl

@[simp] theorem retireOp_ports (j : Job) (result : Nat) (data : Sys2Proof.Bytes) (s : State) : (retireOp s j result data).ports = s.ports :=
  (retireOp_acts _ _ _ (Acts.refl [.tally, .crown] s) rfl).same .ports rfl

@[simp] theorem retireOp_front (j : Job) (result : Nat) (data : Sys2Proof.Bytes) (s : State) : (retireOp s j result data).front = s.front :=
  (retireOp_acts _ _ _ (Acts.refl [.tally, .crown] s) rfl).same .front rfl

@[simp] theorem retireOp_flow (j : Job) (result : Nat) (data : Sys2Proof.Bytes) (s : State) : (retireOp s j result data).flow = s.flow :=
  (retireOp_acts _ _ _ (Acts.refl [.tally, .crown] s) rfl).same .flow rfl

@[simp] theorem retireOp_endpoint (j : Job) (result : Nat) (data : Sys2Proof.Bytes) (s : State) : (retireOp s j result data).endpoint = s.endpoint :=
  (retireOp_acts _ _ _ (Acts.refl [.tally, .crown] s) rfl).same .endpoint rfl

@[simp] theorem retireOp_queue (j : Job) (result : Nat) (data : Sys2Proof.Bytes) (s : State) : (retireOp s j result data).queue = s.queue :=
  (retireOp_acts _ _ _ (Acts.refl [.tally, .crown] s) rfl).same .queue rfl

@[simp] theorem retireOp_pipe (j : Job) (result : Nat) (data : Sys2Proof.Bytes) (s : State) : (retireOp s j result data).pipe = s.pipe :=
  (retireOp_acts _ _ _ (Acts.refl [.tally, .crown] s) rfl).same .pipe rfl

@[simp] theorem retireOp_slots (j : Job) (result : Nat) (data : Sys2Proof.Bytes) (s : State) : (retireOp s j result data).slots = s.slots :=
  (retireOp_acts _ _ _ (Acts.refl [.tally, .crown] s) rfl).same .slots rfl

@[simp] theorem retireOp_quant (j : Job) (result : Nat) (data : Sys2Proof.Bytes) (s : State) : (retireOp s j result data).quant = s.quant :=
  (retireOp_acts _ _ _ (Acts.refl [.tally, .crown] s) rfl).same .quant rfl

@[simp] theorem retireOp_power (j : Job) (result : Nat) (data : Sys2Proof.Bytes) (s : State) : (retireOp s j result data).power = s.power :=
  (retireOp_acts _ _ _ (Acts.refl [.tally, .crown] s) rfl).same .power rfl

@[simp] theorem retireOp_secure (j : Job) (result : Nat) (data : Sys2Proof.Bytes) (s : State) : (retireOp s j result data).secure = s.secure :=
  (retireOp_acts _ _ _ (Acts.refl [.tally, .crown] s) rfl).same .secure rfl

@[simp] theorem retireOp_peer (j : Job) (result : Nat) (data : Sys2Proof.Bytes) (s : State) : (retireOp s j result data).peer = s.peer :=
  (retireOp_acts _ _ _ (Acts.refl [.tally, .crown] s) rfl).same .peer rfl

@[simp] theorem retireOp_observe (j : Job) (result : Nat) (data : Sys2Proof.Bytes) (s : State) : (retireOp s j result data).observe = s.observe :=
  (retireOp_acts _ _ _ (Acts.refl [.tally, .crown] s) rfl).same .observe rfl

@[simp] theorem retireOp_log (j : Job) (result : Nat) (data : Sys2Proof.Bytes) (s : State) : (retireOp s j result data).log = s.log :=
  (retireOp_acts _ _ _ (Acts.refl [.tally, .crown] s) rfl).same .log rfl

@[simp] theorem retireOp_pins (j : Job) (result : Nat) (data : Sys2Proof.Bytes) (s : State) : (retireOp s j result data).pins = s.pins :=
  (retireOp_acts _ _ _ (Acts.refl [.tally, .crown] s) rfl).same .pins rfl

@[simp] theorem retireOp_hbm (j : Job) (result : Nat) (data : Sys2Proof.Bytes) (s : State) : (retireOp s j result data).hbm = s.hbm :=
  (retireOp_acts _ _ _ (Acts.refl [.tally, .crown] s) rfl).same .hbm rfl

@[simp] theorem retireOp_out (j : Job) (result : Nat) (data : Sys2Proof.Bytes) (s : State) : (retireOp s j result data).out = s.out :=
  (retireOp_acts _ _ _ (Acts.refl [.tally, .crown] s) rfl).same .out rfl

@[simp] theorem retireOp_noticeSeq (j : Job) (result : Nat) (data : Sys2Proof.Bytes) (s : State) : (retireOp s j result data).noticeSeq = s.noticeSeq :=
  (retireOp_acts _ _ _ (Acts.refl [.tally, .crown] s) rfl).same .noticeSeq rfl

@[simp] theorem retireOp_fresh (j : Job) (result : Nat) (data : Sys2Proof.Bytes) (s : State) : (retireOp s j result data).fresh = s.fresh :=
  (retireOp_acts _ _ _ (Acts.refl [.tally, .crown] s) rfl).same .fresh rfl

@[simp] theorem tableOp_pending (id : Nat) (code : Nat) (faults : List Sys2Proof.FaultEv) (s : State) : (tableOp s id code faults).pending = s.pending :=
  (tableOp_acts _ _ _ (Acts.refl [.regs, .sched, .front, .flow, .endpoint, .queue, .pipe, .slots, .tally, .crown, .observe, .log, .hbm, .noticeSeq] s) rfl).same .pending rfl

@[simp] theorem tableOp_dial (id : Nat) (code : Nat) (faults : List Sys2Proof.FaultEv) (s : State) : (tableOp s id code faults).dial = s.dial :=
  (tableOp_acts _ _ _ (Acts.refl [.regs, .sched, .front, .flow, .endpoint, .queue, .pipe, .slots, .tally, .crown, .observe, .log, .hbm, .noticeSeq] s) rfl).same .dial rfl

@[simp] theorem tableOp_ports (id : Nat) (code : Nat) (faults : List Sys2Proof.FaultEv) (s : State) : (tableOp s id code faults).ports = s.ports :=
  (tableOp_acts _ _ _ (Acts.refl [.regs, .sched, .front, .flow, .endpoint, .queue, .pipe, .slots, .tally, .crown, .observe, .log, .hbm, .noticeSeq] s) rfl).same .ports rfl

@[simp] theorem tableOp_quant (id : Nat) (code : Nat) (faults : List Sys2Proof.FaultEv) (s : State) : (tableOp s id code faults).quant = s.quant :=
  (tableOp_acts _ _ _ (Acts.refl [.regs, .sched, .front, .flow, .endpoint, .queue, .pipe, .slots, .tally, .crown, .observe, .log, .hbm, .noticeSeq] s) rfl).same .quant rfl

@[simp] theorem tableOp_power (id : Nat) (code : Nat) (faults : List Sys2Proof.FaultEv) (s : State) : (tableOp s id code faults).power = s.power :=
  (tableOp_acts _ _ _ (Acts.refl [.regs, .sched, .front, .flow, .endpoint, .queue, .pipe, .slots, .tally, .crown, .observe, .log, .hbm, .noticeSeq] s) rfl).same .power rfl

@[simp] theorem tableOp_secure (id : Nat) (code : Nat) (faults : List Sys2Proof.FaultEv) (s : State) : (tableOp s id code faults).secure = s.secure :=
  (tableOp_acts _ _ _ (Acts.refl [.regs, .sched, .front, .flow, .endpoint, .queue, .pipe, .slots, .tally, .crown, .observe, .log, .hbm, .noticeSeq] s) rfl).same .secure rfl

@[simp] theorem tableOp_peer (id : Nat) (code : Nat) (faults : List Sys2Proof.FaultEv) (s : State) : (tableOp s id code faults).peer = s.peer :=
  (tableOp_acts _ _ _ (Acts.refl [.regs, .sched, .front, .flow, .endpoint, .queue, .pipe, .slots, .tally, .crown, .observe, .log, .hbm, .noticeSeq] s) rfl).same .peer rfl

@[simp] theorem tableOp_pins (id : Nat) (code : Nat) (faults : List Sys2Proof.FaultEv) (s : State) : (tableOp s id code faults).pins = s.pins :=
  (tableOp_acts _ _ _ (Acts.refl [.regs, .sched, .front, .flow, .endpoint, .queue, .pipe, .slots, .tally, .crown, .observe, .log, .hbm, .noticeSeq] s) rfl).same .pins rfl

@[simp] theorem tableOp_out (id : Nat) (code : Nat) (faults : List Sys2Proof.FaultEv) (s : State) : (tableOp s id code faults).out = s.out :=
  (tableOp_acts _ _ _ (Acts.refl [.regs, .sched, .front, .flow, .endpoint, .queue, .pipe, .slots, .tally, .crown, .observe, .log, .hbm, .noticeSeq] s) rfl).same .out rfl

@[simp] theorem tableOp_fresh (id : Nat) (code : Nat) (faults : List Sys2Proof.FaultEv) (s : State) : (tableOp s id code faults).fresh = s.fresh :=
  (tableOp_acts _ _ _ (Acts.refl [.regs, .sched, .front, .flow, .endpoint, .queue, .pipe, .slots, .tally, .crown, .observe, .log, .hbm, .noticeSeq] s) rfl).same .fresh rfl

@[simp] theorem stepDone_pending (k : Nat) (s : State) : (stepDone s k).1.pending = s.pending :=
  (stepDone_acts _ (Acts.refl [.regs] s) rfl).same .pending rfl

@[simp] theorem stepDone_dial (k : Nat) (s : State) : (stepDone s k).1.dial = s.dial :=
  (stepDone_acts _ (Acts.refl [.regs] s) rfl).same .dial rfl

@[simp] theorem stepDone_sched (k : Nat) (s : State) : (stepDone s k).1.sched = s.sched :=
  (stepDone_acts _ (Acts.refl [.regs] s) rfl).same .sched rfl

@[simp] theorem stepDone_ports (k : Nat) (s : State) : (stepDone s k).1.ports = s.ports :=
  (stepDone_acts _ (Acts.refl [.regs] s) rfl).same .ports rfl

@[simp] theorem stepDone_front (k : Nat) (s : State) : (stepDone s k).1.front = s.front :=
  (stepDone_acts _ (Acts.refl [.regs] s) rfl).same .front rfl

@[simp] theorem stepDone_flow (k : Nat) (s : State) : (stepDone s k).1.flow = s.flow :=
  (stepDone_acts _ (Acts.refl [.regs] s) rfl).same .flow rfl

@[simp] theorem stepDone_endpoint (k : Nat) (s : State) : (stepDone s k).1.endpoint = s.endpoint :=
  (stepDone_acts _ (Acts.refl [.regs] s) rfl).same .endpoint rfl

@[simp] theorem stepDone_queue (k : Nat) (s : State) : (stepDone s k).1.queue = s.queue :=
  (stepDone_acts _ (Acts.refl [.regs] s) rfl).same .queue rfl

@[simp] theorem stepDone_pipe (k : Nat) (s : State) : (stepDone s k).1.pipe = s.pipe :=
  (stepDone_acts _ (Acts.refl [.regs] s) rfl).same .pipe rfl

@[simp] theorem stepDone_slots (k : Nat) (s : State) : (stepDone s k).1.slots = s.slots :=
  (stepDone_acts _ (Acts.refl [.regs] s) rfl).same .slots rfl

@[simp] theorem stepDone_quant (k : Nat) (s : State) : (stepDone s k).1.quant = s.quant :=
  (stepDone_acts _ (Acts.refl [.regs] s) rfl).same .quant rfl

@[simp] theorem stepDone_power (k : Nat) (s : State) : (stepDone s k).1.power = s.power :=
  (stepDone_acts _ (Acts.refl [.regs] s) rfl).same .power rfl

@[simp] theorem stepDone_tally (k : Nat) (s : State) : (stepDone s k).1.tally = s.tally :=
  (stepDone_acts _ (Acts.refl [.regs] s) rfl).same .tally rfl

@[simp] theorem stepDone_secure (k : Nat) (s : State) : (stepDone s k).1.secure = s.secure :=
  (stepDone_acts _ (Acts.refl [.regs] s) rfl).same .secure rfl

@[simp] theorem stepDone_crown (k : Nat) (s : State) : (stepDone s k).1.crown = s.crown :=
  (stepDone_acts _ (Acts.refl [.regs] s) rfl).same .crown rfl

@[simp] theorem stepDone_peer (k : Nat) (s : State) : (stepDone s k).1.peer = s.peer :=
  (stepDone_acts _ (Acts.refl [.regs] s) rfl).same .peer rfl

@[simp] theorem stepDone_observe (k : Nat) (s : State) : (stepDone s k).1.observe = s.observe :=
  (stepDone_acts _ (Acts.refl [.regs] s) rfl).same .observe rfl

@[simp] theorem stepDone_log (k : Nat) (s : State) : (stepDone s k).1.log = s.log :=
  (stepDone_acts _ (Acts.refl [.regs] s) rfl).same .log rfl

@[simp] theorem stepDone_pins (k : Nat) (s : State) : (stepDone s k).1.pins = s.pins :=
  (stepDone_acts _ (Acts.refl [.regs] s) rfl).same .pins rfl

@[simp] theorem stepDone_hbm (k : Nat) (s : State) : (stepDone s k).1.hbm = s.hbm :=
  (stepDone_acts _ (Acts.refl [.regs] s) rfl).same .hbm rfl

@[simp] theorem stepDone_out (k : Nat) (s : State) : (stepDone s k).1.out = s.out :=
  (stepDone_acts _ (Acts.refl [.regs] s) rfl).same .out rfl

@[simp] theorem stepDone_noticeSeq (k : Nat) (s : State) : (stepDone s k).1.noticeSeq = s.noticeSeq :=
  (stepDone_acts _ (Acts.refl [.regs] s) rfl).same .noticeSeq rfl

@[simp] theorem stepDone_fresh (k : Nat) (s : State) : (stepDone s k).1.fresh = s.fresh :=
  (stepDone_acts _ (Acts.refl [.regs] s) rfl).same .fresh rfl

@[simp] theorem domainsOn_pending (ds : List Nat) (s : State) : (domainsOn s ds).pending = s.pending :=
  (domainsOn_acts _ (Acts.refl [.regs, .ports, .queue, .power, .peer, .observe, .noticeSeq] s) rfl).same .pending rfl

@[simp] theorem domainsOn_dial (ds : List Nat) (s : State) : (domainsOn s ds).dial = s.dial :=
  (domainsOn_acts _ (Acts.refl [.regs, .ports, .queue, .power, .peer, .observe, .noticeSeq] s) rfl).same .dial rfl

@[simp] theorem domainsOn_sched (ds : List Nat) (s : State) : (domainsOn s ds).sched = s.sched :=
  (domainsOn_acts _ (Acts.refl [.regs, .ports, .queue, .power, .peer, .observe, .noticeSeq] s) rfl).same .sched rfl

@[simp] theorem domainsOn_front (ds : List Nat) (s : State) : (domainsOn s ds).front = s.front :=
  (domainsOn_acts _ (Acts.refl [.regs, .ports, .queue, .power, .peer, .observe, .noticeSeq] s) rfl).same .front rfl

@[simp] theorem domainsOn_flow (ds : List Nat) (s : State) : (domainsOn s ds).flow = s.flow :=
  (domainsOn_acts _ (Acts.refl [.regs, .ports, .queue, .power, .peer, .observe, .noticeSeq] s) rfl).same .flow rfl

@[simp] theorem domainsOn_endpoint (ds : List Nat) (s : State) : (domainsOn s ds).endpoint = s.endpoint :=
  (domainsOn_acts _ (Acts.refl [.regs, .ports, .queue, .power, .peer, .observe, .noticeSeq] s) rfl).same .endpoint rfl

@[simp] theorem domainsOn_pipe (ds : List Nat) (s : State) : (domainsOn s ds).pipe = s.pipe :=
  (domainsOn_acts _ (Acts.refl [.regs, .ports, .queue, .power, .peer, .observe, .noticeSeq] s) rfl).same .pipe rfl

@[simp] theorem domainsOn_slots (ds : List Nat) (s : State) : (domainsOn s ds).slots = s.slots :=
  (domainsOn_acts _ (Acts.refl [.regs, .ports, .queue, .power, .peer, .observe, .noticeSeq] s) rfl).same .slots rfl

@[simp] theorem domainsOn_quant (ds : List Nat) (s : State) : (domainsOn s ds).quant = s.quant :=
  (domainsOn_acts _ (Acts.refl [.regs, .ports, .queue, .power, .peer, .observe, .noticeSeq] s) rfl).same .quant rfl

@[simp] theorem domainsOn_tally (ds : List Nat) (s : State) : (domainsOn s ds).tally = s.tally :=
  (domainsOn_acts _ (Acts.refl [.regs, .ports, .queue, .power, .peer, .observe, .noticeSeq] s) rfl).same .tally rfl

@[simp] theorem domainsOn_secure (ds : List Nat) (s : State) : (domainsOn s ds).secure = s.secure :=
  (domainsOn_acts _ (Acts.refl [.regs, .ports, .queue, .power, .peer, .observe, .noticeSeq] s) rfl).same .secure rfl

@[simp] theorem domainsOn_crown (ds : List Nat) (s : State) : (domainsOn s ds).crown = s.crown :=
  (domainsOn_acts _ (Acts.refl [.regs, .ports, .queue, .power, .peer, .observe, .noticeSeq] s) rfl).same .crown rfl

@[simp] theorem domainsOn_log (ds : List Nat) (s : State) : (domainsOn s ds).log = s.log :=
  (domainsOn_acts _ (Acts.refl [.regs, .ports, .queue, .power, .peer, .observe, .noticeSeq] s) rfl).same .log rfl

@[simp] theorem domainsOn_pins (ds : List Nat) (s : State) : (domainsOn s ds).pins = s.pins :=
  (domainsOn_acts _ (Acts.refl [.regs, .ports, .queue, .power, .peer, .observe, .noticeSeq] s) rfl).same .pins rfl

@[simp] theorem domainsOn_hbm (ds : List Nat) (s : State) : (domainsOn s ds).hbm = s.hbm :=
  (domainsOn_acts _ (Acts.refl [.regs, .ports, .queue, .power, .peer, .observe, .noticeSeq] s) rfl).same .hbm rfl

@[simp] theorem domainsOn_out (ds : List Nat) (s : State) : (domainsOn s ds).out = s.out :=
  (domainsOn_acts _ (Acts.refl [.regs, .ports, .queue, .power, .peer, .observe, .noticeSeq] s) rfl).same .out rfl

@[simp] theorem domainsOn_fresh (ds : List Nat) (s : State) : (domainsOn s ds).fresh = s.fresh :=
  (domainsOn_acts _ (Acts.refl [.regs, .ports, .queue, .power, .peer, .observe, .noticeSeq] s) rfl).same .fresh rfl

@[simp] theorem nvmFault_pending (lasting : Bool) (s : State) : (nvmFault s lasting).pending = s.pending :=
  (nvmFault_acts _ (Acts.refl [.regs, .sched, .queue, .pipe, .observe, .log, .noticeSeq, .fresh] s) rfl).same .pending rfl

@[simp] theorem nvmFault_dial (lasting : Bool) (s : State) : (nvmFault s lasting).dial = s.dial :=
  (nvmFault_acts _ (Acts.refl [.regs, .sched, .queue, .pipe, .observe, .log, .noticeSeq, .fresh] s) rfl).same .dial rfl

@[simp] theorem nvmFault_ports (lasting : Bool) (s : State) : (nvmFault s lasting).ports = s.ports :=
  (nvmFault_acts _ (Acts.refl [.regs, .sched, .queue, .pipe, .observe, .log, .noticeSeq, .fresh] s) rfl).same .ports rfl

@[simp] theorem nvmFault_front (lasting : Bool) (s : State) : (nvmFault s lasting).front = s.front :=
  (nvmFault_acts _ (Acts.refl [.regs, .sched, .queue, .pipe, .observe, .log, .noticeSeq, .fresh] s) rfl).same .front rfl

@[simp] theorem nvmFault_flow (lasting : Bool) (s : State) : (nvmFault s lasting).flow = s.flow :=
  (nvmFault_acts _ (Acts.refl [.regs, .sched, .queue, .pipe, .observe, .log, .noticeSeq, .fresh] s) rfl).same .flow rfl

@[simp] theorem nvmFault_endpoint (lasting : Bool) (s : State) : (nvmFault s lasting).endpoint = s.endpoint :=
  (nvmFault_acts _ (Acts.refl [.regs, .sched, .queue, .pipe, .observe, .log, .noticeSeq, .fresh] s) rfl).same .endpoint rfl

@[simp] theorem nvmFault_slots (lasting : Bool) (s : State) : (nvmFault s lasting).slots = s.slots :=
  (nvmFault_acts _ (Acts.refl [.regs, .sched, .queue, .pipe, .observe, .log, .noticeSeq, .fresh] s) rfl).same .slots rfl

@[simp] theorem nvmFault_quant (lasting : Bool) (s : State) : (nvmFault s lasting).quant = s.quant :=
  (nvmFault_acts _ (Acts.refl [.regs, .sched, .queue, .pipe, .observe, .log, .noticeSeq, .fresh] s) rfl).same .quant rfl

@[simp] theorem nvmFault_power (lasting : Bool) (s : State) : (nvmFault s lasting).power = s.power :=
  (nvmFault_acts _ (Acts.refl [.regs, .sched, .queue, .pipe, .observe, .log, .noticeSeq, .fresh] s) rfl).same .power rfl

@[simp] theorem nvmFault_tally (lasting : Bool) (s : State) : (nvmFault s lasting).tally = s.tally :=
  (nvmFault_acts _ (Acts.refl [.regs, .sched, .queue, .pipe, .observe, .log, .noticeSeq, .fresh] s) rfl).same .tally rfl

@[simp] theorem nvmFault_secure (lasting : Bool) (s : State) : (nvmFault s lasting).secure = s.secure :=
  (nvmFault_acts _ (Acts.refl [.regs, .sched, .queue, .pipe, .observe, .log, .noticeSeq, .fresh] s) rfl).same .secure rfl

@[simp] theorem nvmFault_crown (lasting : Bool) (s : State) : (nvmFault s lasting).crown = s.crown :=
  (nvmFault_acts _ (Acts.refl [.regs, .sched, .queue, .pipe, .observe, .log, .noticeSeq, .fresh] s) rfl).same .crown rfl

@[simp] theorem nvmFault_peer (lasting : Bool) (s : State) : (nvmFault s lasting).peer = s.peer :=
  (nvmFault_acts _ (Acts.refl [.regs, .sched, .queue, .pipe, .observe, .log, .noticeSeq, .fresh] s) rfl).same .peer rfl

@[simp] theorem nvmFault_pins (lasting : Bool) (s : State) : (nvmFault s lasting).pins = s.pins :=
  (nvmFault_acts _ (Acts.refl [.regs, .sched, .queue, .pipe, .observe, .log, .noticeSeq, .fresh] s) rfl).same .pins rfl

@[simp] theorem nvmFault_hbm (lasting : Bool) (s : State) : (nvmFault s lasting).hbm = s.hbm :=
  (nvmFault_acts _ (Acts.refl [.regs, .sched, .queue, .pipe, .observe, .log, .noticeSeq, .fresh] s) rfl).same .hbm rfl

@[simp] theorem nvmFault_out (lasting : Bool) (s : State) : (nvmFault s lasting).out = s.out :=
  (nvmFault_acts _ (Acts.refl [.regs, .sched, .queue, .pipe, .observe, .log, .noticeSeq, .fresh] s) rfl).same .out rfl

@[simp] theorem digestFault_pending (f : Option AcceptFail) (s : State) : (digestFault s f).pending = s.pending :=
  (digestFault_acts _ (Acts.refl [.regs, .sched, .queue, .pipe, .observe, .log, .noticeSeq, .fresh] s) rfl).same .pending rfl

@[simp] theorem digestFault_dial (f : Option AcceptFail) (s : State) : (digestFault s f).dial = s.dial :=
  (digestFault_acts _ (Acts.refl [.regs, .sched, .queue, .pipe, .observe, .log, .noticeSeq, .fresh] s) rfl).same .dial rfl

@[simp] theorem digestFault_ports (f : Option AcceptFail) (s : State) : (digestFault s f).ports = s.ports :=
  (digestFault_acts _ (Acts.refl [.regs, .sched, .queue, .pipe, .observe, .log, .noticeSeq, .fresh] s) rfl).same .ports rfl

@[simp] theorem digestFault_front (f : Option AcceptFail) (s : State) : (digestFault s f).front = s.front :=
  (digestFault_acts _ (Acts.refl [.regs, .sched, .queue, .pipe, .observe, .log, .noticeSeq, .fresh] s) rfl).same .front rfl

@[simp] theorem digestFault_flow (f : Option AcceptFail) (s : State) : (digestFault s f).flow = s.flow :=
  (digestFault_acts _ (Acts.refl [.regs, .sched, .queue, .pipe, .observe, .log, .noticeSeq, .fresh] s) rfl).same .flow rfl

@[simp] theorem digestFault_endpoint (f : Option AcceptFail) (s : State) : (digestFault s f).endpoint = s.endpoint :=
  (digestFault_acts _ (Acts.refl [.regs, .sched, .queue, .pipe, .observe, .log, .noticeSeq, .fresh] s) rfl).same .endpoint rfl

@[simp] theorem digestFault_slots (f : Option AcceptFail) (s : State) : (digestFault s f).slots = s.slots :=
  (digestFault_acts _ (Acts.refl [.regs, .sched, .queue, .pipe, .observe, .log, .noticeSeq, .fresh] s) rfl).same .slots rfl

@[simp] theorem digestFault_quant (f : Option AcceptFail) (s : State) : (digestFault s f).quant = s.quant :=
  (digestFault_acts _ (Acts.refl [.regs, .sched, .queue, .pipe, .observe, .log, .noticeSeq, .fresh] s) rfl).same .quant rfl

@[simp] theorem digestFault_power (f : Option AcceptFail) (s : State) : (digestFault s f).power = s.power :=
  (digestFault_acts _ (Acts.refl [.regs, .sched, .queue, .pipe, .observe, .log, .noticeSeq, .fresh] s) rfl).same .power rfl

@[simp] theorem digestFault_tally (f : Option AcceptFail) (s : State) : (digestFault s f).tally = s.tally :=
  (digestFault_acts _ (Acts.refl [.regs, .sched, .queue, .pipe, .observe, .log, .noticeSeq, .fresh] s) rfl).same .tally rfl

@[simp] theorem digestFault_secure (f : Option AcceptFail) (s : State) : (digestFault s f).secure = s.secure :=
  (digestFault_acts _ (Acts.refl [.regs, .sched, .queue, .pipe, .observe, .log, .noticeSeq, .fresh] s) rfl).same .secure rfl

@[simp] theorem digestFault_crown (f : Option AcceptFail) (s : State) : (digestFault s f).crown = s.crown :=
  (digestFault_acts _ (Acts.refl [.regs, .sched, .queue, .pipe, .observe, .log, .noticeSeq, .fresh] s) rfl).same .crown rfl

@[simp] theorem digestFault_peer (f : Option AcceptFail) (s : State) : (digestFault s f).peer = s.peer :=
  (digestFault_acts _ (Acts.refl [.regs, .sched, .queue, .pipe, .observe, .log, .noticeSeq, .fresh] s) rfl).same .peer rfl

@[simp] theorem digestFault_pins (f : Option AcceptFail) (s : State) : (digestFault s f).pins = s.pins :=
  (digestFault_acts _ (Acts.refl [.regs, .sched, .queue, .pipe, .observe, .log, .noticeSeq, .fresh] s) rfl).same .pins rfl

@[simp] theorem digestFault_hbm (f : Option AcceptFail) (s : State) : (digestFault s f).hbm = s.hbm :=
  (digestFault_acts _ (Acts.refl [.regs, .sched, .queue, .pipe, .observe, .log, .noticeSeq, .fresh] s) rfl).same .hbm rfl

@[simp] theorem digestFault_out (f : Option AcceptFail) (s : State) : (digestFault s f).out = s.out :=
  (digestFault_acts _ (Acts.refl [.regs, .sched, .queue, .pipe, .observe, .log, .noticeSeq, .fresh] s) rfl).same .out rfl

@[simp] theorem showExit_pending (x : Nat) (cls : Nat) (s : State) : (showExit s x cls).pending = s.pending :=
  (showExit_acts _ _ (Acts.refl [.regs] s) rfl).same .pending rfl

@[simp] theorem showExit_dial (x : Nat) (cls : Nat) (s : State) : (showExit s x cls).dial = s.dial :=
  (showExit_acts _ _ (Acts.refl [.regs] s) rfl).same .dial rfl

@[simp] theorem showExit_sched (x : Nat) (cls : Nat) (s : State) : (showExit s x cls).sched = s.sched :=
  (showExit_acts _ _ (Acts.refl [.regs] s) rfl).same .sched rfl

@[simp] theorem showExit_ports (x : Nat) (cls : Nat) (s : State) : (showExit s x cls).ports = s.ports :=
  (showExit_acts _ _ (Acts.refl [.regs] s) rfl).same .ports rfl

@[simp] theorem showExit_front (x : Nat) (cls : Nat) (s : State) : (showExit s x cls).front = s.front :=
  (showExit_acts _ _ (Acts.refl [.regs] s) rfl).same .front rfl

@[simp] theorem showExit_flow (x : Nat) (cls : Nat) (s : State) : (showExit s x cls).flow = s.flow :=
  (showExit_acts _ _ (Acts.refl [.regs] s) rfl).same .flow rfl

@[simp] theorem showExit_endpoint (x : Nat) (cls : Nat) (s : State) : (showExit s x cls).endpoint = s.endpoint :=
  (showExit_acts _ _ (Acts.refl [.regs] s) rfl).same .endpoint rfl

@[simp] theorem showExit_queue (x : Nat) (cls : Nat) (s : State) : (showExit s x cls).queue = s.queue :=
  (showExit_acts _ _ (Acts.refl [.regs] s) rfl).same .queue rfl

@[simp] theorem showExit_pipe (x : Nat) (cls : Nat) (s : State) : (showExit s x cls).pipe = s.pipe :=
  (showExit_acts _ _ (Acts.refl [.regs] s) rfl).same .pipe rfl

@[simp] theorem showExit_slots (x : Nat) (cls : Nat) (s : State) : (showExit s x cls).slots = s.slots :=
  (showExit_acts _ _ (Acts.refl [.regs] s) rfl).same .slots rfl

@[simp] theorem showExit_quant (x : Nat) (cls : Nat) (s : State) : (showExit s x cls).quant = s.quant :=
  (showExit_acts _ _ (Acts.refl [.regs] s) rfl).same .quant rfl

@[simp] theorem showExit_power (x : Nat) (cls : Nat) (s : State) : (showExit s x cls).power = s.power :=
  (showExit_acts _ _ (Acts.refl [.regs] s) rfl).same .power rfl

@[simp] theorem showExit_tally (x : Nat) (cls : Nat) (s : State) : (showExit s x cls).tally = s.tally :=
  (showExit_acts _ _ (Acts.refl [.regs] s) rfl).same .tally rfl

@[simp] theorem showExit_secure (x : Nat) (cls : Nat) (s : State) : (showExit s x cls).secure = s.secure :=
  (showExit_acts _ _ (Acts.refl [.regs] s) rfl).same .secure rfl

@[simp] theorem showExit_crown (x : Nat) (cls : Nat) (s : State) : (showExit s x cls).crown = s.crown :=
  (showExit_acts _ _ (Acts.refl [.regs] s) rfl).same .crown rfl

@[simp] theorem showExit_peer (x : Nat) (cls : Nat) (s : State) : (showExit s x cls).peer = s.peer :=
  (showExit_acts _ _ (Acts.refl [.regs] s) rfl).same .peer rfl

@[simp] theorem showExit_observe (x : Nat) (cls : Nat) (s : State) : (showExit s x cls).observe = s.observe :=
  (showExit_acts _ _ (Acts.refl [.regs] s) rfl).same .observe rfl

@[simp] theorem showExit_log (x : Nat) (cls : Nat) (s : State) : (showExit s x cls).log = s.log :=
  (showExit_acts _ _ (Acts.refl [.regs] s) rfl).same .log rfl

@[simp] theorem showExit_pins (x : Nat) (cls : Nat) (s : State) : (showExit s x cls).pins = s.pins :=
  (showExit_acts _ _ (Acts.refl [.regs] s) rfl).same .pins rfl

@[simp] theorem showExit_hbm (x : Nat) (cls : Nat) (s : State) : (showExit s x cls).hbm = s.hbm :=
  (showExit_acts _ _ (Acts.refl [.regs] s) rfl).same .hbm rfl

@[simp] theorem showExit_out (x : Nat) (cls : Nat) (s : State) : (showExit s x cls).out = s.out :=
  (showExit_acts _ _ (Acts.refl [.regs] s) rfl).same .out rfl

@[simp] theorem showExit_noticeSeq (x : Nat) (cls : Nat) (s : State) : (showExit s x cls).noticeSeq = s.noticeSeq :=
  (showExit_acts _ _ (Acts.refl [.regs] s) rfl).same .noticeSeq rfl

@[simp] theorem showExit_fresh (x : Nat) (cls : Nat) (s : State) : (showExit s x cls).fresh = s.fresh :=
  (showExit_acts _ _ (Acts.refl [.regs] s) rfl).same .fresh rfl

@[simp] theorem tapSelect_pending (ir : Nat) (s : State) : (tapSelect s ir).pending = s.pending :=
  (tapSelect_acts _ (Acts.refl [.pins] s) rfl).same .pending rfl

@[simp] theorem tapSelect_regs (ir : Nat) (s : State) : (tapSelect s ir).regs = s.regs :=
  (tapSelect_acts _ (Acts.refl [.pins] s) rfl).same .regs rfl

@[simp] theorem tapSelect_dial (ir : Nat) (s : State) : (tapSelect s ir).dial = s.dial :=
  (tapSelect_acts _ (Acts.refl [.pins] s) rfl).same .dial rfl

@[simp] theorem tapSelect_sched (ir : Nat) (s : State) : (tapSelect s ir).sched = s.sched :=
  (tapSelect_acts _ (Acts.refl [.pins] s) rfl).same .sched rfl

@[simp] theorem tapSelect_ports (ir : Nat) (s : State) : (tapSelect s ir).ports = s.ports :=
  (tapSelect_acts _ (Acts.refl [.pins] s) rfl).same .ports rfl

@[simp] theorem tapSelect_front (ir : Nat) (s : State) : (tapSelect s ir).front = s.front :=
  (tapSelect_acts _ (Acts.refl [.pins] s) rfl).same .front rfl

@[simp] theorem tapSelect_flow (ir : Nat) (s : State) : (tapSelect s ir).flow = s.flow :=
  (tapSelect_acts _ (Acts.refl [.pins] s) rfl).same .flow rfl

@[simp] theorem tapSelect_endpoint (ir : Nat) (s : State) : (tapSelect s ir).endpoint = s.endpoint :=
  (tapSelect_acts _ (Acts.refl [.pins] s) rfl).same .endpoint rfl

@[simp] theorem tapSelect_queue (ir : Nat) (s : State) : (tapSelect s ir).queue = s.queue :=
  (tapSelect_acts _ (Acts.refl [.pins] s) rfl).same .queue rfl

@[simp] theorem tapSelect_pipe (ir : Nat) (s : State) : (tapSelect s ir).pipe = s.pipe :=
  (tapSelect_acts _ (Acts.refl [.pins] s) rfl).same .pipe rfl

@[simp] theorem tapSelect_slots (ir : Nat) (s : State) : (tapSelect s ir).slots = s.slots :=
  (tapSelect_acts _ (Acts.refl [.pins] s) rfl).same .slots rfl

@[simp] theorem tapSelect_quant (ir : Nat) (s : State) : (tapSelect s ir).quant = s.quant :=
  (tapSelect_acts _ (Acts.refl [.pins] s) rfl).same .quant rfl

@[simp] theorem tapSelect_power (ir : Nat) (s : State) : (tapSelect s ir).power = s.power :=
  (tapSelect_acts _ (Acts.refl [.pins] s) rfl).same .power rfl

@[simp] theorem tapSelect_tally (ir : Nat) (s : State) : (tapSelect s ir).tally = s.tally :=
  (tapSelect_acts _ (Acts.refl [.pins] s) rfl).same .tally rfl

@[simp] theorem tapSelect_secure (ir : Nat) (s : State) : (tapSelect s ir).secure = s.secure :=
  (tapSelect_acts _ (Acts.refl [.pins] s) rfl).same .secure rfl

@[simp] theorem tapSelect_crown (ir : Nat) (s : State) : (tapSelect s ir).crown = s.crown :=
  (tapSelect_acts _ (Acts.refl [.pins] s) rfl).same .crown rfl

@[simp] theorem tapSelect_peer (ir : Nat) (s : State) : (tapSelect s ir).peer = s.peer :=
  (tapSelect_acts _ (Acts.refl [.pins] s) rfl).same .peer rfl

@[simp] theorem tapSelect_observe (ir : Nat) (s : State) : (tapSelect s ir).observe = s.observe :=
  (tapSelect_acts _ (Acts.refl [.pins] s) rfl).same .observe rfl

@[simp] theorem tapSelect_log (ir : Nat) (s : State) : (tapSelect s ir).log = s.log :=
  (tapSelect_acts _ (Acts.refl [.pins] s) rfl).same .log rfl

@[simp] theorem tapSelect_hbm (ir : Nat) (s : State) : (tapSelect s ir).hbm = s.hbm :=
  (tapSelect_acts _ (Acts.refl [.pins] s) rfl).same .hbm rfl

@[simp] theorem tapSelect_out (ir : Nat) (s : State) : (tapSelect s ir).out = s.out :=
  (tapSelect_acts _ (Acts.refl [.pins] s) rfl).same .out rfl

@[simp] theorem tapSelect_noticeSeq (ir : Nat) (s : State) : (tapSelect s ir).noticeSeq = s.noticeSeq :=
  (tapSelect_acts _ (Acts.refl [.pins] s) rfl).same .noticeSeq rfl

@[simp] theorem tapSelect_fresh (ir : Nat) (s : State) : (tapSelect s ir).fresh = s.fresh :=
  (tapSelect_acts _ (Acts.refl [.pins] s) rfl).same .fresh rfl

@[simp] theorem shiftOut_pending (v : Nat) (s : State) : (shiftOut s v).pending = s.pending :=
  (shiftOut_acts _ (Acts.refl [.out] s) rfl).same .pending rfl

@[simp] theorem shiftOut_regs (v : Nat) (s : State) : (shiftOut s v).regs = s.regs :=
  (shiftOut_acts _ (Acts.refl [.out] s) rfl).same .regs rfl

@[simp] theorem shiftOut_dial (v : Nat) (s : State) : (shiftOut s v).dial = s.dial :=
  (shiftOut_acts _ (Acts.refl [.out] s) rfl).same .dial rfl

@[simp] theorem shiftOut_sched (v : Nat) (s : State) : (shiftOut s v).sched = s.sched :=
  (shiftOut_acts _ (Acts.refl [.out] s) rfl).same .sched rfl

@[simp] theorem shiftOut_ports (v : Nat) (s : State) : (shiftOut s v).ports = s.ports :=
  (shiftOut_acts _ (Acts.refl [.out] s) rfl).same .ports rfl

@[simp] theorem shiftOut_front (v : Nat) (s : State) : (shiftOut s v).front = s.front :=
  (shiftOut_acts _ (Acts.refl [.out] s) rfl).same .front rfl

@[simp] theorem shiftOut_flow (v : Nat) (s : State) : (shiftOut s v).flow = s.flow :=
  (shiftOut_acts _ (Acts.refl [.out] s) rfl).same .flow rfl

@[simp] theorem shiftOut_endpoint (v : Nat) (s : State) : (shiftOut s v).endpoint = s.endpoint :=
  (shiftOut_acts _ (Acts.refl [.out] s) rfl).same .endpoint rfl

@[simp] theorem shiftOut_queue (v : Nat) (s : State) : (shiftOut s v).queue = s.queue :=
  (shiftOut_acts _ (Acts.refl [.out] s) rfl).same .queue rfl

@[simp] theorem shiftOut_pipe (v : Nat) (s : State) : (shiftOut s v).pipe = s.pipe :=
  (shiftOut_acts _ (Acts.refl [.out] s) rfl).same .pipe rfl

@[simp] theorem shiftOut_slots (v : Nat) (s : State) : (shiftOut s v).slots = s.slots :=
  (shiftOut_acts _ (Acts.refl [.out] s) rfl).same .slots rfl

@[simp] theorem shiftOut_quant (v : Nat) (s : State) : (shiftOut s v).quant = s.quant :=
  (shiftOut_acts _ (Acts.refl [.out] s) rfl).same .quant rfl

@[simp] theorem shiftOut_power (v : Nat) (s : State) : (shiftOut s v).power = s.power :=
  (shiftOut_acts _ (Acts.refl [.out] s) rfl).same .power rfl

@[simp] theorem shiftOut_tally (v : Nat) (s : State) : (shiftOut s v).tally = s.tally :=
  (shiftOut_acts _ (Acts.refl [.out] s) rfl).same .tally rfl

@[simp] theorem shiftOut_secure (v : Nat) (s : State) : (shiftOut s v).secure = s.secure :=
  (shiftOut_acts _ (Acts.refl [.out] s) rfl).same .secure rfl

@[simp] theorem shiftOut_crown (v : Nat) (s : State) : (shiftOut s v).crown = s.crown :=
  (shiftOut_acts _ (Acts.refl [.out] s) rfl).same .crown rfl

@[simp] theorem shiftOut_peer (v : Nat) (s : State) : (shiftOut s v).peer = s.peer :=
  (shiftOut_acts _ (Acts.refl [.out] s) rfl).same .peer rfl

@[simp] theorem shiftOut_observe (v : Nat) (s : State) : (shiftOut s v).observe = s.observe :=
  (shiftOut_acts _ (Acts.refl [.out] s) rfl).same .observe rfl

@[simp] theorem shiftOut_log (v : Nat) (s : State) : (shiftOut s v).log = s.log :=
  (shiftOut_acts _ (Acts.refl [.out] s) rfl).same .log rfl

@[simp] theorem shiftOut_pins (v : Nat) (s : State) : (shiftOut s v).pins = s.pins :=
  (shiftOut_acts _ (Acts.refl [.out] s) rfl).same .pins rfl

@[simp] theorem shiftOut_hbm (v : Nat) (s : State) : (shiftOut s v).hbm = s.hbm :=
  (shiftOut_acts _ (Acts.refl [.out] s) rfl).same .hbm rfl

@[simp] theorem shiftOut_noticeSeq (v : Nat) (s : State) : (shiftOut s v).noticeSeq = s.noticeSeq :=
  (shiftOut_acts _ (Acts.refl [.out] s) rfl).same .noticeSeq rfl

@[simp] theorem shiftOut_fresh (v : Nat) (s : State) : (shiftOut s v).fresh = s.fresh :=
  (shiftOut_acts _ (Acts.refl [.out] s) rfl).same .fresh rfl

end Sys2Proof.Machine
end

