-- ==== Sys2Proof/Laws/Raise.lean ====
section
/-! SUPPORT. What raising an event does to the registers: the event's own flag is set, flags that were set stay set, and beside
that flag only the register fields of `noticeFields` change (R202, R203, R429, R430). -/

namespace Sys2Proof.Machine

/-- The fields of `noticeFields` that are no event flags. -/
def noticeCounts : List Field :=
  [GLOBAL_STATUS.NOTICES_UNROUTED, QUEUE_NOTICE_DROPS.COUNT, QUEUE_LOST.ITEMS, QUEUE_LAST_RESET.CAUSE, QUEUE_LAST_RESET.QUEUE,
   QUEUE_RESETS.MISMATCH, OBSERVE_TRACE_LOST.COUNT]

/-- Flags that are set stay set. -/
def FlagsStay (s t : State) : Prop := ∀ g : Field, (∀ c ∈ noticeCounts, c.key ≠ g.key) → rdB s g = true → rdB t g = true

theorem FlagsStay.refl (s : State) : FlagsStay s s := fun _ _ h => h

theorem FlagsStay.trans {s t u : State} (h : FlagsStay s t) (k : FlagsStay t u) : FlagsStay s u :=
  fun g hg e => k g hg (h g hg e)

theorem FlagsStay.of_regs {s t : State} (h : t.regs = s.regs) : FlagsStay s t := fun g _ e => by simpa [rdB, rd, h] using e

theorem FlagsStay.of_kept {fs : List Field} {s t : State} (h : RegsKept fs s t) (hf : ∀ f ∈ fs, f ∈ noticeCounts) : FlagsStay s t :=
  fun g hg e => by rw [rdB, h g fun f k => hg f (hf f k)]; exact e

theorem rdB_wrB_true (s : State) (f : Field) (hw : f.width = 1) : rdB (wrB s f true) f = true := by
  simp [rdB, wrB, rd_wr, hw, b2n]

theorem wrB_regsKept (s : State) (f : Field) (b : Bool) : RegsKept [f] s (wrB s f b) := wr_regsKept s f _

theorem bump_regsKept (s : State) (f : Field) (n : Nat) : RegsKept [f] s (bump s f n) := wr_regsKept s f _

/-- A flag that resets to 0 is set: flags at any other place are as before, one at the same place reads as set. -/
theorem FlagsStay.set (s : State) (f : Field) (hw : f.width = 1) (hr : f.reset = 0) : FlagsStay s (wrB s f true) := by
  intro g _ e
  by_cases h : g.key = f.key
  · have e1 : Map.put s.regs f.key 1 0 = Map.set s.regs f.key 1 := rfl
    simp [rdB, rd, wrB, wr, setField, h, Map.getD, e1, Map.get?_set, hw, hr, b2n]
  · rw [rdB, wrB, rd_wr_ne s f g _ h]
    exact e

/-! ## The steps of a notice -/

theorem traceRaw_regs (s : State) (type ts body : Nat) : RegsKept [OBSERVE_TRACE_LOST.COUNT] s (traceRaw s type ts body).1 := by
  unfold traceRaw
  split
  · exact RegsKept.refl _ _
  · dsimp only
    split
    · split
      · exact RegsKept.of_regs _ rfl
      · exact bump_regsKept _ _ _
    · split
      · exact RegsKept.of_regs _ rfl
      · exact bump_regsKept _ _ _

theorem judgeLevel_regs (s : State) (q : Nat) : (judgeLevel s q).1.regs = s.regs := by
  unfold judgeLevel
  dsimp only
  repeat' split
  all_goals rfl

theorem enqueueRaw_regs (s : State) (q band item : Nat) : (enqueueRaw s q band item).1.regs = s.regs := by
  unfold enqueueRaw
  dsimp only
  repeat' split
  all_goals rfl

/-- The events that an item written to a notice queue may give rise to. -/
def noticeEvents : List Field :=
  [GLOBAL_EVENTS.ROUTE_INVALID, QUEUE_EVENTS.LEVEL, QUEUE_EVENTS.NOTICE_DROP, QUEUE_EVENTS.MISMATCH_RESET,
   OBSERVE_EVENTS.TRACE_LOST]

theorem resetRaw_regs (s : State) (q : Nat) (hq : dataPathUse q = none) :
    RegsKept [QUEUE_LOST.ITEMS, QUEUE_LAST_RESET.CAUSE, QUEUE_LAST_RESET.QUEUE, QUEUE_RESETS.MISMATCH] s (resetRaw s q false) := by
  unfold resetRaw
  rw [hq]
  dsimp only
  rw [if_neg (by decide)]
  refine RegsKept.trans (RegsKept.trans (RegsKept.trans (RegsKept.trans (RegsKept.of_regs _ ?_)
    (RegsKept.mono (bump_regsKept _ _ _) ?_)) (RegsKept.mono (wrB_regsKept _ _ _) ?_))
    (RegsKept.mono (wr_regsKept _ _ _) ?_)) (RegsKept.mono (bump_regsKept _ _ _) ?_)
  · rfl
  all_goals simp

theorem offerNotice_regs (s : State) (q band item : Nat) (hq : queueClass q = 3) :
    RegsKept noticeCounts s (offerNotice s q band item).1 ∧ ∀ r ∈ (offerNotice s q band item).2, r.1 ∈ noticeEvents := by
  have e := enqueueRaw_regs s q band item
  unfold offerNotice
  by_cases hh : (!hubOn s) = true
  · rw [if_pos hh]
    exact ⟨RegsKept.of_regs _ rfl, by simp⟩
  rw [if_neg hh]
  split
  · next heq =>
    rw [heq] at e
    refine ⟨RegsKept.of_regs _ ((judgeLevel_regs _ _).trans e), ?_⟩
    dsimp only
    split <;> simp [noticeEvents]
  · next heq =>
    rw [heq] at e
    exact ⟨(RegsKept.of_regs _ e).trans ((bump_regsKept _ _ _).mono (by simp [noticeCounts])), by simp [noticeEvents]⟩
  · next heq =>
    rw [heq] at e
    refine ⟨(RegsKept.of_regs _ e).trans ((resetRaw_regs _ _ (notice_not_dataPath hq)).mono (by simp [noticeCounts])), ?_⟩
    simp [noticeEvents]

/-- One event: its flag is set, and what follows is an event of `noticeEvents`. -/
theorem raiseOne_regs (s : State) (f : Field) (arg : Nat) :
    RegsKept (f :: noticeFields) s (raiseOne s f arg).1 ∧ FlagsStay (wrB s f true) (raiseOne s f arg).1 ∧
      ∀ r ∈ (raiseOne s f arg).2, r.1 ∈ noticeEvents := by
  have k0 : RegsKept (f :: noticeFields) s (wrB s f true) := (wrB_regsKept s f true).mono (by simp)
  unfold raiseOne
  dsimp only
  split
  · exact ⟨k0, FlagsStay.refl _, by simp⟩
  · have k1 : RegsKept (f :: noticeFields) (wrB s f true) (traceRaw { wrB s f true with noticeSeq := (wrB s f true).noticeSeq + 1 }
        0x05 (nowShort { wrB s f true with noticeSeq := (wrB s f true).noticeSeq + 1 })
        (eventCode f % 2 ^ 16 * 2 ^ 160 + arg % 2 ^ 32 * 2 ^ 128)).1 :=
      RegsKept.trans (RegsKept.of_regs _ rfl) ((traceRaw_regs _ _ _ _).mono (by simp [noticeFields]))
    have s1 : FlagsStay (wrB s f true) (traceRaw { wrB s f true with noticeSeq := (wrB s f true).noticeSeq + 1 }
        0x05 (nowShort { wrB s f true with noticeSeq := (wrB s f true).noticeSeq + 1 })
        (eventCode f % 2 ^ 16 * 2 ^ 160 + arg % 2 ^ 32 * 2 ^ 128)).1 :=
      FlagsStay.trans (FlagsStay.of_regs rfl) (FlagsStay.of_kept (traceRaw_regs _ _ _ _) (by simp [noticeCounts]))
    generalize traceRaw _ 0x05 _ _ = p at k1 s1 ⊢
    have more : ∀ r ∈ (if (p.2 && f != OBSERVE_EVENTS.TRACE_LOST) = true then [(OBSERVE_EVENTS.TRACE_LOST, 0)]
        else ([] : List EventReq)), r.1 ∈ noticeEvents := by
      split <;> simp [noticeEvents]
    split
    · split
      · refine ⟨k0.trans (k1.trans (((bump_regsKept _ _ _).mono (by simp [noticeFields])).trans
          ((wrB_regsKept _ _ _).mono (by simp [noticeFields])))), ?_, more⟩
        exact s1.trans ((FlagsStay.of_kept (bump_regsKept _ _ _) (by simp [noticeCounts])).trans (FlagsStay.set _ _ rfl rfl))
      · refine ⟨k0.trans (k1.trans ((bump_regsKept _ _ _).mono (by simp [noticeFields]))), ?_, ?_⟩
        · exact s1.trans (FlagsStay.of_kept (bump_regsKept _ _ _) (by simp [noticeCounts]))
        · intro r hr
          rcases List.mem_cons.mp hr with rfl | hr
          · simp [noticeEvents]
          · exact more r hr
    · next hc =>
      have e := offerNotice_regs p.1 (noticeRoute (wrB s f true) f) (noticeBand f) (noticeItem (wrB s f true) f arg)
        (by simpa using hc)
      refine ⟨k0.trans (k1.trans (e.1.mono (by simp [noticeCounts, noticeFields]))), s1.trans (FlagsStay.of_kept e.1 fun _ h => h), ?_⟩
      intro r hr
      rcases List.mem_append.mp hr with hr | hr
      · exact e.2 r hr
      · exact more r hr

theorem raiseAll_regs (n : Nat) (s : State) (l : List EventReq) (hl : ∀ r ∈ l, r.1 ∈ noticeEvents) :
    RegsKept noticeFields s (raiseAll n s l) ∧ FlagsStay s (raiseAll n s l) := by
  induction n generalizing s l with
  | zero => exact ⟨RegsKept.refl _ _, FlagsStay.refl _⟩
  | succ n ih =>
    cases l with
    | nil => exact ⟨RegsKept.refl _ _, FlagsStay.refl _⟩
    | cons r rest =>
      obtain ⟨f, arg⟩ := r
      have hf : f ∈ noticeEvents := hl (f, arg) (by simp)
      have hrest : ∀ r ∈ rest, r.1 ∈ noticeEvents := fun r h => hl r (by simp [h])
      have hw : f.width = 1 ∧ f.reset = 0 := by
        simp only [noticeEvents, List.mem_cons, List.not_mem_nil, or_false] at hf
        rcases hf with rfl | rfl | rfl | rfl | rfl <;> exact ⟨rfl, rfl⟩
      have hn : f ∈ noticeFields := by
        simp only [noticeEvents, List.mem_cons, List.not_mem_nil, or_false] at hf
        rcases hf with rfl | rfl | rfl | rfl | rfl <;> simp [noticeFields]
      unfold raiseAll
      split
      · exact ih s rest hrest
      · obtain ⟨h1, h2, h3⟩ := raiseOne_regs s f arg
        have e := ih (raiseOne s f arg).1 ((raiseOne s f arg).2 ++ rest) fun r h => by
          rcases List.mem_append.mp h with h | h
          · exact h3 r h
          · exact hrest r h
        refine ⟨(h1.mono ?_).trans e.1, ((FlagsStay.set s f hw.1 hw.2).trans h2).trans e.2⟩
        intro g hg
        rcases List.mem_cons.mp hg with rfl | hg
        · exact hn
        · exact hg

/-- Raising an event changes its flag and the fields of `noticeFields` at most. -/
theorem raise_regs (s : State) (f : Field) (arg : Nat) :
    RegsKept (f :: noticeFields) s (raise s f arg) := by
  unfold raise raiseAll
  split
  · exact ((raiseAll_regs 15 s [] (by simp)).1).mono fun _ h => List.mem_cons_of_mem _ h
  · obtain ⟨h1, _, h3⟩ := raiseOne_regs s f arg
    exact h1.trans ((raiseAll_regs 15 _ _ (by simpa using h3)).1.mono fun _ h => List.mem_cons_of_mem _ h)

/-- Flags that are set stay set when an event is raised. -/
theorem raise_flagsStay (s : State) (f : Field) (arg : Nat) (hw : f.width = 1) (hr : f.reset = 0) : FlagsStay s (raise s f arg) := by
  unfold raise raiseAll
  split
  · exact (raiseAll_regs 15 s [] (by simp)).2
  · obtain ⟨_, h2, h3⟩ := raiseOne_regs s f arg
    exact (FlagsStay.set s f hw hr).trans (h2.trans (raiseAll_regs 15 _ _ (by simpa using h3)).2)

/-- The flag of a raised event is set; the OBSERVE block's events need its domain powered. -/
theorem raise_sets (s : State) (f : Field) (arg : Nat) (hw : f.width = 1)
    (hc : ∀ c ∈ noticeCounts, c.key ≠ f.key) (hb : blockOf f.addr ≠ 13 ∨ observeOn s = true) :
    rdB (raise s f arg) f = true := by
  unfold raise raiseAll
  split
  · next h => rcases hb with hb | hb <;> simp [hb] at h
  · obtain ⟨_, h2, h3⟩ := raiseOne_regs s f arg
    exact (raiseAll_regs 15 _ _ (by simpa using h3)).2 f hc (h2 f hc (rdB_wrB_true s f hw))

/-- What a raised event touches at all. -/
theorem raise_onlyChanges (s : State) (f : Field) (arg : Nat) :
    OnlyChanges noticeParts (f :: noticeFields) s (raise s f arg) :=
  ⟨(raise_acts (F := .regs :: noticeParts) f arg (Acts.refl _ s) (by decide)).same, raise_regs s f arg⟩

end Sys2Proof.Machine
end

