-- ==== Sys2Proof/Laws/State.lean ====
section
/-! SUPPORT. What the accessors of the state read of a state with one part replaced: one equation for each accessor and each part that
it does not depend on, true by definition. -/

namespace Sys2Proof.Machine

@[simp] theorem rd_with_pending (s : State) (v : List Instr) (f : Field) :
    rd { s with pending := v } f = rd s f := rfl

@[simp] theorem rd_with_dial (s : State) (v : DialSt) (f : Field) :
    rd { s with dial := v } f = rd s f := rfl

@[simp] theorem rd_with_sched (s : State) (v : SchedSt) (f : Field) :
    rd { s with sched := v } f = rd s f := rfl

@[simp] theorem rd_with_ports (s : State) (v : List PortSt) (f : Field) :
    rd { s with ports := v } f = rd s f := rfl

@[simp] theorem rd_with_front (s : State) (v : FrontSt) (f : Field) :
    rd { s with front := v } f = rd s f := rfl

@[simp] theorem rd_with_flow (s : State) (v : TableSt) (f : Field) :
    rd { s with flow := v } f = rd s f := rfl

@[simp] theorem rd_with_endpoint (s : State) (v : TableSt) (f : Field) :
    rd { s with endpoint := v } f = rd s f := rfl

@[simp] theorem rd_with_queue (s : State) (v : QueueSt) (f : Field) :
    rd { s with queue := v } f = rd s f := rfl

@[simp] theorem rd_with_pipe (s : State) (v : PipeSt) (f : Field) :
    rd { s with pipe := v } f = rd s f := rfl

@[simp] theorem rd_with_slots (s : State) (v : List SlotSt) (f : Field) :
    rd { s with slots := v } f = rd s f := rfl

@[simp] theorem rd_with_quant (s : State) (v : QuantSt) (f : Field) :
    rd { s with quant := v } f = rd s f := rfl

@[simp] theorem rd_with_power (s : State) (v : PowerSt) (f : Field) :
    rd { s with power := v } f = rd s f := rfl

@[simp] theorem rd_with_tally (s : State) (v : TallySt) (f : Field) :
    rd { s with tally := v } f = rd s f := rfl

@[simp] theorem rd_with_secure (s : State) (v : SecureSt) (f : Field) :
    rd { s with secure := v } f = rd s f := rfl

@[simp] theorem rd_with_crown (s : State) (v : CrownSt) (f : Field) :
    rd { s with crown := v } f = rd s f := rfl

@[simp] theorem rd_with_peer (s : State) (v : PeerSt) (f : Field) :
    rd { s with peer := v } f = rd s f := rfl

@[simp] theorem rd_with_observe (s : State) (v : ObserveSt) (f : Field) :
    rd { s with observe := v } f = rd s f := rfl

@[simp] theorem rd_with_log (s : State) (v : LogSt) (f : Field) :
    rd { s with log := v } f = rd s f := rfl

@[simp] theorem rd_with_pins (s : State) (v : PinSt) (f : Field) :
    rd { s with pins := v } f = rd s f := rfl

@[simp] theorem rd_with_hbm (s : State) (v : Mem) (f : Field) :
    rd { s with hbm := v } f = rd s f := rfl

@[simp] theorem rd_with_out (s : State) (v : List Out) (f : Field) :
    rd { s with out := v } f = rd s f := rfl

@[simp] theorem rd_with_noticeSeq (s : State) (v : Nat) (f : Field) :
    rd { s with noticeSeq := v } f = rd s f := rfl

@[simp] theorem rd_with_fresh (s : State) (v : Nat) (f : Field) :
    rd { s with fresh := v } f = rd s f := rfl

@[simp] theorem rdB_with_pending (s : State) (v : List Instr) (f : Field) :
    rdB { s with pending := v } f = rdB s f := rfl

@[simp] theorem rdB_with_dial (s : State) (v : DialSt) (f : Field) :
    rdB { s with dial := v } f = rdB s f := rfl

@[simp] theorem rdB_with_sched (s : State) (v : SchedSt) (f : Field) :
    rdB { s with sched := v } f = rdB s f := rfl

@[simp] theorem rdB_with_ports (s : State) (v : List PortSt) (f : Field) :
    rdB { s with ports := v } f = rdB s f := rfl

@[simp] theorem rdB_with_front (s : State) (v : FrontSt) (f : Field) :
    rdB { s with front := v } f = rdB s f := rfl

@[simp] theorem rdB_with_flow (s : State) (v : TableSt) (f : Field) :
    rdB { s with flow := v } f = rdB s f := rfl

@[simp] theorem rdB_with_endpoint (s : State) (v : TableSt) (f : Field) :
    rdB { s with endpoint := v } f = rdB s f := rfl

@[simp] theorem rdB_with_queue (s : State) (v : QueueSt) (f : Field) :
    rdB { s with queue := v } f = rdB s f := rfl

@[simp] theorem rdB_with_pipe (s : State) (v : PipeSt) (f : Field) :
    rdB { s with pipe := v } f = rdB s f := rfl

@[simp] theorem rdB_with_slots (s : State) (v : List SlotSt) (f : Field) :
    rdB { s with slots := v } f = rdB s f := rfl

@[simp] theorem rdB_with_quant (s : State) (v : QuantSt) (f : Field) :
    rdB { s with quant := v } f = rdB s f := rfl

@[simp] theorem rdB_with_power (s : State) (v : PowerSt) (f : Field) :
    rdB { s with power := v } f = rdB s f := rfl

@[simp] theorem rdB_with_tally (s : State) (v : TallySt) (f : Field) :
    rdB { s with tally := v } f = rdB s f := rfl

@[simp] theorem rdB_with_secure (s : State) (v : SecureSt) (f : Field) :
    rdB { s with secure := v } f = rdB s f := rfl

@[simp] theorem rdB_with_crown (s : State) (v : CrownSt) (f : Field) :
    rdB { s with crown := v } f = rdB s f := rfl

@[simp] theorem rdB_with_peer (s : State) (v : PeerSt) (f : Field) :
    rdB { s with peer := v } f = rdB s f := rfl

@[simp] theorem rdB_with_observe (s : State) (v : ObserveSt) (f : Field) :
    rdB { s with observe := v } f = rdB s f := rfl

@[simp] theorem rdB_with_log (s : State) (v : LogSt) (f : Field) :
    rdB { s with log := v } f = rdB s f := rfl

@[simp] theorem rdB_with_pins (s : State) (v : PinSt) (f : Field) :
    rdB { s with pins := v } f = rdB s f := rfl

@[simp] theorem rdB_with_hbm (s : State) (v : Mem) (f : Field) :
    rdB { s with hbm := v } f = rdB s f := rfl

@[simp] theorem rdB_with_out (s : State) (v : List Out) (f : Field) :
    rdB { s with out := v } f = rdB s f := rfl

@[simp] theorem rdB_with_noticeSeq (s : State) (v : Nat) (f : Field) :
    rdB { s with noticeSeq := v } f = rdB s f := rfl

@[simp] theorem rdB_with_fresh (s : State) (v : Nat) (f : Field) :
    rdB { s with fresh := v } f = rdB s f := rfl

@[simp] theorem getQ_with_pending (s : State) (v : List Instr) (q : Nat) :
    getQ { s with pending := v } q = getQ s q := rfl

@[simp] theorem getQ_with_regs (s : State) (v : Map Nat) (q : Nat) :
    getQ { s with regs := v } q = getQ s q := rfl

@[simp] theorem getQ_with_dial (s : State) (v : DialSt) (q : Nat) :
    getQ { s with dial := v } q = getQ s q := rfl

@[simp] theorem getQ_with_sched (s : State) (v : SchedSt) (q : Nat) :
    getQ { s with sched := v } q = getQ s q := rfl

@[simp] theorem getQ_with_ports (s : State) (v : List PortSt) (q : Nat) :
    getQ { s with ports := v } q = getQ s q := rfl

@[simp] theorem getQ_with_front (s : State) (v : FrontSt) (q : Nat) :
    getQ { s with front := v } q = getQ s q := rfl

@[simp] theorem getQ_with_flow (s : State) (v : TableSt) (q : Nat) :
    getQ { s with flow := v } q = getQ s q := rfl

@[simp] theorem getQ_with_endpoint (s : State) (v : TableSt) (q : Nat) :
    getQ { s with endpoint := v } q = getQ s q := rfl

@[simp] theorem getQ_with_pipe (s : State) (v : PipeSt) (q : Nat) :
    getQ { s with pipe := v } q = getQ s q := rfl

@[simp] theorem getQ_with_slots (s : State) (v : List SlotSt) (q : Nat) :
    getQ { s with slots := v } q = getQ s q := rfl

@[simp] theorem getQ_with_quant (s : State) (v : QuantSt) (q : Nat) :
    getQ { s with quant := v } q = getQ s q := rfl

@[simp] theorem getQ_with_power (s : State) (v : PowerSt) (q : Nat) :
    getQ { s with power := v } q = getQ s q := rfl

@[simp] theorem getQ_with_tally (s : State) (v : TallySt) (q : Nat) :
    getQ { s with tally := v } q = getQ s q := rfl

@[simp] theorem getQ_with_secure (s : State) (v : SecureSt) (q : Nat) :
    getQ { s with secure := v } q = getQ s q := rfl

@[simp] theorem getQ_with_crown (s : State) (v : CrownSt) (q : Nat) :
    getQ { s with crown := v } q = getQ s q := rfl

@[simp] theorem getQ_with_peer (s : State) (v : PeerSt) (q : Nat) :
    getQ { s with peer := v } q = getQ s q := rfl

@[simp] theorem getQ_with_observe (s : State) (v : ObserveSt) (q : Nat) :
    getQ { s with observe := v } q = getQ s q := rfl

@[simp] theorem getQ_with_log (s : State) (v : LogSt) (q : Nat) :
    getQ { s with log := v } q = getQ s q := rfl

@[simp] theorem getQ_with_pins (s : State) (v : PinSt) (q : Nat) :
    getQ { s with pins := v } q = getQ s q := rfl

@[simp] theorem getQ_with_hbm (s : State) (v : Mem) (q : Nat) :
    getQ { s with hbm := v } q = getQ s q := rfl

@[simp] theorem getQ_with_out (s : State) (v : List Out) (q : Nat) :
    getQ { s with out := v } q = getQ s q := rfl

@[simp] theorem getQ_with_noticeSeq (s : State) (v : Nat) (q : Nat) :
    getQ { s with noticeSeq := v } q = getQ s q := rfl

@[simp] theorem getQ_with_fresh (s : State) (v : Nat) (q : Nat) :
    getQ { s with fresh := v } q = getQ s q := rfl

@[simp] theorem getSlot_with_pending (s : State) (v : List Instr) (k : Nat) :
    getSlot { s with pending := v } k = getSlot s k := rfl

@[simp] theorem getSlot_with_regs (s : State) (v : Map Nat) (k : Nat) :
    getSlot { s with regs := v } k = getSlot s k := rfl

@[simp] theorem getSlot_with_dial (s : State) (v : DialSt) (k : Nat) :
    getSlot { s with dial := v } k = getSlot s k := rfl

@[simp] theorem getSlot_with_sched (s : State) (v : SchedSt) (k : Nat) :
    getSlot { s with sched := v } k = getSlot s k := rfl

@[simp] theorem getSlot_with_ports (s : State) (v : List PortSt) (k : Nat) :
    getSlot { s with ports := v } k = getSlot s k := rfl

@[simp] theorem getSlot_with_front (s : State) (v : FrontSt) (k : Nat) :
    getSlot { s with front := v } k = getSlot s k := rfl

@[simp] theorem getSlot_with_flow (s : State) (v : TableSt) (k : Nat) :
    getSlot { s with flow := v } k = getSlot s k := rfl

@[simp] theorem getSlot_with_endpoint (s : State) (v : TableSt) (k : Nat) :
    getSlot { s with endpoint := v } k = getSlot s k := rfl

@[simp] theorem getSlot_with_queue (s : State) (v : QueueSt) (k : Nat) :
    getSlot { s with queue := v } k = getSlot s k := rfl

@[simp] theorem getSlot_with_pipe (s : State) (v : PipeSt) (k : Nat) :
    getSlot { s with pipe := v } k = getSlot s k := rfl

@[simp] theorem getSlot_with_quant (s : State) (v : QuantSt) (k : Nat) :
    getSlot { s with quant := v } k = getSlot s k := rfl

@[simp] theorem getSlot_with_power (s : State) (v : PowerSt) (k : Nat) :
    getSlot { s with power := v } k = getSlot s k := rfl

@[simp] theorem getSlot_with_tally (s : State) (v : TallySt) (k : Nat) :
    getSlot { s with tally := v } k = getSlot s k := rfl

@[simp] theorem getSlot_with_secure (s : State) (v : SecureSt) (k : Nat) :
    getSlot { s with secure := v } k = getSlot s k := rfl

@[simp] theorem getSlot_with_crown (s : State) (v : CrownSt) (k : Nat) :
    getSlot { s with crown := v } k = getSlot s k := rfl

@[simp] theorem getSlot_with_peer (s : State) (v : PeerSt) (k : Nat) :
    getSlot { s with peer := v } k = getSlot s k := rfl

@[simp] theorem getSlot_with_observe (s : State) (v : ObserveSt) (k : Nat) :
    getSlot { s with observe := v } k = getSlot s k := rfl

@[simp] theorem getSlot_with_log (s : State) (v : LogSt) (k : Nat) :
    getSlot { s with log := v } k = getSlot s k := rfl

@[simp] theorem getSlot_with_pins (s : State) (v : PinSt) (k : Nat) :
    getSlot { s with pins := v } k = getSlot s k := rfl

@[simp] theorem getSlot_with_hbm (s : State) (v : Mem) (k : Nat) :
    getSlot { s with hbm := v } k = getSlot s k := rfl

@[simp] theorem getSlot_with_out (s : State) (v : List Out) (k : Nat) :
    getSlot { s with out := v } k = getSlot s k := rfl

@[simp] theorem getSlot_with_noticeSeq (s : State) (v : Nat) (k : Nat) :
    getSlot { s with noticeSeq := v } k = getSlot s k := rfl

@[simp] theorem getSlot_with_fresh (s : State) (v : Nat) (k : Nat) :
    getSlot { s with fresh := v } k = getSlot s k := rfl

@[simp] theorem getT_with_pending (s : State) (v : List Instr) (t : Nat) :
    getT { s with pending := v } t = getT s t := rfl

@[simp] theorem getT_with_regs (s : State) (v : Map Nat) (t : Nat) :
    getT { s with regs := v } t = getT s t := rfl

@[simp] theorem getT_with_dial (s : State) (v : DialSt) (t : Nat) :
    getT { s with dial := v } t = getT s t := rfl

@[simp] theorem getT_with_sched (s : State) (v : SchedSt) (t : Nat) :
    getT { s with sched := v } t = getT s t := rfl

@[simp] theorem getT_with_ports (s : State) (v : List PortSt) (t : Nat) :
    getT { s with ports := v } t = getT s t := rfl

@[simp] theorem getT_with_front (s : State) (v : FrontSt) (t : Nat) :
    getT { s with front := v } t = getT s t := rfl

@[simp] theorem getT_with_queue (s : State) (v : QueueSt) (t : Nat) :
    getT { s with queue := v } t = getT s t := rfl

@[simp] theorem getT_with_pipe (s : State) (v : PipeSt) (t : Nat) :
    getT { s with pipe := v } t = getT s t := rfl

@[simp] theorem getT_with_slots (s : State) (v : List SlotSt) (t : Nat) :
    getT { s with slots := v } t = getT s t := rfl

@[simp] theorem getT_with_quant (s : State) (v : QuantSt) (t : Nat) :
    getT { s with quant := v } t = getT s t := rfl

@[simp] theorem getT_with_power (s : State) (v : PowerSt) (t : Nat) :
    getT { s with power := v } t = getT s t := rfl

@[simp] theorem getT_with_tally (s : State) (v : TallySt) (t : Nat) :
    getT { s with tally := v } t = getT s t := rfl

@[simp] theorem getT_with_secure (s : State) (v : SecureSt) (t : Nat) :
    getT { s with secure := v } t = getT s t := rfl

@[simp] theorem getT_with_crown (s : State) (v : CrownSt) (t : Nat) :
    getT { s with crown := v } t = getT s t := rfl

@[simp] theorem getT_with_peer (s : State) (v : PeerSt) (t : Nat) :
    getT { s with peer := v } t = getT s t := rfl

@[simp] theorem getT_with_observe (s : State) (v : ObserveSt) (t : Nat) :
    getT { s with observe := v } t = getT s t := rfl

@[simp] theorem getT_with_log (s : State) (v : LogSt) (t : Nat) :
    getT { s with log := v } t = getT s t := rfl

@[simp] theorem getT_with_pins (s : State) (v : PinSt) (t : Nat) :
    getT { s with pins := v } t = getT s t := rfl

@[simp] theorem getT_with_hbm (s : State) (v : Mem) (t : Nat) :
    getT { s with hbm := v } t = getT s t := rfl

@[simp] theorem getT_with_out (s : State) (v : List Out) (t : Nat) :
    getT { s with out := v } t = getT s t := rfl

@[simp] theorem getT_with_noticeSeq (s : State) (v : Nat) (t : Nat) :
    getT { s with noticeSeq := v } t = getT s t := rfl

@[simp] theorem getT_with_fresh (s : State) (v : Nat) (t : Nat) :
    getT { s with fresh := v } t = getT s t := rfl

@[simp] theorem getLink_with_pending (s : State) (v : List Instr) (j : Nat) :
    getLink { s with pending := v } j = getLink s j := rfl

@[simp] theorem getLink_with_regs (s : State) (v : Map Nat) (j : Nat) :
    getLink { s with regs := v } j = getLink s j := rfl

@[simp] theorem getLink_with_dial (s : State) (v : DialSt) (j : Nat) :
    getLink { s with dial := v } j = getLink s j := rfl

@[simp] theorem getLink_with_sched (s : State) (v : SchedSt) (j : Nat) :
    getLink { s with sched := v } j = getLink s j := rfl

@[simp] theorem getLink_with_ports (s : State) (v : List PortSt) (j : Nat) :
    getLink { s with ports := v } j = getLink s j := rfl

@[simp] theorem getLink_with_front (s : State) (v : FrontSt) (j : Nat) :
    getLink { s with front := v } j = getLink s j := rfl

@[simp] theorem getLink_with_flow (s : State) (v : TableSt) (j : Nat) :
    getLink { s with flow := v } j = getLink s j := rfl

@[simp] theorem getLink_with_endpoint (s : State) (v : TableSt) (j : Nat) :
    getLink { s with endpoint := v } j = getLink s j := rfl

@[simp] theorem getLink_with_queue (s : State) (v : QueueSt) (j : Nat) :
    getLink { s with queue := v } j = getLink s j := rfl

@[simp] theorem getLink_with_pipe (s : State) (v : PipeSt) (j : Nat) :
    getLink { s with pipe := v } j = getLink s j := rfl

@[simp] theorem getLink_with_slots (s : State) (v : List SlotSt) (j : Nat) :
    getLink { s with slots := v } j = getLink s j := rfl

@[simp] theorem getLink_with_quant (s : State) (v : QuantSt) (j : Nat) :
    getLink { s with quant := v } j = getLink s j := rfl

@[simp] theorem getLink_with_power (s : State) (v : PowerSt) (j : Nat) :
    getLink { s with power := v } j = getLink s j := rfl

@[simp] theorem getLink_with_tally (s : State) (v : TallySt) (j : Nat) :
    getLink { s with tally := v } j = getLink s j := rfl

@[simp] theorem getLink_with_secure (s : State) (v : SecureSt) (j : Nat) :
    getLink { s with secure := v } j = getLink s j := rfl

@[simp] theorem getLink_with_crown (s : State) (v : CrownSt) (j : Nat) :
    getLink { s with crown := v } j = getLink s j := rfl

@[simp] theorem getLink_with_observe (s : State) (v : ObserveSt) (j : Nat) :
    getLink { s with observe := v } j = getLink s j := rfl

@[simp] theorem getLink_with_log (s : State) (v : LogSt) (j : Nat) :
    getLink { s with log := v } j = getLink s j := rfl

@[simp] theorem getLink_with_pins (s : State) (v : PinSt) (j : Nat) :
    getLink { s with pins := v } j = getLink s j := rfl

@[simp] theorem getLink_with_hbm (s : State) (v : Mem) (j : Nat) :
    getLink { s with hbm := v } j = getLink s j := rfl

@[simp] theorem getLink_with_out (s : State) (v : List Out) (j : Nat) :
    getLink { s with out := v } j = getLink s j := rfl

@[simp] theorem getLink_with_noticeSeq (s : State) (v : Nat) (j : Nat) :
    getLink { s with noticeSeq := v } j = getLink s j := rfl

@[simp] theorem getLink_with_fresh (s : State) (v : Nat) (j : Nat) :
    getLink { s with fresh := v } j = getLink s j := rfl

@[simp] theorem liveJob_with_pending (s : State) (v : List Instr) (j : Nat) :
    liveJob { s with pending := v } j = liveJob s j := rfl

@[simp] theorem liveJob_with_regs (s : State) (v : Map Nat) (j : Nat) :
    liveJob { s with regs := v } j = liveJob s j := rfl

@[simp] theorem liveJob_with_dial (s : State) (v : DialSt) (j : Nat) :
    liveJob { s with dial := v } j = liveJob s j := rfl

@[simp] theorem liveJob_with_sched (s : State) (v : SchedSt) (j : Nat) :
    liveJob { s with sched := v } j = liveJob s j := rfl

@[simp] theorem liveJob_with_ports (s : State) (v : List PortSt) (j : Nat) :
    liveJob { s with ports := v } j = liveJob s j := rfl

@[simp] theorem liveJob_with_front (s : State) (v : FrontSt) (j : Nat) :
    liveJob { s with front := v } j = liveJob s j := rfl

@[simp] theorem liveJob_with_flow (s : State) (v : TableSt) (j : Nat) :
    liveJob { s with flow := v } j = liveJob s j := rfl

@[simp] theorem liveJob_with_endpoint (s : State) (v : TableSt) (j : Nat) :
    liveJob { s with endpoint := v } j = liveJob s j := rfl

@[simp] theorem liveJob_with_queue (s : State) (v : QueueSt) (j : Nat) :
    liveJob { s with queue := v } j = liveJob s j := rfl

@[simp] theorem liveJob_with_pipe (s : State) (v : PipeSt) (j : Nat) :
    liveJob { s with pipe := v } j = liveJob s j := rfl

@[simp] theorem liveJob_with_slots (s : State) (v : List SlotSt) (j : Nat) :
    liveJob { s with slots := v } j = liveJob s j := rfl

@[simp] theorem liveJob_with_quant (s : State) (v : QuantSt) (j : Nat) :
    liveJob { s with quant := v } j = liveJob s j := rfl

@[simp] theorem liveJob_with_power (s : State) (v : PowerSt) (j : Nat) :
    liveJob { s with power := v } j = liveJob s j := rfl

@[simp] theorem liveJob_with_tally (s : State) (v : TallySt) (j : Nat) :
    liveJob { s with tally := v } j = liveJob s j := rfl

@[simp] theorem liveJob_with_secure (s : State) (v : SecureSt) (j : Nat) :
    liveJob { s with secure := v } j = liveJob s j := rfl

@[simp] theorem liveJob_with_peer (s : State) (v : PeerSt) (j : Nat) :
    liveJob { s with peer := v } j = liveJob s j := rfl

@[simp] theorem liveJob_with_observe (s : State) (v : ObserveSt) (j : Nat) :
    liveJob { s with observe := v } j = liveJob s j := rfl

@[simp] theorem liveJob_with_log (s : State) (v : LogSt) (j : Nat) :
    liveJob { s with log := v } j = liveJob s j := rfl

@[simp] theorem liveJob_with_pins (s : State) (v : PinSt) (j : Nat) :
    liveJob { s with pins := v } j = liveJob s j := rfl

@[simp] theorem liveJob_with_hbm (s : State) (v : Mem) (j : Nat) :
    liveJob { s with hbm := v } j = liveJob s j := rfl

@[simp] theorem liveJob_with_out (s : State) (v : List Out) (j : Nat) :
    liveJob { s with out := v } j = liveJob s j := rfl

@[simp] theorem liveJob_with_noticeSeq (s : State) (v : Nat) (j : Nat) :
    liveJob { s with noticeSeq := v } j = liveJob s j := rfl

@[simp] theorem liveJob_with_fresh (s : State) (v : Nat) (j : Nat) :
    liveJob { s with fresh := v } j = liveJob s j := rfl

@[simp] theorem findSession_with_pending (s : State) (v : List Instr) (n : Nat) :
    findSession { s with pending := v } n = findSession s n := rfl

@[simp] theorem findSession_with_regs (s : State) (v : Map Nat) (n : Nat) :
    findSession { s with regs := v } n = findSession s n := rfl

@[simp] theorem findSession_with_dial (s : State) (v : DialSt) (n : Nat) :
    findSession { s with dial := v } n = findSession s n := rfl

@[simp] theorem findSession_with_sched (s : State) (v : SchedSt) (n : Nat) :
    findSession { s with sched := v } n = findSession s n := rfl

@[simp] theorem findSession_with_ports (s : State) (v : List PortSt) (n : Nat) :
    findSession { s with ports := v } n = findSession s n := rfl

@[simp] theorem findSession_with_front (s : State) (v : FrontSt) (n : Nat) :
    findSession { s with front := v } n = findSession s n := rfl

@[simp] theorem findSession_with_flow (s : State) (v : TableSt) (n : Nat) :
    findSession { s with flow := v } n = findSession s n := rfl

@[simp] theorem findSession_with_endpoint (s : State) (v : TableSt) (n : Nat) :
    findSession { s with endpoint := v } n = findSession s n := rfl

@[simp] theorem findSession_with_queue (s : State) (v : QueueSt) (n : Nat) :
    findSession { s with queue := v } n = findSession s n := rfl

@[simp] theorem findSession_with_pipe (s : State) (v : PipeSt) (n : Nat) :
    findSession { s with pipe := v } n = findSession s n := rfl

@[simp] theorem findSession_with_slots (s : State) (v : List SlotSt) (n : Nat) :
    findSession { s with slots := v } n = findSession s n := rfl

@[simp] theorem findSession_with_quant (s : State) (v : QuantSt) (n : Nat) :
    findSession { s with quant := v } n = findSession s n := rfl

@[simp] theorem findSession_with_power (s : State) (v : PowerSt) (n : Nat) :
    findSession { s with power := v } n = findSession s n := rfl

@[simp] theorem findSession_with_tally (s : State) (v : TallySt) (n : Nat) :
    findSession { s with tally := v } n = findSession s n := rfl

@[simp] theorem findSession_with_secure (s : State) (v : SecureSt) (n : Nat) :
    findSession { s with secure := v } n = findSession s n := rfl

@[simp] theorem findSession_with_peer (s : State) (v : PeerSt) (n : Nat) :
    findSession { s with peer := v } n = findSession s n := rfl

@[simp] theorem findSession_with_observe (s : State) (v : ObserveSt) (n : Nat) :
    findSession { s with observe := v } n = findSession s n := rfl

@[simp] theorem findSession_with_log (s : State) (v : LogSt) (n : Nat) :
    findSession { s with log := v } n = findSession s n := rfl

@[simp] theorem findSession_with_pins (s : State) (v : PinSt) (n : Nat) :
    findSession { s with pins := v } n = findSession s n := rfl

@[simp] theorem findSession_with_hbm (s : State) (v : Mem) (n : Nat) :
    findSession { s with hbm := v } n = findSession s n := rfl

@[simp] theorem findSession_with_out (s : State) (v : List Out) (n : Nat) :
    findSession { s with out := v } n = findSession s n := rfl

@[simp] theorem findSession_with_noticeSeq (s : State) (v : Nat) (n : Nat) :
    findSession { s with noticeSeq := v } n = findSession s n := rfl

@[simp] theorem findSession_with_fresh (s : State) (v : Nat) (n : Nat) :
    findSession { s with fresh := v } n = findSession s n := rfl

@[simp] theorem findBatch_with_pending (s : State) (v : List Instr) (b : Nat) :
    findBatch { s with pending := v } b = findBatch s b := rfl

@[simp] theorem findBatch_with_regs (s : State) (v : Map Nat) (b : Nat) :
    findBatch { s with regs := v } b = findBatch s b := rfl

@[simp] theorem findBatch_with_dial (s : State) (v : DialSt) (b : Nat) :
    findBatch { s with dial := v } b = findBatch s b := rfl

@[simp] theorem findBatch_with_sched (s : State) (v : SchedSt) (b : Nat) :
    findBatch { s with sched := v } b = findBatch s b := rfl

@[simp] theorem findBatch_with_ports (s : State) (v : List PortSt) (b : Nat) :
    findBatch { s with ports := v } b = findBatch s b := rfl

@[simp] theorem findBatch_with_front (s : State) (v : FrontSt) (b : Nat) :
    findBatch { s with front := v } b = findBatch s b := rfl

@[simp] theorem findBatch_with_flow (s : State) (v : TableSt) (b : Nat) :
    findBatch { s with flow := v } b = findBatch s b := rfl

@[simp] theorem findBatch_with_endpoint (s : State) (v : TableSt) (b : Nat) :
    findBatch { s with endpoint := v } b = findBatch s b := rfl

@[simp] theorem findBatch_with_queue (s : State) (v : QueueSt) (b : Nat) :
    findBatch { s with queue := v } b = findBatch s b := rfl

@[simp] theorem findBatch_with_slots (s : State) (v : List SlotSt) (b : Nat) :
    findBatch { s with slots := v } b = findBatch s b := rfl

@[simp] theorem findBatch_with_quant (s : State) (v : QuantSt) (b : Nat) :
    findBatch { s with quant := v } b = findBatch s b := rfl

@[simp] theorem findBatch_with_power (s : State) (v : PowerSt) (b : Nat) :
    findBatch { s with power := v } b = findBatch s b := rfl

@[simp] theorem findBatch_with_tally (s : State) (v : TallySt) (b : Nat) :
    findBatch { s with tally := v } b = findBatch s b := rfl

@[simp] theorem findBatch_with_secure (s : State) (v : SecureSt) (b : Nat) :
    findBatch { s with secure := v } b = findBatch s b := rfl

@[simp] theorem findBatch_with_crown (s : State) (v : CrownSt) (b : Nat) :
    findBatch { s with crown := v } b = findBatch s b := rfl

@[simp] theorem findBatch_with_peer (s : State) (v : PeerSt) (b : Nat) :
    findBatch { s with peer := v } b = findBatch s b := rfl

@[simp] theorem findBatch_with_observe (s : State) (v : ObserveSt) (b : Nat) :
    findBatch { s with observe := v } b = findBatch s b := rfl

@[simp] theorem findBatch_with_log (s : State) (v : LogSt) (b : Nat) :
    findBatch { s with log := v } b = findBatch s b := rfl

@[simp] theorem findBatch_with_pins (s : State) (v : PinSt) (b : Nat) :
    findBatch { s with pins := v } b = findBatch s b := rfl

@[simp] theorem findBatch_with_hbm (s : State) (v : Mem) (b : Nat) :
    findBatch { s with hbm := v } b = findBatch s b := rfl

@[simp] theorem findBatch_with_out (s : State) (v : List Out) (b : Nat) :
    findBatch { s with out := v } b = findBatch s b := rfl

@[simp] theorem findBatch_with_noticeSeq (s : State) (v : Nat) (b : Nat) :
    findBatch { s with noticeSeq := v } b = findBatch s b := rfl

@[simp] theorem findBatch_with_fresh (s : State) (v : Nat) (b : Nat) :
    findBatch { s with fresh := v } b = findBatch s b := rfl

@[simp] theorem batchNow_with_pending (s : State) (v : List Instr) :
    batchNow { s with pending := v } = batchNow s := rfl

@[simp] theorem batchNow_with_regs (s : State) (v : Map Nat) :
    batchNow { s with regs := v } = batchNow s := rfl

@[simp] theorem batchNow_with_sched (s : State) (v : SchedSt) :
    batchNow { s with sched := v } = batchNow s := rfl

@[simp] theorem batchNow_with_ports (s : State) (v : List PortSt) :
    batchNow { s with ports := v } = batchNow s := rfl

@[simp] theorem batchNow_with_front (s : State) (v : FrontSt) :
    batchNow { s with front := v } = batchNow s := rfl

@[simp] theorem batchNow_with_flow (s : State) (v : TableSt) :
    batchNow { s with flow := v } = batchNow s := rfl

@[simp] theorem batchNow_with_endpoint (s : State) (v : TableSt) :
    batchNow { s with endpoint := v } = batchNow s := rfl

@[simp] theorem batchNow_with_queue (s : State) (v : QueueSt) :
    batchNow { s with queue := v } = batchNow s := rfl

@[simp] theorem batchNow_with_pipe (s : State) (v : PipeSt) :
    batchNow { s with pipe := v } = batchNow s := rfl

@[simp] theorem batchNow_with_slots (s : State) (v : List SlotSt) :
    batchNow { s with slots := v } = batchNow s := rfl

@[simp] theorem batchNow_with_quant (s : State) (v : QuantSt) :
    batchNow { s with quant := v } = batchNow s := rfl

@[simp] theorem batchNow_with_power (s : State) (v : PowerSt) :
    batchNow { s with power := v } = batchNow s := rfl

@[simp] theorem batchNow_with_tally (s : State) (v : TallySt) :
    batchNow { s with tally := v } = batchNow s := rfl

@[simp] theorem batchNow_with_secure (s : State) (v : SecureSt) :
    batchNow { s with secure := v } = batchNow s := rfl

@[simp] theorem batchNow_with_crown (s : State) (v : CrownSt) :
    batchNow { s with crown := v } = batchNow s := rfl

@[simp] theorem batchNow_with_peer (s : State) (v : PeerSt) :
    batchNow { s with peer := v } = batchNow s := rfl

@[simp] theorem batchNow_with_observe (s : State) (v : ObserveSt) :
    batchNow { s with observe := v } = batchNow s := rfl

@[simp] theorem batchNow_with_log (s : State) (v : LogSt) :
    batchNow { s with log := v } = batchNow s := rfl

@[simp] theorem batchNow_with_pins (s : State) (v : PinSt) :
    batchNow { s with pins := v } = batchNow s := rfl

@[simp] theorem batchNow_with_hbm (s : State) (v : Mem) :
    batchNow { s with hbm := v } = batchNow s := rfl

@[simp] theorem batchNow_with_out (s : State) (v : List Out) :
    batchNow { s with out := v } = batchNow s := rfl

@[simp] theorem batchNow_with_noticeSeq (s : State) (v : Nat) :
    batchNow { s with noticeSeq := v } = batchNow s := rfl

@[simp] theorem batchNow_with_fresh (s : State) (v : Nat) :
    batchNow { s with fresh := v } = batchNow s := rfl

@[simp] theorem dialSet_with_pending (s : State) (v : List Instr) :
    dialSet { s with pending := v } = dialSet s := rfl

@[simp] theorem dialSet_with_dial (s : State) (v : DialSt) :
    dialSet { s with dial := v } = dialSet s := rfl

@[simp] theorem dialSet_with_sched (s : State) (v : SchedSt) :
    dialSet { s with sched := v } = dialSet s := rfl

@[simp] theorem dialSet_with_ports (s : State) (v : List PortSt) :
    dialSet { s with ports := v } = dialSet s := rfl

@[simp] theorem dialSet_with_front (s : State) (v : FrontSt) :
    dialSet { s with front := v } = dialSet s := rfl

@[simp] theorem dialSet_with_flow (s : State) (v : TableSt) :
    dialSet { s with flow := v } = dialSet s := rfl

@[simp] theorem dialSet_with_endpoint (s : State) (v : TableSt) :
    dialSet { s with endpoint := v } = dialSet s := rfl

@[simp] theorem dialSet_with_queue (s : State) (v : QueueSt) :
    dialSet { s with queue := v } = dialSet s := rfl

@[simp] theorem dialSet_with_pipe (s : State) (v : PipeSt) :
    dialSet { s with pipe := v } = dialSet s := rfl

@[simp] theorem dialSet_with_slots (s : State) (v : List SlotSt) :
    dialSet { s with slots := v } = dialSet s := rfl

@[simp] theorem dialSet_with_quant (s : State) (v : QuantSt) :
    dialSet { s with quant := v } = dialSet s := rfl

@[simp] theorem dialSet_with_power (s : State) (v : PowerSt) :
    dialSet { s with power := v } = dialSet s := rfl

@[simp] theorem dialSet_with_tally (s : State) (v : TallySt) :
    dialSet { s with tally := v } = dialSet s := rfl

@[simp] theorem dialSet_with_secure (s : State) (v : SecureSt) :
    dialSet { s with secure := v } = dialSet s := rfl

@[simp] theorem dialSet_with_crown (s : State) (v : CrownSt) :
    dialSet { s with crown := v } = dialSet s := rfl

@[simp] theorem dialSet_with_peer (s : State) (v : PeerSt) :
    dialSet { s with peer := v } = dialSet s := rfl

@[simp] theorem dialSet_with_observe (s : State) (v : ObserveSt) :
    dialSet { s with observe := v } = dialSet s := rfl

@[simp] theorem dialSet_with_log (s : State) (v : LogSt) :
    dialSet { s with log := v } = dialSet s := rfl

@[simp] theorem dialSet_with_pins (s : State) (v : PinSt) :
    dialSet { s with pins := v } = dialSet s := rfl

@[simp] theorem dialSet_with_hbm (s : State) (v : Mem) :
    dialSet { s with hbm := v } = dialSet s := rfl

@[simp] theorem dialSet_with_out (s : State) (v : List Out) :
    dialSet { s with out := v } = dialSet s := rfl

@[simp] theorem dialSet_with_noticeSeq (s : State) (v : Nat) :
    dialSet { s with noticeSeq := v } = dialSet s := rfl

@[simp] theorem dialSet_with_fresh (s : State) (v : Nat) :
    dialSet { s with fresh := v } = dialSet s := rfl

@[simp] theorem dialSeconds_with_pending (s : State) (v : List Instr) :
    dialSeconds { s with pending := v } = dialSeconds s := rfl

@[simp] theorem dialSeconds_with_regs (s : State) (v : Map Nat) :
    dialSeconds { s with regs := v } = dialSeconds s := rfl

@[simp] theorem dialSeconds_with_sched (s : State) (v : SchedSt) :
    dialSeconds { s with sched := v } = dialSeconds s := rfl

@[simp] theorem dialSeconds_with_ports (s : State) (v : List PortSt) :
    dialSeconds { s with ports := v } = dialSeconds s := rfl

@[simp] theorem dialSeconds_with_front (s : State) (v : FrontSt) :
    dialSeconds { s with front := v } = dialSeconds s := rfl

@[simp] theorem dialSeconds_with_flow (s : State) (v : TableSt) :
    dialSeconds { s with flow := v } = dialSeconds s := rfl

@[simp] theorem dialSeconds_with_endpoint (s : State) (v : TableSt) :
    dialSeconds { s with endpoint := v } = dialSeconds s := rfl

@[simp] theorem dialSeconds_with_queue (s : State) (v : QueueSt) :
    dialSeconds { s with queue := v } = dialSeconds s := rfl

@[simp] theorem dialSeconds_with_pipe (s : State) (v : PipeSt) :
    dialSeconds { s with pipe := v } = dialSeconds s := rfl

@[simp] theorem dialSeconds_with_slots (s : State) (v : List SlotSt) :
    dialSeconds { s with slots := v } = dialSeconds s := rfl

@[simp] theorem dialSeconds_with_quant (s : State) (v : QuantSt) :
    dialSeconds { s with quant := v } = dialSeconds s := rfl

@[simp] theorem dialSeconds_with_power (s : State) (v : PowerSt) :
    dialSeconds { s with power := v } = dialSeconds s := rfl

@[simp] theorem dialSeconds_with_tally (s : State) (v : TallySt) :
    dialSeconds { s with tally := v } = dialSeconds s := rfl

@[simp] theorem dialSeconds_with_secure (s : State) (v : SecureSt) :
    dialSeconds { s with secure := v } = dialSeconds s := rfl

@[simp] theorem dialSeconds_with_crown (s : State) (v : CrownSt) :
    dialSeconds { s with crown := v } = dialSeconds s := rfl

@[simp] theorem dialSeconds_with_peer (s : State) (v : PeerSt) :
    dialSeconds { s with peer := v } = dialSeconds s := rfl

@[simp] theorem dialSeconds_with_observe (s : State) (v : ObserveSt) :
    dialSeconds { s with observe := v } = dialSeconds s := rfl

@[simp] theorem dialSeconds_with_log (s : State) (v : LogSt) :
    dialSeconds { s with log := v } = dialSeconds s := rfl

@[simp] theorem dialSeconds_with_pins (s : State) (v : PinSt) :
    dialSeconds { s with pins := v } = dialSeconds s := rfl

@[simp] theorem dialSeconds_with_hbm (s : State) (v : Mem) :
    dialSeconds { s with hbm := v } = dialSeconds s := rfl

@[simp] theorem dialSeconds_with_out (s : State) (v : List Out) :
    dialSeconds { s with out := v } = dialSeconds s := rfl

@[simp] theorem dialSeconds_with_noticeSeq (s : State) (v : Nat) :
    dialSeconds { s with noticeSeq := v } = dialSeconds s := rfl

@[simp] theorem dialSeconds_with_fresh (s : State) (v : Nat) :
    dialSeconds { s with fresh := v } = dialSeconds s := rfl

end Sys2Proof.Machine
end

