-- ==== Sys2Proof/Tests/Slice0.lean ====
section
/-! SUPPORT. Tests of the model: ill-formed commands that WellFormed refuses, the worked examples of the manual, and for each
statement with premises a state and operands that meet them (of premises that several clauses share, the first clause's). -/

namespace Sys2Proof.Tests

open Sys2Proof.Machine

set_option maxRecDepth 100000
set_option synthInstance.maxSize 2000
set_option exponentiation.threshold 1000

/-! ## Ill-formed commands, one for each check -/

/-- No row of the table has bits, so no word spells a command. -/
theorem test_no_word_spells_a_command : decodeTableWord 64 0 = none ∧ State.reset.withFetchWord 64 0 = State.reset := by decide

theorem test_wf_fault_places : (List.map FaultLoc.wf [.frontRule 65536, .endpointEntry 65536, .stashEntry 2 0, .stashEntry 0 64,
    .queueItem 262144 0 0, .queueItem 0 4 0, .queueItem 0 0 65536, .flowRecord 16777216, .cuckooEntry 2 0 0, .cuckooEntry 0 2 0, .cuckooEntry 0 0 16777216, .freeWord 2 0,
    .freeWord 0 16777216, .stateBlock 16 0, .stateBlock 0 16777216, .modelData 16, .otherHbm (2 ^ 40), .coreStore 32,
    .clusterBuffer 32, .dieLink 4, .verdictMap 64, .idleCuckoo 2 0 0, .idleCuckoo 0 2 0,
    .idleCuckoo 0 0 16777216, .coreTree 16 0, .coreTree 0 32, .queuePointer 262144 0 0 0, .queuePointer 0 4 0 0, .queuePointer 0 0 4 0,
    .queuePointer 0 0 0 131072]).all (! ·) = true := by decide

theorem test_wf_fault_channel : FaultEv.wf ⟨.frontTable 0, true, 256⟩ = false ∧ FaultEv.wf ⟨.correctedWord, true, 0⟩ = false ∧
    FaultEv.wf ⟨.queuePointer 0 0 0 0, true, 0⟩ = false := by decide

theorem test_wf_ports_and_links : PortRef.wf (.head 8) = false ∧ PortRef.wf (.peer 4) = false := by decide

/-- A cold start with straps, size, capture, units and sensors that exist. -/
def boot : BootInput := ⟨true, 27, [], 0, ⟨none, 0, 0, false, false⟩, List.replicate 16384 0, 0, 3, 100, [(4, 63)], true, true⟩

theorem test_wf_cold_start :
    boot.wf = true ∧ ({ boot with straps := 4 } : BootInput).wf = false ∧ ({ boot with sizeLog2 := 30 } : BootInput).wf = false ∧
    ({ boot with capture := [] } : BootInput).wf = false ∧ ({ boot with selfTest := 2 ^ 376 } : BootInput).wf = false ∧
    ({ boot with hot := [(5, 0)] } : BootInput).wf = false := by decide

/-- A request whose header fields have their largest values. -/
def top : Request := ⟨15, 63, 65535, 65535, 2 ^ 32 - 1⟩

theorem test_wf_request :
    top.wf = true ∧ ({ top with session := 16 } : Request).wf = false ∧ ({ top with dest := 64 } : Request).wf = false ∧
    ({ top with layer := 65536 } : Request).wf = false ∧ ({ top with operator := 65536 } : Request).wf = false ∧
    ({ top with tag := 2 ^ 32 } : Request).wf = false := by decide

/-- Each check of `Instr.wf` refuses a term just beyond it. -/
theorem test_wf_refuses : ([.restartReady (2 ^ 32), .budgetHeld 64, .headBundle 0 8 [] true ⟨0, 0⟩ [] [],
    .headBundle 0 0 [] true ⟨0, 0⟩ [] [⟨8, [], true, ⟨0, 0⟩, []⟩],
    .headBundle 0 0 [] true ⟨0, 0⟩ [⟨.dieLink 4, true, 0⟩] [], .macControlFrame 8, .laneLockLost 0 (.head 0) (some 4),
    .laneLockLost 0 (.peer 0) (some 2), .retrainDone 0 (.head 8), .retrainTimeout 0 (.peer 4), .operationFetch 0 16 [],
    .verdictTransmit 0 8 [], .shedBundleTimeout 0 8, .cuckooInsert 2 [], .rebuildStart 2, .rebuildPlace ⟨2, []⟩, .periodEnd [(2, 0, 1)] [] [] [] [], .periodEnd [] [(0, 0, 1)] [] [] [],
    .periodEnd [] [] [(10, 0, 1)] [] [], .periodEnd [] [] [] [(6, 0, 1)] [], .periodEnd [] [] [] [] [(14, 128, 1)], .rebuildDone 2,
    .rakeSweepStart 2, .rakeVisit 2 [], .queueFlush 262144, .queueDescriptorWrite 262144 0 0, .queueDescriptorWrite 0 8 0,
    .itemTake 262144 [], .qRelease 16 0 true 0 0, .qPin 0 256 true 0 0, .qPin 0 0 true (2 ^ 24) 0, .qBound 0 0 true 0 (2 ^ 24),
    .arrayQSelect 0 256, .stage 16, .stageComplete 16, .slotDiscard 16, .activate 16, .rollback 16, .release 16, .adaptStart 16,
    .adaptStop 16, .promote 16, .swap 16, .drainEnd 16, .candidateForm 16, .autoRelease 16, .adaptUnit 16, .domainReady 20,
    .telemetryResult 8 none none, .telemetryResult 0 (some 65536) none, .telemetryResult 0 none (some 65536), .droopStretchStart 32,
    .droopStretchEnd 32 0, .sensorRead 13 0 0 0, .sensorRead 0 64 0 0, .trip 5 0, .trip 0 64, .tallySelect 4096, .sessionClose 16,
    .badMessage 16 [], .identity ⟨16, 0, 0, 0, 0⟩, .regRead top (2 ^ 40) 1, .regRead top 0 65536, .regWrite top [(2 ^ 40, 0)],
    .dequeue top (2 ^ 32) 1, .dequeue top 0 65536, .tallyRoot top (2 ^ 64), .tallyLeaves top 256 0 0 0, .tallyLeaves top 0 65536 0 0,
    .tallyLeaves top 0 0 65536 0, .tallyLeaves top 0 0 0 (2 ^ 64), .tallyProof top 256 0 0, .tallyProof top 0 65536 0,
    .tallyProof top 0 0 (2 ^ 64), .jobAbort top (2 ^ 64), .jobStatus top (2 ^ 64), .jobStart 0x2FFFF [], .jobStart 0x38000 [],
    .captureForward 262144, .capturePush 262144 true, .crownCtrlWrite (2 ^ 40) 0, .hello 0 4 [], .helloTimeout 4,
    .peerFrameError 4 true, .nak 4 [], .credit 4 [], .request 4 [], .response 4 [], .distData 4 [], .distDone 4 [], .distRxTimeout 16,
    .slack 4 [], .event 0 4 [], .hang 0 0, .hang 6 0, .headportPortCfgWrite 8 0, .registerWrite (2 ^ 40) 0,
    .blockLockGained (.head 8) 0, .blockLockGained (.peer 0) 4, .routerAdvertisement (2 ^ 128) 1, .routerAdvertisement 0 65536,
    .addressResolution false (2 ^ 32) 0 0 true, .addressResolution true 0 (2 ^ 128) 0 true, .addressResolution true 0 0 (2 ^ 48) true,
    .echoRequest false (2 ^ 32) [], .echoRequest true (2 ^ 128) []] : List Instr).all (fun c => !c.wf) = true := by decide

/-! ## Worked examples of the manual -/

/-- 00_scope.md, the roundings: 5, 7 and −5 halved. -/
theorem test_roundings : [5, 7, -5].map (fun a => (floorSh a 1, rheDiv a 2, truncDiv a 2)) = [(2, 2, 2), (3, 4, 3), (-3, -2, -2)] := by
  decide

/-- 07_arithmetic.md, one output through two groups: bias and two groups into the accumulator, then 225, or 255 and SAT where ZO
is 140. -/
theorem test_one_output_through_two_groups :
    accumulate 16 [(3, 0x818000), (groupSum (List.replicate 32 72) (List.replicate 32 12), 0x78C000),
      (groupSum (List.replicate 32 (-28)) (List.replicate 32 42), 0x71A001)] (0, false) = (5457983, false) ∧
    requantise 5457983 0x60000000 46 100 0 100 255 = (225, false) ∧
    requantise 5457983 0x60000000 46 140 0 140 255 = (255, true) := by decide

/-- 07_arithmetic.md, one wide product: −1,234 × 37. -/
theorem test_one_wide_product :
    limbLo (-1234) = 46 ∧ limbHi (-1234) = -5 ∧ wideGroupSum [-1234] [37] = -45658 := by decide

/-- 07_arithmetic.md, an interpolated lookup, inside the table and at both of its ends. -/
theorem test_interpolated_lookup :
    let t : List Int := [7, 0, 1000, 1900, 0, 0, 0, 0, 0, 0, 0, 0, 0, 0, 0, 100, 4196]
    lutAt 4 0 0 t 10000 = 1397 ∧ lutAt 4 0 0 t (-5) = 7 ∧ lutAt 4 0 0 t 70000 = 4195 := by decide

/-- 09_tree_ensembles.md, one tree, three heads: a code equal to its threshold goes right, a missing value where its code leads. -/
theorem test_one_tree_three_heads :
    let t : Tree := ⟨3, 1250, [(5, 3), (12, 10), (5, 7), (30, 100), (2, 1), (0, 256), (17, 40)],
      [410, -95, 1210, 360, -1250, -1250, 77, 905]⟩
    let codes (c2 c5 c12 c17 c30 : Nat) : List Nat :=
      (((((List.replicate 40 0).set 2 c2).set 5 c5).set 12 c12).set 17 c17).set 30 c30
    [codes 1 3 14 50 0, codes 0 2 0 0 100, codes 0 9 0 39 0].map (fun c => (t.leaf c, t.value 1 c 0)) =
      [(4, -1250), (1, -95), (6, 77)] := by decide

/-- 09_tree_ensembles.md, 1,800 trees over 40 features: a tree of depth 7 takes 768 bytes and 4 columns. -/
theorem test_tree_size : treeSize 1 7 = 768 ∧ nodeRows 7 = 4 := by decide

/-- 01_architecture.md, one layer in three shapes: 192 cycles in the full shape, without cluster 5 of die 2, and without die 3. -/
theorem test_one_layer_in_three_shapes :
    let o : OpRec := { OpRec.none_ with kind := 1, n := 256, g := 64, outputs := 256 }
    let full := 2 ^ 376 - 1
    densePass full 4200 o = 192 ∧ densePass (full - 2 ^ 357) 4200 o = 192 ∧
      densePass (full - 2 ^ 375 - 255 * 2 ^ 360) 4200 o = 192 := by decide

/-- 10_sequence_models.md, one token position: the surprise of code 1 is 5,899. -/
theorem test_one_token_position :
    let t : LossTables := ⟨⟨4, 0, -12288, [3263, 8869, 24109, 65536, 0]⟩, ⟨4, 0, 0, List.replicate 17 1803⟩, 16, 2839⟩
    t.lse [8192, 4096, 0, -4096] = 9995 ∧ t.loss [8192, 4096, 0, -4096] 1 = 5899 := by decide

/-- 11_model_slots_and_adaptation.md, one element: the weight 17 becomes 16, the remainder 74, m 290 and v 3,257. -/
theorem test_one_adapted_element :
    updateElem ⟨1, false, 0, 4, 5, 24, 26, 3, 8, 0, 8, 5, 10, 4, 40000, 6, 655, 2000, 1000, 1⟩ ⟨4, 0, 0, List.replicate 17 18373⟩
      1440 17 ⟨-80, 160, 3200⟩ = (16, ⟨74, 290, 3257⟩, false) := by decide

/-- 08_quantisation.md, one tensor through a misfit and a bound: the windows, the modes and the scales of batches 400 to 406. -/
theorem test_window_through_a_misfit :
    let d : TensorDesc := ⟨0x7A0000 + 36000, 0, 0, 4, false, true, 8192, 5000, 0xFFFFFFFF, []⟩
    let at_ (l : List (Nat × Bool)) : QTensor := l.foldl (fun q x => q.push 4 (0x7A0000 + x.1) x.2) QTensor.fresh
    let r (l : List (Nat × Bool)) : Nat × Nat := ((at_ l).mode, chosenScale d (at_ l) false - 0x7A0000)
    let l := [(38000, false), (40000, false), (37000, false)]
    r l = (0, 36000) ∧ r (l ++ [(41000, false)]) = (2, 46125) ∧ r (l ++ [(41000, false), (44000, false)]) = (2, 49500) ∧
      r (l ++ [(41000, false), (44000, false), (52000, true)]) = (1, 58500) := by decide

/-- 08_quantisation.md, the same example: 2,300 and 3,900 marks of 1,024,000 elements pass, 9,100 are a misfit; LO and HI bound
58,500 to 55,000. -/
theorem test_misfit_and_bound :
    let d : TensorDesc := ⟨0x7A0000 + 36000, 0, 0, 4, false, true, 8192, 5000, 0xFFFFFFFF, []⟩
    let s (n : Nat) : Stats := ⟨0, 0, 0, 0, n, 0, 1024000, 0⟩
    misfits d (s 3900) 0 = false ∧ misfits d (s 9100) 0 = true ∧
      controlScale (some ⟨5, 12, false, 2, 0x7A0001, 0x7A0000 + 55000, 408⟩) (0x7A0000 + 58500) = (0x7A0000 + 55000, true) := by
  decide

/-- 02_dial_and_schedule.md, a cap change: the decisions for rounds 41 and 44. -/
theorem test_cap_change :
    let c : Schedule := ⟨0, 1, 100, 3, 4000, 1200, 2000, false, 0,
      [⟨1, 0, 0, 3, 0, 1, 70000, 35000, 2000, 0⟩, ⟨1, 1, 1, 3, 0, 1, 40000, 20000, 2000, 0⟩, ⟨2, 1, 5, 1, 0, 1, 6000, 0, 0, 0⟩]⟩
    decideGrants c 1500 1000 = ([(70000, false), (20000, false), (6000, false)], 2000) ∧
      decideGrants c 1000 1500 = ([(70000, false), (20000, false), (6000, false)], 2000) ∧
      decideGrants c 1500 1500 = ([(70000, false), (40000, false), (6000, false)], 4000) := by decide

/-- 12_power_and_thermal.md, fixed frequency under a lowered cap: GATE 22 at 1,500 MHz gives 984 MHz, GATE 21 gives 1,007. -/
theorem test_gated_rates : fEff 9 22 = 984 ∧ fEff 9 21 = 1007 := by decide

/-- 13_energy_tallies.md, an epoch of three accounts: grains and carries of account 5, and the static shares. -/
theorem test_epoch_of_three_accounts :
    let x := 2 ^ 40
    let e : Epoch := ⟨0, 0, [(0, ⟨70 * x, 20 * x, 10 * x, 0, 100 * x, 0, 0⟩),
      (5, ⟨30000 + 160 * x + 50000, 30 * x + 15536, 10 * x - 65536, 0, 200 * x, 0, 0⟩),
      (17, ⟨80 * x, 15 * x, 5 * x, 0, 100 * x, 0, 0⟩)], [], 0, 0, 0, 0, 1, 0, false⟩
    let r := closeAccount e 0 (620 * x + 13) (400 * x) [] []
    (r 5).grains = [2684354561, 503316480, 167772159, 5200936960] ∧ (r 5).carries = [14464, 15536, 0, 6] ∧
      (r 0).carries.getD 3 0 = 3 ∧ (r 17).carries.getD 3 0 = 3 := by decide

/-- 04_front_stage.md, features for two heads: the codes of head A, and of head B with its NaNs, whose definition 4 marks a fault. -/
theorem test_features_for_two_heads :
    let f : FrontSt := { FrontSt.reset with formats := [0, 0, 0, 0, 0, 0, 0, 0, 0, 2, 3] }
    let o (v9 v10 : Nat) : Origin := ⟨[(4, (64, 8)), (9, (v9, 16)), (10, (v10, 32))], 0, 0, 0, 512, 0⟩
    let bin (src miss : Nat) (nv : Bool) (nc : Nat) (b : List Int) : FeatDef := ⟨1, src, 0, 0, miss, nv, nc, b, 0, 0, 0, 0, 0⟩
    let ds : List FeatDef := [bin 67 0 false 0 [64, 128, 512, 1500], bin 9 0 true 7 [-15360, 0, 16384],
      ⟨2, 4, 0, 0, 0, false, 0, [], 10, 2, 3, 0, 0⟩, ⟨3, 0, 0, 2, 0, false, 0, [], 0, 0, 0x9E3779B1, 0x1234, 65536⟩,
      bin 10 0 false 0 [0, 1065353216]]
    ds.map (evalFeature f (o 0x3E00 0x3F800000) ds) = [(3, false), (2, false), (58, false), (22045, false), (2, false)] ∧
      ds.map (evalFeature f (o 0x7E00 0x7FC00000) ds) = [(3, false), (7, false), (58, false), (22045, false), (0, true)] := by
  decide

/-- FIPS 180-4, the message "abc". -/
theorem test_sha256_abc : beNat (sha256 [0x61, 0x62, 0x63]) =
    0xBA7816BF8F01CFEA414140DE5DAE2223B00361A396177A9CB410FF61F20015AD := by decide

/-- 06_queues.md, one job queue over five beats: 30 items for a band of 64 that holds 38: 26 are written; a pointer copy that differs is a mismatch. -/
theorem test_job_queue_fills :
    let full : Band := ⟨0, 6, 64, 0, 64, 0⟩
    full.occ = 64 ∧ (Band.push ⟨0, 6, 63, 0, 63, 0⟩) = full ∧ full.bad = false ∧
      ({ full with rdCopy := 2 } : Band).bad = true ∧ (Band.push ⟨0, 6, 127, 64, 127, 64⟩).occ = 64 := by decide

/-! ## Premises of the statements -/

/-- Register fields given values. -/
def put (s : State) (l : List (Field × Nat)) : State := l.foldl (fun s f => wr s f.1 f.2) s
/-- A device with every domain on and the dial set, in beat 8 of second 0. -/
def lit : State :=
  { put State.reset [(REGULATOR_PD_STATUS.ON, 0xFFFFF), (DIAL_STATUS.SET, 1), (DIAL_STATUS.STATE, 2)] with dial.time := 8000, secure.powerGood := true }
/-- An activity entry of a kind with room in its budget. -/
def act (kind : Nat) : Activity := ⟨kind, 0, kind, 0, 0, 1, 100000, 0, 0, 0⟩
/-- A schedule of rounds of 8 beats with one activity of each kind for slot 0. -/
def plan : Schedule := ⟨0, 1, 8, 2, 10, 600, 0, true, 0, [1, 2, 3, 4, 5, 6, 7, 8].map act⟩
/-- The device while the schedule runs. -/
def busy : State := { lit with
  sched.running := some plan
  sched.acts := List.replicate 8 ⟨100000, 0, false, false, true, false⟩
  sched.admitting := true }
def atStep1 : State := {lit with pending := [.dialNowSecRead, .bypass]}
def staged : State := { lit with sched.shapeSet := [plan], sched.order := [0] }
def stby : State := put staged [(SECURE_BOOT_STATUS.CLASS, 2), (SECURE_CTRL.START, 1)]
def atStart3 : State := put lit [(SECURE_BOOT_STATUS.CLASS, 2), (SECURE_CTRL.START, 1)]
def waiting : State := { put lit [(GLOBAL_STATUS.READY, 1)] with sched.chosen := some plan, secure.startAt := some 1 }
def waiting2 : State := { waiting with secure.startAt := none, sched.restart := 4, dial.time := 16000 }
def atRes1b : State := {lit with sched.restart := 2}
def asked : State := { busy with sched.restart := 1 }
def atRes2b : State := {lit with sched.restart := 1, sched.workShape := 0x0f000000}
def atRes3 : State := {busy with sched.restart := 2}
def atRes3b : State := {busy with sched.restart := 2}
def atRes4a : State := {lit with sched.restart := 3}
def atRes4b : State := {put lit [(SECURE_BOOT_STATUS.EXIT, 3)] with sched.restart := 3, sched.again := true}
def edge : State := {lit with dial.now := 2000000000, dial.lastEdge := some 1000000000, dial.tod := some 7}
def atPin2 : State := {edge with dial.now := 1000000500}
def todMsg : Bytes := [0xA5, 1, 0, 0, 0, 0, 0, 9, 1, 0xA5 ^^^ 1 ^^^ 9 ^^^ 1]
def src1 : State := put {lit with dial.pinsValid := true, dial.source := 1} [(DIAL_CTRL.FALLBACK_EN, 1)]
def unset : State := put {src1 with dial.time := 8000} [(DIAL_STATUS.SET, 0), (DIAL_STATUS.STATE, 0)]
def atSrc1b : State := put {unset with dial.source := 0} [(DIAL_CTRL.SOURCE, 1)]
def atSrc1c : State := put {lit with dial.source := 0, dial.time := 3000000000} [(DIAL_CTRL.SOURCE, 1)]
def fell : State := put {lit with dial.ptpValid := true, dial.source := 1, dial.now := 20000000000} [(DIAL_CTRL.FALLBACK_EN,
  1), (DIAL_STATUS.ACTIVE_SOURCE, 0)]
def lost : State := {lit with dial.now := 3000000000, dial.lastEdge := some 1000000000, dial.pinsValid := true}
def lostP : State :=
  put {lost with dial.ptpValid := true, dial.lastSync := some 0, dial.lastAnnounce := some 2900000000} [(DIAL_STATUS.ACTIVE_SOURCE,
  1)]
def lostA : State :=
  put {lost with dial.ptpValid := true, dial.lastAnnounce := some 0, dial.now := 90000000000} [(DIAL_STATUS.ACTIVE_SOURCE, 1)]
def ann : PtpAnnounce := ⟨0, 0, 77, 1, 6, 0x21, 0x4E5D, 1, 5, 0⟩
def sync (two : Bool) : PtpSync := ⟨0, 0, 77, 3, two, 5000, 0⟩
def heard : State := {lit with dial.masters := [⟨ann, [0, 0]⟩], dial.chosen := some 77}
def far : PtpAnnounce := { ann with stepsRemoved := 255 }
def foreign : PtpAnnounce := { ann with domain := 9 }
def better : PtpAnnounce := { ann with master := 78, priority1 := 0 }
def mean : State := {heard with dial.meanDelay := some 40}
def fol : State := {heard with dial.syncWait := some (3, 900, -2)}
def folM : State := {fol with dial.meanDelay := some 40}
def dly : State := {heard with dial.delaySent := some (3, 950), dial.syncPair := some (800, 900)}
def hold : State := put {lit with dial.holdBase := 20, dial.now := 9000} [(DIAL_STATUS.STATE, 3), (DIAL_HOLDOVER_CFG.WARN_NS,
  10), (DIAL_HOLDOVER_CFG.LIMIT_NS, 15)]
def atDst1 : State := {busy with dial.stepPhase := 1}
def atDst2 : State := {busy with dial.stepPhase := 2, dial.stepLast := 5, dial.lastError := 3000}
def atDst2b : State := {busy with dial.stepPhase := 2, dial.stepLast := 5, dial.lastError := -3000}
def atDst3 : State := {busy with dial.stepPhase := 3}
def atRd4 : State := {busy with dial.time := 3000000000}
def late9 : State := {busy with dial.time := 9000, power.point := 3, power.roundEnergy := 7}
def frz : State := { busy with sched.frozen := some (4, 2), sched.acts := busy.sched.acts.map fun r => {r with held := true} }
def frz2 : State := { frz with power.supply := 0, power.point := 1, sched.frozen := some (9, 0) }
def dec : State := {busy with dial.time := 6000}
def dec2 : State := {busy with dial.time := 6000, power.point := 3, power.request := some (5, 0)}
def dec3 : State :=
  put {busy with dial.time := 6000, power.point := 3, power.request := some (5, 0)} [(REGULATOR_CTRL.FIXED_FREQ, 1),
  (REGULATOR_CTRL.FIXED_POINT, 7)]
def spent (n : Nat) : ActRun := ⟨100000, n, false, false, true, false⟩
def usedUp : State := {busy with sched.acts := busy.sched.acts.map fun r => {r with used := 100000}}
def skp (k : Nat) : State :=
  { usedUp with sched.running := some { plan with acts := [1, 2, 3, 4, 5, 6, 7, 8].map fun i => { act i with shed := if i == k then 1 else 0 } }, flow.rake := some 3, endpoint.rake := some 4, observe.snapshots := [[1]] }
def plan1 : Schedule :=
  { plan with acts := [⟨1, 0, 1, 0, 0, 1, 15000, 0, 0, 0⟩, ⟨2, 0, 2, 1, 0, 1, 900, 400, 0, 0⟩, ⟨3, 0, 3, 1, 0, 1, 900, 0, 0, 0⟩] }
def qten : QTensor := ⟨1, [0x3f000000, 0x3f800000], false, [], false, 0, 0, 0, 0, 0, 0, false, false, false, false⟩
def z (n : Nat) : Bytes := List.replicate n 0
def port : State := put { lit with pins.lanesOff := false, sched.workShape := 2 ^ 384 - 1 } [(HEADPORT_PORT_CFG.ENABLE 0, 1),
  (HEADPORT_STATUS.ALIGNED 0, 1), (HEADPORT_STATUS.LOCKED 0, 15)]
def frame (version seq : Nat) : Bytes := List.replicate 12 0 ++ natBe 2 (rd port HEADPORT_CTRL.ETHERTYPE) ++
  natBe 32 (version * 2 ^ 248 + 2 ^ 240 + 2 ^ 232 + 2 ^ 228 + seq * 2 ^ 192) ++ natBe 32 (64 * 2 ^ 184 + 7 * 2 ^ 120) ++ natBe 32 9
def bunOf (v : Nat) : Bundle := parseBundle false 8000 0 0 (parseFrame (frame v 5)).body
def bunAt (s : State) (v : Nat) : Bundle :=
  parseBundle (s.ports.getD 0 PortSt.reset).v1 s.dial.time 0 (rd s (HEADPORT_PORT_CFG.V1_PARTITION 0)) (parseFrame (frame v 5)).body
def portS : State := {port with sched.running := some plan, sched.acts := busy.sched.acts, sched.admitting := true}
def bat0 : Batch := ⟨8, [], false, false, false, false, [], false, 2, 1, 0, [], false, []⟩
def adm : State := put { portS with pipe.batches := [bat0] } [(HEADPORT_PORT_CFG.ADMIT_EN 0, 1)]
def atFr4c : State := { adm with pipe.batches := [{ bat0 with capacity := 0 }] }
def bun : Bundle := bunOf 2
def gap : State := { port with ports := modAt port.ports 7 fun p => { p with lastSeq := some 3 } }
def pq (s : State) (p : Nat) : PortSt := s.ports.getD p PortSt.reset
def P5 : State := advance port 50
def again : State := { port with ports := modAt port.ports 0 fun p => { p with retrained := [(3, 0)] } }
def A5 : State := advance again 50
def two : State := { port with ports := modAt port.ports 0 fun p => { p with maxLanes := 1 } }
def T5 : State := advance two 50
def una : State := put port [(HEADPORT_STATUS.ALIGNED 0, 0)]
def U5 : State := advance una 50
def retr : State := { una with ports := modAt una.ports 0 fun p => { p with retrain := some 0, retrainLanes := [3] } }
def R5 : State := advance retr 10000000
def retr0 : State := { retr with ports := modAt una.ports 0 fun p => { p with retrain := some 0, retrainLanes := [] } }
def R50 : State := advance retr0 10000000
def poff : State := put port [(HEADPORT_PORT_CFG.ENABLE 0, 0)]
def F5 : State := advance poff 50
def links : State := put { port with peer.topology := 2, peer.links := port.peer.links } [(PEER_LINK_STATUS.LANES 0, 2),
  (PEER_LINK_STATUS.UP 0, 1), (PEER_LINK_STATUS.LANES 1, 2), (PEER_LINK_STATUS.UP 1, 1)]
def L5 : State := advance links 50
def linksA : State := { links with peer.links := modAt links.peer.links 0 fun p => { p with retrained := [(1, 0)] } }
def LA5 : State := advance linksA 50
def retrL : State :=
  put { links with peer.links := modAt links.peer.links 0 fun p => { p with retrain := some 0, retrainLanes := [1] } } [(PEER_LINK_STATUS.LANES 0,
  0), (PEER_LINK_STATUS.UP 0, 0)]
def RL5 : State := advance retrL 10000000
def linksD : State := put links [(PEER_LINK_STATUS.LANES 0, 0), (PEER_LINK_STATUS.UP 0, 0)]
def LD5 : State := advance linksD 50
def ob6 : OpenBundle := ⟨6, 2, true, true⟩
def vq (o : Nat) : Queue :=
  { Queue.reset with enable := true, dataPath := true, bands := [⟨0, 2, o, 0, o, 0⟩, ⟨0, 0, 0, 0, 0, 0⟩, ⟨0, 0, 0, 0, 0, 0⟩, ⟨0, 0, 0, 0, 0, 0⟩] }
/-- Port 0 is up; ports 0 and 1 each have an item of two verdict records in their ordered and their shed queue. -/
def outs (p : Nat) (o h : List OpenBundle) : State := { port with
  ports := modAt port.ports p fun t => { t with ordered := o, shedding := h, shedFirst := some 0 }
  queue := ⟨[(0x20000, vq 1), (0x20001, vq 1), (0x20002, vq 1), (0x20003, vq 1)], [(0, verdictItem [5, 6])], []⟩ }
def sent (s : State) (p : Nat) (shed : Bool) (_ : OpenBundle) : State :=
  if shed then { s with ports := modAt s.ports p fun t => { t with shedding := [] } } else { s with ports := modAt s.ports p fun t => { t with ordered := [] } }
def O1 : State := advance (outs 0 [ob6] []) 10
def S1 : State := advance (outs 0 [] [ob6]) 10
def O2 : State := advance (outs 1 [ob6] []) 10
def S2 : State := advance (outs 1 [] [ob6]) 10
def W1 : State := sent O1 0 false ob6
def X1 : State := sent S1 0 true ob6
def W2 : State := sent O2 1 false ob6
def X2 : State := sent S2 1 true ob6
def t1 : State × List Nat := takeItems 0 0x20000 1 W1 []
def t2 : State × List Nat := takeItems 0 0x20001 1 X1 []
def t3 : State × List Nat := takeItems 1 0x20002 1 W2 []
def t4 : State × List Nat := takeItems 1 0x20003 1 X2 []
def shut : State := put (outs 1 [] [{ ob6 with closed := false }]) [(DIAL_STATUS.SET, 0)]
def model : Model := ⟨1, 255, 0, [], [⟨0, 0, 0, 1, false, false, 0, 0, 0, []⟩], [{ OpRec.none_ with outputs := 1, n := 32 }],
  [], [], none, none, [], 0, 0, 0⟩
def gen (n : Nat) : Gen := Gen.make n model
def head : Head := ⟨0, 5, 0, 0, 0, 7, 0, 0, 0, 64, 0, 1, 0, 0, 0, false, false, false, 0, 0, 0, 0, 0, 0, 1, none, 0, [(0,
  [])], false⟩
def chain (fetched retired : Nat) : Chain := { Chain.start 0 (gen 1) with fetched := fetched, retired := retired }
def batch (closed ended : Bool) (fetched retired : Nat) : Batch := ⟨5, [head], closed, ended, false, false, [], false, 2, 10,
  0, [chain fetched retired], false, []⟩
def loaded : State := { busy with slots := modAt busy.slots 0 fun x => { x with active := some (gen 1) } }
def piped (b : Batch) (fl : List Flight) : State := { loaded with pipe := ⟨[b], fl, 3, 0, 1⟩ }
def flight (stage : Nat) : Flight := ⟨2, 5, 0, 0, stage, 7, 40, 0, 8000, 5, 0, 0⟩
def needy : Model :=
  { model with ops := [{ OpRec.none_ with kind := 1, outputs := 1, n := 32, outTensor := 9 }, { OpRec.none_ with kind := 1, outputs := 1, n := 32, inTensor := 9 }] }
def chainN : Chain := { Chain.start 0 (Gen.make 1 needy) with fetched := 2 }
def batchN : Batch := { batch true false 0 0 with chains := [chainN] }
def flightN : Flight := { flight 0 with op := 1 }
def atOp3b : State := piped (batch true false 1 0) [flight 2, { flight 1 with tag := 3 }]
def early : State := {piped (batch false false 0 0) [] with dial.time := 6000}
def shutB : State := piped (batch true false 1 1) []
def lateB : State := piped (batch true false 0 0) []
def atBa4 : State := put lit [(DIAL_ADMISSION.CATCHUP, 1)]
def rule (own : Nat) (r : Nat) : Rule := ⟨own * 2 ^ 506, 63 * 2 ^ 506, 2 ^ 35 + r⟩
def stg (m : Map Rule) : State := { lit with front.staging := m }
def cmt (held : Bool) : State :=
  { lit with front.committed := some [(3, rule 0 0), (4, ⟨0, 0, 0⟩)], front.commitBeat := 7, front.held := held, front.staging := [(4, rule 0 0)] }
def entry (i : Nat) : Entry := ⟨true, false, false, false, false, true, 1, 5, 0, 0, 0, 0, i * 2 ^ 176 + 77, [], 0⟩
def cuck : State :=
  { put busy [(TABLE_CTRL.FLOW_ORG, 1), (TABLE_HASH_NEXT.VALUE 0 1, 3), (TABLE_HASH_NEXT.VALUE 0 3, 5)] with flow.hash := [0, 1, 0, 3] }
def cuckR : State := {cuck with flow.requests := [(7, entry 3), (7, entry 4)], flow.free := some []}
def atCu1b : State := {cuckR with flow.free := some [0, 1], flow.entries := [(0, entry 3), (1, entry 9)]}
def atCu1c : State := {cuckR with flow.rebuild := some 0}
def atCu3 : State := put cuck [(TABLE_HASH_NEXT.VALUE 0 3, 4)]
def reb : State := { cuck with flow.rebuild := some 4, flow.newHash := [1, 3, 5, 7], flow.entries := [(9, entry 3)] }
def nestOf (s : State) (j : Nat) (e : Entry) : Nest := placeCuckoo (hashKey 0 (getT s 0).newHash) ⟨(getT s 0).idle,
  (getT s 0).newStash, 0, false, false⟩ ⟨j, e.key⟩
def rebF : State :=
  { reb with flow.newHash := [0, 0, 0, 0], flow.newStash := (List.range 64).map fun i => (i, ⟨100 + i, i⟩), flow.idle := [[(0, ⟨200, 5⟩)], [(0, ⟨300, 6⟩)]] }
def rebS : State := { rebF with flow.newStash := [] }
def rebE : State := {reb with flow.rebuild := some 10}
def atCu6 : State := {reb with flow.rebuilt := some 7}
def rake : State := put { busy with dial.time := 3600000000000 } [(TABLE_CTRL.FLOW_RAKE_EN, 1), (TABLE_CTRL.EP_RAKE_EN, 1)]
def atRa2 : State := {rake with flow.rake := some 3}
def atRa3 : State := put {busy with flow.sweepDue := true} [(TABLE_CTRL.FLOW_RAKE_EN, 1)]
def atRa3b : State := put {busy with endpoint.sweepDue := true} [(TABLE_CTRL.EP_RAKE_EN, 0)]
def rk (i : Nat) (e : Entry) : State := {busy with flow.rake := some i, flow.entries := [(i, e)]}
def atRa4 : State := {busy with flow.rake := some 16777215}
def atRa42 : State := {busy with flow.rake := some 16777215}
def atRa4b : State := {busy with endpoint.rake := some 9}
def atRa4b2 : State := {busy with endpoint.rake := some 9}
def atRa4d : State := rk 5 { entry 3 with hit := true, age := true }
def atRa4d2 : State := rk 5 { entry 3 with hit := true, age := true }
def atRa4e : State := rk 5 { entry 3 with age := true }
def atRa4e2 : State := rk 5 { entry 3 with age := true }
def atRa4f : State := rk 5 { entry 3 with lock := true, age := true }
def atRa4f2 : State := rk 5 { entry 3 with lock := true, age := true }
def orp : State := { cuck with flow.rake := some 9, flow.entries := [(9, entry 3)] }
def fts : List FaultEv := [⟨.flowRecord 9, true, 0⟩]
def cat : State := put (rk 5 { entry 3 with age := true }) [(DIAL_ADMISSION.CATCHUP, 1)]
def hubOff : State := put busy [(REGULATOR_PD_STATUS.ON, 0)]
def job (ops : List JobOp) (results : List (Nat × Bytes)) : Job := ⟨7, 0, .session 2 5, 1, 0, 0, 3, 0x30000, false, ops,
  results, 1, false, false, 1, 0, 0⟩
def run1 (o : JobOp) : State := { lit with crown.jobs := [job [o] []] }
def rst : JobOp := (1, 7, 5, [])
def wst : JobOp := (1, 8, 5, z 16)
def tab (sub : Nat) (d : Bytes) : JobOp := (1, sub, 2 ^ 63 + 7, d)
def refOf (tb : Nat) (o : JobOp) : EntryRef × Bytes := tableRef tb o.2.2.1 o.2.2.2
def eT : Entry := { entry 3 with lock := true }
def te (lock : Bool) (o : JobOp) : State := { run1 o with endpoint.entries := [(7, { entry 3 with lock := lock })] }
def ft (lock : Bool) (o : JobOp) : State :=
  { run1 o with flow.entries := [(5, { entry 3 with lock := lock })], secure.regions := [⟨4, 0, 64, 0x100000, 0x10000⟩] }
def farOp : JobOp := (1, 1, 2 ^ 63 + 0xFFFFFF, [])
def rebT (o : JobOp) : State := { run1 o with endpoint.rebuild := some 0 }
def cmp (m : List (Nat × Cuckoo)) (full : Bool) : State :=
  { put (run1 (tab 3 (z 64))) [(TABLE_CTRL.EP_ORG, 1)] with endpoint.free := some (if full then [] else [0, 1]), endpoint.bank := [[], []], endpoint.hash := [0, 1, 0, 3], endpoint.stash := m }
def que (o : Nat) : Queue :=
  { Queue.reset with enable := true, bands := [⟨0, 2, o, 0, o, 0⟩, ⟨0, 0, 0, 0, 0, 0⟩, ⟨64, 2, o, 0, o, 0⟩, ⟨128, 2, 0, 0, 0, 0⟩] }
def w5 : Word := 5 * 2 ^ 40
def w6 : Word := 2 ^ 63 + 5 * 2 ^ 40
def queues (q o : Nat) : State := { lit with queue := ⟨[(q, que o)], [(0, 11), (1, 12), (64, 21)], []⟩ }
def bq : State := queues 0x20010 1
def bqS (l : Bool) : State := { bq with queue.struck := [(ringPlace bq 0x20010 2 0, l)] }
def bd3 : State := (enqueueRaw (queues 9 2) 9 2 33).1
def bd4 : State := (dequeueRaw (queues 9 2) 9).1
def cold8 : State := { lit with queue := ⟨[(8, { que 0 with enable := false })], [], []⟩ }
def jobq (o : JobOp) (abort : Bool) : State := { lit with
  queue := ⟨[(0x30000, { que 0 with bands := [⟨0, 2, 1, 0, 1, 0⟩, ⟨0, 0, 0, 0, 0, 0⟩, ⟨0, 0, 0, 0, 0, 0⟩, ⟨0, 0, 0, 0, 0, 0⟩] })], [(0, 7 * 2 ^ 480)], []⟩
  crown.jobs := [{ job [o] [] with state := 0, abort := abort }] }
def job0 : Job := { job [(3, 0, 5, [])] [] with state := 0 }
def taken : State := (dequeue { jobq (3, 0, 5, []) false with crown.lastQueue := 0x30000 } 0x30000).1
def ev (enable : Nat) (q : Nat) : State := put (queues q 0) [(QUEUE_EVENT_NOTIFY.MASK, enable), (QUEUE_CTRL.NOTICE_QUEUE, q)]
def job0a : Job := { job0 with abort := true }
def takenA : State := (dequeue { jobq (3, 0, 5, []) true with crown.lastQueue := 0x30000 } 0x30000).1
def sl (x : SlotSt) : State := { busy with slots := modAt busy.slots 15 fun _ => x }
def slB (x : SlotSt) : State := { sl x with sched.running := some { plan with acts := [⟨2, 15, 0, 0, 0, 1, 100000, 0, 0, 0⟩] } }
def S0 : SlotSt := SlotSt.reset
def adesc : AdaptDesc := ⟨1, true, 0, 4, 0, 8, 4, 4, 8, 0, 0, 1, 0, 127, 100, 100, 0, 1, 1000, 1⟩
def amodel : Model :=
  { model with adapt := some adesc, ops := [{ OpRec.none_ with outputs := 1, n := 32, adapter := true, outTensor := 255 }], luts := [⟨4, 0, 0, List.replicate 17 1⟩], seq := some ⟨0, 0, 1, 1, 1, 1, 0, 0, 0, 0, 0, [(0, 4)]⟩ }
def agen (n : Nat) : Gen := Gen.make n amodel
def atSc2 : State := sl { S0 with staging := 5, staged := some (gen 2) }
def atSc3 : State := sl { S0 with staging := 2, staged := some (gen 2), active := some (gen 1) }
def atSc4 : State := sl { S0 with staging := 5, staged := some (gen 2), adaptOn := true }
def atSc6 : State := slB { S0 with active := some (agen 1) }
def atSc7 : State := sl { S0 with active := some (agen 1), adaptOn := true, staging := 3, staged := some (agen 2) }
def atSc7b : State :=
  sl { S0 with active := some (agen 1), adaptOn := true, staging := 4, staged := some (agen 2), swap := some (8, 16) }
def atSc8 : State := sl { S0 with active := some (agen 1), staging := 4, staged := some (agen 2) }
def atSr2 : State := sl { S0 with swap := some (3, 16) }
def atSr3 : State := sl { S0 with active := some (agen 1) , staging := 1}
def atSr4 : State := {sl { S0 with active := some (agen 1) } with sched.running := none }
def atSr5 : State := sl { S0 with staging := 6 }
def atSr6 : State := sl { S0 with staging := 6 }
def atSr7 : State := sl { S0 with staging := 4, active := some (agen 1), staged := some { agen 2 with lostTree := some 3 } }
def atSr9 : State := sl { S0 with distHeld := true }
def keyR (p : Nat) : Rule := ⟨5, 0xFF, 2 ^ 35 + p * 2 ^ 112⟩
def offR : Rule := ⟨5, 0xFF, 0⟩
def cntR : Rule := ⟨5, 0xFF, 2 ^ 35 + 2 ^ 86 + 9 * 2 ^ 66 + 2 ^ 87 + 6 * 2 ^ 104⟩
def met : Meter := ⟨(1000 * 2 ^ 224) + (2000 * 2 ^ 192) + (100 * 2 ^ 160) + (200 * 2 ^ 128), 65536 * 10, 65536 * 70, 3⟩
def tcOf (m : Meter) (b : Nat) : Nat := min (fld m.config 191 160 * 65536) (m.tc + (b - m.last) * fld m.config 255 224)
def tpOf (m : Meter) (b : Nat) : Nat := min (fld m.config 159 128 * 65536) (m.tp + (b - m.last) * fld m.config 223 192)
def org0 : Origin := ⟨[], 7, 0, 0, 64, 0⟩
def lh (k : Nat) : Head := { head with flowId := k, ingress := 4 }
def learn : State := put lit [(TABLE_CTRL.FLOW_LEARN, 1)]
def cpt (w : Nat) : State := put learn [(TABLE_CTRL.FLOW_ORG, 1), (TABLE_FLOW_KEY.COMPONENTS, w)]
def anyKey : Nat := (List.range 16).foldl (fun n k => n + 2 ^ (10 * k + 8)) 0
def has (s : State) (e : Entry) : State := { s with flow.entries := [(7, e)] }
def lkE : Entry := { entry 3 with lock := true }
def stE : Entry := { entry 3 with static := true }
def vE : Nat := 100 * 2 ^ 160 + 50 * 2 ^ 128 + 2 * 2 ^ 144 + 6 * 2 ^ 96 + 3 * 2 ^ 120
def vst (e : Nat) : State := { lit with front.vmap := [(0, e)] }
def vsl (f : Nat) : State := { vst vE with front.tableLost := some f }
def mb (late : Bool) : Batch := { batch true true 1 1 with late := late }
def hitH (final : Bool) : Head := { head with ruleHit := true, final := final, action := 2, arg := 5 }
def ffH : Head := { head with featureFault := true }
def vM : Nat := 30 * 2 ^ 160 + 50 * 2 ^ 128 + 2 * 2 ^ 144 + 6 * 2 ^ 96 + 3 * 2 ^ 120
def vL : Nat := 5 * 2 ^ 160 + 50 * 2 ^ 128 + 20 * 2 ^ 144 + 6 * 2 ^ 96 + 3 * 2 ^ 120
def unlearn : State := put lit [(TABLE_CTRL.FLOW_LEARN, 0)]
def atSg1 : State := sl { S0 with staging := 1 }
def atSw1 : State := sl { S0 with staging := 2, staged := some (gen 2), active := some (gen 1), swap := some (3, 8) }
def atSw1b : State := sl { S0 with staging := 4, staged := some (gen 2), active := some (gen 1), swap := some (8, 8) }
def atSw1c : State := sl { S0 with staging := 5, staged := some (gen 2), active := some (gen 1), swap := some (4, 0) }
def atSw1d : State := sl { S0 with staging := 2, staged := some (gen 2), swap := some (3, 8) }
def atSw2 : State := sl { S0 with staging := 2, staged := some (gen 2), swap := some (3, 9) }
def atSw2b : State := sl { S0 with staging := 2, staged := some (gen 2), swap := some (3, 9) }
def slH (h : List Head) : State :=
  { sl { S0 with staging := 2, staged := some (gen 2), swap := some (3, 8) } with pipe.batches := [{ bat0 with heads := h }] }
def atSw3 : State := sl { S0 with staging := 6, staged := some (gen 2) }
def atSw3b : State := sl { S0 with staging := 6, staged := some (gen 2), discardAfter := true }
def atSw4 : State := sl { S0 with adaptOn := true, formAt := some 8, active := some (agen 1), counter := 1 }
def rel : State :=
  put (sl { S0 with adaptHeld := true, staging := 5, staged := some (agen 1), retainedAt := some 0, adaptOn := true }) [(SLOT_ADAPT_CFG.AUTO_RELEASE_ROUNDS 15,
  1)]
def relD : State := {rel with dial.time := 16000}
def aop : OpRec := { OpRec.none_ with outputs := 2, n := 32, adapter := true, weights := List.replicate 64 1 }
def aseq : SeqDesc := ⟨0, 0, 1, 1, 1, 1, 0, 0, 0, 0, 0, [(0, 2)]⟩
def bmodel : Model :=
  { model with adapt := some adesc, ops := [aop], luts := [⟨4, 0, 0, List.replicate 17 1⟩], seq := some aseq }
def cand (n : Nat) : Gen := Gen.make n bmodel
def ad (x : AdaptSt) : State :=
  { busy with slots := modAt busy.slots 0 fun _ => { S0 with active := some (cand 1), staging := 3, staged := some (cand 2), adaptOn := true, adapt := x } }
def upd (n : Nat) : AdaptSt :=
  { S0.adapt with updating := true, groupsDone := n, gacc := List.replicate 64 3, elems := List.replicate 64 ⟨0, 0, 0⟩ }
def smp (l : List SampleHead) (e : Bool) : AdaptSt :=
  { S0.adapt with sample := l, sampleEval := e, gacc := List.replicate 64 0 }
def shead : SampleHead := ⟨List.replicate 32 1, [1]⟩
def qst : State :=
  { loaded with quant := ⟨[⟨0, 0, false, 1, 5, 5, 1⟩, ⟨0, 9, false, 1, 5, 5, 1⟩, ⟨0, 0, true, 1, 5, 5, 7⟩], [⟨1, 0, false, 1, 5, 5, 1⟩]⟩ }
def atQc2b : State := { qst with dial.time := 9000 }
def atQc2c : State := sl { S0 with staging := 2, staged := some (gen 2), swap := some (3, 8) }
def sens1 : State := { lit with power.failedSensors := [256] }
def drp : State := { lit with power.stretching := [31] }
def temp (c : Int) (theta run : Nat) : State :=
  { lit with dial.time := 0, power.sensors := [(256, 4 * c)], power.theta := theta, power.coolRun := run }
def vrs : State := put { lit with dial.time := 0 } [(REGULATOR_VR.VALID 0, 1), (REGULATOR_VR.CLASS 0, 1),
  (REGULATOR_VR.VALID 3, 1), (REGULATOR_VR.CLASS 3, 1)]
def due (l : List Nat) : State := { vrs with power.pendingVr := l }
def due8 : State := put { due [0] with power.failedRead := [false, true, false, false] } [(REGULATOR_CLASS_B.FAILS 1, 7)]
def dueE : State :=
  { put (due [0]) [(REGULATOR_CLASS_B.FAILS 1, 7)] with power.estimate := [1, 5000, 3, 4], power.correct := [32768, 32000, 32768, 32768], power.measured := [0, 400, 0, 0] }
def atTe5b : State := put busy [(DIAL_STATUS.SET, 0)]
def atTe5c : State := { busy with dial.time := 9000, power.request := some (99, 99) }
def es : List Nat := (List.range 20).map fun i => 1000 + 37 * i
def capd : State :=
  put { busy with power.request := some (99, 99), power.energy := es, power.theta := 9 } [(REGULATOR_CAP.CAP_W, 900)]
def atTe5e : State := put capd [(REGULATOR_CTRL.FIXED_FREQ, 1), (REGULATOR_CTRL.FIXED_POINT, 12)]
def atTe5f : State := put capd [(REGULATOR_CTRL.MIN_POINT, 14)]
def atDo2 : State := put { lit with dial.time := 0 } [(REGULATOR_PD_CTRL.PD4_OFF, 1)]
def atDo2b : State := put { lit with dial.time := 0 } [(REGULATOR_PD_CTRL.PD19_OFF, 1)]
def atDo3b : State := put busy [(REGULATOR_TRIP.LATCHED, 1), (REGULATOR_TRIP.DIE, 2)]
def acc (n : Nat) : Acc := ⟨0, 0, 0, 0, n, 0, 0⟩
def epoch : Epoch := ⟨0, 0, [(0, acc 3)], [⟨7, 0, 0, 1, 1, 0, acc 4⟩], 9, 0, 0, 0, 3600, 0, false⟩
def power (l : List Nat) : State :=
  { busy with tally.open_ := some epoch, power.energy := l, power.dynamic := l.map (· / 2), tally.headKeys := [(64, 3)], tally.computeKeys := [(5, 2)], tally.linkJobs := [(7, 100)] }
def after : State := attributePeriod (power es)
def tal (n : Nat) (l : List Epoch) : State :=
  { busy with tally := { busy.tally with open_ := some epoch, frozen := l, levelsDone := n, seq := 5 }, sched.acts := List.replicate 8 ⟨100000, 0, false, false, true, false⟩ }
def atEp1 : State := {tal 0 [epoch] with dial.time := 3600000000000}
def ent (n : Nat) (sg : Option Bytes) : TallyEntry := ⟨0, n, [1, 2], sg, [], 0, [], 100, false, 7⟩
def ring (t : Nat) (l : List TallyEntry) : State := { busy with tally.ring := l, dial.time := t }
def frzn : State := { ring 51000000 [ent 3 (some [])] with tally.frozen := [epoch, { epoch with late := true }] }
def cl : Client := .session 2 5
def rq : Request := ⟨2, 0, 1, 3, 9⟩
def sgn : State := { ring 51000000 [ent 3 (some []), { ent 4 none with closedBeat := 7 }] with dial.time := 51000000 }
def att : State := {ring 51000000 [ent 3 (some [])] with secure.attests := [(cl, rq, [1])]}
def atSn3 : State := {lit with power.hubTrip := true}
def jo (k : Nat) (d : Bytes) (n : Nat) : JobOp := (k, 0, n, d)
def nil : Bytes := []
def crown (x : Session) : State := { lit with crown.sessions := [⟨0, 9, 0, true, 1⟩, x], crown.nextSerial := 6 }
def sess (n : Nat) : Session := ⟨2, 3, n, false, 5⟩
def C (n : Nat) : State := crown (sess n)
def owned : State := { C 0 with secure.ownerKey := [1, 2] }
def shake (ok : Bool) : Handshake := ⟨[0x1303, 0x1301], true, true, ok, false, true, true⟩
def noKem : Handshake := ⟨[0x1301], false, true, true, false, true, true⟩
def forged : Handshake := ⟨[0x1302], true, true, true, false, true, false⟩
def hdr (op : Nat) : Bytes := crownMessage 0 ⟨1, op, 0, 1, 3, 9, 0⟩ []
def rqBad : Request := { rq with operator := 4 }
def recov (n : Nat) : State := put (C n) [(SECURE_BOOT_STATUS.CLASS, 1)]
def held : State := { C 0 with secure.attests := [(cl, rq, [1])] }
def C2 : State := { C 3 with tally.ring := [ent 3 none] }
def C3 : State := { C 0 with queue := (queues 9 2).queue }
def jp : Bytes := natBe 32 (0x30000 * 2 ^ 238 + 2 ^ 204) ++ natBe 16 (3 * 2 ^ 120 + 5 * 2 ^ 48)
def jobQ (rd_ wr_ : Nat) : QueueSt := ⟨[(0x30000,
  { que 0 with bands := [⟨0, 2, rd_, wr_, rd_, wr_⟩, noBand, noBand, noBand] })], [], []⟩
def C4 : State := { C 0 with queue := jobQ 0 0 }
def jh : JobHdr := ⟨0x30000, 0, false, 0, 1⟩
def C4f : State := { C 0 with queue := jobQ 4 0 }
def jobS (st : Nat) (d : Bool) : Job := ⟨7, 0, .session 2 5, 1, 0, 0, 3, 0x30000, false, [(3, 0, 5, [])], [], st, false, d, 1,
  0, 0⟩
def C5 (j : Job) : State := { C4 with crown.jobs := [j] }
def C4s : State := C5 { jobS 0 false with storeUnits := 16777216 }
def jobO : Job := { jobS 0 false with client := .session 1 4 }
def C5o : State := { C 3 with crown.jobs := [jobO] }
def ip : State := put (C 0) [(CROWN_CTRL.IPV4_EN, 1), (CROWN_CTRL.IPV6_EN, 1)]
def ipn : State := { ip with crown.neighbours := [(true, 9, 7)] }
def jr (k : Nat) (d : Bytes) (n : Nat) : State := { lit with crown.jobs := [job [jo k d n] []] }
def jj (k : Nat) (d : Bytes) (n : Nat) : Job := job [jo k d n] []
def jr6 : State := { jr 2 (z 144) 65535 with front.staging := (List.range 1024).map fun i => (i, rule 0 0) }
def mc : Bytes := natBe 32 (2 ^ 160 + 2 ^ 128)
def jr7 : State := { jr 6 [] 4 with front.counters := [(0, (3, 4)), (2, (5, 6))] }
def vm : Bytes := natBe 32 (2 ^ 144)
def jr10 : State := { jr 8 [] 9 with front.vmapNext := [(9, 77)] }
def reg (s : State) : State :=
  { s with secure.regions := [⟨5, 15, 0, 4096, 4096⟩, ⟨6, 15, 0, 65536, 64⟩, ⟨0x0A, 0, 0, 200000, 4096⟩, ⟨9, 0, 0, 300000, 65536⟩, ⟨6, 0, 0, 66000, 64⟩] }
def at60 (o : Nat) : Nat := 15 * 2 ^ 60 + o
def tight (s : State) : State := { s with power.bulk := [0, 1] }
def jol : JobOp := (11, 1, 0, [1, 2])
def jrL : State := { lit with crown.jobs := [job [jol] []] }
def ret (r : Nat) : Job := { jobS 1 true with results := [(r, [])] }
def ct : Nat := 2 ^ 52 * 3 + 9 * 2 ^ 18 + 0x20010
def cap (l : Nat) (a : Bool) : CaptureRun := ⟨a, 0, .session 2 5, 1, 3, 9, 0, none, l, 9, 0x20010, none, 0⟩
def jrc (l : Nat) : State := { jr 12 [] ct with crown.captures := [cap l true] }
def capq : State :=
  { C 0 with crown.captures := [cap 3 true], queue := ⟨[(9, que 1), (0x20010, { que 0 with bands := [⟨256, 2, 0, 0, 0, 0⟩, noBand, noBand, noBand] })], [(0, 11), (64, 12)], []⟩ }
def capv : State := { capq with queue := ⟨[(0x20010, que 1)], [(0, 11), (64, 12)], []⟩ }
def capc (c : Client) : CaptureRun := { cap 3 true with client := c }
def caps (c : Client) : State := { capv with crown.captures := [capc c] }
def net : State :=
  put { C 0 with pins.lanesOff := false, peer.topology := 1, peer.ringSize := 4, peer.group := 3, sched.workShape := 2 ^ 384 - 1 }
  [(PEER_LINK_STATUS.LANES 0, 2), (PEER_LINK_STATUS.UP 0, 1), (PEER_LINK_STATUS.LANES 1, 2), (PEER_LINK_STATUS.UP 1, 1), (PEER_SYNC_CFG.INTERVAL_BEATS, 1000), (PEER_GROUP_CFG.GROUP, 3)]
def capn : State := { net with queue := capv.queue, crown := (caps (.peer 2 7)).crown }
def ph (kind src dest frag len msg : Nat) (last bc : Bool) : PeerHdr := ⟨1, kind, src, dest, bc, 0, 5, 0, frag, last, msg,
  len, 100⟩
def fr (kind src dest frag msg : Nat) (last bc : Bool) (p : Bytes) : Bytes :=
  peerFrame net (ph kind src dest frag p.length msg last bc) p
def taken2 (s : State) (j : Nat) (f : Bytes) (k : Nat) : State := (acceptFrame s j f k).getD s
def hp (good : Bool) : Bytes := [if good then 1 else 2, 1, 4, 2, 2, 0, 1]
def hf (good : Bool) : Bytes := fr 1 1 0 0 0 true false (hp good)
def dn : State := put net [(PEER_LINK_STATUS.UP 0, 0)]
def link0 (s : State) (g : LinkSt → LinkSt) : State := { s with peer.links := modAt s.peer.links 0 g }
def old : State := { link0 net fun l => { l with lastHello := some 1999 } with dial.time := 5000000 }
def young (s : State) : State := { link0 s fun l => { l with lastHello := some 1999 } with dial.time := 4999999 }
def nk : State := link0 net fun l => { l with nakking := true }
def atPl7c : State := put net [(PEER_LINK_STATUS.MISWIRED 0, 1)]
def snt : State := link0 net fun l => { l with sent := [(4, [1]), (5, [2]), (6, [3])] }
def snt2 : State := link0 snt fun l => { l with resent := some 5 }
def nf : Bytes := fr 4 1 0 0 0 true false [0, 5]
def cf : Bytes := fr 5 1 0 0 0 true false [2, 1, 9]
def cr : State := link0 net fun l => { l with credits := [(5, 3)] }
def crw : State := link0 net fun l => { l with credits := [(5, 0)], waiting := [(5, z 50, none)] }
def rq2 : Request := { rq with dest := 2 }
def rq9 : Request := { rq with dest := 9 }
def net3 : State := { net with crown.sessions := [⟨0, 9, 0, true, 1⟩, sess 3] }
def gf : Bytes := fr 0x10 1 0 0 77 true false []
def full : State := { net with peer.buffers := List.replicate 16 ⟨3, 1, [], 0⟩ }
def ff : Bytes := fr 0x10 3 1 0 77 true false []
def fx : Bytes := fr 0x11 3 1 0 77 true false [1]
def dn0 : State := put net [(PEER_LINK_STATUS.UP 0, 0)]
def frag (last : Bool) : Bytes := fr 0x10 1 0 1 77 last false [3, 4]
def part : State := { net with peer.buffers := [⟨1, 77, [1, 2], 0⟩] }
def idm : Bytes := crownMessage 0 ⟨1, 1, 0, 1, 3, 9, 0⟩ []
def part2 : State := { net with peer.buffers := [⟨1, 77, idm.take 4, 0⟩] }
def frag2 : Bytes := fr 0x10 1 0 1 77 true false (idm.drop 4)
def rlv (g : Bool) : Relay := ⟨77, 5, rq2, 1, g, [], 0⟩
def rls : State := { net with peer.relays := [rlv true] }
def rm (t : Nat) : Bytes := crownMessage 2 ⟨t, 1, 2, 1, 3, 9, 0⟩ [1, 2]
def rf (last : Bool) (p : Bytes) : Bytes := fr 0x11 2 0 0 77 last false p
def RL (s : State) (f : Bytes) : State := taken2 s 0 f 0x11
def grant : State := { net with peer.relays := [rlv false] }
def rlt : State := { rls with dial.now := 10000000000 }
def atEe0 : State := put lit [(PEER_SYNC_CFG.INTERVAL_BEATS, 0)]
def ef : Bytes := fr 3 1 0 0 0 true false (z 8)
def grp : State := { net with dial.time := 1000000000 }
def lapsing : State := { grp with peer.group := 0, power.given := [⟨2, 5, 0, none, true, 10⟩] }
def sf : Bytes := fr 2 1 0 0 0 true true (natBe 8 5 ++ z 15)
def atEe4b : State := {net with peer.group := 0}
def slk (d : Nat) (need : Bool) (w : Int) : Slack := ⟨d, 0, 1000, w, need, 2, 8, 100, 10, none, 0⟩
def grp2 : State := { net with dial.time := 500000, power.slacks := [slk 0 true (-5), slk 1 false 60], power.members := [1, 2] }
def laps2 : State := { put lapsing [] with power.exchange := 0 }
def dst (slot b : Nat) : State := put (reg net) [(PEER_DIST_CMD.SLOT, slot), (PEER_DIST_CMD.BYTES, b), (PEER_DIST_MASK.DEST,
  6), (PEER_DIST_CMD.GO, 1)]
def w7 : Word := 2 ^ 63
def dh (dests n : Nat) : Bytes := [15, 0, 0, 0] ++ natBe 4 n ++ natBe 8 dests ++ z 8
def df (dests n : Nat) (last : Bool) : Bytes := fr 0x20 1 0 0 5 last true (dh dests n ++ (List.range 40).map (BitVec.ofNat 8))
def rxn (slot n : Nat) (r : Bool) (got : List Nat) : DistRx := ⟨slot, 1, 5, n, r, got, 0⟩
def D (s : State) (f : Bytes) : State := taken2 s 1 f 0x20
def df2 (ok : Nat) : Bytes := fr 0x21 1 0 0 5 true false [15, BitVec.ofNat 8 ok]
def txn (m : Nat) : DistTx := ⟨15, 64, m, 5, 0⟩
def tx (m : Nat) : State := { reg net with peer.distTx := some (txn m) }
def T (s : State) (f : Bytes) : State := taken2 s 1 f 0x21
def rxs (now : Nat) : State := { reg net with peer.distRx := [rxn 15 40 false [0], rxn 14 40 false []], dial.now := now }
def late (s : State) : State := { s with dial.now := 10000000000 }
def rb (st : Bool) : State := put { busy with observe.startReq := some (st, 8) } [(OBSERVE_SAMPLE_CTRL.INTERVAL_BEATS, 100)]
def rba : State := put (rb false) [(OBSERVE_SAMPLE_CTRL.ACTIVE, 1)]
def rbn : State := put (rb true) [(OBSERVE_SAMPLE_CTRL.INTERVAL_BEATS, 99)]
def rbo : State := put rbn [(REGULATOR_PD_STATUS.ON, 0x7FFFF)]
def rg9 : Region := ⟨9, 0, 0, 300000, 65536⟩
def rg10 : Region := ⟨0x0A, 0, 0, 200000, 4096⟩
def smp2 (n : Nat) : State :=
  put { reg busy with dial.time := 100000, observe.snapshots := List.replicate n (z 2048) } [(OBSERVE_SAMPLE_CTRL.INTERVAL_BEATS,
  100), (OBSERVE_SAMPLE_CTRL.ACTIVE, 1)]
def rbr : State := { rb true with sched.restart := 1, dial.time := 999999000, observe.startReq := some (true, 999999) }
def atSm9 : State := { smp2 1 with secure.regions := [] }
def atTr1 : State := {reg busy with sched.running := some { plan with traceReserved := true }}
def trc (o : Nat) : State := put { reg busy with observe.trace := List.replicate 129 5 } [(OBSERVE_TRACE_STATUS.OFFSET, o)]
def atTr3c : State := put (trc 61440) [(OBSERVE_TRACE_CTRL.MODE, 1)]
def atTr4 : State := put lit [(OBSERVE_TRACE_CTRL.ENABLE, 1), (OBSERVE_TRACE_CTRL.CLASSES, 256)]
def trf : State := put { lit with observe.trace := List.replicate 2048 5 } [(OBSERVE_TRACE_CTRL.ENABLE, 1),
  (OBSERVE_TRACE_CTRL.CLASSES, 256)]
def hg : State := put { C5 (jobS 1 false) with observe.dump := [], dial.now := 6000000 } [(OBSERVE_HANG_CFG.JOB_HANG_MS, 5),
  (OBSERVE_HANG_CFG.HANG_BEATS, 0)]
def atTr6b : State := put hg [(OBSERVE_HANG_STATUS.DUMP_VALID, 1)]
def hgQ : State := put { queues 9 2 with dial.now := 6000000, pipe.flights := [flight 1] } [(OBSERVE_HANG_CFG.HANG_BEATS,
  100), (OBSERVE_HANG_CFG.JOB_HANG_MS, 0)]
def atTr8 : State := {lit with observe.dumpOpen := true}
def lg (l : LogSt) : State := { lit with log := l }
def L0 : LogSt := LogSt.reset
def Ldue : LogSt := { L0 with due := true, sectors := 2 }
def Lfail (k : Nat) (c : Bool) : LogSt := { Ldue with clearDue := c, failedDies := 3, sector := k }
def atLo1 : State := lg { L0 with intervalLeft := 0 }
def atLo1b : State := lg { L0 with intervalLeft := 9 }
def pg : State := { lit with secure.powerGood := true }
def atBo2b : State := {lit with secure.powerGood := false}
def atBo4 : State := {pg with pins.resetN := false}
def atBo5 : State := {pg with pins.resetN := true}
def flS : Word := 2 ^ TABLE_REBUILD.FLOW_START.lsb
def epS : Word := 2 ^ TABLE_REBUILD.EP_START.lsb
def selW : Word := 15 * 2 ^ ARRAY_Q_SELECT.SLOT.lsb + 255 * 2 ^ ARRAY_Q_SELECT.TENSOR.lsb
def en (p : Nat) : Word := 2 ^ (HEADPORT_PORT_CFG.ENABLE p).lsb
def wrote (s : State) (p : Nat) (v : Word) : State := writeFields s (0x20100 + 64 * p) v.toNat
def off7 : State := put busy [(HEADPORT_PORT_CFG.ENABLE 7, 0)]
def atWf6 : State := put lit [(CROWN_CTRL.LOCK, 1)]

theorem test_premises_StepRunsTheFrontCommand :
    atStep1.pending = [Instr.dialNowSecRead, Instr.bypass] ∧
    lit.pending = [] := by
  and_intros <;> decide

theorem test_premises_StartAndRestartRunThrough :
    State.reset.secure.powerGood = false ∧
    bootClass stby = 2 ∧
    chooseSchedule stby = some plan ∧
    requiredStaged stby = true ∧
    bootClass atStart3 = 2 ∧
    (chooseSchedule atStart3 = none ∨ requiredStaged atStart3 = false) ∧
    waiting.sched.chosen = some plan ∧
    (rdB waiting GLOBAL_STATUS.READY || Option.isSome waiting.secure.startAt) = true ∧
    waiting.sched.running = none ∧
    dialSet waiting = true ∧
    rdB waiting REGULATOR_TRIP.LATCHED = false ∧
    waiting.sched.restart ≠ 2 ∧
    waiting.sched.restart ≠ 3 ∧
    (admissionDue (if admissionDue waiting plan = true then waiting else advanceTo waiting (admissionBeat waiting plan)) plan =
      true) ∧
    waiting2.sched.chosen = some plan ∧
    (rdB waiting2 GLOBAL_STATUS.READY || Option.isSome waiting2.secure.startAt) = true ∧
    waiting2.sched.running = none ∧
    dialSet waiting2 = true ∧
    rdB waiting2 REGULATOR_TRIP.LATCHED = false ∧
    waiting2.sched.restart ≠ 2 ∧
    waiting2.sched.restart ≠ 3 ∧
    (admissionDue (if admissionDue waiting2 plan = true then waiting2 else advanceTo waiting2 (admissionBeat waiting2 plan))
      plan = true) ∧
    pdOn lit 1 = true ∧
    pdOn atRes1b 1 = true ∧
    asked.sched.restart = 1 ∧
    dialSet asked = true ∧
    asked.secure.halted = false ∧
    bootClass asked ≠ 1 ∧
    atRes2b.sched.restart = 1 ∧
    dialSet atRes2b = true ∧
    atRes2b.secure.halted = false ∧
    bootClass atRes2b ≠ 1 ∧
    atRes3.sched.restart = 2 ∧
    drainedAll atRes3 = true ∧
    atRes3b.sched.restart = 2 ∧
    drainedAll atRes3b = true ∧
    atRes4a.sched.restart = 3 ∧
    atRes4b.sched.restart = 3 := by
  and_intros <;> decide

theorem test_premises_PinsAndSourcesOfTheDial :
    lit.secure.powerGood = true ∧
    (∀ (e : Nat), (advance lit 5).dial.lastEdge = some e → 900000000 ≤ (advance lit 5).dial.now - e) ∧
    edge.secure.powerGood = true ∧
    (∀ (e : Nat), (advance edge 5).dial.lastEdge = some e → 900000000 ≤ (advance edge 5).dial.now - e) ∧
    atPin2.secure.powerGood = true ∧
    (advance atPin2 5).dial.lastEdge = some 1000000000 ∧
    (advance atPin2 5).dial.now - 1000000000 < 900000000 ∧
    todInWindow (advance lit 3) = true ∧
    todGood todMsg = true ∧
    (todInWindow (advance lit 3) && todGood [165, 2]) = false ∧
    (atSecond unset || !dialSet unset) = true ∧
    selectedWritten unset ≠ unset.dial.source ∧
    (atSecond atSrc1b || !dialSet atSrc1b) = true ∧
    selectedWritten atSrc1b ≠ atSrc1b.dial.source ∧
    (atSecond atSrc1c || !dialSet atSrc1c) = true ∧
    selectedWritten atSrc1c ≠ atSrc1c.dial.source ∧
    rdB (advance fell 1) DIAL_CTRL.FALLBACK_EN = true ∧
    activeSource (advance fell 1) ≠ (advance fell 1).dial.source ∧
    validLong (advance fell 1) (advance fell 1).dial.source = true := by
  and_intros <;> decide

theorem test_premises_LostSourceLeadsToHoldover :
    (advance lost 1).dial.lastEdge = some 1000000000 ∧
    1100000000 ≤ (advance lost 1).dial.now - 1000000000 ∧
    (∀ (e : Nat), (advance edge 1).dial.lastEdge = some e → (advance edge 1).dial.now - e < 1100000000) ∧
    Instr.syncTimeout 1 ∈ [Instr.syncTimeout 1, Instr.announceTimeout 1] ∧
    (advance lostP 1).dial.lastSync = some 0 ∧
    3 * syncIntervalNs (advance lostP 1) ≤ (advance lostP 1).dial.now - 0 ∧
    (∀ (a : Nat), (advance lostP 1).dial.lastAnnounce = some a → (advance lostP 1).dial.now - a < announceTimeoutNs (advance
      lostP 1)) ∧
    Instr.announceTimeout 1 ∈ [Instr.syncTimeout 1, Instr.announceTimeout 1] ∧
    (advance lostA 1).dial.lastAnnounce = some 0 ∧
    announceTimeoutNs (advance lostA 1) ≤ (advance lostA 1).dial.now - 0 ∧
    PtpInTime (advance lit 1) := by
  and_intros <;> decide

theorem test_premises_PtpMessagesAreTaken :
    lit.secure.powerGood = true ∧
    PtpInTime (advance lit 4) ∧
    ptpHeard (advance lit 4) ann.transport ann.domain = true ∧
    heard.secure.powerGood = true ∧
    PtpInTime (advance heard 4) ∧
    ptpHeard (advance heard 4) far.transport far.domain = true ∧
    ptpHeard (advance heard 4) foreign.transport foreign.domain = false ∧
    ptpHeard (advance heard 4) better.transport better.domain = true ∧
    ptpHeard (advance heard 4) (sync true).transport (sync true).domain = true ∧
    (advance heard 4).dial.chosen = some (sync true).master ∧
    (sync true).twoStep = true ∧
    ptpHeard (advance heard 4) (sync false).transport (sync false).domain = true ∧
    (advance heard 4).dial.chosen = some (sync false).master ∧
    (sync false).twoStep = false ∧
    (advance heard 4).dial.meanDelay = none ∧
    PtpInTime (advance mean 4) ∧
    ptpHeard (advance mean 4) (sync false).transport (sync false).domain = true ∧
    (advance mean 4).dial.chosen = some (sync false).master ∧
    (advance mean 4).dial.meanDelay = some 40 ∧
    (ptpHeard (advance lit 4) (sync false).transport (sync false).domain = false ∨ (advance lit 4).dial.chosen ≠ some (sync
      false).master) ∧
    PtpInTime (advance fol 4) ∧
    (advance fol 4).dial.syncWait = some (3, 900, -2) ∧
    (advance fol 4).dial.chosen = some 77 ∧
    ptpHeard (advance fol 4) 0 0 = true ∧
    (advance fol 4).dial.meanDelay = none ∧
    PtpInTime (advance folM 4) ∧
    (advance folM 4).dial.syncWait = some (3, 900, -2) ∧
    (advance folM 4).dial.chosen = some 77 ∧
    ptpHeard (advance folM 4) 0 0 = true ∧
    (advance folM 4).dial.meanDelay = some 40 ∧
    (ptpHeard (advance fol 4) 0 9 = false ∨ (advance fol 4).dial.chosen ≠ some 77) ∧
    (ptpHeard (advance fol 4) 0 0 = false ∨ (advance fol 4).dial.chosen ≠ some 78) ∧
    Option.isSome (advance heard 4).dial.chosen = true ∧
    (advance dly 4).dial.delaySent = some (3, 950) ∧
    (advance dly 4).dial.syncPair = some (800, 900) ∧
    (advance dly 4).dial.chosen = some 77 ∧
    ptpHeard (advance dly 4) 0 0 = true := by
  and_intros <;> decide

theorem test_premises_HoldoverBoundRaisesFlags :
    inHoldover (advance hold 1) = true ∧
    (advance hold 1).dial.warned = false ∧
    rd (advance hold 1) DIAL_HOLDOVER_CFG.WARN_NS * 1000000000 < boundScaled (advance hold 1) ∧
    dialState (advance hold 1) = 3 ∧
    rd (advance hold 1) DIAL_HOLDOVER_CFG.LIMIT_NS * 1000000000 < boundScaled (advance hold 1) := by
  and_intros <;> decide

theorem test_premises_DialStepRunsThrough :
    atDst1.dial.stepPhase = 1 ∧
    atRound atDst1 = true ∧
    atDst2.dial.stepPhase = 2 ∧
    atDst2.dial.stepLast + 1 + latency atDst2 ≤ batchNow atDst2 ∧
    atDst2b.dial.stepPhase = 2 ∧
    atDst2b.dial.stepLast + 1 + latency atDst2b ≤ batchNow atDst2b ∧
    atDst3.dial.stepPhase = 3 ∧
    atRound atDst3 = true := by
  and_intros <;> decide

theorem test_premises_ReadsBeatsAndSecondsOfTheDial :
    dialSet busy = true ∧
    atSecond busy = false ∧
    atSecond atRd4 = true ∧
    (∀ (t v : Nat), atRd4.power.supplyFall = some (t, v) → atRd4.dial.now < t) := by
  and_intros
  all_goals first
    | decide
    | exact fun t v h => nomatch (show (none : Option (Nat × Nat)) = some (t, v) from h)

theorem test_premises_RoundsDecideAndGrant :
    busy.sched.running = some plan ∧
    (busy = if atRound busy = true then busy else advanceTo busy (nextRound busy)) ∧
    atRound busy = true ∧
    late9.sched.running = some plan ∧
    (advanceTo late9 (nextRound late9) = if atRound late9 = true then late9 else advanceTo late9 (nextRound late9)) ∧
    atRound (advanceTo late9 (nextRound late9)) = true ∧
    frz.sched.running = some plan ∧
    (frz = if atRound frz = true then frz else advanceTo frz (nextRound frz)) ∧
    atRound frz = true ∧
    frz2.sched.running = some plan ∧
    (frz2 = if atRound frz2 = true then frz2 else advanceTo frz2 (nextRound frz2)) ∧
    atRound frz2 = true ∧
    dec.sched.running = some plan ∧
    atDecision dec = true ∧
    dec2.sched.running = some plan ∧
    atDecision dec2 = true ∧
    dec3.sched.running = some plan ∧
    atDecision dec3 = true ∧
    usedUp.sched.acts[6]? = some (spent 100000) ∧
    (spent 100000).held = false ∧
    grantReached (spent 100000) = true ∧
    (skp 2).sched.acts[1]? = some (spent 100000) ∧
    (skp 3).sched.acts[2]? = some (spent 100000) ∧
    (skp 5).sched.acts[4]? = some (spent 100000) ∧
    (skp 4).sched.acts[3]? = some (spent 100000) ∧
    (skp 6).sched.acts[5]? = some (spent 100000) ∧
    busy.sched.acts[1]? = some (spent 0) ∧
    ((spent 0).held = true ∨ grantReached (spent 0) = false) ∧
    lit.sched.running = none := by
  and_intros
  all_goals first
    | decide
    | rfl

theorem test_premises_GrantsFitIntoTheRound :
    (sumN (List.map (fun (x : Activity) => x.budget) (List.filter (fun (a : Activity) => Activity.aclk a && a.shed == 0)
      plan1.acts)) ≤ cyclesFor plan1.n (min 1000000 2000) plan1.margin - if 2000 = 1000000 then 0 else 32) ∧
    (sumN (List.map (fun (x : Activity) => x.budget) (List.filter (fun (a : Activity) => Activity.aclk a && a.shed == 0)
      plan1.acts)) ≤ cyclesFor plan1.n (min 2000 2000) plan1.margin - if 2000 = 2000 then 0 else 32) := by
  and_intros <;> decide

theorem test_premises_ArithmeticRoundsAndNarrows :
    2 * Int.natAbs (-7 - rheDiv (-7) 2 * 2) = 2 ∧
    (∀ (x : Int), x ∈ [5, -1000, 2147483647] → Int.natAbs x < 2 ^ 31) ∧
    (∀ (x : Int), x ∈ [255, -1] → Int.natAbs x < 2 ^ 31) ∧
    (∀ (x : Int), x ∈ [254, 253, -255] → Int.natAbs x < 2 ^ 31) ∧
    (∀ (x : Int), x ∈ [-127, 127] → Int.natAbs x < 2 ^ 31) ∧
    (∀ (x : Int), x ∈ [128, 129, 130, -131] → Int.natAbs x < 2 ^ 31) ∧
    (∀ (x : Int), x ∈ [508, 509, 510, 511, -507] → Int.natAbs x < 2 ^ 31) ∧
    (144 ≤ scaleExp 817889280 + 0 → rheDiv (7 * (scaleMant 817889280)) (2 ^ (144 - scaleExp 817889280)) = 7 * (scaleMant
      817889280) * 2 ^ (scaleExp 817889280 + 0 - 144)) ∧
    (scaleExp 817889280 + 0 < 144 → rheDiv (7 * (scaleMant 817889280)) (2 ^ (144 - scaleExp 817889280)) = rheDiv (7 *
      (scaleMant 817889280)) (2 ^ (144 - (scaleExp 817889280 + 0)))) ∧
    List.length qten.win < 3 ∧
    List.length qten.win = 2 := by
  and_intros <;> decide

theorem test_premises_FramesAreTakenOrDiscarded :
    PortsOk port.ports ∧
    bunAt (advance port 100) 2 = parseBundle (List.getD (advance port 100).ports 0 PortSt.reset).v1 (advance port
      100).dial.time 0 (rd (advance port 100) (HEADPORT_PORT_CFG.V1_PARTITION 0)) (parseFrame (frame 2 5)).body ∧
    portUp (advance port 100) 0 = true ∧
    (∀ (x : Prop × Discard), x ∈ discardCauses (advance port 100) 0 true 0 (frame 2 5) (bunAt (advance port 100) 2) → ¬x.fst) ∧
    PortsOk portS.ports ∧
    bunAt (advance portS 100) 2 = parseBundle (List.getD (advance portS 100).ports 0 PortSt.reset).v1 (advance portS
      100).dial.time 0 (rd (advance portS 100) (HEADPORT_PORT_CFG.V1_PARTITION 0)) (parseFrame (frame 2 5)).body ∧
    portUp (advance portS 100) 0 = true ∧
    (∀ (x : Prop × Discard), x ∈ discardCauses (advance portS 100) 0 true 0 (frame 2 5) (bunAt (advance portS 100) 2) → ¬x.fst) ∧
    PortsOk lit.ports ∧
    bunAt (advance lit 100) 2 = parseBundle (List.getD (advance lit 100).ports 0 PortSt.reset).v1 (advance lit 100).dial.time 0
      (rd (advance lit 100) (HEADPORT_PORT_CFG.V1_PARTITION 0)) (parseFrame (frame 2 5)).body ∧
    portUp (advance lit 100) 0 = false ∧
    bunAt (advance port 100) 1 = parseBundle (List.getD (advance port 100).ports 0 PortSt.reset).v1 (advance port
      100).dial.time 0 (rd (advance port 100) (HEADPORT_PORT_CFG.V1_PARTITION 0)) (parseFrame (frame 1 5)).body ∧
    ((discardCauses (advance port 100) 0 true 0 (frame 1 5) (bunAt (advance port 100) 1))[2]? = some (List.length (parseFrame
      (frame 1 5)).body < 32 ∨ (bunAt (advance port 100) 1).version ≠ 2 ∨ (bunAt (advance port 100) 1).kind ≠ 1 ∨ (bunAt
      (advance port 100) 1).port ≠ 0 ∨ (bunAt (advance port 100) 1).count < 1 ∨ 56 < (bunAt (advance port 100) 1).count ∨
      (bunAt (advance port 100) 1).units < 1 ∨ 8 < (bunAt (advance port 100) 1).units, Discard.header)) ∧
    (List.length (parseFrame (frame 1 5)).body < 32 ∨ (bunAt (advance port 100) 1).version ≠ 2 ∨ (bunAt (advance port 100)
      1).kind ≠ 1 ∨ (bunAt (advance port 100) 1).port ≠ 0 ∨ (bunAt (advance port 100) 1).count < 1 ∨ 56 < (bunAt (advance port
      100) 1).count ∨ (bunAt (advance port 100) 1).units < 1 ∨ 8 < (bunAt (advance port 100) 1).units) ∧
    (∀ (x : Prop × Discard), x ∈ List.take 2 (discardCauses (advance port 100) 0 true 0 (frame 1 5) (bunAt (advance port 100)
      1)) → ¬x.fst) ∧
    ((discardCauses (advance port 100) 0 false 0 (frame 2 5) (bunAt (advance port 100) 2))[0]? = some (false = false ∨ 0 ≠ 0,
      Discard.fcs)) ∧
    (false = false ∨ 0 ≠ 0) ∧
    (∀ (x : Prop × Discard), x ∈ List.take 0 (discardCauses (advance port 100) 0 false 0 (frame 2 5) (bunAt (advance port 100)
      2)) → ¬x.fst) ∧
    PortsOk adm.ports ∧
    shedReason adm 0 = none ∧
    shedReason port 0 = some 5 ∧
    PortsOk atFr4c.ports ∧
    shedReason atFr4c 0 = some 1 ∧
    shedReason lit 7 = some 5 ∧
    portUp port 0 = true ∧
    portUp lit 7 = false := by
  and_intros
  all_goals first
    | decide
    | rfl
    | (unfold discardCauses; simp only [List.take, List.forall_mem_cons, List.not_mem_nil, false_imp_iff, implies_true, and_true]; all_goals decide)

theorem test_premises_GapsAndLanesOfPorts :
    7 < List.length gap.ports ∧
    (List.getD gap.ports 7 PortSt.reset).lastSeq = some 3 ∧
    bun.sequence ≠ addMod 32 3 1 ∧
    0 < List.length port.ports ∧
    ((List.getD port.ports 0 PortSt.reset).lastSeq = none ∨ ∃ (q : Nat), (List.getD port.ports 0 PortSt.reset).lastSeq = some q
      ∧ bun.sequence = addMod 32 q 1) ∧
    P5 = advance port 50 ∧
    PortsOk P5.ports ∧
    pq P5 0 = List.getD P5.ports 0 PortSt.reset ∧
    portLanes P5 0 = some (0, 4) ∧
    3 < 0 + 4 ∧
    portUp P5 0 = true ∧
    lostAgain P5.dial.now (pq P5 0).retrained (some 3) = false ∧
    (pq P5 0).retrain = none ∧
    A5 = advance again 50 ∧
    PortsOk A5.ports ∧
    pq A5 0 = List.getD A5.ports 0 PortSt.reset ∧
    portLanes A5 0 = some (0, 4) ∧
    portUp A5 0 = true ∧
    lostAgain A5.dial.now (pq A5 0).retrained (some 3) = true ∧
    T5 = advance two 50 ∧
    PortsOk T5.ports ∧
    pq T5 0 = List.getD T5.ports 0 PortSt.reset ∧
    portLanes T5 0 = some (0, 2) ∧
    (3 < 0 ∨ 0 + 2 ≤ 3 ∨ (pq T5 0).retrain = none ∧ rdB T5 (HEADPORT_STATUS.ALIGNED 0) = false) ∧
    portOn T5 0 = true ∧
    U5 = advance una 50 ∧
    PortsOk U5.ports ∧
    pq U5 0 = List.getD U5.ports 0 PortSt.reset ∧
    portLanes U5 0 = some (0, 4) ∧
    (3 < 0 ∨ 0 + 4 ≤ 3 ∨ (pq U5 0).retrain = none ∧ rdB U5 (HEADPORT_STATUS.ALIGNED 0) = false) ∧
    portOn U5 0 = true ∧
    R5 = advance retr 10000000 ∧
    PortsOk R5.ports ∧
    pq R5 0 = List.getD R5.ports 0 PortSt.reset ∧
    portLanes R5 0 = some (0, 4) ∧
    2 < 0 + 4 ∧
    portOn R5 0 = true ∧
    Option.isSome (pq R5 0).retrain = true ∧
    (pq R5 0).retrain = some 0 ∧
    R5.dial.now - 0 ≤ 10000000 ∧
    10000000 ≤ R5.dial.now - 0 ∧
    R50 = advance retr0 10000000 ∧
    PortsOk R50.ports ∧
    pq R50 0 = List.getD R50.ports 0 PortSt.reset ∧
    portLanes R50 0 = some (0, 4) ∧
    (pq R50 0).retrain = some 0 ∧
    10000000 ≤ R50.dial.now - 0 ∧
    F5 = advance poff 50 ∧
    PortsOk F5.ports ∧
    pq F5 0 = List.getD F5.ports 0 PortSt.reset ∧
    portLanes F5 0 = some (0, 4) ∧
    portOn F5 0 = false ∧
    L5 = advance links 50 ∧
    PeerOk L5.peer ∧
    linkLanes L5 0 = some (0, 2) ∧
    laneUsed (some 1) 0 2 = true ∧
    (getLink L5 0).retrain = none ∧
    rd L5 (PEER_LINK_STATUS.LANES 0) ≠ 0 ∧
    lostAgain L5.dial.now (getLink L5 0).retrained (some 1) = false ∧
    laneUsed none 0 2 = true ∧
    lostAgain L5.dial.now (getLink L5 0).retrained none = false ∧
    LA5 = advance linksA 50 ∧
    PeerOk LA5.peer ∧
    linkLanes LA5 0 = some (0, 2) ∧
    (getLink LA5 0).retrain = none ∧
    rd LA5 (PEER_LINK_STATUS.LANES 0) ≠ 0 ∧
    lostAgain LA5.dial.now (getLink LA5 0).retrained (some 1) = true ∧
    RL5 = advance retrL 10000000 ∧
    PeerOk RL5.peer ∧
    linkLanes RL5 0 = some (0, 2) ∧
    laneUsed (some 0) 0 2 = true ∧
    Option.isSome (getLink RL5 0).retrain = true ∧
    LD5 = advance linksD 50 ∧
    PeerOk LD5.peer ∧
    linkLanes LD5 0 = some (0, 2) ∧
    (laneUsed (some 0) 0 2 = false ∨ (getLink LD5 0).retrain = none ∧ rd LD5 (PEER_LINK_STATUS.LANES 0) = 0) ∧
    (getLink RL5 0).retrain = some 0 ∧
    RL5.dial.now - 0 ≤ 10000000 ∧
    10000000 ≤ RL5.dial.now - 0 ∧
    (portOn retr 0 = false ∨ Option.isSome (List.getD retr.ports 0 PortSt.reset).retrain = true) ∧
    (portOn State.reset 0 = false ∨ Option.isSome (List.getD State.reset.ports 0 PortSt.reset).retrain = true) ∧
    (pdOn State.reset 4 = false ∨ State.reset.pins.lanesOff = true ∨ Option.isSome (getLink State.reset 0).retrain = true) ∧
    portOn una 0 = true ∧
    (List.getD una.ports 0 PortSt.reset).retrain = none ∧
    portLanes una 0 = some (0, 4) ∧
    PeerOk linksD.peer ∧
    pdOn linksD 4 = true ∧
    linksD.pins.lanesOff = false ∧
    (getLink linksD 0).retrain = none ∧
    linkLanes linksD 0 = some (0, 2) ∧
    lanesIn 3 0 2 = true ∧
    lanesIn 1 0 2 = false := by
  and_intros
  all_goals first
    | decide
    | rfl

theorem test_premises_PortOutputsAreServed :
    O1 = advance (outs 0 [ob6] []) 10 ∧
    PortsOk O1.ports ∧
    (false = false → (List.getD O1.ports 0 PortSt.reset).ordered = [ob6] ∧ W1 =
      { O1 with ports := modAt O1.ports 0 fun (t : PortSt) => { t with ordered := [] } }) ∧
    (false = true → (List.getD O1.ports 0 PortSt.reset).ordered = [] ∧ (List.getD O1.ports 0 PortSt.reset).shedding = [ob6] ∧
      ob6.closed = true ∧ W1 = { O1 with ports := modAt O1.ports 0 fun (t : PortSt) => { t with shedding := [] } }) ∧
    pq t1.fst 0 = List.getD t1.fst.ports 0 PortSt.reset ∧
    (takeItems 0 (if false = true then shedQueue 0 else orderedQueue 0) (ceilDiv ob6.count 4) W1 [] = (t1.fst, [5, 6])) ∧
    [5, 6] ≠ [] ∧
    portUp t1.fst 0 = true ∧
    S1 = advance (outs 0 [] [ob6]) 10 ∧
    PortsOk S1.ports ∧
    (true = false → (List.getD S1.ports 0 PortSt.reset).ordered = [ob6] ∧ X1 =
      { S1 with ports := modAt S1.ports 0 fun (t : PortSt) => { t with ordered := [] } }) ∧
    (true = true → (List.getD S1.ports 0 PortSt.reset).ordered = [] ∧ (List.getD S1.ports 0 PortSt.reset).shedding = [ob6] ∧
      ob6.closed = true ∧ X1 = { S1 with ports := modAt S1.ports 0 fun (t : PortSt) => { t with shedding := [] } }) ∧
    pq t2.fst 0 = List.getD t2.fst.ports 0 PortSt.reset ∧
    (takeItems 0 (if true = true then shedQueue 0 else orderedQueue 0) (ceilDiv ob6.count 4) X1 [] = (t2.fst, [5, 6])) ∧
    portUp t2.fst 0 = true ∧
    O2 = advance (outs 1 [ob6] []) 10 ∧
    PortsOk O2.ports ∧
    (false = false → (List.getD O2.ports 1 PortSt.reset).ordered = [ob6] ∧ W2 =
      { O2 with ports := modAt O2.ports 1 fun (t : PortSt) => { t with ordered := [] } }) ∧
    (false = true → (List.getD O2.ports 1 PortSt.reset).ordered = [] ∧ (List.getD O2.ports 1 PortSt.reset).shedding = [ob6] ∧
      ob6.closed = true ∧ W2 = { O2 with ports := modAt O2.ports 1 fun (t : PortSt) => { t with shedding := [] } }) ∧
    pq t3.fst 1 = List.getD t3.fst.ports 1 PortSt.reset ∧
    (takeItems 1 (if false = true then shedQueue 1 else orderedQueue 1) (ceilDiv ob6.count 4) W2 [] = (t3.fst, [5, 6])) ∧
    portUp t3.fst 1 = false ∧
    S2 = advance (outs 1 [] [ob6]) 10 ∧
    PortsOk S2.ports ∧
    (true = false → (List.getD S2.ports 1 PortSt.reset).ordered = [ob6] ∧ X2 =
      { S2 with ports := modAt S2.ports 1 fun (t : PortSt) => { t with ordered := [] } }) ∧
    (true = true → (List.getD S2.ports 1 PortSt.reset).ordered = [] ∧ (List.getD S2.ports 1 PortSt.reset).shedding = [ob6] ∧
      ob6.closed = true ∧ X2 = { S2 with ports := modAt S2.ports 1 fun (t : PortSt) => { t with shedding := [] } }) ∧
    pq t4.fst 1 = List.getD t4.fst.ports 1 PortSt.reset ∧
    (takeItems 1 (if true = true then shedQueue 1 else orderedQueue 1) (ceilDiv ob6.count 4) X2 [] = (t4.fst, [5, 6])) ∧
    portUp t4.fst 1 = false ∧
    P5 = advance port 50 ∧
    (List.getD P5.ports 0 PortSt.reset).ordered = [] ∧
    (∀ (o : OpenBundle) (rest : List OpenBundle), (List.getD P5.ports 0 PortSt.reset).shedding = o :: rest → o.closed = false) ∧
    PortsOk (advance shut 1000).ports ∧
    (List.getD (advance shut 1000).ports 1 PortSt.reset).shedFirst = some 0 ∧
    dialSet (advance shut 1000) = false ∧
    1000 ≤ (advance shut 1000).dial.now - 0 ∧
    PortsOk (advance shut 999).ports ∧
    (List.getD (advance shut 999).ports 1 PortSt.reset).shedFirst = some 0 ∧
    (dialSet (advance shut 999) = true ∨ (advance shut 999).dial.now - 0 < 1000) ∧
    PortsOk port.ports ∧
    pdOn port (portDomain 7) = true ∧
    pdOn port (portDomain 0) = true ∧
    PortsOk lit.ports ∧
    pdOn lit (portDomain 7) = true ∧
    PortsOk State.reset.ports ∧
    pdOn State.reset (portDomain 7) = false := by
  and_intros
  all_goals first
    | decide
    | rfl
    | exact (show ∀ o rest, ([] : List OpenBundle) = o :: rest → o.closed = false from nofun)

theorem test_premises_OperationsPassTheirStages :
    findBatch (piped (batch true false 0 0) []) 5 = some (batch true false 0 0) ∧
    Batch.chain (batch true false 0 0) 0 = some (chain 0 0) ∧
    mayFetch (piped (batch true false 0 0) []) (batch true false 0 0) (chain 0 0) = true ∧
    List.length (piped (batch true false 0 0) []).pipe.flights < 2048 ∧
    findBatch (piped (batch true false 0 0) (List.replicate 2048 (flight 0))) 5 = some (batch true false 0 0) ∧
    mayFetch (piped (batch true false 0 0) (List.replicate 2048 (flight 0))) (batch true false 0 0) (chain 0 0) = true ∧
    2048 ≤ List.length (piped (batch true false 0 0) (List.replicate 2048 (flight 0))).pipe.flights ∧
    findBatch (piped (batch true false 1 0) []) 5 = some (batch true false 1 0) ∧
    Batch.chain (batch true false 1 0) 0 = some (chain 1 0) ∧
    mayFetch (piped (batch true false 1 0) []) (batch true false 1 0) (chain 1 0) = false ∧
    (List.find? (fun (f : Flight) => f.tag == 2 && f.stage == 0) (piped (batch true false 1 0) [flight 0]).pipe.flights = some
      (flight 0)) ∧
    findBatch (piped (batch true false 1 0) [flight 0]) (flight 0).batch = some (batch true false 1 0) ∧
    Batch.chain (batch true false 1 0) (flight 0).slot = some (chain 1 0) ∧
    (inputsReady (chain 1 0) (Chain.op (chain 1 0) (flight 0).op) && producerReady (piped (batch true false 1 0) [flight 0])
      (flight 0).batch (flight 0).slot (Chain.op (chain 1 0) (flight 0).op) && stateReady (piped (batch true false 1 0) [flight
      0]) (flight 0).batch (flight 0).slot (chain 1 0).model (Chain.op (chain 1 0) (flight 0).op)) = true ∧
    (List.find? (fun (f : Flight) => f.tag == 2 && f.stage == 0) (piped batchN [flightN]).pipe.flights = some flightN) ∧
    findBatch (piped batchN [flightN]) flightN.batch = some batchN ∧
    Batch.chain batchN flightN.slot = some chainN ∧
    (inputsReady chainN (Chain.op chainN flightN.op) && producerReady (piped batchN [flightN]) flightN.batch flightN.slot
      (Chain.op chainN flightN.op) && stateReady (piped batchN [flightN]) flightN.batch flightN.slot chainN.model (Chain.op
      chainN flightN.op)) = false ∧
    (List.find? (fun (x : Flight) => x.stage == 2) (piped (batch true false 1 0) [flight 2]).pipe.flights = some (flight 2)) ∧
    (List.find? (fun (x : Flight) => x.stage == 2) atOp3b.pipe.flights = some (flight 2)) ∧
    (List.find? (fun (x : Flight) => x.stage == 2) (piped (batch true false 1 0) [flight 1]).pipe.flights = none) ∧
    nextExecute (piped (batch true false 1 0) [flight 1]) = some (flight 1) ∧
    (flight 1).stage = 1 ∧
    flightChain (piped (batch true false 1 0) [flight 1]) (flight 1) = some (batch true false 1 0, chain 1 0) ∧
    (List.find? (fun (x : Flight) => x.stage == 2) (piped (batch true false 1 0) [flight 3]).pipe.flights = none) ∧
    (∀ (f : Flight), nextExecute (piped (batch true false 1 0) [flight 3]) = some f → f.stage ≠ 1) ∧
    (piped (batch true false 1 0) [flight 3]).pipe.flights = [flight 3] ∧
    (flight 3).stage = 3 ∧
    (piped (batch true false 1 0) [flight 2]).pipe.flights = [flight 2] ∧
    (flight 2).stage ≠ 3 := by
  and_intros <;> decide

theorem test_premises_BatchesPassTheirWindows :
    findBatch early 5 = some (batch false false 0 0) ∧
    advance early 256 = advance early ((5 + 1) * 1000 + 256 - early.dial.time) ∧
    (batch false false 0 0).closed = false ∧
    findBatch shutB 5 = some (batch true false 1 1) ∧
    advance shutB 0 = advance shutB ((5 + 1) * 1000 + 256 - shutB.dial.time) ∧
    (batch true false 1 1).closed = true ∧
    (batch true false 1 1).windowEnded = false ∧
    advance shutB 0 = advance shutB ((5 + (batch true false 1 1).latency) * 1000 + 400 - shutB.dial.time) ∧
    (batch true false 1 1).tripped = false ∧
    Batch.retiredAll (batch true false 1 1) = true ∧
    findBatch lateB 5 = some (batch true false 0 0) ∧
    (batch true false 0 0).closed = true ∧
    (batch true false 0 0).windowEnded = false ∧
    advance lateB 0 = advance lateB ((5 + (batch true false 0 0).latency) * 1000 + 400 - lateB.dial.time) ∧
    ((batch true false 0 0).tripped || !Batch.retiredAll (batch true false 0 0)) = true ∧
    catchingUp atBa4 = true ∧
    lateOpen atBa4 = false ∧
    atBa4.sched.caughtUp = 0 ∧
    (catchingUp lit = false ∨ lateOpen lit = true ∨ lit.sched.caughtUp ≠ 0) ∧
    findBatch (piped (batch true true 1 1) []) 5 = some (batch true true 1 1) ∧
    (batch true true 1 1).windowEnded = true ∧
    (batch true true 1 1).returned = false ∧
    (∀ (d : Batch), d ∈ (piped (batch true true 1 1) []).pipe.batches → d.number < 5 → d.returned = true) ∧
    ((batch true false 1 1).windowEnded = false ∨ (batch true false 1 1).returned = true ∨ ∃ (d : Batch), d ∈
      shutB.pipe.batches ∧ d.number < 5 ∧ d.returned = false) := by
  and_intros <;> decide

theorem test_premises_RuleSetsAreCommitted :
    pdOn (stg [(65535, rule 0 0)]) 5 = true ∧
    (stg [(65535, rule 0 0)]).front.committed = none ∧
    firstFailure (wr { (stg [(65535, rule 0 0)]) with front := { (stg [(65535, rule 0 0)]).front with held := false } }
      FRONT_RULE_CTRL.COMMIT 0) (stg [(65535, rule 0 0)]).front.staging = none ∧
    pdOn (stg [(1, rule 0 0), (2, rule 0 (5 * 2 ^ 104))]) 5 = true ∧
    (stg [(1, rule 0 0), (2, rule 0 (5 * 2 ^ 104))]).front.committed = none ∧
    firstFailure (wr
      { (stg [(1, rule 0 0), (2, rule 0 (5 * 2 ^ 104))]) with front := { (stg [(1, rule 0 0), (2, rule 0 (5 * 2 ^ 104))]).front with held := false } }
      FRONT_RULE_CTRL.COMMIT 0) (stg [(1, rule 0 0), (2, rule 0 (5 * 2 ^ 104))]).front.staging = some (2, 3) ∧
    pdOn (cmt false) 5 = true ∧
    Option.isSome (cmt false).front.committed = true ∧
    pdOn (stg [(1, rule 0 0)]) 5 = true ∧
    (cmt false).front.committed = some [(3, rule 0 0), (4, { value := 0, mask := 0, result := 0 })] ∧
    laterBeat (cmt false) (cmt false).front.commitBeat = true ∧
    (cmt false).front.held = false ∧
    (cmt true).front.committed = some [(3, rule 0 0), (4, { value := 0, mask := 0, result := 0 })] ∧
    laterBeat (cmt true) (cmt true).front.commitBeat = true ∧
    (cmt true).front.held = true ∧
    (lit.front.committed = none ∨ laterBeat lit lit.front.commitBeat = false) ∧
    pdOn State.reset 5 = false := by
  and_intros <;> decide

theorem test_premises_CuckooInsertsAndRebuilds :
    (getT cuckR 0).requests = [(7, entry 3), (7, entry 4)] ∧
    compat cuckR 0 = true ∧
    tableOn cuckR 0 = true ∧
    rebuilding cuckR 0 = false ∧
    catchingUp cuckR = false ∧
    (getT cuckR 0).insertedBeat < 256 ∧
    (getT atCu1b 0).requests = [(7, entry 3), (7, entry 4)] ∧
    compat atCu1b 0 = true ∧
    tableOn atCu1b 0 = true ∧
    rebuilding atCu1b 0 = false ∧
    catchingUp atCu1b = false ∧
    (getT atCu1b 0).insertedBeat < 256 ∧
    (getT atCu1c 0).requests = [(7, entry 3), (7, entry 4)] ∧
    (compat atCu1c 0 = false ∨ tableOn atCu1c 0 = false ∨ rebuilding atCu1c 0 = true ∨ catchingUp atCu1c = true ∨ 256 ≤ (getT
      atCu1c 0).insertedBeat) ∧
    (getT cuck 0).requests = [] ∧
    pdOn cuck 5 = true ∧
    compat cuck 0 = true ∧
    rebuilding cuck 0 = false ∧
    rd cuck (TABLE_HASH_NEXT.VALUE 0 1) % 2 = 1 ∧
    rd cuck (TABLE_HASH_NEXT.VALUE 0 3) % 2 = 1 ∧
    pdOn atCu3 5 = true ∧
    compat atCu3 0 = true ∧
    rebuilding atCu3 0 = false ∧
    (rd atCu3 (TABLE_HASH_NEXT.VALUE 0 1) % 2 = 0 ∨ rd atCu3 (TABLE_HASH_NEXT.VALUE 0 3) % 2 = 0) ∧
    (pdOn lit 5 = false ∨ compat lit 0 = false ∨ rebuilding lit 0 = true) ∧
    (getT reb 0).rebuild = some 4 ∧
    (getT reb 0).rebuilt = none ∧
    mayRun reb 4 0 = true ∧
    dmaPending reb = false ∧
    tableOn reb 0 = true ∧
    (List.find? (fun (e : Nat × Entry) => decide (4 ≤ e.fst) && e.snd.valid) (getT reb 0).entries = some (9, entry 3)) ∧
    nestOf reb 9 (entry 3) = placeCuckoo (hashKey 0 (getT reb 0).newHash)
      { halves := (getT reb 0).idle, stash := (getT reb 0).newStash, relocations := 0, stashed := false, failed := false }
      { (entry 3) with index := 9 } ∧
    (nestOf reb 9 (entry 3)).failed = false ∧
    (getT rebF 0).rebuild = some 4 ∧
    (getT rebF 0).rebuilt = none ∧
    mayRun rebF 4 0 = true ∧
    dmaPending rebF = false ∧
    tableOn rebF 0 = true ∧
    (List.find? (fun (e : Nat × Entry) => decide (4 ≤ e.fst) && e.snd.valid) (getT rebF 0).entries = some (9, entry 3)) ∧
    nestOf rebF 9 (entry 3) = placeCuckoo (hashKey 0 (getT rebF 0).newHash)
      { halves := (getT rebF 0).idle, stash := (getT rebF 0).newStash, relocations := 0, stashed := false, failed := false }
      { (entry 3) with index := 9 } ∧
    (nestOf rebF 9 (entry 3)).failed = true ∧
    (getT rebS 0).rebuild = some 4 ∧
    (getT rebS 0).rebuilt = none ∧
    mayRun rebS 4 0 = true ∧
    dmaPending rebS = false ∧
    tableOn rebS 0 = true ∧
    (List.find? (fun (e : Nat × Entry) => decide (4 ≤ e.fst) && e.snd.valid) (getT rebS 0).entries = some (9, entry 3)) ∧
    nestOf rebS 9 (entry 3) = placeCuckoo (hashKey 0 (getT rebS 0).newHash)
      { halves := (getT rebS 0).idle, stash := (getT rebS 0).newStash, relocations := 0, stashed := false, failed := false }
      { (entry 3) with index := 9 } ∧
    (nestOf rebS 9 (entry 3)).failed = false ∧
    (getT rebE 0).rebuild = some 10 ∧
    (getT rebE 0).rebuilt = none ∧
    mayRun rebE 4 0 = true ∧
    dmaPending rebE = false ∧
    tableOn rebE 0 = true ∧
    (List.find? (fun (e : Nat × Entry) => decide (10 ≤ e.fst) && e.snd.valid) (getT rebE 0).entries = none) ∧
    ((getT cuck 0).rebuild = none ∨ (getT cuck 0).rebuilt ≠ none ∨ mayRun cuck 4 0 = false ∨ dmaPending cuck = true ∨ tableOn
      cuck 0 = false) ∧
    (getT atCu6 0).rebuilt = some 7 ∧
    laterBeat atCu6 7 = true ∧
    tableOn atCu6 0 = true ∧
    (tableOn reb 0 = false ∨ ∀ (b : Nat), (getT reb 0).rebuilt = some b → laterBeat reb b = false) := by
  and_intros
  all_goals first
    | decide
    | exact Or.inl (by decide)

theorem test_premises_RakeSweepsTheTables :
    tableOn rake 0 = true ∧
    true = (atSecond rake && dialSeconds rake % sweepSeconds rake 0 == 0 && rakeOn rake 0) ∧
    (getT rake 0).rake = none ∧
    (getT rake 0).sweepDue = false ∧
    tableOn rake 1 = true ∧
    true = (atSecond rake && dialSeconds rake % sweepSeconds rake 1 == 0 && rakeOn rake 1) ∧
    (getT rake 1).rake = none ∧
    (getT rake 1).sweepDue = false ∧
    tableOn atRa2 0 = true ∧
    true = (atSecond atRa2 && dialSeconds atRa2 % sweepSeconds atRa2 0 == 0 && rakeOn atRa2 0) ∧
    (getT atRa2 0).rake = some 3 ∧
    tableOn atRa3 0 = true ∧
    false = (atSecond atRa3 && dialSeconds atRa3 % sweepSeconds atRa3 0 == 0 && rakeOn atRa3 0) ∧
    (getT atRa3 0).rake = none ∧
    (getT atRa3 0).sweepDue = true ∧
    rakeOn atRa3 0 = true ∧
    tableOn atRa3b 1 = true ∧
    false = (atSecond atRa3b && dialSeconds atRa3b % sweepSeconds atRa3b 1 == 0 && rakeOn atRa3b 1) ∧
    (getT atRa3b 1).rake = none ∧
    (getT atRa3b 1).sweepDue = true ∧
    rakeOn atRa3b 1 = false ∧
    tableOn busy 1 = true ∧
    false = (atSecond busy && dialSeconds busy % sweepSeconds busy 1 == 0 && rakeOn busy 1) ∧
    ((getT busy 1).rake ≠ none ∨ (getT busy 1).sweepDue = false) ∧
    (getT atRa4 0).rake = some 16777215 ∧
    mayRun atRa4 3 0 = true ∧
    tableOn atRa4 0 = true ∧
    rebuilding atRa4 0 = false ∧
    atRa42 = List.foldl structureFault atRa4 [] ∧
    (catchingUp atRa42 = false ∨ rakeAct atRa42 0 16777215 ≠ RakeAct.orphan ∧ rakeAct atRa42 0 16777215 ≠ RakeAct.remove) ∧
    (getT atRa4b 1).rake = some 9 ∧
    mayRun atRa4b 3 0 = true ∧
    tableOn atRa4b 1 = true ∧
    rebuilding atRa4b 1 = false ∧
    atRa4b2 = List.foldl structureFault atRa4b [] ∧
    (catchingUp atRa4b2 = false ∨ rakeAct atRa4b2 1 9 ≠ RakeAct.orphan ∧ rakeAct atRa4b2 1 9 ≠ RakeAct.remove) ∧
    (getT (rk 5 (entry 3)) 0).rake = some 5 ∧
    mayRun (rk 5 (entry 3)) 3 0 = true ∧
    tableOn (rk 5 (entry 3)) 0 = true ∧
    rebuilding (rk 5 (entry 3)) 0 = false ∧
    rk 5 (entry 3) = List.foldl structureFault (rk 5 (entry 3)) [] ∧
    (catchingUp (rk 5 (entry 3)) = false ∨ rakeAct (rk 5 (entry 3)) 0 5 ≠ RakeAct.orphan ∧ rakeAct (rk 5 (entry 3)) 0 5 ≠
      RakeAct.remove) ∧
    (getT atRa4d 0).rake = some 5 ∧
    mayRun atRa4d 3 0 = true ∧
    tableOn atRa4d 0 = true ∧
    rebuilding atRa4d 0 = false ∧
    atRa4d2 = List.foldl structureFault atRa4d [] ∧
    (catchingUp atRa4d2 = false ∨ rakeAct atRa4d2 0 5 ≠ RakeAct.orphan ∧ rakeAct atRa4d2 0 5 ≠ RakeAct.remove) ∧
    (getT atRa4e 0).rake = some 5 ∧
    mayRun atRa4e 3 0 = true ∧
    tableOn atRa4e 0 = true ∧
    rebuilding atRa4e 0 = false ∧
    atRa4e2 = List.foldl structureFault atRa4e [] ∧
    (catchingUp atRa4e2 = false ∨ rakeAct atRa4e2 0 5 ≠ RakeAct.orphan ∧ rakeAct atRa4e2 0 5 ≠ RakeAct.remove) ∧
    (getT atRa4f 0).rake = some 5 ∧
    mayRun atRa4f 3 0 = true ∧
    tableOn atRa4f 0 = true ∧
    rebuilding atRa4f 0 = false ∧
    atRa4f2 = List.foldl structureFault atRa4f [] ∧
    (catchingUp atRa4f2 = false ∨ rakeAct atRa4f2 0 5 ≠ RakeAct.orphan ∧ rakeAct atRa4f2 0 5 ≠ RakeAct.remove) ∧
    (getT orp 0).rake = some 9 ∧
    mayRun orp 3 0 = true ∧
    tableOn orp 0 = true ∧
    rebuilding orp 0 = false ∧
    orp = List.foldl structureFault orp [] ∧
    (catchingUp orp = false ∨ rakeAct orp 0 9 ≠ RakeAct.orphan ∧ rakeAct orp 0 9 ≠ RakeAct.remove) ∧
    (catchingUp (List.foldl structureFault orp fts) = false ∨ rakeAct (List.foldl structureFault orp fts) 0 9 ≠ RakeAct.orphan
      ∧ rakeAct (List.foldl structureFault orp fts) 0 9 ≠ RakeAct.remove) ∧
    (getT cat 0).rake = some 5 ∧
    mayRun cat 3 0 = true ∧
    tableOn cat 0 = true ∧
    rebuilding cat 0 = false ∧
    cat = List.foldl structureFault cat [] ∧
    catchingUp cat = true ∧
    (rakeAct cat 0 5 = RakeAct.orphan ∨ rakeAct cat 0 5 = RakeAct.remove) ∧
    ((getT busy 0).rake = none ∨ mayRun busy 3 0 = false ∨ rebuilding busy 0 = true ∨ tableOn busy 0 = false) ∧
    ((getT hubOff 1).rake = none ∨ mayRun hubOff 3 0 = false ∨ rebuilding hubOff 1 = true ∨ tableOn hubOff 1 = false) ∧
    tableOn hubOff 1 = false := by
  and_intros <;> decide

theorem test_premises_TableOperationsAddTheirResult :
    (Instr.tableRead 7 [], 1) ∈ [(Instr.tableRead 7 [], 1), (Instr.tableWrite 7 [], 2), (Instr.tableInsert 7 [], 3),
      (Instr.tableDelete 7 [], 4), (Instr.tableLock 7 [], 5), (Instr.tableUnlock 7 [], 6), (Instr.tableReadState 7 [], 7),
      (Instr.tableWriteState 7 [], 8)] ∧
    nextOp (run1 (tab 1 [])) 7 1 = some (job [tab 1 []] [], tab 1 []) ∧
    1 = b2n (bit (tab 1 []).snd.snd.fst 63) ∧
    refOf 1 (tab 1 []) = tableRef 1 (tab 1 []).snd.snd.fst (tab 1 []).snd.snd.snd ∧
    0 = fld (tab 1 []).snd.snd.fst 62 59 ∧
    (tab 1 []).snd.fst = 1 ∧
    tableOn (run1 (tab 1 [])) 1 = true ∧
    unitAllowed (run1 (tab 1 [])) 4 = true ∧
    dmaWaits (run1 (tab 1 [])) 1 1 (refOf 1 (tab 1 [])).fst (refOf 1 (tab 1 [])).snd = false ∧
    dmaBad (run1 (tab 1 [])) 1 1 (refOf 1 (tab 1 [])).fst 0 = false ∧
    (rebuilding (run1 (tab 1 [])) 1 = true → 1 = 1 ∨ 1 = 7) ∧
    (∀ (i : Nat), dmaIndex (run1 (tab 1 [])) 1 (refOf 1 (tab 1 [])).fst = some i → (getEntry (run1 (tab 1 [])) 1 i).valid =
      false) ∧
    nextOp (te true (tab 1 [])) 7 1 = some (job [tab 1 []] [], tab 1 []) ∧
    tableOn (te true (tab 1 [])) 1 = true ∧
    unitAllowed (te true (tab 1 [])) 4 = true ∧
    dmaWaits (te true (tab 1 [])) 1 1 (refOf 1 (tab 1 [])).fst (refOf 1 (tab 1 [])).snd = false ∧
    dmaBad (te true (tab 1 [])) 1 1 (refOf 1 (tab 1 [])).fst 0 = false ∧
    (rebuilding (te true (tab 1 [])) 1 = true → 1 = 1 ∨ 1 = 7) ∧
    dmaIndex (te true (tab 1 [])) 1 (refOf 1 (tab 1 [])).fst = some 7 ∧
    eT = getEntry (te true (tab 1 [])) 1 7 ∧
    eT.valid = true ∧
    (Instr.tableRead 7 [{ loc := FaultLoc.endpointEntry 7, lasting := true, channel := 0 }], 1) ∈ [(Instr.tableRead 7
      [{ loc := FaultLoc.endpointEntry 7, lasting := true, channel := 0 }], 1), (Instr.tableWrite 7
      [{ loc := FaultLoc.endpointEntry 7, lasting := true, channel := 0 }], 2), (Instr.tableInsert 7
      [{ loc := FaultLoc.endpointEntry 7, lasting := true, channel := 0 }], 3), (Instr.tableDelete 7
      [{ loc := FaultLoc.endpointEntry 7, lasting := true, channel := 0 }], 4), (Instr.tableLock 7
      [{ loc := FaultLoc.endpointEntry 7, lasting := true, channel := 0 }], 5), (Instr.tableUnlock 7
      [{ loc := FaultLoc.endpointEntry 7, lasting := true, channel := 0 }], 6), (Instr.tableReadState 7
      [{ loc := FaultLoc.endpointEntry 7, lasting := true, channel := 0 }], 7), (Instr.tableWriteState 7
      [{ loc := FaultLoc.endpointEntry 7, lasting := true, channel := 0 }], 8)] ∧
    dmaParity 1 7 [{ loc := FaultLoc.endpointEntry 7, lasting := true, channel := 0 }] = true ∧
    (1 = 2 ∨ 1 = 8 → eT.lock = true) ∧
    (1 = 5 → eT.lock = false) ∧
    nextOp (te false (tab 1 [])) 7 1 = some (job [tab 1 []] [], tab 1 []) ∧
    tableOn (te false (tab 1 [])) 1 = true ∧
    unitAllowed (te false (tab 1 [])) 4 = true ∧
    dmaWaits (te false (tab 1 [])) 1 1 (refOf 1 (tab 1 [])).fst (refOf 1 (tab 1 [])).snd = false ∧
    dmaBad (te false (tab 1 [])) 1 1 (refOf 1 (tab 1 [])).fst 0 = false ∧
    (rebuilding (te false (tab 1 [])) 1 = true → 1 = 1 ∨ 1 = 7) ∧
    dmaIndex (te false (tab 1 [])) 1 (refOf 1 (tab 1 [])).fst = some 7 ∧
    entry 3 = getEntry (te false (tab 1 [])) 1 7 ∧
    (entry 3).valid = true ∧
    (1 = 2 ∨ 1 = 8 → (entry 3).lock = true) ∧
    (1 = 5 → (entry 3).lock = false) ∧
    (Instr.tableWrite 7 [], 2) ∈ [(Instr.tableRead 7 [], 1), (Instr.tableWrite 7 [], 2), (Instr.tableInsert 7 [], 3),
      (Instr.tableDelete 7 [], 4), (Instr.tableLock 7 [], 5), (Instr.tableUnlock 7 [], 6), (Instr.tableReadState 7 [], 7),
      (Instr.tableWriteState 7 [], 8)] ∧
    nextOp (run1 (tab 2 (z 64))) 7 1 = some (job [tab 2 (z 64)] [], tab 2 (z 64)) ∧
    1 = b2n (bit (tab 2 (z 64)).snd.snd.fst 63) ∧
    refOf 1 (tab 2 (z 64)) = tableRef 1 (tab 2 (z 64)).snd.snd.fst (tab 2 (z 64)).snd.snd.snd ∧
    0 = fld (tab 2 (z 64)).snd.snd.fst 62 59 ∧
    (tab 2 (z 64)).snd.fst = 2 ∧
    tableOn (run1 (tab 2 (z 64))) 1 = true ∧
    unitAllowed (run1 (tab 2 (z 64))) 4 = true ∧
    dmaWaits (run1 (tab 2 (z 64))) 1 2 (refOf 1 (tab 2 (z 64))).fst (refOf 1 (tab 2 (z 64))).snd = false ∧
    dmaBad (run1 (tab 2 (z 64))) 1 2 (refOf 1 (tab 2 (z 64))).fst 0 = false ∧
    (rebuilding (run1 (tab 2 (z 64))) 1 = true → 2 = 1 ∨ 2 = 7) ∧
    (∀ (i : Nat), dmaIndex (run1 (tab 2 (z 64))) 1 (refOf 1 (tab 2 (z 64))).fst = some i → (getEntry (run1 (tab 2 (z 64))) 1
      i).valid = false) ∧
    nextOp (te true (tab 2 (z 64))) 7 1 = some (job [tab 2 (z 64)] [], tab 2 (z 64)) ∧
    tableOn (te true (tab 2 (z 64))) 1 = true ∧
    unitAllowed (te true (tab 2 (z 64))) 4 = true ∧
    dmaWaits (te true (tab 2 (z 64))) 1 2 (refOf 1 (tab 2 (z 64))).fst (refOf 1 (tab 2 (z 64))).snd = false ∧
    dmaBad (te true (tab 2 (z 64))) 1 2 (refOf 1 (tab 2 (z 64))).fst 0 = false ∧
    (rebuilding (te true (tab 2 (z 64))) 1 = true → 2 = 1 ∨ 2 = 7) ∧
    dmaIndex (te true (tab 2 (z 64))) 1 (refOf 1 (tab 2 (z 64))).fst = some 7 ∧
    eT = getEntry (te true (tab 2 (z 64))) 1 7 ∧
    (Instr.tableWrite 7 [{ loc := FaultLoc.endpointEntry 7, lasting := true, channel := 0 }], 2) ∈ [(Instr.tableRead 7
      [{ loc := FaultLoc.endpointEntry 7, lasting := true, channel := 0 }], 1), (Instr.tableWrite 7
      [{ loc := FaultLoc.endpointEntry 7, lasting := true, channel := 0 }], 2), (Instr.tableInsert 7
      [{ loc := FaultLoc.endpointEntry 7, lasting := true, channel := 0 }], 3), (Instr.tableDelete 7
      [{ loc := FaultLoc.endpointEntry 7, lasting := true, channel := 0 }], 4), (Instr.tableLock 7
      [{ loc := FaultLoc.endpointEntry 7, lasting := true, channel := 0 }], 5), (Instr.tableUnlock 7
      [{ loc := FaultLoc.endpointEntry 7, lasting := true, channel := 0 }], 6), (Instr.tableReadState 7
      [{ loc := FaultLoc.endpointEntry 7, lasting := true, channel := 0 }], 7), (Instr.tableWriteState 7
      [{ loc := FaultLoc.endpointEntry 7, lasting := true, channel := 0 }], 8)] ∧
    (2 = 2 ∨ 2 = 8 → eT.lock = true) ∧
    (2 = 5 → eT.lock = false) ∧
    nextOp (te false (tab 2 (z 64))) 7 1 = some (job [tab 2 (z 64)] [], tab 2 (z 64)) ∧
    tableOn (te false (tab 2 (z 64))) 1 = true ∧
    unitAllowed (te false (tab 2 (z 64))) 4 = true ∧
    dmaWaits (te false (tab 2 (z 64))) 1 2 (refOf 1 (tab 2 (z 64))).fst (refOf 1 (tab 2 (z 64))).snd = false ∧
    dmaBad (te false (tab 2 (z 64))) 1 2 (refOf 1 (tab 2 (z 64))).fst 0 = false ∧
    (rebuilding (te false (tab 2 (z 64))) 1 = true → 2 = 1 ∨ 2 = 7) ∧
    dmaIndex (te false (tab 2 (z 64))) 1 (refOf 1 (tab 2 (z 64))).fst = some 7 ∧
    entry 3 = getEntry (te false (tab 2 (z 64))) 1 7 ∧
    (Instr.tableInsert 7 [], 3) ∈ [(Instr.tableRead 7 [], 1), (Instr.tableWrite 7 [], 2), (Instr.tableInsert 7 [], 3),
      (Instr.tableDelete 7 [], 4), (Instr.tableLock 7 [], 5), (Instr.tableUnlock 7 [], 6), (Instr.tableReadState 7 [], 7),
      (Instr.tableWriteState 7 [], 8)] ∧
    nextOp (run1 (tab 3 (z 64))) 7 1 = some (job [tab 3 (z 64)] [], tab 3 (z 64)) ∧
    1 = b2n (bit (tab 3 (z 64)).snd.snd.fst 63) ∧
    refOf 1 (tab 3 (z 64)) = tableRef 1 (tab 3 (z 64)).snd.snd.fst (tab 3 (z 64)).snd.snd.snd ∧
    0 = fld (tab 3 (z 64)).snd.snd.fst 62 59 ∧
    (tab 3 (z 64)).snd.fst = 3 ∧
    tableOn (run1 (tab 3 (z 64))) 1 = true ∧
    unitAllowed (run1 (tab 3 (z 64))) 4 = true ∧
    dmaWaits (run1 (tab 3 (z 64))) 1 3 (refOf 1 (tab 3 (z 64))).fst (refOf 1 (tab 3 (z 64))).snd = false ∧
    nextOp (te true (tab 3 (z 64))) 7 1 = some (job [tab 3 (z 64)] [], tab 3 (z 64)) ∧
    tableOn (te true (tab 3 (z 64))) 1 = true ∧
    unitAllowed (te true (tab 3 (z 64))) 4 = true ∧
    dmaWaits (te true (tab 3 (z 64))) 1 3 (refOf 1 (tab 3 (z 64))).fst (refOf 1 (tab 3 (z 64))).snd = false ∧
    dmaBad (te true (tab 3 (z 64))) 1 3 (refOf 1 (tab 3 (z 64))).fst 0 = false ∧
    rebuilding (te true (tab 3 (z 64))) 1 = false ∧
    (compat (te true (tab 3 (z 64))) 1 = false ∧ (refOf 1 (tab 3 (z 64))).fst = EntryRef.index 7 ∨ compat (te true (tab 3 (z
      64))) 1 = true ∧ ∃ (pl : Place), findKey 1 (getT (te true (tab 3 (z 64))) 1) (insertKey 1 (refOf 1 (tab 3 (z 64))).fst
      (refOf 1 (tab 3 (z 64))).snd) = some (pl, 7)) ∧
    ((getEntry (te true (tab 3 (z 64))) 1 7).valid = true ∨ compat (te true (tab 3 (z 64))) 1 = true) ∧
    (Instr.tableInsert 7 [{ loc := FaultLoc.endpointEntry 7, lasting := true, channel := 0 }], 3) ∈ [(Instr.tableRead 7
      [{ loc := FaultLoc.endpointEntry 7, lasting := true, channel := 0 }], 1), (Instr.tableWrite 7
      [{ loc := FaultLoc.endpointEntry 7, lasting := true, channel := 0 }], 2), (Instr.tableInsert 7
      [{ loc := FaultLoc.endpointEntry 7, lasting := true, channel := 0 }], 3), (Instr.tableDelete 7
      [{ loc := FaultLoc.endpointEntry 7, lasting := true, channel := 0 }], 4), (Instr.tableLock 7
      [{ loc := FaultLoc.endpointEntry 7, lasting := true, channel := 0 }], 5), (Instr.tableUnlock 7
      [{ loc := FaultLoc.endpointEntry 7, lasting := true, channel := 0 }], 6), (Instr.tableReadState 7
      [{ loc := FaultLoc.endpointEntry 7, lasting := true, channel := 0 }], 7), (Instr.tableWriteState 7
      [{ loc := FaultLoc.endpointEntry 7, lasting := true, channel := 0 }], 8)] ∧
    (getEntry (te true (tab 3 (z 64))) 1 7).valid = true ∧
    nextOp (te false (tab 3 (z 64))) 7 1 = some (job [tab 3 (z 64)] [], tab 3 (z 64)) ∧
    tableOn (te false (tab 3 (z 64))) 1 = true ∧
    unitAllowed (te false (tab 3 (z 64))) 4 = true ∧
    dmaWaits (te false (tab 3 (z 64))) 1 3 (refOf 1 (tab 3 (z 64))).fst (refOf 1 (tab 3 (z 64))).snd = false ∧
    dmaBad (te false (tab 3 (z 64))) 1 3 (refOf 1 (tab 3 (z 64))).fst 0 = false ∧
    rebuilding (te false (tab 3 (z 64))) 1 = false ∧
    (compat (te false (tab 3 (z 64))) 1 = false ∧ (refOf 1 (tab 3 (z 64))).fst = EntryRef.index 7 ∨ compat (te false (tab 3 (z
      64))) 1 = true ∧ ∃ (pl : Place), findKey 1 (getT (te false (tab 3 (z 64))) 1) (insertKey 1 (refOf 1 (tab 3 (z 64))).fst
      (refOf 1 (tab 3 (z 64))).snd) = some (pl, 7)) ∧
    ((getEntry (te false (tab 3 (z 64))) 1 7).valid = true ∨ compat (te false (tab 3 (z 64))) 1 = true) ∧
    (getEntry (te false (tab 3 (z 64))) 1 7).valid = true ∧
    (Instr.tableDelete 7 [], 4) ∈ [(Instr.tableRead 7 [], 1), (Instr.tableWrite 7 [], 2), (Instr.tableInsert 7 [], 3),
      (Instr.tableDelete 7 [], 4), (Instr.tableLock 7 [], 5), (Instr.tableUnlock 7 [], 6), (Instr.tableReadState 7 [], 7),
      (Instr.tableWriteState 7 [], 8)] ∧
    nextOp (run1 (tab 4 [])) 7 1 = some (job [tab 4 []] [], tab 4 []) ∧
    1 = b2n (bit (tab 4 []).snd.snd.fst 63) ∧
    refOf 1 (tab 4 []) = tableRef 1 (tab 4 []).snd.snd.fst (tab 4 []).snd.snd.snd ∧
    0 = fld (tab 4 []).snd.snd.fst 62 59 ∧
    (tab 4 []).snd.fst = 4 ∧
    tableOn (run1 (tab 4 [])) 1 = true ∧
    unitAllowed (run1 (tab 4 [])) 4 = true ∧
    dmaWaits (run1 (tab 4 [])) 1 4 (refOf 1 (tab 4 [])).fst (refOf 1 (tab 4 [])).snd = false ∧
    dmaBad (run1 (tab 4 [])) 1 4 (refOf 1 (tab 4 [])).fst 0 = false ∧
    (rebuilding (run1 (tab 4 [])) 1 = true → 4 = 1 ∨ 4 = 7) ∧
    (∀ (i : Nat), dmaIndex (run1 (tab 4 [])) 1 (refOf 1 (tab 4 [])).fst = some i → (getEntry (run1 (tab 4 [])) 1 i).valid =
      false) ∧
    nextOp (te true (tab 4 [])) 7 1 = some (job [tab 4 []] [], tab 4 []) ∧
    tableOn (te true (tab 4 [])) 1 = true ∧
    unitAllowed (te true (tab 4 [])) 4 = true ∧
    dmaWaits (te true (tab 4 [])) 1 4 (refOf 1 (tab 4 [])).fst (refOf 1 (tab 4 [])).snd = false ∧
    dmaBad (te true (tab 4 [])) 1 4 (refOf 1 (tab 4 [])).fst 0 = false ∧
    (rebuilding (te true (tab 4 [])) 1 = true → 4 = 1 ∨ 4 = 7) ∧
    dmaIndex (te true (tab 4 [])) 1 (refOf 1 (tab 4 [])).fst = some 7 ∧
    eT = getEntry (te true (tab 4 [])) 1 7 ∧
    (Instr.tableDelete 7 [{ loc := FaultLoc.endpointEntry 7, lasting := true, channel := 0 }], 4) ∈ [(Instr.tableRead 7
      [{ loc := FaultLoc.endpointEntry 7, lasting := true, channel := 0 }], 1), (Instr.tableWrite 7
      [{ loc := FaultLoc.endpointEntry 7, lasting := true, channel := 0 }], 2), (Instr.tableInsert 7
      [{ loc := FaultLoc.endpointEntry 7, lasting := true, channel := 0 }], 3), (Instr.tableDelete 7
      [{ loc := FaultLoc.endpointEntry 7, lasting := true, channel := 0 }], 4), (Instr.tableLock 7
      [{ loc := FaultLoc.endpointEntry 7, lasting := true, channel := 0 }], 5), (Instr.tableUnlock 7
      [{ loc := FaultLoc.endpointEntry 7, lasting := true, channel := 0 }], 6), (Instr.tableReadState 7
      [{ loc := FaultLoc.endpointEntry 7, lasting := true, channel := 0 }], 7), (Instr.tableWriteState 7
      [{ loc := FaultLoc.endpointEntry 7, lasting := true, channel := 0 }], 8)] ∧
    (4 = 2 ∨ 4 = 8 → eT.lock = true) ∧
    (4 = 5 → eT.lock = false) ∧
    nextOp (te false (tab 4 [])) 7 1 = some (job [tab 4 []] [], tab 4 []) ∧
    tableOn (te false (tab 4 [])) 1 = true ∧
    unitAllowed (te false (tab 4 [])) 4 = true ∧
    dmaWaits (te false (tab 4 [])) 1 4 (refOf 1 (tab 4 [])).fst (refOf 1 (tab 4 [])).snd = false ∧
    dmaBad (te false (tab 4 [])) 1 4 (refOf 1 (tab 4 [])).fst 0 = false ∧
    (rebuilding (te false (tab 4 [])) 1 = true → 4 = 1 ∨ 4 = 7) ∧
    dmaIndex (te false (tab 4 [])) 1 (refOf 1 (tab 4 [])).fst = some 7 ∧
    entry 3 = getEntry (te false (tab 4 [])) 1 7 ∧
    (4 = 2 ∨ 4 = 8 → (entry 3).lock = true) ∧
    (4 = 5 → (entry 3).lock = false) ∧
    (Instr.tableLock 7 [], 5) ∈ [(Instr.tableRead 7 [], 1), (Instr.tableWrite 7 [], 2), (Instr.tableInsert 7 [], 3),
      (Instr.tableDelete 7 [], 4), (Instr.tableLock 7 [], 5), (Instr.tableUnlock 7 [], 6), (Instr.tableReadState 7 [], 7),
      (Instr.tableWriteState 7 [], 8)] ∧
    nextOp (run1 (tab 5 [])) 7 1 = some (job [tab 5 []] [], tab 5 []) ∧
    1 = b2n (bit (tab 5 []).snd.snd.fst 63) ∧
    refOf 1 (tab 5 []) = tableRef 1 (tab 5 []).snd.snd.fst (tab 5 []).snd.snd.snd ∧
    0 = fld (tab 5 []).snd.snd.fst 62 59 ∧
    (tab 5 []).snd.fst = 5 ∧
    tableOn (run1 (tab 5 [])) 1 = true ∧
    unitAllowed (run1 (tab 5 [])) 4 = true ∧
    dmaWaits (run1 (tab 5 [])) 1 5 (refOf 1 (tab 5 [])).fst (refOf 1 (tab 5 [])).snd = false ∧
    dmaBad (run1 (tab 5 [])) 1 5 (refOf 1 (tab 5 [])).fst 0 = false ∧
    (rebuilding (run1 (tab 5 [])) 1 = true → 5 = 1 ∨ 5 = 7) ∧
    (∀ (i : Nat), dmaIndex (run1 (tab 5 [])) 1 (refOf 1 (tab 5 [])).fst = some i → (getEntry (run1 (tab 5 [])) 1 i).valid =
      false) ∧
    nextOp (te true (tab 5 [])) 7 1 = some (job [tab 5 []] [], tab 5 []) ∧
    tableOn (te true (tab 5 [])) 1 = true ∧
    unitAllowed (te true (tab 5 [])) 4 = true ∧
    dmaWaits (te true (tab 5 [])) 1 5 (refOf 1 (tab 5 [])).fst (refOf 1 (tab 5 [])).snd = false ∧
    dmaBad (te true (tab 5 [])) 1 5 (refOf 1 (tab 5 [])).fst 0 = false ∧
    (rebuilding (te true (tab 5 [])) 1 = true → 5 = 1 ∨ 5 = 7) ∧
    dmaIndex (te true (tab 5 [])) 1 (refOf 1 (tab 5 [])).fst = some 7 ∧
    eT = getEntry (te true (tab 5 [])) 1 7 ∧
    nextOp (te false (tab 5 [])) 7 1 = some (job [tab 5 []] [], tab 5 []) ∧
    tableOn (te false (tab 5 [])) 1 = true ∧
    unitAllowed (te false (tab 5 [])) 4 = true ∧
    dmaWaits (te false (tab 5 [])) 1 5 (refOf 1 (tab 5 [])).fst (refOf 1 (tab 5 [])).snd = false ∧
    dmaBad (te false (tab 5 [])) 1 5 (refOf 1 (tab 5 [])).fst 0 = false ∧
    (rebuilding (te false (tab 5 [])) 1 = true → 5 = 1 ∨ 5 = 7) ∧
    dmaIndex (te false (tab 5 [])) 1 (refOf 1 (tab 5 [])).fst = some 7 ∧
    entry 3 = getEntry (te false (tab 5 [])) 1 7 ∧
    (Instr.tableLock 7 [{ loc := FaultLoc.endpointEntry 7, lasting := true, channel := 0 }], 5) ∈ [(Instr.tableRead 7
      [{ loc := FaultLoc.endpointEntry 7, lasting := true, channel := 0 }], 1), (Instr.tableWrite 7
      [{ loc := FaultLoc.endpointEntry 7, lasting := true, channel := 0 }], 2), (Instr.tableInsert 7
      [{ loc := FaultLoc.endpointEntry 7, lasting := true, channel := 0 }], 3), (Instr.tableDelete 7
      [{ loc := FaultLoc.endpointEntry 7, lasting := true, channel := 0 }], 4), (Instr.tableLock 7
      [{ loc := FaultLoc.endpointEntry 7, lasting := true, channel := 0 }], 5), (Instr.tableUnlock 7
      [{ loc := FaultLoc.endpointEntry 7, lasting := true, channel := 0 }], 6), (Instr.tableReadState 7
      [{ loc := FaultLoc.endpointEntry 7, lasting := true, channel := 0 }], 7), (Instr.tableWriteState 7
      [{ loc := FaultLoc.endpointEntry 7, lasting := true, channel := 0 }], 8)] ∧
    (5 = 2 ∨ 5 = 8 → (entry 3).lock = true) ∧
    (5 = 5 → (entry 3).lock = false) ∧
    (Instr.tableUnlock 7 [], 6) ∈ [(Instr.tableRead 7 [], 1), (Instr.tableWrite 7 [], 2), (Instr.tableInsert 7 [], 3),
      (Instr.tableDelete 7 [], 4), (Instr.tableLock 7 [], 5), (Instr.tableUnlock 7 [], 6), (Instr.tableReadState 7 [], 7),
      (Instr.tableWriteState 7 [], 8)] ∧
    nextOp (run1 (tab 6 [])) 7 1 = some (job [tab 6 []] [], tab 6 []) ∧
    1 = b2n (bit (tab 6 []).snd.snd.fst 63) ∧
    refOf 1 (tab 6 []) = tableRef 1 (tab 6 []).snd.snd.fst (tab 6 []).snd.snd.snd ∧
    0 = fld (tab 6 []).snd.snd.fst 62 59 ∧
    (tab 6 []).snd.fst = 6 ∧
    tableOn (run1 (tab 6 [])) 1 = true ∧
    unitAllowed (run1 (tab 6 [])) 4 = true ∧
    dmaWaits (run1 (tab 6 [])) 1 6 (refOf 1 (tab 6 [])).fst (refOf 1 (tab 6 [])).snd = false ∧
    dmaBad (run1 (tab 6 [])) 1 6 (refOf 1 (tab 6 [])).fst 0 = false ∧
    (rebuilding (run1 (tab 6 [])) 1 = true → 6 = 1 ∨ 6 = 7) ∧
    (∀ (i : Nat), dmaIndex (run1 (tab 6 [])) 1 (refOf 1 (tab 6 [])).fst = some i → (getEntry (run1 (tab 6 [])) 1 i).valid =
      false) ∧
    nextOp (te true (tab 6 [])) 7 1 = some (job [tab 6 []] [], tab 6 []) ∧
    tableOn (te true (tab 6 [])) 1 = true ∧
    unitAllowed (te true (tab 6 [])) 4 = true ∧
    dmaWaits (te true (tab 6 [])) 1 6 (refOf 1 (tab 6 [])).fst (refOf 1 (tab 6 [])).snd = false ∧
    dmaBad (te true (tab 6 [])) 1 6 (refOf 1 (tab 6 [])).fst 0 = false ∧
    (rebuilding (te true (tab 6 [])) 1 = true → 6 = 1 ∨ 6 = 7) ∧
    dmaIndex (te true (tab 6 [])) 1 (refOf 1 (tab 6 [])).fst = some 7 ∧
    eT = getEntry (te true (tab 6 [])) 1 7 ∧
    (Instr.tableUnlock 7 [{ loc := FaultLoc.endpointEntry 7, lasting := true, channel := 0 }], 6) ∈ [(Instr.tableRead 7
      [{ loc := FaultLoc.endpointEntry 7, lasting := true, channel := 0 }], 1), (Instr.tableWrite 7
      [{ loc := FaultLoc.endpointEntry 7, lasting := true, channel := 0 }], 2), (Instr.tableInsert 7
      [{ loc := FaultLoc.endpointEntry 7, lasting := true, channel := 0 }], 3), (Instr.tableDelete 7
      [{ loc := FaultLoc.endpointEntry 7, lasting := true, channel := 0 }], 4), (Instr.tableLock 7
      [{ loc := FaultLoc.endpointEntry 7, lasting := true, channel := 0 }], 5), (Instr.tableUnlock 7
      [{ loc := FaultLoc.endpointEntry 7, lasting := true, channel := 0 }], 6), (Instr.tableReadState 7
      [{ loc := FaultLoc.endpointEntry 7, lasting := true, channel := 0 }], 7), (Instr.tableWriteState 7
      [{ loc := FaultLoc.endpointEntry 7, lasting := true, channel := 0 }], 8)] ∧
    (6 = 2 ∨ 6 = 8 → eT.lock = true) ∧
    (6 = 5 → eT.lock = false) ∧
    nextOp (te false (tab 6 [])) 7 1 = some (job [tab 6 []] [], tab 6 []) ∧
    tableOn (te false (tab 6 [])) 1 = true ∧
    unitAllowed (te false (tab 6 [])) 4 = true ∧
    dmaWaits (te false (tab 6 [])) 1 6 (refOf 1 (tab 6 [])).fst (refOf 1 (tab 6 [])).snd = false ∧
    dmaBad (te false (tab 6 [])) 1 6 (refOf 1 (tab 6 [])).fst 0 = false ∧
    (rebuilding (te false (tab 6 [])) 1 = true → 6 = 1 ∨ 6 = 7) ∧
    dmaIndex (te false (tab 6 [])) 1 (refOf 1 (tab 6 [])).fst = some 7 ∧
    entry 3 = getEntry (te false (tab 6 [])) 1 7 ∧
    (6 = 2 ∨ 6 = 8 → (entry 3).lock = true) ∧
    (6 = 5 → (entry 3).lock = false) ∧
    (Instr.tableReadState 7 [], 7) ∈ [(Instr.tableRead 7 [], 1), (Instr.tableWrite 7 [], 2), (Instr.tableInsert 7 [], 3),
      (Instr.tableDelete 7 [], 4), (Instr.tableLock 7 [], 5), (Instr.tableUnlock 7 [], 6), (Instr.tableReadState 7 [], 7),
      (Instr.tableWriteState 7 [], 8)] ∧
    nextOp (run1 rst) 7 1 = some (job [rst] [], rst) ∧
    0 = b2n (bit rst.snd.snd.fst 63) ∧
    refOf 0 rst = tableRef 0 rst.snd.snd.fst rst.snd.snd.snd ∧
    0 = fld rst.snd.snd.fst 62 59 ∧
    rst.snd.fst = 7 ∧
    tableOn (run1 rst) 0 = true ∧
    unitAllowed (run1 rst) 4 = true ∧
    dmaWaits (run1 rst) 0 7 (refOf 0 rst).fst (refOf 0 rst).snd = false ∧
    dmaBad (run1 rst) 0 7 (refOf 0 rst).fst 0 = true ∧
    nextOp (ft true rst) 7 1 = some (job [rst] [], rst) ∧
    tableOn (ft true rst) 0 = true ∧
    unitAllowed (ft true rst) 4 = true ∧
    dmaWaits (ft true rst) 0 7 (refOf 0 rst).fst (refOf 0 rst).snd = false ∧
    dmaBad (ft true rst) 0 7 (refOf 0 rst).fst 0 = false ∧
    (rebuilding (ft true rst) 0 = true → 7 = 1 ∨ 7 = 7) ∧
    dmaIndex (ft true rst) 0 (refOf 0 rst).fst = some 5 ∧
    eT = getEntry (ft true rst) 0 5 ∧
    (Instr.tableReadState 7 [{ loc := FaultLoc.flowRecord 5, lasting := true, channel := 0 }], 7) ∈ [(Instr.tableRead 7
      [{ loc := FaultLoc.flowRecord 5, lasting := true, channel := 0 }], 1), (Instr.tableWrite 7
      [{ loc := FaultLoc.flowRecord 5, lasting := true, channel := 0 }], 2), (Instr.tableInsert 7
      [{ loc := FaultLoc.flowRecord 5, lasting := true, channel := 0 }], 3), (Instr.tableDelete 7
      [{ loc := FaultLoc.flowRecord 5, lasting := true, channel := 0 }], 4), (Instr.tableLock 7
      [{ loc := FaultLoc.flowRecord 5, lasting := true, channel := 0 }], 5), (Instr.tableUnlock 7
      [{ loc := FaultLoc.flowRecord 5, lasting := true, channel := 0 }], 6), (Instr.tableReadState 7
      [{ loc := FaultLoc.flowRecord 5, lasting := true, channel := 0 }], 7), (Instr.tableWriteState 7
      [{ loc := FaultLoc.flowRecord 5, lasting := true, channel := 0 }], 8)] ∧
    dmaParity 0 5 [{ loc := FaultLoc.flowRecord 5, lasting := true, channel := 0 }] = true ∧
    (7 = 2 ∨ 7 = 8 → eT.lock = true) ∧
    (7 = 5 → eT.lock = false) ∧
    nextOp (ft false rst) 7 1 = some (job [rst] [], rst) ∧
    tableOn (ft false rst) 0 = true ∧
    unitAllowed (ft false rst) 4 = true ∧
    dmaWaits (ft false rst) 0 7 (refOf 0 rst).fst (refOf 0 rst).snd = false ∧
    dmaBad (ft false rst) 0 7 (refOf 0 rst).fst 0 = false ∧
    (rebuilding (ft false rst) 0 = true → 7 = 1 ∨ 7 = 7) ∧
    dmaIndex (ft false rst) 0 (refOf 0 rst).fst = some 5 ∧
    entry 3 = getEntry (ft false rst) 0 5 ∧
    (7 = 2 ∨ 7 = 8 → (entry 3).lock = true) ∧
    (7 = 5 → (entry 3).lock = false) ∧
    (Instr.tableWriteState 7 [], 8) ∈ [(Instr.tableRead 7 [], 1), (Instr.tableWrite 7 [], 2), (Instr.tableInsert 7 [], 3),
      (Instr.tableDelete 7 [], 4), (Instr.tableLock 7 [], 5), (Instr.tableUnlock 7 [], 6), (Instr.tableReadState 7 [], 7),
      (Instr.tableWriteState 7 [], 8)] ∧
    nextOp (run1 wst) 7 1 = some (job [wst] [], wst) ∧
    0 = b2n (bit wst.snd.snd.fst 63) ∧
    refOf 0 wst = tableRef 0 wst.snd.snd.fst wst.snd.snd.snd ∧
    0 = fld wst.snd.snd.fst 62 59 ∧
    wst.snd.fst = 8 ∧
    tableOn (run1 wst) 0 = true ∧
    unitAllowed (run1 wst) 4 = true ∧
    dmaWaits (run1 wst) 0 8 (refOf 0 wst).fst (refOf 0 wst).snd = false ∧
    dmaBad (run1 wst) 0 8 (refOf 0 wst).fst 0 = true ∧
    nextOp (ft true wst) 7 1 = some (job [wst] [], wst) ∧
    tableOn (ft true wst) 0 = true ∧
    unitAllowed (ft true wst) 4 = true ∧
    dmaWaits (ft true wst) 0 8 (refOf 0 wst).fst (refOf 0 wst).snd = false ∧
    dmaBad (ft true wst) 0 8 (refOf 0 wst).fst 0 = false ∧
    (rebuilding (ft true wst) 0 = true → 8 = 1 ∨ 8 = 7) ∧
    dmaIndex (ft true wst) 0 (refOf 0 wst).fst = some 5 ∧
    eT = getEntry (ft true wst) 0 5 ∧
    (Instr.tableWriteState 7 [{ loc := FaultLoc.flowRecord 5, lasting := true, channel := 0 }], 8) ∈ [(Instr.tableRead 7
      [{ loc := FaultLoc.flowRecord 5, lasting := true, channel := 0 }], 1), (Instr.tableWrite 7
      [{ loc := FaultLoc.flowRecord 5, lasting := true, channel := 0 }], 2), (Instr.tableInsert 7
      [{ loc := FaultLoc.flowRecord 5, lasting := true, channel := 0 }], 3), (Instr.tableDelete 7
      [{ loc := FaultLoc.flowRecord 5, lasting := true, channel := 0 }], 4), (Instr.tableLock 7
      [{ loc := FaultLoc.flowRecord 5, lasting := true, channel := 0 }], 5), (Instr.tableUnlock 7
      [{ loc := FaultLoc.flowRecord 5, lasting := true, channel := 0 }], 6), (Instr.tableReadState 7
      [{ loc := FaultLoc.flowRecord 5, lasting := true, channel := 0 }], 7), (Instr.tableWriteState 7
      [{ loc := FaultLoc.flowRecord 5, lasting := true, channel := 0 }], 8)] ∧
    (8 = 2 ∨ 8 = 8 → eT.lock = true) ∧
    (8 = 5 → eT.lock = false) ∧
    nextOp (ft false wst) 7 1 = some (job [wst] [], wst) ∧
    tableOn (ft false wst) 0 = true ∧
    unitAllowed (ft false wst) 4 = true ∧
    dmaWaits (ft false wst) 0 8 (refOf 0 wst).fst (refOf 0 wst).snd = false ∧
    dmaBad (ft false wst) 0 8 (refOf 0 wst).fst 0 = false ∧
    (rebuilding (ft false wst) 0 = true → 8 = 1 ∨ 8 = 7) ∧
    dmaIndex (ft false wst) 0 (refOf 0 wst).fst = some 5 ∧
    entry 3 = getEntry (ft false wst) 0 5 ∧
    nextOp (run1 farOp) 7 1 = some (job [farOp] [], farOp) ∧
    1 = b2n (bit farOp.snd.snd.fst 63) ∧
    refOf 1 farOp = tableRef 1 farOp.snd.snd.fst farOp.snd.snd.snd ∧
    0 = fld farOp.snd.snd.fst 62 59 ∧
    farOp.snd.fst = 1 ∧
    tableOn (run1 farOp) 1 = true ∧
    unitAllowed (run1 farOp) 4 = true ∧
    dmaWaits (run1 farOp) 1 1 (refOf 1 farOp).fst (refOf 1 farOp).snd = false ∧
    dmaBad (run1 farOp) 1 1 (refOf 1 farOp).fst 0 = true ∧
    nextOp (rebT (tab 4 [])) 7 1 = some (job [tab 4 []] [], tab 4 []) ∧
    tableOn (rebT (tab 4 [])) 1 = true ∧
    unitAllowed (rebT (tab 4 [])) 4 = true ∧
    dmaWaits (rebT (tab 4 [])) 1 4 (refOf 1 (tab 4 [])).fst (refOf 1 (tab 4 [])).snd = false ∧
    dmaBad (rebT (tab 4 [])) 1 4 (refOf 1 (tab 4 [])).fst 0 = false ∧
    rebuilding (rebT (tab 4 [])) 1 = true ∧
    dmaBad (run1 (tab 3 (z 64))) 1 3 (refOf 1 (tab 3 (z 64))).fst 0 = false ∧
    rebuilding (run1 (tab 3 (z 64))) 1 = false ∧
    (0 = if compat (run1 (tab 3 (z 64))) 1 = true then insertKey 1 (refOf 1 (tab 3 (z 64))).fst (refOf 1 (tab 3 (z 64))).snd
      else 0) ∧
    (compat (run1 (tab 3 (z 64))) 1 = false ∧ (refOf 1 (tab 3 (z 64))).fst = EntryRef.index 7 ∧ (getEntry (run1 (tab 3 (z 64)))
      1 7).valid = false ∨ compat (run1 (tab 3 (z 64))) 1 = true ∧ findKey 1 (getT (run1 (tab 3 (z 64))) 1) 0 = none ∧
      List.length (getT (run1 (tab 3 (z 64))) 1).stash < 64 ∧ 7 = lowestFree (List.length (Option.getD (getT (run1 (tab 3 (z
      64))) 1).free []) + 1) 0 (Option.getD (getT (run1 (tab 3 (z 64))) 1).free []) ∧ 7 < tableSize 1) ∧
    nextOp (cmp [] false) 7 1 = some (job [tab 3 (z 64)] [], tab 3 (z 64)) ∧
    tableOn (cmp [] false) 1 = true ∧
    unitAllowed (cmp [] false) 4 = true ∧
    dmaWaits (cmp [] false) 1 3 (refOf 1 (tab 3 (z 64))).fst (refOf 1 (tab 3 (z 64))).snd = false ∧
    dmaBad (cmp [] false) 1 3 (refOf 1 (tab 3 (z 64))).fst 0 = false ∧
    rebuilding (cmp [] false) 1 = false ∧
    (0 = if compat (cmp [] false) 1 = true then insertKey 1 (refOf 1 (tab 3 (z 64))).fst (refOf 1 (tab 3 (z 64))).snd else 0) ∧
    (compat (cmp [] false) 1 = false ∧ (refOf 1 (tab 3 (z 64))).fst = EntryRef.index 2 ∧ (getEntry (cmp [] false) 1 2).valid =
      false ∨ compat (cmp [] false) 1 = true ∧ findKey 1 (getT (cmp [] false) 1) 0 = none ∧ List.length (getT (cmp [] false)
      1).stash < 64 ∧ 2 = lowestFree (List.length (Option.getD (getT (cmp [] false) 1).free []) + 1) 0 (Option.getD (getT (cmp
      [] false) 1).free []) ∧ 2 < tableSize 1) ∧
    (nextOp (cmp (List.map (fun (i : Nat) => (i, { index := 100 + i, key := i + 5 })) (List.range 64)) false) 7 1 = some (job
      [tab 3 (z 64)] [], tab 3 (z 64))) ∧
    (tableOn (cmp (List.map (fun (i : Nat) => (i, { index := 100 + i, key := i + 5 })) (List.range 64)) false) 1 = true) ∧
    (unitAllowed (cmp (List.map (fun (i : Nat) => (i, { index := 100 + i, key := i + 5 })) (List.range 64)) false) 4 = true) ∧
    (dmaWaits (cmp (List.map (fun (i : Nat) => (i, { index := 100 + i, key := i + 5 })) (List.range 64)) false) 1 3 (refOf 1
      (tab 3 (z 64))).fst (refOf 1 (tab 3 (z 64))).snd = false) ∧
    (dmaBad (cmp (List.map (fun (i : Nat) => (i, { index := 100 + i, key := i + 5 })) (List.range 64)) false) 1 3 (refOf 1 (tab
      3 (z 64))).fst 0 = false) ∧
    (rebuilding (cmp (List.map (fun (i : Nat) => (i, { index := 100 + i, key := i + 5 })) (List.range 64)) false) 1 = false) ∧
    (compat (cmp (List.map (fun (i : Nat) => (i, { index := 100 + i, key := i + 5 })) (List.range 64)) false) 1 = true) ∧
    (findKey 1 (getT (cmp (List.map (fun (i : Nat) => (i, { index := 100 + i, key := i + 5 })) (List.range 64)) false) 1)
      (insertKey 1 (refOf 1 (tab 3 (z 64))).fst (refOf 1 (tab 3 (z 64))).snd) = none) ∧
    (64 ≤ List.length (getT (cmp (List.map (fun (i : Nat) => (i, { index := 100 + i, key := i + 5 })) (List.range 64)) false)
      1).stash) ∧
    nextOp (cmp [(0, { index := 3, key := 0 })] false) 7 1 = some (job [tab 3 (z 64)] [], tab 3 (z 64)) ∧
    tableOn (cmp [(0, { index := 3, key := 0 })] false) 1 = true ∧
    unitAllowed (cmp [(0, { index := 3, key := 0 })] false) 4 = true ∧
    dmaWaits (cmp [(0, { index := 3, key := 0 })] false) 1 3 (refOf 1 (tab 3 (z 64))).fst (refOf 1 (tab 3 (z 64))).snd = false ∧
    dmaBad (cmp [(0, { index := 3, key := 0 })] false) 1 3 (refOf 1 (tab 3 (z 64))).fst 0 = false ∧
    rebuilding (cmp [(0, { index := 3, key := 0 })] false) 1 = false ∧
    (compat (cmp [(0, { index := 3, key := 0 })] false) 1 = false ∧ (refOf 1 (tab 3 (z 64))).fst = EntryRef.index 3 ∨ compat
      (cmp [(0, { index := 3, key := 0 })] false) 1 = true ∧ ∃ (pl : Place), findKey 1 (getT (cmp [(0,
      { index := 3, key := 0 })] false) 1) (insertKey 1 (refOf 1 (tab 3 (z 64))).fst (refOf 1 (tab 3 (z 64))).snd) = some (pl,
      3)) ∧
    ((getEntry (cmp [(0, { index := 3, key := 0 })] false) 1 3).valid = true ∨ compat (cmp [(0, { index := 3, key := 0 })]
      false) 1 = true) ∧
    nextOp (run1 (tab 2 [])) 7 1 = some (job [tab 2 []] [], tab 2 []) ∧
    1 = b2n (bit (tab 2 []).snd.snd.fst 63) ∧
    refOf 1 (tab 2 []) = tableRef 1 (tab 2 []).snd.snd.fst (tab 2 []).snd.snd.snd ∧
    0 = fld (tab 2 []).snd.snd.fst 62 59 ∧
    ((tab 2 []).snd.fst ≠ 1 ∨ tableOn (run1 (tab 2 [])) 1 = false ∨ unitAllowed (run1 (tab 2 [])) 4 = false ∨ dmaWaits (run1
      (tab 2 [])) 1 1 (refOf 1 (tab 2 [])).fst (refOf 1 (tab 2 [])).snd = true) ∧
    nextOp lit 7 1 = none := by
  and_intros
  all_goals first
    | decide
    | exact Or.inl (by decide)
    | exact Or.inr ⟨by decide, .stash 0, by decide⟩

theorem test_premises_BandsAreFirstInFirstOut :
    peekQ (queues 131088 1) 131088 = Deq.item 21 2 ∧
    hubOn bq = true ∧
    peekQ bq 131088 = Deq.item 21 2 ∧
    (judgeLevel (dequeueRaw bq 131088).fst 131088).snd = false ∧
    (List.find? (fun (x : Nat × Bool) => x.fst == ringPlace bq 131088 2 0) bq.queue.struck = none) ∧
    hubOn (bqS true) = true ∧
    peekQ (bqS true) 131088 = Deq.item 21 2 ∧
    (judgeLevel (dequeueRaw (bqS true) 131088).fst 131088).snd = false ∧
    (List.find? (fun (x : Nat × Bool) => x.fst == ringPlace (bqS true) 131088 2 0) (bqS true).queue.struck = some (ringPlace bq
      131088 2 0, true)) ∧
    hubOn (bqS false) = true ∧
    peekQ (bqS false) 131088 = Deq.item 21 2 ∧
    (judgeLevel (dequeueRaw (bqS false) 131088).fst 131088).snd = false ∧
    (List.find? (fun (x : Nat × Bool) => x.fst == ringPlace (bqS false) 131088 2 0) (bqS false).queue.struck = some (ringPlace
      bq 131088 2 0, false)) ∧
    peekQ (queues 9 0) 9 = Deq.empty ∧
    2 < List.length (getQ (queues 9 2) 9).bands ∧
    enqueueRaw (queues 9 2) 9 2 33 = (bd3, Enq.written) ∧
    dequeueRaw (queues 9 2) 9 = (bd4, Deq.item 21 2) := by
  and_intros <;> decide

theorem test_premises_QueuesAreSetUpAndServed :
    pdOn (queues 9 2) 5 = true ∧
    dataPathUse 9 = none ∧
    pdOn (queues 229376 2) 5 = true ∧
    dataPathUse 229376 = none ∧
    pdOn lit 5 = true ∧
    Option.isSome (dataPathUse 7) = true ∧
    pdOn State.reset 5 = false ∧
    dataPathUse 131088 = none ∧
    (getQ lit 131088).enable = false ∧
    dataPathUse 8 = none ∧
    (getQ lit 8).enable = false ∧
    (bit (BitVec.toNat w5) 63 = false ∨ (getQ lit 8).enable = true ∨ enableOk lit (getQ lit 8) = true) ∧
    pdOn (queues 262143 0) 5 = true ∧
    dataPathUse 262143 = none ∧
    (bit (BitVec.toNat w6) 63 = false ∨ (getQ (queues 262143 0) 262143).enable = true ∨ enableOk (queues 262143 0) (getQ
      (queues 262143 0) 262143) = true) ∧
    bit (BitVec.toNat w6) 63 = true ∧
    enableOk lit (getQ lit 8) = false ∧
    pdOn cold8 5 = true ∧
    (getQ cold8 8).enable = false ∧
    enableOk cold8 (getQ cold8 8) = false ∧
    (pdOn lit 5 = false ∨ 262144 ≤ 7 ∨ 8 ≤ 0 ∨ Option.isSome (dataPathUse 7) = true ∨ 0 = 1 ∨ 0 = 2 ∨ 0 = 3 ∨ 4 ≤ 0 ∧ (getQ lit
      7).enable = true) ∧
    (pdOn (queues 8 0) 5 = false ∨ 262144 ≤ 8 ∨ 8 ≤ 5 ∨ Option.isSome (dataPathUse 8) = true ∨ 5 = 1 ∨ 5 = 2 ∨ 5 = 3 ∨ 4 ≤ 5 ∧
      (getQ (queues 8 0) 8).enable = true) ∧
    (pdOn lit 5 = false ∨ 262144 ≤ 8 ∨ 8 ≤ 2 ∨ Option.isSome (dataPathUse 8) = true ∨ 2 = 1 ∨ 2 = 2 ∨ 2 = 3 ∨ 4 ≤ 2 ∧ (getQ lit
      8).enable = true) ∧
    queueClass 196608 = 2 ∧
    queueClass 9 = 0 ∧
    queueClass 131088 = 1 ∧
    queueClass 131072 = 1 ∧
    dataPathUse 131072 = some (0, 1) ∧
    queueClass 3 = 0 ∧
    dataPathUse 3 = some (3, 0) ∧
    oldestBatch shutB = some 5 ∧
    (queueClass 229376 = 3 ∨ queueClass 229376 = 0 ∧ Option.isSome (dataPathUse 229376) = true ∧ oldestBatch lit = none) ∧
    Instr.jobStart 196608 [] ∈ [Instr.jobStart 196608 [], Instr.itemTake 196608 []] ∧
    (List.length (List.filter (fun (x : Job) => x.state == 1) (jobq (3, 0, 5, []) false).crown.jobs) < 4) ∧
    nextJobQueue (jobq (3, 0, 5, []) false) = some 196608 ∧
    Instr.itemTake 196608 [] ∈ [Instr.jobStart 196608 [], Instr.itemTake 196608 []] ∧
    (List.length (List.filter (fun (x : Job) => x.state == 1) (jobq (3, 0, 5, []) true).crown.jobs) < 4) ∧
    nextJobQueue (jobq (3, 0, 5, []) true) = some 196608 ∧
    (4 ≤ List.length (List.filter (fun (x : Job) => x.state == 1) lit.crown.jobs) ∨ nextJobQueue lit ≠ some 196608) ∧
    dequeue { (jobq (3, 0, 5, []) false) with crown := { (jobq (3, 0, 5, []) false).crown with lastQueue := 196608 } } 196608 =
      (taken, Deq.item (7 * 2 ^ 480) 0) ∧
    waitingJob taken 196608 (7 * 2 ^ 480) = some job0 ∧
    job0.abort = false ∧
    dequeue { (jobq (3, 0, 5, []) true) with crown := { (jobq (3, 0, 5, []) true).crown with lastQueue := 196608 } } 196608 =
      (takenA, Deq.item (7 * 2 ^ 480) 0) ∧
    waitingJob takenA 196608 (7 * 2 ^ 480) = some job0a ∧
    job0a.abort = true := by
  and_intros <;> decide

theorem test_premises_EventsSendTheirNotice :
    QUEUE_EVENTS.FLUSH_DONE ∈ [GLOBAL_EVENTS.RESTART_DONE, DIAL_EVENTS.LATE_BATCH, HEADPORT_EVENTS.LANE_FAILED,
      FRONT_EVENTS.RULE_COMMITTED, TABLE_EVENTS.PARITY_LASTING, QUEUE_EVENTS.FLUSH_DONE, ARRAY_Q_EVENTS.CONTROL_APPLIED,
      SLOT_EVENTS.STAGED, REGULATOR_EVENTS.TRIP, TALLY_EVENTS.SIGNED, SECURE_EVENTS.SCHEDULE_LOADED,
      CROWN_EVENTS.SESSION_CHANGED, PEER_EVENTS.CRC_LASTING, OBSERVE_EVENTS.HANG, LOGBOOK_EVENTS.WRITTEN] ∧
    noticeEnabled (ev 0 229376) QUEUE_EVENTS.FLUSH_DONE = false ∧
    noticeEnabled (ev 63 229376) QUEUE_EVENTS.FLUSH_DONE = true ∧
    queueClass (noticeRoute (ev 63 229376) QUEUE_EVENTS.FLUSH_DONE) = 3 ∧
    (getQ (ev 63 229376) (noticeRoute (ev 63 229376) QUEUE_EVENTS.FLUSH_DONE)).enable = true ∧
    Band.present (List.getD (getQ (ev 63 229376) (noticeRoute (ev 63 229376) QUEUE_EVENTS.FLUSH_DONE)).bands (noticeBand
      QUEUE_EVENTS.FLUSH_DONE) noBand) = true ∧
    Band.bad (List.getD (getQ (ev 63 229376) (noticeRoute (ev 63 229376) QUEUE_EVENTS.FLUSH_DONE)).bands (noticeBand
      QUEUE_EVENTS.FLUSH_DONE) noBand) = false ∧
    Band.occ (List.getD (getQ (ev 63 229376) (noticeRoute (ev 63 229376) QUEUE_EVENTS.FLUSH_DONE)).bands (noticeBand
      QUEUE_EVENTS.FLUSH_DONE) noBand) ≠ 2 ^ (List.getD (getQ (ev 63 229376) (noticeRoute (ev 63 229376)
      QUEUE_EVENTS.FLUSH_DONE)).bands (noticeBand QUEUE_EVENTS.FLUSH_DONE) noBand).log2 ∧
    noticeEnabled (ev 63 9) QUEUE_EVENTS.FLUSH_DONE = true ∧
    queueClass (noticeRoute (ev 63 9) QUEUE_EVENTS.FLUSH_DONE) ≠ 3 ∧
    GLOBAL_EVENTS.RESTART_DONE ∈ [GLOBAL_EVENTS.RESTART_DONE, DIAL_EVENTS.LATE_BATCH, HEADPORT_EVENTS.LANE_FAILED,
      FRONT_EVENTS.RULE_COMMITTED, TABLE_EVENTS.PARITY_LASTING, QUEUE_EVENTS.FLUSH_DONE, ARRAY_Q_EVENTS.CONTROL_APPLIED,
      SLOT_EVENTS.STAGED, REGULATOR_EVENTS.TRIP, TALLY_EVENTS.SIGNED, SECURE_EVENTS.SCHEDULE_LOADED,
      CROWN_EVENTS.SESSION_CHANGED, PEER_EVENTS.CRC_LASTING, OBSERVE_EVENTS.HANG, LOGBOOK_EVENTS.WRITTEN] ∧
    noticeEnabled (ev 63 229376) GLOBAL_EVENTS.RESTART_DONE = true ∧
    queueClass (noticeRoute (ev 63 229376) GLOBAL_EVENTS.RESTART_DONE) = 3 ∧
    (getQ (ev 63 229376) (noticeRoute (ev 63 229376) GLOBAL_EVENTS.RESTART_DONE)).enable = true ∧
    Band.present (List.getD (getQ (ev 63 229376) (noticeRoute (ev 63 229376) GLOBAL_EVENTS.RESTART_DONE)).bands (noticeBand
      GLOBAL_EVENTS.RESTART_DONE) noBand) = true ∧
    Band.bad (List.getD (getQ (ev 63 229376) (noticeRoute (ev 63 229376) GLOBAL_EVENTS.RESTART_DONE)).bands (noticeBand
      GLOBAL_EVENTS.RESTART_DONE) noBand) = false ∧
    Band.occ (List.getD (getQ (ev 63 229376) (noticeRoute (ev 63 229376) GLOBAL_EVENTS.RESTART_DONE)).bands (noticeBand
      GLOBAL_EVENTS.RESTART_DONE) noBand) ≠ 2 ^ (List.getD (getQ (ev 63 229376) (noticeRoute (ev 63 229376)
      GLOBAL_EVENTS.RESTART_DONE)).bands (noticeBand GLOBAL_EVENTS.RESTART_DONE) noBand).log2 := by
  and_intros <;> decide

theorem test_premises_AcceptedSlotCommandsActOnTheSlot :
    SlotsOk (sl S0).slots ∧
    (getSlot (sl S0) 15).swap = none ∧
    (getSlot (sl S0) 15).staging ≠ 1 ∧
    (getSlot (sl S0) 15).staging ≠ 6 ∧
    (getSlot (sl S0) 15).distHeld = false ∧
    SlotsOk atSc2.slots ∧
    (getSlot atSc2 15).swap = none ∧
    (getSlot atSc2 15).staging ≠ 1 ∧
    (getSlot atSc2 15).staging ≠ 6 ∧
    (getSlot atSc2 15).distHeld = false ∧
    2 ≤ (getSlot atSc2 15).staging ∧
    (getSlot atSc2 15).staging ≤ 5 ∧
    (getSlot atSc2 15).staging = 5 ∧
    SlotsOk atSc3.slots ∧
    (getSlot atSc3 15).swap = none ∧
    (getSlot atSc3 15).staging ≠ 1 ∧
    (getSlot atSc3 15).staging ≠ 6 ∧
    (getSlot atSc3 15).distHeld = false ∧
    2 ≤ (getSlot atSc3 15).staging ∧
    (getSlot atSc3 15).staging ≤ 5 ∧
    (getSlot atSc3 15).staging = 2 ∧
    SlotsOk atSc4.slots ∧
    (getSlot atSc4 15).swap = none ∧
    (getSlot atSc4 15).staging ≠ 1 ∧
    (getSlot atSc4 15).staging ≠ 6 ∧
    (getSlot atSc4 15).distHeld = false ∧
    2 ≤ (getSlot atSc4 15).staging ∧
    (getSlot atSc4 15).staging ≤ 5 ∧
    (getSlot atSc4 15).staging = 5 ∧
    (getSlot atSc4 15).adaptOn = true ∧
    SlotsOk atSc6.slots ∧
    activeAdapt (getSlot atSc6 15) = some (amodel, adesc) ∧
    (getSlot atSc6 15).staging = 0 ∧
    adaptBudget atSc6 15 amodel adesc = true ∧
    SlotsOk atSc7.slots ∧
    (getSlot atSc7 15).swap = none ∧
    (getSlot atSc7 15).staging ≠ 1 ∧
    (getSlot atSc7 15).staging ≠ 6 ∧
    (getSlot atSc7 15).distHeld = false ∧
    2 ≤ (getSlot atSc7 15).staging ∧
    (getSlot atSc7 15).staging ≤ 5 ∧
    (getSlot atSc7 15).adaptOn = true ∧
    SlotsOk atSc7b.slots ∧
    (getSlot atSc7b 15).adaptOn = true ∧
    SlotsOk atSc8.slots ∧
    (getSlot atSc8 15).swap = none ∧
    (getSlot atSc8 15).staging ≠ 1 ∧
    (getSlot atSc8 15).staging ≠ 6 ∧
    (getSlot atSc8 15).distHeld = false ∧
    2 ≤ (getSlot atSc8 15).staging ∧
    (getSlot atSc8 15).staging ≤ 5 ∧
    (getSlot atSc8 15).staging = 4 ∧
    SlotSt.marked (getSlot atSc8 15) = false ∧
    (Instr.activate 15, 3) ∈ [(Instr.stage 15, 1), (Instr.slotDiscard 15, 2), (Instr.activate 15, 3), (Instr.rollback 15, 4),
      (Instr.release 15, 5), (Instr.adaptStart 15, 6), (Instr.adaptStop 15, 7), (Instr.promote 15, 8)] ∧
    commandResult (sl S0) 15 3 ≠ CmdResult.accepted ∧
    (Instr.stage 15, 1) ∈ [(Instr.stage 15, 1), (Instr.slotDiscard 15, 2), (Instr.activate 15, 3), (Instr.rollback 15, 4),
      (Instr.release 15, 5), (Instr.adaptStart 15, 6), (Instr.adaptStop 15, 7), (Instr.promote 15, 8)] ∧
    commandResult atSr2 15 1 ≠ CmdResult.accepted ∧
    (Instr.adaptStart 15, 6) ∈ [(Instr.stage 15, 1), (Instr.slotDiscard 15, 2), (Instr.activate 15, 3), (Instr.rollback 15, 4),
      (Instr.release 15, 5), (Instr.adaptStart 15, 6), (Instr.adaptStop 15, 7), (Instr.promote 15, 8)] ∧
    commandResult atSr3 15 6 ≠ CmdResult.accepted ∧
    commandResult atSr4 15 6 ≠ CmdResult.accepted ∧
    (Instr.release 15, 5) ∈ [(Instr.stage 15, 1), (Instr.slotDiscard 15, 2), (Instr.activate 15, 3), (Instr.rollback 15, 4),
      (Instr.release 15, 5), (Instr.adaptStart 15, 6), (Instr.adaptStop 15, 7), (Instr.promote 15, 8)] ∧
    commandResult atSr5 15 5 ≠ CmdResult.accepted ∧
    commandResult atSr6 15 1 ≠ CmdResult.accepted ∧
    (Instr.promote 15, 8) ∈ [(Instr.stage 15, 1), (Instr.slotDiscard 15, 2), (Instr.activate 15, 3), (Instr.rollback 15, 4),
      (Instr.release 15, 5), (Instr.adaptStart 15, 6), (Instr.adaptStop 15, 7), (Instr.promote 15, 8)] ∧
    commandResult atSr7 15 8 ≠ CmdResult.accepted ∧
    (Instr.adaptStop 15, 7) ∈ [(Instr.stage 15, 1), (Instr.slotDiscard 15, 2), (Instr.activate 15, 3), (Instr.rollback 15, 4),
      (Instr.release 15, 5), (Instr.adaptStart 15, 6), (Instr.adaptStop 15, 7), (Instr.promote 15, 8)] ∧
    commandResult (sl S0) 15 7 ≠ CmdResult.accepted ∧
    commandResult atSr9 15 1 ≠ CmdResult.accepted := by
  and_intros <;> decide

theorem test_premises_HeadsPassTheFrontStageToTheirVerdict :
    List.length [1, 2, 3] = List.length [1, 2, 4] ∧
    List.take 2 [1, 2, 3] = List.take 2 [1, 2, 4] ∧
    classify [(2, offR), (3, keyR 1), (4, keyR 7), (5, keyR 7), (6, keyR 2)] 773 = some (keyR 7) ∧
    applyRule lit none 3 8 64 = (lit, (applyRule lit none 3 8 64).snd) ∧
    applyRule lit (some cntR) 3 8 64 = ((applyRule lit (some cntR) 3 8 64).fst, (applyRule lit (some cntR) 3 8 64).snd) ∧
    bit cntR.result 65 = false ∧
    meterHead met 8 64 = ((meterHead met 8 64).fst, (meterHead met 8 64).snd) ∧
    tcOf met 8 = min (fld met.config 191 160 * 65536) (met.tc + (8 - met.last) * fld met.config 255 224) ∧
    tpOf met 8 = min (fld met.config 159 128 * 65536) (met.tp + (8 - met.last) * fld met.config 223 192) ∧
    meterHead met 8 80 = ((meterHead met 8 80).fst, (meterHead met 8 80).snd) ∧
    meterHead met 800 64 = ((meterHead met 800 64).fst, (meterHead met 800 64).snd) ∧
    tcOf met 800 = min (fld met.config 191 160 * 65536) (met.tc + (800 - met.last) * fld met.config 255 224) ∧
    tpOf met 800 = min (fld met.config 159 128 * 65536) (met.tp + (800 - met.last) * fld met.config 223 192) ∧
    shedReason adm 0 = none ∧
    (List.find? (fun (x : Batch) => x.number == batchNow adm) adm.pipe.batches = some bat0) ∧
    lookupHead (cpt anyKey) (lh 7) org0 0 = ((lookupHead (cpt anyKey) (lh 7) org0 0).fst, (lookupHead (cpt anyKey) (lh 7) org0
      0).snd) ∧
    compat (cpt anyKey) 0 = true ∧
    tableKey (cpt anyKey) 0 org0 = none ∧
    lookupHead (cpt 0) (lh 7) org0 0 = ((lookupHead (cpt 0) (lh 7) org0 0).fst, (lookupHead (cpt 0) (lh 7) org0 0).snd) ∧
    compat (cpt 0) 0 = true ∧
    tableKey (cpt 0) 0 org0 = some 0 ∧
    findKey 0 (getT (cpt 0) 0) 0 = none ∧
    moveUpdate (cpt 0) 0 = true ∧
    List.length (getT (cpt 0) 0).requests < 4096 ∧
    lookupHead learn (lh 7) org0 0 = ((lookupHead learn (lh 7) org0 0).fst, (lookupHead learn (lh 7) org0 0).snd) ∧
    Entry.zero = getEntry learn 0 7 ∧
    ((compat learn 0 = false ∧ 7 = if 0 = 0 then (lh 7).flowId else (lh 7).endpointId) ∨ compat learn 0 = true ∧
      Entry.zero.valid = true ∧ ∃ (k : Nat), ∃ (pl : Place), tableKey learn 0 org0 = some k ∧ findKey 0 (getT learn 0) k = some
      (pl, 7)) ∧
    Entry.zero.valid = false ∧
    moveUpdate learn 0 = true ∧
    lookupHead lit (lh 7) org0 0 = ((lookupHead lit (lh 7) org0 0).fst, (lookupHead lit (lh 7) org0 0).snd) ∧
    Entry.zero = getEntry lit 0 7 ∧
    ((compat lit 0 = false ∧ 7 = if 0 = 0 then (lh 7).flowId else (lh 7).endpointId) ∨ compat lit 0 = true ∧ Entry.zero.valid =
      true ∧ ∃ (k : Nat), ∃ (pl : Place), tableKey lit 0 org0 = some k ∧ findKey 0 (getT lit 0) k = some (pl, 7)) ∧
    moveUpdate lit 0 = true ∧
    lookupHead (has learn lkE) (lh 7) org0 0 = ((lookupHead (has learn lkE) (lh 7) org0 0).fst, (lookupHead (has learn lkE) (lh
      7) org0 0).snd) ∧
    lkE = getEntry (has learn lkE) 0 7 ∧
    ((compat (has learn lkE) 0 = false ∧ 7 = if 0 = 0 then (lh 7).flowId else (lh 7).endpointId) ∨ compat (has learn lkE) 0 =
      true ∧ lkE.valid = true ∧ ∃ (k : Nat), ∃ (pl : Place), tableKey (has learn lkE) 0 org0 = some k ∧ findKey 0 (getT (has
      learn lkE) 0) k = some (pl, 7)) ∧
    lkE.valid = true ∧
    lkE.lock = true ∧
    lookupHead (has learn (entry 3)) (lh 7) org0 0 = ((lookupHead (has learn (entry 3)) (lh 7) org0 0).fst, (lookupHead (has
      learn (entry 3)) (lh 7) org0 0).snd) ∧
    entry 3 = getEntry (has learn (entry 3)) 0 7 ∧
    ((compat (has learn (entry 3)) 0 = false ∧ 7 = if 0 = 0 then (lh 7).flowId else (lh 7).endpointId) ∨ compat (has learn
      (entry 3)) 0 = true ∧ (entry 3).valid = true ∧ ∃ (k : Nat), ∃ (pl : Place), tableKey (has learn (entry 3)) 0 org0 = some
      k ∧ findKey 0 (getT (has learn (entry 3)) 0) k = some (pl, 7)) ∧
    (entry 3).valid = true ∧
    (entry 3).lock = false ∧
    (entry 3).ingress ≠ (lh 7).ingress ∧
    (entry 3).static = false ∧
    moveUpdate (has learn (entry 3)) 0 = true ∧
    lookupHead (has learn stE) (lh 7) org0 0 = ((lookupHead (has learn stE) (lh 7) org0 0).fst, (lookupHead (has learn stE) (lh
      7) org0 0).snd) ∧
    stE = getEntry (has learn stE) 0 7 ∧
    ((compat (has learn stE) 0 = false ∧ 7 = if 0 = 0 then (lh 7).flowId else (lh 7).endpointId) ∨ compat (has learn stE) 0 =
      true ∧ stE.valid = true ∧ ∃ (k : Nat), ∃ (pl : Place), tableKey (has learn stE) 0 org0 = some k ∧ findKey 0 (getT (has
      learn stE) 0) k = some (pl, 7)) ∧
    stE.valid = true ∧
    stE.lock = false ∧
    stE.ingress ≠ (lh 7).ingress ∧
    stE.static = true ∧
    vE = vmapFor (vsl 5) head.partition (mb false).number ∧
    tableLostAt (vsl 5) (mb false).number = true ∧
    vE = vmapFor (vst vE) head.partition (mb true).number ∧
    tableLostAt (vst vE) (mb true).number = false ∧
    (mb true).late = true ∧
    head.ruleHit = false ∧
    vE = vmapFor (vst vE) (hitH false).partition (mb true).number ∧
    (hitH false).ruleHit = true ∧
    vE = vmapFor (vst vE) (hitH true).partition (mb false).number ∧
    tableLostAt (vst vE) (mb false).number = false ∧
    (mb false).late = false ∧
    ((hitH true).ruleHit && (hitH true).final) = true ∧
    vE = vmapFor (vst vE) ffH.partition (mb false).number ∧
    (ffH.ruleHit && ffH.final) = false ∧
    faultPath (mb false) ffH = true ∧
    vE = vmapFor (vst vE) head.partition (mb false).number ∧
    (head.ruleHit && head.final) = false ∧
    faultPath (mb false) head = false ∧
    (True ↔ head.ruleHit = false ∨ bit vE 253 = true) ∧
    (True ↔ fld vE 143 128 ≤ (headVerdict (vst vE) (mb false) head).score ∧ fld vE 103 96 ≠ 255) ∧
    (True ↔ fld vE 159 144 ≤ (headVerdict (vst vE) (mb false) head).score ∧ fld vE 127 120 ≠ 255) ∧
    vM = vmapFor (vst vM) head.partition (mb false).number ∧
    tableLostAt (vst vM) (mb false).number = false ∧
    (True ↔ head.ruleHit = false ∨ bit vM 253 = true) ∧
    (False ↔ fld vM 143 128 ≤ (headVerdict (vst vM) (mb false) head).score ∧ fld vM 103 96 ≠ 255) ∧
    (True ↔ fld vM 159 144 ≤ (headVerdict (vst vM) (mb false) head).score ∧ fld vM 127 120 ≠ 255) ∧
    ¬False ∧
    vM = vmapFor (vst vM) (hitH false).partition (mb false).number ∧
    ((hitH false).ruleHit && (hitH false).final) = false ∧
    faultPath (mb false) (hitH false) = false ∧
    (False ↔ (hitH false).ruleHit = false ∨ bit vM 253 = true) ∧
    (False ↔ fld vM 143 128 ≤ (headVerdict (vst vM) (mb false) (hitH false)).score ∧ fld vM 103 96 ≠ 255) ∧
    (True ↔ fld vM 159 144 ≤ (headVerdict (vst vM) (mb false) (hitH false)).score ∧ fld vM 127 120 ≠ 255) ∧
    (False → ¬False ∧ ¬True) ∧
    vL = vmapFor (vst vL) head.partition (mb false).number ∧
    tableLostAt (vst vL) (mb false).number = false ∧
    (True ↔ head.ruleHit = false ∨ bit vL 253 = true) ∧
    (False ↔ fld vL 143 128 ≤ (headVerdict (vst vL) (mb false) head).score ∧ fld vL 103 96 ≠ 255) ∧
    (False ↔ fld vL 159 144 ≤ (headVerdict (vst vL) (mb false) head).score ∧ fld vL 127 120 ≠ 255) ∧
    (True → ¬False ∧ ¬False) ∧
    lookupHead unlearn (lh 7) org0 0 = ((lookupHead unlearn (lh 7) org0 0).fst, (lookupHead unlearn (lh 7) org0 0).snd) ∧
    Entry.zero = getEntry unlearn 0 7 ∧
    ((compat unlearn 0 = false ∧ 7 = if 0 = 0 then (lh 7).flowId else (lh 7).endpointId) ∨ compat unlearn 0 = true ∧
      Entry.zero.valid = true ∧ ∃ (k : Nat), ∃ (pl : Place), tableKey unlearn 0 org0 = some k ∧ findKey 0 (getT unlearn 0) k =
      some (pl, 7)) ∧
    moveUpdate unlearn 0 = false := by
  and_intros
  all_goals first
    | decide
    | rfl
    | exact Or.inl (by decide)

theorem test_premises_StagingEndsInAGenerationOrARefusal :
    (getSlot (sl S0) 15).staging ≠ 1 ∧
    SlotsOk atSg1.slots ∧
    (getSlot atSg1 15).staging = 1 ∧
    (loadImage atSg1 15 = none ∨ ∃ (b : Bytes), loadImage atSg1 15 = some b ∧ (Option.isSome (acceptFailure (trustOf atSg1) b
      6) = true ∨ Option.isSome (modelFailure atSg1 15 (openEnvelope b).digest (openEnvelope b).body) = true)) := by
  and_intros <;> decide

theorem test_premises_SwapsDrainsAndCandidatesKeepTheirBoundary :
    SlotsOk atSw1.slots ∧
    (getSlot atSw1 15).swap = some (3, 8) ∧
    swapDue atSw1 (getSlot atSw1 15) = true ∧
    SlotsOk atSw1b.slots ∧
    (getSlot atSw1b 15).swap = some (8, 8) ∧
    swapDue atSw1b (getSlot atSw1b 15) = true ∧
    SlotsOk atSw1c.slots ∧
    (getSlot atSw1c 15).swap = some (4, 0) ∧
    swapDue atSw1c (getSlot atSw1c 15) = true ∧
    SlotsOk atSw1d.slots ∧
    (getSlot atSw1d 15).swap = some (3, 8) ∧
    swapDue atSw1d (getSlot atSw1d 15) = true ∧
    SlotsOk atSw2.slots ∧
    swapDue atSw2 (getSlot atSw2 15) = false ∧
    ((getSlot atSw2 15).staged = none ∨ (getSlot atSw2 15).staging ≠ 6 ∨ ∃ (g : Gen), (getSlot atSw2 15).staged = some g ∧
      genInUse atSw2 15 g.number = true) ∧
    ((getSlot atSw2 15).formAt = none ∨ mayForm (getSlot atSw2 15) = false ∨ ∃ (f : Nat), (getSlot atSw2 15).formAt = some f ∧
      boundaryDue atSw2 f = false) ∧
    (∀ (f : Nat), releaseDue atSw2 15 = some f → boundaryDue atSw2 f = false) ∧
    SlotsOk atSw2b.slots ∧
    (getSlot atSw2b 15).swap = some (3, 9) ∧
    SlotsOk (slH [head]).slots ∧
    (getSlot (slH [head]) 15).swap = some (3, 8) ∧
    SlotsOk (slH []).slots ∧
    (getSlot (slH []) 15).swap = some (3, 8) ∧
    SlotsOk atSw3.slots ∧
    (getSlot atSw3 15).staged = some (gen 2) ∧
    (getSlot atSw3 15).staging = 6 ∧
    genInUse atSw3 15 (gen 2).number = false ∧
    SlotsOk atSw3b.slots ∧
    (getSlot atSw3b 15).staged = some (gen 2) ∧
    (getSlot atSw3b 15).staging = 6 ∧
    genInUse atSw3b 15 (gen 2).number = false ∧
    SlotsOk atSw4.slots ∧
    (getSlot atSw4 15).formAt = some 8 ∧
    boundaryDue atSw4 8 = true ∧
    mayForm (getSlot atSw4 15) = true ∧
    (getSlot atSw4 15).active = some (agen 1) ∧
    SlotsOk (sl S0).slots ∧
    swapDue (sl S0) (getSlot (sl S0) 15) = false ∧
    ((getSlot (sl S0) 15).staged = none ∨ (getSlot (sl S0) 15).staging ≠ 6 ∨ ∃ (g : Gen), (getSlot (sl S0) 15).staged = some g
      ∧ genInUse (sl S0) 15 g.number = true) ∧
    ((getSlot (sl S0) 15).formAt = none ∨ mayForm (getSlot (sl S0) 15) = false ∨ ∃ (f : Nat), (getSlot (sl S0) 15).formAt =
      some f ∧ boundaryDue (sl S0) f = false) ∧
    (∀ (f : Nat), releaseDue (sl S0) 15 = some f → boundaryDue (sl S0) f = false) ∧
    SlotsOk relD.slots ∧
    releaseDue relD 15 = some 16 ∧
    boundaryDue relD 16 = true ∧
    SlotsOk rel.slots ∧
    swapDue rel (getSlot rel 15) = false ∧
    ((getSlot rel 15).staged = none ∨ (getSlot rel 15).staging ≠ 6 ∨ ∃ (g : Gen), (getSlot rel 15).staged = some g ∧ genInUse
      rel 15 g.number = true) ∧
    ((getSlot rel 15).formAt = none ∨ mayForm (getSlot rel 15) = false ∨ ∃ (f : Nat), (getSlot rel 15).formAt = some f ∧
      boundaryDue rel f = false) ∧
    (∀ (f : Nat), releaseDue rel 15 = some f → boundaryDue rel f = false) := by
  and_intros <;> decide

theorem test_premises_AdaptationWorksUnitByUnit :
    SlotsOk (ad (upd 0)).slots ∧
    mayRun (ad (upd 0)) 2 0 = true ∧
    (getSlot (ad (upd 0)) 0).staging = 3 ∧
    (getSlot (ad (upd 0)) 0).swap = none ∧
    (getSlot (ad (upd 0)) 0).active = some (cand 1) ∧
    (getSlot (ad (upd 0)) 0).staged = some (cand 2) ∧
    (cand 2).model.adapt = some adesc ∧
    (cand 2).model.seq = some aseq ∧
    adapterOp (cand 2).model = some (0, aop) ∧
    (getSlot (ad (upd 0)) 0).adapt.updating = true ∧
    (getSlot (ad (upd 0)) 0).adapt.groupsDone + 1 < aop.outputs * OpRec.groups aop ∧
    SlotsOk (ad (upd 1)).slots ∧
    mayRun (ad (upd 1)) 2 0 = true ∧
    (getSlot (ad (upd 1)) 0).staging = 3 ∧
    (getSlot (ad (upd 1)) 0).swap = none ∧
    (getSlot (ad (upd 1)) 0).active = some (cand 1) ∧
    (getSlot (ad (upd 1)) 0).staged = some (cand 2) ∧
    (getSlot (ad (upd 1)) 0).adapt.updating = true ∧
    aop.outputs * OpRec.groups aop ≤ (getSlot (ad (upd 1)) 0).adapt.groupsDone + 1 ∧
    SlotsOk (ad (smp [shead, shead] true)).slots ∧
    mayRun (ad (smp [shead, shead] true)) 2 0 = true ∧
    (getSlot (ad (smp [shead, shead] true)) 0).staging = 3 ∧
    (getSlot (ad (smp [shead, shead] true)) 0).swap = none ∧
    (getSlot (ad (smp [shead, shead] true)) 0).active = some (cand 1) ∧
    (getSlot (ad (smp [shead, shead] true)) 0).staged = some (cand 2) ∧
    (getSlot (ad (smp [shead, shead] true)) 0).adapt.updating = false ∧
    (getSlot (ad (smp [shead, shead] true)) 0).adapt.sample = [shead, shead] ∧
    SlotsOk (ad (smp [shead, shead] false)).slots ∧
    mayRun (ad (smp [shead, shead] false)) 2 0 = true ∧
    (getSlot (ad (smp [shead, shead] false)) 0).staging = 3 ∧
    (getSlot (ad (smp [shead, shead] false)) 0).swap = none ∧
    (getSlot (ad (smp [shead, shead] false)) 0).active = some (cand 1) ∧
    (getSlot (ad (smp [shead, shead] false)) 0).staged = some (cand 2) ∧
    (getSlot (ad (smp [shead, shead] false)) 0).adapt.updating = false ∧
    (getSlot (ad (smp [shead, shead] false)) 0).adapt.sample = [shead, shead] ∧
    SlotsOk (ad (smp [shead] false)).slots ∧
    mayRun (ad (smp [shead] false)) 2 0 = true ∧
    (getSlot (ad (smp [shead] false)) 0).staging = 3 ∧
    (getSlot (ad (smp [shead] false)) 0).swap = none ∧
    (getSlot (ad (smp [shead] false)) 0).active = some (cand 1) ∧
    (getSlot (ad (smp [shead] false)) 0).staged = some (cand 2) ∧
    (getSlot (ad (smp [shead] false)) 0).adapt.updating = false ∧
    (getSlot (ad (smp [shead] false)) 0).adapt.sample = [shead] ∧
    SlotsOk (ad S0.adapt).slots ∧
    mayRun (ad S0.adapt) 2 0 = true ∧
    (getSlot (ad S0.adapt) 0).staging = 3 ∧
    (getSlot (ad S0.adapt) 0).swap = none ∧
    (getSlot (ad S0.adapt) 0).active = some (cand 1) ∧
    (getSlot (ad S0.adapt) 0).staged = some (cand 2) ∧
    (getSlot (ad S0.adapt) 0).adapt.updating = false ∧
    (getSlot (ad S0.adapt) 0).adapt.sample = [] ∧
    (mayRun lit 2 0 = false ∨ (getSlot lit 0).staging ≠ 3 ∨ (getSlot lit 0).swap ≠ none ∨ (getSlot lit 0).active = none ∨
      (getSlot lit 0).staged = none ∨ ∃ (cand : Gen), (getSlot lit 0).staged = some cand ∧ (cand.model.adapt = none ∨
      cand.model.seq = none ∨ adapterOp cand.model = none)) := by
  and_intros <;> decide

theorem test_premises_ScaleCommandsAreStagedThenApplied :
    3 * 2 ^ 14 < 16777216 ∧
    5 * 2 ^ 14 < 16777216 ∧
    (Instr.qPin 15 255 true (3 * 2 ^ 14) (5 * 2 ^ 14), 1) ∈ [(Instr.qRelease 15 255 true (3 * 2 ^ 14) (5 * 2 ^ 14), 0),
      (Instr.qPin 15 255 true (3 * 2 ^ 14) (5 * 2 ^ 14), 1), (Instr.qBound 15 255 true (3 * 2 ^ 14) (5 * 2 ^ 14), 2)] ∧
    (Instr.qRelease 15 255 false (3 * 2 ^ 14) (5 * 2 ^ 14), 0) ∈ [(Instr.qRelease 15 255 false (3 * 2 ^ 14) (5 * 2 ^ 14), 0),
      (Instr.qPin 15 255 false (3 * 2 ^ 14) (5 * 2 ^ 14), 1), (Instr.qBound 15 255 false (3 * 2 ^ 14) (5 * 2 ^ 14), 2)] ∧
    (Instr.qBound 0 0 false 16777215 1, 2) ∈ [(Instr.qRelease 0 0 false 16777215 1, 0), (Instr.qPin 0 0 false 16777215 1, 1),
      (Instr.qBound 0 0 false 16777215 1, 2)] ∧
    atRound qst = true ∧
    restartPrevails qst = false ∧
    (∀ (x : SlotSt), x ∈ qst.slots → swapDue qst x = false) ∧
    (atRound atQc2b = false ∨ restartPrevails atQc2b = true ∨ ∃ (x : SlotSt), x ∈ atQc2b.slots ∧ swapDue atQc2b x = true) ∧
    (atRound atQc2c = false ∨ restartPrevails atQc2c = true ∨ ∃ (x : SlotSt), x ∈ atQc2c.slots ∧ swapDue atQc2c x = true) := by
  and_intros <;> decide

theorem test_premises_SensorsAndDroops :
    List.contains sens1.power.failedSensors (4 * 64 + 0) = true ∧
    List.contains lit.power.failedSensors (4 * 64 + 0) = false ∧
    sensorGood lit (4 * 64 + 0) 100 = true ∧
    sensorGood lit (4 * 64 + 0) 601 = false ∧
    sensorGood lit (4 * 64 + 0) 600 = true ∧
    List.contains lit.power.failedSensors (4 * 64 + 63) = false ∧
    sensorGood lit (4 * 64 + 63) 601 = false ∧
    sensorGood lit (4 * 64 + 63) (-161) = false ∧
    List.contains lit.power.stretching 31 = false ∧
    List.contains drp.power.stretching 31 = true := by
  and_intros <;> decide

theorem test_premises_HeatLowersTheCeilingAndCoolnessRaisesIt :
    (dialSet lit = true ∧ beatInSecond lit % 1000 ≠ 0 ∨ hottest lit = none) ∧
    (dialSet (temp 105 15 3) = true → beatInSecond (temp 105 15 3) % 1000 = 0) ∧
    hottest (temp 105 15 3) = some 420 ∧
    (temp 105 15 3).power.theta ≤ 15 ∧
    4 * (throttleC (temp 105 15 3)) ≤ 420 ∧
    0 < (temp 105 15 3).power.theta ∧
    (dialSet (temp 105 1 3) = true → beatInSecond (temp 105 1 3) % 1000 = 0) ∧
    hottest (temp 105 1 3) = some 420 ∧
    (temp 105 1 3).power.theta ≤ 15 ∧
    4 * (throttleC (temp 105 1 3)) ≤ 420 ∧
    0 < (temp 105 1 3).power.theta ∧
    (dialSet (temp 105 0 3) = true → beatInSecond (temp 105 0 3) % 1000 = 0) ∧
    hottest (temp 105 0 3) = some 420 ∧
    (temp 105 0 3).power.theta ≤ 15 ∧
    4 * (throttleC (temp 105 0 3)) ≤ 420 ∧
    (temp 105 0 3).power.theta = 0 ∧
    (dialSet (temp 20 14 8) = true → beatInSecond (temp 20 14 8) % 1000 = 0) ∧
    hottest (temp 20 14 8) = some 80 ∧
    (temp 20 14 8).power.theta ≤ 15 ∧
    80 < 4 * ((throttleC (temp 20 14 8)) - (hystC (temp 20 14 8))) ∧
    (temp 20 14 8).power.theta < 15 ∧
    (temp 20 14 8).power.coolRun < 9 ∧
    (dialSet (temp 20 14 9) = true → beatInSecond (temp 20 14 9) % 1000 = 0) ∧
    hottest (temp 20 14 9) = some 80 ∧
    (temp 20 14 9).power.theta ≤ 15 ∧
    80 < 4 * ((throttleC (temp 20 14 9)) - (hystC (temp 20 14 9))) ∧
    (temp 20 14 9).power.theta < 15 ∧
    9 ≤ (temp 20 14 9).power.coolRun ∧
    (dialSet (temp 20 3 9) = true → beatInSecond (temp 20 3 9) % 1000 = 0) ∧
    hottest (temp 20 3 9) = some 80 ∧
    (temp 20 3 9).power.theta ≤ 15 ∧
    80 < 4 * ((throttleC (temp 20 3 9)) - (hystC (temp 20 3 9))) ∧
    (temp 20 3 9).power.theta < 15 ∧
    9 ≤ (temp 20 3 9).power.coolRun ∧
    (dialSet (temp 20 15 9) = true → beatInSecond (temp 20 15 9) % 1000 = 0) ∧
    hottest (temp 20 15 9) = some 80 ∧
    (temp 20 15 9).power.theta ≤ 15 ∧
    80 < 4 * ((throttleC (temp 20 15 9)) - (hystC (temp 20 15 9))) ∧
    (temp 20 15 9).power.theta = 15 ∧
    (dialSet (temp 97 14 5) = true → beatInSecond (temp 97 14 5) % 1000 = 0) ∧
    hottest (temp 97 14 5) = some 388 ∧
    (temp 97 14 5).power.theta ≤ 15 ∧
    388 < 4 * (throttleC (temp 97 14 5)) ∧
    4 * ((throttleC (temp 97 14 5)) - (hystC (temp 97 14 5))) ≤ 388 := by
  and_intros <;> decide

theorem test_premises_TelemetryAndPeriods :
    dialSet vrs = true ∧
    beatInSecond vrs % 10000 = 0 ∧
    (dialSet lit = false ∨ beatInSecond lit % 10000 ≠ 0) ∧
    List.contains vrs.power.pendingVr 0 = false ∧
    List.contains (due [0, 3]).power.pendingVr 0 = true ∧
    1 = rd (due [0, 3]) (REGULATOR_VR.CLASS 0) ∧
    ((!List.any (List.erase (due [0, 3]).power.pendingVr 0) fun (v : Nat) => rd (due [0, 3]) (REGULATOR_VR.CLASS v) == 1) =
      false) ∧
    readingGood (some 100) = true ∧
    readingGood (some 1024) = false ∧
    readingGood none = false ∧
    readingGood (some 7) = true ∧
    List.contains due8.power.pendingVr 0 = true ∧
    1 = rd due8 (REGULATOR_VR.CLASS 0) ∧
    ((!List.any (List.erase due8.power.pendingVr 0) fun (v : Nat) => rd due8 (REGULATOR_VR.CLASS v) == 1) = true) ∧
    (List.getD due8.power.failedRead 1 false = true ∨ 1 < List.length due8.power.failedRead ∧ readingGood (some 100) = false ∧
      readingGood none = false) ∧
    List.contains (due [0]).power.pendingVr 0 = true ∧
    1 = rd (due [0]) (REGULATOR_VR.CLASS 0) ∧
    ((!List.any (List.erase (due [0]).power.pendingVr 0) fun (v : Nat) => rd (due [0]) (REGULATOR_VR.CLASS v) == 1) = true) ∧
    (List.getD (due [0]).power.failedRead 1 false = true ∨ 1 < List.length (due [0]).power.failedRead ∧ readingGood none =
      false ∧ readingGood none = false) ∧
    List.contains dueE.power.pendingVr 0 = true ∧
    1 = rd dueE (REGULATOR_VR.CLASS 0) ∧
    ((!List.any (List.erase dueE.power.pendingVr 0) fun (v : Nat) => rd dueE (REGULATOR_VR.CLASS v) == 1) = true) ∧
    List.getD dueE.power.failedRead 1 false = false ∧
    (some 100 = some 100 ∧ readingGood (some 100) = true ∨ some 100 = none ∧ readingGood (some 100) = false ∧ readingGood none
      = true) ∧
    (dialSet busy = true → batchNow busy % 2 = 0 ∨ busy.dial.stepPhase = 2 ∨ busy.tally.cutPeriod = true) ∧
    (dialSet atTe5b = true → batchNow atTe5b % 2 = 0 ∨ atTe5b.dial.stepPhase = 2 ∨ atTe5b.tally.cutPeriod = true) ∧
    dialSet atTe5c = true ∧
    batchNow atTe5c % 2 ≠ 0 ∧
    atTe5c.dial.stepPhase ≠ 2 ∧
    atTe5c.tally.cutPeriod = false ∧
    (dialSet capd = true → batchNow capd % 2 = 0 ∨ capd.dial.stepPhase = 2 ∨ capd.tally.cutPeriod = true) ∧
    (dialSet atTe5e = true → batchNow atTe5e % 2 = 0 ∨ atTe5e.dial.stepPhase = 2 ∨ atTe5e.tally.cutPeriod = true) ∧
    (dialSet atTe5f = true → batchNow atTe5f % 2 = 0 ∨ atTe5f.dial.stepPhase = 2 ∨ atTe5f.tally.cutPeriod = true) := by
  and_intros <;> decide

theorem test_premises_DomainsSwitchAndTripsLatch :
    (atSecond lit = false ∨ bootEnded lit = true) ∧
    atSecond atDo2 = true ∧
    bootEnded atDo2 = false ∧
    atSecond atDo2b = true ∧
    bootEnded atDo2b = false ∧
    State.reset.secure.powerGood = false ∧
    busy.secure.powerGood = true ∧
    (piped (batch true false 1 0) [flight 2]).secure.powerGood = true ∧
    atDo3b.secure.powerGood = true := by
  and_intros <;> decide

theorem test_premises_AttributionConservesEnergy :
    (power es).tally.open_ = some epoch ∧
    attributePeriod (power es) = after ∧
    after.tally.open_ = some (Option.getD after.tally.open_ epoch) ∧
    Map.sorted epoch.accounts = true ∧
    (List.Nodup (List.map (fun (x : JobAcc) => x.post) epoch.jobs)) ∧
    attrEnergy (power es) 0 + attrEnergy (power es) 1 + attrEnergy (power es) 2 ≤ sumN (power es).power.energy := by
  and_intros <;> decide

theorem test_premises_EpochsCloseIntoTheRing :
    atEp1.tally.open_ = some epoch ∧
    atSecond atEp1 = true ∧
    dialSeconds atEp1 % epoch.epochS = 0 ∧
    epoch.startNs < dialSeconds atEp1 * 1000000000 ∧
    (∀ (e : Epoch), busy.tally.open_ = some e → atSecond busy = false ∨ dialSeconds busy % e.epochS ≠ 0 ∨ dialSeconds busy *
      1000000000 ≤ e.startNs) ∧
    (tal 24 [epoch]).tally.frozen ≠ [] ∧
    unitAllowed (tal 24 [epoch]) 7 = true ∧
    (tal 24 [epoch]).tally.levelsDone + 1 < 26 ∧
    ((tal 24 []).tally.frozen = [] ∨ unitAllowed (tal 24 []) 7 = false) ∧
    (tal 25 [epoch]).tally.frozen = [epoch] ∧
    unitAllowed (tal 25 [epoch]) 7 = true ∧
    26 ≤ (tal 25 [epoch]).tally.levelsDone + 1 ∧
    (tal 25 [epoch]).tally.seq < 2 ^ 64 ∧
    (ring 51000000 [ent 3 (some []), ent 4 none]).power.hubTrip = false ∧
    (List.find? (fun (t : TallyEntry) => Option.isNone t.signature && !t.lateMarked && decide (t.endNs + 50000000 < (ring
      51000000 [ent 3 (some []), ent 4 none]).dial.time)) (ring 51000000 [ent 3 (some []), ent 4 none]).tally.ring = some (ent
      4 none)) ∧
    frzn.power.hubTrip = false ∧
    (List.find? (fun (t : TallyEntry) => Option.isNone t.signature && !t.lateMarked && decide (t.endNs + 50000000 <
      frzn.dial.time)) frzn.tally.ring = none) ∧
    (List.find? (fun (e : Epoch × Nat) => !e.fst.late && decide (e.fst.endNs + 50000000 < frzn.dial.time)) (List.zipIdx
      frzn.tally.frozen) = some (epoch, 0)) ∧
    (busy.power.hubTrip = true ∨ List.find? (fun (t : TallyEntry) => Option.isNone t.signature && !t.lateMarked && decide
      (t.endNs + 50000000 < busy.dial.time)) busy.tally.ring = none ∧ List.find? (fun (e : Epoch × Nat) => !e.fst.late &&
      decide (e.fst.endNs + 50000000 < busy.dial.time)) (List.zipIdx busy.tally.frozen) = none) := by
  and_intros <;> decide

theorem test_premises_RootsAreSignedBeforeReports :
    sgn.power.hubTrip = false ∧
    (Option.filter (fun (x : TallyEntry) => rootDue sgn x && signAllowed sgn) (waitsForSignature sgn) = some (ent 4 none)) ∧
    att.power.hubTrip = false ∧
    (Option.filter (fun (x : TallyEntry) => rootDue att x && signAllowed att) (waitsForSignature att) = none) ∧
    signRoom att = true ∧
    att.secure.attests = [(cl, rq, [1])] ∧
    (atSn3.power.hubTrip = true ∨ Option.filter (fun (x : TallyEntry) => rootDue atSn3 x && signAllowed atSn3)
      (waitsForSignature atSn3) = none ∧ (atSn3.secure.attests = [] ∨ signRoom atSn3 = false)) := by
  and_intros <;> decide

theorem test_premises_SessionsOpenAndClose :
    pdOn owned 1 = true ∧
    List.length owned.crown.sessions < maxSessions owned ∧
    handshakeOk (shake true) = true ∧
    (shake true).slhDsa = true ∧
    (shake true).verified = true ∧
    sessionRights owned [1, 2] = some (0, 0, true) ∧
    handshakeOk (shake false) = true ∧
    ((shake false).slhDsa = false ∨ sessionRights owned [1, 2] = none) ∧
    (maxSessions owned ≤ List.length owned.crown.sessions ∨ handshakeOk noKem = false ∨ noKem.slhDsa = true ∧ noKem.verified =
      false ∧ Option.isSome (sessionRights owned [1, 2]) = true) ∧
    (maxSessions owned ≤ List.length owned.crown.sessions ∨ handshakeOk forged = false ∨ forged.slhDsa = true ∧ forged.verified
      = false ∧ Option.isSome (sessionRights owned [1, 2]) = true) ∧
    ((shake true).slhDsa = false ∨ sessionRights owned [1, 3] = none) ∧
    pdOn State.reset 1 = false ∧
    findSession owned 2 = some (sess 0) ∧
    findSession owned 3 = none ∧
    crownHdrGood [1] = false ∧
    (findSession owned 2 = none ∨ pdOn owned 1 = false ∨ crownHdrGood (hdr 1) = true ∧ knownOp (crownHdr (hdr 1)).op = true) := by
  and_intros <;> decide

theorem test_premises_RefusedRequestsNameTheirReason :
    crownHdrGood (hdr 36) = true ∧
    knownOp (crownHdr (hdr 36)).op = false ∧
    (crownHdr (hdr 36)).operator = (sess 0).operator ∧
    Heard (C 0) { (crownHdr (hdr 36)) with session := 2 } (sess 0) ∧
    RequestRow (Instr.identity rq) rq 1 [] ∧
    (findSession held rq.session = none ∨ pdOn held 1 = false ∨ ∃ (x : Session), findSession held rq.session = some x ∧
      sessionBusy held x = true) ∧
    (findSession lit rq.session = none ∨ pdOn lit 1 = false ∨ ∃ (x : Session), findSession lit rq.session = some x ∧
      sessionBusy lit x = true) ∧
    Heard (C 0) rqBad (sess 0) ∧
    RequestRow (Instr.identity rqBad) rqBad 1 [] ∧
    rqBad.operator ≠ (sess 0).operator ∧
    Heard (recov 0) rq (sess 0) ∧
    RequestRow (Instr.jobPost rq [1]) rq 32 [1] ∧
    rq.operator = (sess 0).operator ∧
    bootClass (recov 0) = 1 ∧
    readOp 32 = false ∧
    Heard (C 0) rq (sess 0) ∧
    Served (C 0) rq (sess 0) 32 ∧
    (payloadOk 32 [1] = false ∨ 32 = 32 ∧ parseJob (C 0) [1] = none) ∧
    RequestRow (Instr.attest rq [1]) rq 8 [1] ∧
    Served (C 0) rq (sess 0) 8 ∧
    (payloadOk 8 [1] = false ∨ 8 = 32 ∧ parseJob (C 0) [1] = none) ∧
    Heard (C 3) rq (sess 3) ∧
    RequestRow (Instr.regWrite rq [(8, 1)]) rq 3 (natBe 8 8 ++ natBe 8 1) ∧
    Served (C 3) rq (sess 3) 3 ∧
    payloadOk 3 (natBe 8 8 ++ natBe 8 1) = true ∧
    (3 = 32 → Option.isSome (parseJob (C 3) (natBe 8 8 ++ natBe 8 1)) = true) ∧
    rightsOk (C 3) (some (sess 3).partition) 3 (natBe 8 8 ++ natBe 8 1) = false := by
  and_intros
  all_goals first
    | decide
    | exact ⟨0, 0, 0, 0, 0, 0, 0, 0, 0, [], by decide⟩
    | exact ⟨0, 0, 0, 0, 0, 0, 0, 0, 0, [(8, 1)], by decide⟩

theorem test_premises_RequestsInOrderAreAnswered :
    Served (C 0) rq (sess 0) 1 ∧
    655368 + 8 * 2 < 2 ^ 64 ∧
    (privileged (C 0) (sess 0).partition = true ∨ 655368 + 8 * 2 ≤ 851968 ∨ 983040 ≤ 655368) ∧
    (∀ (i : Nat), i < 2 → goodAddress (655368 + 8 * i) = true) ∧
    983040 + 8 * 1 < 2 ^ 64 ∧
    (privileged (C 0) (sess 0).partition = true ∨ 983040 + 8 * 1 ≤ 851968 ∨ 983040 ≤ 983040) ∧
    (∃ (i : Nat), i < 1 ∧ goodAddress (983040 + 8 * i) = false) ∧
    Served (C 3) rq (sess 3) 1 ∧
    (privileged (C 3) (sess 3).partition = true ∨ 983040 + 8 * 1 ≤ 851968 ∨ 983040 ≤ 983040) ∧
    Served C2 rq (sess 3) 1 ∧
    3 < 2 ^ 64 ∧
    ringEntry C2 3 = some (ent 3 none) ∧
    4000 + 2 ≤ 4096 ∧
    (1 ≠ 0 ∨ accountsOk C2 (sess 3).partition 4000 (4000 + 2 - 1) = true) ∧
    (1 ≠ 0 ∨ accountsOk C2 (sess 3).partition 4095 4095 = true) ∧
    4 < 2 ^ 64 ∧
    ringEntry C2 4 = none ∧
    4095 + 1 ≤ 4096 ∧
    (1 ≠ 0 ∨ accountsOk C2 (sess 3).partition 4095 (4095 + 1 - 1) = true) ∧
    List.length (List.replicate 32 7) = 32 ∧
    Served (C 0) rq (sess 0) 3 ∧
    (sess 0).partition = 0 ∧
    [(8, 1), (9, 1)] ≠ [] ∧
    List.length [(8, 1), (9, 1)] ≤ 512 ∧
    (∀ (p : Nat × Word), p ∈ [(8, 1), (9, 1)] → p.fst < 2 ^ 64) ∧
    privileged (C 0) (sess 0).partition = true ∧
    mayDequeue (C 0) 262143 = false ∧
    Served C3 rq (sess 0) 3 ∧
    privileged C3 (sess 0).partition = true ∧
    mayDequeue C3 9 = true := by
  and_intros <;> decide

theorem test_premises_JobsArePostedAbortedAndAsked :
    Served C4 rq (sess 0) 32 ∧
    parseJob C4 jp = some (jh, [jo 3 [] 5]) ∧
    rightsOk C4 (some (sess 0).partition) 32 jp = true ∧
    (hubOn C4 && queueClass jh.queue == 2 && (getQ C4 jh.queue).enable && Band.present (List.getD (getQ C4 jh.queue).bands
      jh.band noBand) && List.all [jo 3 [] 5] captureQueuesOk) = true ∧
    Band.bad (List.getD (getQ C4 jh.queue).bands jh.band noBand) = false ∧
    (!Band.bad (List.getD (getQ C4 jh.queue).bands jh.band noBand) && Band.occ (List.getD (getQ C4 jh.queue).bands jh.band
      noBand) == 2 ^ (List.getD (getQ C4 jh.queue).bands jh.band noBand).log2) = false ∧
    storeUsed C4 + ceilDiv (List.length jp - 32) 64 ≤ storeUnits ∧
    Served (C 0) rq (sess 0) 32 ∧
    parseJob (C 0) jp = some (jh, [jo 3 [] 5]) ∧
    rightsOk (C 0) (some (sess 0).partition) 32 jp = true ∧
    (hubOn (C 0) && queueClass jh.queue == 2 && (getQ (C 0) jh.queue).enable && Band.present (List.getD (getQ (C 0)
      jh.queue).bands jh.band noBand) && List.all [jo 3 [] 5] captureQueuesOk) = false ∧
    Served C4f rq (sess 0) 32 ∧
    parseJob C4f jp = some (jh, [jo 3 [] 5]) ∧
    rightsOk C4f (some (sess 0).partition) 32 jp = true ∧
    (hubOn C4f && queueClass jh.queue == 2 && (getQ C4f jh.queue).enable && Band.present (List.getD (getQ C4f jh.queue).bands
      jh.band noBand) && List.all [jo 3 [] 5] captureQueuesOk) = true ∧
    (!Band.bad (List.getD (getQ C4f jh.queue).bands jh.band noBand) && Band.occ (List.getD (getQ C4f jh.queue).bands jh.band
      noBand) == 2 ^ (List.getD (getQ C4f jh.queue).bands jh.band noBand).log2) = true ∧
    Served C4s rq (sess 0) 32 ∧
    parseJob C4s jp = some (jh, [jo 3 [] 5]) ∧
    rightsOk C4s (some (sess 0).partition) 32 jp = true ∧
    (hubOn C4s && queueClass jh.queue == 2 && (getQ C4s jh.queue).enable && Band.present (List.getD (getQ C4s jh.queue).bands
      jh.band noBand) && List.all [jo 3 [] 5] captureQueuesOk) = true ∧
    (!Band.bad (List.getD (getQ C4s jh.queue).bands jh.band noBand) && Band.occ (List.getD (getQ C4s jh.queue).bands jh.band
      noBand) == 2 ^ (List.getD (getQ C4s jh.queue).bands jh.band noBand).log2) = false ∧
    storeUnits < storeUsed C4s + ceilDiv (List.length jp - 32) 64 ∧
    Served (C5 (jobS 0 false)) rq (sess 0) 34 ∧
    7 < 2 ^ 64 ∧
    findJob (C5 (jobS 0 false)) 7 = some (jobS 0 false) ∧
    ((sess 0).partition = 0 ∨ (jobS 0 false).client = Client.session (sess 0).index (sess 0).serial) ∧
    (jobS 0 false).done = false ∧
    (jobS 0 false).state = 0 ∧
    Served (C5 (jobS 1 false)) rq (sess 0) 34 ∧
    findJob (C5 (jobS 1 false)) 7 = some (jobS 1 false) ∧
    ((sess 0).partition = 0 ∨ (jobS 1 false).client = Client.session (sess 0).index (sess 0).serial) ∧
    (jobS 1 false).done = false ∧
    (jobS 1 false).state = 1 ∧
    Served (C5 (jobS 1 true)) rq (sess 0) 34 ∧
    findJob (C5 (jobS 1 true)) 7 = some (jobS 1 true) ∧
    ((sess 0).partition = 0 ∨ (jobS 1 true).client = Client.session (sess 0).index (sess 0).serial) ∧
    ((jobS 1 true).done = true ∨ 2 ≤ (jobS 1 true).state) ∧
    Served (C5 (jobS 0 false)) rq (sess 0) 35 ∧
    8 < 2 ^ 64 ∧
    (Instr.jobAbort rq 8, 34) ∈ [(Instr.jobAbort rq 8, 34), (Instr.jobStatus rq 8, 35)] ∧
    findJob (C5 (jobS 0 false)) 8 = none ∧
    (Instr.jobStatus rq 8, 35) ∈ [(Instr.jobAbort rq 8, 34), (Instr.jobStatus rq 8, 35)] ∧
    Served C5o rq (sess 3) 35 ∧
    (Instr.jobStatus rq 7, 35) ∈ [(Instr.jobAbort rq 7, 34), (Instr.jobStatus rq 7, 35)] ∧
    findJob C5o 7 = some jobO ∧
    (sess 3).partition ≠ 0 ∧
    jobO.client ≠ Client.session (sess 3).index (sess 3).serial := by
  and_intros <;> decide

theorem test_premises_TheManagementPortAnswers :
    pdOn lit 1 = true ∧
    rdB lit CROWN_STATUS.LINK_UP ≠ true ∧
    (pdOn lit 1 = false ∨ rdB lit CROWN_STATUS.LINK_UP = false) ∧
    (pdOn State.reset 1 = false ∨ rdB State.reset CROWN_STATUS.LINK_UP = true) ∧
    ipEnabled State.reset true = false ∧
    Instr.echoRequest true 5 [1] ∈ [Instr.addressResolution true 3 4 6 true, Instr.echoRequest true 5 [1]] ∧
    ipEnabled ip true = true ∧
    5 ≠ ownAddress ip true ∧
    (∀ (n : Bool × Nat × Nat), n ∈ ip.crown.neighbours → n.fst = true → n.snd.fst ≠ 9) ∧
    ipEnabled ipn true = true ∧
    5 ≠ ownAddress ipn true ∧
    (∃ (n : Bool × Nat × Nat), n ∈ ipn.crown.neighbours ∧ n.fst = true ∧ n.snd.fst = 9) ∧
    ipEnabled ip false = true ∧
    (List.contains netRegs 655376 = false ∨ pdOn ip 1 = false) ∧
    List.contains netRegs CROWN_MAC.ADDRESS.addr = true ∧
    pdOn ip 1 = true ∧
    blockLocked ip (blockOf CROWN_MAC.ADDRESS.addr) = false := by
  and_intros <;> decide

theorem test_premises_RuleMeterCounterAndMapOperations :
    (Instr.ruleWrite 7, 2) ∈ [(Instr.ruleWrite 7, 2), (Instr.ruleRead 7, 3), (Instr.meterWrite 7, 4), (Instr.meterRead 7, 5),
      (Instr.counterRead 7, 6), (Instr.vmapWrite 7, 7), (Instr.vmapRead 7, 8)] ∧
    (nextOp lit 7 2 = none ∨ hubOn lit = false) ∧
    (Instr.vmapRead 7, 8) ∈ [(Instr.ruleWrite 7, 2), (Instr.ruleRead 7, 3), (Instr.meterWrite 7, 4), (Instr.meterRead 7, 5),
      (Instr.counterRead 7, 6), (Instr.vmapWrite 7, 7), (Instr.vmapRead 7, 8)] ∧
    (nextOp (jr 3 [] 0) 7 8 = none ∨ hubOn (jr 3 [] 0) = false) ∧
    nextOp (jr 2 (z 144) 65535) 7 2 = some (jj 2 (z 144) 65535, jo 2 (z 144) 65535) ∧
    hubOn (jr 2 (z 144) 65535) = true ∧
    (Option.isSome (Map.get? (jr 2 (z 144) 65535).front.staging (jo 2 (z 144) 65535).snd.snd.fst) = true ∨ List.length (jr 2 (z
      144) 65535).front.staging < 1024) ∧
    nextOp jr6 7 2 = some (jj 2 (z 144) 65535, jo 2 (z 144) 65535) ∧
    hubOn jr6 = true ∧
    Map.get? jr6.front.staging (jo 2 (z 144) 65535).snd.snd.fst = none ∧
    1024 ≤ List.length jr6.front.staging ∧
    nextOp (jr 3 [] 0) 7 3 = some (jj 3 [] 0, jo 3 [] 0) ∧
    hubOn (jr 3 [] 0) = true ∧
    nextOp (jr 4 (z 32) 9) 7 4 = some (jj 4 (z 32) 9, jo 4 (z 32) 9) ∧
    hubOn (jr 4 (z 32) 9) = true ∧
    meterRefused (meterOfBytes (jo 4 (z 32) 9).snd.snd.snd) = true ∧
    nextOp (jr 4 mc 9) 7 4 = some (jj 4 mc 9, jo 4 mc 9) ∧
    hubOn (jr 4 mc 9) = true ∧
    meterRefused (meterOfBytes (jo 4 mc 9).snd.snd.snd) = false ∧
    nextOp (jr 5 [] 9) 7 5 = some (jj 5 [] 9, jo 5 [] 9) ∧
    hubOn (jr 5 [] 9) = true ∧
    nextOp jr7 7 6 = some (jj 6 [] 4, jo 6 [] 4) ∧
    hubOn jr7 = true ∧
    nextOp (jr 7 vm 9) 7 7 = some (jj 7 vm 9, jo 7 vm 9) ∧
    hubOn (jr 7 vm 9) = true ∧
    vmapRefused (vmapOf (beAt (jo 7 vm 9).snd.snd.snd 0 32)) = true ∧
    nextOp (jr 7 (z 32) 9) 7 7 = some (jj 7 (z 32) 9, jo 7 (z 32) 9) ∧
    hubOn (jr 7 (z 32) 9) = true ∧
    vmapRefused (vmapOf (beAt (jo 7 (z 32) 9).snd.snd.snd 0 32)) = false ∧
    nextOp jr10 7 8 = some (jj 8 [] 9, jo 8 [] 9) ∧
    hubOn jr10 = true ∧
    Map.get? jr10.front.vmapNext (jo 8 [] 9).snd.snd.fst = some 77 ∧
    nextOp (jr 8 [] 9) 7 8 = some (jj 8 [] 9, jo 8 [] 9) ∧
    hubOn (jr 8 [] 9) = true ∧
    Map.get? (jr 8 [] 9).front.vmapNext (jo 8 [] 9).snd.snd.fst = none := by
  and_intros <;> decide

theorem test_premises_LoadsGoToTheirPlaces :
    (Instr.labelWrite 7, 9) ∈ [(Instr.labelWrite 7, 9), (Instr.modelLoad 7, 10), (Instr.scheduleLoad 7, 11)] ∧
    (nextOp lit 7 9 = none ∨ hbmOn lit = false) ∧
    nextOp (jr 9 (z 5) 15) 7 9 = some (jj 9 (z 5) 15, jo 9 (z 5) 15) ∧
    hbmOn (jr 9 (z 5) 15) = true ∧
    SlotsOk (jr 9 (z 5) 15).slots ∧
    (jo 9 (z 5) 15).snd.snd.fst < 16 ∧
    regionBase (jr 9 (z 5) 15) 5 (jo 9 (z 5) 15).snd.snd.fst = none ∧
    nextOp (reg (jr 9 (z 5) 15)) 7 9 = some (jj 9 (z 5) 15, jo 9 (z 5) 15) ∧
    hbmOn (reg (jr 9 (z 5) 15)) = true ∧
    SlotsOk (reg (jr 9 (z 5) 15)).slots ∧
    Option.isSome (regionBase (reg (jr 9 (z 5) 15)) 5 (jo 9 (z 5) 15).snd.snd.fst) = true ∧
    decide (List.length (jo 9 (z 5) 15).snd.snd.snd ≤ (jj 9 (z 5) 15).moved + min (List.length (jo 9 (z 5) 15).snd.snd.snd -
      (jj 9 (z 5) 15).moved) (loadRoom (reg (jr 9 (z 5) 15)) (jj 9 (z 5) 15))) = true ∧
    nextOp (tight (reg (jr 9 (z 5) 15))) 7 9 = some (jj 9 (z 5) 15, jo 9 (z 5) 15) ∧
    hbmOn (tight (reg (jr 9 (z 5) 15))) = true ∧
    SlotsOk (tight (reg (jr 9 (z 5) 15))).slots ∧
    Option.isSome (regionBase (tight (reg (jr 9 (z 5) 15))) 5 (jo 9 (z 5) 15).snd.snd.fst) = true ∧
    decide (List.length (jo 9 (z 5) 15).snd.snd.snd ≤ (jj 9 (z 5) 15).moved + min (List.length (jo 9 (z 5) 15).snd.snd.snd -
      (jj 9 (z 5) 15).moved) (loadRoom (tight (reg (jr 9 (z 5) 15))) (jj 9 (z 5) 15))) = false ∧
    nextOp (tight (reg (jr 10 [1, 2] (at60 62)))) 7 10 = some (jj 10 [1, 2] (at60 62), jo 10 [1, 2] (at60 62)) ∧
    hbmOn (tight (reg (jr 10 [1, 2] (at60 62)))) = true ∧
    SlotsOk (tight (reg (jr 10 [1, 2] (at60 62)))).slots ∧
    loadBuffer (tight (reg (jr 10 [1, 2] (at60 62)))) (fld (jo 10 [1, 2] (at60 62)).snd.snd.fst 63 60) = some (65536, 64) ∧
    (getSlot (tight (reg (jr 10 [1, 2] (at60 62)))) (fld (jo 10 [1, 2] (at60 62)).snd.snd.fst 63 60)).distHeld = false ∧
    fld (jo 10 [1, 2] (at60 62)).snd.snd.fst 39 0 + List.length (jo 10 [1, 2] (at60 62)).snd.snd.snd ≤ 64 ∧
    decide (List.length (jo 10 [1, 2] (at60 62)).snd.snd.snd ≤ (jj 10 [1, 2] (at60 62)).moved + min (List.length (jo 10 [1, 2]
      (at60 62)).snd.snd.snd - (jj 10 [1, 2] (at60 62)).moved) (loadRoom (tight (reg (jr 10 [1, 2] (at60 62)))) (jj 10 [1, 2]
      (at60 62)))) = false ∧
    nextOp (tight (jr 11 [1, 2] 67108862)) 7 11 = some (jj 11 [1, 2] 67108862, jo 11 [1, 2] 67108862) ∧
    hbmOn (tight (jr 11 [1, 2] 67108862)) = true ∧
    SlotsOk (tight (jr 11 [1, 2] 67108862)).slots ∧
    (jo 11 [1, 2] 67108862).snd.snd.fst + List.length (jo 11 [1, 2] 67108862).snd.snd.snd ≤ 67108864 ∧
    decide (List.length (jo 11 [1, 2] 67108862).snd.snd.snd ≤ (jj 11 [1, 2] 67108862).moved + min (List.length (jo 11 [1, 2]
      67108862).snd.snd.snd - (jj 11 [1, 2] 67108862).moved) (loadRoom (tight (jr 11 [1, 2] 67108862)) (jj 11 [1, 2]
      67108862))) = false ∧
    nextOp (jr 10 [1, 2] (at60 3)) 7 10 = some (jj 10 [1, 2] (at60 3), jo 10 [1, 2] (at60 3)) ∧
    hbmOn (jr 10 [1, 2] (at60 3)) = true ∧
    SlotsOk (jr 10 [1, 2] (at60 3)).slots ∧
    (loadBuffer (jr 10 [1, 2] (at60 3)) (fld (jo 10 [1, 2] (at60 3)).snd.snd.fst 63 60) = none ∨ (getSlot (jr 10 [1, 2] (at60
      3)) (fld (jo 10 [1, 2] (at60 3)).snd.snd.fst 63 60)).distHeld = true) ∧
    nextOp (reg (jr 10 [1, 2] (at60 63))) 7 10 = some (jj 10 [1, 2] (at60 63), jo 10 [1, 2] (at60 63)) ∧
    hbmOn (reg (jr 10 [1, 2] (at60 63))) = true ∧
    SlotsOk (reg (jr 10 [1, 2] (at60 63))).slots ∧
    loadBuffer (reg (jr 10 [1, 2] (at60 63))) (fld (jo 10 [1, 2] (at60 63)).snd.snd.fst 63 60) = some (65536, 64) ∧
    (getSlot (reg (jr 10 [1, 2] (at60 63))) (fld (jo 10 [1, 2] (at60 63)).snd.snd.fst 63 60)).distHeld = false ∧
    64 < fld (jo 10 [1, 2] (at60 63)).snd.snd.fst 39 0 + List.length (jo 10 [1, 2] (at60 63)).snd.snd.snd ∧
    nextOp (reg (jr 10 [1, 2] (at60 62))) 7 10 = some (jj 10 [1, 2] (at60 62), jo 10 [1, 2] (at60 62)) ∧
    hbmOn (reg (jr 10 [1, 2] (at60 62))) = true ∧
    SlotsOk (reg (jr 10 [1, 2] (at60 62))).slots ∧
    loadBuffer (reg (jr 10 [1, 2] (at60 62))) (fld (jo 10 [1, 2] (at60 62)).snd.snd.fst 63 60) = some (65536, 64) ∧
    (getSlot (reg (jr 10 [1, 2] (at60 62))) (fld (jo 10 [1, 2] (at60 62)).snd.snd.fst 63 60)).distHeld = false ∧
    decide (List.length (jo 10 [1, 2] (at60 62)).snd.snd.snd ≤ (jj 10 [1, 2] (at60 62)).moved + min (List.length (jo 10 [1, 2]
      (at60 62)).snd.snd.snd - (jj 10 [1, 2] (at60 62)).moved) (loadRoom (reg (jr 10 [1, 2] (at60 62))) (jj 10 [1, 2] (at60
      62)))) = true ∧
    nextOp (jr 11 [1, 2] 67108863) 7 11 = some (jj 11 [1, 2] 67108863, jo 11 [1, 2] 67108863) ∧
    hbmOn (jr 11 [1, 2] 67108863) = true ∧
    SlotsOk (jr 11 [1, 2] 67108863).slots ∧
    67108864 < (jo 11 [1, 2] 67108863).snd.snd.fst + List.length (jo 11 [1, 2] 67108863).snd.snd.snd ∧
    nextOp (jr 11 [1, 2] 67108862) 7 11 = some (jj 11 [1, 2] 67108862, jo 11 [1, 2] 67108862) ∧
    hbmOn (jr 11 [1, 2] 67108862) = true ∧
    SlotsOk (jr 11 [1, 2] 67108862).slots ∧
    decide (List.length (jo 11 [1, 2] 67108862).snd.snd.snd ≤ (jj 11 [1, 2] 67108862).moved + min (List.length (jo 11 [1, 2]
      67108862).snd.snd.snd - (jj 11 [1, 2] 67108862).moved) (loadRoom (jr 11 [1, 2] 67108862) (jj 11 [1, 2] 67108862))) = true ∧
    bit (jo 11 [1, 2] 67108862).snd.fst 0 = false ∧
    nextOp jrL 7 11 = some (job [jol] [], jol) ∧
    hbmOn jrL = true ∧
    SlotsOk jrL.slots ∧
    jol.snd.snd.fst + List.length jol.snd.snd.snd ≤ 67108864 ∧
    decide (List.length jol.snd.snd.snd ≤ (job [jol] []).moved + min (List.length jol.snd.snd.snd - (job [jol] []).moved)
      (loadRoom jrL (job [jol] []))) = true ∧
    bit jol.snd.fst 0 = true := by
  and_intros <;> decide

theorem test_premises_JobsAndCapturesEnd :
    runningJob (C5 (ret 0)) 7 = some (ret 0) ∧
    (ret 0).done = true ∧
    runningJob (C5 (ret 3)) 7 = some (ret 3) ∧
    (ret 3).done = true ∧
    (∀ (j : Job), runningJob (C5 (jobS 1 false)) 7 = some j → j.done = false) ∧
    nextOp (C5 (jobS 1 false)) 7 12 = none ∧
    nextOp (jr 12 [] ct) 7 12 = some (jj 12 [] ct, jo 12 [] ct) ∧
    (List.find? (fun (c : CaptureRun) => c.active && c.job == (jj 12 [] ct).post) (jr 12 [] ct).crown.captures = none) ∧
    nextOp (jrc 0) 7 12 = some (jj 12 [] ct, jo 12 [] ct) ∧
    (Option.isSome (List.find? (fun (c : CaptureRun) => c.active && c.job == (jj 12 [] ct).post) (jrc 0).crown.captures) =
      true) ∧
    (∃ (c : CaptureRun), c ∈ (flushCaptures (jrc 0)).crown.captures ∧ c.active = true ∧ c.job = (jj 12 [] ct).post ∧ c.left =
      0) ∧
    nextOp (jrc 2) 7 12 = some (jj 12 [] ct, jo 12 [] ct) ∧
    (Option.isSome (List.find? (fun (c : CaptureRun) => c.active && c.job == (jj 12 [] ct).post) (jrc 2).crown.captures) =
      true) ∧
    (∀ (c : CaptureRun), c ∈ (flushCaptures (jrc 2)).crown.captures → c.active = true → c.job = (jj 12 [] ct).post → c.left ≠
      0) ∧
    queueClass 9 = 0 ∧
    dataPathUse 9 = none ∧
    Instr.captureForward 9 ∈ [Instr.captureForward 9, Instr.itemTake 9 []] ∧
    ((captureOf capq fun (x : CaptureRun) => x.hq == 9) = some (cap 3 true)) ∧
    roomQ capq (cap 3 true).vq 0 ≠ 0 ∧
    Instr.itemTake 9 [] ∈ [Instr.captureForward 9, Instr.itemTake 9 []] ∧
    ((captureOf lit fun (x : CaptureRun) => x.hq == 9) = none ∨ ∃ (c : CaptureRun), (captureOf lit fun (x : CaptureRun) => x.hq
      == 9) = some c ∧ roomQ lit c.vq 0 = 0) ∧
    (queueClass 131088 ≠ 0 ∨ Option.isSome (dataPathUse 131088) = true) ∧
    (queueClass 131088 ≠ 1 ∨ Option.isSome (dataPathUse 131088) = true ∨ (captureOf lit fun (x : CaptureRun) => x.vq == 131088)
      = none ∨ peekQ lit 131088 = Deq.empty ∨ hubOn lit = false) ∧
    ((captureOf capv fun (x : CaptureRun) => x.vq == 131088) = some (cap 3 true)) ∧
    hubOn capv = true ∧
    queueClass 131088 = 1 ∧
    dataPathUse 131088 = none ∧
    peekQ capv 131088 = Deq.item 12 2 ∧
    (List.find? (fun (x : Nat × Bool) => x.fst == ringPlace capv 131088 2 0) capv.queue.struck = none) ∧
    (cap 3 true).client = Client.session 2 5 ∧
    findSession capv 2 = some (sess 0) ∧
    (sess 0).serial = 5 ∧
    ((captureOf (caps (Client.session 2 4)) fun (x : CaptureRun) => x.vq == 131088) = some (capc (Client.session 2 4))) ∧
    hubOn (caps (Client.session 2 4)) = true ∧
    peekQ (caps (Client.session 2 4)) 131088 = Deq.item 12 2 ∧
    (List.find? (fun (x : Nat × Bool) => x.fst == ringPlace (caps (Client.session 2 4)) 131088 2 0) (caps (Client.session 2
      4)).queue.struck = none) ∧
    (capc (Client.session 2 4)).client = Client.session 2 4 ∧
    sessionIs (caps (Client.session 2 4)) 2 4 = false ∧
    ((captureOf (caps (Client.peer 2 7)) fun (x : CaptureRun) => x.vq == 131088) = some (capc (Client.peer 2 7))) ∧
    hubOn (caps (Client.peer 2 7)) = true ∧
    peekQ (caps (Client.peer 2 7)) 131088 = Deq.item 12 2 ∧
    (List.find? (fun (x : Nat × Bool) => x.fst == ringPlace (caps (Client.peer 2 7)) 131088 2 0) (caps (Client.peer 2
      7)).queue.struck = none) ∧
    (capc (Client.peer 2 7)).client = Client.peer 2 7 ∧
    leavesAtOnce (caps (Client.peer 2 7)) 2 = false ∧
    ((captureOf capn fun (x : CaptureRun) => x.vq == 131088) = some (capc (Client.peer 2 7))) ∧
    hubOn capn = true ∧
    peekQ capn 131088 = Deq.item 12 2 ∧
    (List.find? (fun (x : Nat × Bool) => x.fst == ringPlace capn 131088 2 0) capn.queue.struck = none) ∧
    leavesAtOnce capn 2 = true := by
  and_intros <;> decide

theorem test_premises_LinksComeUpAndResend :
    acceptFrame (advance net 40) 0 [] 1 = none ∧
    PeerOk dn.peer ∧
    acceptFrame (advance dn 40) 0 (hf true) 1 = some (taken2 (advance dn 40) 0 (hf true) 1) ∧
    helloGood (taken2 (advance dn 40) 0 (hf true) 1) 0 (framePayload (hf true)) = true ∧
    PeerOk net.peer ∧
    acceptFrame (advance net 40) 0 (hf false) 1 = some (taken2 (advance net 40) 0 (hf false) 1) ∧
    helloGood (taken2 (advance net 40) 0 (hf false) 1) 0 (framePayload (hf false)) = false ∧
    (linkWorks old 0 = false ∨ helloFresh old 0 = false) ∧
    (∀ (b : Nat), (getLink old 0).lastHello = some b → b + 3000 < batchNow old) ∧
    (linkWorks lit 3 = false ∨ helloFresh lit 3 = false) ∧
    (∀ (b : Nat), (getLink lit 3).lastHello = some b → b + 3000 < batchNow lit) ∧
    linkWorks (young net) 0 = true ∧
    helloFresh (young net) 0 = true ∧
    rdB (young net) (PEER_LINK_STATUS.UP 0) = true ∧
    linkWorks (young dn) 0 = true ∧
    helloFresh (young dn) 0 = true ∧
    rdB (young dn) (PEER_LINK_STATUS.UP 0) = false ∧
    linkWorks net 0 = true ∧
    rdB net (PEER_LINK_STATUS.MISWIRED 0) = false ∧
    (getLink net 0).nakking = false ∧
    PeerOk nk.peer ∧
    linkWorks nk 0 = true ∧
    rdB nk (PEER_LINK_STATUS.MISWIRED 0) = false ∧
    (getLink nk 0).nakking = true ∧
    (linkWorks atPl7c 0 = false ∨ rdB atPl7c (PEER_LINK_STATUS.MISWIRED 0) = true) ∧
    acceptFrame snt 0 [] 4 = none ∧
    PeerOk snt.peer ∧
    acceptFrame snt 0 nf 4 = some (taken2 snt 0 nf 4) ∧
    5 = beAt (framePayload nf) 0 2 ∧
    (getLink snt 0).resent ≠ some 5 ∧
    PeerOk snt2.peer ∧
    acceptFrame snt2 0 nf 4 = some (taken2 snt2 0 nf 4) ∧
    (getLink snt2 0).resent = some 5 ∧
    acceptFrame cr 0 [] 5 = none ∧
    PeerOk cr.peer ∧
    acceptFrame cr 0 cf 5 = some (taken2 cr 0 cf 5) ∧
    5 = 2 * beAt (framePayload cf) 0 1 + beAt (framePayload cf) 1 1 ∧
    PeerOk crw.peer ∧
    acceptFrame crw 0 cf 5 = some (taken2 crw 0 cf 5) := by
  and_intros <;> decide

theorem test_premises_RequestsAreRelayedAndAnswered :
    Heard net3 rq2 (sess 3) ∧
    rq2.operator = (sess 3).operator ∧
    (bootClass net3 = 1 → readOp 32 = true) ∧
    rq2.dest ≠ net3.peer.address ∧
    RequestRow (Instr.jobPost rq2 jp) rq2 32 jp ∧
    relayAllowed net3 (sess 3) rq2 32 jp = false ∧
    Heard net rq9 (sess 0) ∧
    rq9.operator = (sess 0).operator ∧
    (bootClass net = 1 → readOp 1 = true) ∧
    rq9.dest ≠ net.peer.address ∧
    RequestRow (Instr.identity rq9) rq9 1 nil ∧
    relayAllowed net (sess 0) rq9 1 nil = true ∧
    (sourceLink net rq9.dest = none ∨ inTopology net rq9.dest = false) ∧
    Heard (C 0) rq2 (sess 0) ∧
    rq2.operator = (sess 0).operator ∧
    (bootClass (C 0) = 1 → readOp 1 = true) ∧
    rq2.dest ≠ (C 0).peer.address ∧
    RequestRow (Instr.identity rq2) rq2 1 nil ∧
    relayAllowed (C 0) (sess 0) rq2 1 nil = true ∧
    (sourceLink (C 0) rq2.dest = none ∨ inTopology (C 0) rq2.dest = false) ∧
    Heard net rq2 (sess 0) ∧
    rq2.dest ≠ net.peer.address ∧
    relayAllowed net (sess 0) rq2 1 nil = true ∧
    sourceLink net rq2.dest = some 0 ∧
    inTopology net rq2.dest = true ∧
    (bootClass net = 1 → readOp 32 = true) ∧
    relayAllowed net (sess 0) rq2 32 jp = true ∧
    acceptFrame net 1 [] 16 = none ∧
    acceptFrame net 1 [] 17 = none ∧
    (frameHdr gf).bcast = false ∧
    (frameHdr gf).dest = net.peer.address ∧
    acceptFrame net 1 gf 16 = some (taken2 net 1 gf 16) ∧
    (frameHdr gf).length = 0 ∧
    List.length net.peer.buffers < 16 ∧
    (frameHdr gf).dest = full.peer.address ∧
    acceptFrame full 1 gf 16 = some (taken2 full 1 gf 16) ∧
    16 ≤ List.length full.peer.buffers ∧
    (frameHdr ff).bcast = false ∧
    (Instr.request 1 ff, 16) ∈ [(Instr.request 1 ff, 16), (Instr.response 1 ff, 17)] ∧
    acceptFrame net 1 ff 16 = some (taken2 net 1 ff 16) ∧
    (frameHdr ff).dest ≠ net.peer.address ∧
    (frameHdr fx).bcast = false ∧
    (Instr.response 1 fx, 17) ∈ [(Instr.request 1 fx, 16), (Instr.response 1 fx, 17)] ∧
    acceptFrame dn0 1 fx 17 = some (taken2 dn0 1 fx 17) ∧
    (frameHdr fx).dest ≠ dn0.peer.address ∧
    (frameHdr (frag true)).bcast = false ∧
    (frameHdr (frag true)).dest = net.peer.address ∧
    acceptFrame net 1 (frag true) 16 = some (taken2 net 1 (frag true) 16) ∧
    (frameHdr (frag true)).length ≠ 0 ∧
    (List.find? (fun (b : Reassembly) => b.source == (frameHdr (frag true)).src && b.message == (frameHdr (frag true)).msgId)
      net.peer.buffers = none) ∧
    (frameHdr (frag false)).bcast = false ∧
    (frameHdr (frag false)).dest = part.peer.address ∧
    acceptFrame part 1 (frag false) 16 = some (taken2 part 1 (frag false) 16) ∧
    (frameHdr (frag false)).length ≠ 0 ∧
    (List.find? (fun (b : Reassembly) => b.source == (frameHdr (frag false)).src && b.message == (frameHdr (frag false)).msgId)
      part.peer.buffers = some { source := 1, message := 77, bytes := [1, 2], since := 0 }) ∧
    (frameHdr (frag false)).last = false ∧
    (frameHdr (frag true)).dest = part.peer.address ∧
    acceptFrame part 1 (frag true) 16 = some (taken2 part 1 (frag true) 16) ∧
    (List.find? (fun (b : Reassembly) => b.source == (frameHdr (frag true)).src && b.message == (frameHdr (frag true)).msgId)
      part.peer.buffers = some { source := 1, message := 77, bytes := [1, 2], since := 0 }) ∧
    (frameHdr (frag true)).last = true ∧
    (frameHdr frag2).bcast = false ∧
    (frameHdr frag2).dest = part2.peer.address ∧
    acceptFrame part2 1 frag2 16 = some (taken2 part2 1 frag2 16) ∧
    (frameHdr frag2).length ≠ 0 ∧
    (List.find? (fun (b : Reassembly) => b.source == (frameHdr frag2).src && b.message == (frameHdr frag2).msgId)
      part2.peer.buffers = some { source := 1, message := 77, bytes := List.take 4 idm, since := 0 }) ∧
    (frameHdr frag2).last = true ∧
    (frameHdr (rf false [])).bcast = false ∧
    (frameHdr (rf false [])).dest = grant.peer.address ∧
    acceptFrame grant 0 (rf false []) 17 = some (RL grant (rf false [])) ∧
    ([] =
      (match List.find? (fun (b : Reassembly) => b.source == (frameHdr (rf false [])).src && b.message == (frameHdr (rf false [])).msgId) grant.peer.parts with | some b => if ((frameHdr (rf false [])).frag == 0) = true then [] else b.bytes | none => [])
      ++ framePayload (rf false [])) ∧
    (frameHdr (rf false [])).length = 0 ∧
    (frameHdr (rf false [])).last = false ∧
    (List.find? (fun (y : Relay) => y.message == (frameHdr (rf false [])).msgId && y.request.dest == (frameHdr (rf false
      [])).src && !y.granted) grant.peer.relays = some (rlv false)) ∧
    (frameHdr (rf false [1, 2])).bcast = false ∧
    (frameHdr (rf false [1, 2])).dest = rls.peer.address ∧
    acceptFrame rls 0 (rf false [1, 2]) 17 = some (RL rls (rf false [1, 2])) ∧
    ([1, 2] =
      (match List.find? (fun (b : Reassembly) => b.source == (frameHdr (rf false [1, 2])).src && b.message == (frameHdr (rf false [1, 2])).msgId) rls.peer.parts with | some b => if ((frameHdr (rf false [1, 2])).frag == 0) = true then [] else b.bytes | none => [])
      ++ framePayload (rf false [1, 2])) ∧
    (frameHdr (rf false [1, 2])).length ≠ 0 ∧
    (frameHdr (rf false [1, 2])).last = false ∧
    (frameHdr (rf true (rm 2))).bcast = false ∧
    (frameHdr (rf true (rm 2))).dest = rls.peer.address ∧
    acceptFrame rls 0 (rf true (rm 2)) 17 = some (RL rls (rf true (rm 2))) ∧
    (rm 2 =
      (match List.find? (fun (b : Reassembly) => b.source == (frameHdr (rf true (rm 2))).src && b.message == (frameHdr (rf true (rm 2))).msgId) rls.peer.parts with | some b => if ((frameHdr (rf true (rm 2))).frag == 0) = true then [] else b.bytes | none => [])
      ++ framePayload (rf true (rm 2))) ∧
    (frameHdr (rf true (rm 2))).last = true ∧
    wholeMessage (rm 2) = true ∧
    (crownHdr (rm 2)).type = 2 ∧
    (List.find? (fun (y : Relay) => y.message == (frameHdr (rf true (rm 2))).msgId && y.request.dest == (frameHdr (rf true (rm
      2))).src) rls.peer.relays = some (rlv true)) ∧
    findSession rls (rlv true).request.session = some (sess 0) ∧
    (sess 0).serial = (rlv true).serial ∧
    (frameHdr (rf true (rm 2))).dest = net.peer.address ∧
    acceptFrame net 0 (rf true (rm 2)) 17 = some (RL net (rf true (rm 2))) ∧
    (rm 2 =
      (match List.find? (fun (b : Reassembly) => b.source == (frameHdr (rf true (rm 2))).src && b.message == (frameHdr (rf true (rm 2))).msgId) net.peer.parts with | some b => if ((frameHdr (rf true (rm 2))).frag == 0) = true then [] else b.bytes | none => [])
      ++ framePayload (rf true (rm 2))) ∧
    (List.find? (fun (y : Relay) => y.message == (frameHdr (rf true (rm 2))).msgId && y.request.dest == (frameHdr (rf true (rm
      2))).src) net.peer.relays = none) ∧
    (frameHdr (rf true [1, 2])).bcast = false ∧
    (frameHdr (rf true [1, 2])).dest = rls.peer.address ∧
    acceptFrame rls 0 (rf true [1, 2]) 17 = some (RL rls (rf true [1, 2])) ∧
    ([1, 2] =
      (match List.find? (fun (b : Reassembly) => b.source == (frameHdr (rf true [1, 2])).src && b.message == (frameHdr (rf true [1, 2])).msgId) rls.peer.parts with | some b => if ((frameHdr (rf true [1, 2])).frag == 0) = true then [] else b.bytes | none => [])
      ++ framePayload (rf true [1, 2])) ∧
    (frameHdr (rf true [1, 2])).last = true ∧
    wholeMessage [1, 2] = false ∧
    (List.find? (fun (x : Relay) => x.message == 77) rlt.peer.relays = some (rlv true)) ∧
    ((rlv true).granted = false ∨ messageWaits rlt 16 77 = false) ∧
    timedOut rlt (rlv true).since = true ∧
    (∀ (y : Relay), List.find? (fun (x : Relay) => x.message == 77) rls.peer.relays = some y → y.granted = true ∧ messageWaits
      rls 16 77 = true ∨ timedOut rls y.since = false) := by
  and_intros
  all_goals first
    | decide
    | exact ⟨0, 0, 0, 0, 0, 0, 0, 0, 0, [], by decide⟩

theorem test_premises_EventsAndSlackCrossTheLinks :
    rd (advance atEe0 9) PEER_SYNC_CFG.INTERVAL_BEATS = 0 ∧
    rd (advance net 9) PEER_SYNC_CFG.INTERVAL_BEATS ≠ 0 ∧
    acceptFrame (advance net 9) 1 [] 3 = none ∧
    acceptFrame (advance net 9) 1 ef 3 = some (taken2 (advance net 9) 1 ef 3) ∧
    inGroup grp = true ∧
    dialSet grp = true ∧
    beatInSecond grp % 1000 = 0 ∧
    inGroup lapsing = false ∧
    grantStands lapsing = true ∧
    dialSet lapsing = true ∧
    beatInSecond lapsing % 1000 = 0 ∧
    (dialSet net = false ∨ beatInSecond net % 1000 ≠ 0 ∨ inGroup net = false ∧ grantStands net = false) ∧
    acceptFrame net 1 [] 2 = none ∧
    acceptFrame net 1 sf 2 = some (taken2 net 1 sf 2) ∧
    inGroup net = true ∧
    (frameHdr sf).src ≠ net.peer.address ∧
    otherGroup net (frameHdr sf).src = false ∧
    acceptFrame atEe4b 1 sf 2 = some (taken2 atEe4b 1 sf 2) ∧
    (inGroup atEe4b = false ∨ (frameHdr sf).src = atEe4b.peer.address ∨ otherGroup atEe4b (frameHdr sf).src = true) ∧
    inGroup grp2 = true ∧
    grp2.power.exchange + 500 ≤ batchNow grp2 ∧
    ((List.any grp2.power.slacks fun (k : Slack) => k.exchange == grp2.power.exchange && k.device == grp2.peer.address) = true) ∧
    inGroup laps2 = false ∧
    laps2.power.exchange + 500 ≤ batchNow laps2 ∧
    grantStands laps2 = true ∧
    (batchNow net < net.power.exchange + 500 ∨ inGroup net = false ∧ grantStands net = false ∨ inGroup net = true ∧ (List.any
      net.power.slacks fun (k : Slack) => k.exchange == net.power.exchange && k.device == net.peer.address) = false) ∧
    (1, 0, 50) ∈ groupGrants [] [slk 0 true (-5), slk 1 false 60] := by
  and_intros <;> decide

theorem test_premises_DistributionsFillTheLoadBuffers :
    pdOn State.reset 4 = false ∧
    pdOn (dst 3 65) 4 = true ∧
    (loadBuffer (dst 3 65) (rd (dst 3 65) PEER_DIST_CMD.SLOT) = none ∨ rdB (dst 3 65) PEER_DIST_CMD.BUSY = true ∨ ∃ (b : Nat),
      ∃ (n : Nat), loadBuffer (dst 3 65) (rd (dst 3 65) PEER_DIST_CMD.SLOT) = some (b, n) ∧ n < rd (dst 3 65)
      PEER_DIST_CMD.BYTES) ∧
    pdOn (dst 15 64) 4 = true ∧
    loadBuffer (dst 15 64) (rd (dst 15 64) PEER_DIST_CMD.SLOT) = some (65536, 64) ∧
    rd (dst 15 64) PEER_DIST_CMD.BYTES ≤ 64 ∧
    rdB (dst 15 64) PEER_DIST_CMD.BUSY = false ∧
    acceptFrame net 1 [] 32 = none ∧
    acceptFrame net 1 [] 33 = none ∧
    SlotsOk (reg net).slots ∧
    acceptFrame (reg net) 1 (df 2 32 false) 32 = some (D (reg net) (df 2 32 false)) ∧
    rxn 15 32 false [] = (rxOf (reg net) (frameHdr (df 2 32 false)) (beAt (framePayload (df 2 32 false)) 0 1 % 16) (beAt
      (framePayload (df 2 32 false)) 4 4)).snd ∧
    rxn 15 32 false [0] =
      { (rxn 15 32 false []) with got := (rxn 15 32 false []).got ++ [(frameHdr (df 2 32 false)).frag], since := (reg net).dial.now } ∧
    (bit (beAt (framePayload (df 2 32 false)) 8 8) (reg net).peer.address = false ∨ (frameHdr (df 2 32 false)).src = (reg
      net).peer.address) ∧
    acceptFrame (reg net) 1 (df 1 32 true) 32 = some (D (reg net) (df 1 32 true)) ∧
    rxn 15 32 false [] = (rxOf (reg net) (frameHdr (df 1 32 true)) (beAt (framePayload (df 1 32 true)) 0 1 % 16) (beAt
      (framePayload (df 1 32 true)) 4 4)).snd ∧
    rxn 15 32 false [0] =
      { (rxn 15 32 false []) with got := (rxn 15 32 false []).got ++ [(frameHdr (df 1 32 true)).frag], since := (reg net).dial.now } ∧
    bit (beAt (framePayload (df 1 32 true)) 8 8) (reg net).peer.address = true ∧
    (frameHdr (df 1 32 true)).src ≠ (reg net).peer.address ∧
    acceptFrame (reg net) 1 (df 1 32 false) 32 = some (D (reg net) (df 1 32 false)) ∧
    rxn 15 32 false [] = (rxOf (reg net) (frameHdr (df 1 32 false)) (beAt (framePayload (df 1 32 false)) 0 1 % 16) (beAt
      (framePayload (df 1 32 false)) 4 4)).snd ∧
    rxn 15 32 false [0] =
      { (rxn 15 32 false []) with got := (rxn 15 32 false []).got ++ [(frameHdr (df 1 32 false)).frag], since := (reg net).dial.now } ∧
    bit (beAt (framePayload (df 1 32 false)) 8 8) (reg net).peer.address = true ∧
    (frameHdr (df 1 32 false)).src ≠ (reg net).peer.address ∧
    acceptFrame (reg net) 1 (df 1 65 false) 32 = some (D (reg net) (df 1 65 false)) ∧
    rxn 15 65 true [] = (rxOf (reg net) (frameHdr (df 1 65 false)) (beAt (framePayload (df 1 65 false)) 0 1 % 16) (beAt
      (framePayload (df 1 65 false)) 4 4)).snd ∧
    rxn 15 65 true [0] =
      { (rxn 15 65 true []) with got := (rxn 15 65 true []).got ++ [(frameHdr (df 1 65 false)).frag], since := (reg net).dial.now } ∧
    bit (beAt (framePayload (df 1 65 false)) 8 8) (reg net).peer.address = true ∧
    (frameHdr (df 1 65 false)).src ≠ (reg net).peer.address ∧
    acceptFrame (reg net) 1 (df 1 65 true) 32 = some (D (reg net) (df 1 65 true)) ∧
    rxn 15 65 true [] = (rxOf (reg net) (frameHdr (df 1 65 true)) (beAt (framePayload (df 1 65 true)) 0 1 % 16) (beAt
      (framePayload (df 1 65 true)) 4 4)).snd ∧
    rxn 15 65 true [0] =
      { (rxn 15 65 true []) with got := (rxn 15 65 true []).got ++ [(frameHdr (df 1 65 true)).frag], since := (reg net).dial.now } ∧
    bit (beAt (framePayload (df 1 65 true)) 8 8) (reg net).peer.address = true ∧
    (frameHdr (df 1 65 true)).src ≠ (reg net).peer.address ∧
    acceptFrame (tx 6) 1 (df2 1) 33 = some (T (tx 6) (df2 1)) ∧
    (frameHdr (df2 1)).bcast = false ∧
    (frameHdr (df2 1)).dest = (tx 6).peer.address ∧
    (tx 6).peer.distTx = some (txn 6) ∧
    beAt (framePayload (df2 1)) 0 1 = (txn 6).slot ∧
    acceptFrame (tx 2) 1 (df2 2) 33 = some (T (tx 2) (df2 2)) ∧
    (frameHdr (df2 2)).bcast = false ∧
    (frameHdr (df2 2)).dest = (tx 2).peer.address ∧
    (tx 2).peer.distTx = some (txn 2) ∧
    beAt (framePayload (df2 2)) 0 1 = (txn 2).slot ∧
    acceptFrame net 1 (df2 2) 33 = some (T net (df2 2)) ∧
    ((frameHdr (df2 2)).dest ≠ net.peer.address ∨ ∀ (d : DistTx), net.peer.distTx = some d → beAt (framePayload (df2 2)) 0 1 ≠
      d.slot) ∧
    SlotsOk (rxs 10000000000).slots ∧
    rxn 15 40 false [0] ∈ (rxs 10000000000).peer.distRx ∧
    (rxn 15 40 false [0]).slot = 15 ∧
    timedOut (rxs 10000000000) (rxn 15 40 false [0]).since = true ∧
    SlotsOk (rxs 0).slots ∧
    (∀ (d : DistRx), d ∈ (rxs 0).peer.distRx → d.slot = 15 → timedOut (rxs 0) d.since = false) ∧
    (late (tx 6)).peer.distTx = some (txn 6) ∧
    (txn 6).mask < 2 ^ 64 ∧
    messageWaits (late (tx 6)) 32 (txn 6).message = false ∧
    timedOut (late (tx 6)) (txn 6).since = true ∧
    (∀ (d : DistTx), (tx 6).peer.distTx = some d → messageWaits (tx 6) 32 d.message = true ∨ timedOut (tx 6) d.since = false) ∧
    (∀ (d : DistTx), net.peer.distTx = some d → messageWaits net 32 d.message = true ∨ timedOut net d.since = false) := by
  and_intros
  all_goals first
    | decide
    | exact Or.inl (by decide)

theorem test_premises_SamplingRunsBeginAndEndAtABeat :
    (Instr.sampleStart, true) ∈ [(Instr.sampleStart, true), (Instr.sampleStop, false)] ∧
    observeOn lit = true ∧
    (Instr.sampleStop, false) ∈ [(Instr.sampleStart, true), (Instr.sampleStop, false)] ∧
    observeOn State.reset = false ∧
    (State.reset.observe.startReq = none ∨ 2 ≤ State.reset.sched.restart) ∧
    (runActive State.reset = false ∨ observeOn State.reset = false ∨ dialSet State.reset = false ∨ rd State.reset
      OBSERVE_SAMPLE_CTRL.INTERVAL_BEATS = 0 ∨ beatInSecond State.reset % rd State.reset OBSERVE_SAMPLE_CTRL.INTERVAL_BEATS ≠ 0
      ∨ State.reset.observe.snapBeat = some (batchNow State.reset)) ∧
    (State.reset.observe.snapshots = [] ∨ mayRun State.reset 5 0 = false) ∧
    (rb false).observe.startReq = some (false, 8) ∧
    (rb false).sched.restart < 2 ∧
    (advanceTo (rb false) 9 = if batchNow (rb false) ≤ 8 then advanceTo (rb false) (8 + 1) else rb false) ∧
    restartPrevails (advanceTo (rb false) 9) = false ∧
    rba.observe.startReq = some (false, 8) ∧
    rba.sched.restart < 2 ∧
    (advanceTo rba 9 = if batchNow rba ≤ 8 then advanceTo rba (8 + 1) else rba) ∧
    restartPrevails (advanceTo rba 9) = false ∧
    rbn.observe.startReq = some (true, 8) ∧
    rbn.sched.restart < 2 ∧
    (advanceTo rbn 9 = if batchNow rbn ≤ 8 then advanceTo rbn (8 + 1) else rbn) ∧
    restartPrevails (advanceTo rbn 9) = false ∧
    startRefused (advanceTo rbn 9) = true ∧
    observeOn (advanceTo rbn 9) = true ∧
    rbo.observe.startReq = some (true, 8) ∧
    rbo.sched.restart < 2 ∧
    (advanceTo rbo 9 = if batchNow rbo ≤ 8 then advanceTo rbo (8 + 1) else rbo) ∧
    restartPrevails (advanceTo rbo 9) = false ∧
    startRefused (advanceTo rbo 9) = true ∧
    observeOn (advanceTo rbo 9) = false ∧
    (rb true).observe.startReq = some (true, 8) ∧
    (rb true).sched.restart < 2 ∧
    (advanceTo (rb true) 9 = if batchNow (rb true) ≤ 8 then advanceTo (rb true) (8 + 1) else rb true) ∧
    restartPrevails (advanceTo (rb true) 9) = false ∧
    startRefused (advanceTo (rb true) 9) = false ∧
    rbr.observe.startReq = some (true, 999999) ∧
    rbr.sched.restart < 2 ∧
    (advanceTo rbr 1000000 = if batchNow rbr ≤ 999999 then advanceTo rbr (999999 + 1) else rbr) ∧
    restartPrevails (advanceTo rbr 1000000) = true ∧
    runActive (smp2 3) = true ∧
    observeOn (smp2 3) = true ∧
    dialSet (smp2 3) = true ∧
    rd (smp2 3) OBSERVE_SAMPLE_CTRL.INTERVAL_BEATS ≠ 0 ∧
    beatInSecond (smp2 3) % rd (smp2 3) OBSERVE_SAMPLE_CTRL.INTERVAL_BEATS = 0 ∧
    (smp2 3).observe.snapBeat ≠ some (batchNow (smp2 3)) ∧
    List.length (smp2 3).observe.snapshots < 4 ∧
    runActive (smp2 4) = true ∧
    observeOn (smp2 4) = true ∧
    dialSet (smp2 4) = true ∧
    rd (smp2 4) OBSERVE_SAMPLE_CTRL.INTERVAL_BEATS ≠ 0 ∧
    beatInSecond (smp2 4) % rd (smp2 4) OBSERVE_SAMPLE_CTRL.INTERVAL_BEATS = 0 ∧
    (smp2 4).observe.snapBeat ≠ some (batchNow (smp2 4)) ∧
    4 ≤ List.length (smp2 4).observe.snapshots ∧
    (smp2 1).observe.snapshots = [z 2048] ∧
    mayRun (smp2 1) 5 0 = true ∧
    (List.find? (fun (x : Region) => x.code == 10) (smp2 1).secure.regions = some rg10) ∧
    atSm9.observe.snapshots = [z 2048] ∧
    mayRun atSm9 5 0 = true ∧
    (List.find? (fun (x : Region) => x.code == 10) atSm9.secure.regions = none) := by
  and_intros <;> decide

theorem test_premises_TraceRecordsAndHangsAreKept :
    observeOn atTr1 = true ∧
    bit (BitVec.toNat w7) 63 = true ∧
    rdB atTr1 OBSERVE_TRACE_CTRL.ENABLE = false ∧
    traceAllowed atTr1 = true ∧
    observeOn lit = true ∧
    rdB lit OBSERVE_TRACE_CTRL.ENABLE = false ∧
    traceAllowed lit = false ∧
    (bit (BitVec.toNat (5 : Word)) 63 = false ∨ rdB lit OBSERVE_TRACE_CTRL.ENABLE = true) ∧
    observeOn State.reset = false ∧
    (List.find? (fun (x : Region) => x.code == 9) busy.secure.regions = none ∨ List.length busy.observe.trace < 128 ∨ rdB busy
      OBSERVE_TRACE_STATUS.STOPPED = true ∨ mayRun busy 6 0 = false) ∧
    (List.find? (fun (x : Region) => x.code == 9) (trc 0).secure.regions = some rg9) ∧
    128 ≤ List.length (trc 0).observe.trace ∧
    rdB (trc 0) OBSERVE_TRACE_STATUS.STOPPED = false ∧
    mayRun (trc 0) 6 0 = true ∧
    0 = rd (trc 0) OBSERVE_TRACE_STATUS.OFFSET ∧
    rg9.size ≤ 2 ^ 39 ∧
    0 + 8192 ≤ rg9.size ∧
    (List.find? (fun (x : Region) => x.code == 9) (trc 61440).secure.regions = some rg9) ∧
    128 ≤ List.length (trc 61440).observe.trace ∧
    rdB (trc 61440) OBSERVE_TRACE_STATUS.STOPPED = false ∧
    mayRun (trc 61440) 6 0 = true ∧
    61440 = rd (trc 61440) OBSERVE_TRACE_STATUS.OFFSET ∧
    rg9.size < 61440 + 8192 ∧
    rdB (trc 61440) OBSERVE_TRACE_CTRL.MODE = false ∧
    (List.find? (fun (x : Region) => x.code == 9) atTr3c.secure.regions = some rg9) ∧
    128 ≤ List.length atTr3c.observe.trace ∧
    rdB atTr3c OBSERVE_TRACE_STATUS.STOPPED = false ∧
    mayRun atTr3c 6 0 = true ∧
    61440 = rd atTr3c OBSERVE_TRACE_STATUS.OFFSET ∧
    rdB atTr3c OBSERVE_TRACE_CTRL.MODE = true ∧
    observeOn atTr4 = true ∧
    rdB atTr4 OBSERVE_TRACE_CTRL.ENABLE = true ∧
    bit (rd atTr4 OBSERVE_TRACE_CTRL.CLASSES) 8 = true ∧
    atTr4.observe.lostSince = 0 ∧
    List.length atTr4.observe.trace < 2048 ∧
    observeOn trf = true ∧
    rdB trf OBSERVE_TRACE_CTRL.ENABLE = true ∧
    bit (rd trf OBSERVE_TRACE_CTRL.CLASSES) 8 = true ∧
    2048 ≤ List.length trf.observe.trace ∧
    (rdB lit OBSERVE_TRACE_CTRL.ENABLE = false ∨ bit (rd lit OBSERVE_TRACE_CTRL.CLASSES) 8 = false) ∧
    observeOn hg = true ∧
    hangCondition hg 3 7 = true ∧
    (∀ (h : Nat × Nat × Nat), h ∈ (settleHangs hg).observe.hangs → h.fst = 3 → h.snd.fst ≠ 7) ∧
    observeOn atTr6b = true ∧
    hangCondition atTr6b 3 7 = true ∧
    (∀ (h : Nat × Nat × Nat), h ∈ (settleHangs atTr6b).observe.hangs → h.fst = 3 → h.snd.fst ≠ 7) ∧
    (observeOn lit = false ∨ hangCondition lit 3 7 = false ∨ ∃ (h : Nat × Nat × Nat), h ∈ (settleHangs lit).observe.hangs ∧
      h.fst = 3 ∧ h.snd.fst = 7) ∧
    0 = rd hg OBSERVE_HANG_CFG.HANG_BEATS ∧
    5 = rd hg OBSERVE_HANG_CFG.JOB_HANG_MS ∧
    100 = rd hgQ OBSERVE_HANG_CFG.HANG_BEATS ∧
    0 = rd hgQ OBSERVE_HANG_CFG.JOB_HANG_MS ∧
    (advance atTr8 50).observe.dumpOpen = true ∧
    (advance lit 50).observe.dumpOpen = false := by
  and_intros <;> decide

theorem test_premises_LogbookRecordsFallDueAndAreWritten :
    atLo1.log.intervalLeft = 0 ∧
    atLo1b.log.intervalLeft ≠ 0 ∧
    (lit.log.due = false ∨ lit.log.sectors < 2) ∧
    (lg (Lfail 0 true)).log.due = true ∧
    2 ≤ (lg (Lfail 0 true)).log.sectors ∧
    (false || true) = true ∧
    (lg (Lfail 1 false)).log.due = true ∧
    2 ≤ (lg (Lfail 1 false)).log.sectors ∧
    (true || false) = true ∧
    (lg Ldue).log.due = true ∧
    2 ≤ (lg Ldue).log.sectors := by
  and_intros <;> decide

theorem test_premises_BoardAndTestPinsAnswer :
    pg.secure.powerGood = true ∧
    atBo2b.secure.powerGood = false ∧
    (Instr.extestTrain, 5) ∈ [(Instr.extest, 3), (Instr.extestPulse, 4), (Instr.extestTrain, 5)] ∧
    atBo4.pins.resetN = false ∧
    (Instr.extest, 3) ∈ [(Instr.extest, 3), (Instr.extestPulse, 4), (Instr.extestTrain, 5)] ∧
    atBo5.pins.resetN = true := by
  and_intros <;> decide

theorem test_premises_RegisterWritesAreTheirCommands :
    (goodAddress 4 = false ∨ blockOn lit 4 = false) ∧
    blockOn busy 458776 = true ∧
    (Instr.stage 15, 1) ∈ [(Instr.stage 15, 1), (Instr.slotDiscard 15, 2), (Instr.activate 15, 3), (Instr.rollback 15, 4),
      (Instr.release 15, 5), (Instr.adaptStart 15, 6), (Instr.adaptStop 15, 7), (Instr.promote 15, 8)] ∧
    (Instr.promote 3, 8) ∈ [(Instr.stage 3, 1), (Instr.slotDiscard 3, 2), (Instr.activate 3, 3), (Instr.rollback 3, 4),
      (Instr.release 3, 5), (Instr.adaptStart 3, 6), (Instr.adaptStop 3, 7), (Instr.promote 3, 8)] ∧
    5 * 2 ^ 14 < 16777216 ∧
    9 * 2 ^ 14 < 16777216 ∧
    blockOn busy 397328 = true ∧
    (Instr.qBound 15 255 true (5 * 2 ^ 14) (9 * 2 ^ 14), 2) ∈ [(Instr.qRelease 15 255 true (5 * 2 ^ 14) (9 * 2 ^ 14), 0),
      (Instr.qPin 15 255 true (5 * 2 ^ 14) (9 * 2 ^ 14), 1), (Instr.qBound 15 255 true (5 * 2 ^ 14) (9 * 2 ^ 14), 2)] ∧
    blockOn busy 589936 = true ∧
    blockOn busy 852016 = true ∧
    blockOn busy 852040 = true ∧
    blockOn busy 524288 = true ∧
    blockOn busy 524312 = true ∧
    CROWN_IPV4.ADDRESS.addr ∈ netRegs ∧
    blockOn busy 8 = true ∧
    pdOn busy 5 = true ∧
    bit (BitVec.toNat (1 : Word)) 0 = true ∧
    bit (BitVec.toNat (1 : Word)) 1 = false ∧
    bit (BitVec.toNat (1 : Word)) 63 = false ∧
    bit (BitVec.toNat (2 : Word)) 0 = false ∧
    bit (BitVec.toNat (2 : Word)) 1 = true ∧
    bit (BitVec.toNat (2 : Word)) 63 = false ∧
    bit (BitVec.toNat (2 ^ 63 : Word)) 0 = bit (BitVec.toNat (2 ^ 63 : Word)) 1 ∧
    bit (BitVec.toNat (2 ^ 63 : Word)) 63 = true ∧
    true = bit (BitVec.toNat flS) TABLE_REBUILD.FLOW_START.lsb ∧
    false = bit (BitVec.toNat flS) TABLE_REBUILD.EP_START.lsb ∧
    false = bit (BitVec.toNat epS) TABLE_REBUILD.FLOW_START.lsb ∧
    true = bit (BitVec.toNat epS) TABLE_REBUILD.EP_START.lsb ∧
    true = bit (BitVec.toNat (flS + epS)) TABLE_REBUILD.FLOW_START.lsb ∧
    true = bit (BitVec.toNat (flS + epS)) TABLE_REBUILD.EP_START.lsb ∧
    false = bit (BitVec.toNat (0 : Word)) TABLE_REBUILD.FLOW_START.lsb ∧
    false = bit (BitVec.toNat (0 : Word)) TABLE_REBUILD.EP_START.lsb ∧
    blockOn busy 397344 = true ∧
    BitVec.toNat selW / 2 ^ ARRAY_Q_SELECT.SLOT.lsb % 16 = 15 ∧
    BitVec.toNat selW / 2 ^ ARRAY_Q_SELECT.TENSOR.lsb % 256 = 255 ∧
    pdOn busy 4 = true ∧
    observeOn busy = true ∧
    (some (true, 8) = if bit (BitVec.toNat (2 ^ 63 + 100 : Word)) 63 = true then some (true, batchNow busy) else if bit
      (BitVec.toNat (2 ^ 63 + 100 : Word)) 62 = true then some (false, batchNow busy) else busy.observe.startReq) ∧
    (some (false, 8) = if bit (BitVec.toNat (2 ^ 62 : Word)) 63 = true then some (true, batchNow busy) else if bit
      (BitVec.toNat (2 ^ 62 : Word)) 62 = true then some (false, batchNow busy) else busy.observe.startReq) ∧
    (none = if bit (BitVec.toNat (5 : Word)) 63 = true then some (true, batchNow busy) else if bit (BitVec.toNat (5 : Word)) 62
      = true then some (false, batchNow busy) else busy.observe.startReq) ∧
    pdOn busy 1 = true ∧
    197872 % 16 = 0 ∧
    pdOn busy (portDomain 7) = true ∧
    wrote busy 7 (en 7) = writeFields busy (131328 + 64 * 7) (BitVec.toNat (en 7)) ∧
    true = rdB (wrote busy 7 (en 7)) (HEADPORT_PORT_CFG.ENABLE 7) ∧
    rdB busy (HEADPORT_PORT_CFG.ENABLE 7) = true ∧
    pdOn off7 (portDomain 7) = true ∧
    wrote off7 7 (en 7) = writeFields off7 (131328 + 64 * 7) (BitVec.toNat (en 7)) ∧
    true = rdB (wrote off7 7 (en 7)) (HEADPORT_PORT_CFG.ENABLE 7) ∧
    rdB off7 (HEADPORT_PORT_CFG.ENABLE 7) = false ∧
    pdOn port (portDomain 0) = true ∧
    wrote port 0 0 = writeFields port (131328 + 64 * 0) (BitVec.toNat (0 : Word)) ∧
    false = rdB (wrote port 0 0) (HEADPORT_PORT_CFG.ENABLE 0) ∧
    rdB port (HEADPORT_PORT_CFG.ENABLE 0) = true ∧
    wrote port 0 (en 0) = writeFields port (131328 + 64 * 0) (BitVec.toNat (en 0)) ∧
    true = rdB (wrote port 0 (en 0)) (HEADPORT_PORT_CFG.ENABLE 0) ∧
    goodAddress 16 = true ∧
    blockOn busy 16 = true ∧
    inDescriptors 16 = false ∧
    List.contains netRegs 16 = false ∧
    (¬(196864 ≤ 16 ∧ 16 < 197888 ∧ 16 % 16 = 0)) ∧
    (¬(131328 ≤ 16 ∧ 16 < 131840 ∧ 16 % 64 = 0)) ∧
    ¬16 ∈ [8, 196632, 262192, 327712, 397328, 397344, 458776, 589912, 589936, 524288, 524312, 655360, 786488, 851992, 852016,
      852040, 917504] := by
  and_intros <;> decide

theorem test_premises_WritesFollowTheAccessCodes :
    CROWN_MAC.ADDRESS ∈ fieldsAt CROWN_MAC.ADDRESS.addr ∧
    CROWN_MAC.ADDRESS.access = Access.rwl ∧
    QUEUE_EVENTS.FLUSH_DONE ∈ fieldsAt QUEUE_EVENTS.FLUSH_DONE.addr ∧
    QUEUE_EVENTS.FLUSH_DONE.access = Access.w1c ∧
    0 < QUEUE_EVENTS.FLUSH_DONE.width ∧
    FRONT_RULE_CTRL.COMMIT ∈ fieldsAt FRONT_RULE_CTRL.COMMIT.addr ∧
    FRONT_RULE_CTRL.COMMIT.access = Access.w1s ∧
    0 < FRONT_RULE_CTRL.COMMIT.width ∧
    QUEUE_EVENT_NOTIFY.MASK ∈ fieldsAt QUEUE_EVENT_NOTIFY.MASK.addr ∧
    QUEUE_EVENT_NOTIFY.MASK.access = Access.rw ∧
    DIAL_STATUS.SET ∈ fieldsAt DIAL_STATUS.SET.addr ∧
    DIAL_STATUS.SET.access = Access.ro ∧
    goodAddress (beAt (natBe 8 CROWN_MAC.ADDRESS.addr ++ natBe 8 5) 0 8) = true ∧
    CROWN_MAC.ADDRESS ∈ fieldsAt (beAt (natBe 8 CROWN_MAC.ADDRESS.addr ++ natBe 8 5) 0 8) ∧
    blockLocked atWf6 (blockOf (beAt (natBe 8 CROWN_MAC.ADDRESS.addr ++ natBe 8 5) 0 8)) = true := by
  and_intros <;> decide

/-- Premises of the invariant's statement: a state that meets the invariant and steps. -/
theorem test_premises_EveryStepKeepsTheInvariant :
    Inv { lit with pending := [.bypass] } ∧ ∃ t, step { lit with pending := [.bypass] } = .next t := by
  refine ⟨⟨?_, ?_, ?_, ?_, ?_, ?_, ?_, ?_, ?_, ?_, ?_⟩, _, rfl⟩
  · exact (by decide : Map.sorted lit.regs = true)
  · exact (rfl : Mem.wf lit.sched.spare = true)
  · exact (rfl : lit.ports.length = 8)
  · exact (by decide : lit.pipe.flights.length ≤ 2048)
  · exact (rfl : lit.slots.length = 16)
  · exact (by decide : lit.tally.ring.length ≤ 64)
  · exact (by decide : lit.crown.retired.length ≤ 4096)
  · exact (by decide : lit.peer.links.length = 4 ∧ lit.peer.buffers.length ≤ 16)
  · exact ⟨rfl, (by decide : lit.observe.trace.length ≤ 2048), (by decide : lit.observe.snapshots.length ≤ 4)⟩
  · exact (by decide : lit.log.tripLog.length ≤ 8)
  · exact (rfl : Mem.wf lit.hbm = true)
/-- A device whose load buffer of slot 15 holds an image that is being staged. -/
def ready (b : Bytes) : State :=
  { sl { S0 with staging := 1, image := true, imageLen := b.length } with
    secure.regions := [⟨6, 15, 0, 65536, 2 ^ 30⟩], hbm := Mem.writeBytes [] 65536 b }

/-- The premises of a staged generation that do not rest on the signature of the image: it verifies under a key that Config leaves open,
and its check under FIPS 205 is some thousands of
SHA-256 computations, too long for the kernel. -/
theorem test_premises_staged_generation :
    SlotsOk (ready [1, 2, 3]).slots ∧ (getSlot (ready [1, 2, 3]) 15).staging = 1 ∧
    loadImage (ready [1, 2, 3]) 15 = some [1, 2, 3] := by decide

/-- The first free index of a table whose indices below n are taken is n. -/
theorem lowestFree_range (k i : Nat) : lowestFree (k + 1) i (List.range (i + k)) = i + k := by
  induction k generalizing i with
  | zero => simp [lowestFree]
  | succ k ih =>
    have h := ih (i + 1)
    rw [Nat.add_right_comm, Nat.add_assoc] at h
    rw [lowestFree, if_pos (by simp), h]

/-- The device of `cmp` with these indices of the endpoint table taken. -/
def takenOf (l : List Nat) : State := { cmp [] false with endpoint.free := some l }

/-- The premises of an INSERT into that table, but for how many indices are taken. -/
theorem insert_premises (l : List Nat) :
    nextOp (takenOf l) 7 0x01 = some (job [tab 3 (z 64)] [], tab 3 (z 64)) ∧ tableOn (takenOf l) 1 = true ∧
    unitAllowed (takenOf l) 4 = true ∧ dmaWaits (takenOf l) 1 3 (refOf 1 (tab 3 (z 64))).1 (refOf 1 (tab 3 (z 64))).2 = false ∧
    dmaBad (takenOf l) 1 3 (refOf 1 (tab 3 (z 64))).1 0 = false ∧ rebuilding (takenOf l) 1 = false ∧ compat (takenOf l) 1 = true ∧
    findKey 1 (getT (takenOf l) 1) (insertKey 1 (refOf 1 (tab 3 (z 64))).1 (refOf 1 (tab 3 (z 64))).2) = none ∧
    (getT (takenOf l) 1).stash = [] ∧ (getT (takenOf l) 1).free = some l := by
  have hr : (takenOf l).regs = (cmp [] false).regs := rfl
  have hp (d : Nat) : pdOn (takenOf l) d = pdOn (cmp [] false) d := by simp only [pdOn, rdB, rd, hr]
  have hc : compat (takenOf l) 1 = true := by
    have : compat (cmp [] false) 1 = true := by decide
    simpa only [compat, rdB, rd, hr] using this
  have hu : catchingUp (takenOf l) = false := by
    have : catchingUp (cmp [] false) = false := by decide
    simpa only [catchingUp, rdB, rd, hr] using this
  have hk : findKey 1 (getT (takenOf l) 1) (insertKey 1 (refOf 1 (tab 3 (z 64))).1 (refOf 1 (tab 3 (z 64))).2) = none := rfl
  refine ⟨rfl, ?_, rfl, ?_, ?_, rfl, hc, hk, rfl, rfl⟩
  · simp only [tableOn, hubOn, hbmOn, hp]; decide
  · simp [dmaWaits, hu, insertIndex, hc, hk, show (getT (takenOf l) 1).revBeat = [] from rfl,
      show (getT (takenOf l) 1).insertedBeat = 0 from rfl]
  · simp [dmaBad, refOf, tableRef, hc, tab]; decide

/-- The premises of an INSERT that finds no free record: those above, and the whole of the table is taken. -/
theorem test_premises_full_table : ∃ l : List Nat, tableSize 1 ≤ lowestFree (l.length + 1) 0 l := by
  have := lowestFree_range 65536 0
  rw [Nat.zero_add] at this
  exact ⟨List.range 65536, by rw [List.length_range, this]; decide⟩

end Sys2Proof.Tests
end

section
/-! PROOF. A software write treats each field by its access code (R15): what a write of one field does to that field and to the
others, the fields of a register apart from one another, and so each field of a whole register. -/

namespace Sys2Proof.Machine

/-! ## The write of one field (R15) -/

/-- Clearing in `x` the bits that `v` shares with it leaves the bits of `x` that `v` does not have. -/
theorem testBit_sub_and (x v i : Nat) : (x - (x &&& v)).testBit i = (x.testBit i && !v.testBit i) := by
  have hodd (x v : Nat) : (x &&& v) % 2 = 1 ↔ x % 2 = 1 ∧ v % 2 = 1 := Nat.and_mod_two_eq_one
  have hle (x v : Nat) : x &&& v ≤ x := Nat.and_le_left
  induction i generalizing x v with
  | zero =>
    have : (x - (x &&& v)) % 2 = 1 ↔ x % 2 = 1 ∧ ¬v % 2 = 1 := by
      specialize hodd x v
      specialize hle x v
      omega
    simp only [Nat.testBit_zero, this, Bool.decide_and, decide_not]
  | succ i ih =>
    have hhalf : (x &&& v) / 2 = x / 2 &&& v / 2 := Nat.and_div_two
    have : (x - (x &&& v)) / 2 = x / 2 - (x / 2 &&& v / 2) := by
      specialize hodd x v
      specialize hle x v
      omega
    rw [Nat.testBit_succ, this, ih, Nat.testBit_succ, Nat.testBit_succ]

theorem writeField_ro {f : Field} (h : f.access = .ro) (locked : Bool) (v : Nat) (s : State) : writeField locked v s f = s := by
  simp [writeField, h]

theorem rd_writeField_rw {f : Field} (h : f.access = .rw) (locked : Bool) (v : Nat) (s : State) :
    rd (writeField locked v s f) f = v / 2 ^ f.lsb % 2 ^ f.width := by
  simp [writeField, h, rd_wr]

theorem testBit_rd_writeField_w1c {f : Field} (h : f.access = .w1c) (locked : Bool) (v : Nat) (s : State) {i : Nat}
    (hi : i < f.width) :
    (rd (writeField locked v s f) f).testBit i = ((rd s f).testBit i && !v.testBit (f.lsb + i)) := by
  simp [writeField, h, rd_wr, testBit_sub_and, Nat.testBit_mod_two_pow, Nat.testBit_div_two_pow, hi, Nat.add_comm]

theorem testBit_rd_writeField_w1s {f : Field} (h : f.access = .w1s) (locked : Bool) (v : Nat) (s : State) {i : Nat}
    (hi : i < f.width) :
    (rd (writeField locked v s f) f).testBit i = ((rd s f).testBit i || v.testBit (f.lsb + i)) := by
  simp [writeField, h, rd_wr, Nat.testBit_mod_two_pow, Nat.testBit_div_two_pow, hi, Nat.add_comm]

theorem rd_writeField_rwl {f : Field} (h : f.access = .rwl) (locked : Bool) (v : Nat) (s : State) :
    rd (writeField locked v s f) f = if locked then rd s f else v / 2 ^ f.lsb % 2 ^ f.width := by
  cases locked <;> simp [writeField, h, rd_wr]

/-- The write of a field leaves every field under another key. -/
theorem rd_writeField_ne (locked : Bool) (v : Nat) (s : State) {f g : Field} (h : g.key ≠ f.key) :
    rd (writeField locked v s f) g = rd s g := by
  cases ha : f.access with
  | ro => rw [writeField_ro ha]
  | rwl => cases locked <;> simp [writeField, ha, rd_wr_ne, h]
  | rw | w1c | w1s => simp [writeField, ha, rd_wr_ne, h]

/-- What a written field takes depends on no other field of the state. -/
theorem rd_writeField_congr (locked : Bool) (v : Nat) {s t : State} {f : Field} (h : rd s f = rd t f) :
    rd (writeField locked v s f) f = rd (writeField locked v t f) f := by
  cases ha : f.access with
  | ro => rwa [writeField_ro ha, writeField_ro ha]
  | rwl => rw [rd_writeField_rwl ha, rd_writeField_rwl ha, h]
  | rw | w1c | w1s => simp only [writeField, ha, rd_wr, h]

/-! ## The fields of a register are apart (R14) -/

/-- Distinct bit positions within one 64-bit register. -/
abbrev BitsApart (lsbs : List Nat) : Prop := lsbs.Nodup ∧ ∀ l ∈ lsbs, l < 64

/-- The register has its fields apart at every index of its array. -/
def RegDef.FieldsApart (r : RegDef) : Prop := ∀ i, BitsApart ((r.fields i).map Field.lsb)

/-- The fields of an array of registers stand at the same bits at every index, so index 0 tells for all. -/
theorem fieldsApart_of_index_zero {rs : List RegDef}
    (hsame : rs.map (fun r i => (r.fields i).map Field.lsb) = rs.map fun r _ => (r.fields 0).map Field.lsb)
    (hzero : ∀ r ∈ rs, BitsApart ((r.fields 0).map Field.lsb)) : ∀ r ∈ rs, r.FieldsApart := by
  intro r hr i
  have h : (r.fields i).map Field.lsb = (r.fields 0).map Field.lsb := congrFun (List.map_inj_left.1 hsame r hr) i
  exact h ▸ hzero r hr

/-- Every register of the control space has its fields apart. The table is checked part by part. -/
theorem registers_fieldsApart : ∀ r ∈ registers, r.FieldsApart := by
  have h0 : ∀ r ∈ registers0, r.FieldsApart := fieldsApart_of_index_zero rfl (by decide)
  have h1 : ∀ r ∈ registers1, r.FieldsApart := fieldsApart_of_index_zero rfl (by decide)
  have h2 : ∀ r ∈ registers2, r.FieldsApart := fieldsApart_of_index_zero rfl (by decide)
  have h3 : ∀ r ∈ registers3, r.FieldsApart := fieldsApart_of_index_zero rfl (by decide)
  have h4 : ∀ r ∈ registers4, r.FieldsApart := fieldsApart_of_index_zero rfl (by decide)
  have h5 : ∀ r ∈ registers5, r.FieldsApart := fieldsApart_of_index_zero rfl (by decide)
  simp only [registers, List.forall_mem_append]
  exact ⟨⟨⟨⟨⟨h0, h1⟩, h2⟩, h3⟩, h4⟩, h5⟩

/-- Fields at distinct bits have distinct keys: the bit is the key modulo 64. -/
theorem nodup_map_key {l : List Field} (h : BitsApart (l.map Field.lsb)) : (l.map Field.key).Nodup := by
  obtain ⟨hnodup, hlt⟩ := h
  rw [List.Nodup, List.pairwise_map] at hnodup ⊢
  refine hnodup.imp_of_mem fun {f g} hf hg hne hkey => hne ?_
  have hf : f.lsb < 64 := hlt _ (List.mem_map_of_mem hf)
  have hg : g.lsb < 64 := hlt _ (List.mem_map_of_mem hg)
  rw [Field.key, Field.key] at hkey
  omega

theorem mem_registers_of_findReg {a : Nat} {r : RegDef} {i : Nat} (h : findReg a = some (r, i)) : r ∈ registers := by
  obtain ⟨r', hfind, hr⟩ := Option.map_eq_some_iff.1 h
  obtain ⟨rfl, -⟩ := Prod.mk.inj hr
  exact List.mem_of_find?_eq_some hfind

theorem fieldsAt_nodup_key (a : Nat) : ((fieldsAt a).map Field.key).Nodup := by
  unfold fieldsAt
  split
  · next r i h => exact nodup_map_key (registers_fieldsApart r (mem_registers_of_findReg h) i)
  · exact List.nodup_nil

/-! ## The write of a whole register (R15) -/

theorem rd_foldl_writeField_of_notMem (locked : Bool) (v : Nat) {l : List Field} {f : Field} (h : f.key ∉ l.map Field.key)
    (s : State) : rd (l.foldl (writeField locked v) s) f = rd s f := by
  induction l generalizing s with
  | nil => rfl
  | cons g l ih =>
    rw [List.map_cons, List.mem_cons, not_or] at h
    obtain ⟨hne, hl⟩ := h
    rw [List.foldl_cons, ih hl, rd_writeField_ne locked v s hne]

/-- Fields under distinct keys, written one after the other: each takes what its own write gives it. -/
theorem rd_foldl_writeField (locked : Bool) (v : Nat) {l : List Field} {f : Field} (hl : (l.map Field.key).Nodup) (hf : f ∈ l)
    (s : State) : rd (l.foldl (writeField locked v) s) f = rd (writeField locked v s f) f := by
  induction l generalizing s with
  | nil => cases hf
  | cons g l ih =>
    rw [List.map_cons, List.nodup_cons] at hl
    obtain ⟨hg, hl⟩ := hl
    rw [List.foldl_cons]
    rcases List.mem_cons.1 hf with rfl | hf
    · exact rd_foldl_writeField_of_notMem locked v hg _
    · have hne : f.key ≠ g.key := fun e => hg (e ▸ List.mem_map_of_mem hf)
      rw [ih hl hf, rd_writeField_congr locked v (rd_writeField_ne locked v s hne)]

/-- A register write gives each field of the register what the write of that field alone gives it. -/
theorem rd_writeFields (s : State) (v : Nat) {a : Nat} {f : Field} (hf : f ∈ fieldsAt a) :
    rd (writeFields s a v) f = rd (writeField (blockLocked s (blockOf a)) v s f) f :=
  rd_foldl_writeField _ v (fieldsAt_nodup_key a) hf s

theorem lockedWrite_of_rwl {s : State} {a : Nat} {f : Field} (hf : f ∈ fieldsAt a) (h : f.access = .rwl)
    (hl : blockLocked s (blockOf a) = true) : lockedWrite s a = true := by
  have : (fieldsAt a).any (fun f => f.access == .rwl) = true := List.any_eq_true.2 ⟨f, hf, by rw [h]; rfl⟩
  rw [lockedWrite, hl, this, Bool.and_self]

theorem writePairs_status_of_lockedWrite (p : Bytes) (rest : List Bytes) (s : State) (k : Nat)
    (hgood : goodAddress (beAt p 0 8) = true) (hl : lockedWrite s (beAt p 0 8) = true) :
    (writePairs (p :: rest) s k).2.2 = 5 := by
  simp [writePairs, hgood, hl]

end Sys2Proof.Machine

namespace Sys2Proof.Proofs

open Sys2Proof.Machine

/-- Settles O7: the fields of a register have distinct keys, so each takes what its own write gives it, and a pair that meets
LOCK ends the REG_WRITE with status 5. -/
theorem writesFollowTheAccessCodes : Obligations.WritesFollowTheAccessCodes := by
  unfold Obligations.WritesFollowTheAccessCodes
  refine ⟨fun s a v f hf => ?_, fun s p rest k f hgood hf hrwl hl => ?_⟩
  · rw [rd_writeFields s v hf]
    exact ⟨fun h => by rw [writeField_ro h], fun h => rd_writeField_rw h _ v s, fun h i hi => testBit_rd_writeField_w1c h _ v s hi,
      fun h i hi => testBit_rd_writeField_w1s h _ v s hi, fun h => rd_writeField_rwl h _ v s⟩
  · exact writePairs_status_of_lockedWrite p rest s k hgood (lockedWrite_of_rwl hf hrwl hl)

end Sys2Proof.Proofs
end

section
/-! PROOF. The bound of a holdover (R61): each of the two commands sets its flag, and beside the dial only what a notice may touch
changes. The rules on frames, on the dial's part and on its state code serve any event that the dial raises. -/

namespace Sys2Proof.Machine

/-! ## Frames in sequence -/

/-- Frames compose: what changes over two steps is what changes over either. -/
theorem OnlyChanges.append {F G : List Part} {fs gs : List Field} {s t u : State} (h : OnlyChanges F fs s t)
    (k : OnlyChanges G gs t u) : OnlyChanges (F ++ G) (fs ++ gs) s u := by
  obtain ⟨hparts, hregs⟩ := h
  obtain ⟨kparts, kregs⟩ := k
  constructor
  · intro p hp
    simp only [List.contains_cons, List.contains_append, Bool.or_eq_false_iff] at hp
    obtain ⟨hr, hF, hG⟩ := hp
    exact Part.same_trans (hparts p (by rw [List.contains_cons, hr, hF]; rfl)) (kparts p (by rw [List.contains_cons, hr, hG]; rfl))
  · exact (hregs.mono fun _ hf => List.mem_append_left gs hf).trans (kregs.mono fun _ hf => List.mem_append_right fs hf)

/-- An event raised after other changes adds the notice's parts and fields to their frame. -/
theorem OnlyChanges.then_raise {F : List Part} {fs : List Field} {s t : State} (h : OnlyChanges F fs s t) (f : Field) (arg : Nat) :
    OnlyChanges (F ++ noticeParts) (fs ++ f :: noticeFields) s (raise t f arg) :=
  h.append (raise_onlyChanges t f arg)

/-- A replaced dial changes the dial and no register field. -/
theorem set_dial_onlyChanges (s : State) (d : DialSt) : OnlyChanges [.dial] [] s { s with dial := d } :=
  ⟨(Acts.set_dial (F := [.regs, .dial]) (Acts.refl _ s) rfl).same, RegsKept.of_regs _ rfl⟩

/-! ## The state code of the dial (R55) -/

@[simp] theorem setDialState_dial (st : Nat) (s : State) :
    (setDialState s st).dial = { s.dial with highest := max s.dial.highest st } := rfl

/-- The dial is in the state it entered. -/
theorem dialState_setDialState (s : State) {st : Nat} (h : st < 8) : dialState (setDialState s st) = st :=
  (rd_wr s DIAL_STATUS.STATE st).trans (Nat.mod_eq_of_lt h)

theorem setDialState_onlyChanges (s : State) (st : Nat) :
    OnlyChanges [.dial] [DIAL_STATUS.STATE] s (setDialState s st) :=
  ⟨(setDialState_acts (F := [.regs, .dial]) st (Acts.refl _ s) rfl).same, wr_regsKept s DIAL_STATUS.STATE st⟩

/-- An event's flag stands outside DIAL_STATUS, so raising it leaves the state code. -/
theorem dialState_raise (s : State) (f : Field) (arg : Nat) (h : f.key ≠ DIAL_STATUS.STATE.key) :
    dialState (raise s f arg) = dialState s := by
  have hn : ∀ g ∈ noticeFields, g.key ≠ DIAL_STATUS.STATE.key := by decide
  exact raise_regs s f arg DIAL_STATUS.STATE (List.forall_mem_cons.mpr ⟨h, hn⟩)

/-! ## The two commands (R61) -/

theorem exec_holdoverWarn_of_bound {s : State} {dt : Nat} (held : inHoldover (advance s dt) = true)
    (first : (advance s dt).dial.warned = false)
    (past : rd (advance s dt) DIAL_HOLDOVER_CFG.WARN_NS * 1000000000 < boundScaled (advance s dt)) :
    exec (.holdoverWarn dt) s =
      .next (raise { advance s dt with dial.warned := true } DIAL_EVENTS.HOLDOVER_WARN 0) :=
  if_pos (by simp [held, first, past])

theorem exec_holdoverExpired_of_bound {s : State} {dt : Nat} (held : dialState (advance s dt) = 3)
    (past : rd (advance s dt) DIAL_HOLDOVER_CFG.LIMIT_NS * 1000000000 < boundScaled (advance s dt)) :
    exec (.holdoverExpired dt) s = .next (raise (setDialState (advance s dt) 4) DIAL_EVENTS.HOLDOVER_EXPIRED 0) :=
  if_pos (by simp [held, past])

end Sys2Proof.Machine

namespace Sys2Proof.Proofs

open Sys2Proof.Machine

/-- Settles O12: past its limit each command changes the dial, by `warned` or by the state EXPIRED, and raises its event, whose
frame holds neither admission nor the schedule. -/
theorem holdoverBoundRaisesFlags : Obligations.HoldoverBoundRaisesFlags := by
  unfold Obligations.HoldoverBoundRaisesFlags
  refine ⟨fun s dt held first past => ?warn, fun s dt held past => ?expired⟩
  case warn =>
    refine ⟨_, exec_holdoverWarn_of_bound held first past, ⟨?flag, ?dial⟩, ?frame⟩
    case flag => exact raise_sets _ _ _ rfl (by decide) (.inl (by decide))
    case dial => rw [raise_dial]
    case frame => exact (set_dial_onlyChanges _ _).then_raise _ _
  case expired =>
    refine ⟨_, exec_holdoverExpired_of_bound held past, ⟨?flag, ?state, ?dial⟩, ?frame⟩
    case flag => exact raise_sets _ _ _ rfl (by decide) (.inl (by decide))
    case state => rw [dialState_raise _ _ _ (by decide), dialState_setDialState _ (by decide)]
    case dial => rw [raise_dial, setDialState_dial]
    case frame => exact (setDialState_onlyChanges _ _).then_raise _ _

end Sys2Proof.Proofs
end

section
/-! PROOF. The bands of a queue (R191, R193, R194): a band's occupancy counts the places from its read pointer to its write pointer, so
an item pushed stands last of the band's items and an item popped stood first; the consumer's search from band 3 downwards stops at the
highest band that is not empty; and what raising an event or counting a fault does to the struck places of the rings (R470, R472). -/

namespace Sys2Proof.Machine

/-! ## The pointers of a band (R193) -/

theorem Band.occ_of_absent {b : Band} (h : b.present = false) : b.occ = 0 := if_neg (by simp [h])

theorem Band.occ_eq {b : Band} (h : b.present = true) :
    b.occ = (b.wr + 2 ^ (b.log2 + 1) - b.rd % 2 ^ (b.log2 + 1)) % 2 ^ (b.log2 + 1) := if_pos h

theorem Band.present_of_occ_ne_zero {b : Band} (h : b.occ ≠ 0) : b.present = true :=
  Bool.of_not_eq_false fun hp => h (Band.occ_of_absent hp)

theorem Band.occ_lt {b : Band} (h : b.present = true) : b.occ < 2 ^ (b.log2 + 1) := by
  rw [Band.occ_eq h]
  exact Nat.mod_lt _ (Nat.two_pow_pos _)

/-- A present band that passes its check holds at most what its ring has room for (R194). -/
theorem Band.occ_le_of_not_bad {b : Band} (hp : b.present = true) (hb : b.bad = false) : b.occ ≤ 2 ^ b.log2 := by
  simp only [Band.bad, hp, Bool.true_and, Bool.or_eq_false_iff, decide_eq_false_iff_not] at hb
  exact Nat.le_of_not_lt hb.2

/-- Numbers below a modulus that lead from one place to the same place are the same. -/
theorem eq_of_add_mod_eq {a m n k : Nat} (hm : m < k) (hn : n < k) (h : (a + m) % k = (a + n) % k) : m = n := by
  have hle {m n : Nat} (hm : m < k) (h : (a + m) % k = (a + n) % k) : m ≤ n := by
    have hzero : (a + m - (a + n)) % k = 0 := Nat.sub_mod_eq_zero_of_mod_eq h
    rw [Nat.add_sub_add_left, Nat.mod_eq_of_lt (Nat.lt_of_le_of_lt (Nat.sub_le m n) hm)] at hzero
    exact Nat.le_of_sub_eq_zero hzero
  exact Nat.le_antisymm (hle hm h) (hle hn h.symm)

/-- Pointers that agree modulo twice the size of the ring name one place of it. -/
theorem mod_ringSize_congr {k m n : Nat} (h : m % 2 ^ (k + 1) = n % 2 ^ (k + 1)) : m % 2 ^ k = n % 2 ^ k := by
  have hdvd : 2 ^ k ∣ 2 ^ (k + 1) := Nat.pow_dvd_pow 2 (Nat.le_succ k)
  rw [← Nat.mod_mod_of_dvd m hdvd, h, Nat.mod_mod_of_dvd n hdvd]

/-- Modulo twice the size of the ring, the write pointer is the read pointer and the occupancy. -/
theorem Band.wr_mod {b : Band} (h : b.present = true) :
    b.wr % 2 ^ (b.log2 + 1) = (b.rd + b.occ) % 2 ^ (b.log2 + 1) := by
  have hlt : b.rd % 2 ^ (b.log2 + 1) < 2 ^ (b.log2 + 1) := Nat.mod_lt _ (Nat.two_pow_pos _)
  have hsum : b.rd % 2 ^ (b.log2 + 1) + (b.wr + 2 ^ (b.log2 + 1) - b.rd % 2 ^ (b.log2 + 1)) = b.wr + 2 ^ (b.log2 + 1) := by omega
  rw [Band.occ_eq h, Nat.add_mod_mod, ← Nat.mod_add_mod, hsum, Nat.add_mod_right]

/-- The occupancy is the one number below twice the size of the ring that leads from the read pointer to the write pointer. -/
theorem Band.occ_unique {b : Band} (hp : b.present = true) {n : Nat} (hn : n < 2 ^ (b.log2 + 1))
    (h : b.wr % 2 ^ (b.log2 + 1) = (b.rd + n) % 2 ^ (b.log2 + 1)) : b.occ = n :=
  eq_of_add_mod_eq (Band.occ_lt hp) hn ((Band.wr_mod hp).symm.trans h)

theorem Band.occ_push {b : Band} (hp : b.present = true) (hroom : b.occ < 2 ^ b.log2) : b.push.occ = b.occ + 1 := by
  have hlt : b.occ + 1 < 2 ^ (b.log2 + 1) := by
    rw [Nat.pow_succ]
    omega
  have hend : (b.wr + 1) % 2 ^ (b.log2 + 1) = (b.rd + (b.occ + 1)) % 2 ^ (b.log2 + 1) := by
    rw [← Nat.mod_add_mod, Band.wr_mod hp, Nat.mod_add_mod, Nat.add_assoc]
  exact Band.occ_unique (b := b.push) hp hlt ((Nat.mod_mod _ _).trans hend)

theorem Band.occ_pop {b : Band} (hp : b.present = true) {n : Nat} (hocc : b.occ = n + 1) : b.pop.occ = n := by
  have hlt : n < 2 ^ (b.log2 + 1) := by
    have := Band.occ_lt hp
    omega
  have hend : b.wr % 2 ^ (b.log2 + 1) = ((b.rd + 1) % 2 ^ (b.log2 + 1) + n) % 2 ^ (b.log2 + 1) := by
    rw [Band.wr_mod hp, hocc, Nat.mod_add_mod, Nat.add_assoc, Nat.add_comm n]
  exact Band.occ_unique (b := b.pop) hp hlt hend

/-! ## The items of a band -/

/-- The item at the read pointer of a band. -/
def ringItem (s : State) (b : Band) : Nat := Map.getD s.queue.ram (b.base + b.rd % 2 ^ b.log2) 0

/-- An item written at the write pointer of a band with room stands behind those that the band holds: no place of theirs is written. -/
theorem bandItems_push {s t : State} {b : Band} {item : Nat} (hp : b.present = true) (hroom : b.occ < 2 ^ b.log2)
    (hram : t.queue.ram = Map.put s.queue.ram (b.base + b.wr % 2 ^ b.log2) item 0) :
    bandItems t b.push = bandItems s b ++ [item] := by
  have hend : b.wr % 2 ^ b.log2 = (b.rd + b.occ) % 2 ^ b.log2 := mod_ringSize_congr (Band.wr_mod hp)
  unfold bandItems
  rw [Band.occ_push hp hroom, List.range_succ, List.map_append, hram, hend]
  congr 1
  · refine List.map_congr_left fun i hi => Map.getD_put_ne _ _ _ _ _ _ fun heq => ?_
    have hlt : i < b.occ := List.mem_range.1 hi
    exact Nat.ne_of_lt hlt (eq_of_add_mod_eq (Nat.lt_trans hlt hroom) hroom (Nat.add_left_cancel heq))
  · exact congrArg (fun x => [x]) ((Map.getD_put _ _ _ _ _).trans (if_pos rfl))

/-- The item at the read pointer of a band that is not empty stands before the others. -/
theorem bandItems_pop {s t : State} {b : Band} (hne : b.occ ≠ 0) (hram : t.queue.ram = s.queue.ram) :
    bandItems s b = ringItem s b :: bandItems t b.pop := by
  obtain ⟨n, hn⟩ := Nat.exists_eq_succ_of_ne_zero hne
  unfold bandItems
  rw [Band.occ_pop (Band.present_of_occ_ne_zero hne) hn, hn, List.range_succ_eq_map, List.map_cons, List.map_map, hram]
  congr 1
  refine List.map_congr_left fun i _ => ?_
  have hplace : (b.rd + (i + 1)) % 2 ^ b.log2 = ((b.rd + 1) % 2 ^ (b.log2 + 1) + i) % 2 ^ b.log2 := by
    refine mod_ringSize_congr ?_
    rw [Nat.mod_add_mod, Nat.add_assoc, Nat.add_comm i]
  exact congrArg (fun k => Map.getD s.queue.ram (b.base + k) 0) hplace

theorem head?_bandItems {s : State} {b : Band} (hne : b.occ ≠ 0) : (bandItems s b).head? = some (ringItem s b) := by
  rw [bandItems_pop (t := s) hne rfl, List.head?_cons]

/-! ## The band that the consumer takes from (R191) -/

/-- An absent band is passed as an empty one is. -/
theorem pickBand_cons (bands : List Band) (i : Nat) (is : List Nat) :
    pickBand bands (i :: is) =
      if (bands.getD i noBand).bad then some (i, true)
      else if (bands.getD i noBand).occ = 0 then pickBand bands is
      else some (i, false) := by
  rw [pickBand]
  generalize bands.getD i noBand = b
  cases hp : b.present
  · simp [Band.bad, hp, Band.occ_of_absent hp]
  · simp

theorem occ_of_pickBand_eq_none {bands : List Band} {l : List Nat} (h : pickBand bands l = none) :
    ∀ k ∈ l, (bands.getD k noBand).occ = 0 := by
  induction l with
  | nil => exact fun _ hk => nomatch hk
  | cons i is ih =>
    rw [pickBand_cons] at h
    split at h
    · cases h
    · split at h
      · next hi => exact List.forall_mem_cons.2 ⟨hi, ih h⟩
      · cases h

/-- The search passes no band that holds an item. -/
theorem pickBand_eq_some {bands : List Band} {l : List Nat} {b : Nat} (hl : l.Pairwise (· > ·))
    (h : pickBand bands l = some (b, false)) :
    b ∈ l ∧ (bands.getD b noBand).occ ≠ 0 ∧ ∀ k ∈ l, b < k → (bands.getD k noBand).occ = 0 := by
  induction l with
  | nil => cases h
  | cons i is ih =>
    obtain ⟨hi, his⟩ := List.pairwise_cons.1 hl
    rw [pickBand_cons] at h
    split at h
    · cases h
    · split at h
      · next hempty =>
        obtain ⟨hmem, hne, hpassed⟩ := ih his h
        exact ⟨List.mem_cons_of_mem i hmem, hne, List.forall_mem_cons.2 ⟨fun _ => hempty, hpassed⟩⟩
      · next hne =>
        cases h
        exact ⟨List.mem_cons_self, hne, List.forall_mem_cons.2
          ⟨fun h => absurd h (Nat.lt_irrefl _), fun k hk h => absurd h (Nat.lt_asymm (hi k hk))⟩⟩

/-! ## The head of a queue, and its two accesses -/

/-- The bands that the consumer looks at, in its order. -/
theorem mem_bandOrder {k : Nat} : k ∈ [3, 2, 1, 0] ↔ k < 4 := by
  simp only [List.mem_cons, List.not_mem_nil, or_false]
  omega

/-- The head of a queue is the item at the read pointer of a band that is not empty, with every band above it empty. -/
theorem peekQ_eq_item {s : State} {q i b : Nat} (h : peekQ s q = .item i b) :
    b < 4 ∧ ((getQ s q).bands.getD b noBand).occ ≠ 0 ∧ ringItem s ((getQ s q).bands.getD b noBand) = i ∧
      ∀ k, b < k → k < 4 → ((getQ s q).bands.getD k noBand).occ = 0 := by
  unfold peekQ at h
  dsimp only at h
  split at h
  · cases h
  · cases h
  · next b' hpick =>
    cases h
    obtain ⟨hmem, hne, hpassed⟩ := pickBand_eq_some (by decide) hpick
    exact ⟨mem_bandOrder.1 hmem, hne, rfl, fun k hk h4 => hpassed k (mem_bandOrder.2 h4) hk⟩

theorem occ_of_peekQ_eq_empty {s : State} {q : Nat} (h : peekQ s q = .empty) :
    ∀ k < 4, ((getQ s q).bands.getD k noBand).occ = 0 := by
  unfold peekQ at h
  dsimp only at h
  split at h
  · next hpick => exact fun k hk => occ_of_pickBand_eq_none hpick k (mem_bandOrder.2 hk)
  · cases h
  · cases h

theorem getQ_setQ (s : State) (q : Nat) (d : Queue) : getQ (setQ s q d) q = d :=
  (Map.getD_put _ _ _ _ _).trans (if_pos rfl)

theorem getD_modAt {α : Type} {l : List α} {i : Nat} (f : α → α) (d : α) (h : i < l.length) :
    (modAt l i f).getD i d = f (l.getD i d) := by
  simp only [List.getD_eq_getElem?_getD, modAt_getElem?, if_true, List.getElem?_eq_getElem h, Option.map_some, Option.getD_some]

/-- An item is written only to a present band with room, at its write pointer; the band alone counts it in. -/
theorem enqueueRaw_eq_written {s t : State} {q band item : Nat} {b : Band} (hb : (getQ s q).bands.getD band noBand = b)
    (h : enqueueRaw s q band item = (t, .written)) :
    b.present = true ∧ b.occ < 2 ^ b.log2 ∧
      (getQ t q).bands = modAt (getQ s q).bands band Band.push ∧
      t.queue.ram = Map.put s.queue.ram (b.base + b.wr % 2 ^ b.log2) item 0 := by
  unfold enqueueRaw at h
  dsimp only at h
  rw [hb] at h
  split at h
  · cases h
  · next hopen =>
    split at h
    · cases h
    · next hgood =>
      split at h
      · cases h
      · next hfull =>
        cases h
        have hp : b.present = true := by
          simp only [Bool.or_eq_true, Bool.not_eq_true', not_or, Bool.not_eq_false] at hopen
          exact hopen.2
        have hle : b.occ ≤ 2 ^ b.log2 := Band.occ_le_of_not_bad hp (by simpa using hgood)
        exact ⟨hp, Nat.lt_of_le_of_ne hle (by simpa using hfull), by rw [getQ_setQ], rfl⟩

/-- A dequeue takes what stands at the head of the queue; the band alone counts it out. -/
theorem dequeueRaw_eq_item {s t : State} {q i b : Nat} (h : dequeueRaw s q = (t, .item i b)) :
    peekQ s q = .item i b ∧ (getQ t q).bands = modAt (getQ s q).bands b Band.pop ∧ t.queue.ram = s.queue.ram := by
  unfold dequeueRaw at h
  split at h
  · next hpeek =>
    cases h
    exact ⟨hpeek, by rw [getQ_setQ], rfl⟩
  · next hother => exact absurd (Prod.mk.inj h).2 (hother i b)

/-! ## The struck places of the rings (R470, R472; log 178) -/

theorem traceRaw_queue (s : State) (type ts body : Nat) : (traceRaw s type ts body).1.queue = s.queue := by
  unfold traceRaw
  dsimp only
  split
  · rfl
  · split <;> split <;> rfl

@[simp] theorem setQ_struck (s : State) (q : Nat) (d : Queue) : (setQ s q d).queue.struck = s.queue.struck := rfl

theorem judgeLevel_struck (s : State) (q : Nat) : (judgeLevel s q).1.queue.struck = s.queue.struck := by
  unfold judgeLevel
  dsimp only
  split
  · split <;> rfl
  · split <;> rfl

theorem dequeueRaw_struck (s : State) (q : Nat) : (dequeueRaw s q).1.queue.struck = s.queue.struck := by
  unfold dequeueRaw
  split <;> rfl

theorem resetRaw_struck (s : State) (q : Nat) (flush : Bool) : (resetRaw s q flush).queue.struck = s.queue.struck := by
  have hcounted (t : State) : (if flush then bump t QUEUE_RESETS.FLUSHES 1 else bump t QUEUE_RESETS.MISMATCH 1).queue = t.queue := by
    cases flush <;> rfl
  unfold resetRaw
  dsimp only
  rw [hcounted, wr_queue, wrB_queue, bump_queue, setQ_struck]
  split
  · split
    · rfl
    · split <;> rfl
  · rfl

/-- A written place is struck no more; no other place changes. -/
theorem enqueueRaw_struck_subset (s : State) (q band item : Nat) : (enqueueRaw s q band item).1.queue.struck ⊆ s.queue.struck := by
  unfold enqueueRaw
  dsimp only
  split
  · exact List.Subset.refl _
  · split
    · exact List.Subset.refl _
    · split
      · exact List.Subset.refl _
      · exact List.filter_sublist.subset

theorem offerNotice_struck_subset (s : State) (q band item : Nat) :
    (offerNotice s q band item).1.queue.struck ⊆ s.queue.struck := by
  have h := enqueueRaw_struck_subset s q band item
  unfold offerNotice
  split
  · exact List.Subset.refl _
  · split
    · next heq =>
      rw [heq] at h
      dsimp only
      rwa [judgeLevel_struck]
    · next heq =>
      rw [heq] at h
      exact h
    · next heq =>
      rw [heq] at h
      dsimp only
      rwa [resetRaw_struck]

theorem raiseOne_struck_subset (s : State) (f : Field) (arg : Nat) : (raiseOne s f arg).1.queue.struck ⊆ s.queue.struck := by
  unfold raiseOne
  dsimp only
  split
  · exact List.Subset.refl _
  · split
    · split <;> simp [traceRaw_queue]
    · refine List.Subset.trans (offerNotice_struck_subset _ _ _ _) ?_
      simp [traceRaw_queue]

theorem raiseAll_struck_subset (n : Nat) (s : State) (l : List EventReq) : (raiseAll n s l).queue.struck ⊆ s.queue.struck := by
  induction n generalizing s l with
  | zero => exact List.Subset.refl _
  | succ n ih =>
    cases l with
    | nil => exact List.Subset.refl _
    | cons r rest =>
      obtain ⟨f, arg⟩ := r
      unfold raiseAll
      split
      · exact ih s rest
      · exact List.Subset.trans (ih _ _) (raiseOne_struck_subset s f arg)

/-- Raising an event strikes no place: the notice that it writes can only clear one. -/
theorem raise_struck_subset (s : State) (f : Field) (arg : Nat) : (raise s f arg).queue.struck ⊆ s.queue.struck :=
  raiseAll_struck_subset 16 s [(f, arg)]

theorem trace_struck_subset (s : State) (type ts body : Nat) : (trace s type ts body).queue.struck ⊆ s.queue.struck := by
  have h : (traceRaw s type ts body).1.queue.struck ⊆ s.queue.struck := by rw [traceRaw_queue]; exact List.Subset.refl _
  unfold trace
  dsimp only
  split
  · exact List.Subset.trans (raise_struck_subset _ _ _) h
  · exact h

/-- Counting a fault that lies in no HBM channel strikes no place. -/
theorem faultFound_struck_subset (s : State) (c : Nat) (lasting : Bool) (location : Nat) :
    (faultFound s c lasting location none).queue.struck ⊆ s.queue.struck := by
  cases lasting
  · refine List.Subset.trans (trace_struck_subset _ _ _ _) ?_
    simp only [Bool.false_eq_true, if_false, count_queue]
    split <;> exact List.Subset.refl _
  · refine List.Subset.trans (raise_struck_subset _ _ _) (List.Subset.trans (trace_struck_subset _ _ _ _) ?_)
    simp only [if_true, count_queue]
    split <;> exact List.Subset.refl _

/-! ## The check of an item taken (R472) -/

theorem checkItem_of_sound {s : State} {place : Nat} (i band : Nat) (h : s.queue.struck.find? (·.1 == place) = none) :
    checkItem s place i band = (s, .item i band) := by
  simp [checkItem, h]

theorem checkItem_of_struck {s : State} {place p : Nat} {lasting : Bool} (i band : Nat)
    (h : s.queue.struck.find? (·.1 == place) = some (p, lasting)) :
    checkItem s place i band =
      (faultFound { s with queue.struck := s.queue.struck.filter fun y => y.1 != place } 1 lasting (64 * place) none,
        if lasting then .discarded i band else .item i band) := by
  simp [checkItem, h]

/-- The place of an item that failed its check is struck no more. -/
theorem checkItem_struck_ne {s : State} {place p : Nat} {lasting : Bool} (i band : Nat)
    (h : s.queue.struck.find? (·.1 == place) = some (p, lasting)) :
    ∀ x ∈ (checkItem s place i band).1.queue.struck, x.1 ≠ place := by
  rw [checkItem_of_struck i band h]
  intro x hx
  have hmem : x ∈ s.queue.struck.filter fun y => y.1 != place := faultFound_struck_subset _ _ _ _ hx
  simpa using (List.mem_filter.1 hmem).2

theorem dequeueRaw_of_peekQ {s : State} {q i b : Nat} (h : peekQ s q = .item i b) : (dequeueRaw s q).2 = .item i b := by
  simp [dequeueRaw, h]

/-- A dequeue that crosses no level is the head item taken and checked. -/
theorem dequeue_eq_checkItem {s : State} {q i b : Nat} (hon : hubOn s = true) (hpeek : peekQ s q = .item i b)
    (hlevel : (judgeLevel (dequeueRaw s q).1 q).2 = false) :
    dequeue s q = checkItem (judgeLevel (dequeueRaw s q).1 q).1 (ringPlace s q b 0) i b := by
  have hraw : dequeueRaw s q = ((dequeueRaw s q).1, .item i b) := Prod.ext rfl (dequeueRaw_of_peekQ hpeek)
  unfold dequeue
  rw [hon, hraw]
  dsimp only
  rw [hlevel]
  rfl

end Sys2Proof.Machine

namespace Sys2Proof.Proofs

open Sys2Proof.Machine

/-- Settles O28: the search stops at the highest band that holds an item, whose oldest stands at the read pointer; a push appends to
the band's items and a pop removes the first; and the check of the item taken alone decides whether the consumer gets it. -/
theorem bandsAreFirstInFirstOut : Obligations.BandsAreFirstInFirstOut := by
  unfold Obligations.BandsAreFirstInFirstOut
  refine ⟨fun s q i b hpeek => ?head, fun s q => occ_of_peekQ_eq_empty, fun s t q band item hband hwritten => ?written,
    fun s t q i b hband htaken => ?taken, fun s q i b hon hpeek hlevel => ?checked⟩
  case head =>
    obtain ⟨hb, hne, hitem, habove⟩ := peekQ_eq_item hpeek
    exact ⟨hb, hitem ▸ head?_bandItems hne, habove⟩
  case written =>
    obtain ⟨hpresent, hroom, hbands, hram⟩ := enqueueRaw_eq_written rfl hwritten
    rw [hbands, getD_modAt _ _ hband]
    exact bandItems_push hpresent hroom hram
  case taken =>
    obtain ⟨hpeek, hbands, hram⟩ := dequeueRaw_eq_item htaken
    obtain ⟨-, hne, hitem, -⟩ := peekQ_eq_item hpeek
    rw [hbands, getD_modAt _ _ hband, ← hitem]
    exact bandItems_pop hne hram
  case checked =>
    rw [dequeue_eq_checkItem hon hpeek hlevel, ← dequeueRaw_struck s q, ← judgeLevel_struck (dequeueRaw s q).1 q]
    exact ⟨fun hsound => by rw [checkItem_of_sound i b hsound],
      fun p lasting hstruck => ⟨by rw [checkItem_of_struck i b hstruck], checkItem_struck_ne i b hstruck⟩⟩

end Sys2Proof.Proofs
end
